-- ==== Sys2Proof/Word.lean ====
section
/-!
DEFINITION. The word types of the Mionar: every register is 32 bits wide (R16); memory is addressed in bytes (R479).
-/
namespace Sys2Proof

/-- A register word, 32 bits, little-endian (R16). -/
abbrev Word := BitVec 32

/-- One byte of memory. -/
abbrev Byte := BitVec 8

end Sys2Proof
end

