-- ==== Sys2Proof/Syntax/Types.lean ====
section
/-!
DEFINITION. The types of command operands, shared with the state: numbered parts, roles, modes and what an event reports.
Indices of a fixed number of like parts are Fin, so that an operand can name no part the spec does not have (R9, R10, R11).
-/
namespace Sys2Proof

/-- Lane L0 to L4 (R10). -/
abbrev LaneIx := Fin 5
/-- Servo engine S0 to S4 (R10). -/
abbrev EngIx := Fin 5
/-- Actuator A0 to A3 (R9). -/
abbrev ActIx := Fin 4
/-- Head, surface or member H0 to H23 (R9). -/
abbrev HeadIx := Fin 24
/-- Core in the numbering of R414: X0-X11, Y0-Y11, Z0-Z11. -/
abbrev CoreIx := Fin 36
/-- FLT source 0 to 639 (R414). -/
abbrev SrcIx := Fin 640
/-- Power domain index (R447). -/
abbrev DomIx := Fin 25
/-- DMA channel. -/
abbrev ChanIx := Fin 64

/-- Role of a core in FLT_CORE_MAP (R35), in the order of its codes. -/
inductive Role where
  | resident
  | hook
  | spare
  | failed
  deriving DecidableEq, Repr

/-- State of a power domain (R447), in the order of the codes of PWR_DOMd. -/
inductive DomState where
  | on
  | retain
  | off
  deriving DecidableEq, Repr

/-- Reaction rung of FLT (R416), in the order of its codes. -/
inductive Rung where
  | int
  | nmi
  | blk
  | chip
  deriving DecidableEq, Repr

/-- A register block of the address map (R479). -/
inductive Blk where
  | flt
  | stc
  | dma
  | hqm
  | pwr
  | clk
  | lane (l : LaneIx)
  | srv (e : EngIx)
  | spn
  | yck
  | spe
  | hif
  | cap
  deriving DecidableEq, Repr

/-- Who makes an access: a core, the NVMe-MI endpoint or an engine (R484). -/
inductive Requester where
  | core (c : CoreIx)
  | mi
  | engine (n : Nat)
  deriving DecidableEq, Repr

/-- One access to the address map: who makes it, where, how many bytes, and the word it writes, or a read (R16, R480, R483). -/
structure Access where
  who : Requester
  addr : Nat
  bytes : Nat
  write : Option Word
  deriving DecidableEq, Repr

/-- The outcome of the power-on self-test's steps (R298, R299): what the tests found. -/
structure PostFindings where
  /-- step 1: the ROM CRC matches -/
  romCrcOk : Bool
  /-- cores that fail their start self-check or the lockstep check (steps 1 and 5) -/
  coresFailed : BitVec 36
  /-- some core of cluster X passes its start self-check -/
  bootCorePasses : Bool
  /-- the core that ran the boot ROM -/
  bootCore : CoreIx
  /-- step 2: failing rows of each of the 10 SRAM regions of R414 -/
  badRows : Vector Nat 10
  /-- step 3: the image of slot 1 and slot 2 verifies -/
  slotOk : Vector Bool 2
  /-- step 4: lanes whose control stores cannot be repaired -/
  storeBad : BitVec 5
  /-- step 6: RLD-A and RLD-B train, with equal capacity -/
  rldTrained : Vector Bool 2
  /-- step 7: lanes and servo engines that fail the loopback -/
  lanesFailed : BitVec 5
  enginesFailed : BitVec 5
  /-- step 8: every SPG pad reads back, and the rest of the pad test passes -/
  padsOk : Bool
  /-- step 8: lockstep mismatches of the spindle engines seen, before and after the one re-seed -/
  spindleMismatches : Nat
  /-- the switch of the boot flash to 8D-8D-8D succeeded (R500) -/
  flashOctal : Bool
  /-- POST time in ms (R381) -/
  timeMs : Nat
  deriving DecidableEq, Repr

/-! ### Faults -/

/-- A corrected SRAM error the patrol found (R429): SRAM region of R414 and row. -/
structure CorrectedRow where
  region : Fin 10
  row : Nat
  deriving DecidableEq, Repr

/-- What an uncorrectable SRAM word held (R425, R430). -/
inductive SramWord where
  /-- the SAB -/
  | sab
  /-- a lane's buffer; the sector is pinned in a hold slot or not -/
  | laneBuffer (l : LaneIx) (pinned : Bool)
  /-- a core's TCM -/
  | tcm (c : CoreIx)
  /-- a clean line of a cluster's L2 -/
  | l2Clean (cluster : Fin 3)
  /-- a dirty line of a cluster's L2, last written by a core -/
  | l2Dirty (cluster : Fin 3) (c : CoreIx)
  /-- the tag array of a cluster's L2 -/
  | l2Tag (cluster : Fin 3)
  /-- the metadata cache -/
  | metadata
  /-- the storage of an HQM ring, in a region: a packet of the ring, counted from its head (R412) -/
  | ringStorage (region : Fin 10) (ring : Fin 16384) (packet : Nat)
  deriving DecidableEq, Repr

/-- Why a lane fails (R426): spare words used up, sequencer faults, an uncorrectable buffer error with no spare row, the loopback. -/
inductive LaneCause where
  | sparesOut
  | seqFaults
  | buffer
  | loopback
  deriving DecidableEq, Repr

/-- Where a warm reset stands (R421): steps 1 and 2, then steps 3 to 6. -/
inductive WarmStage where
  | enter
  /-- steps 3 to 6: shadow pages whose hash fails, and whether either firmware slot passes its check (R422) -/
  | leave (pages : Nat) (slotOk : Vector Bool 2)
  deriving DecidableEq, Repr

/-! ### Spindle -/

/-- Direction of the rotor, in the order of SPN_SPEED's codes (R88). -/
inductive Rotation where
  | still
  | forward
  | backward
  deriving DecidableEq, Repr

/-- What the spindle engines see at one decision (R63, R66, R67, R69, R75, R81): samples, speed, comparator. -/
structure SpnSample where
  /-- shunt samples of the period that ends, in mA: instants A and B -/
  shuntA : Int
  shuntB : Int
  /-- average shunt current of that period, in mA -/
  average : Int
  /-- the sensed supply of that period, in mV -/
  supply : Nat
  /-- speed in 1/4 rpm and direction -/
  speedQ : Nat
  dir : Rotation
  /-- the speed the start estimator commands, in 1/4 rpm: the spec gives no acceleration profile -/
  commanded : Nat
  /-- the observer's correction of its angle in this decision, 19,200,000 to the electrical revolution: the spec gives no tracking law -/
  track : Int
  /-- the two engines' gate outputs or signatures differ (R81) -/
  mismatch : Bool
  /-- an expected crossing on the floating phase, or one that a catch predicts, did not come (R72, R75, R509) -/
  missing : Bool
  deriving DecidableEq, Repr

/-- One back-EMF zero crossing (R70, R72): which of the six it is, U, W, V, U, W, V in forward order from 0 degrees, and the time since
the crossing before it in us. -/
structure Crossing where
  at6 : Fin 6
  us : Nat
  deriving DecidableEq, Repr

/-! ### Servo -/

/-- What the analog side gives a servo engine at one wedge (R119, R120, R122), and what its checks of itself find (R129, R141). -/
structure WedgeRead where
  /-- where a SAM was found, in servo bits from its predicted place; none where none was found -/
  sam : Option Int
  /-- the wedge number and the track ID read, and whether the track ID is a valid one -/
  wedge : Fin 1024
  trackId : Nat
  idOk : Bool
  /-- the fewest transitions found in any burst -/
  transitions : Nat
  /-- mean transition times of the bursts A to D, in 1/64 servo bit -/
  tA : Int
  tB : Int
  tC : Int
  tD : Int
  /-- the RRO field: [11:0] the correction, [12] and [13] the parity bits of its low and high half -/
  rro : BitVec 14
  /-- a corrected error of a bank or register -/
  eccCorr : Bool
  /-- the residue check failed, an uncorrectable error hit the active bank or a register, or step 5 missed its time -/
  engineBad : Bool
  /-- time of step 5 in ns -/
  step5 : Nat
  deriving DecidableEq, Repr

/-- One reading of an accelerometer, in 1/1,024 g (R135). -/
structure AccelRead where
  tangential : Int
  radial : Int
  axial : Int
  deriving DecidableEq, Repr

/-! ### Yarn clock -/

/-- What a yarn head's front end, PLL and index search show (R93): an amplitude in mV for so many consecutive periods, a phase error in
1/256 period for so many, and how many revolutions in a row the index mark has been missed on. -/
inductive YarnSign where
  | amplitude (mv periods : Nat)
  | phase (err : Int) (periods : Nat)
  | index (misses : Nat)
  deriving DecidableEq, Repr

/-! ### Read path -/

/-- What the lane measured of one reader over a sector (R175, R178). -/
structure ReaderStat where
  /-- mean |sample| in 1/4 LSB -/
  mean : Nat
  /-- samples at a rail -/
  clipped : Nat
  deriving DecidableEq, Repr

/-- The source of a media read, which sets its ceiling (R205): a host read with Limited Retry clear or set, read-ahead, scrub or Fixity
Digest, rebuild or reconstruction of another member, metadata bands at cast-on, and refuge band or protected log. -/
inductive ReadSource where
  | host (limited : Bool)
  | readAhead
  | scrub
  | rebuild
  | castOn
  | refuge
  deriving DecidableEq, Repr

/-- The end of one decode attempt of a sector (R111, R197, R200, R207). -/
structure DecodeResult where
  output : Fin 3
  slot : Fin 4096
  /-- the sync detector's Hamming distances, by distance from P (R108) -/
  sync : List (Int × Nat)
  /-- unsatisfied checks after each iteration, by the neighbours whose bits its pass knew: bit 0 the outward one, bit 1 the inward one
  (R196, R197) -/
  checks : Vector (List Nat) 4
  /-- the decoded sector ID, and whether the PI guard and reference tag verify or the PI field is zero (R200) -/
  id : BitVec 64
  piOk : Bool
  /-- mean phase error in 1/64 bit (R106) -/
  phaseErr : Int
  /-- the samples are about to be overwritten (R184) -/
  expiring : Bool
  /-- a tap reached its limit (R179) -/
  tapLimit : Bool
  /-- readers of the sector, measured at a first attempt -/
  readers : Vector ReaderStat 4
  deriving DecidableEq, Repr

/-- The end of a verify decode (R162, R163, R214). -/
structure VerifyResult where
  slot : Fin 4096
  /-- the sync detector's Hamming distances, by distance from P -/
  sync : List (Int × Nat)
  /-- unsatisfied checks after each iteration -/
  checks : List Nat
  id : BitVec 64
  piOk : Bool
  mean : Nat
  /-- a next-revolution re-read (R163) -/
  reread : Bool
  deriving DecidableEq, Repr

/-- One sector of a retry revolution (R210), named by slot and output: the alignment taken less P where its first attempt or its rung 1
recovered it, and its phase error. -/
structure SectorTry where
  slot : Fin 4096
  output : Fin 3
  dev : Option Int
  phaseErr : Int
  deriving DecidableEq, Repr

/-- A deep decoder's attempts at one request (R209): which of the three succeeds first, and the phase error at its alignment. -/
structure DeepResult where
  /-- unsatisfied checks after each iteration of each attempt -/
  checks : List (List Nat)
  id : BitVec 64
  piOk : Bool
  phaseErr : Int
  deriving DecidableEq, Repr

/-- What rung 4 read of one selvage group (R211, R212). -/
structure SelvageTry where
  /-- the output whose track holds the group, and the group of that track -/
  output : Fin 3
  group : Nat
  /-- the group's sectors in slot order, selvage last: the payload, or none for an erasure -/
  sectors : List (Option (List (BitVec 8)))
  /-- the namespace format carries PI; every recovered sector passes guard and reference tag -/
  hasPi : Bool
  piPass : Bool
  deriving DecidableEq, Repr

/-- What the Row sequencer sees in one symbol beside its own state (R219, R223). -/
structure RowSymbol where
  /-- the symbol's number in the revolution (R217) -/
  sym : Nat
  /-- outputs with a detection in their window, and outputs whose window has closed (R223) -/
  found : Fin 8
  closed : Fin 8
  /-- the sector buffer has room for a sector per output; a complete write sector waits (R185) -/
  rdRoom : Bool
  wrAvail : Bool
  /-- the sector fetched in this symbol passes its PI recheck (R186) -/
  encPass : Bool
  deriving DecidableEq, Repr

/-- What a read run meets at one slot (R226, R237): the outputs on which the sync mark was detected, no room in the sector buffer,
or the abort trap. -/
inductive ReadSlot where
  | read (found : Fin 8)
  | noRoom
  | aborted
  deriving DecidableEq, Repr

/-- What a write run meets at one slot (R186, R226, R237). -/
inductive WriteSlot where
  | written
  | piFailed
  | noData
  | guarded
  | paFault
  | aborted
  deriving DecidableEq, Repr

/-- A parity error in a fetched word of the Pattern engine's ROM or darn RAM: its address and the halves that failed (R240). -/
structure PatParity where
  rom : Bool
  addr : Fin 16384
  halves : Fin 4
  deriving DecidableEq, Repr

/-- What comes to the start of an operation beside its descriptor: the source of the read, whether the lane's previous operation ended
less than one revolution earlier (R179), and the parity error the engine meets. -/
structure PatStart where
  source : ReadSource
  soon : Bool
  parity : Option PatParity
  deriving DecidableEq, Repr

/-! ### Queues and the capture port -/

/-- A record of an enabled source for the capture port (R410). -/
inductive CapRecord where
  /-- lane samples: the readers, the MARK of the first sample, the packed codes -/
  | samples (l : LaneIx) (readers : Fin 16) (mark : Word) (codes : List Word)
  /-- the oldest trace or frame mark of a lane's Row sequencer, and the revolution count -/
  | row (l : LaneIx) (revs : Word)
  /-- a servo sample of an engine: its number -/
  | servo (e : EngIx) (sample : Word)
  deriving DecidableEq, Repr

/-- Why a burst ended in an error (R394): an uncorrectable word of SRAM or of an RLD channel, whose data the mirror copy of R40 may hold;
a PCIe completion with Unsupported Request or Completer Abort; a completion timeout. -/
inductive BurstCause where
  | sram
  | rld (chan : Fin 2) (mirrored : Bool)
  | completer
  | timeout
  deriving DecidableEq, Repr

/-- An inbound capture frame (R409): its header words, its body words, and whether the next CAP_FRM came before its end. -/
structure CapFrame where
  h0 : Word
  h1 : Word
  h2 : Word
  h3 : Word
  body : List Word
  cut : Bool
  deriving DecidableEq, Repr

/-! ### Host commands -/

/-- An NVMe controller: 0 is controller 1 on port 0, 1 is controller 2 on port 1 (R326). -/
abbrev CtlIx := Fin 2

/-- Statuses a completion carries (R302, R303, R342, R343, R346, R350, R353, R360, R368 to R377, R340, R341). -/
inductive Status where
  | success
  | invalidOpcode
  | invalidField
  | invalidNamespace
  | lbaOutOfRange
  | operationDenied
  | accessDenied
  | namespaceNotReady
  | abortRequested
  | compareFailure
  | guardError
  | refTagError
  | appTagError
  | zoneBoundary
  | zoneFull
  | zoneReadOnly
  | zoneOffline
  | zoneInvalidWrite
  | invalidZoneOperation
  | tooManyOpen
  | tooManyActive
  | insufficientCapacity
  | namespaceIdUnavailable
  | invalidFirmwareSlot
  | invalidFirmwareImage
  | firmwareMaxTime
  | selfTestInProgress
  | invalidQueue
  | lostStripe
  | memberFenced
  | timingRefused
  | reshapeConflict
  | salvageUnverified
  | safeState
  deriving DecidableEq, Repr

/-- One block as the host sends it: user data, application tag, whether its guard agrees with its data, its reference tag (R346). -/
structure HostBlock where
  data : Nat
  app : Fin 65536
  guardOk : Bool
  refTag : Nat
  deriving DecidableEq, Repr

/-- What the media showed of a command's blocks (R42, R264, R265): blocks whose own sector fails every rung below 5, by offset from
the first block, each with the number of further units of its row that fail at its offset; blocks whose reconstruction does not
verify; blocks whose frogged copy verifies for Salvage Read, with the data it gives (R289). -/
structure MediaFind where
  bad : List (Nat × Nat)
  unverified : List Nat
  salvaged : List (Nat × Nat)
  deriving DecidableEq, Repr

/-- Kinds of I/O command (R340). -/
inductive IoKind where
  | read
  | write
  | compare
  | writeZeroes
  | verify
  | append
  | zoneOpen
  | zoneClose
  | zoneFinish
  | zoneReset
  | fixity
  | salvage
  deriving DecidableEq, Repr

/-- An I/O command's operands: namespace, first LBA, number of blocks, the host's blocks, PRACT, PRCHK [1], LBAT and LBATM, Limited
Retry, Select All, zone mode and the algorithm of a digest, and what the media show. -/
structure IoCmd where
  kind : IoKind
  ns : Nat
  slba : Nat
  nlb : Nat
  data : List HostBlock
  pract : Bool
  checkApp : Bool
  lbat : Fin 65536
  lbatm : Fin 65536
  limitedRetry : Bool
  all : Bool
  zoneMode : Bool
  sha3 : Bool
  find : MediaFind
  deriving DecidableEq, Repr

/-- A command as HIF takes it from a submission queue (R354): admin or I/O, opcode, namespace, the LBAs it names and whether it
modifies them, and its 16 dwords. -/
structure RawCmd where
  admin : Bool
  opcode : Fin 256
  ns : Nat
  first : Nat
  count : Nat
  modify : Bool
  words : List Word
  deriving DecidableEq, Repr

/-- What the checks of a firmware image find (R352, R353, R369): both signatures verify against good keys, its security version,
its header asks to raise the floor, and the new image passes its start self-check. -/
structure ImageCheck where
  valid : Bool
  version : Nat
  raises : Bool
  starts : Bool
  deriving DecidableEq, Repr

/-- A TCG Opal method as Security Send carries it (R348, R350): credentials are proved outside the model. -/
inductive OpalMethod where
  | startSession (credentialsOk : Bool)
  | endSession
  | setRange (r : Fin 16) (ns start len : Nat)
  | setLocks (r : Fin 16) (rle wle rl wl : Bool)
  | genKey (r : Fin 16)
  | setDataStore (offset : Nat) (bytes : List Byte)
  | setMbr (enable done : Bool)
  | setMbrData (offset : Nat) (bytes : List Byte)
  | revert
  | psidRevert
  deriving DecidableEq, Repr

/-- What Namespace Management's create carries (R342): command set 0 or 2, the fields of its data structure, and the vendor bytes. -/
structure NsCreate where
  csi : Nat
  nsze : Nat
  ncap : Nat
  flbas : Nat
  dps : Nat
  nmic : Nat
  conv : Nat
  w : Nat
  c : Nat
  deriving DecidableEq, Repr

/-- An admin command that a controller takes from its queue, or the management endpoint tunnels (R340, R347). -/
inductive AdminCmd where
  /-- CNS, CSI, namespace, controller -/
  | identify (cns csi ns cntid : Nat)
  /-- log page, Retain Asynchronous Event, offset, bytes -/
  | getLogPage (lid : Nat) (rae : Bool) (offset bytes : Nat)
  /-- identifier, Save, dword 11, data -/
  | setFeatures (fid : Nat) (save : Bool) (v data : Nat)
  /-- identifier, Select, dword 11 -/
  | getFeatures (fid sel v : Nat)
  /-- offset and length in bytes -/
  | firmwareDownload (offset len : Nat)
  /-- commit action, slot (0: the drive chooses), and what the checks find -/
  | firmwareCommit (action slot : Nat) (image : ImageCheck)
  /-- STC: 1 short, 2 extended, 15 abort -/
  | selfTest (code : Nat)
  /-- namespace, LBA format, protection type, erase setting -/
  | formatNvm (ns lbaf pi ses : Nat)
  /-- a block erase before the crypto erase -/
  | sanitize (block : Bool)
  | securitySend (m : OpalMethod)
  /-- Level 0 Discovery, or the response of the session -/
  | securityReceive (discovery : Bool)
  | surfaceQuery (member : Nat)
  | recorderRead (group : Nat) (rewind : Bool)
  deriving DecidableEq, Repr

/-- An NVMe-MI command (R347). -/
inductive MiCmd where
  | readData (kind : Nat)
  | subsystemPoll
  | controllerPoll (cntid : Nat)
  | configSet (id v : Nat)
  | configGet (id : Nat)
  | vpdRead (offset len : Nat)
  | vpdWrite (offset : Nat) (bytes : List Byte)
  | reset
  deriving DecidableEq, Repr

/-- A request message to the management endpoint: an NVMe-MI command, or a tunnelled admin command (R347). -/
inductive MiRequest where
  | mi (c : MiCmd)
  | admin (k : AdminCmd)
  deriving DecidableEq, Repr

/-- A suspect trigger (R275), with the counts that firmware holds and the state does not. -/
inductive SuspectCause where
  | readerFailed (noneLeft : Bool)
  | rungThree
  | rungFive
  | grown
  | preampFaults
  | actuator
  deriving DecidableEq, Repr

/-- A fence trigger (R276). -/
inductive FenceCause where
  | noReader
  | preampRun
  | rungFive
  | headSwitches
  deriving DecidableEq, Repr

/-- Why an actuator may become unavailable (R277). -/
inductive ActCause where
  | loadFail
  | holdTimeout
  | linkCause (ms : Nat)
  deriving DecidableEq, Repr

/-- What becomes of the copy of a zone (R291, R294): it begins; its last row is written and verified; a block cannot be recovered; no
spare band supplies the extra tracks. -/
inductive CopyFind where
  | begin
  | done
  | lost (row : Nat) (offset : Fin 16)
  | noSpare
  deriving DecidableEq, Repr

/-- A finding of scrub on one row (R295). -/
inductive ScrubFind where
  | clean
  | late (pos : Fin 24) (offset : Fin 16)
  | mismatchPi
  | mismatchLocated (unit : Fin 24)
  | mismatchNoPi
  | lost (positions : BitVec 24) (offsets : BitVec 16)
  deriving DecidableEq, Repr

/-- How one slice ends (R288, R370, R371): a self-test segment with its verdict, a calibration of the member in SPE_CAL that is not
over, or is over with its verdict, or part of a requalification. -/
inductive SliceEnd where
  | selfTest (pass : Bool)
  | calStart
  | calDone (pass : Bool)
  | requal
  deriving DecidableEq, Repr

/-- What the journal merge finds at cast-on (R267, R313): the newest valid entry is a bind-off checkpoint; a gap; the highest seq. -/
structure MergeFind where
  clean : Bool
  gap : Bool
  highest : Nat
  deriving DecidableEq, Repr

/-- A table set of a surface (R104, R146, R167, R306): the rows of the zone descriptor
table, gauge rows by zone with the SRAM address each goes to, primary defects by zone, track and slot, and servo-defective wedges by zone,
track and wedge. -/
structure TableSet where
  zones : List (List (BitVec 8))
  gauge : List (Nat × Nat × List (BitVec 8))
  primary : List (Nat × Nat × Nat)
  servoBad : List (Nat × Nat × Nat)
  deriving DecidableEq, Repr

/-- What cast-on finds of a surface's tables (R306, R308): the media copies, each with its set version and whether every table in it passes its
CRC, and the factory set of boot flash. -/
structure SurfaceFind where
  surface : Fin 24
  copies : List (Nat × Bool × TableSet)
  factory : Option TableSet
  deriving DecidableEq, Repr

/-- A bring-up stage of cast-on (R307). -/
inductive CastonStage where
  /-- the heads load; the adaptation tables that firmware has placed in SRAM, by address -/
  | load (sram : List (Nat × List (BitVec 8)))
  /-- what is found of each surface's table set; the clock-track guard by surface, first and last track; runout tables
  and head records placed in SRAM -/
  | tables (sets : List SurfaceFind) (guard : Option (Nat × Nat × Nat)) (sram : List (Nat × List (BitVec 8)))
  /-- the bank swap -/
  | swap
  /-- the stages of R269: what the merge found, the lanes whose shares of the newest refuge set cannot be read, and blocks of it, by namespace
  and LBA, that fail their PI or entry CRC -/
  | journal (m : MergeFind) (unread : BitVec 5) (bad : List (Nat × Nat))
  deriving DecidableEq, Repr

end Sys2Proof
end

