-- ==== Sys2Proof/Syntax.lean ====
section
/-!
DEFINITION. The commands of the Mionar: one constructor per row of spec/opcode_table.json, in its order, with the operands the
rule of the row gives it. The table gives no row any bits, so every operand is one the text names.
-/
namespace Sys2Proof

inductive Instr where
  /-- REGISTER_WRITE (R19) -/
  | registerWrite (q : Requester) (a : Nat) (w : Word) (arriving : List SrcIx)
  /-- MISALIGNED_ACCESS (R16) -/
  | misalignedAccess (x : Access)
  /-- UNMAPPED_ACCESS (R480) -/
  | unmappedAccess (x : Access)
  /-- GATED_BLOCK_ACCESS (R483) -/
  | gatedBlockAccess (x : Access)
  /-- HOOK_VIOLATION (R28) -/
  | hookViolation (x : Access)
  /-- REG64_LOW_READ (R17) -/
  | reg64LowRead (q : Requester) (a : Nat)
  /-- REG64_HIGH_WRITE (R17) -/
  | reg64HighWrite (q : Requester) (a : Nat) (w : Word)
  /-- REG64_LOW_WRITE (R17) -/
  | reg64LowWrite (q : Requester) (a : Nat) (w : Word)
  /-- POWER_ON_RESET (R493) -/
  | powerOnReset (release : Bool) (straps : BitVec 7)
  /-- RESET_N_QUALIFIED (R52) -/
  | resetNQualified
  /-- RESET_N_RISE (R50) -/
  | resetNRise (straps : BitVec 7)
  /-- RAIL_OUT_OF_WINDOW (R490) -/
  | railOutOfWindow (r : Fin 7) (below : Bool) (above : Bool)
  /-- RAIL_BROWNOUT (R490) -/
  | railBrownout
  /-- RAIL_RESET_LEVEL (R490) -/
  | railResetLevel (r : Fin 7)
  /-- PWRFAIL_QUALIFIED (R316) -/
  | pwrfailQualified
  /-- REFUGE_WRITE (R318) -/
  | refugeWrite (l : LaneIx)
  /-- REFUGE_DONE (R320) -/
  | refugeDone (flashOk : Bool)
  /-- POWERLOSS_RECOVERY_RESET (R322) -/
  | powerlossRecoveryReset
  /-- PERMIT_IN_FILTERED_HIGH (R59) -/
  | permitInFilteredHigh
  /-- PERMIT_IN_FALL (R59) -/
  | permitInFall
  /-- PERMIT_DELAY_EXPIRY (R60) -/
  | permitDelayExpiry
  /-- ERR_OUT_MIN_EXPIRY (R61) -/
  | errOutMinExpiry
  /-- SHOCK_PIN_ASSERT (R134) -/
  | shockPinAssert (n : Fin 2) (level : Bool)
  /-- PA_FAULT_ASSERT (R190) -/
  | paFaultAssert (a : ActIx) (level : Bool)
  /-- PERST_ASSERT (R334) -/
  | perstAssert (c : CtlIx)
  /-- PERST_DEASSERT (R494) -/
  | perstDeassert (c : CtlIx)
  /-- LINK_DOWN (R334) -/
  | linkDown (c : CtlIx)
  /-- FUNCTION_RESET (R334) -/
  | functionReset (c : CtlIx)
  /-- L1_2_ENTRY (R329) -/
  | l12Entry (c : CtlIx)
  /-- L1_2_EXIT (R329) -/
  | l12Exit (c : CtlIx)
  /-- CRYSTAL_LOST (R463) -/
  | crystalLost
  /-- CRYSTAL_RESTORED (R464) -/
  | crystalRestored (ppm : BitVec 16)
  /-- CLK_REF_SELECT (R464) -/
  | clkRefSelect (w : Word)
  /-- CLK_CLUSTER_FREQ (R466) -/
  | clkClusterFreq (c : Fin 3) (w : Word)
  /-- POST (R298) -/
  | post (f : PostFindings)
  /-- SAFE_COMMIT_RESET (R303) -/
  | safeCommitReset
  /-- SPINUP_START (R304) -/
  | spinupStart
  /-- CASTON_MEDIA (R307) -/
  | castonMedia (x : CastonStage)
  /-- READY (R309) -/
  | ready
  /-- BIND_OFF (R312) -/
  | bindOff
  /-- SHUTDOWN_NOTIFY (R311) -/
  | shutdownNotify (c : CtlIx) (abrupt : Bool)
  /-- PS4_WAKE (R315) -/
  | ps4Wake
  /-- PS3_WAKE (R456) -/
  | ps3Wake
  /-- SPN_DECISION (R63) -/
  | spnDecision (x : SpnSample)
  /-- SPN_START (R87) -/
  | spnStart (w : Word)
  /-- SPN_STOP (R86) -/
  | spnStop (w : Word)
  /-- SPN_LOCK (R88) -/
  | spnLock (w : Word)
  /-- BEMF_ZERO_CROSSING (R72) -/
  | bemfZeroCrossing (x : Crossing)
  /-- SENSING_WINDOW_END (R72) -/
  | sensingWindowEnd
  /-- INDUCTIVE_DETECT_DONE (R72) -/
  | inductiveDetectDone (angle : Fin 12)
  /-- BRAKE_PROBE (R72) -/
  | brakeProbe (speedQ : Nat) (dir : Rotation)
  /-- BRAKE_TIMEOUT (R72) -/
  | brakeTimeout
  /-- LOCKED_ROTOR (R73) -/
  | lockedRotor
  /-- LOCKED_ROTOR_PAUSE_END (R73) -/
  | lockedRotorPauseEnd
  /-- RESYNC_TIMEOUT (R78) -/
  | resyncTimeout
  /-- RESTART_COAST_END (R78) -/
  | restartCoastEnd
  /-- REFUGE_DELAY_EXPIRY (R79) -/
  | refugeDelayExpiry
  /-- RESEED_DONE (R82) -/
  | reseedDone (agree : Bool)
  /-- YCK_ENABLE (R95) -/
  | yckEnable (w : Word)
  /-- YCK_SEL_FORCE (R100) -/
  | yckSelForce (w : Word)
  /-- YCK_LOCK (R118) -/
  | yckLock (w : Word)
  /-- YARN_HEAD_LOST (R93) -/
  | yarnHeadLost (h : Fin 2) (sign : YarnSign)
  /-- YARN_HEAD_QUALIFIED (R94) -/
  | yarnHeadQualified (h : Fin 2) (revs : Nat)
  /-- SWITCHOVER (R97) -/
  | switchover (remainder : Int) (yofs : Nat)
  /-- FORCED_SWITCHOVER (R100) -/
  | forcedSwitchover (remainder : Int) (yofs : Nat)
  /-- TIMING_GUARD_FALL (R98) -/
  | timingGuardFall
  /-- SLEW_DONE (R99) -/
  | slewDone
  /-- YARN_RETURN (R117) -/
  | yarnReturn
  /-- GAUGE_ROW_MOVE (R105) -/
  | gaugeRowMove (l : LaneIx)
  /-- GAUGE_UPDATE_APPLY (R106) -/
  | gaugeUpdateApply (wedge : Nat)
  /-- GAUGE_HOURLY_WRITE (R107) -/
  | gaugeHourlyWrite
  /-- SERVO_SAMPLE (R123) -/
  | servoSample (a : ActIx) (x : WedgeRead)
  /-- HALF_SAMPLE_PIEZO (R123) -/
  | halfSamplePiezo (a : ActIx)
  /-- SAM_MISS_RUN (R119) -/
  | samMissRun (e : EngIx)
  /-- SERVO_IMPLAUSIBLE (R133) -/
  | servoImplausible (e : EngIx)
  /-- HOLD_TIMEOUT (R133) -/
  | holdTimeout (e : EngIx)
  /-- ON_TRACK (R137) -/
  | onTrack (e : EngIx)
  /-- SRV_LOAD (R140) -/
  | srvLoad (e : EngIx) (w : Word)
  /-- SRV_SEEK (R136) -/
  | srvSeek (e : EngIx) (w : Word)
  /-- SRV_HOLD_CMD (R143) -/
  | srvHoldCmd (e : EngIx) (w : Word)
  /-- SRV_RELEASE_HOLD (R143) -/
  | srvReleaseHold (e : EngIx) (w : Word)
  /-- SRV_UNLOAD (R140) -/
  | srvUnload (e : EngIx) (w : Word)
  /-- SRV_SWAP_REQUEST (R130) -/
  | srvSwapRequest (e : EngIx) (w : Word)
  /-- SRV_LOCK (R144) -/
  | srvLock (e : EngIx) (w : Word)
  /-- SRV_BANK_WRITE (R129) -/
  | srvBankWrite (e : EngIx) (bankB : Bool) (i : Fin 24) (k : Fin 8) (w : Word)
  /-- LOAD_CAPTURE (R140) -/
  | loadCapture (e : EngIx) (x : WedgeRead)
  /-- LOAD_TIMEOUT (R140) -/
  | loadTimeout (e : EngIx)
  /-- RETRACT_DONE (R140) -/
  | retractDone (e : EngIx)
  /-- PARK_CHECK (R140) -/
  | parkCheck (e : EngIx) (samFound : Bool)
  /-- UNLOAD_N_FALL (R143) -/
  | unloadNFall
  /-- DL_FRAME_RECEIVE (R139) -/
  | dlFrameReceive (a : ActIx) (frame : BitVec 32)
  /-- DL_FAULT (R139) -/
  | dlFault (e : EngIx)
  /-- PORT_HOLD_EXPIRY (R141) -/
  | portHoldExpiry (a : ActIx)
  /-- PORT_HOLD_RETRACT (R141) -/
  | portHoldRetract (e : EngIx) (w : Word)
  /-- SENSOR_READ (R135) -/
  | sensorRead (r0 : AccelRead) (r1 : AccelRead)
  /-- LANE_TEMP_REFRESH (R177) -/
  | laneTempRefresh (celsius : Int)
  /-- FE_READY (R177) -/
  | feReady (l : LaneIx)
  /-- READER_FAIL (R175) -/
  | readerFail (l : LaneIx) (r : Fin 4)
  /-- PA_CMD_QUEUE (R191) -/
  | paCmdQueue (l : LaneIx) (w : Word)
  /-- PA_FRAME_SEND (R191) -/
  | paFrameSend (l : LaneIx) (data : Byte)
  /-- DECODE_ATTEMPT_DONE (R200) -/
  | decodeAttemptDone (l : LaneIx) (x : DecodeResult)
  /-- RAW_VERDICT (R214) -/
  | rawVerdict (l : LaneIx) (x : VerifyResult)
  /-- DEEP_DECODE_REQUEST (R208) -/
  | deepDecodeRequest (l : LaneIx) (slot : Fin 4096) (output : Fin 3)
  /-- DEEP_WAIT_TIMEOUT (R208) -/
  | deepWaitTimeout (l : LaneIx) (slot : Fin 4096) (output : Fin 3)
  /-- DEEP_DECODE_DONE (R209) -/
  | deepDecodeDone (d : Fin 2) (x : DeepResult)
  /-- RETRY_REVOLUTION (R210) -/
  | retryRevolution (l : LaneIx) (xs : List SectorTry)
  /-- SELVAGE_DECODE (R212) -/
  | selvageDecode (l : LaneIx) (x : SelvageTry)
  /-- ROW_SEQ (R221) -/
  | rowSeq (l : LaneIx) (x : RowSymbol)
  /-- ROW_JMP (R221) -/
  | rowJmp (l : LaneIx) (x : RowSymbol)
  /-- ROW_BRT (R221) -/
  | rowBrt (l : LaneIx) (x : RowSymbol)
  /-- ROW_BRF (R221) -/
  | rowBrf (l : LaneIx) (x : RowSymbol)
  /-- ROW_DSP (R221) -/
  | rowDsp (l : LaneIx) (x : RowSymbol)
  /-- ROW_CALL (R221) -/
  | rowCall (l : LaneIx) (x : RowSymbol)
  /-- ROW_RET (R221) -/
  | rowRet (l : LaneIx) (x : RowSymbol)
  /-- ROW_WAIT (R221) -/
  | rowWait (l : LaneIx) (x : RowSymbol)
  /-- ROW_WAIT_TIMEOUT (R221) -/
  | rowWaitTimeout (l : LaneIx)
  /-- CUSTOMER_TIME_FAULT (R229) -/
  | customerTimeFault (l : LaneIx)
  /-- ROW_RELOAD_DONE (R233) -/
  | rowReloadDone (l : LaneIx)
  /-- OPCODE_IDLE (R237) -/
  | opcodeIdle (l : LaneIx)
  /-- OPCODE_OP_BEGIN (R237) -/
  | opcodeOpBegin (l : LaneIx)
  /-- OPCODE_OP_END (R237) -/
  | opcodeOpEnd (l : LaneIx)
  /-- OPCODE_RD_RUN (R237) -/
  | opcodeRdRun (l : LaneIx) (xs : List ReadSlot)
  /-- OPCODE_RR_RUN (R237) -/
  | opcodeRrRun (l : LaneIx) (xs : List ReadSlot)
  /-- OPCODE_WR_RUN (R237) -/
  | opcodeWrRun (l : LaneIx) (xs : List WriteSlot)
  /-- OPCODE_WR_SELV (R237) -/
  | opcodeWrSelv (l : LaneIx) (xs : List WriteSlot)
  /-- OPCODE_GAP (R237) -/
  | opcodeGap (l : LaneIx)
  /-- OPCODE_CUSTOMER (R229) -/
  | opcodeCustomer (l : LaneIx) (n : Fin 32)
  /-- ROW_LOAD_WRITE (R229) -/
  | rowLoadWrite (l : LaneIx)
  /-- ROW_LOAD_READBACK (R243) -/
  | rowLoadReadback (l : LaneIx)
  /-- ROW_RUN (R243) -/
  | rowRun (l : LaneIx) (w : Word)
  /-- ROW_STOP (R243) -/
  | rowStop (l : LaneIx) (w : Word)
  /-- CUST_EN_WRITE (R231) -/
  | custEnWrite (l : LaneIx) (hook : Bool) (w : Word)
  /-- ROW_SWAP_REQUEST (R242) -/
  | rowSwapRequest (l : LaneIx) (w : Word)
  /-- ROW_SWAP (R242) -/
  | rowSwap (l : LaneIx)
  /-- PAT_OPERATION (R236) -/
  | patOperation (l : LaneIx) (x : PatStart)
  /-- PAT_RUN (R243) -/
  | patRun (l : LaneIx) (w : Word)
  /-- PAT_QUIESCE (R242) -/
  | patQuiesce (l : LaneIx) (w : Word)
  /-- DARN_WRITE (R239) -/
  | darnWrite (l : LaneIx)
  /-- DARN_READBACK (R243) -/
  | darnReadback (l : LaneIx)
  /-- MATCH_WRITE (R239) -/
  | matchWrite (l : LaneIx) (n : Fin 32) (w : Word)
  /-- MATCH_APPLY (R239) -/
  | matchApply (l : LaneIx)
  /-- JRNL_APPEND (R254) -/
  | jrnlAppend (w : Word)
  /-- JRNL_GROUP_ISSUE (R254) -/
  | jrnlGroupIssue
  /-- JRNL_ACK (R254) -/
  | jrnlAck (w : Word)
  /-- REPLICA_REPLACE (R255) -/
  | replicaReplace (i : Fin 3)
  /-- REPLICA_FILL_DONE (R255) -/
  | replicaFillDone
  /-- CHECKPOINT (R256) -/
  | checkpoint (done : Bool)
  /-- BIT_CLEAR_DELAY (R258) -/
  | bitClearDelay (r : Nat)
  /-- ROW_VERIFIED (R259) -/
  | rowVerified (n : Nat) (r : Nat)
  /-- ROW_IDLE_TIMEOUT (R260) -/
  | rowIdleTimeout (n : Nat) (r : Nat)
  /-- RMW_ENTRIES_DURABLE (R262) -/
  | rmwEntriesDurable (n : Nat) (r : Nat) (u : Nat)
  /-- RMW_VERIFIED (R262) -/
  | rmwVerified (n : Nat) (r : Nat) (u : Nat)
  /-- SKIP_WALK_UNIT (R510) -/
  | skipWalkUnit (n : Nat) (r : Nat) (p : Nat)
  /-- RECONSTRUCT_READ (R264) -/
  | reconstructRead (n : Nat) (o : Nat) (extra : Nat) (qMismatch : Bool) (piBad : Nat) (verified : Bool)
  /-- SPE_JOB (R271) -/
  | speJob (piFail : BitVec 16) (ecc : BitVec 16)
  /-- SPE_ENABLE (R270) -/
  | speEnable (w : Word)
  /-- SPE_HALT (R270) -/
  | speHalt (w : Word)
  /-- SPE_LOCK (R270) -/
  | speLock (w : Word)
  /-- SPE_CAL_WRITE (R266) -/
  | speCalWrite (w : Word)
  /-- SUSPECT_TRIGGER (R275) -/
  | suspectTrigger (m : Fin 24) (c : SuspectCause)
  /-- SUSPECT_EXPIRY (R273) -/
  | suspectExpiry (m : Fin 24)
  /-- FENCE_TRIGGER (R276) -/
  | fenceTrigger (m : Fin 24) (c : FenceCause)
  /-- ACTUATOR_UNAVAILABLE (R277) -/
  | actuatorUnavailable (a : ActIx) (c : ActCause)
  /-- ACTUATOR_RELOAD (R277) -/
  | actuatorReload (a : ActIx)
  /-- ACTUATOR_RETRY_TIMER (R277) -/
  | actuatorRetryTimer (a : ActIx)
  /-- REBUILD_ROW (R280) -/
  | rebuildRow (n : Nat) (r : Nat) (fails : List (Fin 16 × BitVec 24))
  /-- REBUILD_ZONE_DONE (R281) -/
  | rebuildZoneDone (n : Nat)
  /-- FENCED_PROBE (R287) -/
  | fencedProbe (m : Fin 24) (ok : Bool)
  /-- REQUAL_SWATCH_DONE (R288) -/
  | requalSwatchDone (m : Fin 24) (pass : Bool)
  /-- REQUAL_VERIFY_DONE (R288) -/
  | requalVerifyDone (m : Fin 24) (written : Nat) (failed : Nat) (wedges : Nat) (extra : Nat)
  /-- MIGRATE_ZONE (R288) -/
  | migrateZone (n : Nat) (m : Fin 24)
  /-- RESHAPE_ZONE (R291) -/
  | reshapeZone (f : CopyFind)
  /-- FORMAT_CONVERSION (R294) -/
  | formatConversion (n : Nat) (f : CopyFind)
  /-- SCRUB_ROW (R295) -/
  | scrubRow (n : Nat) (r : Nat) (f : ScrubFind)
  /-- COMMAND_FETCH (R354) -/
  | commandFetch (c : CtlIx) (k : RawCmd)
  /-- RANGE_LOCK_RELEASE (R355) -/
  | rangeLockRelease (n : Nat)
  /-- COMPLETION_POST (R363) -/
  | completionPost
  /-- HOLD_LIMIT_EXPIRY (R362) -/
  | holdLimitExpiry (n : Nat)
  /-- CC_EN_SET (R330) -/
  | ccEnSet (c : CtlIx) (iosqes iocqes : Fin 16)
  /-- CC_EN_CLEAR (R366) -/
  | ccEnClear (c : CtlIx)
  /-- REJOIN_WINDOW_EXPIRY (R334) -/
  | rejoinWindowExpiry (c : CtlIx)
  /-- ATTACH_REQUEST (R332) -/
  | attachRequest (c : CtlIx) (w : Word)
  /-- PARTNER_DEPART (R335) -/
  | partnerDepart (c : CtlIx)
  /-- ROLE_CHANGE (R332) -/
  | roleChange (c : CtlIx)
  /-- NSSR (R367) -/
  | nssr (c : CtlIx) (w : Word)
  /-- IDENTIFY (R341) -/
  | identify (c : CtlIx) (cns : Nat) (csi : Nat) (ns : Nat) (cntid : Nat)
  /-- GET_LOG_PAGE (R341) -/
  | getLogPage (c : CtlIx) (lid : Nat) (rae : Bool) (offset : Nat) (bytes : Nat)
  /-- SET_FEATURES (R341) -/
  | setFeatures (c : CtlIx) (fid : Nat) (save : Bool) (v : Nat) (data : Nat)
  /-- GET_FEATURES (R341) -/
  | getFeatures (c : CtlIx) (fid : Nat) (sel : Nat) (v : Nat)
  /-- POWER_MANAGEMENT (R455) -/
  | powerManagement (c : CtlIx) (v : Nat)
  /-- LAYOUT_DEFAULTS (R377) -/
  | layoutDefaults (c : CtlIx) (save : Bool) (v : Nat)
  /-- SCRUB_SCHEDULE (R377) -/
  | scrubSchedule (c : CtlIx) (save : Bool) (v : Nat)
  /-- SPIN_UP_PERMIT_POLICY (R377) -/
  | spinUpPermitPolicy (c : CtlIx) (save : Bool) (v : Nat)
  /-- PROTECTED_WRITE_WINDOW (R377) -/
  | protectedWriteWindow (c : CtlIx) (save : Bool) (v : Nat)
  /-- CREATE_IO_SQ (R340) -/
  | createIoSq (c : CtlIx) (q : Nat) (size : Nat) (cq : Nat)
  /-- DELETE_IO_SQ (R340) -/
  | deleteIoSq (c : CtlIx) (q : Nat)
  /-- CREATE_IO_CQ (R340) -/
  | createIoCq (c : CtlIx) (q : Nat) (size : Nat) (iv : Nat)
  /-- DELETE_IO_CQ (R340) -/
  | deleteIoCq (c : CtlIx) (q : Nat)
  /-- ABORT (R361) -/
  | abort (c : CtlIx) (target : Nat)
  /-- ASYNCHRONOUS_EVENT_REQUEST (R382) -/
  | asynchronousEventRequest (c : CtlIx)
  /-- NAMESPACE_MANAGEMENT (R342) -/
  | namespaceManagement (c : CtlIx) (x : Option NsCreate) (ns : Nat)
  /-- NAMESPACE_ATTACHMENT (R342) -/
  | namespaceAttachment (c : CtlIx) (ns : Nat) (attach : Bool) (to_ : BitVec 2)
  /-- FIRMWARE_IMAGE_DOWNLOAD (R368) -/
  | firmwareImageDownload (c : CtlIx) (offset : Nat) (len : Nat)
  /-- FW_COMMIT_STORE (R368) -/
  | fwCommitStore (c : CtlIx) (slot : Nat) (x : ImageCheck)
  /-- FW_COMMIT_ACTIVATE_AT_RESET (R368) -/
  | fwCommitActivateAtReset (c : CtlIx) (slot : Nat) (x : ImageCheck)
  /-- FW_COMMIT_SLOT_AT_RESET (R368) -/
  | fwCommitSlotAtReset (c : CtlIx) (slot : Nat)
  /-- FW_COMMIT_ACTIVATE_NOW (R369) -/
  | fwCommitActivateNow (c : CtlIx) (slot : Nat) (x : ImageCheck)
  /-- ACTIVATION_HOLD_START (R369) -/
  | activationHoldStart
  /-- ACTIVATION_QUIET_TIMEOUT (R369) -/
  | activationQuietTimeout
  /-- ACTIVATION_SWITCH (R369) -/
  | activationSwitch (late : Bool)
  /-- SELFTEST_SHORT (R371) -/
  | selftestShort (c : CtlIx)
  /-- SELFTEST_EXTENDED (R371) -/
  | selftestExtended (c : CtlIx)
  /-- SELFTEST_ABORT (R371) -/
  | selftestAbort (c : CtlIx)
  /-- SLICE (R370) -/
  | slice (x : SliceEnd)
  /-- FORMAT_NVM (R356) -/
  | formatNvm (c : CtlIx) (ns : Nat) (lbaf : Nat) (pi : Nat) (ses : Nat)
  /-- SECURITY_SEND (R348) -/
  | securitySend (c : CtlIx) (m : OpalMethod)
  /-- SECURITY_RECEIVE (R348) -/
  | securityReceive (c : CtlIx) (discovery : Bool)
  /-- SANITIZE_CRYPTO_ERASE (R351) -/
  | sanitizeCryptoErase (c : CtlIx)
  /-- SANITIZE_BLOCK_ERASE (R351) -/
  | sanitizeBlockErase (c : CtlIx)
  /-- NVME_MI_SEND (R340) -/
  | nvmeMiSend (c : CtlIx) (k : MiCmd)
  /-- NVME_MI_RECEIVE (R340) -/
  | nvmeMiReceive (c : CtlIx) (k : MiCmd)
  /-- DECLARE_DEAD (R276) -/
  | declareDead (c : CtlIx) (m : Nat) (force : Bool) (gen : Nat)
  /-- REQUALIFY (R288) -/
  | requalify (c : CtlIx) (m : Nat) (gen : Nat)
  /-- READMIT_AS_SPARE (R288) -/
  | readmitAsSpare (c : CtlIx) (m : Nat) (gen : Nat)
  /-- SET_SCRUB_PERIOD (R373) -/
  | setScrubPeriod (c : CtlIx) (m : Nat) (gen : Nat) (days : Nat)
  /-- SURFACE_QUERY (R373) -/
  | surfaceQuery (c : CtlIx) (m : Nat)
  /-- RESHAPE_START (R290) -/
  | reshapeStart (c : CtlIx) (ns : Nat) (first : Nat) (last : Nat) (w : Nat) (cc : Nat)
  /-- RECORDER_READ (R441) -/
  | recorderRead (c : CtlIx) (group : Fin 256) (rewind : Bool)
  /-- RECORDER_CLEAR (R442) -/
  | recorderClear (c : CtlIx) (group : Fin 256)
  /-- CALIBRATION_REQUEST (R372) -/
  | calibrationRequest (c : CtlIx) (m : Nat) (zone : Nat) (all : Bool) (kinds : BitVec 5)
  /-- FLUSH (R364) -/
  | flush (c : CtlIx) (ns : Nat)
  /-- WRITE (R40) -/
  | write (c : CtlIx) (io : IoCmd)
  /-- READ (R357) -/
  | read (c : CtlIx) (io : IoCmd)
  /-- COMPARE (R340) -/
  | compare (c : CtlIx) (io : IoCmd)
  /-- WRITE_ZEROES (R346) -/
  | writeZeroes (c : CtlIx) (io : IoCmd)
  /-- VERIFY (R340) -/
  | verify (c : CtlIx) (io : IoCmd)
  /-- ZONE_APPEND (R358) -/
  | zoneAppend (c : CtlIx) (io : IoCmd)
  /-- ZONE_MANAGEMENT_RECEIVE (R344) -/
  | zoneManagementReceive (c : CtlIx) (ns : Nat) (slba : Nat)
  /-- ZONE_OPEN (R244) -/
  | zoneOpen (c : CtlIx) (io : IoCmd)
  /-- ZONE_CLOSE (R260) -/
  | zoneClose (c : CtlIx) (io : IoCmd)
  /-- ZONE_FINISH (R260) -/
  | zoneFinish (c : CtlIx) (io : IoCmd)
  /-- ZONE_RESET (R365) -/
  | zoneReset (c : CtlIx) (io : IoCmd)
  /-- FIXITY_DIGEST (R296) -/
  | fixityDigest (c : CtlIx) (io : IoCmd)
  /-- SALVAGE_READ (R289) -/
  | salvageRead (c : CtlIx) (io : IoCmd)
  /-- MI_READ_DATA_STRUCTURE (R347) -/
  | miReadDataStructure (kind : Nat)
  /-- MI_SUBSYSTEM_HEALTH_POLL (R347) -/
  | miSubsystemHealthPoll
  /-- MI_CONTROLLER_HEALTH_POLL (R347) -/
  | miControllerHealthPoll (cntid : Nat)
  /-- MI_CONFIGURATION_SET (R347) -/
  | miConfigurationSet (id : Nat) (v : Nat)
  /-- MI_CONFIGURATION_GET (R347) -/
  | miConfigurationGet (id : Nat)
  /-- MI_VPD_READ (R347) -/
  | miVpdRead (offset : Nat) (len : Nat)
  /-- MI_VPD_WRITE (R347) -/
  | miVpdWrite (offset : Nat) (bs : List Byte)
  /-- MI_RESET (R347) -/
  | miReset
  /-- MI_PAUSE (R347) -/
  | miPause
  /-- MI_RESUME (R347) -/
  | miResume
  /-- MI_ABORT (R347) -/
  | miAbort
  /-- MI_GET_STATE (R347) -/
  | miGetState
  /-- MI_REPLAY (R347) -/
  | miReplay
  /-- MI_TUNNELLED_ADMIN (R347) -/
  | miTunnelledAdmin (k : AdminCmd)
  /-- HIF_FETCH_HOLD (R486) -/
  | hifFetchHold (w : Word)
  /-- HIF_RING_CONFIG (R486) -/
  | hifRingConfig (r : Fin 3) (w : Word)
  /-- FE_INSTANCE_FAIL (R433) -/
  | feInstanceFail (i : Fin 2)
  /-- LINK_WIDTH_REDUCE (R433) -/
  | linkWidthReduce (c : CtlIx)
  /-- DMA_START (R384) -/
  | dmaStart (n : ChanIx)
  /-- DMA_ABORT (R393) -/
  | dmaAbort (n : ChanIx)
  /-- DMA_RESUME (R395) -/
  | dmaResume (n : ChanIx)
  /-- DMA_EXTEND (R391) -/
  | dmaExtend (n : ChanIx)
  /-- DMA_DISABLE (R393) -/
  | dmaDisable
  /-- DMA_DESCRIPTOR_COMPLETE (R389) -/
  | dmaDescriptorComplete (n : ChanIx) (host : List Byte)
  /-- DMA_BURST_ERROR (R394) -/
  | dmaBurstError (n : ChanIx) (cause : BurstCause)
  /-- DMA_REQUEST (R388) -/
  | dmaRequest (line : Nat) (host : List Byte)
  /-- DMA_EVENT_TRIGGER (R388) -/
  | dmaEventTrigger (e : Fin 256)
  /-- DMA_TIMER_EXPIRY (R388) -/
  | dmaTimerExpiry (t : Fin 8)
  /-- PWR_DOM_REQUEST (R448) -/
  | pwrDomRequest (w : Word)
  /-- DMA_QUIESCE_DONE (R397) -/
  | dmaQuiesceDone
  /-- DMA_QUIESCE_TIMEOUT (R397) -/
  | dmaQuiesceTimeout (stopped : BitVec 64)
  /-- PWR_HALT_REQ (R507) -/
  | pwrHaltReq (m : BitVec 36)
  /-- PWR_LANE_LIMIT (R465) -/
  | pwrLaneLimit (w : Word)
  /-- THERMAL_LIMIT (R459) -/
  | thermalLimit (t : Nat)
  /-- LANE_GATE_SWAP (R454) -/
  | laneGateSwap (needs : Option LaneIx) (boundary : Option LaneIx)
  /-- APST_IDLE_EXPIRY (R457) -/
  | apstIdleExpiry (resync : Bool)
  /-- HQM_RING_ENABLE (R399) -/
  | hqmRingEnable (w : Word)
  /-- HQM_RING_DISABLE (R399) -/
  | hqmRingDisable (w : Word)
  /-- FLUSH_PKT (R404) -/
  | flushPkt (w : Word)
  /-- FLUSH_NOW (R404) -/
  | flushNow (w : Word)
  /-- HQM_PROD_OPEN (R401) -/
  | hqmProdOpen (q : Requester)
  /-- HQM_PROD_SLOT (R401) -/
  | hqmProdSlot (q : Requester) (d3 : Word)
  /-- HQM_PROD_CLOSE (R401) -/
  | hqmProdClose (q : Requester) (w : Word)
  /-- HQM_CONS_HEADER (R403) -/
  | hqmConsHeader (q : Requester)
  /-- HQM_CONS_SLOT (R402) -/
  | hqmConsSlot (q : Requester)
  /-- HQM_CONS_SKIP (R402) -/
  | hqmConsSkip (q : Requester)
  /-- HQM_STALL_TIMEOUT (R403) -/
  | hqmStallTimeout (c : CoreIx)
  /-- CAP_FRAME_IN (R409) -/
  | capFrameIn (f : CapFrame)
  /-- CAP_RECORD_OUT (R410) -/
  | capRecordOut (x : CapRecord)
  /-- CAP_ENABLE (R408) -/
  | capEnable (w : Word)
  /-- FAULT_SOURCE_OCCURRENCE (R416) -/
  | faultSourceOccurrence (k : SrcIx)
  /-- FAULT_ACKNOWLEDGE (R419) -/
  | faultAcknowledge (k : Fin 20) (w : Word) (hook : Bool) (arriving : List SrcIx)
  /-- FLT_SWRAISE (R414) -/
  | fltSwraise (r : Requester) (w : Word)
  /-- FLT_DEFAULT_CORE (R435) -/
  | fltDefaultCore (w : Word)
  /-- WARM_RESET (R421) -/
  | warmReset (x : WarmStage)
  /-- CORE_WATCHDOG (R425) -/
  | coreWatchdog (c : CoreIx)
  /-- CORE_FAIL (R29) -/
  | coreFail (c : CoreIx)
  /-- CLUSTER_FAIL (R30) -/
  | clusterFail (cluster : Fin 3)
  /-- LANE_FAIL (R427) -/
  | laneFail (l : LaneIx) (c : LaneCause)
  /-- LANE_LOOPBACK (R426) -/
  | laneLoopback (l : LaneIx) (pass : Bool)
  /-- LANE_MAP_WRITE (R32) -/
  | laneMapWrite (w : Word)
  /-- MUX_SWITCH (R57) -/
  | muxSwitch (a : ActIx)
  /-- SRV_MAP_WRITE (R32) -/
  | srvMapWrite (w : Word)
  /-- CORE_MAP_WRITE (R35) -/
  | coreMapWrite (cluster : Fin 3) (w : Word)
  /-- CORE_COMMIT (R35) -/
  | coreCommit (w : Word)
  /-- CORE_DISCARD (R35) -/
  | coreDiscard (w : Word)
  /-- INJECTION_UNLOCK (R434) -/
  | injectionUnlock (valid : Bool)
  /-- INJ_RAISE_SOURCE (R434) -/
  | injRaiseSource
  /-- INJ_SINGLE_BIT_ERROR (R434) -/
  | injSingleBitError
  /-- INJ_DOUBLE_BIT_ERROR (R434) -/
  | injDoubleBitError
  /-- INJ_ROW_PARITY (R434) -/
  | injRowParity
  /-- INJ_SERVO_RESIDUE (R434) -/
  | injServoResidue
  /-- INJ_LOCKSTEP (R434) -/
  | injLockstep
  /-- INJ_DL_DROP (R434) -/
  | injDlDrop
  /-- INJ_RLD_BURST (R434) -/
  | injRldBurst
  /-- SRAM_PATROL (R429) -/
  | sramPatrol (es : List CorrectedRow)
  /-- SRAM_UNCORRECTABLE (R430) -/
  | sramUncorrectable (x : SramWord)
  /-- RLD_CHANNEL_FAIL (R432) -/
  | rldChannelFail (chan : Fin 2)
  /-- STC_ENTRY (R436) -/
  | stcEntry (g : Fin 256) (inst : Nat) (v : Int) (own : Bool)
  /-- STC_SECOND_TICK (R436) -/
  | stcSecondTick (junction : Int) (thermistor : Int)
  /-- STC_MS_TICK (R436) -/
  | stcMsTick
  /-- STC_CLEAR (R442) -/
  | stcClear (g : Fin 256)
  /-- STC_COND_ADD (R439) -/
  | stcCondAdd
  /-- STC_PERSIST (R443) -/
  | stcPersist
  /-- STC_PERSIST_DONE (R443) -/
  | stcPersistDone (ok : Bool) (flashStatus : Word)
  /-- STC_LOCK (R445) -/
  | stcLock (w : Word)
  /-- STC_READ_SELECT (R441) -/
  | stcReadSelect (c : CoreIx) (g : Option (Fin 256))
  /-- STC_WINDOW_ADVANCE (R441) -/
  | stcWindowAdvance (c : CoreIx)
  /-- YARN_PLL_LOCK (R92) -/
  | yarnPllLock (h : Fin 2) (yofs : Nat)
  /-- LINK_UP (R326) -/
  | linkUp (c : CtlIx) (width : Nat) (rate : Nat)
  /-- L1_2_HOST_EXIT (R453) -/
  | l12HostExit (c : CtlIx)
  /-- BASIC_MANAGEMENT_COMMAND (R347) -/
  | basicManagementCommand (dest : Nat)
  /-- I3C_DYNAMIC_ADDRESS_ASSIGN (R501) -/
  | i3cDynamicAddressAssign (setdasa : Option Nat) (address : Nat)
  /-- CALIBRATION_ABANDON (R372) -/
  | calibrationAbandon
  deriving DecidableEq, Repr

end Sys2Proof
end

