-- ==== Sys2Proof/Machine/RegMap.lean ====
section
/-!
DEFINITION. The register map: for every block, its registers with offset, reset value and access masks (R16, R18, R19, R479, R487).
A row covers `count` registers from `base` every `stride` bytes.  `rw`, `w1c`, `w1s` and `rwl` are the bits of each access code; every
other bit is read-only, write-only or reserved, and what a write of a write-only bit triggers is the meaning of its command.
-/
namespace Sys2Proof.Machine

/-- One row of a register listing. -/
structure RegRow where
  name : String
  base : Nat
  stride : Nat
  count : Nat
  reset : Nat
  rw : Nat
  w1c : Nat
  w1s : Nat
  rwl : Nat
  deriving DecidableEq, Repr

/-- FLT, base 0x2000_0000 (R435, R30). -/
def fltRows : List RegRow :=
  [⟨"FLT_LANE_MAP", 0x0F00, 4, 1, 0x00004688, 0x7FFF, 0x0, 0x0, 0x0⟩,
   ⟨"FLT_SRV_MAP", 0x0F04, 4, 1, 0x00004688, 0x7FFF, 0x0, 0x0, 0x0⟩,
   ⟨"FLT_BIND_ERR", 0x0F08, 4, 1, 0x00000000, 0x0, 0x7, 0x0, 0x0⟩,
   ⟨"FLT_CORE_MAP_X", 0x0F10, 4, 1, 0x00900000, 0x0, 0x0, 0x0, 0x0⟩,
   ⟨"FLT_CORE_MAP_Y", 0x0F14, 4, 1, 0x00900000, 0x0, 0x0, 0x0, 0x0⟩,
   ⟨"FLT_CORE_MAP_Z", 0x0F18, 4, 1, 0x00A50000, 0x0, 0x0, 0x0, 0x0⟩,
   ⟨"FLT_CORE_COMMIT", 0x0F1C, 4, 1, 0x00000000, 0x0, 0x0, 0x0, 0x0⟩,
   ⟨"FLT_CTL", 0x0000, 4, 1, 0x00000000, 0x3F, 0x0, 0x0, 0x0⟩,
   ⟨"FLT_STATUS", 0x0004, 4, 1, 0x00000000, 0x0, 0x0, 0x0, 0x0⟩,
   ⟨"FLT_ESC", 0x0008, 4, 1, 0x00000000, 0x0, 0x0, 0x0, 0x0⟩,
   ⟨"FLT_LAST", 0x000C, 4, 1, 0x00000000, 0x0, 0x0, 0x0, 0x0⟩,
   ⟨"FLT_SWRAISE", 0x0010, 4, 1, 0x00000000, 0x0, 0x0, 0x0, 0x0⟩,
   ⟨"FLT_CHIP_CNT", 0x0014, 4, 1, 0x00000000, 0x0, 0x0, 0x0, 0x0⟩,
   ⟨"FLT_PENDk", 0x0100, 4, 20, 0x00000000, 0x0, 0xFFFFFFFF, 0x0, 0x0⟩,
   ⟨"FLT_RAWk", 0x0200, 4, 20, 0x00000000, 0x0, 0x0, 0x0, 0x0⟩,
   ⟨"FLT_SRAM_SPAREr", 0x0300, 4, 10, 0x00000000, 0x0, 0x0, 0x0, 0x0⟩,
   ⟨"FLT_RLD_STAT", 0x0340, 4, 1, 0x00000000, 0x0, 0x0, 0x0, 0x0⟩,
   ⟨"FLT_INJ_NONCE_LO", 0x0E00, 4, 1, 0x00000000, 0x0, 0x0, 0x0, 0x0⟩,
   ⟨"FLT_INJ_NONCE_HI", 0x0E04, 4, 1, 0x00000000, 0x0, 0x0, 0x0, 0x0⟩,
   ⟨"FLT_INJ_CTL", 0x0E08, 4, 1, 0x00000000, 0x0, 0x0, 0x0, 0x0⟩,
   ⟨"FLT_INJ_ARG", 0x0E0C, 4, 1, 0x00000000, 0xFFFFFFFF, 0x0, 0x0, 0x0⟩,
   ⟨"FLT_INJ_UNLOCK", 0x0E10, 4, 24, 0x00000000, 0x0, 0x0, 0x0, 0x0⟩,
   ⟨"FLT_SRC_CFGs", 0x1000, 4, 640, 0x00000000, 0xFC0330, 0x0, 0x0, 0x0⟩]

/-- STC, base 0x2001_0000 (R445). -/
def stcRows : List RegRow :=
  [⟨"STC_CTL", 0x0000, 4, 1, 0x00000000, 0x0, 0x0, 0x100, 0x0⟩,
   ⟨"STC_STATUS", 0x0004, 4, 1, 0x00000001, 0x0, 0x0, 0x0, 0x0⟩,
   ⟨"STC_EVENT", 0x0008, 4, 1, 0x00000000, 0x0, 0x7, 0x0, 0x0⟩,
   ⟨"STC_POH", 0x000C, 4, 1, 0x00000000, 0x0, 0x0, 0x0, 0x0⟩,
   ⟨"STC_POS", 0x0010, 4, 1, 0x00000000, 0x0, 0x0, 0x0, 0x0⟩,
   ⟨"STC_CLR", 0x0014, 4, 1, 0x00000000, 0x0, 0x0, 0x0, 0x0⟩,
   ⟨"STC_COND_CODE", 0x0018, 4, 1, 0x00000000, 0xFFFFFF, 0x0, 0x0, 0x0⟩,
   ⟨"STC_COND_DETAIL", 0x001C, 4, 1, 0x00000000, 0xFFFFFFFF, 0x0, 0x0, 0x0⟩,
   ⟨"STC_COND_ADD", 0x0020, 4, 1, 0x00000000, 0x0, 0x0, 0x0, 0x0⟩,
   ⟨"STC_CF_BASE", 0x0024, 4, 1, 0x00000000, 0x0, 0x0, 0x0, 0xFFFFFFFF⟩,
   ⟨"STC_RD_GRP", 0x0100, 4, 1, 0x000000FF, 0xFF, 0x0, 0x0, 0x0⟩,
   ⟨"STC_RD_CUR", 0x0104, 4, 1, 0x00000000, 0x0, 0x0, 0x0, 0x0⟩,
   ⟨"STC_RD_REWIND", 0x0108, 4, 1, 0x00000000, 0x0, 0x0, 0x0, 0x0⟩,
   ⟨"STC_WINi", 0x0140, 4, 16, 0x00000000, 0x0, 0x0, 0x0, 0x0⟩]

/-- DMA, base 0x2002_0000; channel n at 0x1000 + 0x40 n (R411). -/
def dmaRows : List RegRow :=
  [⟨"DMA_CTL", 0x0000, 4, 1, 0x00000000, 0x1, 0x0, 0x0, 0x0⟩,
   ⟨"DMA_STATUS", 0x0004, 4, 1, 0x00000000, 0x0, 0x0, 0x0, 0x0⟩,
   ⟨"DMA_EVENT", 0x0008, 4, 1, 0x00000000, 0x0, 0xFF, 0x0, 0x0⟩,
   ⟨"DMA_QUIESCE", 0x000C, 4, 1, 0x00000000, 0x0, 0x0, 0x0, 0x0⟩,
   ⟨"DMA_IRQ_LO", 0x0010, 4, 1, 0x00000000, 0x0, 0xFFFFFFFF, 0x0, 0x0⟩,
   ⟨"DMA_IRQ_HI", 0x0014, 4, 1, 0x00000000, 0x0, 0xFFFFFFFF, 0x0, 0x0⟩,
   ⟨"DMA_TIMERt", 0x0020, 4, 8, 0x00000000, 0x80FFFFFF, 0x0, 0x0, 0x0⟩,
   ⟨"DMA_CHn_CTL", 0x1000, 64, 64, 0x00000000, 0x0, 0x0, 0x0, 0x0⟩,
   ⟨"DMA_CHn_CFG", 0x1004, 64, 64, 0x00000020, 0xFF3F, 0x0, 0x0, 0x0⟩,
   ⟨"DMA_CHn_HEAD_LO", 0x1008, 64, 64, 0x00000000, 0xFFFFFFFF, 0x0, 0x0, 0x0⟩,
   ⟨"DMA_CHn_HEAD_HI", 0x100C, 64, 64, 0x00000000, 0xFFFFFFFF, 0x0, 0x0, 0x0⟩,
   ⟨"DMA_CHn_CUR_LO", 0x1010, 64, 64, 0x00000000, 0x0, 0x0, 0x0, 0x0⟩,
   ⟨"DMA_CHn_CUR_HI", 0x1014, 64, 64, 0x00000000, 0x0, 0x0, 0x0, 0x0⟩,
   ⟨"DMA_CHn_STAT", 0x1018, 64, 64, 0x00000000, 0x0, 0x0, 0x0, 0x0⟩,
   ⟨"DMA_CHn_RESID", 0x101C, 64, 64, 0x00000000, 0x0, 0x0, 0x0, 0x0⟩,
   ⟨"DMA_CHn_EXTEND", 0x1020, 64, 64, 0x00000000, 0x0, 0x0, 0x0, 0x0⟩,
   ⟨"DMA_CHn_DONE", 0x1024, 64, 64, 0x00000000, 0x0, 0x0, 0x0, 0x0⟩]

/-- HQM, base 0x2003_0000 (R412). -/
def hqmRows : List RegRow :=
  [⟨"HQM_CTL", 0x0000, 4, 1, 0x00000064, 0xFFFF, 0x0, 0x0, 0x0⟩,
   ⟨"HQM_STATUS", 0x0004, 4, 1, 0x00000000, 0x0, 0x0, 0x0, 0x0⟩,
   ⟨"HQM_EVENT", 0x0008, 4, 1, 0x00000000, 0x0, 0xFF, 0x0, 0x0⟩,
   ⟨"HQM_RSEL", 0x0010, 4, 1, 0x00000000, 0x3FFF, 0x0, 0x0, 0x0⟩,
   ⟨"HQM_RBASE_LO", 0x0014, 4, 1, 0x00000000, 0xFFFFFFFF, 0x0, 0x0, 0x0⟩,
   ⟨"HQM_RBASE_HI", 0x0018, 4, 1, 0x00000000, 0xFFFFFFFF, 0x0, 0x0, 0x0⟩,
   ⟨"HQM_RCFG", 0x001C, 4, 1, 0x00000004, 0x7F1F, 0x0, 0x0, 0x0⟩,
   ⟨"HQM_RWM", 0x0020, 4, 1, 0x000C0004, 0xFFFFFFFF, 0x0, 0x0, 0x0⟩,
   ⟨"HQM_RCMD", 0x0024, 4, 1, 0x00000000, 0x0, 0x0, 0x0, 0x0⟩,
   ⟨"HQM_RSTAT", 0x0028, 4, 1, 0x00000000, 0x0, 0x0, 0x0, 0x0⟩,
   ⟨"HQM_NOTIFY", 0x0030, 4, 1, 0x00000000, 0x0, 0xFFFFFFFF, 0x0, 0x0⟩,
   ⟨"HQM_PROD_RING", 0x0100, 4, 1, 0x00000000, 0x3FFF, 0x0, 0x0, 0x0⟩,
   ⟨"HQM_PROD_H1-H3", 0x0104, 4, 3, 0x00000000, 0xFFFFFFFF, 0x0, 0x0, 0x0⟩,
   ⟨"HQM_PROD_OPEN", 0x0110, 4, 1, 0x00000000, 0x0, 0x0, 0x0, 0x0⟩,
   ⟨"HQM_PROD_D0-D3", 0x0120, 4, 4, 0x00000000, 0x0, 0x0, 0x0, 0x0⟩,
   ⟨"HQM_PROD_CLOSE", 0x0130, 4, 1, 0x00000000, 0x0, 0x0, 0x0, 0x0⟩,
   ⟨"HQM_PROD_STAT", 0x0134, 4, 1, 0x00000000, 0x0, 0x0, 0x0, 0x0⟩,
   ⟨"HQM_CONS_RING", 0x0200, 4, 1, 0x00000000, 0x3FFF, 0x0, 0x0, 0x0⟩,
   ⟨"HQM_CONS_H0-H3", 0x0210, 4, 4, 0x00000000, 0x0, 0x0, 0x0, 0x0⟩,
   ⟨"HQM_CONS_D0-D3", 0x0220, 4, 4, 0x00000000, 0x0, 0x0, 0x0, 0x0⟩,
   ⟨"HQM_CONS_SKIP", 0x0230, 4, 1, 0x00000000, 0x0, 0x0, 0x0, 0x0⟩,
   ⟨"HQM_CONS_STAT", 0x0234, 4, 1, 0x00000000, 0x0, 0x0, 0x0, 0x0⟩]

/-- PWR, base 0x2004_0000 (R465, R50). -/
def pwrRows : List RegRow :=
  [⟨"PWR_CTL", 0x0000, 4, 1, 0x00000005, 0x7, 0x0, 0x0, 0x0⟩,
   ⟨"PWR_STATUS", 0x0004, 4, 1, 0x00000028, 0x0, 0x0, 0x0, 0x0⟩,
   ⟨"PWR_EVENT", 0x0008, 4, 1, 0x00000000, 0x0, 0x1FF, 0x0, 0x0⟩,
   ⟨"PWR_DOM_REQ", 0x000C, 4, 1, 0x00000000, 0x0, 0x0, 0x0, 0x0⟩,
   ⟨"PWR_DOM_RESP", 0x0010, 4, 1, 0x00000000, 0x0, 0x0, 0x0, 0x0⟩,
   ⟨"PWR_RAIL_STAT", 0x0014, 4, 1, 0x00000000, 0x0, 0x0, 0x0, 0x0⟩,
   ⟨"PWR_HALT_REQ_LO", 0x0018, 4, 1, 0x00000000, 0xFFFFFFFF, 0x0, 0x0, 0x0⟩,
   ⟨"PWR_HALT_REQ_HI", 0x001C, 4, 1, 0x00000000, 0xF, 0x0, 0x0, 0x0⟩,
   ⟨"PWR_HALTED_LO", 0x0020, 4, 1, 0x00000000, 0x0, 0x0, 0x0, 0x0⟩,
   ⟨"PWR_HALTED_HI", 0x0024, 4, 1, 0x00000000, 0x0, 0x0, 0x0, 0x0⟩,
   ⟨"PWR_DOMd", 0x0040, 4, 25, 0x00000000, 0x0, 0x0, 0x0, 0x0⟩,
   ⟨"PWR_STRAP", 0x0F80, 4, 1, 0x00000000, 0x0, 0x0, 0x0, 0x0⟩]

/-- CLK, base 0x2005_0000 (R466). -/
def clkRows : List RegRow :=
  [⟨"CLK_CTL", 0x0000, 4, 1, 0x00000000, 0x1, 0x0, 0x0, 0x0⟩,
   ⟨"CLK_STATUS", 0x0004, 4, 1, 0x00000001, 0x0, 0x0, 0x0, 0x0⟩,
   ⟨"CLK_EVENT", 0x0008, 4, 1, 0x00000000, 0x0, 0xF, 0x0, 0x0⟩,
   ⟨"CLK_XTAL_MON", 0x000C, 4, 1, 0x00000000, 0x0, 0x0, 0x0, 0x0⟩,
   ⟨"CLK_BKP_TRIM", 0x0010, 4, 1, 0x00000000, 0x0, 0x0, 0x0, 0x0⟩,
   ⟨"CLK_CLUSTERc", 0x0020, 4, 3, 0x00000640, 0x7FF, 0x0, 0x0, 0x0⟩,
   ⟨"CLK_DOMk", 0x0100, 4, 40, 0x00000000, 0x0, 0x0, 0x0, 0x0⟩]

/-- LANE n, base 0x2010_0000 + n * 0x1_0000 (R192, R215, R243). -/
def laneRows : List RegRow :=
  [⟨"LANE_FE_CTL", 0x0000, 4, 1, 0x00000000, 0x3FFE1, 0x0, 0x0, 0x0⟩,
   ⟨"LANE_FE_STATUS", 0x0004, 4, 1, 0x00E00000, 0x0, 0x0, 0x0, 0x0⟩,
   ⟨"LANE_FE_EVENT", 0x0008, 4, 1, 0x00000000, 0x0, 0x7FF, 0x0, 0x0⟩,
   ⟨"LANE_AFE_TBL", 0x000C, 4, 1, 0x00000000, 0xFFFFFFFF, 0x0, 0x0, 0x0⟩,
   ⟨"LANE_EQ_TBL", 0x0010, 4, 1, 0x00000000, 0xFFFFFFFF, 0x0, 0x0, 0x0⟩,
   ⟨"LANE_PRECOMP_TBL", 0x0014, 4, 1, 0x00000000, 0xFFFFFFFF, 0x0, 0x0, 0x0⟩,
   ⟨"LANE_PA_TBL", 0x0018, 4, 1, 0x00000000, 0xFFFFFFFF, 0x0, 0x0, 0x0⟩,
   ⟨"LANE_EQ_CFG", 0x001C, 4, 1, 0x00000307, 0x30F, 0x0, 0x0, 0x0⟩,
   ⟨"LANE_CLIP_CFG", 0x0020, 4, 1, 0x00080040, 0xF0FFF, 0x0, 0x0, 0x0⟩,
   ⟨"LANE_WG_CFG", 0x0024, 4, 1, 0x00000408, 0xF0F, 0x0, 0x0, 0x0⟩,
   ⟨"LANE_RDR_CFG", 0x0028, 4, 1, 0x00000418, 0xFFF, 0x0, 0x0, 0x0⟩,
   ⟨"LANE_TEMP", 0x002C, 4, 1, 0x00000000, 0x0, 0x0, 0x0, 0x0⟩,
   ⟨"LANE_RING_STAT", 0x0030, 4, 1, 0x00000000, 0x0, 0x0, 0x0, 0x0⟩,
   ⟨"LANE_PA_CMD", 0x0034, 4, 1, 0x00000000, 0x0, 0x0, 0x0, 0x0⟩,
   ⟨"LANE_PA_STAT", 0x0038, 4, 1, 0x00000000, 0x0, 0x0, 0x0, 0x0⟩,
   ⟨"LANE_RDRr_STAT", 0x0040, 4, 4, 0x00000000, 0x0, 0x0, 0x0, 0x0⟩,
   ⟨"LANE_RDR_MASK", 0x0050, 4, 1, 0x00000000, 0xFFFFFF, 0x0, 0x0, 0x0⟩,
   ⟨"LANE_EQ_TAPS", 0x0100, 4, 144, 0x00000000, 0x0, 0x0, 0x0, 0x0⟩,
   ⟨"LANE_DET_TBL", 0x0400, 4, 1, 0x00000000, 0xFFFFFFFF, 0x0, 0x0, 0x0⟩,
   ⟨"LANE_DEC_CFG", 0x0404, 4, 1, 0x00014802, 0x1FF0F, 0x0, 0x0, 0x0⟩,
   ⟨"LANE_RCV_CFG", 0x0408, 4, 1, 0x014D03D6, 0xFFFFFFF, 0x0, 0x0, 0x0⟩,
   ⟨"LANE_RAW_CFG", 0x040C, 4, 1, 0x00140206, 0xFF0F1F, 0x0, 0x0, 0x0⟩,
   ⟨"LANE_DEC_STAT", 0x0410, 4, 1, 0x00000000, 0x0, 0x0, 0x0, 0x0⟩,
   ⟨"LANE_DEC_EVENT", 0x0414, 4, 1, 0x00000000, 0x0, 0x7FD, 0x0, 0x0⟩] ++
  [⟨"LANE_ROW_CTL", 0x1000, 4, 1, 0x00000000, 0xF, 0x0, 0x0, 0x0⟩,
   ⟨"LANE_ROW_STATUS", 0x1004, 4, 1, 0x00000000, 0x0, 0x0, 0x0, 0x0⟩,
   ⟨"LANE_ROW_EVENT", 0x1008, 4, 1, 0x00000000, 0x0, 0x7FF, 0x0, 0x0⟩,
   ⟨"LANE_ROW_FAULT", 0x100C, 4, 1, 0x00000000, 0x0, 0x0, 0x0, 0x0⟩,
   ⟨"LANE_ROW_CFG", 0x1010, 4, 1, 0x00000040, 0xFF, 0x0, 0x0, 0x0⟩,
   ⟨"LANE_ROW_MARK", 0x1014, 4, 1, 0x00000000, 0x0, 0x0, 0x0, 0x0⟩,
   ⟨"LANE_ROW_CNT", 0x1018, 4, 1, 0x00000000, 0x0, 0x0, 0x0, 0x0⟩,
   ⟨"LANE_ROW_FLAG", 0x101C, 4, 1, 0x00000000, 0xFFFF, 0x0, 0x0, 0x0⟩,
   ⟨"LANE_ROW_SHADOW0", 0x1020, 4, 1, 0x00000000, 0xFFFFFFFF, 0x0, 0x0, 0x0⟩,
   ⟨"LANE_ROW_SHADOW1", 0x1024, 4, 1, 0x00000000, 0xFFFFFFFF, 0x0, 0x0, 0x0⟩,
   ⟨"LANE_ROW_LDADDR", 0x1030, 4, 1, 0x00000000, 0x10FFF, 0x0, 0x0, 0x0⟩,
   ⟨"LANE_ROW_LDDATA0-3", 0x1034, 4, 4, 0x00000000, 0xFFFFFFFF, 0x0, 0x0, 0x0⟩,
   ⟨"LANE_ROW_LDDATA4", 0x1044, 4, 1, 0x00000000, 0xFFFF, 0x0, 0x0, 0x0⟩,
   ⟨"LANE_ROW_LDCMD", 0x1048, 4, 1, 0x00000000, 0x0, 0x0, 0x0, 0x0⟩,
   ⟨"LANE_ROW_REMAP_USE", 0x1050, 4, 1, 0x00000000, 0x0, 0x0, 0x0, 0x0⟩,
   ⟨"LANE_ROW_REMAPk", 0x1080, 4, 16, 0x00000000, 0x0, 0x0, 0x0, 0x0⟩,
   ⟨"LANE_PAT_CTL", 0x1100, 4, 1, 0x00000000, 0x3, 0x0, 0x0, 0x0⟩,
   ⟨"LANE_PAT_STATUS", 0x1104, 4, 1, 0x00000000, 0x0, 0x0, 0x0, 0x0⟩,
   ⟨"LANE_PAT_EVENT", 0x1108, 4, 1, 0x00000000, 0x0, 0xFF, 0x0, 0x0⟩,
   ⟨"LANE_PAT_FAULT", 0x110C, 4, 1, 0x00000000, 0x0, 0x0, 0x0, 0x0⟩,
   ⟨"LANE_PAT_RING", 0x1110, 4, 1, 0x00000000, 0x3FFF3FFF, 0x0, 0x0, 0x0⟩,
   ⟨"LANE_PAT_DARN_ADDR", 0x1114, 4, 1, 0x00000000, 0xFF, 0x0, 0x0, 0x0⟩,
   ⟨"LANE_PAT_DARN_LO", 0x1118, 4, 1, 0x00000000, 0xFFFFFFFF, 0x0, 0x0, 0x0⟩,
   ⟨"LANE_PAT_DARN_HI", 0x111C, 4, 1, 0x00000000, 0xFFFFFFFF, 0x0, 0x0, 0x0⟩,
   ⟨"LANE_PAT_DARN_CMD", 0x1120, 4, 1, 0x00000000, 0x0, 0x0, 0x0, 0x0⟩] ++
  [⟨"LANE_PAT_DARN_SHADOW", 0x1124, 4, 1, 0x00000000, 0xFFFFFFFF, 0x0, 0x0, 0x0⟩,
   ⟨"LANE_PAT_MATCHn", 0x1180, 4, 32, 0x00000000, 0x80FF3FFF, 0x0, 0x0, 0x0⟩]

/-- the deep-decode pool, in L0's block (R216). -/
def ddpRows : List RegRow :=
  [⟨"DDP_CTL", 0x0800, 4, 1, 0x00000003, 0x3, 0x0, 0x0, 0x0⟩,
   ⟨"DDP_STATUS", 0x0804, 4, 1, 0x00000000, 0x0, 0x0, 0x0, 0x0⟩,
   ⟨"DDP_EVENT", 0x0808, 4, 1, 0x00000000, 0x0, 0xF, 0x0, 0x0⟩,
   ⟨"DDP_CFG", 0x080C, 4, 1, 0x00002028, 0x3F3F, 0x0, 0x0, 0x0⟩]

/-- SRV e, base 0x2020_0000 + e * 0x1_0000 (R144). -/
def srvRows : List RegRow :=
  [⟨"SRV_CTL", 0x0000, 4, 1, 0x00000000, 0xA0, 0x0, 0x100, 0x0⟩,
   ⟨"SRV_STATUS", 0x0004, 4, 1, 0x00000000, 0x0, 0x0, 0x0, 0x0⟩,
   ⟨"SRV_EVENT", 0x0008, 4, 1, 0x00000000, 0x0, 0xFFFF, 0x0, 0x0⟩,
   ⟨"SRV_TARGET", 0x000C, 4, 1, 0x00000000, 0x7FFFFFF, 0x0, 0x0, 0x0⟩,
   ⟨"SRV_REF_OFS", 0x0010, 4, 1, 0x00000000, 0xFFFF, 0x0, 0x0, 0x0⟩,
   ⟨"SRV_POS_LO", 0x0014, 4, 1, 0x00000000, 0x0, 0x0, 0x0, 0x0⟩,
   ⟨"SRV_POS_HI", 0x0018, 4, 1, 0x00000000, 0x0, 0x0, 0x0, 0x0⟩,
   ⟨"SRV_PES", 0x001C, 4, 1, 0x00000000, 0x0, 0x0, 0x0, 0x0⟩,
   ⟨"SRV_SV_CFG", 0x0020, 4, 1, 0x00000004, 0x0, 0x0, 0x0, 0xFFFF3F0F⟩,
   ⟨"SRV_RDSEL", 0x0024, 4, 1, 0x00000000, 0x0, 0x0, 0x0, 0xFFF⟩,
   ⟨"SRV_POS_CFG", 0x0028, 4, 1, 0x04100000, 0xFFFFFFF, 0x0, 0x0, 0x0⟩,
   ⟨"SRV_WF", 0x002C, 4, 1, 0x00CD007B, 0x3FF03FF, 0x0, 0x0, 0x0⟩,
   ⟨"SRV_SETTLE", 0x0030, 4, 1, 0x00006052, 0xF3FF, 0x0, 0x0, 0x0⟩,
   ⟨"SRV_SUP", 0x0034, 4, 1, 0x4258309A, 0xFFFF03FF, 0x0, 0x0, 0x0⟩,
   ⟨"SRV_MODEL_A1", 0x0038, 4, 1, 0x00000000, 0xFFFFFFFF, 0x0, 0x0, 0x0⟩,
   ⟨"SRV_MODEL_A2", 0x003C, 4, 1, 0x00000000, 0xFFFFFFFF, 0x0, 0x0, 0x0⟩,
   ⟨"SRV_MODEL_B1", 0x0040, 4, 1, 0x00000000, 0xFFFFFFFF, 0x0, 0x0, 0x0⟩,
   ⟨"SRV_MODEL_B2", 0x0044, 4, 1, 0x00000000, 0xFFFFFFFF, 0x0, 0x0, 0x0⟩,
   ⟨"SRV_MODEL_D", 0x0048, 4, 1, 0x00000000, 0x3, 0x0, 0x0, 0x0⟩,
   ⟨"SRV_VCM_LIM", 0x004C, 4, 1, 0x0001FFFF, 0x3FFFF, 0x0, 0x0, 0x0⟩,
   ⟨"SRV_PZ_LIM", 0x0050, 4, 1, 0x00007FFF, 0xFFFF, 0x0, 0x0, 0x0⟩,
   ⟨"SRV_SHOCK", 0x0054, 4, 1, 0x00100320, 0xFF3FFF, 0x0, 0x0, 0x0⟩,
   ⟨"SRV_SEEK", 0x0058, 4, 1, 0x00000000, 0xFFFFFFFF, 0x0, 0x0, 0x0⟩,
   ⟨"SRV_LOAD", 0x005C, 4, 1, 0x00000000, 0xFFFFFFFF, 0x0, 0x0, 0x0⟩] ++
  [⟨"SRV_UNLOAD", 0x0060, 4, 1, 0x00000000, 0xFFFFFFFF, 0x0, 0x0, 0x0⟩,
   ⟨"SRV_LOAD_CFG", 0x0064, 4, 1, 0x00209664, 0xFFFFFF, 0x0, 0x0, 0x0⟩,
   ⟨"SRV_RRO_CFG", 0x0068, 4, 1, 0x00000000, 0x3F, 0x0, 0x0, 0x0⟩,
   ⟨"SRV_RRO_TBL", 0x006C, 4, 1, 0x00000000, 0xFFFFFFFF, 0x0, 0x0, 0x0⟩,
   ⟨"SRV_XFF_K0", 0x0070, 4, 1, 0x00000000, 0xFFFFFFFF, 0x0, 0x0, 0x0⟩,
   ⟨"SRV_XFF_K1", 0x0074, 4, 1, 0x00000000, 0xFFFFFFFF, 0x0, 0x0, 0x0⟩,
   ⟨"SRV_XFF_K2", 0x0078, 4, 1, 0x00000000, 0xFFFFFFFF, 0x0, 0x0, 0x0⟩,
   ⟨"SRV_XFF_K3", 0x007C, 4, 1, 0x00000000, 0xFFFFFFFF, 0x0, 0x0, 0x0⟩,
   ⟨"SRV_DL_STAT", 0x0080, 4, 1, 0x00000000, 0x0, 0x0, 0x0, 0x0⟩,
   ⟨"SRV_TIMING", 0x0084, 4, 1, 0x000008B6, 0x0, 0x0, 0x0, 0x0⟩,
   ⟨"SRV_PORTHOLD", 0x0088, 4, 1, 0x00000400, 0x10FFF, 0x0, 0x0, 0x0⟩,
   ⟨"SRV_BANKA.cfg", 0x101C, 32, 24, 0x00000000, 0x3F, 0x0, 0x0, 0x0⟩,
   ⟨"SRV_BANKB.cfg", 0x181C, 32, 24, 0x00000000, 0x3F, 0x0, 0x0, 0x0⟩,
   ⟨"SRV_BANKA", 0x1000, 4, 192, 0x00000000, 0xFFFFFFFF, 0x0, 0x0, 0x0⟩,
   ⟨"SRV_BANKB", 0x1800, 4, 192, 0x00000000, 0xFFFFFFFF, 0x0, 0x0, 0x0⟩,
   ⟨"SRV_STATE", 0x2000, 4, 96, 0x00000000, 0x0, 0x0, 0x0, 0x0⟩]

/-- the sensor unit, in S0's block (R135). -/
def snsRows : List RegRow :=
  [⟨"SRV_SNS_CFG", 0x0090, 4, 1, 0x00000000, 0xFFFFFFFF, 0x0, 0x0, 0x0⟩]

/-- SPN, base 0x2030_0000 (R88). -/
def spnRows : List RegRow :=
  [⟨"SPN_CTL", 0x0000, 4, 1, 0x00000000, 0x4, 0x0, 0x100, 0x0⟩,
   ⟨"SPN_STATUS", 0x0004, 4, 1, 0x00000000, 0x0, 0x0, 0x0, 0x0⟩,
   ⟨"SPN_EVENT", 0x0008, 4, 1, 0x00000000, 0x0, 0x3FFD, 0x0, 0x0⟩,
   ⟨"SPN_SPEED", 0x000C, 4, 1, 0x00000000, 0x0, 0x0, 0x0, 0x0⟩,
   ⟨"SPN_MOTOR", 0x0010, 4, 1, 0x08041518, 0x0, 0x0, 0x0, 0xF0F1FFF⟩,
   ⟨"SPN_RS", 0x0014, 4, 1, 0x00000000, 0x0, 0x0, 0x0, 0xFFFFFFFF⟩,
   ⟨"SPN_LS", 0x0018, 4, 1, 0x00000000, 0x0, 0x0, 0x0, 0xFFFF⟩,
   ⟨"SPN_PSI", 0x001C, 4, 1, 0x00000000, 0x0, 0x0, 0x0, 0xFFFFFF⟩,
   ⟨"SPN_TBAND", 0x0020, 4, 1, 0x00200028, 0xFFF0FFF, 0x0, 0x0, 0x0⟩,
   ⟨"SPN_FLUXREF", 0x0024, 4, 1, 0x00001000, 0x1FFF, 0x0, 0x0, 0x0⟩,
   ⟨"SPN_SAMP", 0x0028, 4, 1, 0x00000606, 0xFFFF, 0x0, 0x0, 0x0⟩,
   ⟨"SPN_ILIM", 0x002C, 4, 1, 0x09C40708, 0xFFF0FFF, 0x0, 0x0, 0x0⟩,
   ⟨"SPN_THR_A", 0x0030, 4, 1, 0x5505465C, 0xFFFFFFFF, 0x0, 0x0, 0x0⟩,
   ⟨"SPN_THR_B", 0x0034, 4, 1, 0x06402814, 0x3FFFFFFF, 0x0, 0x0, 0x0⟩,
   ⟨"SPN_OBS", 0x0038, 4, 1, 0x000F31EC, 0xFFFFFF, 0x0, 0x0, 0x0⟩,
   ⟨"SPN_START", 0x003C, 4, 1, 0x00643332, 0xFFFFFF, 0x0, 0x0, 0x0⟩,
   ⟨"SPN_RECOV", 0x0040, 4, 1, 0x014321F4, 0xFFFFFFF, 0x0, 0x0, 0x0⟩,
   ⟨"SPN_BRAKE", 0x0044, 4, 1, 0x0000000A, 0xFF, 0x0, 0x0, 0x0⟩,
   ⟨"SPN_IPD", 0x0048, 4, 1, 0x00000014, 0xFF, 0x0, 0x0, 0x0⟩,
   ⟨"SPN_SPDLOOP", 0x004C, 4, 1, 0x00400200, 0xFFFFFFFF, 0x0, 0x0, 0x0⟩,
   ⟨"SPN_IPHASE", 0x0050, 4, 1, 0x00000000, 0x0, 0x0, 0x0, 0x0⟩,
   ⟨"SPN_TORQUE", 0x0054, 4, 1, 0x00000000, 0x0, 0x0, 0x0, 0x0⟩,
   ⟨"SPN_LOCKSTEP", 0x0058, 4, 1, 0x00000000, 0x0, 0x0, 0x0, 0x0⟩]

/-- YCK, base 0x2031_0000 (R118). -/
def yckRows : List RegRow :=
  [⟨"YCK_CTL", 0x0000, 4, 1, 0x00000000, 0x37, 0x0, 0x100, 0x0⟩,
   ⟨"YCK_STATUS", 0x0004, 4, 1, 0x00000003, 0x0, 0x0, 0x0, 0x0⟩,
   ⟨"YCK_EVENT", 0x0008, 4, 1, 0x00000000, 0x0, 0x1FFF, 0x0, 0x0⟩,
   ⟨"YCK_CT_CFG", 0x000C, 4, 1, 0x00000000, 0x0, 0x0, 0x0, 0xFFFFFF⟩,
   ⟨"YCK_WEDGE", 0x0010, 4, 1, 0x00000000, 0x0, 0x0, 0x0, 0x7FF⟩,
   ⟨"YCK_IDX_CFG", 0x0014, 4, 1, 0x00000204, 0x33F, 0x0, 0x0, 0x0⟩,
   ⟨"YCK_LOS", 0x0018, 4, 1, 0x00204019, 0xFFFFFF, 0x0, 0x0, 0x0⟩,
   ⟨"YCK_SW_CFG", 0x001C, 4, 1, 0x00010810, 0xFFFFFF, 0x0, 0x0, 0x0⟩,
   ⟨"YCK_YOFS_LO", 0x0020, 4, 1, 0x00000000, 0x0, 0x0, 0x0, 0x0⟩,
   ⟨"YCK_YOFS_HI", 0x0024, 4, 1, 0x00000000, 0x0, 0x0, 0x0, 0x0⟩,
   ⟨"YCK_MPHASE_LO", 0x0028, 4, 1, 0x00000000, 0x0, 0x0, 0x0, 0x0⟩,
   ⟨"YCK_MPHASE_HI", 0x002C, 4, 1, 0x00000000, 0x0, 0x0, 0x0, 0x0⟩,
   ⟨"YCK_SYNC_CFG", 0x0030, 4, 1, 0x00000003, 0x1F, 0x0, 0x0, 0x0⟩,
   ⟨"YCK_GAUGE_CTL", 0x0034, 4, 1, 0x00400221, 0xFFFFF1, 0x0, 0x0, 0x0⟩,
   ⟨"YCK_GAUGE_DRIFT", 0x0038, 4, 1, 0x00000208, 0xFFF, 0x0, 0x0, 0x0⟩,
   ⟨"YCK_WCK_CFG", 0x003C, 4, 1, 0x00000008, 0xF, 0x0, 0x0, 0x0⟩,
   ⟨"YCK_LANEn_ROW", 0x0040, 16, 5, 0x00000000, 0xFFFFFFC0, 0x0, 0x0, 0x0⟩,
   ⟨"YCK_LANEn_NEXT", 0x0044, 16, 5, 0x00000000, 0xFFFFFFC0, 0x0, 0x0, 0x0⟩,
   ⟨"YCK_LANEn_STAT", 0x0048, 16, 5, 0x00000000, 0x0, 0x0, 0x0, 0x0⟩]

/-- SPE, base 0x2040_0000 (R270). -/
def speRows : List RegRow :=
  [⟨"SPE_CTL", 0x0000, 4, 1, 0x00000000, 0x3, 0x0, 0x100, 0x0⟩,
   ⟨"SPE_STATUS", 0x0004, 4, 1, 0x00000000, 0x0, 0x0, 0x0, 0x0⟩,
   ⟨"SPE_EVENT", 0x0008, 4, 1, 0x00000000, 0x0, 0x1FF, 0x0, 0x0⟩,
   ⟨"SPE_LAYOUT_CFG", 0x000C, 4, 1, 0x00000618, 0x1071F, 0x0, 0x0, 0x0⟩,
   ⟨"SPE_RING", 0x0010, 4, 1, 0x00000000, 0x3FFF3FFF, 0x0, 0x0, 0x0⟩,
   ⟨"SPE_JRNL_CFG", 0x0014, 4, 1, 0x14050040, 0xFFFFFFFF, 0x0, 0x0, 0x0⟩,
   ⟨"SPE_JRNL_MEMB", 0x0018, 4, 1, 0x00000000, 0x79F9F9F, 0x0, 0x0, 0x0⟩,
   ⟨"SPE_JRNL_NEXT_LO", 0x001C, 4, 1, 0x00000000, 0xFFFFFFFF, 0x0, 0x0, 0x0⟩,
   ⟨"SPE_JRNL_NEXT_HI", 0x0020, 4, 1, 0x00000000, 0xFFFFFFFF, 0x0, 0x0, 0x0⟩,
   ⟨"SPE_JRNL_DUR_LO", 0x0024, 4, 1, 0x00000000, 0x0, 0x0, 0x0, 0x0⟩,
   ⟨"SPE_JRNL_DUR_HI", 0x0028, 4, 1, 0x00000000, 0x0, 0x0, 0x0, 0x0⟩,
   ⟨"SPE_JRNL_LIVE", 0x002C, 4, 1, 0x00000000, 0x0, 0x0, 0x0, 0x0⟩,
   ⟨"SPE_JRNL_GRP", 0x0030, 4, 1, 0x00000000, 0xFFFFFFFF, 0x0, 0x0, 0x0⟩,
   ⟨"SPE_JRNL_APPEND", 0x0034, 4, 1, 0x00000000, 0x0, 0x0, 0x0, 0x0⟩,
   ⟨"SPE_JRNL_ACK", 0x0038, 4, 1, 0x00000000, 0x0, 0x0, 0x0, 0x0⟩,
   ⟨"SPE_BMAP_BASE", 0x003C, 4, 1, 0x00000000, 0xFFFFFFFF, 0x0, 0x0, 0x0⟩,
   ⟨"SPE_BMAP_SET", 0x0040, 4, 1, 0x00000000, 0x0, 0x0, 0x0, 0x0⟩,
   ⟨"SPE_ABSENT", 0x0044, 4, 1, 0x00000000, 0xFFFFFF, 0x0, 0x0, 0x0⟩,
   ⟨"SPE_CAL", 0x0048, 4, 1, 0x00000000, 0x9F, 0x0, 0x0, 0x0⟩,
   ⟨"SPE_JOB_STAT", 0x004C, 4, 1, 0x00000000, 0x0, 0x0, 0x0, 0x0⟩,
   ⟨"SPE_STAGE", 0x0100, 4, 64, 0x00000000, 0xFFFFFFFF, 0x0, 0x0, 0x0⟩]

/-- HIF, base 0x2050_0000 (R486). -/
def hifRows : List RegRow :=
  [⟨"HIF_CTL", 0x0000, 4, 1, 0x00000000, 0x7, 0x0, 0x0, 0x0⟩,
   ⟨"HIF_STATUS", 0x0004, 4, 1, 0x00000000, 0x0, 0x0, 0x0, 0x0⟩,
   ⟨"HIF_EVENT", 0x0008, 4, 1, 0x00000000, 0x0, 0xFFFF, 0x0, 0x0⟩,
   ⟨"HIF_FE_MAP", 0x000C, 4, 1, 0x00000002, 0xF, 0x0, 0x0, 0x0⟩,
   ⟨"HIF_FSEQ_LO", 0x0010, 4, 1, 0x00000000, 0x0, 0x0, 0x0, 0x0⟩,
   ⟨"HIF_FSEQ_HI", 0x0014, 4, 1, 0x00000000, 0x0, 0x0, 0x0, 0x0⟩,
   ⟨"HIF_CMD_RING", 0x0018, 4, 1, 0x00000000, 0x3FFF3FFF, 0x0, 0x0, 0x0⟩,
   ⟨"HIF_CPL_RING", 0x001C, 4, 1, 0x00000000, 0x3FFF3FFF, 0x0, 0x0, 0x0⟩]

/-- CAP, base 0x2060_0000 (R413). -/
def capRows : List RegRow :=
  [⟨"CAP_CTL", 0x0000, 4, 1, 0x00000000, 0x3FFF0003, 0x0, 0x0, 0x0⟩,
   ⟨"CAP_CFG", 0x0004, 4, 1, 0x00000801, 0xFF0F, 0x0, 0x0, 0x0⟩,
   ⟨"CAP_SRC", 0x0008, 4, 1, 0x00000000, 0x11F1F, 0x0, 0x0, 0x0⟩,
   ⟨"CAP_STATUS", 0x000C, 4, 1, 0x00000003, 0x0, 0x0, 0x0, 0x0⟩,
   ⟨"CAP_EVENT", 0x0010, 4, 1, 0x00000000, 0x0, 0xF, 0x0, 0x0⟩]

end Sys2Proof.Machine
end

