-- ==== Sys2Proof/Config.lean ====
section
/-!
DEFINITION. What an implementation fixes and the spec does not: the free values.
A free value is an opaque constant with no body, so that no proof can see what it is (notes/assumptions/2.md).
-/
namespace Sys2Proof

/-- The values the spec leaves open: the n-th free value of a run, where n is the counter `State.free` (log entry 2). -/
opaque Config.freeValue : Nat → BitVec 64

/-- CLK_BKP_TRIM [11:0]: "from OTP" (R466); the part's own one-time-programmed trim code. -/
opaque Config.backupTrim : BitVec 12

/-- The Row words without their parity, the dispatch addresses and the darn words of a firmware image of a version: Voxwald's own (R217, R237,
R298; log entry 143). -/
opaque Config.rowImage (version word : Nat) : BitVec 140
opaque Config.dispatchImage (version entry : Nat) : BitVec 12
opaque Config.darnImage (version word : Nat) : BitVec 64

/-- Where the initial tap set of a head, recording zone and mode lies, in bytes from LANE_EQ_TBL: the spec gives the table's address and not
its layout (R179, R192; log entry 139). -/
opaque Config.tapPlace (head zone mode : Nat) : Nat

/-- The digest of Fixity Digest over the user data of blocks in LBA order: SHA3-256 or SHA-256 (R296), whose definitions lie outside
the spec (log entry 58). -/
opaque Config.digest (sha3 : Bool) (blocks : List Nat) : BitVec 256

end Sys2Proof
end

