-- ==== Sys2Proof/Machine/Parts/Flt.lean ====
section
/-!
DEFINITION. The fault and interrupt controller's part of the state (chapter "Faults and In-Service Repair", and the binding
registers of "Architecture of the Mionar").
-/
namespace Sys2Proof.Machine

/-- A register store: the words that differ from their reset value, by offset, offsets strictly rising (R16, R19). -/
abbrev Regs := List (Nat × Word)

/-- A reaction FLT delivered, or deferred during a warm reset (R416, R418, R423). -/
structure Delivery where
  src : Nat
  core : Nat
  rung : Rung
  deriving DecidableEq, Repr

/-- A Fault History record (R380): the fields that vary. -/
structure FaultRecord where
  timeMs : Nat
  poh : Nat
  src : Nat
  cls : Nat
  rung : Nat
  pin : Bool
  repeats : Nat
  unit : Nat
  /-- 0 FLT source; 1 journal gap; 2 refuge loss; 3 fence withheld; 4 bind-off checkpoint prevented; 5 scrub mismatch; 6 activation rolled back -/
  kind : Nat
  detail : Nat
  deriving DecidableEq, Repr

/-- A corrected SRAM error the patrol remembers (R429): region, row, patrol pass and time in ms. -/
structure SramEvent where
  region : Nat
  row : Nat
  pass : Nat
  ms : Nat
  deriving DecidableEq, Repr

/-- The record of R428 kept in boot flash: units that failed in service. -/
structure FailRecord where
  lanes : BitVec 5
  engines : BitVec 5
  cores : BitVec 36
  clusters : BitVec 3
  deriving DecidableEq, Repr

structure Flt where
  /-- FLT_CTL, FLT_INJ_ARG, FLT_SRC_CFGs and the staged words of FLT_INJ_UNLOCK (R435) -/
  regs : Regs
  /-- FLT_LANE_MAP and FLT_SRV_MAP (R30, R31) -/
  laneMap : Word
  srvMap : Word
  /-- FLT_BIND_ERR (R32) -/
  bindErr : Word
  /-- roles in force and their staged copies (R35) -/
  role : Vector Role 36
  staged : Vector Role 36
  /-- FLT_PENDk, bit per source (R416, R419) -/
  pend : BitVec 640
  /-- pending sources whose occurrence had the PIN flag (R416, R61) -/
  pinPend : BitVec 640
  /-- occurrences since FLT_PENDk, and since the event register of a bit, was last read: a clear leaves them (R20); by source, and from
  640 on the event bits without one (log entry 149) -/
  freshPend : BitVec 640
  freshEvt : BitVec 704
  /-- FLT_RAWk: the sources of the latest occurrence (R418) -/
  raw : BitVec 640
  /-- step counts of C1 to C5 (R420), index 0 for C1 -/
  steps : Vector Nat 5
  /-- FLT_LAST (R435) -/
  last : Word
  /-- reactions delivered for pending sources (R416, R418) -/
  delivered : List Delivery
  /-- reactions deferred to step 4 of a warm reset (R423) -/
  deferred : List Delivery
  /-- a CHIP reaction has been taken and its warm reset has not run (R421) -/
  chipReq : Bool
  /-- FLT_STATUS.warm (R435) -/
  warm : Bool
  /-- times in ms of the warm resets of the last hour, newest first, and their number since power-on (R423) -/
  chipTimes : List Nat
  chipTotal : Nat
  /-- FLT_STATUS.reseeded (R424, R435) -/
  reseeded : Bool
  /-- FLT_STATUS.inj_open and FLT_INJ_NONCE (R434) -/
  injOpen : Bool
  nonce : BitVec 64
  /-- armed injections: kind and argument, taken by the next event of their kind (R434) -/
  armed : List (Nat × Nat)
  /-- spare rows in use per region, and as the remap map in boot flash has them since the last hourly write (R429) -/
  spareUse : Vector Nat 10
  spareSaved : Vector Nat 10
  /-- corrected errors remembered for R429, and the number of the running patrol pass -/
  sramSeen : List SramEvent
  patrolPass : Nat
  /-- FLT_RLD_STAT (R432) -/
  rldFailed : BitVec 2
  mirror : Bool
  /-- times in ms of uncorrectable bursts of each channel (R431) -/
  rldBursts : Vector (List Nat) 2
  /-- time in ms of each core's last machine check (R425) -/
  coreCheck : Vector (Option Nat) 36
  /-- block resets each core has taken under BLK (R417) -/
  coreResets : Vector Nat 36
  /-- cores failed of late: core and time in ms (R425) -/
  coreFails : List (Nat × Nat)
  /-- clusters that have failed (R30, R425) -/
  clusterFailed : BitVec 3
  /-- times in ms of sequencer faults in Voxwald words, per lane (R426) -/
  seqFaults : Vector (List Nat) 5
  /-- consecutive operations on different heads that failed every sector at rung 1, per lane: heads, newest first (R426) -/
  rungOne : Vector (List Nat) 5
  /-- the record of R428 -/
  failRec : FailRecord
  /-- the Fault History log, newest first, at most 256, and the records made since manufacture (R380) -/
  history : List FaultRecord
  historyTotal : Nat
  deriving DecidableEq, Repr

/-- The roles the cores take at every full-device reset (R27). -/
def coreRoles : Vector Role 36 :=
  Vector.ofFn fun c : Fin 36 =>
    if c.val = 10 ∨ c.val = 22 ∨ c.val = 32 ∨ c.val = 33 then .hook
    else if c.val = 11 ∨ c.val = 23 ∨ c.val = 34 ∨ c.val = 35 then .spare
    else .resident

/-- FLT right after a full-device reset (R435, R30). -/
def Flt.reset : Flt :=
  { regs := [], laneMap := 0x4688#32, srvMap := 0x4688#32, bindErr := 0, role := coreRoles, staged := coreRoles,
    pend := 0, pinPend := 0, freshPend := 0, freshEvt := 0, raw := 0, steps := Vector.replicate 5 0, last := 0, delivered := [], deferred := [],
    chipReq := false, warm := false, chipTimes := [], chipTotal := 0, reseeded := false, injOpen := false, nonce := 0,
    armed := [], spareUse := Vector.replicate 10 0, spareSaved := Vector.replicate 10 0, sramSeen := [], patrolPass := 0, rldFailed := 0, mirror := false,
    rldBursts := Vector.replicate 2 [], coreCheck := Vector.replicate 36 none, coreResets := Vector.replicate 36 0,
    coreFails := [], clusterFailed := 0, seqFaults := Vector.replicate 5 [], rungOne := Vector.replicate 5 [],
    failRec := { lanes := 0, engines := 0, cores := 0, clusters := 0 }, history := [], historyTotal := 0 }

end Sys2Proof.Machine
end

