-- ==== Sys2Proof/Machine/Parts/Arr.lean ====
section
/-!
DEFINITION. The array: members, host zones, their content and what is recorded of it, rebuild, reshape, scrub (chapters "Surface
Parity" and "Member Lifecycle, Rebuild and Reshape").
-/
namespace Sys2Proof.Machine

/-- Member states (R272), in the order of their codes. -/
inductive MemberState where
  | active
  | suspect
  | fenced
  | spare
  | qualifying
  | retired
  deriving DecidableEq, Repr

/-- A frogged extent of a member (R274): the zone, the stripe position and the generation it was written in. -/
structure Frog where
  zone : Nat
  pos : Nat
  gen : Nat
  deriving DecidableEq, Repr

structure Member where
  state : MemberState
  /-- generation (R274) -/
  gen : Nat
  /-- flags of the Surface State log (R276, R287, R288, R308) -/
  returned : Bool
  withheld : Bool
  tablesLost : Bool
  standing : Bool
  /-- no usable reader in the recording zones of its host zones, or in its metadata zone (R180, R255, R276) -/
  noReader : Bool
  /-- cause of the last suspect (1 to 6) or fence (1 to 5) trigger, power-on seconds of the last state change and of the last
  suspect trigger (R273, R379) -/
  cause : Nat
  changedAt : Nat
  suspectAt : Nat
  /-- successful probes in a row (R287), failed requalifications (R273), scrub period override in days (R373) -/
  probes : Nat
  requalFails : Nat
  scrubDays : Nat
  /-- the swatch part of the running requalification has passed (R288) -/
  swatched : Bool
  /-- result of the last requalification (R381): 0 none, 1 passed, 2 swatches failed, 3 verify failed -/
  requalResult : Nat
  /-- verify failures per 10,000 sectors of that requalification (R381) -/
  requalRate : Nat
  frog : List Frog
  deriving DecidableEq, Repr

/-- Zone states (R343, R344). -/
inductive ZState where
  | empty
  | implicitOpen
  | explicitOpen
  | closed
  | full
  | readOnly
  | offline
  deriving DecidableEq, Repr

/-- A rebuild target of one position (R279, R281, R288): the fenced member and the generation its fence gave it, the target member
and its generation, and whether REBUILT has been appended. -/
structure Target where
  pos : Nat
  fenced : Nat
  fgen : Nat
  member : Nat
  gen : Nat
  rebuilt : Bool
  deriving DecidableEq, Repr

/-- A host zone (R244, R249, R343): its namespace and place in it, its layout, its members by stripe position with the generations
recorded at placement, its state, write pointer, format, and the command that last wrote it. -/
structure Zone where
  ns : Nat
  index : Nat
  conv : Bool
  w : Nat
  c : Nat
  place : List (Nat × Nat)
  st : ZState
  wp : Nat
  degraded : Bool
  lastWrite : Nat
  targets : List Target
  deriving DecidableEq, Repr

/-- A block's newest version (R40, R357, R363): user data, application tag, and where it stands: acknowledged, durable, written to the
protected write log; and the durable version it replaces, while it is not durable itself. -/
structure Block where
  data : Nat
  app : Nat
  acked : Bool
  durable : Bool
  logged : Bool
  prev : Option (Nat × Nat)
  /-- where its copies are held while it is not in its zone (R7, R40, R432): bit 0 RLD-A, bit 1 RLD-B, bit 2 the SAB mirror area -/
  copies : BitVec 3 := 0
  deriving DecidableEq, Repr

/-- A Lost Stripe record (R285). -/
structure Lost where
  zone : Nat
  row : Nat
  offsets : BitVec 16
  positions : BitVec 24
  cause : Nat
  poh : Nat
  deriving DecidableEq, Repr

/-- A unit left unwritten because its member could not be written (R510). -/
structure Skipped where
  zone : Nat
  row : Nat
  pos : Nat
  offsets : BitVec 16
  deriving DecidableEq, Repr

/-- Availability of one actuator (R277): flagged unavailable, since when in ms, the times in ms of its load failures and hold
timeouts, and whether it is being reloaded. -/
structure ActAvail where
  /-- the actuator is unavailable and since when; times of failed loads and of hold timeouts; a reload is under way (R277) -/
  unavailable : Bool
  since : Nat
  loadFails : List Nat
  holdTmos : List Nat
  reloading : Bool
  deriving DecidableEq, Repr

/-- A reshape (R290, R291): drive-wide indices of its zones in order, the layout, how many zones the boundary has passed, and the zone
being copied with the range-lock entry that holds it. -/
structure Reshape where
  zones : List Nat
  w : Nat
  c : Nat
  boundary : Nat
  copying : Option (Nat × Nat)
  deriving DecidableEq, Repr

/-- A change that takes effect when its zone-map entry is durable (R281, R288, R291, R294): a position REBUILT on its target, a
position migrated to a member's data tracks, a zone switched or converted, with the range-lock entry that held it. -/
inductive ZCommit where
  | rebuilt (n p : Nat)
  | migrated (n p m g : Nat)
  | switched (n : Nat) (z : Zone) (lock : Option Nat)
  deriving DecidableEq, Repr

/-- A calibration request (R372, R373). -/
structure CalRequest where
  id : Nat
  member : Nat
  zone : Nat
  kinds : Nat
  poh : Nat
  deriving DecidableEq, Repr

structure Arr where
  /-- the 24 members (R272, R273) -/
  member : Vector Member 24
  /-- the availability of the four actuators (R277) -/
  avail : Vector ActAvail 4
  /-- actuators and heads the adaptation tables declare absent (R62) -/
  absent : BitVec 24
  /-- host zones by drive-wide index (R508) -/
  zones : List (Nat × Zone)
  /-- blocks by 65,536 * zone + offset -/
  blocks : List (Nat × Block)
  /-- zone-map version (R297) -/
  version : Nat
  /-- free spare-band extents of each member (R168, R279) -/
  spareExtents : Vector Nat 24
  /-- the Lost Stripe List, and merges of its entries (R284, R285) -/
  lost : List Lost
  lostMerges : Nat
  /-- units left unwritten because their member could not be written (R510) -/
  skipped : List Skipped
  /-- changes by the seq of their zone-map entry, oldest first -/
  commits : List (Nat × ZCommit)
  /-- fences by member and the generation they gave, oldest first: the fence records (R288) -/
  fences : List (Nat × Nat)
  /-- the rebuild cursor, a zone index (R280) -/
  cursor : Nat
  /-- rows of the cursor's zone that the running pass has rebuilt (R280) -/
  rowsDone : Nat
  /-- rows rebuilt in zones that rebuild has left before their last row, where it resumes (R473) -/
  rebuildAt : List (Nat × Nat)
  /-- the reshape that runs (R290 to R293), and zones put off for later -/
  reshape : Option Reshape
  deferred : List Nat
  /-- zones being converted, with the number of their range-lock entry, 0 for none (R294) -/
  converting : List (Nat × Nat)
  /-- zones that a reshape skipped (R291) -/
  skippedZones : List Nat
  /-- zones whose fence record waits for no target: spare-low was raised (R279) -/
  spareLow : Bool
  /-- changes the Surface State log reports (R379) -/
  changes : Nat
  /-- calibrations queued, oldest first, and the next request ID (R372); calibrations ended, newest first -/
  calReqs : List CalRequest
  calNext : Nat
  calDone : List (CalRequest × Nat)
  /-- the last zone and row of the scrub pass, none before the first pass (R295) -/
  scrubAt : Option (Nat × Nat)
  /-- next sector of each actuator's protected write log (R169, R260) -/
  logAt : Vector Nat 4
  deriving DecidableEq, Repr

/-- A member of a drive as it leaves the factory (R274). -/
def Member.factory : Member :=
  { state := .active, gen := 0, returned := false, withheld := false, tablesLost := false, standing := false, noReader := false,
    cause := 0, changedAt := 0, suspectAt := 0, probes := 0, requalFails := 0, scrubDays := 0, swatched := false,
    requalResult := 0, requalRate := 0, frog := [] }

def ActAvail.reset : ActAvail := { unavailable := false, since := 0, loadFails := [], holdTmos := [], reloading := false }

/-- The array as it leaves the factory: every member ACTIVE at generation 0, no namespace, and the reference drive's spare extents (R505). -/
def Arr.reset : Arr :=
  { member := Vector.replicate 24 .factory, avail := Vector.replicate 4 .reset, absent := 0, zones := [], blocks := [],
    version := 0, spareExtents := Vector.replicate 24 20330, lost := [], lostMerges := 0, skipped := [], commits := [], fences := [],
    cursor := 0, rowsDone := 0, rebuildAt := [],
    reshape := none, deferred := [], converting := [], skippedZones := [], spareLow := false, changes := 0, calReqs := [], calNext := 0,
    calDone := [], scrubAt := none, logAt := Vector.replicate 4 0 }

end Sys2Proof.Machine
end

