-- ==== Sys2Proof/Machine/Parts/Dma.lean ====
section
/-!
DEFINITION. The DMA engine's, hardware queue manager's and capture port's parts of the state (chapter "DMA and Hardware Queues").
-/
namespace Sys2Proof.Machine

/-- DMA_CHn_STAT.state, in the order of its codes (R411). -/
inductive ChanState where
  | idle
  | running
  | waiting
  | parked
  | stopped
  deriving DecidableEq, Repr

/-- One DMA channel (R384 to R396, R411). -/
structure Chan where
  /-- DMA_CHn: state, current descriptor, residue, pending requests, flag, spurious requests, stop code, descriptors done (R384, R389, R411) -/
  state : ChanState
  cur : Nat
  resid : Nat
  pend : Nat
  flag : Bool
  spur : Nat
  code : Nat
  done : Nat
  deriving DecidableEq, Repr

structure Dma where
  /-- DMA_CTL, DMA_EVENT, the timers, and each channel's CFG and HEAD (R411) -/
  regs : Regs
  /-- DMA_IRQ (R411) -/
  irq : BitVec 64
  /-- the 64 channels (R383) -/
  chan : Vector Chan 64
  /-- DMA_QUIESCE: the domain being quiesced, and the channels it still waits for (R397) -/
  quiesce : Option Nat
  affected : BitVec 64
  deriving DecidableEq, Repr

/-- A packet of a ring (R401, R404). -/
structure Packet where
  /-- the requester that produced it: a core's number, 36 the management endpoint, 64 and up an engine -/
  owner : Nat
  /-- its length word has not been written -/
  isOpen : Bool
  /-- header words 0 to 3 -/
  h0 : Word
  h1 : Word
  h2 : Word
  h3 : Word
  /-- body words, four to a slot -/
  body : List Word
  /-- a body slot beyond the limit was written -/
  excess : Bool
  /-- FLUSH_PKT: discarded when it closes, or finished by the consumer that reads it -/
  marked : Bool
  /-- the requester that reads it -/
  reader : Option Nat
  deriving DecidableEq, Repr

/-- A ring (R399, R406). -/
structure Ring where
  /-- the ring takes packets; the base of its bodies (R399, R412) -/
  enabled : Bool
  base : Nat
  /-- HQM_RCFG and HQM_RWM -/
  cfg : Word
  wm : Word
  /-- packets, the head first -/
  packets : List Packet
  /-- pacing is asserted (R406) -/
  pacing : Bool
  /-- FLUSH_PKT runs until the marked packets are gone (R404) -/
  flushing : Bool
  deriving DecidableEq, Repr

/-- What a stalled port waits to do (R403). -/
inductive Stalled where
  | opening
  | slot (w : Vector Word 4)
  | header
  /-- an engine's whole packet: its type and body words -/
  | post (type : Nat) (body : List Word)
  deriving DecidableEq, Repr

/-- A requester's port (R400, R401, R402). -/
structure HqmPort where
  /-- the ring the producer port names, with the header words written so far (R400, R401) -/
  prodRing : Nat
  h : Vector Word 3
  /-- words of the next body slot, D0 to D2 -/
  d : Vector Word 3
  /-- the ring its open packet lies in; lost when FLUSH_NOW discarded the packet -/
  openIn : Option Nat
  lost : Bool
  /-- the close word and the slots written of the open packet (R401) -/
  close : Nat
  written : Nat
  /-- the ring the consumer port names (R400) -/
  consRing : Nat
  /-- the packet it reads lies at the head of this ring; slots read so far -/
  reading : Option Nat
  nextSlot : Nat
  /-- the packet it was reading has been discarded (R404) -/
  flushed : Bool
  deriving DecidableEq, Repr

structure Hqm where
  /-- HQM_CTL, HQM_EVENT, HQM_RSEL, HQM_NOTIFY (R412) -/
  regs : Regs
  /-- rings that are not in their reset state, by number -/
  rings : List (Nat × Ring)
  /-- ports that are not in their reset state, by requester -/
  ports : List (Nat × HqmPort)
  /-- stalled accesses in arrival order: requester, ring and what waits (R403) -/
  stalls : List (Nat × Nat × Stalled)
  deriving DecidableEq, Repr

structure Cap where
  /-- CAP_CTL, CAP_CFG, CAP_SRC, CAP_EVENT (R413) -/
  regs : Regs
  /-- CAP_HOLD is asserted (R409) -/
  hold : Bool
  /-- frames dropped (R409, R413) -/
  dropped : Nat
  /-- sequence numbers of the sample streams, per lane (R410) -/
  seq : Vector Nat 5
  deriving DecidableEq, Repr

def Chan.reset : Chan := { state := .idle, cur := 0, resid := 0, pend := 0, flag := false, spur := 0, code := 0, done := 0 }

/-- DMA right after a full-device reset (R411). -/
def Dma.reset : Dma :=
  { regs := [], irq := 0, chan := Vector.replicate 64 .reset, quiesce := none, affected := 0 }

/-- A ring right after reset (R412). -/
def Ring.reset : Ring :=
  { enabled := false, base := 0, cfg := 0x4#32, wm := 0x000C0004#32, packets := [], pacing := false, flushing := false }

/-- A port right after reset (R412). -/
def HqmPort.reset : HqmPort :=
  { prodRing := 0, h := Vector.replicate 3 0, d := Vector.replicate 3 0, openIn := none, lost := false, close := 0, written := 0,
    consRing := 0, reading := none, nextSlot := 0, flushed := false }

/-- HQM right after a full-device reset (R412). -/
def Hqm.reset : Hqm := { regs := [], rings := [], ports := [], stalls := [] }

/-- CAP right after a full-device reset: disabled, CAP_XOFF and CAP_HOLD asserted (R408, R413). -/
def Cap.reset : Cap :=
  { regs := [], hold := true, dropped := 0, seq := Vector.replicate 5 0 }

end Sys2Proof.Machine
end

