-- ==== Sys2Proof/Machine/Parts/Host.lean ====
section
/-!
DEFINITION. The host interface's part of the state: ports and controllers, commands in flight, features, firmware slots, Opal,
sanitize, self-test and the management endpoint (chapters "Host Link" and "Command Processing").
-/
namespace Sys2Proof.Machine

/-- Role of a controller (R330), in the order of the codes of R333. -/
inductive CtlRole where
  | none
  | standby
  | attached
  deriving DecidableEq, Repr

/-- One port with its controller (R326 to R338, R333, R486). -/
structure Ctl where
  /-- CC.EN, CSTS.RDY, CSTS.SHST, CSTS.NSSRO -/
  en : Bool
  rdy : Bool
  shst : Nat
  nssro : Bool
  /-- the controller's role (R331) -/
  role : CtlRole
  /-- a role change waits for the end of an activation hold (R332): the role it takes -/
  waiting : Option CtlRole
  /-- HIF_VSEC_CTL.auto and .force, HIF_VSEC_STATUS [6:4] and [15:8] -/
  auto : Bool
  force : Bool
  attach : Nat
  changes : Nat
  /-- the rejoin window is open (R334) -/
  rejoin : Bool
  /-- link up, its width and rate (HIF_STATUS), L1.2, PERSTn_N asserted -/
  linkUp : Bool
  width : Nat
  rate : Nat
  l12 : Bool
  perst : Bool
  /-- I/O queues: id, size, and the completion queue or vector -/
  sqs : List (Nat × Nat × Nat)
  cqs : List (Nat × Nat × Nat)
  /-- Asynchronous Event Requests outstanding, by fetch sequence, oldest first; events retained until their log page
  is read (R382), by the dword 0 that reports them, each with whether it has been reported -/
  aers : List Nat
  events : List (Nat × Bool)
  deriving DecidableEq, Repr

/-- A completion posted to the host: the controller (2 for the management endpoint), the command's fetch sequence, its status, dwords 0 and 1, and the data that
went to the host (blocks, or one page as a little-endian number). -/
structure Completion where
  ctl : Nat
  fseq : Nat
  status : Status
  dw0 : Nat
  dw1 : Nat
  data : List Nat
  deriving DecidableEq, Repr

/-- A fetched command that has not started (R354). -/
structure Fetched where
  fseq : Nat
  ctl : Nat
  cmd : RawCmd
  deriving DecidableEq, Repr

/-- An entry of the range-lock table (R355). -/
structure Lock where
  ns : Nat
  first : Nat
  last : Nat
  modify : Bool
  fseq : Nat
  deriving DecidableEq, Repr

/-- Where a fetched I/O command stands: stalled in the range lock (R355), held (R362), or its completion waits for room (R363). -/
inductive IoPhase where
  | stalled
  | held
  | waiting
  deriving DecidableEq, Repr

/-- An I/O command that has not completed: its fetch time in ms. -/
structure InFlight where
  fseq : Nat
  ctl : Nat
  io : IoCmd
  phase : IoPhase
  at_ : Nat
  /-- blocks a held read has transferred already, by index, with their data (R80) -/
  got : List (Nat × Nat) := []
  deriving DecidableEq, Repr

/-- A Flush that waits (R364): the blocks it covers, by key. -/
structure FlushWait where
  fseq : Nat
  ctl : Nat
  keys : List Nat
  /-- when it was fetched, in ms (R362, R364) -/
  at_ : Nat
  deriving DecidableEq, Repr

/-- A namespace (R342, R345): zoned or NVM command set, LBA format 1 and its metadata in an extended LBA, PI type 1 and its PIP value, shared, controllers it is attached to, drive-wide
indices of its host zones in LBA order, its layout, its format's conventional zone count. -/
structure Namespace where
  zoned : Bool
  meta16 : Bool
  ext : Bool
  pi : Bool
  pip : Bool
  shared : Bool
  attached : BitVec 2
  zones : List Nat
  w : Nat
  c : Nat
  conv : Nat
  deriving DecidableEq, Repr

/-- A firmware slot (R352, R353, R368). -/
structure FwSlot where
  valid : Bool
  version : Nat
  raises : Bool
  starts : Bool
  deriving DecidableEq, Repr

/-- An activation without reset (R369): its slot, its command, and where it stands. -/
structure Activation where
  slot : Fin 2
  ctl : Nat
  fseq : Nat
  holding : Bool
  deriving DecidableEq, Repr

structure Fw where
  slot : Vector FwSlot 2
  active : Fin 2
  /-- the floor of one-time-programmable storage (R353) -/
  floor : Nat
  /-- bytes staged by Firmware Image Download (R368) -/
  staged : Nat
  /-- the slot that the next reset activates -/
  atReset : Option (Fin 2)
  activation : Option Activation
  deriving DecidableEq, Repr

/-- A self-test (R371): type 1 or 2, the segment it has reached; then its result (0 passed, 1 aborted, 2 failed). -/
structure SelfTest where
  kind : Nat
  segment : Nat
  poh : Nat
  result : Nat
  deriving DecidableEq, Repr

/-- An Opal locking range (R348, R350): the key counts the media keys the range has had. -/
structure OpalRange where
  ns : Nat
  start : Nat
  len : Nat
  rle : Bool
  wle : Bool
  rl : Bool
  wl : Bool
  key : Nat
  deriving DecidableEq, Repr

/-- What an Opal transaction may change and roll back. -/
structure OpalTables where
  range : Vector OpalRange 16
  mbrOn : Bool
  mbrDone : Bool
  mbr : List (Nat × BitVec 8)
  dataStore : List (Nat × BitVec 8)
  deriving DecidableEq, Repr

structure Opal where
  range : Vector OpalRange 16
  session : Bool
  mbrOn : Bool
  mbrDone : Bool
  mbr : List (Nat × BitVec 8)
  dataStore : List (Nat × BitVec 8)
  /-- the state the open session's transaction began with (R335) -/
  before : Option OpalTables
  deriving DecidableEq, Repr

/-- Sanitize (R351): whether one has completed, whether the last was a block erase, and the members it could not write. -/
structure Sanitize where
  done : Bool
  block : Bool
  skipped : List Nat
  deriving DecidableEq, Repr

/-- Work on every LBA of namespaces, which waits for its range-lock entries (R351, R356): the namespace, or 0xFFFFFFFF for all. -/
inductive EraseWork where
  | deleteNs (ns : Nat)
  | format (ns : Nat) (meta16 ext pi pip crypto : Bool)
  | sanitize (block : Bool)
  deriving DecidableEq, Repr

structure EraseWait where
  ctl : Nat
  fseq : Nat
  work : EraseWork
  deriving DecidableEq, Repr

/-- The NVMe-MI endpoint (R347). -/
structure Mi where
  /-- the management endpoint is paused (R347) -/
  paused : Bool
  /-- requests that wait while the endpoint is paused, oldest first; the response last sent; responses sent, newest first -/
  waiting : List MiRequest
  last : Option (List Nat)
  responses : List (List Nat)
  /-- configurations set, by identifier (R347) -/
  config : List (Nat × Nat)
  /-- bytes of the VPD, and its lock (R347) -/
  vpd : List (Nat × BitVec 8)
  vpdLocked : Bool
  /-- the dynamic address of I3C basic mode (R501) -/
  dynamic : Option Nat
  deriving DecidableEq, Repr

structure Hif where
  /-- HIF_CTL, HIF_EVENT, HIF_FE_MAP [1:0], HIF_CMD_RING, HIF_CPL_RING (R486) -/
  regs : Regs
  /-- front-end instances that have failed (R433) -/
  feFailed : BitVec 2
  /-- next fetch sequence (R354) -/
  fseq : Nat
  /-- the two controllers (R326, R331) -/
  ctl : Vector Ctl 2
  /-- commands fetched and not yet started (R354) -/
  fetched : List Fetched
  /-- the range lock (R355) -/
  locks : List Lock
  /-- I/O commands in flight, with their phase (R359 to R363) -/
  flight : List InFlight
  /-- Flush commands that wait (R364) -/
  flushes : List FlushWait
  /-- completions posted, newest first -/
  posted : List Completion
  /-- Error Information log: fetch sequence and first failing LBA, newest first, at most 64 (R339, R360) -/
  errors : List (Nat × Nat)
  deriving DecidableEq, Repr

structure HostIf where
  /-- namespaces by identifier (R342) -/
  namespaces : List (Nat × Namespace)
  /-- feature values and saved values by identifier; a per-controller feature of controller 2 at 0x100 + identifier (R341, R377) -/
  features : List (Nat × Nat)
  saved : List (Nat × Nat)
  /-- firmware slots and the activation (R368, R369) -/
  fw : Fw
  /-- the self-test that runs (R371) -/
  test : Option SelfTest
  /-- self-tests ended, newest first (R371) -/
  tests : List SelfTest
  /-- the Opal security subsystem (R348 to R350) -/
  opal : Opal
  /-- the Sanitize state (R351, R356) -/
  sanitize : Sanitize
  /-- the NVMe-MI endpoint (R347, R501) -/
  mi : Mi
  /-- Set Features Power Management commands whose transition is in progress: controller and fetch sequence (R455) -/
  pmWait : List (Nat × Nat × Nat)
  /-- commands whose completion waits for a persistence write of the Stitch Counter (R442): controller and fetch sequence -/
  clearWait : List (Nat × Nat)
  /-- vendor commands that complete when their journal entry is durable (R373): controller, fetch sequence, seq of the entry, dword 0 -/
  jrnlWait : List (Nat × Nat × Nat × Nat)
  /-- Format NVM, Sanitize and namespace deletions that wait for earlier commands in their range (R355, R356) -/
  eraseWait : List EraseWait
  /-- the drive's composite temperature in K (R339) -/
  tempK : Nat
  /-- SMART critical warning bit 2 (R302, R325) -/
  critical : Bool
  deriving DecidableEq, Repr

def Ctl.reset : Ctl :=
  { en := false, rdy := false, shst := 0, nssro := false, role := .none, waiting := none, auto := true, force := false,
    attach := 0, changes := 0, rejoin := false, linkUp := false, width := 0, rate := 0, l12 := false, perst := false, sqs := [],
    cqs := [], aers := [], events := [] }

/-- HIF right after a full-device reset (R333, R486). -/
def Hif.reset : Hif :=
  { regs := [], feFailed := 0, fseq := 0, ctl := Vector.replicate 2 .reset, fetched := [], locks := [], flight := [], flushes := [],
    posted := [], errors := [] }

def OpalRange.factory : OpalRange :=
  { ns := 0, start := 0, len := 0, rle := false, wle := false, rl := false, wl := false, key := 0 }

def Opal.factory : Opal :=
  { range := Vector.replicate 16 .factory, session := false, mbrOn := false, mbrDone := false, mbr := [], dataStore := [],
    before := none }

/-- Slot 1 holds the image the drive left the factory with; slot 2 is empty (log entry 48). -/
def Fw.factory : Fw :=
  { slot := #v[{ valid := true, version := 0, raises := false, starts := true }, { valid := false, version := 0, raises := false, starts := false }],
    active := 0, floor := 0, staged := 0, atReset := none, activation := none }

def Mi.reset : Mi :=
  { paused := false, waiting := [], last := none, responses := [], config := [], vpd := [], vpdLocked := false, dynamic := none }

def HostIf.reset : HostIf :=
  { namespaces := [], features := [], saved := [], fw := .factory, test := none, tests := [], opal := .factory,
    sanitize := { done := false, block := false, skipped := [] }, mi := .reset, pmWait := [], clearWait := [], jrnlWait := [],
    eraseWait := [], tempK := 298,
    critical := false }

end Sys2Proof.Machine
end

