-- ==== Sys2Proof/Machine/Parts/Lane.lean ====
section
/-!
DEFINITION. The lanes' and the deep-decode pool's parts of the state (chapters "Read Signal Path", "Detection, Codes and
Recovery" and "Row and Pattern Sequencers").
-/
namespace Sys2Proof.Machine

/-- A track of a surface, in a recording zone. -/
structure TrackAt where
  surface : Nat
  zone : Nat
  track : Nat
  deriving DecidableEq, Repr

/-- A sector that its first attempt did not deliver (R204, R207 to R212). -/
structure Ladder where
  /-- the track it lies on, its slot there and its output in the operation -/
  place : TrackAt
  slot : Nat
  output : Nat
  /-- the rung it stands at, 1 to 4 -/
  rung : Nat
  /-- the highest rung its read may use, and rung 3 is skipped (R205) -/
  ceiling : Nat
  noRetry : Bool
  /-- alternative alignments not yet tried, as distances from P (R111) -/
  cands : List Int
  /-- the attempt with the fewest unsatisfied checks: its alignment and the count (R207) -/
  best : Option (Int × Nat)
  /-- hold slots the sector is pinned in (R184) -/
  pinned : Nat
  /-- retry revolutions made (R210) -/
  retries : Nat
  deriving DecidableEq, Repr

/-- A status record of the Row sequencer (R226). -/
structure RowStatus where
  stat : Nat
  mask : Nat
  slot : Nat
  deriving DecidableEq, Repr

/-- A frame mark (ev 2) or trace record (ev 3) for the capture port (R220, R410). -/
structure TraceRec where
  kind : Nat
  tag : Nat
  pc : Nat
  mark : Nat
  slot : Nat
  deriving DecidableEq, Repr

/-- LANE_ROW_STATUS.state, in the order of its codes (R243). -/
inductive RowState where
  | stopped
  | running
  | waiting
  | stall
  | machineCheck
  | fault
  | brk
  deriving DecidableEq, Repr

/-- LANE_PAT_STATUS.state, in the order of its codes (R243). -/
inductive PatState where
  | stopped
  | idle
  | operation
  | quiesced
  | machineCheck
  deriving DecidableEq, Repr

/-- An operation descriptor (R235). -/
structure OpDesc where
  kind : Nat
  mode : Nat
  verify : Bool
  custWr : Bool
  rdrEn : Nat
  head : Nat
  zone : Nat
  track : Nat
  first : Nat
  count : Nat
  row : Word
  slotmap : Word
  chain : Word
  tag : Word
  pairs : List (Nat × Nat)
  deriving DecidableEq, Repr

/-- A completion of the Pattern engine (R236): the tag, the status, the first slot not done and the slip records. -/
structure OpDone where
  tag : Word
  status : Nat
  firstNotDone : Nat
  slips : List (BitVec 64)
  deriving DecidableEq, Repr

structure Row where
  /-- LANE_ROW_STATUS: state, pc, and the stack of at most four return addresses (R221, R243) -/
  state : RowState
  pc : Nat
  stack : List Nat
  /-- the counters CNT0 and CNT1, MARK, and the slot and argument of the opcode dispatched (R219 to R222) -/
  cnt0 : Nat
  cnt1 : Nat
  mark : Nat
  slot : Nat
  arg : Nat
  /-- opcode FIFO, head first, at most 16 (R236) -/
  fifo : List (Nat × Nat)
  /-- the version of the image that POST loaded into the stores (R298); none before POST and after a swap of the images -/
  image : Option Nat
  /-- Row store and both copies of the dispatch table; what is not listed holds the loaded image's words, zeros without one (R217, R234) -/
  store : List (Nat × BitVec 144)
  dispatch : List (Nat × BitVec 13)
  dispatch2 : List (Nat × BitVec 13)
  /-- the second copy of the dispatch table is in use (R234) -/
  secondCopy : Bool
  /-- spare words, and the logical address each serves (R234) -/
  spare : List (Nat × BitVec 144)
  /-- the logical address each spare word serves (R234) -/
  remap : List (Nat × Nat)
  /-- the last 16 parity errors, newest first: address (a dispatch entry at 0x1000 and up) and time in ms (R234) -/
  errors : List (Nat × Nat)
  /-- LANE_ROW_FAULT (R243) -/
  fault : Word
  /-- a start that waits for the source multiplexer (R57) -/
  startPend : Bool
  /-- shadow 1 is active, and a swap of the images is pending (R242) -/
  shadow1 : Bool
  swapPend : Bool
  /-- the word that stalled has performed its actions (R218) -/
  acted : Bool
  /-- the routine was dispatched from a customer opcode, and whether it has posted since (R229) -/
  inCust : Bool
  custPosted : Bool
  /-- the write request, the read gate, the write source and read sink issued, and the sync windows armed (R218, R220) -/
  wgReq : Bool
  rdOpen : Bool
  wsrc : Nat
  rsink : Nat
  /-- the last bit of the sector under the write source (R219) -/
  srcLast : Option Nat
  syncArmed : Bool
  /-- outputs taken by the flywheel (R224) -/
  flywheel : Bool
  /-- the last fetched write sector passed its PI recheck (R186) -/
  encOk : Bool
  /-- timing loop and adaptation, and the mark on the newest capture (R220) -/
  tlRun : Bool
  eqFrozen : Bool
  eqReload : Bool
  capture : Nat
  /-- status records posted to the Pattern engine, oldest first (R226) -/
  posts : List RowStatus
  /-- frame marks and trace records sent to the capture port (R220), oldest first -/
  traces : List TraceRec
  deriving DecidableEq, Repr

structure Pat where
  /-- LANE_PAT_STATUS: state, and the instruction address in ROM or darn RAM (R236, R243) -/
  state : PatState
  pc : Nat
  inDarn : Bool
  /-- the version of the image that POST loaded into darn RAM (R298) -/
  image : Option Nat
  /-- darn RAM; what is not listed holds the loaded image's words, zeros without one (R240) -/
  darn : List (Nat × BitVec 64)
  /-- staged match writes (R239) -/
  staged : List (Nat × Word)
  /-- LANE_PAT_FAULT (R243) -/
  fault : Word
  /-- the operation under way (R236) -/
  op : Option OpDesc
  /-- the Pattern engine requests an end at the next sector boundary (R223, R236) -/
  abort : Bool
  /-- slip records of the operation, and the machine checks it has met (R233, R236) -/
  slips : List (BitVec 64)
  /-- machine checks the operation has met (R233) -/
  checks : Nat
  /-- completions posted, newest first -/
  done : List OpDone
  /-- darn words that failed: address and time in ms (R240) -/
  errors : List (Nat × Nat)
  /-- opcodes of the operation not yet issued, each with its argument (R236) -/
  todo : List (Nat × Nat)
  /-- every opcode of the operation, for its retry after a machine check (R233, R236) -/
  codes : List (Nat × Nat)
  /-- an operation without a completion, or ended by op_fail, that firmware will issue again, and the tag of the one it has issued again
  after a sequencer fault (R39, R227, R233, R427) -/
  lost : Option OpDesc
  once : Option Word
  deriving DecidableEq, Repr

/-- The settings in force of one reader, from its AFE entry and the head record (R171, R172, R177): gain in 0.125 dB, offset in 1/4 LSB,
asymmetry in 1/256, filter cutoff and boost codes, delay in 1/64 bit. -/
structure ReaderSet where
  gain : Nat
  offset : Int
  asym : Int
  fc : Nat
  boost : Nat
  delay : Int
  deriving DecidableEq, Repr

/-- What a lane took at the start of its operation and keeps until the next one starts (R171): the kind, the source of a read, where it
works, the head's flip and verify reader, its readers, the precompensation and detector entries (R187, R195). -/
structure LaneOp where
  kind : Nat
  source : ReadSource
  head : Nat
  place : TrackAt
  flip : Bool
  vreader : Nat
  readers : Vector ReaderSet 4
  precomp : BitVec 64
  detector : List (BitVec 8)
  deriving DecidableEq, Repr

/-- The equalizer's taps (R179): the initial set, or what it has adapted to, free values from the given number on. -/
inductive Taps where
  | initial
  | adapted (n : Nat)
  deriving DecidableEq, Repr

/-- The selvage group a lane is writing, and its slots whose sectors the running selvage holds (R157). -/
structure Running where
  place : TrackAt
  group : Nat
  slots : List Nat
  deriving DecidableEq, Repr

/-- The XTS tweak of a sector (R349): namespace and LBA of a data block; zone, row, stripe position and block offset of a parity block. -/
inductive Tweak where
  | block (ns lba : Nat)
  | parity (zone row pos offset : Nat)
  deriving DecidableEq, Repr

/-- What a sector's user data are encrypted with (R349): the locking range that holds its zone, the count of that range's key, the tweak. -/
structure Crypt where
  range : Nat
  key : Nat
  tweak : Tweak
  deriving DecidableEq, Repr

structure Lane where
  /-- the registers of R192, R215 and R243 -/
  regs : Regs
  /-- the front-end and detection registers in force: a write counts from the next operation start (R192, R215) -/
  cur : Regs
  /-- front end: fe_ready, readers powered, mode in force (R192) -/
  feReady : Bool
  rdrOn : BitVec 4
  modeOn : Nat
  /-- a gate forced off within a sector stays off until a following sector starts (R190) -/
  gateLatched : Bool
  /-- the guard holds the gate off for a Row-word parity error, and until firmware re-enables it after a warm reset (R38, R189) -/
  parityHold : Bool
  warmHold : Bool
  /-- LANE_TEMP (R177) -/
  temp : Int
  /-- the settings of the operation (R171) -/
  now : LaneOp
  /-- LANE_RDRr_STAT and the runs of R175 and R178 -/
  clipped : Vector Nat 4
  mean : Vector Nat 4
  low : Vector Bool 4
  ampRun : Vector Nat 4
  clipRun : Vector Nat 4
  /-- the equalizer (R179): taps in force, the snapshot of the newest sector start, and the initial set in the order of LANE_EQ_TAPS -/
  taps : Taps
  snap : Taps
  tapSet : List Nat
  /-- the times in ms of divergences by head and zone (R179) -/
  diverged : List (Nat × Nat)
  /-- preamplifier port: frames queued, data of the last read frame, list sent for this head and zone (R191) -/
  paQueue : List (BitVec 16)
  paData : Nat
  paBusy : Bool
  paSent : Bool
  /-- hold slots in use and the most since reset (R184, R192) -/
  hold : Nat
  holdHigh : Nat
  /-- sectors in the sector buffer (R185) -/
  sbuf : Nat
  /-- first-attempt queues, L halved, and the sectors on the ladder (R202, R203, R215) -/
  queue : Vector Nat 3
  halved : Bool
  ladder : List Ladder
  /-- outputs of the operation's slots that have converged, by slot and output, and the pass in which they did (R196, R197) -/
  known : List (Nat × Nat × Nat)
  /-- sectors of the operation, by slot and output, whose span saw the servo beyond its read window (R137) -/
  offTrack : List (Nat × Nat)
  /-- the selvage group being written (R157) -/
  running : Option Running
  /-- key and tweak of the last sector of host data written or delivered; none where it carries none (R349) -/
  crypt : Option Crypt
  /-- the Row sequencer (R217 to R235) -/
  row : Row
  /-- the Pattern engine (R236 to R242) -/
  pat : Pat
  deriving DecidableEq, Repr

/-- A request to the deep-decode pool (R208). -/
structure DeepReq where
  lane : LaneIx
  slot : Nat
  output : Nat
  best : Int
  /-- its recording zone on its surface, whose rate the request names, and the head -/
  place : TrackAt
  head : Nat
  deriving DecidableEq, Repr

structure Ddp where
  /-- DDP_CTL, DDP_EVENT, DDP_CFG (R216) -/
  regs : Regs
  /-- requests that wait, oldest first (R208) -/
  queue : List DeepReq
  /-- the request each deep decoder runs (R208) -/
  running : Vector (Option DeepReq) 2
  /-- deep decoders that have failed (R216) -/
  failed : BitVec 2
  deriving DecidableEq, Repr

def Row.reset : Row :=
  { state := .stopped, pc := 0, stack := [], cnt0 := 0, cnt1 := 0, mark := 0, slot := 0, arg := 0, fifo := [], image := none, store := [],
    dispatch := [], dispatch2 := [], secondCopy := false, spare := [], remap := [], errors := [], fault := 0, startPend := false, shadow1 := false,
    swapPend := false, acted := false, inCust := false, custPosted := false, wgReq := false, rdOpen := false, wsrc := 0,
    rsink := 0, srcLast := none, syncArmed := false, flywheel := false, encOk := false, tlRun := false, eqFrozen := false, eqReload := false,
    capture := 0, posts := [], traces := [] }

def Pat.reset : Pat :=
  { state := .stopped, pc := 0, inDarn := false, image := none, darn := [], staged := [], fault := 0, op := none, abort := false, slips := [],
    checks := 0, done := [], errors := [], todo := [], codes := [], lost := none, once := none }

/-- A reader's settings, and a lane's, before any operation. -/
def ReaderSet.reset : ReaderSet := { gain := 0, offset := 0, asym := 0, fc := 0, boost := 0, delay := 0 }

def LaneOp.reset : LaneOp :=
  { kind := 0, source := .host false, head := 0, place := { surface := 24, zone := 64, track := 0 }, flip := false, vreader := 0,
    readers := Vector.replicate 4 .reset, precomp := 0, detector := [] }

/-- A lane right after a full-device reset (R192, R215, R243). -/
def Lane.reset : Lane :=
  { regs := [], cur := [], feReady := false, rdrOn := 0, modeOn := 0, gateLatched := false, parityHold := false,
    warmHold := false, temp := 0, now := .reset, clipped := Vector.replicate 4 0,
    mean := Vector.replicate 4 0, low := Vector.replicate 4 false, ampRun := Vector.replicate 4 0,
    clipRun := Vector.replicate 4 0, taps := .initial, snap := .initial, tapSet := [], diverged := [], paQueue := [], paData := 0, paBusy := false, paSent := false,
    hold := 0, holdHigh := 0, sbuf := 0, queue := Vector.replicate 3 0, halved := false, ladder := [], known := [], offTrack := [], running := none, crypt := none,
    row := .reset, pat := .reset }

/-- The pool right after a full-device reset (R216). -/
def Ddp.reset : Ddp := { regs := [], queue := [], running := Vector.replicate 2 none, failed := 0 }

end Sys2Proof.Machine
end

