-- ==== Sys2Proof/Machine/Parts/Media.lean ====
section
/-!
DEFINITION. What the disks hold beside the members' data: recording zones, extents with their slip records, relocations and extensions,
defect lists, selvage groups, gauge rows; and the calibrations that await (chapters "Media Format" and "Yarn Clock").
-/
namespace Sys2Proof.Machine

/-- A zone descriptor (R147). -/
structure ZoneDesc where
  valid : Bool
  zone : Nat
  bpw : Nat
  area : Nat
  surface : Nat
  first : Nat
  last : Nat
  rate : Fin 4
  preamble : Bool
  rmodes : Nat
  raw : Nat
  vreader : Nat
  guard : Nat
  nslot : Nat
  ndata : Nat
  slipRes : Nat
  dreg : Nat
  span : Nat
  pitch : Nat
  iter : Nat
  crcOk : Bool
  deriving DecidableEq, Repr

/-- An entry of a defect list (R167), and whether it has taken effect on the groups (R156). -/
structure Defect where
  surface : Nat
  zone : Nat
  track : Nat
  slot : Nat
  live : Bool
  deriving DecidableEq, Repr

/-- A range of tracks in a recording zone of a member's surface. -/
structure TrackRange where
  zone : Nat
  first : Nat
  tracks : Nat
  deriving DecidableEq, Repr

/-- A relocated slot of an extent, and the spare place it went to (R166, R167): tracks are absolute. -/
structure Relocation where
  track : Nat
  slot : Nat
  zone : Nat
  toTrack : Nat
  toSlot : Nat
  deriving DecidableEq, Repr

/-- The records of one extent in the zone map (R159, R164 to R166): its member, its host zone, its tracks and direction, its generation,
its slip records in seq order, its extension in a spare band, and its relocated slots. -/
structure Extent where
  member : Nat
  hzone : Nat
  place : TrackRange
  outward : Bool
  generation : Nat
  slips : List (BitVec 64)
  extension : Option TrackRange
  relocations : List Relocation
  deriving DecidableEq, Repr

/-- What the selvage of a group is worth (R157, R158). -/
inductive GroupState where
  | carries
  | stale
  deriving DecidableEq, Repr

structure Media where
  /-- recording zones in force, by surface * 64 + zone, and the cause for which a surface's table was rejected (R146) -/
  zones : List (Nat × ZoneDesc)
  tableCause : List (Nat × Nat)
  /-- the clock-track guard: its surface, first and last track (R146) -/
  ctGuard : Option (Nat × Nat × Nat)
  /-- gauge rows as the metadata bands hold them, by surface * 64 + zone (R107, R169) -/
  gaugeRows : List (Nat × List (BitVec 8))
  /-- factory values of gauge entries that have moved, by (surface * 64 + zone) * 1,024 + wedge (R107) -/
  factory : List (Nat × Int)
  /-- primary and grown defect lists (R149, R167) -/
  primary : List Defect
  grown : List Defect
  /-- the members' extents of host zones (R145, R160) -/
  extents : List Extent
  /-- selvage groups by ((surface * 64 + zone) * 2^24 + track) * 32 + group; what is not listed carries none (R157, R158) -/
  groups : List (Nat × GroupState)
  /-- slots that await a rewrite in place on the next revolution (R166, R213) -/
  rewrite : List Defect
  /-- slots whose blocks were handed to surface parity at rung 5 and have not been recovered yet (R213) -/
  handed : List Defect
  /-- sectors that left the recovery ladder late: surface, the rung (6: given up), time in ms, newest first (R275, R276) -/
  rungLog : List (Nat × Nat × Nat)
  /-- grown-defect entries added, and operations that ended with a preamplifier fault: surface and time in ms, newest first (R275) -/
  grownLog : List (Nat × Nat)
  paLog : List (Nat × Nat)
  /-- by surface, operations in a row that ended with a preamplifier fault, and head switches in a row that failed (R276) -/
  paRun : List (Nat × Nat)
  switchRun : List (Nat × Nat)
  deriving DecidableEq, Repr

def Media.reset : Media :=
  { zones := [], tableCause := [], ctGuard := none, gaugeRows := [], factory := [], primary := [], grown := [], extents := [],
    groups := [], rewrite := [], handed := [], rungLog := [], grownLog := [], paLog := [], paRun := [], switchRun := [] }

end Sys2Proof.Machine
end

