-- ==== Sys2Proof/Machine/Parts/Pwr.lean ====
section
/-!
DEFINITION. The power and clock blocks' part of the state (chapter "Power and Clock Domains").
-/
namespace Sys2Proof.Machine

/-- The request PWR is handling (R448). -/
structure DomReq where
  dom : DomIx
  target : DomState
  /-- the checks of R450 and the quiesce of R397 have passed, or the request is a wake (R451) -/
  final : Bool
  deriving DecidableEq, Repr

structure Pwr where
  /-- PWR_CTL, PWR_EVENT (R465) -/
  regs : Regs
  /-- state of each domain (R447) -/
  dom : Vector DomState 25
  /-- domains being quiesced (PWR_DOMd [3]) -/
  quiescing : BitVec 25
  /-- the request being handled (PWR_STATUS.busy) -/
  req : Option DomReq
  /-- PWR_DOM_RESP (R465) -/
  resp : Word
  /-- PWR_RAIL_STAT: rails below and above their windows (R490) -/
  railLow : BitVec 7
  railHigh : BitVec 7
  /-- PWR_HALT_REQ (R507) -/
  haltReq : BitVec 36
  /-- the NVMe power state in force (PWR_STATUS.ps), the operational state last left (R456) and the target of a transition in progress (R455) -/
  ps : Fin 5
  lastOp : Fin 5
  psTarget : Option (Fin 5)
  /-- the holds of R459 on WCTEMP and CCTEMP -/
  holdW : Bool
  holdC : Bool
  /-- operations that wait for a lane in RETAIN, oldest first, with their arrival order (R454) -/
  laneWait : List (LaneIx × Nat)
  laneWaitNext : Nat
  /-- lanes whose Row-image swap waits for their wake (R472) -/
  swapOnWake : BitVec 5
  deriving DecidableEq, Repr

structure Clk where
  /-- CLK_CTL.ref_sel, CLK_EVENT, CLK_CLUSTERc (R466) -/
  regs : Regs
  /-- CLK_STATUS (R463, R464) -/
  running : Bool
  onBackup : Bool
  restored : Bool
  /-- a loss at or before reset whose events are set at the end of POST (R464) -/
  lostInPost : Bool
  /-- CLK_XTAL_MON in ppm (R466) -/
  ppm : BitVec 16
  deriving DecidableEq, Repr

/-- Domain states at reset: PS0's column of R453 with L0 to L3 in RETAIN, as PWR_STATUS's reset value counts no lane ON,
and port 1 unused in x4 mode in RETAIN (log entry 6). -/
def domReset : Vector DomState 25 :=
  Vector.ofFn fun d : Fin 25 => if d.val = 7 ∨ (12 ≤ d.val ∧ d.val ≤ 15) then .retain else .on

def Pwr.reset : Pwr :=
  { regs := [], dom := domReset, quiescing := 0, req := none, resp := 0, railLow := 0, railHigh := 0,
    haltReq := 0, ps := 0, lastOp := 0, psTarget := none, holdW := false, holdC := false, laneWait := [], laneWaitNext := 0,
    swapOnWake := 0 }

def Clk.reset : Clk :=
  { regs := [], running := true, onBackup := false, restored := false, lostInPost := false, ppm := 0 }

end Sys2Proof.Machine
end

