-- ==== Sys2Proof/Machine/Parts/Spe.lean ====
section
/-!
DEFINITION. The surface parity engine's part of the state: registers, the journal with its groups and replicas, the dirty-region
bitmap, and the operations in flight that the journal tells of (chapter "Surface Parity").
-/
namespace Sys2Proof.Machine

/-- A journal entry (R252): its sequence number, type, power-on time and payload of 44 bytes, little-endian. Its crc follows from them. -/
structure JEntry where
  seq : Nat
  typ : Nat
  poh : Nat
  payload : Nat
  deriving DecidableEq, Repr

/-- A group of entries that is not yet durable (R254): its buffer 0 to 7 and the replicas that hold it. -/
structure JGroup where
  buf : Nat
  entries : List JEntry
  closed : Bool
  issued : Bool
  held : BitVec 3
  deriving DecidableEq, Repr

/-- A journal replica (R255): its member and whether it is current. -/
structure Replica where
  member : Nat
  current : Bool
  deriving DecidableEq, Repr

/-- A region whose bit is set in the working copy (R258): the seq of its BIT_SET entry and the time of its last write in ms. -/
structure Dirty where
  region : Nat
  seq : Nat
  touched : Nat
  deriving DecidableEq, Repr

/-- An open row of a sequential zone (R259, R260): the seq of its ROW_OPEN, the time of its last write in ms, and the blocks its
ROW_PARTIAL covers. -/
structure OpenRow where
  zone : Nat
  row : Nat
  seq : Nat
  touched : Nat
  partialTo : Option Nat
  deriving DecidableEq, Repr

/-- A read-modify-write not yet done (R262): its unit (0xFF for a reconstruct-write), its blocks, the seq of its RMW_BEGIN, and
whether its old data have been read and the new parity computed. -/
structure Rmw where
  zone : Nat
  row : Nat
  unit : Nat
  first : Nat
  count : Nat
  seq : Nat
  computed : Bool
  /-- the record of missing blocks in the protected write log: actuator and offset (R263) -/
  record : Option (Nat × Nat)
  deriving DecidableEq, Repr

structure Spe where
  /-- SPE_CTL, SPE_EVENT, SPE_LAYOUT_CFG, SPE_RING, SPE_JRNL_CFG, SPE_JRNL_GRP, SPE_BMAP_BASE, SPE_ABSENT, SPE_CAL, SPE_STAGE (R270) -/
  regs : Regs
  /-- SPE_STATUS.halted -/
  halted : Bool
  /-- SPE_JRNL_MEMB: the replicas, and the one being filled (R255) -/
  replica : Vector Replica 3
  fill : Option (Fin 3)
  /-- SPE_JRNL_NEXT and SPE_JRNL_DUR (R270) -/
  next : Nat
  dur : Nat
  /-- the live tail, oldest first (R256): the entries since the last CKPT -/
  live : List JEntry
  /-- groups that are not durable, oldest first (R254) -/
  groups : List JGroup
  /-- the REPLICA entry that held writes wait for after the journal ran without a replica (R255) -/
  resume : Option Nat
  /-- a checkpoint in progress; one that could not complete stalls new groups (R256) -/
  ckptBusy : Bool
  stalled : Bool
  /-- the time of the last checkpoint in ms, and its sequence number -/
  ckptAt : Nat
  ckptSeq : Nat
  /-- the set bits of the bitmap (R258) -/
  dirty : List Dirty
  /-- open rows of sequential zones, oldest first (R259, R260) -/
  rows : List OpenRow
  /-- read-modify-writes that are open (R262, R263) -/
  rmw : List Rmw
  /-- jobs active (SPE_JOB_STAT) -/
  active : Nat
  deriving DecidableEq, Repr

/-- SPE right after a full-device reset (R270): the replicas' fields read 0. -/
def Spe.reset : Spe :=
  { regs := [], halted := false, replica := Vector.replicate 3 { member := 0, current := false }, fill := none, next := 0,
    dur := 0, live := [], groups := [], resume := none, ckptBusy := false, stalled := false, ckptAt := 0, ckptSeq := 0, dirty := [], rows := [],
    rmw := [], active := 0 }

end Sys2Proof.Machine
end

