-- ==== Sys2Proof/Machine/Parts/Spn.lean ====
section
/-!
DEFINITION. The spindle block's part of the state (chapter "Spindle Drive").
-/
namespace Sys2Proof.Machine

/-- SPN_STATUS.state, in the order of its codes (R87). -/
inductive SpnState where
  | stopped
  | sensing
  | braking
  | aligning
  | accelerating
  | catching
  | running
  | resync
  | restart
  | limp
  | powerloss
  | spindown
  | fault
  deriving DecidableEq, Repr

/-- The torque comparator's output (R64). -/
inductive TorqueCmp where
  | increase
  | hold
  | decrease
  deriving DecidableEq, Repr

/-- What instant B of the running period samples (R67). -/
inductive InstantB where
  | skipped
  | offset
  | vector (v : Fin 8)
  deriving DecidableEq, Repr

/-- What drives the six gates (R63, R72, R82, R87). -/
inductive Bridge where
  | off
  /-- the three low-side switches (V0) short the motor -/
  | short
  /-- the six pulses of the inductive detection -/
  | pulses
  | dtc
  /-- the limp commutator's six steps -/
  | sixStep
  deriving DecidableEq, Repr

structure Spn where
  /-- SPN_CTL [8] [2], SPN_EVENT and the parameter registers as they read (R88) -/
  regs : Regs
  /-- the parameter registers in force: a write counts from the next decision boundary (R89) -/
  cur : Regs
  /-- SPN_STATUS.state (R87, R88) -/
  state : SpnState
  /-- SPN_STATUS (R88) -/
  startPend : Bool
  faultCause : Nat
  attempt : Nat
  pairFailed : Bool
  limpGates : Bool
  hold : Bool
  wrOk : Bool
  /-- SPN_SPEED (R88) -/
  speedQ : Nat
  dir : Rotation
  speedValid : Bool
  /-- comparator outputs (R64): true is increase -/
  fluxUp : Bool
  torqueCmp : TorqueCmp
  /-- what drives the gates (R63, R83, R87) -/
  bridge : Bridge
  /-- the selected vector, V0 to V7, t_on in sixteenths of the period, and the zero vector that fills the rest (R63, R65, R66) -/
  vector : Fin 8
  tOn : Nat
  fill : Fin 8
  /-- the run limit is in force (R66) -/
  runLimit : Bool
  /-- T_ref, the torque estimate and the regulator's integral (R75, R88) -/
  tRef : Int
  tEst : Int
  integral : Int
  /-- each phase's newest sample with its vector's sign and its age in periods (R67, R68) -/
  meas : Vector (Int × Int × Nat) 3
  /-- the three currents in use in mA, the phases newest first, and the newest offset (R68) -/
  phaseCur : Vector Int 3
  newest : List (Fin 3)
  offset : Int
  /-- what the running period samples at instants A and B (R67) -/
  instA : Fin 8
  instB : InstantB
  /-- phases measured at the last two instants A, newest first (R67) -/
  lastA : List (Fin 3)
  /-- the voltage model's flux along U and V, in thirds of 6.25 ns microvolts (R69) -/
  psiU : Int
  psiV : Int
  /-- the rotor angle of the start estimator or the observer, 19,200,000 to the electrical revolution (R69, R72) -/
  theta : Nat
  /-- consecutive decisions with the residual above SPN_OBS.resid (R71) -/
  residRun : Nat
  /-- crossings since the last zero-crossing mismatch, or since the last missing crossing in LIMP (R75) -/
  cleanCross : Nat
  /-- missing expected crossings in a row (R509, R84) -/
  missRun : Nat
  /-- crossings of the sensing window, or of a resynchronisation before its observer is seeded (R72, R77) -/
  senseCross : Nat
  /-- the crossing timed last (R70, R72) -/
  lastCross : Option (Fin 6)
  /-- commutation events of this start (R72, R73) -/
  commEvents : Nat
  /-- matched crossings in a row, and crossings since the first one, of a catch or a resynchronisation (R72, R77) -/
  matched : Nat
  sinceFirst : Nat
  /-- failed catches in a row and locked-rotor retries used (R73) -/
  catchFails : Nat
  retries : Nat
  /-- a start accepted in SPINDOWN, that takes effect at the next decision (R86) -/
  startNext : Bool
  /-- the 200 ms after a locked rotor are running (R73) -/
  pause : Bool
  /-- coast_min of R509 is running before sensing -/
  coastWait : Bool
  /-- backward above brakemax: the bridge is off until brakemax (R72); or SPINDOWN coasts after observer loss (R509) -/
  coasting : Bool
  /-- a full restart begun under R78 (b) is running -/
  inRestart : Bool
  /-- start_done has been set for this start (R88) -/
  doneSent : Bool
  /-- rotor angle of the inductive detection, in 30 degree steps (R72) -/
  angle : Fin 12
  /-- the re-seed in progress, the state that LIMP returns to, and the stop held in LIMP (R82, R84, R87) -/
  reseeding : Bool
  prior : SpnState
  stopHeld : Bool
  /-- times in ms of the re-seeds of the last hour, newest first, their number since reset, and the time of the last reseed_ok (R84) -/
  reseedTimes : List Nat
  reseedTotal : Nat
  reseedOkAt : Option Nat
  /-- times in ms of the lockstep mismatches that started re-seeds (R84) -/
  mismatchTimes : List Nat
  /-- the limp commutator's sector and duty in 1/256, and the crossings of the electrical revolution so far (R82) -/
  limpSector : Fin 6
  limpDuty : Nat
  limpCross : Nat
  /-- duty of the decisions since the last crossing, their number, and their average in 1/256 (R82) -/
  dutySum : Nat
  dutyCount : Nat
  avgDuty : Nat
  /-- the refuge write of R79 is asked for or has run in this coast -/
  refugeAsked : Bool
  deriving DecidableEq, Repr

/-- SPN right after a full-device reset (R87, R88). -/
def Spn.reset : Spn :=
  { regs := [], cur := [], state := .stopped, startPend := false, faultCause := 0, attempt := 0, pairFailed := false, limpGates := false,
    hold := false, wrOk := false, speedQ := 0, dir := .still, speedValid := false, fluxUp := false,
    torqueCmp := .hold, bridge := .off, vector := 0, tOn := 16, fill := 0, runLimit := false, tRef := 0, tEst := 0, integral := 0,
    meas := Vector.replicate 3 (1, 0, 0), phaseCur := Vector.replicate 3 0, newest := [], offset := 0, instA := 0, instB := .offset, lastA := [],
    psiU := 0, psiV := 0, theta := 0, residRun := 0,
    cleanCross := 0, missRun := 0, senseCross := 0, lastCross := none, commEvents := 0, matched := 0, sinceFirst := 0, catchFails := 0, retries := 0,
    startNext := false, pause := false, coastWait := false, coasting := false, inRestart := false, doneSent := false, angle := 0,
    reseeding := false, prior := .stopped, stopHeld := false, reseedTimes := [], reseedTotal := 0, reseedOkAt := none,
    mismatchTimes := [], limpSector := 0, limpDuty := 0, limpCross := 0, dutySum := 0, dutyCount := 0, avgDuty := 0,
    refugeAsked := false }

end Sys2Proof.Machine
end

