-- ==== Sys2Proof/Machine/Parts/Srv.lean ====
section
/-!
DEFINITION. The servo engines', Drive Link ports' and sensor unit's parts of the state (chapter "Actuator Servo").
-/
namespace Sys2Proof.Machine

/-- SRV_STATUS.state, in the order of its codes (R143). -/
inductive SrvState where
  | idle
  | parked
  | loading
  | capture
  | seek
  | settle
  | follow
  | hold
  | unloading
  | failed
  deriving DecidableEq, Repr

/-- The side a section's output or state was clamped on in the last sample (R126). -/
inductive Clamp where
  | none
  | low
  | high
  deriving DecidableEq, Repr

/-- A seek profile or a load or unload table being played (R136, R140). -/
structure Play where
  addr : Nat
  entries : Nat
  index : Nat
  /-- length of the seek and of the profile, and where the seek started, in 1/1,024 track -/
  len : Int
  profLen : Nat
  start : Int
  deriving DecidableEq, Repr

structure Srv where
  /-- SRV_CTL [8:5], SRV_EVENT, the configuration registers and both banks (R129, R144) -/
  regs : Regs
  /-- the registers in force: a write takes effect at the next sample boundary (R144) -/
  cur : Regs
  /-- SRV_STATUS.state (R143) -/
  state : SrvState
  /-- current head within the actuator, the reader it samples, and the head and track a switch takes at the next sample (R138) -/
  head : Nat
  reader : Nat
  switchTo : Option (Nat × Nat)
  /-- the head of the switch that has not reached on-track yet, and heads whose switch failed since a head last reached FOLLOW (R276) -/
  aiming : Option Nat
  missedHeads : List Nat
  /-- the target track of the last seek, while r follows it (R123, R138) -/
  aim : Option Nat
  /-- the number expected at the next wedge, once one has been read (R119) -/
  wedge : Option Nat
  /-- position p, reference r and error e, in 1/1,024 track (R123) -/
  pos : Int
  ref : Int
  err : Int
  /-- write-inhibit causes, in the order of SRV_STATUS.inh (R134) -/
  inh : BitVec 7
  /-- samples for which the shock cause still holds (R134) -/
  shockLeft : Nat
  /-- SRV_STATUS.rd_ok, .on_track and .coarse (R133, R137, R143) -/
  rdOk : Bool
  onTrack : Bool
  coarse : Bool
  /-- consecutive samples within the settle window, samples in HOLD after the rule was met, and on-track settled (R133, R137) -/
  settleRun : Nat
  plausRun : Nat
  settled : Bool
  /-- the settle rule has been met since HOLD was entered (R133) -/
  holdMet : Bool
  /-- run of missed wedges and the continuous search it leads to (R119) -/
  missRun : Nat
  searching : Bool
  /-- consecutive wedges with a valid SAM and track ID while loading (R140) -/
  validRun : Nat
  /-- SRV_STATUS.hold_pend: an idle engine takes its port over in HOLD (R34, R143) -/
  holdPend : Bool
  /-- the active bank is B; a swap pending and the boundaries it has waited (R129, R130) -/
  bankB : Bool
  swapPend : Bool
  swapWait : Nat
  /-- section states s1 and s2 with 29 fraction bits, and clamps of the last sample (R126) -/
  s1 : Vector Int 24
  s2 : Vector Int 24
  sat : Vector Clamp 24
  /-- sections to be made bumpless in the first sample after a swap or a takeover (R131, R142) -/
  bump : Vector Clamp 24
  /-- the current of the engine that is taken over from, until the first sample (R142) -/
  takeover : Option Int
  /-- p of the last two samples, currents of the last six, and samples since the model started anew (R132) -/
  posHist : List Int
  curHist : List Int
  modelAge : Nat
  /-- samples in a row with a residual beyond resid, the last plausible p, and samples spent in HOLD (R133) -/
  implRun : Nat
  lastPlausible : Int
  holdRun : Nat
  /-- the profile or table being played (R136, R140) -/
  play : Option Play
  /-- the table's last current, held after a controlled unload (R140) -/
  lastCur : Int
  /-- a controlled unload has played its table: the millisecond at which its last current ends (R140) -/
  idleAt : Option Nat
  /-- a controlled unload sends idle frames and waits for the park check (R140) -/
  parkWait : Bool
  /-- last outputs (R127) and the current published on the cross-actuator bus (R128) -/
  uVcm : Int
  uPz : Int
  /-- the feedforward sum of the piezo path, held at the half-sample (R123 step 8) -/
  pzFf : Int
  /-- the current published on the cross-actuator bus (R128) -/
  uFf : Int
  /-- SRV_DL_STAT, and valid return frames in a row since a link fault (R134, R139) -/
  dlCur : Int
  dlStatus : Nat
  dlInvalid : Nat
  dlValid : Nat
  /-- longest step-5 time in ns (SRV_TIMING) -/
  longest : Nat
  deriving DecidableEq, Repr

/-- One Drive Link port (R34, R139, R141). -/
structure Port where
  /-- the engine that drives the port -/
  driver : Option EngIx
  /-- the failed engine whose port hold runs, and its samples so far (R141) -/
  heldFor : Option EngIx
  holdRun : Nat
  /-- the last 16 valid commands, newest first -/
  cmds : List Int
  /-- the PZ output as it ramps to 0 over 16 samples of port hold -/
  pz : Int
  pzStep : Nat
  /-- the port's copy of the first 64 unload-table entries (R141) -/
  unload : List Int
  /-- index of the open-loop retract being played -/
  retract : Option Nat
  /-- sequence number of the next frame and the last frame sent (R139) -/
  seq : Fin 16
  frame : BitVec 32
  /-- return frames an injection still drops (R434) -/
  drop : Nat
  deriving DecidableEq, Repr

/-- The sensor unit (R135). -/
structure Sns where
  /-- SRV_SNS_CFG -/
  regs : Regs
  /-- the newest reading of both accelerometers (R135) -/
  accel : Vector AccelRead 2
  deriving DecidableEq, Repr

/-- A servo engine right after a full-device reset (R143, R144): S0 to S3 are bound, and SRV_STATUS reads 0 (log entry 12). -/
def Srv.reset : Srv :=
  { regs := [], cur := [], state := .idle, head := 0, reader := 0, switchTo := none, aiming := none, missedHeads := [], aim := none, wedge := none, pos := 0, ref := 0, err := 0,
    inh := 0, shockLeft := 0, rdOk := false, onTrack := false, coarse := false, settleRun := 0, plausRun := 0,
    settled := false, holdMet := false, missRun := 0, searching := false, validRun := 0, holdPend := false, bankB := false, swapPend := false,
    swapWait := 0, s1 := Vector.replicate 24 0, s2 := Vector.replicate 24 0, sat := Vector.replicate 24 .none,
    bump := Vector.replicate 24 .none, takeover := none, posHist := [], curHist := [], modelAge := 0, implRun := 0,
    lastPlausible := 0, holdRun := 0, play := none, lastCur := 0, idleAt := none, parkWait := false, uVcm := 0, uPz := 0, pzFf := 0, uFf := 0,
    dlCur := 0, dlStatus := 0, dlInvalid := 0, dlValid := 0, longest := 0 }

/-- The port of actuator a right after a full-device reset: S0 to S3 drive A0 to A3 (R10, R55). -/
def Port.reset (a : ActIx) : Port :=
  { driver := some (a.castSucc), heldFor := none, holdRun := 0, cmds := [], pz := 0, pzStep := 0, unload := [], retract := none, seq := 0,
    frame := 0, drop := 0 }

def Sns.reset : Sns :=
  { regs := [], accel := Vector.replicate 2 { tangential := 0, radial := 0, axial := 0 } }

end Sys2Proof.Machine
end

