-- ==== Sys2Proof/Machine/Parts/Stc.lean ====
section
/-!
DEFINITION. The Stitch Counter's part of the state (chapter "Stitch Counter").
-/
namespace Sys2Proof.Machine

/-- A clear of a group (R440, R442): how often, and the hours and timestamp of the last one. -/
structure ClearInfo where
  count : Nat
  poh : Option Nat
  ts : Nat
  deriving DecidableEq, Repr

/-- One record of a lifetime extreme (R437, R440). -/
structure ExtremeRec where
  value : Int
  poh : Nat
  ts : Nat
  deriving DecidableEq, Repr

/-- The extremes of one quantity (R437): a record never reached is none. -/
structure Extreme where
  max : Option ExtremeRec
  min : Option ExtremeRec
  offered : Nat
  deriving DecidableEq, Repr

/-- A condition record (R439, R440). -/
structure CondRec where
  code : Nat
  unit : Nat
  detail : Word
  firstTs : Nat
  firstPoh : Nat
  lastTs : Nat
  lastPoh : Nat
  repeats : Nat
  deriving DecidableEq, Repr

/-- The recorder image (R436 to R443). -/
structure StcImage where
  /-- bins and sums, by (group, instance, bin) key; bin 8 is the sum; zero entries are not listed -/
  hist : List (Nat × Int)
  /-- clears of groups 0x01 to 0x0A, at index group - 1 -/
  clears : Vector ClearInfo 10
  extremes : Vector Extreme 15
  /-- condition records, oldest first, at most 128, and how many were overwritten -/
  conds : List CondRec
  overwritten : Nat
  noHistory : Bool
  historyLost : Bool
  condFromPl : Bool
  seq : Nat
  persistPoh : Nat
  failures : Nat
  deriving DecidableEq, Repr

/-- A boot-flash area of the recorder (R443). -/
inductive StcArea where
  | erased
  | bad
  | valid (image : StcImage)
  deriving DecidableEq, Repr

/-- A persistence write in progress (R443): its area and its copy, and whether a clear asks for another (R442). -/
structure StcWrite where
  area : Fin 2
  copy : StcImage
  again : Bool
  /-- Recorder Clears that began before the write, by fetch sequence (R442) -/
  covers : List Nat
  deriving DecidableEq, Repr

/-- A requester's cursor (R441): the group selected, the position, and the latched window. -/
structure StcCursor where
  group : Nat
  cur : Nat
  window : BitVec 512
  deriving DecidableEq, Repr

structure Stc where
  /-- STC_CTL.lock, STC_EVENT, STC_COND_CODE, STC_COND_DETAIL, STC_CF_BASE (R445) -/
  regs : Regs
  /-- the recorder's live image (R436, R443) -/
  live : StcImage
  /-- areas A and B, and the power-loss area with the sequence it was written at (R443) -/
  area : Vector StcArea 2
  plArea : Option (Nat × List CondRec)
  /-- the persistence write in progress (R443) -/
  write : Option StcWrite
  /-- STC_STATUS (R445) -/
  restored : Bool
  failuresReset : Nat
  /-- power-on seconds (STC_POS); STC_POH is a 3,600th of it -/
  pos : Nat
  /-- cursors of the 36 cores and of the two controllers (R441) -/
  core : Vector StcCursor 36
  host : Vector StcCursor 2
  /-- shock event of each accelerometer: its peak so far and the readings below threshold in a row (R436) -/
  shock : Vector (Option (Nat × Nat)) 2
  deriving DecidableEq, Repr

/-- STC_POH. -/
def Stc.poh (t : Stc) : Nat := t.pos / 3600

/-- A recorder with no history (R444). -/
def StcImage.empty : StcImage :=
  { hist := [], clears := Vector.replicate 10 { count := 0, poh := none, ts := 0 },
    extremes := Vector.replicate 15 { max := none, min := none, offered := 0 }, conds := [], overwritten := 0,
    noHistory := true, historyLost := false, condFromPl := false, seq := 0, persistPoh := 0, failures := 0 }

/-- STC right after a full-device reset, with nothing yet restored and the flash areas erased (R444, R445). -/
def Stc.reset : Stc :=
  { regs := [], live := .empty, area := Vector.replicate 2 .erased, plArea := none, write := none, restored := false,
    failuresReset := 0, pos := 0, core := Vector.replicate 36 { group := 0xFF, cur := 0, window := 0 },
    host := Vector.replicate 2 { group := 0xFF, cur := 0, window := 0 }, shock := Vector.replicate 2 none }

end Sys2Proof.Machine
end

