-- ==== Sys2Proof/Machine/Parts/Sys.lean ====
section
/-!
DEFINITION. The system part of the state: resets, straps, pins, the permit chain, and where the drive stands between
cast-on and bind-off (chapters "Balls and Signals", "Cast-on and Bind-off", "Electrical Characteristics").
-/
namespace Sys2Proof.Machine

/-- What started a bind-off (R311, R455). -/
inductive BindTrigger where
  | normal
  | abrupt
  | ps3
  | ps4
  deriving DecidableEq, Repr

/-- Where the drive stands (R298, R300, R301, R304, R307, R309, R311, R312, R316). -/
inductive Phase where
  /-- reset released, POST not yet ended -/
  | post
  /-- the dark condition (R300) -/
  | dark
  /-- the safe state (R301) -/
  | safe
  /-- POST passed, spun down in PS4 until the first request (R304) -/
  | standby
  /-- the spindle start has been issued (R304, R307 step 2) -/
  | spinup
  /-- actuators loading and loaded, tables read, journal stages (R307 steps 3 to 6) -/
  | caston
  /-- ready (R309) -/
  | ready
  /-- bind-off, at the step 1 to 6 it has reached (R312) -/
  | bindoff (trigger : BindTrigger) (step : Nat)
  /-- parked after a bind-off (R311) -/
  | parked (trigger : BindTrigger)
  /-- waking from PS3 or PS4 (R315, R456) -/
  | waking
  /-- the power-loss sequence (R316) -/
  | powerloss
  deriving DecidableEq, Repr

/-- The POST summary of log page 0xC4 (R381), and R299's findings. -/
structure PostRecord where
  /-- 0 pass, 1 pass with repairs, 2 safe state -/
  result : Nat
  failingStep : Nat
  testmode : Bool
  slotBooted : Nat
  rowsRepaired : Nat
  coresFailed : BitVec 36
  lanesFailed : BitVec 5
  enginesFailed : BitVec 5
  spindlePairFailed : Bool
  bootCore : Nat
  timeMs : Nat
  /-- the boot flash fell back to 1S-1S-1S (R500) -/
  flashFallback : Bool
  deriving DecidableEq, Repr

/-- One share of the refuge set (R317, R318): its lane, its blocks and whether it is written and verified. -/
structure RefugeShare where
  lane : LaneIx
  head : HeadIx
  /-- keys of the blocks: namespace and LBA, in share order -/
  blocks : List (Nat × Nat)
  done : Bool
  deriving DecidableEq, Repr

/-- The source multiplexer of one actuator (R57). -/
structure Mux where
  /-- the source in force is L4, not the primary lane -/
  fromL4 : Bool
  /-- a switch waits until WGATE is low from both sources -/
  waiting : Bool
  deriving DecidableEq, Repr

/-- Groups of pads that firmware configures together (R46 to R49; log entry 150). -/
inductive PadGroup where
  /-- boot flash, management and CLKREQ pads -/
  | boot
  /-- preamp control, clock-head bias and the accelerometer bus -/
  | media
  deriving DecidableEq, Repr

structure Sys where
  /-- the device is in reset: RESET_N qualified, or an internal full-device reset is held (R52, R493) -/
  inReset : Bool
  /-- the internal power-on reset holds the device (R493, R490) -/
  porHold : Bool
  /-- RESET_N is qualified low (R52) -/
  rstLow : Bool
  /-- PWR_STRAP (R50) -/
  strap : Word
  /-- where the drive stands from reset over POST and cast-on to ready, in bind-off, parked, or in the safe state (R298 to R315) -/
  phase : Phase
  /-- the record of POST (R299, R381) -/
  post : PostRecord
  /-- UNLOAD_N is low (R53) -/
  unloadLow : Bool
  /-- the power-loss sequence has been started and not ended by a reset (R54, R316) -/
  plActive : Bool
  /-- the refuge epoch latched at qualification (R316) -/
  refugeEpoch : Nat
  /-- the shares of the refuge set (R317) -/
  shares : List RefugeShare
  /-- shares were lost because the heads unloaded first (R320) -/
  sharesLost : Bool
  /-- a refuge set found at cast-on is not yet consumed (R321) -/
  refugeUnconsumed : Bool
  /-- SPIN_PERMIT_IN as filtered by R59 -/
  permitIn : Bool
  /-- the permit has been earned since the last full-device reset (R60) -/
  permitEarned : Bool
  /-- the permit delay of R60 (b) is running -/
  permitDelayOn : Bool
  /-- the 10 us minimum of ERR_OUT_N is running (R61) -/
  errMin : Bool
  /-- SNS_INT0 and SNS_INT1 asserted (R48, R134) -/
  snsInt : BitVec 2
  /-- PA_FAULTa_N low, bit per actuator (R47, R190) -/
  paFault : BitVec 4
  /-- groups of pads that firmware has configured since the reset; the others hold their reset state (R46 to R49) -/
  pads : List PadGroup
  /-- source multiplexers of A0 to A3 (R57) -/
  mux : Vector Mux 4
  /-- the 100 ms of R303 are running -/
  safeCommit : Bool
  /-- milliseconds since the last power-on, counted by STC_MS_TICK (log entry 5) -/
  ms : Nat
  /-- the base of the Timestamp feature (0Eh): its value less ms when host software set it, and whether it has since reset -/
  tsBase : Int
  tsSet : Bool
  /-- the value returned by the last register read (R16, R18, R480) -/
  rdata : Word
  /-- latched high words of 64-bit pairs, by address of the low word (R17) -/
  latched : List (Nat × Word)
  /-- staged high words of 64-bit pairs, by address of the low word (R17) -/
  staged : List (Nat × Word)
  /-- requests for an operational power state or I/O that wait for a spin-up (R304) -/
  spinRequested : Bool
  /-- the last stop was clean (R313), as the newest checkpoint tells -/
  cleanStop : Bool
  /-- the refuge epoch of a set written in a coast, while completions wait for the checkpoint that exceeds it (R323) -/
  coastEpoch : Option Nat
  /-- stages 1 to 3 of R269 have run in this cast-on, and its checkpoint has been appended -/
  journalDone : Bool
  /-- unlocks of fault injection, by power-on hours, newest first (R434) -/
  unlocks : List Nat
  deriving DecidableEq, Repr

def PostRecord.none : PostRecord :=
  { result := 0, failingStep := 0, testmode := false, slotBooted := 0, rowsRepaired := 0, coresFailed := 0,
    lanesFailed := 0, enginesFailed := 0, spindlePairFailed := false, bootCore := 0, timeMs := 0, flashFallback := false }

/-- The system part right after a full-device reset (R50, R52, R53, R60). -/
def Sys.reset : Sys :=
  { inReset := false, porHold := false, rstLow := false, strap := 0x1#32, phase := .post, post := .none, unloadLow := true,
    plActive := false, refugeEpoch := 0, shares := [], sharesLost := false, refugeUnconsumed := false,
    permitIn := false, permitEarned := false, permitDelayOn := false, errMin := false, snsInt := 0, paFault := 0, pads := [],
    mux := Vector.replicate 4 { fromL4 := false, waiting := false }, safeCommit := false, ms := 0, tsBase := 0, tsSet := false, rdata := 0,
    latched := [], staged := [], spinRequested := false, cleanStop := true,
    coastEpoch := none, journalDone := false,
    unlocks := [] }

end Sys2Proof.Machine
end

