-- ==== Sys2Proof/Machine/Parts/Yck.lean ====
section
/-!
DEFINITION. The yarn clock block's part of the state (chapter "Yarn Clock and Data Timing").
-/
namespace Sys2Proof.Machine

/-- YCK_STATUS.mode, in the order of its codes (R95). -/
inductive YckMode where
  | off
  | dual
  | single
  | preamble
  deriving DecidableEq, Repr

/-- YCK_LANEn_STAT.timing, in the order of its codes (R118). -/
inductive Timing where
  | none
  | yarn
  | preamble
  deriving DecidableEq, Repr

/-- A recovery PLL's state (R92, R94). -/
structure YarnHead where
  locked : Bool
  qual : Bool
  deriving DecidableEq, Repr

/-- Timing of one lane (YCK_LANEn_STAT, R105, R118). -/
structure LaneTiming where
  timing : Timing
  rowOk : Bool
  zone : Nat
  surface : Nat
  syncDev : Int
  /-- the slot timed last: its bit number P, the master phase in 1/1,024 period at which the path reaches it, and the sync window on either
  side (R102, R103, R108, R174) -/
  bit : Nat
  phase : Nat
  window : Nat
  deriving DecidableEq, Repr

/-- Errors gathered for a gauge entry (R106): row address and wedge, the sum in 1/64 bit and how many. -/
structure GaugeAcc where
  row : Nat
  wedge : Nat
  sum : Int
  count : Nat
  deriving DecidableEq, Repr

structure Yck where
  /-- YCK_CTL, YCK_EVENT, configuration and YCK_LANEn_ROW and NEXT (R118) -/
  regs : Regs
  /-- the registers in force: a write, but for YCK_CTL, counts from the next wedge boundary (R118) -/
  cur : Regs
  /-- the recovery PLLs run: enabled with a configuration that meets R90 -/
  running : Bool
  /-- lock and qualification of Y0 and Y1 (R92, R94) -/
  head : Vector YarnHead 2
  /-- the active head (R92) -/
  active : Option (Fin 2)
  /-- preamble mode (R95, R114) -/
  preamble : Bool
  /-- the timing guard waits for the next sector start (R98, R114, R117) -/
  guardSector : Bool
  /-- the timing guard waits for the end of a slew (R99) -/
  guardSlew : Bool
  /-- a change of the master clock slews (R99) -/
  slewing : Bool
  /-- the master is held on its last frequency (R98) -/
  held : Bool
  /-- a switchover at the next master period boundary, a forced selection and a return at the next index mark (R97, R100, R117) -/
  pendSwitch : Option (Fin 2)
  pendForce : Option (Fin 2)
  pendReturn : Option (Fin 2)
  /-- YCK_YOFS, in 1/1,024 period: the average while both heads are locked, else the last one (R94) -/
  yofs : Nat
  /-- each lane's row, timing, surface and zone, and its latest sync deviation (R112, R118) -/
  lane : Vector LaneTiming 5
  /-- error sums of the gauge updates that are under way (R106) -/
  acc : List GaugeAcc
  /-- errors of the outputs of triple-track sectors not yet complete: lane, slot, output and error (R106) -/
  tri : List (Nat × Nat × Nat × Int)
  /-- consecutive sectors beyond skew_bits, by surface and zone (R112) -/
  skew : List (Nat × Nat)
  /-- addresses of rows changed since the last hourly write, and the copies in RLD by surface * 64 + zone (R105, R107) -/
  dirty : List Nat
  rldRows : List (Nat × List (BitVec 8))
  deriving DecidableEq, Repr

/-- YCK right after a full-device reset (R118). -/
def Yck.reset : Yck :=
  { regs := [], cur := [], running := false, head := Vector.replicate 2 { locked := false, qual := false }, active := none,
    preamble := false, guardSector := false, guardSlew := false, slewing := false, held := false,
    pendSwitch := none, pendForce := none, pendReturn := none, yofs := 0,
    lane := Vector.replicate 5 { timing := .none, rowOk := false, zone := 0, surface := 0, syncDev := 0, bit := 0, phase := 0, window := 32 },
    acc := [], tri := [], skew := [], dirty := [], rldRows := [] }

end Sys2Proof.Machine
end

