-- ==== Sys2Proof/Machine/State.lean ====
section
/-!
DEFINITION. The state of the Mionar: one part per block or subsystem of the spec, the memory, the free-value counter, and the queue of
commands that wait; the state right after a full-device reset; faults and refusals.
-/
namespace Sys2Proof.Machine
open Sys2Proof

structure State where
  /-- resets, straps, pins, the permit chain, cast-on and bind-off (R50 to R62, R298 to R325) -/
  sys : Sys
  /-- the fault and interrupt controller FLT with the binding registers (R27 to R35, R414 to R435) -/
  flt : Flt
  /-- PWR: domains, rails, power states (R447 to R465, R490, R507) -/
  pwr : Pwr
  /-- CLK: the crystal and the cluster clocks (R460 to R466) -/
  clk : Clk
  /-- SPN: the spindle drive (R63 to R89, R509) -/
  spn : Spn
  /-- SRV: the servo engines S0 to S4 (R119 to R144) -/
  srv : Vector Srv 5
  /-- the Drive Link ports of A0 to A3 (R34, R139, R141) -/
  port : Vector Port 4
  /-- the sensor unit (R135) -/
  sns : Sns
  /-- YCK: the yarn clock (R90 to R118) -/
  yck : Yck
  /-- LANE: the lanes L0 to L4 (R170 to R243) -/
  lane : Vector Lane 5
  /-- DDP: the deep-decode pool (R208, R216) -/
  ddp : Ddp
  /-- what the disks hold beside the members' data (R107, R164 to R169) -/
  media : Media
  /-- DMA: the channels (R384 to R398, R411) -/
  dma : Dma
  /-- HQM: the hardware queues (R399 to R406, R412) -/
  hqm : Hqm
  /-- CAP: the capture port (R407 to R410, R413) -/
  cap : Cap
  /-- STC: the Stitch Counter (R436 to R446) -/
  stc : Stc
  /-- SPE: the surface parity engine and the journal (R244 to R271) -/
  spe : Spe
  /-- the array: members, host zones, blocks, rebuild, reshape, scrub (R244 to R297, R510) -/
  arr : Arr
  /-- HIF: ports, controllers, commands in flight (R326 to R367, R486) -/
  hif : Hif
  /-- namespaces, features, firmware, Opal, sanitize, self-test, the management endpoint (R341 to R382) -/
  host : HostIf
  /-- the on-chip SRAM and the buffer DRAM, by address (R479, R481, R482): addresses strictly rising, no byte that is 0 (log entry 3) -/
  mem : List Host.Cell
  /-- the MODEL'S OWN: how many free values have been used (log entry 2) -/
  free : Nat
  /-- the commands that wait, first in, first out -/
  pending : List Instr
  deriving DecidableEq, Repr

/-- Right after a full-device reset of a drive as it leaves the factory (R52), with POST still to run. -/
def State.reset : State :=
  { sys := .reset, flt := .reset, pwr := .reset, clk := .reset, spn := .reset, srv := Vector.replicate 5 .reset,
    port := Vector.ofFn Port.reset, sns := .reset, yck := .reset, lane := Vector.replicate 5 .reset, ddp := .reset,
    media := .reset, dma := .reset, hqm := .reset, cap := .reset, stc := .reset, spe := .reset, arr := .reset, hif := .reset,
    host := .reset, mem := [], free := 0, pending := [] }

/-- Why a run stops with a fault. -/
inductive Fault where
  /-- A command whose operands Sys2Proof.WellFormed refuses. No meaning raises it: each is total, and an operand that names no part of
  the machine changes nothing. Safe: no run stops here. -/
  | illFormed
  deriving DecidableEq, Repr

/-- Why a command is refused. -/
inductive Refusal where
  /-- Raised by exec's arm of a command that has no meaning yet, with its mnemonic. Safe: nothing can be proved of what it does. -/
  | notModelled (mnemonic : String)
  deriving DecidableEq, Repr

end Sys2Proof.Machine
end

