-- ==== Sys2Proof/Machine/Ops.lean ====
section
/-!
DEFINITION. The named operations every meaning uses: bit fields, keyed stores, memory, registers, free values, and the fault
controller's reaction to a source (R414 to R420).
-/
namespace Sys2Proof.Machine
open Sys2Proof

/-! ### The shape of a meaning -/

/-- An event acts only outside reset (R52): while the device is in reset it changes nothing. -/
def act (s : State) (f : State → State) : Host.Outcome State Fault Refusal :=
  if s.sys.inReset then .next s else .next (f s)

/-! ### Bit fields -/

/-- Bits [hi:lo] of a word as a number (R13). -/
def fld (w : Word) (hi lo : Nat) : Nat := (w.toNat >>> lo) % 2 ^ (hi - lo + 1)

/-- The number of 1 bits among the n low bits. -/
def ones (n v : Nat) : Nat := ((List.range n).filter fun i => v.testBit i).length

/-- Bit n of a word. -/
def bitOf (w : Word) (n : Nat) : Bool := w.getLsbD n

/-- A word with bits [hi:lo] replaced by v. -/
def setFld (w : Word) (hi lo v : Nat) : Word :=
  BitVec.ofNat 32 (w.toNat - fld w hi lo * 2 ^ lo + v % 2 ^ (hi - lo + 1) * 2 ^ lo)

/-- One bit as a word, shifted to its place. -/
def bitAt (b : Bool) (n : Nat) : Word := if b then BitVec.ofNat 32 (2 ^ n) else 0

/-- A field value as a word, shifted to its place. -/
def fldAt (v hi lo : Nat) : Word := BitVec.ofNat 32 (v % 2 ^ (hi - lo + 1) * 2 ^ lo)

/-- Bit n set in a set of n-numbered things. -/
def setBit {w : Nat} (x : BitVec w) (n : Nat) : BitVec w := x ||| BitVec.ofNat w (2 ^ n)

/-- Bit n cleared. -/
def clearBit {w : Nat} (x : BitVec w) (n : Nat) : BitVec w := x &&& ~~~ BitVec.ofNat w (2 ^ n)

/-- Bit n made b. -/
def putBit {w : Nat} (x : BitVec w) (n : Nat) (b : Bool) : BitVec w := if b then setBit x n else clearBit x n

/-- A number read as a two's-complement value of w bits. -/
def signed (w v : Nat) : Int := if 2 ^ (w - 1) ≤ v % 2 ^ w then (v % 2 ^ w : Nat) - (2 ^ w : Nat) else (v % 2 ^ w : Nat)

/-- Clamp of an exact integer to a range. -/
def clampInt (lo hi x : Int) : Int := if x < lo then lo else if hi < x then hi else x

/-! ### Keyed stores -/

/-- The value at key k, or d where the store lists none. -/
def keyGet {α : Type} (l : List (Nat × α)) (k : Nat) (d : α) : α :=
  match l with
  | [] => d
  | (a, x) :: t => if a = k then x else keyGet t k d

/-- The store with key k removed. -/
def keyDel {α : Type} (l : List (Nat × α)) (k : Nat) : List (Nat × α) :=
  match l with
  | [] => []
  | (a, x) :: t => if a = k then t else (a, x) :: keyDel t k

/-- The store with key k at x, keys strictly rising. -/
def keyPut {α : Type} (l : List (Nat × α)) (k : Nat) (x : α) : List (Nat × α) :=
  match l with
  | [] => [(k, x)]
  | (a, y) :: t => if k < a then (k, x) :: (a, y) :: t else if k = a then (k, x) :: t else (a, y) :: keyPut t k x

/-- The store with key k at x, where the value d stands for "not listed". -/
def keySet {α : Type} [DecidableEq α] (l : List (Nat × α)) (k : Nat) (x d : α) : List (Nat × α) :=
  if x = d then keyDel l k else keyPut l k x

/-! ### Memory (R479, R481, R482): bytes by address; an address not listed reads 0 (log entry 3) -/

/-- One byte of memory. -/
def readByte (s : State) (a : Nat) : Byte := keyGet s.mem a 0

/-- n bytes from address a, little-endian (R16). -/
def readLE (s : State) (a n : Nat) : Nat :=
  match n with
  | 0 => 0
  | n + 1 => (readByte s a).toNat + 256 * readLE s (a + 1) n

/-- One byte written, the canonical form kept. -/
def writeByte (s : State) (a : Nat) (b : Byte) : State := { s with mem := keySet s.mem a b 0 }

/-- n bytes of v written from address a, little-endian (R16). -/
def writeLE (s : State) (a n v : Nat) : State :=
  match n with
  | 0 => s
  | n + 1 => writeLE (writeByte s a (BitVec.ofNat 8 v)) (a + 1) n (v / 256)

/-- The bytes of a region, in address order. -/
def readBytes (s : State) (a n : Nat) : List Byte :=
  match n with
  | 0 => []
  | n + 1 => readByte s a :: readBytes s (a + 1) n

/-- A list of bytes written from address a. -/
def writeBytes (s : State) (a : Nat) (bs : List Byte) : State :=
  match bs with
  | [] => s
  | b :: t => writeBytes (writeByte s a b) (a + 1) t

/-- A copy of n bytes, read whole before it is written. -/
def copyBytes (s : State) (src dst n : Nat) : State := writeBytes s dst (readBytes s src n)

/-- One byte into a CRC-32C (reflected polynomial 0x82F63B78), bit by bit. -/
def crcByte (n : Nat) (c : Nat) : Nat :=
  match n with
  | 0 => c
  | n + 1 => crcByte n (if c % 2 = 1 then (c / 2) ^^^ 0x82F63B78 else c / 2)

/-- CRC-32C of a byte string (R104, R172): initial value and final inversion all ones. -/
def crc32c (bs : List Byte) : Nat := (bs.foldl (fun c b => crcByte 8 (c ^^^ b.toNat)) 0xFFFFFFFF) ^^^ 0xFFFFFFFF

/-! ### Free values (log entry 2) -/

/-- The next value the spec leaves open, and the state that has used it. -/
def freeNext (s : State) : BitVec 64 × State := (Config.freeValue s.free, { s with free := s.free + 1 })

/-- What FLT marks as a source occurs, beside its pending bit: 175 re-seeds its copies (R424, R435), and 498 fails a deep decoder (R216);
the spec does not say which of the two, and that choice is a free value (log entry 123). -/
def sourceMark (k : Nat) (s : State) : State :=
  if k = 175 then { s with flt := { s.flt with reseeded := true } }
  else if k = 498 then
    let (v, s) := freeNext s
    let p := s.ddp
    { s with ddp := { p with failed := if p.failed ≠ 0 then 3#2 else if v.getLsbD 0 then 2#2 else 1#2 } }
  else s

/-- The spare-band area of a surface is exhausted (R168). -/
def spareOut (s : State) (m : Nat) : Bool := decide (s.arr.spareExtents.toList.getD m 1 = 0)

/-! ### Registers of a block -/

/-- The row of a block's listing that holds an offset (R479, R480). -/
def rowAt (rows : List RegRow) (off : Nat) : Option RegRow :=
  rows.find? fun r => decide (r.base ≤ off ∧ (off - r.base) % r.stride = 0 ∧ (off - r.base) / r.stride < r.count)

/-- The reset value of the register at an offset; 0 at a reserved offset (R18). -/
def resetOf (rows : List RegRow) (off : Nat) : Word :=
  match rowAt rows off with
  | some r => BitVec.ofNat 32 r.reset
  | none => 0

/-- The stored word of a register. -/
def regGet (rows : List RegRow) (rs : Regs) (off : Nat) : Word := keyGet rs off (resetOf rows off)

/-- A register set to a word. -/
def regSet (rows : List RegRow) (rs : Regs) (off : Nat) (w : Word) : Regs := keySet rs off w (resetOf rows off)

/-- What a write of w leaves in a register that holds old (R19): RW and, while the lock bit is clear, RWL bits take the written
value; a 1 clears a W1C bit and sets a W1S bit; every other bit keeps its value. -/
def writeWord (r : RegRow) (locked : Bool) (old w : Word) : Word :=
  let rw : Word := BitVec.ofNat 32 (if locked then r.rw else r.rw ||| r.rwl)
  ((old &&& ~~~ rw) ||| (w &&& rw) ||| (w &&& BitVec.ofNat 32 r.w1s)) &&& ~~~ (w &&& BitVec.ofNat 32 r.w1c)

/-- A write by access code alone (R19); a reserved offset takes no write (R18, R480). -/
def regWrite (rows : List RegRow) (rs : Regs) (locked : Bool) (off : Nat) (w : Word) : Regs :=
  match rowAt rows off with
  | some r => regSet rows rs off (writeWord r locked (regGet rows rs off) w)
  | none => rs

/-! ### FLT sources (R414, R415) -/

/-- Sources of a block register: bit b of SRV_EVENT of engine e, and so on (R414). -/
def srcSpn (b : Nat) : Nat := 184 + b
def srcYck (b : Nat) : Nat := 198 + b
def srcSrv (e b : Nat) : Nat := 211 + 16 * e + b
def srcLaneFe (l b : Nat) : Nat := 291 + 41 * l + b
def srcLaneDec (l b : Nat) : Nat := 302 + 41 * l + b
def srcLaneRow (l b : Nat) : Nat := 313 + 41 * l + b
def srcLanePat (l b : Nat) : Nat := 324 + 41 * l + b
def srcDdp (b : Nat) : Nat := 496 + b
def srcSpe (b : Nat) : Nat := 500 + b
def srcDma (b : Nat) : Nat := 509 + b
def srcDmaIrq (n : Nat) : Nat := 517 + n
def srcHqm (b : Nat) : Nat := 581 + b
def srcNotify (g : Nat) : Nat := 589 + g
def srcCap (b : Nat) : Nat := 621 + b
def srcHif (port b : Nat) : Nat := 136 + 8 * port + b
def srcSram (region b : Nat) : Nat := 108 + 2 * region + b
def srcRld (chan b : Nat) : Nat := 128 + 4 * chan + b
def srcCore (c b : Nat) : Nat := 3 * c + b

/-- The number of event bits of each LANE register, with its class list (R415): the class of bit b of the lane source group. -/
def laneClass (o : Nat) : Nat :=
  if o ∈ [25, 36] then 2                       -- seq_fault, op_fail
  else if o ∈ [4, 24] then 3                   -- rdr_fault, spares_out
  else if o ∈ [1, 2, 9, 10, 11, 19, 20, 21, 22, 27, 32, 33, 34, 37, 40] then 1
  else 0

/-- The fixed class of a source (R415). -/
def srcClass (k : Nat) : Nat :=
  if k < 108 then (if k % 3 = 0 then 2 else if k % 3 = 1 then 3 else 0)
  else if k < 128 then
    (if k = 109 then 1 else if k ∈ [111, 113, 115, 117, 119] then 2 else if k ∈ [121, 123, 125] then 3
     else if k = 127 then 5 else 0)
  else if k < 136 then (if k ∈ [129, 133] then 1 else if k ∈ [130, 134] then 3 else 0)
  else if k < 152 then
    (if (k - 136) % 8 ∈ [0, 2, 5] then 1 else if (k - 136) % 8 ∈ [6, 7] then 3 else 0)
  else if k < 168 then
    (if k = 152 then 3 else if 155 ≤ k ∧ k ≤ 161 then 4 else if k = 162 ∨ k = 163 then 1 else if k = 164 then 4
     else if 165 ≤ k then 3 else 0)
  else if k < 184 then
    (if k ∈ [168, 169, 171, 172, 173, 175] then 1 else if k = 176 then 5 else if k = 177 then 3
     else if 178 ≤ k then 1 else 0)
  else if k < 198 then
    (let b := k - 184
     if b ∈ [6, 4, 12] then 1 else if b = 8 then 3 else if b ∈ [2, 5, 11, 13] then 4 else 0)
  else if k < 211 then
    (let b := k - 198
     if b ∈ [3, 9, 12] then 1 else if b ∈ [0, 1] then 3 else if b = 4 then 4 else 0)
  else if k < 291 then
    (let b := (k - 211) % 16
     if b ∈ [3, 7, 14] then 1 else if b ∈ [10, 12, 13] then 3 else if b ∈ [9, 11] then 4 else 0)
  else if k < 496 then laneClass ((k - 291) % 41)
  else if k < 500 then (if k = 499 then 1 else if k = 498 then 3 else 0)
  else if k < 509 then (if k - 500 ∈ [0, 2, 4, 5, 6, 7, 8] then 1 else 0)
  else if k < 517 then (if k = 512 then 0 else 1)
  else if k < 581 then 0
  else if k < 589 then (if k = 585 then 0 else 1)
  else if k < 621 then 0
  else if k < 625 then (if k = 624 then 0 else 1)
  else 0

/-- Sources that never fire: the reserved numbers and the reserved bits of the event registers (R414). -/
def srcReserved (k : Nat) : Bool :=
  decide (k = 131 ∨ k = 135 ∨ k = 185 ∨ 625 ≤ k) || (decide (291 ≤ k ∧ k < 496) && decide ((k - 291) % 41 = 12))

/-- Sources tagged hook (R414). -/
def hookTagged (k : Nat) : Bool :=
  decide ((565 ≤ k ∧ k ≤ 580) ∨ (617 ≤ k ∧ k ≤ 620) ∨ k = 182 ∨ k = 183)

/-- The reset value of FLT_SRC_CFGs: target 0x3F, en 1, base and PIN by class, the fixed fields hook and cls (R416, R435). -/
def srcCfgReset (k : Nat) : Word :=
  let c := srcClass k
  let base := if c = 2 then 2 else if c = 4 then 1 else if c = 5 then 3 else 0
  fldAt 0x3F 23 18 ||| bitAt (hookTagged k) 15 ||| fldAt c 14 12 ||| bitAt true 9 ||| bitAt (decide (3 ≤ c)) 8 |||
    fldAt base 5 4

/-- FLT_SRC_CFGs as it stands (R435). -/
def srcCfg (f : Flt) (k : Nat) : Word := keyGet f.regs (0x1000 + 4 * k) (srcCfgReset k)

/-- The rung of a code. -/
def rungOf (n : Nat) : Rung := if n = 0 then .int else if n = 1 then .nmi else if n = 2 then .blk else .chip

def rungCode : Rung → Nat
  | .int => 0 | .nmi => 1 | .blk => 2 | .chip => 3

/-- Some source of class c is pending (R420). -/
def classPending (f : Flt) (c : Nat) : Bool :=
  (List.range 640).any fun k => f.pend.getLsbD k && decide (srcClass k = c)

/-- The role of core k, failed for a number that is no core. -/
def roleOf (f : Flt) (k : Nat) : Role := if h : k < 36 then f.role[k] else .failed

/-- The lowest-numbered core of a role. -/
def lowestCore (f : Flt) (r : Role) : Option Nat := (List.range 36).find? fun k => decide (roleOf f k = r)

/-- The core a reaction goes to (R418): the source's target, the default core where that one is 0x3F or failed, the
lowest-numbered resident core where the default core has failed too; a hook-tagged source always goes to a hook core. -/
def targetCore (f : Flt) (k : Nat) : Nat :=
  let t := fld (srcCfg f k) 23 18
  let dflt := fld (keyGet f.regs 0 0) 5 0
  if hookTagged k then
    (if roleOf f t = .hook then t else (lowestCore f .hook).getD dflt)
  else
    let t := if t = 0x3F then dflt else t
    let t := if roleOf f t = .failed then dflt else t
    if roleOf f t = .failed then (lowestCore f .resident).getD dflt else t

/-- The rung an occurrence takes (R420): the base rung, or base + step + 1 up to CHIP while its class has a pending source. -/
def rungFor (f : Flt) (k : Nat) : Nat :=
  let c := srcClass k
  let base := fld (srcCfg f k) 5 4
  if c ≠ 0 ∧ classPending f c then min (base + f.steps.toList.getD (c - 1) 0 + 1) 3 else base

/-- The steps after an occurrence that took a rung: one more while the class was pending, 0 at a CHIP reaction (R420). -/
def stepsAfter (f : Flt) (k rung : Nat) : Vector Nat 5 :=
  let c := srcClass k
  if h : 1 ≤ c ∧ c - 1 < 5 then
    (if rung = 3 then f.steps.set (c - 1) 0 h.2
     else if classPending f c then f.steps.set (c - 1) (f.steps[c - 1]'h.2 + 1) h.2
     else f.steps)
  else f.steps

/-- An escalation that reached CHIP (R420). -/
def escalatedToChip (f : Flt) (k : Nat) : Bool :=
  decide (rungFor f k = 3) && decide (fld (srcCfg f k) 5 4 ≠ 3)

/-- The block a BLK reaction acts on (R417). -/
inductive BlkOf where
  | core (c : Nat)
  | lane (l : Nat)
  | ddp
  | srv (e : Nat)
  | spn
  | yck
  | spe
  | dma (k : Nat)
  | cap
  | rld (c : Nat)
  | none
  deriving DecidableEq, Repr

/-- The block of a source, for BLK (R414, R417). -/
def blkOf (k : Nat) : BlkOf :=
  if k < 108 then .core (k / 3)
  else if 128 ≤ k ∧ k < 136 then .rld ((k - 128) / 4)
  else if 184 ≤ k ∧ k < 198 then .spn
  else if 198 ≤ k ∧ k < 211 then .yck
  else if 211 ≤ k ∧ k < 291 then .srv ((k - 211) / 16)
  else if 291 ≤ k ∧ k < 496 then .lane ((k - 291) / 41)
  else if 496 ≤ k ∧ k < 500 then .ddp
  else if 500 ≤ k ∧ k < 509 then .spe
  else if 509 ≤ k ∧ k < 581 then .dma k
  else if 621 ≤ k ∧ k < 625 then .cap
  else .none

/-- A block that a warm reset resets: its BLK is deferred while one is in progress (R38, R423). -/
def blkInScope : BlkOf → Bool
  | .core _ | .lane _ | .ddp | .spe | .dma _ | .cap => true
  | _ => false

/-- The unit a Fault History record names (R380). -/
def unitOf (k : Nat) : Nat :=
  match blkOf k with
  | .core c => c | .lane l => l | .srv e => e | .rld c => c | _ => 0

/-- A record added to the Fault History log, newest first, at most 256; a repeat of the newest record is counted in it (R380). -/
def addFaultRecord (r : FaultRecord) (f : Flt) : Flt :=
  match f.history with
  | h :: t =>
    if h.kind = r.kind ∧ h.src = r.src ∧ h.unit = r.unit ∧ h.detail = r.detail ∧ r.kind = 0 then
      { f with history := { h with timeMs := r.timeMs, poh := r.poh, rung := r.rung, pin := r.pin, repeats := h.repeats + 1 } :: t
               historyTotal := f.historyTotal + 1 }
    else { f with history := (r :: h :: t).take 256, historyTotal := f.historyTotal + 1 }
  | [] => { f with history := [r], historyTotal := f.historyTotal + 1 }

/-- An event bit without a source occurs (R20): its mark stands at 640 and up. -/
def freshMark (k : Nat) (s : State) : State := { s with flt := { s.flt with freshEvt := setBit s.flt.freshEvt k } }

/-- FLT's own part of an occurrence: pending, PIN, step count, FLT_LAST, the record, and the delivery or its deferral
(R416, R418, R420, R423). A masked or reserved source shows in FLT_RAW only, or not at all. -/
def fltOccur (k : Nat) (s : State) : State :=
  let f := s.flt
  let c := srcClass k
  let cfg := srcCfg f k
  let f1 := { f with raw := BitVec.ofNat 640 (2 ^ k), freshEvt := setBit f.freshEvt k }
  if bitOf cfg 9 = false then { s with flt := f1 }
  else
    let rung := rungFor f k
    let pin := bitOf cfg 8
    let d : Delivery := { src := k, core := targetCore f k, rung := rungOf rung }
    let f2 := { f1 with
      steps := stepsAfter f k rung
      pend := setBit f.pend k
      freshPend := setBit f.freshPend k
      pinPend := if pin then setBit f.pinPend k else f.pinPend
      last := fldAt k 9 0 ||| fldAt c 14 12 ||| fldAt rung 17 16 ||| bitAt pin 18
      chipReq := f.chipReq || decide (rung = 3)
      delivered := if rung = 3 ∨ f.warm then f.delivered else d :: f.delivered.filter fun x => decide (x.src ≠ k)
      deferred := if f.warm ∧ rung ≠ 3 then f.deferred ++ [d] else f.deferred }
    let f3 := if c = 0 then f2 else addFaultRecord
      { timeMs := s.sys.ms, poh := s.stc.poh, src := k, cls := c, rung := rung, pin := pin, repeats := 0,
        unit := unitOf k, kind := 0, detail := 0 } f2
    { s with flt := f3, sys := if pin then { s.sys with errMin := true } else s.sys }

end Sys2Proof.Machine
end

