-- ==== Sys2Proof/Machine/Gate.lean ====
section
/-!
DEFINITION. Bindings as the blocks see them, and the lane write-gate guards (R31, R57, R188 to R190).
-/
namespace Sys2Proof.Machine
open Sys2Proof

/-! ### Bindings (R31, R57) -/

/-- The code of engine e's field in FLT_SRV_MAP (R31). -/
def srvBind (f : Flt) (e : Nat) : Nat := fld f.srvMap (3 * e + 2) (3 * e)

/-- The engine that FLT_SRV_MAP binds to actuator a (R31). -/
def engineOf (f : Flt) (a : Nat) : Option EngIx := (List.finRange 5).find? fun e => decide (srvBind f e.val = a)

/-- An actuator is loaded: its engine is on the disk. -/
def loaded (s : State) (a : Nat) : Bool :=
  ((engineOf s.flt a).map fun e => let x : Srv := s.srv.get e
    decide (x.state = .capture ∨ x.state = .seek ∨ x.state = .settle ∨ x.state = .follow ∨ x.state = .hold)).getD false

/-- The actuator an engine drives now. -/
def drives (s : State) (e : EngIx) : Option ActIx := (List.finRange 4).find? fun a => decide (s.port[a].driver = some e)

/-- The code of lane l's field in FLT_LANE_MAP (R31). -/
def laneBind (f : Flt) (l : Nat) : Nat := fld f.laneMap (3 * l + 2) (3 * l)

/-- The actuator lane l is bound to. -/
def laneAct (f : Flt) (l : LaneIx) : Option ActIx := (List.finRange 4).find? fun a => decide (laneBind f l.val = a.val)

/-- The lane whose outputs the source multiplexer of actuator a selects (R57). -/
def laneOn (s : State) (a : ActIx) : LaneIx := if (s.sys.mux[a]).fromL4 then 4 else a.castSucc

/-- The actuator of a member has a lane that serves it (R37). -/
def laneless (s : State) (a : Nat) : Bool :=
  ((List.range 5).all fun l => decide (laneBind s.flt l ≠ a)) || ((List.range 5).all fun e => decide (srvBind s.flt e ≠ a))

/-- The number of servo wedges per revolution, YCK_WEDGE (R118). -/
def wedges (y : Yck) : Nat := fld (regGet yckRows y.regs 0x10) 10 0

/-- A wedge boundary of the active master: written registers come into force (R118; log entry 138). -/
def yckBoundary (s : State) : State := { s with yck := { s.yck with cur := s.yck.regs } }

/-- The surface that head h of actuator a serves (R9). -/
def surfaceOf (a : ActIx) (h : Nat) : Nat := 6 * a.val + h

def setLane (l : LaneIx) (v : Lane) (s : State) : State := { s with lane := s.lane.set l v }

/-- A lane's stored register. -/
def laneReg (v : Lane) (off : Nat) : Word := regGet laneRows v.regs off

/-- The surface a lane works on: its actuator's head in LANE_FE_CTL. -/
def laneSurface (s : State) (l : LaneIx) : Nat :=
  match laneAct s.flt l with
  | some a => surfaceOf a (fld (laneReg s.lane[l] 0) 7 5)
  | none => 24

/-- SRV_SV_CFG of the engine that serves a lane's actuator: its low field is div, master periods to a servo bit (R144). -/
def yckDiv (s : State) (l : LaneIx) : Word :=
  match (laneAct s.flt l).bind fun a => engineOf s.flt a.val with
  | some e => regGet srvRows (s.srv.get e).cur 0x20
  | none => 4

/-! ### Spindle and servo conditions of the guard -/

/-- Nominal speed in 1/4 rpm, as in force (R88, R89). -/
def spnNominalQ (p : Spn) : Nat := 4 * fld (regGet spnRows p.cur 0x10) 12 0

/-- The measured speed is at or above a threshold in 0.1 % of nominal. -/
def speedAtLeast (p : Spn) (permille : Nat) : Bool := decide (permille * spnNominalQ p ≤ 1000 * p.speedQ)

/-- SRV_STATUS.wr_ok: the engine follows, settled, with no inhibit cause (R134, R137). -/
def srvWrOk (v : Srv) : Bool := decide (v.state = .follow) && v.settled && decide (v.inh = 0)

/-- The waiver of R189: LANE_FE_CTL.refuge with YCK lock, on_track and a speed at or above the unload threshold in force. -/
def refugeWaiver (s : State) (v : Lane) (e : Srv) : Bool :=
  let thr := regGet spnRows s.spn.cur 0x30
  let pct := if s.sys.plActive then fld thr 31 24 else fld thr 7 0
  bitOf (laneReg v 0) 17 && (s.yck.head[0].locked || s.yck.head[1].locked) && e.onTrack && speedAtLeast s.spn (10 * pct)

/-- The causes that hold for lane l, in the order of R189's table; hardware evaluates them (R25). -/
def guardCauses (s : State) (l : LaneIx) : BitVec 8 :=
  let v := s.lane[l]
  let act := laneAct s.flt l
  let eng := act.bind fun a => engineOf s.flt a.val
  let waive := (eng.map fun e => refugeWaiver s v s.srv[e]).getD false
  let servo := (eng.map fun e =>
    let x : Srv := s.srv.get e
    if waive then !(decide (x.state = .follow) && x.settled && decide (clearBit x.inh 3 = 0)) else !srvWrOk x).getD true
  let spin := (s.spn.hold || !s.spn.wrOk) && !waive
  let bits := [servo, decide (s.sys.snsInt ≠ 0), spin, s.yck.guardSector || s.yck.guardSlew, s.flt.warm || v.warmHold,
    v.parityHold, decide (laneBind s.flt l.val = 5), ((act.map fun a => decide (laneOn s a ≠ l)).getD true)]
  (bits.zip (List.range 8)).foldl (fun (m : BitVec 8) b => if b.1 then setBit m b.2 else m) 0

/-- WGATE of the actuator lane l serves is high (R188, R190, R191). -/
def wgate (s : State) (l : LaneIx) : Bool :=
  let v := s.lane[l]
  v.row.wgReq && !v.gateLatched && v.paSent && decide (guardCauses s l = 0)

/-- The guard of lane l withdraws its permit: a gate requested now stays off until a following sector starts (R189, R190). -/
def guardLane (l : LaneIx) (s : State) : State :=
  let v := s.lane[l]
  if v.row.wgReq ∧ v.gateLatched = false ∧ guardCauses s l ≠ 0 then setLane l { v with gateLatched := true } s else s

/-- Every lane's guard (R189). -/
def guardAll (s : State) : State := (List.finRange 5).foldl (fun t l => guardLane l t) s

/-- A write inhibit of actuator a reaches the guard of the lane that serves it (R134, R189). -/
def actInhibit (a : ActIx) (s : State) : State := guardLane (laneOn s a) s

end Sys2Proof.Machine
end

