-- ==== Sys2Proof/Machine/Geometry.lean ====
section
/-!
DEFINITION. The geometry of the media: places of bits, sectors, groups and extents, the sector ID, the servo wedge, zone descriptors with
their checks, defects and slips (chapter "Media Format", and R101 to R103 of "Yarn Clock and Data Timing").
-/
namespace Sys2Proof.Machine
open Sys2Proof

/-- A quotient rounded up; 0 where the divisor is 0. -/
def ceilDiv (a b : Nat) : Nat := (a + b - 1) / b

/-! ### Places on a track (R101 to R103, R148, R150, R174) -/

/-- Servo bits of a wedge, and data bits of the margin on each side of a data region (R148, R150). -/
def wedgeBits : Nat := 332
def marginBits : Nat := 8

/-- The fields of a servo wedge: first servo bit and length (R148). -/
inductive WedgeField where
  | leadGap
  | preamble
  | sam
  | trackId
  | wedgeNumber
  | pad
  | burstA
  | burstB
  | burstC
  | burstD
  | rro
  | trailGap
  deriving DecidableEq, Repr

/-- Where a field of the wedge lies, in servo bits from the wedge boundary: its first bit and its length (R148). -/
def WedgeField.span : WedgeField → Nat × Nat
  | .leadGap => (0, 4)
  | .preamble => (4, 20)
  | .sam => (24, 8)
  | .trackId => (32, 48)
  | .wedgeNumber => (80, 20)
  | .pad => (100, 8)
  | .burstA => (108, 36)
  | .burstB => (145, 36)
  | .burstC => (182, 36)
  | .burstD => (219, 36)
  | .rro => (255, 14)
  | .trailGap => (269, 63)

/-- wofs: the SAM is detected in the middle of its last bit, at servo bit 31.5, here in master periods (R148). -/
def samOffset (div : Nat) : Nat := div * (2 * (WedgeField.sam.span.1 + WedgeField.sam.span.2) - 1) / 2

/-- A number of n bits in Gray code, and each bit as a dibit: 10 for a 1, 01 for a 0 (R148; log entry 137). -/
def grayCode (n : Nat) : Nat := n ^^^ (n / 2)
def dibits (width n : Nat) : List Bool := (List.range width).reverse.flatMap fun i => [n.testBit i, !n.testBit i]

/-- S, the servo span in data bits (R150): `div` master periods to a servo bit, `bw` bits and `pw` periods to a wedge interval. -/
def servoSpan (div bw pw : Nat) : Nat := ceilDiv (wedgeBits * div * bw) pw

/-- The least time in ns from the last bit of the RRO field to the reopening of the write gate (R125), and a trailing gap that keeps it: `bits`
servo bits of `div` master periods, at a master frequency in MHz. -/
def reopenNs : Nat := 500
def gapKeeps (bits div mhz : Nat) : Bool := decide (reopenNs * mhz ≤ bits * div * 1000)

/-- A row survives the loss of a whole actuator (R246). -/
def survivesActuator (c : Nat) : Bool := decide (c ≤ 2)

/-- D, the data bits of a wedge interval (R150). -/
def dataRegion (bw span : Nat) : Nat := bw - span - 2 * marginBits

/-- The bit number of data index m (R150). -/
def dataBit (bw span d m : Nat) : Nat := m / d * bw + span + marginBits + m % d

/-- The data index of a bit number in a data region; none in a servo span or a margin (R150). -/
def dataIndex (bw span d n : Nat) : Option Nat :=
  let m := n % bw
  if span + marginBits ≤ m ∧ m < span + marginBits + d then some (n / bw * d + (m - span - marginBits)) else none

/-- g at bit number P of a track, in 1/64 bit times B_w: linear between the entries of the two wedges around it (R102). -/
def gaugeAt (g : Nat → Int) (w bw p : Nat) : Int :=
  let k := p / bw % w
  let g0 := g k
  let g1 := g ((k + 1) % w)
  g0 * bw + (g1 - g0) * (p % bw : Nat)

/-- The master phase at which bit number P passes, the first 1/1,024 of a period that reaches it (R102): c + (P - g / 64) P_w / B_w. A writer's offset d_w or a
reader's delay, in 1/64 bit, brings it forward (R103, R174). -/
def phaseOfBit (g : Nat → Int) (w bw pw coarse p : Nat) (lead : Int) : Int :=
  1024 * coarse - 1024 * (gaugeAt g w bw p - ((64 * p : Nat) - lead) * bw) * pw / ((64 * bw * bw : Nat) : Int)

/-- n(Φ), the bit number under the reference reader at master phase Φ, in 1/1,024 bit; phase and coarse offset in 1/1,024 and whole periods
of the n_ct of a revolution (R102). -/
def bitAtPhase (g : Nat → Int) (w bw pw coarse : Nat) (phase : Int) : Int :=
  let n : Int := 1024 * ((w * pw : Nat) : Int)
  let x : Int := (phase - 1024 * (coarse : Int)) % n
  let k := (x / (1024 * (pw : Int))).toNat % w
  let f : Int := x % (1024 * (pw : Int))
  let g0 := g k
  let g1 := g ((k + 1) % w)
  (bw : Int) * x / (pw : Int) + 16 * g0 + 16 * (g1 - g0) * f / (1024 * (pw : Int))

/-- A master phase within its revolution of n_ct periods (R92). -/
def phaseMod (nct : Nat) (phase : Int) : Nat := (phase % (1024 * (nct : Int))).toNat

/-! ### Sectors (R152 to R155, R198) -/

/-- Parity bits of a code rate (R153). -/
def parityBits (rate : Fin 4) : Nat := if rate = 0 then 2816 else if rate = 1 then 3712 else if rate = 2 then 4480 else 5376

/-- Columns of the LDPC code of a rate, 258 of them information (R153, R198). -/
def ldpcColumns (rate : Fin 4) : Nat := 258 + parityBits rate / 128

/-- The time of i iterations on a sector, in ns (R201): c/280 µs each. -/
def ldpcNs (rate : Fin 4) (i : Nat) : Nat := i * ldpcColumns rate * 1000 / 280

/-- One decoder keeps up with a bit rate in Mb/s: a sector's iterations end before the next sector's bits have passed (R201). -/
def decoderKeepsUp (rate : Fin 4) (i bits mbps : Nat) : Bool := decide (ldpcNs rate i * mbps ≤ bits * 1000)

/-- Bits of a sector: preamble, sync mark, ID, user data, protection information, LDPC parity, pad (R152). -/
def sectorBits (preamble : Bool) (rate : Fin 4) : Nat :=
  (if preamble then 160 else 48) + 24 + 64 + 32768 + 128 + parityBits rate + 16

/-- Bits of the resync field at the head of every data region (R152). -/
def resyncBits (preamble : Bool) : Nat := if preamble then 32 else 0

/-- Sector slots of a defect-free track, before the bound of 4,095 (R154). -/
def rawSlots (preamble : Bool) (rate : Fin 4) (w d : Nat) : Nat := w * (d - resyncBits preamble) / sectorBits preamble rate

/-- nslot (R154). -/
def trackSlots (preamble : Bool) (rate : Fin 4) (w d : Nat) : Nat := min 4095 (rawSlots preamble rate w d)

/-- The data index at which bit b of slot j lies; resync fields are passed over (R154). -/
def slotIndex (preamble : Bool) (rate : Fin 4) (d j b : Nat) : Nat :=
  let i := j * sectorBits preamble rate + b
  let r := resyncBits preamble
  i / (d - r) * d + r + i % (d - r)

/-- The bit number P of slot j's sync mark (R108, R154). -/
def syncBit (preamble : Bool) (rate : Fin 4) (bw span d j : Nat) : Nat :=
  dataBit bw span d (slotIndex preamble rate d j (if preamble then 160 else 48))

/-- A preamble-format slot as it is held (R154): the wedge interval its sync mark lies in, and its offset in bits from that interval's SAM,
which is detected at servo bit 31.5. -/
def samPlace (preamble : Bool) (rate : Fin 4) (div bw pw span d j : Nat) : Nat × Nat :=
  let p := syncBit preamble rate bw span d j
  (p / bw, p % bw - samOffset div * bw / pw)

/-- The fields of a sector in order: first bit and length (R152). -/
def sectorFields (preamble : Bool) (rate : Fin 4) : List (Nat × Nat) :=
  let lens := [if preamble then 160 else 48, 24, 64, 32768, 128, parityBits rate, 16]
  (List.range lens.length).map fun i => ((lens.take i).sum, lens.getD i 0)

/-- Bit k of the 2T tone 0b1100 of preambles, pads and resync fields (R152). -/
def tone2T (k : Nat) : Bool := decide (k % 4 < 2)

/-- The sync mark (R152). -/
def syncMark : BitVec 24 := 0x5F36A9#24

/-- The sector ID (R155). -/
def sectorId (surface : BitVec 6) (track : BitVec 24) (slot : BitVec 12) (zone : BitVec 6) (generation : BitVec 16) : BitVec 64 :=
  surface ++ track ++ slot ++ zone ++ generation

/-! ### Groups, extents, bands (R156, R159 to R161, R170, R504, R506) -/

/-- Data sectors of a group of r usable slots (R156). -/
def groupData (r : Nat) : Nat := if 8 ≤ r then r - 4 else 0

/-- ndata: data sectors of n usable slots (R156). -/
def trackData (n : Nat) : Nat := n / 128 * groupData 128 + groupData (n % 128)

/-- Slot k of n usable slots: none where it stays unused, else its group and whether it holds selvage (R156). -/
def slotUse (n k : Nat) : Option (Nat × Bool) :=
  let r := min 128 (n - k / 128 * 128)
  if n ≤ k ∨ r < 8 then none else some (k / 128, decide (r - 4 ≤ k % 128))

/-- T: tracks of an extent of B blocks per member (R160). -/
def extentTracks (blocks slipRes ndata : Nat) : Nat := ceilDiv (blocks + slipRes) ndata

/-- Tracks of a band: an inward extent, the guard, an outward extent (R159). -/
def bandTracks (t guard : Nat) : Nat := 2 * t + guard

/-- Track n of an extent in writing order: inward extents go up, outward ones down (R159). -/
def extentTrack (first t guard : Nat) (outward : Bool) (n : Nat) : Nat :=
  if outward then first + bandTracks t guard - 1 - n else first + n

/-- The rate of an extent written in degraded format (R170). -/
def degradedRate (rate : Fin 4) : Fin 4 := if h : rate.val + 1 < 4 then ⟨rate.val + 1, h⟩ else 3

/-- Extra tracks of such an extent, from the spare bands (R170). -/
def degradedExtra (rate : Fin 4) (w d blocks slipRes : Nat) : Nat :=
  extentTracks blocks slipRes (trackData (trackSlots true (degradedRate rate) w d)) -
    extentTracks blocks slipRes (trackData (trackSlots false rate w d))

/-- Spare extents to reserve for k fenced members where W is 24 (R506). -/
def spareExtents (k extents : Nat) : Nat := ceilDiv (k * extents) (24 - k)

/-- The platter a head flies over, and whether over its top surface (R504). -/
def headPlatter (a h : Nat) : Nat × Bool := (3 * a + h / 2, decide (h % 2 = 0))

/-! ### Zone descriptors (R145 to R147, R149, R161, R199) -/

/-- The word whose little-endian bytes a list begins with. -/
def leBytes (bs : List Byte) : Word := bs.getD 3 0 ++ bs.getD 2 0 ++ bs.getD 1 0 ++ bs.getD 0 0

/-- The descriptor that 32 bytes hold (R147). -/
def zoneDesc (bs : List Byte) : ZoneDesc :=
  let w (k : Nat) : Word := leBytes (bs.drop (4 * k))
  { valid := bitOf (w 0) 31, zone := fld (w 0) 30 24, bpw := fld (w 0) 19 0,
    area := fld (w 1) 31 30, surface := fld (w 1) 29 24, first := fld (w 1) 23 0, last := fld (w 2) 23 0,
    rate := ⟨fld (w 3) 31 30 % 4, Nat.mod_lt _ (by decide)⟩, preamble := bitOf (w 3) 29, rmodes := fld (w 3) 28 26,
    raw := fld (w 3) 25 24, vreader := fld (w 3) 23 22, guard := fld (w 3) 21 18, nslot := fld (w 3) 15 0,
    ndata := fld (w 4) 31 16, slipRes := fld (w 4) 15 0, dreg := fld (w 5) 31 16, span := fld (w 5) 15 0,
    pitch := fld (w 6) 15 8, iter := fld (w 6) 7 0, crcOk := decide (crc32c (bs.take 28) = (w 7).toNat) }

/-- G, the global passes, and L, the iterations of each, of an iter byte (R199). -/
def iterPasses (iter : Nat) : Nat := iter / 32 % 8 + 1
def iterEach (iter : Nat) : Nat := iter % 32

/-- The iter byte is valid (R199). -/
def iterOk (iter : Nat) : Bool := decide (iterEach iter ≠ 0 ∧ iterPasses iter * iterEach iter ≤ 24)

/-- A descriptor passes the checks that concern it alone, firmware's recomputation among them (R146, R147, R199); triple-track reading
is for yarn-format shingled zones (R161); the bit rate is at most 6.4 times the master's (R103). -/
def zoneDescOk (w div pw : Nat) (z : ZoneDesc) : Bool :=
  let span := servoSpan div z.bpw pw
  let d := dataRegion z.bpw span
  z.crcOk && decide (10 * z.bpw ≤ 64 * pw) && decide (z.span = span ∧ z.dreg = d) && decide (rawSlots z.preamble z.rate w d ≤ 4095) &&
    decide (z.nslot = trackSlots z.preamble z.rate w d ∧ z.ndata = trackData z.nslot) &&
    (!z.rmodes.testBit 2 || (decide (z.area = 0) && !z.preamble)) && iterOk z.iter

/-- Two zones share a track. -/
def zonesOverlap (a b : ZoneDesc) : Bool := decide (a.first ≤ b.last ∧ b.first ≤ a.last)

/-- Why a surface's table is rejected (R146), as the Self-Test and POST Detail log records it (log entry 137): 1 a CRC, 2 overlapping
zones, 3 a track inside the clock-track guard, 4 triple-track reading where it is not allowed, 5 too many slots, 6 another check; 0 accepted.
The guard is the range of tracks of this surface, if it is the reference surface; `bpw` is what the zone's gauge row holds, where it is
known (R147). -/
def tableCause (w div pw surface : Nat) (guard : Option (Nat × Nat)) (bpw : Nat → Option Nat) (zs : List ZoneDesc) : Nat :=
  let on := zs.filter fun z => z.valid
  let slots (z : ZoneDesc) : Nat := rawSlots z.preamble z.rate w (dataRegion z.bpw (servoSpan div z.bpw pw))
  if zs.any fun z => !z.crcOk then 1
  else if (List.range on.length).any fun i => (on[i]?.map fun a => (on.drop (i + 1)).any fun b => zonesOverlap a b).getD false then 2
  else if (guard.map fun c => on.any fun z => decide (c.1 ≤ z.last ∧ z.first ≤ c.2)).getD false then 3
  else if on.any fun z => z.rmodes.testBit 2 && (decide (z.area ≠ 0) || z.preamble) then 4
  else if on.any fun z => decide (4095 < slots z) then 5
  else if decide (64 < zs.length) || on.any fun z => !zoneDescOk w div pw z || decide (z.surface ≠ surface) ||
      ((bpw z.zone).map fun b => decide (b ≠ z.bpw)).getD false then 6
  else 0

/-- The slots whose data lie in the region behind wedge k, which a servo defect leaves unused (R149). -/
def slotsBehind (preamble : Bool) (rate : Fin 4) (d nslot k : Nat) : List Nat :=
  (List.range nslot).filter fun j =>
    decide (slotIndex preamble rate d j 0 / d ≤ k ∧ k ≤ slotIndex preamble rate d j (sectorBits preamble rate - 1) / d)

/-! ### Zones, defects and extents in force (R145, R149, R156, R159, R160, R164, R167) -/

/-- The recording zone in force on a surface (R146). -/
def zoneOn (m : Media) (surface zone : Nat) : Option ZoneDesc := (m.zones.find? fun x => decide (x.1 = surface * 64 + zone)).map Prod.snd

/-- The primary entries that a servo-defective wedge gives on a track (R149, R167). -/
def servoDefect (z : ZoneDesc) (surface track wedge : Nat) : List Defect :=
  (slotsBehind z.preamble z.rate z.dreg z.nslot wedge).map fun j =>
    { surface := surface, zone := z.zone, track := track, slot := j, live := true }

/-- A slot is in a defect list and has left its group: every primary entry, and a grown one that has taken effect (R156, R167). -/
def defective (m : Media) (surface zone track slot : Nat) : Bool :=
  let at_ (d : Defect) : Bool := decide (d.surface = surface ∧ d.zone = zone ∧ d.track = track ∧ d.slot = slot)
  m.primary.any at_ || m.grown.any fun d => at_ d && d.live

/-- A slot that a grown entry names which has not taken effect yet (R164, R167). -/
def grownPending (m : Media) (surface zone track slot : Nat) : Bool :=
  m.grown.any fun d => decide (d.surface = surface ∧ d.zone = zone ∧ d.track = track ∧ d.slot = slot) && !d.live

/-- The extent that holds a track of a member (R145), and the track's offset in writing order (R159). -/
def extentAt (m : Media) (member zone track : Nat) : Option (Extent × Nat) :=
  let inside (p : TrackRange) : Bool := decide (p.zone = zone ∧ p.first ≤ track ∧ track < p.first + p.tracks)
  (m.extents.find? fun e => decide (e.member = member) && (inside e.place || (e.extension.map inside).getD false)).map fun e =>
    (e, if inside e.place then (if e.outward then e.place.first + e.place.tracks - 1 - track else track - e.place.first)
        else e.place.tracks + (track - (e.extension.map TrackRange.first).getD 0))

/-- The extent of a host zone on a member. -/
def extentOf (m : Media) (member hzone : Nat) : Option Extent := m.extents.find? fun e => decide (e.member = member ∧ e.hzone = hzone)

/-- An extent's records, as they now are. -/
def setExtent (e : Extent) (m : Media) : Media :=
  { m with extents := e :: m.extents.filter fun x => decide (¬ (x.member = e.member ∧ x.hzone = e.hzone)) }

/-- The absolute track and its zone at an offset of an extent in writing order; extensions follow the extent's own tracks (R159, R165). -/
def extentPlace (e : Extent) (n : Nat) : Nat × Nat :=
  if n < e.place.tracks then (e.place.zone, if e.outward then e.place.first + e.place.tracks - 1 - n else e.place.first + n)
  else
    match e.extension with
    | some x => (x.zone, x.first + (n - e.place.tracks))
    | none => (e.place.zone, e.place.first + n)

/-- Usable slots of a track in slot order (R156). -/
def usableSlots (m : Media) (surface : Nat) (z : ZoneDesc) (track : Nat) : List Nat :=
  (List.range z.nslot).filter fun j => !defective m surface z.zone track j

/-- The slots of a track that a slip record of its extent has emptied (R164). -/
def slippedSlots (m : Media) (surface zone track : Nat) : List Nat :=
  match extentAt m surface zone track with
  | some (e, n) => (e.slips.filter fun r => decide ((r.toNat / 2 ^ 56) % 256 = n)).map fun r => r.toNat / 2 ^ 44 % 2 ^ 12
  | none => []

/-- The groups of a track (R156, R164): its usable slots that no slip has emptied, and for each its group and whether it holds selvage. -/
def trackGroups (m : Media) (surface : Nat) (z : ZoneDesc) (track : Nat) : List (Nat × Nat × Bool) :=
  let gone := slippedSlots m surface z.zone track
  let us := (usableSlots m surface z track).filter fun j => !gone.contains j
  (List.range us.length).filterMap fun k => (slotUse us.length k).map fun g => (us.getD k 0, g.1, g.2)

/-- The data slots of a track in slot order. -/
def dataSlots (m : Media) (surface : Nat) (z : ZoneDesc) (track : Nat) : List Nat :=
  ((trackGroups m surface z track).filter fun g => !g.2.2).map Prod.fst

/-- The data slots of an extent in writing order, by track offset and slot, as its groups stand (R156, R159). -/
def extentSlots (m : Media) (e : Extent) : List (Nat × Nat) :=
  let tracks := e.place.tracks + (e.extension.map TrackRange.tracks).getD 0
  (List.range tracks).flatMap fun n =>
    let p := extentPlace e n
    match zoneOn m e.member p.1 with
    | some z => ((trackGroups { m with extents := [] } e.member z p.2).filter fun g => !g.2.2).map fun g => (n, g.1)
    | none => []

/-- The fields of a slip record (R164): the failed slot's track offset and slot, and those of the slot that took its block. -/
def slipFrom (r : BitVec 64) : Nat × Nat := (r.toNat / 2 ^ 56 % 256, r.toNat / 2 ^ 44 % 2 ^ 12)
def slipTo (r : BitVec 64) : Nat × Nat := (r.toNat / 2 ^ 20 % 256, r.toNat / 2 ^ 32 % 2 ^ 12)

/-- One slip record on the places of an extent's blocks in block order (R164): the failed slot's block lies at the new slot, and the
blocks from there on move on by one. -/
def applySlip (places : List (Nat × Nat)) (r : BitVec 64) : List (Nat × Nat) :=
  (places.filter fun p => decide (p ≠ slipTo r)).map fun p => if p = slipFrom r then slipTo r else p

/-- The places of an extent's blocks in block order, its slip records applied in seq order (R164). -/
def blockPlaces (m : Media) (e : Extent) : List (Nat × Nat) := e.slips.foldl applySlip (extentSlots m e)

/-- Where block b of an extent is read (R164, R166): zone, absolute track and slot, a relocated slot at its spare place. -/
def blockPlace (m : Media) (e : Extent) (b : Nat) : Option (Nat × Nat × Nat) :=
  (blockPlaces m e)[b]?.map fun p =>
    let t := extentPlace e p.1
    match e.relocations.find? fun r => decide (r.track = t.2 ∧ r.slot = p.2) with
    | some r => (r.zone, r.toTrack, r.toSlot)
    | none => (t.1, t.2, p.2)

/-- The extent's next free slot in its writing direction from a place on (R162, R163): behind that place while a sector is being written
there, else from it on; a slot that a slip record names is not free. -/
def nextFree (m : Media) (e : Extent) (now : Nat × Nat) (writing : Bool) : Option (Nat × Nat) :=
  (extentSlots m e).find? fun p =>
    decide (now.1 < p.1 ∨ (now.1 = p.1 ∧ (now.2 < p.2 ∨ (now.2 = p.2 ∧ writing = false)))) &&
      !e.slips.any fun r => decide (slipTo r = p ∨ slipFrom r = p)

/-- Free data slots of an extent that holds the given blocks (R165). -/
def freeSlots (m : Media) (e : Extent) (blocks : Nat) : Nat := (blockPlaces m e).length - blocks

/-- The tracks of an extent of B blocks from a first track on, counting the usable data slots of each (R160); n bounds the search. -/
def tracksFor (m : Media) (surface : Nat) (z : ZoneDesc) (first need n : Nat) : Nat :=
  match n with
  | 0 => 0
  | n + 1 => if need = 0 then 0 else 1 + tracksFor m surface z (first + 1) (need - (dataSlots m surface z first).length) n

/-- Tracks of a recording zone's spare-band area: its innermost 2 %, at least one band of the given width (R168). -/
def spareTracks (z : ZoneDesc) (band : Nat) : Nat := max band (ceilDiv ((z.last + 1 - z.first) * 2) 100)

/-- The first free place for an extent of `need` sectors in a recording zone (R159, R168; log entry 137): bands from the outer edge, the
inward extent before the outward one, none inside the spare-band area. -/
def bandPlace (m : Media) (surface need : Nat) (z : ZoneDesc) : Option (TrackRange × Bool) :=
  let t := tracksFor m surface z z.first need 256
  let band := bandTracks t z.guard
  let last := z.last + 1 - spareTracks z band
  let taken (f : Nat) : Bool := m.extents.any fun e => decide (e.member = surface ∧ e.place.zone = z.zone ∧ e.place.first < f + t ∧ f < e.place.first + e.place.tracks)
  let n := (m.extents.filter fun e => decide (e.member = surface ∧ e.place.zone = z.zone)).length
  if t = 0 then none
  else ((List.range (n + 2)).find? fun k => decide (z.first + k / 2 * band + band ≤ last) &&
      !taken (z.first + k / 2 * band + (if k % 2 = 1 then t + z.guard else 0))).map fun k =>
    ({ zone := z.zone, first := z.first + k / 2 * band + (if k % 2 = 1 then t + z.guard else 0), tracks := t }, decide (k % 2 = 1))

/-- The place of a host zone's new extent on a member: the outermost recording zone of its kind with room (log entry 137). -/
def newPlace (m : Media) (surface blocks : Nat) (conv : Bool) : Option (TrackRange × Bool) :=
  (List.range 64).findSome? fun k =>
    match zoneOn m surface k with
    | some z => if z.area = (if conv then 1 else 0) then bandPlace m surface (blocks + z.slipRes) z else none
    | none => none

/-- The extents of a member. -/
def memberExtents (m : Media) (surface : Nat) : List Extent := m.extents.filter fun e => decide (e.member = surface)

/-- The first free track of a recording zone's spare-band area of the given width. -/
def spareFrom (m : Media) (surface width : Nat) (z : ZoneDesc) : Nat :=
  let ends := (memberExtents m surface).flatMap fun e =>
    (if e.place.zone = z.zone ∧ z.last + 1 - width ≤ e.place.first then [e.place.first + e.place.tracks] else []) ++
    ((e.extension.toList.filter fun x => decide (x.zone = z.zone)).map fun x => x.first + x.tracks) ++
      ((e.relocations.filter fun r => decide (r.zone = z.zone)).map fun r => r.toTrack + 1)
  ends.foldl max (z.last + 1 - width)

/-- Free tracks of a recording zone's spare-band area (R168, R373), with the least width the area has. -/
def freeSpareTracks (m : Media) (surface : Nat) (z : ZoneDesc) : Nat := z.last + 1 - spareFrom m surface (spareTracks z 1) z

/-- The place in a spare-band area for more tracks of a member (R165, R168): in the given recording zone where its area has room, else in
the nearest zone with room. -/
def sparePlace (m : Media) (surface zone tracks : Nat) : Option TrackRange :=
  let room (z : ZoneDesc) : Option TrackRange :=
    let from_ := spareFrom m surface (spareTracks z (bandTracks tracks z.guard)) z
    if from_ + tracks ≤ z.last + 1 then some { zone := z.zone, first := from_, tracks := tracks } else none
  let order := (List.range 64).flatMap fun k => if k = 0 then [zone] else [zone + k] ++ (if k ≤ zone then [zone - k] else [])
  order.findSome? fun k => (zoneOn m surface k).bind room

/-- The spare slot for a relocated sector (R166, R167): the next data slot of the member's newest relocation track, else the first of a new
one; whether the track is new. -/
def spareSlot (m : Media) (surface zone : Nat) : Option (Nat × Nat × Nat × Bool) :=
  let moved := (memberExtents m surface).flatMap Extent.relocations
  let newTrack : Option (Nat × Nat × Nat × Bool) := (sparePlace m surface zone 1).bind fun p =>
    (zoneOn m surface p.zone).bind fun z => (dataSlots m surface z p.first).head?.map fun j => (p.zone, p.first, j, true)
  match moved.getLast? with
  | none => newTrack
  | some r =>
    let used := (moved.filter fun x => decide (x.zone = r.zone ∧ x.toTrack = r.toTrack)).map Relocation.toSlot
    match (zoneOn m surface r.zone).bind fun z => (dataSlots m surface z r.toTrack).find? fun j => !used.contains j with
    | some j => some (r.zone, r.toTrack, j, false)
    | none => newTrack

/-- The key under which a selvage group stands in Media.groups. -/
def groupKey (surface zone track group : Nat) : Nat := ((surface * 64 + zone) * 2 ^ 24 + track) * 32 + group

end Sys2Proof.Machine
end

