-- ==== Sys2Proof/Machine/HostEvents.lean ====
section
/-!
DEFINITION. Features, completions and asynchronous events of the host controllers (R341, R356, R377, R379, R380, R382).
-/
namespace Sys2Proof.Machine
open Sys2Proof

def hifReg (h : Hif) (off : Nat) : Word := regGet hifRows h.regs off
def setCtl (c : CtlIx) (v : Ctl) (s : State) : State := { s with hif := { s.hif with ctl := s.hif.ctl.set c v } }

/-! ### Features (R341, R377) -/

/-- Default values of the features the spec gives one for (R377), and the over temperature threshold, WCTEMP (R339; log entry 127). -/
def featureDefault (id : Nat) : Nat :=
  if id = 0xC0 then 0x618 else if id = 0xC1 then 28 + 10 * 2 ^ 16 + 2 ^ 24 else if id = 0xC2 then 36 + 12 * 2 ^ 8
  else if id = 0xC3 then 8 else if id = 4 then 368 else 0

/-- A feature's value; 0x100 + id is controller 2's value of a per-controller feature. -/
def feature (s : State) (id : Nat) : Nat := keyGet s.host.features id (featureDefault id)
def setFeature (id v : Nat) (s : State) : State :=
  { s with host := { s.host with features := keySet s.host.features id v (featureDefault id) } }

/-- The key of a feature for a controller: 07h, 08h, 09h and 0Bh are per controller (R341). -/
def featureKey (c id : Nat) : Nat := if (id = 7 ∨ id = 8 ∨ id = 9 ∨ id = 0x0B) ∧ c = 1 then 0x100 + id else id

/-! ### Completions and events -/

/-- An entry of the range-lock table is released (R356). -/
def unlock (fseq : Nat) (s : State) : State :=
  { s with hif := { s.hif with locks := s.hif.locks.filter fun l => decide (l.fseq ≠ fseq) } }

/-- Controller c takes completions: enabled, and no power-loss sequence runs (R316, R366); the management endpoint, number 2, always does;
3, a departed partner, never does (R335). -/
def mayPost (s : State) (c : Nat) : Bool :=
  if h : c < 2 then s.hif.ctl[c].en && !s.sys.plActive else decide (c = 2)

/-- A command completes (R356): its completion is posted, its entry released and it leaves the lists. -/
def complete (c fseq : Nat) (st : Status) (dw0 dw1 : Nat) (data : List Nat) (s : State) : State :=
  let k : Completion := { ctl := c, fseq := fseq, status := st, dw0 := dw0, dw1 := dw1, data := data }
  let h := s.hif
  unlock fseq { s with hif := { h with
    posted := if mayPost s c then k :: h.posted else h.posted
    flight := h.flight.filter fun f => decide (f.fseq ≠ fseq)
    fetched := h.fetched.filter fun f => decide (f.fseq ≠ fseq) } }

/-- Bit of feature 0Bh that masks a vendor event's page, in the table order of R382 (log entry 56). -/
def eventMask (page : Nat) : Nat := if page = 0xC0 then 24 else if page = 0xC1 then 25 else if page = 0xC3 then 26 else 27

/-- Oldest outstanding request, if any, answers an event. -/
def reportEvent (c : CtlIx) (dw0 : Nat) (s : State) : State :=
  match s.hif.ctl[c].aers with
  | f :: t =>
    complete c.val f .success dw0 0 [] (setCtl c { s.hif.ctl[c] with
      aers := t, events := (dw0, true) :: s.hif.ctl[c].events.filter fun e => decide (e.1 ≠ dw0) } s)
  | [] => setCtl c { s.hif.ctl[c] with events := (dw0, false) :: s.hif.ctl[c].events.filter fun e => decide (e.1 ≠ dw0) } s

/-- An asynchronous event for one controller: not while it is disabled, and not while its page's event awaits the page's read. -/
def eventTo (c : CtlIx) (dw0 : Nat) (s : State) : State :=
  let v := s.hif.ctl[c]
  let page := dw0 / 65536
  let masked := decide (dw0 % 256 = 7) && (feature s (featureKey c.val 0x0B)).testBit (eventMask page)
  if v.en = false ∨ masked ∨ v.events.any (fun e => decide (e.1 = dw0)) then s else reportEvent c dw0 s

def event (dw0 : Nat) (s : State) : State := eventTo 1 dw0 (eventTo 0 dw0 s)

/-- A vendor event that names a log page (R382). -/
def vendorEvent (page : Nat) (s : State) : State := event (7 + page * 65536) s

/-- An Opal transaction is rolled back (R335); keys that GenKey replaced stay replaced (R350). -/
def opalRollback (o : Opal) : Opal :=
  match o.before with
  | some b =>
    { o with
      range := Vector.ofFn fun i => { b.range[i] with key := o.range[i].key }
      mbrOn := b.mbrOn
      mbrDone := b.mbrDone
      mbr := b.mbr
      dataStore := b.dataStore
      session := false
      before := none }
  | none => { o with session := false }

/-- The vendor status codes, of Status Code Type 7h, and whether the command may not be retried (R376). -/
def vendorStatus : Status → Option (Nat × Bool)
  | .lostStripe => some (0x80, true)
  | .memberFenced => some (0x81, false)
  | .timingRefused => some (0x82, false)
  | .reshapeConflict => some (0x83, false)
  | .salvageUnverified => some (0x84, true)
  | .safeState => some (0x85, true)
  | _ => none

/-- A change that the Surface State log reports (R379). -/
def noteChange (s : State) : State := { s with arr := { s.arr with changes := s.arr.changes + 1 } }

/-- A record of the Fault History log that is no FLT source (R380). -/
def historyNote (kind unit detail : Nat) (s : State) : State :=
  { s with flt := addFaultRecord { timeMs := s.sys.ms, poh := s.stc.poh, src := 0, cls := 0, rung := 0, pin := false, repeats := 0,
                                   unit := unit, kind := kind, detail := detail } s.flt }

end Sys2Proof.Machine
end

