-- ==== Sys2Proof/Machine/Extents.lean ====
section
/-!
DEFINITION. The life of extents: their places, generations, extensions in the spare bands, and the groups of a host zone (R145, R155, R157,
R158, R160, R165, R167, R168, R170, R279).
-/
namespace Sys2Proof.Machine
open Sys2Proof

/-- Blocks of a host zone on each member, parity included (R160, R245). -/
def memberBlocks (w : Nat) : Nat := 16 * (4096 / (w - 2))

/-- Spare-low rises (R168): the Surface State log and its event. -/
def spareShort (s : State) : State :=
  if s.arr.spareLow then s else vendorEvent 0xC0 (noteChange { s with arr := { s.arr with spareLow := true } })

/-- A member's spare-band area gives up room for one more extent (R168; log entry 140). -/
def takeSpare (m : Nat) (s : State) : State :=
  if h : m < 24 then
    (if s.arr.spareExtents[m] = 0 then spareShort s
     else { s with arr := { s.arr with spareExtents := s.arr.spareExtents.set m (s.arr.spareExtents[m] - 1) } })
  else s

/-- Room for one extent goes back to a member's spare-band area. -/
def extentFree (m : Nat) (t : State) : State :=
  if h : m < 24 then { t with arr := { t.arr with spareExtents := t.arr.spareExtents.set m (t.arr.spareExtents[m] + 1) } } else t

/-- A track lies in an extent, its extension included. -/
def extentHolds (e : Extent) (zone track : Nat) : Bool :=
  let inside (p : TrackRange) : Bool := decide (p.zone = zone ∧ p.first ≤ track ∧ track < p.first + p.tracks)
  inside e.place || (e.extension.map inside).getD false

/-- The surface, zone and track that the key of a selvage group names. -/
def groupPlace (k : Nat) : Nat × Nat × Nat := (k / 32 / 2 ^ 24 / 64, k / 32 / 2 ^ 24 % 64, k / 32 % 2 ^ 24)

/-- A group lies in an extent. -/
def groupIn (e : Extent) (k : Nat) : Bool :=
  let p := groupPlace k
  decide (p.1 = e.member) && extentHolds e p.2.1 p.2.2

/-- What a reset of an extent leaves in the media's records (R155, R157, R165, R167): the next generation, no slips, relocations or extension,
no group; the grown entries on its tracks take effect. -/
def wipeExtent (e : Extent) (m : Media) : Media :=
  let mine (d : Defect) : Bool := decide (d.surface = e.member) && extentHolds e d.zone d.track
  setExtent { e with generation := (e.generation + 1) % 65536, slips := [], extension := none, relocations := [] }
    { m with
      groups := m.groups.filter fun g => !groupIn e g.1
      grown := m.grown.map fun d => if mine d then { d with live := true } else d }

/-- An extent is reset; its extension's room is spare again (R165, R168, R170). -/
def resetExtent (e : Extent) (s : State) : State :=
  let s := { s with media := wipeExtent e s.media }
  if e.extension.isSome then extentFree e.member s else s

/-- A host zone's extents are reset (R155, R165, R167). -/
def resetExtents (n : Nat) (s : State) : State :=
  (s.media.extents.filter fun e => decide (e.hzone = n)).foldl (fun t e => resetExtent e t) s

/-- A member gets its extent of a host zone (R145, R160; log entry 145): the one it had, else a new one in a recording zone of the kind; without
room the record stays open. -/
def giveExtent (m n blocks : Nat) (conv : Bool) (s : State) : State :=
  if (extentOf s.media m n).isSome then s
  else
    match newPlace s.media m blocks conv with
    | some p => { s with media := setExtent { member := m, hzone := n, place := p.1, outward := p.2, generation := 0, slips := [],
                                              extension := none, relocations := [] } s.media }
    | none => s

/-- The extents of a zone's first placement (R244, R247). -/
def giveExtents (n w : Nat) (conv : Bool) (ms : List Nat) (s : State) : State :=
  ms.foldl (fun t m => giveExtent m n (memberBlocks w) conv t) s

/-- Extra tracks of a member's extent of a host zone in degraded format (R170). -/
def extraTracks (s : State) (m n w : Nat) : Nat :=
  ((extentOf s.media m n).bind fun e => (zoneOn s.media m e.place.zone).map fun z =>
    degradedExtra z.rate (wedges s.yck) z.dreg (memberBlocks w) z.slipRes).getD 0

/-- The extra tracks join the extent as an extension from the spare bands (R168, R170). -/
def degradeExtent (m n w : Nat) (s : State) : State :=
  let k := extraTracks s m n w
  match extentOf s.media m n with
  | none => s
  | some e =>
    if k = 0 then s
    else
      match sparePlace s.media m e.place.zone k with
      | some x => takeSpare m { s with media := setExtent { e with extension := some x } s.media }
      | none => spareShort s

/-- The spare bands can supply the extra tracks of every member (R168, R170, R294). -/
def extraRoom (s : State) (n w : Nat) (ms : List Nat) : Bool :=
  ms.all fun m => decide (extraTracks s m n w = 0) ||
    ((extentOf s.media m n).bind fun e => sparePlace s.media m e.place.zone (extraTracks s m n w)).isSome

/-- The rate code of a zone's degraded format, or of its own (R170, R297): that of its first member's recording zone. -/
def formatRate (s : State) (n : Nat) (into : Bool) (ms : List Nat) : Option Nat :=
  ms.head?.bind fun m => (extentOf s.media m n).bind fun e => (zoneOn s.media m e.place.zone).map fun z =>
    (if into then degradedRate z.rate else z.rate).val

/-- The extent a member had, if any, is discarded as at a zone reset. -/
def endExtent (old : Option Extent) (s : State) : State :=
  match old with
  | some e => resetExtent e s
  | none => s

/-- A copy of a zone has been switched to (R291, R294): its extents are new ones in another place, one generation on, its old ones free. -/
def moveExtent (m n blocks : Nat) (conv : Bool) (s : State) : State :=
  let old := extentOf s.media m n
  match newPlace s.media m blocks conv with
  | some p =>
    let s := endExtent old s
    { s with media := setExtent { member := m, hzone := n, place := p.1, outward := p.2,
                                  generation := ((old.map Extent.generation).getD 65535 + 1) % 65536,
                                  slips := [], extension := none, relocations := [] } s.media }
  | none => endExtent old s

/-- Extents of host zone n on members outside a list go. -/
def dropExtents (n : Nat) (keep : List Nat) (s : State) : State :=
  let gone := s.media.extents.filter fun e => decide (e.hzone = n) && !keep.contains e.member
  let s := gone.foldl (fun t e => resetExtent e t) s
  { s with media := { s.media with extents := s.media.extents.filter fun e => !(decide (e.hzone = n) && !keep.contains e.member) } }

/-- Extents of host zone n on some members are free. -/
def dropMembers (n : Nat) (ms : List Nat) (s : State) : State :=
  { s with media := { s.media with extents := s.media.extents.filter fun e => !(decide (e.hzone = n) && ms.contains e.member) } }

/-- The extents of a zone whose copy is switched to: on the members of its new placement, with the extra tracks of the degraded format. -/
def switchExtents (n w : Nat) (conv degraded : Bool) (ms : List Nat) (s : State) : State :=
  let s := dropExtents n ms s
  let s := ms.foldl (fun t m => moveExtent m n (memberBlocks w) conv t) s
  if degraded then ms.foldl (fun t m => degradeExtent m n w t) s else s

/-- A rebuild target's extent in a spare band of a member (R168, R279), where the member has no other extent of the zone. -/
def targetExtent (m n w zone : Nat) (s : State) : State :=
  if (extentOf s.media m n).isSome then s
  else
    match (zoneOn s.media m zone).bind fun z => sparePlace s.media m zone (tracksFor s.media m z z.first (memberBlocks w + z.slipRes) 256) with
    | some x => { s with media := setExtent { member := m, hzone := n, place := x, outward := false, generation := 0, slips := [],
                                              extension := none, relocations := [] } s.media }
    | none => s

/-- A unit of a zone leaves a member's spare band for its data tracks (R288). -/
def migrateExtent (m n w : Nat) (conv : Bool) (s : State) : State := moveExtent m n (memberBlocks w) conv s

/-- The selvage of a host zone's open groups is completed over the sectors present (R157): the host closed or finished the zone, or it became
Full. -/
def completeGroups (n : Nat) (s : State) : State :=
  (List.finRange 5).foldl (fun (t : State) l =>
    match t.lane[l].running with
    | some r =>
      if t.media.extents.any fun e => decide (e.hzone = n ∧ e.member = r.place.surface) && extentHolds e r.place.zone r.place.track then
        setLane l { t.lane[l] with running := none } { t with media := { t.media with
          groups := keyPut t.media.groups (groupKey r.place.surface r.place.zone r.place.track r.group) .carries } }
      else t
    | none => t) s

/-- The key of the selvage group that block b of a member's extent of a host zone lies in. -/
def blockGroup (m : Media) (member n b : Nat) : Option Nat :=
  (extentOf m member n).bind fun e => (blockPlace m e b).bind fun p => (zoneOn m member p.1).bind fun z =>
    ((trackGroups m member z p.2.1).find? fun g => decide (g.1 = p.2.2)).map fun g => groupKey member p.1 p.2.1 g.2.1

/-- The groups of some blocks of host zone n, by member and block of its extent, are marked (R158). -/
def markGroups (n : Nat) (st : GroupState) (bs : List (Nat × Nat)) (s : State) : State :=
  let ks := bs.filterMap fun x => blockGroup s.media x.1 n x.2
  { s with media := { s.media with groups := ks.foldl (fun g k => keyPut g k st) s.media.groups } }

end Sys2Proof.Machine
end

