-- ==== Sys2Proof/Machine/Motor.lean ====
section
/-!
DEFINITION. What the spindle engines compute from their samples: phase currents, the two flux models, torque, comparators, the
switching table, the current limit and the sampling plan (chapter "Spindle Drive", R63 to R70).
-/
namespace Sys2Proof.Machine
open Sys2Proof

/-! ### Numbers -/

/-- The square root of n rounded down, its bits from 2^(k-1) down, added to what r already holds. -/
def sqrtBits (n : Nat) (k r : Nat) : Nat :=
  match k with
  | 0 => r
  | k + 1 => sqrtBits n k (if (r + 2 ^ k) * (r + 2 ^ k) ≤ n then r + 2 ^ k else r)

/-- The square root of a number below 2^160, rounded down. -/
def natSqrt (n : Nat) : Nat := sqrtBits n 80 0

/-- 4,096 times the sine of 0 to 90 degrees, rounded to the nearest. -/
def sineTable : List Nat :=
  [0, 71, 143, 214, 286, 357, 428, 499, 570, 641, 711, 782, 852, 921, 991, 1060, 1129, 1198, 1266, 1334, 1401, 1468, 1534, 1600,
   1666, 1731, 1796, 1860, 1923, 1986, 2048] ++
  [2110, 2171, 2231, 2290, 2349, 2408, 2465, 2522, 2578, 2633, 2687, 2741, 2793, 2845, 2896, 2946, 2996, 3044, 3091, 3138, 3183,
   3228, 3271, 3314, 3355, 3396, 3435, 3474, 3511, 3547] ++
  [3582, 3617, 3650, 3681, 3712, 3742, 3770, 3798, 3824, 3849, 3873, 3896, 3917, 3937, 3956, 3974, 3991, 4006, 4021, 4034, 4046,
   4056, 4065, 4074, 4080, 4086, 4090, 4094, 4095, 4096]

/-- 4,096 times the cosine of a whole number of degrees. -/
def cosDeg (d : Nat) : Int :=
  let d := d % 360
  let d := if 180 < d then 360 - d else d
  if d ≤ 90 then (sineTable.getD (90 - d) 0 : Int) else -(sineTable.getD (d - 90) 0 : Int)

/-! ### Registers in force -/

/-- The parameter register at an offset as it is in force: a write counts from the next decision boundary (R89). -/
def spnCur (p : Spn) (off : Nat) : Word := regGet spnRows p.cur off

/-- Pole pairs (R88). -/
def spnPoles (p : Spn) : Nat := fld (spnCur p 0x10) 19 16

/-- Zero crossings of one mechanical revolution: six per electrical revolution. -/
def crossPerRev (p : Spn) : Nat := 6 * spnPoles p

/-! ### The electrical angle

One electrical revolution is 19,200,000 steps, so that a rotor at q quarters of a rpm with n pole pairs turns n q steps in a
decision period of 12.5 us. -/

/-- Steps of one electrical revolution. -/
def turnSteps : Nat := 19200000

/-- An angle moved by a signed number of steps. -/
def turnBy (a : Nat) (d : Int) : Nat := (((a : Int) + d) % (turnSteps : Int)).toNat

/-- The angle of crossing number k: the back-EMF of phase U, W, V, U, W, V crosses zero at 0, 60, 120, 180, 240 and 300 degrees (R69). -/
def crossingAngle (k : Fin 6) : Nat := 3200000 * k.val

/-- The distance of two angles, at most half a turn. -/
def angleGap (a b : Nat) : Nat :=
  let d := (a + turnSteps - b % turnSteps) % turnSteps
  min d (turnSteps - d)

/-- An angle lies further than a number of electrical degrees from another (R70). -/
def gapOver (a b deg : Nat) : Bool := decide (deg * turnSteps < 360 * angleGap a b)

/-- The flux sector k - 1 around the direction of Vk, for a direction given by its components along U and V (R64): the phase with
the largest component decides, and its sign. -/
def sectorOf (u v : Int) : Fin 6 :=
  let w := -(u + v)
  if v.natAbs ≤ u.natAbs ∧ w.natAbs ≤ u.natAbs then (if 0 ≤ u then 0 else 3)
  else if w.natAbs ≤ v.natAbs then (if 0 ≤ v then 2 else 5)
  else (if 0 ≤ w then 4 else 1)

/-! ### Phase currents (R67, R68) -/

/-- The phase a vector's shunt current shows and its sign (R63's table): U is 0, V is 1, W is 2. -/
def vecPhase (v : Fin 8) : Option (Fin 3 × Int) :=
  match v.val with
  | 1 => some (0, 1) | 2 => some (2, -1) | 3 => some (1, 1) | 4 => some (0, -1) | 5 => some (2, 1) | 6 => some (1, -1)
  | _ => none

/-- One shunt sample kept for the phase its vector shows; the phase is now the newest. -/
def takePhase (v : Fin 8) (i : Int) (p : Spn) : Spn :=
  match vecPhase v with
  | some (ph, sg) => { p with meas := p.meas.set ph.val (sg, i, 0), newest := ph :: (p.newest.filter fun q => decide (q ≠ ph)) }
  | none => p

/-- A phase's current: its newest measurement less the newest offset (R68). -/
def phaseOf (p : Spn) (ph : Fin 3) : Int := p.meas[ph].1 * (p.meas[ph].2.1 - p.offset)

/-- The three currents in use: the two phases measured last, and the negative sum of them (R68). -/
def currentsOf (p : Spn) : Vector Int 3 :=
  match p.newest with
  | a :: b :: _ => Vector.ofFn fun q : Fin 3 => if q = a then phaseOf p a else if q = b then phaseOf p b else -(phaseOf p a + phaseOf p b)
  | _ => Vector.ofFn fun q : Fin 3 => phaseOf p q

/-- The samples of the period that ends (R67, R68): every earlier measurement is one period older. -/
def takeSamples (x : SpnSample) (p : Spn) : Spn :=
  let p := { p with meas := p.meas.map fun (m : Int × Int × Nat) => (m.1, m.2.1, m.2.2 + 1) }
  let p := match p.instB with
    | .offset => { p with offset := x.shuntB }
    | _ => p
  let p := takePhase p.instA x.shuntA p
  let p := match p.instB with
    | .vector v => takePhase v x.shuntB p
    | _ => p
  let p := { p with phaseCur := currentsOf p }
  match vecPhase p.instA with
  | some (ph, _) => { p with lastA := (ph :: p.lastA).take 2 }
  | none => p

/-! ### The flux models (R69)

Flux is kept by its components along U and V, in thirds of 6.25 ns microvolts: 1 uWb is 480,000,000 of them. -/

/-- psi_m in the unit of the flux components. -/
def psiUnits (p : Spn) : Int := 480000000 * (fld (spnCur p 0x1C) 23 0 : Int)

/-- Three times the voltage of phase U or V under a vector, in parts of the supply (R63's table). -/
def vecVolt (v : Fin 8) (ph : Fin 3) : Int :=
  let on (b : Bool) : Int := if b then 1 else 0
  let u := on (decide (v.val = 1 ∨ v.val = 2 ∨ v.val = 6 ∨ v.val = 7))
  let vv := on (decide (v.val = 2 ∨ v.val = 3 ∨ v.val = 4 ∨ v.val = 7))
  let w := on (decide (v.val = 4 ∨ v.val = 5 ∨ v.val = 6 ∨ v.val = 7))
  match ph.val with
  | 0 => 2 * u - vv - w
  | 1 => 2 * vv - u - w
  | _ => 2 * w - u - vv

/-- The volt-seconds of the period that ends, for one phase, with its measurement vectors (R68): the selected vector for t_on, 0.6 us
of the vector of instant A where it opened the period, 0.6 us of that of instant B, and the resistive drop over the whole period. -/
def voltSeconds (p : Spn) (supply : Nat) (ph : Fin 3) : Int :=
  let sel := vecVolt p.vector ph * (125 * p.tOn : Nat)
  let opening := if p.instA = p.vector ∧ 1 ≤ p.tOn then 0 else 96 * vecVolt p.instA ph
  let second := match p.instB with
    | .vector v => 96 * vecVolt v ph
    | _ => 0
  1000 * (supply : Int) * (sel + opening + second) - 6000 * (fld (spnCur p 0x14) 15 0 : Int) * p.phaseCur[ph]

/-- The current model psi_m (cos theta, sin theta) + Ls i, along U or V (R69). -/
def currentModel (p : Spn) (ph : Fin 3) : Int :=
  let deg := 360 * p.theta / turnSteps + (if ph = 0 then 0 else 240)
  psiUnits p * cosDeg deg / 4096 + 480000 * (fld (spnCur p 0x18) 15 0 : Int) * p.phaseCur[ph]

/-- The observer is seeded: its angle is known, and the voltage model starts from the magnet's flux there (R72, R77, R82). -/
def seedObserver (theta : Nat) (p : Spn) : Spn :=
  let q := { p with theta := theta, meas := Vector.replicate 3 (1, 0, 0), newest := [], phaseCur := Vector.replicate 3 0, offset := 0 }
  { q with psiU := currentModel q 0, psiV := currentModel q 1 }

/-- The magnitude of a flux given along U and V, in 1/4,096 of psi_m. -/
def fluxPart (p : Spn) (u v : Int) : Nat :=
  let m := (psiUnits p).toNat
  natSqrt (4 * 4096 * 4096 * (u * u + u * v + v * v).toNat / (3 * m * m))

/-- The flux residual |psi_v - psi_c| / psi_m in 1/4,096 (R69). -/
def fluxResidual (p : Spn) : Nat := fluxPart p (p.psiU - currentModel p 0) (p.psiV - currentModel p 1)

/-- The torque estimate of R66 as torque-equivalent current in mA: T over 1.5 p psi_m, rounded toward zero. -/
def torqueOf (p : Spn) : Int :=
  let x := p.psiU * p.phaseCur[1] - p.psiV * p.phaseCur[0]
  let m := (psiUnits p).toNat
  let t := natSqrt (4 * x.natAbs * x.natAbs / (3 * m * m))
  if 0 ≤ x then t else -(t : Int)

/-- Speed and flux of the period that ends: the voltage model integrates (R69), and the angle turns by the speed, commanded below 3 % by
the start estimator (R72) and tracked above, with the observer's own correction. -/
def advanceModels (x : SpnSample) (p : Spn) : Spn :=
  let slow := decide (p.state = .accelerating) && !speedAtLeast p 30
  let q : Int := spnPoles p * (if slow then x.commanded else x.speedQ)
  let d := match p.dir with
    | .backward => -q
    | _ => q
  { p with
    psiU := p.psiU + voltSeconds p x.supply 0
    psiV := p.psiV + voltSeconds p x.supply 1
    theta := turnBy p.theta (d + x.track) }

/-! ### Comparators and switching table (R63 to R66) -/

/-- The flux and torque comparators (R64). -/
def comparators (p : Spn) (flux : Nat) (err : Int) : Bool × TorqueCmp :=
  let fband := fld (spnCur p 0x20) 27 16
  let tband : Int := fld (spnCur p 0x20) 11 0
  let ref := fld (spnCur p 0x24) 12 0
  let up := if flux + fband < ref then true else if ref + fband < flux then false else p.fluxUp
  let tq := if tband < err then TorqueCmp.increase
    else if err < -tband then .decrease
    else match p.torqueCmp with
      | .increase => if err ≤ 0 then .hold else .increase
      | .decrease => if 0 ≤ err then .hold else .decrease
      | .hold => .hold
  (up, tq)

/-- V(k + d) of the six active vectors, for sector k - 1 (R64): indices count modulo 6. -/
def activeVec (sector : Fin 6) (d : Nat) : Fin 8 := ⟨(sector.val + d) % 6 + 1, by omega⟩

/-- The zero vector that needs fewer switch changes from the vector in force, V0 on a tie (R65). -/
def zeroVec (v : Fin 8) : Fin 8 := if v.val = 2 ∨ v.val = 4 ∨ v.val = 6 ∨ v.val = 7 then 7 else 0

/-- An active vector. -/
def isActive (v : Fin 8) : Bool := decide (v.val ≠ 0 ∧ v.val ≠ 7)

/-- brakemax, in 0.1 % of nominal, as in force (R89). -/
def aboveBrakemax (p : Spn) (speedQ : Nat) : Bool := decide (fld (spnCur p 0x34) 29 20 * spnNominalQ p < 1000 * speedQ)

/-- t_on after the current limit's step (R66). -/
def nextTOn (p : Spn) (average : Int) : Nat :=
  let ilim := spnCur p 0x2C
  let limit : Int := if p.runLimit then fld ilim 27 16 else fld ilim 11 0
  if limit < average then p.tOn - 1 else min 16 (p.tOn + 1)

/-- A vector held for t sixteenths of a period would make the period's average shunt current negative: the shunt carries the phase
current that R63's table names (R65). -/
def wouldReverse (p : Spn) (v : Fin 8) (t : Nat) : Bool :=
  match vecPhase v with
  | some (ph, sg) => decide (sg * p.phaseCur[ph] * (t : Int) < 0)
  | none => false

/-- The active vector the switching table selects, or none for the zero vector, with R65's replacements of a decrease selection. -/
def selectVec (p : Spn) (sector : Fin 6) (t : Nat) : Option (Fin 8) :=
  match p.torqueCmp with
  | .hold => none
  | .increase => some (if p.fluxUp then activeVec sector 1 else activeVec sector 2)
  | .decrease =>
    let v := if p.fluxUp then activeVec sector 5 else activeVec sector 4
    if ¬ aboveBrakemax p p.speedQ ∨ p.dir = .backward ∨ wouldReverse p v t then none else some v

/-- The neighbour of a vector that measures another phase than the given one, V(v + 1) preferred (R67). -/
def otherPhase (v : Fin 8) (ph : Fin 3) : Fin 8 :=
  let up : Fin 8 := if v.val = 6 then 1 else ⟨v.val % 6 + 1, by omega⟩
  let down : Fin 8 := if v.val ≤ 1 then 6 else ⟨v.val - 1, by omega⟩
  match vecPhase up with
  | some (q, _) => if q = ph then down else up
  | none => up

/-- Some current that the next decision would use is two periods old (R68). -/
def currentAging (p : Spn) : Bool :=
  match p.newest with
  | a :: b :: _ => decide (2 ≤ p.meas[a].2.2) || decide (2 ≤ p.meas[b].2.2)
  | _ => false

/-- What the coming period samples at instants A and B (R67): 0.6 us is less than one sixteenth of the period. Instant B takes a second
phase when the last two instants A gave one phase, and whenever a current would grow older than two periods (R68; log entry 133); under
a zero selection the neighbour is that of the measurement vector (log entry 133). -/
def planSamples (sel : Option (Fin 8)) (tOn : Nat) (sector : Fin 6) (p : Spn) : Fin 8 × InstantB :=
  let meas := activeVec sector 1
  let a := match sel with
    | some v => if 1 ≤ tOn then v else meas
    | none => meas
  let full := sel.isSome && decide (16 ≤ tOn)
  let b : InstantB :=
    match p.lastA with
    | q :: r :: _ =>
      if q = r ∧ (full = false ∨ currentAging p) then .vector (otherPhase (sel.getD meas) q) else if full then .skipped else .offset
    | _ => if full then .skipped else .offset
  (a, b)

/-- The vector in force when the zero-vector portion begins, and the zero vector that fills it (R63, R65). -/
def fillVec (a : Fin 8) (b : InstantB) (sel : Option (Fin 8)) (tOn : Nat) : Fin 8 :=
  match b with
  | .vector v => zeroVec v
  | _ => zeroVec (match sel with
    | some v => if 1 ≤ tOn then v else a
    | none => a)

/-! ### Torque reference -/

/-- T_ref: the PI regulator of R75 in RUNNING; the start or run limit while the rotor is accelerated; the negative run limit in SPINDOWN
(log entry 10). Outside RUNNING the regulator's integral stands. -/
def torqueRef (p : Spn) : Int × Int :=
  let ilim := spnCur p 0x2C
  match p.state with
  | .running =>
    let loop := spnCur p 0x4C
    let err : Int := ((spnNominalQ p : Int) - (p.speedQ : Int)) / 4
    let integ := p.integral + (fld loop 31 16 : Int) * err
    (clampInt (-32768) 32767 (((fld loop 15 0 : Int) * err + integ) / 4096), integ)
  | .spindown => (-(fld ilim 27 16 : Int), p.integral)
  | .accelerating | .catching => (if p.runLimit then fld ilim 27 16 else fld ilim 11 0, p.integral)
  | _ => (0, p.integral)

/-- The average duty of the vectors since the last crossing, in 1/256; a zero selection counts as none (R82; log entry 133). -/
def countDuty (sel : Option (Fin 8)) (t : Nat) (p : Spn) : Spn :=
  let sum := p.dutySum + (if sel.isSome then 16 * t else 0)
  { p with dutySum := sum, dutyCount := p.dutyCount + 1, avgDuty := sum / (p.dutyCount + 1) }

/-- One decision of a state that drives the bridge (R63 to R68): estimates, comparators, vector, active time, sampling plan. -/
def driveBridge (x : SpnSample) (p : Spn) : Spn :=
  let (tRef, integ) := torqueRef p
  let est := torqueOf p
  let sector := sectorOf p.psiU p.psiV
  let (up, tq) := comparators p (fluxPart p p.psiU p.psiV) (tRef - est)
  let p := { p with tRef := tRef, integral := integ, tEst := est, fluxUp := up, torqueCmp := tq }
  let t := nextTOn p x.average
  let sel := selectVec p sector t
  let (a, b) := planSamples sel t sector p
  let fill := fillVec a b sel t
  countDuty sel t { p with
    bridge := .dtc
    vector := sel.getD fill
    tOn := t
    fill := fill
    instA := a
    instB := b
    limpSector := sector }

end Sys2Proof.Machine
end

