-- ==== Sys2Proof/Machine/Raise.lean ====
section
/-!
DEFINITION. Raising an FLT source with its whole effect: FLT's own part, the BLK reaction on the source's block (R417), and
source 174 where an escalation reaches CHIP (R420).
-/
namespace Sys2Proof.Machine
open Sys2Proof

/-! ### Fail-over and reset of one block under BLK (R417) -/

/-- The bridge is off or shorted (R83, R87). -/
def bridgeIdle (p : Spn) : Bool := decide (p.bridge = .off ∨ p.bridge = .short)

/-- brakemax in force, in 0.1 % of nominal (R89). -/
def spnBrakemax (p : Spn) : Nat := fld (spnCur p 0x34) 29 20

/-- The bridge is off: no vector is applied and no current flows; t_on is the full period again where it is driven next (R66). -/
def bridgeOff (p : Spn) : Spn :=
  { p with bridge := .off, vector := 0, tOn := 16, fill := 0, tRef := 0, instA := 0, instB := .offset, lastA := [],
           meas := Vector.replicate 3 (1, 0, 0), newest := [], phaseCur := Vector.replicate 3 0, dutySum := 0, dutyCount := 0 }

/-- The limp commutator takes the gates (R82): from the last agreed sector, with the last agreed average duty. -/
def limpTakes (p : Spn) : Spn :=
  { p with prior := p.state, state := .limp, limpGates := true, bridge := .sixStep, missRun := 0, cleanCross := 0, residRun := 0,
           limpCross := 0, limpDuty := p.avgDuty }

/-- Both engines are re-seeded: under R82 at or above brakemax with the bridge driven; under R83 otherwise, with the bridge off and the
state that was running resumed from its start. -/
def spnReseed (s : State) : State :=
  let p := s.spn
  let now := s.sys.ms
  let p := { p with
    reseeding := true
    residRun := 0
    reseedTimes := now :: p.reseedTimes.filter fun t => decide (now < t + 3600000)
    reseedTotal := p.reseedTotal + 1 }
  let p :=
    if p.limpGates then p
    else if ¬ bridgeIdle p ∧ speedAtLeast p (spnBrakemax p) then limpTakes p
    else
      { bridgeOff p with
        state := match p.state with
          | .sensing | .aligning | .accelerating | .catching | .running => .sensing
          | x => x
        senseCross := 0
        lastCross := none
        matched := 0
        sinceFirst := 0 }
  { s with spn := p }

/-- A servo engine's fault (R141): writes inhibited, FAILED, port hold on the actuator's port, and the event. -/
def engineFaultW (rz : Nat → State → State) (e : EngIx) (s : State) : State :=
  let v := s.srv[e]
  if v.state = .failed then s
  else
    let a := drives s e
    let s := { s with srv := s.srv.set e { v with
      state := .failed
      holdPend := false
      inh := setBit v.inh 6
      uFf := 0
      onTrack := false
      settled := false
      play := none
      regs := regSet srvRows v.regs 8 (regGet srvRows v.regs 8 ||| bitAt true 13) } }
    let s := match a with
      | some a => actInhibit a { s with port := s.port.set a { s.port[a] with heldFor := some e, holdRun := 0, pz := v.uPz, pzStep := 0 } }
      | none => s
    rz (srcSrv e.val 13) s

/-- A YCK event bit and its source. -/
def yckEventW (rz : Nat → State → State) (b : Nat) (s : State) : State :=
  rz (srcYck b) { s with yck := { s.yck with regs := regSet yckRows s.yck.regs 8 (regGet yckRows s.yck.regs 8 ||| bitAt true b) } }

/-- The sector start of the next operation takes up another timing (R114): lanes leave yarn timing. -/
def lanesLeaveYarn (y : Yck) : Yck :=
  { y with lane := Vector.ofFn fun l : Fin 5 =>
      let t := y.lane[l]
      if t.timing = .yarn then { t with timing := .preamble } else t }

/-- A triple-track operation, and a write to a yarn-format zone, end at their next sector boundary in preamble mode (R114):
operations that write and are timed by yarn, or read three tracks, get the abort request (R236). -/
def preambleAborts (s : State) : State :=
  { s with lane := Vector.ofFn fun l : Fin 5 =>
      let v := s.lane[l]
      let stop := (v.pat.op.map fun d => decide (d.mode = 2) || (decide (d.kind = 1 ∨ d.kind = 3) && decide (s.yck.lane[l].timing = .yarn))).getD false
      if stop then { v with pat := { v.pat with abort := true } } else v }

/-- A packet body asks for a write to a yarn-format zone of an actuator (R114, R235). -/
def yarnWrite (s : State) (a : ActIx) (body : List Word) : Bool :=
  let w := body.headD 0
  decide (fld w 31 28 = 1 ∨ fld w 31 28 = 3) &&
    ((zoneOn s.media (surfaceOf a (fld w 19 17)) (fld w 16 11)).map fun z => !z.preamble).getD false

/-- Writes to yarn-format zones that are still queued in a lane are withdrawn before they start (R114). -/
def withdrawQueued (s : State) : State :=
  let keep (k : Nat) (p : Packet) : Bool := !(List.finRange 5).any fun l =>
    decide (fld (laneReg s.lane[l] 0x1110) 13 0 = k) && !p.isOpen && p.reader.isNone &&
      ((laneAct s.flt l).map fun a => yarnWrite s a p.body).getD false
  { s with hqm := { s.hqm with rings := s.hqm.rings.map fun r => (r.1, { r.2 with packets := r.2.packets.filter (keep r.1) }) } }

/-- Preamble mode is entered (R114): the guard rises, operations that end are told so, and the lanes change over. -/
def enterPreamble (rz : Nat → State → State) (s : State) : State :=
  let s := withdrawQueued (preambleAborts s)
  let s := { s with yck := { lanesLeaveYarn s.yck with active := none, preamble := true, guardSector := true, held := false, pendSwitch := none } }
  yckEventW rz 4 (guardAll s)

/-- A yarn head is declared lost (R93): a switchover is due where the other head is qualified (R97, R98); without one, preamble
mode is entered (R114), also where the head that a switchover waits for is lost. Otherwise the loss of a head that is not active changes
its own state, and in preamble mode the other head, if it has qualified, is the one that returns (R117). -/
def yarnLostW (rz : Nat → State → State) (h : Fin 2) (s : State) : State :=
  let y := s.yck
  if y.running = false ∨ y.head[h].locked = false then s
  else
    let other : Fin 2 := 1 - h
    let y := { y with
      head := y.head.set h { locked := false, qual := false }
      pendForce := if y.pendForce = some h then none else y.pendForce
      pendReturn := if y.pendReturn = some h then (if y.head[other].qual then some other else none) else y.pendReturn
      pendSwitch := if y.pendSwitch = some h then none else y.pendSwitch }
    let waited := decide (s.yck.pendSwitch = some h)
    let s := yckEventW rz h.val { s with yck := y }
    if waited then enterPreamble rz s
    else if s.yck.active ≠ some h then s
    else if s.yck.head[other].qual then
      guardAll { s with yck := { s.yck with held := true, guardSector := true, pendSwitch := some other } }
    else
      enterPreamble rz s

/-- A lane's sequencers are reset with the stores kept and the write gate forced off (R241, R417, R487): both run bits read 0; FIFO, stack,
counters and staged match writes are lost. -/
def seqReset (v : Lane) : Lane :=
  let r := v.row
  { v with
    regs := regSet laneRows (regSet laneRows v.regs 0x1000 (laneReg v 0x1000 &&& ~~~ 1#32)) 0x1100 (laneReg v 0x1100 &&& ~~~ 1#32)
    row := { r with
      state := .stopped
      pc := 0
      stack := []
      cnt0 := 0
      cnt1 := 0
      fifo := []
      wgReq := false
      rdOpen := false
      wsrc := 0
      rsink := 0
      srcLast := none
      syncArmed := false
      acted := false
      inCust := false
      custPosted := false
      posts := [] }
    pat := { v.pat with
      state := .stopped
      op := none
      lost := v.pat.op.orElse fun _ => v.pat.lost
      codes := []
      abort := false
      staged := []
      todo := []
      slips := []
      checks := 0
      inDarn := false }
    ladder := []
    known := []
    offTrack := []
    running := none
    queue := Vector.replicate 3 0
    hold := 0 }

/-- A sector leaves rung 2 unserved (R208): its slots are freed and it enters rung 3, with the event. -/
def rung2SkipW (rz : Nat → State → State) (q : DeepReq) (s : State) : State :=
  let v := s.lane[q.lane]
  let freed := (v.ladder.filter fun x => decide (x.slot = q.slot ∧ x.output = q.output)).foldl (fun n x => n + x.pinned) 0
  let v := { v with
    hold := v.hold - freed
    ladder := v.ladder.filterMap fun x =>
      let r := if x.noRetry ∨ fld (regGet laneRows v.cur 0x408) 3 0 = 0 then 4 else 3
      if x.slot ≠ q.slot ∨ x.output ≠ q.output then some x else if x.ceiling < r then none else some { x with rung := r, pinned := 0 }
    regs := regSet laneRows v.regs 0x414 (regGet laneRows v.regs 0x414 ||| bitAt true 5) }
  rz (srcLaneDec q.lane.val 5) (setLane q.lane v s)

/-- The deep-decode pool is reset (R417): queued requests are withdrawn as R208 provides. -/
def poolResetW (rz : Nat → State → State) (s : State) : State :=
  let qs := s.ddp.queue ++ s.ddp.running.toList.filterMap id
  qs.foldl (fun t q => rung2SkipW rz q t) { s with ddp := { s.ddp with queue := [], running := Vector.replicate 2 none } }

/-! ### DMA channels and the capture port -/

/-- An interrupt of channel n: its bit and its source (R411). -/
def dmaIrqW (rz : Nat → State → State) (n : ChanIx) (s : State) : State :=
  rz (srcDmaIrq n.val) { s with dma := { s.dma with irq := setBit s.dma.irq n.val } }

/-- A channel stops on its current descriptor: the status word with done, the code and the residue, and the interrupt (R384,
R393, R394, R397). -/
def chanStopW (rz : Nat → State → State) (n : ChanIx) (code : Nat) (s : State) : State :=
  let c := s.dma.chan[n]
  let s := writeLE s (c.cur + 28) 4 (2 ^ 31 + code * 2 ^ 28 + c.resid % 2 ^ 24)
  dmaIrqW rz n { s with dma := { s.dma with
    chan := s.dma.chan.set n { c with state := .stopped, code := code }
    affected := clearBit s.dma.affected n.val } }

/-- An abort (R393): a running or waiting channel stops with code 1; a parked one stops and writes nothing. -/
def chanAbortW (rz : Nat → State → State) (n : ChanIx) (s : State) : State :=
  let c := s.dma.chan[n]
  match c.state with
  | .running | .waiting => chanStopW rz n 1 s
  | .parked => { s with dma := { s.dma with chan := s.dma.chan.set n { c with state := .stopped } } }
  | _ => s

/-- The capture port is disabled (R408, R417). -/
def capDisable (s : State) : State :=
  { s with cap := { s.cap with
    regs := regSet capRows s.cap.regs 0 (setFld (regGet capRows s.cap.regs 0) 0 0 0)
    hold := true } }

/-- A requester is reset or marked failed (R405): its open packets are discarded, a packet it was reading is unread again, and
its stalled accesses end. A core's Stitch Counter cursor goes back to 0 (R441). -/
def requesterGone (n : Nat) (s : State) : State :=
  let q := s.hqm
  let s := { s with hqm := { q with
    rings := q.rings.map fun r => (r.1, { r.2 with
      packets := (r.2.packets.filter fun p => decide (¬ (p.owner = n ∧ p.isOpen))).map fun p =>
        if p.reader = some n then { p with reader := none } else p })
    ports := keyDel q.ports n
    stalls := q.stalls.filter fun w => decide (w.1 ≠ n) } }
  if h : n < 36 then { s with stc := { s.stc with core := s.stc.core.set n { s.stc.core[n] with cur := 0 } } } else s

/-- A channel's copies are gone; the mirror area takes every block of which it held one (R7, R432). -/
def copiesMove (chan : Nat) (b : Nat × Block) : Nat × Block :=
  if b.2.copies.getLsbD chan then (b.1, { b.2 with copies := clearBit b.2.copies chan ||| 4#3 }) else b

/-- An RLD channel is taken out of service (R432): its bit, and the mirror area of SAB with the copies it takes over. -/
def rldOut (chan : Nat) (s : State) : State :=
  if s.flt.rldFailed.getLsbD chan then s
  else { s with
    flt := { s.flt with rldFailed := setBit s.flt.rldFailed chan, mirror := true }
    arr := { s.arr with blocks := s.arr.blocks.map (copiesMove chan) } }

/-- BLK on a block (R417); `rz` raises the sources that the reset itself raises. -/
def blkReset (rz : Nat → State → State) (b : BlkOf) (s : State) : State :=
  match b with
  | .core c =>
    if h : c < 36 then
      requesterGone c { s with flt := { s.flt with coreResets := s.flt.coreResets.set c (s.flt.coreResets[c] + 1) } }
    else s
  | .lane l => if h : l < 5 then setLane ⟨l, h⟩ (seqReset s.lane[l]) s else s
  | .ddp => poolResetW rz s
  | .srv e => if h : e < 5 then engineFaultW rz ⟨e, h⟩ s else s
  | .spn => spnReseed s
  | .yck =>
    (match s.yck.active with
     | some h => yarnLostW rz h s
     | none => s)
  | .spe =>
    { s with spe := { s.spe with
      regs := regSet speRows s.spe.regs 0 (regGet speRows s.spe.regs 0 &&& ~~~ 3#32)
      active := 0
      halted := false } }
  | .dma k => if h : 517 ≤ k ∧ k - 517 < 64 then chanAbortW rz ⟨k - 517, h.2⟩ s else s
  | .cap => capDisable s
  | .rld c => rldOut c s
  | .none => s

/-- An occurrence of source k, with BLK's effect, the host's event for a record of class C3 or above (R382) and source 174; n bounds the raises inside a BLK (R416, R417, R420). -/
def raiseN (n k : Nat) (s : State) : State :=
  match n with
  | 0 => fltOccur k s
  | n + 1 =>
    if srcReserved k then s
    else
      let live := bitOf (srcCfg s.flt k) 9
      let blkNow := live && decide (rungFor s.flt k = 2) && !(s.flt.warm && blkInScope (blkOf k))
      let esc := live && escalatedToChip s.flt k
      let s1 := if live && decide (3 ≤ srcClass k) then vendorEvent 0xC3 (fltOccur k s) else fltOccur k s
      let s2 := if blkNow then blkReset (raiseN n) (blkOf k) s1 else s1
      if esc then fltOccur 174 s2 else s2

/-- An occurrence of source k. -/
def raise (k : Nat) (s : State) : State := raiseN 8 k s

/-- A number's place in a rising list. -/
def putRising (k : Nat) (xs : List Nat) : List Nat :=
  match xs with
  | [] => [k]
  | x :: t => if k ≤ x then k :: x :: t else x :: putRising k t

/-- Numbers lowest first. -/
def rising (ks : List Nat) : List Nat := ks.foldr putRising []

/-- Several sources in the same cycle, lowest number first (R420). -/
def raiseAll (ks : List Nat) (s : State) : State := (rising ks).foldl (fun t k => raise k t) s

end Sys2Proof.Machine
end

