-- ==== Sys2Proof/Machine/AddrMap.lean ====
section
/-!
DEFINITION. The core-visible address map, the hook partition's windows and the power domain an address lies in (R447, R479, R481,
R482, R485).
-/
namespace Sys2Proof.Machine
open Sys2Proof

/-- What lies at an address (R479, R481). -/
inductive Region where
  | rom
  | tcm (core : Nat)
  | l2 (cluster : Nat)
  | hookSram
  | sab
  /-- a lane's sample ring or hold area: written by the lane only -/
  | samples (lane : Nat)
  | sectors (lane : Nat)
  | tables (lane : Nat)
  | mcache
  | reg (b : Blk) (off : Nat)
  | rld (chan : Nat) (off : Nat)
  | unmapped
  deriving DecidableEq, Repr

/-- The populated capacity of a buffer DRAM channel: the reference drive's 256 MiB (R482, log entry 43). -/
def rldCapacity : Nat := 0x10000000

/-- The register block at an address of the windows from 0x2000_0000 on (R479). -/
def blkAt (a : Nat) : Option Blk :=
  let p := a / 0x10000
  if p = 0x2000 then some .flt else if p = 0x2001 then some .stc else if p = 0x2002 then some .dma
  else if p = 0x2003 then some .hqm else if p = 0x2004 then some .pwr else if p = 0x2005 then some .clk
  else if h : 0x2010 ≤ p ∧ p - 0x2010 < 5 then some (.lane ⟨p - 0x2010, h.2⟩)
  else if h : 0x2020 ≤ p ∧ p - 0x2020 < 5 then some (.srv ⟨p - 0x2020, h.2⟩)
  else if p = 0x2030 then some .spn else if p = 0x2031 then some .yck else if p = 0x2040 then some .spe
  else if p = 0x2050 then some .hif else if p = 0x2060 then some .cap else none

/-- The region of an address (R479, R481, R482). -/
def regionAt (a : Nat) : Region :=
  if a < 0x40000 then .rom
  else if 0x04000000 ≤ a ∧ a < 0x04480000 then .tcm ((a - 0x04000000) / 0x20000)
  else if 0x05000000 ≤ a ∧ a < 0x05300000 then .l2 ((a - 0x05000000) / 0x100000)
  else if 0x06000000 ≤ a ∧ a < 0x06080000 then .hookSram
  else if 0x10000000 ≤ a ∧ a < 0x11000000 then .sab
  else if 0x11000000 ≤ a ∧ a < 0x12400000 then
    (let l := (a - 0x11000000) / 0x400000
     let o := (a - 0x11000000) % 0x400000
     if o < 0x200000 then .samples l else if o < 0x264000 then .sectors l else if o < 0x266800 then .tables l else .unmapped)
  else if 0x13000000 ≤ a ∧ a < 0x13400000 then .mcache
  else if 0x100000000 ≤ a ∧ a < 0x100000000 + rldCapacity then .rld 0 (a - 0x100000000)
  else if 0x200000000 ≤ a ∧ a < 0x200000000 + rldCapacity then .rld 1 (a - 0x200000000)
  else
    match blkAt a with
    | some b => .reg b (a % 0x10000)
    | none => .unmapped

/-- The power domain of a register block (R447). -/
def domOfBlk (b : Blk) : Nat :=
  match b with
  | .flt | .stc | .pwr | .clk => 0
  | .dma | .hqm => 1
  | .lane l => 12 + l.val
  | .srv e => 17 + e.val
  | .spn => 22
  | .yck => 23
  | .spe => 10
  | .hif => 5
  | .cap => 24

/-- The power domain of an address, for what the map covers (R447). -/
def domOfAddr (a : Nat) : Option Nat :=
  match regionAt a with
  | .rom => some 0
  | .tcm c => some (2 + c / 12)
  | .l2 c => some (2 + c)
  | .hookSram | .mcache => some 1
  | .sab => some 10
  | .samples l | .sectors l | .tables l => some (12 + l)
  | .reg b _ => some (domOfBlk b)
  | .rld c _ => some (8 + c)
  | .unmapped => none

/-- The domain is in RETAIN or OFF, or is being quiesced (R398, R451). -/
def domGated (s : State) (d : Nat) : Bool :=
  if h : d < 25 then decide (s.pwr.dom[d] ≠ .on) || s.pwr.quiescing.getLsbD d else false

/-- An address lies in the windows hook cores reach: their TCMs, the hook shared SRAM, the hook RLD regions (R482, R485). -/
def hookWindow (s : State) (a : Nat) : Bool :=
  match regionAt a with
  | .tcm c => decide (roleOf s.flt c = .hook)
  | .hookSram => true
  | .rld _ off => decide (rldCapacity - 0x1000000 ≤ off)
  | _ => false

/-- An access to a buffer DRAM window whose channel has failed is an access to an unmapped address (R482). -/
def rldDown (s : State) (a : Nat) : Bool :=
  match regionAt a with
  | .rld c _ => s.flt.rldFailed.getLsbD c
  | _ => false

end Sys2Proof.Machine
end

