-- ==== Sys2Proof/Machine/Stc.lean ====
section
/-!
DEFINITION. The Stitch Counter: entries, extremes, conditions, clears, persistence, windows (R436 to R446).
-/
namespace Sys2Proof.Machine
open Sys2Proof

/-- Milliseconds in [47:0] on the Timestamp feature's base, and [48] where host software has set it (R440). -/
def stamp (s : State) : Nat :=
  (s.sys.tsBase + (s.sys.ms : Int)).toNat % 2 ^ 48 + (if s.sys.tsSet then 2 ^ 48 else 0)

def stcReg (t : Stc) (off : Nat) : Word := regGet stcRows t.regs off

/-- Bit b of STC_EVENT; persist_fail drives source 173 (R445). -/
def stcEvent (b : Nat) (s : State) : State :=
  let s := { s with stc := { s.stc with regs := regSet stcRows s.stc.regs 8 (stcReg s.stc 8 ||| bitAt true b) } }
  if b = 0 then raise 173 s else freshMark (639 + b) s

/-! ### Groups (R436) -/

/-- Instances of a group's histograms. -/
def stcInstances (g : Nat) : Nat :=
  if 1 ≤ g ∧ g ≤ 5 then 24 else if g = 6 then 2 else if g = 7 then 6 else if g = 8 then 2 else if g = 9 then 3
  else if g = 10 then 2 else 0

/-- The group exists in the recorder. -/
def stcGroup (g : Nat) : Bool := decide (g ≤ 10 ∨ g = 14 ∨ g = 15)

/-- Lower edges of bins 1 to 7 of an instance's histogram (R436); bin 0 takes what lies below the first. -/
def stcEdges (g inst : Nat) : List Int :=
  if g = 1 then [1, 2, 3, 4, 5]
  else if g = 2 then [2, 3, 4, 5, 7, 13]
  else if g = 3 then [16, 32, 48, 64, 82, 123, 205]
  else if g = 4 then [-2, -1, 0, 1, 2, 3]
  else if g = 5 then [1, 2, 3, 4, 5, 6, 7]
  else if g = 6 then [20, 40, 55, 70, 85, 95, 105]
  else if g = 7 then [100, 1000, 5000, 20000, 50000, 150000, 1000000]
  else if g = 8 then [1, 4, 16, 64, 256, 1024, 4096]
  else if g = 9 then
    (if inst = 0 then [9000, 11000, 12000, 14000, 17000, 22000]
     else if inst = 1 then [1500, 1700, 1850, 2000, 2200, 2500, 3000] else [1, 10, 30, 60, 300, 1800, 3600])
  else [1024, 2048, 5120, 10240, 20480, 51200, 102400]

/-- The bin of a value: the highest whose lower edge it reaches. -/
def stcBin (g inst : Nat) (v : Int) : Nat := ((stcEdges g inst).filter fun e => decide (e ≤ v)).length

/-- The key of bin b of an instance; bin 8 is the sum. -/
def stcKey (g inst b : Nat) : Nat := (g * 32 + inst) * 16 + b

/-- The quantity of the lifetime extremes that an entry also offers (R437). -/
def stcExtremeOf (g inst : Nat) : Option (Fin 15) :=
  if g = 6 then (if inst = 0 then some 0 else some 1)
  else if g = 9 then (if inst = 0 then some 2 else if inst = 1 then some 3 else some 4)
  else if g = 10 then (if inst = 0 then some 5 else some 6)
  else if g = 7 then (if h : inst < 6 then some ⟨7 + inst, by omega⟩ else none)
  else if g = 8 then (if inst = 0 then some 13 else some 14)
  else none

/-- A value offered to a quantity's extremes (R437): an equal value leaves the record; minima are kept for quantities 0 to 2. -/
def offer (q : Nat) (v : Int) (poh ts : Nat) (x : Extreme) : Extreme :=
  let r : ExtremeRec := { value := v, poh := poh, ts := ts }
  { max := (match x.max with
      | some m => if m.value < v then some r else some m
      | none => some r)
    min := (if q < 3 then
        (match x.min with
         | some m => if v < m.value then some r else some m
         | none => some r)
      else x.min)
    offered := x.offered + 1 }

/-- An entry (R436, R437, R438): the bin and the sum saturate, and the extremes are offered the value. `bin7` marks the entries
that the table sends to a bin of their own whatever the value: not recovered, not converged, flywheel, spindle fault. -/
def stcEntry (g inst : Nat) (v : Int) (own : Bool) (s : State) : State :=
  if stcInstances g ≤ inst then s
  else
    let im := s.stc.live
    let b := if own then (if g = 1 then 6 else 7) else stcBin g inst v
    let kb := stcKey g inst b
    let ks := stcKey g inst 8
    let count := keyGet im.hist kb 0
    let sum := keyGet im.hist ks 0
    let add : Int := if g = 5 then 0 else if g = 9 ∧ inst = 0 then v / 1000 else v
    let hist := keySet im.hist kb (if count < 2 ^ 48 - 1 then count + 1 else count) 0
    let hist := keySet hist ks (min (sum + add) (2 ^ 64 - 1)) 0
    let ext := match stcExtremeOf g inst with
      | some q => im.extremes.set q (offer q.val v s.stc.poh (stamp s) (im.extremes.get q))
      | none => im.extremes
    { s with stc := { s.stc with live := { im with hist := hist, extremes := ext } } }

/-- A shock event begins at accelerometer i (R436, group 0x0A). -/
def shockBegin (i : Fin 2) (s : State) : State :=
  match s.stc.shock[i] with
  | some _ => s
  | none => { s with stc := { s.stc with shock := s.stc.shock.set i (some (0, 0)) } }

/-! ### Conditions (R439) -/

/-- A condition is added, or repeats the newest record; the 129th drops the oldest. -/
def stcCond (code unit : Nat) (detail : Word) (s : State) : State :=
  let im := s.stc.live
  let ts := stamp s
  let poh := s.stc.poh
  let r : CondRec := { code := code, unit := unit, detail := detail, firstTs := ts, firstPoh := poh, lastTs := ts, lastPoh := poh, repeats := 0 }
  let im := match im.conds.getLast? with
    | some x =>
      if x.code = code ∧ x.unit = unit ∧ x.detail = detail then
        { im with conds := im.conds.dropLast ++ [{ x with lastTs := ts, lastPoh := poh, repeats := min (x.repeats + 1) (2 ^ 32 - 1) }] }
      else if im.conds.length < 128 then { im with conds := im.conds ++ [r] }
      else { im with conds := im.conds.drop 1 ++ [r], overwritten := im.overwritten + 1 }
    | none => { im with conds := [r] }
  { s with stc := { s.stc with live := im } }

/-! ### Clear and persistence (R442, R443) -/

/-- The older area: an area without a valid image, else the one with the lower sequence number. -/
def olderArea (t : Stc) : Fin 2 :=
  match t.area.get 0, t.area.get 1 with
  | .valid a, .valid b => if a.seq ≤ b.seq then 0 else 1
  | .valid _, _ => 1
  | _, _ => 0

/-- A persistence write starts, or waits for the one in progress (R442, R443). -/
def stcPersist (s : State) : State :=
  let t := s.stc
  match t.write with
  | some w => { s with stc := { t with write := some { w with again := true } } }
  | none =>
    let copy := { t.live with seq := t.live.seq + 1, persistPoh := t.poh, noHistory := false }
    { s with stc := { t with write := some { area := olderArea t, copy := copy, again := false, covers := s.host.clearWait.map Prod.snd } } }

/-- A group's bins and sums are zeroed, its clear counted and stamped (R442). -/
def stcClearGroup (g : Nat) (s : State) : State :=
  let im := s.stc.live
  if h : 1 ≤ g ∧ g - 1 < 10 then
    let c := im.clears[g - 1]'h.2
    { s with stc := { s.stc with live := { im with
      hist := im.hist.filter fun e => decide (e.1 / 512 ≠ g)
      clears := im.clears.set (g - 1) { count := c.count + 1, poh := some s.stc.poh, ts := stamp s } h.2 } } }
  else s

/-- A clear of a group, or of all clearable groups for 0xFF, and the persistence write that follows it (R442). -/
def stcClear (g : Nat) (s : State) : State :=
  stcPersist (if g = 0xFF then (List.range 10).foldl (fun t i => stcClearGroup (i + 1) t) s else stcClearGroup g s)

/-- A persistence write completes (R443): the area holds the copy, or is bad and the failure is counted and recorded. -/
def stcPersistDone (ok : Bool) (flashStatus : Word) (s : State) : State :=
  match s.stc.write with
  | none => s
  | some w =>
    let t := s.stc
    let s :=
      if ok then
        stcEvent 1 { s with stc := { t with
          area := t.area.set w.area (.valid w.copy)
          live := { t.live with seq := w.copy.seq, persistPoh := w.copy.persistPoh, noHistory := false }
          write := none } }
      else
        stcCond 2 w.area.val flashStatus (stcEvent 0 { s with stc := { t with
          area := t.area.set w.area .bad
          live := { t.live with failures := t.live.failures + 1 }
          failuresReset := t.failuresReset + 1
          write := none } })
    if w.again then stcPersist s else s

/-- Restore at cast-on (R444). -/
def stcRestore (s : State) : State :=
  let t := s.stc
  let img (a : StcArea) : Option StcImage := match a with
    | .valid i => some i
    | _ => none
  let best := match img t.area[0], img t.area[1] with
    | some a, some b => some (if a.seq < b.seq then b else a)
    | some a, none => some a
    | none, b => b
  let wasBad := decide (t.area[0] ≠ .erased ∨ t.area[1] ≠ .erased)
  match best with
  | some i =>
    let i := match t.plArea with
      | some (q, cs) => if i.seq ≤ q then { i with conds := cs, condFromPl := true } else { i with condFromPl := false }
      | none => { i with condFromPl := false }
    { s with stc := { t with live := i, restored := true } }
  | none =>
    if wasBad then
      stcCond 1 0 0 { s with stc := { t with live := { StcImage.empty with historyLost := true }, restored := true } }
    else { s with stc := { t with live := StcImage.empty, restored := true } }

/-! ### Windows and cursors (R440, R441) -/

/-- Windows in a group's stream: its header, then its histograms, extremes or condition records. -/
def stcLength (g : Nat) : Nat :=
  if g = 0 then 1 else if g ≤ 10 then 1 + stcInstances g else if g = 14 then 129 else if g = 15 then 16 else 0

/-- A value placed in a window at byte b, n bytes wide. -/
def winAt (b n v : Nat) : Nat := (v % 256 ^ n) * 256 ^ b

/-- A signed value in n bytes. -/
def winInt (b n : Nat) (v : Int) : Nat := winAt b n (v % (256 ^ n : Nat)).toNat

/-- One record of an extremes window at byte b. -/
def winExtreme (b : Nat) (r : Option ExtremeRec) : Nat :=
  match r with
  | some r => winInt b 4 r.value + winAt (b + 4) 4 r.poh + winAt (b + 8) 8 r.ts
  | none => winAt (b + 4) 4 0xFFFFFFFF

def flagBit (b : Bool) (n : Nat) : Nat := if b then 2 ^ n else 0

/-- Window p of group g (R440). -/
def stcWindow (t : Stc) (g p : Nat) : BitVec 512 :=
  let im := t.live
  let clr : ClearInfo := if h : 1 ≤ g ∧ g - 1 < 10 then im.clears[g - 1]'h.2 else { count := 0, poh := none, ts := 0 }
  let kind := if stcLength g ≤ p then 15 else if p = 0 then 0 else if g ≤ 10 then 1 else if g = 15 then 2 else 3
  let inst := if p = 0 ∨ kind = 15 then 0 else p - 1
  let head := winAt 0 1 g + winAt 1 1 kind + winAt 2 1 (clr.count % 256) + winAt 4 2 p + winAt 6 1 inst
  let body :=
    if kind = 15 then 0
    else if kind = 0 ∧ g = 0 then
      winAt 8 4 (flagBit im.noHistory 0 + flagBit im.historyLost 1 + flagBit im.condFromPl 2) + winAt 12 4 1 +
        winAt 16 8 im.seq + winAt 24 4 im.persistPoh + winAt 28 4 im.failures + winAt 32 4 im.conds.length +
        winAt 36 4 im.overwritten
    else if kind = 0 then
      winAt 8 4 clr.count + winAt 12 4 (clr.poh.getD 0xFFFFFFFF) + winAt 16 8 clr.ts + winAt 24 2 (stcLength g - 1)
    else if kind = 1 then
      (List.range 8).foldl (fun a b => a + winInt (8 + 6 * b) 6 (keyGet im.hist (stcKey g inst b) 0)) 0 +
        winInt 56 8 (keyGet im.hist (stcKey g inst 8) 0)
    else if kind = 2 then
      (let x := im.extremes.toList.getD inst { max := none, min := none, offered := 0 }
       winExtreme 8 x.max + winExtreme 24 x.min + winAt 40 8 x.offered)
    else
      (match im.conds[inst]? with
       | some c =>
         winAt 8 2 c.code + winAt 10 1 c.unit + winAt 12 4 c.detail.toNat + winAt 16 8 c.firstTs + winAt 24 4 c.firstPoh +
           winAt 28 8 c.lastTs + winAt 36 4 c.lastPoh + winAt 40 4 c.repeats
       | none => 0)
  BitVec.ofNat 512 (head + body)

/-- The group and position of a cursor in the stream that a selection gives: all groups follow one another for 0xFF. -/
def streamAt (gs : List Nat) (n : Nat) : Option (Nat × Nat) :=
  match gs with
  | [] => none
  | g :: t => if n < stcLength g then some (g, n) else streamAt t (n - stcLength g)

/-- The groups a selection reads. -/
def stcSelection (g : Nat) : List Nat := if g = 0xFF then [0, 1, 2, 3, 4, 5, 6, 7, 8, 9, 10, 14, 15] else if stcGroup g then [g] else []

/-- The window under a cursor; past the stream's end it is of kind 15. -/
def stcLatch (t : Stc) (g cur : Nat) : BitVec 512 :=
  match streamAt (stcSelection g) cur with
  | some (h, p) => stcWindow t h p
  | none => stcWindow t (if g = 0xFF then 15 else g) (stcLength (if g = 0xFF then 15 else g))

/-- The cursor stands at the end of its stream. -/
def stcAtEnd (g cur : Nat) : Bool := (streamAt (stcSelection g) cur).isNone

/-- A core's cursor is set to 0 and window 0 is loaded (R441). -/
def stcRewind (c : CoreIx) (g : Nat) (s : State) : State :=
  { s with stc := { s.stc with core := s.stc.core.set c { group := g, cur := 0, window := stcLatch s.stc g 0 } } }

/-- Reading STC_WIN15 advances the cursor and loads the next window; at the end the cursor stays (R441). -/
def stcAdvance (c : CoreIx) (s : State) : State :=
  let x := s.stc.core[c]
  let n := if stcAtEnd x.group x.cur then x.cur else x.cur + 1
  { s with stc := { s.stc with core := s.stc.core.set c { x with cur := n, window := stcLatch s.stc x.group n } } }

/-- One Recorder Read of a controller (R441): the window, and dword 0. -/
def stcHostRead (ctl : Fin 2) (g : Nat) (rewind : Bool) (s : State) : BitVec 512 × Nat × State :=
  let x := s.stc.host[ctl]
  let cur := if rewind ∨ x.group ≠ g then 0 else x.cur
  let w := stcLatch s.stc g cur
  let last := stcAtEnd g cur
  let next := if last then cur else cur + 1
  (w, next + flagBit last 31, { s with stc := { s.stc with host := s.stc.host.set ctl { group := g, cur := next, window := w } } })

end Sys2Proof.Machine
end

