-- ==== Sys2Proof/Machine/HqmOps.lean ====
section
/-!
DEFINITION. The rings of the hardware queue manager and the events that pace DMA channels (R388, R399 to R407).
-/
namespace Sys2Proof.Machine
open Sys2Proof

/-! ### DMA events (R388) -/

def dmaReg (d : Dma) (off : Nat) : Word := regGet dmaRows d.regs off

/-- Bit b of DMA_EVENT and its source (R411). -/
def dmaEvent (b : Nat) (s : State) : State :=
  raise (srcDma b) { s with dma := { s.dma with regs := regSet dmaRows s.dma.regs 8 (dmaReg s.dma 8 ||| bitAt true b) } }

/-- DMA_CHn_CFG. -/
def chanCfg (s : State) (n : ChanIx) : Word := dmaReg s.dma (0x1004 + 64 * n.val)
def chanPace (s : State) (n : ChanIx) : Nat := fld (chanCfg s n) 1 0
def chanSel (s : State) (n : ChanIx) : Nat := fld (chanCfg s n) 15 8

def setChan (n : ChanIx) (c : Chan) (s : State) : State := { s with dma := { s.dma with chan := s.dma.chan.set n c } }

/-- One occurrence reaches an event-paced channel (R388): it starts the waiting descriptor, or is counted up to 15, or is lost. -/
def chanEvent (n : ChanIx) (s : State) : State :=
  let c := s.dma.chan[n]
  match c.state with
  | .idle => s
  | .waiting => setChan n { c with state := .running } s
  | _ => if c.pend < 15 then setChan n { c with pend := c.pend + 1 } s else dmaEvent 5 s

/-- Event e occurs (R388). -/
def dmaFire (e : Nat) (s : State) : State :=
  (List.finRange 64).foldl (fun t n => if chanPace t n = 2 ∧ chanSel t n = e then chanEvent n t else t) s

/-- A port's link is up and its controller enabled (R386). -/
def hostPortOk (port : Nat) (s : State) : Bool := if h : port < 2 then s.hif.ctl[port].linkUp && s.hif.ctl[port].en else false

/-- A channel's current descriptor has the host port p at one of its ends (R384). -/
def usesPort (s : State) (n : ChanIx) (p : Nat) : Bool :=
  let w : Word := BitVec.ofNat 32 (readLE s s.dma.chan[n].cur 4)
  decide (fld w 27 26 = p + 1 ∨ fld w 25 24 = p + 1)

/-- A port's link has gone down, or its controller has been disabled: the channels that move data over it stop at the burst boundary with
code 7 (R335, R386). -/
def portChannelsStop (p : Nat) (s : State) : State :=
  (List.finRange 64).foldl (fun t n =>
    match t.dma.chan[n].state with
    | .running | .waiting => if usesPort t n p then chanStopW raise n 7 t else t
    | _ => t) s

/-! ### Rings (R399, R401 to R406) -/

def hqmReg (q : Hqm) (off : Nat) : Word := regGet hqmRows q.regs off

/-- Bit b of HQM_EVENT and its source (R412). -/
def hqmEvent (b : Nat) (s : State) : State :=
  raise (srcHqm b) { s with hqm := { s.hqm with regs := regSet hqmRows s.hqm.regs 8 (hqmReg s.hqm 8 ||| bitAt true b) } }

/-- Ring r. -/
def ringAt (s : State) (r : Nat) : Ring := keyGet s.hqm.rings r Ring.reset
def setRing (r : Nat) (x : Ring) (s : State) : State := { s with hqm := { s.hqm with rings := keySet s.hqm.rings r x Ring.reset } }

/-- The port of requester p. -/
def hqmPort (s : State) (p : Nat) : HqmPort := keyGet s.hqm.ports p HqmPort.reset
def setHqmPort (p : Nat) (x : HqmPort) (s : State) : State :=
  { s with hqm := { s.hqm with ports := keySet s.hqm.ports p x HqmPort.reset } }

/-- A requester's number: a core's, 36 for the management endpoint, 64 and up for engines. -/
def reqNum (r : Requester) : Nat :=
  match r with
  | .core c => c.val
  | .mi => 36
  | .engine n => 64 + n

/-- Size in slots: 2^k (R399). -/
def ringSize (x : Ring) : Nat := 2 ^ fld x.cfg 4 0

/-- Slots of a packet: its header and its body (R401). -/
def packetSlots (p : Packet) : Nat := 1 + (p.body.length + 3) / 4

/-- Slots taken, open packets included (R406). -/
def occupancy (x : Ring) : Nat := (x.packets.map packetSlots).sum

/-- The most body slots a packet of this ring may have (R401). -/
def bodyLimit (x : Ring) : Nat := min 4095 (ringSize x - 2)

def openCount (x : Ring) : Nat := (x.packets.filter fun p => p.isOpen).length

def headClosed (x : Ring) : Bool := (x.packets.head?.map fun p => !p.isOpen).getD false

/-- Group g of HQM_NOTIFY is set (R406): its register bit, its source, and its DMA event. -/
def notifyGroup (g : Nat) (s : State) : State :=
  let s := { s with hqm := { s.hqm with regs := regSet hqmRows s.hqm.regs 0x30 (hqmReg s.hqm 0x30 ||| bitAt true g) } }
  dmaFire (72 + g) (raise (srcNotify g) s)

/-- The pacing state of an occupancy (R406). -/
def pacingOf (x : Ring) : Bool :=
  if fld x.wm 31 16 ≤ occupancy x then true else if occupancy x ≤ fld x.wm 15 0 then false else x.pacing

/-- A packet without what a reader or a flush has noted on it. -/
def packetBare (p : Packet) : Packet := { p with reader := none, marked := false }

/-- A ring takes its new packets: pacing follows the watermarks, the head's closing and the setting of pacing notify (R406), and
flushing ends with the last marked packet (R404); CAP_HOLD
follows the occupancy of the capture port's ring (R409). -/
def ringUpdate (r : Nat) (x : Ring) (s : State) : State :=
  let old := ringAt s r
  let x := { x with pacing := pacingOf x }
  let done := x.flushing && !x.packets.any fun p => p.marked
  let x := { x with flushing := x.flushing && !done }
  let newHead := headClosed x && (!headClosed old || decide (x.packets.map packetBare = (old.packets.drop 1).map packetBare) ||
    decide (x.packets.head?.map packetBare ≠ old.packets.head?.map packetBare))
  let s := setRing r x s
  let c := regGet capRows s.cap.regs 0
  let full := decide (ringSize x ≤ occupancy x + fld (regGet capRows s.cap.regs 4) 15 8)
  let hold := full || (s.cap.hold && !decide (occupancy x ≤ fld x.wm 15 0))
  let s := if bitOf c 0 ∧ bitOf c 1 ∧ fld c 29 16 = r then { s with cap := { s.cap with hold := hold } } else s
  let s := if done then hqmEvent 4 s else s
  if bitOf x.cfg 13 ∧ (newHead ∨ (x.pacing ∧ old.pacing = false)) then notifyGroup (fld x.cfg 12 8) s else s

/-- A packet of an engine fits the ring now (R401, R403). -/
def postFits (x : Ring) (body : List Word) : Bool :=
  x.enabled && decide (occupancy x + 1 + (body.length + 3) / 4 ≤ ringSize x ∧ openCount x < 8)

/-- An engine's whole packet is placed at the tail (R401). -/
def postNow (owner r type : Nat) (body : List Word) (s : State) : State :=
  let x := ringAt s r
  let p : Packet := { owner := owner, isOpen := false, h0 := fldAt ((body.length + 3) / 4) 11 0 ||| fldAt type 23 16, h1 := 0,
                      h2 := 0, h3 := 0, body := body, excess := false, marked := false, reader := none }
  ringUpdate r { x with packets := x.packets ++ [p] } s

/-- An engine posts a packet to a ring, or stalls without limit (R400, R403); a ring that is not enabled takes nothing. -/
def enginePost (owner r type : Nat) (body : List Word) (s : State) : State :=
  if (ringAt s r).enabled = false then s
  else if postFits (ringAt s r) body ∧ s.hqm.stalls.all (fun w => decide (w.2.1 ≠ r)) then postNow owner r type body s
  else { s with hqm := { s.hqm with stalls := s.hqm.stalls ++ [(owner, r, .post type body)] } }

/-- One stalled access of ring r goes on if it can now (R403): what it did, or nothing. -/
def serveStall (w : Nat × Nat × Stalled) (s : State) : Option State :=
  let x := ringAt s w.2.1
  let p := hqmPort s w.1
  match w.2.2 with
  | .post type body => if postFits x body then some (postNow w.1 w.2.1 type body s) else none
  | .opening =>
    if occupancy x < ringSize x ∧ openCount x < 8 then
      let k : Packet := { owner := w.1, isOpen := true, h0 := 0, h1 := p.h[0], h2 := p.h[1], h3 := p.h[2], body := [],
                          excess := false, marked := false, reader := none }
      some (ringUpdate w.2.1 { x with packets := x.packets ++ [k] }
        (setHqmPort w.1 { p with openIn := some w.2.1, lost := false, written := 0 } s))
    else none
  | .slot d =>
    if occupancy x < ringSize x then
      let ps := x.packets.map fun k => if k.owner = w.1 ∧ k.isOpen then { k with body := k.body ++ d.toList } else k
      some (ringUpdate w.2.1 { x with packets := ps } (setHqmPort w.1 { p with written := p.written + 1 } s))
    else none
  | .header =>
    match x.packets with
    | k :: t =>
      if k.isOpen ∨ k.reader.isSome then none
      else
        let s := setRing w.2.1 { x with packets := { k with reader := some w.1 } :: t } s
        let s := { s with sys := { s.sys with rdata := k.h0 } }
        some (setHqmPort w.1 { p with reading := some w.2.1, nextSlot := 0, flushed := false } s)
    | [] => none

/-- The stalled accesses in arrival order; those that can go on do (R403). -/
def serveStalls (ws : List (Nat × Nat × Stalled)) (s : State) : State :=
  match ws with
  | [] => s
  | w :: t =>
    match serveStall w s with
    | some u => serveStalls t u
    | none => serveStalls t { s with hqm := { s.hqm with stalls := s.hqm.stalls ++ [w] } }

/-- Stalled accesses are tried again after a ring has changed. -/
def retryStalls (s : State) : State :=
  let ws := s.hqm.stalls
  serveStalls ws { s with hqm := { s.hqm with stalls := [] } }

/-- An engine posts a completion packet to its ring (R236, R400). -/
def hqmPost (owner r : Nat) (body : List Word) (s : State) : State := retryStalls (enginePost owner r 0 body s)

/-- FLUSH_PKT of ring r (R404): closed packets go at once, open ones when they close, one being read is finished. -/
def ringFlush (r : Nat) (s : State) : State :=
  let x := ringAt s r
  let keep := x.packets.filter fun p => p.isOpen || p.reader.isSome
  retryStalls (ringUpdate r { x with packets := keep.map fun p => { p with marked := true }, flushing := true } s)

/-- An engine takes the head packet of its ring, if one is closed (R400, R402): its body, and the state without it. -/
def hqmTake (r : Nat) (s : State) : Option (List Word × State) :=
  let x := ringAt s r
  match x.packets with
  | k :: t =>
    if k.isOpen ∨ k.reader.isSome then none
    else some (k.body, retryStalls (ringUpdate r { x with packets := t } s))
  | [] => none

end Sys2Proof.Machine
end

