-- ==== Sys2Proof/Machine/Journal.lean ====
section
/-!
DEFINITION. The journal of stripes in flight and the dirty-region bitmap, with the meanings of their commands (R252 to R258, R263).
-/
namespace Sys2Proof.Machine
open Sys2Proof

def speReg (p : Spe) (off : Nat) : Word := regGet speRows p.regs off

/-- Bit b of SPE_EVENT and its source (R270). -/
def speEvent (b : Nat) (s : State) : State :=
  raise (srcSpe b) { s with spe := { s.spe with regs := regSet speRows s.spe.regs 8 (speReg s.spe 8 ||| bitAt true b) } }

/-- SPE_CTL.en. -/
def speOn (s : State) : Bool := bitOf (speReg s.spe 0) 0

/-! ### Entries (R252, R253) -/

/-- Fields packed from bit 0 up, each a width in bits and a value (log entry 51). -/
def packFields (fs : List (Nat × Nat)) : Nat :=
  match fs with
  | [] => 0
  | (w, v) :: t => v % 2 ^ w + packFields t * 2 ^ w

/-- n bytes of a number, little-endian. -/
def bytesLE (n v : Nat) : List Byte :=
  match n with
  | 0 => []
  | n + 1 => BitVec.ofNat 8 v :: bytesLE n (v / 256)

/-- The 64 bytes of an entry (R252). -/
def entryBytes (e : JEntry) : List Byte :=
  let b := bytesLE 8 e.seq ++ bytesLE 4 e.typ ++ bytesLE 4 e.poh ++ bytesLE 44 e.payload
  b ++ bytesLE 4 (crc32c b)

/-- The type codes the journal writes (R253). -/
def jTypes : List Nat := [0x01, 0x02, 0x10, 0x11, 0x12, 0x20, 0x21, 0x30, 0x40, 0x41, 0x7F]

/-- The number of current replicas (R255). -/
def currentCount (p : Spe) : Nat := (p.replica.toList.filter fun r => r.current).length

/-- The current replicas as a mask. -/
def currentMask (p : Spe) : BitVec 3 :=
  (List.finRange 3).foldl (fun (m : BitVec 3) i => if p.replica[i].current then setBit m i.val else m) 0

/-- Entries appended to the last open group, or to a new one in the next buffer (R254). -/
def pushEntry (gs : List JGroup) (next : Nat) (e : JEntry) : List JGroup :=
  match gs with
  | [] => [{ buf := next, entries := [e], closed := false, issued := false, held := 0 }]
  | [g] =>
    if g.closed then [g, { buf := (g.buf + 1) % 8, entries := [e], closed := false, issued := false, held := 0 }]
    else [{ g with entries := g.entries ++ [e], closed := decide (g.entries.length = 63) }]
  | g :: t => g :: pushEntry t next e

/-- The regions a BIT_SET or BIT_CLEAR payload names (R253). -/
def payloadRegions (n p : Nat) : List Nat :=
  match n with
  | 0 => []
  | n + 1 => if p % 2 ^ 32 = 0xFFFFFFFF then payloadRegions n (p / 2 ^ 32) else p % 2 ^ 32 :: payloadRegions n (p / 2 ^ 32)

/-- One bit of the working copy of the bitmap, where SPE_BMAP_BASE names the metadata cache (R258). -/
def bmapPut (region : Nat) (on : Bool) (s : State) : State :=
  let a := (speReg s.spe 0x3C).toNat + region / 8
  match regionAt a with
  | .mcache => writeByte s a (putBit (readByte s a) (region % 8) on)
  | _ => s

/-- The bitmap follows an appended BIT_SET or BIT_CLEAR (R258). -/
def bmapEntry (e : JEntry) (s : State) : State :=
  if e.typ = 1 then
    (payloadRegions 11 e.payload).foldl (fun t r =>
      bmapPut r true { t with spe := { t.spe with
        dirty := { region := r, seq := e.seq, touched := t.sys.ms } :: t.spe.dirty.filter fun d => decide (d.region ≠ r) } }) s
  else if e.typ = 2 then
    (payloadRegions 11 e.payload).foldl (fun t r =>
      bmapPut r false { t with spe := { t.spe with dirty := t.spe.dirty.filter fun d => decide (d.region ≠ r) } }) s
  else s

/-- The entry's place in its group's buffer in SAB (R254, R270). -/
def entryStore (e : JEntry) (s : State) : State :=
  match s.spe.groups.getLast? with
  | some g =>
    let a := (speReg s.spe 0x30).toNat + 4096 * g.buf + 64 * (g.entries.length - 1)
    (match regionAt a with
     | .sab => if s.spe.groups.length ≤ 8 then writeBytes s a (entryBytes e) else s
     | _ => s)
  | none => s

/-- An entry is appended (R254): the SPE assigns its seq and poh. -/
def jAppend (typ payload : Nat) (s : State) : State :=
  let p := s.spe
  let e : JEntry := { seq := p.next, typ := typ, poh := s.stc.pos % 2 ^ 32, payload := payload % 2 ^ 352 }
  let s := { s with spe := { p with
    next := p.next + 1
    live := p.live ++ [e]
    groups := pushEntry p.groups 0 e } }
  bmapEntry e (entryStore e s)

/-- The seq the next entry will have. -/
def jNext (s : State) : Nat := s.spe.next

/-- A ZMAP entry of a kind, with its zone and its body; the zone-map version advances (R253, R297). -/
def zmap (zone kind : Nat) (body : List (Nat × Nat)) (s : State) : State :=
  jAppend 0x30 (packFields [(32, zone), (8, kind), (256, packFields body)])
    { s with arr := { s.arr with version := s.arr.version + 1 } }

/-! ### Groups (R254) -/

/-- n PAD entries (R253). -/
def padGroup (n : Nat) (s : State) : State :=
  match n with
  | 0 => s
  | n + 1 => padGroup n (jAppend 0x7F 0 s)

/-- The first group is durable: every current replica holds it (R254). -/
def headDurable (p : Spe) : Bool :=
  match p.groups with
  | g :: _ => g.issued && decide (currentCount p ≠ 0) && decide (currentMask p &&& ~~~ g.held = 0)
  | [] => false

/-- Durable groups leave, oldest first (R254, R255). -/
def settleGroups (n : Nat) (s : State) : State :=
  match n with
  | 0 => s
  | n + 1 =>
    if headDurable s.spe then
      match s.spe.groups with
      | g :: t => settleGroups n { s with spe := { s.spe with
          groups := t, dur := (g.entries.getLast?.map fun e => e.seq).getD s.spe.dur } }
      | [] => s
    else s

/-- An entry is durable: its group has been written to every current replica (R254). -/
def seqDurable (p : Spe) (n : Nat) : Bool :=
  match p.groups with
  | g :: _ => decide (n < (g.entries.head?.map fun e => e.seq).getD 0)
  | [] => decide (n < p.next)

/-- A reshape is complete once the boundary has passed its range and the deferred list is empty: the Surface State log says so (R293). -/
def reshapeDone (s : State) : State :=
  match s.arr.reshape with
  | some r =>
    if r.zones.length ≤ r.boundary ∧ s.arr.deferred = [] then
      vendorEvent 0xC0 (noteChange { s with arr := { s.arr with reshape := none } })
    else s
  | none => s

/-- Zone n has left the reshape's way: the boundary advances past it, or it leaves the deferred list (R291). -/
def reshapeStep (n : Nat) (s : State) : State :=
  match s.arr.reshape with
  | some r =>
    let r := if r.zones[r.boundary]? = some n then { r with boundary := r.boundary + 1 } else r
    reshapeDone { s with arr := { s.arr with reshape := some r, deferred := s.arr.deferred.filter fun x => decide (x ≠ n) } }
  | none => s

/-- A change of one zone's entry. -/
def zonePut (n : Nat) (f : Zone → Zone) (s : State) : State :=
  { s with arr := { s.arr with zones := s.arr.zones.map fun z => if z.1 = n then (z.1, f z.2) else z } }

/-- A zone-map change takes effect (R281, R288, R291, R294): the units of the old place are free, log data held for the zone is in the copy, and
the zone's range-lock entry goes. -/
def applyCommit (x : ZCommit) (s : State) : State :=
  match x with
  | .rebuilt n p => zonePut n (fun z => { z with targets := z.targets.map fun t => if t.pos = p then { t with rebuilt := true } else t }) s
  | .migrated n p m g =>
    let old := (s.arr.zones.find? fun z => decide (z.1 = n)).map fun z => z.2.targets.filter fun t => decide (t.pos = p)
    let was := (s.arr.zones.find? fun z => decide (z.1 = n)).map Prod.snd
    let t := (old.getD []).foldl (fun t x => extentFree x.member t) (zonePut n (fun z => { z with
      place := z.place.set p (m, g)
      targets := z.targets.filter fun t => decide (t.pos ≠ p) }) s)
    let gone (z : Zone) : List Nat := ((old.getD []).map fun t => t.member).filter fun x => !(z.place.any fun h => decide (h.1 = x))
    ((was.map fun z => migrateExtent m n z.w z.conv (dropMembers n (gone z) t))).getD t
  | .switched n z l =>
    let old := (s.arr.zones.find? fun y => decide (y.1 = n)).map fun y => y.2.targets
    let t := (old.getD []).foldl (fun t x => extentFree x.member t) (zonePut n (fun _ => z) s)
    let fresh (b : Nat × Block) : Nat × Block := if b.1 / 65536 = n then (b.1, { b.2 with logged := false }) else b
    let t := { t with arr := { t.arr with
      skipped := t.arr.skipped.filter fun x => decide (x.zone ≠ n)
      blocks := t.arr.blocks.map fresh } }
    let t := switchExtents n z.w z.conv z.degraded (z.place.map Prod.fst) t
    let t := match l with
      | some k => unlock k t
      | none => t
    reshapeStep n t

/-- Every change whose entry is durable takes effect. -/
def applyCommits (s : State) : State :=
  let due := s.arr.commits.filter fun x => seqDurable s.spe x.1
  due.foldl (fun t x => applyCommit x.2 t)
    { s with arr := { s.arr with commits := s.arr.commits.filter fun x => !seqDurable s.spe x.1 } }

/-- Vendor commands whose entry is durable complete (R373). -/
def settleWaits (s : State) : State :=
  let due := s.host.jrnlWait.filter fun x => seqDurable s.spe x.2.2.1
  due.foldl (fun t x => complete x.1 x.2.1 .success x.2.2.2 0 [] t)
    { s with host := { s.host with jrnlWait := s.host.jrnlWait.filter fun x => !seqDurable s.spe x.2.2.1 } }

/-- A group's durability after the replicas have changed. -/
def settleJournal (s : State) : State := settleWaits (applyCommits (settleGroups s.spe.groups.length s))

/-- The lane that will write the next group is ready (R254, R256, R316): the group is closed, filled with PAD, and issued. -/
def groupIssue (s : State) : State :=
  let p := s.spe
  if speOn s = false ∨ p.stalled ∨ s.sys.plActive ∨ s.flt.warm ∨ currentCount p = 0 then s
  else
    match p.groups with
    | [] => s
    | g :: t =>
      if g.issued then s
      else
        let s := if g.closed ∨ t ≠ [] then s else padGroup (64 - g.entries.length) s
        match s.spe.groups with
        | g :: t => { s with spe := { s.spe with groups := { g with closed := true, issued := true } :: t } }
        | [] => s

/-- JRNL_GROUP_ISSUE (R254). -/
def execJrnlGroupIssue (s : State) : Host.Outcome State Fault Refusal := act s groupIssue

/-- A group buffer is written on a replica (R254, R270). -/
def groupAck (replica buf : Nat) (s : State) : State :=
  match s.spe.groups with
  | g :: t =>
    if g.issued ∧ g.buf = buf ∧ replica < 3 then
      settleJournal { s with spe := { s.spe with groups := { g with held := setBit g.held replica } :: t } }
    else s
  | [] => s

/-- The payload in a staging slot (log entry 51). -/
def stagePayload (s : State) (slot : Nat) : Nat :=
  (List.range 11).foldl (fun v i => v + (speReg s.spe (0x100 + 64 * slot + 4 * i)).toNat * 2 ^ (32 * i)) 0

/-- A write to SPE_JRNL_APPEND (R254); a type the journal does not write, a slot that does not exist, or a disabled engine is refused. -/
def jrnlAppendWrite (w : Word) (s : State) : State :=
  let t := fld w 7 0
  let slot := fld w 15 8
  if jTypes.contains t = false ∨ 4 ≤ slot ∨ speOn s = false then speEvent 8 s else jAppend t (stagePayload s slot) s

/-- JRNL_APPEND (R254). -/
def execJrnlAppend (w : Word) (s : State) : Host.Outcome State Fault Refusal := act s (jrnlAppendWrite w)

/-! ### Replicas (R255) -/

/-- A member's units cannot be reached: its actuator has no lane, is unavailable or being reloaded, its tables are lost, its head has
no usable reader, or it is absent (R37, R62, R180, R277, R308). -/
def unreachable (s : State) (m : Fin 24) : Bool :=
  let a := s.arr.avail.toList.getD (m.val / 6) .reset
  laneless s (m.val / 6) || a.unavailable || a.reloading || s.arr.member[m].tablesLost || s.arr.member[m].noReader ||
    s.arr.absent.getLsbD m.val

/-- A member is eligible as a journal replica (R255). -/
def replicaEligible (s : State) (m : Fin 24) : Bool := decide (s.arr.member[m].state = .active) && !unreachable s m

/-- Members that are current replicas. -/
def currentMembers (p : Spe) : List Nat := (p.replica.toList.filter fun r => r.current).map fun r => r.member

/-- The member that takes a free replica place: the lowest-numbered eligible one of an actuator without a replica, else a different
member of an actuator that has one (R255). -/
def nextReplica (s : State) (used : List Nat) : Option (Fin 24) :=
  let ok (m : Fin 24) : Bool := replicaEligible s m && !used.contains m.val
  ((List.finRange 24).find? fun m => ok m && used.all fun u => decide (u / 6 ≠ m.val / 6)).orElse fun _ =>
    (List.finRange 24).find? ok

/-- A REPLICA entry: the three members and the fill's start seq (R253). -/
def replicaEntry (s : State) : State :=
  let m (i : Fin 3) : Nat := s.spe.replica[i].member
  jAppend 0x41 (packFields [(8, m 0), (8, m 1), (8, m 2), (64, (s.spe.live.head?.map fun e => e.seq).getD s.spe.next)]) s

/-- A fill starts in place i, where a member can be found; its REPLICA entry comes first while a replica is current, and after the fill with
none. -/
def startFill (i : Fin 3) (s : State) : State :=
  match nextReplica s (currentMembers s.spe) with
  | some m =>
    let t := { s with spe := { s.spe with replica := s.spe.replica.set i { member := m.val, current := false }, fill := some i } }
    if currentCount s.spe = 0 then t else replicaEntry t
  | none => s

/-- The groups that waited without a replica have been written by the fill of replica i (R255). -/
def fillGroups (i : Fin 3) (s : State) : State :=
  let open_ := (s.spe.groups.getLast?.bind fun g => if g.closed then none else some (64 - g.entries.length)).getD 0
  let s := padGroup open_ s
  { s with spe := { s.spe with groups := s.spe.groups.map fun g => { g with closed := true, issued := true, held := setBit g.held i.val } } }

/-- Held writes wait for the REPLICA entry of a resumption (R255). -/
def resumeWaits (p : Spe) : Bool := (p.resume.map fun q => !seqDurable p q).getD false

/-- Replica i leaves the current set, and a new member is chosen and filled (R255). -/
def replicaLost (i : Fin 3) (s : State) : State :=
  let r := s.spe.replica[i]
  if r.current = false ∧ s.spe.fill ≠ some i then s
  else
    let s := { s with spe := { s.spe with
      replica := s.spe.replica.set i { r with current := false }
      fill := if s.spe.fill = some i then none else s.spe.fill } }
    let s := if r.current then speEvent 2 s else s
    let s := settleJournal s
    if s.spe.fill.isSome then s else startFill i s

/-- REPLICA_REPLACE (R255): a replica stops being eligible, or its journal write fails at rung 3. -/
def execReplicaReplace (i : Fin 3) (s : State) : Host.Outcome State Fault Refusal := act s (replicaLost i)

/-- A place without a current replica. -/
def freePlace (p : Spe) : Option (Fin 3) := (List.finRange 3).find? fun i => !p.replica[i].current

/-- The fill is durable: the new replica joins the current set (R255), and a place still free starts its own fill. -/
def fillDone (s : State) : State :=
  match s.spe.fill with
  | none => s
  | some i =>
    let resumes := decide (currentCount s.spe = 0)
    let s := { s with spe := { s.spe with replica := s.spe.replica.set i { s.spe.replica[i] with current := true }, fill := none } }
    let s := settleJournal (speEvent 3 (if resumes then fillGroups i s else s))
    let s := if resumes then replicaEntry { s with spe := { s.spe with resume := some s.spe.next } } else s
    match freePlace s.spe with
    | some j => startFill j s
    | none => s

/-- Replication resumes as soon as a member is eligible again (R255). -/
def replicaRetry (s : State) : State :=
  if s.spe.fill.isSome ∨ speOn s = false then s
  else
    match freePlace s.spe with
    | some j => startFill j s
    | none => s

/-! ### Checkpoints (R256, R313) -/

/-- Every read-modify-write not yet done is appended again (R256). -/
def reappend (rs : List Rmw) (s : State) : State :=
  match rs with
  | [] => s
  | r :: t =>
    reappend t (jAppend 0x20 (packFields [(32, r.zone), (16, r.row), (8, r.unit), (8, r.first), (8, r.count), (8, (r.record.map Prod.fst).getD 0),
      (32, (r.record.map Prod.snd).getD 0xFFFFFFFF)]) s)

/-- The pages of the bitmap, 4 KiB each, that the entries of the live tail have changed (R256, R258). -/
def changedPages (p : Spe) : Nat :=
  ((p.live.filter fun e => decide (e.typ = 1 ∨ e.typ = 2)).flatMap fun e => (payloadRegions 11 e.payload).map fun r => r / 32768).eraseDups.length

/-- A checkpoint that completes: RMW_BEGINs again, and CKPT, from which the live tail starts (R256). -/
def checkpoint (s : State) : State :=
  let pages := changedPages s.spe
  let s := reappend s.spe.rmw s
  let seq := s.spe.next
  let oldest := (s.spe.rmw.foldl (fun m r => min m r.seq) seq)
  let s := { s with spe := { s.spe with rmw := s.spe.rmw.map fun r => { r with seq := min r.seq seq } } }
  let s := jAppend 0x40 (packFields [(32, s.arr.version), (32, pages), (64, oldest)]) s
  speEvent 1 { s with spe := { s.spe with
    live := s.spe.live.filter fun e => decide (seq ≤ e.seq)
    ckptBusy := false
    stalled := false
    ckptAt := s.sys.ms
    ckptSeq := seq } }

/-- A checkpoint is due: entries or seconds since the last one (R256). -/
def checkpointDue (s : State) : Bool :=
  let c := speReg s.spe 0x14
  decide (256 * fld c 15 0 ≤ s.spe.live.length) || decide (1000 * fld c 23 16 ≤ s.sys.ms - s.spe.ckptAt) || s.spe.ckptBusy

/-- The SPE starts a checkpoint and writes the changed pages (R256): one that cannot complete stalls new groups. -/
def checkpointRun (done : Bool) (s : State) : State :=
  if speOn s = false ∨ s.sys.plActive ∨ checkpointDue s = false then s
  else if done ∧ currentCount s.spe ≠ 0 ∧ s.spn.hold = false then checkpoint s
  else
    let first := !s.spe.stalled
    let s := { s with spe := { s.spe with ckptBusy := true, stalled := true } }
    if first then speEvent 4 s else s

/-- CHECKPOINT (R256). -/
def execCheckpoint (done : Bool) (s : State) : Host.Outcome State Fault Refusal := act s (checkpointRun done)

/-! ### The bitmap (R258) -/

/-- The region of block b of host zone n (R258). -/
def regionOf (zone b : Nat) : Nat := 64 * zone + b / 1024

def isDirty (p : Spe) (r : Nat) : Bool := p.dirty.any fun d => decide (d.region = r)

/-- A write touches a region: its bit is set by BIT_SET where it is clear (R258). -/
def touchRegion (r : Nat) (s : State) : State :=
  if isDirty s.spe r then
    { s with spe := { s.spe with dirty := s.spe.dirty.map fun d => if d.region = r then { d with touched := s.sys.ms } else d } }
  else jAppend 1 (packFields ((32, r) :: List.replicate 10 (32, 0xFFFFFFFF))) s

/-- The BIT_SET entry of a region is durable (R258). -/
def regionSet (p : Spe) (r : Nat) : Bool := p.dirty.any fun d => decide (d.region = r) && seqDurable p d.seq

/-- Row `row` of a host zone of w members overlaps a region. -/
def rowInRegion (s : State) (zone row r : Nat) : Bool :=
  let d := 16 * (((s.arr.zones.find? fun z => decide (z.1 = zone)).map fun z => z.2.w).getD 4 - 2)
  decide (zone = r / 64 ∧ row * d < 1024 * (r % 64 + 1) ∧ 1024 * (r % 64) < (row + 1) * d)

/-- A region can be cleared (R258): no row or read-modify-write that overlaps it is open, every block of those rows is durable. -/
def regionQuiet (s : State) (r : Nat) : Bool :=
  (s.spe.rows.all fun o => !rowInRegion s o.zone o.row r) && (s.spe.rmw.all fun o => !rowInRegion s o.zone o.row r) &&
    s.arr.blocks.all fun b =>
      let d := 16 * (((s.arr.zones.find? fun z => decide (z.1 = b.1 / 65536)).map fun z => z.2.w).getD 4 - 2)
      !rowInRegion s (b.1 / 65536) (b.1 % 65536 / d) r || b.2.durable

/-- A region durable and without a write for clr_dly gets a BIT_CLEAR (R258). -/
def bitClearDelay (r : Nat) (s : State) : State :=
  let dly := 100 * fld (speReg s.spe 0x14) 31 24
  let due := s.spe.dirty.any fun d => decide (d.region = r ∧ d.touched + dly ≤ s.sys.ms)
  if speOn s ∧ due ∧ regionQuiet s r then jAppend 2 (packFields ((32, r) :: List.replicate 10 (32, 0xFFFFFFFF))) s else s

/-- BIT_CLEAR_DELAY (R258). -/
def execBitClearDelay (r : Nat) (s : State) : Host.Outcome State Fault Refusal := act s (bitClearDelay r)

end Sys2Proof.Machine
end

