-- ==== Sys2Proof/Machine/HostOps.lean ====
section
/-!
DEFINITION. What the host commands share: features, completions, asynchronous events, fetch, the protected window
(R317, R330 to R332, R339 to R341, R354 to R363, R377, R382).
-/
namespace Sys2Proof.Machine
open Sys2Proof

/-- Bit b of HIF_EVENT and its source (R486). -/
def hifEvent (b : Nat) (s : State) : State :=
  raise (136 + b) { s with hif := { s.hif with regs := regSet hifRows s.hif.regs 8 (hifReg s.hif 8 ||| bitAt true b) } }

/-! ### Fetch (R316, R330, R331, R354, R359, R366, R369) -/

/-- HIF stops or starts fetching on both controllers: HIF_CTL bit 0 (R369, R486). -/
def fetchHold (on : Bool) (s : State) : State :=
  { s with hif := { s.hif with regs := regSet hifRows s.hif.regs 0 (putBit (hifReg s.hif 0) 0 on) } }

/-- The device stands where a controller runs: not in POST before an image is selected, not dark. -/
def hostUp (s : State) : Bool := decide (s.sys.phase ≠ .dark ∧ s.sys.phase ≠ .post) && !s.sys.plActive

/-- The management endpoint is served: resident firmware runs, or the boot ROM in the safe state (R347). -/
def miUp (s : State) : Bool := decide (s.sys.phase ≠ .dark ∧ s.sys.phase ≠ .post) && !s.sys.plActive

/-- HIF fetches from controller c now; c = 2 is the management endpoint, which needs no controller (R347). -/
def fetchOk (s : State) (c : Nat) (io : Bool) : Bool :=
  if h : c < 2 then
    let v := s.hif.ctl[c]
    hostUp s && v.en && decide (v.role ≠ .none) && (!io || decide (v.role = .attached)) && !s.flt.warm &&
      !bitOf (hifReg s.hif 0) 0 && decide (s.hif.locks.length < 8192) && decide (v.shst = 0)
  else !io && miUp s && !s.host.mi.paused

/-- A fetched command that has not started: of this controller, opcode and range. -/
def fetchedAs (c : Nat) (admin : Bool) (opcode ns first count : Nat) (f : Fetched) : Bool :=
  decide (f.ctl = c ∧ f.cmd.admin = admin ∧ f.cmd.opcode.val = opcode) &&
    (admin || decide (f.cmd.ns = ns ∧ f.cmd.first = first ∧ f.cmd.count = count))

/-- A command may start: HIF fetches it now, or has fetched it before fetch stopped (R311, R354). -/
def startOk (s : State) (c : Nat) (admin : Bool) (opcode ns first count : Nat) : Bool :=
  fetchOk s c (!admin) || (!s.sys.plActive && !s.flt.warm && s.hif.fetched.any (fetchedAs c admin opcode ns first count))

/-- The command's fetch sequence (R354): the one COMMAND_FETCH gave it, or the next (log entry 50). -/
def takeNumber (c : Nat) (admin : Bool) (opcode ns first count : Nat) (s : State) : Nat × State :=
  match s.hif.fetched.find? (fetchedAs c admin opcode ns first count) with
  | some f => (f.fseq, { s with hif := { s.hif with fetched := s.hif.fetched.filter fun x => decide (x.fseq ≠ f.fseq) } })
  | none => (s.hif.fseq, { s with hif := { s.hif with fseq := s.hif.fseq + 1 } })

/-- Admin opcodes a standby controller serves (R331). -/
def standbyServes (opcode : Nat) : Bool := [0x06, 0x02, 0x0A, 0x0C, 0x08, 0x01, 0x05, 0x00, 0x04].contains opcode

/-- Admin opcodes the minimal controller of the safe state serves (R302, R347). -/
def safeServes (c opcode : Nat) : Bool :=
  if c < 2 then [0x06, 0x02, 0x09, 0x0A, 0x01, 0x05, 0x00, 0x04, 0x08, 0x0C, 0x11, 0x10].contains opcode
  else [0x06, 0x02, 0x11, 0x10].contains opcode

/-- Admin opcodes that may be tunnelled through NVMe-MI (R347). -/
def tunnelServes (opcode : Nat) : Bool :=
  [0x06, 0x02, 0x0A, 0x09, 0x11, 0x10, 0x14, 0x80, 0x84, 0x81, 0x82, 0xC2, 0xC6].contains opcode

/-- An admin command of source c is fetched and run (R302, R331, R347): what it may not do completes with the status the source gets;
`serve` says whether a standby controller serves it. -/
def adminServe (c opcode : Nat) (serve : Bool) (f : Nat → State → State) (s : State) : State :=
  if startOk s c true opcode 0 0 0 = false then s
  else
    let (n, s) := takeNumber c true opcode 0 0 0 s
    if s.sys.phase = .safe ∧ safeServes c opcode = false then complete c n .invalidOpcode 0 0 [] s
    else if h : c < 2 then
      if s.hif.ctl[c].role = .standby ∧ serve = false then complete c n .operationDenied 0 0 [] s else f n s
    else if tunnelServes opcode = false then complete c n .invalidOpcode 0 0 [] s
    else f n s

/-- An admin command whose opcode alone decides whether a standby controller serves it. -/
def adminRun (c opcode : Nat) (f : Nat → State → State) (s : State) : State := adminServe c opcode (standbyServes opcode) f s

/-! ### The protected window (R317, R363) -/

/-- Every actuator that has a lane and an engine follows on bank A (R309). -/
def headsReady (s : State) : Bool :=
  (List.finRange 5).all fun e => let v : Srv := s.srv.get e
    decide (4 ≤ srvBind s.flt e.val) || laneless s (srvBind s.flt e.val) || (decide (v.state = .follow) && !v.bankB)

/-- Lanes whose actuator is loaded. -/
def loadedLanes (s : State) : Nat :=
  ((List.finRange 5).filter fun l => ((laneAct s.flt l).map fun a => loaded s a.val).getD false).length

/-- The effective window in blocks (R317, R432). -/
def window (s : State) : Nat :=
  let w := min (256 * (feature s 0xC3 % 256)) (700 * loadedLanes s)
  if s.flt.rldFailed ≠ 0 then min w 2048 else w

/-- The effective window is not what it was: the Surface State log reports it, with the condition of R439 (R317; log entry 131). -/
def windowNote (before : Nat) (s : State) : State :=
  if window s = before then s else noteChange (stcCond 0x70 0 (BitVec.ofNat 32 (window s)) s)

/-- A command under which heads may load or unload, or lose their lane: a change of the effective window is reported (R317). -/
def actWindow (s : State) (f : State → State) : Host.Outcome State Fault Refusal := act s fun s => windowNote (window s) (f s)

/-- U: acknowledged blocks that are not durable (R363). -/
def unprotected (s : State) : Nat := (s.arr.blocks.filter fun b => b.2.acked && !b.2.durable).length

/-- The hold limit of a command in ms (R362). -/
def holdLimit (s : State) (io : IoCmd) : Nat := if feature s 5 % 65536 ≠ 0 ∧ io.limitedRetry then 100 * (feature s 5 % 65536) else 10000

end Sys2Proof.Machine
end

