-- ==== Sys2Proof/Machine/Array.lean ====
section
/-!
DEFINITION. The array: layouts and translation, placement, what is missing, Lost Stripe records, fences and rebuild targets
(R244 to R251, R264 to R266, R272 to R279, R284 to R286).
-/
namespace Sys2Proof.Machine
open Sys2Proof

/-! ### Layouts and translation (R245, R248, R249) -/

/-- Data units of a row. -/
def dataUnits (w : Nat) : Nat := w - 2

/-- Capacity of a host zone in blocks (R249). -/
def zoneCapacity (w : Nat) : Nat := 16 * dataUnits w * (4096 / dataUnits w)

/-- The heads fitted on each actuator, and the actuators fitted (R62). -/
def headsOn (s : State) (a : Nat) : Nat := ((List.range 6).filter fun h => !s.arr.absent.getLsbD (6 * a + h)).length
def actuatorsFitted (s : State) : Nat := ((List.range 4).filter fun a => decide (headsOn s a ≠ 0)).length
def headsPerActuator (s : State) : Nat := ((List.range 4).map fun a => headsOn s a).foldl max 0

/-- A layout is valid (R245). -/
def layoutValid (s : State) (w c : Nat) : Bool :=
  decide (4 ≤ w ∧ w ≤ 24 ∧ 1 ≤ c ∧ c ≤ 6 ∧ w ≤ c * actuatorsFitted s ∧ c ≤ headsPerActuator s)

/-- Stripe positions of row r (R248): P, Q and data unit j. -/
def posP (w r : Nat) : Nat := w - 1 - r % w
def posQ (w r : Nat) : Nat := (posP w r + 1) % w
def posD (w r j : Nat) : Nat := (posP w r + 2 + j) % w

/-- Row, data unit, and block within the unit, of block b of a zone (R248). -/
def rowOf (w b : Nat) : Nat := b / (16 * dataUnits w)
def unitIn (w b : Nat) : Nat := b % (16 * dataUnits w) / 16
def blockIn (b : Nat) : Nat := b % 16

/-- The stripe position of block b. -/
def posOf (w b : Nat) : Nat := posD w (rowOf w b) (unitIn w b)

/-! ### Zones and members -/

def zoneGet (s : State) (n : Nat) : Option Zone := (s.arr.zones.find? fun z => decide (z.1 = n)).map Prod.snd
def setZone (n : Nat) (z : Zone) (s : State) : State := { s with arr := { s.arr with zones := keyPut s.arr.zones n z } }
def setMember (m : Fin 24) (v : Member) (s : State) : State := { s with arr := { s.arr with member := s.arr.member.set m v } }

/-- A member by its number. -/
def memberAt (s : State) (m : Nat) : Member := s.arr.member.toList.getD m .factory

/-- A member is unreachable, by number. -/
def unreachableAt (s : State) (m : Nat) : Bool := if h : m < 24 then unreachable s ⟨m, h⟩ else true

/-- A fenced member's rebuild target set exists: some zone has a target for its current fence (R247). -/
def hasTargets (s : State) (m : Nat) : Bool :=
  s.arr.zones.any fun z => z.2.targets.any fun t => decide (t.fenced = m ∧ t.fgen = (memberAt s m).gen)

/-- A member is eligible for placement (R247). -/
def placeEligible (s : State) (m : Nat) : Bool :=
  decide ((memberAt s m).state = .active) || (decide ((memberAt s m).state = .fenced) && hasTargets s m)

/-- The walk of R247 over s = k to 23. -/
def placeWalk (s : State) (n w cap k fuel : Nat) (taken : List Nat) : Option (List Nat) :=
  match fuel with
  | 0 => none
  | fuel + 1 =>
    let a := (k + n) % 4
    let h := (k / 4 + n / 4) % 6
    let m := 6 * a + h
    if s.arr.absent.getLsbD m ∨ placeEligible s m = false ∨ (taken.filter fun x => decide (x / 6 = a)).length = cap then
      placeWalk s n w cap (k + 1) fuel taken
    else if (taken ++ [m]).length = w then some (taken ++ [m])
    else placeWalk s n w cap (k + 1) fuel (taken ++ [m])

/-- The members of host zone n in stripe order, or none where placement is refused (R247). -/
def placement (s : State) (n w cap : Nat) : Option (List Nat) := placeWalk s n w cap 0 24 []

/-! ### What is missing (R251, R264, R274, R281, R510) -/

/-- The member that holds position p now, with the generation its extent records (R274, R281). -/
def holder (z : Zone) (p : Nat) : Option (Nat × Nat) :=
  match z.targets.find? fun t => decide (t.pos = p) && t.rebuilt with
  | some t => some (t.member, t.gen)
  | none => z.place[p]?

/-- Position p has no copy that counts: its extent is frogged, or its member is not read (R272, R274). -/
def posGone (s : State) (z : Zone) (p : Nat) : Bool :=
  match holder z p with
  | some (m, g) =>
    let v := memberAt s m
    decide (v.gen ≠ g) || !decide (v.state = .active ∨ v.state = .suspect ∨ v.state = .spare)
  | none => true

/-- Position p's member cannot be reached (R37, R277, R308, R510). -/
def posUnreachable (s : State) (z : Zone) (p : Nat) : Bool :=
  match holder z p with
  | some (m, _) => unreachableAt s m
  | none => false

/-- A member is under calibration (R266). -/
def calibrating (s : State) (m : Nat) : Bool := bitOf (speReg s.spe 0x48) 7 && decide (fld (speReg s.spe 0x48) 4 0 = m)

def posCalibrating (s : State) (z : Zone) (p : Nat) : Bool :=
  match holder z p with
  | some (m, _) => calibrating s m
  | none => false

/-- The unit at position p of a row was skipped at offset k (R510). -/
def posSkipped (s : State) (n r p k : Nat) : Bool :=
  s.arr.skipped.any fun x => decide (x.zone = n ∧ x.row = r ∧ x.pos = p) && x.offsets.getLsbD k

/-- The unit at position p is missing at offset k of row r (R251). -/
def posMissing (s : State) (n : Nat) (z : Zone) (r p k : Nat) : Bool :=
  posGone s z p || posUnreachable s z p || posCalibrating s z p || posSkipped s n r p k

/-- A unit that a reconstruction does without: missing, or of a member that SPE_ABSENT names (R251, R270). -/
def posOut (s : State) (n : Nat) (z : Zone) (r p k : Nat) : Bool :=
  posMissing s n z r p k || ((holder z p).map fun h => (speReg s.spe 0x44).getLsbD h.1).getD false

/-- Units missing at offset k of row r. -/
def missingAt (s : State) (n : Nat) (z : Zone) (r k : Nat) : Nat :=
  ((List.range z.w).filter fun p => posOut s n z r p k).length

/-- Positions of a row that cannot be written (R261, R510): unreachable, or fenced with no target yet. -/
def posTarget (z : Zone) (p : Nat) : Option Target := z.targets.find? fun t => decide (t.pos = p)

def posUnwritable (s : State) (z : Zone) (p : Nat) : Bool := !posGone s z p && posUnreachable s z p

/-! ### Lost Stripe records (R285, R286) -/

/-- A record covers offset k of row r of zone n at position p. -/
def lostAt (s : State) (n r k p : Nat) : Bool :=
  s.arr.lost.any fun x => decide (x.zone = n ∧ (x.row = r ∨ x.row = 0xFFFF)) && x.offsets.getLsbD k && x.positions.getLsbD p

/-- The zone with the most records, of those that have any. -/
def mostLost (xs : List Lost) : Nat :=
  (xs.foldl (fun (b : Nat × Nat) x =>
    let c := (xs.filter fun y => decide (y.zone = x.zone)).length
    if b.2 < c then (x.zone, c) else b) (0, 0)).1

/-- The records of a zone merged into one of row 0xFFFF (R285). -/
def mergeLost (n : Nat) (xs : List Lost) : List Lost :=
  match xs.filter fun x => decide (x.zone = n) with
  | [] => xs
  | y :: t =>
    let u := t.foldl (fun (m : BitVec 24) x => m ||| x.positions) y.positions
    (xs.filter fun x => decide (x.zone ≠ n)) ++ [{ y with row := 0xFFFF, offsets := 0xFFFF, positions := u }]

/-- A Lost Stripe record is added (R285): the list merges when it is full, LOST_ADD is appended, and the hosts are told. -/
def addLost (x : Lost) (s : State) : State :=
  if s.arr.lost.any fun y => decide (y.zone = x.zone ∧ (y.row = x.row ∨ y.row = 0xFFFF)) &&
      decide (x.offsets &&& ~~~ y.offsets = 0 ∧ x.positions &&& ~~~ y.positions = 0) then s
  else
    let a := s.arr
    let a := if 65536 ≤ a.lost.length then { a with lost := mergeLost (mostLost a.lost) a.lost, lostMerges := a.lostMerges + 1 } else a
    let s := { s with arr := { a with lost := a.lost ++ [x] } }
    vendorEvent 0xC1 (noteChange (zmap x.zone 0x26
      [(32, x.poh), (4, 0), (4, x.cause), (24, x.positions.toNat), (16, x.offsets.toNat), (16, x.row), (32, x.zone)] s))

/-- The positions missing at offset k of row r as a mask. -/
def missingMask (s : State) (n : Nat) (z : Zone) (r k : Nat) : BitVec 24 :=
  (List.range z.w).foldl (fun (m : BitVec 24) p => if posMissing s n z r p k then setBit m p else m) 0

/-- A dropped stitch at one offset of a row (R284, R285): its record with a cause, which is the fences where they alone leave three units missing
(log entry 152); further positions are added to the missing ones. -/
def dropStitch (n r k cause : Nat) (more : BitVec 24) (s : State) : State :=
  match zoneGet s n with
  | some z => addLost { zone := n, row := r, offsets := setBit 0 k, positions := missingMask s n z r k ||| more,
                        cause := if 3 ≤ ((List.range z.w).filter fun p => posGone s z p).length then 1 else cause,
                        poh := s.stc.pos % 2 ^ 32 } s
  | none => s

/-- Every record of a zone goes (R286). -/
def dropLost (n : Nat) (s : State) : State :=
  if s.arr.lost.any fun x => decide (x.zone = n) then
    noteChange (zmap n 0x27 [(32, n), (16, 0xFFFF), (16, 0xFFFF), (24, 0xFFFFFF)]
      { s with arr := { s.arr with lost := s.arr.lost.filter fun x => decide (x.zone ≠ n) } })
  else s

/-- A covered block of a conventional zone has been rewritten (R286): its position leaves the records of its offset; a record without
data positions goes. -/
def lostRewritten (n r k p : Nat) (s : State) : State :=
  if lostAt s n r k p then
    let fix (x : Lost) : Lost :=
      if x.zone = n ∧ x.row = r ∧ x.offsets.getLsbD k then { x with positions := clearBit x.positions p } else x
    let w := ((zoneGet s n).map fun z => z.w).getD 24
    let data (x : Lost) : Bool := (List.range w).any fun q => x.positions.getLsbD q && decide (q ≠ posP w x.row ∧ q ≠ posQ w x.row)
    zmap n 0x27 [(32, n), (16, r), (16, 2 ^ k), (24, 2 ^ p)]
      { s with arr := { s.arr with lost := (s.arr.lost.map fix).filter fun x => decide (x.zone ≠ n ∨ x.row ≠ r) || data x } }
  else s

/-! ### Member states and fences (R272 to R278) -/

def memberCode : MemberState → Nat
  | .active => 0 | .suspect => 1 | .fenced => 2 | .spare => 3 | .qualifying => 4 | .retired => 5

/-- The flags of a member that its record holds, at their bits of the Surface State log (R379; log entry 64). -/
def memberFlags (v : Member) : Nat :=
  (if v.returned then 1 else 0) + (if v.withheld then 2 else 0) + (if v.tablesLost then 16 else 0) + (if v.standing then 64 else 0)

/-- A member changes state through a MEMBER_STATE entry (R272, R297), with its cause; 0 is none, and leaves the last trigger's (R379). -/
def memberChange (m : Fin 24) (st : MemberState) (gen cause : Nat) (s : State) : State :=
  let v := s.arr.member[m]
  let s := setMember m { v with state := st, gen := gen, cause := if cause = 0 then v.cause else cause, changedAt := s.stc.pos } s
  vendorEvent 0xC0 (noteChange (zmap 0 0x20
    [(8, m.val), (8, memberCode v.state), (8, memberCode st), (16, gen), (8, cause), (16, memberFlags v)] s))

/-- Position p's member is lane-less or on an unavailable actuator (R37, R276, R277). -/
def posAway (s : State) (z : Zone) (p : Nat) : Bool :=
  match holder z p with
  | some (m, _) => laneless s (m / 6) || (s.arr.avail.toList.getD (m / 6) .reset).unavailable
  | none => false

/-- The no-loss test for a set of members (R276): with them missing, no zone placed on one of them has more than two missing units. -/
def noLoss (s : State) (ms : List Nat) : Bool :=
  s.arr.zones.all fun z =>
    let on (p : Nat) : Bool := ((holder z.2 p).map fun h => ms.contains h.1 && decide ((memberAt s h.1).gen = h.2)).getD false
    let bad := (List.range z.2.place.length).filter fun p => posGone s z.2 p || posAway s z.2 p || on p
    !(List.range z.2.place.length).any on || decide (bad.length ≤ 2)

/-- The extents a member holds now become frogged (R274). -/
def frogsOf (s : State) (m : Nat) : List Frog :=
  let g := (memberAt s m).gen
  s.arr.zones.flatMap fun z => ((List.range z.2.place.length).filter fun p =>
    decide (z.2.place[p]? = some (m, g)) || z.2.targets.any fun t => decide (t.pos = p ∧ t.member = m ∧ t.gen = g)).map fun p =>
      { zone := z.1, pos := p, gen := g }

/-- A fence takes effect (R274, R278): the new generation, the frog map, the end of a calibration, the replica replaced; targets the
member held are lost (R283). -/
def fence (m : Fin 24) (cause : Nat) (s : State) : State :=
  let v := s.arr.member[m]
  let frogs := frogsOf s m.val
  let s := setMember m { v with returned := false, withheld := false, standing := false, probes := 0, swatched := false,
                                frog := v.frog ++ frogs } { s with arr := { s.arr with rowsDone := 0, rebuildAt := [] } }
  let s := if calibrating s m.val then
      { s with spe := { s.spe with regs := regSet speRows s.spe.regs 0x48 (clearBit (speReg s.spe 0x48) 7) } } else s
  let s := memberChange m .fenced ((v.gen + 1) % 65536) cause s
  let gone (z : Nat × Zone) : Nat × Zone := (z.1, { z.2 with targets := z.2.targets.filter fun t => decide (t.member ≠ m.val) })
  let s := { s with arr := { s.arr with
    zones := s.arr.zones.map gone
    fences := s.arr.fences ++ [(m.val, (v.gen + 1) % 65536)] } }
  match (List.finRange 3).find? fun i => decide (s.spe.replica[i].member = m.val) && (s.spe.replica[i].current || decide (s.spe.fill = some i)) with
  | some i => replicaLost i s
  | none => s

/-- A fence withheld (R276): SUSPECT, flagged, recorded. -/
def withhold (m : Fin 24) (cause : Nat) (s : State) : State :=
  let s := if s.arr.member[m].state = .active then memberChange m .suspect s.arr.member[m].gen cause s else s
  historyNote 3 m.val cause (noteChange (setMember m { s.arr.member[m] with withheld := true } s))

/-! ### Rebuild targets (R279) -/

/-- Units of a zone on an actuator, targets included. -/
def unitsOn (s : State) (z : Zone) (a : Nat) : Nat :=
  ((List.range z.place.length).filter fun p =>
    match posTarget z p with
    | some t => decide (t.member / 6 = a)
    | none => !posGone s z p && (((z.place[p]?).map fun h => decide (h.1 / 6 = a)).getD false)).length

/-- Free spare-band extents of a member. -/
def spareSet (m v : Nat) (s : State) : State :=
  if h : m < 24 then { s with arr := { s.arr with spareExtents := s.arr.spareExtents.set m v } } else s

/-- The tests of R279 for a target member but the last. -/
def targetOk (s : State) (z : Zone) (f m : Nat) : Bool :=
  decide (m ≠ f) && decide ((memberAt s m).state = .active ∨ (memberAt s m).state = .spare) &&
    decide (s.arr.spareExtents.toList.getD m 0 ≠ 0) && !(decide (z.c ≤ 2) && decide (unitsOn s z (m / 6) = z.c)) &&
    !s.arr.absent.getLsbD m

/-- A member holds a unit of the zone. -/
def inZone (z : Zone) (m : Nat) : Bool :=
  (z.place.any fun h => decide (h.1 = m)) || z.targets.any fun t => decide (t.member = m)

/-- The target member for position p of zone n, whose member f is fenced (R279): a standing spare first, then the walk. -/
def targetFor (s : State) (n : Nat) (z : Zone) (p f : Nat) : Option Nat :=
  let ms := (List.range 24).map fun k => (n + p + 5 * k) % 24
  let outside := ms.any fun m => targetOk s z f m && !inZone z m
  let ok (m : Nat) : Bool := targetOk s z f m && !(inZone z m && outside)
  ((List.range 24).find? fun m => (memberAt s m).standing && ok m).orElse fun _ => ms.find? ok

/-- The extent of a new target in a spare band, and its track and band as a TARGET entry carries them (R279, R297): free values where the spare
bands are not described (log entry 53). -/
def targetPlace (m n : Nat) (z : Zone) (s : State) : Nat × State :=
  let zone := ((s.media.extents.find? fun e => decide (e.hzone = n)).map fun e => e.place.zone).getD 0
  let fresh := (extentOf s.media m n).isNone
  let s := targetExtent m n z.w zone s
  let (v, s) := freeNext s
  match fresh, extentOf s.media m n with
  | true, some e =>
    let band := ((zoneOn s.media m e.place.zone).map fun y => (e.place.first - y.first) / bandTracks e.place.tracks y.guard).getD 0
    (e.place.first % 2 ^ 24 + band % 2 ^ 16 * 2 ^ 24, s)
  | _, _ => (v.toNat, s)

/-- Position p of zone n gets its target where one can be found; spare-low is raised otherwise (R279). -/
def assignTarget (n p : Nat) (s : State) : State :=
  match zoneGet s n with
  | none => s
  | some z =>
    match z.place[p]? with
    | none => s
    | some (f, _) =>
      if posGone s z p = false ∨ (posTarget z p).isSome then s
      else
        match targetFor s n z p f with
        | some m =>
          let t : Target := { pos := p, fenced := f, fgen := (memberAt s f).gen, member := m, gen := (memberAt s m).gen, rebuilt := false }
          let s := setZone n { z with targets := z.targets ++ [t] } s
          let s := spareSet m (s.arr.spareExtents.toList.getD m 0 - 1) s
          let s := if spareOut s m then vendorEvent 0xC0 (noteChange s) else s
          let (v, s) := targetPlace m n z s
          zmap n 0x21 [(32, n), (8, p), (8, f), (8, m), (40, v)] s
        | none => spareShort s

/-- Every fenced position of a zone gets a target on first need (R261, R279). -/
def assignTargets (n : Nat) (s : State) : State :=
  match zoneGet s n with
  | some z => (List.range z.place.length).foldl (fun t p => assignTarget n p t) s
  | none => s

/-- Some position of some zone awaits rebuild (R292, R474). -/
def rebuildActive (s : State) : Bool :=
  s.arr.zones.any fun z => (List.range z.2.place.length).any fun p => posGone s z.2 p && (posTarget z.2 p).isSome

/-- Extents of a zone are freed with its placement: spare-band extents of its targets return (R168). -/
def freeTargets (z : Zone) (s : State) : State := z.targets.foldl (fun t x => extentFree x.member t) s

/-- The zone is placed with the members eligible now (R244, R247). -/
def placeZone (n : Nat) (s : State) : Option State :=
  match zoneGet s n with
  | none => none
  | some z =>
    if z.place ≠ [] then some s
    else
      match placement s n z.w z.c with
      | some ms => some (assignTargets n (giveExtents n z.w z.conv ms (setZone n { z with place := ms.map fun m => (m, (memberAt s m).gen) } s)))
      | none => none

/-- A zone named by a reshape that is reset (R292): a deferred one, or the one being copied, is Empty in the new layout. -/
def reshapeReset (n : Nat) (s : State) : State :=
  match s.arr.reshape, zoneGet s n with
  | some r, some z =>
    let copied := ((r.copying.map Prod.fst) = some n : Bool)
    if s.arr.deferred.contains n ∨ copied then
      let s := if s.arr.deferred.contains n then zmap n 0x28 [(32, n), (8, 0)] s else s
      let s := if copied then unlock ((r.copying.map Prod.snd).getD 0) s else s
      setZone n { z with w := r.w, c := r.c } { s with arr := { s.arr with
        reshape := some { r with copying := if copied then none else r.copying }
        deferred := s.arr.deferred.filter fun x => decide (x ≠ n) } }
    else s
  | _, _ => s

/-- A zone's content is discarded, and its placement with it; its extents are reset (R155, R165, R244, R286, R365). -/
def clearZone (n : Nat) (s : State) : State :=
  match zoneGet s n with
  | none => s
  | some z =>
    let spare := (z.targets.map fun t => t.member).filter fun m => !(z.place.any fun h => decide (h.1 = m))
    let s := dropMembers n spare (resetExtents n (freeTargets z s))
    let s := setZone n { z with place := [], targets := [], wp := 0, st := .empty, degraded := false } s
    let s := { s with
      arr := { s.arr with
        blocks := s.arr.blocks.filter fun b => decide (b.1 / 65536 ≠ n)
        skipped := s.arr.skipped.filter fun x => decide (x.zone ≠ n)
        commits := s.arr.commits.filter fun x => match x.2 with
          | .rebuilt k _ | .migrated k _ _ _ | .switched k _ _ => decide (k ≠ n)
        deferred := s.arr.deferred.filter fun x => decide (x ≠ n) }
      spe := { s.spe with rows := s.spe.rows.filter fun o => decide (o.zone ≠ n), rmw := s.spe.rmw.filter fun o => decide (o.zone ≠ n) } }
    dropLost n s

end Sys2Proof.Machine
end

