-- ==== Sys2Proof/Machine/Io.lean ====
section
/-!
DEFINITION. Running host I/O commands: the range lock, translation, checks, reading and writing blocks, the window, zones
(R40, R42, R113 to R116, R244, R259 to R262, R264, R343 to R346, R350, R355 to R365).
-/
namespace Sys2Proof.Machine
open Sys2Proof

/-! ### Namespaces and addresses -/

def nsGet (s : State) (ns : Nat) : Option Namespace := (s.host.namespaces.find? fun x => decide (x.1 = ns)).map Prod.snd

/-- Blocks of one host zone as the namespace addresses them (R249, R343). -/
def zoneStride (v : Namespace) : Nat := if v.zoned then 65536 else zoneCapacity v.w

/-- Blocks of a namespace. -/
def nsBlocks (v : Namespace) : Nat := zoneStride v * v.zones.length

/-- The drive-wide zone and the block in it of an LBA (R249, R508). -/
def lbaZone (v : Namespace) (lba : Nat) : Option (Nat × Nat) := (v.zones[lba / zoneStride v]?).map fun n => (n, lba % zoneStride v)

def blockGet (s : State) (key : Nat) : Option Block := (s.arr.blocks.find? fun b => decide (b.1 = key)).map Prod.snd
def setBlock (key : Nat) (b : Block) (s : State) : State := { s with arr := { s.arr with blocks := keyPut s.arr.blocks key b } }

/-! ### The range lock (R355, R356) -/

def ioModifies (k : IoKind) : Bool :=
  match k with
  | .write | .writeZeroes | .append | .zoneOpen | .zoneClose | .zoneFinish | .zoneReset => true
  | _ => false

/-- Zone Management Send actions. -/
def ioZoneSend (k : IoKind) : Bool :=
  match k with
  | .zoneOpen | .zoneClose | .zoneFinish | .zoneReset => true
  | _ => false

/-- The LBAs a command's entry covers (R356): a zone command or a zone-mode digest the zone, Select All the namespace. -/
def ioRange (s : State) (io : IoCmd) : Nat × Nat :=
  match nsGet s io.ns with
  | none => (io.slba, io.slba)
  | some v =>
    let st := zoneStride v
    if ioZoneSend io.kind ∧ io.all then (0, nsBlocks v - 1)
    else if ioZoneSend io.kind ∨ io.kind = .append ∨ (io.kind = .fixity ∧ io.zoneMode) then (io.slba / st * st, io.slba / st * st + st - 1)
    else (io.slba, io.slba + io.nlb - 1)

/-- The entry conflicts with one of a lower fetch sequence (R355). -/
def conflicts (s : State) (l : Lock) : Bool :=
  s.hif.locks.any fun x => decide (x.ns = l.ns ∧ x.fseq < l.fseq ∧ x.first ≤ l.last ∧ l.first ≤ x.last) && (x.modify || l.modify)

def addLock (l : Lock) (s : State) : State :=
  { s with hif := { s.hif with locks := (s.hif.locks.filter fun x => decide (x.fseq ≠ l.fseq)) ++ [l] } }

def setFlight (f : InFlight) (s : State) : State :=
  let before := s.hif.flight.filter fun x => decide (x.fseq < f.fseq)
  let after := s.hif.flight.filter fun x => decide (f.fseq < x.fseq)
  { s with hif := { s.hif with flight := before ++ f :: after } }

/-! ### Checks (R343 to R346, R350, R360) -/

/-- The locking range of an LBA: one of ranges 1 to 15, or the Global Range (R348). -/
def opalRangeOf (s : State) (ns lba : Nat) : OpalRange :=
  ((s.host.opal.range.toList.drop 1).find? fun r => decide (r.ns = ns ∧ r.start ≤ lba ∧ lba < r.start + r.len)).getD s.host.opal.range[0]

/-- A block lies in a range locked for the access (R350). -/
def opalLocked (s : State) (io : IoCmd) : Bool :=
  let (a, b) := ioRange s io
  let hit (lba : Nat) : Bool :=
    let r := opalRangeOf s io.ns lba
    if ioModifies io.kind then r.wle && r.wl else r.rle && r.rl
  -- ranges begin and end at zone boundaries (R348), so one block of each zone decides
  hit a || hit b || (List.range ((b - a) / 65536)).any fun k => hit (a + 65536 * (k + 1))

/-- The zone of a command in a zoned namespace is a conventional one (R344). -/
def isConvZone (s : State) (n : Nat) : Bool := ((zoneGet s n).map fun z => z.conv).getD false

/-- Checks that need neither the zone's state nor the media (R342 to R345, R374, R375). -/
def ioField (s : State) (v : Namespace) (io : IoCmd) : Option Status :=
  let st := zoneStride v
  let limit := match io.kind with
    | .writeZeroes | .fixity => 65536
    | .salvage => 256
    | _ => 512
  if ioZoneSend io.kind then
    (if v.zoned = false then some .invalidOpcode
     else if io.all then none
     else if io.slba % st ≠ 0 ∨ nsBlocks v ≤ io.slba then some .invalidField
     else match lbaZone v io.slba with
       | some (n, _) => if isConvZone s n then some .invalidZoneOperation else none
       | none => some .invalidField)
  else if io.kind = .fixity ∧ io.zoneMode then
    (if v.zoned = false ∨ io.slba % st ≠ 0 ∨ nsBlocks v ≤ io.slba then some .invalidField else none)
  else if io.nlb = 0 ∨ limit < io.nlb then some .invalidField
  else if nsBlocks v < io.slba + io.nlb then some .lbaOutOfRange
  else if io.kind = .append ∧ v.zoned = false then some .invalidOpcode
  else if io.kind = .append ∧ io.slba % st ≠ 0 then some .invalidField
  else if io.kind = .append ∧ ((lbaZone v io.slba).map fun x => isConvZone s x.1) = some true then some .invalidZoneOperation
  else if v.zoned ∧ st < io.slba % st + io.nlb then some .zoneBoundary
  else
    match io.kind with
    | .write | .append | .compare => if io.data.length ≠ io.nlb then some .invalidField else none
    | _ => none

/-- The host-side protection information of one block (R346). -/
def piCheck (io : IoCmd) (lba : Nat) (b : HostBlock) : Option Status :=
  if io.pract then none
  else if b.guardOk = false then some .guardError
  else if b.refTag ≠ lba % 2 ^ 48 then some .refTagError
  else if io.checkApp ∧ b.app.val &&& io.lbatm.val ≠ io.lbat.val &&& io.lbatm.val then some .appTagError
  else none

def piChecks (io : IoCmd) (lba : Nat) (bs : List HostBlock) : Option Status :=
  match bs with
  | [] => none
  | b :: t => (piCheck io lba b).orElse fun _ => piChecks io (lba + 1) t

/-! ### Reading (R42, R264, R265, R286, R357) -/

/-- What a read gets of one block. -/
inductive BlockOut where
  | data (d : Nat)
  /-- never written, or below the zone's capacity without content -/
  | unwritten
  | lost
  | fenced
  /-- an actuator being reloaded holds it (R277, R362) -/
  | held
  deriving DecidableEq, Repr

/-- Some missing unit of the row at this offset is unreachable for good, or only while an actuator is reloaded (R277). -/
def reloadingOnly (s : State) (z : Zone) : Bool :=
  ((List.range z.w).filter fun p => posUnreachable s z p).all fun p =>
    ((holder z p).map fun h => (s.arr.avail.toList.getD (h.1 / 6) .reset).reloading).getD false

/-- A block at offset o of zone n, as the media show it: `extra` further units of its row fail at its offset (R264, R265). -/
def mediaRead (s : State) (n : Nat) (z : Zone) (o : Nat) (ownBad : Bool) (extra : Nat) (verified : Bool) (b : Block) : BlockOut :=
  let r := rowOf z.w o
  let p := posOf z.w o
  let k := blockIn o
  let gone := posMissing s n z r p k
  if lostAt s n r k p then (if posUnreachable s z p then .fenced else .lost)
  else if gone = false ∧ ownBad = false then .data b.data
  else
    let m := missingAt s n z r k + (if posOut s n z r p k then 0 else 1) + extra
    if m ≤ 2 ∧ verified then .data b.data
    else if (List.range z.w).any fun q => posUnreachable s z q then (if reloadingOnly s z then .held else .fenced)
    else .lost

/-- Block i of a command's range (R343, R357): acknowledged blocks that are not durable come from RLD. -/
def readBlock (s : State) (v : Namespace) (io : IoCmd) (i : Nat) : BlockOut :=
  match lbaZone v (io.slba + i) with
  | none => .unwritten
  | some (n, o) =>
    match zoneGet s n with
    | none => .unwritten
    | some z =>
      if zoneCapacity z.w ≤ o then .data 0
      else
        match blockGet s (65536 * n + o) with
        | none => .unwritten
        | some b =>
          if b.durable = false ∨ b.logged then .data b.data
          else mediaRead s n z o (io.find.bad.any fun x => decide (x.1 = i)) (keyGet io.find.bad i 0) (!io.find.unverified.contains i) b

/-- The data of a list of outcomes; open values are free (R360, log entry 54). -/
def outData (os : List BlockOut) (s : State) : List Nat × State :=
  match os with
  | [] => ([], s)
  | .data d :: t => let (ds, s) := outData t s; (d :: ds, s)
  | _ :: t =>
    let (x, s) := freeNext s
    let (ds, s) := outData t s
    (x.toNat :: ds, s)

/-- Block i of a command needs media now (R80, R362): it is not in RLD. -/
def blockMedia (s : State) (v : Namespace) (io : IoCmd) (i : Nat) : Bool :=
  match lbaZone v (io.slba + i) with
  | some (n, o) => ((blockGet s (65536 * n + o)).map fun b => b.durable && !b.logged).getD false
  | none => false

/-- The blocks a command reads need media now. -/
def needsMedia (s : State) (v : Namespace) (io : IoCmd) : Bool := (List.range io.nlb).any fun i => blockMedia s v io i

/-- A read that is held has transferred its blocks that RLD holds (R80). -/
def transferred (s : State) (v : Namespace) (f : InFlight) : List (Nat × Nat) :=
  (List.range f.io.nlb).filterMap fun i =>
    match f.got.find? fun x => decide (x.1 = i) with
    | some x => some x
    | none =>
      match blockMedia s v f.io i, readBlock s v f.io i with
      | false, .data d => some (i, d)
      | _, _ => none

/-- A Lost Stripe record for each block that a read could not recover (R265). -/
def recordLost (v : Namespace) (io : IoCmd) (is : List Nat) (s : State) : State :=
  is.foldl (fun t i =>
    match lbaZone v (io.slba + i) with
    | some (n, o) =>
      (match zoneGet t n with
       | some z => dropStitch n (rowOf z.w o) (blockIn o) 3 (BitVec.ofNat 24 (2 ^ posOf z.w o)) t
       | none => t)
    | none => t) s

/-- The status of block outcomes in the order of R360. -/
def outStatus (os : List BlockOut) : Status :=
  if os.contains .fenced then .memberFenced else if os.contains .lost then .lostStripe else .success

/-- One Error Information entry for a failing command (R360). -/
def noteError (fseq lba : Nat) (s : State) : State := { s with hif := { s.hif with errors := ((fseq, lba) :: s.hif.errors).take 64 } }

/-- The blocks of a zone-mode digest (R374). -/
def digestRange (s : State) (v : Namespace) (io : IoCmd) : IoCmd :=
  if io.kind = .fixity ∧ io.zoneMode then
    match lbaZone v io.slba with
    | some (n, _) => { io with nlb := ((zoneGet s n).map fun z => if z.conv then zoneCapacity z.w else z.wp).getD 0 }
    | none => { io with nlb := 0 }
  else io

/-- Read, Compare, Verify, Fixity Digest (R296, R357, R374): the command completes, or it is held (none). -/
def runRead (f : InFlight) (v : Namespace) (s : State) : Option State :=
  let io := digestRange s v f.io
  if s.spn.hold ∧ (List.range io.nlb).any (fun i => blockMedia s v io i && !f.got.any fun x => decide (x.1 = i)) then none
  else
    let os := (List.range io.nlb).map fun i =>
      match f.got.find? fun x => decide (x.1 = i) with
      | some x => .data x.2
      | none => readBlock s v io i
    if os.contains .held ∧ os.contains .fenced = false then none
    else
      let st := outStatus os
      let lost := (List.range io.nlb).filter fun i => decide (os[i]? = some .lost)
      let s := recordLost v io lost s
      let s := if st = .success then s
        else noteError f.fseq (io.slba + ((os.findIdx? fun o => decide (o = .lost ∨ o = .fenced)).getD 0)) s
      let (ds, s) := outData os s
      match io.kind with
      | .compare =>
        let same := (io.data.map fun b => b.data) = ds
        some (complete f.ctl f.fseq (if st ≠ .success then st else if same then .success else .compareFailure) 0 0 [] s)
      | .verify => some (complete f.ctl f.fseq st 0 0 [] s)
      | .fixity =>
        let d := (Config.digest io.sha3 ds).toNat + io.slba * 2 ^ 256 + io.nlb * 2 ^ 320 + (if io.sha3 then 2 ^ 384 else 0) +
          (if io.zoneMode then 2 ^ 392 else 0)
        some (complete f.ctl f.fseq st 0 0 (if st = .success then [d] else []) s)
      | _ => some (complete f.ctl f.fseq st 0 0 ds s)

/-- A Lost Stripe record covers block i of a command (R285). -/
def coveredBlock (s : State) (v : Namespace) (io : IoCmd) (i : Nat) : Bool :=
  match lbaZone v (io.slba + i) with
  | some (n, o) => ((zoneGet s n).map fun (z : Zone) => lostAt s n (rowOf z.w o) (blockIn o) (posOf z.w o)).getD false
  | none => false

/-- A Salvage Read needs media (R80, R289): for a block not in RLD, or a frogged copy of a covered one. -/
def salvageMedia (s : State) (v : Namespace) (io : IoCmd) : Bool :=
  (List.range io.nlb).any fun i => blockMedia s v io i || coveredBlock s v io i

/-- Salvage Read of block i (R289, R375): its data and its map entry. -/
def salvageBlock (s : State) (v : Namespace) (io : IoCmd) (i : Nat) : Nat × Nat × Status :=
  let covered := coveredBlock s v io i
  let frogs : Bool := match lbaZone v (io.slba + i) with
    | some (n, o) => ((zoneGet s n).map fun (z : Zone) => (List.finRange 24).any fun m =>
        (s.arr.member[m].frog.any fun g => decide (g.zone = n ∧ g.pos = posOf z.w o)) &&
          !(s.arr.avail.toList.getD (m.val / 6) .reset).unavailable && !decide (s.arr.member[m].state = .active ∨ s.arr.member[m].state = .suspect)).getD false
    | none => false
  let hit : Option (Nat × Nat) := io.find.salvaged.find? fun x => decide (x.1 = i)
  if covered then
    (match hit with
     | some x => if frogs ∧ v.meta16 then (x.2, 1, .success) else (0, 2, .salvageUnverified)
     | none => (0, 2, .salvageUnverified))
  else
    match readBlock s v io i with
    | .data d => (d, 0, .success)
    | .unwritten => (0, 0, .success)
    | .lost => (0, 2, .lostStripe)
    | .fenced => (0, 2, .memberFenced)
    | .held => (0, 2, .memberFenced)

/-- Salvage Read (R289, R375): the blocks, then the salvage map. -/
def runSalvage (f : InFlight) (v : Namespace) (s : State) : State :=
  let xs := (List.range f.io.nlb).map fun i => salvageBlock s v f.io i
  let sts := xs.map fun x => x.2.2
  let st : Status := if sts.contains .memberFenced then .memberFenced else if sts.contains .lostStripe then .lostStripe
    else if sts.contains .salvageUnverified then .salvageUnverified else .success
  let map := (xs.zip (List.range xs.length)).foldl (fun m x => m + x.1.2.1 * 4 ^ x.2) 0
  complete f.ctl f.fseq st 0 0 ((xs.map fun x => x.1) ++ [map]) s

/-! ### Zones and open resources (R343) -/

def zoneOpenState (z : Zone) : Bool := decide (z.st = .implicitOpen ∨ z.st = .explicitOpen)
def zoneActive (z : Zone) : Bool := zoneOpenState z || decide (z.st = .closed)
def openCountOf (s : State) : Nat := (s.arr.zones.filter fun z => !z.2.conv && zoneOpenState z.2).length
def activeCount (s : State) : Nat := (s.arr.zones.filter fun z => !z.2.conv && zoneActive z.2).length

/-- The Implicitly Open zone whose last write is the oldest (R343). -/
def oldestImplicit (s : State) : Option Nat :=
  (s.arr.zones.foldl (fun (b : Option (Nat × Nat)) z =>
    if z.2.conv ∨ z.2.st ≠ .implicitOpen then b
    else match b with
      | some (_, t) => if z.2.lastWrite < t then some (z.1, z.2.lastWrite) else b
      | none => some (z.1, z.2.lastWrite)) none).map Prod.fst

/-- A zone gets an open resource: the status that refuses it, or the state with room made by closing an Implicitly Open zone. -/
def makeRoom (z : Zone) (implicit : Bool) (s : State) : Status × State :=
  if zoneOpenState z then (.success, s)
  else if z.st = .empty ∧ 256 ≤ activeCount s then (.tooManyActive, s)
  else if openCountOf s < 128 then (.success, s)
  else if implicit = false then (.tooManyOpen, s)
  else
    match oldestImplicit s with
    | some n =>
      (match zoneGet s n with
       | some y => (.success, setZone n { y with st := .closed } s)
       | none => (.tooManyOpen, s))
    | none => (.tooManyOpen, s)

/-! ### Writing (R40, R113 to R116, R244, R259, R262, R346, R363, R510) -/

/-- Positions that keep a write of offset k of row r from being served (R510): unwritable positions with the other missing units. -/
def unservable (s : State) (n : Nat) (z : Zone) (r k : Nat) : Bool :=
  let bad := (List.range z.w).filter fun p => posMissing s n z r p k
  decide (2 < bad.length) && bad.any fun p => posUnwritable s z p

/-- The recording zone of a member's extent of host zone n (R145). -/
def memberZone (s : State) (m n : Nat) : Option ZoneDesc := (extentOf s.media m n).bind fun e => zoneOn s.media m e.place.zone

/-- A host zone whose extents all lie in preamble-format recording zones (R115, R161). -/
def preambleOnly (s : State) (n : Nat) (z : Zone) : Bool :=
  decide (z.place ≠ []) && z.place.all fun h => ((memberZone s h.1 n).map ZoneDesc.preamble).getD false

/-- A gauge row as cast-on and the hourly write leave it in RLD may time a write (R105, R151): valid, and no entry beyond 8 bits. -/
def rowKept (y : Yck) (key : Nat) : Bool :=
  let bs : List Byte := keyGet y.rldRows key []
  (leBytes bs).getLsbD 31 && (List.range (wedges y)).all fun w =>
    decide ((signed 16 ((bs.getD (16 + 2 * w) 0).toNat + 256 * (bs.getD (17 + 2 * w) 0).toNat)).natAbs ≤ 512)

/-- Every yarn-format recording zone a host zone lies in has a gauge row that may time a write (R105, R113, R307, R362). -/
def rowsKept (s : State) (n : Nat) (z : Zone) : Bool :=
  z.degraded || z.place.all fun h =>
    match memberZone s h.1 n with
    | some y => y.preamble || rowKept s.yck (h.1 * 64 + y.zone)
    | none => true

/-- How bit timing lets a write to a zone proceed (R113, R115, R116). -/
inductive TimingOk where
  | go
  | refuse
  /-- a format conversion, or the heads' lock, comes first -/
  | wait
  /-- an Empty zone becomes a degraded-format zone -/
  | degrade
  deriving DecidableEq, Repr

def timingFor (s : State) (n : Nat) (z : Zone) : TimingOk :=
  if z.degraded ∨ preambleOnly s n z then .go
  else if s.yck.preamble then
    (if (feature s 0xC0).testBit 16 = false then .refuse
     else if z.conv = false ∧ z.st = .empty then (if z.place.any fun h => spareOut s h.1 then .refuse else .degrade)
     else .wait)
  else if s.yck.active.isNone then .wait
  else .go

/-- No write completion is stalled by a coast (R79, R323): the hold line is low, and after a refuge write in a coast a checkpoint whose seq is not
below the epoch is durable. -/
def coastClear (s : State) : Bool :=
  !s.spn.hold && (match s.sys.coastEpoch with
    | none => true
    | some e => decide (e ≤ s.spe.ckptSeq) && seqDurable s.spe s.spe.ckptSeq)

/-- Room in the window for n more blocks, behind no completion that waits already (R363). -/
def roomFor (s : State) (fseq n : Nat) : Bool :=
  coastClear s && decide (unprotected s + n ≤ window s) && !(s.hif.flight.any fun g => decide (g.phase = .waiting ∧ g.fseq < fseq))

/-- The keys of a command's blocks. -/
def ioKeys (v : Namespace) (io : IoCmd) : List Nat :=
  (List.range io.nlb).filterMap fun i => (lbaZone v (io.slba + i)).map fun x => 65536 * x.1 + x.2

/-- Blocks of a command that are not durable. -/
def undurable (s : State) (keys : List Nat) : Nat :=
  (s.arr.blocks.filter fun b => keys.contains b.1 && !b.2.durable).length

/-- The versions at these keys are acknowledged. -/
def ackBlocks (keys : List Nat) (t : State) : State :=
  { t with arr := { t.arr with
    blocks := t.arr.blocks.map fun b => if keys.contains b.1 then (b.1, { b.2 with acked := true }) else b } }

/-- The completion of a write is posted when the window has room (R363); until then it waits. A departed partner's Write Zeroes gets none,
and keeps its entry (R335, R336). -/
def finishWrite (f : InFlight) (v : Namespace) (assigned : Nat) (s : State) : State :=
  let keys := ioKeys v f.io
  let n := undurable s keys
  let d0 := if f.io.kind = .append then assigned % 2 ^ 32 else 0
  let d1 := if f.io.kind = .append then assigned / 2 ^ 32 else 0
  if f.ctl = 3 then ackBlocks keys { s with hif := { s.hif with flight := s.hif.flight.filter fun g => decide (g.fseq ≠ f.fseq) } }
  else if roomFor s f.fseq n then
    complete f.ctl f.fseq .success d0 d1 [] (ackBlocks keys s)
  else setFlight { f with phase := .waiting } s

/-- The two copies of a block on its way (R7, R40, R432): in both RLD channels, or in the surviving one and the mirror area. -/
def copyHomes (f : Flt) : BitVec 3 :=
  (if f.rldFailed.getLsbD 0 then 0 else 1#3) ||| (if f.rldFailed.getLsbD 1 then 0 else 2#3) ||| (if f.mirror then 4#3 else 0)

/-- One block enters both RLD channels (R40): the durable version it replaces is kept until it is durable itself. -/
def storeBlock (key data app : Nat) (s : State) : State :=
  let prev := match blockGet s key with
    | some b => if b.durable then some (b.data, b.app) else b.prev
    | none => none
  setBlock key { data := data, app := app, acked := false, durable := false, logged := false, prev := prev, copies := copyHomes s.flt } s

/-- A row of a sequential zone opens (R259). -/
def openRow (n r : Nat) (s : State) : State :=
  if s.spe.rows.any fun o => decide (o.zone = n ∧ o.row = r) then
    { s with spe := { s.spe with rows := s.spe.rows.map fun o => if o.zone = n ∧ o.row = r then { o with touched := s.sys.ms, partialTo := none } else o } }
  else
    let q := jNext s
    let s := jAppend 0x10 (packFields [(32, n), (16, r), (32, s.arr.version)]) s
    { s with spe := { s.spe with
      rows := s.spe.rows ++ [{ zone := n, row := r, seq := q, touched := s.sys.ms, partialTo := none }] } }

/-- The actuator that holds the fewest of a row's present data units (R260). -/
def logActuator (z : Zone) (r present : Nat) : Nat :=
  let on (a : Nat) : Nat := ((List.range ((present + 15) / 16)).filter fun j =>
    (z.place[posD z.w r j]?.map fun h => decide (h.1 / 6 = a)).getD false).length
  (List.range 4).foldl (fun b a => if on a < on b then a else b) 0

/-- A record of the protected write log: its actuator's next sectors, wrapping at 64 MiB (R169, R260). -/
def logRecord (a sectors : Nat) (s : State) : Nat × State :=
  let at_ := s.arr.logAt.toList.getD a 0
  (at_, if h : a < 4 then { s with arr := { s.arr with logAt := s.arr.logAt.set a ((at_ + sectors) % 16384) } } else s)

/-- Positions of a row that are missing at offset k. -/
def missingUnits (s : State) (n r k : Nat) : List Nat :=
  match zoneGet s n with
  | some z => (List.range z.w).filter fun p => posMissing s n z r p k
  | none => []

/-- What is missing at offset k of a row is secured before a read-modify-write (R263; log entry 147): to the rebuild targets where every
missing position has one, else to the protected write log, whose record it is. -/
def secureMissing (n r k : Nat) (s : State) : Option (Nat × Nat) × State :=
  match zoneGet s n, missingUnits s n r k with
  | some z, p :: ps =>
    if 2 < (p :: ps).length ∨ ((p :: ps).all fun q => (posTarget z q).isSome) then (none, s)
    else
      let a := logActuator z r (16 * dataUnits z.w)
      let (at_, s) := logRecord a (p :: ps).length s
      (some (a, at_), s)
  | _, _ => (none, s)

/-- A read-modify-write of block k of a unit begins, or takes the block too (R262): the delta form per data unit. -/
def openRmw (n r u k : Nat) (s : State) : State :=
  if (s.spe.rmw.any fun o => decide (o.zone = n ∧ o.row = r ∧ o.unit = u) && !o.computed) ∧ missingUnits s n r k = [] then
    { s with spe := { s.spe with rmw := s.spe.rmw.map fun o =>
        if o.zone = n ∧ o.row = r ∧ o.unit = u ∧ o.computed = false then
          { o with first := min o.first k, count := max (o.first + o.count) (k + 1) - min o.first k }
        else o } }
  else
    let (record, s) := secureMissing n r k s
    let q := jNext s
    let s := jAppend 0x20 (packFields [(32, n), (16, r), (8, u), (8, k), (8, 1), (8, (record.map Prod.fst).getD 0),
      (32, (record.map Prod.snd).getD 0xFFFFFFFF)]) s
    { s with spe := { s.spe with
      rmw := s.spe.rmw ++ [{ zone := n, row := r, unit := u, first := k, count := 1, seq := q, computed := false, record := record }] } }

/-- The form a row's read-modify-write takes (R262): the unit of each block, or 0xFF for a reconstruct-write, which a write that
touches more than half of the row's data units takes. -/
def rmwUnit (z : Zone) (os : List Nat) (o : Nat) : Nat :=
  let r := rowOf z.w o
  let units := ((os.filter fun x => decide (rowOf z.w x = r)).map fun x => unitIn z.w x).eraseDups
  if dataUnits z.w - units.length < units.length + 2 then 0xFF else unitIn z.w o

/-- The journal entries and rows of one written block (R258, R259, R262). -/
def journalBlock (n : Nat) (z : Zone) (os : List Nat) (o : Nat) (s : State) : State :=
  let s := touchRegion (regionOf n o) s
  if z.conv then openRmw n (rowOf z.w o) (rmwUnit z os o) (blockIn o) s else openRow n (rowOf z.w o) s

/-- The blocks of a write as they are stored. -/
def writeData (io : IoCmd) (i : Nat) : Nat × Nat :=
  match io.kind with
  | .writeZeroes => (0, io.lbat.val)
  | _ =>
    match io.data[i]? with
    | some b => (b.data, if io.pract then io.lbat.val else b.app.val)
    | none => (0, 0)

/-- Blocks of a write enter RLD and the journal, from offset o of zone n (R40, R259, R262); the write pointer advances. -/
def storeBlocks (f : InFlight) (n : Nat) (z : Zone) (o0 : Nat) (is : List Nat) (s : State) : State :=
  let os := is.map fun i => o0 + i
  let s := is.foldl (fun t i =>
    let d := writeData f.io i
    let t := storeBlock (65536 * n + o0 + i) d.1 d.2 t
    let o := o0 + i
    journalBlock n z os o t) s
  match zoneGet s n with
  | some z =>
    if z.conv then s
    else
      let wp := o0 + is.length
      setZone n { z with wp := wp, lastWrite := f.fseq,
                         st := if zoneCapacity z.w ≤ wp then .full else if z.st = .explicitOpen then .explicitOpen else .implicitOpen } s
  | none => s

/-- What a write meets in one zone before anything is written: a status, a reason to be held, or the way on. -/
inductive WriteGate where
  | status (st : Status)
  | held
  | wait
  | go (degrade : Bool)
  deriving DecidableEq, Repr

def writeGateOf (s : State) (n : Nat) (z : Zone) (o count : Nat) (io : IoCmd) : WriteGate :=
  if zoneCapacity z.w < o + count then .status .zoneBoundary
  else if z.st = .readOnly then .status .zoneReadOnly
  else if z.st = .offline then .status .zoneOffline
  else if z.conv = false ∧ z.st = .full then .status .zoneFull
  else if z.conv = false ∧ io.kind ≠ .append ∧ o ≠ z.wp then .status .zoneInvalidWrite
  else if timingFor s n z = .refuse then .status .timingRefused
  else if (List.range count).any fun i => unservable s n z (rowOf z.w (o + i)) (blockIn (o + i)) then
    (if reloadingOnly s z then .held else .status .memberFenced)
  else if s.spn.hold ∨ currentCount s.spe = 0 ∨ resumeWaits s.spe ∨ rowsKept s n z = false then .held
  else if timingFor s n z = .wait then (if s.yck.preamble then .wait else .held)
  else .go (decide (timingFor s n z = .degrade))

/-- A write's part in one zone: n blocks from index i0 of the command at offset o. -/
def writeZone (f : InFlight) (n o i0 count : Nat) (s : State) : Option State :=
  match zoneGet s n with
  | none => none
  | some z =>
    if z.place ≠ [] then
      some (storeBlocks { f with io := { f.io with data := f.io.data.drop i0 } } n z o (List.range count) (assignTargets n s))
    else
      match placeZone n s with
      | some t =>
        (match zoneGet t n with
         | some z => some (storeBlocks { f with io := { f.io with data := f.io.data.drop i0 } } n z o (List.range count) t)
         | none => none)
      | none => none

/-- A zone's member set as SWITCH and FORMAT carry it. -/
def memberMask (place : List (Nat × Nat)) : Nat := (place.foldl (fun (m : BitVec 24) x => setBit m x.1) 0).toNat

/-- The rate code of a FORMAT entry (R170, R297; log entry 64). -/
def formatCode (n : Nat) (into : Bool) (ms : List Nat) (s : State) : Nat × State :=
  let (v, s) := freeNext s
  ((formatRate s n into ms).getD v.toNat, s)

/-- An Empty zone is written in degraded format (R116, R170, R297): its FORMAT entry, the extra tracks of its extents, and the Surface State
log; the rate is a free value where the recording zone is not described (log entry 64). -/
def degradeZone (n : Nat) (s : State) : State :=
  match zoneGet s n with
  | none => s
  | some z =>
    let ms := z.place.map Prod.fst
    let (rate, s) := formatCode n true ms s
    let s := zmap n 0x29 [(32, n), (8, 1), (8, rate), (24, memberMask z.place)] s
    noteChange (ms.foldl (fun t m => degradeExtent m n z.w t) s)

/-- The parts of a command by zone: zone, offset, first index, count. A write in a zoned namespace has one part. -/
def ioParts (v : Namespace) (slba i left fuel : Nat) : List (Nat × Nat × Nat × Nat) :=
  match fuel with
  | 0 => []
  | fuel + 1 =>
    if left = 0 then []
    else
      match lbaZone v (slba + i) with
      | none => []
      | some (n, o) =>
        let c := min left (zoneStride v - o)
        (n, o, i, c) :: ioParts v slba (i + c) (left - c) fuel

/-- Every part can be placed (R244, R365). -/
def placeable (s : State) (n : Nat) : Bool :=
  match zoneGet s n with
  | some z => decide (z.place ≠ []) || (placement s n z.w z.c).isSome
  | none => false

/-- Write, Write Zeroes, Zone Append: the command completes or waits for room; none where it is held, and some of a command marked
stalled where a conversion must come first (R116, R362). -/
def runWrite (f : InFlight) (v : Namespace) (s : State) : State :=
  let io := f.io
  let fail (st : Status) (s : State) : State := complete f.ctl f.fseq st 0 0 [] (noteError f.fseq io.slba s)
  let wp0 := match lbaZone v io.slba with
    | some (n, _) => ((zoneGet s n).map fun z => z.wp).getD 0
    | none => 0
  let slba := if io.kind = .append then io.slba + wp0 else io.slba
  let parts := ioParts v slba 0 io.nlb (io.nlb + 1)
  let gates := parts.map fun x =>
    match zoneGet s x.1 with
    | some z => writeGateOf s x.1 z x.2.1 x.2.2.2 io
    | none => .status .lbaOutOfRange
  let errs := gates.filterMap fun g => match g with
    | .status st => some st
    | _ => none
  let pi := if v.meta16 ∧ io.kind ≠ .writeZeroes then piChecks io slba io.data else none
  let hard := errs.find? fun e => decide (e ≠ .timingRefused ∧ e ≠ .memberFenced)
  match hard, pi with
  | some st, _ => fail st s
  | none, some st => fail st s
  | none, none =>
    if errs.contains .timingRefused then fail .timingRefused s
    else if errs.contains .memberFenced ∨ parts.any (fun x => !placeable s x.1) then fail .memberFenced s
    else if gates.contains .held then setFlight { f with phase := .held } s
    else if gates.contains .wait then setFlight { f with phase := .stalled } s
    else
      let z0 := (parts.head?.bind fun x => zoneGet s x.1).getD
        { ns := 0, index := 0, conv := true, w := 24, c := 6, place := [], st := .full, wp := 0, degraded := false, lastWrite := 0, targets := [] }
      let room := if z0.conv then (.success, s) else makeRoom z0 true s
      if room.1 ≠ .success then fail room.1 s
      else
        let f := { f with io := { io with slba := slba } }
        let s := (parts.zip gates).foldl (fun t x =>
          let t := match x.2, zoneGet t x.1.1 with
            | .go true, some z => setZone x.1.1 { z with degraded := true } t
            | _, _ => t
          let u := (writeZone f x.1.1 x.1.2.1 x.1.2.2.1 x.1.2.2.2 t).getD t
          if x.2 = .go true then degradeZone x.1.1 u else u) room.2
        let s := addLock { ns := io.ns, first := slba, last := slba + io.nlb - 1, modify := true, fseq := f.fseq } s
        finishWrite f v slba s

/-! ### Zone Management Send (R260, R343, R344, R365) -/

/-- A zone whose open groups are completed at the end of an action (R157). -/
def closeZone (n : Nat) (z : Zone) (st : ZState) (s : State) : State := completeGroups n (setZone n { z with st := st } s)

/-- One action on one zone: its status and the state after it. -/
def zoneAction (k : IoKind) (n : Nat) (s : State) : Status × State :=
  match zoneGet s n with
  | none => (.invalidField, s)
  | some z =>
    if z.st = .offline then (.zoneOffline, s)
    else if z.st = .readOnly ∧ k ≠ .zoneReset then (.zoneReadOnly, s)
    else
      match k with
      | .zoneOpen =>
        if z.st = .full then (.invalidZoneOperation, s)
        else if placeable s n = false then (.memberFenced, s)
        else
          let (st, t) := makeRoom z false s
          if st ≠ .success then (st, s)
          else
            (match placeZone n t with
             | some t =>
               (match zoneGet t n with
                | some z => (.success, setZone n { z with st := .explicitOpen } t)
                | none => (.memberFenced, s))
             | none => (.memberFenced, s))
      | .zoneClose =>
        if zoneOpenState z ∨ z.st = .closed then (.success, closeZone n z .closed s) else (.invalidZoneOperation, s)
      | .zoneFinish =>
        if timingFor s n z = .refuse ∧ z.st ≠ .empty ∧ z.st ≠ .full then (.timingRefused, s)
        else (.success, closeZone n z .full s)
      | .zoneReset =>
        if z.st = .readOnly then (.zoneReadOnly, s) else (.success, clearZone n (reshapeReset n s))
      | _ => (.invalidField, s)

/-- The zones that Select All names for an action: only those whose state it changes. -/
def allZones (s : State) (v : Namespace) (k : IoKind) : List Nat :=
  v.zones.filter fun n =>
    match zoneGet s n with
    | some z => !z.conv && (match k with
      | .zoneOpen => decide (z.st = .closed)
      | .zoneClose => zoneOpenState z
      | .zoneFinish => zoneActive z
      | _ => decide (z.st ≠ .empty ∧ z.st ≠ .readOnly ∧ z.st ≠ .offline))
    | none => false

def zoneActions (k : IoKind) (ns : List Nat) (s : State) : Status × State :=
  match ns with
  | [] => (.success, s)
  | n :: t =>
    let r := zoneAction k n s
    if r.1 = .success then zoneActions k t r.2 else r

def runZone (f : InFlight) (v : Namespace) (s : State) : State :=
  let zs := if f.io.all then allZones s v f.io.kind else (v.zones[f.io.slba / 65536]?).toList
  let r := zoneActions f.io.kind zs s
  complete f.ctl f.fseq r.1 0 0 [] r.2

/-! ### Running, stalling, holding (R355, R362) -/

/-- A command whose entry conflicts with nothing runs (R360's order of causes). -/
def runIo (f : InFlight) (s : State) : State :=
  match nsGet s f.io.ns with
  | none => complete f.ctl f.fseq .invalidNamespace 0 0 [] s
  | some v =>
    if f.ctl < 2 ∧ v.attached.getLsbD f.ctl = false then complete f.ctl f.fseq .invalidNamespace 0 0 [] s
    else if opalLocked s f.io then complete f.ctl f.fseq .accessDenied 0 0 [] s
    else
      match ioField s v f.io with
      | some st => complete f.ctl f.fseq st 0 0 [] (noteError f.fseq f.io.slba s)
      | none =>
        match f.io.kind with
        | .write | .writeZeroes | .append => runWrite f v s
        | .zoneOpen | .zoneClose | .zoneFinish | .zoneReset => runZone f v s
        | .salvage => if s.spn.hold ∧ salvageMedia s v f.io then setFlight { f with phase := .held } s else runSalvage f v s
        | _ => (runRead f v s).getD (setFlight { f with phase := .held, got := transferred s v f } s)

/-- A held command past its hold limit completes with Namespace Not Ready (R362). -/
def overLimit (s : State) (f : InFlight) : Bool :=
  decide (f.phase = .held) && decide (f.at_ + holdLimit s f.io ≤ s.sys.ms) && decide (s.sys.phase = .ready)

/-- A write that has been fetched and not completed is refused when its zone's timing is lost (R115; log entry 146). -/
def refusedNow (s : State) (v : Namespace) (io : IoCmd) : Bool :=
  (ioParts v io.slba 0 io.nlb (io.nlb + 1)).any fun x =>
    ((zoneGet s x.1).map fun z => decide (timingFor s x.1 z = .refuse)).getD false

/-- One command in flight is looked at again: a waiting completion posts where there is room, a stalled or held one runs. -/
def retryFlight (f : InFlight) (s : State) : State :=
  match f.phase with
  | .waiting =>
    (match nsGet s f.io.ns with
     | some v =>
       if refusedNow s v f.io then complete f.ctl f.fseq .timingRefused 0 0 [] (noteError f.fseq f.io.slba s)
       else finishWrite f v f.io.slba s
     | none => complete f.ctl f.fseq .success 0 0 [] s)
  | _ =>
    let r := ioRange s f.io
    if conflicts s { ns := f.io.ns, first := r.1, last := r.2, modify := ioModifies f.io.kind, fseq := f.fseq } then s else runIo f s

/-- A Flush whose blocks are all durable completes (R364). -/
def settleFlushes (s : State) : State :=
  let done (w : FlushWait) : Bool := w.keys.all fun k => ((blockGet s k).map fun b => b.durable).getD true
  let ws := s.hif.flushes.filter done
  ws.foldl (fun t w => complete w.ctl w.fseq .success 0 0 [] t)
    { s with hif := { s.hif with flushes := s.hif.flushes.filter fun w => !done w } }

/-- Commands run here (R309): ready, or the drain and flush of a bind-off (R312). -/
def runsIo (s : State) : Bool :=
  match s.sys.phase with
  | .ready => true
  | .bindoff _ n => decide (n ≤ 2)
  | _ => false

/-! ### Work on whole namespaces (R342, R350, R351, R356) -/

/-- A zone's content goes as at a Zone Reset; a conventional zone stays readable as a Full one (R344). -/
def eraseZone (n : Nat) (s : State) : State :=
  match zoneGet s n with
  | none => s
  | some z =>
    let t := clearZone n (reshapeReset n s)
    if z.conv then
      (match zoneGet t n with
       | some y => setZone n { y with st := .full, wp := zoneCapacity y.w } t
       | none => t)
    else t

/-- The namespaces a piece of work covers. -/
def eraseNames (s : State) (w : EraseWork) : List (Nat × Namespace) :=
  s.host.namespaces.filter fun x => match w with
    | .deleteNs n | .format n _ _ _ _ _ => decide (n = 0xFFFFFFFF ∨ n = x.1)
    | .sanitize _ => true

/-- Every zone of some namespaces is erased. -/
def eraseSpaces (xs : List (Nat × Namespace)) (s : State) : State :=
  xs.foldl (fun t x => x.2.zones.foldl (fun u n => eraseZone n u) t) s

/-- Members that a block erase cannot write (R351). -/
def unwritable (s : State) : List Nat :=
  (List.range 24).filter fun m =>
    let v := memberAt s m
    decide (v.state = .fenced) && !v.returned || decide (v.state = .retired) || (s.arr.avail.toList.getD (m / 6) .reset).unavailable

/-- Every media key is replaced, and frog maps go (R351). -/
def cryptoErase (s : State) : State :=
  let o := s.host.opal
  { s with
    host := { s.host with opal := { o with range := o.range.map fun r => { r with key := r.key + 1 } } }
    arr := { s.arr with member := s.arr.member.map fun v => { v with frog := [] } } }

/-- The work itself. -/
def eraseDo (w : EraseWork) (s : State) : State :=
  let xs := eraseNames s w
  let s := eraseSpaces xs s
  match w with
  | .deleteNs _ =>
    let gone (n : Nat) : Bool := xs.any fun x => decide (x.1 = n)
    { s with
      arr := { s.arr with zones := s.arr.zones.filter fun z => !gone z.2.ns }
      host := { s.host with namespaces := s.host.namespaces.filter fun x => !gone x.1 } }
  | .format _ meta16 ext pi pip crypto =>
    let hit (n : Nat) : Bool := xs.any fun x => decide (x.1 = n)
    let o := s.host.opal
    { s with host := { s.host with
      namespaces := s.host.namespaces.map fun x => if hit x.1 then (x.1, { x.2 with meta16 := meta16, ext := ext, pi := pi, pip := pip }) else x
      opal := if crypto then { o with range := o.range.map fun r => if hit r.ns then { r with key := r.key + 1 } else r } else o } }
  | .sanitize block =>
    let skipped := if block then unwritable s else []
    let s := cryptoErase s
    noteChange { s with
      arr := { s.arr with lost := [], lostMerges := 0 }
      host := { s.host with sanitize := { done := true, block := block, skipped := skipped } } }

/-- The entries of a piece of work: every LBA of each namespace (R356). -/
def eraseLocks (s : State) (n : Nat) (w : EraseWork) : List Lock :=
  (eraseNames s w).map fun x => { ns := x.1, first := 0, last := nsBlocks x.2 - 1, modify := true, fseq := n }

/-- Work that no earlier command holds up runs and completes; the rest waits (R355). -/
def eraseTry (e : EraseWait) (s : State) : State :=
  if (eraseLocks s e.fseq e.work).any (conflicts s) then s
  else complete e.ctl e.fseq .success 0 0 [] (eraseDo e.work { s with host := { s.host with
    eraseWait := s.host.eraseWait.filter fun x => decide (x.fseq ≠ e.fseq) } })

/-- The work begins: its entries are taken (R355, R356). -/
def eraseStart (c n : Nat) (w : EraseWork) (s : State) : State :=
  let e : EraseWait := { ctl := c, fseq := n, work := w }
  eraseTry e { s with
    hif := { s.hif with locks := s.hif.locks ++ eraseLocks s n w }
    host := { s.host with eraseWait := s.host.eraseWait ++ [e] } }

/-! ### Going on -/

/-- Every command in flight is looked at again, in fetch order (R355, R363). -/
def retryAll (s : State) : State :=
  s.hif.flight.foldl (fun t f => if t.hif.flight.any fun x => decide (x.fseq = f.fseq) then retryFlight f t else t) s

/-- Commands in flight and waiting work go on as far as they can, and Flushes complete (R355, R363); the cores do nothing while a warm reset holds
them (R38). -/
def kick (s : State) : State :=
  if s.sys.plActive ∨ s.flt.warm ∨ runsIo s = false then s
  else
    let s := retryAll s
    settleFlushes (if s.host.eraseWait = [] then s else retryAll (s.host.eraseWait.foldl (fun t e => eraseTry e t) s))

end Sys2Proof.Machine
end

