-- ==== Sys2Proof/Machine/Codes.lean ====
section
/-!
DEFINITION. The codes of the media: arithmetic in GF(2^8), the lane's signal functions, the decode attempt with its global passes, and
the selvage code (chapters "Read Signal Path" and "Detection, Codes and Recovery", R193 to R214; R157, R158, R250).
-/
namespace Sys2Proof.Machine
open Sys2Proof

/-! ### GF(2^8) (R250, R251) -/

/-- The product by g = 0x02 modulo 0x11D. -/
def gfDouble (a : Nat) : Nat := if 128 ≤ a then (2 * a) ^^^ 0x11D else 2 * a

/-- The product of two bytes, over the low n bits of b. -/
def gfMulN (n a b : Nat) : Nat :=
  match n with
  | 0 => 0
  | n + 1 => (if b % 2 = 1 then a else 0) ^^^ gfMulN n (gfDouble a) (b / 2)

def gfMul (a b : Nat) : Nat := gfMulN 8 a b

/-- g^j. -/
def gfPow (j : Nat) : Nat :=
  match j with
  | 0 => 1
  | j + 1 => gfDouble (gfPow j)

/-- The byte whose product with a is b: the quotient b / a, for a not 0. -/
def gfDiv (b a : Nat) : Nat := ((List.range 256).find? fun x => decide (gfMul a x = b)).getD 0

/-! ### Equalizer target, interference, write precompensation (R187, R193, R196) -/

/-- The partial-response target at data index k, from the recorded bits a(k) = ±1 (R193). -/
def prTarget (g : Fin 4 → Int) (a : Int → Int) (k : Int) : Int := g 0 * a k + g 1 * a (k - 1) + g 2 * a (k - 2) + g 3 * a (k - 3)

/-- The neighbours of an output (R196). -/
def itiNeighbours (o : Nat) : List Nat := if o = 1 then [0, 2] else if o = 0 ∨ o = 2 then [1] else []

/-- The interference estimate of output o at index k, from coefficients c, soft bits x and alignments (R196). -/
def itiEstimate (c : Nat → Int → Int) (x : Nat → Int → Int) (delta : Nat → Int) (o : Nat) (k : Int) : Int :=
  ((itiNeighbours o).map fun n => (([-2, -1, 0, 1, 2] : List Int).map fun j => c n j * x n (k + j + delta n)).sum).sum

/-- A transition lies at bit k: it differs from the bit before it (R187). -/
def transitionAt (a : Int → Bool) (k : Int) : Bool := a k != a (k - 1)

/-- The index of the precompensation shift of a transition at bit k (R187). -/
def precompIndex (a : Int → Bool) (k : Int) : Nat :=
  (if transitionAt a (k - 1) then 4 else 0) + (if transitionAt a (k - 2) then 2 else 0) + (if transitionAt a (k + 1) then 1 else 0)

/-- The shift of a transition of index i, in 1/64 bit, from an 8-byte entry (R187). -/
def precompShift (entry : BitVec 64) (i : Nat) : Nat := entry.toNat / 2 ^ (8 * i) % 32

/-- The asymmetry correction of an ADC code, in 1/4 LSB (R177): y = x - (asym / 256) x^2 / 32, to the nearest 1/4 LSB, within 127. -/
def correctSample (asym x : Int) : Int := clampInt (-127) 127 ((8192 * x - asym * x * x + 1024) / 2048)

/-- Input i of the equalizer carries the reader that lies i-th from the outside (R179). -/
def equalizerReader (flip : Bool) (i : Nat) : Nat := if flip then 3 - i else i

/-! ### The selvage code (R157, R158, R211) -/

/-- Coefficients of the generator (x - 1)(x - a)(x - a^2)(x - a^3), the highest below the leading one first. -/
def selvageGen : List Nat :=
  (List.range 4).foldl (fun g i =>
    let r := gfPow i
    let p := 1 :: g
    ((List.range (g.length + 1)).map fun k => p.getD (k + 1) 0 ^^^ gfMul r (p.getD k 0))) []

/-- One data symbol into the running selvage of a codeword (R157): four check symbols, the highest first. -/
def selvageStep (c : List Nat) (x : Nat) : List Nat :=
  let f := x ^^^ c.getD 0 0
  (List.range 4).map fun k => c.getD (k + 1) 0 ^^^ gfMul f (selvageGen.getD k 0)

/-- The four selvage symbols of a codeword's data symbols, in slot order (R211). -/
def selvageOf (data : List Nat) : List Nat := data.foldl selvageStep [0, 0, 0, 0]

/-- Syndrome i of a codeword (R211, R212). -/
def selvageSyndrome (i : Nat) (word : List Nat) : Nat := word.foldl (fun a x => gfMul a (gfPow i) ^^^ x) 0

/-- The selvage after the sector at place k of n changes (R158): the old one and the code of the change. -/
def selvageDelta (old : List Nat) (n k change : Nat) : List Nat :=
  List.zipWith (· ^^^ ·) old (selvageOf ((List.range n).map fun j => if j = k then change else 0))

/-- The syndromes of a codeword of n symbols, an erased one counting 0 (R211, R212). -/
def selvageSyndromes (word : List Nat) : List Nat := (List.range 4).map fun i => selvageSyndrome i word

/-- The syndromes that are left once the erasure at place k of n symbols is accounted for: one fewer (R212). -/
def stripErasure (n : Nat) (sy : List Nat) (k : Nat) : List Nat :=
  List.zipWith (fun a b => b ^^^ gfMul (gfPow (n - 1 - k)) a) sy sy.tail

/-- Codeword j of a group: byte j of each of its sectors, 0 for an erasure (R211). -/
def selvageWord (sectors : List (Option (List Byte))) (j : Nat) : List Nat :=
  sectors.map fun x => (x.map fun bs => (bs.getD j 0).toNat).getD 0

/-- The erased places of a group. -/
def erasures (sectors : List (Option (List Byte))) : List Nat :=
  (List.range sectors.length).filter fun k => ((sectors[k]?).map Option.isNone).getD false

/-- The remaining syndromes of every codeword of a group are zero (R212). -/
def selvageClean (sectors : List (Option (List Byte))) : Bool :=
  let bytes := sectors.foldl (fun n x => max n ((x.map List.length).getD 0)) 0
  (List.range bytes).all fun j =>
    ((erasures sectors).foldl (stripErasure sectors.length) (selvageSyndromes (selvageWord sectors j))).all fun y => decide (y = 0)

/-! ### Decode attempts (R108, R111, R197, R199, R200, R203, R207) -/

/-- The neighbours of an output whose bits are known, bit 0 the outward one, bit 1 the inward one (R196, R197, R207): `known` says it of an
output. -/
def knownMask (known : Nat → Bool) (o : Nat) : Nat :=
  (if (itiNeighbours o).any fun n => decide (n < o) && known n then 1 else 0) +
    (if (itiNeighbours o).any fun n => decide (o < n) && known n then 2 else 0)

/-- The end of a decode attempt: the iterations made, whether every check was satisfied, and how many were not. -/
structure AttemptEnd where
  iterations : Nat
  converged : Bool
  unsat : Nat
  deriving DecidableEq, Repr

/-- Global passes of L iterations on one output (R197): convergence is tested after every iteration, and the output stops at once; each pass
knows the neighbours that `mask` gives for it. `left` iterations are left, `i` are made, `u` checks are unsatisfied. -/
def runPasses (each : Nat) (mask : Nat → Nat) (checks : Nat → List Nat) (left i u : Nat) : AttemptEnd :=
  match left with
  | 0 => { iterations := i, converged := false, unsat := u }
  | n + 1 =>
    let now := (checks (mask (i / each))).getD i 1
    if now = 0 then { iterations := i + 1, converged := true, unsat := 0 } else runPasses each mask checks n (i + 1) now

/-- The iterations of a pass of a first attempt while L is halved, rounded up (R203). -/
def halvedEach (each : Nat) : Nat := (each + 1) / 2

/-- D: the first position of the window at which the Hamming distance is at or below the threshold (R108). -/
def syncFound (window thr : Nat) (xs : List (Int × Nat)) : Option Int :=
  ((xs.filter fun x => decide (x.1.natAbs ≤ window ∧ x.2 ≤ thr)).map Prod.fst).min?

/-- The alternative alignments of R111, as distances from P. -/
def alternatives (window : Nat) (found : Option Int) : List Int :=
  let d := found.getD 0
  let all : List Int := [0, -1, 1, d - 1, d + 1, -2, 2]
  let keep := all.foldl (fun (acc : List Int) x =>
    if x = d ∨ acc.contains x ∨ window < x.natAbs then acc else acc ++ [x]) []
  keep.take 5

/-- The ceiling of a read, and whether it skips rung 3 (R205). -/
def ceilingOf : ReadSource → Nat × Bool
  | .host limited => (5, limited)
  | .readAhead => (2, false)
  | .scrub => (5, false)
  | .rebuild => (4, false)
  | .castOn => (3, false)
  | .refuge => (5, false)

/-- The setting of retry n (R210): the reference offset in 1/1,024 track, the gain in 0.25 dB, and single-reader through another reader. -/
def retrySetting (n step gain : Nat) : Int × Int × Bool :=
  if n = 2 then (step, 0, false) else if n = 3 then (-(step : Int), 0, false) else if n = 4 then (0, gain, false)
  else if n = 5 then (0, -(gain : Int), false) else if n = 6 then (2 * step, 0, false) else if n = 7 then (-(2 * step : Int), 0, false)
  else (0, 0, decide (n = 8))

end Sys2Proof.Machine
end

