-- ==== Sys2Proof/Machine/Crypt.lean ====
section
/-!
DEFINITION. Encryption in the lane path: the key and the tweak of each sector of host data (R349).
-/
namespace Sys2Proof.Machine
open Sys2Proof

/-- The number of the locking range that holds an LBA (R348). -/
def opalIndexOf (s : State) (ns lba : Nat) : Nat :=
  ((List.range 15).find? fun k =>
    let r := s.host.opal.range.toList.getD (k + 1) s.host.opal.range[0]
    decide (r.ns = ns ∧ r.start ≤ lba ∧ lba < r.start + r.len)).elim 0 fun k => k + 1

/-- The count of a range's media key. -/
def mediaKey (s : State) (range : Nat) : Nat := ((s.host.opal.range.toList[range]?).map OpalRange.key).getD 0

/-- The extent, and the block of it, that a sector of a surface holds (R164, R166). -/
def blockAt (m : Media) (surface zone track slot : Nat) : Option (Extent × Nat) :=
  let from_ := (memberExtents m surface).findSome? fun e =>
    (e.relocations.find? fun r => decide (r.zone = zone ∧ r.toTrack = track ∧ r.toSlot = slot)).map fun r => (e, r.track, r.slot)
  let at_ (e : Extent) (n j : Nat) : Option (Extent × Nat) := ((blockPlaces m e).findIdx? fun p => decide (p = (n, j))).map fun b => (e, b)
  match from_ with
  | some (e, t, j) => (extentAt m surface e.place.zone t).bind fun x => at_ e x.2 j
  | none => (extentAt m surface zone track).bind fun x => at_ x.1 x.2 slot

/-- Key and tweak of a sector of host data or of data derived from it (R349): the key of the range that holds its zone. -/
def sectorCrypt (s : State) (surface zone track slot : Nat) : Option Crypt :=
  (blockAt s.media surface zone track slot).bind fun x => (zoneGet s x.1.hzone).bind fun z => (nsGet s z.ns).bind fun v =>
    let r := x.2 / 16
    let k := x.2 % 16
    ((List.range z.w).find? fun p => decide ((holder z p).map Prod.fst = some surface)).map fun p =>
      let lba (o : Nat) : Nat := zoneStride v * z.index + o
      match (List.range (dataUnits z.w)).find? fun j => decide (posD z.w r j = p) with
      | some j =>
        let a := lba (16 * dataUnits z.w * r + 16 * j + k)
        { range := opalIndexOf s z.ns a, key := mediaKey s (opalIndexOf s z.ns a), tweak := .block z.ns a }
      | none => { range := opalIndexOf s z.ns (lba 0), key := mediaKey s (opalIndexOf s z.ns (lba 0)), tweak := .parity x.1.hzone r p k }

/-- The sector passes the lane's encryption, on its way out after the PI recheck or in before the decoded data leave (R349). -/
def cryptSector (l : LaneIx) (p : TrackAt) (slot : Nat) (s : State) : State :=
  setLane l { s.lane[l] with crypt := sectorCrypt s p.surface p.zone p.track slot } s

end Sys2Proof.Machine
end

