-- ==== Sys2Proof/Machine/Yarn.lean ====
section
/-!
DEFINITION. The meanings of the yarn-clock commands (chapter "Yarn Clock and Data Timing", R90 to R118).
-/
namespace Sys2Proof.Machine
open Sys2Proof

def yckReg (y : Yck) (off : Nat) : Word := regGet yckRows y.regs off

/-- A register as it is in force (R118): a write counts from the next wedge boundary. -/
def yckCur (y : Yck) (off : Nat) : Word := regGet yckRows y.cur off

/-- The index mark (R91): it occupies the span of this many periods from period 0, over which the PLLs coast and the counter goes on. -/
def indexPeriods : Nat := 64
def inIndexMark (period : Nat) : Bool := decide (period < indexPeriods)

/-- Bits within which preamble acquisition locks, and what a preamble leaves to spare (R109). -/
def lockBits : Nat := 40
def preambleSpare (bits : Nat) : Nat := bits - lockBits

/-- P_w, master periods per wedge interval (R90). -/
def wedgePeriods (y : Yck) : Nat := fld (yckReg y 0x0C) 23 0 / wedges y

/-- Bit b of YCK_EVENT and its source (R118). -/
def yckEvent (b : Nat) (s : State) : State := yckEventW raise b s

def yckCfgErr (s : State) : State := yckEvent 12 s

/-- YCK_STATUS.mode (R95). -/
def yckMode (y : Yck) : YckMode :=
  if y.preamble then .preamble
  else
    match y.active with
    | none => .off
    | some h => if y.head[(1 - h : Fin 2)].qual then .dual else .single

/-- A yarn head is fitted (R118). -/
def yarnFit (y : Yck) (h : Fin 2) : Bool := bitOf (yckReg y 0) (4 + h.val)

/-- N_ct is a multiple of the wedges, and the wedges lie in their range (R90, R118). -/
def yckConfigOk (y : Yck) : Bool :=
  let n := fld (yckReg y 0x0C) 23 0
  decide (256 ≤ wedges y ∧ wedges y ≤ 1024 ∧ 0 < n ∧ n % wedges y = 0)

/-- The engine the wedge-locked clock follows (R96). With auto at 0 the selected engine too has to be track-following, and it need not be
bound (log entry 138). -/
def wckEngine (s : State) : Option EngIx :=
  let c := yckCur s.yck 0x3C
  if bitOf c 3 then (List.finRange 5).find? fun e => (drives s e).isSome && decide ((s.srv.get e).state = .follow)
  else (List.finRange 5).find? fun e => decide (e.val = fld c 2 0) && decide ((s.srv.get e).state = .follow)

/-- Each lane's timing without a master: the wedge-locked clock where it runs (R95). -/
def lanesToWedge (s : State) : State :=
  let dest : Timing := if (wckEngine s).isSome then .preamble else .none
  { s with yck := { s.yck with lane := s.yck.lane.map fun (x : LaneTiming) => { x with timing := dest, window := 32 } } }

/-- The PLLs start or stop with YCK_CTL.en (R90, R95). -/
def yckEnable (on : Bool) (s : State) : State :=
  if on then (if yckConfigOk s.yck then { s with yck := { s.yck with running := true } } else yckCfgErr s)
  else
    lanesToWedge { s with yck := { s.yck with
      running := false
      head := Vector.replicate 2 { locked := false, qual := false }
      active := none
      preamble := false
      slewing := false
      guardSlew := false
      held := false
      pendSwitch := none
      pendForce := none
      pendReturn := none } }

/-- A write to YCK_CTL (R95, R100, R118): a reserved or unqualified selection is ignored in whole with cfg_err; the fit bits
are locked by lock. -/
def yckCtlWrite (w : Word) (s : State) : State :=
  let y := s.yck
  let sel := fld w 2 1
  let bad := decide (sel = 3) || (decide (sel = 1) && !y.head[0].qual) || (decide (sel = 2) && !y.head[1].qual)
  if bad then yckCfgErr s
  else
    let old := yckReg y 0
    let w := if bitOf old 8 then setFld w 5 4 (fld old 5 4) else w
    let regs := regWrite yckRows y.regs false 0 w
    let cur := regSet yckRows y.cur 0 (regGet yckRows regs 0)
    let force : Option (Fin 2) := if sel = 1 then some 0 else if sel = 2 then some 1 else none
    let s := { s with yck := { y with regs := regs, cur := cur, pendForce := if force = y.active then none else force } }
    if bitOf old 0 = bitOf w 0 then s else yckEnable (bitOf w 0) s

/-- YCK_ENABLE (R95): a write of YCK_CTL with en at 1. -/
def execYckEnable (w : Word) (s : State) : Host.Outcome State Fault Refusal := act s (yckCtlWrite (w ||| 1#32))

/-- YCK_SEL_FORCE (R100): a write of YCK_CTL. -/
def execYckSelForce (w : Word) (s : State) : Host.Outcome State Fault Refusal := act s (yckCtlWrite w)

/-- YCK_LOCK (R118): a write of YCK_CTL with lock at 1. -/
def execYckLock (w : Word) (s : State) : Host.Outcome State Fault Refusal := act s (yckCtlWrite (w ||| 0x100#32))

/-- A field of a configuration register lies outside its stated range (R118); the write is refused with cfg_err. -/
def yckBad (off : Nat) (w : Word) : Bool :=
  if off = 0x14 then decide (fld w 9 8 = 0)
  else if off = 0x18 then decide (fld w 15 8 < 8)
  else if off = 0x1C then decide (fld w 15 8 < 4 ∨ 10 < fld w 15 8 ∨ fld w 23 16 < 1 ∨ 16 < fld w 23 16)
  else if off = 0x30 then decide (8 < fld w 4 0)
  else if off = 0x34 then decide (16 < fld w 15 8)
  else false

/-- A write to a register of the YCK block (R19, R118). -/
def yckWrite (off : Nat) (w : Word) (s : State) : State :=
  let y := s.yck
  if off = 0 then yckCtlWrite w s
  else if (off = 0x0C ∨ off = 0x10) ∧ bitOf (yckReg y 0) 0 then yckCfgErr s
  else if yckBad off w then yckCfgErr s
  else { s with yck := { y with regs := regWrite yckRows y.regs (bitOf (yckReg y 0) 8) off w } }

/-- Y0 or Y1 is lost on what its signals show (R93). -/
def yarnLostNow (y : Yck) : YarnSign → Bool
  | .amplitude mv periods => decide (mv < fld (yckCur y 0x18) 7 0 ∧ fld (yckCur y 0x18) 15 8 ≤ periods)
  | .phase err periods => decide (fld (yckCur y 0x18) 23 16 < err.natAbs ∧ fld (yckCur y 0x18) 15 8 ≤ periods)
  | .index misses => decide (0 < misses ∧ fld (yckCur y 0x14) 9 8 ≤ misses)

/-- What a yarn head shows (R93, R97, R98, R114): a missed index mark of the active head sets idx_miss, and the head is declared lost where
the sign has lasted; writes that wait for their zone's timing end (R115). -/
def yarnHeadLost (h : Fin 2) (sign : YarnSign) (s : State) : State :=
  let was := s.yck.preamble
  let s := match sign with
    | .index misses => if 0 < misses ∧ s.yck.running ∧ s.yck.active = some h then yckEvent 11 s else s
    | _ => s
  let s := if yarnLostNow s.yck sign then yarnLostW raise h s else s
  if s.yck.preamble ∧ was = false then kick (stcCond 0x21 0 0 s) else s

/-- YARN_HEAD_LOST (R93). -/
def execYarnHeadLost (h : Fin 2) (sign : YarnSign) (s : State) : Host.Outcome State Fault Refusal :=
  act s (yarnHeadLost h sign)

/-- A recovery PLL locks to its head's tone and index mark; with both locked, YCK measures the offset of Y1 relative to Y0 (R92, R94). -/
def yarnLock (h : Fin 2) (yofs : Nat) (s : State) : State :=
  let y := s.yck
  if y.running = false ∨ yarnFit y h = false ∨ y.head[h].locked then s
  else
    let o : YarnHead := y.head.get (1 - h)
    { s with yck := { y with
      head := y.head.set h { locked := true, qual := false }
      yofs := if o.locked then yofs else y.yofs } }

/-- YARN_PLL_LOCK (R92). -/
def execYarnPllLock (h : Fin 2) (yofs : Nat) (s : State) : Host.Outcome State Fault Refusal := act s (yarnLock h yofs)

/-- A fitted, locked head that is not active becomes qualified after SW_CFG.qual clean revolutions (R94). Where no head has been active since en was set it becomes
active (R95); in preamble mode it becomes active at the next index mark (R117). -/
def yarnQualified (h : Fin 2) (revs : Nat) (s : State) : State :=
  let y := s.yck
  if revs < fld (yckCur y 0x1C) 7 0 ∨ y.running = false ∨ yarnFit y h = false ∨ y.head[h].locked = false ∨ y.head[h].qual ∨ y.active = some h then s
  else
    let y := { y with head := y.head.set h { locked := true, qual := true } }
    let y := if y.preamble then { y with pendReturn := if y.pendReturn.isSome then y.pendReturn else some h }
      else if y.active = none then { y with active := some h }
      else y
    yckEvent (6 + h.val) { s with yck := y }

/-- YARN_HEAD_QUALIFIED (R94). -/
def execYarnHeadQualified (h : Fin 2) (revs : Nat) (s : State) : Host.Outcome State Fault Refusal := act s (yarnQualified h revs)

/-- A head becomes active with a remaining difference in 1/64 lane bit (R97, R99): it is slewed, and beyond one bit the timing
guard is up until the slewing ends. -/
def takeHead (h : Fin 2) (remainder : Int) (yofs : Nat) (s : State) : State :=
  let s := { s with yck := { s.yck with
    active := some h
    held := false
    pendSwitch := none
    yofs := yofs
    slewing := decide (remainder ≠ 0) } }
  let s := stcCond 0x20 h.val 0 (yckEvent 2 s)
  if 64 < remainder.natAbs then yckEvent 3 (guardAll { s with yck := { s.yck with guardSlew := true } }) else s

/-- The switchover after a loss (R97). -/
def switchover (remainder : Int) (yofs : Nat) (s : State) : State :=
  match s.yck.pendSwitch with
  | some h => takeHead h remainder yofs s
  | none => s

/-- SWITCHOVER (R97). -/
def execSwitchover (remainder : Int) (yofs : Nat) (s : State) : Host.Outcome State Fault Refusal :=
  act s (switchover remainder yofs)

/-- The forced switchover at the index mark (R100): the outgoing head stays locked and qualified. -/
def forcedSwitchover (remainder : Int) (yofs : Nat) (s : State) : State :=
  match s.yck.pendForce with
  | some h =>
    let s := { s with yck := { s.yck with pendForce := none } }
    if s.yck.head[h].qual ∧ s.yck.active.isSome ∧ s.yck.active ≠ some h ∧ s.yck.pendSwitch = none then takeHead h remainder yofs s else s
  | none => s

/-- FORCED_SWITCHOVER (R100). -/
def execForcedSwitchover (remainder : Int) (yofs : Nat) (s : State) : Host.Outcome State Fault Refusal :=
  act s (forcedSwitchover remainder yofs)

/-- The first sector start after a switchover or a mode change (R98, R114, R117). -/
def guardFall (s : State) : State :=
  if s.yck.pendSwitch.isSome then s else { s with yck := { s.yck with guardSector := false } }

/-- TIMING_GUARD_FALL (R98). -/
def execTimingGuardFall (s : State) : Host.Outcome State Fault Refusal := act s guardFall

/-- SLEW_DONE (R99). -/
def execSlewDone (s : State) : Host.Outcome State Fault Refusal :=
  act s fun s => { s with yck := { s.yck with slewing := false, guardSlew := false } }

/-- A qualified head becomes active at the index mark in preamble mode (R117). -/
def yarnReturn (s : State) : State :=
  match s.yck.pendReturn with
  | some h =>
    yckEvent 5 (guardAll { s with yck := { s.yck with active := some h, preamble := false, pendReturn := none, guardSector := true } })
  | none => s

/-- YARN_RETURN (R117). -/
def execYarnReturn (s : State) : Host.Outcome State Fault Refusal := act s yarnReturn

/-! ### Gauge rows (R104 to R107) -/

/-- The bytes a gauge row's CRC covers: bytes 0 to 11 and every entry (R104). -/
def gaugeBytes (s : State) (a : Nat) : List Byte := readBytes s a 12 ++ readBytes s (a + 16) (2 * wedges s.yck)

/-- The row's CRC matches (R105). -/
def gaugeCrcOk (s : State) (a : Nat) : Bool := decide (crc32c (gaugeBytes s a) = readLE s (a + 12) 4)

/-- Bytes of a row in memory, without its padding (R104). -/
def rowBytes (y : Yck) : Nat := 16 + 2 * wedges y

/-- The fields of the row at an address (R104): valid, zone, bpw; surface, coarse offset; writer offset; and entry g[w], in 1/64 bit. -/
def rowValid (s : State) (a : Nat) : Bool := (readLE s a 4).testBit 31
def rowZone (s : State) (a : Nat) : Nat := readLE s a 4 / 2 ^ 24 % 2 ^ 7
def rowBpw (s : State) (a : Nat) : Nat := readLE s a 4 % 2 ^ 20
def rowSurface (s : State) (a : Nat) : Nat := readLE s (a + 4) 4 / 2 ^ 24 % 2 ^ 6
def rowCoarse (s : State) (a : Nat) : Nat := readLE s (a + 4) 4 % 2 ^ 24
def rowWriter (s : State) (a : Nat) : Int := signed 24 (readLE s (a + 8) 4)
def gaugeEntry (s : State) (a w : Nat) : Int := signed 16 (readLE s (a + 16 + 2 * w) 2)

/-- The key of a row's copies: surface * 64 + zone. -/
def rowKey (s : State) (a : Nat) : Nat := rowSurface s a * 64 + rowZone s a

/-- Some entry of a row lies beyond 8 bits: it is not valid for writing (R151). -/
def rowOver (s : State) (a : Nat) : Bool := (List.range (wedges s.yck)).any fun w => decide (512 < (gaugeEntry s a w).natAbs)

/-- The address of the row a lane works from. -/
def laneRowAt (s : State) (l : LaneIx) : Nat := (yckReg s.yck (0x40 + 16 * l.val)).toNat

/-- The lane's row may time a write (R113, R151). -/
def rowWritable (s : State) (l : LaneIx) : Bool := s.yck.lane[l].rowOk && !rowOver s (laneRowAt s l)

/-- A row's CRC fails (R105): the event, the lane's row is invalid, and firmware reloads it from the RLD copy of that surface and zone. -/
def rowBroken (l : LaneIx) (key : Nat) (s : State) : State :=
  let a := laneRowAt s l
  let t := s.yck.lane[l]
  let timing : Timing := if t.timing = .yarn then .preamble else t.timing
  let s := yckEvent 9 { s with yck := { s.yck with lane := s.yck.lane.set l { t with rowOk := false, timing := timing, window := 32 } } }
  match keyGet s.yck.rldRows key [] with
  | [] => s
  | bs => writeBytes s a bs

/-- At the first sector of an operation NEXT becomes ROW, its CRC is checked, and the lane's timing follows (R105, R108, R114). -/
def gaugeRowMove (l : LaneIx) (s : State) : State :=
  let y := s.yck
  let a := (yckReg y (0x44 + 16 * l.val)).toNat
  let ok := gaugeCrcOk s a
  let zone := ((s.lane[l].pat.op).map OpDesc.zone).getD (rowZone s a)
  let surface := if laneSurface s l < 24 then laneSurface s l else rowSurface s a
  let pre := ((zoneOn s.media surface zone).map ZoneDesc.preamble).getD true
  let valid := ok && rowValid s a
  let yarn := valid && !pre && y.active.isSome
  let t : LaneTiming := { y.lane[l] with
    timing := if yarn then .yarn else if y.active.isSome ∨ (wckEngine s).isSome then .preamble else .none
    rowOk := valid
    zone := zone
    surface := surface
    window := if yarn then 8 else 32 }
  let s := { s with yck := { y with
    regs := regSet yckRows y.regs (0x40 + 16 * l.val) (BitVec.ofNat 32 a)
    lane := y.lane.set l t } }
  if ok then s else rowBroken l (surface * 64 + zone) s

/-- GAUGE_ROW_MOVE (R105). -/
def execGaugeRowMove (l : LaneIx) (s : State) : Host.Outcome State Fault Refusal := act s (gaugeRowMove l)

/-- The bit number P and the master phase of slot j on lane l (R102, R103, R108, R174): in yarn timing from the row (R26), whose CRC is checked
again at the fetch (R105), brought forward by the path's delay; with preamble acquisition the offset from the preceding SAM. -/
def predictSlot (l : LaneIx) (j : Nat) (lead : Int) (s : State) : State :=
  let a := laneRowAt s l
  let t := s.yck.lane[l]
  let s := if t.timing = .yarn ∧ gaugeCrcOk s a = false then rowBroken l (t.surface * 64 + t.zone) s else s
  let t := s.yck.lane[l]
  match zoneOn s.media t.surface t.zone with
  | none => s
  | some z =>
    let y := s.yck
    let w := wedges y
    let pw := wedgePeriods y
    let t :=
      if t.timing = .yarn then
        let p := syncBit z.preamble z.rate z.bpw z.span z.dreg j
        { t with bit := p, window := 8, phase := phaseMod (w * pw) (phaseOfBit (gaugeEntry s a) w (rowBpw s a) pw (rowCoarse s a) p lead) }
      else { t with bit := (samPlace z.preamble z.rate (fld (yckDiv s l) 3 0) z.bpw pw z.span z.dreg j).2, window := 32, phase := 0 }
    { s with yck := { y with lane := y.lane.set l t } }

/-- The wedge nearest to the midpoint of slot j (R106). -/
def midWedge (y : Yck) (z : ZoneDesc) (j : Nat) : Nat :=
  let b := dataBit z.bpw z.span z.dreg (slotIndex z.preamble z.rate z.dreg j (sectorBits z.preamble z.rate / 2))
  (b + z.bpw / 2) / z.bpw % wedges y

/-- A mean phase error of a sector in slot j is gathered for the entry nearest its midpoint (R106). -/
def gaugeReport (l : LaneIx) (j : Nat) (err : Int) (s : State) : State :=
  let y := s.yck
  let t := y.lane[l]
  match bitOf (yckCur y 0x34) 0, zoneOn s.media t.surface t.zone with
  | true, some z =>
    let a := laneRowAt s l
    let wedge := midWedge y z j
    let same := fun (x : GaugeAcc) => decide (x.row = a ∧ x.wedge = wedge)
    let acc := match y.acc.find? same with
      | some x => { x with sum := x.sum + err, count := x.count + 1 } :: y.acc.filter fun z => !same z
      | none => { row := a, wedge := wedge, sum := err, count := 1 } :: y.acc
    { s with yck := { y with acc := acc } }
  | _, _ => s

/-- One entry's gathered errors applied (R106): the clamped correction, or gauge_out for an outlier; the CRC is rewritten. -/
def gaugeEntryApply (x : GaugeAcc) (s : State) : State :=
  let c := yckCur s.yck 0x34
  let n : Int := ((max 1 x.count : Nat) : Int)
  if 4 * (fld c 23 16 : Int) * n ≤ (x.sum.natAbs : Int) then yckEvent 8 s
  else
    let slew : Int := fld c 15 8
    let d := clampInt (-slew) slew (Int.tdiv x.sum (n * 2 ^ fld c 7 4))
    let old := gaugeEntry s x.row x.wedge
    let s := writeLE s (x.row + 16 + 2 * x.wedge) 2 ((old + d) % 65536).toNat
    let s := writeLE s (x.row + 12) 4 (crc32c (gaugeBytes s x.row))
    let k := rowKey s x.row * 1024 + x.wedge
    { s with
      media := { s.media with
        factory := if s.media.factory.any fun f => decide (f.1 = k) then s.media.factory else keyPut s.media.factory k old }
      yck := { s.yck with dirty := if s.yck.dirty.contains x.row then s.yck.dirty else x.row :: s.yck.dirty } }

/-- The wedge boundary one revolution after the first errors of a wedge's entries (R106): they are applied, in whatever row they lie. -/
def gaugeApply (wedge : Nat) (s : State) : State :=
  let s := yckBoundary s
  let due := s.yck.acc.filter fun x => decide (x.wedge = wedge)
  due.foldl (fun t x => gaugeEntryApply x t) { s with yck := { s.yck with acc := s.yck.acc.filter fun x => decide (x.wedge ≠ wedge) } }

/-- GAUGE_UPDATE_APPLY (R106). -/
def execGaugeUpdateApply (wedge : Nat) (s : State) : Host.Outcome State Fault Refusal := act s (gaugeApply wedge)

/-- A calibration request joins the queue (R372): one request per member, recording zone and kind; what is queued already merges with
it. The request's ID, and the state. Kinds are the bits of CDW10 (R373); zone 64 is all zones. -/
def calAdd (member zone kinds : Nat) (s : State) : Nat × State :=
  let same := s.arr.calReqs.filter fun r => decide (r.member = member ∧ r.zone = zone)
  let left := same.foldl (fun k r => k - (k &&& r.kinds)) kinds
  match same.head?, decide (left = 0) with
  | some r, true => (r.id, s)
  | _, _ =>
    let id := s.arr.calNext
    let r : CalRequest := { id := id, member := member, zone := zone, kinds := left, poh := s.stc.pos }
    (id, { s with arr := { s.arr with calReqs := s.arr.calReqs ++ [r], calNext := (id + 1) % 65536 } })

/-- Firmware schedules an AFE calibration of a surface and recording zone (R178), with its gauge row's where that is the cause
(R107, R112, R151). -/
def scheduleCal (surface zone : Nat) (gauge : Bool) (s : State) : State :=
  (calAdd surface zone (2 ^ 16 + if gauge then 2 ^ 17 else 0) s).2

/-- One changed row goes to RLD and the metadata bands; an entry moved by more than 4 bits schedules a calibration (R107). -/
def gaugeSave (a : Nat) (s : State) : State :=
  let key := rowKey s a
  let bs := readBytes s a (rowBytes s.yck)
  let s := { s with
    media := { s.media with gaugeRows := keyPut s.media.gaugeRows key bs }
    yck := { s.yck with rldRows := keyPut s.yck.rldRows key bs } }
  let moved := s.media.factory.any fun f =>
    decide (f.1 / 1024 = key) && decide (256 < (gaugeEntry s a (f.1 % 1024) - f.2).natAbs)
  if moved then scheduleCal (key / 64) (key % 64) true s else s

/-- A write that a row's entry beyond 8 bits holds schedules the calibration of its surface and zone at once (R151). -/
def rowHeld (l : LaneIx) (s : State) : State :=
  let t := s.yck.lane[l]
  if t.rowOk ∧ rowOver s (laneRowAt s l) then scheduleCal t.surface t.zone true s else s

/-- The hourly write of gauge rows (R107). -/
def gaugeHourly (s : State) : State :=
  let s := s.yck.dirty.foldl (fun t a => gaugeSave a t) s
  { s with yck := { s.yck with dirty := [] } }

/-- GAUGE_HOURLY_WRITE (R107). -/
def execGaugeHourlyWrite (s : State) : Host.Outcome State Fault Refusal := act s gaugeHourly

/-- sync_dev of a decoded sector (R112): the run of skewed sectors of the surface and zone, gauge_skew and the calibration. -/
def syncDevReport (l : LaneIx) (dev : Int) (s : State) : State :=
  let y := s.yck
  let t := y.lane[l]
  let c := yckCur y 0x38
  let k := t.surface * 64 + t.zone
  let run := if t.timing = .yarn ∧ fld c 11 8 ≤ dev.natAbs then keyGet y.skew k 0 + 1 else 0
  let hit := decide (0 < run ∧ fld c 7 0 ≤ run)
  let s := { s with yck := { y with
    lane := y.lane.set l { t with syncDev := dev }
    skew := keySet y.skew k (if hit then 0 else run) 0 } }
  if hit then scheduleCal t.surface t.zone true (yckEvent 10 s) else s

end Sys2Proof.Machine
end

