-- ==== Sys2Proof/Machine/ReadPath.lean ====
section
/-!
DEFINITION. The meanings of the read-path and recovery commands (chapters "Read Signal Path" and "Detection, Codes and
Recovery", R171 to R216).
-/
namespace Sys2Proof.Machine
open Sys2Proof

/-! ### Events and registers -/

/-- The bin of group 0x05 that an event of LANE_FE_EVENT counts in (R192, R436). -/
def feBin (b : Nat) : Option Nat :=
  if b = 1 then some 0 else if b = 2 then some 1 else if b = 3 then some 2 else if b = 4 then some 3
  else if b = 5 then some 7 else none

/-- Bit b of LANE_FE_EVENT, its source, and its count (R192, R436). -/
def feEvent (l : LaneIx) (b : Nat) (s : State) : State :=
  let v := s.lane[l]
  let s := setLane l { v with regs := regSet laneRows v.regs 8 (laneReg v 8 ||| bitAt true b) } s
  let s := match feBin b with
    | some k => stcEntry 5 (laneSurface s l) k false s
    | none => s
  raise (srcLaneFe l.val b) s

/-- Bit b of LANE_DEC_EVENT and its source; raw_fail counts in group 0x05 (R215, R436). -/
def decEvent (l : LaneIx) (b : Nat) (s : State) : State :=
  let v := s.lane[l]
  let s := setLane l { v with regs := regSet laneRows v.regs 0x414 (laneReg v 0x414 ||| bitAt true b) } s
  let s := if b = 4 then stcEntry 5 (laneSurface s l) 4 false s else s
  raise (srcLaneDec l.val b) s

/-- Bit b of DDP_EVENT and its source (R216). -/
def ddpEvent (b : Nat) (s : State) : State :=
  raise (srcDdp b) { s with ddp := { s.ddp with regs := regSet ddpRows s.ddp.regs 0x808 (regGet ddpRows s.ddp.regs 0x808 ||| bitAt true b) } }

/-- A lane's Row sequencer runs in the sense of R32: from the dispatch of an operation's OP_BEGIN to the end of its OP_END, and inside a
customer routine; not while it is stopped or idles in the DSP loop at 0x000 with an empty FIFO (R192). -/
def rowRuns (v : Lane) : Bool :=
  decide (v.row.state ≠ .stopped) && (v.row.inCust || (v.pat.op.isSome && !v.row.fifo.any fun o => decide (o.1 = 0x01)))

/-- A front-end or detection register as it is in force (R192, R215). -/
def laneCur (v : Lane) (off : Nat) : Word := regGet laneRows v.cur off

/-- The track of an output of the lane's operation (R179). -/
def placeOf (v : Lane) (output : Nat) : TrackAt := { v.now.place with track := v.now.place.track + output }

/-- The board thermistor's reading reaches LANE_TEMP of every lane, once per second (R177). -/
def tempRefresh (celsius : Int) (s : State) : State :=
  { s with lane := s.lane.map fun v => { v with temp := clampInt (-128) 127 celsius } }

/-- LANE_TEMP_REFRESH (R177). -/
def execLaneTempRefresh (celsius : Int) (s : State) : Host.Outcome State Fault Refusal := act s (tempRefresh celsius)

/-- 400 ns after an operation start has enabled readers, they are usable (R177). -/
def feReady (l : LaneIx) (s : State) : State :=
  let v := s.lane[l]
  if v.rdrOn = 0 then s else setLane l { v with feReady := true } s

/-- FE_READY (R177). -/
def execFeReady (l : LaneIx) (s : State) : Host.Outcome State Fault Refusal := act s (feReady l)

/-- A reader is declared failed (R175): the event, its low bit, the mark firmware sets in LANE_RDR_MASK, and the end of a triple-track
operation at its next boundary. -/
def readerFail (l : LaneIx) (r : Fin 4) (s : State) : State :=
  let v := s.lane[l]
  let abort := v.pat.abort || ((v.pat.op.map fun d => decide (d.mode = 2)).getD false && v.rdrOn.getLsbD r.val)
  let mask := laneReg v 0x50 ||| bitAt true (4 * fld (laneReg v 0) 7 5 + r.val)
  feEvent l 4 (setLane l { v with
    regs := regSet laneRows v.regs 0x50 mask
    low := v.low.set r true
    pat := { v.pat with abort := abort } } s)

/-- READER_FAIL (R175). -/
def execReaderFail (l : LaneIx) (r : Fin 4) (s : State) : Host.Outcome State Fault Refusal := act s (readerFail l r)

/-! ### Preamplifier port (R191) -/

/-- A frame written to LANE_PA_CMD is queued; a ninth is ignored with cfg_err (R192). -/
def paQueue (l : LaneIx) (w : Word) (s : State) : State :=
  let v := s.lane[l]
  if 8 ≤ v.paQueue.length then feEvent l 10 s
  else setLane l { v with paQueue := v.paQueue ++ [BitVec.ofNat 16 (fld w 15 0)] } s

/-- PA_CMD_QUEUE (R191). -/
def execPaCmdQueue (l : LaneIx) (w : Word) (s : State) : Host.Outcome State Fault Refusal := act s (paQueue l w)

/-- The frame at the head of the queue is sent while WGATE is low; a read frame brings its data (R191). -/
def paSend (l : LaneIx) (data : Byte) (s : State) : State :=
  let v := s.lane[l]
  match v.paQueue with
  | [] => s
  | f :: t =>
    if wgate s l then s
    else setLane l { v with paQueue := t, paData := if f.getLsbD 15 then data.toNat else v.paData } s

/-- PA_FRAME_SEND (R191). -/
def execPaFrameSend (l : LaneIx) (data : Byte) (s : State) : Host.Outcome State Fault Refusal := act s (paSend l data)

/-! ### Head records, AFE and detector entries (R172 to R177, R194, R195) -/

/-- The address of the head record of head h (R172). -/
def headRecord (v : Lane) (h : Nat) : Nat := (laneReg v 0x0C).toNat + 2080 * h

/-- Fields of a head record (R172): readers fitted, reference reader, combined readers, verify reader, mirrored head, the delay of a reader in
1/64 bit, and SRV_REF_OFS for triple-track and combined reading. -/
def recFitted (s : State) (a : Nat) : Nat := fld (BitVec.ofNat 32 (readLE s a 2)) 3 0
def recRef (s : State) (a : Nat) : Nat := fld (BitVec.ofNat 32 (readLE s a 2)) 5 4
def recCmask (s : State) (a : Nat) : Nat := fld (BitVec.ofNat 32 (readLE s a 2)) 11 8
def recVreader (s : State) (a : Nat) : Nat := fld (BitVec.ofNat 32 (readLE s a 2)) 7 6
def recFlip (s : State) (a : Nat) : Bool := bitOf (BitVec.ofNat 32 (readLE s a 2)) 12
def recDelay (s : State) (a r : Nat) : Int := signed 16 (readLE s (a + 4 + 2 * r) 2)
def recOfsTri (s : State) (a : Nat) : Int := signed 16 (readLE s (a + 12) 2)
def recOfsComb (s : State) (a : Nat) : Int := signed 16 (readLE s (a + 14) 2)

/-- A head record passes its checks (R173). -/
def headRecordOk (s : State) (a : Nat) : Bool :=
  let fitted := recFitted s a
  let crc := crc32c (readBytes s a 16 ++ readBytes s (a + 32) 2048)
  decide (crc = readLE s (a + 16) 4) && decide (recDelay s a (recRef s a) = 0) &&
    ((List.range 4).all fun r => decide ((recDelay s a r).natAbs ≤ 2048)) &&
    fitted.testBit (recRef s a) && fitted.testBit (recVreader s a) && decide (recCmask s a &&& fitted = recCmask s a)

/-- The AFE entry of a zone and reader (R172, R176). -/
def afeEntry (s : State) (a z r : Nat) : Nat := readLE s (a + 32 + (4 * z + r) * 8) 8

/-- A reader is usable in a zone: fitted, not marked failed, and its entry valid (R175, R176). -/
def readerUsable (s : State) (v : Lane) (a h z r : Nat) : Bool :=
  (recFitted s a).testBit r && !bitOf (laneReg v 0x50) (4 * h + r) && (afeEntry s a z r).testBit 0

/-- The usable readers, bit per reader. -/
def usableReaders (s : State) (v : Lane) (a h z : Nat) : Nat :=
  (List.range 4).foldl (fun m r => if readerUsable s v a h z r then m + 2 ^ r else m) 0

/-- The reader of single-reader mode (R180): the reference reader, or the lowest-numbered usable one. -/
def singleReader (usable ref : Nat) : Nat :=
  if usable.testBit ref then ref else ((List.range 4).find? fun r => usable.testBit r).getD ref

/-- The reader of retry 8 (R210): the usable one other than the reference reader nearest the track centre; the readers lie in their numbers'
order, so it is the one nearest the reference reader's number. -/
def otherReader (usable ref : Nat) : Nat :=
  let away (r : Nat) : Nat := ((r : Int) - (ref : Int)).natAbs
  (((List.range 4).filter fun r => usable.testBit r && decide (r ≠ ref)).foldl
    (fun (b : Option Nat) r => if (b.map fun x => decide (away x ≤ away r)).getD false then b else some r) none).getD ref

/-- The gain applied to a reader, in 0.125 dB (R177). -/
def gainApplied (entry : Nat) (temp : Int) : Nat :=
  let tc := signed 8 (entry / 2 ^ 48 % 256)
  let tcal := signed 8 (entry / 2 ^ 13 % 256)
  (clampInt 0 255 ((entry / 2 ^ 56 % 256 : Nat) + (tc * (temp - tcal) + 16) / 32)).toNat

/-- The AFE entry is stale at this temperature (R178). -/
def afeStale (entry : Nat) (temp : Int) : Bool := decide (20 < (temp - signed 8 (entry / 2 ^ 13 % 256)).natAbs)

/-- A reader's settings in a zone, with a retry's gain in 0.25 dB on top (R176, R177, R210). -/
def readerSet (s : State) (v : Lane) (a z r : Nat) (gain : Int) : ReaderSet :=
  let e := afeEntry s a z r
  { gain := (clampInt 0 255 ((gainApplied e v.temp : Int) + 2 * gain)).toNat
    offset := signed 8 (e / 2 ^ 40 % 256)
    asym := signed 8 (e / 2 ^ 32 % 256)
    fc := e / 2 ^ 26 % 64
    boost := e / 2 ^ 21 % 32
    delay := recDelay s a r }

/-- The address of a detector entry (R194), and whether it passes its checks (R195). -/
def detEntry (v : Lane) (h z m : Nat) : Nat := (laneReg v 0x400).toNat + ((h * 64 + z) * 4 + m) * 64
def detEntryOk (s : State) (v : Lane) (h z m : Nat) : Bool :=
  let a := detEntry v h z m
  decide (crc32c (readBytes s a 60) = readLE s (a + 60) 4) && (readLE s (a + 39) 1).testBit 0 && decide (readLE s a 1 ≠ 0)

/-- The write-precompensation entry of a head and zone (R187). -/
def precompEntry (s : State) (v : Lane) (h z : Nat) : BitVec 64 := BitVec.ofNat 64 (readLE s ((laneReg v 0x14).toNat + h * 512 + z * 8) 8)

/-- The initial tap set of a head, zone and mode (R179): its place at LANE_EQ_TBL is not in the spec (log entry 139). -/
def initialTaps (s : State) (v : Lane) (h z m : Nat) : List Nat :=
  let a := (laneReg v 0x10).toNat + Config.tapPlace h z m
  (List.range 144).map fun k => readLE s (a + 4 * k) 4 % 1024

/-! ### Spare places and late recoveries (R165 to R168, R213) -/

/-- A slot enters the grown defect list, once (R166, R167). -/
def addGrown (d : Defect) (s : State) : State :=
  if defective s.media d.surface d.zone d.track d.slot ∨ grownPending s.media d.surface d.zone d.track d.slot then s
  else stcEntry 5 d.surface 6 false { s with media := { s.media with
    grown := s.media.grown ++ [d]
    grownLog := (d.surface, s.sys.ms) :: s.media.grownLog } }

/-- A sector is relocated to a spare band of its member (R166, R167, R213). -/
def relocate (p : TrackAt) (slot : Nat) (s : State) : State :=
  match extentAt s.media p.surface p.zone p.track with
  | none => s
  | some (e, _) =>
    if e.relocations.any fun r => decide (r.track = p.track ∧ r.slot = slot) then s
    else
      match spareSlot s.media p.surface p.zone with
      | none => spareShort s
      | some (z, t, k, fresh) =>
        let r : Relocation := { track := p.track, slot := slot, zone := z, toTrack := t, toSlot := k }
        let s := if fresh then takeSpare p.surface s else s
        { s with media := setExtent { e with relocations := e.relocations ++ [r] } s.media }

/-- What follows the recovery of a block at rung 3, 4 or 5 (R213): in a shingled extent its slot enters the grown list and the block is
relocated; in a conventional zone it awaits its rewrite in place. -/
def recoverLate (p : TrackAt) (slot : Nat) (s : State) : State :=
  let d : Defect := { surface := p.surface, zone := p.zone, track := p.track, slot := slot, live := false }
  match (zoneOn s.media p.surface p.zone).map ZoneDesc.area with
  | some 0 => relocate p slot (addGrown d s)
  | _ => if s.media.rewrite.contains d then s else { s with media := { s.media with rewrite := s.media.rewrite ++ [d] } }

/-! ### The recovery ladder (R204 to R213) -/

/-- Hold slots a sector of the running mode needs (R184). -/
def slotsNeeded (v : Lane) : Nat :=
  if v.modeOn = 2 then 4
  else if v.modeOn = 1 then max 2 ((List.range 4).filter fun r => v.rdrOn.getLsbD r).length
  else 1

/-- The entry of a sector on the ladder. -/
def ladderAt (v : Lane) (slot output : Nat) : Option Ladder := v.ladder.find? fun x => decide (x.slot = slot ∧ x.output = output)

/-- The ladder with a sector's entry replaced, added or removed; its pinned slots follow it. -/
def ladderPut (v : Lane) (x : Ladder) : Lane :=
  let old := ((ladderAt v x.slot x.output).map fun y => y.pinned).getD 0
  let hold := v.hold - old + x.pinned
  { v with
    ladder := x :: v.ladder.filter fun y => decide (¬ (y.slot = x.slot ∧ y.output = x.output))
    hold := hold
    holdHigh := max v.holdHigh hold }

def ladderDrop (v : Lane) (slot output : Nat) : Lane :=
  let old := ((ladderAt v slot output).map fun y => y.pinned).getD 0
  { v with
    ladder := v.ladder.filter fun y => decide (¬ (y.slot = slot ∧ y.output = output))
    hold := v.hold - old }

/-- A sector leaves the ladder recovered at a rung (R213): delivered to the sector buffer, counted, and from rung 3 on logged for the
member's counts and placed anew. -/
def deliver (l : LaneIx) (p : TrackAt) (slot output rung : Nat) (s : State) : State :=
  let v := ladderDrop s.lane[l] slot output
  let s := cryptSector l p slot (stcEntry 1 p.surface rung false (setLane l { v with sbuf := v.sbuf + 1 } s))
  if rung < 3 then s
  else recoverLate p slot { s with media := { s.media with rungLog := (p.surface, rung, s.sys.ms) :: s.media.rungLog } }

/-- A sector's read gives up (R205, R213): at rung 5 the block is reported unreadable and handed to surface parity; below it,
the ceiling has ended the read. -/
def giveUp (l : LaneIx) (p : TrackAt) (slot output : Nat) (atFive : Bool) (s : State) : State :=
  let s := setLane l (ladderDrop s.lane[l] slot output) s
  if atFive then
    let d : Defect := { surface := p.surface, zone := p.zone, track := p.track, slot := slot, live := false }
    decEvent l 9 { s with media := { s.media with
      rungLog := (p.surface, 5, s.sys.ms) :: s.media.rungLog
      handed := if s.media.handed.contains d then s.media.handed else s.media.handed ++ [d] } }
  else stcEntry 1 p.surface 6 true { s with media := { s.media with rungLog := (p.surface, 6, s.sys.ms) :: s.media.rungLog } }

/-- The first rung from r on that a read may use (R204, R205, R210). -/
def rungFrom (v : Lane) (noRetry : Bool) (r : Nat) : Nat :=
  if r = 3 ∧ (noRetry ∨ fld (laneCur v 0x408) 3 0 = 0) then 4 else r

/-- A sector goes on to rung r, or leaves the ladder beyond its ceiling (R205); pinned slots are freed. -/
def climb (l : LaneIx) (x : Ladder) (r : Nat) (s : State) : State :=
  let r := rungFrom s.lane[l] x.noRetry r
  if x.ceiling < r then giveUp l x.place x.slot x.output false s
  else if 5 ≤ r then giveUp l x.place x.slot x.output true s
  else setLane l (ladderPut s.lane[l] { x with rung := r, pinned := 0, cands := [] }) s

/-- A sector of the operation as it enters the ladder (R204, R205). -/
def newLadder (v : Lane) (slot output : Nat) : Ladder :=
  let c := ceilingOf v.now.source
  { place := placeOf v output, slot := slot, output := output, rung := 1, ceiling := c.1, noRetry := c.2, cands := [], best := none,
    pinned := 0, retries := 0 }

/-- A sector without an alignment skips rungs 1 and 2 (R204): missed in preamble acquisition, not read for want of room, or off-track. -/
def enterRetry (l : LaneIx) (slot output : Nat) (s : State) : State := climb l (newLadder s.lane[l] slot output) 3 s

/-- The readers' measurements of a sector (R175, R178): the status registers, the runs, and their events. -/
def readerMeasure (l : LaneIx) (r : Fin 4) (x : ReaderStat) (s : State) : State :=
  let v := s.lane[l]
  if v.rdrOn.getLsbD r.val = false then s
  else
    let cfg := laneCur v 0x28
    let clip := laneCur v 0x20
    let amp := if x.mean < fld cfg 7 0 then v.ampRun[r] + 1 else 0
    let run := if fld clip 11 0 < x.clipped then v.clipRun[r] + 1 else 0
    let ampHit := decide (0 < amp ∧ amp = fld cfg 11 8)
    let clipHit := decide (0 < run ∧ run = fld clip 19 16)
    let s := setLane l { v with
      mean := v.mean.set r x.mean
      clipped := v.clipped.set r x.clipped
      ampRun := v.ampRun.set r amp
      clipRun := v.clipRun.set r run } s
    let s := if ampHit then readerFail l r s else s
    if clipHit then scheduleCal (laneSurface s l) s.yck.lane[l].zone false (feEvent l 3 s) else s

/-- A diverged equalizer (R179): the event, the initial set at the next sector start, and a calibration at the second within one hour. -/
def eqDiverged (l : LaneIx) (s : State) : State :=
  let v := s.lane[l]
  let k := laneSurface s l * 64 + s.yck.lane[l].zone
  let again := v.diverged.any fun e => decide (e.1 = k ∧ s.sys.ms < e.2 + 3600000)
  let v := { v with
    row := { v.row with eqReload := true }
    diverged := (k, s.sys.ms) :: v.diverged.filter fun e => decide (s.sys.ms < e.2 + 3600000) }
  let s := feEvent l 5 (setLane l v s)
  if again then scheduleCal (laneSurface s l) s.yck.lane[l].zone false s else s

/-- The phase error of a sector that qualifies feeds the gauge entry (R106): not one recovered at an alternative alignment two bits or more
away, and in triple-track mode the mean of three outputs. -/
def gaugeFeed (l : LaneIx) (slot output : Nat) (triple : Bool) (err dev : Int) (alternative : Bool) (s : State) : State :=
  if s.yck.lane[l].timing ≠ .yarn ∨ (alternative ∧ 2 ≤ dev.natAbs) then s
  else if triple = false then gaugeReport l slot err s
  else
    let tri := (l.val, slot, output, err) ::
      s.yck.tri.filter fun e => decide (¬ (e.1 = l.val ∧ e.2.1 = slot ∧ e.2.2.1 = output))
    let mine := tri.filter fun e => decide (e.1 = l.val ∧ e.2.1 = slot)
    let sum := (mine.map fun e => e.2.2.2).foldl (fun a b => a + b) 0
    if mine.length = 3 then
      gaugeReport l slot (Int.tdiv sum 3) { s with yck := { s.yck with
        tri := tri.filter fun e => decide (¬ (e.1 = l.val ∧ e.2.1 = slot)) } }
    else { s with yck := { s.yck with tri := tri } }

/-- What every decoded sector reports (R106, R112): its sync_dev in the histogram of the head, the run of skewed sectors, and its phase
error. -/
def sectorReports (l : LaneIx) (p : TrackAt) (slot output : Nat) (triple : Bool) (err dev : Int) (flywheel alternative : Bool) (s : State) :
    State :=
  gaugeFeed l slot output triple err dev alternative (syncDevReport l dev (stcEntry 4 p.surface dev flywheel s))

/-- The sector ID expected on a track (R155). -/
def expectedId (m : Media) (p : TrackAt) (slot : Nat) : BitVec 64 :=
  let gen := ((extentAt m p.surface p.zone p.track).map fun e => e.1.generation).getD 0
  sectorId (BitVec.ofNat 6 p.surface) (BitVec.ofNat 24 p.track) (BitVec.ofNat 12 slot) (BitVec.ofNat 6 p.zone) (BitVec.ofNat 16 gen)

/-- The iteration budget of a zone (R199): passes and iterations of each; a zone not in force has the reference drive's. -/
def zoneIter (m : Media) (p : TrackAt) : Nat := ((zoneOn m p.surface p.zone).map ZoneDesc.iter).getD 0x44

/-- The end of an attempt on one output (R197, R203): a first attempt under backlog has the halved L; a pass of a first attempt knows the
neighbours that converged in an earlier pass, a candidate every one that has converged (R207). -/
def attemptEnd (m : Media) (v : Lane) (x : DecodeResult) (first : Bool) : AttemptEnd :=
  let iter := zoneIter m (placeOf v x.output.val)
  let each := if first && v.halved then halvedEach (iterEach iter) else iterEach iter
  let known (pass n : Nat) : Bool := v.known.any fun k => decide (k.1 = x.slot.val ∧ k.2.1 = n ∧ (first = false ∨ k.2.2 < pass))
  let mask (pass : Nat) : Nat := if v.modeOn = 2 then knownMask (known pass) x.output.val else 0
  runPasses each mask (fun k => x.checks.toList.getD k []) (iterPasses iter * each) 0 1

/-- An output has converged: its bits are exact in its neighbours' estimates from their next pass on (R196, R197). -/
def markKnown (v : Lane) (slot output pass : Nat) : Lane := { v with known := (slot, output, pass) :: v.known }

/-- A failed attempt (R111, R184, R207): the best alignment, the next candidate, or rung 2. -/
def attemptFailed (l : LaneIx) (x : DecodeResult) (unsat : Nat) (align : Int) (cands : List Int) (was : Option Ladder) (s : State) : State :=
  let v := s.lane[l]
  let old := was.getD (newLadder v x.slot.val x.output.val)
  let best := match old.best with
    | some (a, n) => if n ≤ unsat then some (a, n) else some (align, unsat)
    | none => some (align, unsat)
  let need := slotsNeeded v
  let mustPin : Bool := x.expiring && !cands.isEmpty && decide (old.pinned = 0)
  let canPin : Bool := decide (v.hold + need ≤ 16)
  let e : Ladder := { old with
    cands := if mustPin && !canPin then [] else cands
    best := best
    pinned := if mustPin && canPin then need else old.pinned }
  let s := setLane l (ladderPut v e) s
  let s := if mustPin && !canPin then feEvent l 6 s else s
  if e.cands = [] ∧ e.ceiling < 2 then climb l e 2 s else s

/-- A first attempt's side effects: the readers' measurements, its output's queue, and the backlog (R175, R178, R203). -/
def firstAttempt (l : LaneIx) (x : DecodeResult) (s : State) : State :=
  let s := (List.finRange 4).foldl (fun t r => readerMeasure l r x.readers[r] t) s
  let v := s.lane[l]
  let q := v.queue[x.output] - 1
  setLane l { v with queue := v.queue.set x.output q, halved := v.halved && !decide (q ≤ fld (laneCur v 0x404) 15 12) } s

/-- A sector that fails at its first alignment returns the taps to the snapshot of its start (R179). -/
def tapsRevert (l : LaneIx) (s : State) : State :=
  let v := s.lane[l]
  if bitOf (laneCur v 0x1C) 8 then setLane l { v with taps := v.snap } s else s

/-- The end of a decode attempt (R111, R112, R179, R197, R200, R203, R207): at D, at P under the flywheel, or at a candidate. A sector
without an alignment, or read off-track, goes to its retries (R137, R204; log entry 141). -/
def decodeDone (l : LaneIx) (x : DecodeResult) (s : State) : State :=
  let v := s.lane[l]
  let place := placeOf v x.output.val
  let was := ladderAt v x.slot.val x.output.val
  let first := was.isNone
  let yarn := decide (s.yck.lane[l].timing = .yarn)
  let window := if yarn then 8 else 32
  let found := syncFound window (fld (yckCur s.yck 0x30) 4 0) x.sync
  if (was.map fun e => decide (e.rung ≠ 1)).getD false then s
  else
    let s := if first then firstAttempt l x s else s
    if first ∧ (v.offTrack.contains (x.slot.val, x.output.val) ∨ (found = none ∧ yarn = false)) then enterRetry l x.slot.val x.output.val s
    else
      let align : Int := match was with
        | none => found.getD 0
        | some e => e.cands.headD (found.getD 0)
      let cands := match was with
        | none => alternatives window found
        | some e => e.cands.drop 1
      let a := attemptEnd s.media v x first
      let ok := a.converged && decide (x.id = expectedId s.media place x.slot.val) && x.piOk
      let s := if first then stcEntry 2 place.surface a.iterations (!a.converged) s else s
      let s := if x.tapLimit then eqDiverged l s else s
      let s := if a.converged ∧ ok = false then decEvent l 3 s else s
      if ok then
        let pass := (a.iterations - 1) / max 1 (iterEach (zoneIter s.media place))
        let s := setLane l (markKnown s.lane[l] x.slot.val x.output.val pass) s
        let s := sectorReports l place x.slot.val x.output.val (decide (v.modeOn = 2)) x.phaseErr align (found.isNone && first) (!first) s
        deliver l place x.slot.val x.output.val (if first then 0 else 1) s
      else
        attemptFailed l x a.unsat align cands was (if first then tapsRevert l s else s)

/-- DECODE_ATTEMPT_DONE (R200). -/
def execDecodeAttemptDone (l : LaneIx) (x : DecodeResult) (s : State) : Host.Outcome State Fault Refusal := act s (decodeDone l x)

/-! ### Rung 2: the deep-decode pool (R208, R209, R216) -/

/-- Deep decoder d serves: enabled and not failed (R216). -/
def deepOn (p : Ddp) (d : Fin 2) : Bool := bitOf (regGet ddpRows p.regs 0x800) d.val && !p.failed.getLsbD d.val

/-- Idle decoders take requests in arrival order (R208). -/
def poolServe (p : Ddp) : Ddp :=
  (List.finRange 2).foldl (fun (q : Ddp) d =>
    match q.queue with
    | [] => q
    | r :: t => if deepOn q d ∧ (q.running.get d).isNone then { q with queue := t, running := q.running.set d (some r) } else q) p

/-- A sector leaves rung 2 unserved: rung2_skip, and rung 3 (R208). -/
def rung2Skip (l : LaneIx) (e : Ladder) (s : State) : State := climb l e 3 (decEvent l 5 s)

/-- A sector whose rung 1 is over enters rung 2 (R208): pinned, and its request queued; or it goes on to rung 3. -/
def deepRequest (l : LaneIx) (slot output : Nat) (s : State) : State :=
  let v := s.lane[l]
  match ladderAt v slot output with
  | none => s
  | some e =>
    if e.rung ≠ 1 ∨ e.cands ≠ [] then s
    else if fld (laneCur v 0x408) 19 18 = 0 ∨ ((deepOn s.ddp 0) = false ∧ (deepOn s.ddp 1) = false) then climb l e 3 s
    else
      let need := if e.pinned = 0 then slotsNeeded v else 0
      let cfg := regGet ddpRows s.ddp.regs 0x80C
      let mine := (s.ddp.queue.filter fun q => decide (q.lane = l)).length
      if 16 < v.hold + need then rung2Skip l e (feEvent l 7 s)
      else if fld cfg 13 8 ≤ s.ddp.queue.length ∨ 8 ≤ mine then rung2Skip l e (ddpEvent 0 s)
      else
        let q : DeepReq := { lane := l, slot := slot, output := output, best := (e.best.map fun b => b.1).getD 0, place := e.place, head := v.now.head }
        let s := setLane l (ladderPut v { e with rung := 2, pinned := e.pinned + need }) s
        { s with ddp := poolServe { s.ddp with queue := s.ddp.queue ++ [q] } }

/-- DEEP_DECODE_REQUEST (R208). -/
def execDeepDecodeRequest (l : LaneIx) (slot : Fin 4096) (output : Fin 3) (s : State) : Host.Outcome State Fault Refusal :=
  act s (deepRequest l slot.val output.val)

/-- A request that has waited deep_wait is withdrawn (R208). -/
def deepTimeout (l : LaneIx) (slot output : Nat) (s : State) : State :=
  let hit := fun (q : DeepReq) => decide (q.lane = l ∧ q.slot = slot ∧ q.output = output)
  match s.ddp.queue.find? hit, ladderAt s.lane[l] slot output with
  | some _, some e => rung2Skip l e (ddpEvent 1 { s with ddp := { s.ddp with queue := s.ddp.queue.filter fun q => !hit q } })
  | _, _ => s

/-- DEEP_WAIT_TIMEOUT (R208). -/
def execDeepWaitTimeout (l : LaneIx) (slot : Fin 4096) (output : Fin 3) (s : State) : Host.Outcome State Fault Refusal :=
  act s (deepTimeout l slot.val output.val)

/-- The attempt of a deep decoder that converges first (R209): attempt i has DDP_CFG.iters iterations, and is skipped where it needs the
deep-decode entry and that fails its checks (R195). -/
def deepAttempt (s : State) (q : DeepReq) (x : DeepResult) : Option Nat :=
  let v := s.lane[q.lane]
  let budget := fld (regGet ddpRows s.ddp.regs 0x80C) 5 0
  (List.range (min 3 (fld (laneCur v 0x408) 19 18))).find? fun i =>
    (decide (i = 0) || detEntryOk s v q.head q.place.zone 3) && ((x.checks.getD i []).take budget).any fun u => decide (u = 0)

/-- A deep decoder has finished a request (R209): the sector is delivered, or passes to rung 3; the decoder takes the next. -/
def deepDone (d : Fin 2) (x : DeepResult) (s : State) : State :=
  match s.ddp.running.get d with
  | none => s
  | some q =>
    let hit := (deepAttempt s q x).isSome
    let s := { s with ddp := poolServe { s.ddp with running := s.ddp.running.set d none } }
    match ladderAt s.lane[q.lane] q.slot q.output with
    | none => s
    | some e =>
      let ok := hit && decide (x.id = expectedId s.media e.place e.slot) && x.piOk
      let s := if hit ∧ ok = false then decEvent q.lane 3 s else s
      if ok then
        let s := setLane q.lane (markKnown s.lane[q.lane] q.slot q.output 0) s
        let s := sectorReports q.lane e.place q.slot q.output (decide (s.lane[q.lane].modeOn = 2)) x.phaseErr q.best false true s
        deliver q.lane e.place q.slot q.output 2 s
      else climb q.lane e 3 s

/-- DEEP_DECODE_DONE (R209). -/
def execDeepDecodeDone (d : Fin 2) (x : DeepResult) (s : State) : Host.Outcome State Fault Refusal := act s (deepDone d x)

/-! ### Rungs 3 and 4 (R210, R212) -/

/-- The engine of a lane's actuator takes a reference offset, in 1/1,024 track (R180, R210): SRV_REF_OFS. -/
def setRefOfs (l : LaneIx) (ofs : Int) (s : State) : State :=
  match (laneAct s.flt l).bind fun a => engineOf s.flt a.val with
  | some e =>
    let x : Srv := s.srv.get e
    { s with srv := s.srv.set e { x with regs := regSet srvRows x.regs 0x10 (BitVec.ofInt 32 ofs &&& 0xFFFF#32) } }
  | none => s

/-- The setting of a retry (R210): the reader set of combined reading where the zone permits it, else of single-reader reading; the
offset added to the mode's, and the gain to every enabled reader's. -/
def retrySet (l : LaneIx) (p : TrackAt) (n : Nat) (s : State) : State :=
  let v := s.lane[l]
  let a := headRecord v v.now.head
  let c := laneCur v 0x408
  let (ofs, gain, other) := retrySetting n (fld c 13 4) (fld c 17 14)
  let usable := usableReaders s v a v.now.head p.zone
  let comb := ((zoneOn s.media p.surface p.zone).map fun z => z.rmodes.testBit 1).getD false && !other &&
    decide (2 ≤ ones 4 (usable &&& recCmask s a))
  let on := if comb then usable &&& recCmask s a else 2 ^ (if other then otherReader usable (recRef s a) else singleReader usable (recRef s a))
  let v := { v with
    modeOn := if comb then 1 else 0
    rdrOn := BitVec.ofNat 4 on
    now := { v.now with readers := Vector.ofFn fun r : Fin 4 => readerSet s v a p.zone r.val gain } }
  setRefOfs l ((if comb then recOfsComb s a else 0) + ofs) (setLane l v s)

/-- One sector's share of a retry revolution (R210): recovered, or a retry more; a read that found the servo off-track counts as one. -/
def retryOne (l : LaneIx) (xs : List SectorTry) (e : Ladder) (s : State) : State :=
  match (xs.find? fun x => decide (x.slot.val = e.slot ∧ x.output.val = e.output)).bind fun x => x.dev.map fun d => (d, x.phaseErr) with
  | some (dev, err) =>
    deliver l e.place e.slot e.output 3 (sectorReports l e.place e.slot e.output false err dev false true s)
  | none => setLane l (ladderPut s.lane[l] { e with retries := e.retries + 1 }) s

/-- The sectors of a track at rung 3. -/
def retryEntries (v : Lane) (track : Nat) : List Ladder := v.ladder.filter fun e => decide (e.rung = 3 ∧ e.place.track = track)

/-- The end of a track's retries (R210): its sectors still failing after retry_rev revolutions enter rung 4 together; the retry's setting
is taken back once none of the track is left. -/
def retryEnd (l : LaneIx) (p : TrackAt) (s : State) : State :=
  let v := s.lane[l]
  let rev := fld (laneCur v 0x408) 3 0
  let left := (retryEntries v p.track).filter fun e => decide (rev ≤ e.retries)
  let s := if left = [] then s else left.foldl (fun t e => climb l e 4 t) (decEvent l 6 s)
  if retryEntries s.lane[l] p.track = [] then retrySet l p 1 s else s

/-- RETRY_REVOLUTION (R206, R210): after the operation has ended, one revolution with the next setting for the failed sectors of the
lowest track that are at the same retry. -/
def retryRevolution (l : LaneIx) (xs : List SectorTry) (s : State) : State :=
  let v := s.lane[l]
  let all := v.ladder.filter fun e => decide (e.rung = 3)
  match all with
  | [] => s
  | e :: t =>
    if v.pat.op.isSome then s
    else
      let p := t.foldl (fun (b : TrackAt) x => if x.place.track < b.track then x.place else b) e.place
      let mine := retryEntries v p.track
      let n := mine.foldl (fun k x => min k x.retries) 8
      let now := mine.filter fun x => decide (x.retries = n)
      retryEnd l p (now.foldl (fun t x => retryOne l xs x t) (retrySet l p (n + 1) s))

def execRetryRevolution (l : LaneIx) (xs : List SectorTry) (s : State) : Host.Outcome State Fault Refusal :=
  act s (retryRevolution l xs)

/-- The dirty-region bit of some block of a row is set (R258). -/
def rowDirty (s : State) (n r : Nat) : Bool :=
  let d := 16 * (((keyGet (s.arr.zones.map fun z => (z.1, z.2.w)) n 2 : Nat)) - 2)
  s.spe.dirty.any fun x => decide (x.region / 64 = n ∧ x.region % 64 * 1024 < (r + 1) * d ∧ r * d < (x.region % 64 + 1) * 1024)

/-- The slots of a group of a track (R156). -/
def groupSlots (m : Media) (p : TrackAt) (g : Nat) : List Nat :=
  match zoneOn m p.surface p.zone with
  | some z => ((trackGroups m p.surface z p.track).filter fun x => decide (x.2.1 = g)).map Prod.fst
  | none => []

/-- A group of a conventional zone may hold stale selvage (R158, R212): it is known to, or the dirty-region bit of a row with a block in it
is set. -/
def groupDirty (s : State) (p : TrackAt) (g : Nat) : Bool :=
  match zoneOn s.media p.surface p.zone, extentAt s.media p.surface p.zone p.track with
  | some z, some (e, n) =>
    let slots := groupSlots s.media p g
    let blocks := (List.range (blockPlaces s.media e).length).filter fun b =>
      ((blockPlaces s.media e)[b]?.map fun q => decide (q.1 = n) && slots.contains q.2).getD false
    decide (z.area = 1) && (decide (keyGet s.media.groups (groupKey p.surface p.zone p.track g) .carries = .stale) ||
      blocks.any fun b => rowDirty s e.hzone (b / 16))
  | _, _ => false

/-- The outcome of rung 4 for a group (R212): none where the rung does not apply. -/
def selvageOutcome (s : State) (p : TrackAt) (x : SelvageTry) : Option Bool :=
  let lost := (erasures x.sectors).length
  let dirty := groupDirty s p x.group
  if (s.media.groups.any fun k => decide (k.1 = groupKey p.surface p.zone p.track x.group)) = false then none
  else if dirty ∧ x.hasPi = false then none
  else
    let code := if lost ≤ 3 then selvageClean x.sectors else decide (lost = 4) && x.hasPi && x.piPass
    some (code && (!dirty || x.piPass))

/-- Erasure decoding of a group (R212): its sectors leave the ladder together, or go to rung 5. -/
def selvageDecode (l : LaneIx) (x : SelvageTry) (s : State) : State :=
  let four := s.lane[l].ladder.filter fun e => decide (e.rung = 4 ∧ e.output = x.output.val)
  match four with
  | [] => s
  | f :: _ =>
    let slots := groupSlots s.media f.place x.group
    let es := four.filter fun e => decide (e.place = f.place) && slots.contains e.slot
    if es = [] then s
    else
      match selvageOutcome s f.place x with
      | some true => es.foldl (fun t e => deliver l e.place e.slot e.output 4 t) (decEvent l 7 s)
      | some false => es.foldl (fun t e => climb l e 5 t) (decEvent l 8 s)
      | none => es.foldl (fun t e => climb l e 5 t) s

/-- SELVAGE_DECODE (R212). -/
def execSelvageDecode (l : LaneIx) (x : SelvageTry) (s : State) : Host.Outcome State Fault Refusal := act s (selvageDecode l x)

/-! ### Slips and read-after-write (R162 to R166, R190, R214) -/

/-- A slip record (R164). -/
def slipRecord (track slot newSlot cause newTrack seq : Nat) : BitVec 64 :=
  BitVec.ofNat 64 (track * 2 ^ 56 + slot * 2 ^ 44 + newSlot * 2 ^ 32 + cause * 2 ^ 28 + newTrack * 2 ^ 20 + seq)

/-- The rest of an extent goes to an extension in a spare band of the member (R165). -/
def extend (e : Extent) (n : Nat) (s : State) : State :=
  if e.extension.isSome then s
  else
    match sparePlace s.media e.member e.place.zone (e.place.tracks - n) with
    | some x => takeSpare e.member { s with media := setExtent { e with extension := some x } s.media }
    | none => spareShort s

/-- The next data slot of the lane's track behind its planned ones, for the block that a slip moves on (R162, R236). -/
def slotBehind (m : Media) (v : Lane) : Option Nat :=
  let p := v.now.place
  let planned := v.pat.codes.foldl (fun b c => if c.1 = 0x20 then max b (c.2 % 4096 + c.2 / 4096) else b) 0
  (zoneOn m p.surface p.zone).bind fun z => (dataSlots m p.surface z p.track).find? fun j => decide (planned ≤ j)

/-- Every block not yet started moves back by one slot (R236): the operation writes one slot more, where its track still has one. -/
def moveBack (l : LaneIx) (s : State) : State :=
  let v := s.lane[l]
  match v.pat.op, slotBehind s.media v, v.pat.todo.getLast? with
  | some _, some j, some (0x02, a) =>
    let c := (0x20, 4096 + j)
    setLane l { v with pat := { v.pat with todo := v.pat.todo.dropLast ++ [c, (0x02, a)], codes := v.pat.codes ++ [c] } } s
  | _, _, _ => s

/-- A slip record for a slot of the lane's track (R162, R164, R165): its block takes the extent's next free slot from the slot `at_` on, behind it
while that is being written; without one, or beyond 128 records, the rest goes to an extension. -/
def addSlip (l : LaneIx) (slot cause at_ : Nat) (writing : Bool) (s : State) : State :=
  let v := s.lane[l]
  let p := v.now.place
  match extentAt s.media p.surface p.zone p.track with
  | none => s
  | some (e, n) =>
    match decide (128 ≤ e.slips.length), nextFree s.media e (n, at_) writing with
    | false, some q =>
      let r := slipRecord n slot q.2 cause q.1 e.slips.length
      let s := setLane l { v with pat := { v.pat with slips := v.pat.slips ++ [r] } } s
      let s := { s with media := setExtent { e with slips := e.slips ++ [r] } s.media }
      moveBack l (stcEntry 5 p.surface 5 false s)
    | _, _ => extend e n s

/-- The verify criteria (R214), for a zone's rate. -/
def verifyPass (v : Lane) (yarn : Bool) (thr : Nat) (rate : Fin 4) (id : BitVec 64) (x : VerifyResult) : Bool :=
  let c := laneCur v 0x40C
  let found := syncFound (if yarn then 8 else 32) thr x.sync
  let n := (x.checks.takeWhile fun u => decide (u ≠ 0)).length + 1
  (found.map fun d => !yarn || decide (d.natAbs ≤ fld c 11 8)).getD false &&
    decide (256 * x.checks.headD 1 ≤ fld c 23 16 * parityBits rate) &&
    decide (n ≤ x.checks.length ∧ n ≤ fld c 4 0) && decide (x.id = id) && x.piOk && decide (fld (laneCur v 0x28) 7 0 ≤ x.mean)

/-- A verify read takes place in a zone (R162, R163): on the trailing reader while LANE_FE_CTL.verify is 1, or as a re-read. -/
def verifies (v : Lane) (z : ZoneDesc) (reread : Bool) : Bool :=
  (decide (z.raw = 1) && !reread && bitOf (laneReg v 0) 16) || (decide (z.raw = 2 ∨ v.now.kind = 2) && reread && decide (z.raw ≠ 0))

/-- A sector that fails its check in a conventional zone (R166): a rewrite in place on the next revolution; if it fails again, the grown
list and a relocation. -/
def verifyConventional (p : TrackAt) (slot : Nat) (s : State) : State :=
  let d : Defect := { surface := p.surface, zone := p.zone, track := p.track, slot := slot, live := false }
  if s.media.rewrite.contains d then
    relocate p slot (addGrown { d with live := true } { s with media := { s.media with rewrite := s.media.rewrite.filter fun x => decide (x ≠ d) } })
  else { s with media := { s.media with rewrite := s.media.rewrite ++ [d] } }

/-- A verify verdict (R162, R163, R166, R214, R228). -/
def rawVerdict (l : LaneIx) (x : VerifyResult) (s : State) : State :=
  let v := s.lane[l]
  let p := v.now.place
  match zoneOn s.media p.surface p.zone with
  | none => s
  | some z =>
    let d : Defect := { surface := p.surface, zone := p.zone, track := p.track, slot := x.slot.val, live := false }
    if verifies v z x.reread = false then s
    else if verifyPass v (decide (s.yck.lane[l].timing = .yarn)) (fld (yckCur s.yck 0x30) 4 0) z.rate (expectedId s.media p x.slot.val) x then
      { s with media := { s.media with rewrite := s.media.rewrite.filter fun y => decide (y ≠ d) } }
    else
      let s := decEvent l 4 s
      if z.area = 0 then addSlip l x.slot.val (if x.reread then 2 else 1) v.row.slot v.row.wgReq s else verifyConventional p x.slot.val s

/-- RAW_VERDICT (R214). -/
def execRawVerdict (l : LaneIx) (x : VerifyResult) (s : State) : Host.Outcome State Fault Refusal := act s (rawVerdict l x)

end Sys2Proof.Machine
end

