-- ==== Sys2Proof/Machine/RowSeq.lean ====
section
/-!
DEFINITION. The Row sequencer: its words, traps, faults, machine checks and repair, and the opcodes (R217 to R234, R237).
-/
namespace Sys2Proof.Machine
open Sys2Proof

/-! ### Words (R220) -/

/-- Bits [hi:lo] of a Row word. -/
def wf (w : BitVec 144) (hi lo : Nat) : Nat := (w.toNat >>> lo) % 2 ^ (hi - lo + 1)

/-- The quarters of a word whose parity is not odd, bit per quarter (R220). -/
def badQuarters (w : BitVec 144) : Nat :=
  (List.range 4).foldl (fun m q => if ones 36 (wf w (36 * q + 35) (36 * q)) % 2 = 1 then m else m + 2 ^ q) 0

/-- Every dispatch entry holds an odd number of 1 bits (R232). -/
def entryBad (e : BitVec 13) : Bool := decide (ones 13 e.toNat % 2 = 0)

/-- A word that sets a reserved bit, or a reserved code of a field (R220). -/
def reservedWord (w : BitVec 144) : Bool :=
  decide (wf w 111 108 ≠ 0 ∨ wf w 77 72 ≠ 0 ∨ wf w 51 36 ≠ 0 ∨ wf w 10 0 ≠ 0 ∨ wf w 106 105 = 3 ∨ wf w 104 103 = 3 ∨
    2 ≤ wf w 102 101 ∨ 6 ≤ wf w 94 92 ∨ 3 ≤ wf w 91 89 ∨ 5 ≤ wf w 70 68 ∨ wf w 67 66 = 3 ∨ wf w 65 64 = 3 ∨
    wf w 63 62 = 3 ∨ wf w 59 58 = 3 ∨ 4 ≤ wf w 55 52)

/-- Four quarters of 35 bits, each with its odd parity bit (R220). -/
def oddQuarters (x : BitVec 140) : BitVec 144 :=
  BitVec.ofNat 144 ((List.range 4).foldl (fun n q =>
    let d := x.toNat / 2 ^ (35 * q) % 2 ^ 35
    n + (d + if ones 35 d % 2 = 0 then 2 ^ 35 else 0) * 2 ^ (36 * q)) 0)

/-- A dispatch address with its odd parity (R232). -/
def oddEntry (x : BitVec 12) : BitVec 13 := BitVec.ofNat 13 (x.toNat + if ones 12 x.toNat % 2 = 0 then 2 ^ 12 else 0)

/-- The words of the image that POST loaded into a lane (R298). -/
def imageWord (i : Option Nat) (a : Nat) : BitVec 144 := (i.map fun v => oddQuarters (Config.rowImage v a)).getD 0
def imageEntry (i : Option Nat) (e : Nat) : BitVec 13 := (i.map fun v => oddEntry (Config.dispatchImage v e)).getD 0
def imageDarn (i : Option Nat) (a : Nat) : BitVec 64 := (i.map fun v => Config.darnImage v a).getD 0

/-- A word of the Row store, and the store with it set. -/
def storeGet (r : Row) (a : Nat) : BitVec 144 := keyGet r.store a (imageWord r.image a)
def storeSet (r : Row) (a : Nat) (w : BitVec 144) : Row := { r with store := keySet r.store a w (imageWord r.image a) }

/-- A dispatch entry of either copy set. -/
def dispatchSet (r : Row) (second : Bool) (e : Nat) (w : BitVec 13) : Row :=
  if second then { r with dispatch2 := keySet r.dispatch2 e w (imageEntry r.image e) }
  else { r with dispatch := keySet r.dispatch e w (imageEntry r.image e) }

/-- A darn word, and darn RAM with it set (R240). -/
def darnGet (v : Lane) (a : Nat) : BitVec 64 := keyGet v.pat.darn a (imageDarn v.pat.image a)
def darnSet (v : Lane) (a : Nat) (w : BitVec 64) : Pat := { v.pat with darn := keySet v.pat.darn a w (imageDarn v.pat.image a) }

/-- The word fetched from a logical address: a remapped address comes from its spare (R234). -/
def rowFetch (r : Row) (a : Nat) : BitVec 144 :=
  match r.remap.find? fun x => decide (x.2 = a) with
  | some (k, _) => keyGet r.spare k 0
  | none => storeGet r a

/-- The dispatch entry of an opcode, from the copy in use (R234). -/
def dispatchEntry (r : Row) (op : Nat) : BitVec 13 :=
  keyGet (if r.secondCopy then r.dispatch2 else r.dispatch) op (imageEntry r.image op)

/-- Customer words (R229). -/
def custAddr (a : Nat) : Bool := decide (0xE00 ≤ a)

/-! ### Registers and events (R243) -/

/-- Bit b of LANE_ROW_EVENT and its source. -/
def rowEvent (l : LaneIx) (b : Nat) (s : State) : State :=
  let v := s.lane[l]
  raise (srcLaneRow l.val b) (setLane l { v with regs := regSet laneRows v.regs 0x1008 (laneReg v 0x1008 ||| bitAt true b) } s)

/-- Bit b of LANE_PAT_EVENT and its source. -/
def patEvent (l : LaneIx) (b : Nat) (s : State) : State :=
  let v := s.lane[l]
  raise (srcLanePat l.val b) (setLane l { v with regs := regSet laneRows v.regs 0x1108 (laneReg v 0x1108 ||| bitAt true b) } s)

def setRow (l : LaneIx) (r : Row) (s : State) : State := setLane l { s.lane[l] with row := r } s
def setPat (l : LaneIx) (p : Pat) (s : State) : State := setLane l { s.lane[l] with pat := p } s

/-- LANE_ROW_CTL and LANE_PAT_CTL. -/
def rowCtl (v : Lane) : Word := laneReg v 0x1000
def patCtl (v : Lane) : Word := laneReg v 0x1100

/-! ### Status and completion (R226, R236) -/

/-- The outputs of a mode, bit per output. -/
def modeOutputs (mode : Nat) : Nat := if mode = 2 then 7 else 1

/-- A captured sector joins the first-attempt queue of each output; at bl_hi sectors L is halved (R203). -/
def queueAttempt (l : LaneIx) (mask : Nat) (s : State) : State :=
  let v := s.lane[l]
  let q := Vector.ofFn fun o : Fin 3 => if mask.testBit o.val then v.queue[o] + 1 else v.queue[o]
  let hi := fld (laneCur v 0x404) 11 8
  let excess := q.toList.any fun n => decide (hi ≤ n)
  let s := setLane l { v with queue := q, halved := v.halved || excess } s
  if excess ∧ v.halved = false then decEvent l 2 s else s

/-- The slots that an operation's runs take, in their order (R236). -/
def plannedSlots (codes : List (Nat × Nat)) : List Nat :=
  (codes.filter fun c => decide (0x10 ≤ c.1 ∧ c.1 ≤ 0x21)).flatMap fun c => (List.range (c.2 / 4096)).map fun i => c.2 % 4096 + i

/-- The first slot of an operation's runs without stat 1 or stat 2, else the slot behind its range (R233, R236). -/
def firstNotDone (d : OpDesc) (codes : List (Nat × Nat)) (posts : List RowStatus) : Nat :=
  ((plannedSlots codes).find? fun j => !posts.any fun p => decide ((p.stat = 1 ∨ p.stat = 2) ∧ p.slot = j)).getD (d.first + d.count)

/-- The words of a completion packet: tag, status and first slot not done, and the slip records (R236). -/
def doneWords (c : OpDone) : List Word :=
  c.tag :: (fldAt c.status 31 28 ||| fldAt c.firstNotDone 11 0) ::
    c.slips.flatMap fun r => [BitVec.ofNat 32 r.toNat, BitVec.ofNat 32 (r.toNat / 2 ^ 32)]

/-- A fetch from ROM address a (R238): the lowest-numbered enabled match register that names it sends the fetch to darn RAM. -/
def patFetch (v : Lane) (a : Nat) : Option Nat :=
  ((List.range 32).find? fun k => let m := laneReg v (0x1180 + 4 * k)
    bitOf m 31 && decide (fld m 13 0 = a)).map fun k => fld (laneReg v (0x1180 + 4 * k)) 23 16

/-- The darn address that k words of sequential execution from a patch's first word lead to (R238). -/
def darnAt (first k : Nat) : Nat := (first + k) % 256

/-- Where the Pattern engine's instruction address goes is not open (R237, R243; log entry 124): a free ROM address, where a match sends it to
darn RAM, and a free number of words on in a patch that an enabled match register names, until one jumps back (R238). -/
def patMoves (l : LaneIx) (s : State) : State :=
  let (x, s) := freeNext s
  let v := s.lane[l]
  let a := x.toNat % 16384
  let starts := (List.range 32).filterMap fun k => let m := laneReg v (0x1180 + 4 * k)
    if bitOf m 31 ∧ patFetch v (fld m 13 0) = some (fld m 23 16) then some (fld m 23 16) else none
  let within := (patFetch v a).map fun b => (b, x.toNat / 16384 % 256)
  let inside := match within with
    | some p => some p
    | none => if x.getLsbD 40 then (starts[x.toNat / 2 ^ 22 % 32]?).map fun b => (b, x.toNat / 16384 % 256) else none
  match inside with
  | some (b, k) => setPat l { v.pat with pc := darnAt b k, inDarn := true } s
  | none => setPat l { v.pat with pc := a, inDarn := false } s

/-- A sector starts (R179): the initial taps are reloaded where that is due, the snapshot is taken, and the taps adapt to 144 free values unless
adaptation is frozen (log entry 124). -/
def tapsMove (l : LaneIx) (s : State) : State :=
  let v := s.lane[l]
  let base : Taps := if v.row.eqReload then .initial else v.taps
  let taps : Taps := if v.row.eqFrozen then base else .adapted s.free
  setLane l { v with taps := taps, snap := base, row := { v.row with eqReload := false } } { s with free := s.free + 144 }

/-- An operation that a lane started on a head has ended (R275, R276): with a preamplifier fault, or in another way, which breaks the run. -/
def noteHeadEnd (surface : Nat) (fault : Bool) (s : State) : State :=
  let m := s.media
  { s with media := if fault then { m with paLog := (surface, s.sys.ms) :: m.paLog, paRun := keyPut m.paRun surface (keyGet m.paRun surface 0 + 1) }
                    else { m with paRun := keySet m.paRun surface 0 0 } }

/-- The operation ends and its completion is posted to the completion ring (R236); under quiesce the engine is then held (R242). -/
def opFinish (l : LaneIx) (status : Nat) (s : State) : State :=
  let v := s.lane[l]
  match v.pat.op with
  | none => s
  | some d =>
    let c : OpDone := { tag := d.tag, status := status, firstNotDone := firstNotDone d v.pat.codes v.row.posts, slips := v.pat.slips }
    let held := bitOf (patCtl v) 1
    let p := { v.pat with
      state := if held then .quiesced else .idle
      op := none
      abort := false
      slips := []
      checks := 0
      todo := []
      codes := []
      done := c :: v.pat.done }
    let regs := if d.custWr then regSet laneRows v.regs 0x1000 (setFld (rowCtl v) 2 2 0) else v.regs
    let s := setLane l { v with regs := regs, pat := p, row := { v.row with posts := [], fifo := [] } } s
    let s := ((laneAct s.flt l).map fun a => noteHeadEnd (surfaceOf a d.head) (decide (status = 4)) s).getD s
    let s := { s with yck := { s.yck with tri := s.yck.tri.filter fun e => decide (e.1 ≠ l.val) } }
    let s := patMoves l (hqmPost (64 + l.val) (fld (laneReg v 0x1110) 29 16) (doneWords c) s)
    if held then patEvent l 5 s else s

/-- The status an operation's statuses give it (R236): a preamplifier fault, ended early, or done. -/
def opStatus (d : OpDesc) (codes : List (Nat × Nat)) (posts : List RowStatus) (abort : Bool) : Nat :=
  if posts.any fun p => decide (p.stat = 6) then 4
  else if abort ∨ (d.kind ≠ 4 ∧ firstNotDone d codes posts < d.first + d.count) then 1
  else 0

/-- The operation end that stat 10 reports (R226, R236). -/
def opEnd (l : LaneIx) (s : State) : State :=
  let v := s.lane[l]
  match v.pat.op with
  | some d => opFinish l (opStatus d v.pat.codes v.row.posts v.pat.abort) s
  | none => s

/-- A status record is posted to the Pattern engine (R226); stat 4 also sets sbuf_full, 6 pa_fault, 7 pi_write, and 10 ends the
operation. -/
def rowPost (l : LaneIx) (stat mask : Nat) (s : State) : State :=
  if stat = 0 ∨ 13 ≤ stat then s
  else
    let r := s.lane[l].row
    let s := setRow l { r with posts := r.posts ++ [{ stat := stat, mask := mask, slot := r.slot }], custPosted := true } s
    let s := if stat = 1 then tapsMove l (queueAttempt l mask s) else s
    let s := if stat = 7 then feEvent l 2 s else s
    let s := if stat = 6 then feEvent l 9 s else s
    let s := if stat = 4 then feEvent l 8 s else s
    if stat = 10 then opEnd l s else s

/-! ### Faults and machine checks (R226, R227, R233, R234) -/

/-- The words of an operation descriptor (R235). -/
def descWords (d : OpDesc) : List Word :=
  [fldAt d.kind 31 28 ||| fldAt d.mode 27 26 ||| bitAt d.verify 25 ||| bitAt d.custWr 24 ||| fldAt d.rdrEn 23 20 ||| fldAt d.head 19 17 |||
    fldAt d.zone 16 11, fldAt d.track 23 0, fldAt d.first 11 0 ||| fldAt d.count 23 12, d.row, d.slotmap, d.chain, d.tag] ++
    (List.range 5).map fun i => ((d.pairs[i]?).map fun p => fldAt p.1 31 24 ||| fldAt p.2 23 0).getD 0

/-- The lost operation of lane l is issued again through the command ring of lane t (R39, R227, R233, R427; log entry 125). -/
def reissue (l t : LaneIx) (s : State) : State :=
  let p := s.lane[l].pat
  match p.lost with
  | some d => hqmPost 0 (fld (laneReg s.lane[t] 0x1110) 13 0) (descWords d) (setPat l { p with lost := none } s)
  | none => s

/-- A sequencer fault (R227): the write request falls, the sequencer stops, the operation ends with op_fail, and firmware issues it
once more. One in a customer word clears cust_en; an operation that causes 10 and 11 ended completes with status 1 (R229). -/
def rowFault (l : LaneIx) (cause : Nat) (s : State) : State :=
  let v := s.lane[l]
  let cust := custAddr v.row.pc || v.row.inCust
  let ctl := if cust then setFld (rowCtl v) 1 1 0 else rowCtl v
  let r := { v.row with
    state := .fault
    wgReq := false
    inCust := false
    fault := fldAt v.row.pc 11 0 ||| fldAt cause 31 28 }
  let s := setLane l { v with row := r, regs := regSet laneRows v.regs 0x1000 ctl } s
  let recent := s.sys.ms :: (s.flt.seqFaults[l]).filter fun t => decide (s.sys.ms < t + 3600000)
  let s := if cust then s else { s with flt := { s.flt with seqFaults := s.flt.seqFaults.set l recent } }
  let s := match v.pat.op with
    | some d =>
      let s := opFinish l (if cust ∧ (cause = 10 ∨ cause = 11) then 1 else 3) (patEvent l 3 s)
      if cust ∨ s.lane[l].pat.once = some d.tag then s else setPat l { s.lane[l].pat with lost := some d, once := some d.tag } s
    | none => s
  rowEvent l 3 s

/-- A parity error in a fetched word or dispatch entry (R233): the gate is forced off, the sequencer stops, and the error is
logged with its address; entries are logged at 0x1000 and up. -/
def rowMachineCheck (l : LaneIx) (addr quarters cause : Nat) (s : State) : State :=
  let v := s.lane[l]
  let r := { v.row with
    state := .machineCheck
    errors := ((addr, s.sys.ms) :: v.row.errors).take 16
    fault := fldAt addr 11 0 ||| fldAt quarters 19 16 ||| fldAt cause 31 28 }
  let s := guardLane l (setLane l { v with row := r, parityHold := true } s)
  let s := setLane l { s.lane[l] with row := { s.lane[l].row with wgReq := false } } s
  rowEvent l 0 s

/-! ### Conditions (R223) and traps (R225) -/

/-- Guard of lane l permits the gate (R189). -/
def guardOk (s : State) (l : LaneIx) : Bool := decide (guardCauses s l = 0)

/-- PA_FAULT_N as the source multiplexers bring it to lane l is low (R57). -/
def paFaultNow (s : State) (l : LaneIx) : Bool :=
  decide (laneBind s.flt l.val ≠ 5) && (List.finRange 4).any fun a => decide (laneOn s a = l) && s.sys.paFault.getLsbD a.val

/-- The recording zone of the lane's operation, and the bits of its revolution (R101, R220). -/
def laneZone (s : State) (l : LaneIx) : Option ZoneDesc := zoneOn s.media s.lane[l].now.place.surface s.lane[l].now.place.zone
def revBits (s : State) (z : ZoneDesc) : Nat := wedges s.yck * z.bpw

/-- The bit number of bit b of slot j (R154). -/
def slotBit (z : ZoneDesc) (j b : Nat) : Nat := dataBit z.bpw z.span z.dreg (slotIndex z.preamble z.rate z.dreg j b)
def slotEnd (z : ZoneDesc) (j : Nat) : Nat := slotBit z j (sectorBits z.preamble z.rate - 1)

/-- The bits of a symbol; the last one of a revolution may be shorter (R217). -/
def symbolBits (rev sym : Nat) : List Nat := ((List.range 16).map fun k => 16 * sym + k).filter fun k => decide (k < rev)

/-- How many bits of a revolution lie from bit a on to bit b. -/
def ahead (rev a b : Nat) : Nat := (b % rev + rev - a % rev) % rev

/-- A predicted condition holds in a symbol (R219, R223): with wg 1 or 2 it is taken wg_lead bits before or wg_trail bits after the event
(R222). -/
def rowPredicted (s : State) (l : LaneIx) (wg sym c : Nat) : Bool :=
  match laneZone s l with
  | none => false
  | some z =>
    let v := s.lane[l]
    let rev := revBits s z
    let cfg := laneCur v 0x24
    let lead := if wg = 1 ∧ (c = 1 ∨ c = 2) then fld cfg 3 0 else 0
    let trail := if wg = 2 ∧ 3 ≤ c ∧ c ≤ 5 then fld cfg 11 8 else 0
    let rgnEnd (k : Nat) : Bool := decide ((k + z.bpw - trail) % z.bpw = z.bpw - marginBits - 1)
    let secEnd (k : Nat) : Bool := (v.row.srcLast.map fun b => decide ((k + rev - trail) % rev = b % rev)).getD false
    if c = 6 then (dataIndex z.bpw z.span z.dreg v.row.mark).isSome
    else (symbolBits rev sym).any fun k =>
      if c = 1 then decide ((k + lead) % rev = v.row.mark % rev)
      else if c = 2 then decide ((k + lead) % z.bpw = z.span + marginBits)
      else if c = 3 then rgnEnd k
      else if c = 4 then secEnd k
      else decide (c = 5) && (rgnEnd k || secEnd k)

/-- A servo span starts in a symbol (R222). -/
def spanStarts (s : State) (l : LaneIx) (sym : Nat) : Bool :=
  ((laneZone s l).map fun z => (symbolBits (revBits s z) sym).any fun k => decide (k % z.bpw = 0)).getD false

/-- The slot is masked on an output: defective or slipped on its track (R182, R223). -/
def maskedOut (s : State) (l : LaneIx) (slot o : Nat) : Bool :=
  let p := placeOf s.lane[l] o
  defective s.media p.surface p.zone p.track slot || (slippedSlots s.media p.surface p.zone p.track).contains slot

/-- Every output that a word addresses has its bit in a mask, or is masked (R223). -/
def outputsAll (s : State) (l : LaneIx) (outsel : Nat) (mask : Fin 8) : Bool :=
  let outs := if outsel = 0 then modeOutputs s.lane[l].modeOn else 2 ^ (outsel - 1)
  (List.range 3).all fun o => !outs.testBit o || mask.val.testBit o || maskedOut s l s.lane[l].row.slot o

/-- The sector under the write source has emitted its last bit before this symbol (R223). -/
def sectorDone (s : State) (l : LaneIx) (sym : Nat) : Bool :=
  match laneZone s l, s.lane[l].row.srcLast with
  | some z, some b => decide (2 * ahead (revBits s z) (b + 1) (16 * sym) < revBits s z)
  | _, _ => false

/-- The condition of a word in this symbol (R223). -/
def rowCond (s : State) (l : LaneIx) (w : BitVec 144) (x : RowSymbol) : Bool :=
  let v := s.lane[l]
  let r := v.row
  let c := wf w 139 134
  if c = 0 then true
  else if c ≤ 6 then rowPredicted s l (wf w 106 105) x.sym c
  else if c = 7 then outputsAll s l (wf w 57 56) x.found
  else if c = 8 then outputsAll s l (wf w 57 56) x.closed
  else if c = 9 then decide (r.cnt0 = 0)
  else if c = 10 then decide (r.cnt1 = 0) else if c = 11 then v.feReady else if c = 12 then guardOk s l
  else if c = 13 then paFaultNow s l else if c = 14 then x.rdRoom else if c = 15 then x.wrAvail
  else if c = 16 then r.encOk else if c = 17 then v.pat.abort else if c = 18 then !r.fifo.isEmpty
  else if c = 19 then decide (s.yck.lane[l].timing = .yarn)
  else if c = 20 then ((laneZone s l).map ZoneDesc.preamble).getD false
  else if c = 21 then decide (v.modeOn = 2) else if c = 22 then bitOf (laneReg v 0) 16
  else if c = 23 then bitOf (rowCtl v) 2 else if c = 24 then sectorDone s l x.sym
  else if 32 ≤ c ∧ c ≤ 47 then bitOf (laneReg v 0x101C) (c - 32)
  else false

/-- The trap a word takes at its end (R225): its vector. -/
def rowTrap (s : State) (l : LaneIx) (w : BitVec 144) (cust : Bool) : Option Nat :=
  let r := s.lane[l].row
  let ex := wf w 88 86
  if (ex.testBit 2 || cust) && paFaultNow s l then some 0x004
  else if (ex.testBit 1 || cust) && r.wgReq && !guardOk s l then some 0x008
  else if ex.testBit 0 && s.lane[l].pat.abort then some 0x00C
  else none

/-! ### One word (R218 to R222) -/

/-- The address of an opcode's routine, and whether customer code was off (R221, R229, R237). -/
def opcodeTarget (v : Lane) (op : Nat) : Nat × Bool :=
  if 0xE0 ≤ op ∧ bitOf (rowCtl v) 1 = false then (0x014, true)
  else if op ∈ [0x00, 0x01, 0x02, 0x10, 0x11, 0x20, 0x21, 0x30] ∨ 0xE0 ≤ op then ((dispatchEntry v.row op).toNat % 4096, false)
  else (0x010, false)

/-- MARK as a word leaves it (R220): in a zone, from the current slot, the immediate, or the next data region. -/
def nextMark (s : State) (l : LaneIx) (w : BitVec 144) (sym : Nat) : Nat :=
  let r := s.lane[l].row
  let mk := wf w 94 92
  match laneZone s l with
  | none => r.mark
  | some z =>
    let rev := revBits s z
    if mk = 1 then slotBit z r.slot 0
    else if mk = 2 then syncBit z.preamble z.rate z.bpw z.span z.dreg r.slot
    else if mk = 3 then (((r.mark : Int) + signed 24 (wf w 34 11)) % ((max 1 rev : Nat) : Int)).toNat
    else if mk = 4 then
      let first := 16 * sym / z.bpw * z.bpw + z.span + marginBits
      (if 16 * sym ≤ first then first else first + z.bpw) % max 1 rev
    else if mk = 5 then slotEnd z r.slot
    else r.mark

/-- The counter, MARK and slot fields, and the sources, sinks and gates, of a word that performs its actions (R218, R220); `mark` is MARK as
the word leaves it, `last` the last bit of the current slot's sector. -/
def rowActs (w : BitVec 144) (encPass preAcq : Bool) (mark : Nat) (last : Option Nat) (r : Row) : Row :=
  let count (opc old arg : Nat) : Nat :=
    if opc = 1 then old - 1 else if opc = 2 then wf w 26 11 else if opc = 3 then arg else old
  let sl := wf w 91 89
  let wg := wf w 106 105
  let rd := wf w 104 103
  let sy := wf w 96 95
  { r with
    cnt0 := count (wf w 121 120) r.cnt0 (r.arg / 4096)
    cnt1 := count (wf w 119 118) r.cnt1 (r.arg % 65536)
    mark := mark
    slot := if sl = 1 then r.slot + 1 else if sl = 2 then r.arg % 4096 else r.slot
    wgReq := if wg = 1 then true else if wg = 2 then false else r.wgReq
    rdOpen := if rd = 1 then true else if rd = 2 then false else r.rdOpen
    syncArmed := if sy = 1 then true else if sy = 2 then false else r.syncArmed
    flywheel := if sy = 3 ∧ preAcq = false then true else if sy = 1 then false else r.flywheel
    wsrc := if wf w 70 68 = 0 then r.wsrc else wf w 70 68
    rsink := if wf w 67 66 = 0 then r.rsink else wf w 67 66
    srcLast := if wf w 70 68 = 0 then r.srcLast else if wf w 70 68 = 2 ∨ wf w 70 68 = 3 then last else none
    encOk := if wf w 65 64 = 0 then r.encOk else encPass
    capture := if wf w 63 62 = 0 then r.capture else wf w 63 62
    eqFrozen := if wf w 61 60 = 1 then true else if wf w 61 60 = 2 then false else r.eqFrozen
    eqReload := r.eqReload || decide (wf w 61 60 = 3)
    tlRun := if wf w 59 58 = 1 then true else if wf w 59 58 = 2 then false else r.tlRun
    traces := if wf w 55 52 = 2 ∨ wf w 55 52 = 3 then
        r.traces ++ [{ kind := wf w 55 52, tag := wf w 85 78, pc := r.pc, mark := mark, slot := r.slot }]
      else r.traces }

/-- A word is late (R218, R222): it arms a sync window whose first position has passed, or it issues a source or sink for a MARK that lies
behind or more than 1,024 symbols ahead. -/
def wordLate (s : State) (l : LaneIx) (w : BitVec 144) (sym : Nat) : Bool :=
  match laneZone s l with
  | none => false
  | some z =>
    let rev := revBits s z
    let p := syncBit z.preamble z.rate z.bpw z.span z.dreg s.lane[l].row.slot
    let window := if s.yck.lane[l].timing = .yarn then 8 else 32
    (decide (wf w 96 95 = 1) && decide (rev ≤ 2 * ahead rev (16 * sym) (p + rev - window))) ||
      (decide (wf w 70 68 ≠ 0 ∨ wf w 67 66 ≠ 0) && decide (16 * 1024 < ahead rev (16 * sym) (nextMark s l w sym)))

/-- The faults a word meets before it acts (R218, R222, R227, R229), by their cause codes. -/
def wordFault (s : State) (l : LaneIx) (w : BitVec 144) (x : RowSymbol) (cond : Bool) : Option Nat :=
  let v := s.lane[l]
  let r := v.row
  let cust := custAddr r.pc
  let nxt := wf w 142 140
  let target := wf w 133 122
  let jumps := decide (nxt = 1 ∨ nxt = 2 ∨ nxt = 3 ∨ nxt = 5)
  let c := wf w 139 134
  if reservedWord w then some 6
  else if cust ∧ ((jumps ∧ ¬ (0xE00 ≤ target ∨ (0x040 ≤ target ∧ target ≤ 0x07F))) ∨ (nxt = 0 ∧ r.pc = 0xFFF)) then some 7
  else if cust ∧ wf w 106 105 = 1 ∧ bitOf (rowCtl v) 2 = false then some 8
  else if wf w 102 101 = 1 ∧ ¬ (1 ≤ c ∧ c ≤ 6 ∧ cond) then some 4
  else if wordLate s l w x.sym then some 3
  else if nxt = 5 ∧ 4 ≤ r.stack.length then some 1
  else if nxt = 6 ∧ r.stack = [] then some 1
  else if nxt = 4 ∧ r.acted = false ∧ r.inCust ∧ r.custPosted = false ∧ wf w 113 113 = 0 then some 10
  else none

/-- The sequencer goes to a routine: an opcode popped from the FIFO, its argument loaded (R221). -/
def rowDispatch (l : LaneIx) (s : State) : State :=
  let v := s.lane[l]
  match v.row.fifo with
  | [] => setRow l { v.row with state := .stall, acted := true, inCust := false } s
  | (op, arg) :: t =>
    let (pc, off) := opcodeTarget v op
    let bad := (op ∈ [0x00, 0x01, 0x02, 0x10, 0x11, 0x20, 0x21, 0x30] ∨ (0xE0 ≤ op ∧ bitOf (rowCtl v) 1)) ∧ entryBad (dispatchEntry v.row op)
    if bad then rowMachineCheck l (0x1000 + op) 0 9 s
    else
      let room := 16 - t.length
      let r := { v.row with
        fifo := t ++ v.pat.todo.take room
        arg := arg
        pc := pc
        state := .running
        acted := false
        inCust := decide (0xE0 ≤ op) && !off
        custPosted := false }
      let s := setLane l { v with row := r, pat := { v.pat with todo := v.pat.todo.drop room } } s
      if off then rowEvent l 4 s else s

/-- The next address (R221). -/
def rowNext (l : LaneIx) (w : BitVec 144) (cond : Bool) (s : State) : State :=
  let r := s.lane[l].row
  let seq := (r.pc + 1) % 4096
  let target := wf w 133 122
  let go (pc : Nat) (stack : List Nat) : State := setRow l { r with pc := pc, stack := stack, state := .running, acted := false } s
  let nxt := wf w 142 140
  if nxt = 0 then go seq r.stack
  else if nxt = 1 then go target r.stack
  else if nxt = 2 then go (if cond then target else seq) r.stack
  else if nxt = 3 then go (if cond then seq else target) r.stack
  else if nxt = 4 then rowDispatch l s
  else if nxt = 5 then go target (seq :: r.stack)
  else if nxt = 6 then go (r.stack.headD 0) r.stack.tail
  else go seq r.stack

/-- The next fetch comes from the trap vector, with the return stack cleared (R225). -/
def takeTrap (l : LaneIx) (trap : Option Nat) (s : State) : State :=
  let r := s.lane[l].row
  match trap with
  | some vec =>
    (match r.state with
     | .running | .waiting | .stall =>
       rowEvent l 6 (setRow l { r with pc := vec, stack := [], state := .running, acted := false } s)
     | _ => s)
  | none => s

/-- A WAIT whose condition is false performs nothing, but its traps are open (R218, R225). -/
def rowHold (l : LaneIx) (w : BitVec 144) (s : State) : State :=
  let r := s.lane[l].row
  takeTrap l (rowTrap s l w (custAddr r.pc || r.inCust)) (setRow l { r with state := .waiting } s)

/-- A word's actions, then its post, its event, its next address, and the trap at its end (R218, R221, R225). -/
def rowPerform (l : LaneIx) (w : BitVec 144) (x : RowSymbol) (cond : Bool) (s : State) : State :=
  let v := s.lane[l]
  let pre := decide (s.yck.lane[l].timing ≠ .yarn)
  let cust := custAddr v.row.pc || v.row.inCust
  let startsSector := decide (wf w 70 68 = 2 ∨ wf w 70 68 = 3)
  let s :=
    if v.row.acted then s
    else
      let last := (laneZone s l).map fun z => slotEnd z v.row.slot
      let s := setLane l { v with
        row := rowActs w x.encPass pre (nextMark s l w x.sym) last v.row
        gateLatched := v.gateLatched && !startsSector } s
      let s := guardLane l s
      let outs := wf w 57 56
      let mask := if outs = 0 then modeOutputs v.modeOn else 2 ^ (outs - 1)
      let s := if wf w 113 113 = 1 then rowPost l (wf w 117 114) mask s else s
      if wf w 55 52 = 1 then rowEvent l 9 s else s
  if spanStarts s l x.sym ∧ s.lane[l].row.wgReq then rowFault l 5 s
  else
    takeTrap l (rowTrap s l w cust) (rowNext l w cond s)

/-- One symbol of the word at the pc, if its nxt field is n (R217, R221): parity first, then the break, the faults, the wait. -/
def rowWord (n : Nat) (l : LaneIx) (x : RowSymbol) (s : State) : State :=
  let v := s.lane[l]
  let r := v.row
  match r.state with
  | .running | .waiting | .stall =>
    let w := rowFetch r r.pc
    let bad := badQuarters w
    let cond := rowCond s l w x
    if bad ≠ 0 then rowMachineCheck l r.pc bad 0 s
    else if wf w 142 140 ≠ n then s
    else if wf w 112 112 = 1 ∧ bitOf (rowCtl v) 3 then rowEvent l 7 (setRow l { r with state := .brk } s)
    else
      match wordFault s l w x cond with
      | some c => if n = 7 ∧ cond = false ∧ c ≠ 6 ∧ c ≠ 7 ∧ c ≠ 8 then rowHold l w s else rowFault l c s
      | none => if n = 7 ∧ cond = false then rowHold l w s else rowPerform l w x cond s
  | _ => s

/-- ROW_SEQ (R221). -/
def execRowSeq (l : LaneIx) (x : RowSymbol) (s : State) : Host.Outcome State Fault Refusal := act s (rowWord 0 l x)
/-- ROW_JMP (R221). -/
def execRowJmp (l : LaneIx) (x : RowSymbol) (s : State) : Host.Outcome State Fault Refusal := act s (rowWord 1 l x)
/-- ROW_BRT (R221). -/
def execRowBrt (l : LaneIx) (x : RowSymbol) (s : State) : Host.Outcome State Fault Refusal := act s (rowWord 2 l x)
/-- ROW_BRF (R221). -/
def execRowBrf (l : LaneIx) (x : RowSymbol) (s : State) : Host.Outcome State Fault Refusal := act s (rowWord 3 l x)
/-- ROW_DSP (R221). -/
def execRowDsp (l : LaneIx) (x : RowSymbol) (s : State) : Host.Outcome State Fault Refusal := act s (rowWord 4 l x)
/-- ROW_CALL (R221). -/
def execRowCall (l : LaneIx) (x : RowSymbol) (s : State) : Host.Outcome State Fault Refusal := act s (rowWord 5 l x)
/-- ROW_RET (R221). -/
def execRowRet (l : LaneIx) (x : RowSymbol) (s : State) : Host.Outcome State Fault Refusal := act s (rowWord 6 l x)
/-- ROW_WAIT (R221). -/
def execRowWait (l : LaneIx) (x : RowSymbol) (s : State) : Host.Outcome State Fault Refusal := act s (rowWord 7 l x)

/-- A WAIT has lasted wait_max times 65,536 symbols (R221). -/
def rowWaitTimeout (l : LaneIx) (s : State) : State :=
  match s.lane[l].row.state with
  | .waiting => rowFault l 2 s
  | _ => s

/-- ROW_WAIT_TIMEOUT (R221). -/
def execRowWaitTimeout (l : LaneIx) (s : State) : Host.Outcome State Fault Refusal := act s (rowWaitTimeout l)

/-- A customer routine has run that long without a DSP (R229). -/
def customerTime (l : LaneIx) (s : State) : State :=
  let r := s.lane[l].row
  match r.state with
  | .running | .waiting => if r.inCust then rowFault l 11 s else s
  | _ => s

/-- CUSTOMER_TIME_FAULT (R229). -/
def execCustomerTimeFault (l : LaneIx) (s : State) : Host.Outcome State Fault Refusal := act s (customerTime l)

/-! ### Reload and repair (R233, R234) -/

/-- The SRAM address of the active shadow (R232). -/
def shadowBase (v : Lane) : Nat := (laneReg v (if v.row.shadow1 then 0x1024 else 0x1020)).toNat

/-- A word and a dispatch entry of a shadow (R232). One that fails its parity is written again from the firmware image first (R233). -/
def shadowWord (s : State) (base : Nat) (i : Option Nat) (a : Nat) : BitVec 144 :=
  let w := BitVec.ofNat 144 (readLE s (base + 24 * a) 18)
  if badQuarters w = 0 ∨ i.isNone then w else imageWord i a
def shadowEntry (s : State) (base : Nat) (i : Option Nat) (e : Nat) : BitVec 13 :=
  let w := BitVec.ofNat 13 (readLE s (base + 98304 + 4 * e) 2)
  if entryBad w = false ∨ i.isNone then w else imageEntry i e

/-- The lowest free spare word, one serving the address now counting as taken (R234). -/
def freeSpare (r : Row) : Option Nat := (List.range 16).find? fun k => !r.remap.any fun x => decide (x.1 = k)

/-- The opcodes of a retry from slot f (R233): the runs from that slot on; a custom operation's pairs all over again. -/
def retryCodes (codes : List (Nat × Nat)) (custom : Bool) (f : Nat) : List (Nat × Nat) :=
  if custom then codes
  else codes.filterMap fun c =>
    let first := c.2 % 4096
    let last := first + c.2 / 4096
    if c.1 < 0x10 ∨ f ≤ first then some c else if last ≤ f then none else some (c.1, (last - f) * 4096 + f)

/-- The row with the word at a read again from the shadow (R233, R234): in place, in its spare word, or, where it failed within the
hour, in a fresh spare word or in the dispatch table's second copy. -/
def reloadWord (s : State) (v : Lane) (a : Nat) (again : Bool) : Row :=
  let r := v.row
  let base := shadowBase v
  if 0x1000 ≤ a then
    if again then { r with secondCopy := !r.secondCopy } else dispatchSet r r.secondCopy (a - 0x1000) (shadowEntry s base r.image (a - 0x1000))
  else
    let w := shadowWord s base r.image a
    match again, freeSpare r, r.remap.find? fun x => decide (x.2 = a) with
    | true, some k, _ => { r with spare := keySet r.spare k w 0, remap := keyPut (r.remap.filter fun x => decide (x.2 ≠ a)) k a }
    | _, _, some (k, _) => { r with spare := keySet r.spare k w 0 }
    | _, _, none => storeSet r a w

/-- The codes with which the operation under way is run again from its first sector not done. -/
def reloadCodes (v : Lane) : List (Nat × Nat) :=
  match v.pat.op with
  | some d => retryCodes v.pat.codes (decide (d.kind = 4)) (firstNotDone d v.pat.codes v.row.posts)
  | none => []

/-- The lane after a reload: its sequencer restarts, and its operation runs again. -/
def reloadLane (s : State) (v : Lane) (a : Nat) (again : Bool) : Lane :=
  let codes := reloadCodes v
  { v with
    row := { reloadWord s v a again with
      state := if bitOf (rowCtl v) 0 then .running else .stopped
      pc := 0
      stack := []
      fifo := codes.take 16
      acted := false
      inCust := false }
    parityHold := false
    pat := { v.pat with checks := v.pat.checks + 1, todo := codes.drop 16 } }

/-- What becomes of the operation under way: a first machine check runs it again, a second one fails it, and firmware reissues it. -/
def reloadOp (l : LaneIx) (second : Bool) (s : State) : State :=
  match s.lane[l].pat.op with
  | none => s
  | some d =>
    if second then
      let s := opFinish l 3 (patEvent l 3 s)
      reissue l l (setPat l { s.lane[l].pat with lost := some d } s)
    else patEvent l 2 s

/-- The failed word or entry is reloaded from the shadow (R233): a second error at its address within one hour takes a spare
word or the second dispatch copy (R234); the sequencer restarts at 0x000 with an empty FIFO and stack, and the Pattern engine
retries the operation from its first slot not done, or ends it at its second machine check, and firmware issues it again. -/
def rowReload (l : LaneIx) (s : State) : State :=
  let v := s.lane[l]
  match v.row.state, v.row.errors with
  | .machineCheck, (a, t) :: rest =>
    let again := rest.any fun e => decide (e.1 = a ∧ t < e.2 + 3600000)
    let word := decide (a < 0x1000) && again
    let s := setLane l (reloadLane s v a again) s
    let s := if word && (freeSpare v.row).isSome then rowEvent l 1 s else s
    let s := if word && (freeSpare v.row).isNone then rowEvent l 2 s else s
    reloadOp l (decide (1 ≤ v.pat.checks)) s
  | _, _ => s

/-- ROW_RELOAD_DONE (R233). -/
def execRowReloadDone (l : LaneIx) (s : State) : Host.Outcome State Fault Refusal := act s (rowReload l)

end Sys2Proof.Machine
end

