-- ==== Sys2Proof/Machine/Pattern.lean ====
section
/-!
DEFINITION. The opcodes of the Pattern engine, the load port, the run and swap controls, operations, darn RAM and match registers
(R229 to R243).
-/
namespace Sys2Proof.Machine
open Sys2Proof

/-! ### Opcodes (R237) -/

/-- The opcode at the head of the FIFO is taken by a sequencer that runs or stalls in its DSP loop, its argument loaded (R221). -/
def opTake (l : LaneIx) (op : Nat) (s : State) : Option State :=
  let v := s.lane[l]
  match v.row.state, v.row.fifo with
  | .running, (o, arg) :: t | .stall, (o, arg) :: t =>
    if o = op then
      let room := 16 - t.length
      some (setLane l { v with
        row := { v.row with fifo := t ++ v.pat.todo.take room, arg := arg, slot := arg % 4096, cnt0 := arg / 4096, acted := false }
        pat := { v.pat with todo := v.pat.todo.drop room } } s)
    else none
  | _, _ => none

/-- The exported routine that behaves as an opcode (R230). -/
def exportedEntry (op : Nat) : Option Nat :=
  if op = 0x10 then some 0x040 else if op = 0x20 then some 0x048 else if op = 0x02 then some 0x050 else if op = 0x30 then some 0x058 else none

/-- The sequencer stands at the exported routine of an opcode: a customer word went there (R229, R230). -/
def atExported (r : Row) (op : Nat) : Bool := decide (r.state = .running ∧ exportedEntry op = some r.pc)

/-- The end of an exported routine (R230): RET, with a fault on an empty stack; OP_END's ends in DSP. -/
def exportedEnd (l : LaneIx) (op : Nat) (s : State) : State :=
  let r := s.lane[l].row
  if op = 0x02 then rowDispatch l s
  else
    match r.stack with
    | [] => rowFault l 1 s
    | a :: t => setRow l { r with pc := a, stack := t, acted := false } s

/-- An opcode acts where its exported routine was entered (R230), and where it stands at the head of the FIFO; otherwise nothing changes.
WR_RUN's routine expects cust_wr at 1: without it the sequencer faults as on a customer write (log entry 142). -/
def opcode (l : LaneIx) (op : Nat) (f : State → State) (s : State) : State :=
  if atExported s.lane[l].row op then
    (if op = 0x20 ∧ bitOf (rowCtl s.lane[l]) 2 = false then rowFault l 8 s else exportedEnd l op (f s))
  else
    match opTake l op s with
    | some t => f t
    | none => s

/-- OPCODE_IDLE (R237). -/
def execOpcodeIdle (l : LaneIx) (s : State) : Host.Outcome State Fault Refusal := act s (opcode l 0x00 id)

/-- OP_BEGIN waits for fe_ready when readers are enabled (R237). -/
def opBegin (l : LaneIx) (s : State) : State :=
  let v := s.lane[l]
  if fld (laneReg v 0) 15 12 ≠ 0 ∧ v.feReady = false then s else opcode l 0x01 id s

/-- OPCODE_OP_BEGIN (R237). -/
def execOpcodeOpBegin (l : LaneIx) (s : State) : Host.Outcome State Fault Refusal := act s (opBegin l)

/-- OP_END closes the gates and posts stat 10 (R237). -/
def opEndCode (l : LaneIx) (s : State) : State :=
  opcode l 0x02 (fun t => rowPost l 10 0 (setRow l { t.lane[l].row with wgReq := false, rdOpen := false, syncArmed := false } t)) s

/-- OPCODE_OP_END (R237). -/
def execOpcodeOpEnd (l : LaneIx) (s : State) : Host.Outcome State Fault Refusal := act s (opEndCode l)

/-- The next slot of a run. -/
def nextSlot (l : LaneIx) (s : State) : State :=
  let r := s.lane[l].row
  setRow l { r with slot := r.slot + 1, cnt0 := r.cnt0 - 1 } s

/-- The lead of a read's timing, in 1/64 bit (R174): the delay of the reader of single-reader mode, else the reference reader's, which is 0. -/
def readLead (v : Lane) : Int :=
  if v.modeOn = 0 then (v.now.readers.toList.getD (fld (laneReg v 0) 9 8) .reset).delay else 0

/-- The outputs of the mode that a slot is not masked on (R182). -/
def slotOutputs (s : State) (l : LaneIx) : List Nat :=
  (List.range 3).filter fun o => (modeOutputs s.lane[l].modeOn).testBit o && !maskedOut s l s.lane[l].row.slot o

/-- The servo engine of a lane's actuator permits reads (R137). -/
def readOk (s : State) (l : LaneIx) : Bool :=
  (((laneAct s.flt l).bind fun a => engineOf s.flt a.val).map fun e => (s.srv.get e).rdOk).getD false

/-- The bits of a list of outputs. -/
def outputMask (os : List Nat) : Nat := os.foldl (fun m o => m ||| 2 ^ o) 0

/-- A slot is read (R108, R110, R137, R174, R182, R204): its window is placed; in yarn timing every output is captured, at P where no sync mark
was found; in preamble acquisition an output without one is missed, and enters its retries. -/
def readSlot (l : LaneIx) (found : Fin 8) (s : State) : State :=
  let slot := s.lane[l].row.slot
  let s := predictSlot l slot (readLead s.lane[l]) s
  let outs := slotOutputs s l
  let yarn := decide (s.yck.lane[l].timing = .yarn)
  let got := outs.filter fun o => yarn || found.val.testBit o
  let missed := outs.filter fun o => !yarn && !found.val.testBit o
  let s := if got = [] then s else rowPost l 1 (outputMask got) s
  let s := if readOk s l then s else setLane l { s.lane[l] with offTrack := got.map (fun o => (slot, o)) ++ s.lane[l].offTrack } s
  let s := if missed = [] then s else rowPost l 3 (outputMask missed) s
  missed.foldl (fun t o => enterRetry l slot o t) s

/-- The sectors of a run that found no room enter their retries (R185, R204). -/
def unread (l : LaneIx) (s : State) : State :=
  let r := s.lane[l].row
  (List.range r.cnt0).foldl (fun t i => (List.range 3).foldl (fun u o =>
    if (modeOutputs u.lane[l].modeOn).testBit o && !maskedOut u l (r.slot + i) o then enterRetry l (r.slot + i) o u else u) t) s

/-- A read run, slot by slot, up to its count (R226, R237). -/
def readRun (l : LaneIx) (xs : List ReadSlot) (s : State) : State :=
  match xs with
  | [] => s
  | x :: t =>
    if s.lane[l].row.cnt0 = 0 then s
    else
      match x with
      | .read found => readRun l t (nextSlot l (readSlot l found s))
      | .noRoom => unread l (rowPost l 4 (modeOutputs s.lane[l].modeOn) s)
      | .aborted => rowPost l 8 (modeOutputs s.lane[l].modeOn) s

/-- OPCODE_RD_RUN (R237). -/
def execOpcodeRdRun (l : LaneIx) (xs : List ReadSlot) (s : State) : Host.Outcome State Fault Refusal :=
  act s (opcode l 0x10 (readRun l xs))

/-- RR_RUN's captures are marked for the verify criteria (R214, R237). -/
def rereadRun (l : LaneIx) (xs : List ReadSlot) (s : State) : State :=
  readRun l xs (setRow l { s.lane[l].row with capture := 2 } s)

/-- OPCODE_RR_RUN (R237). -/
def execOpcodeRrRun (l : LaneIx) (xs : List ReadSlot) (s : State) : Host.Outcome State Fault Refusal :=
  act s (opcode l 0x11 (rereadRun l xs))

/-! ### Writing (R113, R114, R157, R158, R186 to R190) -/

/-- What becomes of a sector whose write was cut off (R39, R114, R162, R190): in a shingled extent a slip record of cause 3, elsewhere its rewrite
in place; nothing where the yarn clock is lost, whose data go to the protected write log. -/
def slipInterrupted (l : LaneIx) (s : State) : State :=
  let v := s.lane[l]
  let p := v.now.place
  match zoneOn s.media p.surface p.zone with
  | none => s
  | some z =>
    if s.yck.preamble ∧ z.preamble = false then s
    else if z.area = 0 then addSlip l v.row.slot 3 v.row.slot true s
    else recoverLate p v.row.slot s

/-- The gate is requested for a sector, or the request falls; a sector start releases a latched gate (R190). -/
def writeGate (l : LaneIx) (on : Bool) (s : State) : State :=
  let v := s.lane[l]
  let s := setLane l { v with row := { v.row with wgReq := on, wsrc := if on then 2 else 0 }, gateLatched := v.gateLatched && !on } s
  if on then guardLane l s else s

/-- A write to the lane's zone may go on (R113, R151): always in the preamble format; in the yarn format in yarn timing, with a row valid for
writing, the timing guard down, and the spindle's permit. -/
def writeTimed (s : State) (l : LaneIx) : Bool :=
  ((laneZone s l).map ZoneDesc.preamble).getD false ||
    (decide (s.yck.lane[l].timing = .yarn) && rowWritable s l && !s.yck.guardSector && !s.yck.guardSlew && s.spn.wrOk)

/-- The group of a slot on the lane's track, and its data slots (R156). -/
def slotGroup (s : State) (l : LaneIx) (slot : Nat) : Option (Nat × List Nat) :=
  let p := s.lane[l].now.place
  (laneZone s l).bind fun z =>
    let gs := trackGroups s.media p.surface z p.track
    (gs.find? fun g => decide (g.1 = slot)).map fun g => (g.2.1, (gs.filter fun x => decide (x.2.1 = g.2.1) && !x.2.2).map Prod.fst)

/-- A data sector has been written (R157, R158): the running selvage of its group takes it in, rebuilt first from the written sectors where the
group has none; in a conventional zone the group's selvage is stale until it has been written too. -/
def sectorWritten (l : LaneIx) (slot : Nat) (s : State) : State :=
  let v := s.lane[l]
  let p := v.now.place
  match laneZone s l, slotGroup s l slot with
  | some z, some (g, data) =>
    let k := groupKey p.surface p.zone p.track g
    if z.area = 0 then
      let before := match v.running with
        | some r => if r.place = p ∧ r.group = g then r.slots else data.filter fun j => decide (j < slot)
        | none => data.filter fun j => decide (j < slot)
      setLane l { v with running := some { place := p, group := g, slots := before ++ [slot] } }
        { s with media := { s.media with groups := keyDel s.media.groups k } }
    else if s.media.groups.any fun x => decide (x.1 = k) then { s with media := { s.media with groups := keyPut s.media.groups k .stale } }
    else s
  | _, _ => s

/-- All four selvage sectors of a slot's group have been written (R157, R158). -/
def selvageWritten (l : LaneIx) (slot : Nat) (s : State) : State :=
  let v := s.lane[l]
  let p := v.now.place
  match slotGroup s l slot with
  | some (g, _) =>
    setLane l { v with running := none } { s with media := { s.media with
      groups := keyPut s.media.groups (groupKey p.surface p.zone p.track g) .carries } }
  | none => s

/-- What a slot of a write run comes to: a guard that withholds its permit and a preamplifier fault prevail (R189, R190). -/
def writeOutcome (s : State) (l : LaneIx) (x : WriteSlot) : WriteSlot :=
  match x with
  | .written => if paFaultNow s l then .paFault else if guardOk s l then .written else .guarded
  | y => y

/-- A write run that must wait goes back to the head of the FIFO (R113); an entry beyond 8 bits schedules its calibration (R151). -/
def writeHold (l : LaneIx) (op : Nat) (s : State) : State :=
  let v := s.lane[l]
  let fifo := (op, v.row.cnt0 * 4096 + v.row.slot) :: v.row.fifo
  let v := { v with row := { v.row with fifo := fifo.take 16 }, pat := { v.pat with todo := fifo.drop 16 ++ v.pat.todo } }
  rowHeld l (writeGate l false (setLane l v s))

/-- A write run of sectors or of selvage, slot by slot, up to its count (R103, R226, R237). -/
def writeRun (l : LaneIx) (op : Nat) (xs : List WriteSlot) (s : State) : State :=
  match xs with
  | [] => writeGate l false s
  | x :: t =>
    if s.lane[l].row.cnt0 = 0 then writeGate l false s
    else if writeTimed s l = false then
      (if s.lane[l].pat.abort then rowPost l 8 1 (writeGate l false s) else writeHold l op s)
    else
      let slot := s.lane[l].row.slot
      let s := writeGate l true (predictSlot l slot (rowWriter s (laneRowAt s l)) s)
      match writeOutcome s l x with
      | .written =>
        let s := rowPost l 2 1 s
        let s := if op = 0x20 then sectorWritten l slot (cryptSector l s.lane[l].now.place slot s) else if s.lane[l].row.cnt0 = 1 then selvageWritten l slot s else s
        writeRun l op t (nextSlot l s)
      | .piFailed => rowPost l 7 1 (writeGate l false s)
      | .noData => rowPost l 4 1 (writeGate l false s)
      | .guarded => rowPost l 5 1 (writeGate l false (slipInterrupted l s))
      | .paFault => rowPost l 6 1 (writeGate l false (slipInterrupted l s))
      | .aborted => rowPost l 8 1 (writeGate l false s)

/-- OPCODE_WR_RUN (R237). -/
def execOpcodeWrRun (l : LaneIx) (xs : List WriteSlot) (s : State) : Host.Outcome State Fault Refusal :=
  act s (opcode l 0x20 (writeRun l 0x20 xs))

/-- OPCODE_WR_SELV (R157, R237): at most four selvage sectors. -/
def execOpcodeWrSelv (l : LaneIx) (xs : List WriteSlot) (s : State) : Host.Outcome State Fault Refusal :=
  act s (opcode l 0x21 (writeRun l 0x21 (xs.take 4)))

/-- OPCODE_GAP (R237): CNT1 has counted the symbols down. -/
def execOpcodeGap (l : LaneIx) (s : State) : Host.Outcome State Fault Refusal :=
  act s (opcode l 0x30 fun t => setRow l { t.lane[l].row with cnt1 := 0 } t)

/-- A customer opcode (R229): with cust_en at 1 its routine is entered; otherwise 0x014 posts stat 12, with cust_off. -/
def opCustomer (l : LaneIx) (op : Nat) (s : State) : State :=
  if op < 0xE0 ∨ 0xFF < op then s
  else
    let on := bitOf (rowCtl s.lane[l]) 1
    opcode l op (fun t =>
      let r := t.lane[l].row
      if on then
        setRow l { r with pc := (dispatchEntry r op).toNat % 4096, inCust := true, custPosted := false, state := .running } t
      else rowEvent l 4 (rowPost l 12 0 t)) s

/-- OPCODE_CUSTOMER (R229). -/
def execOpcodeCustomer (l : LaneIx) (n : Fin 32) (s : State) : Host.Outcome State Fault Refusal :=
  act s (opCustomer l (0xE0 + n.val))

/-! ### Load port (R229, R231, R232, R243) -/

/-- The 144 bits and the entry that LDDATA0 to LDDATA4 hold. -/
def ldWord (v : Lane) : BitVec 144 :=
  BitVec.ofNat 144 ((List.range 5).foldl (fun n i => n + (laneReg v (0x1034 + 4 * i)).toNat * 2 ^ (32 * i)) 0)
def ldEntry (v : Lane) : BitVec 13 := BitVec.ofNat 13 (laneReg v 0x1034).toNat

/-- A load-port write is one the rules accept (R229). -/
def ldOk (v : Lane) : Bool :=
  let a := laneReg v 0x1030
  let off := !bitOf (rowCtl v) 1
  if bitOf a 16 then
    off && decide (0xE0 ≤ fld a 7 0) && decide (0xE00 ≤ (ldEntry v).toNat % 4096) && !entryBad (ldEntry v)
  else off && decide (0xE00 ≤ fld a 11 0) && decide (badQuarters (ldWord v) = 0)

/-- A load-port write updates the store and the active shadow together (R232). -/
def rowLoadWrite (l : LaneIx) (s : State) : State :=
  let v := s.lane[l]
  let a := laneReg v 0x1030
  if v.row.swapPend then rowEvent l 10 s
  else if ldOk v = false then rowEvent l 5 s
  else if bitOf a 16 then
    let e := fld a 7 0
    let s := setRow l (dispatchSet (dispatchSet v.row false e (ldEntry v)) true e (ldEntry v)) s
    writeLE s (shadowBase v + 98304 + 4 * e) 4 (ldEntry v).toNat
  else
    let w := fld a 11 0
    let s := match v.row.remap.find? fun x => decide (x.2 = w) with
      | some (k, _) => setRow l { v.row with spare := keySet v.row.spare k (ldWord v) 0 } s
      | none => setRow l (storeSet v.row w (ldWord v)) s
    writeLE s (shadowBase v + 24 * w) 24 (ldWord v).toNat

/-- ROW_LOAD_WRITE (R229). -/
def execRowLoadWrite (l : LaneIx) (s : State) : Host.Outcome State Fault Refusal := act s (rowLoadWrite l)

/-- Read back into LDDATA (R243). -/
def rowLoadRead (l : LaneIx) (s : State) : State :=
  let v := s.lane[l]
  let a := laneReg v 0x1030
  let n := if bitOf a 16 then (dispatchEntry v.row (fld a 7 0)).toNat else (rowFetch v.row (fld a 11 0)).toNat
  let regs := (List.range 5).foldl (fun rs i => regSet laneRows rs (0x1034 + 4 * i) (BitVec.ofNat 32 (n / 2 ^ (32 * i)))) v.regs
  setLane l { v with regs := regs } s

/-- ROW_LOAD_READBACK (R243). -/
def execRowLoadReadback (l : LaneIx) (s : State) : Host.Outcome State Fault Refusal := act s (rowLoadRead l)

/-- A write to LANE_ROW_LDCMD: both bits act, the write first. -/
def ldCmdWrite (l : LaneIx) (w : Word) (s : State) : State :=
  let s := if bitOf w 0 then rowLoadWrite l s else s
  if bitOf w 1 then rowLoadRead l s else s

/-! ### Run, customer enable, swap (R231, R242, R243) -/

/-- The Row sequencer starts at 0x000; L4's waits for the source multiplexer (R57, R243). -/
def rowStart (l : LaneIx) (s : State) : State :=
  let waits := decide (l = 4) && s.sys.mux.toList.any fun m => m.waiting
  let r := s.lane[l].row
  if laneBind s.flt l.val = 5 then s
  else if waits then setRow l { r with startPend := true } s
  else setRow l { r with state := .running, pc := 0, stack := [], acted := false, inCust := false, startPend := false } s

/-- The Row sequencer stops at the word boundary; its write request falls (R33, R243). -/
def rowStop (l : LaneIx) (s : State) : State :=
  setRow l { s.lane[l].row with state := .stopped, wgReq := false, rdOpen := false, syncArmed := false, acted := false, inCust := false, startPend := false } s

/-- A write to LANE_ROW_CTL (R231, R242, R243): from a hook core it changes cust_en only; swap requests the activation swap. -/
def rowCtlWrite (l : LaneIx) (hook : Bool) (w : Word) (s : State) : State :=
  let v := s.lane[l]
  let old := rowCtl v
  let new := if hook then setFld old 1 1 (fld w 1 1) else fldAt (fld w 3 0) 3 0
  let s := setLane l { v with regs := regSet laneRows v.regs 0x1000 new } s
  let s := if bitOf w 8 ∧ hook = false then setRow l { s.lane[l].row with swapPend := true } s else s
  if bitOf new 0 = bitOf old 0 then s else if bitOf new 0 then rowStart l s else rowStop l s

/-- ROW_RUN (R243): a write of LANE_ROW_CTL with run at 1. -/
def execRowRun (l : LaneIx) (w : Word) (s : State) : Host.Outcome State Fault Refusal :=
  act s (rowCtlWrite l false (w ||| 1#32))

/-- ROW_STOP (R243): a write of LANE_ROW_CTL with run at 0. -/
def execRowStop (l : LaneIx) (w : Word) (s : State) : Host.Outcome State Fault Refusal :=
  act s (rowCtlWrite l false (w &&& ~~~ 1#32))

/-- CUST_EN_WRITE (R231): a write of LANE_ROW_CTL by resident firmware or a hook core. -/
def execCustEnWrite (l : LaneIx) (hook : Bool) (w : Word) (s : State) : Host.Outcome State Fault Refusal :=
  act s (rowCtlWrite l hook w)

/-- ROW_SWAP_REQUEST (R242): a write of LANE_ROW_CTL with swap at 1. -/
def execRowSwapRequest (l : LaneIx) (w : Word) (s : State) : Host.Outcome State Fault Refusal :=
  act s (rowCtlWrite l false (w ||| 0x100#32))

/-- The stores filled from a shadow: the store, both dispatch copies, and the remapped spare words (R242). -/
def loadStores (s : State) (base : Nat) (r : Row) : Row :=
  let store := (List.range 4096).foldl (fun m a => keySet m a (shadowWord s base r.image a) 0) []
  let disp := (List.range 256).foldl (fun m e => keySet m e (shadowEntry s base r.image e) 0) []
  { r with
    image := none
    store := store
    dispatch := disp
    dispatch2 := disp
    spare := r.remap.foldl (fun m x => keySet m x.1 (shadowWord s base r.image x.2) 0) r.spare }

/-- The activation swap at an operation boundary (R242). -/
def rowSwap (l : LaneIx) (s : State) : State :=
  let v := s.lane[l]
  if v.row.swapPend = false ∨ v.pat.op.isSome then s
  else
    let base := (laneReg v (if v.row.shadow1 then 0x1020 else 0x1024)).toNat
    rowEvent l 8 (setRow l { loadStores s base v.row with shadow1 := !v.row.shadow1, swapPend := false } s)

/-- ROW_SWAP (R242). -/
def execRowSwap (l : LaneIx) (s : State) : Host.Outcome State Fault Refusal := act s (rowSwap l)

/-! ### Operations (R171 to R181, R195, R235, R236) -/

/-- Word k of a packet body. -/
def wordAt (ws : List Word) (k : Nat) : Word := ws.getD k 0

/-- The descriptor a 48-byte body carries (R235). -/
def parseDesc (ws : List Word) : OpDesc :=
  let w0 := wordAt ws 0
  let w2 := wordAt ws 2
  { kind := fld w0 31 28, mode := fld w0 27 26, verify := bitOf w0 25, custWr := bitOf w0 24, rdrEn := fld w0 23 20,
    head := fld w0 19 17, zone := fld w0 16 11, track := fld (wordAt ws 1) 23 0,
    first := fld w2 11 0, count := fld w2 23 12, row := wordAt ws 3, slotmap := wordAt ws 4, chain := wordAt ws 5,
    tag := wordAt ws 6,
    pairs := (((List.range 5).map fun i => (fld (wordAt ws (7 + i)) 31 24, fld (wordAt ws (7 + i)) 23 0)).takeWhile
      fun p => decide (p.1 ≠ 0)) }

/-- The reading modes that hold for an operation (R180): triple-track and combined, with the zone's permission, the readers, the timing, the
tracks of one extent or extension, and SRV_REF_OFS as the head record has it. -/
def tripleOk (s : State) (d : OpDesc) (z : ZoneDesc) (surface a usable : Nat) (ofs : Int) (timed : Bool) : Bool :=
  let same (k : Nat) : Bool := match extentAt s.media surface d.zone d.track, extentAt s.media surface d.zone (d.track + k) with
    | some (e, n), some (f, m) => decide (e.hzone = f.hzone) && decide ((n < e.place.tracks) ↔ (m < e.place.tracks))
    | _, _ => false
  z.rmodes.testBit 2 && decide (usable = 15) && timed && same 1 && same 2 && decide (ofs = recOfsTri s a)
def combinedOk (s : State) (z : ZoneDesc) (a usable : Nat) (ofs : Int) : Bool :=
  z.rmodes.testBit 1 && decide (2 ≤ ones 4 (usable &&& recCmask s a)) && decide (ofs = recOfsComb s a)

/-- The mode in force (R180): a mode whose conditions fail falls back, triple-track to combined to single-reader. -/
def modeFor (asked : Nat) (triple comb : Bool) : Nat :=
  if asked = 2 ∧ triple then 2 else if 1 ≤ asked ∧ comb then 1 else 0

/-- SRV_REF_OFS as in force of the engine of a lane's actuator (R180). -/
def refOfs (s : State) (l : LaneIx) : Int :=
  (((laneAct s.flt l).bind fun a => engineOf s.flt a.val).map fun e => signed 16 (regGet srvRows (s.srv.get e).cur 0x10).toNat).getD 0

/-- Runs of slots between the excluded ones: first slot and count (R236). -/
def splitRuns (first count : Nat) (excluded : List Nat) : List (Nat × Nat) :=
  let step (acc : List (Nat × Nat)) (j : Nat) : List (Nat × Nat) :=
    if excluded.contains j then acc
    else
      match acc with
      | (a, n) :: t => if a + n = j then (a, n + 1) :: t else (j, 1) :: (a, n) :: t
      | [] => [(j, 1)]
  ((List.range count).foldl (fun acc i => step acc (first + i)) []).reverse

/-- The slots of an operation's range that a set of tracks excludes altogether (R182, R236): defective or slipped on every one. A write also
passes over slots that stay unused, and those with a grown defect that has not taken effect (R156, R164). -/
def excludedSlots (s : State) (d : OpDesc) (z : ZoneDesc) (surface mode : Nat) : List Nat :=
  let gone (track j : Nat) : Bool := defective s.media surface d.zone track j || (slippedSlots s.media surface d.zone track).contains j
  let used := (trackGroups s.media surface z d.track).map Prod.fst
  ((List.range d.count).map fun i => d.first + i).filter fun j =>
    ((List.range (if mode = 2 then 3 else 1)).all fun o => gone (d.track + o) j) ||
      (decide (d.kind = 1) && decide (z.area = 0) && (!used.contains j || grownPending s.media surface d.zone d.track j))

/-- Runs of one kind each: data slots for the kind's opcode, and in a shingled extent's write the selvage slots for WR_SELV (R157). -/
def writeRuns (selvage : List Nat) (runs : List (Nat × Nat)) : List (Nat × Nat) :=
  runs.flatMap fun r =>
    let slots := (List.range r.2).map fun i => r.1 + i
    let data := splitRuns r.1 r.2 (slots.filter selvage.contains)
    let selv := splitRuns r.1 r.2 (slots.filter fun j => !selvage.contains j)
    let parts := data.map (fun x => (0x20, x)) ++ selv.map fun x => (0x21, x)
    slots.flatMap fun j => (parts.filter fun x => decide (x.2.1 = j)).map fun x => (x.1, x.2.2 * 4096 + x.2.1)

/-- The opcodes of an operation (R163, R236, R237): one per run; a write of a zone with raw 2 is followed by the re-read of its track. -/
def opcodesFor (s : State) (d : OpDesc) (z : ZoneDesc) (surface mode : Nat) : List (Nat × Nat) :=
  let runs := splitRuns d.first d.count (excludedSlots s d z surface mode)
  let selvage := if z.area = 0 then ((trackGroups s.media surface z d.track).filter fun g => g.2.2).map fun g => g.1 else []
  let runsOf (code : Nat) : List (Nat × Nat) := runs.map fun r => (code, r.2 * 4096 + r.1)
  let body :=
    if d.kind = 4 then d.pairs
    else if d.kind = 0 then runsOf 0x10
    else if d.kind = 1 then writeRuns selvage runs ++ (if z.raw = 2 then runsOf 0x11 else [])
    else if d.kind = 2 then runsOf 0x11
    else runsOf 0x21
  (0x01, d.tag.toNat % 2 ^ 24) :: body ++ [(0x02, 0)]

/-- A descriptor is refused (R235): a reserved code, or a slot range beyond the zone. -/
def descBad (d : OpDesc) (z : Option ZoneDesc) : Bool :=
  decide (5 ≤ d.kind ∨ d.mode = 3 ∨ 6 ≤ d.head ∨ (d.count = 0 ∧ d.kind ≠ 4)) ||
    (match z with
     | some z => decide (z.nslot < d.first + d.count)
     | none => decide (d.kind ≠ 4))

/-- What the lane takes from its tables for an operation (R171, R172, R187, R195). -/
def opSettings (s : State) (l : LaneIx) (d : OpDesc) (mode surface a : Nat) (src : ReadSource) : LaneOp :=
  let v := s.lane[l]
  { kind := d.kind
    source := src
    head := d.head
    place := { surface := surface, zone := d.zone, track := d.track }
    flip := recFlip s a
    vreader := recVreader s a
    readers := Vector.ofFn fun r : Fin 4 => readerSet s v a d.zone r.val 0
    precomp := precompEntry s v d.head d.zone
    detector := readBytes s (detEntry v d.head d.zone mode) 64 }

/-- Slots of a write's range with a grown defect that has not taken effect are skipped under slip records of cause 4 (R164). -/
def slipGrown (l : LaneIx) (d : OpDesc) (surface : Nat) (s : State) : State :=
  ((List.range d.count).map fun i => d.first + i).foldl (fun t j =>
    if grownPending t.media surface d.zone d.track j then addSlip l j 4 j true t else t) s

/-- The lane's set-up at an operation start (R171, R177, R179, R191, R192, R235, R236). -/
def opSetup (l : LaneIx) (d : OpDesc) (z : ZoneDesc) (mode usable surface a : Nat) (x : PatStart) (s : State) : State :=
  let v := s.lane[l]
  let rdr := singleReader usable (recRef s a)
  let on := if d.kind = 1 ∨ d.kind = 3 then 2 ^ z.vreader
    else if mode = 0 then 2 ^ rdr else if mode = 1 then d.rdrEn &&& usable &&& recCmask s a else d.rdrEn &&& usable
  let ctl := fldAt (fld (laneReg v 0) 17 17) 17 17 ||| bitAt d.verify 16 ||| fldAt on 15 12 ||| fldAt mode 11 10 |||
    fldAt rdr 9 8 ||| fldAt d.head 7 5 ||| bitAt true 0
  let codes := opcodesFor s d z surface mode
  let carry := bitOf (laneReg v 0x1C) 9 && x.soon && decide (v.now.head = d.head ∧ v.now.place.zone = d.zone ∧
    v.now.place.surface = surface ∧ v.modeOn = mode)
  let v := { v with
    regs := regSet laneRows v.regs 0 ctl
    cur := v.regs
    feReady := v.feReady && decide (v.rdrOn = BitVec.ofNat 4 on)
    rdrOn := BitVec.ofNat 4 on
    modeOn := mode
    paSent := true
    now := opSettings s l d mode surface a x.source
    taps := if carry then v.taps else .initial
    tapSet := initialTaps s v d.head d.zone mode
    known := []
    offTrack := []
    row := { v.row with fifo := codes.take 16, posts := [], eqReload := false, eqFrozen := false }
    pat := { v.pat with
      op := some d
      state := .operation
      todo := codes.drop 16
      codes := codes
      abort := false
      slips := []
      checks := 0 } }
  let v := if d.custWr ∧ d.kind = 4 then { v with regs := regSet laneRows v.regs 0x1000 (setFld (rowCtl v) 2 2 1) } else v
  let s := patMoves l (setLane l v { s with yck := { s.yck with regs := regSet yckRows s.yck.regs (0x44 + 16 * l.val) d.row } })
  let s := if d.kind = 1 ∧ z.area = 0 then slipGrown l d surface s else s
  if (List.range 4).any fun r => on.testBit r && afeStale (afeEntry s a d.zone r) v.temp then
    scheduleCal surface d.zone false (feEvent l 0 s)
  else s

/-! ### Parity of the Pattern engine's stores (R238, R240) -/

/-- The darn words that no enabled match register and no word of a patch takes: a run of n of them, from the lowest. -/
def freeDarn (v : Lane) (n : Nat) : Option Nat :=
  let used (a : Nat) : Bool := decide (darnGet v a ≠ 0) || (List.range 32).any fun k =>
    let m := laneReg v (0x1180 + 4 * k)
    bitOf m 31 && decide (fld m 23 16 = a)
  (List.range 256).find? fun a => decide (a + n ≤ 256) && (List.range n).all fun i => !used (a + i)

/-- The patch a darn word belongs to: from the nearest match target at or below it to the last word in use before a free one. -/
def darnPatch (v : Lane) (a : Nat) : Nat × Nat :=
  let starts := (List.range 32).filterMap fun k =>
    let m := laneReg v (0x1180 + 4 * k)
    if bitOf m 31 ∧ fld m 23 16 ≤ a then some (fld m 23 16) else none
  let b := starts.foldl max (if starts = [] then a else 0)
  (b, ((List.range (256 - b)).takeWhile fun i => decide (b + i ≤ a) || decide (darnGet v (b + i) ≠ 0)).length)

/-- A patch is moved to free darn words and its match registers retargeted (R240); without room it stays. -/
def darnMove (v : Lane) (a : Nat) : Lane :=
  let (b, n) := darnPatch v a
  match freeDarn v n with
  | none => v
  | some k =>
    let move (p : Lane) (i : Nat) : Lane :=
      let p := { p with pat := darnSet p (k + i) (darnGet p (b + i)) }
      { p with pat := darnSet p (b + i) 0 }
    let darn := ((List.range n).foldl move v).pat.darn
    let regs := (List.range 32).foldl (fun rs i =>
      let m := regGet laneRows rs (0x1180 + 4 * i)
      if bitOf m 31 ∧ fld m 23 16 = b then regSet laneRows rs (0x1180 + 4 * i) (setFld m 23 16 k) else rs) v.regs
    { v with regs := regs, pat := { v.pat with darn := darn } }

/-- A darn parity error (R240): the word is reloaded from the shadow, a second one at its address within one hour moves the patch, and
the operation is retried. -/
def darnParity (l : LaneIx) (a halves : Nat) (s : State) : State :=
  let v := s.lane[l]
  let now := s.sys.ms
  let again := v.pat.errors.any fun e => decide (e.1 = a ∧ now < e.2 + 3600000)
  let w := BitVec.ofNat 64 (readLE s ((laneReg v 0x1124).toNat + 8 * a) 8)
  let v := { v with pat := { darnSet v a (if w = 0 then imageDarn v.pat.image a else w) with
    errors := (a, now) :: v.pat.errors.filter fun e => decide (now < e.2 + 3600000)
    fault := fldAt a 13 0 ||| bitAt true 14 ||| fldAt halves 17 16
    checks := 1 } }
  patEvent l 2 (patEvent l 0 (setLane l (if again then darnMove v a else v) s))

/-- A ROM parity error (R240): a patch of the ROM word and a jump back, with one match register and two darn words, and the retry;
without them the engine stays in its machine check until the actuator moves to L4. The words of the patch are Voxwald's, free values. -/
def romParity (l : LaneIx) (a halves : Nat) (s : State) : State :=
  let v := s.lane[l]
  let v := { v with pat := { v.pat with fault := fldAt a 13 0 ||| fldAt halves 17 16, checks := 1 } }
  match freeDarn v 2, (List.range 32).find? fun k => !bitOf (laneReg v (0x1180 + 4 * k)) 31 with
  | some k, some n =>
    let (w1, s) := freeNext s
    let (w2, s) := freeNext s
    let v := { v with
      regs := regSet laneRows v.regs (0x1180 + 4 * n) (fldAt a 13 0 ||| fldAt k 23 16 ||| bitAt true 31)
      pat := darnSet { v with pat := darnSet v k w1 } (k + 1) w2 }
    patEvent l 2 (patEvent l 6 (patEvent l 1 (setLane l v s)))
  | _, _ => patEvent l 1 (setLane l { v with pat := { v.pat with state := .machineCheck, pc := a, inDarn := false } } s)

/-- The parity error the engine meets at an operation's start, if any (R240; log entry 126). -/
def patParity (l : LaneIx) (p : Option PatParity) (s : State) : State :=
  match p with
  | none => s
  | some x => if x.rom then romParity l x.addr.val x.halves.val s else darnParity l (x.addr.val % 256) x.halves.val s

/-- An operation that ends before it starts: its completion is posted at once. -/
def opRefuse (l : LaneIx) (d : OpDesc) (status : Nat) (s : State) : State :=
  let v := s.lane[l]
  let c : OpDone := { tag := d.tag, status := status, firstNotDone := d.first, slips := [] }
  hqmPost (64 + l.val) (fld (laneReg v 0x1110) 29 16) (doneWords c) (setPat l { v.pat with done := c :: v.pat.done } s)

/-- The sectors of a read without a usable reader are unreadable at once, and surface parity serves them (R180). -/
def opUnreadable (l : LaneIx) (d : OpDesc) (surface : Nat) (s : State) : State :=
  let ds := (List.range d.count).map fun i =>
    ({ surface := surface, zone := d.zone, track := d.track, slot := d.first + i, live := false } : Defect)
  decEvent l 9 { s with media := { s.media with handed := s.media.handed ++ ds.filter fun x => !s.media.handed.contains x } }

/-- A gauge row may time a write now (R113, R151): its CRC, its valid bit, no entry beyond 8 bits, an active head, the guard down and the
spindle's permit. -/
def rowTimes (s : State) (row : Nat) : Bool :=
  gaugeCrcOk s row && rowValid s row && !rowOver s row && s.yck.active.isSome && !s.yck.guardSector && !s.yck.guardSlew && s.spn.wrOk

/-- A write that a row cannot time is held; for an entry beyond 8 bits its calibration is scheduled at once (R113, R151). -/
def opHeld (surface zone row : Nat) (s : State) : State :=
  if gaugeCrcOk s row ∧ rowValid s row ∧ rowOver s row then scheduleCal surface zone true s else s

/-- The Pattern engine, idle, pops the next descriptor of its command ring and starts its operation (R206, R235, R236). The operation
waits behind the retries and selvage reads of the one before it, where a table it needs fails its check (R173, R195), or where a write must
be held (R113); a write to a yarn-format zone in preamble mode is withdrawn (R114). A parity error of the engine's stores is met as the
operation starts (R240). -/
def patOperation (l : LaneIx) (x : PatStart) (s : State) : State :=
  let v := s.lane[l]
  if v.pat.state ≠ .idle ∨ v.ladder.any fun e => decide (3 ≤ e.rung) then s
  else
    match hqmTake (fld (laneReg v 0x1110) 13 0) s with
    | none => s
    | some (ws, taken) =>
      let d := parseDesc ws
      let a := headRecord v d.head
      let surface := (laneAct s.flt l).elim 24 fun y => surfaceOf y d.head
      let zone := zoneOn s.media surface d.zone
      let z := zone.getD (zoneDesc [])
      let usable := usableReaders s v a d.head d.zone
      let row := d.row.toNat
      let timed := s.yck.active.isSome && gaugeCrcOk s row && rowValid s row && !z.preamble
      let mode := modeFor d.mode (tripleOk s d z surface a usable (refOfs s l) timed) (combinedOk s z a usable (refOfs s l))
      let writes := decide (d.kind = 1 ∨ d.kind = 3)
      if descBad d zone then patEvent l 4 (opRefuse l d 2 taken)
      else if headRecordOk s a = false ∨ (zone.isSome ∧ recVreader s a ≠ z.vreader) then feEvent l 1 s
      else if d.rdrEn &&& recFitted s a ≠ d.rdrEn then patEvent l 4 (opRefuse l d 2 taken)
      else if writes = false ∧ detEntryOk s v d.head d.zone mode = false then decEvent l 0 s
      else if writes ∧ z.preamble = false ∧ s.yck.preamble then opRefuse l d 1 taken
      else if writes ∧ z.preamble = false ∧ rowTimes s row = false then opHeld surface d.zone row s
      else if usable = 0 ∧ d.kind ≠ 4 then
        (if writes then opRefuse l d 1 taken else opUnreadable l d surface (opRefuse l d 1 taken))
      else patParity l x.parity (opSetup l d z mode usable surface a x taken)

/-- PAT_OPERATION (R236). -/
def execPatOperation (l : LaneIx) (x : PatStart) (s : State) : Host.Outcome State Fault Refusal := act s (patOperation l x)

/-- A write to LANE_PAT_CTL (R242, R243): run starts or stops the engine; quiesce holds it at an operation boundary. As the engine
starts, firmware issues again what it lost (R39, R227). -/
def patCtlWrite (l : LaneIx) (w : Word) (s : State) : State :=
  let v := s.lane[l]
  let run := bitOf w 0
  let quiesce := bitOf w 1
  let state : PatState :=
    if run = false then .stopped
    else
      match v.pat.state with
      | .stopped | .idle | .quiesced => if quiesce then .quiesced else .idle
      | x => x
  let p := { v.pat with
    state := state
    op := if run then v.pat.op else none
    todo := if run then v.pat.todo else []
    abort := v.pat.abort && run }
  let hit := decide (state = .quiesced) && decide (v.pat.state ≠ .quiesced)
  let s := setLane l { v with regs := regSet laneRows v.regs 0x1100 (fldAt (fld w 1 0) 1 0), pat := p } s
  let s := if run ∧ ¬ bitOf (patCtl v) 0 then reissue l l s else s
  if hit then patEvent l 5 s else s

/-- PAT_RUN (R243): a write of LANE_PAT_CTL. -/
def execPatRun (l : LaneIx) (w : Word) (s : State) : Host.Outcome State Fault Refusal := act s (patCtlWrite l w)

/-- PAT_QUIESCE (R242): a write of LANE_PAT_CTL with quiesce at 1. -/
def execPatQuiesce (l : LaneIx) (w : Word) (s : State) : Host.Outcome State Fault Refusal := act s (patCtlWrite l (w ||| 2#32))

/-! ### Darn RAM and match registers (R238 to R240) -/

/-- A darn write: accepted while the engine is stopped or quiesced, ignored with cfg_err otherwise (R239). -/
def darnWrite (l : LaneIx) (s : State) : State :=
  let v := s.lane[l]
  match v.pat.state with
  | .stopped | .quiesced =>
    let a := fld (laneReg v 0x1114) 7 0
    let w := BitVec.ofNat 64 ((laneReg v 0x1118).toNat + (laneReg v 0x111C).toNat * 2 ^ 32)
    setPat l (darnSet v a w) s
  | _ => patEvent l 7 s

/-- DARN_WRITE (R239). -/
def execDarnWrite (l : LaneIx) (s : State) : Host.Outcome State Fault Refusal := act s (darnWrite l)

/-- A darn word read back (R243). -/
def darnRead (l : LaneIx) (s : State) : State :=
  let v := s.lane[l]
  let w := (darnGet v (fld (laneReg v 0x1114) 7 0)).toNat
  setLane l { v with regs := regSet laneRows (regSet laneRows v.regs 0x1118 (BitVec.ofNat 32 w)) 0x111C (BitVec.ofNat 32 (w / 2 ^ 32)) } s

/-- DARN_READBACK (R243). -/
def execDarnReadback (l : LaneIx) (s : State) : Host.Outcome State Fault Refusal := act s (darnRead l)

/-- A match-register write is staged (R239). -/
def matchWrite (l : LaneIx) (n : Fin 32) (w : Word) (s : State) : State :=
  let v := s.lane[l]
  setPat l { v.pat with staged := keyPut v.pat.staged n.val (w &&& 0x80FF3FFF#32) } s

/-- MATCH_WRITE (R239). -/
def execMatchWrite (l : LaneIx) (n : Fin 32) (w : Word) (s : State) : Host.Outcome State Fault Refusal := act s (matchWrite l n w)

/-- At an operation boundary all staged writes take effect together (R239). -/
def matchApply (l : LaneIx) (s : State) : State :=
  let v := s.lane[l]
  match v.pat.state, v.pat.staged with
  | .idle, x :: t | .quiesced, x :: t =>
    let regs := (x :: t).foldl (fun rs e => regSet laneRows rs (0x1180 + 4 * e.1) e.2) v.regs
    patEvent l 6 (setLane l { v with regs := regs, pat := { v.pat with staged := [] } } s)
  | _, _ => s

/-- MATCH_APPLY (R239). -/
def execMatchApply (l : LaneIx) (s : State) : Host.Outcome State Fault Refusal := act s (matchApply l)

/-! ### Writes to the LANE and pool registers (R192, R215, R216, R243) -/

/-- A write to LANE_FE_CTL (R192): ignored with cfg_err while the Row sequencer runs, and with mode 3. -/
def feCtlWrite (l : LaneIx) (w : Word) (s : State) : State :=
  let v := s.lane[l]
  if rowRuns v ∨ fld w 11 10 = 3 then feEvent l 10 s
  else setLane l { v with regs := regWrite laneRows v.regs false 0 w } s

/-- Table addresses (R192). -/
def isTable (off : Nat) : Bool := decide (off = 0x0C ∨ off = 0x10 ∨ off = 0x14 ∨ off = 0x18)

/-- A detection register's field lies outside its range (R215). -/
def decBad (off : Nat) (w : Word) : Bool :=
  if off = 0x404 then decide (fld w 11 8 < 2 ∨ fld w 11 8 ≤ fld w 15 12)
  else if off = 0x408 then decide (8 < fld w 3 0)
  else if off = 0x40C then decide (8 < fld w 11 8 ∨ fld w 4 0 < 1 ∨ 12 < fld w 4 0)
  else false

/-- A write to the deep-decode pool (R216). -/
def ddpWrite (off : Nat) (w : Word) (s : State) : State :=
  let p := s.ddp
  let put (w : Word) : State := { s with ddp := poolServe { p with regs := regWrite ddpRows p.regs false off w } }
  if off = 0x800 then put (w &&& ~~~ BitVec.ofNat 32 p.failed.toNat)
  else if off = 0x80C then
    (if p.queue ≠ [] ∨ fld w 5 0 < 1 ∨ 40 < fld w 5 0 ∨ fld w 13 8 < 8 ∨ 32 < fld w 13 8 then ddpEvent 3 s else put w)
  else put w

/-- A write to a register of a LANE block (R19, R192, R215, R243). -/
def laneWrite (l : LaneIx) (hook : Bool) (off : Nat) (w : Word) (s : State) : State :=
  let v := s.lane[l]
  let put : State := setLane l { v with regs := regWrite laneRows v.regs false off w } s
  if 0x800 ≤ off ∧ off ≤ 0x80C then (if l = 0 then ddpWrite off w s else s)
  else if off = 0 then feCtlWrite l w s
  else if isTable off then (if rowRuns v then feEvent l 10 s else put)
  else if off = 0x24 then (if 8 < fld w 3 0 ∨ 8 < fld w 11 8 then feEvent l 10 s else put)
  else if off = 0x34 then paQueue l w s
  else if decBad off w then decEvent l 10 s
  else if off = 0x1000 then rowCtlWrite l hook w s
  else if off = 0x1010 then (if fld w 7 0 = 0 then rowEvent l 10 s else put)
  else if off = 0x1048 then ldCmdWrite l w s
  else if off = 0x1100 then patCtlWrite l w s
  else if off = 0x1120 then
    (let s := if bitOf w 0 then darnWrite l s else s
     if bitOf w 1 then darnRead l s else s)
  else if h : 0x1180 ≤ off ∧ (off - 0x1180) / 4 < 32 then matchWrite l ⟨(off - 0x1180) / 4, h.2⟩ w s
  else if 0x1030 ≤ off ∧ off ≤ 0x1044 ∧ v.row.swapPend then rowEvent l 10 s
  else put

end Sys2Proof.Machine
end

