-- ==== Sys2Proof/Machine/Servo.lean ====
section
/-!
DEFINITION. The meanings of the servo commands (chapter "Actuator Servo", R119 to R144, and the servo binding of R34).
-/
namespace Sys2Proof.Machine
open Sys2Proof

/-! ### Access to an engine and its registers -/

/-- Engine e replaced. -/
def setSrv (e : EngIx) (v : Srv) (s : State) : State := { s with srv := s.srv.set e v }

/-- Port a replaced. -/
def setPort (a : ActIx) (v : Port) (s : State) : State := { s with port := s.port.set a v }

/-- A register of an engine as it is in force (R144). -/
def srvReg (v : Srv) (off : Nat) : Word := regGet srvRows v.cur off

/-- A register of an engine as it was last written: commands go by it, and the next sample takes it up (R144). -/
def srvSet (v : Srv) (off : Nat) : Word := regGet srvRows v.regs off

/-- A register of an engine as a Q2.29 or other signed 32-bit value. -/
def srvInt (v : Srv) (off : Nat) : Int := (srvReg v off).toInt

/-- Actuator a is declared absent: none of its heads is fitted (R62). -/
def actAbsent (s : State) (a : ActIx) : Bool := (List.range 6).all fun h => s.arr.absent.getLsbD (surfaceOf a h)

/-- Bit b of SRV_EVENT of engine e is set and its source raised (R144, R414). -/
def srvEvent (e : EngIx) (b : Nat) (s : State) : State :=
  let v := s.srv[e]
  raise (srcSrv e.val b) (setSrv e { v with regs := regSet srvRows v.regs 8 (regGet srvRows v.regs 8 ||| bitAt true b) } s)

/-- SRV_EVENT.cfg_err. -/
def srvCfgErr (e : EngIx) (s : State) : State := srvEvent e 14 s

def srvLocked (v : Srv) : Bool := bitOf (srvSet v 0) 8
def srvPzEn (v : Srv) : Bool := bitOf (srvReg v 0) 7
def srvHoldSwap (v : Srv) : Bool := bitOf (srvReg v 0) 5

/-- Heads fitted (R138). -/
def headFitted (v : Srv) (h : Nat) : Bool := bitOf (srvSet v 0x20) (8 + h) && decide (h < 6)

/-- Position of a track with the reference offset in force (R123). -/
def trackPos (v : Srv) (track : Nat) : Int := 1024 * (track : Int) + signed 16 (fld (srvReg v 0x10) 15 0)

/-- The same with the offset as it was last written, which the first sample of a seek takes up. -/
def trackPosSet (v : Srv) (track : Nat) : Int := 1024 * (track : Int) + signed 16 (fld (srvSet v 0x10) 15 0)

/-- Add half and shift right: rounding to the nearest integer, halves upwards, of a value with 29 fraction bits (R126). -/
def roundQ29 (x : Int) : Int := (x + 2 ^ 28) / 2 ^ 29

/-! ### Sections and cascades (R126, R127, R131) -/

/-- Offset of section i of the active bank (R144). -/
def sectionBase (v : Srv) (i : Nat) : Nat := (if v.bankB then 0x1800 else 0x1000) + 32 * i

def secEn (v : Srv) (i : Nat) : Bool := bitOf (srvReg v (sectionBase v i + 0x1C)) 0
def secSrc (v : Srv) (i : Nat) : Nat := fld (srvReg v (sectionBase v i + 0x1C)) 3 1
def secDst (v : Srv) (i : Nat) : Nat := fld (srvReg v (sectionBase v i + 0x1C)) 5 4

/-- The 48-bit range of a section state. -/
def sat48 (x : Int) : Int := clampInt (-(2 ^ 47)) (2 ^ 47 - 1) x

/-- One enabled section on input x (R126), made bumpless first where the last swap found it saturated (R131). Where only a state was
clamped, the side is low where a state went below its range, else high (log entry 136). -/
def runSection (v : Srv) (i : Fin 24) (x : Int) : Int × Srv :=
  let b := sectionBase v i.val
  let b0 := srvInt v b
  let b1 := srvInt v (b + 4)
  let b2 := srvInt v (b + 8)
  let a1 := srvInt v (b + 0xC)
  let a2 := srvInt v (b + 0x10)
  let hi := srvInt v (b + 0x14)
  let lo := srvInt v (b + 0x18)
  let yc := if v.bump[i] = .high then hi else lo
  let s1 := if v.bump[i] = .none then v.s1[i] else sat48 (yc * 2 ^ 29 - b0 * x)
  let s2 := if v.bump[i] = .none then v.s2[i] else sat48 (b2 * x - a2 * yc)
  let raw := roundQ29 (b0 * x + s1)
  let y := clampInt lo hi raw
  let n1 := b1 * x - a1 * y + s2
  let n2 := b2 * x - a2 * y
  let side : Clamp :=
    if raw < lo then .low else if hi < raw then .high
    else if n1 ≠ sat48 n1 ∨ n2 ≠ sat48 n2 then (if n1 < 0 ∨ n2 < 0 then .low else .high) else .none
  (y, { v with s1 := v.s1.set i (sat48 n1), s2 := v.s2.set i (sat48 n2), sat := v.sat.set i side, bump := v.bump.set i .none })

/-- A series cascade over the given sections (R127): a disabled section passes its input on and never saturates (R130). -/
def cascade (is : List (Fin 24)) (x : Int) (v : Srv) : Int × Srv :=
  match is with
  | [] => (x, v)
  | i :: t =>
    if secEn v i.val then
      let (y, v1) := runSection v i x
      cascade t y v1
    else cascade t x { v with sat := v.sat.set i .none, bump := v.bump.set i .none }

def vcmSections : List (Fin 24) := (List.finRange 24).filter fun i => decide (i.val < 12)
def pzSections : List (Fin 24) := (List.finRange 24).filter fun i => decide (12 ≤ i.val ∧ i.val < 20)
def ffSections : List (Fin 24) := (List.finRange 24).filter fun i => decide (20 ≤ i.val)

/-- The feedforward sections (R127): the sum for the VCM path and the sum for the piezo path. -/
def feedforward (is : List (Fin 24)) (src : Nat → Int) (v : Srv) : Int × Int × Srv :=
  match is with
  | [] => (0, 0, v)
  | i :: t =>
    if secEn v i.val then
      let (y, v1) := runSection v i (src (secSrc v i.val))
      let (a, b, v2) := feedforward t src v1
      let d := secDst v i.val
      (if d = 0 ∨ d = 2 then a + y else a, if d = 1 ∨ d = 2 then b + y else b, v2)
    else feedforward t src { v with sat := v.sat.set i .none, bump := v.bump.set i .none }

/-- The other bank has a configuration error (R126, R127): an enabled section with clamp_lo above clamp_hi, a reserved source or
a reserved destination. -/
def bankBad (v : Srv) : Bool :=
  let w := { v with bankB := !v.bankB }
  (List.range 24).any fun i =>
    secEn w i && (decide (srvInt w (sectionBase w i + 0x14) < srvInt w (sectionBase w i + 0x18)) ||
      (decide (20 ≤ i) && (decide (3 ≤ secSrc w i) || decide (secDst w i = 3))))

/-- A counted section of R130 had its saturation flag set in the last sample. -/
def countedSat (v : Srv) : Bool :=
  (List.finRange 24).any fun i =>
    secEn v i.val && decide (v.sat[i] ≠ .none) && (decide (i.val < 12) || decide (20 ≤ i.val) || srvPzEn v)

/-! ### The Drive Link frame (R139) -/

/-- CRC-8, polynomial 0x07, of the n most significant bits of a 24-bit value, MSB first, from 0x00. -/
def crc8 (n : Nat) (bits : Nat) (crc : Nat) : Nat :=
  match n with
  | 0 => crc
  | n + 1 =>
    let top := (crc / 128 + bits / 2 ^ n) % 2
    let c := crc * 2 % 256
    crc8 n (bits % 2 ^ n) (if top = 1 then (c ^^^ 7) else c)

/-- A DO frame: type, 18-bit current, sequence number and CRC. -/
def doFrame (type : Nat) (current : Int) (seq : Fin 16) : BitVec 32 :=
  let body := type * 2 ^ 22 + (current % 2 ^ 18).toNat * 16 + seq.val
  BitVec.ofNat 32 (body * 256 + crc8 24 body 0)

/-- The mean of the last valid commands (R141), rounded down. -/
def meanCmd (l : List Int) : Int := l.foldl (fun a b => a + b) 0 / ((max 1 l.length : Nat) : Int)

/-- The port sends one frame: a command, or an idle frame with zero current. -/
def sendFrame (p : Port) (cmd : Option Int) : Port :=
  match cmd with
  | some c => { p with frame := doFrame 1 c p.seq, seq := p.seq + 1, cmds := (c :: p.cmds).take 16 }
  | none => { p with frame := doFrame 0 0 p.seq, seq := p.seq + 1 }

/-! ### Entering states -/

/-- The model starts anew (R132). -/
def modelFresh (v : Srv) : Srv := { v with modelAge := 0, posHist := [], curHist := [], implRun := 0 }

/-- UNLOADING by a fall of UNLOAD_N, or with the unload table (R140). -/
def enterUnloading (table : Option Play) (v : Srv) : Srv :=
  { v with state := .unloading, play := table, onTrack := false, settled := false, switchTo := none, aim := none, parkWait := false,
           idleAt := none, uFf := 0, validRun := 0, searching := false, holdPend := false }

/-- The CRC-32C of a profile or table: over all of it but the CRC itself (R136; log entry 13). -/
def tableCrcOk (s : State) (addr entryBytes : Nat) : Bool :=
  decide (crc32c (readBytes s addr 8 ++ readBytes s (addr + 12) (4 + entryBytes * readLE s (addr + 4) 2)) = readLE s (addr + 8) 4)

/-- The table at an address, to be played from its first entry (R136, R140; log entry 13); one whose CRC fails has no entry to play. -/
def tableAt (s : State) (addr : Nat) : Play :=
  { addr := addr, entries := if tableCrcOk s addr 4 then readLE s (addr + 4) 2 else 0, index := 0, len := 0,
    profLen := readLE s addr 4, start := 0 }

/-- The controlled unload of engine e (R140); cfg_err where the table's CRC fails (R136). -/
def controlledUnload (e : EngIx) (s : State) : State :=
  let v := s.srv[e]
  let addr := (srvSet v 0x60).toNat
  let s := setSrv e { enterUnloading (some (tableAt s addr)) v with lastCur := 0 } s
  if tableCrcOk s addr 4 then s else srvCfgErr e s

/-- Servo implausible (R133): writes inhibited, any profile abandoned, HOLD with r at the last plausible p. In HOLD itself the model
starts afresh. -/
def implausible (e : EngIx) (s : State) : State :=
  let v := s.srv[e]
  match v.state with
  | .capture | .seek | .settle | .follow =>
    let v := { modelFresh v with
      state := .hold, ref := v.lastPlausible, play := none, onTrack := false, settled := false, settleRun := 0, plausRun := 0,
      holdMet := false, holdRun := 0, inh := setBit v.inh 2, switchTo := none, aim := none, uFf := 0 }
    srvEvent e 3 (setSrv e v s)
  | .hold => setSrv e (modelFresh v) s
  | _ => s

/-- The availability of the actuator an engine is bound to, changed (R277). -/
def availChange (e : EngIx) (f : ActAvail → ActAvail) (s : State) : State :=
  match (List.finRange 4).find? fun a => decide (srvBind s.flt e.val = a.val) with
  | some a => { s with arr := { s.arr with avail := s.arr.avail.set a (f s.arr.avail[a]) } }
  | none => s

/-- HOLD has lasted hold_max samples (R133, R277). -/
def holdTimeout (e : EngIx) (s : State) : State :=
  if (s.srv[e]).state = .hold then
    controlledUnload e (srvEvent e 9 (availChange e (fun v => { v with holdTmos := s.sys.ms :: v.holdTmos, reloading := true }) s))
  else s

/-- A head switch begins; one that has not reached on-track has failed (R138, R276). -/
def switchBegins (h : Nat) (v : Srv) : Srv :=
  match v.aiming with
  | some g => { v with aiming := some h, missedHeads := if v.missedHeads.contains g then v.missedHeads else v.missedHeads ++ [g] }
  | none => { v with aiming := some h }

/-- A head reaches FOLLOW (R276): the switches to other heads that failed before count, and its own run of failures ends. -/
def headReached (a : ActIx) (h : Nat) (missed : List Nat) (s : State) : State :=
  let runs := (missed.filter fun g => decide (g ≠ h)).foldl (fun r g => keyPut r (surfaceOf a g) (keyGet r (surfaceOf a g) 0 + 1)) s.media.switchRun
  { s with media := { s.media with switchRun := keySet runs (surfaceOf a h) 0 0 } }

/-- On-track (R137); an actuator in FOLLOW is available again (R277). -/
def onTrackNow (e : EngIx) (s : State) : State :=
  let v := s.srv[e]
  match v.state with
  | .settle | .capture | .hold =>
    let t := setSrv e { v with state := .follow, onTrack := true, settled := true, aiming := none, missedHeads := [] } s
    let t := match (List.finRange 4).find? fun a => decide (srvBind s.flt e.val = a.val) with
      | some a => headReached a v.head (match v.aiming with
          | some g => if g = v.head then v.missedHeads else v.missedHeads ++ [g]
          | none => v.missedHeads) t
      | none => t
    srvEvent e 0 (availChange e (fun x => { x with unavailable := false, reloading := false }) t)
  | _ => s

/-- A wedge run of sam_max misses (R119): implausible, and continuous search. -/
def samMissRun (e : EngIx) (s : State) : State :=
  let s := implausible e s
  setSrv e { s.srv[e] with searching := true } s

/-- An engine fault (R141). -/
def engineFault (e : EngIx) (s : State) : State := engineFaultW raise e s

/-! ### One sample (R123) -/

/-- The SAM is seen: within 32 servo bits of its predicted place, or anywhere while the search is continuous (R119). -/
def samSeen (v : Srv) (x : WedgeRead) : Bool :=
  match x.sam with
  | some d => v.searching || decide (d.natAbs ≤ 32)
  | none => false

/-- Some burst has fewer transitions than min_tr (R119). -/
def fewTransitions (v : Srv) (x : WedgeRead) : Bool := decide (x.transitions < fld (srvReg v 0x28) 27 24)

/-- The wedge is missed (R119). -/
def wedgeMissed (v : Srv) (x : WedgeRead) : Bool :=
  !samSeen v x || ((v.wedge.map fun n => decide (n ≠ x.wedge.val)).getD false) || fewTransitions v x

/-- The number the next wedge is expected to carry, after a sample whose wedge was number w (R119). -/
def wedgeAfter (s : State) (w : Nat) : Nat := if wedges s.yck ≤ w + 1 then 0 else w + 1

/-- The model's prediction of p(k) (R132). -/
def predict (v : Srv) : Int :=
  let d := fld (srvReg v 0x48) 1 0
  let p1 := v.posHist.getD 0 v.pos
  let p2 := v.posHist.getD 1 p1
  roundQ29 (srvInt v 0x38 * p1 + srvInt v 0x3C * p2 + srvInt v 0x40 * v.curHist.getD d 0 + srvInt v 0x44 * v.curHist.getD (d + 1) 0)

/-- The model is evaluated: not in the first 2 + d samples after it started anew (R132). -/
def modelLive (v : Srv) : Bool := decide (2 + fld (srvReg v 0x48) 1 0 ≤ v.modelAge)

/-- A burst's timestamp, in 1/64 servo bit: it resolves 1/32 against the wedge-locked clock (R120, R121). -/
def timestamp (coarse : Bool) (t : Int) : Int := if coarse then 2 * (t / 2) else t

/-- The measured position before folding and RRO correction (R120); in 1/512 track where timestamps are coarse (R121; log entry 135). -/
def rawPosition (v : Srv) (x : WedgeRead) : Int :=
  let cfg := srvReg v 0x28
  let t := timestamp v.coarse
  let num := ((t x.tB - t x.tA) + (t x.tD - t x.tC) - 2 * (fld cfg 15 0 : Int)) * (fld cfg 23 16 : Int)
  timestamp v.coarse (1024 * (x.trackId : Int) + num / 32)

/-- The RRO field's correction, none where either half fails its parity (R122; even parity: log entry 135). -/
def rroCorrection (x : WedgeRead) : Option Int :=
  let odd (n : Nat) : Bool := decide (((List.range 6).filter fun i => x.rro.getLsbD (n + i)).length % 2 = 1)
  if odd 0 = x.rro.getLsbD 12 ∧ odd 6 = x.rro.getLsbD 13 then some (signed 12 x.rro.toNat) else none

/-- Folding by one track where that brings p within 512 of the prediction (R120): the position and whether it folded. -/
def foldPosition (p pred : Int) : Int × Bool :=
  if (p - pred).natAbs ≤ 512 then (p, false)
  else if (p + 1024 - pred).natAbs ≤ 512 then (p + 1024, true)
  else if (p - 1024 - pred).natAbs ≤ 512 then (p - 1024, true)
  else (p, false)

/-- The yarn clock's master phase is missing or its mode is preamble: bursts are timed against the wedge-locked clock (R121). -/
def coarseNow (s : State) : Bool := s.yck.preamble || s.yck.active.isNone

/-- The position of the sample and what measuring it set: id_fold and rro_parity (R119 to R122). -/
def measure (v : Srv) (x : WedgeRead) : Int × Bool × Bool :=
  if wedgeMissed v x then (predict v, false, false)
  else
    let p := rawPosition v x
    let (p, fold) := if modelLive v then foldPosition p (predict v) else (p, false)
    match bitOf (srvReg v 0x68) 0, rroCorrection x with
    | true, some c => (p - c, fold, false)
    | true, none => (p, fold, true)
    | false, _ => (p, fold, false)

/-- The profile entry at an index: the reference offset and the current, scaled by L / L_p (R136; log entry 13). -/
def profileEntry (s : State) (q : Play) : Int × Int :=
  let a := q.addr + 16 + 8 * q.index
  let off := signed 32 (readLE s a 4)
  let cur := signed 18 (readLE s (a + 4) 4)
  if q.profLen = 0 then (0, 0) else ((off * q.len).tdiv q.profLen, (cur * q.len).tdiv q.profLen)

/-- The 18-bit current of a load or unload table at an index (R140; log entry 13). -/
def tableEntry (s : State) (addr i : Nat) : Int := signed 18 (readLE s (addr + 16 + 4 * i) 4)

/-- The reference between seeks: the target track with the offset in force, or where no seek has named one, r as it stands (R123, R140;
log entry 135). -/
def trackRef (v : Srv) : Int :=
  match v.aim with
  | some t => trackPos v t
  | none => v.ref

/-- Reference and profile current of the sample, and the play that goes on (R123, R136). -/
def stepProfile (s : State) (v : Srv) : Int × Int × Srv :=
  match v.state, v.play with
  | .seek, some q =>
    if q.index < q.entries then
      let (off, cur) := profileEntry s q
      (q.start + off, cur, { v with play := some { q with index := q.index + 1 } })
    else (trackRef v, 0, { v with play := none, state := .settle, settleRun := 0 })
  | _, _ => (trackRef v, 0, v)

/-! ### The RRO feedforward table (R122) -/

/-- The cosine of r / d of a quarter turn (r at most d), with 40 fraction bits: Taylor's sum to the 20th power (log entry 135). -/
def cosQuarter (r d : Nat) : Int :=
  let x : Int := ((1727108826179 * r / d : Nat) : Int)
  let sq := x * x / 2 ^ 40
  [380, 306, 240, 182, 132, 90, 56, 30, 12, 2].foldl (fun (c : Int) (k : Int) => 2 ^ 40 - sq * c / (2 ^ 40 * k)) (2 ^ 40)

/-- The cosine of n / d of a turn, with 40 fraction bits. -/
def cosTurn (n d : Nat) : Int :=
  let a := 4 * (n % d)
  let r := a % d
  match a / d with
  | 0 => cosQuarter r d
  | 1 => -(cosQuarter (d - r) d)
  | 2 => -(cosQuarter r d)
  | _ => cosQuarter (d - r) d

/-- The sine of n / d of a turn, with 40 fraction bits. -/
def sinTurn (n d : Nat) : Int := cosTurn (4 * n + 3 * d) (4 * d)

/-- The harmonics the table holds: SRV_RRO_CFG.harmonics, 1 to 16, whose code 0 is 16 (log entry 135). -/
def harmonics (v : Srv) : Nat := if fld (srvReg v 0x68) 5 2 = 0 then 16 else fld (srvReg v 0x68) 5 2

/-- u_rro(w) in command LSB (R122), rounded to the nearest; harmonic h lies 8 bytes per harmonic behind the table's address, the cosine
coefficient first (log entry 135). -/
def rroFeed (s : State) (v : Srv) (w : Nat) : Int :=
  let n := wedges s.yck
  let addr := (srvReg v 0x6C).toNat
  if n = 0 then 0
  else roundQ29 ((List.range (harmonics v)).foldl (fun (acc : Int) h =>
    let c := signed 32 (readLE s (addr + 8 * h) 4)
    let d := signed 32 (readLE s (addr + 8 * h + 4) 4)
    acc + (c * cosTurn ((h + 1) * w) n + d * sinTurn ((h + 1) * w) n)) 0 / 2 ^ 40)

/-! ### Write inhibit, sums and swaps -/

/-- A shock acts in this sample: an enabled pin asserted, or an axis at or beyond the threshold (R134). -/
def shockNow (s : State) (v : Srv) : Bool :=
  let c := srvReg v 0x54
  let thr : Int := fld c 11 0
  (bitOf c 12 && s.sys.snsInt.getLsbD 0) || (bitOf c 13 && s.sys.snsInt.getLsbD 1) ||
    (List.finRange 2).any fun i =>
      let r := s.sns.accel[i]
      decide (thr ≤ (r.tangential.natAbs : Int)) || decide (thr ≤ (r.radial.natAbs : Int)) || decide (thr ≤ (r.axial.natAbs : Int))

/-- The write-inhibit causes of the sample (R134). -/
def inhibitCauses (s : State) (v : Srv) (bound missed : Bool) (e : Int) (shock : Bool) (linkBad : Bool) : BitVec 7 :=
  let pes := decide ((fld (srvReg v 0x2C) 9 0 : Int) < (e.natAbs : Int))
  let bits := [pes, shock, decide (v.state = .hold) || missed, s.spn.hold || !s.spn.wrOk,
    !(decide (v.state = .follow) && v.settled), linkBad, decide (v.state = .failed) || !bound]
  (bits.zip (List.range 7)).foldl (fun (m : BitVec 7) b => if b.1 then setBit m b.2 else m) 0

/-- The cross-actuator sum (R128). -/
def crossSum (s : State) (v : Srv) (own : ActIx) : Int :=
  roundQ29 (((List.finRange 4).filter fun j => decide (j ≠ own)).foldl
    (fun acc j => acc + srvInt v (0x70 + 4 * j.val) *
      (match s.port[j].driver with
       | some d => (s.srv[d]).uFf
       | none => 0)) 0)

/-- States in which the engine sends commands from its cascades (R143). -/
def sendsCommands (v : Srv) : Bool :=
  match v.state with
  | .capture | .seek | .settle | .follow | .hold => true
  | _ => false

/-- A pending swap at a sample boundary (R130, R131): refused where the bank has a configuration error (R126), else taken when no
counted section is saturated, when hold_swap is 0, or at the 64th boundary. -/
def swapBoundary (e : EngIx) (s : State) : State :=
  let v := s.srv[e]
  if v.swapPend = false then s
  else
    let n := v.swapWait + 1
    let wait := srvHoldSwap v && countedSat v
    if wait ∧ n < 64 then setSrv e { v with swapWait := n } s
    else if bankBad v then srvCfgErr e (setSrv e { v with swapPend := false, swapWait := 0 } s)
    else
      let s := setSrv e { v with bankB := !v.bankB, swapPend := false, swapWait := 0, bump := v.sat } s
      let s := srvEvent e 5 s
      if wait then srvEvent e 6 s else s

/-- The profile a seek of length L takes (R136): the first of the family with L_p at or above |L|. -/
def findProfile (s : State) (n : Nat) (addr : Nat) (len : Nat) : Option Nat :=
  match n with
  | 0 => none
  | n + 1 => if len ≤ readLE s addr 4 then some addr else findProfile s n (addr + 16 + 8 * readLE s (addr + 4) 2) len

/-- The profile of the family that SRV_SEEK holds (w) for a seek of length L, where there is one and its CRC passes (R136). -/
def profileFor (s : State) (w : Word) (len : Int) : Option Nat :=
  (findProfile s (fld w 7 0) (w.toNat / 256 * 256) len.natAbs).filter fun a => tableCrcOk s a 8

/-- Engine v plays the profile at a from p to p + len, for a target track (R136). -/
def playProfile (s : State) (v : Srv) (a track : Nat) (p len : Int) : Srv :=
  { v with
    state := .seek
    onTrack := false
    settled := false
    settleRun := 0
    aim := some track
    play := some { addr := a, entries := readLE s (a + 4) 2, index := 0, len := len, profLen := readLE s a 4, start := p } }

/-- A seek of engine e to a track, from where r stands, where the family has a profile for it; else cfg_err and no move. -/
def startSeek (e : EngIx) (track : Nat) (s : State) : State :=
  let v := s.srv[e]
  let len := trackPosSet v track - v.ref
  match profileFor s (srvSet v 0x58) len with
  | some a => setSrv e (playProfile s v a track v.ref len) s
  | none => srvCfgErr e s

/-- The engine that leaves a port (R34, R143): IDLE, unless it has failed; it publishes nothing. -/
def leavePort (v : Srv) : Srv :=
  { v with state := if v.state = .failed then .failed else .idle, holdPend := false, uFf := 0, play := none, onTrack := false,
           settled := false, switchTo := none, aim := none, inh := setBit v.inh 6 }

/-- The engine that takes a port (R34, R142, R143): UNLOADING while UNLOAD_N is low, else HOLD from the port's last command. -/
def takePort (s : State) (p : Port) (v : Srv) : Srv :=
  if v.state = .failed then v
  else if s.sys.unloadLow then enterUnloading none v
  else { modelFresh v with
    state := .hold, holdPend := false, holdRun := 0, settleRun := 0, plausRun := 0, holdMet := false, settled := false, onTrack := false,
    aim := none, wedge := none, takeover := some (if p.heldFor.isSome then meanCmd p.cmds else p.cmds.headD 0) }

/-- At the sample boundary of actuator a, the engine that FLT_SRV_MAP names takes the port from the one that drives it, and ends a port
hold (R34, R141, R142, R143). -/
def bindingTakeover (a : ActIx) (s : State) : State :=
  let want := engineOf s.flt a.val
  let p := s.port[a]
  if p.driver = want then s
  else
    let s := match p.driver with
      | some o => setSrv o (leavePort s.srv[o]) s
      | none => s
    match want with
    | none => setPort a { p with driver := none } s
    | some n =>
      let s := setSrv n (takePort s p s.srv[n]) s
      if (s.srv[n]).state = .failed then setPort a { p with driver := some n } s
      else setPort a { p with driver := some n, heldFor := none, holdRun := 0, retract := none } s

/-- A sample boundary of engine e (R121, R144): the written registers come into force, and the bursts' resolution follows the yarn clock. -/
def sampleBoundary (e : EngIx) (s : State) : State :=
  let v := s.srv[e]
  setSrv e { v with cur := v.regs, coarse := coarseNow s } s

/-- The enabled VCM sections made bumpless at a takeover (R131, R142) with the output y_c: the first has the input x, and each
later one the output of the section before it. -/
def seedSections (is : List (Fin 24)) (yc x : Int) (v : Srv) : Srv :=
  match is with
  | [] => v
  | i :: t =>
    if secEn v i.val then
      let b := sectionBase v i.val
      seedSections t yc yc { v with
        s1 := v.s1.set i (sat48 (yc * 2 ^ 29 - srvInt v b * x))
        s2 := v.s2.set i (sat48 (srvInt v (b + 8) * x - srvInt v (b + 0x10) * yc)) }
    else seedSections t yc x v

/-- The first sample of a takeover (R142): y_c makes u_vcm, with the feedforward sum ff in it, equal the port-hold command. -/
def seedTakeover (v : Srv) (x ff : Int) : Srv :=
  match v.takeover with
  | none => v
  | some u => { seedSections vcmSections (u - ff) x v with takeover := none }

/-- Sections of a path that does not run: no saturation flag is set (R127, R130). -/
def pathIdle (is : List (Fin 24)) (v : Srv) : Srv :=
  match is with
  | [] => v
  | i :: t => pathIdle t { v with sat := v.sat.set i .none }

/-- Steps 4 to 7 of R123 in a state that sends commands: the cascades, the sums and the clamps. -/
def runPaths (s : State) (a : ActIx) (v : Srv) (e profCur rroFf : Int) : Int × Srv :=
  let rv := (s.sns.accel[0]).tangential - (s.sns.accel[1]).tangential
  let src (k : Nat) : Int :=
    if k = 0 then (if bitOf (srvReg v 0x68) 1 then rroFf else 0) else if k = 1 then crossSum s v a else if k = 2 then rv else 0
  let v := seedTakeover v e (feedforward ffSections src v).1
  let (yv, v1) := cascade vcmSections e v
  let (yp, v2) := if srvPzEn v1 then cascade pzSections e v1 else (0, pathIdle pzSections v1)
  let (fv, fp, v3) := feedforward ffSections src v2
  let lim : Int := fld (srvReg v 0x4C) 17 0
  let plim : Int := fld (srvReg v 0x50) 15 0
  let u := clampInt (-lim) lim (yv + fv + profCur)
  let z := if srvPzEn v3 then clampInt (-plim) plim (yp + fp) else 0
  (u, { v3 with uVcm := u, uPz := z, pzFf := fp, uFf := profCur, curHist := (u :: v3.curHist).take 6 })

/-- Port hold for one sample (R141): the mean of the last 16 valid commands, the piezo ramping to 0, and the open-loop retract after
SRV_PORTHOLD.max samples or on request. -/
def portHoldSample (max_ : Nat) (p : Port) : Port :=
  let pz := if p.pzStep < 16 then p.pz - p.pz / (16 - p.pzStep : Nat) else 0
  let p := { p with holdRun := p.holdRun + 1, pz := pz, pzStep := p.pzStep + 1 }
  match p.retract with
  | some i =>
    match p.unload[i]? with
    | some c => { sendFrame p (some c) with cmds := p.cmds, retract := some (i + 1) }
    | none => sendFrame p none
  | none =>
    if max_ ≤ p.holdRun then { sendFrame p (p.unload[0]?) with cmds := p.cmds, retract := some 1 }
    else
      let mean := meanCmd p.cmds
      { sendFrame p (some mean) with cmds := p.cmds }

/-- The write-inhibit decision of a sample with error err (R123, R134): the causes, the shock and pes events, and the lane's guard. -/
def sampleInhibit (e : EngIx) (a : ActIx) (missed : Bool) (err : Int) (s : State) : State :=
  let v := s.srv[e]
  let shock := shockNow s v
  let left := if shock then fld (srvReg v 0x54) 23 16 else v.shockLeft - 1
  let linkBad := v.inh.getLsbD 5 && decide (v.dlValid < 16)
  let inh := inhibitCauses s v (decide (s.port[a].driver = some e)) missed err (shock || decide (0 < left)) linkBad
  let was := v.inh
  let s := setSrv e { v with inh := inh, shockLeft := left } s
  let s := if inh.getLsbD 0 ∧ ¬ was.getLsbD 0 then srvEvent e 1 s else s
  let s := if inh.getLsbD 1 ∧ ¬ was.getLsbD 1 then srvEvent e 2 s else s
  if inh ≠ 0 then actInhibit a s else s

/-- CAPTURE with r = p, the position with its RRO correction (R122, R140). -/
def captureAt (e : EngIx) (x : WedgeRead) (s : State) : State :=
  let v := modelFresh s.srv[e]
  let p := (measure { v with wedge := none, searching := true } x).1
  setSrv e { v with state := .capture, pos := p, ref := p, lastPlausible := p, aim := none, play := none, settleRun := 0,
                    searching := true, wedge := some (wedgeAfter s x.wedge.val) } s

/-- The sample of an engine in LOADING (R119, R140): it searches continuously, and the third consecutive valid wedge is captured. -/
def loadSample (e : EngIx) (a : ActIx) (q : Play) (x : WedgeRead) (s : State) : State :=
  let v := { s.srv[e] with searching := true, wedge := none }
  let c := if q.index < q.entries then tableEntry s q.addr q.index else v.lastCur
  let few := samSeen v x && fewTransitions v x
  let run := if samSeen v x && !few && x.idOk then v.validRun + 1 else 0
  let v := { v with play := some { q with index := q.index + 1 }, lastCur := c, validRun := run, uVcm := c,
                    missRun := if few then v.missRun + 1 else 0 }
  let s := setPort a (sendFrame (s.port[a]) (some c)) (setSrv e v s)
  let s := if few then srvEvent e 4 s else s
  if 3 ≤ run then captureAt e x s else s

/-- The sample of an engine in UNLOADING by table (R140): the table, its last current for 20 ms, then idle frames. -/
def unloadSample (e : EngIx) (a : ActIx) (q : Play) (s : State) : State :=
  let v := s.srv[e]
  let p := s.port[a]
  if q.index < q.entries then
    let c := tableEntry s q.addr q.index
    setPort a (sendFrame p (some c)) (setSrv e { v with play := some { q with index := q.index + 1 }, lastCur := c, uVcm := c } s)
  else
    let until_ := v.idleAt.getD (s.sys.ms + 20)
    if s.sys.ms < until_ then
      setPort a (sendFrame p (some v.lastCur)) (setSrv e { v with idleAt := some until_, uVcm := v.lastCur } s)
    else setPort a (sendFrame p none) (setSrv e { v with idleAt := some until_, parkWait := true, uVcm := 0 } s)

/-- The sample of an engine that plays its load or unload table, or sends idle frames (R140, R143). No path runs. -/
def tableSample (e : EngIx) (a : ActIx) (x : WedgeRead) (s : State) : State :=
  let v := { s.srv[e] with sat := Vector.replicate 24 .none, uPz := 0, uFf := 0, rdOk := false }
  let s := setSrv e v s
  let s := match v.state, v.play with
    | .loading, some q => loadSample e a q x s
    | .unloading, some q => unloadSample e a q s
    | _, _ => setPort a (sendFrame (s.port[a]) none) (setSrv e { v with uVcm := 0 } s)
  sampleInhibit e a false 0 s

/-- The head switch that was waiting (R138): the new head's reader is sampled and the model starts afresh; the switch settles as a seek
from the position measured. Where no profile fits, the seek is refused and the old head stays (log entry 135). Answers whether the wedge
counts for the head that is sampled. -/
def switchBoundary (e : EngIx) (x : WedgeRead) (s : State) : Bool × State :=
  let v := s.srv[e]
  match v.switchTo with
  | none => (true, s)
  | some (h, track) =>
    let w := { modelFresh (switchBegins h v) with head := h, reader := fld (srvReg v 0x24) (2 * h + 1) (2 * h), switchTo := none }
    let p := if wedgeMissed w x then v.pos else (measure w x).1
    let len := trackPos v track - p
    match profileFor s (srvReg v 0x58) len with
    | some a => (true, setSrv e (playProfile s { w with pos := p, ref := p } a track p len) s)
    | none => (false, srvCfgErr e (setSrv e { v with switchTo := none } s))

/-- Steps 1 to 3 of R123: the measured position, the head switch that was waiting, the plausibility check and its counts. -/
def sampleMeasure (e : EngIx) (x : WedgeRead) (s : State) : State :=
  let (own, s) := switchBoundary e x s
  let x := if own then x else { x with sam := none }
  let v := s.srv[e]
  let missed := wedgeMissed v x
  let (p, fold, badRro) := measure v x
  let resid := (p - predict v).natAbs
  let excess := modelLive v && !missed && decide (fld (srvReg v 0x34) 9 0 < resid)
  let run := if missed then v.missRun + 1 else 0
  let impl := if excess then v.implRun + 1 else 0
  let (r, cur, v1) := stepProfile s v
  let v2 := { v1 with
    pos := p, ref := if v.takeover.isSome then p else r, missRun := run, implRun := impl, posHist := (p :: v.posHist).take 2
    modelAge := v.modelAge + 1, lastPlausible := if excess ∨ missed then v.lastPlausible else p, uFf := cur
    searching := decide (v.state = .capture) || (v.searching && missed)
    wedge := match v.wedge with
      | some n => some (wedgeAfter s n)
      | none => if missed then none else some (wedgeAfter s x.wedge.val)
    plausRun := if excess then 0 else if v.holdMet then v.plausRun + 1 else 0 }
  let s := setSrv e v2 s
  let s := if missed then srvEvent e 4 s else s
  let s := if fold then srvEvent e 7 s else s
  let s := if badRro then srvEvent e 8 s else s
  let s := if missed ∧ fld (srvReg v 0x34) 31 28 ≤ run then samMissRun e s else s
  if 3 ≤ impl then implausible e s else s

/-- The error, the settle rule and the write-inhibit decision of a sample, with HOLD's own counts (R123, R133, R134, R137). -/
def sampleDecide (e : EngIx) (a : ActIx) (missed : Bool) (s : State) : State :=
  let v := s.srv[e]
  let err := clampInt (-(2 ^ 23 - 1)) (2 ^ 23 - 1) (v.ref - v.pos)
  let settle := srvReg v 0x30
  let run := if err.natAbs ≤ fld settle 9 0 then v.settleRun + 1 else 0
  let met := decide (fld settle 15 12 ≤ run)
  let track : Bool := match v.state with
    | .settle | .capture => met
    | .hold => v.holdMet && decide (16 ≤ v.plausRun)
    | _ => false
  let s := setSrv e { v with err := err, settleRun := run, rdOk := decide (err.natAbs ≤ fld (srvReg v 0x2C) 25 16)
                             holdMet := decide (v.state = .hold) && (v.holdMet || met)
                             holdRun := if v.state = .hold then v.holdRun + 1 else 0 } s
  let s := if track then onTrackNow e s else s
  let s := if (s.srv[e]).state = .hold ∧ fld (srvReg v 0x34) 27 16 ≤ (s.srv[e]).holdRun then holdTimeout e s else s
  sampleInhibit e a missed err s

/-- The sample of a working engine that drives its port (R123): the swap, then the state's own sample. -/
def engineSample (e : EngIx) (a : ActIx) (x : WedgeRead) (s : State) : State :=
  let s := swapBoundary e s
  if sendsCommands (s.srv[e]) then
    let missed := wedgeMissed (s.srv[e]) x
    let w := (s.srv[e]).wedge.getD x.wedge.val
    let s := sampleDecide e a missed (sampleMeasure e x s)
    let v := s.srv[e]
    if sendsCommands v then
      let (u, v1) := runPaths s a v v.err v.uFf (rroFeed s v w)
      setPort a (sendFrame (s.port[a]) (some u)) (setSrv e v1 s)
    else tableSample e a x s
  else tableSample e a x s

/-- What the engine finds of itself in a sample (R124, R129, R141). -/
def selfChecks (e : EngIx) (x : WedgeRead) (s : State) : State :=
  let v := s.srv[e]
  let s := setSrv e { v with longest := max v.longest x.step5 } s
  let s := if x.eccCorr then srvEvent e 15 s else s
  if x.engineBad then engineFault e s else s

/-- SERVO_SAMPLE of actuator a (R123): the binding of R34 first, then port hold, or the engine that drives the port. No frame goes to an
absent actuator (R62), or where no engine is bound (R55). -/
def servoSample (a : ActIx) (x : WedgeRead) (s : State) : State :=
  if actAbsent s a then s
  else
    let s := bindingTakeover a (yckBoundary s)
    let s := match s.port[a].driver with
      | some e => selfChecks e x (sampleBoundary e s)
      | none => s
    let p := s.port[a]
    match p.heldFor, p.driver with
    | some f, _ => setPort a (portHoldSample (fld (srvSet s.srv[f] 0x88) 11 0) p) s
    | none, some e => if (s.srv[e]).state = .failed then s else engineSample e a x s
    | none, none => s

/-- SERVO_SAMPLE (R123). -/
def execServoSample (a : ActIx) (x : WedgeRead) (s : State) : Host.Outcome State Fault Refusal := actWindow s (servoSample a x)

/-- The model's prediction for the half-sample (R123): half way between p(k) and the prediction of p(k+1), and p(k) while the model is
not evaluated (log entry 135). -/
def halfPredict (v : Srv) : Int := if modelLive v then (v.pos + predict v) / 2 else v.pos

/-- The half-sample (R123 step 8): the piezo cascade on r less the model's prediction for that instant, the VCM and feedforward outputs held. -/
def halfSample (a : ActIx) (s : State) : State :=
  match (s.port[a]).driver with
  | none => s
  | some e =>
    let v := s.srv[e]
    if sendsCommands v ∧ srvPzEn v ∧ actAbsent s a = false then
      let err := clampInt (-(2 ^ 23 - 1)) (2 ^ 23 - 1) (v.ref - halfPredict v)
      let (y, v1) := cascade pzSections err v
      let plim : Int := fld (srvReg v 0x50) 15 0
      setSrv e { v1 with uPz := clampInt (-plim) plim (y + v1.pzFf) } s
    else s

/-- HALF_SAMPLE_PIEZO (R123). -/
def execHalfSamplePiezo (a : ActIx) (s : State) : Host.Outcome State Fault Refusal := act s (halfSample a)

/-! ### Commands and events -/

/-- SAM_MISS_RUN (R119). -/
def execSamMissRun (e : EngIx) (s : State) : Host.Outcome State Fault Refusal := act s (samMissRun e)

/-- SERVO_IMPLAUSIBLE (R133). -/
def execServoImplausible (e : EngIx) (s : State) : Host.Outcome State Fault Refusal := act s (implausible e)

/-- HOLD_TIMEOUT (R133). -/
def execHoldTimeout (e : EngIx) (s : State) : Host.Outcome State Fault Refusal := actWindow s (holdTimeout e)

/-- ON_TRACK (R137). -/
def execOnTrack (e : EngIx) (s : State) : Host.Outcome State Fault Refusal := act s (onTrackNow e)

/-- The load command (R138, R140): refused too where the table's CRC fails (R136). -/
def srvLoad (e : EngIx) (s : State) : State :=
  let v := s.srv[e]
  let h := fld (srvSet v 0x0C) 26 24
  let addr := (srvSet v 0x5C).toNat
  if s.sys.unloadLow ∨ v.state ≠ .parked ∨ ¬ headFitted v h ∨ ¬ tableCrcOk s addr 4 then srvCfgErr e s
  else setSrv e { v with state := .loading, head := h, reader := fld (srvSet v 0x24) (2 * h + 1) (2 * h), play := some (tableAt s addr),
                         searching := true, wedge := none, validRun := 0, missRun := 0, lastCur := 0, onTrack := false, settled := false,
                         aim := none, parkWait := false, idleAt := none } s

/-- The seek or head-switch command (R136, R138): refused in HOLD, for a head not fitted, and where no profile fits. -/
def srvSeek (e : EngIx) (s : State) : State :=
  let v := s.srv[e]
  let t := srvSet v 0x0C
  let h := fld t 26 24
  let track := fld t 23 0
  if ¬ headFitted v h then srvCfgErr e s
  else match v.state with
    | .follow | .settle =>
      if h = v.head then startSeek e track s
      else if (profileFor s (srvSet v 0x58) (trackPosSet v track - v.pos)).isSome then setSrv e { v with switchTo := some (h, track) } s
      else srvCfgErr e s
    | _ => srvCfgErr e s

/-- The hold command (R143): hold_pend on an IDLE engine. -/
def srvHold (e : EngIx) (s : State) : State :=
  let v := s.srv[e]
  if v.state = .idle then setSrv e { v with holdPend := true } s else srvCfgErr e s

/-- The release-hold command (R143). -/
def srvRelease (e : EngIx) (s : State) : State := setSrv e { s.srv[e] with holdPend := false } s

/-- The controlled-unload command (R140): an engine that has its heads off the ramp. -/
def srvUnload (e : EngIx) (s : State) : State :=
  match (s.srv[e]).state with
  | .loading | .capture | .seek | .settle | .follow | .hold => controlledUnload e s
  | _ => srvCfgErr e s

/-- A swap request (R130). -/
def srvSwap (e : EngIx) (s : State) : State :=
  let v := s.srv[e]
  if v.swapPend then srvCfgErr e s else setSrv e { v with swapPend := true, swapWait := 0 } s

/-- The lock (R141, R144): the RWL registers are locked, and the port the engine drives copies its first 64 unload entries. -/
def srvLock (e : EngIx) (s : State) : State :=
  let v := s.srv[e]
  match drives s e with
  | some a =>
    let addr := (srvSet v 0x60).toNat
    let n := min 64 (readLE s (addr + 4) 2)
    setPort a { s.port[a] with unload := (List.range n).map fun i => tableEntry s addr i } s
  | none => s

/-- A write to SRV_CTL (R130, R143, R144): the enables first, then lock, swap and the command. -/
def srvCtlWrite (e : EngIx) (w : Word) (s : State) : State :=
  let v := s.srv[e]
  let newLock := bitOf w 8 && !srvLocked v
  let s := setSrv e { v with regs := regWrite srvRows v.regs false 0 w } s
  let s := if newLock then srvLock e s else s
  let s := if bitOf w 4 then srvSwap e s else s
  match fld w 3 0 with
  | 0 => s
  | 1 => srvLoad e s
  | 2 => srvSeek e s
  | 3 => srvHold e s
  | 4 => srvRelease e s
  | 5 => srvUnload e s
  | _ => srvCfgErr e s

/-- SRV_LOAD (R140). -/
def execSrvLoad (e : EngIx) (w : Word) (s : State) : Host.Outcome State Fault Refusal :=
  actWindow s (srvCtlWrite e (setFld w 3 0 1))

/-- SRV_SEEK (R136). -/
def execSrvSeek (e : EngIx) (w : Word) (s : State) : Host.Outcome State Fault Refusal := actWindow s (srvCtlWrite e (setFld w 3 0 2))

/-- SRV_HOLD_CMD (R143). -/
def execSrvHoldCmd (e : EngIx) (w : Word) (s : State) : Host.Outcome State Fault Refusal :=
  actWindow s (srvCtlWrite e (setFld w 3 0 3))

/-- SRV_RELEASE_HOLD (R143). -/
def execSrvReleaseHold (e : EngIx) (w : Word) (s : State) : Host.Outcome State Fault Refusal :=
  actWindow s (srvCtlWrite e (setFld w 3 0 4))

/-- SRV_UNLOAD (R140). -/
def execSrvUnload (e : EngIx) (w : Word) (s : State) : Host.Outcome State Fault Refusal :=
  actWindow s (srvCtlWrite e (setFld w 3 0 5))

/-- SRV_SWAP_REQUEST (R130). -/
def execSrvSwapRequest (e : EngIx) (w : Word) (s : State) : Host.Outcome State Fault Refusal :=
  actWindow s (srvCtlWrite e (setFld (setFld w 3 0 0) 4 4 1))

/-- SRV_LOCK (R144). -/
def execSrvLock (e : EngIx) (w : Word) (s : State) : Host.Outcome State Fault Refusal :=
  actWindow s (srvCtlWrite e (setFld (setFld w 4 0 0) 8 8 1))

/-- A write to a word of a coefficient bank (R129): ignored with cfg_err for the active bank, and for the inactive one while a swap
is pending. -/
def srvBankWrite (e : EngIx) (off : Nat) (w : Word) (s : State) : State :=
  let v := s.srv[e]
  let inB := decide (0x1800 ≤ off)
  if inB = v.bankB ∨ v.swapPend then srvCfgErr e s
  else setSrv e { v with regs := regWrite srvRows v.regs false off w } s

/-- SRV_BANK_WRITE (R129): word k of section i of bank A or B. -/
def execSrvBankWrite (e : EngIx) (bankB : Bool) (i : Fin 24) (k : Fin 8) (w : Word) (s : State) :
    Host.Outcome State Fault Refusal :=
  act s (srvBankWrite e ((if bankB then 0x1800 else 0x1000) + 32 * i.val + 4 * k.val) w)

/-- The six members of an actuator become lane-less, or are served again (R37): the Surface State log reports it. -/
def lanelessNotice (before : Fin 4 → Bool) (s : State) : State :=
  (List.finRange 4).foldl (fun t a => if before a = laneless t a.val then t else noteChange t) s

/-- Firmware marks a failed engine's field, which leaves its actuator without an engine (R37, R142, R428). -/
def engineGone (e : EngIx) (s : State) : State :=
  let was (a : Fin 4) : Bool := laneless s a.val
  lanelessNotice was { s with flt := { s.flt with
    srvMap := setFld s.flt.srvMap (3 * e.val + 2) (3 * e.val) 5
    failRec := { s.flt.failRec with engines := setBit s.flt.failRec.engines e.val } } }

/-- S4 can take an actuator over: its field marks it as the unbound spare (R31, R37). -/
def spareFree (s : State) : Bool := decide (srvBind s.flt 4 = 4)

/-- A write of SRV_PORTHOLD (R141): max takes the written value, and retract makes the port that is held for the engine retract at once.
Where S4 is in use, the actuator is handled as one left without an engine (R37, R142). -/
def srvPortholdWrite (e : EngIx) (w : Word) (s : State) : State :=
  let v := s.srv[e]
  let s := setSrv e { v with regs := regSet srvRows v.regs 0x88 (w &&& 0xFFF#32) } s
  if bitOf w 16 then
    match (List.finRange 4).find? fun a => decide (s.port[a].heldFor = some e) with
    | some a =>
      let p := s.port[a]
      let s := if p.retract.isNone then setPort a { p with retract := some 0 } s else s
      if spareFree s then s else engineGone e s
    | none => s
  else s

/-- PORT_HOLD_RETRACT (R141). -/
def execPortHoldRetract (e : EngIx) (w : Word) (s : State) : Host.Outcome State Fault Refusal :=
  act s (srvPortholdWrite e (w ||| 0x10000#32))

/-- A write to a register of engine e (R19, R129, R141, R144). -/
def srvWrite (e : EngIx) (off : Nat) (w : Word) (s : State) : State :=
  if off = 0 then srvCtlWrite e w s
  else if off = 0x88 then srvPortholdWrite e w s
  else if 0x1000 ≤ off ∧ off < 0x2000 then (if (rowAt srvRows off).isSome then srvBankWrite e off w s else s)
  else
    let v := s.srv[e]
    setSrv e { v with regs := regWrite srvRows v.regs (srvLocked v) off w } s

/-- The third consecutive wedge with a valid SAM and track ID during LOADING (R140): CAPTURE with r = p. -/
def loadCapture (e : EngIx) (x : WedgeRead) (s : State) : State := if (s.srv[e]).state = .loading then captureAt e x s else s

/-- LOAD_CAPTURE (R140). -/
def execLoadCapture (e : EngIx) (x : WedgeRead) (s : State) : Host.Outcome State Fault Refusal := actWindow s (loadCapture e x)

/-- No SAM within ld_tmo (R140): load_fail, and the controlled unload (R277). -/
def loadTimeout (e : EngIx) (s : State) : State :=
  if (s.srv[e]).state = .loading then
    controlledUnload e (srvEvent e 10 (availChange e (fun v => { v with loadFails := s.sys.ms :: v.loadFails, reloading := true }) s))
  else s

/-- LOAD_TIMEOUT (R140). -/
def execLoadTimeout (e : EngIx) (s : State) : Host.Outcome State Fault Refusal := act s (loadTimeout e)

/-- retract ms after UNLOAD_N fell, an engine bound to an actuator is PARKED (R140; log entry 12). -/
def retractDone (e : EngIx) (s : State) : State :=
  let v := s.srv[e]
  if s.sys.unloadLow ∧ (v.state = .unloading ∨ (v.state = .idle ∧ srvBind s.flt e.val < 4)) then
    setSrv e { v with state := .parked, play := none, parkWait := false, idleAt := none, holdPend := false } s
  else s

/-- RETRACT_DONE (R140). -/
def execRetractDone (e : EngIx) (s : State) : Host.Outcome State Fault Refusal := act s (retractDone e)

/-- A fall of UNLOAD_N (R25, R140, R143): the pin is low, and every engine in states 2 to 7 unloads in that sample. -/
def unloadFall (s : State) : State :=
  let one (v : Srv) : Srv := match v.state with
    | .loading | .capture | .seek | .settle | .follow | .hold => enterUnloading none v
    | .unloading => { v with play := none, parkWait := false, idleAt := none }
    | _ => v
  { s with sys := { s.sys with unloadLow := true }, srv := s.srv.map one }

/-- UNLOAD_N_FALL (R143). -/
def execUnloadNFall (s : State) : Host.Outcome State Fault Refusal := actWindow s unloadFall

/-- The check after a controlled unload, once the engine sends idle frames (R140): PARKED when no SAM was seen for park_cnt wedges, else
park_fail, and firmware drives UNLOAD_N low. -/
def parkCheck (e : EngIx) (samFound : Bool) (s : State) : State :=
  let v := s.srv[e]
  if v.state = .unloading ∧ v.parkWait then
    (if samFound then unloadFall (srvEvent e 11 s)
     else setSrv e { v with state := .parked, play := none, parkWait := false, idleAt := none, lastCur := 0 } s)
  else s

/-- PARK_CHECK (R140). -/
def execParkCheck (e : EngIx) (samFound : Bool) (s : State) : Host.Outcome State Fault Refusal := act s (parkCheck e samFound)

/-- Three consecutive invalid return frames, or a fault status (R139): dl_fault and the link cause. -/
def dlFault (e : EngIx) (s : State) : State :=
  let v := s.srv[e]
  let s := srvEvent e 12 (setSrv e { v with inh := setBit v.inh 5, dlValid := 0 } s)
  match drives s e with
  | some a => actInhibit a s
  | none => s

/-- DL_FAULT (R139). -/
def execDlFault (e : EngIx) (s : State) : Host.Outcome State Fault Refusal := actWindow s (dlFault e)

/-- A DI frame on the port of actuator a (R139): checked for CRC and sequence; a valid one gives the measured current. -/
def dlReceive (a : ActIx) (frame : BitVec 32) (s : State) : State :=
  let p := s.port[a]
  match p.driver with
  | none => s
  | some e =>
    let v := s.srv[e]
    let body := frame.toNat / 256
    let dropped := decide (0 < p.drop)
    let ok := !dropped && decide (frame.toNat % 256 = crc8 24 body 0) && decide (body % 16 = p.frame.toNat / 256 % 16)
    let s := setPort a { p with drop := p.drop - 1 } s
    if ok then
      let cur := signed 18 (body / 16)
      let st := body / 2 ^ 22
      let run := v.dlValid + 1
      let s := setSrv e { v with
        dlCur := cur, dlStatus := st, dlInvalid := 0, dlValid := run, curHist := cur :: v.curHist.drop 1
        inh := if 16 ≤ run then clearBit v.inh 5 else v.inh } s
      if st = 3 then dlFault e s else s
    else
      let s := setSrv e { v with dlInvalid := min 15 (v.dlInvalid + 1), dlValid := 0 } s
      if v.dlInvalid + 1 = 3 then dlFault e s else s

/-- DL_FRAME_RECEIVE (R139). -/
def execDlFrameReceive (a : ActIx) (frame : BitVec 32) (s : State) : Host.Outcome State Fault Refusal :=
  act s (dlReceive a frame)

/-- Port hold not taken over within SRV_PORTHOLD.max samples (R141, R142): the stored entries are played open-loop, and firmware
marks the engine's field failed, which leaves the actuator without an engine (R37). -/
def portHoldExpiry (a : ActIx) (s : State) : State :=
  let p := s.port[a]
  match p.heldFor with
  | some e => engineGone e (setPort a { p with retract := p.retract.orElse fun _ => some 0 } s)
  | none => s

/-- PORT_HOLD_EXPIRY (R141). -/
def execPortHoldExpiry (a : ActIx) (s : State) : Host.Outcome State Fault Refusal := act s (portHoldExpiry a)

end Sys2Proof.Machine
end

