-- ==== Sys2Proof/Machine/Spindle.lean ====
section
/-!
DEFINITION. The meanings of the spindle commands (chapter "Spindle Drive", R63 to R89, R509).
-/
namespace Sys2Proof.Machine
open Sys2Proof

/-! ### Shared operations -/

/-- Bit b of SPN_EVENT is set and its source raised (R88, R414). -/
def spnEvent (b : Nat) (s : State) : State :=
  raise (srcSpn b)
    { s with spn := { s.spn with regs := regSet spnRows s.spn.regs 8 (regGet spnRows s.spn.regs 8 ||| bitAt true b) } }

/-- SPN_EVENT.cfg_err. -/
def spnCfgErr (s : State) : State := spnEvent 12 s

def spnUnloadPct (p : Spn) : Nat := fld (spnCur p 0x30) 7 0
def spnFlysafePct (p : Spn) : Nat := fld (spnCur p 0x30) 15 8
def spnWrwin (p : Spn) : Nat := fld (spnCur p 0x30) 23 16
def spnPlfloorPct (p : Spn) : Nat := fld (spnCur p 0x30) 31 24
def spnCatch (p : Spn) : Nat := fld (spnCur p 0x34) 9 0
def spnReverse (p : Spn) : Nat := fld (spnCur p 0x34) 19 10

/-- The distance of the speed from nominal is within a number of 0.1 % (R75, R88). -/
def speedWithin (p : Spn) (permille : Nat) : Bool :=
  let n := spnNominalQ p
  decide (1000 * p.speedQ ≤ (1000 + permille) * n ∧ (1000 - permille) * n ≤ 1000 * p.speedQ)

/-- The permit is earned, and the delay of R60 (b) ends with it. -/
def earnPermit (s : State) : State :=
  { s with sys := { s.sys with permitEarned := true, permitDelayOn := false } }

/-- R60 (c): the permit is earned while SPIN_PERMIT_IN is high and the drive does not intend to spin up: in the safe state,
with spinauto at 0 and no host request, or after a spindle fault. -/
def earnIfIdle (s : State) : State :=
  if s.sys.permitIn ∧ (s.sys.phase = .safe ∨ (s.sys.phase = .standby ∧ bitOf s.sys.strap 6 = false ∧ s.sys.spinRequested = false)
      ∨ s.spn.state = .fault)
  then earnPermit s else s

/-- SPN_STATUS.locked: the speed is within 0.1 % of nominal (R88). -/
def spnAtSpeed (p : Spn) : Bool := speedWithin p 1

/-- A spindle fault (R73, R74): FAULT with its cause, 4 where it ends a full restart of R78 (b), and R60 (c). -/
def spindleFault (cause : Nat) (s : State) : State :=
  let p := bridgeOff s.spn
  earnIfIdle (spnEvent 11 { s with spn := { p with
    state := .fault, faultCause := if p.inRestart then 4 else cause, inRestart := false, wrOk := false,
    startPend := false, startNext := false, pause := false, coastWait := false, coasting := false } })

/-- Sensing opens, with the bridge off (R72). -/
def enterSensing (s : State) : State :=
  { s with spn := { bridgeOff s.spn with
    state := .sensing, startPend := false, startNext := false, pause := false, coastWait := false, coasting := false, senseCross := 0,
    lastCross := none, matched := 0, sinceFirst := 0, commEvents := 0, wrOk := false, residRun := 0, doneSent := false } }

/-- The permit lets a spin-up start now (R59, R88). -/
def permitOpen (s : State) : Bool := s.sys.permitIn || bitOf (regGet spnRows s.spn.regs 0) 2

/-- A start begins: sensing with a fresh count of retries, the start limit, and the permit delay running (R60, R66, R72, R74).
With the pair failed, a start from rest is answered with a spindle fault (R84). -/
def beginStart (s : State) : State :=
  if s.spn.pairFailed ∧ s.spn.dir = .still then spindleFault 5 s
  else
    let s := enterSensing s
    { s with
      spn := { s.spn with retries := 0, catchFails := 0, attempt := 1, runLimit := false, inRestart := false, faultCause := 0 }
      sys := { s.sys with permitDelayOn := !s.sys.permitEarned } }

/-- The motor model has every parameter it needs (R88). -/
def motorSet (p : Spn) : Bool :=
  decide (fld (regGet spnRows p.regs 0x14) 15 0 ≠ 0) && decide (fld (regGet spnRows p.regs 0x14) 31 16 ≠ 0) &&
    decide (fld (regGet spnRows p.regs 0x18) 15 0 ≠ 0) && decide (fld (regGet spnRows p.regs 0x1C) 23 0 ≠ 0)

/-- A start command (R72, R86, R87, R88): accepted in STOPPED and FAULT, at once or waiting for the permit, and in SPINDOWN, where it takes
effect at the next decision. A failed pair at rest is answered without the permit (R84). -/
def spnStartCmd (s : State) : State :=
  match s.spn.state with
  | .stopped | .fault =>
    if ¬ motorSet s.spn then spnCfgErr s
    else if (s.spn.pairFailed ∧ s.spn.dir = .still) ∨ permitOpen s then beginStart s
    else { s with spn := { s.spn with startPend := true } }
  | .spindown =>
    if ¬ motorSet s.spn then spnCfgErr s
    else if permitOpen s then { s with spn := { s.spn with startNext := true } }
    else { s with spn := { s.spn with startPend := true } }
  | _ => spnCfgErr s

/-- The accepted stop: SPINDOWN (R86). From a state with the bridge off the braking begins at the next decision. -/
def enterSpindown (s : State) : State :=
  { s with spn := { s.spn with
    state := .spindown, startPend := false, startNext := false, pause := false, coastWait := false, coasting := false, wrOk := false, inRestart := false } }

/-- A stop command (R84, R86, R87). -/
def spnStopCmd (s : State) : State :=
  let p := s.spn
  match p.state with
  | .powerloss => spnCfgErr s
  | .spindown => { s with spn := { p with startPend := false } }
  | .stopped | .fault =>
    if p.startPend then { s with spn := { p with startPend := false } }
    else if s.sys.unloadLow then s else spnCfgErr s
  | .limp =>
    if p.pairFailed then spnCfgErr s
    else if s.sys.unloadLow then { s with spn := { p with stopHeld := true } } else spnCfgErr s
  | _ =>
    if p.pairFailed then spnCfgErr s
    else if s.sys.unloadLow then enterSpindown s else spnCfgErr s

/-- A write to SPN_CTL (R87, R88): permit_ign and lock take the written bits; start and stop act, and both at once are ignored
in whole with cfg_err. -/
def spnCtlWrite (w : Word) (s : State) : State :=
  if bitOf w 0 ∧ bitOf w 1 then spnCfgErr s
  else
    let s := { s with spn := { s.spn with regs := regWrite spnRows s.spn.regs false 0 w } }
    if bitOf w 0 then spnStartCmd s else if bitOf w 1 then spnStopCmd s else s

/-- SPN_CTL.lock (R88). -/
def spnLocked (p : Spn) : Bool := bitOf (regGet spnRows p.regs 0) 8

/-- A write of SPN_THR_A or SPN_THR_B breaks R89. -/
def spnThrBad (p : Spn) (off : Nat) (w : Word) : Bool :=
  let a := if off = 0x30 then w else regGet spnRows p.regs 0x30
  let b := if off = 0x34 then w else regGet spnRows p.regs 0x34
  decide (fld a 7 0 < fld a 31 24) || decide (fld a 7 0 ≤ fld a 15 8) ||
    decide (fld b 9 0 < fld b 19 10) || decide (fld b 29 20 ≤ fld b 9 0)

/-- A write of SPN_MOTOR that would change the nominal speed while the spindle turns (R89). -/
def nominalMoved (p : Spn) (w : Word) : Bool :=
  decide (fld w 12 0 ≠ fld (regGet spnRows p.regs 0x10) 12 0) && !spnLocked p && decide (p.dir ≠ .still ∨ bridgeIdle p = false)

/-- A write to a register of the SPN block (R19, R88, R89): it reads as written, and counts from the next decision boundary. -/
def spnWrite (off : Nat) (w : Word) (s : State) : State :=
  if off = 0 then spnCtlWrite w s
  else if off = 0x10 ∧ nominalMoved s.spn w then spnCfgErr s
  else if (off = 0x30 ∨ off = 0x34) ∧ spnThrBad s.spn off w then spnCfgErr s
  else { s with spn := { s.spn with regs := regWrite spnRows s.spn.regs (spnLocked s.spn) off w } }

/-- POWERLOSS is entered (R85, R87). -/
def powerlossEntry (s : State) : State :=
  match s.spn.state with
  | .powerloss | .fault => { s with spn := { s.spn with startPend := false, startNext := false } }
  | _ =>
    spnEvent 13 { s with spn := { bridgeOff s.spn with
      state := .powerloss, startPend := false, startNext := false, wrOk := false, pause := false, coastWait := false, coasting := false } }

/-- The engine pair is failed (R84): the limp commutator keeps the gates from then on. Where it cannot drive the rotor the bridge
is off, and a start goes on at sensing as R83 has it. -/
def pairFail (s : State) : State :=
  let p := s.spn
  let p := { p with pairFailed := true, reseeding := false, stopHeld := false, missRun := 0, residRun := 0 }
  spnEvent 8 { s with spn :=
    if p.state = .limp then p
    else if !bridgeIdle p && speedAtLeast p (spnBrakemax p) then limpTakes p
    else
      let p := { bridgeOff p with limpGates := true }
      match p.state with
      | .aligning | .accelerating | .catching | .running =>
        { p with state := .sensing, senseCross := 0, lastCross := none, matched := 0, sinceFirst := 0 }
      | _ => p }

/-- The bridge is driven again: in LIMP while the limp commutator holds the gates (R82, R84), else by DTC in the state given. -/
def driven (x : SpnState) (p : Spn) : Spn :=
  if p.limpGates then { limpTakes p with prior := x } else { p with state := x, bridge := .dtc }

/-- The inductive start opens (R72); with the pair failed a start from rest is answered with a spindle fault (R84). -/
def enterAligning (s : State) : State :=
  if s.spn.pairFailed then spindleFault 5 s
  else { s with spn := { s.spn with state := .aligning, bridge := .pulses, coasting := false } }

/-- A lockstep mismatch (R82, R83, R84). -/
def lockstepMismatch (s : State) : State :=
  let s := spnEvent 6 s
  let p := s.spn
  let now := s.sys.ms
  let recent := p.mismatchTimes.filter fun t => decide (now < t + 3600000)
  let soon : Bool := match p.reseedOkAt with
    | some t => decide (now < t + 1000)
    | none => false
  if p.pairFailed then s
  else if p.reseeding ∨ soon ∨ 2 ≤ recent.length then pairFail s
  else spnReseed { s with spn := { p with mismatchTimes := now :: recent } }

/-- Observer loss in the state it arises in (R77, R509). During coast_min SPN_STATUS.state reads SENSING (log entry 134). -/
def observerLoss (s : State) : State :=
  let p := { bridgeOff s.spn with residRun := 0, cleanCross := 0, missRun := 0 }
  match s.spn.state with
  | .running | .limp =>
    spnEvent 2 { s with spn := { p with
      state := .resync, hold := true, wrOk := false, senseCross := 0, lastCross := none, matched := 0, sinceFirst := 0,
      refugeAsked := false } }
  | .accelerating | .catching =>
    let s1 := spnEvent 2 { s with spn := { p with
      state := .sensing, coastWait := true, hold := true, wrOk := false, senseCross := 0, lastCross := none } }
    if fld (spnCur s1.spn 0x3C) 15 12 ≤ s1.spn.retries then spindleFault 1 s1
    else { s1 with spn := { s1.spn with retries := s1.spn.retries + 1, attempt := s1.spn.attempt + 1 } }
  | .spindown => spnEvent 2 { s with spn := { p with coasting := true } }
  | _ => s

/-- The coast after an observer loss has ended: the condition of R439, with SPN_EVENT as it reads then (log entry 131). -/
def coastNote (s : State) : State := stcCond 0x30 0 (regGet spnRows s.spn.regs 8) s

/-- A full restart (R78 (b)): observer and regulator cleared, the bridge off for coast_min. -/
def fullRestart (s : State) : State :=
  coastNote (spnEvent 4 { s with spn := { bridgeOff s.spn with
    state := .restart, residRun := 0, cleanCross := 0, integral := 0, inRestart := true, retries := 0, catchFails := 0, attempt := 1,
    runLimit := false } })

/-! ### One decision period -/

/-- States in which DTC drives the bridge (R63, R86, R87); CATCHING once its check has passed (R72). -/
def dtcState (p : Spn) : Bool :=
  match p.state with
  | .accelerating | .running => true
  | .catching => decide (p.bridge = .dtc)
  | .spindown => !p.coasting && !p.reseeding && aboveBrakemax p p.speedQ
  | _ => false

/-- States in which observer loss by the flux residual is evaluated (R509): from 3 % upwards while accelerating. -/
def residState (p : Spn) : Bool :=
  match p.state with
  | .accelerating => speedAtLeast p 30 && decide (p.bridge = .dtc)
  | .running | .catching | .spindown => decide (p.bridge = .dtc)
  | _ => false

/-- The residual and missing-crossing counts, and the loss they end in (R71, R84, R509): decisions over the threshold that are not
consecutive do not add up, and so do not missing crossings with one that came between them (log entry 134). A count field of 0
acts as 1 (log entry 134). -/
def observerCheck (x : SpnSample) (s : State) : State :=
  let p := s.spn
  let obs := spnCur p 0x38
  if p.state = .limp then
    if x.missing then
      if 3 ≤ p.missRun + 1 then observerLoss s
      else { s with spn := { p with missRun := p.missRun + 1, cleanCross := 0 } }
    else s
  else if residState p ∧ ¬ p.pairFailed then
    let run := if fld obs 11 0 < fluxResidual p then p.residRun + 1 else 0
    if 1 ≤ run ∧ fld obs 15 12 ≤ run then observerLoss s else { s with spn := { p with residRun := run } }
  else { s with spn := { p with residRun := 0 } }

/-- wr_ok (R75), and the hold line's fall when it returns (R78, R509). -/
def refreshOk (p : Spn) : Spn :=
  let live := match p.state with
    | .running | .accelerating | .limp => true
    | _ => false
  let ok := live && speedWithin p (spnWrwin p) && decide (crossPerRev p ≤ p.cleanCross)
  { p with wrOk := ok, hold := p.hold && !ok }

/-- The unload threshold of R76: UNLOAD_N is driven low in the decision in which speed is below it, and the actuators retract (R53, R140). -/
def speedUnload (s : State) : State :=
  let p := s.spn
  let pct := if p.state = .powerloss ∨ s.sys.plActive then spnPlfloorPct p else spnUnloadPct p
  if s.sys.unloadLow = false ∧ ¬ speedAtLeast p (10 * pct) then
    spnEvent 5 (unloadFall { s with sys := { s.sys with
      sharesLost := s.sys.sharesLost || (s.sys.plActive && s.sys.shares.any fun h => !h.done) } })
  else s

/-- Three crossings have been missed, or the catch's two electrical revolutions are over: the catch fails (R72, R73). -/
def catchFailed (s : State) : State :=
  let s := { s with spn := { s.spn with catchFails := s.spn.catchFails + 1 } }
  if 3 ≤ s.spn.catchFails then spindleFault 3 s else enterSensing s

/-- A catch or a resynchronisation is over without success: two electrical revolutions, twelve crossings, have followed the first one.
A resynchronisation listens again from its first crossing (R72, R77). -/
def syncFailed (s : State) : State :=
  match s.spn.state with
  | .catching => catchFailed s
  | .resync => { s with spn := { s.spn with senseCross := 0, lastCross := none, matched := 0, sinceFirst := 0 } }
  | _ => s

/-- One predicted crossing of a catch or a resynchronisation has come or is missing, in its place or not (R70, R72, R77): six in a row
are one electrical revolution. -/
def syncCount (good : Bool) (s : State) : State :=
  let p := { s.spn with sinceFirst := s.spn.sinceFirst + 1, matched := if good then s.spn.matched + 1 else 0 }
  let s := { s with spn := p }
  if 6 ≤ p.matched then
    match p.state with
    | .catching =>
      -- torque is applied: the torque phase lasts to the end of the next decision (log entry 21)
      { s with spn := if p.limpGates then driven .accelerating { p with catchFails := 0 }
                      else { p with catchFails := 0, cleanCross := p.matched, bridge := .dtc } }
    | .resync => coastNote (spnEvent 3 { s with spn := driven .running { p with cleanCross := p.matched } })
    | _ => s
  else if 13 ≤ p.sinceFirst then syncFailed s
  else s

/-- A predicted crossing did not come in a catch or a resynchronisation whose observer is seeded (R72, R77). -/
def missedCrossing (x : SpnSample) (s : State) : State :=
  let p := s.spn
  if x.missing ∧ (p.state = .catching ∨ (p.state = .resync ∧ 3 ≤ p.senseCross)) ∧ p.bridge = .off then syncCount false s else s

/-- The rotor that coasts backward, or after an observer loss in SPINDOWN, has come to brakemax: the low side is shorted (R72, R509). -/
def coastEnds (p : Spn) : Spn :=
  if p.coasting ∧ ¬ aboveBrakemax p p.speedQ then { p with coasting := false } else p

/-- The low-side short of a brake or of a spin-down at or below brakemax (R72, R86); a re-seed keeps the bridge off until the next probe
(R83). -/
def shortBridge (p : Spn) : Spn :=
  if p.coasting ∨ p.reseeding then p else { bridgeOff p with bridge := .short }

/-- The speed-driven changes of state at the end of a decision: R66, R72, R78, R86, R87, R88 and R60 (a). The hold line falls
with wr_ok alone (R78). -/
def speedSteps (s : State) : State :=
  let s := if speedAtLeast s.spn 900 ∧ s.spn.dir = .forward then earnPermit s else s
  match s.spn.state with
  | .accelerating =>
    if speedAtLeast s.spn 1000 then
      { s with spn := { s.spn with state := .running, runLimit := true, inRestart := false, attempt := 0 } }
    else s
  | .catching => if s.spn.bridge = .dtc then { s with spn := { s.spn with state := .accelerating } } else s
  | .running =>
    if spnAtSpeed s.spn ∧ s.spn.doneSent = false then spnEvent 0 { s with spn := { s.spn with doneSent := true } } else s
  | .resync => if ¬ speedAtLeast s.spn (10 * spnFlysafePct s.spn) then fullRestart s else s
  | .spindown =>
    if s.spn.startNext then beginStart s
    else
      let p := coastEnds s.spn
      if p.dir = .still then
        { s with spn := { bridgeOff p with state := .stopped, wrOk := false, coasting := false } }
      else if aboveBrakemax p p.speedQ then { s with spn := p }
      else { s with spn := shortBridge p }
  | .braking =>
    if s.spn.coasting then
      let p := coastEnds s.spn
      { s with spn := if p.coasting then p else shortBridge p }
    else s
  | _ => s

/-- SPN_DECISION: one decision period of both engines (R63 to R72, R75, R76, R81, R85, R86, R89, R509). The writes since the last
decision come into force first, then the period that ends is evaluated, then the next one is chosen. -/
def spnDecision (x : SpnSample) (s : State) : State :=
  let s := if s.sys.plActive then powerlossEntry s else s
  let p := { s.spn with cur := s.spn.regs }
  let s := { s with spn := advanceModels x (takeSamples x { p with speedQ := x.speedQ, dir := x.dir, speedValid := true }) }
  let s := if x.mismatch then lockstepMismatch s else s
  let s := missedCrossing x (observerCheck x s)
  let s := { s with spn := refreshOk s.spn }
  let s := speedUnload s
  let s := speedSteps s
  { s with spn := refreshOk (if dtcState s.spn then driveBridge x s.spn else s.spn) }

/-! ### Starting, catching and resynchronising -/

/-- What R72 decides at the third crossing; a catch seeds the observer with the speed and the angle of the crossings. A rotor that
coasts backward to brakemax reads BRAKING (log entry 134). -/
def senseDecide (k : Fin 6) (s : State) : State :=
  let p := s.spn
  let pm (t : Nat) : Bool := decide (t * spnNominalQ p ≤ 1000 * p.speedQ)
  match p.dir with
  | .still => enterAligning s
  | .forward =>
    if pm (spnCatch p) then
      { s with spn := { seedObserver (crossingAngle k) p with
        state := .catching, matched := 0, sinceFirst := 3
        runLimit := p.inRestart && pm (10 * spnUnloadPct p) } }
    else enterAligning s
  | .backward =>
    if pm (spnReverse p) then
      spnEvent 10 { s with spn := shortBridge { p with state := .braking, coasting := aboveBrakemax p p.speedQ } }
    else enterAligning s

/-- The order of a crossing after the one before it: the next of the six forward, the one before backward (R72). -/
def crossDir (last : Option (Fin 6)) (k : Fin 6) : Rotation :=
  match last with
  | some j => if k = j + 1 then .forward else if j = k + 1 then .backward else .still
  | none => .still

/-- Speed in 1/4 rpm from the time between two crossings, a sixth of an electrical revolution (R72). -/
def crossSpeed (p : Spn) (us : Nat) : Nat := 40000000 / (us * spnPoles p)

/-- A crossing timed (R70, R72): direction from the phase order and speed from the interval, once there is one before it; a crossing out
of order starts the count of the sensing window again with itself as the first (log entry 134). -/
def timeCrossing (x : Crossing) (p : Spn) : Spn :=
  match p.lastCross with
  | none => { p with lastCross := some x.at6, senseCross := 1, dutySum := 0, dutyCount := 0 }
  | some _ =>
    let d := crossDir p.lastCross x.at6
    { p with
      lastCross := some x.at6
      dir := if d = .still then p.dir else d
      speedQ := if d = .still then p.speedQ else crossSpeed p x.us
      speedValid := p.speedValid || decide (d ≠ .still)
      senseCross := if d = .still then 1 else if 2 ≤ p.senseCross ∧ d ≠ p.dir then 2 else p.senseCross + 1
      dutySum := 0
      dutyCount := 0 }

/-- The start estimator at a crossing (R72): it takes the crossing's angle, and a crossing of the phase it expects, within 30 degrees,
is a commutation event. -/
def reanchor (k : Fin 6) (p : Spn) : Spn :=
  { p with
    theta := crossingAngle k
    commEvents := if gapOver p.theta (crossingAngle k) 30 then p.commEvents else p.commEvents + 1 }

/-- BEMF_ZERO_CROSSING (R70 to R73, R77, R78, R82, R509). -/
def bemfCrossing (x : Crossing) (s : State) : State :=
  let off := fld (spnCur s.spn 0x38) 23 16
  let bad := gapOver s.spn.theta (crossingAngle x.at6) off
  let s := { s with spn := timeCrossing x s.spn }
  let p := s.spn
  match p.state with
  | .sensing => if p.pause ∨ p.coastWait ∨ p.reseeding then s else if 3 ≤ p.senseCross then senseDecide x.at6 s else s
  | .catching =>
    if p.bridge = .dtc then (if bad then observerLoss s else { s with spn := { p with cleanCross := p.cleanCross + 1 } })
    else syncCount (!bad) s
  | .resync =>
    if p.reseeding ∨ p.senseCross < 3 then s
    else if p.senseCross = 3 then { s with spn := { seedObserver (crossingAngle x.at6) p with matched := 0, sinceFirst := 3 } }
    else syncCount (!bad) s
  | .accelerating =>
    if speedAtLeast p 30 then
      (if bad then observerLoss s else { s with spn := { p with cleanCross := p.cleanCross + 1 } })
    else { s with spn := reanchor x.at6 p }
  | .running =>
    if bad then observerLoss s else { s with spn := { p with cleanCross := p.cleanCross + 1 } }
  | .spindown => if dtcState p ∧ bad then observerLoss s else s
  | .limp =>
    let turn := p.limpCross + 1
    let duty := if turn < 6 then p.limpDuty
      else if p.speedQ < spnNominalQ p then min 256 (p.limpDuty + 1)
      else if spnNominalQ p < p.speedQ then p.limpDuty - 1 else p.limpDuty
    { s with spn := { p with
      theta := crossingAngle x.at6, missRun := 0, cleanCross := p.cleanCross + 1, limpSector := p.limpSector + 1
      limpCross := if turn < 6 then turn else 0, limpDuty := duty } }
  | _ => s

/-- A locked rotor or a lost observer uses one of the retries of R73; without one left, a spindle fault. -/
def lockedRotor (s : State) : State :=
  match s.spn.state with
  | .aligning | .accelerating =>
    let s := spnEvent 9 { s with spn := { bridgeOff s.spn with wrOk := false } }
    if fld (spnCur s.spn 0x3C) 15 12 ≤ s.spn.retries then spindleFault 1 s
    else { s with spn := { s.spn with
      state := .sensing, pause := true, senseCross := 0, lastCross := none, retries := s.spn.retries + 1, attempt := s.spn.attempt + 1 } }
  | _ => s

/-- SPN_LOCKSTEP (R88): re-seeds of the last hour, and since the full-device reset. -/
def lockstepWord (s : State) : Word :=
  fldAt (s.spn.reseedTimes.filter fun t => decide (s.sys.ms < t + 3600000)).length 7 0 ||| fldAt s.spn.reseedTotal 15 8

/-- The engines take the gates back after a re-seed, seeded with the limp commutator's angle (R82); a start resumes at sensing (R83), and a
stop held in LIMP acts (R87). A mismatch in the two electrical revolutions of lockstep is one that arrives while the re-seed is in
progress (R84). The observer has run for those two revolutions, twelve crossings (R75). -/
def reseedDone (agree : Bool) (s : State) : State :=
  if s.spn.reseeding = false ∨ s.spn.pairFailed then s
  else if agree = false then lockstepMismatch s
  else
    let p := s.spn
    let held := p.stopHeld
    let q := { p with reseeding := false, reseedOkAt := some s.sys.ms, limpGates := false, stopHeld := false }
    let q := if q.state = .limp then
        { seedObserver q.theta (bridgeOff q) with state := q.prior, bridge := .dtc, cleanCross := min q.cleanCross 12, limpCross := 0 }
      else q
    let s := spnEvent 7 { s with spn := q }
    let s := stcCond 0x31 0 (lockstepWord s) s
    let s := if s.spn.state = .sensing ∧ s.spn.pause = false ∧ s.spn.coastWait = false then enterSensing s else s
    if held then spnStopCmd s else s

/-! ### Meanings -/

/-- A spindle command acts, and the lanes' write-gate guards follow the hold line and wr_ok (R189). -/
def guarded (s : State) (f : State → State) : Host.Outcome State Fault Refusal := act s fun s => guardAll (f s)

/-- SPN_DECISION (R63). -/
def execSpnDecision (x : SpnSample) (s : State) : Host.Outcome State Fault Refusal := guarded s (spnDecision x)

/-- SPN_START (R87, R88): a write of SPN_CTL with start at 1. -/
def execSpnStart (w : Word) (s : State) : Host.Outcome State Fault Refusal := guarded s (spnCtlWrite (w ||| 1#32))

/-- SPN_STOP (R86, R87): a write of SPN_CTL with stop at 1. -/
def execSpnStop (w : Word) (s : State) : Host.Outcome State Fault Refusal := guarded s (spnCtlWrite (w ||| 2#32))

/-- SPN_LOCK (R88): a write of SPN_CTL with lock at 1. -/
def execSpnLock (w : Word) (s : State) : Host.Outcome State Fault Refusal := guarded s (spnCtlWrite (w ||| 0x100#32))

/-- BEMF_ZERO_CROSSING (R72). -/
def execBemfZeroCrossing (x : Crossing) (s : State) : Host.Outcome State Fault Refusal := guarded s (bemfCrossing x)

/-- The sensing window ends with fewer than three crossings: a rotor that is still starts inductively (R72). -/
def sensingEnd (s : State) : State :=
  if s.spn.state = .sensing ∧ s.spn.pause = false ∧ s.spn.coastWait = false ∧ s.spn.reseeding = false then
    enterAligning { s with spn := { s.spn with dir := .still, speedQ := 0 } }
  else s

/-- SENSING_WINDOW_END (R72). -/
def execSensingWindowEnd (s : State) : Host.Outcome State Fault Refusal := guarded s sensingEnd

/-- The inductive pulses gave the rotor angle, and DTC accelerates from it (R72). -/
def inductiveDone (angle : Fin 12) (s : State) : State :=
  if s.spn.state = .aligning then
    { s with spn := { seedObserver (1600000 * angle.val) s.spn with
      state := .accelerating, bridge := .dtc, angle := angle, cleanCross := 0, residRun := 0, commEvents := 0 } }
  else s

/-- INDUCTIVE_DETECT_DONE (R72). -/
def execInductiveDetectDone (angle : Fin 12) (s : State) : Host.Outcome State Fault Refusal := guarded s (inductiveDone angle)

/-- A probe of the 20 ms cycle while the low-side switches are shorted: speed is reported; below reverse a brake goes on to the
inductive start (R72), and a spin-down whose rotor is still stops (R86). -/
def brakeProbe (speedQ : Nat) (dir : Rotation) (s : State) : State :=
  let p := { s.spn with speedQ := speedQ, dir := dir, speedValid := true }
  match p.state with
  | .braking =>
    if p.coasting then
      let q := coastEnds p
      { s with spn := if q.coasting then q else shortBridge q }
    else if 1000 * speedQ < spnReverse p * spnNominalQ p then enterAligning { s with spn := p }
    else { s with spn := shortBridge p }
  | .spindown =>
    if dir = .still then
      { s with spn := { bridgeOff p with state := .stopped, wrOk := false, coasting := false } }
    else { s with spn := p }
  | _ => s

/-- BRAKE_PROBE (R72). -/
def execBrakeProbe (speedQ : Nat) (dir : Rotation) (s : State) : Host.Outcome State Fault Refusal :=
  guarded s (brakeProbe speedQ dir)

/-- Braking has lasted SPN_BRAKE.tmo: a spindle fault (R72). -/
def brakeTimeout (s : State) : State := if s.spn.state = .braking then spindleFault 2 s else s

/-- BRAKE_TIMEOUT (R72). -/
def execBrakeTimeout (s : State) : Host.Outcome State Fault Refusal := guarded s brakeTimeout

/-- LOCKED_ROTOR (R73). -/
def execLockedRotor (s : State) : Host.Outcome State Fault Refusal := guarded s lockedRotor

/-- The 200 ms after a locked rotor end and sensing opens (R73). -/
def pauseEnd (s : State) : State := if s.spn.state = .sensing ∧ s.spn.pause then enterSensing s else s

/-- LOCKED_ROTOR_PAUSE_END (R73). -/
def execLockedRotorPauseEnd (s : State) : Host.Outcome State Fault Refusal := guarded s pauseEnd

/-- resync_tmo has passed without resynchronising (R78 (b)). -/
def resyncTimeout (s : State) : State := if s.spn.state = .resync then fullRestart s else s

/-- RESYNC_TIMEOUT (R78). -/
def execResyncTimeout (s : State) : Host.Outcome State Fault Refusal := guarded s resyncTimeout

/-- coast_min has passed: sensing, with no permit wait (R78 (b), R509). -/
def restartCoastEnd (s : State) : State :=
  if s.spn.state = .restart ∨ (s.spn.state = .sensing ∧ s.spn.coastWait) then enterSensing s else s

/-- RESTART_COAST_END (R78). -/
def execRestartCoastEnd (s : State) : Host.Outcome State Fault Refusal := guarded s restartCoastEnd

/-- RESEED_DONE (R82). -/
def execReseedDone (agree : Bool) (s : State) : Host.Outcome State Fault Refusal := guarded s (reseedDone agree)

end Sys2Proof.Machine
end

