-- ==== Sys2Proof/Machine/PwrOps.lean ====
section
/-!
DEFINITION. Power domains and power states: what gating and waking do, the lane limit, transitions (R447 to R459, R465, R472, R507).
-/
namespace Sys2Proof.Machine
open Sys2Proof

def pwrReg (p : Pwr) (off : Nat) : Word := regGet pwrRows p.regs off

/-- Bit b of PWR_EVENT; gate_refused and the rail bits drive sources, cfg_err drives none (R465). -/
def pwrEvent (b : Nat) (s : State) : State :=
  let s := { s with pwr := { s.pwr with regs := regSet pwrRows s.pwr.regs 8 (pwrReg s.pwr 8 ||| bitAt true b) } }
  if b = 7 then raise 162 s else if b < 7 then raise (155 + b) s else freshMark 643 s

/-! ### Domains (R447, R472) -/

/-- State of a domain, by number. -/
def domState (s : State) (d : Nat) : DomState := s.pwr.dom.toList.getD d .off

/-- Cells of memory outside a set of addresses are kept. -/
def dropCells (gone : Nat → Bool) (s : State) : State := { s with mem := s.mem.filter fun c => !gone c.1 }

/-- What a domain loses that is unsupplied (R447). -/
def domLose (d : Nat) (s : State) : State :=
  let s := dropCells (fun a => decide (domOfAddr a = some d)) s
  if d = 11 then { s with ddp := .reset }
  else if h : 12 ≤ d ∧ d < 17 then { s with lane := s.lane.set (d - 12) .reset (by omega) }
  else if h : 17 ≤ d ∧ d < 22 then { s with srv := s.srv.set (d - 17) .reset (by omega) }
  else if d = 23 then { s with yck := .reset }
  else if d = 24 then { s with cap := .reset }
  else s

/-- A lane in RETAIN that is woken swaps its Row image and applies its staged match registers (R472). -/
def wakeLane (l : LaneIx) (s : State) : State :=
  if s.pwr.swapOnWake.getLsbD l.val then
    matchApply l (rowSwap l { s with pwr := { s.pwr with swapOnWake := clearBit s.pwr.swapOnWake l.val } })
  else s

/-- A domain's state changes (R447): OFF loses its content. -/
def setDom (d : Nat) (x : DomState) (s : State) : State :=
  if h : d < 25 then
    if s.pwr.dom[d] = x then s
    else
      let s := { s with pwr := { s.pwr with dom := s.pwr.dom.set d x } }
      let s := if x = .off then domLose d s else s
      if h : 12 ≤ d ∧ d < 17 ∧ x = .on then wakeLane ⟨d - 12, by omega⟩ s else s
  else s

/-- A lane bound to an actuator. -/
def laneBound (s : State) (l : Nat) : Bool := decide (laneBind s.flt l < 4)

/-- A lane that failed or whose actuator is absent, and a servo engine likewise (R33, R62, R447). -/
def laneOut (s : State) (l : Nat) : Bool :=
  decide (laneBind s.flt l = 5) || (laneBound s l && decide (headsOnAct s (laneBind s.flt l) = 0))
where
  headsOnAct (s : State) (a : Nat) : Nat := ((List.range 6).filter fun h => !s.arr.absent.getLsbD (6 * a + h)).length
def engOut (s : State) (e : Nat) : Bool :=
  decide (srvBind s.flt e = 5) || (decide (srvBind s.flt e < 4) &&
    ((List.range 6).all fun h => s.arr.absent.getLsbD (6 * srvBind s.flt e + h)))

/-- OFF is allowed only for a failure or an absence in these domains (R447). -/
def offAllowed (s : State) (d : Nat) : Bool :=
  if 2 ≤ d ∧ d ≤ 4 then s.flt.clusterFailed.getLsbD (d - 2)
  else if d = 8 ∨ d = 9 then s.flt.rldFailed.getLsbD (d - 8)
  else if d = 11 ∨ d = 23 ∨ d = 24 then true
  else if 12 ≤ d ∧ d ≤ 16 then laneOut s (d - 12)
  else if 17 ≤ d ∧ d ≤ 21 then engOut s (d - 17)
  else false

/-- A domain that is OFF for a failure or an absence (R453). -/
def offKept (s : State) (d : Nat) : Bool :=
  decide (domState s d = .off) && (decide (d ≠ 11 ∧ d ≠ 23 ∧ d ≠ 24)) && offAllowed s d

/-! ### Halted cores (R507) -/

/-- A core is halted: requested, its cluster gated, failed, or in reset. -/
def coreHalted (s : State) (k : Nat) : Bool :=
  s.pwr.haltReq.getLsbD k || decide (domState s (2 + k / 12) ≠ .on) || decide (roleOf s.flt k = .failed) || s.sys.inReset || s.flt.warm

/-! ### The lane limit (R453, R454, R459) -/

/-- Lanes ON at once in a power state (R452). -/
def psLanes (p : Nat) : Nat := if p = 0 then 5 else if p = 1 then 2 else if p = 2 then 1 else 0

/-- The lane limit in force: of the power state, of the thermal holds, of firmware (R453, R459, R465). -/
def laneLimit (s : State) : Nat :=
  let t := if s.pwr.holdC then 1 else if s.pwr.holdW then 2 else 5
  min (fld (pwrReg s.pwr 0) 2 0) (min (psLanes s.pwr.ps.val) t)

/-- Bound lanes that are ON (R453). -/
def lanesOn (s : State) : Nat := ((List.range 5).filter fun l => laneBound s l && decide (domState s (12 + l) = .on)).length

/-- A lane stands at an operation boundary: no operation, its sequencer not running (R454). -/
def laneIdle (s : State) (l : LaneIx) : Bool := s.lane[l].pat.op.isNone && !rowRuns s.lane[l]

/-- Idle bound lanes are gated, the highest first, until the limit holds (R454, R455). -/
def shedLanes (s : State) : State :=
  [4, 3, 2, 1, 0].foldl (fun (t : State) (l : LaneIx) =>
    if laneLimit t < lanesOn t ∧ laneBound t l.val ∧ domState t (12 + l.val) = .on ∧ laneIdle t l then setDom (12 + l.val) .retain t else t) s

/-- Bound lanes are woken, the lowest first, as far as the limit allows; an unbound L4 is ON and idle (R453, R454). -/
def wakeLanes (s : State) : State :=
  (List.range 5).foldl (fun (t : State) l =>
    if laneOut t l ∨ domState t (12 + l) = .on then t
    else if laneBound t l = false ∨ lanesOn t < laneLimit t then setDom (12 + l) .on t else t) s

/-! ### Power states (R453, R455, R456) -/

/-- The state R453 gives a domain in power state p, where it gives one: lanes in PS1 and PS2, ports, the capture port while the drive
is operational, and in PS4 the spindle and clock domains, follow rules of their own. -/
def psDomain (p d : Nat) : Option DomState :=
  if d = 3 ∨ d = 4 then some (if p = 4 then .retain else .on)
  else if d = 8 ∨ d = 9 then some (if p = 4 then .retain else .on)
  else if d = 10 then some (if 3 ≤ p then .retain else .on)
  else if d = 11 then some (if 3 ≤ p then .off else .on)
  else if 12 ≤ d ∧ d ≤ 16 then (if 3 ≤ p then some .retain else none)
  else if 17 ≤ d ∧ d ≤ 20 then some (if p = 4 then .retain else .on)
  else if d = 21 then some (if 3 ≤ p then .retain else .on)
  else if d = 22 ∨ d = 23 then (if p = 4 then none else some .on)
  else if d = 24 then (if 3 ≤ p then some .off else none)
  else if d = 2 then some .on
  else none

/-- In PS4 YCK goes OFF once speed is below 80 %, and SPN to RETAIN once STOPPED (R453); with the engine pair failed the
spindle goes on turning, and so do they (R458). -/
def ps4Settle (s : State) : State :=
  if s.pwr.ps ≠ 4 then s
  else
    let s := if speedAtLeast s.spn 800 then s else setDom 23 .off s
    if s.spn.state = .stopped then setDom 22 .retain s else s

/-- A power state comes into force (R453): every domain takes the state its table gives; those off for a failure stay off. -/
def enterPs (p : Fin 5) (s : State) : State :=
  let s := { s with pwr := { s.pwr with ps := p, lastOp := if p.val ≤ 2 then p else s.pwr.lastOp } }
  let s := (List.range 25).foldl (fun (t : State) d =>
    match psDomain p.val d with
    | some x => if offKept t d ∨ (d = 21 ∧ x = .retain ∧ srvBind t.flt 4 < 4 ∧ p ≠ 4) then t else setDom d x t
    | none => t) s
  let s := if p.val ≤ 2 then wakeLanes (shedLanes s) else s
  ps4Settle s

/-- A transition begins (R455): done at once, or in progress. -/
def beginPs (p : Fin 5) (s : State) : State × Bool :=
  let cur := s.pwr.ps.val
  if p.val = cur then (s, true)
  else if p.val ≤ 2 ∧ cur ≤ 2 then
    (let t := enterPs p s
     if lanesOn t ≤ laneLimit t then (t, true) else ({ t with pwr := { t.pwr with psTarget := some p } }, false))
  else if cur ≤ 2 then
    (let s := { s with pwr := { s.pwr with psTarget := some p } }
     if s.sys.phase = .ready then
       ({ s with sys := { s.sys with phase := .bindoff (if p = 4 then .ps4 else .ps3) 1 } }, false)
     else (s, false))
  else if p = 4 then
    (enterPs 4 (spnStopCmd { s with sys := { s.sys with phase := .parked .ps4 } }), true)
  else ({ s with sys := { s.sys with spinRequested := true }, pwr := { s.pwr with psTarget := some p } }, false)

/-- The command of a transition is answered; an autonomous transition, or a departed partner's, has none to answer (number 3). -/
def answerPs (w : Nat × Nat × Nat) (s : State) : State := if w.1 = 3 then s else complete w.1 w.2.1 .success 0 0 [] s

/-- Set Features that wait for a transition go on, oldest first, while none is in progress (R455). -/
def nextPs (n : Nat) (s : State) : State :=
  match n with
  | 0 => s
  | n + 1 =>
    if s.pwr.psTarget.isSome then s
    else
      match s.host.pmWait with
      | [] => s
      | w :: t =>
        let (u, done) := beginPs ⟨w.2.2 % 5, Nat.mod_lt _ (by decide)⟩ s
        if done then nextPs n (answerPs w { u with host := { u.host with pmWait := t } })
        else u

/-- The transition in progress is over: its command succeeds, and the next one begins (R314, R455). -/
def endPs (s : State) : State :=
  let s := { s with pwr := { s.pwr with psTarget := none } }
  match s.host.pmWait with
  | w :: t => nextPs t.length (answerPs w { s with host := { s.host with pmWait := t } })
  | [] => s

/-- The target state is in force (R455). -/
def reachPs (p : Fin 5) (s : State) : State := endPs (enterPs p s)

end Sys2Proof.Machine
end

