-- ==== Sys2Proof/Machine/HostIo.lean ====
section
/-!
DEFINITION. The meanings of fetch, the range lock's release, waiting completions, hold limits, Flush and the I/O commands
(R302, R309, R314, R340, R354 to R364, R374, R375).
-/
namespace Sys2Proof.Machine
open Sys2Proof

/-! ### Fetch (R340, R354, R355) -/

/-- Opcodes the Mionar supports (R340). -/
def adminOpcodes : List Nat :=
  [0x00, 0x01, 0x02, 0x04, 0x05, 0x06, 0x08, 0x09, 0x0A, 0x0C, 0x0D, 0x10, 0x11, 0x14, 0x15, 0x1D, 0x1E, 0x80, 0x81, 0x82, 0x84,
   0xC1, 0xC2, 0xC5, 0xC6, 0xC8, 0xCC]
def ioOpcodes : List Nat := [0x00, 0x01, 0x02, 0x05, 0x08, 0x0C, 0x79, 0x7A, 0x7D, 0x86, 0x8A]

/-- The command ring of a controller, while its ring_en is 1 (R486). -/
def cmdRing (s : State) (c : CtlIx) : Option Nat :=
  if bitOf (hifReg s.hif 0) (1 + c.val) then some (fld (hifReg s.hif 0x18) (16 * c.val + 13) (16 * c.val)) else none

/-- HIF takes a command from a submission queue (R354): its number, its range-lock entry, its place on the command ring; an opcode that
is not supported completes with Invalid Command Opcode. -/
def commandFetch (c : CtlIx) (k : RawCmd) (s : State) : State :=
  if fetchOk s c.val (!k.admin) = false then s
  else
    let n := s.hif.fseq
    let s := { s with hif := { s.hif with fseq := n + 1 } }
    let known := if k.admin then adminOpcodes.contains k.opcode.val else ioOpcodes.contains k.opcode.val
    if known = false then complete c.val n .invalidOpcode 0 0 [] s
    else
      let s := { s with hif := { s.hif with fetched := s.hif.fetched ++ [{ fseq := n, ctl := c.val, cmd := k }] } }
      let s := if k.admin = false ∧ k.count ≠ 0 then
          addLock { ns := k.ns, first := k.first, last := k.first + k.count - 1, modify := k.modify, fseq := n } s else s
      match cmdRing s c with
      | some r => hqmPost 82 r k.words s
      | none => s

/-- COMMAND_FETCH (R354). -/
def execCommandFetch (c : CtlIx) (k : RawCmd) (s : State) : Host.Outcome State Fault Refusal := act s (commandFetch c k)

/-- The work of an internal entry goes on: a copy or a switch holds it (R291, R294). -/
def lockBusy (s : State) (n : Nat) : Bool :=
  (s.arr.reshape.bind fun r => r.copying.map Prod.snd) == some n || (s.arr.converting.any fun x => decide (x.2 = n)) ||
    s.arr.commits.any fun c => match c.2 with
      | .switched _ _ l => decide (l = some n)
      | _ => false

/-- Every block in an entry's range is durable (R336). -/
def lockDurable (s : State) (l : Lock) : Bool :=
  s.arr.blocks.all fun b => b.2.durable || match (zoneGet s (b.1 / 65536)).bind fun z => (nsGet s z.ns).map fun v => (z, v) with
    | some (z, v) =>
      let lba := zoneStride v * z.index + b.1 % 65536
      decide (¬ (z.ns = l.ns ∧ l.first ≤ lba ∧ lba ≤ l.last))
    | none => true

/-- An entry that no command holds any longer is released: a departed partner's once its blocks are durable, an internal one when its
work has ended (R336, R355, R356). -/
def lockRelease (n : Nat) (s : State) : State :=
  let held := s.hif.flight.any (fun f => decide (f.fseq = n)) || s.hif.fetched.any (fun f => decide (f.fseq = n)) || lockBusy s n
  let dirty := s.hif.locks.any fun l => decide (l.fseq = n) && l.modify && !lockDurable s l
  if held ∨ dirty then s else kick (unlock n s)

/-- RANGE_LOCK_RELEASE (R355). -/
def execRangeLockRelease (n : Nat) (s : State) : Host.Outcome State Fault Refusal := act s (lockRelease n)

/-- COMPLETION_POST (R363): waiting completions post, in fetch order, while the window has room. -/
def execCompletionPost (s : State) : Host.Outcome State Fault Refusal := act s kick

/-- A Flush whose rows cannot reach media is held (R364), and meets the hold limit of 10 s (R362). -/
def flushOver (s : State) (w : FlushWait) : Bool :=
  (s.spn.hold || decide (currentCount s.spe = 0)) && decide (w.at_ + 10000 ≤ s.sys.ms) && decide (s.sys.phase = .ready)

/-- A command still held at its limit completes with Namespace Not Ready (R362). -/
def holdExpiry (n : Nat) (s : State) : State :=
  match s.hif.flight.find? fun f => decide (f.fseq = n) with
  | some f => if overLimit s f then kick (complete f.ctl n .namespaceNotReady 0 0 [] s) else s
  | none =>
    match s.hif.flushes.find? fun w => decide (w.fseq = n) with
    | some w =>
      if flushOver s w then complete w.ctl n .namespaceNotReady 0 0 [] { s with hif := { s.hif with
        flushes := s.hif.flushes.filter fun x => decide (x.fseq ≠ n) } }
      else s
    | none => s

/-- HOLD_LIMIT_EXPIRY (R362). -/
def execHoldLimitExpiry (n : Nat) (s : State) : Host.Outcome State Fault Refusal := act s (holdExpiry n)

/-! ### I/O commands -/

/-- A transition to PS3 or PS4 in progress is ended by an I/O command (R314, R455): the Set Features that asked for it succeeds. -/
def endTransition (s : State) : State := endPs { s with sys := { s.sys with phase := .ready } }

/-- What an I/O command meets where the drive stands (R302, R304, R309, R314, R456): it may run now, wait for a wake, or is answered. -/
inductive IoStand where
  | run
  | endBindoff
  | wake
  | answer (st : Status)
  | ignore
  deriving DecidableEq, Repr

def ioStand (s : State) : IoStand :=
  match s.sys.phase with
  | .ready => .run
  | .safe => .answer .safeState
  | .spinup | .caston => if s.sys.spinRequested then .wake else .answer .namespaceNotReady
  | .standby | .parked .ps3 | .parked .ps4 | .waking => .wake
  | .parked _ => .wake
  | .bindoff .ps3 n | .bindoff .ps4 n => if n ≤ 4 ∨ headsReady s then .endBindoff else .wake
  | .bindoff _ n => if n ≤ 1 then .run else .ignore
  | .post | .dark | .powerloss => .ignore

/-- An I/O command is fetched, takes its entry, and runs, stalls or is held (R354 to R356). -/
def startIo (c : CtlIx) (opcode : Nat) (io : IoCmd) (s : State) : State :=
  let st := ioStand s
  if st = .ignore ∨ startOk s c.val false opcode io.ns io.slba io.nlb = false then s
  else
    let (n, s) := takeNumber c.val false opcode io.ns io.slba io.nlb s
    let f : InFlight := { fseq := n, ctl := c.val, io := io, phase := .stalled, at_ := s.sys.ms }
    match st with
    | .answer e => complete c.val n e 0 0 [] s
    | st =>
      let s := if st = .endBindoff then endTransition s else s
      let r := ioRange s io
      let l : Lock := { ns := io.ns, first := r.1, last := r.2, modify := ioModifies io.kind, fseq := n }
      let s := addLock l s
      if st = .wake then setFlight { f with phase := .held } { s with sys := { s.sys with spinRequested := true } }
      else if conflicts s l then setFlight f s
      else kick (runIo f s)

/-- WRITE (R40, R244, R259, R346, R363). -/
def execWrite (c : CtlIx) (io : IoCmd) (s : State) : Host.Outcome State Fault Refusal := act s (startIo c 0x01 { io with kind := .write })
/-- READ (R357). -/
def execRead (c : CtlIx) (io : IoCmd) (s : State) : Host.Outcome State Fault Refusal := act s (startIo c 0x02 { io with kind := .read })
/-- COMPARE (R340). -/
def execCompare (c : CtlIx) (io : IoCmd) (s : State) : Host.Outcome State Fault Refusal := act s (startIo c 0x05 { io with kind := .compare })
/-- WRITE_ZEROES (R346). -/
def execWriteZeroes (c : CtlIx) (io : IoCmd) (s : State) : Host.Outcome State Fault Refusal :=
  act s (startIo c 0x08 { io with kind := .writeZeroes })
/-- VERIFY (R340). -/
def execVerify (c : CtlIx) (io : IoCmd) (s : State) : Host.Outcome State Fault Refusal := act s (startIo c 0x0C { io with kind := .verify })
/-- ZONE_APPEND (R358). -/
def execZoneAppend (c : CtlIx) (io : IoCmd) (s : State) : Host.Outcome State Fault Refusal := act s (startIo c 0x7D { io with kind := .append })
/-- ZONE_OPEN (R244, R343). -/
def execZoneOpen (c : CtlIx) (io : IoCmd) (s : State) : Host.Outcome State Fault Refusal := act s (startIo c 0x79 { io with kind := .zoneOpen })
/-- ZONE_CLOSE (R260). -/
def execZoneClose (c : CtlIx) (io : IoCmd) (s : State) : Host.Outcome State Fault Refusal := act s (startIo c 0x79 { io with kind := .zoneClose })
/-- ZONE_FINISH (R260). -/
def execZoneFinish (c : CtlIx) (io : IoCmd) (s : State) : Host.Outcome State Fault Refusal :=
  act s (startIo c 0x79 { io with kind := .zoneFinish })
/-- ZONE_RESET (R365). -/
def execZoneReset (c : CtlIx) (io : IoCmd) (s : State) : Host.Outcome State Fault Refusal := act s (startIo c 0x79 { io with kind := .zoneReset })
/-- FIXITY_DIGEST (R296, R374). -/
def execFixityDigest (c : CtlIx) (io : IoCmd) (s : State) : Host.Outcome State Fault Refusal := act s (startIo c 0x86 { io with kind := .fixity })
/-- SALVAGE_READ (R289, R375). -/
def execSalvageRead (c : CtlIx) (io : IoCmd) (s : State) : Host.Outcome State Fault Refusal := act s (startIo c 0x8A { io with kind := .salvage })

/-- The blocks a Flush covers (R364): of the namespace, or of all, every acknowledged block that is not durable. -/
def flushKeys (s : State) (ns : Nat) : List Nat :=
  (s.arr.blocks.filter fun b => b.2.acked && !b.2.durable &&
    (decide (ns = 0xFFFFFFFF) || decide (((zoneGet s (b.1 / 65536)).map fun z => z.ns).getD 0 = ns))).map Prod.fst

/-- Flush (R364): it completes when every block of its set is durable. -/
def flushCmd (c : CtlIx) (ns : Nat) (s : State) : State :=
  let st := ioStand s
  if st = .ignore ∨ startOk s c.val false 0x00 ns 0 0 = false then s
  else
    let (n, s) := takeNumber c.val false 0x00 ns 0 0 s
    match st with
    | .answer e => complete c.val n e 0 0 [] s
    | st =>
      if ns ≠ 0xFFFFFFFF ∧ ((nsGet s ns).all fun v => !v.attached.getLsbD c.val) then complete c.val n .invalidNamespace 0 0 [] s
      else
        let s := if st = .endBindoff then endTransition s else s
        settleFlushes { s with hif := { s.hif with flushes := s.hif.flushes ++ [{ fseq := n, ctl := c.val, keys := flushKeys s ns, at_ := s.sys.ms }] } }

/-- FLUSH (R364). -/
def execFlush (c : CtlIx) (ns : Nat) (s : State) : Host.Outcome State Fault Refusal := act s (flushCmd c ns)

/-- The codes of zone states (R344; the others as the command set numbers them). -/
def zstateCode : ZState → Nat
  | .empty => 1 | .implicitOpen => 2 | .explicitOpen => 3 | .closed => 4 | .readOnly => 13 | .full => 14 | .offline => 15

/-- A zone's descriptor as Zone Management Receive reports it (R343, R344): type, state, capacity, start and write pointer. -/
def zoneDescriptor (s : State) (i n : Nat) : Nat :=
  match zoneGet s n with
  | some z =>
    let cap := zoneCapacity z.w
    if z.conv then 1 + 14 * 2 ^ 12 + cap * 2 ^ 64 + (65536 * i) * 2 ^ 128 + (65536 * i + cap) * 2 ^ 192
    else 2 + zstateCode z.st * 2 ^ 12 + cap * 2 ^ 64 + (65536 * i) * 2 ^ 128 + (65536 * i + z.wp) * 2 ^ 192
  | none => 0

/-- Zone Management Receive (R343, R344): the descriptors of the zones from one that holds an LBA. -/
def zoneReceive (c : CtlIx) (ns slba : Nat) (s : State) : State :=
  let st := ioStand s
  if st = .ignore ∨ startOk s c.val false 0x7A ns slba 0 = false then s
  else
    let (n, s) := takeNumber c.val false 0x7A ns slba 0 s
    match st with
    | .answer e => complete c.val n e 0 0 [] s
    | _ =>
      match nsGet s ns with
      | none => complete c.val n .invalidNamespace 0 0 [] s
      | some v =>
        if v.attached.getLsbD c.val = false then complete c.val n .invalidNamespace 0 0 [] s
        else if v.zoned = false then complete c.val n .invalidOpcode 0 0 [] s
        else if nsBlocks v ≤ slba then complete c.val n .lbaOutOfRange 0 0 [] s
        else
          let zs := (v.zones.zip (List.range v.zones.length)).drop (slba / 65536)
          complete c.val n .success 0 0 (zs.map fun x => zoneDescriptor s x.2 x.1) s

/-- ZONE_MANAGEMENT_RECEIVE (R344). -/
def execZoneManagementReceive (c : CtlIx) (ns slba : Nat) (s : State) : Host.Outcome State Fault Refusal := act s (zoneReceive c ns slba)

end Sys2Proof.Machine
end

