-- ==== Sys2Proof/Machine/Spe.lean ====
section
/-!
DEFINITION. The meanings of the surface parity engine's commands: rows and read-modify-writes on their way to media, reconstruction,
jobs and registers (R250, R251, R254, R259 to R266, R270, R271, R286, R510).
-/
namespace Sys2Proof.Machine
open Sys2Proof

/-! ### P and Q (R250, R251) -/

/-- P and Q over data bytes, in data-unit order (R250). -/
def parP (ds : List Nat) : Nat := ds.foldl (fun x d => x ^^^ d) 0
def parQ (ds : List Nat) : Nat := (ds.zip (List.range ds.length)).foldl (fun x d => x ^^^ gfMul (gfPow d.2) d.1) 0

/-- One byte column with its missing units rebuilt (R251): units 0 to D - 1 are data, D is P, D + 1 is Q; none where three or more miss. -/
def rebuildColumn (d : Nat) (col : List Nat) (x y : Option Nat) : Option (List Nat) :=
  let ds := col.take d
  let p := col.getD d 0
  let q := col.getD (d + 1) 0
  let zero (i : Nat) (l : List Nat) : List Nat := l.set i 0
  let fin (ds : List Nat) : List Nat := ds ++ [parP ds, parQ ds]
  let one (i : Nat) (useP : Bool) : List Nat :=
    let r := zero i ds
    if useP then ds.set i (p ^^^ parP r) else ds.set i (gfDiv (q ^^^ parQ r) (gfPow i))
  match x, y with
  | none, none => some col
  | some i, none | none, some i => if i < d then some (one i true ++ [p, q]) else some (fin ds)
  | some i, some j =>
    if d ≤ i ∧ d ≤ j then some (fin ds)
    else if i < d ∧ j = d then some (fin (one i false))
    else if j < d ∧ i = d then some (fin (one j false))
    else if i < d ∧ j = d + 1 then some (fin (one i true))
    else if j < d ∧ i = d + 1 then some (fin (one j true))
    else if i = j then some (one i true ++ [p, q])
    else
      let r := zero i (zero j ds)
      let pxy := p ^^^ parP r
      let qxy := q ^^^ parQ r
      let di := gfDiv (gfMul (gfPow j) pxy ^^^ qxy) (gfPow i ^^^ gfPow j)
      some ((ds.set i di).set j (pxy ^^^ di) ++ [p, q])

/-! ### Rows reach media (R41, R259, R260, R286, R510) -/

/-- A row is complete: its last data block has arrived, or the zone is Full (R259, R260). -/
def rowComplete (z : Zone) (r : Nat) : Bool := decide ((r + 1) * 16 * dataUnits z.w ≤ z.wp) || decide (z.st = .full)

/-- The keys of a row's blocks that are not durable. -/
def rowKeys (s : State) (n : Nat) (z : Zone) (r : Nat) : List Nat :=
  (s.arr.blocks.filter fun b => decide (b.1 / 65536 = n ∧ rowOf z.w (b.1 % 65536) = r) && (!b.2.durable || b.2.logged)).map Prod.fst

/-- Blocks become durable (R8), and their copies are released; `logged` ones lie in the protected write log and stay in RLD (R115). -/
def makeDurable (keys : List Nat) (logged : Bool) (s : State) : State :=
  let one (b : Nat × Block) : Nat × Block :=
    if keys.contains b.1 then (b.1, { b.2 with durable := true, logged := logged, prev := none, copies := if logged then b.2.copies else 0 }) else b
  { s with arr := { s.arr with blocks := s.arr.blocks.map one } }

/-- Tracks of a zone have been written: frogged extents there leave the frog maps (R274). -/
def unfrog (n : Nat) (z : Zone) (s : State) : State :=
  let mine (x : Member × Nat) : Bool := z.place.any fun h => decide (h.1 = x.2 ∧ h.2 = x.1.gen)
  let one (x : Member × Nat) : Member := if mine x then { x.1 with frog := x.1.frog.filter fun f => decide (f.zone ≠ n) } else x.1
  { s with arr := { s.arr with member := Vector.ofFn fun i : Fin 24 => one (s.arr.member[i], i.val) } }

/-- A fence whose MEMBER_STATE entry is not durable names a member of the zone (R278). -/
def fencePending (s : State) (z : Zone) : Bool :=
  s.spe.groups.any fun g => g.entries.any fun e =>
    decide (e.typ = 0x30 ∧ e.payload / 2 ^ 32 % 256 = 0x20 ∧ e.payload / 2 ^ 56 % 256 = 2) &&
      z.place.any fun h => decide (h.1 = e.payload / 2 ^ 40 % 256)

/-- Media writes of a row may go out (R38, R41, R113, R261): its entry and its regions' bits durable, timing, the SPE running and no warm reset,
no fenced position without target. -/
def mediaGo (s : State) (n : Nat) (z : Zone) (r seq : Nat) : Bool :=
  seqDurable s.spe seq && decide (timingFor s n z = .go) && speOn s && !s.flt.warm && rowsKept s n z && !s.spn.hold && !s.sys.plActive && !fencePending s z &&
    ((rowKeys s n z r).all fun k => regionSet s.spe (regionOf n (k % 65536))) &&
    (List.range z.w).all fun p => !posGone s z p || (posTarget z p).isSome

/-- The media writes of some units wait while their member is being calibrated (R266). -/
def unitsFree (s : State) (z : Zone) (ps : List Nat) : Bool := ps.all fun p => !posCalibrating s z p

/-- A unit is skipped at some offsets: its record takes them in. -/
def skipAdd (x : Skipped) (xs : List Skipped) : List Skipped :=
  match xs with
  | [] => [x]
  | y :: t => if y.zone = x.zone ∧ y.row = x.row ∧ y.pos = x.pos then { y with offsets := y.offsets ||| x.offsets } :: t else y :: skipAdd x t

/-- Units of a row left unwritten get their SKIPPED entries (R510, R297): of the positions written, each with its offsets. -/
def skipRow (n : Nat) (z : Zone) (r : Nat) (ps : List (Nat × BitVec 16)) (s : State) : State :=
  ps.foldl (fun t x =>
    if posUnwritable t z x.1 then
      zmap n 0x2A [(32, n), (16, r), (8, x.1), (16, x.2.toNat)] { t with arr := { t.arr with
        skipped := skipAdd { zone := n, row := r, pos := x.1, offsets := x.2 } t.arr.skipped } }
    else t) s

/-- Every unit of a row, at every offset. -/
def rowUnits (z : Zone) : List (Nat × BitVec 16) := (List.range z.w).map fun p => (p, 0xFFFF#16)

/-- The data units of a row that hold some of its first blocks, with the offsets present (R260). -/
def presentUnits (z : Zone) (r present : Nat) : List (Nat × BitVec 16) :=
  (List.range ((present + 15) / 16)).map fun j => (posD z.w r j, BitVec.ofNat 16 (2 ^ min 16 (present - 16 * j) - 1))

/-- In preamble mode the acknowledged blocks of a yarn-format zone go to the protected write log (R115). -/
def logged (n : Nat) (z : Zone) (s : State) : Bool := s.yck.preamble && !z.degraded && !preambleOnly s n z
def logHeld (keys : List Nat) (s : State) : State :=
  let ks := keys.filter fun k => ((blockGet s k).map fun b => b.acked && !b.durable).getD false
  if ks = [] ∨ s.flt.warm ∨ speOn s = false ∨ s.sys.plActive ∨ s.spn.hold then s
  else
    let a := ((ks.head?.bind fun k => zoneGet s (k / 65536)).map fun z => logActuator z 0 0).getD 0
    kick (makeDurable ks true (logRecord a ks.length s).2)

/-- All units of a row are written and verified (R259): SKIPPED where a member could not be written, then ROW_DONE; the row's RLD copies
are released. -/
def rowVerified (n r : Nat) (s : State) : State :=
  let s := assignTargets n s
  match zoneGet s n, s.spe.rows.find? fun o => decide (o.zone = n ∧ o.row = r) with
  | some z, some o =>
    if logged n z s then logHeld (rowKeys s n z r) s
    else if rowComplete z r ∧ mediaGo s n z r o.seq ∧ unitsFree s z (List.range z.w) then
      let s := skipRow n z r (rowUnits z) s
      let s := jAppend 0x12 (packFields [(32, n), (16, r)]) s
      let s := unfrog n z (makeDurable (rowKeys s n z r) false s)
      let s := { s with spe := { s.spe with rows := s.spe.rows.filter fun x => decide (¬ (x.zone = n ∧ x.row = r)) } }
      kick (if z.st = .full ∧ ¬ (s.spe.rows.any fun x => decide (x.zone = n)) then completeGroups n s else s)
    else s
  | _, _ => s

/-- ROW_VERIFIED (R259). -/
def execRowVerified (n r : Nat) (s : State) : Host.Outcome State Fault Refusal := act s (rowVerified n r)

/-- The oldest open row with blocks that are not durable (R260). -/
def oldestRow (s : State) : Option OpenRow :=
  s.spe.rows.find? fun o => ((zoneGet s o.zone).map fun z => !(rowKeys s o.zone z o.row).isEmpty).getD false

/-- A trigger of R260 for an open row: 2 s without a write, a covering Flush, window pressure on the oldest, a closed zone, bind-off. -/
def rowTrigger (s : State) (o : OpenRow) : Bool :=
  decide (o.touched + 2000 ≤ s.sys.ms) ||
    (s.hif.flushes.any fun w => w.keys.any fun k => decide (k / 65536 = o.zone)) ||
    ((s.hif.flight.any fun f => decide (f.phase = .waiting)) && decide (oldestRow s = some o)) ||
    decide (((zoneGet s o.zone).map fun z => z.st) = some .closed) ||
    (match s.sys.phase with
     | .bindoff _ _ => true
     | _ => false)

/-- Partial parity of an open row (R260), or in preamble mode its blocks in the protected write log (R115). -/
def rowPartial (n r : Nat) (s : State) : State :=
  let s := assignTargets n s
  match zoneGet s n, s.spe.rows.find? fun o => decide (o.zone = n ∧ o.row = r) with
  | some z, some o =>
    let keys := rowKeys s n z r
    let present := min (z.wp - r * 16 * dataUnits z.w) (16 * dataUnits z.w)
    if logged n z s then logHeld keys s
    else if rowTrigger s o = false ∨ keys = [] then s
    else if mediaGo s n z r o.seq ∧ unitsFree s z ((presentUnits z r present).map Prod.fst) then
      let a := logActuator z r present
      let (at_, s) := logRecord a 32 s
      let s := skipRow n z r (presentUnits z r present) s
      let s := jAppend 0x11 (packFields [(32, n), (16, r), (16, present), (8, a), (32, at_)]) s
      let s := unfrog n z (makeDurable keys false s)
      let one (x : OpenRow) : OpenRow := if x.zone = n ∧ x.row = r then { x with partialTo := some present } else x
      kick { s with spe := { s.spe with rows := s.spe.rows.map one } }
    else s
  | _, _ => s

/-- ROW_IDLE_TIMEOUT (R260). -/
def execRowIdleTimeout (n r : Nat) (s : State) : Host.Outcome State Fault Refusal := act s (rowPartial n r)

/-! ### Read-modify-write (R262, R263) -/

/-- The selvage groups that a read-modify-write touches, by member and block of its extent (R158): of the written blocks' units, P and Q. -/
def rmwGroups (s : State) (n r u first count : Nat) : List (Nat × Nat) :=
  match zoneGet s n with
  | none => []
  | some z =>
    let units := if u = 0xFF then List.range (dataUnits z.w) else [u]
    let ps := units.map (posD z.w r) ++ [posP z.w r, posQ z.w r]
    ps.flatMap fun p =>
      match holder z p with
      | some (m, _) => (List.range count).map fun i => (m, 16 * r + first + i)
      | none => []

/-- RMW_BEGIN and the region's bit are durable: old data and parity are read, the new parity is computed; the selvage of the groups is stale from
the first write until all is verified (R158). -/
def rmwDurable (n r u : Nat) (s : State) : State :=
  let set (o : Rmw) : Bool := ((zoneGet s n).map fun z =>
    regionSet s.spe (regionOf n (r * 16 * dataUnits z.w + (if u = 0xFF then 0 else 16 * u) + o.first))).getD false
  let one (o : Rmw) : Rmw :=
    if decide (o.zone = n ∧ o.row = r ∧ o.unit = u) && seqDurable s.spe o.seq && set o then { o with computed := true } else o
  let go := s.spe.rmw.filter fun o => decide (o.zone = n ∧ o.row = r ∧ o.unit = u) && seqDurable s.spe o.seq && set o
  let s := go.foldl (fun t o => markGroups n .stale (rmwGroups t n r u o.first o.count) t) s
  { s with spe := { s.spe with rmw := s.spe.rmw.map one } }

/-- RMW_ENTRIES_DURABLE (R262). -/
def execRmwEntriesDurable (n r u : Nat) (s : State) : Host.Outcome State Fault Refusal := act s (rmwDurable n r u)

/-- The keys a read-modify-write covers. -/
def rmwKeys (s : State) (n : Nat) (z : Zone) (o : Rmw) : List Nat :=
  (rowKeys s n z o.row).filter fun k =>
    let b := k % 65536
    decide (o.unit = 0xFF ∨ unitIn z.w b = o.unit) && decide (o.first ≤ blockIn b ∧ blockIn b < o.first + o.count)

/-- New data, P and Q are verified (R262): RMW_DONE, after SKIPPED where a member could not be written (R510). -/
def rmwVerified (n r u : Nat) (s : State) : State :=
  let s := assignTargets n s
  match zoneGet s n, s.spe.rmw.find? fun o => decide (o.zone = n ∧ o.row = r ∧ o.unit = u) && o.computed with
  | some z, some o =>
    let keys := rmwKeys s n z o
    let units := (keys.map fun k => posOf z.w (k % 65536)).eraseDups ++ [posP z.w r, posQ z.w r]
    if logged n z s then logHeld keys s
    else if mediaGo s n z r o.seq ∧ unitsFree s z units then
      let mask : BitVec 16 := (List.range o.count).foldl (fun m i => setBit m (o.first + i)) 0
      let s := skipRow n z r (units.map fun p => (p, mask)) s
      let s := jAppend 0x21 (packFields [(32, n), (16, r), (8, u)]) s
      let s := markGroups n .carries (rmwGroups s n r u o.first o.count) (unfrog n z (makeDurable keys false s))
      let s := keys.foldl (fun t k => lostRewritten n r (blockIn (k % 65536)) (posOf z.w (k % 65536)) t) s
      kick { s with spe := { s.spe with rmw := s.spe.rmw.filter fun x => decide (x ≠ o) } }
    else s
  | _, _ => s

/-- RMW_VERIFIED (R262). -/
def execRmwVerified (n r u : Nat) (s : State) : Host.Outcome State Fault Refusal := act s (rmwVerified n r u)

/-! ### Skipped units and reconstruction (R264, R265, R510) -/

/-- A skipped unit of a member that can be written again is rebuilt and written (R510). -/
def skipWalk (n r p : Nat) (s : State) : State :=
  match zoneGet s n, s.arr.skipped.find? fun x => decide (x.zone = n ∧ x.row = r ∧ x.pos = p) with
  | some z, some x =>
    let enough := (List.range 16).all fun k => !x.offsets.getLsbD k || decide (missingAt s n z r k ≤ 2)
    if posUnreachable s z p = false ∧ posGone s z p = false ∧ enough ∧ timingFor s n z = .go then
      kick (zmap n 0x2B [(32, n), (16, r), (8, p)] { s with arr := { s.arr with
        skipped := s.arr.skipped.filter fun y => decide (¬ (y.zone = n ∧ y.row = r ∧ y.pos = p)) } })
    else s
  | _, _ => s

/-- SKIP_WALK_UNIT (R510). -/
def execSkipWalkUnit (n r p : Nat) (s : State) : Host.Outcome State Fault Refusal := act s (skipWalk n r p)

/-- A block that rung 5 handed to surface parity has been recovered (R213): its slot is handled as one recovered late. -/
def handedBack (n : Nat) (z : Zone) (o : Nat) (s : State) : State :=
  let r := rowOf z.w o
  match holder z (posOf z.w o) with
  | none => s
  | some (m, _) =>
    match (extentOf s.media m n).bind fun e => blockPlace s.media e (16 * r + blockIn o) with
    | none => s
    | some p =>
      let d : Defect := { surface := m, zone := p.1, track := p.2.1, slot := p.2.2, live := false }
      if s.media.handed.contains d then
        recoverLate { surface := m, zone := p.1, track := p.2.1 } p.2.2
          { s with media := { s.media with handed := s.media.handed.filter fun x => decide (x ≠ d) } }
      else s

/-- A reconstruction of the block at offset o of zone n (R264, R265): `extra` further units fail at its offset; a Q check that disagrees
sets q_mismatch, and then each input block whose PI fails misses too; without one, it cannot be recovered. A block that cannot be recovered becomes a Lost Stripe, unless a
missing unit is unreachable rather than lost (R37). -/
def reconstruct (n o extra : Nat) (qMismatch : Bool) (piBad : Nat) (verified : Bool) (s : State) : State :=
  match zoneGet s n with
  | none => s
  | some z =>
    let r := rowOf z.w o
    let k := blockIn o
    let own := if posOut s n z r (posOf z.w o) k then 0 else 1
    let m := missingAt s n z r k + own + extra
    let bad := qMismatch && decide (m < 2)
    let s := if bad then speEvent 6 s else s
    let m := if bad then m + piBad else m
    if m ≤ 2 ∧ verified ∧ (bad && decide (piBad = 0)) = false then handedBack n z o s
    else if (List.range z.w).any fun q => posUnreachable s z q then s
    else dropStitch n r k 3 (BitVec.ofNat 24 (2 ^ posOf z.w o)) s

/-- RECONSTRUCT_READ (R264, R265). -/
def execReconstructRead (n o extra : Nat) (qMismatch : Bool) (piBad : Nat) (verified : Bool) (s : State) : Host.Outcome State Fault Refusal :=
  act s (reconstruct n o extra qMismatch piBad verified)

/-! ### Jobs (R271) -/

/-- The word of a job descriptor at index i. -/
def jobWord (ws : List Word) (i : Nat) : Word := ws.getD i 0

/-- The bytes of one column in SAB: units 0 to W - 1 at a stride of 64 KiB. -/
def sabColumn (s : State) (a w : Nat) : List Nat := (List.range w).map fun i => (readByte s (a + 65536 * i)).toNat

def putColumn (a : Nat) (col : List Nat) (s : State) : State :=
  (col.zip (List.range col.length)).foldl (fun t x => writeByte t (a + 65536 * x.2) (BitVec.ofNat 8 x.1)) s

/-- One column of a job: what it leaves, and whether a check disagreed (R250, R251, R262, R271). -/
def jobColumn (kind w x y didx present blocks o : Nat) (a : Nat) (s : State) : State × Bool :=
  let d := w - 2
  let col := sabColumn s (a + o) w
  let ds := col.take d
  if kind = 0 then (putColumn (a + o) (ds ++ [parP ds, parQ ds]) s, false)
  else if kind = 1 then
    let ps := (ds.zip (List.range d)).map fun e => if blocks * e.2 + o / 4096 < present then e.1 else 0
    (putColumn (a + o) (ds ++ [parP ps, parQ ps]) s, false)
  else if kind = 2 then
    let old := (readByte s (a + o + 65536 * w)).toNat
    let delta := ds.getD didx 0 ^^^ old
    (putColumn (a + o) (ds ++ [col.getD d 0 ^^^ delta, col.getD (d + 1) 0 ^^^ gfMul (gfPow didx) delta]) s, false)
  else if kind = 3 then
    (let ix := if x = 0x1F then none else some x
     let iy := if y = 0x1F then none else some y
     match rebuildColumn d col ix iy with
     | some c =>
       let check := decide ((ix.isNone ∨ iy.isNone) ∧ (ix.getD 0 < d ∧ iy.getD 0 < d)) && decide (parQ (c.take d) ≠ c.getD (d + 1) 0)
       (putColumn (a + o) c s, check)
     | none => (s, false))
  else (s, decide (parP ds ≠ col.getD d 0) || decide (parQ ds ≠ col.getD (d + 1) 0))

/-- The columns of a job, and the mask of block offsets where a check disagreed. -/
def jobColumns (kind w x y didx present blocks a : Nat) (os : List Nat) (s : State) : State × BitVec 16 :=
  os.foldl (fun (t : State × BitVec 16) o =>
    let r := jobColumn kind w x y didx present blocks o a t.1
    (r.1, if r.2 then setBit t.2 (o / 4096) else t.2)) (s, 0)

/-- A descriptor that is refused (R271). -/
def jobBad (kind w x y didx blocks : Nat) (low : Nat) : Bool :=
  decide (4 < kind ∨ w < 4 ∨ 24 < w ∨ (x ≠ 0x1F ∧ w ≤ x) ∨ (y ≠ 0x1F ∧ w ≤ y) ∨ (kind = 2 ∧ w - 2 ≤ didx) ∨ blocks = 0 ∨ 16 < blocks ∨ low ≠ 0)

/-- The completion of a job: its tag, its status and the failing block offsets (R271, log entry 63). -/
def jobDone (tag : Word) (status : Nat) (mask : BitVec 16) (s : State) : State :=
  let s := hqmPost 83 (fld (speReg s.spe 0x10) 29 16) [tag, fldAt status 7 0 ||| fldAt mask.toNat 31 16] s
  if status = 0 then s else speEvent 0 s

/-- The job at the head of the job ring runs (R271): `piFail` block offsets whose rebuilt blocks fail PI, `ecc` those of an uncorrectable
SAB error. -/
def speJob (piFail ecc : BitVec 16) (s : State) : State :=
  if speOn s = false ∨ bitOf (speReg s.spe 0) 1 ∨ s.flt.warm then s
  else
    match hqmTake (fld (speReg s.spe 0x10) 13 0) s with
    | none => s
    | some (ws, s) =>
      let c := jobWord ws 0
      let kind := fld c 31 28
      let w := fld c 27 23
      let x := fld c 22 18
      let y := fld c 17 13
      let didx := fld c 12 8
      let blocks := fld c 7 3
      let tag := jobWord ws 5
      if jobBad kind w x y didx blocks (fld c 1 0) then jobDone tag 4 0 s
      else if ecc ≠ 0 then jobDone tag 3 ecc (speEvent 7 s)
      else
        let (s, mask) := jobColumns kind w x y didx (fld (jobWord ws 4) 15 0) blocks (jobWord ws 1).toNat (List.range (4096 * blocks)) s
        if mask ≠ 0 then jobDone tag 1 mask (speEvent 6 s)
        else if bitOf c 2 ∧ kind = 3 ∧ piFail ≠ 0 then jobDone tag 2 piFail s
        else jobDone tag 0 0 s

/-- SPE_JOB (R271). -/
def execSpeJob (piFail ecc : BitVec 16) (s : State) : Host.Outcome State Fault Refusal := act s (speJob piFail ecc)

/-! ### Registers (R254, R266, R270) -/

/-- A write to SPE_JRNL_ACK (R254): what waited for the group goes on. -/
def jrnlAckWrite (w : Word) (s : State) : State := kick (groupAck (fld w 1 0) (fld w 15 8) s)

/-- JRNL_ACK (R254). -/
def execJrnlAck (w : Word) (s : State) : Host.Outcome State Fault Refusal := act s (jrnlAckWrite w)


/-- A write to SPE_CTL: en, halt and lock. -/
def speCtlWrite (w : Word) (s : State) : State :=
  let s := { s with spe := { s.spe with regs := regWrite speRows s.spe.regs false 0 w } }
  { s with spe := { s.spe with halted := speOn s && bitOf (speReg s.spe 0) 1, active := 0 } }

/-- SPE_ENABLE (R270): a write of SPE_CTL. -/
def execSpeEnable (w : Word) (s : State) : Host.Outcome State Fault Refusal := act s (speCtlWrite w)
/-- SPE_HALT (R270): a write of SPE_CTL with halt at 1. -/
def execSpeHalt (w : Word) (s : State) : Host.Outcome State Fault Refusal := act s (speCtlWrite (w ||| 2#32))
/-- SPE_LOCK (R270): a write of SPE_CTL with lock at 1. -/
def execSpeLock (w : Word) (s : State) : Host.Outcome State Fault Refusal := act s (speCtlWrite (w ||| 0x100#32))

/-- A member may be calibrated: no row of any zone placed on it has another missing unit (R266). -/
def calAllowed (s : State) (m : Nat) : Bool :=
  s.arr.zones.all fun z =>
    let on := (List.range z.2.place.length).any fun p => decide (((holder z.2 p).map Prod.fst) = some m)
    !on || (((List.range z.2.place.length).all fun p =>
        decide (((holder z.2 p).map Prod.fst) = some m) || (!posGone s z.2 p && !posUnreachable s z.2 p && !posCalibrating s z.2 p)) &&
      s.arr.skipped.all fun x => decide (x.zone ≠ z.1))

/-- A write to SPE_CAL (R266). -/
def speCalWrite (w : Word) (s : State) : State :=
  if bitOf w 7 ∧ (24 ≤ fld w 4 0 ∨ calAllowed s (fld w 4 0) = false) then speEvent 8 s
  else { s with spe := { s.spe with regs := regWrite speRows s.spe.regs false 0x48 w } }

/-- SPE_CAL_WRITE (R266). -/
def execSpeCalWrite (w : Word) (s : State) : Host.Outcome State Fault Refusal := act s (speCalWrite w)

/-- SPE_JRNL_MEMB as it reads (R270). -/
def jrnlMemb (p : Spe) : Word :=
  let one (i : Fin 3) : Word := fldAt p.replica[i].member (8 * i.val + 4) (8 * i.val) ||| bitAt p.replica[i].current (8 * i.val + 7)
  one 0 ||| one 1 ||| one 2 ||| fldAt ((p.fill.map Fin.val).getD 0) 25 24 ||| bitAt p.fill.isSome 26

/-- A write to SPE_JRNL_MEMB: the replicas and the fill (R270). -/
def membWrite (w : Word) (s : State) : State :=
  { s with spe := { s.spe with
    replica := Vector.ofFn fun i : Fin 3 => { member := fld w (8 * i.val + 4) (8 * i.val), current := bitOf w (8 * i.val + 7) }
    fill := if h : bitOf w 26 ∧ fld w 25 24 < 3 then some ⟨fld w 25 24, h.2⟩ else none } }

/-- A write to a register of the SPE block (R270): RW registers but SPE_CTL, SPE_CAL and SPE_ABSENT only while en is 0. -/
def speWrite (off : Nat) (w : Word) (s : State) : State :=
  let lock := bitOf (speReg s.spe 0) 8
  let put : State := { s with spe := { s.spe with regs := regWrite speRows s.spe.regs false off w } }
  if off = 0 then speCtlWrite w s
  else if off = 0x34 then jrnlAppendWrite w s
  else if off = 0x38 then jrnlAckWrite w s
  else if off = 0x48 then speCalWrite w s
  else if off = 0x44 ∨ off = 8 then put
  else if (rowAt speRows off).isNone then s
  else if speOn s then speEvent 8 s
  else if off = 0x0C then
    (let bad := decide (fld w 4 0 < 4 ∨ 24 < fld w 4 0 ∨ fld w 10 8 < 1 ∨ 6 < fld w 10 8)
     if lock then { s with spe := { s.spe with regs := regSet speRows s.spe.regs 0x0C (setFld (speReg s.spe 0x0C) 16 16 (fld w 16 16)) } }
     else if bad then speEvent 8 s else put)
  else if off = 0x18 then membWrite w s
  else if off = 0x1C then { s with spe := { s.spe with next := s.spe.next / 2 ^ 32 * 2 ^ 32 + w.toNat } }
  else if off = 0x20 then { s with spe := { s.spe with next := s.spe.next % 2 ^ 32 + w.toNat * 2 ^ 32 } }
  else if (off = 0x30 ∨ off = 0x3C) ∧ w.toNat % 4096 ≠ 0 then speEvent 8 s
  else put

/-- Replicas whose fill is durable go on: held writes run (R255). -/
def replicaFillDone (s : State) : State := kick (fillDone s)

/-- REPLICA_FILL_DONE (R255). -/
def execReplicaFillDone (s : State) : Host.Outcome State Fault Refusal := act s replicaFillDone

end Sys2Proof.Machine
end

