-- ==== Sys2Proof/Machine/Member.lean ====
section
/-!
DEFINITION. The meanings of the member lifecycle commands: triggers, availability, rebuild, requalification, migration, reshape,
format conversion, scrub (chapter "Member Lifecycle, Rebuild and Reshape").
-/
namespace Sys2Proof.Machine
open Sys2Proof

/-! ### Triggers (R273, R275, R276) -/

/-- Sectors of a surface handed over at rung 5 or not recovered in the last hour (R275, R276). -/
def lateIn (s : State) (m rung : Nat) : Nat :=
  (s.media.rungLog.filter fun x => decide (x.1 = m ∧ rung ≤ x.2.1 ∧ s.sys.ms < x.2.2 + 3600000)).length

/-- A suspect trigger's condition holds, with its number in the order of R275. -/
def suspectHolds (s : State) (m : Fin 24) : SuspectCause → Bool × Nat
  | .readerFailed _ => (true, 1)
  | .rungThree => (decide (64 < lateIn s m.val 3), 2)
  | .rungFive => (decide (4 < lateIn s m.val 5), 3)
  | .grown => (decide (256 < (s.media.grownLog.filter fun x => decide (x.1 = m.val ∧ s.sys.ms < x.2 + 86400000)).length), 4)
  | .preampFaults => (decide (3 ≤ (s.media.paLog.filter fun x => decide (x.1 = m.val ∧ s.sys.ms < x.2 + 3600000)).length), 5)
  | .actuator => ((s.arr.avail.toList.getD (m.val / 6) .reset).unavailable, 6)

/-- A suspect trigger (R275): an ACTIVE member becomes SUSPECT; the seven days start anew. -/
def suspectTrigger (m : Fin 24) (c : SuspectCause) (s : State) : State :=
  let (holds, k) := suspectHolds s m c
  if holds = false then s
  else
    let none_ := match c with
      | .readerFailed x => x
      | _ => false
    let v := s.arr.member[m]
    let s := setMember m { v with suspectAt := s.stc.pos, noReader := v.noReader || none_ } s
    if v.state = .active then memberChange m .suspect v.gen k s else s

/-- SUSPECT_TRIGGER (R275). -/
def execSuspectTrigger (m : Fin 24) (c : SuspectCause) (s : State) : Host.Outcome State Fault Refusal := act s (suspectTrigger m c)

/-- Seven days of powered time without a suspect trigger (R273). -/
def suspectExpiry (m : Fin 24) (s : State) : State :=
  let v := s.arr.member[m]
  if v.state = .suspect ∧ v.suspectAt + 604800 ≤ s.stc.pos then memberChange m .active v.gen 0 (setMember m { v with withheld := false } s)
  else s

/-- SUSPECT_EXPIRY (R273). -/
def execSuspectExpiry (m : Fin 24) (s : State) : Host.Outcome State Fault Refusal := act s (suspectExpiry m)

/-- A fence trigger's condition holds, with its number in the order of R276. -/
def fenceHolds (s : State) (m : Fin 24) : FenceCause → Bool × Nat
  | .noReader => (s.arr.member[m].noReader, 1)
  | .preampRun => (decide (8 ≤ keyGet s.media.paRun m.val 0), 2)
  | .rungFive => (decide (64 < lateIn s m.val 5), 3)
  | .headSwitches => (decide (3 ≤ keyGet s.media.switchRun m.val 0), 4)

/-- A member a fence trigger may fence (R273). -/
def fenceable (v : Member) : Bool := decide (v.state = .active ∨ v.state = .suspect ∨ v.state = .spare)

/-- Members that lose their trust together: each is fenced where the no-loss test passes for all of them, else each fence is withheld
(R276, R277, R278). -/
def fenceAll (ms : List (Fin 24)) (cause : Nat) (s : State) : State :=
  let ms := ms.filter fun m => fenceable s.arr.member[m]
  if noLoss s (ms.map Fin.val) then ms.foldl (fun t m => fence m cause t) s
  else ms.foldl (fun t m => withhold m cause t) s

/-- A fence trigger (R276). -/
def fenceTrigger (m : Fin 24) (c : FenceCause) (s : State) : State :=
  let (holds, k) := fenceHolds s m c
  if holds then kick (fenceAll [m] k s) else s

/-- FENCE_TRIGGER (R276). -/
def execFenceTrigger (m : Fin 24) (c : FenceCause) (s : State) : Host.Outcome State Fault Refusal := act s (fenceTrigger m c)

/-! ### Actuators (R277) -/

def setAvail (a : ActIx) (v : ActAvail) (s : State) : State := { s with arr := { s.arr with avail := s.arr.avail.set a v } }

/-- The members of an actuator that are fitted. -/
def membersOf (s : State) (a : ActIx) : List (Fin 24) :=
  (List.finRange 24).filter fun m => decide (m.val / 6 = a.val) && !s.arr.absent.getLsbD m.val

/-- The third failure of a kind within one hour, or the link cause held for 10 s (R277). -/
def actHolds (s : State) (a : ActIx) : ActCause → Bool
  | .loadFail => decide (3 ≤ (s.arr.avail[a].loadFails.filter fun t => decide (s.sys.ms < t + 3600000)).length)
  | .holdTimeout => decide (3 ≤ (s.arr.avail[a].holdTmos.filter fun t => decide (s.sys.ms < t + 3600000)).length)
  | .linkCause ms => decide (10000 ≤ ms) && ((engineOf s.flt a.val).map fun e => (s.srv.get e).inh.getLsbD 5).getD false

/-- An actuator becomes unavailable (R277): it is unloaded, its members are flagged and become SUSPECT (R275), replicas move (R255). -/
def actUnavailable (a : ActIx) (c : ActCause) (s : State) : State :=
  if s.arr.avail[a].unavailable ∨ actHolds s a c = false then s
  else
    let s := setAvail a { s.arr.avail[a] with unavailable := true, reloading := false, since := s.sys.ms } s
    let s := match engineOf s.flt a.val with
      | some e => if (s.srv.get e).state = .unloading ∨ (s.srv.get e).state = .parked then s else srvUnload e s
      | none => s
    let s := (membersOf s a).foldl (fun t m => suspectTrigger m .actuator t) (noteChange s)
    let s := (List.finRange 3).foldl (fun t i =>
      if t.spe.replica[i].member / 6 = a.val then replicaLost i t else t) s
    kick s

/-- ACTUATOR_UNAVAILABLE (R277). -/
def execActuatorUnavailable (a : ActIx) (c : ActCause) (s : State) : Host.Outcome State Fault Refusal := actWindow s (actUnavailable a c)

/-- A parked actuator is loaded again (R277). -/
def loadAgain (a : ActIx) (s : State) : State :=
  match engineOf s.flt a.val with
  | some e => if (s.srv.get e).state = .parked ∧ s.sys.unloadLow = false then srvLoad e s else s
  | none => s

/-- ACTUATOR_RELOAD (R277). -/
def execActuatorReload (a : ActIx) (s : State) : Host.Outcome State Fault Refusal :=
  act s fun s => if s.arr.avail[a].reloading ∧ s.sys.phase = .ready then loadAgain a s else s

/-- Every 10 minutes (R277): trigger (e) fences the six members together after the first 10 minutes, and a load is tried again. -/
def actRetry (a : ActIx) (s : State) : State :=
  if s.arr.avail[a].unavailable = false then s
  else
    let s := if s.arr.avail[a].since + 600000 ≤ s.sys.ms then fenceAll (membersOf s a) 5 s else s
    kick (loadAgain a s)

/-- ACTUATOR_RETRY_TIMER (R277). -/
def execActuatorRetryTimer (a : ActIx) (s : State) : Host.Outcome State Fault Refusal := act s (actRetry a)

/-! ### Rebuild (R280 to R284) -/

/-- Background media work may run: ready, journal on, no power-loss sequence, no warm reset, no spindle hold (R457, R469). -/
def mediaWork (s : State) : Bool := decide (s.sys.phase = .ready) && speOn s && !s.sys.plActive && !s.flt.warm && !s.spn.hold

/-- Rows of a zone that hold data (R280). -/
def writtenRows (z : Zone) : Nat :=
  if z.conv then 4096 / dataUnits z.w else (z.wp + 16 * dataUnits z.w - 1) / (16 * dataUnits z.w)

/-- A position that a rebuild pass completes: gone, with a target that is not yet its copy (R280, R283). -/
def awaiting (s : State) (n : Nat) (z : Zone) (p : Nat) : Bool :=
  posGone s z p && ((posTarget z p).map fun t => !t.rebuilt).getD false &&
    s.arr.commits.all fun x => decide (x.2 ≠ .rebuilt n p)

/-- A zone has work for rebuild (R279, R280, R283): a position that awaits its copy, or one that can get a target. -/
def rebuildWork (s : State) (n : Nat) (z : Zone) : Bool :=
  decide (timingFor s n z = .go) && (List.range z.place.length).any fun p => awaiting s n z p ||
    (posGone s z p && (posTarget z p).isNone && (targetFor s n z p ((z.place[p]?.map Prod.fst).getD 0)).isSome)

/-- The zone that rebuild takes next: the first with work from the cursor on, else the first of all (R280, R283). -/
def rebuildNext (s : State) : Option Nat :=
  let zs := (s.arr.zones.filter fun z => rebuildWork s z.1 z.2).map Prod.fst
  let low (xs : List Nat) : Option Nat := xs.foldl (fun b n => some (match b with
    | some m => min m n
    | none => n)) none
  (low (zs.filter fun n => decide (s.arr.cursor ≤ n))).orElse fun _ => low zs

/-- Rebuild turns to another zone: it remembers the rows done in the zone it leaves, where it resumes (R473). -/
def rebuildTurns (n : Nat) (a : Arr) : Arr :=
  if a.cursor = n then a
  else { a with rebuildAt := keyDel (if a.rowsDone = 0 then a.rebuildAt else keyPut a.rebuildAt a.cursor a.rowsDone) n }

/-- One row is rebuilt (R280, R283, R284): targets on first need; an offset at which three or more units miss, those that failed rung 4
counted, is a dropped stitch. -/
def rebuildRow (n r : Nat) (fails : List (Fin 16 × BitVec 24)) (s : State) : State :=
  match zoneGet s n with
  | none => s
  | some z =>
    let next := if s.arr.cursor = n then s.arr.rowsDone else keyGet s.arr.rebuildAt n 0
    if mediaWork s = false ∨ rebuildNext s ≠ some n ∨ writtenRows z ≤ r ∨ r ≠ next then s
    else
      let s := assignTargets n s
      match zoneGet s n with
      | none => s
      | some z =>
        if (List.range z.w).any (awaiting s n z) = false then s
        else
          let s := { s with arr := { rebuildTurns n s.arr with cursor := n, rowsDone := r + 1 } }
          (List.range 16).foldl (fun t k =>
            let more := fails.foldl (fun (m : BitVec 24) x => if x.1.val = k then m ||| x.2 else m) 0
            let miss := missingMask t n z r k ||| more
            let count := ((List.range z.w).filter fun p => miss.getLsbD p).length
            if 3 ≤ count then dropStitch n r k 2 more t else t) s

/-- REBUILD_ROW (R280, R284). -/
def execRebuildRow (n r : Nat) (fails : List (Fin 16 × BitVec 24)) (s : State) : Host.Outcome State Fault Refusal :=
  act s (rebuildRow n r fails)

/-- Some position of some zone is still to be rebuilt (R280, R288): it awaits its REBUILT, or can get a target. -/
def rebuildLeft (s : State) : Bool :=
  s.arr.zones.any fun z => (List.range z.2.place.length).any fun p => awaiting s z.1 z.2 p ||
    (posGone s z.2 p && (posTarget z.2 p).isNone && (targetFor s z.1 z.2 p ((z.2.place[p]?.map Prod.fst).getD 0)).isSome)

/-- The spares become ACTIVE whose target duty is complete: they hold targets, and no position is still to be rebuilt (R273, R288). -/
def spareDuty (s : State) : State :=
  if rebuildLeft s then s
  else
    (List.finRange 24).foldl (fun (t : State) m =>
      let v : Member := t.arr.member[m]
      let mine : Bool := t.arr.zones.any fun z => z.2.targets.any fun x => decide (x.member = m.val)
      if v.state = .spare ∧ mine then memberChange m .active v.gen 0 (setMember m { v with standing := false } t) else t) s

/-- After a zone's last row: REBUILT for each position completed (R281). -/
def rebuildZoneDone (n : Nat) (s : State) : State :=
  match zoneGet s n with
  | none => s
  | some z =>
    let rows := writtenRows z
    if mediaWork s = false ∨ rebuildNext s ≠ some n ∨ (rows ≠ 0 ∧ (s.arr.cursor ≠ n ∨ s.arr.rowsDone < rows)) then s
    else
      let s := (List.range z.w).foldl (fun t p =>
        if awaiting t n z p then
          let q := jNext t
          let t := zmap n 0x22 [(32, n), (8, p)] t
          noteChange { t with arr := { t.arr with commits := t.arr.commits ++ [(q, .rebuilt n p)] } }
        else t) s
      spareDuty { s with arr := { s.arr with cursor := n + 1, rowsDone := 0, rebuildAt := keyDel s.arr.rebuildAt n } }

/-- REBUILD_ZONE_DONE (R281). -/
def execRebuildZoneDone (n : Nat) (s : State) : Host.Outcome State Fault Refusal := act s (rebuildZoneDone n)

/-! ### A member that returns (R287, R288) -/

/-- The hourly probe (R287): skipped unless the drive is operational and the actuator is loaded and available. -/
def fencedProbe (m : Fin 24) (ok : Bool) (s : State) : State :=
  let v := s.arr.member[m]
  let free := s.arr.avail.toList.getD (m.val / 6) .reset
  if v.state ≠ .fenced ∨ s.sys.phase ≠ .ready ∨ s.sys.plActive ∨ free.unavailable ∨ loaded s (m.val / 6) = false then s
  else if ok then
    (let s := setMember m { v with probes := v.probes + 1, returned := v.returned || decide (3 ≤ v.probes + 1) } s
     if 3 ≤ v.probes + 1 ∧ v.returned = false then noteChange (stcCond 0x10 m.val (BitVec.ofNat 32 v.gen) s) else s)
  else setMember m { v with probes := 0 } s

/-- FENCED_PROBE (R287). -/
def execFencedProbe (m : Fin 24) (ok : Bool) (s : State) : Host.Outcome State Fault Refusal := act s (fencedProbe m ok)

/-- A requalification fails, with the result that is recorded (R273, R288, R382). -/
def requalFail (m : Fin 24) (result : Nat) (s : State) : State :=
  let v := s.arr.member[m]
  let s := setMember m { v with requalFails := v.requalFails + 1, requalResult := result, swatched := false } s
  vendorEvent 0xC4 (memberChange m (if 3 ≤ v.requalFails + 1 then .retired else .fenced) v.gen 0 s)

/-- The swatch part of a requalification ends (R288). -/
def requalSwatch (m : Fin 24) (pass : Bool) (s : State) : State :=
  let v := s.arr.member[m]
  if v.state ≠ .qualifying ∨ v.swatched ∨ mediaWork s = false then s
  else if pass then setMember m { v with swatched := true } s
  else requalFail m 2 s

/-- REQUAL_SWATCH_DONE (R288). -/
def execRequalSwatchDone (m : Fin 24) (pass : Bool) (s : State) : Host.Outcome State Fault Refusal := act s (requalSwatch m pass)

/-- The full verify ends (R288): `written` sectors read, `failed` of them, `wedges` of the member's tracks and `extra` servo-defective
wedges beyond the primary defect list. -/
def requalVerify (m : Fin 24) (written failed wedges extra : Nat) (s : State) : State :=
  let v := s.arr.member[m]
  if v.state ≠ .qualifying ∨ v.swatched = false ∨ mediaWork s = false then s
  else
    let v := { v with requalRate := if written = 0 then 0 else 10000 * failed / written }
    let s := setMember m v s
    let pass := decide (10000 * failed < written ∨ (written = 0 ∧ failed = 0)) && decide (1000 * extra < wedges) && !v.noReader
    if pass then vendorEvent 0xC4 <| memberChange m .spare v.gen 0 (setMember m { v with requalResult := 1, swatched := false, returned := false } s)
    else requalFail m 3 s

/-- REQUAL_VERIFY_DONE (R288). -/
def execRequalVerifyDone (m : Fin 24) (written failed wedges extra : Nat) (s : State) : Host.Outcome State Fault Refusal :=
  act s (requalVerify m written failed wedges extra)

/-- The targets of a fence record that are held in spare bands, with their zones (R288). -/
def recordTargets (s : State) (r : Nat × Nat) : List (Nat × Zone × Target) :=
  s.arr.zones.flatMap fun z => (z.2.targets.filter fun t => decide (t.fenced = r.1 ∧ t.fgen = r.2)).map fun t => (z.1, z.2, t)

/-- The fence record a standing spare migrates (R288): its own where it is open, else the oldest open one. -/
def migrationRecord (s : State) (m : Nat) : Option (Nat × Nat) :=
  let isOpen (r : Nat × Nat) : Bool := decide (recordTargets s r ≠ [])
  (s.arr.fences.find? fun r => decide (r.1 = m) && isOpen r).orElse fun _ => s.arr.fences.find? isOpen

/-- The cap lets a standing spare hold a position of a zone (R279, R288). -/
def migrateOk (s : State) (z : Zone) (t : Target) (m : Nat) : Bool :=
  decide (t.member ≠ m) && t.rebuilt &&
    !(decide (z.c ≤ 2) && decide (unitsOn s z (m / 6) - (if t.member / 6 = m / 6 then 1 else 0) = z.c))

/-- Firmware copies a zone's target units of the record to the standing spare and appends MIGRATED (R288); when every position that the
cap allows has migrated, the standing spare becomes ACTIVE. -/
def migrateZone (n : Nat) (m : Fin 24) (s : State) : State :=
  let v := s.arr.member[m]
  if v.standing = false ∨ v.state ≠ .spare ∨ rebuildActive s ∨ mediaWork s = false then s
  else
    match migrationRecord s m.val with
    | none => s
    | some r =>
      let moving (t : State) (n p : Nat) : Bool := t.arr.commits.any fun c => decide (c.2 = .migrated n p m.val v.gen)
      let s := (recordTargets s r).foldl (fun t x =>
        if x.1 = n ∧ migrateOk t x.2.1 x.2.2 m.val ∧ moving t n x.2.2.pos = false then
          let q := jNext t
          let (e, t) := freeNext t
          let at_ := ((newPlace t.media m.val (memberBlocks x.2.1.w) x.2.1.conv).map fun y => y.1.first).getD e.toNat
          let t := zmap n 0x23 [(32, n), (8, x.2.2.pos), (8, m.val), (24, at_)] t
          let w := t.arr.member[m]
          setMember m { w with frog := w.frog.filter fun f => decide (¬ (f.zone = n ∧ f.pos = x.2.2.pos)) }
            { t with arr := { t.arr with commits := t.arr.commits ++ [(q, .migrated n x.2.2.pos m.val v.gen)] } }
        else t) s
      let left := (recordTargets s r).any fun x => migrateOk s x.2.1 x.2.2 m.val && !moving s x.1 x.2.2.pos
      if left then s else memberChange m .active v.gen 0 (setMember m { s.arr.member[m] with standing := false } s)

/-- MIGRATE_ZONE (R288). -/
def execMigrateZone (n : Nat) (m : Fin 24) (s : State) : Host.Outcome State Fault Refusal := act s (migrateZone n m)

/-! ### Reshape (R291, R292) -/

/-- The zone of a running reshape that comes next: a deferred one that is Full, else the boundary zone (R291). -/
def reshapeNext (s : State) (r : Reshape) : Option Nat :=
  (s.arr.deferred.find? fun n => ((zoneGet s n).map fun z => decide (z.st = .full)).getD false).orElse fun _ => r.zones[r.boundary]?

/-- A zone is passed over and listed (R291). -/
def reshapeSkip (n : Nat) (s : State) : State :=
  reshapeStep n (noteChange { s with arr := { s.arr with skippedZones := s.arr.skippedZones ++ [n] } })

/-- A range-lock entry over a whole zone, numbered by the internal commands' way (R356); none where the namespace is gone. -/
def zoneLock (n : Nat) (modify : Bool) (s : State) : Nat × State :=
  let k := s.hif.fseq
  let s := { s with hif := { s.hif with fseq := k + 1 } }
  match (zoneGet s n).bind fun z => (nsGet s z.ns).map fun v => (z, v) with
  | some (z, v) =>
    (k, addLock { ns := z.ns, first := zoneStride v * z.index, last := zoneStride v * z.index + zoneStride v - 1, modify := modify, fseq := k } s)
  | none => (k, s)

/-- A zone's lock, where it is due; else a given number. -/
def zoneLockIf (c : Bool) (k n : Nat) (w : Bool) (s : State) : Nat × State := if c then zoneLock n w s else (k, s)

/-- A zone is switched to a layout (R291): SWITCH is appended, and takes effect when it is durable. -/
def reshapeSwitch (n : Nat) (z : Zone) (r : Reshape) (place : List (Nat × Nat)) (lock : Option Nat) (s : State) : State :=
  let q := jNext s
  let b := (r.zones[if r.zones[r.boundary]? = some n then r.boundary + 1 else r.boundary]?).getD 0
  let s := zmap n 0x25 [(32, n), (8, r.w), (8, r.c), (24, memberMask place), (32, b)] s
  { s with arr := { s.arr with
    commits := s.arr.commits ++ [(q, .switched n { z with w := r.w, c := r.c, place := place, targets := [] } lock)]
    reshape := some { r with copying := none } } }

/-- A copy is given up: its lock is released and its partial extents are free (R291, R477). -/
def copyAbandon (r : Reshape) (s : State) : State :=
  match r.copying with
  | some (_, k) => kick (unlock k { s with arr := { s.arr with reshape := some { r with copying := none } } })
  | none => s

/-- The zone at the boundary is handled (R291, R292). -/
def reshapeZone (f : CopyFind) (s : State) : State :=
  match s.arr.reshape with
  | none => s
  | some r =>
    match reshapeNext s r with
    | none => reshapeDone s
    | some n =>
      match zoneGet s n with
      | none => reshapeSkip n s
      | some z =>
        let pending := s.arr.commits.any fun c => match c.2 with
          | .switched k _ _ => decide (k = n)
          | _ => false
        let copying := decide ((r.copying.map Prod.fst) = some n)
        if mediaWork s = false ∨ pending then s
        else if s.yck.preamble then (if copying ∧ z.conv then copyAbandon r s else s)
        else if copying then
          (match f with
           | .done =>
             (match placement s n r.w r.c, r.copying with
              | some ms, some (_, k) =>
                let (k, s) := zoneLockIf (!z.conv) k n true s
                reshapeSwitch n z r (ms.map fun m => (m, (memberAt s m).gen)) (some k) s
              | _, _ => s)
           | .lost row o => reshapeSkip n (copyAbandon r (dropStitch n row o.val 4 0 s))
           | _ => s)
        else if rebuildActive s then s
        else
          match z.st with
          | .implicitOpen | .explicitOpen | .closed =>
              let s := zmap n 0x28 [(32, n), (8, 1)] s
              let r := { r with boundary := r.boundary + 1 }
              { s with arr := { s.arr with reshape := some r, deferred := s.arr.deferred ++ [n] } }
          | .readOnly | .offline => reshapeSkip n s
          | .empty => reshapeSwitch n z r [] none s
          | .full =>
            if z.place = [] then reshapeSwitch n z r [] none s
            else if z.degraded ∨ (s.arr.lost.any fun x => decide (x.zone = n)) then reshapeSkip n s
            else
              let (k, s) := zoneLockIf z.conv 0 n true s
              { s with arr := { s.arr with reshape := some { r with copying := some (n, k) } } }

/-- RESHAPE_ZONE (R291). -/
def execReshapeZone (f : CopyFind) (s : State) : Host.Outcome State Fault Refusal := act s (reshapeZone f)

/-! ### Format conversion (R294) -/

/-- Writes that wait for a zone's conversion end with Timing Refused (R294). -/
def refuseWaiting (n : Nat) (s : State) : State :=
  let waits (f : InFlight) : Bool := decide (f.phase = .stalled) && ((nsGet s f.io.ns).bind fun v => lbaZone v f.io.slba).map Prod.fst == some n
  (s.hif.flight.filter waits).foldl (fun t f => complete f.ctl f.fseq .timingRefused 0 0 [] t) s

/-- A zone's conversion ends, and its lock with it. -/
def convertStop (n k : Nat) (t : State) : State :=
  unlock k { t with arr := { t.arr with converting := t.arr.converting.filter fun x => decide (x.1 ≠ n) } }

/-- The conversion of zone n into the format it is not in (R117, R294), back one zone at a time: it begins, its copy is done and FORMAT is appended, a block cannot be
recovered, or no spare band supplies the extra tracks. -/
def formatConvert (n : Nat) (f : CopyFind) (s : State) : State :=
  match zoneGet s n with
  | none => s
  | some z =>
    let into := !z.degraded
    let others := s.arr.converting.any fun x => decide (x.1 ≠ n) && ((zoneGet s x.1).map fun y => y.degraded).getD false
    let may := if into then s.yck.preamble && (feature s 0xC0).testBit 16 else !s.yck.preamble && s.yck.active.isSome && !others
    let pending := s.arr.commits.any fun c => match c.2 with
      | .switched k _ _ => decide (k = n)
      | _ => false
    let running := s.arr.converting.find? fun x => decide (x.1 = n)
    if mediaWork s = false ∨ pending ∨ z.place = [] then s
    else
      match running with
      | none =>
        if may = false ∨ f ≠ .begin then (if may ∧ into ∧ f = .noSpare then kick (refuseWaiting n s) else s)
        else
          let s := match s.arr.reshape with
            | some r => if (r.copying.map Prod.fst) = some n then copyAbandon r s else s
            | none => s
          let (k, s) := zoneLockIf z.conv 0 n true s
          { s with arr := { s.arr with converting := s.arr.converting ++ [(n, k)] } }
      | some (_, k) =>
        if may = false then kick (convertStop n k s)
        else
          match f with
          | .begin => s
          | .noSpare => kick (refuseWaiting n (convertStop n k s))
          | .lost row o => kick (refuseWaiting n (convertStop n k (dropStitch n row o.val 4 0 s)))
          | .done =>
            (match placement s n z.w z.c with
             | none => s
             | some ms =>
               if into && !extraRoom s n z.w ms then kick (refuseWaiting n (convertStop n k s))
               else
               let place := ms.map fun m => (m, (memberAt s m).gen)
               let q := jNext s
               let (rate, s) := formatCode n into ms s
               let s := zmap n 0x29 [(32, n), (8, if into then 1 else 0), (8, rate), (24, memberMask place)] s
               let lock := if z.conv then some k else none
               { s with arr := { s.arr with
                 converting := s.arr.converting.filter fun x => decide (x.1 ≠ n)
                 commits := s.arr.commits ++ [(q, .switched n { z with degraded := into, place := place, targets := [] } lock)] } })

/-- FORMAT_CONVERSION (R294). -/
def execFormatConversion (n : Nat) (f : CopyFind) (s : State) : Host.Outcome State Fault Refusal := act s (formatConvert n f)

/-! ### Scrub (R295) -/

/-- A zone placed on a SUSPECT member is scrubbed first (R295, R474). -/
def suspectZone (s : State) (z : Zone) : Bool :=
  (List.range z.place.length).any fun p => ((holder z p).map fun h => decide ((memberAt s h.1).state = .suspect)).getD false

/-- The place of a row in a scrub pass: zones of SUSPECT members first, then zone-map order (R295). -/
def scrubPlace (s : State) (n r : Nat) : Nat :=
  (if ((zoneGet s n).map (suspectZone s)).getD false then 0 else 2 ^ 48) + 65536 * n + r

/-- A row may be scrubbed: it goes on with the pass, or scrub is enabled and a new pass begins (R295, R377; log entry 128). -/
def scrubMay (s : State) (n r : Nat) : Bool :=
  (feature s 0xC1).testBit 24 || (s.arr.scrubAt.map fun x => decide (scrubPlace s x.1 x.2 < scrubPlace s n r)).getD false

/-- Zones with written rows, and the rows of each. -/
def scrubZones (s : State) : List (Nat × Nat) :=
  (s.arr.zones.filter fun z => decide (z.2.place ≠ [] ∧ writtenRows z.2 ≠ 0)).map fun z => (z.1, writtenRows z.2)

/-- The row that a scrub pass takes next (R295): the one after the last in its zone, else the first of the next zone in the pass's order, else
the first of a new pass. -/
def scrubNext (s : State) : Option (Nat × Nat) :=
  let first (xs : List (Nat × Nat)) : Option (Nat × Nat) := (xs.foldl (fun (b : Option Nat) x => some (match b with
    | some m => if scrubPlace s x.1 0 < scrubPlace s m 0 then x.1 else m
    | none => x.1)) none).map fun n => (n, 0)
  match s.arr.scrubAt with
  | none => first (scrubZones s)
  | some (n, r) =>
    if (scrubZones s).any fun x => decide (x.1 = n ∧ r + 1 < x.2) then some (n, r + 1)
    else (first ((scrubZones s).filter fun x => decide (scrubPlace s n 0 < scrubPlace s x.1 0))).orElse fun _ => first (scrubZones s)

/-- Scrub reads a row and runs its CHECK (R295); a block recovered late has been handled by the ladder's own rule (R213). -/
def scrubRow (n r : Nat) (f : ScrubFind) (s : State) : State :=
  match zoneGet s n with
  | none => s
  | some z =>
    if mediaWork s = false ∨ z.place = [] ∨ writtenRows z ≤ r ∨ (rebuildActive s ∧ suspectZone s z = false) ∨ scrubMay s n r = false ∨ scrubNext s ≠ some (n, r) then s
    else
      let s := { s with arr := { s.arr with scrubAt := some (n, r) } }
      match f with
      | .clean | .late _ _ => s
      | .mismatchPi | .mismatchLocated _ => speEvent 6 s
      | .mismatchNoPi => historyNote 5 0 r (speEvent 6 s)
      | .lost ps os => addLost { zone := n, row := r, offsets := os, positions := ps, cause := 5, poh := s.stc.pos % 2 ^ 32 } s

/-- SCRUB_ROW (R295). -/
def execScrubRow (n r : Nat) (f : ScrubFind) (s : State) : Host.Outcome State Fault Refusal := act s (scrubRow n r f)

end Sys2Proof.Machine
end

