-- ==== Sys2Proof/Machine/Bind.lean ====
section
/-!
DEFINITION. The core roles: staged maps, commit and discard, the failure of cores and clusters (R27 to R30, R35, R425).
-/
namespace Sys2Proof.Machine
open Sys2Proof

/-! ### Core maps (R35) -/

/-- The 2-bit code of a role. -/
def roleCode : Role → Nat
  | .resident => 0 | .hook => 1 | .spare => 2 | .failed => 3

/-- The role of a code. -/
def roleAt (n : Nat) : Role := if n = 0 then .resident else if n = 1 then .hook else if n = 2 then .spare else .failed

/-- What FLT_CORE_MAP_X, Y or Z reads: the roles in force (R35). -/
def coreMapWord (f : Flt) (cluster : Fin 3) : Word :=
  (List.range 12).foldl (fun w k => w ||| fldAt (roleCode (roleOf f (12 * cluster.val + k))) (2 * k + 1) (2 * k)) 0

/-- A binding error: bit b of FLT_BIND_ERR and source 171 (R32). -/
def bindError (b : Nat) (s : State) : State :=
  raise 171 (freshMark (644 + b) { s with flt := { s.flt with bindErr := s.flt.bindErr ||| bitAt true b } })

/-- A write to an FLT_CORE_MAP register goes to its staged copy (R35). -/
def coreMapWrite (cluster : Fin 3) (w : Word) (s : State) : State :=
  { s with flt := { s.flt with staged := Vector.ofFn fun c : Fin 36 =>
      if c.val / 12 = cluster.val then roleAt (fld w (2 * (c.val % 12) + 1) (2 * (c.val % 12))) else s.flt.staged[c] } }

/-- Working cores: those that do not hold 0b11 (R29). -/
def workingCores (r : Vector Role 36) : Nat := (r.toList.filter fun x => decide (x ≠ .failed)).length

/-- The required hook count (R29). -/
def requiredHooks (r : Vector Role 36) : Nat := if 5 ≤ workingCores r then 4 else workingCores r - 1

/-- The cores of a role in a map. -/
def hookCount (r : Vector Role 36) : Nat := (r.toList.filter fun x => decide (x = .hook)).length

/-- A commit of these staged roles would be ignored (R35). -/
def commitBad (role staged : Vector Role 36) : Bool :=
  ((List.finRange 36).any fun c => decide (role[c] = .failed) && decide (staged[c] ≠ .failed)) ||
    decide (hookCount staged ≠ requiredHooks staged)

/-- A write to FLT_CORE_COMMIT (R35). -/
def coreCommitWrite (w : Word) (s : State) : State :=
  match bitOf w 0, bitOf w 1 with
  | true, true => bindError 2 s
  | true, false =>
    if commitBad s.flt.role s.flt.staged then bindError 2 s
    else { s with flt := { s.flt with role := s.flt.staged } }
  | false, true => { s with flt := { s.flt with staged := s.flt.role } }
  | false, false => s

/-- CORE_MAP_WRITE (R35). -/
def execCoreMapWrite (cluster : Fin 3) (w : Word) (s : State) : Host.Outcome State Fault Refusal :=
  act s (coreMapWrite cluster w)

/-- CORE_COMMIT (R35): a write of FLT_CORE_COMMIT with [0] at 1. -/
def execCoreCommit (w : Word) (s : State) : Host.Outcome State Fault Refusal := act s (coreCommitWrite (w ||| 1#32))

/-- CORE_DISCARD (R35): a write of FLT_CORE_COMMIT with [1] at 1. -/
def execCoreDiscard (w : Word) (s : State) : Host.Outcome State Fault Refusal := act s (coreCommitWrite (w ||| 2#32))

/-! ### Failed cores (R29, R30, R425) -/

/-- The first core of a role, the given cluster's cores first (R29). DESIGN CHOICE: in index order within them (log entry 155). -/
def firstOf (r : Vector Role 36) (x : Role) (cluster : Nat) : Option (Fin 36) :=
  ((List.finRange 36).find? fun c => decide (r[c] = x ∧ c.val / 12 = cluster)).orElse fun _ =>
    (List.finRange 36).find? fun c => decide (r[c] = x)

/-- Hook roles brought to the required count (R29): a vacant one is filled from a spare, else from a resident core; a hook core
goes back to resident firmware only when the count falls. DESIGN CHOICE: the lowest index of cluster X first, whichever cluster the
vacancy is in (log entry 155). -/
def fillHooks (n : Nat) (r : Vector Role 36) : Vector Role 36 :=
  match n with
  | 0 => r
  | n + 1 =>
    if hookCount r < requiredHooks r then
      match (firstOf r .spare 0).orElse fun _ => firstOf r .resident 0 with
      | some c => fillHooks n (r.set c .hook)
      | none => r
    else if requiredHooks r < hookCount r then
      match firstOf r .hook 0 with
      | some c => fillHooks n (r.set c .resident)
      | none => r
    else r

/-- The roles after core c fails (R29): a spare of its cluster, else of another, takes its role. -/
def rolesAfterFail (r : Vector Role 36) (c : Fin 36) : Vector Role 36 :=
  let old := r[c]
  let r1 := r.set c .failed
  let r2 := match old with
    | .resident | .hook =>
      (match firstOf r1 .spare (c.val / 12) with
       | some k => r1.set k old
       | none => r1)
    | _ => r1
  fillHooks 36 r2

/-- The roles after a whole cluster fails (R30): hook roles are filled from the surviving hook and spare cores, and the
remaining spares join resident firmware. -/
def rolesAfterCluster (r : Vector Role 36) (cluster : Nat) : Vector Role 36 :=
  let r1 := Vector.ofFn fun c : Fin 36 => if c.val / 12 = cluster then Role.failed else r[c]
  let r2 := fillHooks 36 r1
  Vector.ofFn fun c : Fin 36 => if r2[c] = .spare then .resident else r2[c]

/-- A cluster fails (R30, R425, R428): its roles move, the record is kept, and source 170 is raised where hook code was restarted. -/
def clusterFail (cluster : Fin 3) (s : State) : State :=
  if s.flt.clusterFailed.getLsbD cluster.val then s
  else
    let hadHook := (List.finRange 36).any fun c => decide (s.flt.role[c] = .hook ∧ c.val / 12 = cluster.val)
    let r := rolesAfterCluster s.flt.role cluster.val
    let s := (List.range 12).foldl (fun t k => requesterGone (12 * cluster.val + k) t) s
    let s := { s with flt := { s.flt with
      role := r, staged := r, clusterFailed := setBit s.flt.clusterFailed cluster.val
      failRec := { s.flt.failRec with clusters := setBit s.flt.failRec.clusters cluster.val } } }
    if hadHook then raise 170 s else s

/-- A core fails in service (R425, R428): 0b11 in its map, its role to a spare, the record kept; the third failure of its
cluster within 1 s fails the cluster. -/
def coreFail (c : CoreIx) (s : State) : State :=
  if s.flt.role[c] = .failed then s
  else
    let now := s.sys.ms
    let fails := (c.val, now) :: s.flt.coreFails.filter fun e => decide (now ≤ e.2 + 1000)
    let r := rolesAfterFail s.flt.role c
    let s := requesterGone c.val s
    let s := { s with flt := { s.flt with
      role := r, staged := r, coreFails := fails
      failRec := { s.flt.failRec with cores := setBit s.flt.failRec.cores c.val } } }
    if 3 ≤ (fails.filter fun e => decide (e.1 / 12 = c.val / 12)).length then clusterFail ⟨c.val / 12, by omega⟩ s else s

/-- A machine check of core c (R425): a first one takes the BLK of its source; a second within one hour fails the core. -/
def machineCheck (c : CoreIx) (s : State) : State :=
  let now := s.sys.ms
  let again : Bool := ((s.flt.coreCheck.get c).map fun t => decide (now < t + 3600000)).getD false
  let s := { s with flt := { s.flt with coreCheck := s.flt.coreCheck.set c (some now) } }
  if again then coreFail c s else s

/-- CORE_FAIL (R29, R425). -/
def execCoreFail (c : CoreIx) (s : State) : Host.Outcome State Fault Refusal := act s (coreFail c)

/-- CORE_WATCHDOG (R425): the watchdog source, and the core's failure. -/
def execCoreWatchdog (c : CoreIx) (s : State) : Host.Outcome State Fault Refusal :=
  act s fun s => coreFail c (raise (srcCore c.val 1) s)

/-- CLUSTER_FAIL (R30). -/
def execClusterFail (cluster : Fin 3) (s : State) : Host.Outcome State Fault Refusal := act s (clusterFail cluster)

end Sys2Proof.Machine
end

