-- ==== Sys2Proof/Machine/Fault.lean ====
section
/-!
DEFINITION. The meanings of the fault controller's own commands: occurrences, acknowledgement, software sources, registers,
SRAM and buffer DRAM repair (R414 to R420, R425, R429 to R432, R434, R435).
-/
namespace Sys2Proof.Machine
open Sys2Proof

/-! ### Occurrence and acknowledgement -/

/-- An uncorrectable burst on a channel is counted (R431): the fourth within 1 s is the channel's failure. -/
def rldCount (chan : Fin 2) (s : State) : State :=
  let now := s.sys.ms
  let recent := now :: (s.flt.rldBursts[chan]).filter fun t => decide (now < t + 1000)
  let s := { s with flt := { s.flt with rldBursts := s.flt.rldBursts.set chan recent } }
  if 4 ≤ recent.length then rldOut chan.val (raise (srcRld chan.val 2) s) else s

/-- What an occurrence of a source leads to beside FLT's reaction: the core failures of a repeated machine check and of a watchdog (R425), the
failure of a buffer DRAM channel (R431, R432). -/
def sourceLeads (k : Nat) (s : State) : State :=
  if h : k < 108 then
    (if k % 3 = 0 then machineCheck ⟨k / 3, by omega⟩ s else if k % 3 = 1 then coreFail ⟨k / 3, by omega⟩ s else s)
  else if k = 129 then rldCount 0 s
  else if k = 133 then rldCount 1 s
  else if k = 130 then rldOut 0 s
  else if k = 134 then rldOut 1 s
  else s

/-- An occurrence of a source (R416), with what it leads to. -/
def sourceOccurs (k : SrcIx) (s : State) : State := sourceLeads k.val (raise k.val (sourceMark k.val s))

/-- FAULT_SOURCE_OCCURRENCE (R416). -/
def execFaultSourceOccurrence (k : SrcIx) (s : State) : Host.Outcome State Fault Refusal := actWindow s (sourceOccurs k)

/-- The steps of the classes that keep a pending source; 0 for the others (R420). -/
def settleSteps (f : Flt) : Flt :=
  { f with steps := Vector.ofFn fun c : Fin 5 => if classPending f (c.val + 1) then f.steps[c] else 0 }

/-- The sources a write of w to FLT_PENDk clears: for a hook core only tagged ones (R419). -/
def ackMask (k : Fin 20) (w : Word) (hook : Bool) : BitVec 640 :=
  (List.range 32).foldl
    (fun m b => if bitOf w b ∧ (hook = false ∨ hookTagged (32 * k.val + b)) then setBit m (32 * k.val + b) else m) 0

/-- A clearing write to FLT_PENDk together with the occurrences of the same cycle: these count as arriving while their source is
pending, and leave its bit set, as those since the last read do (R19, R20, R419, R420). -/
def acknowledge (k : Fin 20) (w : Word) (hook : Bool) (arriving : List SrcIx) (s : State) : State :=
  let s := raiseAll (arriving.map Fin.val) s
  let keep := arriving.foldl (fun (m : BitVec 640) a => setBit m a.val) 0
  let m := ackMask k w hook &&& ~~~ keep &&& ~~~ s.flt.freshPend
  let f := s.flt
  let f := { f with
    pend := f.pend &&& ~~~ m
    pinPend := f.pinPend &&& ~~~ m
    delivered := f.delivered.filter fun d => !m.getLsbD d.src }
  { s with flt := settleSteps f }

/-- FAULT_ACKNOWLEDGE (R419). -/
def execFaultAcknowledge (k : Fin 20) (w : Word) (hook : Bool) (arriving : List SrcIx) (s : State) :
    Host.Outcome State Fault Refusal := actWindow s (acknowledge k w hook arriving)

/-- A requester is a core in the hook role. -/
def isHook (s : State) (r : Requester) : Bool :=
  match r with
  | .core c => decide (s.flt.role[c] = .hook)
  | _ => false

/-- A write to FLT_SWRAISE (R414, R435): hook cores may raise only 6 and 7; another is outside their partition (R28). -/
def swRaise (r : Requester) (w : Word) (s : State) : State :=
  let n := fld w 2 0
  if isHook s r ∧ n < 6 then raise 169 s else raise (176 + n) s

/-- FLT_SWRAISE (R414). -/
def execFltSwraise (r : Requester) (w : Word) (s : State) : Host.Outcome State Fault Refusal := act s (swRaise r w)

/-- A write to FLT_CTL (R435): dflt_core above 35 is ignored in whole with source 171. -/
def fltCtlWrite (w : Word) (s : State) : State :=
  if 35 < fld w 5 0 then raise 171 s else { s with flt := { s.flt with regs := regWrite fltRows s.flt.regs false 0 w } }

/-- FLT_DEFAULT_CORE (R435). -/
def execFltDefaultCore (w : Word) (s : State) : Host.Outcome State Fault Refusal := act s (fltCtlWrite w)

/-- A write to FLT_SRC_CFGs (R418, R435): en of C4 and C5 reads 1; targets 36 to 62 leave the target as it is, with source 171;
a reserved source's register takes no write. -/
def srcCfgWrite (k : Nat) (w : Word) (s : State) : State :=
  if srcReserved k ∨ 640 ≤ k then s
  else
    let old := srcCfg s.flt k
    let t := fld w 23 18
    let bad := decide (36 ≤ t ∧ t ≤ 62)
    let en := bitOf w 9 || decide (4 ≤ srcClass k)
    let new := setFld (setFld (setFld (setFld old 23 18 (if bad then fld old 23 18 else t)) 9 9 (if en then 1 else 0)) 8 8
      (fld w 8 8)) 5 4 (fld w 5 4)
    let s := { s with flt := { s.flt with regs := keySet s.flt.regs (0x1000 + 4 * k) new (srcCfgReset k) } }
    if bad then raise 171 s else s

/-! ### SRAM (R429, R430) -/

/-- The pool of spare rows a region draws on: the core memories of the three clusters share one (R429). -/
def sparePool (r : Nat) : List Nat := if 6 ≤ r ∧ r ≤ 8 then [6, 7, 8] else [r]

/-- Spare rows of a region's pool (R429). -/
def spareTotal (r : Nat) : Nat := if r = 0 then 328 else if r ≤ 5 then 49 else if r ≤ 8 then 164 else 82

/-- Spare rows of a region's pool in use. -/
def spareInUse (f : Flt) (r : Nat) : Nat := ((sparePool r).map fun i => f.spareUse.toList.getD i 0).sum

/-- A row repaired into a spare row, or the region's uncorrectable source where no spare row is left (R429). -/
def repairRow (r : Fin 10) (s : State) : State :=
  if spareInUse s.flt r.val < spareTotal r.val then
    { s with flt := { s.flt with spareUse := s.flt.spareUse.set r (s.flt.spareUse[r] + 1) } }
  else raise (srcSram r.val 1) s

/-- One corrected error of a patrol pass (R429): the source, and the repair where the row was corrected in an earlier pass or
within the last 24 h. -/
def correctedRow (e : CorrectedRow) (s : State) : State :=
  let s := raise (srcSram e.region.val 0) s
  let now := s.sys.ms
  let again := s.flt.sramSeen.any fun x =>
    decide (x.region = e.region.val ∧ x.row = e.row) && (decide (x.pass ≠ s.flt.patrolPass) || decide (now < x.ms + 86400000))
  let seen := s.flt.sramSeen.filter fun x => decide (¬ (x.region = e.region.val ∧ x.row = e.row))
  if again then repairRow e.region { s with flt := { s.flt with sramSeen := seen } }
  else { s with flt := { s.flt with
    sramSeen := { region := e.region.val, row := e.row, pass := s.flt.patrolPass, ms := now } :: s.flt.sramSeen } }

/-! ### Buffer DRAM (R431, R432) -/

/-- A failed RLD channel is taken out of service (R432), with its source. -/
def rldFail (chan : Fin 2) (s : State) : State := rldOut chan.val (raise (srcRld chan.val 2) s)

/-- RLD_CHANNEL_FAIL (R432). -/
def execRldChannelFail (chan : Fin 2) (s : State) : Host.Outcome State Fault Refusal := actWindow s (rldFail chan)

/-- An uncorrectable burst on a channel (R431): its source, and the channel's failure at the fourth within 1 s. -/
def rldBurst (chan : Fin 2) (s : State) : State := rldCount chan (raise (srcRld chan.val 1) s)

end Sys2Proof.Machine
end

