-- ==== Sys2Proof/Machine/Dma.lean ====
section
/-!
DEFINITION. The meanings of the DMA commands: descriptors, pacing, completion, chains, aborts, errors (R383 to R398, R407, R411).
-/
namespace Sys2Proof.Machine
open Sys2Proof

def dmaCfgErr (s : State) : State := dmaEvent 7 s

/-! ### Descriptors (R384, R385) -/

/-- A descriptor as a channel reads it. -/
structure Desc where
  w0 : Word
  src : Nat
  dst : Nat
  link : Nat
  stat : Nat
  deriving DecidableEq, Repr

def descAt (s : State) (a : Nat) : Desc :=
  { w0 := BitVec.ofNat 32 (readLE s a 4), src := readLE s (a + 4) 8, dst := readLE s (a + 12) 8, link := readLE s (a + 20) 8,
    stat := readLE s (a + 28) 4 }

def descLength (d : Desc) : Nat := fld d.w0 23 0
def descSwap (d : Desc) : Nat := fld d.w0 29 28
def descSspace (d : Desc) : Nat := fld d.w0 27 26
def descDspace (d : Desc) : Nat := fld d.w0 25 24

/-- A ring address that names no enabled ring, or sets other bits. -/
def ringAddrBad (s : State) (a : Nat) : Bool := decide (16384 ≤ a) || !(ringAt s (a % 16384)).enabled

/-- A descriptor is refused with code 4 (R385, R386). -/
def descBadCode (s : State) (d : Desc) : Bool :=
  let n := descLength d
  let unit := if descSwap d = 1 then 2 else if descSwap d = 0 then 1 else 4
  let int (sp a : Nat) : Bool := decide (sp = 0 ∧ a % unit ≠ 0)
  decide (n = 0 ∨ n % unit ≠ 0) || int (descSspace d) d.src || int (descDspace d) d.dst ||
    (decide (descSspace d = 1 ∨ descSspace d = 2) && decide (descDspace d = 1 ∨ descDspace d = 2)) ||
    (decide (descSspace d = 3) && ringAddrBad s d.src) ||
    (decide (descDspace d = 3) && (ringAddrBad s d.dst || decide (n % 16 ≠ 0 ∨ 16 * (bodyLimit (ringAt s (d.dst % 16384)) + 1) < n))) ||
    decide (d.link % 32 / 2 ≠ 0 ∨ d.stat / 2 ^ 24 % 16 ≠ 0)

/-- A hook channel's descriptor leaves its partition (R407, R485). -/
def descPartition (s : State) (n : ChanIx) (a : Nat) (d : Desc) : Bool :=
  let bad (sp x : Nat) : Bool :=
    if sp = 0 then !(hookWindow s x && hookWindow s (x + descLength d - 1))
    else if sp = 3 then decide (x < 15360)
    else true
  let sel := chanSel s n
  let start := decide (chanPace s n = 1) ||
    (decide (chanPace s n = 2) && !decide ((48 ≤ sel ∧ sel ≤ 63) ∨ sel = 70 ∨ sel = 71 ∨ (100 ≤ sel ∧ sel ≤ 103)))
  decide (48 ≤ n.val) && (bad (descSspace d) d.src || bad (descDspace d) d.dst || !hookWindow s a || start)

/-- An internal end lies in a gated domain (R398). -/
def descGated (s : State) (d : Desc) : Bool :=
  let g (sp a : Nat) : Bool := decide (sp = 0) && ((domOfAddr a).map fun k => domGated s k).getD false
  g (descSspace d) d.src || g (descDspace d) d.dst

/-- A host end whose port has its link down, or whose controller is disabled (R386). -/
def descHostDown (s : State) (d : Desc) : Bool :=
  let h (sp : Nat) : Bool := decide (sp = 1 ∨ sp = 2) && !hostPortOk (sp - 1) s
  h (descSspace d) || h (descDspace d)

/-- The channel's current descriptor stops it with a code: its status word, the interrupt and the state (R384, R393, R394). -/
def chanStop (n : ChanIx) (code : Nat) (s : State) : State := chanStopW raise n code s

/-- A reserved request line or event (R388). -/
def selReserved (s : State) (n : ChanIx) : Bool :=
  (decide (chanPace s n = 1) && decide (14 ≤ chanSel s n)) || (decide (chanPace s n = 2) && decide (105 ≤ chanSel s n))

/-- The channel takes the descriptor at CUR with a residue: its checks, then running in free mode, or waiting for its pacing, an
occurrence counted meanwhile serving at once in event mode (R385, R386, R388, R398, R407). -/
def chanLoad (n : ChanIx) (resid : Nat) (s : State) : State :=
  let c := s.dma.chan[n]
  let d := descAt s c.cur
  let s := setChan n { c with resid := resid, state := .waiting } s
  let c := s.dma.chan[n]
  if descPartition s n c.cur d then raise 169 (dmaEvent 2 (chanStop n 5 s))
  else if selReserved s n ∨ descBadCode s d then dmaEvent 1 (chanStop n 4 s)
  else if descGated s d then chanStop n 6 s
  else if descHostDown s d then chanStop n 7 s
  else if chanPace s n = 0 then setChan n { c with state := .running } s
  else if chanPace s n = 2 ∧ 0 < c.pend then setChan n { c with state := .running, pend := c.pend - 1 } s
  else s

/-- The channel takes the descriptor at address a. -/
def chanTake (n : ChanIx) (a : Nat) (s : State) : State :=
  chanLoad n (descLength (descAt s a)) (setChan n { s.dma.chan[n] with cur := a } s)

/-! ### Start, abort, resume, extend (R391, R393, R395) -/

/-- DMA_CHn_HEAD as an address. -/
def chanHead (s : State) (n : ChanIx) : Nat :=
  (dmaReg s.dma (0x1008 + 64 * n.val)).toNat + (dmaReg s.dma (0x100C + 64 * n.val)).toNat * 2 ^ 32

/-- A start: ignored with cfg_err unless the channel is idle and the engine enabled (R395, log entry 44). -/
def dmaStart (n : ChanIx) (s : State) : State :=
  if s.dma.chan[n].state ≠ .idle ∨ bitOf (dmaReg s.dma 0) 0 = false then dmaCfgErr s else chanTake n (chanHead s n) s

/-- An abort (R393). -/
def dmaAbort (n : ChanIx) (s : State) : State := chanAbortW raise n s

/-- A resume: a stopped channel goes on at its residue; one that stopped with code 4, 5 or 7 does not (R395). -/
def dmaResume (n : ChanIx) (s : State) : State :=
  let c := s.dma.chan[n]
  if c.state ≠ .stopped ∨ c.code = 4 ∨ c.code = 5 ∨ c.code = 7 then dmaCfgErr s else chanLoad n c.resid s

/-- A write to DMA_CHn_CTL: abort, then resume, then start. -/
def chanCtlWrite (n : ChanIx) (w : Word) (s : State) : State :=
  let s := if bitOf w 1 then dmaAbort n s else s
  let s := if bitOf w 2 then dmaResume n s else s
  if bitOf w 0 then dmaStart n s else s

/-- DMA_START (R384). -/
def execDmaStart (n : ChanIx) (s : State) : Host.Outcome State Fault Refusal := act s (dmaStart n)
/-- DMA_ABORT (R393). -/
def execDmaAbort (n : ChanIx) (s : State) : Host.Outcome State Fault Refusal := act s (dmaAbort n)
/-- DMA_RESUME (R395). -/
def execDmaResume (n : ChanIx) (s : State) : Host.Outcome State Fault Refusal := act s (dmaResume n)

/-- The link word of the current descriptor is read and the flag cleared (R390, R391, R392): the next descriptor, or the channel parks.
`cleared` counts a flag that this read clears as spurious; `again` counts a re-read that finds eoc still 1. -/
def linkRead (n : ChanIx) (again : Bool) (s : State) : State :=
  let c := s.dma.chan[n]
  let d := descAt s c.cur
  let eoc := decide (d.link % 2 = 1)
  let spurious := (c.flag && !again) || (again && eoc)
  let c := { c with flag := false, spur := if spurious then min 65535 (c.spur + 1) else c.spur }
  if eoc then setChan n { c with state := .parked } s
  else chanTake n (d.link / 32 * 32) (setChan n c s)

/-- EXTEND (R391). -/
def dmaExtend (n : ChanIx) (s : State) : State :=
  let c := s.dma.chan[n]
  if c.flag then setChan n { c with spur := min 65535 (c.spur + 1) } s
  else if c.state = .parked then linkRead n true (setChan n { c with flag := true } s)
  else setChan n { c with flag := true } s

/-- DMA_EXTEND (R391). -/
def execDmaExtend (n : ChanIx) (s : State) : Host.Outcome State Fault Refusal := act s (dmaExtend n)

/-- A write to DMA_CTL: en at 0 aborts every channel (R393). -/
def dmaCtlWrite (w : Word) (s : State) : State :=
  let s := { s with dma := { s.dma with regs := regWrite dmaRows s.dma.regs false 0 w } }
  if bitOf w 0 then s else (List.finRange 64).foldl (fun t n => dmaAbort n t) s

/-- DMA_DISABLE (R393): a write of DMA_CTL with en at 0. -/
def execDmaDisable (s : State) : Host.Outcome State Fault Refusal := act s (dmaCtlWrite 0)

/-! ### Moving data (R384 to R387, R389) -/

/-- Bytes with the swap applied, in units counted from the source address (R384, R385). -/
def swapBytes (swap : Nat) (bs : List Byte) : List Byte :=
  match bs with
  | a :: b :: t =>
    if swap = 1 then b :: a :: swapBytes swap t
    else if swap = 0 then a :: b :: swapBytes swap t
    else
      (match t with
       | c :: d :: u => (if swap = 2 then [d, c, b, a] else [c, d, a, b]) ++ swapBytes swap u
       | _ => a :: b :: t)
  | _ => bs

/-- Words of a byte string, little-endian. -/
def wordsOf (n : Nat) (bs : List Byte) : List Word :=
  match n with
  | 0 => []
  | n + 1 =>
    BitVec.ofNat 32 ((bs.take 4).foldr (fun b v => b.toNat + 256 * v) 0) :: wordsOf n (bs.drop 4)

/-- Bytes of words, little-endian. -/
def bytesOf (ws : List Word) : List Byte :=
  ws.flatMap fun w => [BitVec.ofNat 8 w.toNat, BitVec.ofNat 8 (w.toNat / 256), BitVec.ofNat 8 (w.toNat / 65536),
    BitVec.ofNat 8 (w.toNat / 16777216)]

/-- How a burst reaches a register block (R16, R386): a word written, a word read, and an access of another width or alignment, which
completes without effect. -/
structure RegBus where
  put : Nat → Word → State → State
  get : Nat → State → Word × State
  bad : State → State

/-- An access of other than whole aligned words (R16). -/
def burstTail (bus : RegBus) (a n : Nat) (s : State) : State := if a % 4 ≠ 0 ∨ n % 4 ≠ 0 then bus.bad s else s

/-- Bytes for an internal address: words into a register block, bytes elsewhere; the sample ring and hold area take
no write (R16, R481). -/
def putBytes (bus : RegBus) (a : Nat) (bs : List Byte) (s : State) : State :=
  match regionAt a with
  | .reg _ _ =>
    let n := if a % 4 = 0 then bs.length / 4 else 0
    burstTail bus a bs.length (((wordsOf n bs).zip (List.range n)).foldl (fun t x => bus.put (a + 4 * x.2) x.1 t) s)
  | .rom | .samples _ | .unmapped => s
  | _ => writeBytes s a bs

/-- Words read from register n on, and what reading them does. -/
def getWords (bus : RegBus) (n a : Nat) (s : State) : List Word × State :=
  match n with
  | 0 => ([], s)
  | n + 1 =>
    let (w, s) := bus.get a s
    let (ws, s) := getWords bus n (a + 4) s
    (w :: ws, s)

/-- Bytes from an internal address (R16, R386): of a register block whole words, and zeros for what is no word. -/
def getBytes (bus : RegBus) (a n : Nat) (s : State) : List Byte × State :=
  match regionAt a with
  | .reg _ _ =>
    let (ws, s) := getWords bus (if a % 4 = 0 then n / 4 else 0) a s
    ((bytesOf ws ++ List.replicate n 0).take n, burstTail bus a n s)
  | _ => (readBytes s a n, s)

/-- The ring packet a descriptor's bytes form: the first 16 bytes are the header slot (R386). -/
def packetOf (bs : List Byte) : Packet :=
  let ws := wordsOf (bs.length / 4) bs
  { owner := 81, isOpen := false,
    h0 := fldAt (bs.length / 16 - 1) 11 0 ||| fldAt (fld (ws.getD 0 0) 23 16) 23 16,
    h1 := ws.getD 1 0, h2 := ws.getD 2 0, h3 := ws.getD 3 0, body := ws.drop 4, excess := false, marked := false, reader := none }

/-- The n bytes that a descriptor's source gives from an offset on (R386, R387): `host` is what a host source gives. -/
def sourceBytes (bus : RegBus) (d : Desc) (off n : Nat) (host : List Byte) (s : State) : List Byte × State :=
  if descSspace d = 0 then getBytes bus (d.src + off) n s else (host.take n, s)

/-- The next n bytes of the current descriptor move (R387). -/
def moveBytes (bus : RegBus) (k : ChanIx) (n : Nat) (host : List Byte) (s : State) : State :=
  let c := s.dma.chan[k]
  let d := descAt s c.cur
  let n := min n c.resid
  let off := descLength d - c.resid
  let (bs, s) := sourceBytes bus d off n host s
  let s := setChan k { s.dma.chan[k] with resid := c.resid - n } s
  if descDspace d = 0 then putBytes bus (d.dst + off) (swapBytes (descSwap d) bs) s else s

/-- Internal ends that no row of the map covers, and buffer DRAM windows of a failed channel: a bus error (R394, R482). -/
def endsBad (s : State) (d : Desc) : Bool :=
  let out (sp a : Nat) (wr : Bool) : Bool := decide (sp = 0) &&
    (rldDown s a || (match regionAt a with
      | .unmapped => true
      | .samples _ | .rom => wr
      | _ => false))
  out (descSspace d) d.src false || out (descDspace d) d.dst true

/-- A burst that ends in an error stops the channel with code 3, the interrupt and bus_err (R394). -/
def burstError (n : ChanIx) (s : State) : State :=
  match s.dma.chan[n].state with
  | .running | .waiting => dmaEvent 0 (chanStop n 3 s)
  | _ => s

/-- A second home of acknowledged data stands beside a channel (R40, R432). -/
def mirrorHolds (f : Flt) (chan : Fin 2) : Bool := !f.rldFailed.getLsbD (1 - chan.val) || f.mirror

/-- The completion timeout of a host port that a descriptor uses is that port's event as well (R414). -/
def timeoutEvents (n : ChanIx) (s : State) : State :=
  let one (p : Nat) (t : State) : State := if usesPort s n p then hifEvent (8 * p + 5) t else t
  one 1 (one 0 s)

/-- A burst with an error of a kind (R394, R431): an RLD word that the mirror copy holds is read there again, and the channel goes on. -/
def burstFails (n : ChanIx) (cause : BurstCause) (s : State) : State :=
  match s.dma.chan[n].state with
  | .running | .waiting =>
    (match cause with
     | .rld chan mirrored => if mirrored ∧ mirrorHolds s.flt chan then rldBurst chan s else burstError n (rldBurst chan s)
     | .timeout => burstError n (timeoutEvents n s)
     | .sram | .completer => burstError n s)
  | _ => s

/-- DMA_BURST_ERROR (R394). -/
def execDmaBurstError (n : ChanIx) (cause : BurstCause) (s : State) : Host.Outcome State Fault Refusal := actWindow s (burstFails n cause)

/-- A descriptor completes (R389): status word, DONE, the completion event, the interrupt where irq asks for it, the link read. -/
def chanComplete (n : ChanIx) (resid : Nat) (s : State) : State :=
  let c := s.dma.chan[n]
  let d := descAt s c.cur
  let s := writeLE s (c.cur + 28) 4 (2 ^ 31 + resid)
  let s := setChan n { c with resid := resid, code := 0, done := (c.done + 1) % 2 ^ 32 } s
  let s := dmaFire n.val s
  let s := if bitOf d.w0 30 then dmaIrqW raise n s else s
  linkRead n false s

/-- Requests counted while a request-paced channel could not serve them are served in order once a descriptor waits (R388, R395): a burst
each, with the host's bytes that are left; n bounds their number. -/
def servePending (bus : RegBus) (n : Nat) (k : ChanIx) (host : List Byte) (s : State) : List Byte × State :=
  match n with
  | 0 => (host, s)
  | n + 1 =>
    let c := s.dma.chan[k]
    let d := descAt s c.cur
    let burst := 64 * 2 ^ fld (chanCfg s k) 5 4
    if chanPace s k = 1 ∧ c.state = .waiting ∧ 0 < c.pend ∧ 0 < c.resid ∧ descSspace d ≠ 3 ∧ descDspace d ≠ 3 ∧ endsBad s d = false then
      servePending bus n k (host.drop (min burst c.resid)) (moveBytes bus k burst host (setChan k { c with pend := c.pend - 1 } s))
    else (host, s)

/-- A packet that a descriptor's bytes form is placed in its ring. -/
def ringPut (r : Nat) (p : Packet) (s : State) : State :=
  retryStalls (ringUpdate r { ringAt s r with packets := (ringAt s r).packets ++ [p] } s)

/-- The last burst of the current descriptor is issued and the barrier met (R386, R389): in request mode its bursts have moved the
data; a ring source gives one packet, and a ring destination takes one, when they can. -/
def descComplete (bus : RegBus) (n : ChanIx) (host : List Byte) (s : State) : State :=
  let (host, s) := servePending bus 15 n host s
  let c := s.dma.chan[n]
  let d := descAt s c.cur
  let ready := decide (c.state = .running) || (decide (chanPace s n = 1) && decide (c.state = .waiting) && decide (c.resid = 0))
  if ready = false then s
  else if endsBad s d then burstError n s
  else if descSspace d = 3 then
    let x := ringAt s d.src
    match x.packets with
    | [] => s
    | k :: _ =>
      if k.isOpen ∨ k.reader.isSome then s
      else if descLength d < 16 * packetSlots k then dmaEvent 1 (chanStop n 4 s)
      else
        let bs := bytesOf (k.h0 :: k.h1 :: k.h2 :: k.h3 :: k.body)
        let out := swapBytes (descSwap d) bs
        if descDspace d = 3 ∧ postFits (ringAt s d.dst) (packetOf out).body = false then s
        else
          match hqmTake d.src s with
          | some (_, t) =>
            let t := if descDspace d = 0 then putBytes bus d.dst out t else if descDspace d = 3 then ringPut d.dst (packetOf out) t else t
            chanComplete n (descLength d - 16 * packetSlots k) t
          | none => s
  else if descDspace d = 3 then
    let (bs, s) := sourceBytes bus d 0 (descLength d) host s
    let p := packetOf (swapBytes (descSwap d) bs)
    if postFits (ringAt s d.dst) p.body then chanComplete n 0 (ringPut d.dst p s) else s
  else chanComplete n 0 (moveBytes bus n c.resid host s)

/-- A request on a line makes each request-paced channel of that line issue one burst, or is counted up to 15, or lost (R388). -/
def chanRequest (bus : RegBus) (n : ChanIx) (host : List Byte) (s : State) : State :=
  let (host, s) := servePending bus 15 n host s
  let c := s.dma.chan[n]
  match c.state with
  | .idle => s
  | .waiting =>
    let d := descAt s c.cur
    if endsBad s d then burstError n s
    else if descSspace d = 3 ∨ descDspace d = 3 then setChan n { c with resid := 0 } s
    else
      let burst := 64 * 2 ^ fld (chanCfg s n) 5 4
      if c.resid = 0 then (if c.pend < 15 then setChan n { c with pend := c.pend + 1 } s else dmaEvent 6 s)
      else moveBytes bus n burst host s
  | _ => if c.pend < 15 then setChan n { c with pend := c.pend + 1 } s else dmaEvent 6 s

/-- A request on a line reaches every channel that it paces (R388). -/
def dmaRequest (bus : RegBus) (line : Nat) (host : List Byte) (s : State) : State :=
  (List.finRange 64).foldl (fun t n => if chanPace t n = 1 ∧ chanSel t n = line then chanRequest bus n host t else t) s

/-- DMA_EVENT_TRIGGER (R388): an occurrence of event e, such as an index mark of the active yarn head (104). -/
def execDmaEventTrigger (e : Fin 256) (s : State) : Host.Outcome State Fault Refusal := act s (dmaFire e.val)

/-- A running timer's period elapses (R388). -/
def timerExpiry (t : Fin 8) (s : State) : State := if bitOf (dmaReg s.dma (0x20 + 4 * t.val)) 31 then dmaFire (64 + t.val) s else s

/-- DMA_TIMER_EXPIRY (R388). -/
def execDmaTimerExpiry (t : Fin 8) (s : State) : Host.Outcome State Fault Refusal := act s (timerExpiry t)

/-- A write of one channel's register. -/
def chanWrite (n : ChanIx) (off : Nat) (w : Word) (s : State) : State :=
  let o := (off - 0x1000) % 64
  let busy := decide (s.dma.chan[n].state ≠ .idle ∧ s.dma.chan[n].state ≠ .stopped)
  if o = 0 then chanCtlWrite n w s
  else if o = 0x20 then dmaExtend n s
  else if (o = 4 ∨ o = 8 ∨ o = 12) ∧ busy then dmaCfgErr s
  else if o = 4 ∧ (fld w 5 4 = 3 ∨ fld w 1 0 = 3) then dmaCfgErr s
  else { s with dma := { s.dma with regs := regWrite dmaRows s.dma.regs false off w } }

/-- A write to a register of the DMA block (R393, R395, R411). -/
def dmaWrite (off : Nat) (w : Word) (s : State) : State :=
  if h : 0x1000 ≤ off ∧ (off - 0x1000) / 64 < 64 then chanWrite ⟨(off - 0x1000) / 64, h.2⟩ off w s
  else if off = 0 then dmaCtlWrite w s
  else if off = 0x10 then { s with dma := { s.dma with irq := s.dma.irq &&& ~~~ BitVec.ofNat 64 w.toNat } }
  else if off = 0x14 then { s with dma := { s.dma with irq := s.dma.irq &&& ~~~ BitVec.ofNat 64 (w.toNat * 2 ^ 32) } }
  else { s with dma := { s.dma with regs := regWrite dmaRows s.dma.regs false off w } }

/-- At a warm reset every channel aborts with code 1 and becomes idle; the counts are lost (R396). -/
def dmaWarmReset (s : State) : State :=
  let s := (List.finRange 64).foldl (fun t n => dmaAbort n t) s
  { s with dma := { s.dma with chan := s.dma.chan.map fun c => { c with state := .idle, pend := 0, flag := false }, affected := 0 } }

end Sys2Proof.Machine
end

