-- ==== Sys2Proof/Machine/HostCtl.lean ====
section
/-!
DEFINITION. The meanings of the port and controller commands: links, PERST, resets, roles, departures, fetch hold, rings, front ends
(chapter "Host Link", R309, R311, R366, R367, R433, R453, R486, R494).
-/
namespace Sys2Proof.Machine
open Sys2Proof

/-- Two x2 ports (R50, R326). -/
def dualPort (s : State) : Bool := bitOf s.sys.strap 1

/-- A port that the strap uses. -/
def portUsed (s : State) (c : CtlIx) : Bool := decide (c.val = 0) || dualPort s

/-- The other controller. -/
def peer (c : CtlIx) : CtlIx := if c = 0 then 1 else 0

/-- The activation hold is in force (R369). -/
def activationHold (s : State) : Bool := (s.host.fw.activation.map fun a => a.holding).getD false

/-! ### Firmware activation at a reset (R353, R367, R368, R369) -/

/-- The switch to an image: the active slot, the floor, a condition record, and the swap of every lane's Row image at its next operation
boundary, or at its next wake where it is in RETAIN (R242, R353, R369, R439, R472). -/
def fwSwitch (i : Fin 2) (s : State) : State :=
  let v := s.host.fw.slot[i]
  let f := s.host.fw
  let one (l : Lane) : Lane := { l with row := { l.row with swapPend := true } }
  let gated : BitVec 5 := (List.range 5).foldl (fun m l =>
    if s.pwr.dom.toList.getD (12 + l) .on = .retain then setBit m l else m) s.pwr.swapOnWake
  stcCond 0x80 (i.val + 1) (BitVec.ofNat 32 v.version) { s with
    host := { s.host with fw := { f with active := i, floor := if v.raises then max f.floor v.version else f.floor } }
    lane := s.lane.map one
    pwr := { s.pwr with swapOnWake := gated } }

/-- An image committed for the next reset is activated by it, or the old one resumes (R368, R369). -/
def fwAtReset (s : State) : State :=
  match s.host.fw.atReset with
  | none => s
  | some i =>
    let s := { s with host := { s.host with fw := { s.host.fw with atReset := none } } }
    let v := s.host.fw.slot[i]
    if v.valid = false then s
    else if v.starts then fwSwitch i s
    else historyNote 6 (i.val + 1) 0 s

/-! ### What becomes of a controller's commands (R335, R336, R366) -/

/-- A command leaves the list of those in flight. -/
def flightGone (fseq : Nat) (t : State) : State :=
  { t with hif := { t.hif with flight := t.hif.flight.filter fun g => decide (g.fseq ≠ fseq) } }

/-- One command in flight of a partner that is gone: a waiting write's blocks are held and count as acknowledged, a Write Zeroes that has not
run will run unanswered, every other one never happened. -/
def abandonFlight (f : InFlight) (s : State) : State :=
  if f.phase = .waiting then
    (match nsGet s f.io.ns with
     | some v =>
       flightGone f.fseq (ackBlocks (ioKeys v f.io) s)
     | none => flightGone f.fseq s)
  else if f.io.kind = .writeZeroes then
    setFlight { f with ctl := 3 } s
  else flightGone f.fseq (unlock f.fseq s)

/-- A self-test that runs is aborted (R335, R371, R382). -/
def abortTest (s : State) : State :=
  match s.host.test with
  | some t => vendorEvent 0xC4 { s with host := { s.host with test := none, tests := ({ t with result := 1 } :: s.host.tests).take 20 } }
  | none => s

/-- An open Opal session is closed and its transaction rolled back (R335). -/
def closeSession (s : State) : State :=
  { s with host := { s.host with opal := opalRollback s.host.opal } }

/-- The fates of controller c's commands (R335, R366): no completion is posted for any of them. -/
def abandonCommands (c : CtlIx) (s : State) : State :=
  let mine := s.hif.fetched.filter fun f => decide (f.ctl = c.val)
  let s := mine.foldl (fun t f => unlock f.fseq t) { s with hif := { s.hif with
    fetched := s.hif.fetched.filter fun f => decide (f.ctl ≠ c.val)
    flushes := s.hif.flushes.filter fun f => decide (f.ctl ≠ c.val) } }
  let s := (s.hif.flight.filter fun f => decide (f.ctl = c.val)).foldl (fun t f => abandonFlight f t) s
  let s := closeSession (abortTest s)
  let started (w : EraseWait) : Bool := match w.work with
    | .deleteNs _ => decide (w.ctl ≠ c.val)
    | _ => true
  let s := (s.host.eraseWait.filter fun w => !started w).foldl (fun t w => unlock w.fseq t) s
  let f := s.host.fw
  let act_ := f.activation.map fun a => if a.ctl = c.val then { a with ctl := 3 } else a
  let cur : StcCursor := { group := s.stc.host[c].group, cur := 0, window := 0 }
  { s with
    host := { s.host with
      fw := { f with activation := act_ }
      pmWait := s.host.pmWait.map fun w => if w.1 = c.val then (3, w.2) else w
      clearWait := s.host.clearWait.filter fun w => decide (w.1 ≠ c.val)
      jrnlWait := s.host.jrnlWait.filter fun w => decide (w.1 ≠ c.val)
      eraseWait := (s.host.eraseWait.filter started).map fun w => if w.ctl = c.val then { w with ctl := 3 } else w }
    stc := { s.stc with host := s.stc.host.set c cur } }

/-- The controller itself is reset (R366): queues gone, not ready, requests gone, its transfers stopped (R386). -/
def resetController (c : CtlIx) (s : State) : State :=
  portChannelsStop c.val (setCtl c { s.hif.ctl[c] with en := false, rdy := false, sqs := [], cqs := [], aers := [], events := [] } s)

/-! ### Roles (R330 to R337) -/

/-- A controller takes a role; every change is told to each enabled controller (R332, R382). -/
def takeRole (c : CtlIx) (r : CtlRole) (s : State) : State :=
  let v := s.hif.ctl[c]
  if v.role = r then s
  else vendorEvent 0xC0 (setCtl c { v with role := r, waiting := none, changes := (v.changes + 1) % 256 } s)

/-- A role that takes effect, or waits for the activation hold to end (R332). -/
def giveRole (c : CtlIx) (r : CtlRole) (s : State) : State :=
  if activationHold s then setCtl c { s.hif.ctl[c] with waiting := some r } s else takeRole c r s

/-- The controller holds the attachment: attached, about to be, or in its rejoin window (R330, R332, R334). -/
def holdsAttachment (v : Ctl) : Bool := decide (v.role = .attached) || decide (v.waiting = some .attached) || v.rejoin

/-- A standby controller whose auto bit is 1 takes over (R332). -/
def autoAttach (c : CtlIx) (s : State) : State :=
  let v := s.hif.ctl[c]
  if v.role = .standby ∧ v.auto ∧ s.sys.plActive = false then giveRole c .attached s else s

/-- The attached partner of controller c departs (R334, R335): forced, or because it is gone. -/
def depart (c : CtlIx) (forced : Bool) (s : State) : State :=
  if holdsAttachment s.hif.ctl[c] = false then s
  else
    let s := abandonCommands c s
    let s := setCtl c { s.hif.ctl[c] with rejoin := false, waiting := none } s
    let s := takeRole c (if s.hif.ctl[c].en ∧ s.hif.ctl[c].linkUp ∧ s.hif.ctl[c].shst ≠ 2 then .standby else .none) s
    if forced then s else autoAttach (peer c) s

/-- A port's function is reset (R334): its partner departs, and its controller is as after CC.EN = 0. -/
def functionReset (c : CtlIx) (s : State) : State :=
  let s := resetController c (abandonCommands c s)
  let s := if holdsAttachment s.hif.ctl[c] then depart c false s else takeRole c .none s
  fwAtReset s

/-! ### Links (R326, R329, R334, R433, R453, R494) -/

/-- The power domain of a port. -/
def setPortDom (c : CtlIx) (d : DomState) (s : State) : State :=
  { s with pwr := { s.pwr with dom := s.pwr.dom.set (6 + c.val) d } }

/-- Bit b of a port's events (R486). -/
def portEvent (c : CtlIx) (b : Nat) (s : State) : State := hifEvent (8 * c.val + b) s

/-- A port command acts while its port is used and no power-loss sequence runs (R337). -/
def onPort (c : CtlIx) (f : State → State) (s : State) : State :=
  if portUsed s c ∧ s.sys.plActive = false ∧ s.sys.phase ≠ .dark then f s else s

/-- The link of a port is gone. -/
def linkGone (c : CtlIx) (s : State) : State :=
  setPortDom c .on (setCtl c { s.hif.ctl[c] with linkUp := false, width := 0, rate := 0, l12 := false } s)

/-- DL_Down (R334). -/
def linkDown (c : CtlIx) (s : State) : State :=
  if s.hif.ctl[c].linkUp then functionReset c (portEvent c 0 (linkGone c s)) else s

/-- LINK_DOWN (R334). -/
def execLinkDown (c : CtlIx) (s : State) : Host.Outcome State Fault Refusal := act s (onPort c (linkDown c))

/-- PERSTn_N is asserted (R334, R494): the port is reset; during the power-loss sequence it is only noted (R337). -/
def perstAssert (c : CtlIx) (s : State) : State :=
  if portUsed s c = false ∨ s.hif.ctl[c].perst then s
  else
    let s := setCtl c { s.hif.ctl[c] with perst := true } s
    if s.sys.plActive ∨ s.sys.phase = .dark then s
    else functionReset c (portEvent c 3 (linkGone c s))

/-- PERST_ASSERT (R334). -/
def execPerstAssert (c : CtlIx) (s : State) : Host.Outcome State Fault Refusal := act s (perstAssert c)

/-- PERST_DEASSERT (R494). -/
def execPerstDeassert (c : CtlIx) (s : State) : Host.Outcome State Fault Refusal :=
  act s fun s => if portUsed s c then setCtl c { s.hif.ctl[c] with perst := false } s else s

/-- A port's link has trained (R326): widths x4, x2, x1 in x4 mode, x2 and x1 in dual-port mode, at Gen1 to Gen5. -/
def linkTrained (c : CtlIx) (width rate : Nat) (s : State) : State :=
  let v := s.hif.ctl[c]
  let wide := if dualPort s then 2 else 4
  if v.linkUp ∨ v.perst ∨ (width ≠ 1 ∧ width ≠ 2 ∧ width ≠ 4) ∨ wide < width ∨ rate = 0 ∨ 5 < rate then s
  else setPortDom c .on (setCtl c { v with linkUp := true, width := width, rate := rate } s)

/-- LINK_UP (R326). -/
def execLinkUp (c : CtlIx) (width rate : Nat) (s : State) : Host.Outcome State Fault Refusal := act s (onPort c (linkTrained c width rate))

/-- FUNCTION_RESET (R334): a hot reset or Function Level Reset. -/
def execFunctionReset (c : CtlIx) (s : State) : Host.Outcome State Fault Refusal :=
  act s (onPort c fun s => if s.hif.ctl[c].linkUp then functionReset c (portEvent c 4 s) else s)

/-- L1_2_ENTRY (R329, R453): the port domain goes to RETAIN. -/
def execL12Entry (c : CtlIx) (s : State) : Host.Outcome State Fault Refusal :=
  act s (onPort c fun s =>
    if s.hif.ctl[c].linkUp then setPortDom c .retain (setCtl c { s.hif.ctl[c] with l12 := true } s) else s)

/-- A port leaves L1.2 (R329, R453). -/
def l12Exit (c : CtlIx) (s : State) : State :=
  if s.hif.ctl[c].l12 then setPortDom c .on (setCtl c { s.hif.ctl[c] with l12 := false } s) else s

/-- L1_2_EXIT (R329): the Mionar asserts CLKREQn_N. -/
def execL12Exit (c : CtlIx) (s : State) : Host.Outcome State Fault Refusal := act s (onPort c (l12Exit c))
/-- L1_2_HOST_EXIT (R453): the host side leaves L1.2. -/
def execL12HostExit (c : CtlIx) (s : State) : Host.Outcome State Fault Refusal := act s (onPort c (l12Exit c))

/-- A SerDes lane is removed by a width change (R433): x4 to x2, or x2 to x1. -/
def widthReduce (c : CtlIx) (s : State) : State :=
  let v := s.hif.ctl[c]
  if v.linkUp ∧ 2 ≤ v.width then portEvent c 7 (setCtl c { v with width := v.width / 2 } s) else s

/-- LINK_WIDTH_REDUCE (R433). -/
def execLinkWidthReduce (c : CtlIx) (s : State) : Host.Outcome State Fault Refusal := act s (onPort c (widthReduce c))

/-! ### Controllers (R309, R330, R338, R366, R367) -/

/-- The entry sizes that CC must hold (R338). -/
def entrySizesOk (iosqes iocqes : Fin 16) : Bool := decide (iosqes.val = 6 ∧ iocqes.val = 4)

/-- CC.EN goes to 1 (R309, R330, R338): wrong entry sizes leave it not ready; a controller attaches while no attachment is held. -/
def ccEnSet (c : CtlIx) (iosqes iocqes : Fin 16) (s : State) : State :=
  let v := s.hif.ctl[c]
  let sizesOk := entrySizesOk iosqes iocqes
  if v.en ∨ v.linkUp = false ∨ s.sys.phase = .post then s
  else
    let s := setCtl c { v with en := true, rdy := sizesOk, shst := 0 } s
    if sizesOk = false then s
    else
      let mine := v.rejoin
      let s := setCtl c { s.hif.ctl[c] with rejoin := false } s
      giveRole c (if mine ∨ holdsAttachment s.hif.ctl[peer c] = false then .attached else .standby) s

/-- CC_EN_SET (R330). -/
def execCcEnSet (c : CtlIx) (iosqes iocqes : Fin 16) (s : State) : Host.Outcome State Fault Refusal :=
  act s (onPort c (ccEnSet c iosqes iocqes))

/-- CC.EN goes to 0 (R334, R366): the rejoin window of an attached controller opens. -/
def ccEnClear (c : CtlIx) (s : State) : State :=
  let v := s.hif.ctl[c]
  if v.en = false then s
  else
    let attached := decide (v.role = .attached) || decide (v.waiting = some .attached)
    let s := resetController c (abandonCommands c s)
    let s := setCtl c { s.hif.ctl[c] with rejoin := attached, waiting := none } s
    fwAtReset (takeRole c .none s)

/-- CC_EN_CLEAR (R366). -/
def execCcEnClear (c : CtlIx) (s : State) : Host.Outcome State Fault Refusal := act s (onPort c (ccEnClear c))

/-- CC.EN has been 0 for 2 s (R334). -/
def rejoinExpiry (c : CtlIx) (s : State) : State := if s.hif.ctl[c].rejoin then depart c false s else s

/-- REJOIN_WINDOW_EXPIRY (R334). -/
def execRejoinWindowExpiry (c : CtlIx) (s : State) : Host.Outcome State Fault Refusal := act s (onPort c (rejoinExpiry c))

/-- A write of HIF_VSEC_CTL on controller c's function (R332, R333). -/
def vsecWrite (c : CtlIx) (w : Word) (s : State) : State :=
  let s := setCtl c { s.hif.ctl[c] with force := bitOf w 1, auto := bitOf w 2 } s
  if bitOf w 0 = false ∨ dualPort s = false ∨ s.hif.ctl[c].role ≠ .standby then s
  else
    let o := peer c
    if holdsAttachment s.hif.ctl[o] ∧ bitOf w 1 = false then setCtl c { s.hif.ctl[c] with attach := 2 } s
    else if activationHold s then setCtl c { s.hif.ctl[c] with attach := 3, waiting := some .attached } s
    else
      let s := depart o true s
      let s := takeRole c .attached s
      setCtl c { s.hif.ctl[c] with attach := 1 } s

/-- ATTACH_REQUEST (R332). -/
def execAttachRequest (c : CtlIx) (w : Word) (s : State) : Host.Outcome State Fault Refusal := act s (onPort c (vsecWrite c w))

/-- A cause of departure stands (R334). -/
def departCause (v : Ctl) : Bool := !v.linkUp || v.perst || decide (v.shst = 2) || (!v.en && !v.rejoin)

/-- PARTNER_DEPART (R334, R335). -/
def execPartnerDepart (c : CtlIx) (s : State) : Host.Outcome State Fault Refusal :=
  act s (onPort c fun s => if departCause s.hif.ctl[c] then depart c false s else s)

/-- A role change that waited takes effect once the activation hold has ended (R332); an attachment takes the peer's away. -/
def roleChange (c : CtlIx) (s : State) : State :=
  let v := s.hif.ctl[c]
  match v.waiting with
  | none => s
  | some r =>
    if activationHold s ∨ v.en = false then s
    else
      let s := if r = .attached ∧ holdsAttachment s.hif.ctl[peer c] then depart (peer c) true s else s
      let s := takeRole c r s
      if v.attach = 3 then setCtl c { s.hif.ctl[c] with attach := 1 } s else s

/-- ROLE_CHANGE (R332). -/
def execRoleChange (c : CtlIx) (s : State) : Host.Outcome State Fault Refusal := act s (onPort c (roleChange c))

/-- An NVM subsystem reset (R367). -/
def subsystemReset (s : State) : State :=
  let one (c : CtlIx) (t : State) : State :=
    let up := t.hif.ctl[c].linkUp
    let t := resetController c (abandonCommands c t)
    let t := takeRole c .none t
    let t := setCtl c { t.hif.ctl[c] with rejoin := false, waiting := none, nssro := true } (linkGone c t)
    if up then portEvent c 0 t else t
  fwAtReset (one 1 (one 0 s))

/-- NSSR (R367): a write of 0x4E56_4D65; any other value does nothing. -/
def execNssr (c : CtlIx) (w : Word) (s : State) : Host.Outcome State Fault Refusal :=
  act s (onPort c fun s => if w = 0x4E564D65#32 ∧ s.hif.ctl[c].linkUp then subsystemReset s else s)

/-! ### HIF registers (R433, R486) -/

/-- A write to HIF_CTL: the end of a hold lets what waited go on. -/
def hifCtlWrite (w : Word) (s : State) : State := { s with hif := { s.hif with regs := regWrite hifRows s.hif.regs false 0 w } }

/-- HIF_FETCH_HOLD (R486). -/
def execHifFetchHold (w : Word) (s : State) : Host.Outcome State Fault Refusal := act s (hifCtlWrite w)

/-- A write to a ring register is refused (R486; log entry 67): a controller's ring_en is 1, or a ring that does not exist is named. -/
def ringBad (s : State) (w : Word) : Bool :=
  bitOf (hifReg s.hif 0) 1 || bitOf (hifReg s.hif 0) 2 || decide (15360 ≤ fld w 13 0 ∨ 15360 ≤ fld w 29 16)

/-- A write to a register of the HIF block (R486). -/
def hifWrite (off : Nat) (w : Word) (s : State) : State :=
  let put : State := { s with hif := { s.hif with regs := regWrite hifRows s.hif.regs false off w } }
  if off = 0 then hifCtlWrite w s
  else if off = 0x0C then
    (if s.hif.feFailed.getLsbD (if bitOf w 0 then 1 else 0) ∨ s.hif.feFailed.getLsbD (if bitOf w 1 then 1 else 0) then raise 168 s else put)
  else if off = 0x18 ∨ off = 0x1C then (if ringBad s w then raise 168 s else put)
  else if (rowAt hifRows off).isSome then put
  else s

/-- HIF_RING_CONFIG (R486): a write to HIF_FE_MAP, HIF_CMD_RING or HIF_CPL_RING, numbered 0 to 2. -/
def execHifRingConfig (r : Fin 3) (w : Word) (s : State) : Host.Outcome State Fault Refusal :=
  act s (hifWrite (if r = 0 then 0x0C else if r = 1 then 0x18 else 0x1C) w)

/-- A front-end instance fails (R433): its controllers move to the other one. -/
def feFail (i : Fin 2) (s : State) : State :=
  if s.hif.feFailed.getLsbD i.val then s
  else
    let m := hifReg s.hif 0x0C
    let served (c : CtlIx) : Bool := decide ((if bitOf m c.val then 1 else 0) = i.val) && portUsed s c
    let o : Bool := decide (i.val = 0)
    let m' := (List.range 2).foldl (fun (x : Word) c => if (if bitOf m c then 1 else 0) = i.val then putBit x c o else x) m
    let other := s.hif.feFailed.getLsbD (1 - i.val)
    let s0 := { s with hif := { s.hif with
      feFailed := setBit s.hif.feFailed i.val
      regs := if other then s.hif.regs else regSet hifRows s.hif.regs 0x0C m' } }
    (List.finRange 2).foldl (fun t c => if served c then portEvent c 6 t else t) s0

/-- FE_INSTANCE_FAIL (R433). -/
def execFeInstanceFail (i : Fin 2) (s : State) : Host.Outcome State Fault Refusal := act s (feFail i)

end Sys2Proof.Machine
end

