-- ==== Sys2Proof/Machine/Hqm.lean ====
section
/-!
DEFINITION. The meanings of the queue and capture-port commands (R399 to R413).
-/
namespace Sys2Proof.Machine
open Sys2Proof

/-- The requester waits on a stalled access (R403): its next access is not made before that one completes. -/
def isStalled (s : State) (n : Nat) : Bool := s.hqm.stalls.any fun w => decide (w.1 = n)

/-- An access that may stall: made now if it can, else stalled in order (R403). -/
def tryAccess (w : Nat × Nat × Stalled) (s : State) : State :=
  match serveStall w s with
  | some u => retryStalls u
  | none => { s with hqm := { s.hqm with stalls := s.hqm.stalls ++ [w] } }

/-! ### Ring commands (R399, R404, R412) -/

/-- The ring HQM_RSEL names. -/
def selRing (s : State) : Nat := fld (hqmReg s.hqm 0x10) 13 0

/-- Enable (R399). -/
def ringEnable (s : State) : State := setRing (selRing s) { ringAt s (selRing s) with enabled := true } s

/-- Disable: refused while the ring holds packets (R399). -/
def ringDisable (s : State) : State :=
  let x := ringAt s (selRing s)
  if x.packets ≠ [] then hqmEvent 0 s else setRing (selRing s) { x with enabled := false, pacing := false } s

/-- FLUSH_PKT (R404). -/
def flushPkt (s : State) : State := ringFlush (selRing s) s

/-- FLUSH_NOW (R404): every packet goes in the same cycle; producers lose theirs, a reader reads 0 from then on. -/
def flushNow (s : State) : State :=
  let r := selRing s
  let x := ringAt s r
  let ports := s.hqm.ports.map fun p => (p.1, { p.2 with
    lost := p.2.lost || decide (p.2.openIn = some r)
    flushed := p.2.flushed || decide (p.2.reading = some r)
    reading := if p.2.reading = some r then none else p.2.reading })
  retryStalls (ringUpdate r { x with packets := [] } { s with hqm := { s.hqm with ports := ports } })

/-- A write to HQM_RCMD (R404, R412): FLUSH_NOW acts where both flushes are asked for. -/
def rcmdWrite (w : Word) (s : State) : State :=
  let s := if bitOf w 0 then ringEnable s else s
  let s := if bitOf w 3 then flushNow s else if bitOf w 2 then flushPkt s else s
  if bitOf w 1 then ringDisable s else s

/-- HQM_RING_ENABLE (R399): a write of HQM_RCMD with enable at 1. -/
def execHqmRingEnable (w : Word) (s : State) : Host.Outcome State Fault Refusal := act s (rcmdWrite (w ||| 1#32))
/-- HQM_RING_DISABLE (R399). -/
def execHqmRingDisable (w : Word) (s : State) : Host.Outcome State Fault Refusal := act s (rcmdWrite (w ||| 2#32))
/-- FLUSH_PKT (R404). -/
def execFlushPkt (w : Word) (s : State) : Host.Outcome State Fault Refusal := act s (rcmdWrite (w ||| 4#32))
/-- FLUSH_NOW (R404). -/
def execFlushNow (w : Word) (s : State) : Host.Outcome State Fault Refusal := act s (rcmdWrite (w ||| 8#32))

/-- Size and storage change only while the ring is disabled and empty (R399); k lies from 4 to 16; the hook bit is fixed. -/
def rcfgWrite (w : Word) (s : State) : State :=
  let r := selRing s
  let x := ringAt s r
  let k := fld w 4 0
  if k < 4 ∨ 16 < k ∨ (k ≠ fld x.cfg 4 0 ∧ (x.enabled ∨ x.packets ≠ [])) then hqmEvent 0 s
  else setRing r { x with cfg := fldAt k 4 0 ||| fldAt (fld w 13 8) 13 8 } s

/-- Watermarks: low < high ≤ size - 1 (R406). -/
def rwmWrite (w : Word) (s : State) : State :=
  let r := selRing s
  let x := ringAt s r
  if fld w 15 0 < fld w 31 16 ∧ fld w 31 16 ≤ ringSize x - 1 then ringUpdate r { x with wm := w } s else hqmEvent 0 s

/-- The storage address of the selected ring, low and high halves together (R17, R399). -/
def rbaseWrite (v : Nat) (s : State) : State :=
  let r := selRing s
  let x := ringAt s r
  if x.enabled ∨ x.packets ≠ [] ∨ v % 4096 ≠ 0 then hqmEvent 0 s else setRing r { x with base := v } s

/-! ### Ports (R400 to R403) -/

/-- A write to HQM_PROD_OPEN (R401, R403): one open packet per port; a full ring or a 9th open packet stalls. -/
def prodOpen (q : Requester) (s : State) : State :=
  let n := reqNum q
  let p := hqmPort s n
  let x := ringAt s p.prodRing
  if isStalled s n then s
  else if p.openIn.isSome ∨ x.enabled = false then hqmEvent 0 s
  else
    let s := if 8 ≤ openCount x then hqmEvent 7 s else s
    tryAccess (n, p.prodRing, .opening) s

/-- HQM_PROD_OPEN (R401). -/
def execHqmProdOpen (q : Requester) (s : State) : Host.Outcome State Fault Refusal := act s (prodOpen q)

/-- A write to HQM_PROD_D3 places a body slot (R401); one beyond the limit makes the packet too long. -/
def prodSlot (q : Requester) (d3 : Word) (s : State) : State :=
  let n := reqNum q
  let p := hqmPort s n
  match p.openIn with
  | none => hqmEvent 0 s
  | some r =>
    if isStalled s n ∨ p.lost then s
    else
      let x := ringAt s r
      if bodyLimit x ≤ p.written then
        setRing r { x with packets := x.packets.map fun k => if k.owner = n ∧ k.isOpen then { k with excess := true } else k } s
      else tryAccess (n, r, .slot #v[p.d[0], p.d[1], p.d[2], d3]) s

/-- HQM_PROD_SLOT (R401). -/
def execHqmProdSlot (q : Requester) (d3 : Word) (s : State) : Host.Outcome State Fault Refusal := act s (prodSlot q d3)

/-- A write to HQM_PROD_CLOSE (R401, R404): closed, flushed, too long, or a length mismatch. -/
def prodClose (q : Requester) (w : Word) (s : State) : State :=
  let n := reqNum q
  let p := hqmPort s n
  match p.openIn with
  | none => hqmEvent 0 s
  | some r =>
    if isStalled s n then s
    else
      let x := ringAt s r
      let mine := fun (k : Packet) => decide (k.owner = n) && k.isOpen
      let excess := x.packets.any fun k => mine k && k.excess
      let marked := x.packets.any fun k => mine k && k.marked
      let shut (code : Nat) (s : State) : State := setHqmPort n { p with openIn := none, lost := false, close := code } s
      let drop (s : State) : State := retryStalls (ringUpdate r { x with packets := x.packets.filter fun k => !mine k } s)
      if p.lost then shut 1 s
      else if excess then hqmEvent 2 (drop (shut 2 s))
      else if fld w 11 0 ≠ p.written then hqmEvent 3 (drop (shut 3 s))
      else if marked then drop (shut 0 s)
      else
        let h0 := fldAt (fld w 11 0) 11 0 ||| fldAt (fld w 23 16) 23 16
        let ps := x.packets.map fun k => if mine k then { k with isOpen := false, h0 := h0 ||| (k.h0 &&& 0x80000000#32) } else k
        retryStalls (ringUpdate r { x with packets := ps } (shut 0 s))

/-- HQM_PROD_CLOSE (R401). -/
def execHqmProdClose (q : Requester) (w : Word) (s : State) : Host.Outcome State Fault Refusal := act s (prodClose q w)

/-- The packet a port reads: the head of its ring. -/
def readPacket (s : State) (p : HqmPort) : Option Packet := p.reading.bind fun r => (ringAt s r).packets.head?

def setRdata (w : Word) (s : State) : State := { s with sys := { s.sys with rdata := w } }

/-- A read of HQM_CONS_H0 (R402, R403). -/
def consHeader (q : Requester) (s : State) : State :=
  let n := reqNum q
  let p := hqmPort s n
  if isStalled s n then s
  else
    match readPacket s p with
    | some k => setRdata k.h0 s
    | none =>
      if (ringAt s p.consRing).enabled = false then hqmEvent 0 (setRdata 0 s)
      else tryAccess (n, p.consRing, .header) (setHqmPort n { p with flushed := false, reading := none } s)

/-- HQM_CONS_HEADER (R403). -/
def execHqmConsHeader (q : Requester) (s : State) : Host.Outcome State Fault Refusal := act s (consHeader q)

/-- The packet a port reads is freed (R402). -/
def consFree (n : Nat) (s : State) : State :=
  let p := hqmPort s n
  match p.reading with
  | none => s
  | some r =>
    let x := ringAt s r
    let s := setHqmPort n { p with reading := none, nextSlot := 0 } s
    retryStalls (ringUpdate r { x with packets := x.packets.drop 1 } s)

/-- Word i of the next body slot a port reads (R402): 0 past the end, with cfg_err, and 0 after a flush. -/
def consWord (n i : Nat) (s : State) : Word :=
  let p := hqmPort s n
  match readPacket s p with
  | some k => k.body.getD (4 * p.nextSlot + i) 0
  | none => 0

/-- A read of HQM_CONS_D3 advances past a body slot, and frees the packet at its end (R402). -/
def consSlot (q : Requester) (s : State) : State :=
  let n := reqNum q
  let p := hqmPort s n
  let w := consWord n 3 s
  if isStalled s n then s
  else
    match readPacket s p with
    | none => if p.flushed then setRdata 0 s else hqmEvent 0 (setRdata 0 s)
    | some k =>
      if packetSlots k - 1 ≤ p.nextSlot then hqmEvent 0 (setRdata 0 s)
      else
        let s := setRdata w (setHqmPort n { p with nextSlot := p.nextSlot + 1 } s)
        if p.nextSlot + 1 = packetSlots k - 1 then consFree n s else s

/-- A read of HQM_CONS_H3: the last word of a packet without a body, whose slot is freed (R402). -/
def consHeaderEnd (q : Requester) (s : State) : State :=
  match readPacket s (hqmPort s (reqNum q)) with
  | some k => if packetSlots k = 1 ∧ isStalled s (reqNum q) = false then consFree (reqNum q) s else s
  | none => s

/-- A read of HQM_CONS_D0 to D2: past the packet's end it sets cfg_err, but not after a flush (R402, R404). -/
def consPast (q : Requester) (s : State) : State :=
  let p := hqmPort s (reqNum q)
  match readPacket s p with
  | some k => if packetSlots k - 1 ≤ p.nextSlot then hqmEvent 0 s else s
  | none => if p.flushed then s else hqmEvent 0 s

/-- HQM_CONS_SLOT (R402). -/
def execHqmConsSlot (q : Requester) (s : State) : Host.Outcome State Fault Refusal := act s (consSlot q)

/-- A write to HQM_CONS_SKIP (R402). -/
def consSkip (q : Requester) (s : State) : State := if isStalled s (reqNum q) then s else consFree (reqNum q) s

/-- HQM_CONS_SKIP (R402). -/
def execHqmConsSkip (q : Requester) (s : State) : Host.Outcome State Fault Refusal := act s (consSkip q)

/-- A core port stalled for stall_max completes the access without effect, with stall_tmo (R403). -/
def stallTimeout (c : CoreIx) (s : State) : State :=
  if fld (hqmReg s.hqm 0) 15 0 = 0 ∨ isStalled s c.val = false then s
  else
    let read := s.hqm.stalls.any fun w => decide (w.1 = c.val ∧ w.2.2 = .header)
    let s := { s with hqm := { s.hqm with stalls := s.hqm.stalls.filter fun w => decide (w.1 ≠ c.val) } }
    hqmEvent 1 (if read then setRdata 0 s else s)

/-- HQM_STALL_TIMEOUT (R403). -/
def execHqmStallTimeout (c : CoreIx) (s : State) : Host.Outcome State Fault Refusal := act s (stallTimeout c)

/-! ### The capture port (R408 to R410, R413) -/

def capReg (c : Cap) (off : Nat) : Word := regGet capRows c.regs off

/-- Bit b of CAP_EVENT and its source. -/
def capEvent (b : Nat) (s : State) : State :=
  raise (srcCap b) { s with cap := { s.cap with regs := regSet capRows s.cap.regs 0x10 (capReg s.cap 0x10 ||| bitAt true b) } }

/-- CAP_CTL.ring. -/
def capRing (s : State) : Nat := fld (capReg s.cap 0) 29 16

/-- An inbound frame becomes one packet (R409), closed when the body that its length word counts has arrived: cut short by the next CAP_FRM it
is discarded with frame_err, and one that finds the ring full is discarded with overrun. -/
def capFrameIn (f : CapFrame) (s : State) : State :=
  let c := capReg s.cap 0
  if bitOf c 0 = false ∨ bitOf c 1 = false then s
  else if f.cut ∨ f.body.length < 4 * fld f.h0 11 0 then capEvent 1 s
  else
    let r := capRing s
    let x := ringAt s r
    let body := f.body.take (4 * fld f.h0 11 0)
    if postFits x body = false ∨ bodyLimit x < fld f.h0 11 0 then capEvent 2 s
    else
      let p : Packet := { owner := 80, isOpen := false, h0 := f.h0, h1 := f.h1, h2 := f.h2, h3 := f.h3, body := body,
                          excess := false, marked := false, reader := none }
      retryStalls (ringUpdate r { x with packets := x.packets ++ [p] } s)

/-- CAP_FRAME_IN (R409). -/
def execCapFrameIn (f : CapFrame) (s : State) : Host.Outcome State Fault Refusal := act s (capFrameIn f)

/-- A record for the out ring (R410): dropped, counted and reported while pacing is set. -/
def capPut (type : Nat) (h1 h2 h3 : Word) (body : List Word) (s : State) : State :=
  let r := capRing s
  let x := ringAt s r
  if x.pacing ∨ postFits x body = false then
    capEvent 3 { s with cap := { s.cap with dropped := (s.cap.dropped + 1) % 65536 } }
  else
    let p : Packet := { owner := 80, isOpen := false, h0 := fldAt ((body.length + 3) / 4) 11 0 ||| fldAt type 23 16, h1 := h1,
                        h2 := h2, h3 := h3, body := body, excess := false, marked := false, reader := none }
    retryStalls (ringUpdate r { x with packets := x.packets ++ [p] } s)

/-- A word of a signed value. -/
def wordOf (x : Int) : Word := BitVec.ofInt 32 x

/-- One record of an enabled source (R410); a longer run of samples takes one command for every 4,095 slots. -/
def capRecord (x : CapRecord) (s : State) : State :=
  let src := capReg s.cap 8
  match x with
  | .samples l rd mark codes =>
    if bitOf src l.val then
      let q := s.cap.seq[l]
      capPut 1 (fldAt l.val 2 0 ||| fldAt rd.val 7 4) mark (BitVec.ofNat 32 q) (codes.take 16380)
        { s with cap := { s.cap with seq := s.cap.seq.set l (q + 1) } }
    else s
  | .row l revs =>
    (match s.lane[l].row.traces with
     | [] => s
     | t :: rest =>
       let v := s.lane[l]
       let s := setLane l { v with row := { v.row with traces := rest } } s
       if bitOf src 16 = false then s
       else if t.kind = 3 then
         capPut 2 (fldAt l.val 2 0 ||| fldAt t.tag 15 8 ||| fldAt t.pc 27 16) (BitVec.ofNat 32 t.mark) (BitVec.ofNat 32 t.slot) [] s
       else capPut 3 (fldAt l.val 2 0) (BitVec.ofNat 32 t.mark) revs [] s)
  | .servo e n =>
    if bitOf src (8 + e.val) then
      let v := s.srv[e]
      capPut 4 (fldAt e.val 2 0 ||| fldAt v.head 6 4) n (BitVec.ofNat 32 (match v.state with
        | .idle => 0 | .parked => 1 | .loading => 2 | .capture => 3 | .seek => 4 | .settle => 5 | .follow => 6 | .hold => 7
        | .unloading => 8 | .failed => 9)) [wordOf v.pos, wordOf v.err, wordOf v.uVcm, wordOf v.uPz] s
    else s

/-- The capture port takes a record while it is enabled in the out direction (R410). -/
def capRecordOut (x : CapRecord) (s : State) : State :=
  let c := capReg s.cap 0
  if bitOf c 0 ∧ bitOf c 1 = false then capRecord x s else s

/-- CAP_RECORD_OUT (R410). -/
def execCapRecordOut (x : CapRecord) (s : State) : Host.Outcome State Fault Refusal := act s (capRecordOut x)

/-- The port sends the frame at the head of its ring (R408, R410): what an idle step does for it (log entry 4). -/
def capSend (s : State) : State :=
  let c := capReg s.cap 0
  if bitOf c 0 ∧ bitOf c 1 = false then
    (match hqmTake (capRing s) s with
     | some (_, t) => t
     | none => s)
  else s

/-- A write to CAP_CTL (R408, R413): direction and ring change only while en is 0; a ring whose high watermark exceeds its size
less hold_free is refused. -/
def capCtlWrite (w : Word) (s : State) : State :=
  let old := capReg s.cap 0
  let x := ringAt s (fld w 29 16)
  let moves := decide (fld w 29 16 ≠ fld old 29 16 ∨ fld w 1 1 ≠ fld old 1 1)
  if (bitOf old 0 && moves) || decide (ringSize x < fld x.wm 31 16 + fld (capReg s.cap 4) 15 8) && bitOf w 0 then capEvent 0 s
  else if bitOf w 0 then
    { s with cap := { s.cap with
      regs := regWrite capRows s.cap.regs false 0 w
      hold := !bitOf w 1 } }
  else capDisable { s with cap := { s.cap with regs := regWrite capRows s.cap.regs false 0 w } }

/-- CAP_ENABLE (R408): a write of CAP_CTL. -/
def execCapEnable (w : Word) (s : State) : Host.Outcome State Fault Refusal := act s (capCtlWrite w)

/-- A write to a register of the CAP block (R413). -/
def capWrite (off : Nat) (w : Word) (s : State) : State :=
  if off = 0 then capCtlWrite w s
  else if off = 4 ∧ (bitOf (capReg s.cap 0) 0 ∨ fld w 15 8 < 4 ∨ fld w 3 0 < 1 ∨ 8 < fld w 3 0) then capEvent 0 s
  else { s with cap := { s.cap with regs := regWrite capRows s.cap.regs false off w } }

/-- CAP_XOFF (R408, R409, R410): asserted while the port is disabled or sends, and with the ring's pacing while it receives. -/
def capXoff (s : State) : Bool :=
  let c := capReg s.cap 0
  !(bitOf c 0 && bitOf c 1) || (ringAt s (capRing s)).pacing

end Sys2Proof.Machine
end

