-- ==== Sys2Proof/Machine/Recorder.lean ====
section
/-!
DEFINITION. The meanings of the Stitch Counter's commands and of the accelerometers' reading, with the ticks of the second and of the
millisecond (R135, R436 to R445; log entry 5).
-/
namespace Sys2Proof.Machine
open Sys2Proof

/-- STC_ENTRY (R436): an event's value enters its group, instance and bin. -/
def execStcEntry (g : Fin 256) (inst : Nat) (v : Int) (own : Bool) (s : State) : Host.Outcome State Fault Refusal :=
  act s (stcEntry g.val inst v own)

/-- A second of power-on time (R436 group 0x06, R177, R445): both temperatures are entered. -/
def secondTick (junction thermistor : Int) (s : State) : State :=
  let s := stcEntry 6 1 thermistor false (stcEntry 6 0 junction false s)
  tempRefresh thermistor { s with stc := { s.stc with pos := s.stc.pos + 1 } }

/-- STC_SECOND_TICK (R436). -/
def execStcSecondTick (junction thermistor : Int) (s : State) : Host.Outcome State Fault Refusal := act s (secondTick junction thermistor)

/-- Commands of a controller fetched and not completed (R436 group 0x08). -/
def queueDepth (s : State) (c : CtlIx) : Nat :=
  let h := s.hif
  let mine (x : Nat) : Bool := decide (x = c.val)
  (h.flight.filter fun f => mine f.ctl).length + (h.fetched.filter fun f => mine f.ctl).length +
    (h.flushes.filter fun f => mine f.ctl).length + h.ctl[c].aers.length + (s.host.pmWait.filter fun w => mine w.1).length +
    (s.host.clearWait.filter fun w => mine w.1).length + (s.host.jrnlWait.filter fun w => mine w.1).length +
    (s.host.eraseWait.filter fun w => mine w.ctl).length

/-- A millisecond passes (R436 group 0x08, R453; log entry 5). -/
def msTick (s : State) : State :=
  let s := stcEntry 8 1 (queueDepth s 1) false (stcEntry 8 0 (queueDepth s 0) false s)
  ps4Settle { s with sys := { s.sys with ms := s.sys.ms + 1 } }

/-- STC_MS_TICK (R436). -/
def execStcMsTick (s : State) : Host.Outcome State Fault Refusal := act s msTick

/-- A write to STC_CLR (R442, R445): groups 0x00, 0x0E, 0x0F and absent groups are ignored with cfg_err. -/
def stcClrWrite (g : Nat) (s : State) : State :=
  if g = 0xFF ∨ (1 ≤ g ∧ g ≤ 10) then stcClear g s else stcEvent 2 s

/-- STC_CLEAR (R442). -/
def execStcClear (g : Fin 256) (s : State) : Host.Outcome State Fault Refusal := act s (stcClrWrite g.val)

/-- A write to STC_COND_ADD (R439, R445): codes 0x0000 and 0xFFFF are ignored with cfg_err. -/
def stcCondAdd (s : State) : State :=
  let w := stcReg s.stc 0x18
  let code := fld w 15 0
  if code = 0 ∨ code = 0xFFFF then stcEvent 2 s else stcCond code (fld w 23 16) (stcReg s.stc 0x1C) s

/-- STC_COND_ADD (R439). -/
def execStcCondAdd (s : State) : Host.Outcome State Fault Refusal := act s stcCondAdd

/-- STC_PERSIST (R443): STC_CTL.persist, or the hourly timer. -/
def execStcPersist (s : State) : Host.Outcome State Fault Refusal := act s stcPersist

/-- A persistence write ends (R442, R443): the Recorder Clears that began before the write complete. -/
def persistDone (ok : Bool) (flashStatus : Word) (s : State) : State :=
  match s.stc.write with
  | none => s
  | some w =>
    let s := stcPersistDone ok flashStatus s
    if ok = false then s
    else
      let cs := s.host.clearWait
      (cs.filter fun x => w.covers.contains x.2).foldl (fun t x => complete x.1 x.2 .success 0 0 [] t)
        { s with host := { s.host with clearWait := cs.filter fun x => !w.covers.contains x.2 } }

/-- STC_PERSIST_DONE (R443). -/
def execStcPersistDone (ok : Bool) (flashStatus : Word) (s : State) : Host.Outcome State Fault Refusal :=
  act s (persistDone ok flashStatus)

/-- A write to STC_CTL (R445). -/
def stcCtlWrite (w : Word) (s : State) : State :=
  let s := { s with stc := { s.stc with regs := regWrite stcRows s.stc.regs false 0 w } }
  if bitOf w 0 then stcPersist s else s

/-- STC_LOCK (R445): a write of STC_CTL with lock at 1. -/
def execStcLock (w : Word) (s : State) : Host.Outcome State Fault Refusal := act s (stcCtlWrite (w ||| 0x100#32))

/-- STC_READ_SELECT (R441): a write of STC_RD_GRP with a group, or of STC_RD_REWIND. -/
def execStcReadSelect (c : CoreIx) (g : Option (Fin 256)) (s : State) : Host.Outcome State Fault Refusal :=
  act s fun s => stcRewind c ((g.map Fin.val).getD s.stc.core[c].group) s

/-- STC_WINDOW_ADVANCE (R441): a read of STC_WIN15. -/
def execStcWindowAdvance (c : CoreIx) (s : State) : Host.Outcome State Fault Refusal := act s (stcAdvance c)

/-- A write to a register of the STC block outside the read port (R445). -/
def stcWrite (off : Nat) (w : Word) (s : State) : State :=
  if off = 0 then stcCtlWrite w s
  else if off = 0x14 then stcClrWrite (fld w 7 0) s
  else if off = 0x20 then stcCondAdd s
  else { s with stc := { s.stc with regs := regWrite stcRows s.stc.regs (bitOf (stcReg s.stc 0) 8) off w } }

/-! ### Accelerometers (R135, R436) -/

/-- The largest |a| on any axis. -/
def accelPeak (r : AccelRead) : Nat := max r.tangential.natAbs (max r.radial.natAbs r.axial.natAbs)

/-- One reading against SRV_SHOCK.thr of S0: a shock event begins, goes on, or ends after 16 readings below the threshold with its entry. -/
def shockReading (i : Fin 2) (r : AccelRead) (s : State) : State :=
  let thr := fld (srvReg (s.srv.get 0) 0x54) 11 0
  let peak := accelPeak r
  let s := if thr ≤ peak then shockBegin i s else s
  match s.stc.shock[i] with
  | none => s
  | some (p, q) =>
    let p := max p peak
    let q := if thr ≤ peak then 0 else q + 1
    if 16 ≤ q then stcEntry 10 i.val p false { s with stc := { s.stc with shock := s.stc.shock.set i none } }
    else { s with stc := { s.stc with shock := s.stc.shock.set i (some (p, q)) } }

/-- SENSOR_READ (R135). -/
def execSensorRead (r0 r1 : AccelRead) (s : State) : Host.Outcome State Fault Refusal :=
  act s fun s => shockReading 1 r1 (shockReading 0 r0 { s with sns := { s.sns with accel := #v[r0, r1] } })

end Sys2Proof.Machine
end

