-- ==== Sys2Proof/Machine/Clock.lean ====
section
/-!
DEFINITION. The meanings of the clock commands: crystal loss and return, reference and cluster frequencies (R463, R464, R466).
-/
namespace Sys2Proof.Machine
open Sys2Proof

/-- The least and the greatest frequency of a clock domain in kHz (R460); none for the lane and yarn domains, which follow the disk. -/
def clockRange (k : Nat) : Option (Nat × Nat) :=
  if k ≤ 1 then some (25000, 25000)
  else if k ≤ 4 then some (400000, 1600000)
  else if k = 5 then some (1200000, 1200000)
  else if k = 6 then some (1000000, 1000000)
  else if k ≤ 8 then some (1066000, 1066000)
  else if k ≤ 10 then some (250000, 1000000)
  else if k = 11 then some (800000, 800000)
  else if 22 ≤ k ∧ k ≤ 26 then some (1000000, 1000000)
  else if 29 ≤ k ∧ k ≤ 33 then some (400000, 400000)
  else if k = 34 then some (200000, 200000)
  else if k = 35 then some (50000, 50000)
  else if k = 36 then some (100000, 100000)
  else if k = 37 then some (200000, 200000)
  else if k = 38 then some (0, 200000)
  else if k = 39 then some (0, 50000)
  else none

/-- The read-sample clock of a lane that runs at a bit rate, and its write clock: the lowest of the rate's doublings at or above 2.0 GHz
(R460); n bounds the doublings. Rates in kHz. -/
def readClock (rate : Nat) : Nat := rate / 4
def writeClock (n rate : Nat) : Nat :=
  match n with
  | 0 => rate
  | n + 1 => if 2000000 ≤ rate then rate else writeClock n (2 * rate)

/-- Bit b of CLK_EVENT is set; bits 0 to 2 drive sources 152 to 154, and cfg_err drives none (R466). -/
def clkEvent (b : Nat) (s : State) : State :=
  let s := { s with clk := { s.clk with regs := regSet clkRows s.clk.regs 8 (regGet clkRows s.clk.regs 8 ||| bitAt true b) } }
  if b < 3 then raise (152 + b) s else freshMark 642 s

/-- REFXTAL switches to the backup oscillator on a loss (R463); in POST the events wait for its end (R464). -/
def crystalLost (s : State) : State :=
  let sel := regSet clkRows s.clk.regs 0 (setFld (regGet clkRows s.clk.regs 0) 0 0 1)
  let s := { s with clk := { s.clk with running := false, onBackup := true, restored := false, regs := sel } }
  if s.sys.inReset ∨ s.sys.phase = .post then { s with clk := { s.clk with lostInPost := true } }
  else clkEvent 1 (clkEvent 0 s)

/-- CRYSTAL_LOST (R463): the monitor runs whenever VDD_CORE is valid, in reset and POST too (R464). -/
def execCrystalLost (s : State) : Host.Outcome State Fault Refusal := .next (crystalLost s)

/-- A lost crystal that ran cleanly for 10 ms within 500 ppm is restored (R464). -/
def crystalRestored (ppm : BitVec 16) (s : State) : State :=
  if s.clk.onBackup ∧ s.clk.restored = false then
    clkEvent 2 { s with clk := { s.clk with running := true, restored := true, ppm := ppm } }
  else { s with clk := { s.clk with ppm := ppm } }

/-- CRYSTAL_RESTORED (R464). -/
def execCrystalRestored (ppm : BitVec 16) (s : State) : Host.Outcome State Fault Refusal := act s (crystalRestored ppm)

/-- A write to CLK_CTL (R464, R466): 0 returns REFXTAL to a restored crystal and is ignored with cfg_err while it is not
restored; 1 takes the backup oscillator. -/
def clkCtlWrite (w : Word) (s : State) : State :=
  let set := regWrite clkRows s.clk.regs false 0 w
  if bitOf w 0 then { s with clk := { s.clk with regs := set, onBackup := true } }
  else if s.clk.onBackup = false then { s with clk := { s.clk with regs := set } }
  else if s.clk.restored ∨ s.clk.running then { s with clk := { s.clk with regs := set, onBackup := false, restored := false } }
  else clkEvent 3 s

/-- CLK_REF_SELECT (R464). -/
def execClkRefSelect (w : Word) (s : State) : Host.Outcome State Fault Refusal := act s (clkCtlWrite w)

/-- A cluster frequency the spec allows (R466). -/
def clusterFreqOk (w : Word) : Bool :=
  let f := fld w 10 0
  decide (400 ≤ f ∧ f ≤ 1600 ∧ f % 100 = 0)

/-- A write to CLK_CLUSTERc (R466). -/
def clkClusterWrite (c : Fin 3) (w : Word) (s : State) : State :=
  if clusterFreqOk w then
    { s with clk := { s.clk with regs := regWrite clkRows s.clk.regs false (0x20 + 4 * c.val) w } }
  else clkEvent 3 s

/-- CLK_CLUSTER_FREQ (R466). -/
def execClkClusterFreq (c : Fin 3) (w : Word) (s : State) : Host.Outcome State Fault Refusal := act s (clkClusterWrite c w)

/-- A write to a register of the CLK block (R19, R466). -/
def clkWrite (off : Nat) (w : Word) (s : State) : State :=
  if off = 0 then clkCtlWrite w s
  else if off = 0x20 then clkClusterWrite 0 w s
  else if off = 0x24 then clkClusterWrite 1 w s
  else if off = 0x28 then clkClusterWrite 2 w s
  else { s with clk := { s.clk with regs := regWrite clkRows s.clk.regs false off w } }

end Sys2Proof.Machine
end

