-- ==== Sys2Proof/Machine/Reset.lean ====
section
/-!
DEFINITION. Full-device resets, rails, power loss with its refuge set, and the pins of the permit, shock and preamplifiers (R47, R48, R50 to
R54, R59 to R61, R134, R190, R316 to R323, R471, R490, R493).
-/
namespace Sys2Proof.Machine
open Sys2Proof

/-! ### What outlives a full-device reset: disks, boot flash, one-time-programmable storage (R52) -/

/-- A block's key from its namespace and LBA, and back. -/
def keyOfLba (s : State) (x : Nat × Nat) : Option Nat :=
  (nsGet s x.1).bind fun v => (lbaZone v x.2).map fun y => 65536 * y.1 + y.2
def lbaOfKey (s : State) (k : Nat) : Option (Nat × Nat) :=
  (zoneGet s (k / 65536)).bind fun z => (nsGet s z.ns).map fun v => (z.ns, zoneStride v * z.index + k % 65536)

/-- The blocks that shares of the refuge set hold on the disks. -/
def refugeKeys (s : State) : List Nat :=
  ((s.sys.shares.filter fun x => x.done).map fun x => x.blocks.filterMap (keyOfLba s)).flatten

/-- A block as the disks hold it: its newest version where it is durable or a refuge share holds it, else the durable version before it,
else nothing. -/
def blockOnDisk (held : List Nat) (b : Nat × Block) : Option (Nat × Block) :=
  if b.2.durable ∨ held.contains b.1 then some (b.1, { b.2 with acked := true })
  else b.2.prev.map fun x => (b.1, { data := x.1, app := x.2, acked := true, durable := true, logged := false, prev := none })

/-- The first offset of sequential zone n whose block the disks do not hold: the write pointer ends there (R268). -/
def zonePrefix (held : List Nat) (n wp : Nat) (bs : List (Nat × Block)) : Nat :=
  bs.foldl (fun m b =>
    if b.1 / 65536 = n ∧ (blockOnDisk held b).isNone then min m (b.1 % 65536) else m) wp

/-- A zone after an unsupplied RLD: open zones close, and a sequential zone's write pointer falls to its durable prefix (R268). -/
def zoneOnDisk (held : List Nat) (bs : List (Nat × Block)) (x : Nat × Zone) : Nat × Zone :=
  let z := x.2
  if z.conv then x
  else
    let wp := zonePrefix held x.1 z.wp bs
    let st : ZState := match z.st with
      | .implicitOpen | .explicitOpen => .closed
      | .full => if wp < z.wp then .closed else .full
      | st => st
    (x.1, { z with wp := wp, st := st })

/-- The zones and blocks of an array without what neither the disks nor the shares `held` hold. -/
def dropVolatile (held : List Nat) (a : Arr) : Arr :=
  let zones := a.zones.map (zoneOnDisk held a.blocks)
  let beyond (b : Nat × Block) : Bool := zones.any fun z => decide (z.1 = b.1 / 65536) && !z.2.conv && decide (z.2.wp ≤ b.1 % 65536)
  { a with zones := zones, blocks := (a.blocks.filterMap (blockOnDisk held)).filter fun b => !beyond b }

/-- The array as the disks, the journal and the zone map hold it; what ran is gone. -/
def arrOnDisk (s : State) : Arr :=
  { dropVolatile (refugeKeys s) s.arr with
    avail := Vector.replicate 4 .reset
    commits := []
    rowsDone := 0
    rebuildAt := []
    reshape := s.arr.reshape.map fun r => { r with copying := none }
    converting := []
    calReqs := [] }

/-- A bind-off checkpoint (R313): a CKPT entry whose oldest-live-seq field is its own seq. -/
def bindoffCkpt (e : JEntry) : Bool := decide (e.typ = 0x40) && decide (e.payload / 2 ^ 64 % 2 ^ 64 = e.seq)

/-- The journal's newest durable entry, PAD left out (log entry 81), is a bind-off checkpoint, appended while the bitmap held no set bit; with nothing appended since
the last cast-on began, what was true then (R313). -/
def stopClean (s : State) : Bool :=
  match (s.spe.live.filter fun e => seqDurable s.spe e.seq && decide (e.typ ≠ 0x7F)).getLast? with
  | some e => bindoffCkpt e && s.spe.dirty.isEmpty
  | none => s.sys.cleanStop

/-- The journal as the replicas hold it: what is durable. -/
def speOnDisk (s : State) : Spe :=
  let p := s.spe
  { Spe.reset with
    live := p.live.filter fun e => seqDurable p e.seq
    next := p.next
    ckptSeq := if seqDurable p p.ckptSeq then p.ckptSeq else 0
    dirty := p.dirty.filter fun d => seqDurable p d.seq
    rows := p.rows.filter fun o => seqDurable p o.seq
    rmw := p.rmw.filter fun o => seqDurable p o.seq
    replica := p.replica.map fun r => { r with current := false } }

/-- The host part as boot flash and the metadata bands hold it (R335, R341, R350, R351, R353, R368, R371). -/
def hostOnDisk (h : HostIf) : HostIf :=
  let o := opalRollback h.opal
  { HostIf.reset with
    namespaces := h.namespaces
    features := h.saved
    saved := h.saved
    fw := { h.fw with staged := 0, activation := none }
    tests := match h.test with
      | some t => ({ t with result := 1 } :: h.tests).take 20
      | none => h.tests
    opal := { o with
      range := o.range.map fun r => { r with rl := r.rle, wl := r.wle }
      session := false
      mbrDone := false
      before := none }
    sanitize := h.sanitize
    mi := { Mi.reset with vpd := h.mi.vpd, vpdLocked := h.mi.vpdLocked }
    tempK := h.tempK
    critical := h.critical }

/-- A full-device reset (R52): every register and pad at its reset state; disks, boot flash, rails, pins and the crystal as they are. -/
def fullReset (s : State) : State :=
  let c (p : CtlIx) : Ctl := { Ctl.reset with perst := s.hif.ctl[p].perst }
  { State.reset with
    sys := { Sys.reset with
      ms := s.sys.ms
      tsBase := -(s.sys.ms : Int)
      strap := s.sys.strap
      rstLow := s.sys.rstLow
      porHold := s.sys.porHold
      inReset := s.sys.rstLow || s.sys.porHold
      snsInt := s.sys.snsInt
      paFault := s.sys.paFault
      refugeEpoch := s.sys.refugeEpoch
      shares := s.sys.shares
      sharesLost := s.sys.sharesLost
      unlocks := s.sys.unlocks
      refugeUnconsumed := (s.sys.shares.any fun x => x.done) && decide ((speOnDisk s).ckptSeq < s.sys.refugeEpoch)
      cleanStop := stopClean s }
    flt := { Flt.reset with
      failRec := s.flt.failRec
      history := s.flt.history
      historyTotal := s.flt.historyTotal
      spareUse := s.flt.spareSaved
      spareSaved := s.flt.spareSaved }
    pwr := { Pwr.reset with railLow := s.pwr.railLow, railHigh := s.pwr.railHigh }
    clk := { Clk.reset with running := s.clk.running, onBackup := !s.clk.running, lostInPost := !s.clk.running, ppm := s.clk.ppm }
    media := { s.media with rungLog := [], grownLog := [], paLog := [], paRun := [], switchRun := [] }
    stc := { Stc.reset with area := s.stc.area, plArea := s.stc.plArea, pos := s.stc.pos }
    spe := speOnDisk s
    arr := arrOnDisk s
    hif := { Hif.reset with ctl := #v[c 0, c 1] }
    host := hostOnDisk s.host
    free := s.free
    pending := s.pending }

/-! ### RESET_N, rails and the internal power-on reset (R50, R52, R490, R493) -/

/-- PWR_STRAP as sampled: valid, and the seven straps (R50). -/
def strapWord (straps : BitVec 7) : Word := BitVec.ofNat 32 (1 + 2 * straps.toNat)

/-- The device starts (R50): out of reset, the straps latched. -/
def deviceStart (straps : BitVec 7) (s : State) : State :=
  { s with sys := { s.sys with inReset := false, strap := strapWord straps } }

/-- The internal power-on reset takes hold, or releases once the rails have stayed in their windows for 1 ms; a RESET_N that is high then
counts as rising then (R493). -/
def powerOnReset (release : Bool) (straps : BitVec 7) (s : State) : State :=
  if release then
    (if s.sys.porHold = false ∨ s.pwr.railLow ≠ 0 ∨ s.pwr.railHigh ≠ 0 then s
     else
       let s := { s with sys := { s.sys with porHold := false } }
       if s.sys.rstLow then s else deviceStart straps s)
  else fullReset { s with sys := { s.sys with porHold := true } }

/-- POWER_ON_RESET (R493). -/
def execPowerOnReset (release : Bool) (straps : BitVec 7) (s : State) : Host.Outcome State Fault Refusal :=
  .next (powerOnReset release straps s)

/-- RESET_N is qualified (R52). -/
def resetQualified (s : State) : State :=
  if s.sys.rstLow then s else fullReset { s with sys := { s.sys with rstLow := true } }

/-- RESET_N_QUALIFIED (R52). -/
def execResetNQualified (s : State) : Host.Outcome State Fault Refusal := .next (resetQualified s)

/-- RESET_N rises (R50): a rise under the power-on reset counts when that releases (R493); one with no qualified pulse before it does nothing. -/
def resetRise (straps : BitVec 7) (s : State) : State :=
  if s.sys.rstLow = false then s
  else
    let s := { s with sys := { s.sys with rstLow := false } }
    if s.sys.porHold then s else deviceStart straps s

/-- RESET_N_RISE (R50). -/
def execResetNRise (straps : BitVec 7) (s : State) : Host.Outcome State Fault Refusal := .next (resetRise straps s)

/-- A rail's monitor (R490): below or above its window, or back within it; leaving the window raises its source. -/
def railWindow (r : Fin 7) (below above : Bool) (s : State) : State :=
  let was := s.pwr.railLow.getLsbD r.val || s.pwr.railHigh.getLsbD r.val
  let s := { s with pwr := { s.pwr with railLow := putBit s.pwr.railLow r.val below, railHigh := putBit s.pwr.railHigh r.val above } }
  if (below ∨ above) ∧ was = false ∧ s.sys.inReset = false then pwrEvent r.val s else s

/-- RAIL_OUT_OF_WINDOW (R490): the monitor stands in the always-on domain and works in reset too. -/
def execRailOutOfWindow (r : Fin 7) (below above : Bool) (s : State) : Host.Outcome State Fault Refusal :=
  .next (railWindow r below above s)

/-- RAIL_RESET_LEVEL (R490): an internal full-device reset that holds until the rails are back. -/
def execRailResetLevel (r : Fin 7) (s : State) : Host.Outcome State Fault Refusal :=
  .next (powerOnReset false 0 (railWindow r true false s))

/-! ### Power loss (R85, R316 to R322, R471) -/

/-- Lanes that serve an actuator in FOLLOW, with its engine (R317). -/
def shareLanes (s : State) : List (LaneIx × HeadIx) :=
  (List.finRange 5).filterMap fun l =>
    (laneAct s.flt l).bind fun a => (engineOf s.flt a.val).bind fun e =>
      let v : Srv := s.srv.get e
      if v.state = .follow ∧ laneOn s a = l then
        (if h : surfaceOf a v.head < 24 then some (l, ⟨surfaceOf a v.head, h⟩) else none)
      else none

/-- The set split into shares, as evenly as whole blocks allow, at most 700 blocks each (R317). -/
def splitShares (ls : List (LaneIx × HeadIx)) (bs : List (Nat × Nat)) : List RefugeShare :=
  match ls with
  | [] => []
  | l :: t =>
    let n := min ((bs.length + t.length) / (t.length + 1)) 700
    { lane := l.1, head := l.2, blocks := bs.take n, done := false } :: splitShares t (bs.drop n)

/-- The refuge set (R317): acknowledged blocks that are not durable; none with an unconsumed set, an empty one, or no lane (R321). -/
def buildShares (s : State) : List RefugeShare :=
  let bs := ((s.arr.blocks.filter fun b => b.2.acked && !b.2.durable).map Prod.fst).filterMap (lbaOfKey s)
  if s.sys.refugeUnconsumed ∨ bs = [] then [] else splitShares (shareLanes s) bs

/-- Lanes in RETAIN that serve loaded actuators are woken, whatever the limits (R471). -/
def wakeForLoss (s : State) : State :=
  (List.finRange 5).foldl (fun (t : State) l =>
    if domState t (12 + l.val) = .retain ∧ ((laneAct t.flt l).map fun a => loaded t a.val).getD false then setDom (12 + l.val) .on t else t) s

/-- op_abort is raised on every lane (R316). -/
def abortLanes (s : State) : State :=
  let one (v : Lane) : Lane := if v.pat.op.isSome then { v with pat := { v.pat with abort := true } } else v
  { s with lane := s.lane.map one }

/-- The power-loss sequence starts, once (R316, R490): a refuge set already written in a coast stands (R323). -/
def powerLoss (s : State) : State :=
  if s.sys.plActive then s
  else
    let stands := s.spn.hold && s.spn.refugeAsked && s.sys.shares.any fun x => x.done
    let phase : Phase := match s.sys.phase with
      | .dark => .dark
      | .safe => .safe
      | _ => .powerloss
    let s := powerlossEntry { s with sys := { s.sys with plActive := true, phase := phase } }
    let s := wakeForLoss (abortLanes s)
    let s :=
      if stands then s
      else if s.sys.refugeUnconsumed then s
      else { s with sys := { s.sys with refugeEpoch := s.spe.next, shares := buildShares s } }
    guardAll s

/-- PWRFAIL_QUALIFIED (R316). -/
def execPwrfailQualified (s : State) : Host.Outcome State Fault Refusal := act s powerLoss

/-- RAIL_BROWNOUT (R490): a qualified PWRFAIL_N. -/
def execRailBrownout (s : State) : Host.Outcome State Fault Refusal := act s powerLoss

/-- REFUGE_DELAY_EXPIRY (R79): a coast has lasted refuge_dly; the set of the window's unprotected content is asked for, once a coast. -/
def refugeDelay (s : State) : State :=
  if s.spn.hold ∧ (s.spn.state = .resync ∨ s.spn.state = .restart) ∧ s.spn.refugeAsked = false ∧ s.sys.plActive = false
      ∧ s.sys.refugeUnconsumed = false then
    { s with
      spn := { s.spn with refugeAsked := true }
      sys := { s.sys with refugeEpoch := s.spe.next, shares := buildShares s } }
  else s

/-- REFUGE_DELAY_EXPIRY (R79). -/
def execRefugeDelayExpiry (s : State) : Host.Outcome State Fault Refusal := act s refugeDelay

/-- A lane writes and verifies its share (R318), in the power-loss sequence or in a coast, with LANE_FE_CTL.refuge at 1; every cause of its
guard but the spindle's holds it back (R79, R134, R189). -/
def refugeWrite (l : LaneIx) (s : State) : State :=
  let due := s.sys.plActive || (s.spn.hold && s.spn.refugeAsked)
  let mine := s.sys.shares.any fun x => decide (x.lane = l) && !x.done
  if due = false ∨ mine = false then s
  else
    let v := s.lane[l]
    let s := setLane l { v with regs := regSet laneRows v.regs 0 (laneReg v 0 ||| bitAt true 17) } s
    if guardCauses s l ≠ 0 ∨ domState s (12 + l.val) ≠ .on then s
    else
      let one (x : RefugeShare) : RefugeShare := if x.lane = l then { x with done := true } else x
      let s := { s with sys := { s.sys with shares := s.sys.shares.map one } }
      if s.sys.plActive then s
      else { s with sys := { s.sys with coastEpoch := some s.sys.refugeEpoch }, spe := { s.spe with ckptBusy := true } }

/-- REFUGE_WRITE (R318). -/
def execRefugeWrite (l : LaneIx) (s : State) : Host.Outcome State Fault Refusal := act s (refugeWrite l)

/-- Every share is written and verified (R320): UNLOAD_N is driven low, and the condition log goes to boot flash if the supply lasts. -/
def refugeDone (flashOk : Bool) (s : State) : State :=
  if s.sys.plActive = false ∨ (s.sys.shares.any fun x => !x.done) then s
  else
    let s := unloadFall s
    if flashOk ∧ s.stc.restored then { s with stc := { s.stc with plArea := some (s.stc.live.seq, s.stc.live.conds) } } else s

/-- REFUGE_DONE (R320). -/
def execRefugeDone (flashOk : Bool) (s : State) : Host.Outcome State Fault Refusal := act s (refugeDone flashOk)

/-- An engine stands on the ramp. -/
def offDisk (v : Srv) : Bool := decide (v.state = .idle ∨ v.state = .parked ∨ v.state = .failed)

/-- PWRFAIL_N has been high for 100 ms after the park, or after its rise where no park takes place: an internal full-device reset (R54, R322). -/
def lossRecovery (s : State) : State :=
  if s.sys.plActive ∧ s.srv.toList.all offDisk then fullReset s else s

/-- POWERLOSS_RECOVERY_RESET (R322). -/
def execPowerlossRecoveryReset (s : State) : Host.Outcome State Fault Refusal := act s lossRecovery

/-! ### Permit, ERR_OUT_N and the sensing pins (R47, R48, R59 to R61, R134, R190) -/

/-- SPIN_PERMIT_IN has been high for 1 ms (R59): it may earn the permit (R60 (c)) and release a start that waits. -/
def permitHigh (s : State) : State :=
  let s := earnIfIdle { s with sys := { s.sys with permitIn := true } }
  if s.spn.startPend then beginStart s else s

/-- PERMIT_IN_FILTERED_HIGH (R59). -/
def execPermitInFilteredHigh (s : State) : Host.Outcome State Fault Refusal := act s permitHigh

/-- PERMIT_IN_FALL (R59): a start that runs is not stopped. -/
def execPermitInFall (s : State) : Host.Outcome State Fault Refusal :=
  act s fun s => { s with sys := { s.sys with permitIn := false } }

/-- PERMIT_DELAY_EXPIRY (R60 (b)). -/
def execPermitDelayExpiry (s : State) : Host.Outcome State Fault Refusal :=
  act s fun s => if s.sys.permitDelayOn then earnPermit s else s

/-- ERR_OUT_MIN_EXPIRY (R61). -/
def execErrOutMinExpiry (s : State) : Host.Outcome State Fault Refusal :=
  act s fun s => { s with sys := { s.sys with errMin := false } }

/-- ERR_OUT_N is asserted (R61, R300): a PIN source is pending, the 10 us run, or the device is in the safe state or dark. -/
def errOut (s : State) : Bool :=
  decide (s.flt.pinPend ≠ 0) || s.sys.errMin || decide (s.sys.phase = .safe ∨ s.sys.phase = .dark)

/-- SPIN_PERMIT_OUT is high (R60). -/
def permitOut (s : State) : Bool := s.sys.permitIn && s.sys.permitEarned && decide (s.sys.phase ≠ .dark)

/-- An SNS_INT pin changes (R48, R134): asserted, it forces every write gate off, and raises the shock cause of each bound engine that enables it. -/
def shockPin (n : Fin 2) (level : Bool) (s : State) : State :=
  let s := { s with sys := { s.sys with snsInt := putBit s.sys.snsInt n.val level } }
  if level then
    let s := shockBegin n s
    let one (e : EngIx) (s : State) : State :=
      let v := s.srv[e]
      if (drives s e).isSome ∧ bitOf (srvReg v 0x54) (12 + n.val) ∧ v.inh.getLsbD 1 = false then
        srvEvent e 2 (setSrv e { v with inh := setBit v.inh 1 } s)
      else s
    guardAll ((List.finRange 5).foldl (fun t e => one e t) s)
  else s

/-- SHOCK_PIN_ASSERT (R134): a pin's level, in reset too. -/
def execShockPinAssert (n : Fin 2) (level : Bool) (s : State) : Host.Outcome State Fault Refusal := .next (shockPin n level s)

/-- PA_FAULT_ASSERT (R190): the pin's level reaches the Row sequencer as its condition. -/
def execPaFaultAssert (a : ActIx) (level : Bool) (s : State) : Host.Outcome State Fault Refusal :=
  .next { s with sys := { s.sys with paFault := putBit s.sys.paFault a.val level } }

end Sys2Proof.Machine
end

