-- ==== Sys2Proof/Machine/CastOn.lean ====
section
/-!
DEFINITION. From POST to ready and back: the power-on self-test, the safe state, spin-up, cast-on, ready, bind-off, shutdown, wakes (chapter
"Cast-on and Bind-off", R29, R33, R267 to R269, R428, R453, R456).
-/
namespace Sys2Proof.Machine
open Sys2Proof

/-! ### POST (R298, R299) -/

/-- Regions whose failing rows exceed what is left of their spare rows; the core memories of X, Y and Z share one pool, given out in that
order (R299, R429; log entry 76). -/
def regionExceeds (s : State) (bad : Vector Nat 10) (r : Nat) : Bool :=
  let need := ((sparePool r).filter fun i => decide (i ≤ r)).map fun i => bad.toList.getD i 0
  decide (bad.toList.getD r 0 ≠ 0) && decide (spareTotal r < spareInUse s.flt r + need.sum)

/-- The map of lanes or engines with some of them failed (R33, R299): the fifth one serves the first actuator left without its own. -/
def spareMap (failed : BitVec 5) : Word :=
  let w := (List.range 5).foldl (fun (w : Word) i => if failed.getLsbD i then setFld w (3 * i + 2) (3 * i) 5 else w) 0x4688#32
  match (List.range 4).find? fun i => failed.getLsbD i with
  | some a => if failed.getLsbD 4 then w else setFld w 14 12 a
  | none => w

/-- What POST sets failed: what it found, what exceeds its spares, and the record of R428. -/
def postLanes (s : State) (f : PostFindings) : BitVec 5 :=
  let found := f.lanesFailed ||| f.storeBad ||| s.flt.failRec.lanes
  (List.range 5).foldl (fun m l => if regionExceeds s f.badRows (l + 1) then setBit m l else m) found
def postCores (s : State) (f : PostFindings) : List (Fin 36) :=
  (List.finRange 36).filter fun c => f.coresFailed.getLsbD c.val || s.flt.failRec.cores.getLsbD c.val ||
    s.flt.failRec.clusters.getLsbD (c.val / 12) || regionExceeds s f.badRows (6 + c.val / 12)

/-- The roles with cores failed from the start (R27, R29). -/
def postRoles (cs : List (Fin 36)) : Vector Role 36 := cs.foldl rolesAfterFail coreRoles

/-- The image POST boots (R298): the one the next reset activates or the active one, else the other. -/
def bootSlot (s : State) (f : PostFindings) : Option (Fin 2) :=
  let want := s.host.fw.atReset.getD s.host.fw.active
  if f.slotOk[want] then some want else if f.slotOk[1 - want] then some (1 - want) else none

/-- The first step whose failure ends POST in the safe state, 0 for none (R62, R298, R299). -/
def safeStep (s : State) (f : PostFindings) (roles : Vector Role 36) : Nat :=
  if regionExceeds s f.badRows 0 ∨ regionExceeds s f.badRows 9 then 2
  else if (bootSlot s f).isNone then 3
  else if workingCores roles < 16 then 5
  else if f.rldTrained[0] = false ∨ f.rldTrained[1] = false then 6
  else if f.padsOk = false then 8
  else 0

/-- The actuators' multiplexers and ports under the maps POST has set (R34, R57). -/
def postBind (lanes engs : Word) (s : State) : State :=
  { s with
    flt := { s.flt with laneMap := lanes, srvMap := engs }
    sys := { s.sys with mux := Vector.ofFn fun a : Fin 4 => { fromL4 := decide (fld lanes 14 12 = a.val), waiting := false } }
    port := Vector.ofFn fun a : Fin 4 => { s.port[a] with
      driver := (List.finRange 5).find? fun e => decide (fld engs (3 * e.val + 2) (3 * e.val) = a.val) } }

/-- The lockstep millisecond of step 8 (R84, R299): one re-seed is made, and a mismatch that repeats fails the pair. -/
def postSpindle (mismatches : Nat) (s : State) : State :=
  if mismatches = 0 then s
  else if mismatches = 1 then spnEvent 7 (spnEvent 6 s)
  else pairFail (spnEvent 6 s)

/-- The image that the reset was to activate runs, or the old one resumes (R353, R368, R369, R439). -/
def postImage (i : Fin 2) (s : State) : State :=
  let f := s.host.fw
  let v := f.slot[i]
  let was := f.atReset
  let s := { s with host := { s.host with fw := { f with active := i, atReset := none } } }
  match was with
  | none => s
  | some j =>
    if j = i then
      stcCond 0x80 (i.val + 1) (BitVec.ofNat 32 v.version) { s with host := { s.host with fw := { s.host.fw with
        floor := if v.raises then max f.floor v.version else f.floor } } }
    else historyNote 6 (j.val + 1) 0 s

/-- The domain states of the safe state (R453). -/
def safeDomains (s : State) : State :=
  let goal (d : Nat) : Option DomState :=
    if d = 3 ∨ d = 4 ∨ d = 10 ∨ (12 ≤ d ∧ d ≤ 22) then some .retain
    else if d = 11 ∨ d = 23 ∨ d = 24 then some .off
    else if d = 8 ∨ d = 9 then (if s.flt.rldFailed.getLsbD (d - 8) then some .off else some .on)
    else none
  (List.range 25).foldl (fun (t : State) d =>
    match goal d with
    | some x => if domState t d = .off then t else setDom d x t
    | none => t) s

/-- Crystal events held back until POST ends (R464). -/
def postCrystal (s : State) : State :=
  if s.clk.lostInPost then clkEvent 1 (clkEvent 0 { s with clk := { s.clk with lostInPost := false } }) else s

/-- Step 4 (R243, R298): the booted image goes into the stores and darn RAM of every lane that has not failed, and both run bits are set. -/
def postStores (v : Nat) (lanes : BitVec 5) (s : State) : State :=
  let one (t : State) (l : LaneIx) : State :=
    if lanes.getLsbD l.val then t
    else
      let x := t.lane[l]
      let x := { x with row := { x.row with image := some v }, pat := { x.pat with image := some v } }
      patCtlWrite l (patCtl x ||| 1#32) (rowCtlWrite l false (rowCtl x ||| 1#32) (setLane l x t))
  (List.finRange 5).foldl one s

/-- The power-on self-test (R298, R299, R300, R301). -/
def postRun (f : PostFindings) (s : State) : State :=
  if s.sys.phase ≠ .post then s
  else if f.romCrcOk = false ∨ f.bootCorePasses = false then { s with sys := { s.sys with phase := .dark } }
  else
    let lanes := postLanes s f
    let engs := f.enginesFailed ||| s.flt.failRec.engines
    let cores := postCores s f
    let roles := postRoles cores
    let step := safeStep s f roles
    let coreMask : BitVec 36 := cores.foldl (fun m c => setBit m c.val) 0
    let rows := f.badRows.toList.sum
    let boot := bootSlot s f
    let want := s.host.fw.atReset.getD s.host.fw.active
    let repairs := decide (rows ≠ 0) || decide (cores ≠ []) || decide (lanes ≠ 0) || decide (engs ≠ 0) ||
      decide (f.spindleMismatches ≠ 0) || decide (boot ≠ some want)
    let use (r : Fin 10) : Nat := min (s.flt.spareUse[r] + f.badRows[r]) (spareTotal r.val)
    let record : PostRecord :=
      { result := if step ≠ 0 then 2 else if repairs then 1 else 0
        failingStep := step
        testmode := bitOf s.sys.strap 7
        slotBooted := (boot.map fun i => i.val + 1).getD 0
        rowsRepaired := rows
        coresFailed := coreMask
        lanesFailed := lanes
        enginesFailed := engs
        spindlePairFailed := decide (2 ≤ f.spindleMismatches)
        bootCore := f.bootCore.val
        timeMs := f.timeMs
        flashFallback := !f.flashOctal }
    let s := { s with
      sys := { s.sys with post := record, pads := [.boot] }
      flt := { s.flt with
        role := roles
        staged := roles
        clusterFailed := s.flt.failRec.clusters
        spareUse := Vector.ofFn use
        rldFailed := (List.range 2).foldl (fun m c => if f.rldTrained.toList.getD c true then m else setBit m c) s.flt.rldFailed } }
    let s := postBind (spareMap lanes) (spareMap engs) s
    let s := if step = 0 ∨ 4 < step then
        ((boot.map fun i => postStores s.host.fw.slot[i].version lanes s).getD s)
      else s
    if step ≠ 0 then
      postCrystal (earnIfIdle (safeDomains { s with sys := { s.sys with phase := .safe }, host := { s.host with critical := true } }))
    else
      let s := postSpindle f.spindleMismatches s
      let s := stcRestore s
      let s := match boot with
        | some i => postImage i s
        | none => s
      let s : State :=
        if bitOf s.sys.strap 6 then { s with sys := { s.sys with phase := .spinup } }
        else enterPs 4 { s with sys := { s.sys with phase := .standby } }
      postCrystal (earnIfIdle s)

/-- POST (R298). -/
def execPost (f : PostFindings) (s : State) : Host.Outcome State Fault Refusal := act s (postRun f)

/-- SAFE_COMMIT_RESET (R303): 100 ms after a commit with action 011b in the safe state, a full-device reset. -/
def execSafeCommitReset (s : State) : Host.Outcome State Fault Refusal :=
  act s fun s => if s.sys.phase = .safe ∧ s.sys.safeCommit then fullReset s else s

/-! ### Spin-up (R304, R305) -/

/-- The domains of a power state are supplied while the old state is still the one reported. -/
def supplyFor (p : Fin 5) (s : State) : State :=
  let t := enterPs p s
  { t with pwr := { t.pwr with ps := s.pwr.ps, lastOp := s.pwr.lastOp } }

/-- The operational state the drive goes to: the one asked for, else the one last left (R304, R456). -/
def opTarget (s : State) : Fin 5 :=
  match s.pwr.psTarget with
  | some p => if p.val ≤ 2 then p else s.pwr.lastOp
  | none => s.pwr.lastOp

/-- The spindle start: the start limit and the permit rule of feature 0xC2 apply, and the start waits for the permit (R304, R305, R377). -/
def startSpindle (s : State) : State :=
  let f := feature s 0xC2
  let ilim := setFld (regGet spnRows s.spn.regs 0x2C) 11 0 (50 * (f % 256))
  let s := spnWrite 0x2C ilim s
  let ctl := regGet spnRows s.spn.regs 0
  spnCtlWrite (setFld (ctl &&& ~~~ 3#32) 2 2 (f / 65536 % 2) ||| 1#32) s

/-- The spindle stands still or spins down, with no start waiting. -/
def spindleIdle (p : Spn) : Bool :=
  !p.startPend && decide (p.state = .stopped ∨ p.state = .fault ∨ p.state = .spindown)

/-- Spin-up (R304): at once after POST with spinauto at 1, else at the first request. -/
def spinupStart (s : State) : State :=
  if spindleIdle s.spn = false then s
  else if s.sys.phase = .spinup then startSpindle s
  else if s.sys.phase = .standby ∧ s.sys.spinRequested then
    startSpindle (supplyFor (opTarget s) { s with sys := { s.sys with phase := .spinup } })
  else s

/-- SPINUP_START (R304). -/
def execSpinupStart (s : State) : Host.Outcome State Fault Refusal := act s fun s => guardAll (spinupStart s)

/-! ### Cast-on (R267 to R269, R306 to R308, R324, R325) -/

/-- An engine bound to an actuator that has a lane. -/
def serves (s : State) (e : EngIx) : Bool :=
  decide (srvBind s.flt e.val < 4) && !laneless s (srvBind s.flt e.val) && decide ((s.srv.get e).state ≠ .failed)

/-- Every engine bound to an actuator that is not absent is PARKED: every actuator is confirmed on its ramp (R53, R62, R140). -/
def allParked (s : State) : Bool :=
  (List.finRange 5).all fun e =>
    ((List.finRange 4).all fun a => decide (srvBind s.flt e.val ≠ a.val) || actAbsent s a) || decide ((s.srv.get e).state = .parked)

/-- A register field that firmware sets in one engine (R144). -/
def srvPut (e : EngIx) (off hi lo v : Nat) (s : State) : State :=
  let x := s.srv[e]
  setSrv e { x with regs := regSet srvRows x.regs off (setFld (srvSet x off) hi lo v) } s

/-- UNLOAD_N is released and the heads load, on bank B with hold_swap and without feedforward, or directly on bank A (R307 step 3, R315). -/
def loadHeads (bankB : Bool) (s : State) : State :=
  let one (t : State) (e : EngIx) : State :=
    if serves t e then
      let t := setSrv e { t.srv[e] with bankB := bankB } t
      let t := if bankB then srvPut e 0x68 1 1 0 (srvPut e 0x68 0 0 1 (srvPut e 0 5 5 1 t)) else t
      srvLoad e t
    else t
  (List.finRange 5).foldl one { s with sys := { s.sys with unloadLow := false } }

/-- Tables that firmware places in SRAM (R307). -/
def placeTables (sram : List (Nat × List Byte)) (s : State) : State := sram.foldl (fun t x => writeBytes t x.1 x.2) s

/-- The first word of a gauge row with its valid bit at 1 (R104). -/
def rowMarked (w : Nat) : Nat := w % 2 ^ 31 + 2 ^ 31

/-- The gauge row at an address is marked valid, with its CRC anew (R104). -/
def gaugeMark (a : Nat) (s : State) : State :=
  let s := writeLE s a 4 (rowMarked (readLE s a 4))
  writeLE s (a + 12) 4 (crc32c (gaugeBytes s a))

/-- A gauge row as cast-on brings it in (R105, R307): one whose CRC passes is marked valid, in SRAM, in RLD and as the band holds it. -/
def gaugeIn (surface : Nat) (x : Nat × Nat × List Byte) (s : State) : State :=
  let s := writeBytes s x.2.1 x.2.2
  if gaugeCrcOk s x.2.1 = false then s
  else
    let s := gaugeMark x.2.1 s
    let bs := readBytes s x.2.1 (rowBytes s.yck)
    { s with
      media := { s.media with gaugeRows := keyPut s.media.gaugeRows (surface * 64 + x.1) bs }
      yck := { s.yck with rldRows := keyPut s.yck.rldRows (surface * 64 + x.1) bs } }

/-- Master periods to a servo bit of the engine that serves a surface (R144). -/
def surfaceDiv (s : State) (surface : Nat) : Nat :=
  match engineOf s.flt (surface / 6) with
  | some e => fld (regGet srvRows (s.srv.get e).cur 0x20) 3 0
  | none => 4

/-- Why a surface's zone descriptor table is rejected, 0 where it is not (R146, R147). -/
def setCause (guard : Option (Nat × Nat × Nat)) (k : Nat) (x : TableSet) (s : State) : Nat :=
  let rows := x.zones.map zoneDesc
  let bpw (z : Nat) : Option Nat := (x.gauge.find? fun r => decide (r.1 = z)).map fun r => (leBytes r.2.2).toNat % 2 ^ 20
  let mine := guard.bind fun g => if g.1 = k then some g.2 else none
  tableCause (wedges s.yck) (surfaceDiv s k) (wedgePeriods s.yck) k mine bpw rows

/-- The table set that is used (R306): the newest media copy whose every table passes its CRC, else the factory set. -/
def chosenSet (x : SurfaceFind) : Option (TableSet × Bool) :=
  let best := x.copies.foldl (fun (b : Option (Nat × TableSet)) c =>
    if c.2.1 = false then b
    else match b with
      | some (v, _) => if v < c.1 then some (c.1, c.2.2) else b
      | none => some (c.1, c.2.2)) none
  match best with
  | some (_, y) => some (y, false)
  | none => x.factory.map fun y => (y, true)

/-- A surface's table set is taken (R146, R149, R167, R306): its zones and primary defects come into force; a rejected table brings none, and
its cause is recorded for log 0xC4; a factory set schedules a calibration of each zone. -/
def surfaceIn (guard : Option (Nat × Nat × Nat)) (k : Nat) (x : TableSet) (factory : Bool) (s : State) : State :=
  let cause := setCause guard k x s
  let rows := (x.zones.map zoneDesc).filter fun z => z.valid && decide (cause = 0)
  let bad := rows.flatMap fun z => (x.servoBad.filter fun d => decide (d.1 = z.zone)).flatMap fun d => servoDefect z k d.2.1 d.2.2
  let listed : List Defect := x.primary.map fun d => { surface := k, zone := d.1, track := d.2.1, slot := d.2.2, live := true }
  let m := s.media
  let s := { s with media := { m with
    zones := (m.zones.filter fun z => decide (z.1 / 64 ≠ k)) ++ rows.map fun z => (k * 64 + z.zone, z)
    tableCause := keySet m.tableCause k cause 0
    primary := (m.primary.filter fun d => decide (d.surface ≠ k)) ++ listed ++ bad } }
  if cause ≠ 0 then s
  else
    let s := x.gauge.foldl (fun t r => gaugeIn k r t) s
    if factory then rows.foldl (fun t z => scheduleCal k z.zone false t) s else s

/-- The table sets are read (R306, R307 steps 4 and 5, R308): a surface of a served actuator without an accepted set makes its member
tables-lost; feedforward is set for the engines. -/
def tablesRead (sets : List SurfaceFind) (guard : Option (Nat × Nat × Nat)) (sram : List (Nat × List Byte)) (s : State) : State :=
  let take (t : State) (x : SurfaceFind) : State := ((chosenSet x).map fun y => surfaceIn guard x.surface.val y.1 y.2 t).getD t
  let s := sets.foldl take (placeTables sram { s with media := { s.media with ctGuard := guard } })
  let read (m : Nat) : Bool := (sets.any fun x => decide (x.surface.val = m) && (chosenSet x).isSome) && decide (keyGet s.media.tableCause m 0 = 0)
  let s := (List.finRange 24).foldl (fun (t : State) m =>
    let v : Member := t.arr.member.get m
    let gone := !read m.val
    if laneless t (m.val / 6) ∨ v.tablesLost = gone then t else noteChange (setMember m { v with tablesLost := gone } t)) s
  (List.finRange 5).foldl (fun (t : State) e => if serves t e then srvPut e 0x68 1 1 1 t else t) s

/-- The rows that a gap in the journal leaves in doubt (R267): the one in progress of each sequential zone that is not Full. -/
def gapRows (s : State) : List OpenRow :=
  s.arr.zones.filterMap fun z =>
    let len := 16 * dataUnits z.2.w
    if z.2.conv ∨ z.2.st = .full ∨ z.2.wp % len = 0 then none
    else some { zone := z.1, row := z.2.wp / len, seq := s.spe.next, touched := s.sys.ms, partialTo := none }

/-- Replay and resynchronisation (R158, R263, R267, R268): reconstruction records go to their rebuild targets; stale selvage is recomputed; no set bit and no read-modify-write remains; an open row keeps a partial record of its prefix. -/
def resync (gap : Bool) (s : State) : State :=
  let more := if gap then (gapRows s).filter fun g => !(s.spe.rows.any fun o => decide (o.zone = g.zone ∧ o.row = g.row)) else []
  let rows := s.spe.rows ++ more
  let s := (s.spe.rmw.filter fun o => o.record.isSome).foldl (fun t o => assignTargets o.zone t) s
  let s := { s with
    spe := { s.spe with dirty := [], rmw := [], rows := [] }
    media := { s.media with groups := s.media.groups.map fun g => (g.1, GroupState.carries) } }
  rows.foldl (fun (t : State) o =>
    match zoneGet t o.zone with
    | none => t
    | some z =>
      let len := 16 * dataUnits z.w
      let present := z.wp - o.row * len
      if z.conv ∨ present = 0 ∨ len ≤ present then t
      else if o.partialTo = some present then { t with spe := { t.spe with rows := t.spe.rows ++ [o] } }
      else
        let a := logActuator z o.row present
        let (at_, t) := logRecord a 32 t
        let seq := jNext t
        let t := jAppend 0x11 (packFields [(32, o.zone), (16, o.row), (16, present), (8, a), (32, at_)]) t
        { t with spe := { t.spe with rows := t.spe.rows ++ [{ o with partialTo := some present, seq := seq, touched := t.sys.ms }] } }) s

/-- What cast-on reads of the newest refuge set (R321, R324, R325): the shares that can be read, without their bad blocks, and how many shares and
blocks are gone. A set that was consumed, or that a clean stop superseded, gives none. -/
def refugeFind (clean : Bool) (unread : BitVec 5) (bad : List (Nat × Nat)) (s : State) : List RefugeShare × Nat :=
  if s.sys.refugeUnconsumed && !clean then
    let (read, lost) := s.sys.shares.partition fun x => x.done && !unread.getLsbD x.lane.val
    let dropped := read.map fun x => (x.blocks.filter fun b => bad.contains b).length
    (read.map fun x => { x with blocks := x.blocks.filter fun b => !bad.contains b }, lost.length + dropped.sum)
  else ([], if s.sys.sharesLost then 1 else 0)

/-- No block lies in the protected write log any more (R325). -/
def logEmptied (a : Arr) : Arr := { a with blocks := a.blocks.map fun b => (b.1, { b.2 with logged := false }) }

/-- Shares or blocks of the refuge set are lost: a record for each, and bit 2 of the critical warning (R325). -/
def refugeLost (n : Nat) (s : State) : State :=
  if n = 0 then s
  else
    let s := (List.range n).foldl (fun t i => historyNote 2 i s.sys.refugeEpoch t) s
    { s with host := { s.host with critical := true } }

/-- The newest refuge set is applied, with the lost shares and the dropped blocks told of, and the protected write log's records (R321, R324, R325). -/
def refugeApply (clean : Bool) (unread : BitVec 5) (bad : List (Nat × Nat)) (s : State) : State :=
  let r := refugeFind clean unread bad s
  let s := { s with sys := { s.sys with shares := r.1, sharesLost := false } }
  let held := refugeKeys s
  let s := makeDurable held false { s with arr := dropVolatile held s.arr }
  refugeLost r.2 { s with arr := logEmptied s.arr }

/-- The replicas of cast-on (R255): up to three eligible members, in three different actuators where they can be. -/
def pickReplicas (s : State) : State :=
  (List.finRange 3).foldl (fun (t : State) (i : Fin 3) =>
    match nextReplica t (currentMembers t.spe) with
    | some m => { t with spe := { t.spe with replica := t.spe.replica.set i { member := m.val, current := true } } }
    | none => t) { s with spe := { s.spe with replica := Vector.replicate 3 { member := 0, current := false }, fill := none } }

/-- Members whose requalification the reset cut off are FENCED again (R288). -/
def requalCut (s : State) : State :=
  (List.finRange 24).foldl (fun (t : State) m =>
    let v : Member := t.arr.member.get m
    if v.state = .qualifying then memberChange m .fenced v.gen v.cause t else t) s

/-- The journal stages 1 to 4 of R269: merge, replay and resynchronisation, refuge band and log, checkpoint. -/
def journalStages (m : MergeFind) (unread : BitVec 5) (bad : List (Nat × Nat)) (s : State) : State :=
  let clean := m.clean && s.sys.cleanStop && !m.gap
  let newest := s.spe.live.foldl (fun n e => max n e.seq) (max s.spe.ckptSeq (min m.highest (s.spe.next - 1)))
  let s := if m.gap then speEvent 5 (historyNote 1 0 newest s) else s
  let s := { s with spe := { s.spe with
    next := newest + 65536
    live := []
    groups := []
    regs := regSet speRows s.spe.regs 0 (speReg s.spe 0 ||| 1#32) } }
  let s := refugeApply clean unread bad s
  let written := refugeKeys s
  let s := requalCut (resync m.gap (pickReplicas s))
  let s := written.foldl (fun t k => touchRegion (regionOf (k / 65536) (k % 65536)) t) s
  checkpoint { s with sys := { s.sys with journalDone := true } }

/-- CASTON_MEDIA's stages (R307): the banks swap and the journal's stages run once the tables are read. -/
def castonMedia (x : CastonStage) (s : State) : State :=
  match x with
  | .load sram =>
    if s.sys.phase = .spinup ∧ s.spn.doneSent ∧ allParked s then
      let s := placeTables sram s
      loadHeads true { s with sys := { s.sys with phase := .caston, journalDone := false, pads := [.boot, .media] } }
    else s
  | .tables sets guard sram => if s.sys.phase = .caston ∧ s.sys.journalDone = false then tablesRead sets guard sram s else s
  | .swap =>
    if s.sys.phase = .caston then
      (List.finRange 5).foldl (fun (t : State) e =>
        let v : Srv := t.srv.get e
        if serves t e ∧ v.bankB ∧ v.swapPend = false ∧ bitOf (srvSet v 0x68) 1 then srvSwap e t else t) s
    else s
  | .journal m unread bad =>
    let read := (List.finRange 5).all fun e => !serves s e || bitOf (srvSet (s.srv.get e) 0x68) 1
    if s.sys.phase = .caston ∧ s.sys.journalDone = false ∧ read then journalStages m unread bad s else s

/-- CASTON_MEDIA (R307). -/
def execCastonMedia (x : CastonStage) (s : State) : Host.Outcome State Fault Refusal := act s fun s => guardAll (castonMedia x s)

/-! ### Ready (R309) -/

/-- A controller's shutdown is in progress. -/
def shuttingDown (s : State) : Bool := s.hif.ctl.toList.any fun v => decide (v.shst = 1)

/-- The power state that a cast-on or a wake was to reach is in force. -/
def reachOp (s : State) : State :=
  match s.pwr.psTarget with
  | some p => if p.val ≤ 2 then reachPs p s else enterPs s.pwr.lastOp s
  | none => enterPs s.pwr.lastOp s

/-- The drive is ready, or awake (R309, R315, R456): held commands run; a shutdown that waited begins its bind-off (R311). -/
def becomeReady (s : State) : State :=
  let cast := decide (s.sys.phase = .caston)
  let ok := headsReady s && s.stc.restored &&
    (decide (s.sys.phase = .waking) || (cast && s.sys.journalDone && seqDurable s.spe s.spe.ckptSeq && decide (currentCount s.spe ≠ 0)))
  if ok = false then s
  else
    let s := { s with sys := { s.sys with phase := .ready, spinRequested := false, refugeUnconsumed := false } }
    let s := if cast then event 0x40002 { s with sys := { s.sys with shares := [], journalDone := false } } else s
    let s := reachOp s
    if shuttingDown s then { s with sys := { s.sys with phase := .bindoff .normal 1 } } else kick s

/-- READY (R309). -/
def execReady (s : State) : Host.Outcome State Fault Refusal := act s becomeReady

/-! ### Bind-off (R311 to R314, R337) -/

/-- What the shutting-down controllers are told at the park (R311): SHST reads 10b, and their partner has departed (R334). -/
def shutdownDone (s : State) : State :=
  (List.finRange 2).foldl (fun (t : State) c =>
    if t.hif.ctl[c].shst = 1 then depart c false (setCtl c { t.hif.ctl[c] with shst := 2 } t) else t) s

/-- A region with nothing that is not durable (R312 step 4). -/
def regionDurable (s : State) (r : Nat) : Bool :=
  (s.spe.rmw.all fun o => !rowInRegion s o.zone o.row r) &&
    s.arr.blocks.all fun b => decide (regionOf (b.1 / 65536) (b.1 % 65536) ≠ r) || b.2.durable

/-- The bind-off checkpoint (R312 step 4, R313): durable regions are cleared first; a region left over is recorded. -/
def bindoffCheckpoint (s : State) : State :=
  let s := (s.spe.dirty.filter fun d => regionDurable s d.region).foldl (fun t d =>
    jAppend 2 (packFields ((32, d.region) :: List.replicate 10 (32, 0xFFFFFFFF))) t) s
  let s := s.spe.dirty.foldl (fun t d => historyNote 4 0 d.region t) s
  checkpoint s

/-- A newly attached partner wants the drive (R337): some controller runs and is not shutting down. -/
def partnerWaits (s : State) : Bool :=
  s.hif.ctl.toList.any fun v => v.en && decide (v.role = .attached) && decide (v.shst = 0)

/-- The heads are parked (R311, R312 steps 5 and 6, R455): SHST, the power state, and the spin-down. -/
def parkDone (t : BindTrigger) (s : State) : State :=
  let s := unloadFall s
  match t with
  | .ps3 => reachPs 3 { s with sys := { s.sys with phase := .parked .ps3 } }
  | .ps4 => spnStopCmd (reachPs 4 { s with sys := { s.sys with phase := .parked .ps4 } })
  | t =>
    let s := shutdownDone { s with sys := { s.sys with phase := .parked t } }
    spnStopCmd (if s.pwr.psTarget.isSome then endPs s else s)

/-- Log data is written to its zones where timing allows it, and otherwise stays in the log (R115, R312 step 2). -/
def logToZones (s : State) : State :=
  let out (b : Nat × Block) : Bool := b.2.logged && ((zoneGet s (b.1 / 65536)).map fun z => decide (timingFor s (b.1 / 65536) z = .go)).getD false
  { s with arr := { s.arr with blocks := s.arr.blocks.map fun b => if out b then (b.1, { b.2 with logged := false }) else b } }

/-- Bind-off comes to a step. -/
def bindStep (t : BindTrigger) (n : Nat) (s : State) : State := { s with sys := { s.sys with phase := .bindoff t n } }

/-- One step of bind-off ends where what it waits for has come about (R312). -/
def bindOff (s : State) : State :=
  match s.sys.phase with
  | .bindoff t 1 =>
    if s.hif.flight.all (fun f => decide (f.ctl = 3)) ∧ s.hif.flushes = [] ∧ s.hif.fetched.all (fun f => f.cmd.admin) then bindStep t 2 s
    else kick s
  | .bindoff t 2 =>
    let open_ := (s.arr.blocks.filter fun b => b.2.acked && !b.2.durable).map Prod.fst
    if open_ = [] then bindStep t 3 (logToZones s)
    else if t = .abrupt ∧ loadedLanes s ≠ 0 then bindStep t 3 (makeDurable open_ true s)
    else s
  | .bindoff t 3 => bindStep t 4 (stcPersist (gaugeHourly s))
  | .bindoff t 4 => if speOn s then bindStep t 5 (bindoffCheckpoint s) else s
  | .bindoff t 5 =>
    if seqDurable s.spe s.spe.ckptSeq = false then s
    else if (t = .normal ∨ t = .abrupt) ∧ partnerWaits s ∧ headsReady s then
      kick (shutdownDone { s with sys := { s.sys with phase := .ready } })
    else if allParked s then
      (if (t = .ps3 ∨ t = .ps4) ∧ s.sys.spinRequested then
         endPs { s with sys := { s.sys with phase := .waking } }
       else parkDone t s)
    else
      (List.finRange 5).foldl (fun (u : State) e =>
        let v : Srv := u.srv.get e
        if serves u e ∧ (v.state = .follow ∨ v.state = .hold ∨ v.state = .seek ∨ v.state = .settle ∨ v.state = .capture ∨ v.state = .loading)
        then controlledUnload e u else u) s
  | _ => s

/-- BIND_OFF (R312). -/
def execBindOff (s : State) : Host.Outcome State Fault Refusal := actWindow s fun s => guardAll (bindOff s)

/-- An actuator is loaded, or loading. -/
def anyLoaded (s : State) : Bool := !(s.srv.toList.all offDisk)

/-- A shutdown notification where no bind-off can run (R311): SHST reads 10b at once, and a spindle that turns spins down. -/
def shutdownNow (c : CtlIx) (p : Phase) (s : State) : State :=
  let s := setCtl c { s.hif.ctl[c] with shst := 1 } { s with sys := { s.sys with phase := p, spinRequested := false } }
  spnStopCmd (shutdownDone s)

/-- CC.SHN is written (R311, R314): normal or abrupt. -/
def shutdownNotify (c : CtlIx) (abrupt : Bool) (s : State) : State :=
  let v := s.hif.ctl[c]
  let trig : BindTrigger := if abrupt then .abrupt else .normal
  if s.sys.plActive ∨ v.en = false ∨ v.shst ≠ 0 then s
  else if v.role = .standby then setCtl c { v with shst := 2 } s
  else
    let s := if abrupt then abandonCommands c s else s
    let start (t : State) : State := setCtl c { t.hif.ctl[c] with shst := 1 } t
    match s.sys.phase with
    | .post | .standby => shutdownNow c s.sys.phase s
    | .safe => setCtl c { s.hif.ctl[c] with shst := 2 } s
    | .spinup => enterPs 4 (shutdownNow c .standby s)
    | .caston => if anyLoaded s ∨ s.sys.journalDone then start s else enterPs 4 (shutdownNow c .standby s)
    | .waking => if anyLoaded s then start s else shutdownNow c (.parked trig) s
    | .ready => start { s with sys := { s.sys with phase := .bindoff trig 1 } }
    | .bindoff .ps3 n | .bindoff .ps4 n => start { s with sys := { s.sys with phase := .bindoff trig n } }
    | .bindoff _ _ => start s
    | .parked _ => shutdownNow c (.parked trig) s
    | .dark | .powerloss => s

/-- SHUTDOWN_NOTIFY (R311). -/
def execShutdownNotify (c : CtlIx) (abrupt : Bool) (s : State) : Host.Outcome State Fault Refusal :=
  act s (onPort c fun s => guardAll (shutdownNotify c abrupt s))

/-! ### Wakes (R304, R314, R315, R455, R456) -/

/-- A wake from PS4, or of a drive parked by a shutdown: the spindle starts; then, for an operational state, the heads load on bank A; for
PS3 it ends when the spindle is locked and YCK is in dual or single yarn mode. -/
def ps4Wake (s : State) : State :=
  match s.sys.phase with
  | .parked .ps4 | .parked .normal | .parked .abrupt =>
    if s.sys.spinRequested = false ∨ s.spn.startPend then s
    else
      let s := supplyFor (if s.pwr.psTarget = some 3 then 3 else opTarget s) { s with sys := { s.sys with phase := .waking } }
      if spindleIdle s.spn then startSpindle s else s
  | .waking =>
    if s.spn.doneSent = false ∨ allParked s = false ∨ s.sys.unloadLow = false then s
    else if s.pwr.psTarget = some 3 ∧ s.hif.flight = [] then
      (if spnAtSpeed s.spn ∧ s.yck.active.isSome then
         reachPs 3 { s with sys := { s.sys with phase := .parked .ps3, spinRequested := false } }
       else s)
    else loadHeads false s
  | _ => s

/-- PS4_WAKE (R315). -/
def execPs4Wake (s : State) : Host.Outcome State Fault Refusal := act s fun s => guardAll (ps4Wake s)

/-- A wake from PS3 (R456): the heads load directly on bank A. -/
def ps3Wake (s : State) : State :=
  match s.sys.phase with
  | .parked .ps3 =>
    if s.sys.spinRequested ∧ allParked s then
      loadHeads false (supplyFor (opTarget s) { s with sys := { s.sys with phase := .waking } })
    else s
  | .waking => if s.spn.doneSent ∧ allParked s ∧ s.sys.unloadLow = false then loadHeads false s else s
  | _ => s

/-- PS3_WAKE (R456). -/
def execPs3Wake (s : State) : Host.Outcome State Fault Refusal := act s fun s => guardAll (ps3Wake s)

end Sys2Proof.Machine
end

