-- ==== Sys2Proof/Machine/Pwr.lean ====
section
/-!
DEFINITION. The meanings of the power commands: domain requests, quiesce, core halts, lane and thermal limits, lane changes, autonomous
transitions (R397, R398, R448 to R459, R465, R507).
-/
namespace Sys2Proof.Machine
open Sys2Proof

/-! ### Requests for a domain (R397, R398, R448 to R450) -/

/-- States a domain may take (R447). -/
def stateAllowed (s : State) (d : Nat) (x : DomState) : Bool :=
  match x with
  | .on => true
  | .retain => decide ((2 ≤ d ∧ d ≤ 4) ∨ (6 ≤ d ∧ d ≤ 10) ∨ (12 ≤ d ∧ d ≤ 22))
  | .off => offAllowed s d

/-- An engine's state is IDLE or PARKED. -/
def engineQuiet (s : State) (e : Nat) : Bool :=
  let st := (s.srv.toList.getD e .reset).state
  decide (st = .idle ∨ st = .parked)

/-- A request breaks the order of R449. -/
def orderBad (s : State) (d : Nat) (x : DomState) : Bool :=
  let on (k : Nat) : Bool := decide (domState s k = .on)
  if 12 ≤ d ∧ d ≤ 16 then
    (decide (x = .on) && !on 23) ||
      (decide (x ≠ .on) && on 11 && (List.range 5).all fun l => decide (l + 12 = d) || !on (12 + l))
  else if 17 ≤ d ∧ d ≤ 21 then decide (x = .on) && !on 23 && !engineQuiet s (d - 17)
  else if d = 23 then
    decide (x ≠ .on) && ((List.range 5).any (fun l => on (12 + l)) || (List.range 5).any fun e => on (17 + e) && !engineQuiet s e)
  else if d = 11 then decide (x = .on) && (List.range 5).all fun l => !on (12 + l)
  else if 2 ≤ d ∧ d ≤ 4 then decide (x = .retain) && [2, 3, 4].all fun c => decide (c = d) || !on c
  else false

/-- A domain is in use (R450). -/
def inUse (s : State) (d : Nat) : Bool :=
  if h : 12 ≤ d ∧ d < 17 then
    (let l := s.lane[d - 12]
     let idle := decide (l.row.state = .stopped ∨ (l.row.pc = 0 ∧ l.row.fifo = []))
     !idle || bitOf (laneReg l 0) 0)
  else if 17 ≤ d ∧ d ≤ 21 then !engineQuiet s (d - 17)
  else if d = 22 then decide (s.spn.state ≠ .stopped ∧ s.spn.state ≠ .fault)
  else if d = 23 then bitOf (regGet yckRows s.yck.regs 0) 0
  else if d = 10 then
    decide ((ringAt s (fld (speReg s.spe 0x10) 13 0)).packets ≠ [] ∨ s.spe.active ≠ 0) || s.spe.groups.any fun g => g.issued
  else if 2 ≤ d ∧ d ≤ 4 then (List.range 12).any fun k => !coreHalted s (12 * (d - 2) + k)
  else if d = 8 ∨ d = 9 then s.flt.rldFailed.getLsbD (9 - d) && decide (unprotected s ≠ 0)
  else false

/-- Channels running or waiting whose current descriptor has an end in the domain (R397). -/
def chansIn (s : State) (d : Nat) : BitVec 64 :=
  (List.finRange 64).foldl (fun (m : BitVec 64) n =>
    let c := s.dma.chan[n]
    let k := descAt s c.cur
    let ends := (decide (descSspace k = 0) && decide (domOfAddr k.src = some d)) ||
      (decide (descDspace k = 0) && decide (domOfAddr k.dst = some d))
    if (c.state = .running ∨ c.state = .waiting) ∧ ends then setBit m n.val else m) 0

/-- A request ends (R448): its status, and gate_refused for 1, 2, 3 and 5. -/
def domDone (d target status : Nat) (s : State) : State :=
  let resp := fldAt d 4 0 ||| fldAt target 9 8 ||| fldAt status 14 12 ||| bitAt true 15
  let s := { s with pwr := { s.pwr with resp := resp, req := none } }
  if status = 1 ∨ status = 2 ∨ status = 3 ∨ status = 5 then pwrEvent 7 s else s

def domCode : DomState → Nat
  | .on => 0 | .retain => 1 | .off => 2

/-- A write to PWR_DOM_REQ (R448): its checks in order, the quiesce, and the change of state. -/
def domReqWrite (w : Word) (s : State) : State :=
  let d := fld w 4 0
  let t := fld w 9 8
  let x : DomState := if t = 0 then .on else if t = 1 then .retain else .off
  if s.pwr.req.isSome ∨ t = 3 ∨ 25 ≤ d then pwrEvent 8 s
  else if s.dma.quiesce = some d then domDone d t 5 s
  else if stateAllowed s d x = false then domDone d t 4 s
  else if domState s d = x then domDone d t 0 s
  else if orderBad s d x then domDone d t 2 s
  else if x = .on then domDone d t 0 (setDom d .on s)
  else if domState s d = .on ∧ inUse s d then domDone d t 3 s
  else if chansIn s d = 0 then domDone d t 0 (setDom d x s)
  else if h : d < 25 then
    { s with
      pwr := { s.pwr with
        req := some { dom := ⟨d, h⟩, target := x, final := false }
        quiescing := setBit s.pwr.quiescing d
        resp := fldAt d 4 0 ||| fldAt t 9 8 }
      dma := { s.dma with quiesce := some d, affected := chansIn s d } }
  else s

/-- PWR_DOM_REQUEST (R448). -/
def execPwrDomRequest (w : Word) (s : State) : Host.Outcome State Fault Refusal := act s (domReqWrite w)

/-- A quiesce ends. -/
def quiesceOver (d : Nat) (s : State) : State :=
  { s with
    pwr := { s.pwr with quiescing := clearBit s.pwr.quiescing d }
    dma := { s.dma with quiesce := none, affected := 0 } }

/-- Channels of a mask stop with code 2 (R397). -/
def quiesceStop (m : BitVec 64) (s : State) : State :=
  (List.finRange 64).foldl (fun t n =>
    if m.getLsbD n.val ∧ (t.dma.chan[n].state = .running ∨ t.dma.chan[n].state = .waiting) then chanStop n 2 t else t) s

/-- Every affected channel has stopped with code 2, and the domain is gated (R397). -/
def quiesceDone (s : State) : State :=
  match s.pwr.req with
  | some q =>
    if q.final = false ∧ s.dma.quiesce = some q.dom.val then
      let s := quiesceStop s.dma.affected s
      domDone q.dom.val (domCode q.target) 0 (setDom q.dom.val q.target (dmaEvent 3 (quiesceOver q.dom.val s)))
    else s
  | none => s

/-- DMA_QUIESCE_DONE (R397). -/
def execDmaQuiesceDone (s : State) : Host.Outcome State Fault Refusal := act s quiesceDone

/-- 100 us have passed (R397): `stopped` channels have stopped with code 2 and stay so, the others go on, the request is refused. -/
def quiesceTimeout (stopped : BitVec 64) (s : State) : State :=
  match s.pwr.req with
  | some q =>
    if q.final = false ∧ s.dma.quiesce = some q.dom.val then
      let s := quiesceStop (s.dma.affected &&& stopped) s
      domDone q.dom.val (domCode q.target) 1 (dmaEvent 4 (quiesceOver q.dom.val s))
    else s
  | none => s

/-- DMA_QUIESCE_TIMEOUT (R397). -/
def execDmaQuiesceTimeout (stopped : BitVec 64) (s : State) : Host.Outcome State Fault Refusal := act s (quiesceTimeout stopped)

/-! ### Halts and limits (R459, R465, R507) -/

/-- A write of the pair PWR_HALT_REQ (R17, R507): one that would halt the last running resident core is ignored with cfg_err. -/
def haltWrite (m : BitVec 36) (s : State) : State :=
  let t := { s with pwr := { s.pwr with haltReq := m } }
  if (List.range 36).any fun k => decide (roleOf t.flt k = .resident) && !coreHalted t k then t else pwrEvent 8 s

/-- PWR_HALT_REQ (R507). -/
def execPwrHaltReq (m : BitVec 36) (s : State) : Host.Outcome State Fault Refusal := act s (haltWrite m)

/-- A write to PWR_CTL (R465): 0, 6 and 7 are ignored with cfg_err. -/
def pwrCtlWrite (w : Word) (s : State) : State :=
  let n := fld w 2 0
  if n = 0 ∨ 5 < n then pwrEvent 8 s else { s with pwr := { s.pwr with regs := regWrite pwrRows s.pwr.regs false 0 w } }

/-- PWR_LANE_LIMIT (R465). -/
def execPwrLaneLimit (w : Word) (s : State) : Host.Outcome State Fault Refusal := act s (pwrCtlWrite w)

/-- A write to a register of the PWR block (R465). -/
def pwrWrite (off : Nat) (w : Word) (s : State) : State :=
  if off = 0 then pwrCtlWrite w s
  else if off = 0x0C then domReqWrite w s
  else if (rowAt pwrRows off).isSome then { s with pwr := { s.pwr with regs := regWrite pwrRows s.pwr.regs false off w } }
  else s

/-- The composite temperature in K crosses WCTEMP (368 K) or CCTEMP (378 K), or has fallen 3 degrees below (R339, R459). -/
def thermal (t : Nat) (s : State) : State :=
  let w := decide (368 < t) || (s.pwr.holdW && decide (365 < t))
  let c := decide (378 < t) || (s.pwr.holdC && decide (375 < t))
  let newW := w && !s.pwr.holdW
  let newC := c && !s.pwr.holdC
  let s := { s with pwr := { s.pwr with holdW := w, holdC := c }, host := { s.host with tempK := t } }
  let s := if newW then stcCond 0x50 0 (BitVec.ofNat 32 (t - 273)) (raise 163 s) else s
  if newC then raise 164 s else s

/-- THERMAL_LIMIT (R459). -/
def execThermalLimit (t : Nat) (s : State) : Host.Outcome State Fault Refusal := act s (thermal t)

/-! ### Lanes from operation to operation (R454) -/

/-- The lane whose operation has waited longest is woken where the limit allows (R454). -/
def serveWaiting (s : State) : State :=
  match s.pwr.laneWait with
  | x :: t => if lanesOn s < laneLimit s then setDom (12 + x.1.val) .on { s with pwr := { s.pwr with laneWait := t } } else s
  | [] => s

/-- A lane's operation comes up while the lane is in RETAIN (R454). -/
def laneNeeds (l : LaneIx) (s : State) : State :=
  if domState s (12 + l.val) = .retain ∧ s.pwr.ps.val ≤ 2 ∧ (s.pwr.laneWait.all fun x => decide (x.1 ≠ l)) then
    { s with pwr := { s.pwr with
      laneWait := s.pwr.laneWait ++ [(l, s.pwr.laneWaitNext)]
      laneWaitNext := s.pwr.laneWaitNext + 1 } }
  else s

/-- A lane at an operation boundary is gated for one that waits, or because the limit is exceeded, and the oldest waiting operation's
lane is woken; a transition that waited for lanes is then over (R454, R455). -/
def laneGateSwap (needs boundary : Option LaneIx) (s : State) : State :=
  let s : State := match needs with
    | some l => laneNeeds l s
    | none => s
  let s : State := serveWaiting s
  let s : State := match boundary with
    | some l =>
      if domState s (12 + l.val) = .on ∧ laneBound s l.val ∧ laneIdle s l ∧ laneLimit s ≤ lanesOn s ∧
          (laneLimit s < lanesOn s ∨ s.pwr.laneWait ≠ []) then
        serveWaiting (setDom (12 + l.val) .retain s)
      else s
    | none => s
  match s.pwr.psTarget with
  | some p => if p.val ≤ 2 ∧ s.pwr.ps = p ∧ lanesOn s ≤ laneLimit s then endPs s else s
  | none => s

/-- LANE_GATE_SWAP (R454). -/
def execLaneGateSwap (needs boundary : Option LaneIx) (s : State) : Host.Outcome State Fault Refusal :=
  act s (laneGateSwap needs boundary)

/-! ### Autonomous transitions (R457, R470) -/

/-- An entry of feature 0Ch's table: the idle transition power state, where its idle time is not 0. -/
def apstTarget (s : State) : Option (Fin 5) :=
  let e := feature s 0x20C / 2 ^ (64 * s.pwr.ps.val)
  let p := e / 8 % 32
  if e / 2 ^ 8 % 2 ^ 24 = 0 then none else if h : p < 5 then some ⟨p, h⟩ else none

/-- The idle timer expires (R457): deferred during rebuild, resynchronisation and a reshape copy; it does not run during the hold. -/
def apstExpiry (resync : Bool) (s : State) : State :=
  let busy := resync || (s.arr.zones.any fun z => (List.range z.2.place.length).any fun p => posGone s z.2 p && (posTarget z.2 p).isSome) ||
    ((s.arr.reshape.map fun r => r.copying.isSome).getD false)
  let hold := (s.host.fw.activation.map fun a => a.holding).getD false
  if (feature s 0x0C).testBit 0 = false ∨ busy ∨ hold ∨ s.sys.phase ≠ .ready ∨ s.sys.plActive ∨ s.pwr.psTarget.isSome ∨ s.host.pmWait ≠ [] then s
  else
    match apstTarget s with
    | none => s
    | some p => nextPs 1 { s with host := { s.host with pmWait := [(3, 0, p.val)] } }

/-- APST_IDLE_EXPIRY (R457). -/
def execApstIdleExpiry (resync : Bool) (s : State) : Host.Outcome State Fault Refusal := act s (apstExpiry resync)

/-- At a warm reset a request that has not reached its final step is refused with status 6 (R451). -/
def pwrWarmReset (s : State) : State :=
  match s.pwr.req with
  | some q => if q.final then s else domDone q.dom.val (domCode q.target) 6 (quiesceOver q.dom.val s)
  | none => s

end Sys2Proof.Machine
end

