-- ==== Sys2Proof/Machine/Repair.lean ====
section
/-!
DEFINITION. The warm reset, failed lanes and engines with their rebinding, uncorrectable SRAM errors, and fault injection (R31 to R39, R57,
R421 to R434, R487).
-/
namespace Sys2Proof.Machine
open Sys2Proof

/-! ### The warm reset of the firmware complex (R38, R241, R257, R288, R314, R369, R396, R421, R423, R451, R487) -/

/-- A sector is being written on a lane: its operation writes, and the write gate is high (R39). -/
def writing (s : State) (l : LaneIx) : Bool :=
  ((s.lane[l].pat.op).map fun d => decide (d.kind = 1)).getD false && wgate s l

/-- Steps 1 and 2: a sector whose write is cut gets its slip record or its rewrite (R39); gates off, cores, sequencers, DMA, SPE and CAP in reset, fetch paused. -/
def warmEnter (s : State) : State :=
  if s.flt.chipReq = false ∨ s.flt.warm then s
  else
    let now := s.sys.ms
    let old := s
    let s := { s with flt := { s.flt with
      chipReq := false
      warm := true
      chipTimes := now :: s.flt.chipTimes.filter fun t => decide (now < t + 3600000)
      chipTotal := s.flt.chipTotal + 1 } }
    let cut (t : State) (l : LaneIx) : State := if writing old l then slipInterrupted l t else t
    let s := (List.finRange 5).foldl cut s
    let one (v : Lane) : Lane := { seqReset v with warmHold := true }
    let s := { s with lane := s.lane.map one, ddp := { s.ddp with queue := [], running := Vector.replicate 2 none } }
    let s := (List.range 36).foldl (fun t k => requesterGone k t) s
    let s := capDisable (pwrWarmReset (dmaWarmReset s))
    let s := { s with spe := { s.spe with
      regs := regSet speRows s.spe.regs 0 (speReg s.spe 0 &&& ~~~ 3#32)
      active := 0
      halted := false
      groups := s.spe.groups.map fun g => { g with issued := false, held := 0 } } }
    guardAll s

/-- A lane that is not isolated runs again, and its guard is enabled again. -/
def laneRestart (l : LaneIx) (s : State) : State :=
  let s := setLane l { s.lane[l] with warmHold := false } s
  if laneBind s.flt l.val = 5 ∨ domState s (12 + l.val) ≠ .on then s
  else patCtlWrite l (patCtl s.lane[l] ||| 1#32) (rowCtlWrite l false (rowCtl s.lane[l] ||| 1#32) s)

/-- An activation that had not reached the switch fails (R369): the old image runs on. -/
def activationFail (s : State) : State :=
  match s.host.fw.activation with
  | none => s
  | some a =>
    let s := if a.holding then fetchHold false s else s
    let s := historyNote 6 (a.slot.val + 1) 0 { s with host := { s.host with fw := { s.host.fw with activation := none } } }
    if a.ctl = 3 then s else complete a.ctl a.fseq .firmwareMaxTime 0 0 [] s

/-- The whole image is reloaded from boot flash where more than 64 shadow pages fail, or a third warm reset has come within an hour (R422,
R423). -/
def wholeReload (pages : Nat) (s : State) : Bool :=
  decide (64 < pages) || decide (3 ≤ (s.flt.chipTimes.filter fun t => decide (s.sys.ms < t + 3600000)).length)

/-- Such a reload is verified as POST step 3 does it (R422; log entry 144): the active slot, else the other one, else the safe state. -/
def reloadImage (slotOk : Vector Bool 2) (s : State) : State :=
  let i := s.host.fw.active
  if slotOk[i] then s
  else if slotOk[1 - i] then { s with host := { s.host with fw := { s.host.fw with active := 1 - i } } }
  else
    let s := safeDomains (spnStopCmd (unloadFall s))
    { s with sys := { s.sys with phase := .safe }, host := { s.host with critical := true } }

/-- Steps 3 to 6: firmware reloads, deferred reactions are delivered, lanes, SPE and DMA run again, and fetch resumes. -/
def warmLeave (pages : Nat) (slotOk : Vector Bool 2) (s : State) : State :=
  if s.flt.warm = false then s
  else
    let s := if wholeReload pages s then reloadImage slotOk s else s
    let ds := s.flt.deferred
    let s := { s with flt := { s.flt with
      warm := false
      deferred := []
      delivered := ds.reverse ++ s.flt.delivered.filter fun d => !(ds.any fun x => decide (x.src = d.src)) } }
    let blk := ds.filter fun d => decide (d.rung = .blk) && blkInScope (blkOf d.src)
    let s := blk.foldl (fun t d => blkReset raise (blkOf d.src) t) s
    let runs := decide (s.sys.phase = .ready) || s.sys.journalDone || (match s.sys.phase with
      | .bindoff _ _ => true
      | .parked _ => true
      | .waking => true
      | _ => false)
    let s := if runs then { s with spe := { s.spe with regs := regSet speRows s.spe.regs 0 (speReg s.spe 0 ||| 1#32) } } else s
    let s := (List.finRange 5).foldl (fun t l => laneRestart l t) s
    let s := requalCut (activationFail s)
    let s := stcCond 0x60 0 s.flt.last s
    let phase : Phase := match s.sys.phase with
      | .bindoff t n => if n ≤ 5 ∧ s.sys.unloadLow = false then .bindoff t 1 else .bindoff t n
      | p => p
    kick { s with
      sys := { s.sys with phase := phase }
      arr := { s.arr with rowsDone := 0, rebuildAt := [], reshape := s.arr.reshape.map fun r => { r with copying := none }, converting := [] } }

/-- WARM_RESET (R421). -/
def execWarmReset (x : WarmStage) (s : State) : Host.Outcome State Fault Refusal :=
  act s fun s => match x with
    | .enter => warmEnter s
    | .leave pages slotOk => warmLeave pages slotOk s

/-! ### The binding maps (R31 to R34, R57) -/

/-- Field n of a map word. -/
def bindField (w : Word) (n : Nat) : Nat := fld w (3 * n + 2) (3 * n)

/-- A map word breaks a rule that both maps share (R32). -/
def mapBad (old w : Word) : Bool :=
  (List.range 5).any fun n =>
    let x := bindField w n
    decide (6 ≤ x) || decide (n < 4 ∧ x < 4 ∧ x ≠ n) || decide (bindField old n = 5 ∧ x ≠ 5) ||
      (List.range n).any fun m => decide (x < 4 ∧ bindField w m = x)

/-- A unit whose field becomes 0b101 (R33, R428): recorded in boot flash. -/
def newlyFailed (old w : Word) : BitVec 5 :=
  (List.range 5).foldl (fun m n => if bindField w n = 5 ∧ bindField old n ≠ 5 then setBit m n else m) 0

/-- A lane is isolated (R33): its write gate is forced off, its sequencers stop, and what it held is lost (R427). -/
def laneIsolate (l : LaneIx) (s : State) : State :=
  setLane l (seqReset s.lane[l]) { s with ddp := { s.ddp with queue := s.ddp.queue.filter fun q => decide (q.lane ≠ l) } }

/-- A lane's front end starts again after its input moved. -/
def frontMoved (l : LaneIx) (s : State) : State := setLane l { s.lane[l] with feReady := false, paSent := false } s

/-- The multiplexer of an actuator goes to the source that FLT_LANE_MAP names, or waits for WGATE to fall (R57). -/
def muxFollow (a : ActIx) (gateHigh : Bool) (s : State) : State :=
  let want := decide (laneBind s.flt 4 = a.val)
  let m := s.sys.mux[a]
  if m.fromL4 = want then { s with sys := { s.sys with mux := s.sys.mux.set a { m with waiting := false } } }
  else if gateHigh then { s with sys := { s.sys with mux := s.sys.mux.set a { m with waiting := true } } }
  else
    frontMoved (if want then 4 else a.castSucc) { s with sys := { s.sys with mux := s.sys.mux.set a { fromL4 := want, waiting := false } } }

/-- The spare unit is bound to an actuator: the condition of R439, with the unit it replaces (log entry 131). -/
def spareNote (old w : Word) (s : State) : State :=
  if bindField w 4 < 4 ∧ bindField old 4 ≠ bindField w 4 then stcCond 0x40 (bindField w 4) (BitVec.ofNat 32 (bindField w 4)) s else s

/-- A write to FLT_LANE_MAP (R32, R33, R36, R57). -/
def laneMapWrite (w : Word) (s : State) : State :=
  let old := s.flt.laneMap
  let moves := (List.finRange 5).any fun l =>
    decide (bindField w l.val ≠ bindField old l.val ∧ bindField w l.val ≠ 5) && rowRuns s.lane[l]
  if mapBad old w ∨ moves then bindError 0 s
  else
    let was (a : Fin 4) : Bool := laneless s a.val
    let high (a : Fin 4) : Bool := wgate s (laneOn s a)
    let gone := newlyFailed old w
    let highs := (List.finRange 4).map fun a => high a && !gone.getLsbD (laneOn s a).val
    let s := { s with flt := { s.flt with
      laneMap := fldAt (fld w 14 0) 14 0
      failRec := { s.flt.failRec with lanes := s.flt.failRec.lanes ||| gone } } }
    let s := (List.finRange 5).foldl (fun t l => if gone.getLsbD l.val then laneIsolate l t else t) s
    let s := (List.finRange 4).foldl (fun t a => muxFollow a (highs.getD a.val false) t) s
    spareNote old w (guardAll (lanelessNotice was s))

/-- LANE_MAP_WRITE (R32). -/
def execLaneMapWrite (w : Word) (s : State) : Host.Outcome State Fault Refusal := actWindow s (laneMapWrite w)

/-- WGATE of the actuator has fallen and its multiplexer switches (R57); a start of L4 that waited for it takes place. -/
def muxSwitch (a : ActIx) (s : State) : State :=
  if s.sys.mux[a].waiting ∧ wgate s (laneOn s a) = false then
    let s := muxFollow a false s
    let due := s.lane[(4 : LaneIx)].row.startPend && !s.sys.mux.toList.any fun m => m.waiting
    guardAll (if due then rowStart 4 s else s)
  else s

/-- MUX_SWITCH (R57). -/
def execMuxSwitch (a : ActIx) (s : State) : Host.Outcome State Fault Refusal := act s (muxSwitch a)

/-- A write to FLT_SRV_MAP (R32, R34): it takes effect at the next sample boundary of the actuator. -/
def srvMapWrite (w : Word) (s : State) : State :=
  let old := s.flt.srvMap
  let early := (List.finRange 5).any fun e =>
    let x := bindField w e.val
    let v : Srv := s.srv.get e
    decide (x < 4) && !s.sys.unloadLow && !(decide (bindField old e.val = x) || (decide (v.state = .idle) && v.holdPend))
  if mapBad old w ∨ early then bindError 1 s
  else
    let was (a : Fin 4) : Bool := laneless s a.val
    let gone := newlyFailed old w
    spareNote old w <| lanelessNotice was { s with flt := { s.flt with
      srvMap := fldAt (fld w 14 0) 14 0
      failRec := { s.flt.failRec with engines := s.flt.failRec.engines ||| gone } } }

/-- SRV_MAP_WRITE (R32). -/
def execSrvMapWrite (w : Word) (s : State) : Host.Outcome State Fault Refusal := actWindow s (srvMapWrite w)

/-! ### Failed lanes (R37, R426, R427) -/

/-- An actuator that has lost its lane is unloaded (R37). -/
def unloadAct (a : Nat) (s : State) : State :=
  match engineOf s.flt a with
  | some e => srvUnload e s
  | none => s

/-- The command ring of a lane (R243). -/
def laneRing (s : State) (l : LaneIx) : Nat := fld (laneReg s.lane[l] 0x1110) 13 0

/-- The failed lane's unstarted descriptors move to L4's command ring (R427 step 1). -/
def moveDescriptors (l : LaneIx) (s : State) : State :=
  let from_ := laneRing s l
  if from_ = laneRing s 4 then s
  else
    let ps := (ringAt s from_).packets.filter fun p => !p.isOpen && p.reader.isNone
    let rest := (ringAt s from_).packets.filter fun p => p.isOpen || p.reader.isSome
    let s := ringUpdate from_ { ringAt s from_ with packets := rest } s
    ps.foldl (fun t p => hqmPost p.owner (laneRing t 4) p.body t) s

/-- The registers L4 takes from the lane it replaces (R191, R427 step 2), and the marks on failed readers, which stay (R175). -/
def takenRegs : List Nat := [0x0C, 0x10, 0x14, 0x18, 0x1C, 0x24, 0x50, 0x400, 0x408, 0x40C]

/-- L4 takes the failed lane's table addresses and settings. -/
def takeTables (l : LaneIx) (s : State) : State :=
  let v := s.lane[(4 : LaneIx)]
  let regs := takenRegs.foldl (fun rs off => regSet laneRows rs off (laneReg s.lane[l] off)) v.regs
  setLane 4 { v with regs := regs } s

/-- What is left of an operation: from its first slot not done (R427 step 4). -/
def opRest (v : Lane) : Option OpDesc :=
  v.pat.op.map fun d =>
    let f := firstNotDone d v.pat.codes v.row.posts
    if d.kind = 4 ∨ d.first + d.count ≤ f then d else { d with first := f, count := d.first + d.count - f }

/-- A lane fails (R427): its actuator moves to L4, with its descriptors, its tables and what is left of its operation, or is handled as
lane-less, with its command ring withdrawn. -/
def laneFail (l : LaneIx) (s : State) : State :=
  let b := laneBind s.flt l.val
  if b = 5 then s
  else
    let w := setFld s.flt.laneMap (3 * l.val + 2) (3 * l.val) 5
    if b = 4 then laneMapWrite w s
    else if laneBind s.flt 4 = 4 ∧ l ≠ 4 then
      let rest := opRest s.lane[l]
      let s := laneMapWrite (setFld w 14 12 b) (takeTables l (moveDescriptors l s))
      let s := setPat l { s.lane[l].pat with lost := rest.orElse fun _ => s.lane[l].pat.lost } s
      reissue l 4 s
    else unloadAct b (ringFlush (laneRing s l) (laneMapWrite w s))

/-- The failure's own condition holds (R426): what the lane's counts show, or what hardware reports. -/
def laneFailHolds (s : State) (l : LaneIx) : LaneCause → Bool
  | .seqFaults => decide (3 ≤ ((s.flt.seqFaults[l]).filter fun t => decide (s.sys.ms < t + 3600000)).length)
  | _ => true

/-- LANE_FAIL (R427). -/
def execLaneFail (l : LaneIx) (c : LaneCause) (s : State) : Host.Outcome State Fault Refusal :=
  actWindow s fun s => if laneFailHolds s l c then laneFail l s else s

/-- The in-service loopback of an idle lane after two operations on different heads that failed every sector at rung 1 (R426). -/
def laneLoopback (l : LaneIx) (pass : Bool) (s : State) : State :=
  if (s.flt.rungOne[l]).length < 2 ∨ laneIdle s l = false then s
  else
    let s := { s with flt := { s.flt with rungOne := s.flt.rungOne.set l [] } }
    if pass then s else laneFail l s

/-- LANE_LOOPBACK (R426). -/
def execLaneLoopback (l : LaneIx) (pass : Bool) (s : State) : Host.Outcome State Fault Refusal := actWindow s (laneLoopback l pass)

/-! ### Uncorrectable SRAM errors (R425, R429, R430) -/

/-- The region of a word (R414). -/
def sramRegion : SramWord → Fin 10
  | .sab => 0
  | .laneBuffer l _ => ⟨1 + l.val, by omega⟩
  | .tcm c => ⟨6 + c.val / 12, by omega⟩
  | .l2Clean k | .l2Dirty k _ | .l2Tag k => ⟨6 + k.val, by omega⟩
  | .metadata => 9
  | .ringStorage r _ _ => r

/-- A lane-buffer word is lost: the sector is discarded and read again; a pinned one goes to rung 3 (R430). -/
def bufferLost (l : LaneIx) (pinned : Bool) (s : State) : State :=
  let v := s.lane[l]
  if pinned then
    match v.ladder.find? fun x => decide (0 < x.pinned) with
    | some x => climb l x 3 s
    | none => s
  else setLane l { v with sbuf := v.sbuf - 1 } s

/-- A packet in a ring's storage is delivered with bit 31 of header word 0 set (R412). -/
def packetSpoilt (r i : Nat) (s : State) : State :=
  let x := ringAt s r
  hqmEvent 6 (setRing r { x with packets := x.packets.mapIdx fun k p => if k = i then { p with h0 := putBit p.h0 31 true } else p } s)

/-- An uncorrectable word: the source, the row's repair, and what becomes of the data (R429, R430). -/
def sramUncorrectable (x : SramWord) (s : State) : State :=
  let r := sramRegion x
  let room := decide (spareInUse s.flt r.val < spareTotal r.val)
  let s := raise (srcSram r.val 1) s
  let s := if room then repairRow r s else s
  match x with
  | .sab | .l2Clean _ | .metadata => s
  | .laneBuffer l pinned => if room then bufferLost l pinned s else laneFail l s
  | .tcm c => coreFail c s
  | .l2Dirty _ c => machineCheck c s
  | .l2Tag k => clusterFail k s
  | .ringStorage _ r i => packetSpoilt r.val i s

/-! ### Fault injection (R434) -/

/-- The record that an injected event leaves is marked as injected. -/
def injected (f : State → State) (s : State) : State :=
  let t := f s
  match t.flt.history with
  | h :: r =>
    if t.flt.historyTotal = s.flt.historyTotal then historyNote 0 0 1 t
    else { t with flt := { t.flt with history := { h with detail := 1 } :: r } }
  | [] => historyNote 0 0 1 t

/-- An armed error of a kind and region is used up by the event it causes. -/
def takeArmed (kind region : Nat) (f : State → State) (s : State) : State :=
  if s.flt.armed.contains (kind, region) then injected f { s with flt := { s.flt with armed := s.flt.armed.erase (kind, region) } } else f s

/-- SRAM_UNCORRECTABLE (R430). -/
def execSramUncorrectable (x : SramWord) (s : State) : Host.Outcome State Fault Refusal :=
  act s (takeArmed 3 (sramRegion x).val (sramUncorrectable x))

/-- The patrol's corrected words, injected ones among them (R429, R434); the remap map is written to boot flash once an hour, as the patrol
runs. -/
def patrolRun (es : List CorrectedRow) (s : State) : State :=
  let s := es.foldl (fun t e => takeArmed 2 e.region.val (correctedRow e) t) { s with flt := { s.flt with patrolPass := s.flt.patrolPass + 1 } }
  { s with flt := { s.flt with spareSaved := s.flt.spareUse } }

/-- SRAM_PATROL (R429). -/
def execSramPatrol (es : List CorrectedRow) (s : State) : Host.Outcome State Fault Refusal := act s (patrolRun es)

/-- A fresh nonce (R434): its value is the part's own. -/
def freshNonce (s : State) : State :=
  let (v, s) := freeNext s
  { s with flt := { s.flt with nonce := v } }

/-- A signature is taken at the write of the last word of FLT_INJ_UNLOCK: valid, it opens fault injection and is recorded in log 0xC4; invalid,
a fresh nonce is issued (R434). -/
def injectionUnlock (valid : Bool) (s : State) : State :=
  if bitOf s.sys.strap 7 = false ∨ s.flt.injOpen then s
  else if valid then
    { s with
      flt := { s.flt with injOpen := true }
      sys := { s.sys with unlocks := s.stc.poh :: s.sys.unlocks } }
  else freshNonce s

/-- INJECTION_UNLOCK (R434). -/
def execInjectionUnlock (valid : Bool) (s : State) : Host.Outcome State Fault Refusal := act s (injectionUnlock valid)

/-- FLT_INJ_ARG. -/
def injArg (s : State) : Word := regGet fltRows s.flt.regs 0xE0C

/-- What injection kind k does with FLT_INJ_ARG; every other kind is ignored (R434). -/
def inject (k : Nat) (s : State) : State :=
  let a := injArg s
  if s.flt.injOpen = false then s
  else if k = 1 then (if srcReserved (fld a 9 0) ∨ 640 ≤ fld a 9 0 then s else injected (raise (fld a 9 0)) s)
  else if k = 2 ∨ k = 3 then
    (if 10 ≤ fld a 3 0 then s else { s with flt := { s.flt with armed := s.flt.armed ++ [(k, fld a 3 0)] } })
  else if k = 4 then
    (if h : fld a 2 0 < 5 then
       let l : LaneIx := ⟨fld a 2 0, h⟩
       let r := s.lane[l].row
       let at_ := fld a 27 16
       injected (setRow l (storeSet r at_ (storeGet r at_ ^^^ 1))) s
     else s)
  else if k = 5 then (if h : fld a 2 0 < 5 then injected (engineFault ⟨fld a 2 0, h⟩) s else s)
  else if k = 6 then injected lockstepMismatch s
  else if k = 7 then
    let p : ActIx := ⟨fld a 1 0 % 4, Nat.mod_lt _ (by decide)⟩
    injected (setPort p { s.port[p] with drop := s.port[p].drop + fld a 15 8 }) s
  else if k = 8 then injected (rldBurst (if bitOf a 0 then 1 else 0)) s
  else s

/-- INJ_RAISE_SOURCE (R434). -/
def execInjRaiseSource (s : State) : Host.Outcome State Fault Refusal := act s (inject 1)
/-- INJ_SINGLE_BIT_ERROR (R434). -/
def execInjSingleBitError (s : State) : Host.Outcome State Fault Refusal := act s (inject 2)
/-- INJ_DOUBLE_BIT_ERROR (R434). -/
def execInjDoubleBitError (s : State) : Host.Outcome State Fault Refusal := act s (inject 3)
/-- INJ_ROW_PARITY (R434). -/
def execInjRowParity (s : State) : Host.Outcome State Fault Refusal := act s (inject 4)
/-- INJ_SERVO_RESIDUE (R434). -/
def execInjServoResidue (s : State) : Host.Outcome State Fault Refusal := act s (inject 5)
/-- INJ_LOCKSTEP (R434). -/
def execInjLockstep (s : State) : Host.Outcome State Fault Refusal := act s (inject 6)
/-- INJ_DL_DROP (R434). -/
def execInjDlDrop (s : State) : Host.Outcome State Fault Refusal := act s (inject 7)
/-- INJ_RLD_BURST (R434). -/
def execInjRldBurst (s : State) : Host.Outcome State Fault Refusal := actWindow s (inject 8)

end Sys2Proof.Machine
end

