-- ==== Sys2Proof/Machine/Views.lean ====
section
/-!
DEFINITION. What each register reads as (R18, R19): the stored word where it is a register of its own, and the state it shows where
it is a status register. Write-only registers and reserved offsets read 0.
-/
namespace Sys2Proof.Machine
open Sys2Proof

/-- A signed value in a field. -/
def intAt (v : Int) (hi lo : Nat) : Word := fldAt (v % (2 ^ (hi - lo + 1) : Nat)).toNat hi lo

/-- A word of a number that a 64-bit pair holds (R17). -/
def halfOf (v : Nat) (high : Bool) : Word := BitVec.ofNat 32 (if high then v / 2 ^ 32 else v)

/-- Occurrences in the last hour, of a list of times in ms. -/
def lastHour (s : State) (ts : List Nat) : Nat := (ts.filter fun t => decide (s.sys.ms < t + 3600000)).length

/-! ### FLT (R30, R435) -/

/-- FLT_STATUS.top: the highest class with a pending source. -/
def topClass (f : Flt) : Nat := ([5, 4, 3, 2, 1].find? fun c => classPending f c).getD 0

/-- FLT_STATUS. -/
def fltStatus (s : State) : Word :=
  fldAt (topClass s.flt) 2 0 ||| bitAt (errOut s) 8 ||| bitAt s.flt.warm 9 ||| bitAt s.flt.injOpen 10 ||| bitAt s.flt.reseeded 11

/-- FLT_ESC: step counts, saturating at 7. -/
def fltEsc (f : Flt) : Word :=
  (List.finRange 5).foldl (fun (w : Word) c => w ||| fldAt (min 7 f.steps[c]) (4 * c.val + 2) (4 * c.val)) 0

/-- Word k of a set of sources; a hook core sees only tagged ones (R435). -/
def sourceWord (m : BitVec 640) (hook : Bool) (k : Nat) : Word :=
  (List.range 32).foldl (fun (w : Word) b =>
    w ||| bitAt (m.getLsbD (32 * k + b) && (!hook || hookTagged (32 * k + b))) b) 0

def fltView (hook : Bool) (off : Nat) (s : State) : Word :=
  let f := s.flt
  if off = 0x04 then fltStatus s
  else if off = 0x08 then fltEsc f
  else if off = 0x0C then f.last
  else if off = 0x14 then fldAt (lastHour s f.chipTimes) 7 0 ||| fldAt f.chipTotal 23 8
  else if 0x100 ≤ off ∧ off < 0x150 then sourceWord f.pend hook ((off - 0x100) / 4)
  else if 0x200 ≤ off ∧ off < 0x250 then sourceWord f.raw hook ((off - 0x200) / 4)
  else if 0x300 ≤ off ∧ off < 0x328 then
    fldAt (f.spareUse.toList.getD ((off - 0x300) / 4) 0) 11 0 ||| fldAt (spareTotal ((off - 0x300) / 4)) 27 16
  else if off = 0x340 then fldAt f.rldFailed.toNat 1 0 ||| bitAt f.mirror 2
  else if off = 0xE00 then halfOf (if f.injOpen then f.nonce.toNat else 0) false
  else if off = 0xE04 then halfOf (if f.injOpen then f.nonce.toNat else 0) true
  else if 0xE10 ≤ off ∧ off < 0xE70 then 0
  else if off = 0xF00 then f.laneMap
  else if off = 0xF04 then f.srvMap
  else if off = 0xF08 then f.bindErr
  else if off = 0xF10 then coreMapWord f 0
  else if off = 0xF14 then coreMapWord f 1
  else if off = 0xF18 then coreMapWord f 2
  else if off = 0xF1C then 0
  else if 0x1000 ≤ off ∧ off < 0x1A00 then srcCfg f ((off - 0x1000) / 4)
  else regGet fltRows f.regs off

/-! ### STC (R445): the read port is banked per core (R441) -/

def stcView (c : Option CoreIx) (off : Nat) (s : State) : Word :=
  let t := s.stc
  let cur (f : StcCursor → Word) : Word := (c.map fun c => f t.core[c]).getD 0
  if off = 0x04 then
    bitAt t.live.noHistory 0 ||| bitAt t.live.historyLost 1 ||| bitAt t.write.isSome 2 ||| bitAt t.restored 3 ||| fldAt t.failuresReset 31 16
  else if off = 0x0C then BitVec.ofNat 32 t.poh
  else if off = 0x10 then BitVec.ofNat 32 t.pos
  else if off = 0x100 then cur fun x => fldAt x.group 7 0
  else if off = 0x104 then cur fun x => fldAt x.cur 30 0 ||| bitAt (stcAtEnd x.group x.cur) 31
  else if 0x140 ≤ off ∧ off < 0x180 then cur fun x => BitVec.ofNat 32 (x.window.toNat / 2 ^ (8 * (off - 0x140)))
  else stcReg t off

/-! ### DMA, HQM, CAP (R411 to R413) -/

def chanStateCode : ChanState → Nat
  | .idle => 0 | .running => 1 | .waiting => 2 | .parked => 3 | .stopped => 4

/-- A register of one channel. -/
def chanView (n : ChanIx) (o : Nat) (s : State) : Word :=
  let c := s.dma.chan[n]
  if o = 0x10 then halfOf c.cur false
  else if o = 0x14 then halfOf c.cur true
  else if o = 0x18 then fldAt (chanStateCode c.state) 2 0 ||| fldAt c.code 6 4 ||| bitAt c.flag 7 ||| fldAt c.pend 11 8 ||| fldAt c.spur 31 16
  else if o = 0x1C then fldAt c.resid 23 0
  else if o = 0x24 then BitVec.ofNat 32 c.done
  else dmaReg s.dma (0x1000 + 64 * n.val + o)

def dmaView (hook : Bool) (off : Nat) (s : State) : Word :=
  let d := s.dma
  let count (x : ChanState) : Nat := (d.chan.toList.filter fun c => decide (c.state = x)).length
  if h : 0x1000 ≤ off ∧ (off - 0x1000) / 64 < 64 then chanView ⟨(off - 0x1000) / 64, h.2⟩ ((off - 0x1000) % 64) s
  else if off = 0x04 then fldAt (count .running) 6 0 ||| fldAt (count .parked) 14 8 ||| bitAt d.quiesce.isSome 16
  else if off = 0x0C then fldAt (d.quiesce.getD 0) 7 0 ||| bitAt d.quiesce.isSome 8
  else if off = 0x10 then halfOf d.irq.toNat false
  else if off = 0x14 then halfOf d.irq.toNat true &&& (if hook then 0xFFFF0000#32 else 0xFFFFFFFF#32)
  else dmaReg d off

/-- A register of the queue manager, as requester n sees it. -/
def hqmView (n : Nat) (hook : Bool) (off : Nat) (s : State) : Word :=
  let q := s.hqm
  let x := ringAt s (selRing s)
  let p := hqmPort s n
  let k := readPacket s p
  if off = 0x04 then fldAt (q.rings.filter fun r => r.2.enabled).length 14 0
  else if off = 0x14 then halfOf x.base false
  else if off = 0x18 then halfOf x.base true
  else if off = 0x1C then fldAt x.cfg.toNat 13 0 ||| bitAt (decide (15360 ≤ selRing s)) 14
  else if off = 0x20 then x.wm
  else if off = 0x28 then
    fldAt (occupancy x) 16 0 ||| fldAt (openCount x) 20 17 ||| bitAt x.pacing 21 ||| bitAt x.flushing 22 ||| bitAt (headClosed x) 23 |||
      bitAt x.enabled 24
  else if off = 0x30 then hqmReg q off &&& (if hook then 0xF0000000#32 else 0xFFFFFFFF#32)
  else if off = 0x100 then fldAt p.prodRing 13 0
  else if off = 0x104 then p.h[0]
  else if off = 0x108 then p.h[1]
  else if off = 0x10C then p.h[2]
  else if off = 0x134 then fldAt p.close 1 0 ||| bitAt p.openIn.isSome 8 ||| fldAt p.written 27 16
  else if off = 0x200 then fldAt p.consRing 13 0
  else if off = 0x210 then (k.map fun k => k.h0).getD 0
  else if off = 0x214 then (k.map fun k => k.h1).getD 0
  else if off = 0x218 then (k.map fun k => k.h2).getD 0
  else if off = 0x21C then (k.map fun k => k.h3).getD 0
  else if 0x220 ≤ off ∧ off < 0x230 then consWord n ((off - 0x220) / 4) s
  else if off = 0x234 then
    bitAt p.reading.isSome 0 ||| bitAt p.flushed 1 ||| bitAt (headClosed (ringAt s p.consRing)) 2 |||
      fldAt ((k.map fun k => packetSlots k - 1 - p.nextSlot).getD 0) 27 16
  else if (0x100 ≤ off ∧ off < 0x300) ∨ off = 0x24 then 0
  else hqmReg q off

def capView (off : Nat) (s : State) : Word :=
  if off = 0x0C then bitAt (capXoff s) 0 ||| bitAt s.cap.hold 1 ||| fldAt s.cap.dropped 31 16 else capReg s.cap off

/-! ### PWR and CLK (R465, R466) -/

/-- PWR_STATUS. -/
def pwrStatus (s : State) : Word :=
  fldAt s.pwr.ps.val 2 0 ||| fldAt (laneLimit s) 5 3 ||| fldAt (lanesOn s) 8 6 ||| bitAt s.pwr.req.isSome 9 |||
    bitAt (s.pwr.holdW || s.pwr.holdC) 10 ||| bitAt (decide (s.sys.phase = .safe)) 11

/-- PWR_HALTED. -/
def haltedCores (s : State) : Nat := (List.range 36).foldl (fun v k => if coreHalted s k then v + 2 ^ k else v) 0

/-- PWR_DOMd. -/
def domWord (s : State) (d : Nat) : Word :=
  fldAt (domCode (domState s d)) 1 0 ||| bitAt ((s.pwr.req.map fun r => decide (r.dom.val = d)).getD false) 2 |||
    bitAt (s.pwr.quiescing.getLsbD d) 3

def pwrView (off : Nat) (s : State) : Word :=
  if off = 0x04 then pwrStatus s
  else if off = 0x10 then s.pwr.resp
  else if off = 0x14 then fldAt s.pwr.railLow.toNat 6 0 ||| fldAt s.pwr.railHigh.toNat 14 8
  else if off = 0x18 then halfOf s.pwr.haltReq.toNat false
  else if off = 0x1C then halfOf s.pwr.haltReq.toNat true
  else if off = 0x20 then halfOf (haltedCores s) false
  else if off = 0x24 then halfOf (haltedCores s) true
  else if 0x40 ≤ off ∧ off < 0xA4 then domWord s ((off - 0x40) / 4)
  else if off = 0xF80 then s.sys.strap
  else pwrReg s.pwr off

/-- The power domain of a clock domain (R460). -/
def clkPower (k : Nat) : Nat :=
  if 2 ≤ k ∧ k ≤ 4 then k
  else if k = 5 ∨ k = 6 then 1
  else if k = 7 ∨ k = 8 then k + 1
  else if k = 9 ∨ k = 10 then k - 3
  else if k = 11 then 5
  else if 12 ≤ k ∧ k ≤ 26 then 12 + (k - 12) % 5
  else if k = 27 ∨ k = 28 then 23
  else if 29 ≤ k ∧ k ≤ 33 then k - 12
  else if k = 34 ∨ k = 35 then 22
  else if k = 38 then 24
  else 0

/-- Clock domains that follow REFXTAL, directly or through a PLL (R460). -/
def fromRefxtal (k : Nat) : Bool := decide ((1 ≤ k ∧ k ≤ 8) ∨ k = 11 ∨ (22 ≤ k ∧ k ≤ 26) ∨ (29 ≤ k ∧ k ≤ 37))

/-- A domain that follows REFXTAL now: the PCIe ports do under SRIS (R328, R460). -/
def followsXtal (s : State) (k : Nat) : Bool := fromRefxtal k || (decide (k = 9 ∨ k = 10) && bitOf s.sys.strap 5)

/-- CLK_DOMk (R460, R463, R466): a yarn recovery PLL locks with its head. -/
def clkDomWord (s : State) (k : Nat) : Word :=
  let on := decide (domState s (clkPower k) = .on)
  let lock := if k = 27 then s.yck.head[0].locked else if k = 28 then s.yck.head[1].locked else on
  bitAt on 0 ||| bitAt (on && lock) 1 ||| bitAt (decide (k = 0) || (followsXtal s k && s.clk.onBackup)) 2

def clkView (off : Nat) (s : State) : Word :=
  if off = 0x04 then bitAt s.clk.running 0 ||| bitAt s.clk.onBackup 1 ||| bitAt s.clk.restored 2
  else if off = 0x0C then fldAt s.clk.ppm.toNat 15 0
  else if off = 0x10 then fldAt Config.backupTrim.toNat 11 0
  else if 0x100 ≤ off ∧ off < 0x1A0 then clkDomWord s ((off - 0x100) / 4)
  else regGet clkRows s.clk.regs off

/-! ### LANE and the deep-decode pool (R192, R215, R216, R243) -/

def rowStateCode : RowState → Nat
  | .stopped => 0 | .running => 1 | .waiting => 2 | .stall => 3 | .machineCheck => 4 | .fault => 5 | .brk => 6

def patStateCode : PatState → Nat
  | .stopped => 0 | .idle => 1 | .operation => 2 | .quiesced => 3 | .machineCheck => 4

/-- LANE_FE_STATUS. -/
def feStatus (l : LaneIx) (s : State) : Word :=
  let v := s.lane[l]
  let act := (laneAct s.flt l).filter fun a => decide (laneOn s a = l)
  let pa := (act.map fun a => s.sys.paFault.getLsbD a.val).getD false
  fldAt v.modeOn 11 10 ||| fldAt v.rdrOn.toNat 15 12 ||| bitAt v.feReady 16 ||| bitAt (decide (guardCauses s l ≠ 0)) 17 |||
    bitAt (wgate s l) 18 ||| bitAt ((act.map fun a => loaded s a.val).getD false) 19 ||| bitAt pa 20 ||| fldAt ((act.map Fin.val).getD 7) 23 21

/-- LANE_ROW_STATUS. -/
def rowStatus (v : Lane) : Word :=
  fldAt v.row.pc 11 0 ||| fldAt (rowStateCode v.row.state) 14 12 ||| bitAt v.row.swapPend 15 ||| fldAt v.row.stack.length 18 16 |||
    bitAt v.row.shadow1 19 ||| fldAt v.row.fifo.length 24 20 ||| fldAt v.row.remap.length 29 25

/-- LANE_PAT_STATUS. -/
def patStatus (v : Lane) : Word :=
  fldAt v.pat.pc 13 0 ||| bitAt v.pat.inDarn 14 ||| fldAt (patStateCode v.pat.state) 17 15 ||| bitAt (!v.pat.staged.isEmpty) 23

/-- LANE_DEC_STAT: a decoder is busy while sectors wait for it (log entry 98). -/
def decStat (v : Lane) : Word :=
  let q (o : Fin 3) : Word := fldAt v.queue[o] (4 * o.val + 3) (4 * o.val) ||| bitAt (decide (0 < v.queue[o])) (12 + o.val)
  q 0 ||| q 1 ||| q 2 ||| bitAt v.halved 15 ||| fldAt v.ladder.length 23 16

/-- Bit k of LANE_ROW_REMAP_USE. -/
def remapUse (v : Lane) : Word := v.row.remap.foldl (fun (w : Word) x => w ||| bitAt true x.1) 0

/-- LANE_ROW_REMAPk. -/
def remapWord (v : Lane) (k : Nat) : Word :=
  match v.row.remap.find? fun x => decide (x.1 = k) with
  | some x => fldAt x.2 11 0 ||| bitAt true 31
  | none => 0

/-- A tap of LANE_EQ_TAPS (R179, R192): of the initial set, or what the equalizer has adapted to. -/
def tapWord (v : Lane) (k : Nat) : Word :=
  match v.taps with
  | .initial => fldAt (v.tapSet.getD k 0) 9 0
  | .adapted n => fldAt (Config.freeValue (n + k)).toNat 9 0

/-- The ring's retention in µs (R183): its 1,572,864 bytes over 0.75 byte per sample, reader and bit, at the zone's bit rate and nominal speed;
0 without a reader or a zone. -/
def retention (s : State) (l : LaneIx) : Nat :=
  match laneZone s l with
  | none => 0
  | some z =>
    let readers := ones 4 s.lane[l].rdrOn.toNat
    min 65535 (1572864 * 4 * 240 * 1000000 / (3 * readers * revBits s z * spnNominalQ s.spn))

def laneView (l : LaneIx) (off : Nat) (s : State) : Word :=
  let v := s.lane[l]
  let rdr (r : Fin 4) : Word := fldAt v.clipped[r] 11 0 ||| fldAt v.mean[r] 23 16 ||| bitAt v.low[r] 24
  if off = 0x04 then feStatus l s
  else if off = 0x2C then intAt v.temp 7 0
  else if off = 0x30 then fldAt (retention s l) 15 0 ||| fldAt v.hold 20 16 ||| fldAt v.holdHigh 28 24
  else if off = 0x38 then fldAt v.paData 7 0 ||| bitAt v.paBusy 8 ||| fldAt v.paQueue.length 12 9
  else if off = 0x40 then rdr 0
  else if off = 0x44 then rdr 1
  else if off = 0x48 then rdr 2
  else if off = 0x4C then rdr 3
  else if 0x100 ≤ off ∧ off < 0x340 then tapWord v ((off - 0x100) / 4)
  else if off = 0x410 then decStat v
  else if off = 0x1004 then rowStatus v
  else if off = 0x100C then v.row.fault
  else if off = 0x1014 then fldAt v.row.mark 26 0
  else if off = 0x1018 then fldAt v.row.cnt0 15 0 ||| fldAt v.row.cnt1 31 16
  else if off = 0x1050 then remapUse v
  else if 0x1080 ≤ off ∧ off < 0x10C0 then remapWord v ((off - 0x1080) / 4)
  else if off = 0x1104 then patStatus v
  else if off = 0x110C then v.pat.fault
  else laneReg v off

/-- DDP_STATUS. -/
def ddpStatus (p : Ddp) : Word :=
  let most := (List.finRange 5).foldl (fun n l => max n (p.queue.filter fun q => decide (q.lane = l)).length) 0
  fldAt p.queue.length 5 0 ||| bitAt p.running[0].isSome 8 ||| bitAt p.running[1].isSome 9 ||| fldAt most 14 10

def ddpView (off : Nat) (s : State) : Word :=
  if off = 0x800 then regGet ddpRows s.ddp.regs off &&& ~~~ BitVec.ofNat 32 s.ddp.failed.toNat
  else if off = 0x804 then ddpStatus s.ddp
  else regGet ddpRows s.ddp.regs off

/-! ### SRV, SPN, YCK (R88, R118, R144) -/

def srvStateCode : SrvState → Nat
  | .idle => 0 | .parked => 1 | .loading => 2 | .capture => 3 | .seek => 4 | .settle => 5 | .follow => 6 | .hold => 7
  | .unloading => 8 | .failed => 9

/-- SRV_STATUS. -/
def srvStatus (v : Srv) : Word :=
  fldAt (srvStateCode v.state) 3 0 ||| bitAt v.holdPend 5 ||| bitAt v.bankB 6 ||| bitAt v.swapPend 7 ||| bitAt v.onTrack 8 |||
    bitAt (srvWrOk v) 9 ||| bitAt v.rdOk 10 ||| bitAt v.coarse 11 ||| fldAt v.inh.toNat 22 16 ||| fldAt v.head 26 24

/-- SRV_STATE: word k of section i, s1 and s2 each as a 64-bit pair. -/
def srvStateWord (v : Srv) (i k : Nat) : Word :=
  let x := if k < 2 then v.s1.toList.getD i 0 else v.s2.toList.getD i 0
  halfOf (x % (2 ^ 64 : Nat)).toNat (decide (k % 2 = 1))

def srvView (e : EngIx) (off : Nat) (s : State) : Word :=
  let v := s.srv[e]
  if off = 0x04 then srvStatus v
  else if off = 0x14 then halfOf (v.pos % (2 ^ 34 : Nat)).toNat false
  else if off = 0x18 then halfOf (v.pos % (2 ^ 34 : Nat)).toNat true
  else if off = 0x1C then intAt v.err 23 0
  else if off = 0x80 then intAt v.dlCur 17 0 ||| fldAt v.dlStatus 19 18 ||| fldAt v.dlInvalid 23 20
  else if off = 0x84 then fldAt (srvSet v 0x84).toNat 15 0 ||| fldAt v.longest 31 16
  else if 0x2000 ≤ off ∧ off < 0x2180 then srvStateWord v ((off - 0x2000) / 16) (off % 16 / 4)
  else srvSet v off

def spnStateCode : SpnState → Nat
  | .stopped => 0 | .sensing => 1 | .braking => 2 | .aligning => 3 | .accelerating => 4 | .catching => 5 | .running => 6
  | .resync => 7 | .restart => 8 | .limp => 9 | .powerloss => 10 | .spindown => 11 | .fault => 12

/-- SPN_STATUS. -/
def spnStatus (s : State) : Word :=
  let p := s.spn
  fldAt (spnStateCode p.state) 3 0 ||| bitAt (spnAtSpeed p) 4 ||| bitAt p.wrOk 5 ||| bitAt p.hold 6 ||| bitAt p.limpGates 7 |||
    bitAt p.pairFailed 8 ||| bitAt s.sys.permitIn 9 ||| bitAt p.startPend 10 ||| fldAt p.attempt 19 16 ||| fldAt p.faultCause 23 20

def rotationCode : Rotation → Nat
  | .still => 0 | .forward => 1 | .backward => 2

def spnView (off : Nat) (s : State) : Word :=
  let p := s.spn
  if off = 0x04 then spnStatus s
  else if off = 0x0C then fldAt p.speedQ 15 0 ||| fldAt (rotationCode p.dir) 17 16 ||| bitAt p.speedValid 18
  else if off = 0x50 then intAt p.phaseCur[0] 15 0 ||| intAt p.phaseCur[1] 31 16
  else if off = 0x54 then intAt p.tRef 15 0 ||| intAt p.tEst 31 16
  else if off = 0x58 then lockstepWord s
  else regGet spnRows p.regs off

def yckModeCode : YckMode → Nat
  | .off => 0 | .dual => 1 | .single => 2 | .preamble => 3

/-- YCK_STATUS (R92, R95, R96). -/
def yckStatus (s : State) : Word :=
  let y := s.yck
  let wck := (wckEngine s).isSome
  let act := match y.active with
    | some h => h.val
    | none => if y.preamble then 2 else 3
  fldAt act 1 0 ||| bitAt y.head[0].locked 2 ||| bitAt y.head[1].locked 3 ||| bitAt y.head[0].qual 4 ||| bitAt y.head[1].qual 5 |||
    bitAt wck 6 ||| bitAt (y.guardSector || y.guardSlew) 7 ||| bitAt y.slewing 8 ||| fldAt (yckModeCode (yckMode y)) 13 12

/-- YCK_LANEn_STAT. -/
def yckLaneStat (t : LaneTiming) : Word :=
  let code := match t.timing with
    | .none => 0
    | .yarn => 1
    | .preamble => 2
  fldAt t.surface 4 0 ||| fldAt t.zone 13 8 ||| fldAt code 15 14 ||| bitAt t.rowOk 16 ||| intAt t.syncDev 31 24

def yckView (off : Nat) (s : State) : Word :=
  let y := s.yck
  if off = 0x04 then yckStatus s
  else if off = 0x20 then fldAt (y.yofs % 1024) 9 0
  else if off = 0x24 then fldAt (y.yofs / 1024) 23 0
  else if h : 0x48 ≤ off ∧ (off - 0x48) % 16 = 0 ∧ (off - 0x48) / 16 < 5 then yckLaneStat y.lane[(off - 0x48) / 16]
  else yckReg y off

/-! ### SPE and HIF (R270, R486) -/

/-- SPE_STATUS. -/
def speStatus (s : State) : Word :=
  let p := s.spe
  let state := if speOn s = false then 0 else if p.stalled then 3 else if p.halted then 2 else 1
  fldAt state 1 0 ||| bitAt p.halted 2 ||| bitAt (p.groups.any fun g => g.issued) 3 ||| bitAt p.ckptBusy 4 |||
    fldAt (p.replica.toList.filter fun r => r.current).length 7 5

def speView (off : Nat) (s : State) : Word :=
  let p := s.spe
  if off = 0x04 then speStatus s
  else if off = 0x18 then jrnlMemb p
  else if off = 0x1C then halfOf p.next false
  else if off = 0x20 then halfOf p.next true
  else if off = 0x24 then halfOf p.dur false
  else if off = 0x28 then halfOf p.dur true
  else if off = 0x2C then fldAt p.live.length 23 0
  else if off = 0x40 then fldAt p.dirty.length 23 0
  else if off = 0x4C then fldAt (ringAt s (fld (speReg p 0x10) 13 0)).packets.length 7 0 ||| fldAt p.active 15 8
  else speReg p off

def ctlRoleCode : CtlRole → Nat
  | .none => 0 | .standby => 1 | .attached => 2

/-- HIF_STATUS. -/
def hifStatus (s : State) : Word :=
  let h := s.hif
  let w (n : Nat) : Nat := if n = 1 then 1 else if n = 2 then 2 else if n = 4 then 4 else 0
  let a := h.ctl[0]
  let b := h.ctl[1]
  fldAt (ctlRoleCode a.role) 1 0 ||| fldAt (ctlRoleCode b.role) 3 2 ||| bitAt a.linkUp 4 ||| bitAt b.linkUp 5 |||
    fldAt (w a.width) 8 6 ||| fldAt (w b.width) 11 9 ||| fldAt a.rate 14 12 ||| fldAt b.rate 17 15 ||| bitAt (bitOf (hifReg h 0) 0) 18

/-- HIF_VSEC_STATUS of controller c's function (R333). -/
def vsecStatus (c : CtlIx) (s : State) : Word :=
  let v := s.hif.ctl[c]
  let o := s.hif.ctl[peer c]
  fldAt (ctlRoleCode v.role) 1 0 ||| bitAt o.linkUp 2 ||| bitAt (decide (o.role = .attached)) 3 ||| fldAt v.attach 6 4 ||| fldAt v.changes 15 8

/-- HIF_VSEC_CTL as it reads (R333). -/
def vsecCtl (c : CtlIx) (s : State) : Word := bitAt s.hif.ctl[c].force 1 ||| bitAt s.hif.ctl[c].auto 2

def hifView (off : Nat) (s : State) : Word :=
  if off = 0x04 then hifStatus s
  else if off = 0x0C then fldAt (hifReg s.hif 0x0C).toNat 1 0 ||| fldAt s.hif.feFailed.toNat 3 2
  else if off = 0x10 then halfOf s.hif.fseq false
  else if off = 0x14 then halfOf s.hif.fseq true
  else hifReg s.hif off

/-! ### Any register -/

/-- Bits of a register whose value the model does not hold, so that a read gives a free value there: the master phase while a head is
active, and the measured offset while both heads are locked (R92, R94; log entry 2). -/
def openBits (s : State) (b : Blk) (off : Nat) : Word :=
  match b with
  | .lane _ => if off = 0x30 then 0xFFFF#32 else 0
  | .dma => if off = 0x0C then 0xFFFF0000#32 else 0
  | .spe => if off = 0x4C then 0x01FF0000#32 else 0
  | .yck =>
    let phase := s.yck.active.isSome
    let both := s.yck.head[0].locked && s.yck.head[1].locked
    if off = 0x28 ∧ phase then 0x3FF#32 else if off = 0x2C ∧ phase then 0xFFFFFFFF#32
    else if off = 0x20 ∧ both then 0x3FF#32 else if off = 0x24 ∧ both then 0xFFFFFF#32 else 0
  | _ => 0

/-- The word a free value gives in those bits: periods run from 0 to N_ct - 1 (R92). -/
def openValue (s : State) (b : Blk) (off : Nat) (v : BitVec 64) : Word :=
  let n := fld (yckReg s.yck 0x0C) 23 0
  if b = .yck ∧ (off = 0x2C ∨ off = 0x24) then fldAt (v.toNat % 2 ^ 32 % n) 23 0 ||| fldAt (v.toNat / 2 ^ 32) 31 24
  else BitVec.ofNat 32 v.toNat

/-- What requester n reads at an offset of a block, but for the open bits. -/
def blockView (n : Nat) (hook : Bool) (b : Blk) (off : Nat) (s : State) : Word :=
  match b with
  | .flt => fltView hook off s
  | .stc => stcView (if h : n < 36 then some ⟨n, h⟩ else none) off s
  | .dma => dmaView hook off s
  | .hqm => hqmView n hook off s
  | .pwr => pwrView off s
  | .clk => clkView off s
  | .lane l => if 0x800 ≤ off ∧ off ≤ 0x80C then (if l = 0 then ddpView off s else 0) else laneView l off s
  | .srv e => if off = 0x90 then (if e = 0 then regGet snsRows s.sns.regs off else 0) else srvView e off s
  | .spn => spnView off s
  | .yck => yckView off s
  | .spe => speView off s
  | .hif => hifView off s
  | .cap => capView off s

end Sys2Proof.Machine
end

