-- ==== Sys2Proof/Machine/Pages.lean ====
section
/-!
DEFINITION. The pages that Identify and Get Log Page return (R302, R339, R341, R343, R345, R371, R373, R378 to R381, R446, R452), as
little-endian numbers. What the spec leaves to the NVMe specifications is laid out as those do (log entry 106); a content that neither
gives is a free value.
-/
namespace Sys2Proof.Machine
open Sys2Proof

/-! ### Building pages -/

/-- A page from its fields: byte, width in bytes, value. -/
def pageOf (fs : List (Nat × Nat × Nat)) : Nat := fs.foldl (fun a f => a + winAt f.1 f.2.1 f.2.2) 0

/-- Records of a fixed size, one after another from a byte. -/
def records (at_ size : Nat) (xs : List Nat) : List (Nat × Nat × Nat) :=
  (xs.zip (List.range xs.length)).map fun x => (at_ + size * x.2, size, x.1)

/-- n free values of 8 bytes, as one number. -/
def freeWords (n : Nat) (s : State) : Nat × State :=
  match n with
  | 0 => (0, s)
  | n + 1 =>
    let (v, s) := freeNext s
    let (t, s) := freeWords n s
    (v.toNat + t * 2 ^ 64, s)

/-- A page of `size` bytes whose first bytes are known and whose rest is free. -/
def openPage (known size front : Nat) (s : State) : Nat × State :=
  let (v, s) := freeWords ((size + 7) / 8) s
  ((front % 256 ^ known + v * 256 ^ known) % 256 ^ size, s)

/-- A list of 32-bit numbers, as Identify returns namespace lists. -/
def listPage (xs : List Nat) : Nat := pageOf (records 0 4 (xs.take 1024))

/-! ### Identify (R302, R339, R341, R343, R345, R452) -/

/-- Whether a namespace is attached to controller index c. -/
def attachedTo (v : Namespace) (c : Nat) : Bool := v.attached.getLsbD c

/-- A power-state descriptor of R452: MP, its idle power, the non-operational bit, the latencies, the relative levels. -/
def psDescriptor (mp idle enlat exlat rank : Nat) (nonOp : Bool) : Nat :=
  pageOf [(0, 2, mp), (3, 1, flagBit nonOp 1), (4, 4, enlat), (8, 4, exlat), (12, 1, rank), (13, 1, rank), (14, 1, rank), (15, 1, rank),
          (16, 2, idle), (18, 1, if idle = 0 then 0 else 128)]

/-- Identify Controller (R339), with the RTD3 latencies of R311 and the safe-state bytes of R302; VER, OAES, CNTRLTYPE, MEC and LPA hold what
the capabilities stated make them (log entry 106). -/
def idController (c : Nat) (s : State) : Nat :=
  let safe := decide (s.sys.phase = .safe)
  pageOf
    ([(76, 1, if bitOf s.sys.strap 1 then 3 else 0), (77, 1, 9), (78, 2, c + 1), (80, 4, 0x20000),
      (84, 4, 22000000), (88, 4, 2000000), (92, 4, 0x08000300), (96, 4, 2 ^ 15), (111, 1, 1), (255, 1, 1), (256, 2, 0x5F), (260, 1, 0x14),
      (261, 1, 0x26), (262, 1, 63),
      (263, 1, 4), (265, 1, 1), (266, 2, 368), (268, 2, 378), (270, 2, 2), (316, 2, 480), (319, 1, 1), (328, 4, 3), (512, 1, 0x66), (513, 1, 0x44),
      (516, 4, 16), (520, 2, 0xD9), (524, 1, 4), (536, 4, 2), (540, 4, 16), (3072, 1, if safe then 1 else 0),
      (3073, 1, if safe then s.sys.post.failingStep else 0)] ++
     records 2048 32 [psDescriptor 1150 0 0 0 0 false, psDescriptor 700 0 15000 1000 1 false, psDescriptor 450 0 15000 1000 2 false,
       psDescriptor 240 240 2000000 500000 3 true, psDescriptor 65 42 2000000 14000000 4 true])

/-- FLBAS and DPS of a namespace (R345). -/
def flbasOf (v : Namespace) : Nat := (if v.meta16 then 1 else 0) + flagBit v.ext 4
def dpsOf (v : Namespace) : Nat := if v.pi then 1 + flagBit v.pip 3 else 0

/-- Identify Namespace (R342, R345). -/
def idNamespace (v : Namespace) : Nat :=
  let n := nsBlocks v
  pageOf [(0, 8, n), (8, 8, n), (16, 8, n), (25, 1, 1), (26, 1, flbasOf v), (27, 1, 3), (28, 1, 0x19), (29, 1, dpsOf v),
          (30, 1, if v.shared then 1 else 0), (128, 4, 0x000C0000), (132, 4, 0x000C0010)]

/-- The zoned command set's namespace page (R343). -/
def idZoned : Nat := pageOf [(0, 2, 1), (2, 2, 0), (4, 4, 255), (8, 4, 127), (2816, 8, 65536), (2832, 8, 65536)]

/-- The NVM command set's namespace page: the guard format of LBA format 1 (R345). -/
def idNvm : Nat := pageOf [(16, 4, 0x100)]

/-- Namespaces that satisfy a test, in ascending order of identifier, above a given one. -/
def nsAbove (s : State) (ns : Nat) (f : Namespace → Bool) : List Nat :=
  (List.range 17).filter fun k => decide (ns < k) && ((nsGet s k).map f).getD false

/-- A namespace's page: an identifier that cannot exist is refused, one that is not there, or not attached where that matters, reads 0. -/
def nsPage (s : State) (c ns : Nat) (allocated : Bool) (f : Namespace → Nat) : Option Nat :=
  if ns = 0 ∨ 16 < ns then none
  else some (match nsGet s ns with
    | some v => if allocated ∨ attachedTo v c then f v else 0
    | none => 0)

/-- A page returned. -/
def pageAnswer (p : Nat) : Status × Nat := (.success, p)

/-- A namespace's page returned, or the namespace refused. -/
def nsAnswer (p : Option Nat) : Status × Nat :=
  match p with
  | some p => (.success, p)
  | none => (.invalidNamespace, 0)

/-- The descriptors' page: the UUID's entry and the command set's. -/
def idUuid (zoned : Bool) (id : Nat) : Nat :=
  pageOf [(0, 1, 3), (1, 1, 16), (4, 16, id), (20, 1, 4), (21, 1, 1), (24, 1, if zoned then 2 else 0)]

/-- A namespace's descriptors: UUID type, a free identifier, and the command set (R339, R342). -/
def idDescriptors (ns : Nat) (s : State) : Status × Nat × State :=
  match nsGet s ns with
  | some v =>
    let (id, s) := freeWords 2 s
    (.success, idUuid v.zoned id, s)
  | none => (.invalidNamespace, 0, s)

/-- The outcome of Identify for every other structure: a status, or a page. -/
def idKnown (c cns csi ns cntid : Nat) (s : State) : Status × Nat :=
  let sets (v : Namespace) : Bool := decide ((if v.zoned then 2 else 0) = csi)
  let safe := decide (s.sys.phase = .safe)
  if safe ∧ 2 ≤ cns then (.invalidField, 0)
  else
    match cns with
    | 0x00 => if safe then pageAnswer 0 else nsAnswer (nsPage s c ns false idNamespace)
    | 0x01 => pageAnswer (idController c s)
    | 0x02 => pageAnswer (listPage (nsAbove s ns fun v => attachedTo v c))
    | 0x05 => if csi = 0 then nsAnswer (nsPage s c ns false fun _ => idNvm)
              else if csi = 2 then nsAnswer (nsPage s c ns false fun v => if v.zoned then idZoned else 0) else (.invalidField, 0)
    | 0x06 => if csi = 0 then pageAnswer 0 else if csi = 2 then pageAnswer 9 else (.invalidField, 0)
    | 0x07 => pageAnswer (listPage (nsAbove s ns fun v => attachedTo v c && sets v))
    | 0x08 => nsAnswer (nsPage s c ns false fun v => pageOf [(1, 1, if v.shared then 1 else 0), (14, 1, 1)])
    | 0x10 => pageAnswer (listPage (nsAbove s ns fun _ => true))
    | 0x11 => nsAnswer (nsPage s c ns true idNamespace)
    | 0x12 =>
      (match nsGet s ns with
       | some v =>
         let cs := (List.range 2).filter fun k => attachedTo v k && decide (cntid ≤ k + 1)
         pageAnswer (pageOf ((0, 2, cs.length) :: records 2 2 (cs.map fun k => k + 1)))
       | none => (.invalidNamespace, 0))
    | 0x13 =>
      let cs := (List.range (if bitOf s.sys.strap 1 then 2 else 1)).filter fun k => decide (cntid ≤ k + 1)
      pageAnswer (pageOf ((0, 2, cs.length) :: records 2 2 (cs.map fun k => k + 1)))
    | 0x1C => pageAnswer 5
    | _ => (.invalidField, 0)

/-- The outcome of Identify: a status, or a page. -/
def identifyPage (c cns csi ns cntid : Nat) (s : State) : Status × Nat × State :=
  if cns = 3 ∧ s.sys.phase ≠ .safe then idDescriptors ns s
  else
    let r := idKnown c cns csi ns cntid s
    (r.1, r.2, s)

/-! ### Standard log pages (R341, R371) -/

/-- Pages Get Log Page supports (R341). -/
def logPages : List Nat := [0x00, 0x01, 0x02, 0x03, 0x04, 0x05, 0x06, 0x81, 0xBF, 0xC0, 0xC1, 0xC2, 0xC3, 0xC4]

/-- Supported Log Pages: bit 0 of each page's dword. -/
def logSupported : Nat := pageOf (logPages.map fun l => (4 * l, 4, 1))

/-- Error Information: the first failing LBA of each entry is the spec's (R360); the rest of an entry is free. -/
def logErrors (xs : List (Nat × Nat)) (s : State) : Nat × State :=
  match xs with
  | [] => (0, s)
  | x :: t =>
    let (a, s) := freeWords 2 s
    let (b, s) := freeWords 5 s
    let (r, s) := logErrors t s
    (a + winAt 16 8 x.2 + b * 256 ^ 24 + r * 256 ^ 64, s)

/-- The composite temperature is at its over threshold, or at its under threshold where one is set (R341; log entry 107). -/
def tempWarning (s : State) : Bool :=
  decide (feature s 4 % 65536 ≤ s.host.tempK) ||
    decide (feature s (4 + 65536 * 16) % 65536 ≠ 0 ∧ s.host.tempK ≤ feature s (4 + 65536 * 16) % 65536)

/-- SMART / Health Information: the critical warning's bits 1 and 2, the composite temperature; the rest free (R302, R325, R339, R341). -/
def logSmart (s : State) : Nat × State :=
  openPage 3 512 (flagBit (tempWarning s) 1 + flagBit (s.host.critical || decide (s.sys.phase = .safe)) 2 + winAt 1 2 s.host.tempK) s

/-- Firmware Slot Information: the active slot and the next; a revision per valid slot is free. -/
def logSlots (s : State) : Nat × State :=
  let f := s.host.fw
  let (a, s) := freeWords 1 s
  let (b, s) := freeWords 1 s
  (f.active.val + 1 + 16 * ((f.atReset.map fun i => i.val + 1).getD 0) +
    winAt 8 8 (if f.slot[0].valid then a else 0) + winAt 16 8 (if f.slot[1].valid then b else 0), s)

/-- Commands Supported and Effects: bit 0 of each supported opcode's dword; its other bits free. -/
def logEffects (ops : List Nat) (s : State) : Nat × State :=
  match ops with
  | [] => (0, s)
  | o :: t =>
    let (v, s) := freeWords 1 s
    let (r, s) := logEffects t s
    (winAt (4 * o) 4 (1 + 2 * (v % 2 ^ 31)) + r, s)

/-- One result of the Device Self-test page: type, result and failing segment, power-on hours. -/
def testRecord (t : SelfTest) : Nat :=
  pageOf [(0, 1, 16 * t.kind + (if t.result = 0 then 0 else if t.result = 1 then 1 else 7)), (1, 1, if t.result = 2 then t.segment else 0),
          (4, 8, t.poh / 3600)]

/-- Device Self-test (R371): the running test, its completion (free, the spec gives no measure), the last 20 results. -/
def logSelfTest (s : State) : Nat × State :=
  let (v, s) := freeWords 1 s
  let cur := match s.host.test with
    | some t => t.kind + 256 * (v % 101)
    | none => 0
  let used := s.host.tests.take 20
  (pageOf ((0, 2, cur) :: records 4 28 (used.map testRecord ++ List.replicate (20 - used.length) 15)), s)

/-- Sanitize Status (R351): none yet, or completed; the dwords of the estimates are free. -/
def logSanitize (s : State) : Nat × State :=
  let z := s.host.sanitize
  let act_ := if z.block then 2 else 4
  let (v, s) := freeWords 4 s
  (pageOf [(0, 2, 0xFFFF), (2, 2, if z.done then 1 else 0), (4, 4, if z.done then act_ else 0), (8, 24, v)], s)

/-! ### Vendor log pages (R373, R378 to R381, R446) -/

/-- The flags byte of a member in the Surface State page (R379). -/
def memberFlagByte (s : State) (m : Nat) : Nat :=
  let v := memberAt s m
  flagBit v.returned 0 + flagBit v.withheld 1 + flagBit (laneless s (m / 6)) 2 +
    flagBit ((s.arr.avail.toList.getD (m / 6) .reset).unavailable) 3 + flagBit v.tablesLost 4 + flagBit (spareOut s m) 5 +
    flagBit v.standing 6 + flagBit (calibrating s m) 7

/-- Positions of a fenced member that await rebuild, and those REBUILT (R379). -/
def awaitingCount (s : State) (m : Nat) : Nat :=
  s.arr.zones.foldl (fun a z => a + ((List.range z.2.place.length).filter fun p =>
    posGone s z.2 p && decide ((z.2.place[p]?.map Prod.fst) = some m)).length) 0
def rebuiltCount (s : State) (m : Nat) : Nat :=
  s.arr.zones.foldl (fun a z => a + (z.2.targets.filter fun t => t.rebuilt && decide (t.fenced = m)).length) 0

/-- The readers of a member's head marked failed, in the mask of the lane its actuator uses (R175, R192). -/
def readersMarked (s : State) (m : Nat) : Nat :=
  if h : m / 6 < 4 then fld (laneReg s.lane[laneOn s ⟨m / 6, h⟩] 0x50) (4 * (m % 6) + 3) (4 * (m % 6)) else 0

/-- Free tracks of a member's spare-band areas (R168, R379). -/
def spareLeft (s : State) (m : Nat) : Nat :=
  (List.range 64).foldl (fun a z => a + ((zoneOn s.media m z).map fun d => freeSpareTracks s.media m d).getD 0) 0

/-- A member's 64-byte record (R379). -/
def memberRecord (s : State) (m : Nat) : Nat :=
  let v := memberAt s m
  pageOf [(0, 1, memberCode v.state), (1, 1, memberFlagByte s m), (2, 2, v.gen), (4, 1, readersMarked s m), (5, 1, v.cause), (8, 4, awaitingCount s m),
           (12, 4, rebuiltCount s m), (16, 4, v.frog.length), (20, 4, spareLeft s m), (24, 4, (s.media.grown.filter fun d => decide (d.surface = m)).length),
           (28, 4, v.changedAt), (32, 1, v.requalFails), (33, 2, v.scrubDays)]

/-- The header of the Surface State page (R379). -/
def surfaceHeader (s : State) : List (Nat × Nat × Nat) :=
  let y := s.yck
  let reps := currentMembers s.spe
  let r := s.arr.reshape
  [(0, 8, s.arr.changes), (8, 1, yckModeCode (yckMode y)),
   (9, 1, flagBit y.head[0].locked 0 + flagBit y.head[1].locked 1 + flagBit y.head[0].qual 2 + flagBit y.head[1].qual 3),
   (12, 4, s.flt.laneMap.toNat), (16, 4, s.flt.srvMap.toNat), (20, 1, reps.length), (21, 1, reps.getD 0 0), (22, 1, reps.getD 1 0),
   (23, 1, reps.getD 2 0),
   (24, 1, flagBit (s.arr.spareLow || (List.range 24).any fun m => spareOut s m) 0 + flagBit r.isSome 1 + flagBit (rebuildLeft s) 2 +
     flagBit (s.arr.member.toList.any fun v => v.withheld) 3),
   (28, 4, window s), (32, 4, (r.bind fun x => x.zones[x.boundary]?).getD 0), (36, 4, (r.bind fun x => x.zones.getLast?).getD 0),
   (40, 4, s.arr.cursor), (44, 4, s.arr.deferred.length), (48, 4, (s.arr.zones.filter fun z => z.2.degraded).length), (52, 4, s.arr.lost.length)]

/-- Surface State, 0xC0 (R379). -/
def logSurface (s : State) : Nat := pageOf (surfaceHeader s ++ records 64 64 ((List.range 24).map (memberRecord s)))

/-- A Lost Stripe record (R285). -/
def lostRecord (x : Lost) : Nat :=
  x.poh % 2 ^ 32 + x.cause % 16 * 2 ^ 36 + x.positions.toNat * 2 ^ 40 + x.offsets.toNat * 2 ^ 64 + x.row % 65536 * 2 ^ 80 + x.zone % 2 ^ 32 * 2 ^ 96

/-- Data blocks a record covers: at each offset, its positions that hold data. -/
def lostBlocks (s : State) (x : Lost) : Nat :=
  let w := ((zoneGet s x.zone).map fun z => z.w).getD 24
  let rows := if x.row = 0xFFFF then ((zoneGet s x.zone).map fun z => List.range (writtenRows z)).getD [] else [x.row]
  let data (r : Nat) : Nat := ((List.range w).filter fun p => x.positions.getLsbD p && decide (p ≠ posP w r ∧ p ≠ posQ w r)).length
  rows.foldl (fun a r => a + data r * ((List.range 16).filter fun k => x.offsets.getLsbD k).length) 0

/-- Zone and row order (R378). -/
def lostBefore (a b : Lost) : Bool := decide (a.zone < b.zone ∨ (a.zone = b.zone ∧ a.row ≤ b.row))
def lostInsert (x : Lost) (xs : List Lost) : List Lost :=
  match xs with
  | [] => [x]
  | y :: t => if lostBefore x y then x :: y :: t else y :: lostInsert x t

/-- Lost Stripe List, 0xC1 (R378). -/
def logLost (s : State) : Nat :=
  let xs := s.arr.lost.foldr lostInsert []
  pageOf ([(0, 4, xs.length), (4, 4, s.arr.lostMerges), (8, 8, xs.foldl (fun a x => a + lostBlocks s x) 0)] ++ records 16 16 (xs.map lostRecord))

/-- Entries in a group's histograms, saturating (R446). -/
def groupEntries (im : StcImage) (g : Nat) : Nat :=
  min (2 ^ 32 - 1) ((List.range (stcInstances g)).foldl (fun a i =>
    (List.range 8).foldl (fun b k => b + (keyGet im.hist (stcKey g i k) 0).toNat) a) 0)

/-- Group g's entry of the Recorder Summary (R446). -/
def groupEntry (t : Stc) (g : Nat) : Nat :=
  if stcGroup g = false then 0
  else
    let c : ClearInfo := if h : 1 ≤ g ∧ g - 1 < 10 then t.live.clears[g - 1]'h.2 else { count := 0, poh := none, ts := 0 }
    pageOf [(0, 1, g), (1, 1, 1), (2, 2, stcLength g), (4, 4, c.count), (8, 4, c.poh.getD 0xFFFFFFFF), (12, 4, groupEntries t.live g)]

/-- Recorder Summary, 0xC2 (R446): the header window, 16 entries, the 15 extremes windows. -/
def logRecorder (t : Stc) : Nat :=
  pageOf ((0, 64, (stcWindow t 0 0).toNat) :: records 64 16 ((List.range 16).map (groupEntry t)) ++
    records 320 64 ((List.range 15).map fun i => (stcWindow t 15 (i + 1)).toNat))

/-- A Fault History record (R380). -/
def faultRecord (s : State) (f : FaultRecord) : Nat :=
  pageOf [(0, 8, (s.sys.tsBase + (f.timeMs : Int)).toNat), (8, 4, f.poh), (12, 2, f.src), (14, 1, f.cls), (15, 1, f.rung + flagBit f.pin 4), (16, 2, f.repeats),
          (18, 1, f.unit), (19, 1, f.kind), (20, 12, f.detail)]

/-- Fault History, 0xC3 (R380). -/
def logFaults (s : State) : Nat :=
  let xs := s.flt.history.take 256
  pageOf ([(0, 4, xs.length), (4, 8, s.flt.historyTotal)] ++ records 16 32 (xs.map (faultRecord s)))

/-- The POST summary (R381), with the sampled TESTMODE (R51). -/
def postSummary (p : PostRecord) : List (Nat × Nat × Nat) :=
  [(0, 1, p.result), (1, 1, p.failingStep), (2, 1, if p.testmode then 1 else 0), (3, 1, p.slotBooted), (4, 4, p.rowsRepaired),
   (8, 8, p.coresFailed.toNat), (16, 1, p.lanesFailed.toNat), (17, 1, p.enginesFailed.toNat), (18, 1, if p.spindlePairFailed then 1 else 0),
   (19, 1, p.bootCore), (20, 4, p.timeMs)]

/-- Unlocks of fault injection in page 0xC4 (R434): their number, and the power-on time of the newest (log entry 151). -/
def unlockDetail (us : List Nat) : List (Nat × Nat × Nat) := [(24, 4, us.length), (28, 4, us.headD 0)]

/-- A self-test record of page 0xC4: type, result, failing segment, power-on time (R381). -/
def testDetail (t : SelfTest) : Nat := pageOf [(0, 1, t.kind), (1, 1, t.result), (2, 1, t.segment), (4, 4, t.poh)]

/-- A calibration record of page 0xC4: request, member, zone, kinds, result, power-on time (R381). -/
def calDetail (x : CalRequest × Nat) : Nat :=
  pageOf [(0, 2, x.1.id), (2, 1, x.1.member), (3, 1, x.1.zone), (4, 2, x.1.kinds / 65536), (6, 1, x.2), (8, 4, x.1.poh)]

/-- A POST step's result: 0 pass, 1 pass with repairs, 2 failed (R298, R299, R381, R500). -/
def stepResult (p : PostRecord) (i : Nat) : Nat :=
  if p.failingStep = i then 2
  else if (i = 2 ∧ p.rowsRepaired ≠ 0) ∨ (i = 3 ∧ p.flashFallback) ∨ (i = 5 ∧ p.coresFailed ≠ 0) ∨
      (i = 7 ∧ (p.lanesFailed ≠ 0 ∨ p.enginesFailed ≠ 0)) ∨ (i = 8 ∧ p.spindlePairFailed) then 1 else 0

/-- A POST step's record of page 0xC4: result, time in ms, repairs, first finding, which for step 3 is 1 where the boot flash fell back
(R381, R500); v holds the free values (log entry 129). -/
def stepRecord (p : PostRecord) (i v : Nat) : Nat :=
  pageOf [(0, 1, stepResult p i), (4, 4, v), (8, 4, if i = 2 then p.rowsRepaired else 0), (12, 4, if i = 3 ∧ p.flashFallback then 1 else v / 2 ^ 32)]

/-- A member's record of page 0xC4 (R288, R381): result, the part that failed, the swatches' ratio, which is firmware's and free, the verify
failures; and at byte 16 the cause for which its zone descriptor table was rejected (R146; log entry 151). -/
def requalDetail (s : State) (v : Member) (m ratio : Nat) : Nat :=
  let cause := keyGet s.media.tableCause m 0
  if v.requalResult = 0 then winAt 16 1 cause
  else pageOf [(0, 1, min v.requalResult 2), (1, 1, v.requalResult - 1), (4, 4, ratio), (8, 4, v.requalRate), (16, 1, cause)]

/-- Self-Test and POST Detail, 0xC4 (R381): times of the POST steps, first findings and measured ratios are free values. -/
def logDetail (s : State) : Nat × State :=
  let (steps, s) := freeWords 8 s
  let (rest, s) := freeWords 12 s
  (pageOf (postSummary s.sys.post ++ unlockDetail s.sys.unlocks ++ records 64 16 ((List.range 8).map fun i => stepRecord s.sys.post (i + 1) (steps / 2 ^ (64 * i))) ++
    records 192 32 ((s.host.tests.take 20).map testDetail) ++
    records 832 32 ((s.arr.member.toList.zip (List.range 24)).map fun x => requalDetail s x.1 x.2 (rest / 2 ^ (32 * x.2))) ++
    records 1600 16 ((s.arr.calDone.take 64).map calDetail)), s)

/-- A log page, and the state with the free values it took. -/
def logPage (lid : Nat) (s : State) : Nat × State :=
  match lid with
  | 0x00 => (logSupported, s)
  | 0x01 => logErrors s.hif.errors s
  | 0x02 => logSmart s
  | 0x03 => logSlots s
  | 0x05 =>
    let (a, s) := logEffects adminOpcodes s
    let (i, s) := logEffects ioOpcodes s
    (a + i * 256 ^ 1024, s)
  | 0x06 => logSelfTest s
  | 0x81 => logSanitize s
  | 0xC0 => (logSurface s, s)
  | 0xC1 => (logLost s, s)
  | 0xC2 => (logRecorder s.stc, s)
  | 0xC3 => (logFaults s, s)
  | 0xC4 => logDetail s
  | _ => openPage 0 4096 0 s

/-! ### Surface Query (R373) -/

/-- The extents of a member in a recording zone. -/
def zoneExtents (s : State) (m z : Nat) : List Extent := s.media.extents.filter fun e => decide (e.member = m ∧ e.place.zone = z)

/-- The largest movement of a gauge entry of a recording zone since the factory, by the row that the metadata band holds (R107; log entry 151). -/
def gaugeMoved (s : State) (m z : Nat) : Nat :=
  let row := (s.media.gaugeRows.find? fun r => decide (r.1 = m * 64 + z)).map Prod.snd
  let now (w : Nat) : Option Int := row.map fun bs => ((bs.getD (17 + 2 * w) 0 ++ bs.getD (16 + 2 * w) 0 : BitVec 16)).toInt
  (s.media.factory.filter fun f => decide (f.1 / 1024 = m * 64 + z)).foldl
    (fun a f => max a (((now (f.1 % 1024)).map fun v => (v - f.2).natAbs).getD 0)) 0

/-- Hours since the newest AFE calibration of a member's recording zone that passed; none known: a free value. -/
def afeHours (s : State) (m z v : Nat) : Nat :=
  match s.arr.calDone.find? fun x => decide (x.1.member = m ∧ (x.1.zone = z ∨ x.1.zone = 64) ∧ x.2 = 1) && x.1.kinds.testBit 16 with
  | some x => (s.stc.pos - x.1.poh) / 3600
  | none => v

/-- The first byte of a zone's summary: valid, area, fmt and rate, in that order from bit 0 (log entry 151). -/
def summaryByte (d : ZoneDesc) : Nat := flagBit d.valid 0 + 2 * d.area + flagBit d.preamble 3 + 16 * d.rate.val

/-- One recording zone's 32-byte summary (R373). -/
def zoneSummary (s : State) (m z v : Nat) : Nat :=
  let d := zoneOn s.media m z
  let es := zoneExtents s m z
  let written := es.filter fun e => ((zoneGet s e.hzone).map fun x => !decide (x.st = .empty)).getD false
  pageOf [(0, 1, (d.map summaryByte).getD 0), (1, 1, (d.map ZoneDesc.rmodes).getD 0), (4, 4, written.length),
    (8, 4, (s.media.grown.filter fun x => decide (x.surface = m ∧ x.zone = z)).length), (12, 2, gaugeMoved s m z), (14, 2, afeHours s m z v),
    (16, 4, (d.map fun x => freeSpareTracks s.media m x).getD 0), (20, 4, es.foldl (fun a e => a + e.slips.length) 0)]

/-- Surface Query (R373): the member's record, then one summary for each of the 64 recording zones. -/
def surfacePage (m : Nat) (s : State) : Nat × State :=
  let (v, s') := freeWords 16 s
  (pageOf ((0, 64, memberRecord s m) :: records 64 32 ((List.range 64).map fun z => zoneSummary s m z (v / 2 ^ (16 * z)))), s')

end Sys2Proof.Machine
end

