-- ==== Sys2Proof/Machine/Admin.lean ====
section
/-!
DEFINITION. The meanings of Identify, Get Log Page, features, queues, Abort, Asynchronous Event Request, namespaces (R302, R331, R339 to R342,
R361, R377, R382, R455).
-/
namespace Sys2Proof.Machine
open Sys2Proof

/-- The controller an admin command acts for: a tunnelled one acts for controller 1 (R347). -/
def actingCtl (c : Nat) : Fin 2 := if c = 1 then 1 else 0

/-- A command ends with success and nothing to return. -/
def done (c n : Nat) (s : State) : State := complete c n .success 0 0 [] s

/-- A command ends with an error. -/
def refuse (c n : Nat) (st : Status) (s : State) : State := complete c n st 0 0 [] s

/-! ### Identify and log pages (R302, R339, R341) -/

/-- Identify. -/
def identifyCmd (c cns csi ns cntid n : Nat) (s : State) : State :=
  let r := identifyPage (actingCtl c).val cns csi ns cntid s
  complete c n r.1 0 0 (if r.1 = .success then [r.2.1] else []) r.2.2

/-- IDENTIFY (R341). -/
def execIdentify (c : CtlIx) (cns csi ns cntid : Nat) (s : State) : Host.Outcome State Fault Refusal :=
  act s (adminRun c.val 0x06 (identifyCmd c.val cns csi ns cntid))

/-- Pages the source may read where the drive stands (R302, R347). -/
def logServed (s : State) (c lid : Nat) : Bool :=
  if s.sys.phase = .safe then (if c < 2 then [0x01, 0x02, 0x03, 0xC4].contains lid else [0x02, 0x03, 0xC4].contains lid)
  else logPages.contains lid

/-- Events of a page have been read (R382). -/
def readEvents (c : Fin 2) (lid : Nat) (s : State) : State :=
  setCtl c { s.hif.ctl[c] with events := s.hif.ctl[c].events.filter fun e => decide (e.1 / 65536 % 256 ≠ lid) } s

/-- Get Log Page: `bytes` bytes of a page from an offset (R341, R378). -/
def getLogCmd (c lid : Nat) (rae : Bool) (offset bytes n : Nat) (s : State) : State :=
  if logServed s c lid = false then refuse c n .invalidField s
  else
    let r := logPage lid s
    let s := if rae then r.2 else readEvents (actingCtl c) lid r.2
    complete c n .success 0 0 [r.1 / 256 ^ offset % 256 ^ bytes] s

/-- GET_LOG_PAGE (R341). -/
def execGetLogPage (c : CtlIx) (lid : Nat) (rae : Bool) (offset bytes : Nat) (s : State) : Host.Outcome State Fault Refusal :=
  act s (adminRun c.val 0x02 (getLogCmd c.val lid rae offset bytes))

/-! ### Features (R302, R341, R377) -/

def featureIds : List Nat := [0x01, 0x02, 0x04, 0x05, 0x07, 0x08, 0x09, 0x0A, 0x0B, 0x0C, 0x0E, 0x19, 0xC0, 0xC1, 0xC2, 0xC3]

/-- Identifiers whose Save field is honoured. -/
def saveIds : List Nat := [0x04, 0x05, 0x0A, 0x0B, 0x0C, 0xC0, 0xC1, 0xC2, 0xC3]

/-- An identifier is served where the drive stands. -/
def featureServed (s : State) (fid : Nat) : Bool :=
  if s.sys.phase = .safe then [0x01, 0x07, 0x0B].contains fid else featureIds.contains fid

/-- Where a feature's value is kept: per controller, per threshold of 04h, per vector of 09h (log entry 107). -/
def featureSlot (c fid v : Nat) : Nat :=
  if fid = 4 then 4 + 65536 * (v / 2 ^ 16 % 64) else if fid = 9 then featureKey c 9 + 65536 * (1 + v % 65536) else featureKey c fid

/-- A value is kept, and saved where Save is honoured and set. -/
def putFeature (slot fid v : Nat) (save : Bool) (s : State) : State :=
  let s := setFeature slot v s
  if save ∧ saveIds.contains fid then
    { s with host := { s.host with saved := keySet s.host.saved slot v (featureDefault slot) } } else s

/-- Power Management: a power state the drive has; the command completes when it is in force (R455). -/
def powerCmd (c v n : Nat) (s : State) : State :=
  let p := v % 32
  if 4 < p then refuse c n .invalidField s
  else nextPs (s.host.pmWait.length + 1) { s with host := { s.host with pmWait := s.host.pmWait ++ [(c, n, p)] } }

/-- POWER_MANAGEMENT (R455). -/
def execPowerManagement (c : CtlIx) (v : Nat) (s : State) : Host.Outcome State Fault Refusal :=
  act s (adminServe c.val 0x09 false fun n s => if s.sys.phase = .safe then refuse c.val n .invalidField s else powerCmd c.val v n s)

/-- Layout Defaults, C0h (R377). -/
def layoutOk (s : State) (v : Nat) : Bool := layoutValid s (v % 32) (v / 2 ^ 8 % 8)

def layoutCmd (c : Nat) (save : Bool) (v n : Nat) (s : State) : State :=
  if layoutOk s v then done c n (putFeature 0xC0 0xC0 v save s) else refuse c n .invalidField s

/-- LAYOUT_DEFAULTS (R377). -/
def execLayoutDefaults (c : CtlIx) (save : Bool) (v : Nat) (s : State) : Host.Outcome State Fault Refusal :=
  act s (adminServe c.val 0x09 false fun n s => if s.sys.phase = .safe then refuse c.val n .invalidField s else layoutCmd c.val save v n s)

/-- Scrub Schedule, C1h (R377). -/
def scrubOk (v : Nat) : Bool := decide (1 ≤ v % 65536 ∧ v % 65536 ≤ 365 ∧ v / 2 ^ 16 % 256 ≤ 50)

def scrubCmd (c : Nat) (save : Bool) (v n : Nat) (s : State) : State :=
  if scrubOk v then done c n (putFeature 0xC1 0xC1 v save s) else refuse c n .invalidField s

/-- SCRUB_SCHEDULE (R377). -/
def execScrubSchedule (c : CtlIx) (save : Bool) (v : Nat) (s : State) : Host.Outcome State Fault Refusal :=
  act s (adminServe c.val 0x09 false fun n s => if s.sys.phase = .safe then refuse c.val n .invalidField s else scrubCmd c.val save v n s)

/-- Spin-up Permit Policy, C2h (R377). -/
def permitOk (v : Nat) : Bool := decide (24 ≤ v % 256 ∧ v % 256 ≤ 50 ∧ 1 ≤ v / 2 ^ 8 % 256 ∧ v / 2 ^ 8 % 256 ≤ 60)

def permitCmd (c : Nat) (save : Bool) (v n : Nat) (s : State) : State :=
  if permitOk v then done c n (putFeature 0xC2 0xC2 v save s) else refuse c n .invalidField s

/-- SPIN_UP_PERMIT_POLICY (R305, R377). -/
def execSpinUpPermitPolicy (c : CtlIx) (save : Bool) (v : Nat) (s : State) : Host.Outcome State Fault Refusal :=
  act s (adminServe c.val 0x09 false fun n s => if s.sys.phase = .safe then refuse c.val n .invalidField s else permitCmd c.val save v n s)

/-- Protected Write Window, C3h (R377): its own completion comes before those that the change releases. -/
def windowOk (v : Nat) : Bool := decide (v % 256 = 0 ∨ (2 ≤ v % 256 ∧ v % 256 ≤ 16))

def windowCmd (c : Nat) (save : Bool) (v n : Nat) (s : State) : State :=
  if windowOk v then kick (done c n (windowNote (window s) (putFeature 0xC3 0xC3 v save s))) else refuse c n .invalidField s

/-- PROTECTED_WRITE_WINDOW (R377). -/
def execProtectedWriteWindow (c : CtlIx) (save : Bool) (v : Nat) (s : State) : Host.Outcome State Fault Refusal :=
  act s (adminServe c.val 0x09 false fun n s => if s.sys.phase = .safe then refuse c.val n .invalidField s else windowCmd c.val save v n s)

/-- A number of queues, 0-based, is granted up to 1,024 (R341). -/
def queueGrant (v : Nat) : Nat := min (v % 65536) 1023 + min (v / 65536 % 65536) 1023 * 65536

/-- Set Features (R341, R377). -/
def setFeaturesCmd (c fid : Nat) (save : Bool) (v data n : Nat) (s : State) : State :=
  if featureServed s fid = false then refuse c n .invalidField s
  else
    let slot := featureSlot (actingCtl c).val fid v
    match fid with
    | 0x02 => powerCmd c v n s
    | 0x07 => complete c n .success (queueGrant v) 0 [] (putFeature slot 7 (queueGrant v) save s)
    | 0x0C =>
      let s := putFeature 0x20C 0x0C data save s
      done c n (putFeature slot 0x0C v save s)
    | 0x0E =>
      done c n { s with sys := { s.sys with tsBase := (data % 2 ^ 48 : Nat) - (s.sys.ms : Int), tsSet := true } }
    | 0x19 => if v % 512 = 0 then done c n (putFeature slot fid v save s) else refuse c n .invalidField s
    | 0xC0 => layoutCmd c save v n s
    | 0xC1 => scrubCmd c save v n s
    | 0xC2 => permitCmd c save v n s
    | 0xC3 => windowCmd c save v n s
    | _ => done c n (putFeature slot fid v save s)

/-- SET_FEATURES (R341). -/
def execSetFeatures (c : CtlIx) (fid : Nat) (save : Bool) (v data : Nat) (s : State) : Host.Outcome State Fault Refusal :=
  act s (adminRun c.val 0x09 (setFeaturesCmd c.val fid save v data))

/-- What Get Features selects: current, default, saved, or what may be done with the feature (ONCS, R339). -/
def selectFeature (s : State) (slot fid sel : Nat) : Nat :=
  if sel = 0 then (if fid = 2 then s.pwr.ps.val else feature s slot)
  else if sel = 1 then featureDefault slot
  else if sel = 2 then keyGet s.host.saved slot (featureDefault slot)
  else (if saveIds.contains fid then 5 else 4)

/-- Get Features (R341, R377): dword 0, and the data of 0Ch and 0Eh. -/
def getFeaturesCmd (c fid sel v n : Nat) (s : State) : State :=
  if featureServed s fid = false then refuse c n .invalidField s
  else
    let x := selectFeature s (featureSlot (actingCtl c).val fid v) fid sel
    let dw0 := if fid = 0xC3 ∧ sel = 0 then x % 65536 + window s % 65536 * 65536 else x
    let data := if fid = 0x0C then [selectFeature s 0x20C fid sel] else if fid = 0x0E then [stamp s % 2 ^ 48 + flagBit s.sys.tsSet 49] else []
    complete c n .success dw0 0 data s

/-- GET_FEATURES (R341). -/
def execGetFeatures (c : CtlIx) (fid sel v : Nat) (s : State) : Host.Outcome State Fault Refusal :=
  act s (adminRun c.val 0x0A (getFeaturesCmd c.val fid sel v))

/-! ### Queues (R340) -/

/-- A queue identifier the drive supports (R341): 1 to 1,024. -/
def queueId (q : Nat) : Bool := decide (1 ≤ q ∧ q ≤ 1024)

def hasQueue (qs : List (Nat × Nat × Nat)) (q : Nat) : Bool := qs.any fun x => decide (x.1 = q)

/-- A completion queue with its interrupt vector. -/
def createCq (c : CtlIx) (q size iv n : Nat) (s : State) : State :=
  let v := s.hif.ctl[c]
  if queueId q = false ∨ hasQueue v.cqs q then refuse c.val n .invalidQueue s
  else done c.val n (setCtl c { v with cqs := v.cqs ++ [(q, size, iv)] } s)

/-- CREATE_IO_CQ (R340). -/
def execCreateIoCq (c : CtlIx) (q size iv : Nat) (s : State) : Host.Outcome State Fault Refusal :=
  act s (adminRun c.val 0x05 (createCq c q size iv))

/-- A submission queue bound to a completion queue that exists. -/
def createSq (c : CtlIx) (q size cq n : Nat) (s : State) : State :=
  let v := s.hif.ctl[c]
  if queueId q = false ∨ hasQueue v.sqs q ∨ hasQueue v.cqs cq = false then refuse c.val n .invalidQueue s
  else done c.val n (setCtl c { v with sqs := v.sqs ++ [(q, size, cq)] } s)

/-- CREATE_IO_SQ (R340). -/
def execCreateIoSq (c : CtlIx) (q size cq : Nat) (s : State) : Host.Outcome State Fault Refusal :=
  act s (adminRun c.val 0x01 (createSq c q size cq))

/-- A completion queue that no submission queue uses is deleted. -/
def deleteCq (c : CtlIx) (q n : Nat) (s : State) : State :=
  let v := s.hif.ctl[c]
  if hasQueue v.cqs q = false ∨ v.sqs.any (fun x => decide (x.2.2 = q)) then refuse c.val n .invalidQueue s
  else done c.val n (setCtl c { v with cqs := v.cqs.filter fun x => decide (x.1 ≠ q) } s)

/-- DELETE_IO_CQ (R340). -/
def execDeleteIoCq (c : CtlIx) (q : Nat) (s : State) : Host.Outcome State Fault Refusal := act s (adminRun c.val 0x04 (deleteCq c q))

def deleteSq (c : CtlIx) (q n : Nat) (s : State) : State :=
  let v := s.hif.ctl[c]
  if hasQueue v.sqs q = false then refuse c.val n .invalidQueue s
  else done c.val n (setCtl c { v with sqs := v.sqs.filter fun x => decide (x.1 ≠ q) } s)

/-- DELETE_IO_SQ (R340). -/
def execDeleteIoSq (c : CtlIx) (q : Nat) (s : State) : Host.Outcome State Fault Refusal := act s (adminRun c.val 0x00 (deleteSq c q))

/-! ### Abort and asynchronous events (R361, R382) -/

/-- The target has not started media or DMA work (R361): fetched, stalled or held, waiting for its range, or an event request. -/
def abortable (s : State) (c : CtlIx) (t : Nat) : Bool :=
  (s.hif.fetched.any fun f => decide (f.fseq = t ∧ f.ctl = c.val)) ||
    (s.hif.flight.any fun f => decide (f.fseq = t ∧ f.ctl = c.val ∧ f.phase ≠ .waiting)) ||
    (s.host.eraseWait.any fun e => decide (e.fseq = t ∧ e.ctl = c.val)) || s.hif.ctl[c].aers.contains t

/-- Abort (R361): the target completes with Command Abort Requested, or runs on. -/
def abortCmd (c : CtlIx) (t n : Nat) (s : State) : State :=
  if abortable s c t then
    let s := setCtl c { s.hif.ctl[c] with aers := s.hif.ctl[c].aers.filter fun x => decide (x ≠ t) } s
    let s := { s with host := { s.host with eraseWait := s.host.eraseWait.filter fun e => decide (e.fseq ≠ t) } }
    kick (done c.val n (complete c.val t .abortRequested 0 0 [] s))
  else complete c.val n .success 1 0 [] s

/-- ABORT (R361): the target is named by its fetch sequence (log entry 108). -/
def execAbort (c : CtlIx) (target : Nat) (s : State) : Host.Outcome State Fault Refusal := act s (adminRun c.val 0x08 (abortCmd c target))

/-- Asynchronous Event Request (R382): an event that waits answers it at once. -/
def aerCmd (c : CtlIx) (n : Nat) (s : State) : State :=
  let v := s.hif.ctl[c]
  match (v.events.filter fun e => !e.2).getLast? with
  | some e => complete c.val n .success e.1 0 [] (setCtl c { v with events := v.events.map fun x => if x.1 = e.1 then (x.1, true) else x } s)
  | none => setCtl c { v with aers := v.aers ++ [n] } s

/-- ASYNCHRONOUS_EVENT_REQUEST (R382). -/
def execAsynchronousEventRequest (c : CtlIx) (s : State) : Host.Outcome State Fault Refusal := act s (adminRun c.val 0x0C (aerCmd c))

/-! ### Namespaces (R245, R247, R342, R344, R508) -/

/-- The layout a creation gets: zeros take the default of feature C0h. -/
def createW (s : State) (x : NsCreate) : Nat := if x.w = 0 then feature s 0xC0 % 32 else x.w
def createC (s : State) (x : NsCreate) : Nat := if x.c = 0 then feature s 0xC0 / 2 ^ 8 % 8 else x.c

/-- Every field lies within its rule (R342). -/
def createFields (s : State) (x : NsCreate) : Bool :=
  let unit := if x.csi = 0 then zoneCapacity (createW s x) else 65536
  decide (x.csi = 0 ∨ x.csi = 2) && decide (x.nsze ≠ 0) && decide (x.nsze % unit = 0) && decide (x.ncap = x.nsze) &&
    decide (x.flbas % 16 ≤ 1 ∧ x.flbas < 32) && decide (x.dps = 0 ∨ (x.flbas % 16 = 1 ∧ (x.dps = 1 ∨ x.dps = 9))) && decide (x.nmic ≤ 1) &&
    (if x.csi = 0 then decide (x.conv = 0) else decide (x.conv ≤ x.nsze / 65536)) &&
    decide (x.w = 0 ∨ (4 ≤ x.w ∧ x.w ≤ 24)) && decide (x.c ≤ 6)

/-- The lowest drive-wide indices not in use (R508). -/
def freeIndices (used : List Nat) (need k fuel : Nat) : List Nat :=
  match fuel with
  | 0 => []
  | fuel + 1 =>
    if need = 0 then []
    else if used.contains k then freeIndices used need (k + 1) fuel
    else k :: freeIndices used (need - 1) (k + 1) fuel

/-- Extents of an area type in use: each zone takes one on each member it has or will have. -/
def extentsUsed (s : State) (conv : Bool) : Nat :=
  (s.arr.zones.filter fun z => decide (z.2.conv = conv)).foldl (fun a z => a + z.2.w) 0

/-- Extents of an area type on the fitted surfaces of the reference drive (R505; log entry 109). -/
def extentsTotal (s : State) (conv : Bool) : Nat :=
  ((List.range 24).filter fun m => !s.arr.absent.getLsbD m).length * (if conv then 1300 else 202000)

/-- Zones of a namespace: how many, and how many of them are conventional. -/
def createZones (s : State) (x : NsCreate) : Nat × Nat :=
  if x.csi = 0 then (x.nsze / zoneCapacity (createW s x), x.nsze / zoneCapacity (createW s x)) else (x.nsze / 65536, x.conv)

/-- The lowest free namespace identifier. -/
def freeNs (s : State) : Option Nat := ((List.range 16).map fun k => k + 1).find? fun k => (nsGet s k).isNone

/-- Why a creation is refused, if it is (R342): fields, layout, identifiers, room, placement of every index (log entry 109). -/
def createCheck (s : State) (x : NsCreate) : Option Status :=
  let w := createW s x
  let zs := createZones s x
  let room (conv : Bool) (k : Nat) : Bool := decide (extentsUsed s conv + w * k ≤ extentsTotal s conv)
  if createFields s x = false ∨ layoutValid s w (createC s x) = false then some .invalidField
  else if (freeNs s).isNone then some .namespaceIdUnavailable
  else if room true zs.2 = false ∨ room false (zs.1 - zs.2) = false then some .insufficientCapacity
  else if (freeIndices (s.arr.zones.map Prod.fst) zs.1 0 (s.arr.zones.length + zs.1)).any fun k => (placement s k w (createC s x)).isNone then
    some .invalidField
  else none

/-- A new host zone (R343, R344). -/
def newZone (ns index w c : Nat) (conv : Bool) : Zone :=
  { ns := ns, index := index, conv := conv, w := w, c := c, place := [], st := if conv then .full else .empty,
    wp := if conv then zoneCapacity w else 0, degraded := false, lastWrite := 0, targets := [] }

/-- The namespace and its zones come to be; it is attached to no controller yet. -/
def createDo (ns : Nat) (x : NsCreate) (s : State) : State :=
  let w := createW s x
  let c := createC s x
  let zs := createZones s x
  let ks := freeIndices (s.arr.zones.map Prod.fst) zs.1 0 (s.arr.zones.length + zs.1)
  let v : Namespace := { zoned := decide (x.csi = 2), meta16 := decide (x.flbas % 16 = 1), ext := x.flbas.testBit 4, pi := decide (x.dps ≠ 0),
                         pip := x.dps.testBit 3, shared := decide (x.nmic = 1), attached := 0, zones := ks, w := w, c := c, conv := zs.2 }
  let s := { s with host := { s.host with namespaces := keyPut s.host.namespaces ns v } }
  (ks.zip (List.range ks.length)).foldl (fun t k => setZone k.1 (newZone ns k.2 w c (decide (k.2 < zs.2))) t) s

/-- Namespace Management: create, or delete one or all (R342). -/
def nsManage (c : Nat) (x : Option NsCreate) (ns n : Nat) (s : State) : State :=
  match x with
  | some x =>
    (match createCheck s x, freeNs s with
     | none, some k => complete c n .success k 0 [] (createDo k x s)
     | some st, _ => refuse c n st s
     | none, none => refuse c n .namespaceIdUnavailable s)
  | none => if ns ≠ 0xFFFFFFFF ∧ (nsGet s ns).isNone then refuse c n .invalidNamespace s else kick (eraseStart c n (.deleteNs ns) s)

/-- NAMESPACE_MANAGEMENT (R342). -/
def execNamespaceManagement (c : CtlIx) (x : Option NsCreate) (ns : Nat) (s : State) : Host.Outcome State Fault Refusal :=
  act s (adminRun c.val 0x0D (nsManage c.val x ns))

/-- Namespace Attachment: to a set of controllers, or from it (R342). A namespace with NMIC 0 is attached to one controller at most. -/
def nsAttach (c ns : Nat) (attach : Bool) (to_ : BitVec 2) (n : Nat) (s : State) : State :=
  match nsGet s ns with
  | none => refuse c n .invalidNamespace s
  | some v =>
    let new := if attach then v.attached ||| to_ else v.attached &&& ~~~ to_
    if to_ = 0 ∨ (to_.getLsbD 1 ∧ bitOf s.sys.strap 1 = false) ∨ (v.shared = false ∧ new = 3) then refuse c n .invalidField s
    else done c n { s with host := { s.host with namespaces := keyPut s.host.namespaces ns { v with attached := new } } }

/-- NAMESPACE_ATTACHMENT (R342). -/
def execNamespaceAttachment (c : CtlIx) (ns : Nat) (attach : Bool) (to_ : BitVec 2) (s : State) : Host.Outcome State Fault Refusal :=
  act s (adminRun c.val 0x15 (nsAttach c.val ns attach to_))

end Sys2Proof.Machine
end

