-- ==== Sys2Proof/Machine/Firmware.lean ====
section
/-!
DEFINITION. The meanings of firmware download, commit and activation, of self-test, and of slices (R303, R352, R353, R368 to R372, R475, R476).
-/
namespace Sys2Proof.Machine
open Sys2Proof

def setFw (f : Fw) (s : State) : State := { s with host := { s.host with fw := f } }

/-! ### Download and commit (R303, R352, R353, R368) -/

/-- Firmware Image Download: offsets and lengths are multiples of 4 KiB, an image is at most 24 MiB; offset 0 begins a new image. -/
def downloadCmd (c offset len n : Nat) (s : State) : State :=
  if offset % 4096 ≠ 0 ∨ len % 4096 ≠ 0 ∨ len = 0 ∨ 24 * 2 ^ 20 < offset + len then refuse c n .invalidField s
  else
    let f := s.host.fw
    done c n (setFw { f with staged := if offset = 0 then len else max f.staged (offset + len) } s)

/-- FIRMWARE_IMAGE_DOWNLOAD (R368). -/
def execFirmwareImageDownload (c : CtlIx) (offset len : Nat) (s : State) : Host.Outcome State Fault Refusal :=
  act s (adminRun c.val 0x11 (downloadCmd c.val offset len))

/-- The slot a commit names: 0 leaves the choice to the drive, which takes the one that does not run (log entry 110). -/
def commitSlot (f : Fw) (slot : Nat) : Option (Fin 2) :=
  if slot = 0 then some (1 - f.active) else if slot = 1 then some 0 else if slot = 2 then some 1 else none

/-- The slot of the running image is kept while the other slot holds no valid image (R368). -/
def slotKept (f : Fw) (i : Fin 2) : Bool := decide (i = f.active) && !f.slot[1 - i].valid

/-- The staged image may be stored (R352, R353). -/
def imageOk (f : Fw) (x : ImageCheck) : Bool := decide (f.staged ≠ 0) && x.valid && decide (f.floor ≤ x.version)

/-- The image in a slot may be activated (R352, R353). -/
def slotGood (f : Fw) (i : Fin 2) : Bool := f.slot[i].valid && decide (f.floor ≤ f.slot[i].version)

/-- The staged image is written to a slot (R368). -/
def storeImage (i : Fin 2) (x : ImageCheck) (f : Fw) : Fw :=
  { f with
    slot := f.slot.set i { valid := true, version := x.version, raises := x.raises, starts := x.starts }
    staged := 0 }

/-- In the safe state a committed image takes effect at the next full-device reset (R303). -/
def safeStore (s : State) (i : Fin 2) (f : Fw) : Fw := if s.sys.phase = .safe then { f with atReset := some i } else f

/-- Commit action 000b: store. -/
def commitStore (c slot : Nat) (x : ImageCheck) (n : Nat) (s : State) : State :=
  let f := s.host.fw
  match commitSlot f slot with
  | none => refuse c n .invalidFirmwareSlot s
  | some i =>
    if slotKept f i then refuse c n .invalidFirmwareSlot s
    else if imageOk f x = false then refuse c n .invalidFirmwareImage s
    else done c n (setFw (safeStore s i (storeImage i x f)) s)

/-- FW_COMMIT_STORE (R368). -/
def execFwCommitStore (c : CtlIx) (slot : Nat) (x : ImageCheck) (s : State) : Host.Outcome State Fault Refusal :=
  act s (adminRun c.val 0x10 (commitStore c.val slot x))

/-- Commit action 001b: store, and activate at the next reset. -/
def commitAtReset (c slot : Nat) (x : ImageCheck) (n : Nat) (s : State) : State :=
  let f := s.host.fw
  match commitSlot f slot with
  | none => refuse c n .invalidFirmwareSlot s
  | some i =>
    if slotKept f i then refuse c n .invalidFirmwareSlot s
    else if imageOk f x = false then refuse c n .invalidFirmwareImage s
    else done c n (setFw { storeImage i x f with atReset := some i } s)

/-- FW_COMMIT_ACTIVATE_AT_RESET (R368). -/
def execFwCommitActivateAtReset (c : CtlIx) (slot : Nat) (x : ImageCheck) (s : State) : Host.Outcome State Fault Refusal :=
  act s (adminRun c.val 0x10 (commitAtReset c.val slot x))

/-- Commit action 010b: activate the image already in the slot at the next reset. -/
def commitSlotAtReset (c slot n : Nat) (s : State) : State :=
  let f := s.host.fw
  match commitSlot f slot with
  | none => refuse c n .invalidFirmwareSlot s
  | some i =>
    if slotKept f i then refuse c n .invalidFirmwareSlot s
    else if slotGood f i = false then refuse c n .invalidFirmwareImage s
    else done c n (setFw { f with atReset := some i } s)

/-- FW_COMMIT_SLOT_AT_RESET (R368). -/
def execFwCommitSlotAtReset (c : CtlIx) (slot : Nat) (s : State) : Host.Outcome State Fault Refusal :=
  act s (adminRun c.val 0x10 (commitSlotAtReset c.val slot))

/-- Commit action 011b: store if an image is staged, and activate at once (R369); in the safe state the completion is posted, and the 100 ms
before the full-device reset begin (R303). -/
def commitNow (c slot : Nat) (x : ImageCheck) (n : Nat) (s : State) : State :=
  let f := s.host.fw
  match commitSlot f slot with
  | none => refuse c n .invalidFirmwareSlot s
  | some i =>
    if slotKept f i ∨ f.activation.isSome then refuse c n .invalidFirmwareSlot s
    else if (if f.staged = 0 then slotGood f i else imageOk f x) = false then refuse c n .invalidFirmwareImage s
    else
      let f := if f.staged = 0 then f else storeImage i x f
      if s.sys.phase = .safe then
        done c n (setFw { f with atReset := some i } { s with sys := { s.sys with safeCommit := true } })
      else setFw { f with activation := some { slot := i, ctl := c, fseq := n, holding := false } } s

/-- FW_COMMIT_ACTIVATE_NOW (R369). -/
def execFwCommitActivateNow (c : CtlIx) (slot : Nat) (x : ImageCheck) (s : State) : Host.Outcome State Fault Refusal :=
  act s (adminRun c.val 0x10 (commitNow c.val slot x))

/-- Firmware Commit by its action (R368): 100b to 111b are refused. -/
def commitCmd (c action slot : Nat) (x : ImageCheck) (n : Nat) (s : State) : State :=
  match action with
  | 0 => commitStore c slot x n s
  | 1 => commitAtReset c slot x n s
  | 2 => commitSlotAtReset c slot n s
  | 3 => commitNow c slot x n s
  | _ => refuse c n .invalidField s

/-! ### Activation without reset (R369) -/

/-- A range lock is stalled by a reshape's copy. -/
def reshapeStall (s : State) : Bool :=
  match s.arr.reshape.bind fun r => r.copying with
  | some (_, k) =>
    (s.hif.locks.filter fun l => decide (l.fseq = k)).any fun l =>
      s.hif.flight.any fun f => decide (f.phase = .stalled) && (let r := ioRange s f.io; decide (f.io.ns = l.ns ∧ l.first ≤ r.2 ∧ r.1 ≤ l.last))
  | none => false

/-- A quiet moment (R369, step 2). -/
def quiet (s : State) : Bool :=
  s.hif.flight.all (fun f => decide (f.phase ≠ .held ∧ f.phase ≠ .waiting)) && s.lane.toList.all (fun v => v.ladder.all fun x => decide (x.rung < 3)) &&
    !reshapeStall s

/-- Each controller with an outstanding request receives the Firmware Activation Starting notice (R369, step 3). -/
def activationNotice (c : CtlIx) (s : State) : State :=
  match s.hif.ctl[c].aers with
  | f :: t => complete c.val f .success 0x00030102 0 [] (setCtl c { s.hif.ctl[c] with aers := t } s)
  | [] => s

/-- At a quiet moment the activation hold begins. -/
def holdStart (s : State) : State :=
  let f := s.host.fw
  match f.activation with
  | some a =>
    if a.holding = false ∧ quiet s then
      activationNotice 1 (activationNotice 0 (fetchHold true (setFw { f with activation := some { a with holding := true } } s)))
    else s
  | none => s

/-- ACTIVATION_HOLD_START (R369). -/
def execActivationHoldStart (s : State) : Host.Outcome State Fault Refusal := act s holdStart

/-- No quiet moment has come within 2 s (R369). -/
def quietTimeout (s : State) : State :=
  match s.host.fw.activation with
  | some a => if a.holding then s else activationFail s
  | none => s

/-- ACTIVATION_QUIET_TIMEOUT (R369). -/
def execActivationQuietTimeout (s : State) : Host.Outcome State Fault Refusal := act s quietTimeout

/-- Every command already fetched has completed; event requests and the commit itself stay out (R369, step 4). -/
def allCompleted (s : State) : Bool :=
  decide (s.hif.flight = [] ∧ s.hif.fetched = [] ∧ s.hif.flushes = [] ∧ s.host.pmWait = [] ∧ s.host.clearWait = [] ∧ s.host.jrnlWait = [] ∧
    s.host.eraseWait = [])

/-- The cores start the new image, or the old one resumes (R369, steps 5 and 6): `late` says that 120 ms have passed. -/
def activationSwitch (late : Bool) (s : State) : State :=
  match s.host.fw.activation with
  | none => s
  | some a =>
    if a.holding = false ∨ (late = false ∧ allCompleted s = false) then s
    else if late ∨ s.host.fw.slot[a.slot].starts = false then activationFail s
    else
      let s := fwSwitch a.slot (setFw { s.host.fw with activation := none } (fetchHold false s))
      if a.ctl = 3 then s else done a.ctl a.fseq s

/-- ACTIVATION_SWITCH (R353, R369). -/
def execActivationSwitch (late : Bool) (s : State) : Host.Outcome State Fault Refusal := act s (activationSwitch late)

/-! ### Self-test (R371) -/

/-- A self-test starts, unless one runs; it is complete when its start is. -/
def selfTestStart (c kind n : Nat) (s : State) : State :=
  if s.host.test.isSome then refuse c n .selfTestInProgress s
  else done c n { s with host := { s.host with test := some { kind := kind, segment := 0, poh := s.stc.pos, result := 0 } } }

/-- SELFTEST_SHORT (R371). -/
def execSelftestShort (c : CtlIx) (s : State) : Host.Outcome State Fault Refusal := act s (adminRun c.val 0x14 (selfTestStart c.val 1))
/-- SELFTEST_EXTENDED (R371). -/
def execSelftestExtended (c : CtlIx) (s : State) : Host.Outcome State Fault Refusal := act s (adminRun c.val 0x14 (selfTestStart c.val 2))

/-- The running self-test is aborted. -/
def selfTestAbort (c n : Nat) (s : State) : State := done c n (abortTest s)

/-- SELFTEST_ABORT (R371). -/
def execSelftestAbort (c : CtlIx) (s : State) : Host.Outcome State Fault Refusal := act s (adminRun c.val 0x14 (selfTestAbort c.val))

/-- Device Self-test by its code. -/
def selfTestCmd (c code n : Nat) (s : State) : State :=
  match code with
  | 1 => selfTestStart c 1 n s
  | 2 => selfTestStart c 2 n s
  | 15 => selfTestAbort c n s
  | _ => refuse c n .invalidField s

/-! ### Slices (R288, R370 to R372, R475, R476) -/

/-- A self-test ends with a result (R371, R381, R382). -/
def testEnd (t : SelfTest) (s : State) : State :=
  vendorEvent 0xC4 { s with host := { s.host with test := none, tests := (t :: s.host.tests).take 20 } }

/-- A segment after the one reached: segment 3 is not run while L4 is bound (R476). -/
def nextSegment (s : State) (t : SelfTest) : Nat := if t.segment = 2 ∧ laneBind s.flt 4 < 4 then 4 else t.segment + 1

/-- The slice that ends a segment, with its verdict (R371). -/
def testSlice (pass : Bool) (s : State) : State :=
  match s.host.test with
  | none => s
  | some t =>
    let t := { t with segment := nextSegment s t }
    if pass = false then testEnd { t with result := 2 } s
    else if (if t.kind = 1 then 6 else 7) ≤ t.segment then testEnd t s
    else { s with host := { s.host with test := some t } }

/-- The oldest calibration that may start (R266, R470, R475): the gauge's waits for yarn mode; none while a completion waits. -/
def calNext (s : State) : Option CalRequest :=
  if s.hif.flight.any fun f => decide (f.phase = .waiting) then none
  else s.arr.calReqs.find? fun r => calAllowed s r.member && !(r.kinds.testBit 17 && s.yck.preamble)

/-- A calibration slice starts: SPE_CAL names the member (R266). -/
def calStart (s : State) : State :=
  match calNext s with
  | some r => speCalWrite (BitVec.ofNat 32 (r.member + 128)) s
  | none => s

/-- The calibration in SPE_CAL is over: its oldest request is recorded, tables that pass return the member to service (R308, R372, R381). -/
def calEnd (pass : Bool) (s : State) : State :=
  let w := speReg s.spe 0x48
  if bitOf w 7 = false then s
  else
    match s.arr.calReqs.find? fun r => decide (r.member = fld w 4 0) with
    | none => s
    | some r =>
      let s := speCalWrite 0 s
      let s := { s with arr := { s.arr with
        calReqs := s.arr.calReqs.filter fun x => decide (x.id ≠ r.id)
        calDone := (({ r with poh := s.stc.pos }, if pass then 1 else 2) :: s.arr.calDone).take 64 } }
      let s := if h : pass ∧ r.kinds.testBit 20 ∧ r.member < 24 then
          noteChange (setMember ⟨r.member, h.2.2⟩ { memberAt s r.member with tablesLost := false } s) else s
      kick (vendorEvent 0xC4 s)

/-- A slice ends (R370). Slices of a requalification change nothing until a part of it is over, which has its own commands. -/
def sliceEnd (x : SliceEnd) (s : State) : State :=
  if mediaWork s = false then s
  else
    match x with
    | .selfTest pass => testSlice pass s
    | .calStart => calStart s
    | .calDone pass => calEnd pass s
    | .requal => s

/-- SLICE (R370). -/
def execSlice (x : SliceEnd) (s : State) : Host.Outcome State Fault Refusal := act s (sliceEnd x)

/-- The oldest request that R266 has kept from starting for 24 h is abandoned and reported (R372). -/
def calAbandon (s : State) : State :=
  match s.arr.calReqs.find? fun r => !calAllowed s r.member && decide (r.poh + 86400 ≤ s.stc.pos) with
  | none => s
  | some r =>
    vendorEvent 0xC4 { s with arr := { s.arr with
      calReqs := s.arr.calReqs.filter fun x => decide (x.id ≠ r.id)
      calDone := (({ r with poh := s.stc.pos }, 3) :: s.arr.calDone).take 64 } }

/-- CALIBRATION_ABANDON (R372). -/
def execCalibrationAbandon (s : State) : Host.Outcome State Fault Refusal := act s calAbandon

end Sys2Proof.Machine
end

