-- ==== Sys2Proof/Machine/Security.lean ====
section
/-!
DEFINITION. The meanings of Format NVM, Sanitize and the Opal commands (R335, R345, R348 to R351, R356).
-/
namespace Sys2Proof.Machine
open Sys2Proof

def setOpal (o : Opal) (s : State) : State := { s with host := { s.host with opal := o } }

/-! ### Format NVM and Sanitize (R345, R351, R356) -/

/-- Format NVM: the LBA format and metadata setting in FLBAS's bits, the protection in DPS's, an erase setting of 0 to 2; PI needs format 1. -/
def formatCmd (c ns lbaf pi ses n : Nat) (s : State) : State :=
  if 1 < lbaf % 16 ∨ 32 ≤ lbaf ∨ (pi ≠ 0 ∧ (lbaf % 16 = 0 ∨ (pi ≠ 1 ∧ pi ≠ 9))) ∨ 2 < ses then refuse c n .invalidField s
  else if ns ≠ 0xFFFFFFFF ∧ (nsGet s ns).isNone then refuse c n .invalidNamespace s
  else kick (eraseStart c n (.format ns (decide (lbaf % 16 = 1)) (lbaf.testBit 4) (decide (pi ≠ 0)) (pi.testBit 3) (decide (ses = 2))) s)

/-- FORMAT_NVM (R356). -/
def execFormatNvm (c : CtlIx) (ns lbaf pi ses : Nat) (s : State) : Host.Outcome State Fault Refusal :=
  act s (adminRun c.val 0x80 (formatCmd c.val ns lbaf pi ses))

/-- Sanitize (R351): its entries cover every namespace; it completes when it is over (log entry 111). -/
def sanitizeCmd (c : Nat) (block : Bool) (n : Nat) (s : State) : State := kick (eraseStart c n (.sanitize block) s)

/-- SANITIZE_CRYPTO_ERASE (R351). -/
def execSanitizeCryptoErase (c : CtlIx) (s : State) : Host.Outcome State Fault Refusal := act s (adminRun c.val 0x84 (sanitizeCmd c.val false))
/-- SANITIZE_BLOCK_ERASE (R351). -/
def execSanitizeBlockErase (c : CtlIx) (s : State) : Host.Outcome State Fault Refusal := act s (adminRun c.val 0x84 (sanitizeCmd c.val true))

/-! ### Opal (R335, R348, R350) -/

/-- A range may be placed (R348): one of 1 to 15, at zone boundaries of one namespace, clear of the other ranges. -/
def rangeFits (s : State) (r : Fin 16) (ns start len : Nat) : Bool :=
  decide (r ≠ 0) && ((nsGet s ns).map fun v => decide (start % zoneStride v = 0 ∧ len % zoneStride v = 0 ∧ start + len ≤ nsBlocks v)).getD false &&
    (List.finRange 16).all fun q => decide (q = r ∨ q = 0) ||
      (let x := s.host.opal.range[q]; decide (x.ns ≠ ns ∨ x.len = 0 ∨ start + len ≤ x.start ∨ x.start + x.len ≤ start))

/-- The zones whose blocks a range holds (R350): the Global Range holds what no other range does. -/
def rangeZones (s : State) (r : Fin 16) : List Nat :=
  s.host.namespaces.flatMap fun x => (x.2.zones.zip (List.range x.2.zones.length)).filterMap fun z =>
    let lba := zoneStride x.2 * z.2
    let own (q : Fin 16) : Bool :=
      let y := s.host.opal.range[q]
      decide (q ≠ 0 ∧ y.ns = x.1 ∧ y.start ≤ lba ∧ lba < y.start + y.len)
    if (if r = 0 then (List.finRange 16).all fun q => !own q else own r) then some z.1 else none

/-- GenKey (R350): the range's key is replaced, and its zones read as after a Zone Reset. -/
def genKey (r : Fin 16) (s : State) : State :=
  let o := s.host.opal
  (rangeZones s r).foldl (fun t n => eraseZone n t) (setOpal { o with range := o.range.set r { o.range[r] with key := o.range[r].key + 1 } } s)

/-- Bytes put into a table at an offset. -/
def tablePut (t : List (Nat × BitVec 8)) (offset : Nat) (bs : List Byte) : List (Nat × BitVec 8) :=
  (bs.zip (List.range bs.length)).foldl (fun t x => keySet t (offset + x.2) x.1 0) t

/-- A crypto erase and factory Opal state (R348). -/
def opalRevert (s : State) : State :=
  let s := eraseSpaces s.host.namespaces s
  let s := cryptoErase s
  let keys := s.host.opal.range
  setOpal { Opal.factory with range := Vector.ofFn fun i => { OpalRange.factory with key := keys[i].key } } s

/-- What an Opal transaction may roll back. -/
def opalTables (o : Opal) : OpalTables := { range := o.range, mbrOn := o.mbrOn, mbrDone := o.mbrDone, mbr := o.mbr, dataStore := o.dataStore }

/-- One method: outside a session only the start of one and PSID Revert have an effect. -/
def opalMethod (m : OpalMethod) (s : State) : State :=
  let o := s.host.opal
  match m with
  | .startSession ok => if ok ∧ o.session = false then setOpal { o with session := true, before := some (opalTables o) } s else s
  | .psidRevert => opalRevert s
  | m =>
    if o.session = false then s
    else
      match m with
      | .endSession => setOpal { o with session := false, before := none } s
      | .setRange r ns start len =>
        if rangeFits s r ns start len then setOpal { o with range := o.range.set r { o.range[r] with ns := ns, start := start, len := len } } s else s
      | .setLocks r rle wle rl wl =>
        setOpal { o with range := o.range.set r { o.range[r] with rle := rle, wle := wle, rl := rl, wl := wl } } s
      | .genKey r => genKey r s
      | .setDataStore off bs =>
        if off + bs.length ≤ 10 * 2 ^ 20 then setOpal { o with dataStore := tablePut o.dataStore off bs } s else s
      | .setMbr en dn => setOpal { o with mbrOn := en, mbrDone := dn } s
      | .setMbrData off bs => if off + bs.length ≤ 128 * 2 ^ 20 then setOpal { o with mbr := tablePut o.mbr off bs } s else s
      | .revert => opalRevert s
      | _ => s

/-- Security Send carries one method; the outcome of the method itself is read with Security Receive (log entry 112). -/
def securitySendCmd (c : Nat) (m : OpalMethod) (n : Nat) (s : State) : State := kick (done c n (opalMethod m s))

/-- SECURITY_SEND (R348). -/
def execSecuritySend (c : CtlIx) (m : OpalMethod) (s : State) : Host.Outcome State Fault Refusal :=
  act s (adminRun c.val 0x81 (securitySendCmd c.val m))

/-- Security Receive: Level 0 Discovery, or the session's response. Their bytes follow TCG's documents, which the spec does not give: free
values (log entry 112). -/
def securityReceiveCmd (c n : Nat) (s : State) : State :=
  let r := openPage 0 512 0 s
  complete c n .success 0 0 [r.1] r.2

/-- SECURITY_RECEIVE (R331, R348): a standby controller serves Level 0 Discovery. -/
def execSecurityReceive (c : CtlIx) (discovery : Bool) (s : State) : Host.Outcome State Fault Refusal :=
  act s (adminServe c.val 0x82 discovery (securityReceiveCmd c.val))

end Sys2Proof.Machine
end

