-- ==== Sys2Proof/Machine/Vendor.lean ====
section
/-!
DEFINITION. The meanings of the vendor admin commands (R273, R276, R288, R290, R372, R373, R441, R442).
-/
namespace Sys2Proof.Machine
open Sys2Proof

/-! ### Surface Control (R273, R276, R288, R373) -/

/-- The member of a Surface Control command whose generation agrees; the command is refused otherwise. -/
def surfaceOn (c m gen n : Nat) (f : Fin 24 → State → State) (s : State) : State :=
  if h : m < 24 then (if s.arr.member[m].gen = gen then f ⟨m, h⟩ s else refuse c n .invalidField s) else refuse c n .invalidField s

/-- Dword 0 of Surface Control: the new state and generation. -/
def surfaceDw0 (s : State) (m : Fin 24) : Nat := memberCode s.arr.member[m].state + 65536 * s.arr.member[m].gen

/-- A command whose change is the entry q of the journal completes when that entry is durable. -/
def whenDurable (c n q dw0 : Nat) (s : State) : State :=
  settleWaits { s with host := { s.host with jrnlWait := s.host.jrnlWait ++ [(c, n, q, dw0)] } }

/-- Declare Dead (R273, R276): the no-loss test unless forced. -/
def declareDead (c m : Nat) (force : Bool) (gen n : Nat) (s : State) : State :=
  surfaceOn c m gen n (fun m s =>
    let v := s.arr.member[m]
    if ¬ (v.state = .active ∨ v.state = .suspect) ∨ (force = false ∧ noLoss s [m.val] = false) then refuse c n .invalidField s
    else
      let q := jNext s
      let s := fence m 0 s
      kick (whenDurable c n q (surfaceDw0 s m) s)) s

/-- DECLARE_DEAD (R276). -/
def execDeclareDead (c : CtlIx) (m : Nat) (force : Bool) (gen : Nat) (s : State) : Host.Outcome State Fault Refusal :=
  act s (adminRun c.val 0xC1 (declareDead c.val m force gen))

/-- Requalify (R273, R288): a FENCED member starts to qualify; one of generation 4 or more retires. -/
def requalify (c m gen n : Nat) (s : State) : State :=
  surfaceOn c m gen n (fun m s =>
    let v := s.arr.member[m]
    if v.state ≠ .fenced then refuse c n .invalidField s
    else
      let q := jNext s
      let s := memberChange m (if 4 ≤ v.gen then .retired else .qualifying) v.gen 0 (setMember m { v with swatched := false } s)
      whenDurable c n q (surfaceDw0 s m) s) s

/-- REQUALIFY (R288). -/
def execRequalify (c : CtlIx) (m gen : Nat) (s : State) : Host.Outcome State Fault Refusal := act s (adminRun c.val 0xC1 (requalify c.val m gen))

/-- Readmit as Spare (R288): at most one standing spare on an actuator. Its entry carries the flag (R297). -/
def readmit (c m gen n : Nat) (s : State) : State :=
  surfaceOn c m gen n (fun m s =>
    let v := s.arr.member[m]
    let taken := (List.finRange 24).any fun k => decide (k.val / 6 = m.val / 6) && s.arr.member[k].standing
    if v.state ≠ .spare ∨ taken then refuse c n .invalidField s
    else
      let q := jNext s
      let s := memberChange m .spare v.gen v.cause (setMember m { v with standing := true } s)
      whenDurable c n q (surfaceDw0 s m) s) s

/-- READMIT_AS_SPARE (R288). -/
def execReadmitAsSpare (c : CtlIx) (m gen : Nat) (s : State) : Host.Outcome State Fault Refusal := act s (adminRun c.val 0xC1 (readmit c.val m gen))

/-- Set a member's scrub period in days; 0 restores the drive-wide one (R373). It completes at once. -/
def scrubPeriod (c m gen days n : Nat) (s : State) : State :=
  surfaceOn c m gen n (fun m s =>
    if 365 < days then refuse c n .invalidField s
    else
      let s := noteChange (setMember m { s.arr.member[m] with scrubDays := days } s)
      complete c n .success (surfaceDw0 s m) 0 [] s) s

/-- SET_SCRUB_PERIOD (R373). -/
def execSetScrubPeriod (c : CtlIx) (m gen days : Nat) (s : State) : Host.Outcome State Fault Refusal :=
  act s (adminRun c.val 0xC1 (scrubPeriod c.val m gen days))

/-! ### Surface Query, Reshape Start (R290, R373) -/

def surfaceQueryCmd (c m n : Nat) (s : State) : State :=
  if 24 ≤ m then refuse c n .invalidField s
  else
    let r := surfacePage m s
    complete c n .success 0 0 [r.1] r.2

/-- SURFACE_QUERY (R373). -/
def execSurfaceQuery (c : CtlIx) (m : Nat) (s : State) : Host.Outcome State Fault Refusal := act s (adminRun c.val 0xC2 (surfaceQueryCmd c.val m))

/-- Extents of an area type that zones of a set take in a layout, with the copy of one zone in flight, fit beside the rest (R290; log entry 113). -/
def reshapeRoom (s : State) (zs : List Nat) (w : Nat) (conv : Bool) : Bool :=
  let mine := s.arr.zones.filter fun z => zs.contains z.1 && decide (z.2.conv = conv)
  let old := mine.foldl (fun a z => a + z.2.w) 0
  decide (mine = []) || decide (extentsUsed s conv - old + mine.length * w + w ≤ extentsTotal s conv)

/-- A reason of R290 stands against a reshape. -/
def reshapeBad (s : State) (zs : List Nat) (w c : Nat) : Bool :=
  s.arr.reshape.isSome || !layoutValid s w c || zs.any (fun n => (placement s n w c).isNone) ||
    (zs.any fun n => ((zoneGet s n).map fun z => decide (z.st ≠ .empty ∧ zoneCapacity w < zoneCapacity z.w)).getD false) ||
    !reshapeRoom s zs w true || !reshapeRoom s zs w false

/-- Reshape Start (R290, R373): indices within the namespace; it completes when its RESHAPE entry is durable. -/
def reshapeStart (c ns first last w cc n : Nat) (s : State) : State :=
  match nsGet s ns with
  | none => refuse c n .invalidNamespace s
  | some v =>
    if last < first ∨ v.zones.length ≤ last ∨ w < 4 ∨ 24 < w ∨ cc = 0 ∨ 6 < cc then refuse c n .invalidField s
    else
      let zs := (v.zones.drop first).take (last - first + 1)
      if reshapeBad s zs w cc then refuse c n .reshapeConflict s
      else
        let q := jNext s
        let a := zs.headD 0
        let s := zmap a 0x24 [(32, a), (32, zs.getLastD 0), (8, w), (8, cc), (32, a)] s
        let s := { s with arr := { s.arr with reshape := some { zones := zs, w := w, c := cc, boundary := 0, copying := none } } }
        whenDurable c n q 0 (noteChange s)

/-- RESHAPE_START (R290). -/
def execReshapeStart (c : CtlIx) (ns first last w cc : Nat) (s : State) : Host.Outcome State Fault Refusal :=
  act s (adminRun c.val 0xC5 (reshapeStart c.val ns first last w cc))

/-! ### The recorder and calibration (R308, R372, R373, R441, R442) -/

/-- Recorder Read (R441). -/
def recorderReadCmd (c group : Nat) (rewind : Bool) (n : Nat) (s : State) : State :=
  let r := stcHostRead (actingCtl c) group rewind s
  complete c n .success r.2.1 0 [r.1.toNat] r.2.2

/-- RECORDER_READ (R441). -/
def execRecorderRead (c : CtlIx) (group : Fin 256) (rewind : Bool) (s : State) : Host.Outcome State Fault Refusal :=
  act s (adminRun c.val 0xC6 (recorderReadCmd c.val group.val rewind))

/-- Recorder Clear (R373, R442): a clearable group, or all of them; it completes after the persistence write. -/
def recorderClear (c group n : Nat) (s : State) : State :=
  if group = 0xFF ∨ (1 ≤ group ∧ group ≤ 10) then
    stcClear group { s with host := { s.host with clearWait := s.host.clearWait ++ [(c, n)] } }
  else refuse c n .invalidField s

/-- RECORDER_CLEAR (R442). -/
def execRecorderClear (c : CtlIx) (group : Fin 256) (s : State) : Host.Outcome State Fault Refusal :=
  act s (adminRun c.val 0xC8 (recorderClear c.val group.val))

/-- Calibration Request (R373): the kinds are CDW10 [20:16]; a member that is FENCED, QUALIFYING or RETIRED is refused. -/
def calRequest (c m zone : Nat) (all : Bool) (kinds : BitVec 5) (n : Nat) (s : State) : State :=
  let st := (memberAt s m).state
  if 24 ≤ m ∨ 64 ≤ zone ∨ st = .fenced ∨ st = .qualifying ∨ st = .retired then refuse c n .invalidField s
  else
    let r := calAdd m (if all then 64 else zone) (kinds.toNat * 65536) s
    complete c n .success r.1 0 [] r.2

/-- CALIBRATION_REQUEST (R372). -/
def execCalibrationRequest (c : CtlIx) (m zone : Nat) (all : Bool) (kinds : BitVec 5) (s : State) : Host.Outcome State Fault Refusal :=
  act s (adminRun c.val 0xCC (calRequest c.val m zone all kinds))

end Sys2Proof.Machine
end

