-- ==== Sys2Proof/Machine/Mi.lean ====
section
/-!
DEFINITION. The meanings of the NVMe-MI commands, in band and on the management bus, of the control primitives, and of the bus itself
(R340, R347, R354, R501). Response statuses and the fields of the responses follow the NVMe-MI specification (log entry 114).
-/
namespace Sys2Proof.Machine
open Sys2Proof

def setMi (m : Mi) (s : State) : State := { s with host := { s.host with mi := m } }

/-! ### The NVMe-MI commands (R347) -/

/-- Response statuses: success, invalid opcode, invalid parameter, access denied. -/
def miOk : Nat := 0
def miBadOpcode : Nat := 3
def miBadParameter : Nat := 4
def miDenied : Nat := 7

/-- A response whose content the spec leaves open: a status and n free values. -/
def miOpen (n : Nat) (s : State) : List Nat × State :=
  let r := freeWords n s
  ([miOk, r.1], r.2)

/-- Read NVMe-MI Data Structure: types 0 to 4. -/
def miReadData (kind : Nat) (s : State) : List Nat × State := if 4 < kind then ([miBadParameter], s) else miOpen 4 s

/-- NVM Subsystem Health Status Poll: SMART critical bit 2 and the composite temperature are held (R302, R339), the rest is free. -/
def miSubsystemPoll (s : State) : List Nat × State :=
  let r := freeWords 1 s
  ([miOk, flagBit (s.host.critical || decide (s.sys.phase = .safe)) 2, s.host.tempK, r.1], r.2)

/-- Controller Health Status Poll: of controllers 1 and 2, ready, attached and shut down (CSTS), the rest free. -/
def miControllerPoll (cntid : Nat) (s : State) : List Nat × State :=
  if cntid = 0 ∨ 2 < cntid then ([miBadParameter], s)
  else
    let v := s.hif.ctl[actingCtl (cntid - 1)]
    let r := freeWords 1 s
    ([miOk, flagBit v.rdy 0 + v.shst * 4 + flagBit v.nssro 4, r.1], r.2)

/-- Configuration identifiers: the bus frequency, the health status change, the transmission unit, whose baseline is 64 B. -/
def miConfigOk (id : Nat) : Bool := decide (1 ≤ id ∧ id ≤ 3)
def miConfigDefault (id : Nat) : Nat := if id = 3 then 64 else 0

/-- Configuration Set: the bus runs at 100 or 400 kHz (1 and 2), the transmission unit is 64 B (R347, R501). -/
def miConfigSet (id v : Nat) (s : State) : List Nat × State :=
  if miConfigOk id = false ∨ (id = 1 ∧ v ≠ 1 ∧ v ≠ 2) ∨ (id = 3 ∧ v ≠ 64) then ([miBadParameter], s)
  else ([miOk], setMi { s.host.mi with config := keySet s.host.mi.config id v (miConfigDefault id) } s)

/-- Configuration Get. -/
def miConfigGet (id : Nat) (s : State) : List Nat × State :=
  if miConfigOk id = false then ([miBadParameter], s) else ([miOk, keyGet s.host.mi.config id (miConfigDefault id)], s)

/-- VPD Read, of 256 B. -/
def miVpdRead (offset len : Nat) (s : State) : List Nat × State :=
  if 256 < offset + len then ([miBadParameter], s)
  else (miOk :: (List.range len).map fun i => (keyGet s.host.mi.vpd (offset + i) 0).toNat, s)

/-- VPD Write: refused once the integrator has locked it, and in the safe state. -/
def miVpdWrite (offset : Nat) (bs : List Byte) (s : State) : List Nat × State :=
  if s.sys.phase = .safe then ([miBadOpcode], s)
  else if s.host.mi.vpdLocked then ([miDenied], s)
  else if 256 < offset + bs.length then ([miBadParameter], s)
  else ([miOk], setMi { s.host.mi with vpd := tablePut s.host.mi.vpd offset bs } s)

/-- Reset: the NVM subsystem (R367). -/
def miReset (s : State) : List Nat × State := if s.sys.phase = .safe then ([miBadOpcode], s) else ([miOk], subsystemReset s)

/-- A command by its kind. -/
def miCommand (c : MiCmd) (s : State) : List Nat × State :=
  match c with
  | .readData k => miReadData k s
  | .subsystemPoll => miSubsystemPoll s
  | .controllerPoll k => miControllerPoll k s
  | .configSet id v => miConfigSet id v s
  | .configGet id => miConfigGet id s
  | .vpdRead o n => miVpdRead o n s
  | .vpdWrite o bs => miVpdWrite o bs s
  | .reset => miReset s

/-! ### In band (R340) -/

/-- The commands that NVMe-MI Send carries change something; NVMe-MI Receive carries the others (log entry 114). -/
def miSends : MiCmd → Bool
  | .configSet _ _ | .vpdWrite _ _ | .reset => true
  | _ => false

/-- The command ends with the response's status in dword 0 and its bytes as data. A reset leaves no controller to complete to. -/
def miInBand (c : CtlIx) (k : MiCmd) (n : Nat) (s : State) : State :=
  let r := miCommand k s
  complete c.val n .success (r.1.headD 0) 0 (r.1.drop 1) r.2

/-- NVME_MI_SEND (R340). -/
def execNvmeMiSend (c : CtlIx) (k : MiCmd) (s : State) : Host.Outcome State Fault Refusal :=
  act s (adminRun c.val 0x1D fun n s => if miSends k then miInBand c k n s else refuse c.val n .invalidField s)
/-- NVME_MI_RECEIVE (R340). -/
def execNvmeMiReceive (c : CtlIx) (k : MiCmd) (s : State) : Host.Outcome State Fault Refusal :=
  act s (adminRun c.val 0x1E fun n s => if miSends k then refuse c.val n .invalidField s else miInBand c k n s)

/-! ### Out of band (R347, R354) -/

/-- A response is sent, and kept for Replay. -/
def miRespond (r : List Nat) (s : State) : State :=
  let m := s.host.mi
  setMi { m with last := some r, responses := r :: m.responses } s

/-- A tunnelled admin command, as from controller 1 (R347). Two of them give features and firmware their own forms. -/
def tunnelRun (k : AdminCmd) (s : State) : State :=
  match k with
  | .identify cns csi ns id => adminRun 2 0x06 (identifyCmd 2 cns csi ns id) s
  | .getLogPage lid rae off len => adminRun 2 0x02 (getLogCmd 2 lid rae off len) s
  | .setFeatures fid save v data => adminRun 2 0x09 (setFeaturesCmd 2 fid save v data) s
  | .getFeatures fid sel v => adminRun 2 0x0A (getFeaturesCmd 2 fid sel v) s
  | .firmwareDownload off len => adminRun 2 0x11 (downloadCmd 2 off len) s
  | .firmwareCommit a slot x => adminRun 2 0x10 (commitCmd 2 a slot x) s
  | .selfTest code => adminRun 2 0x14 (selfTestCmd 2 code) s
  | .formatNvm ns lbaf pi ses => adminRun 2 0x80 (formatCmd 2 ns lbaf pi ses) s
  | .sanitize block => adminRun 2 0x84 (sanitizeCmd 2 block) s
  | .securitySend m => adminRun 2 0x81 (securitySendCmd 2 m) s
  | .securityReceive _ => adminRun 2 0x82 (securityReceiveCmd 2) s
  | .surfaceQuery m => adminRun 2 0xC2 (surfaceQueryCmd 2 m) s
  | .recorderRead g rewind => adminRun 2 0xC6 (recorderReadCmd 2 g rewind) s

/-- The endpoint processes a request. -/
def miServe (r : MiRequest) (s : State) : State :=
  match r with
  | .mi c =>
    let x := miCommand c s
    miRespond x.1 x.2
  | .admin k =>
    let t := tunnelRun k s
    match t.hif.posted with
    | p :: _ => if p.ctl = 2 ∧ s.hif.posted.length < t.hif.posted.length then miRespond (p.dw0 :: p.data) t else t
    | [] => t

/-- A request arrives: processed at once, kept while the endpoint is paused, lost while it is silent. -/
def miArrive (r : MiRequest) (s : State) : State :=
  if miUp s = false then s
  else if s.host.mi.paused then setMi { s.host.mi with waiting := s.host.mi.waiting ++ [r] } s
  else miServe r s

/-- MI_READ_DATA_STRUCTURE (R347). -/
def execMiReadDataStructure (kind : Nat) (s : State) : Host.Outcome State Fault Refusal := act s (miArrive (.mi (.readData kind)))
/-- MI_SUBSYSTEM_HEALTH_POLL (R347). -/
def execMiSubsystemHealthPoll (s : State) : Host.Outcome State Fault Refusal := act s (miArrive (.mi .subsystemPoll))
/-- MI_CONTROLLER_HEALTH_POLL (R347). -/
def execMiControllerHealthPoll (cntid : Nat) (s : State) : Host.Outcome State Fault Refusal := act s (miArrive (.mi (.controllerPoll cntid)))
/-- MI_CONFIGURATION_SET (R347). -/
def execMiConfigurationSet (id v : Nat) (s : State) : Host.Outcome State Fault Refusal := act s (miArrive (.mi (.configSet id v)))
/-- MI_CONFIGURATION_GET (R347). -/
def execMiConfigurationGet (id : Nat) (s : State) : Host.Outcome State Fault Refusal := act s (miArrive (.mi (.configGet id)))
/-- MI_VPD_READ (R347). -/
def execMiVpdRead (offset len : Nat) (s : State) : Host.Outcome State Fault Refusal := act s (miArrive (.mi (.vpdRead offset len)))
/-- MI_VPD_WRITE (R347). -/
def execMiVpdWrite (offset : Nat) (bs : List Byte) (s : State) : Host.Outcome State Fault Refusal := act s (miArrive (.mi (.vpdWrite offset bs)))
/-- MI_RESET (R347). -/
def execMiReset (s : State) : Host.Outcome State Fault Refusal := act s (miArrive (.mi .reset))
/-- MI_TUNNELLED_ADMIN (R347). -/
def execMiTunnelledAdmin (k : AdminCmd) (s : State) : Host.Outcome State Fault Refusal := act s (miArrive (.admin k))

/-! ### Control primitives (R347) -/

/-- Pause. -/
def miPause (s : State) : State := if miUp s then miRespond [miOk] (setMi { s.host.mi with paused := true } s) else s
/-- MI_PAUSE (R347). -/
def execMiPause (s : State) : Host.Outcome State Fault Refusal := act s miPause

/-- Resume: what waits is processed, oldest first. -/
def miResume (s : State) : State :=
  if miUp s then
    s.host.mi.waiting.foldl (fun t r => miServe r t) (miRespond [miOk] (setMi { s.host.mi with paused := false, waiting := [] } s))
  else s
/-- MI_RESUME (R347). -/
def execMiResume (s : State) : Host.Outcome State Fault Refusal := act s miResume

/-- Abort: the message in progress, which a pause keeps from ending, is dropped. -/
def miAbort (s : State) : State :=
  if miUp s then miRespond [miOk] (setMi { s.host.mi with waiting := s.host.mi.waiting.drop 1 } s) else s
/-- MI_ABORT (R347). -/
def execMiAbort (s : State) : Host.Outcome State Fault Refusal := act s miAbort

/-- Get State: whether the endpoint is paused, and whether a message is in progress. -/
def miGetState (s : State) : State :=
  if miUp s then miRespond [miOk, flagBit s.host.mi.paused 4 + flagBit (!s.host.mi.waiting.isEmpty) 0] s else s
/-- MI_GET_STATE (R347). -/
def execMiGetState (s : State) : Host.Outcome State Fault Refusal := act s miGetState

/-- Replay: the last response again. -/
def miReplay (s : State) : State :=
  if miUp s then
    (match s.host.mi.last with
     | some r => setMi { s.host.mi with responses := r :: s.host.mi.responses } s
     | none => s)
  else s
/-- MI_REPLAY (R347). -/
def execMiReplay (s : State) : Host.Outcome State Fault Refusal := act s miReplay

/-! ### The bus (R50, R347, R501) -/

/-- STRAP_MGMTBUS selects I3C basic. -/
def i3cBus (s : State) : Bool := bitOf s.sys.strap 2

/-- The device's 7-bit address on the management bus, the static address in I3C mode (R50): 0x58 + mgmtaddr. -/
def mgmtAddress (s : State) : Nat := 0x58 + fld s.sys.strap 4 3

/-- The SMBus/I2C basic management command, addressed to the device, is answered: a status block whose content the spec does not give. -/
def basicCommand (dest : Nat) (s : State) : State :=
  if miUp s ∧ i3cBus s = false ∧ dest = mgmtAddress s then
    let r := freeWords 1 s
    let m := r.2.host.mi
    setMi { m with responses := [r.1] :: m.responses } r.2
  else s
/-- BASIC_MANAGEMENT_COMMAND (R347). -/
def execBasicManagementCommand (dest : Nat) (s : State) : Host.Outcome State Fault Refusal := act s (basicCommand dest)

/-- A dynamic address is accepted in I3C basic mode (R501): by ENTDAA, or by SETDASA to the static address while that still stands. -/
def i3cAssign (setdasa : Option Nat) (address : Nat) (s : State) : State :=
  let taken : Bool := match setdasa with
    | some dest => decide (dest = mgmtAddress s) && s.host.mi.dynamic.isNone
    | none => true
  if miUp s ∧ i3cBus s ∧ address < 128 ∧ taken then setMi { s.host.mi with dynamic := some address } s else s
/-- I3C_DYNAMIC_ADDRESS_ASSIGN (R501). -/
def execI3cDynamicAddressAssign (setdasa : Option Nat) (address : Nat) (s : State) : Host.Outcome State Fault Refusal :=
  act s (i3cAssign setdasa address)

end Sys2Proof.Machine
end

