-- ==== Sys2Proof/Machine/Registers.lean ====
section
/-!
DEFINITION. The meanings of the register accesses (R16 to R20, R28, R419, R479 to R485), with the two DMA commands whose bursts may write
registers (R386, R388, R389).
-/
namespace Sys2Proof.Machine
open Sys2Proof

/-! ### Where an access goes (R16, R28, R480, R482, R483, R485) -/

/-- Why an access completes without effect. -/
inductive AccessFault where
  | hook
  | unmapped
  | gated
  | misaligned
  deriving DecidableEq, Repr

/-- The power domain that holds a register (R447, R483): the sensor unit's and the pool's follow AON and DDP. -/
def regDom (b : Blk) (off : Nat) : Nat :=
  match b with
  | .lane l => if l = 0 ∧ 0x800 ≤ off ∧ off ≤ 0x80C then 11 else domOfBlk b
  | .srv e => if e = 0 ∧ off = 0x90 then 0 else domOfBlk b
  | _ => domOfBlk b

/-- A hook core reaches a register (R485, log entry 103); w is what it writes, if it writes. -/
def hookReg (s : State) (b : Blk) (off : Nat) (w : Option Word) : Bool :=
  match b with
  | .dma => decide (off = 0x14 ∨ off = 0x38 ∨ off = 0x3C ∨ (0x1C00 ≤ off ∧ off < 0x2000))
  | .hqm =>
    decide (off = 0x30 ∨ (0x100 ≤ off ∧ off < 0x138) ∨ (0x200 ≤ off ∧ off < 0x238)) ||
      (decide (off = 0x10) && ((w.map fun x => decide (15360 ≤ fld x 13 0)).getD true)) ||
      (decide (off = 0x1C ∨ off = 0x20 ∨ off = 0x24 ∨ off = 0x28) && decide (15360 ≤ selRing s))
  | .stc => decide (off = 4 ∨ off = 0xC ∨ off = 0x10 ∨ (0x100 ≤ off ∧ off < 0x180))
  | .flt =>
    decide ((0x100 ≤ off ∧ off < 0x150) ∨ (0x200 ≤ off ∧ off < 0x250)) ||
      (decide (off = 0x10) && ((w.map fun x => decide (6 ≤ fld x 2 0)).getD true))
  | .lane _ => decide (off = 0x1000 ∨ off = 0x101C ∨ (0x1030 ≤ off ∧ off ≤ 0x1048))
  | _ => false

/-- An access of a hook core lies inside its partition (R28, R485). -/
def hookReach (s : State) (c : CoreIx) (x : Access) : Bool :=
  match regionAt x.addr with
  | .tcm k => decide (k = c.val)
  | .hookSram => true
  | .rld _ _ => hookWindow s x.addr
  | .reg b off => hookReg s b off x.write
  | _ => false

/-- A core write the map forbids: boot ROM, a lane's sample ring and hold area, an L2 window while a core of its cluster runs. -/
def writeBad (s : State) (a : Nat) : Bool :=
  match regionAt a with
  | .rom | .samples _ => true
  | .l2 k => (List.range 12).any fun i => !coreHalted s (12 * k + i)
  | _ => false

/-- What stops an access, if anything does (log entry 100). -/
def accessFault (s : State) (x : Access) : Option AccessFault :=
  let outside : Bool := match x.who with
    | .core c => decide (s.flt.role[c] = .hook) && !hookReach s c x
    | _ => false
  if outside then some .hook
  else if regionAt x.addr = .unmapped ∨ rldDown s x.addr ∨ (x.write.isSome ∧ writeBad s x.addr) then some .unmapped
  else
    match regionAt x.addr with
    | .reg b off =>
      if domState s (regDom b off) ≠ .on then some .gated
      else if x.bytes ≠ 4 ∨ x.addr % 4 ≠ 0 then some .misaligned
      else none
    | _ => none

/-- An access without effect: it reads 0 and raises its source. -/
def accessRefused (src : Nat) (x : Access) (s : State) : State := raise src (if x.write.isNone then setRdata 0 s else s)

/-- An access with a fault of one kind does nothing but raise its source. -/
def accessStops (k : AccessFault) (src : Nat) (x : Access) (s : State) : State :=
  if accessFault s x = some k then accessRefused src x s else s

/-- MISALIGNED_ACCESS (R16). -/
def execMisalignedAccess (x : Access) (s : State) : Host.Outcome State Fault Refusal := act s (accessStops .misaligned 168 x)
/-- UNMAPPED_ACCESS (R480, R481, R482). -/
def execUnmappedAccess (x : Access) (s : State) : Host.Outcome State Fault Refusal := act s (accessStops .unmapped 168 x)
/-- GATED_BLOCK_ACCESS (R483). -/
def execGatedBlockAccess (x : Access) (s : State) : Host.Outcome State Fault Refusal := act s (accessStops .gated 168 x)
/-- HOOK_VIOLATION (R28). -/
def execHookViolation (x : Access) (s : State) : Host.Outcome State Fault Refusal := act s (accessStops .hook 169 x)

/-! ### Write-one-to-clear bits (R20; log entry 149) -/

/-- The mark of bit i of a W1C register (R20): the source whose occurrences set it, and from 640 on a bit without one; the first number and
how many, with FLT_PENDk apart. -/
def freshBase (b : Blk) (off : Nat) : Option (Nat × Nat) :=
  match b with
  | .flt => if off = 0xF08 then some (644, 3) else none
  | .hif => if off = 8 then some (136, 16) else none
  | .clk => if off = 8 then some (152, 3) else none
  | .spn => if off = 8 then some (184, 14) else none
  | .yck => if off = 8 then some (198, 13) else none
  | .srv e => if off = 8 then some (211 + 16 * e.val, 16) else none
  | .lane l =>
    if off = 8 then some (291 + 41 * l.val, 11) else if off = 0x414 then some (302 + 41 * l.val, 11)
    else if off = 0x1008 then some (313 + 41 * l.val, 11) else if off = 0x1108 then some (324 + 41 * l.val, 8)
    else if off = 0x808 then some (496, 4) else none
  | .spe => if off = 8 then some (500, 9) else none
  | .dma => if off = 8 then some (509, 8) else if off = 0x10 then some (517, 32) else if off = 0x14 then some (549, 32) else none
  | .hqm => if off = 8 then some (581, 8) else if off = 0x30 then some (589, 32) else none
  | .cap => if off = 0x10 then some (621, 4) else none
  | .pwr => if off = 8 then some (155, 7) else none
  | .stc => none

/-- Bits of a word whose marks stand from a number on. -/
def marksFrom (f : Flt) (at_ n : Nat) : Word := BitVec.ofNat 32 (f.freshEvt.toNat / 2 ^ at_ % 2 ^ n)

/-- Bits of a W1C register that have occurred since it was last read (R20). -/
def freshBits (s : State) (b : Blk) (off : Nat) : Word :=
  let f := s.flt
  let own := ((freshBase b off).map fun x => marksFrom f x.1 x.2).getD 0
  if b = .clk ∧ off = 8 then own ||| marksFrom f 642 1 <<< 3
  else if b = .pwr ∧ off = 8 then own ||| marksFrom f 162 1 <<< 7 ||| marksFrom f 643 1 <<< 8
  else if b = .stc ∧ off = 8 then marksFrom f 173 1 ||| marksFrom f 640 2 <<< 1
  else own

/-- Marks from a number on that a read has taken. -/
def takeMarks (at_ n : Nat) (m : BitVec 704) : BitVec 704 := m &&& ~~~ BitVec.ofNat 704 ((2 ^ n - 1) * 2 ^ at_)

/-- A W1C register has been read (R20): what was present is known. -/
def seenBits (b : Blk) (off : Nat) (s : State) : State :=
  let f := s.flt
  let m := ((freshBase b off).map fun x => takeMarks x.1 x.2 f.freshEvt).getD f.freshEvt
  if b = .flt ∧ 0x100 ≤ off ∧ off < 0x150 then
    { s with flt := { f with freshPend := f.freshPend &&& ~~~ BitVec.ofNat 640 ((2 ^ 32 - 1) * 2 ^ (8 * (off - 0x100))) } }
  else
    let m := if b = .clk ∧ off = 8 then takeMarks 642 1 m
      else if b = .pwr ∧ off = 8 then takeMarks 162 1 (takeMarks 643 1 m)
      else if b = .stc ∧ off = 8 then takeMarks 173 1 (takeMarks 640 2 m)
      else m
    if m = f.freshEvt then s else { s with flt := { f with freshEvt := m } }

/-! ### 64-bit pairs (R17; log entry 101) -/

/-- The low word's offset of the 64-bit pair that an offset belongs to. -/
def pairOf (b : Blk) (off : Nat) : Option Nat :=
  let at_ (o : Nat) : Option Nat := if off = o ∨ off = o + 4 then some o else none
  match b with
  | .flt => at_ 0xE00
  | .lane _ => at_ 0x1118
  | .pwr => if off < 0x20 then at_ 0x18 else at_ 0x20
  | .dma =>
    if off = 0x10 ∨ off = 0x14 then some 0x10
    else if 0x1000 ≤ off ∧ off < 0x2000 then
      (let n := (off - 0x1000) / 64
       if (off - 0x1000) % 64 = 8 ∨ (off - 0x1000) % 64 = 12 then some (0x1000 + 64 * n + 8)
       else if (off - 0x1000) % 64 = 16 ∨ (off - 0x1000) % 64 = 20 then some (0x1000 + 64 * n + 16)
       else none)
    else none
  | .hqm => at_ 0x14
  | .srv _ => if 0x2000 ≤ off ∧ off < 0x2180 then some (off / 8 * 8) else at_ 0x14
  | .yck => if off < 0x28 then at_ 0x20 else at_ 0x28
  | .spe => if off < 0x24 then at_ 0x1C else at_ 0x24
  | .hif => at_ 0x10
  | _ => none

/-- A write of both halves together. -/
def commitPair (b : Blk) (lo : Nat) (v : Nat) (s : State) : State :=
  match b with
  | .lane l => setLane l { s.lane[l] with regs := regSet laneRows (regSet laneRows s.lane[l].regs lo (halfOf v false)) (lo + 4) (halfOf v true) } s
  | .pwr => if lo ≠ 0x18 then s else haltWrite (BitVec.ofNat 36 v) s
  | .dma =>
    if lo = 0x10 then
      dmaWrite 0x10 (halfOf v false &&& ~~~ freshBits s .dma 0x10) (dmaWrite 0x14 (halfOf v true &&& ~~~ freshBits s .dma 0x14) s)
    else if h : 0x1000 ≤ lo ∧ (lo - 0x1000) / 64 < 64 then
      let c := s.dma.chan.get ⟨(lo - 0x1000) / 64, h.2⟩
      if (lo - 0x1000) % 64 ≠ 8 then s
      else if c.state ≠ .idle ∧ c.state ≠ .stopped then dmaCfgErr s
      else { s with dma := { s.dma with
        regs := regWrite dmaRows (regWrite dmaRows s.dma.regs false (lo + 4) (halfOf v true)) false lo (halfOf v false) } }
    else s
  | .hqm => rbaseWrite v s
  | .spe => if lo ≠ 0x1C then s else if speOn s then speEvent 8 s else { s with spe := { s.spe with next := v } }
  | _ => s

/-- The address of a register. -/
def stageKey (a off lo : Nat) : Nat := a - off + lo

/-- The high half of a pair of which no high word is staged: as it stands, and no bit cleared of a W1C pair (log entry 101). -/
def highStands (b : Blk) (off : Nat) (s : State) : Word :=
  if b = .dma ∧ off = 0x10 then 0 else blockView 0 false b (off + 4) s

/-- A write of the low word: with the staged high word, or the high half as it stands. -/
def lowWrite (b : Blk) (a off : Nat) (w : Word) (s : State) : State :=
  let k := stageKey a off off
  let hi := keyGet s.sys.staged k (highStands b off s)
  commitPair b off (w.toNat + hi.toNat * 2 ^ 32) { s with sys := { s.sys with staged := keyDel s.sys.staged k } }

/-- A write of the high word is staged. -/
def highWrite (a off lo : Nat) (w : Word) (s : State) : State :=
  { s with sys := { s.sys with staged := keyPut s.sys.staged (stageKey a off lo) w } }

/-! ### Writes (R18, R19, R20) -/

/-- What a source reports occurs: the bit of its event register and the source, or the source alone (R414). -/
def eventOf (k : Nat) (s : State) : State :=
  let s := sourceMark k s
  if 136 ≤ k ∧ k < 152 then hifEvent (k - 136) s
  else if 152 ≤ k ∧ k < 155 then clkEvent (k - 152) s
  else if 155 ≤ k ∧ k < 162 then pwrEvent (k - 155) s
  else if k = 162 then pwrEvent 7 s
  else if k = 173 then stcEvent 0 s
  else if srcReserved k then s
  else if 184 ≤ k ∧ k < 198 then spnEvent (k - 184) s
  else if 198 ≤ k ∧ k < 211 then yckEvent (k - 198) s
  else if h : 211 ≤ k ∧ (k - 211) / 16 < 5 then srvEvent ⟨(k - 211) / 16, h.2⟩ ((k - 211) % 16) s
  else if h : 291 ≤ k ∧ (k - 291) / 41 < 5 then
    (let l : LaneIx := ⟨(k - 291) / 41, h.2⟩
     let o := (k - 291) % 41
     if o < 11 then feEvent l o s else if o < 22 then decEvent l (o - 11) s else if o < 33 then rowEvent l (o - 22) s
     else patEvent l (o - 33) s)
  else if 496 ≤ k ∧ k < 500 then ddpEvent (k - 496) s
  else if 500 ≤ k ∧ k < 509 then speEvent (k - 500) s
  else if 509 ≤ k ∧ k < 517 then dmaEvent (k - 509) s
  else if h : 517 ≤ k ∧ k - 517 < 64 then dmaIrqW raise ⟨k - 517, h.2⟩ s
  else if 581 ≤ k ∧ k < 589 then hqmEvent (k - 581) s
  else if 589 ≤ k ∧ k < 621 then notifyGroup (k - 589) s
  else if 621 ≤ k ∧ k < 625 then capEvent (k - 621) s
  else raise k s

/-- A write to a register of the FLT block (R30 to R35, R414, R419, R434, R435). -/
def fltWrite (q : Requester) (arriving : List SrcIx) (off : Nat) (w : Word) (s : State) : State :=
  let put : State := { s with flt := { s.flt with regs := regWrite fltRows s.flt.regs false off w } }
  if off = 0 then fltCtlWrite w s
  else if off = 0x10 then swRaise q w s
  else if h : 0x100 ≤ off ∧ (off - 0x100) / 4 < 20 then acknowledge ⟨(off - 0x100) / 4, h.2⟩ w (isHook s q) arriving s
  else if off = 0xE08 then inject (fld w 3 0) s
  else if off = 0xE0C then (if s.flt.injOpen then put else s)
  else if off = 0xF00 then laneMapWrite w s
  else if off = 0xF04 then srvMapWrite w s
  else if off = 0xF08 then { s with flt := { s.flt with bindErr := s.flt.bindErr &&& ~~~ w } }
  else if off = 0xF10 then coreMapWrite 0 w s
  else if off = 0xF14 then coreMapWrite 1 w s
  else if off = 0xF18 then coreMapWrite 2 w s
  else if off = 0xF1C then coreCommitWrite w s
  else if 0x1000 ≤ off ∧ off < 0x1A00 then srcCfgWrite ((off - 0x1000) / 4) w s
  else s

/-- A write to a register of the queue manager by requester q (R399 to R402, R406, R412). -/
def hqmWrite (q : Requester) (hook : Bool) (off : Nat) (w : Word) (s : State) : State :=
  let n := reqNum q
  let p := hqmPort s n
  if off = 0x1C then rcfgWrite w s
  else if off = 0x20 then rwmWrite w s
  else if off = 0x24 then rcmdWrite w s
  else if off = 0x100 then setHqmPort n { p with prodRing := fld w 13 0 } s
  else if off = 0x104 then setHqmPort n { p with h := p.h.set 0 w } s
  else if off = 0x108 then setHqmPort n { p with h := p.h.set 1 w } s
  else if off = 0x10C then setHqmPort n { p with h := p.h.set 2 w } s
  else if off = 0x110 then prodOpen q s
  else if off = 0x120 then setHqmPort n { p with d := p.d.set 0 w } s
  else if off = 0x124 then setHqmPort n { p with d := p.d.set 1 w } s
  else if off = 0x128 then setHqmPort n { p with d := p.d.set 2 w } s
  else if off = 0x12C then prodSlot q w s
  else if off = 0x130 then prodClose q w s
  else if off = 0x200 then setHqmPort n { p with consRing := fld w 13 0 } s
  else if off = 0x230 then consSkip q s
  else if 0x100 ≤ off then s
  else
    let w := if hook ∧ off = 0x30 then w &&& 0xF0000000#32 else w
    { s with hqm := { s.hqm with regs := regWrite hqmRows s.hqm.regs false off w } }

/-- A write to a register, by block; a W1C bit clears only what was present when it was read (R20); `arriving` are sources that occur in
the same cycle. -/
def blockWrite (q : Requester) (arriving : List SrcIx) (b : Blk) (off : Nat) (w : Word) (s : State) : State :=
  let hook := isHook s q
  let w := w &&& ~~~ freshBits s b off
  match b with
  | .flt => fltWrite q arriving off w s
  | .stc =>
    (match q with
     | .core c =>
       if off = 0x100 then stcRewind c (fld w 7 0) s
       else if off = 0x108 then stcRewind c s.stc.core[c].group s
       else stcWrite off w s
     | _ => if off = 0x100 ∨ off = 0x108 then s else stcWrite off w s)
  | .dma => dmaWrite off (if hook ∧ off = 0x14 then w &&& 0xFFFF0000#32 else w) s
  | .hqm => hqmWrite q hook off w s
  | .pwr => pwrWrite off w s
  | .clk => clkWrite off w s
  | .lane l => laneWrite l hook off w s
  | .srv e =>
    if off = 0x90 then (if e = 0 then { s with sns := { s.sns with regs := regWrite snsRows s.sns.regs false off w } } else s)
    else srvWrite e off w s
  | .spn => spnWrite off w s
  | .yck => yckWrite off w s
  | .spe => speWrite off w s
  | .hif => hifWrite off w s
  | .cap => capWrite off w s

/-- The events of the cycle of a write: those of FLT_PENDk are counted by the write itself (R20, R419). -/
def arrivals (b : Blk) (off : Nat) (arriving : List SrcIx) (s : State) : State :=
  if b = .flt ∧ 0x100 ≤ off ∧ off < 0x150 then s else (rising (arriving.map Fin.val)).foldl (fun t k => eventOf k t) s

/-- A register write that nothing stops: a high word is staged, a low word commits its pair, any other takes effect; so does a hook core's write
of DMA_IRQ_HI, whose low word lies outside its partition (R411; log entry 101). -/
def registerStore (q : Requester) (arriving : List SrcIx) (b : Blk) (a off : Nat) (w : Word) (s : State) : State :=
  arrivals b off arriving (match pairOf b off with
    | some lo =>
      if off = lo then lowWrite b a off w s
      else if b = .dma ∧ lo = 0x10 ∧ isHook s q then blockWrite q arriving b off w s
      else highWrite a off lo w s
    | none => blockWrite q arriving b off w s)

/-- A store of one word to any address. -/
def storeWord (q : Requester) (arriving : List SrcIx) (a : Nat) (w : Word) (s : State) : State :=
  let x : Access := { who := q, addr := a, bytes := 4, write := some w }
  match accessFault s x with
  | some .hook => accessRefused 169 x s
  | some _ => accessRefused 168 x s
  | none =>
    match regionAt a with
    | .reg b off => registerStore q arriving b a off w s
    | _ => writeLE s a 4 w.toNat

/-- REGISTER_WRITE (R19, R20). -/
def execRegisterWrite (q : Requester) (a : Nat) (w : Word) (arriving : List SrcIx) (s : State) : Host.Outcome State Fault Refusal :=
  actWindow s (storeWord q arriving a w)

/-- The offset of an address is the high word, or the low word, of a pair. -/
def isHalf (high : Bool) (a : Nat) : Bool :=
  match regionAt a with
  | .reg b off => ((pairOf b off).map fun lo => decide (off = lo) != high).getD false
  | _ => false

/-- REG64_HIGH_WRITE (R17). -/
def execReg64HighWrite (q : Requester) (a : Nat) (w : Word) (s : State) : Host.Outcome State Fault Refusal :=
  act s fun s => if isHalf true a then storeWord q [] a w s else s

/-- REG64_LOW_WRITE (R17). -/
def execReg64LowWrite (q : Requester) (a : Nat) (w : Word) (s : State) : Host.Outcome State Fault Refusal :=
  act s fun s => if isHalf false a then storeWord q [] a w s else s

/-! ### Reads (R17 to R19; log entry 102) -/

/-- A register's value, free values in the bits the model does not hold. -/
def readValue (q : Requester) (b : Blk) (off : Nat) (s : State) : Word × State :=
  let w := blockView (reqNum q) (isHook s q) b off s
  let s := seenBits b off s
  if openBits s b off = 0 then (w, s)
  else
    let (v, t) := freeNext s
    ((w &&& ~~~ openBits s b off) ||| (openValue s b off v &&& openBits s b off), t)

/-- The value read is returned; reading the low word of a pair latches the high word, and the next read of the high word takes the
latch. -/
def readPair (q : Requester) (b : Blk) (a off : Nat) (s : State) : State :=
  match pairOf b off with
  | none => let (w, s) := readValue q b off s; setRdata w s
  | some lo =>
    let k := stageKey a off lo
    if off = lo then
      let (w, s) := readValue q b off s
      let (hi, s) := readValue q b (off + 4) s
      setRdata w { s with sys := { s.sys with latched := keyPut s.sys.latched k hi } }
    else if s.sys.latched.any fun x => decide (x.1 = k) then
      setRdata (keyGet s.sys.latched k 0) { s with sys := { s.sys with latched := keyDel s.sys.latched k } }
    else let (w, s) := readValue q b off s; setRdata w s

/-- A read of a register: what reading it does besides. -/
def readRegister (q : Requester) (b : Blk) (a off : Nat) (s : State) : State :=
  match b with
  | .hqm =>
    if off = 0x210 then consHeader q s
    else if off = 0x21C then consHeaderEnd q (readPair q b a off s)
    else if off = 0x22C then consSlot q s
    else if 0x220 ≤ off ∧ off < 0x22C then consPast q (readPair q b a off s)
    else readPair q b a off s
  | .stc =>
    (match q with
     | .core c => if off = 0x17C then stcAdvance c (readPair q b a off s) else readPair q b a off s
     | _ => readPair q b a off s)
  | _ => readPair q b a off s

/-- A read of one word at any address. -/
def loadWord (q : Requester) (a : Nat) (s : State) : State :=
  let x : Access := { who := q, addr := a, bytes := 4, write := none }
  match accessFault s x with
  | some .hook => accessRefused 169 x s
  | some _ => accessRefused 168 x s
  | none =>
    match regionAt a with
    | .reg b off => readRegister q b a off s
    | _ => setRdata (BitVec.ofNat 32 (readLE s a 4)) s

/-- REG64_LOW_READ (R17). -/
def execReg64LowRead (q : Requester) (a : Nat) (s : State) : Host.Outcome State Fault Refusal := act s (loadWord q a)

/-! ### DMA bursts that write registers (R386, R389) -/

/-- A burst's word from a register, which leaves no core's read data. -/
def dmaRegRead (a : Nat) (s : State) : Word × State :=
  let t := loadWord (.engine 17) a s
  (t.sys.rdata, setRdata s.sys.rdata t)

/-- How a burst reaches a register block (R16). -/
def dmaBus : RegBus := { put := fun a w s => storeWord (.engine 17) [] a w s, get := dmaRegRead, bad := raise 168 }

/-- DMA_DESCRIPTOR_COMPLETE (R389): `host` is what a host source gives. -/
def execDmaDescriptorComplete (n : ChanIx) (host : List Byte) (s : State) : Host.Outcome State Fault Refusal :=
  act s (descComplete dmaBus n host)

/-- DMA_REQUEST (R388): a request on a line, 0 to 13. -/
def execDmaRequest (line : Nat) (host : List Byte) (s : State) : Host.Outcome State Fault Refusal :=
  act s (dmaRequest dmaBus line host)

end Sys2Proof.Machine
end

