-- ==== Sys2Proof/Machine/Dispatch.lean ====
section
/-!
DEFINITION. The command dispatcher: one arm per constructor of Instr, each a direct call of that command's meaning.
-/
namespace Sys2Proof.Machine
open Sys2Proof

def exec (i : Instr) (s : State) : Host.Outcome State Fault Refusal :=
  match i with
  | .registerWrite q a w arriving => Sys2Proof.Machine.execRegisterWrite q a w arriving s
  | .misalignedAccess x => Sys2Proof.Machine.execMisalignedAccess x s
  | .unmappedAccess x => Sys2Proof.Machine.execUnmappedAccess x s
  | .gatedBlockAccess x => Sys2Proof.Machine.execGatedBlockAccess x s
  | .hookViolation x => Sys2Proof.Machine.execHookViolation x s
  | .reg64LowRead q a => Sys2Proof.Machine.execReg64LowRead q a s
  | .reg64HighWrite q a w => Sys2Proof.Machine.execReg64HighWrite q a w s
  | .reg64LowWrite q a w => Sys2Proof.Machine.execReg64LowWrite q a w s
  | .powerOnReset release straps => Sys2Proof.Machine.execPowerOnReset release straps s
  | .resetNQualified => Sys2Proof.Machine.execResetNQualified s
  | .resetNRise straps => Sys2Proof.Machine.execResetNRise straps s
  | .railOutOfWindow r below above => Sys2Proof.Machine.execRailOutOfWindow r below above s
  | .railBrownout => Sys2Proof.Machine.execRailBrownout s
  | .railResetLevel r => Sys2Proof.Machine.execRailResetLevel r s
  | .pwrfailQualified => Sys2Proof.Machine.execPwrfailQualified s
  | .refugeWrite l => Sys2Proof.Machine.execRefugeWrite l s
  | .refugeDone flashOk => Sys2Proof.Machine.execRefugeDone flashOk s
  | .powerlossRecoveryReset => Sys2Proof.Machine.execPowerlossRecoveryReset s
  | .permitInFilteredHigh => Sys2Proof.Machine.execPermitInFilteredHigh s
  | .permitInFall => Sys2Proof.Machine.execPermitInFall s
  | .permitDelayExpiry => Sys2Proof.Machine.execPermitDelayExpiry s
  | .errOutMinExpiry => Sys2Proof.Machine.execErrOutMinExpiry s
  | .shockPinAssert n level => Sys2Proof.Machine.execShockPinAssert n level s
  | .paFaultAssert a level => Sys2Proof.Machine.execPaFaultAssert a level s
  | .perstAssert c => Sys2Proof.Machine.execPerstAssert c s
  | .perstDeassert c => Sys2Proof.Machine.execPerstDeassert c s
  | .linkDown c => Sys2Proof.Machine.execLinkDown c s
  | .functionReset c => Sys2Proof.Machine.execFunctionReset c s
  | .l12Entry c => Sys2Proof.Machine.execL12Entry c s
  | .l12Exit c => Sys2Proof.Machine.execL12Exit c s
  | .crystalLost => Sys2Proof.Machine.execCrystalLost s
  | .crystalRestored ppm => Sys2Proof.Machine.execCrystalRestored ppm s
  | .clkRefSelect w => Sys2Proof.Machine.execClkRefSelect w s
  | .clkClusterFreq c w => Sys2Proof.Machine.execClkClusterFreq c w s
  | .post f => Sys2Proof.Machine.execPost f s
  | .safeCommitReset => Sys2Proof.Machine.execSafeCommitReset s
  | .spinupStart => Sys2Proof.Machine.execSpinupStart s
  | .castonMedia x => Sys2Proof.Machine.execCastonMedia x s
  | .ready => Sys2Proof.Machine.execReady s
  | .bindOff => Sys2Proof.Machine.execBindOff s
  | .shutdownNotify c abrupt => Sys2Proof.Machine.execShutdownNotify c abrupt s
  | .ps4Wake => Sys2Proof.Machine.execPs4Wake s
  | .ps3Wake => Sys2Proof.Machine.execPs3Wake s
  | .spnDecision x => Sys2Proof.Machine.execSpnDecision x s
  | .spnStart w => Sys2Proof.Machine.execSpnStart w s
  | .spnStop w => Sys2Proof.Machine.execSpnStop w s
  | .spnLock w => Sys2Proof.Machine.execSpnLock w s
  | .bemfZeroCrossing x => Sys2Proof.Machine.execBemfZeroCrossing x s
  | .sensingWindowEnd => Sys2Proof.Machine.execSensingWindowEnd s
  | .inductiveDetectDone angle => Sys2Proof.Machine.execInductiveDetectDone angle s
  | .brakeProbe speedQ dir => Sys2Proof.Machine.execBrakeProbe speedQ dir s
  | .brakeTimeout => Sys2Proof.Machine.execBrakeTimeout s
  | .lockedRotor => Sys2Proof.Machine.execLockedRotor s
  | .lockedRotorPauseEnd => Sys2Proof.Machine.execLockedRotorPauseEnd s
  | .resyncTimeout => Sys2Proof.Machine.execResyncTimeout s
  | .restartCoastEnd => Sys2Proof.Machine.execRestartCoastEnd s
  | .refugeDelayExpiry => Sys2Proof.Machine.execRefugeDelayExpiry s
  | .reseedDone agree => Sys2Proof.Machine.execReseedDone agree s
  | .yckEnable w => Sys2Proof.Machine.execYckEnable w s
  | .yckSelForce w => Sys2Proof.Machine.execYckSelForce w s
  | .yckLock w => Sys2Proof.Machine.execYckLock w s
  | .yarnHeadLost h sign => Sys2Proof.Machine.execYarnHeadLost h sign s
  | .yarnHeadQualified h revs => Sys2Proof.Machine.execYarnHeadQualified h revs s
  | .switchover remainder yofs => Sys2Proof.Machine.execSwitchover remainder yofs s
  | .forcedSwitchover remainder yofs => Sys2Proof.Machine.execForcedSwitchover remainder yofs s
  | .timingGuardFall => Sys2Proof.Machine.execTimingGuardFall s
  | .slewDone => Sys2Proof.Machine.execSlewDone s
  | .yarnReturn => Sys2Proof.Machine.execYarnReturn s
  | .gaugeRowMove l => Sys2Proof.Machine.execGaugeRowMove l s
  | .gaugeUpdateApply wedge => Sys2Proof.Machine.execGaugeUpdateApply wedge s
  | .gaugeHourlyWrite => Sys2Proof.Machine.execGaugeHourlyWrite s
  | .servoSample a x => Sys2Proof.Machine.execServoSample a x s
  | .halfSamplePiezo a => Sys2Proof.Machine.execHalfSamplePiezo a s
  | .samMissRun e => Sys2Proof.Machine.execSamMissRun e s
  | .servoImplausible e => Sys2Proof.Machine.execServoImplausible e s
  | .holdTimeout e => Sys2Proof.Machine.execHoldTimeout e s
  | .onTrack e => Sys2Proof.Machine.execOnTrack e s
  | .srvLoad e w => Sys2Proof.Machine.execSrvLoad e w s
  | .srvSeek e w => Sys2Proof.Machine.execSrvSeek e w s
  | .srvHoldCmd e w => Sys2Proof.Machine.execSrvHoldCmd e w s
  | .srvReleaseHold e w => Sys2Proof.Machine.execSrvReleaseHold e w s
  | .srvUnload e w => Sys2Proof.Machine.execSrvUnload e w s
  | .srvSwapRequest e w => Sys2Proof.Machine.execSrvSwapRequest e w s
  | .srvLock e w => Sys2Proof.Machine.execSrvLock e w s
  | .srvBankWrite e bankB n k w => Sys2Proof.Machine.execSrvBankWrite e bankB n k w s
  | .loadCapture e x => Sys2Proof.Machine.execLoadCapture e x s
  | .loadTimeout e => Sys2Proof.Machine.execLoadTimeout e s
  | .retractDone e => Sys2Proof.Machine.execRetractDone e s
  | .parkCheck e samFound => Sys2Proof.Machine.execParkCheck e samFound s
  | .unloadNFall => Sys2Proof.Machine.execUnloadNFall s
  | .dlFrameReceive a frame => Sys2Proof.Machine.execDlFrameReceive a frame s
  | .dlFault e => Sys2Proof.Machine.execDlFault e s
  | .portHoldExpiry a => Sys2Proof.Machine.execPortHoldExpiry a s
  | .portHoldRetract e w => Sys2Proof.Machine.execPortHoldRetract e w s
  | .sensorRead r0 r1 => Sys2Proof.Machine.execSensorRead r0 r1 s
  | .laneTempRefresh celsius => Sys2Proof.Machine.execLaneTempRefresh celsius s
  | .feReady l => Sys2Proof.Machine.execFeReady l s
  | .readerFail l r => Sys2Proof.Machine.execReaderFail l r s
  | .paCmdQueue l w => Sys2Proof.Machine.execPaCmdQueue l w s
  | .paFrameSend l data => Sys2Proof.Machine.execPaFrameSend l data s
  | .decodeAttemptDone l x => Sys2Proof.Machine.execDecodeAttemptDone l x s
  | .rawVerdict l x => Sys2Proof.Machine.execRawVerdict l x s
  | .deepDecodeRequest l slot output => Sys2Proof.Machine.execDeepDecodeRequest l slot output s
  | .deepWaitTimeout l slot output => Sys2Proof.Machine.execDeepWaitTimeout l slot output s
  | .deepDecodeDone d x => Sys2Proof.Machine.execDeepDecodeDone d x s
  | .retryRevolution l xs => Sys2Proof.Machine.execRetryRevolution l xs s
  | .selvageDecode l x => Sys2Proof.Machine.execSelvageDecode l x s
  | .rowSeq l x => Sys2Proof.Machine.execRowSeq l x s
  | .rowJmp l x => Sys2Proof.Machine.execRowJmp l x s
  | .rowBrt l x => Sys2Proof.Machine.execRowBrt l x s
  | .rowBrf l x => Sys2Proof.Machine.execRowBrf l x s
  | .rowDsp l x => Sys2Proof.Machine.execRowDsp l x s
  | .rowCall l x => Sys2Proof.Machine.execRowCall l x s
  | .rowRet l x => Sys2Proof.Machine.execRowRet l x s
  | .rowWait l x => Sys2Proof.Machine.execRowWait l x s
  | .rowWaitTimeout l => Sys2Proof.Machine.execRowWaitTimeout l s
  | .customerTimeFault l => Sys2Proof.Machine.execCustomerTimeFault l s
  | .rowReloadDone l => Sys2Proof.Machine.execRowReloadDone l s
  | .opcodeIdle l => Sys2Proof.Machine.execOpcodeIdle l s
  | .opcodeOpBegin l => Sys2Proof.Machine.execOpcodeOpBegin l s
  | .opcodeOpEnd l => Sys2Proof.Machine.execOpcodeOpEnd l s
  | .opcodeRdRun l xs => Sys2Proof.Machine.execOpcodeRdRun l xs s
  | .opcodeRrRun l xs => Sys2Proof.Machine.execOpcodeRrRun l xs s
  | .opcodeWrRun l xs => Sys2Proof.Machine.execOpcodeWrRun l xs s
  | .opcodeWrSelv l xs => Sys2Proof.Machine.execOpcodeWrSelv l xs s
  | .opcodeGap l => Sys2Proof.Machine.execOpcodeGap l s
  | .opcodeCustomer l n => Sys2Proof.Machine.execOpcodeCustomer l n s
  | .rowLoadWrite l => Sys2Proof.Machine.execRowLoadWrite l s
  | .rowLoadReadback l => Sys2Proof.Machine.execRowLoadReadback l s
  | .rowRun l w => Sys2Proof.Machine.execRowRun l w s
  | .rowStop l w => Sys2Proof.Machine.execRowStop l w s
  | .custEnWrite l hook w => Sys2Proof.Machine.execCustEnWrite l hook w s
  | .rowSwapRequest l w => Sys2Proof.Machine.execRowSwapRequest l w s
  | .rowSwap l => Sys2Proof.Machine.execRowSwap l s
  | .patOperation l x => Sys2Proof.Machine.execPatOperation l x s
  | .patRun l w => Sys2Proof.Machine.execPatRun l w s
  | .patQuiesce l w => Sys2Proof.Machine.execPatQuiesce l w s
  | .darnWrite l => Sys2Proof.Machine.execDarnWrite l s
  | .darnReadback l => Sys2Proof.Machine.execDarnReadback l s
  | .matchWrite l n w => Sys2Proof.Machine.execMatchWrite l n w s
  | .matchApply l => Sys2Proof.Machine.execMatchApply l s
  | .jrnlAppend w => Sys2Proof.Machine.execJrnlAppend w s
  | .jrnlGroupIssue => Sys2Proof.Machine.execJrnlGroupIssue s
  | .jrnlAck w => Sys2Proof.Machine.execJrnlAck w s
  | .replicaReplace k => Sys2Proof.Machine.execReplicaReplace k s
  | .replicaFillDone => Sys2Proof.Machine.execReplicaFillDone s
  | .checkpoint done => Sys2Proof.Machine.execCheckpoint done s
  | .bitClearDelay r => Sys2Proof.Machine.execBitClearDelay r s
  | .rowVerified n r => Sys2Proof.Machine.execRowVerified n r s
  | .rowIdleTimeout n r => Sys2Proof.Machine.execRowIdleTimeout n r s
  | .rmwEntriesDurable n r u => Sys2Proof.Machine.execRmwEntriesDurable n r u s
  | .rmwVerified n r u => Sys2Proof.Machine.execRmwVerified n r u s
  | .skipWalkUnit n r p => Sys2Proof.Machine.execSkipWalkUnit n r p s
  | .reconstructRead n o extra qMismatch piBad verified => Sys2Proof.Machine.execReconstructRead n o extra qMismatch piBad verified s
  | .speJob piFail ecc => Sys2Proof.Machine.execSpeJob piFail ecc s
  | .speEnable w => Sys2Proof.Machine.execSpeEnable w s
  | .speHalt w => Sys2Proof.Machine.execSpeHalt w s
  | .speLock w => Sys2Proof.Machine.execSpeLock w s
  | .speCalWrite w => Sys2Proof.Machine.execSpeCalWrite w s
  | .suspectTrigger m c => Sys2Proof.Machine.execSuspectTrigger m c s
  | .suspectExpiry m => Sys2Proof.Machine.execSuspectExpiry m s
  | .fenceTrigger m c => Sys2Proof.Machine.execFenceTrigger m c s
  | .actuatorUnavailable a c => Sys2Proof.Machine.execActuatorUnavailable a c s
  | .actuatorReload a => Sys2Proof.Machine.execActuatorReload a s
  | .actuatorRetryTimer a => Sys2Proof.Machine.execActuatorRetryTimer a s
  | .rebuildRow n r fails => Sys2Proof.Machine.execRebuildRow n r fails s
  | .rebuildZoneDone n => Sys2Proof.Machine.execRebuildZoneDone n s
  | .fencedProbe m ok => Sys2Proof.Machine.execFencedProbe m ok s
  | .requalSwatchDone m pass => Sys2Proof.Machine.execRequalSwatchDone m pass s
  | .requalVerifyDone m written failed wedges extra => Sys2Proof.Machine.execRequalVerifyDone m written failed wedges extra s
  | .migrateZone n m => Sys2Proof.Machine.execMigrateZone n m s
  | .reshapeZone f => Sys2Proof.Machine.execReshapeZone f s
  | .formatConversion n f => Sys2Proof.Machine.execFormatConversion n f s
  | .scrubRow n r f => Sys2Proof.Machine.execScrubRow n r f s
  | .commandFetch c k => Sys2Proof.Machine.execCommandFetch c k s
  | .rangeLockRelease n => Sys2Proof.Machine.execRangeLockRelease n s
  | .completionPost => Sys2Proof.Machine.execCompletionPost s
  | .holdLimitExpiry n => Sys2Proof.Machine.execHoldLimitExpiry n s
  | .ccEnSet c iosqes iocqes => Sys2Proof.Machine.execCcEnSet c iosqes iocqes s
  | .ccEnClear c => Sys2Proof.Machine.execCcEnClear c s
  | .rejoinWindowExpiry c => Sys2Proof.Machine.execRejoinWindowExpiry c s
  | .attachRequest c w => Sys2Proof.Machine.execAttachRequest c w s
  | .partnerDepart c => Sys2Proof.Machine.execPartnerDepart c s
  | .roleChange c => Sys2Proof.Machine.execRoleChange c s
  | .nssr c w => Sys2Proof.Machine.execNssr c w s
  | .identify c cns csi ns cntid => Sys2Proof.Machine.execIdentify c cns csi ns cntid s
  | .getLogPage c lid rae offset bytes => Sys2Proof.Machine.execGetLogPage c lid rae offset bytes s
  | .setFeatures c fid save v data => Sys2Proof.Machine.execSetFeatures c fid save v data s
  | .getFeatures c fid sel v => Sys2Proof.Machine.execGetFeatures c fid sel v s
  | .powerManagement c v => Sys2Proof.Machine.execPowerManagement c v s
  | .layoutDefaults c save v => Sys2Proof.Machine.execLayoutDefaults c save v s
  | .scrubSchedule c save v => Sys2Proof.Machine.execScrubSchedule c save v s
  | .spinUpPermitPolicy c save v => Sys2Proof.Machine.execSpinUpPermitPolicy c save v s
  | .protectedWriteWindow c save v => Sys2Proof.Machine.execProtectedWriteWindow c save v s
  | .createIoSq c q size cq => Sys2Proof.Machine.execCreateIoSq c q size cq s
  | .deleteIoSq c q => Sys2Proof.Machine.execDeleteIoSq c q s
  | .createIoCq c q size iv => Sys2Proof.Machine.execCreateIoCq c q size iv s
  | .deleteIoCq c q => Sys2Proof.Machine.execDeleteIoCq c q s
  | .abort c target => Sys2Proof.Machine.execAbort c target s
  | .asynchronousEventRequest c => Sys2Proof.Machine.execAsynchronousEventRequest c s
  | .namespaceManagement c x ns => Sys2Proof.Machine.execNamespaceManagement c x ns s
  | .namespaceAttachment c ns attach to_ => Sys2Proof.Machine.execNamespaceAttachment c ns attach to_ s
  | .firmwareImageDownload c offset len => Sys2Proof.Machine.execFirmwareImageDownload c offset len s
  | .fwCommitStore c slot x => Sys2Proof.Machine.execFwCommitStore c slot x s
  | .fwCommitActivateAtReset c slot x => Sys2Proof.Machine.execFwCommitActivateAtReset c slot x s
  | .fwCommitSlotAtReset c slot => Sys2Proof.Machine.execFwCommitSlotAtReset c slot s
  | .fwCommitActivateNow c slot x => Sys2Proof.Machine.execFwCommitActivateNow c slot x s
  | .activationHoldStart => Sys2Proof.Machine.execActivationHoldStart s
  | .activationQuietTimeout => Sys2Proof.Machine.execActivationQuietTimeout s
  | .activationSwitch late => Sys2Proof.Machine.execActivationSwitch late s
  | .selftestShort c => Sys2Proof.Machine.execSelftestShort c s
  | .selftestExtended c => Sys2Proof.Machine.execSelftestExtended c s
  | .selftestAbort c => Sys2Proof.Machine.execSelftestAbort c s
  | .slice x => Sys2Proof.Machine.execSlice x s
  | .formatNvm c ns lbaf pi ses => Sys2Proof.Machine.execFormatNvm c ns lbaf pi ses s
  | .securitySend c m => Sys2Proof.Machine.execSecuritySend c m s
  | .securityReceive c discovery => Sys2Proof.Machine.execSecurityReceive c discovery s
  | .sanitizeCryptoErase c => Sys2Proof.Machine.execSanitizeCryptoErase c s
  | .sanitizeBlockErase c => Sys2Proof.Machine.execSanitizeBlockErase c s
  | .nvmeMiSend c k => Sys2Proof.Machine.execNvmeMiSend c k s
  | .nvmeMiReceive c k => Sys2Proof.Machine.execNvmeMiReceive c k s
  | .declareDead c m force gen => Sys2Proof.Machine.execDeclareDead c m force gen s
  | .requalify c m gen => Sys2Proof.Machine.execRequalify c m gen s
  | .readmitAsSpare c m gen => Sys2Proof.Machine.execReadmitAsSpare c m gen s
  | .setScrubPeriod c m gen days => Sys2Proof.Machine.execSetScrubPeriod c m gen days s
  | .surfaceQuery c m => Sys2Proof.Machine.execSurfaceQuery c m s
  | .reshapeStart c ns first last w cc => Sys2Proof.Machine.execReshapeStart c ns first last w cc s
  | .recorderRead c group rewind => Sys2Proof.Machine.execRecorderRead c group rewind s
  | .recorderClear c group => Sys2Proof.Machine.execRecorderClear c group s
  | .calibrationRequest c m zone all kinds => Sys2Proof.Machine.execCalibrationRequest c m zone all kinds s
  | .flush c ns => Sys2Proof.Machine.execFlush c ns s
  | .write c io => Sys2Proof.Machine.execWrite c io s
  | .read c io => Sys2Proof.Machine.execRead c io s
  | .compare c io => Sys2Proof.Machine.execCompare c io s
  | .writeZeroes c io => Sys2Proof.Machine.execWriteZeroes c io s
  | .verify c io => Sys2Proof.Machine.execVerify c io s
  | .zoneAppend c io => Sys2Proof.Machine.execZoneAppend c io s
  | .zoneManagementReceive c ns slba => Sys2Proof.Machine.execZoneManagementReceive c ns slba s
  | .zoneOpen c io => Sys2Proof.Machine.execZoneOpen c io s
  | .zoneClose c io => Sys2Proof.Machine.execZoneClose c io s
  | .zoneFinish c io => Sys2Proof.Machine.execZoneFinish c io s
  | .zoneReset c io => Sys2Proof.Machine.execZoneReset c io s
  | .fixityDigest c io => Sys2Proof.Machine.execFixityDigest c io s
  | .salvageRead c io => Sys2Proof.Machine.execSalvageRead c io s
  | .miReadDataStructure kind => Sys2Proof.Machine.execMiReadDataStructure kind s
  | .miSubsystemHealthPoll => Sys2Proof.Machine.execMiSubsystemHealthPoll s
  | .miControllerHealthPoll cntid => Sys2Proof.Machine.execMiControllerHealthPoll cntid s
  | .miConfigurationSet id v => Sys2Proof.Machine.execMiConfigurationSet id v s
  | .miConfigurationGet id => Sys2Proof.Machine.execMiConfigurationGet id s
  | .miVpdRead offset len => Sys2Proof.Machine.execMiVpdRead offset len s
  | .miVpdWrite offset bs => Sys2Proof.Machine.execMiVpdWrite offset bs s
  | .miReset => Sys2Proof.Machine.execMiReset s
  | .miPause => Sys2Proof.Machine.execMiPause s
  | .miResume => Sys2Proof.Machine.execMiResume s
  | .miAbort => Sys2Proof.Machine.execMiAbort s
  | .miGetState => Sys2Proof.Machine.execMiGetState s
  | .miReplay => Sys2Proof.Machine.execMiReplay s
  | .miTunnelledAdmin k => Sys2Proof.Machine.execMiTunnelledAdmin k s
  | .hifFetchHold w => Sys2Proof.Machine.execHifFetchHold w s
  | .hifRingConfig r w => Sys2Proof.Machine.execHifRingConfig r w s
  | .feInstanceFail k => Sys2Proof.Machine.execFeInstanceFail k s
  | .linkWidthReduce c => Sys2Proof.Machine.execLinkWidthReduce c s
  | .dmaStart n => Sys2Proof.Machine.execDmaStart n s
  | .dmaAbort n => Sys2Proof.Machine.execDmaAbort n s
  | .dmaResume n => Sys2Proof.Machine.execDmaResume n s
  | .dmaExtend n => Sys2Proof.Machine.execDmaExtend n s
  | .dmaDisable => Sys2Proof.Machine.execDmaDisable s
  | .dmaDescriptorComplete n host => Sys2Proof.Machine.execDmaDescriptorComplete n host s
  | .dmaBurstError n cause => Sys2Proof.Machine.execDmaBurstError n cause s
  | .dmaRequest line host => Sys2Proof.Machine.execDmaRequest line host s
  | .dmaEventTrigger e => Sys2Proof.Machine.execDmaEventTrigger e s
  | .dmaTimerExpiry t => Sys2Proof.Machine.execDmaTimerExpiry t s
  | .pwrDomRequest w => Sys2Proof.Machine.execPwrDomRequest w s
  | .dmaQuiesceDone => Sys2Proof.Machine.execDmaQuiesceDone s
  | .dmaQuiesceTimeout stopped => Sys2Proof.Machine.execDmaQuiesceTimeout stopped s
  | .pwrHaltReq m => Sys2Proof.Machine.execPwrHaltReq m s
  | .pwrLaneLimit w => Sys2Proof.Machine.execPwrLaneLimit w s
  | .thermalLimit t => Sys2Proof.Machine.execThermalLimit t s
  | .laneGateSwap needs boundary => Sys2Proof.Machine.execLaneGateSwap needs boundary s
  | .apstIdleExpiry resync => Sys2Proof.Machine.execApstIdleExpiry resync s
  | .hqmRingEnable w => Sys2Proof.Machine.execHqmRingEnable w s
  | .hqmRingDisable w => Sys2Proof.Machine.execHqmRingDisable w s
  | .flushPkt w => Sys2Proof.Machine.execFlushPkt w s
  | .flushNow w => Sys2Proof.Machine.execFlushNow w s
  | .hqmProdOpen q => Sys2Proof.Machine.execHqmProdOpen q s
  | .hqmProdSlot q d3 => Sys2Proof.Machine.execHqmProdSlot q d3 s
  | .hqmProdClose q w => Sys2Proof.Machine.execHqmProdClose q w s
  | .hqmConsHeader q => Sys2Proof.Machine.execHqmConsHeader q s
  | .hqmConsSlot q => Sys2Proof.Machine.execHqmConsSlot q s
  | .hqmConsSkip q => Sys2Proof.Machine.execHqmConsSkip q s
  | .hqmStallTimeout c => Sys2Proof.Machine.execHqmStallTimeout c s
  | .capFrameIn f => Sys2Proof.Machine.execCapFrameIn f s
  | .capRecordOut x => Sys2Proof.Machine.execCapRecordOut x s
  | .capEnable w => Sys2Proof.Machine.execCapEnable w s
  | .faultSourceOccurrence k => Sys2Proof.Machine.execFaultSourceOccurrence k s
  | .faultAcknowledge k w hook arriving => Sys2Proof.Machine.execFaultAcknowledge k w hook arriving s
  | .fltSwraise r w => Sys2Proof.Machine.execFltSwraise r w s
  | .fltDefaultCore w => Sys2Proof.Machine.execFltDefaultCore w s
  | .warmReset x => Sys2Proof.Machine.execWarmReset x s
  | .coreWatchdog c => Sys2Proof.Machine.execCoreWatchdog c s
  | .coreFail c => Sys2Proof.Machine.execCoreFail c s
  | .clusterFail cluster => Sys2Proof.Machine.execClusterFail cluster s
  | .laneFail l c => Sys2Proof.Machine.execLaneFail l c s
  | .laneLoopback l pass => Sys2Proof.Machine.execLaneLoopback l pass s
  | .laneMapWrite w => Sys2Proof.Machine.execLaneMapWrite w s
  | .muxSwitch a => Sys2Proof.Machine.execMuxSwitch a s
  | .srvMapWrite w => Sys2Proof.Machine.execSrvMapWrite w s
  | .coreMapWrite cluster w => Sys2Proof.Machine.execCoreMapWrite cluster w s
  | .coreCommit w => Sys2Proof.Machine.execCoreCommit w s
  | .coreDiscard w => Sys2Proof.Machine.execCoreDiscard w s
  | .injectionUnlock valid => Sys2Proof.Machine.execInjectionUnlock valid s
  | .injRaiseSource => Sys2Proof.Machine.execInjRaiseSource s
  | .injSingleBitError => Sys2Proof.Machine.execInjSingleBitError s
  | .injDoubleBitError => Sys2Proof.Machine.execInjDoubleBitError s
  | .injRowParity => Sys2Proof.Machine.execInjRowParity s
  | .injServoResidue => Sys2Proof.Machine.execInjServoResidue s
  | .injLockstep => Sys2Proof.Machine.execInjLockstep s
  | .injDlDrop => Sys2Proof.Machine.execInjDlDrop s
  | .injRldBurst => Sys2Proof.Machine.execInjRldBurst s
  | .sramPatrol es => Sys2Proof.Machine.execSramPatrol es s
  | .sramUncorrectable x => Sys2Proof.Machine.execSramUncorrectable x s
  | .rldChannelFail chan => Sys2Proof.Machine.execRldChannelFail chan s
  | .stcEntry g inst v own => Sys2Proof.Machine.execStcEntry g inst v own s
  | .stcSecondTick junction thermistor => Sys2Proof.Machine.execStcSecondTick junction thermistor s
  | .stcMsTick => Sys2Proof.Machine.execStcMsTick s
  | .stcClear g => Sys2Proof.Machine.execStcClear g s
  | .stcCondAdd => Sys2Proof.Machine.execStcCondAdd s
  | .stcPersist => Sys2Proof.Machine.execStcPersist s
  | .stcPersistDone ok flashStatus => Sys2Proof.Machine.execStcPersistDone ok flashStatus s
  | .stcLock w => Sys2Proof.Machine.execStcLock w s
  | .stcReadSelect c g => Sys2Proof.Machine.execStcReadSelect c g s
  | .stcWindowAdvance c => Sys2Proof.Machine.execStcWindowAdvance c s
  | .yarnPllLock h yofs => Sys2Proof.Machine.execYarnPllLock h yofs s
  | .linkUp c width rate => Sys2Proof.Machine.execLinkUp c width rate s
  | .l12HostExit c => Sys2Proof.Machine.execL12HostExit c s
  | .basicManagementCommand dest => Sys2Proof.Machine.execBasicManagementCommand dest s
  | .i3cDynamicAddressAssign setdasa address => Sys2Proof.Machine.execI3cDynamicAddressAssign setdasa address s
  | .calibrationAbandon => Sys2Proof.Machine.execCalibrationAbandon s

end Sys2Proof.Machine
end

