-- ==== Sys2Proof/Machine/Step.lean ====
section
/-!
DEFINITION. One step: the command at the front of the queue runs on the state with the queue's rest; an empty queue idles (log entries 4
and 45).
-/
namespace Sys2Proof.Machine
open Sys2Proof

/-- The block with nothing commanded: the capture port sends the frame at its head, which no row of the table commands (log entry 45). -/
def idle (s : State) : State := capSend s

def step (s : State) : Host.Outcome State Fault Refusal :=
  match s.pending with
  | [] => .next (idle s)
  | c :: t => exec c { s with pending := t }

/-- The state with the command that a word spells put at the front of its queue; a word spells none (log entry 118). -/
def State.withFetchWord (s : State) (nbits w : Nat) : State :=
  match decodeTableWord nbits w with
  | some c => { s with pending := c :: s.pending }
  | none => s

end Sys2Proof.Machine
end

