-- ==== Sys2Proof/Machine/Board.lean ====
section
/-!
DEFINITION. The package and its electrical limits (chapters "Balls and Signals" and "Electrical Characteristics", R1, R12, R43 to R45, R56, R58,
R488 to R503): the ball field, the rails with the thresholds of their monitors, draw by condition, interface levels and times.
-/
namespace Sys2Proof.Machine
open Sys2Proof

/-! ### The ball field (R12, R43, R44, R45) -/

/-- The names of the 30 ball rows, in order from the A1 corner (R12). -/
def ballRows : List String :=
  ["A", "B", "C", "D", "E", "F", "G", "H", "J", "K", "L", "M", "N", "P", "T"] ++
  ["U", "V", "W", "Y", "AA", "AB", "AC", "AD", "AE", "AF", "AG", "AH", "AJ", "AK", "AL"]

/-- A ball by its row and its column, both counted from 0 at A1 (R12). -/
structure Ball where
  row : Fin 30
  col : Fin 30
  deriving DecidableEq, Repr

/-- The name of a ball (R12). -/
def ballName (b : Ball) : String := ballRows.getD b.row.val "" ++ toString (b.col.val + 1)

/-- The regions of the ball field (R43). -/
inductive BallRegion where
  | top
  | bottom
  | left
  | right
  | captureStrip
  | motorStrip
  | centre
  deriving DecidableEq, Repr

/-- The region of a ball (R43): every ball lies in exactly one. -/
def ballRegion (b : Ball) : BallRegion :=
  if b.row.val < 4 then .top
  else if 26 ≤ b.row.val then .bottom
  else if b.col.val < 6 then .left
  else if 24 ≤ b.col.val then .right
  else if b.row.val < 6 then .captureStrip
  else if 24 ≤ b.row.val then .motorStrip
  else .centre

/-- What a region holds (R43): its signal balls, and its balls of each rail in the order of sources 155 to 161, then VSS. -/
def regionBalls : BallRegion → Nat × List Nat
  | .top => (80, [0, 0, 0, 0, 24, 0, 0, 16])
  | .bottom => (80, [0, 0, 0, 0, 24, 0, 0, 16])
  | .left => (77, [0, 0, 0, 20, 0, 8, 0, 27])
  | .right => (67, [0, 0, 16, 0, 0, 8, 6, 35])
  | .captureStrip => (20, [0, 0, 0, 0, 0, 6, 0, 10])
  | .motorStrip => (30, [0, 0, 0, 0, 0, 2, 2, 2])
  | .centre => (0, [120, 40, 0, 20, 0, 0, 0, 144])

/-- The fixed system balls (R44): signal, row letter, column. -/
def fixedBalls : List (String × String × Nat) :=
  [("XTAL_IN", "E", 30), ("XTAL_OUT", "F", 30), ("RESET_N", "G", 30), ("TESTMODE", "H", 30), ("STRAP_PORTMODE", "J", 30)] ++
  [("STRAP_MGMTBUS", "K", 30), ("STRAP_MGMTADDR0", "L", 30), ("STRAP_MGMTADDR1", "M", 30), ("STRAP_SRIS", "N", 30)] ++
  [("STRAP_SPINAUTO", "P", 30), ("SPIN_PERMIT_IN", "T", 30), ("SPIN_PERMIT_OUT", "U", 30), ("ERR_OUT_N", "V", 30)] ++
  [("PERST0_N", "W", 30), ("PERST1_N", "Y", 30), ("CLKREQ0_N", "AA", 30), ("CLKREQ1_N", "AB", 30), ("UNLOAD_N", "AF", 7), ("PWRFAIL_N", "AG", 7)]

/-! ### Rails (R45, R488 to R491) -/

/-- A rail, in µV and mA: its balls (R45), nominal, least and greatest operating voltage, ripple, typical current in a triple-track read, greatest
current (R489), and the greatest voltage it may ever see (R488). -/
structure Rail where
  balls : Nat
  nominal : Nat
  least : Nat
  most : Nat
  ripple : Nat
  typical : Nat
  peak : Nat
  never : Nat
  deriving DecidableEq, Repr

/-- The rails in the order of sources 155 to 161: VDD_CORE, VDD_SRAM, VDD_PCIE, VDDA_CH, VDDQ_RLD, VDDA_18, VDD_IO33. -/
def rails : Vector Rail 7 :=
  #v[{ balls := 120, nominal := 750000, least := 727500, most := 772500, ripple := 20000, typical := 6000, peak := 9000, never := 900000 },
     { balls := 40, nominal := 800000, least := 776000, most := 824000, ripple := 20000, typical := 900, peak := 1400, never := 950000 },
     { balls := 16, nominal := 850000, least := 824500, most := 875500, ripple := 10000, typical := 500, peak := 800, never := 1000000 },
     { balls := 40, nominal := 1000000, least := 970000, most := 1030000, ripple := 5000, typical := 1100, peak := 1600, never := 1150000 },
     { balls := 48, nominal := 1200000, least := 1164000, most := 1236000, ripple := 30000, typical := 650, peak := 900, never := 1450000 },
     { balls := 24, nominal := 1800000, least := 1746000, most := 1854000, ripple := 10000, typical := 150, peak := 250, never := 2100000 },
     { balls := 8, nominal := 3300000, least := 3135000, most := 3465000, ripple := 50000, typical := 30, peak := 60, never := 3800000 }]

/-- The window of a rail's monitor (R490): the operating range widened by 2 % of nominal on each side. -/
def windowLeast (r : Fin 7) : Nat := rails[r].least - rails[r].nominal / 50
def windowMost (r : Fin 7) : Nat := rails[r].most + rails[r].nominal / 50

/-- The brownout level (R490): nominal less 8 %, and less 10 % for VDD_IO33. -/
def brownoutLevel (r : Fin 7) : Nat := rails[r].nominal * (if r = 6 then 90 else 92) / 100

/-- The reset level (R490): nominal less 12 %, and less 15 % for VDD_IO33. -/
def resetLevel (r : Fin 7) : Nat := rails[r].nominal * (if r = 6 then 85 else 88) / 100

/-- What a rail's monitor makes of a voltage in µV that has stood for the times of R490. -/
inductive RailLevel where
  | inWindow
  | above
  | below
  | brownout
  | reset
  deriving DecidableEq, Repr

def railLevel (r : Fin 7) (v : Nat) : RailLevel :=
  if v < resetLevel r then .reset
  else if v < brownoutLevel r then .brownout
  else if v < windowLeast r then .below
  else if windowMost r < v then .above
  else .inWindow

/-- Filter times of the monitors (R490), in ns: the window's, and those of the brownout and reset levels; and the time within the windows, in µs,
after which the power-on reset releases (R493). -/
def railWindowNs : Nat := 1000
def railLevelNs : Nat := 2000
def porReleaseUs : Nat := 1000

/-- The place of a rail in the power-up order of R491: VDD_IO33, VDDA_18, VDD_CORE with VDD_SRAM, the rest. -/
def railStep (r : Fin 7) : Nat := if r = 6 then 1 else if r = 5 then 2 else if r = 0 ∨ r = 1 then 3 else 4

/-- An order of power-up that keeps R491: the steps never fall. -/
def railOrderOk (rs : List (Fin 7)) : Bool :=
  match rs with
  | a :: b :: t => decide (railStep a ≤ railStep b) && railOrderOk (b :: t)
  | _ => true

/-- The integrator's pull-downs of R492, in Ω at most: on UNLOAD_N, on each gate-drive input of the power stage, on each WGATE. -/
def pullDownsAtMost : List (String × Nat) :=
  [("UNLOAD_N", 10000), ("SPG_UH", 10000), ("SPG_UL", 10000), ("SPG_VH", 10000), ("SPG_VL", 10000), ("SPG_WH", 10000), ("SPG_WL", 10000),
   ("WGATE0", 10000), ("WGATE1", 10000), ("WGATE2", 10000), ("WGATE3", 10000)]

/-- The greatest load of an open-drain ball on its line while its rail is absent (R492), in µA. -/
def absentLoadUa : Nat := 10

/-- The time from the rise of RESET_N to ready that R310 grants, in ms, a permit wait left out: set regions of conventional and sequential zones
to resynchronise, and whether a refuge is applied. -/
def readyWithinMs (conventional sequential : Nat) (refuge : Bool) : Nat :=
  22000 + 40 * (conventional - 64) + sequential + (if refuge then 300 else 0)

/-! ### Clock-domain crossings (R461, R462) -/

/-- The three mechanisms by which a signal passes between two clock domains (R461). -/
inductive CrossingKind where
  | synchroniser
  | grayHandshake
  | queue
  deriving DecidableEq, Repr

/-- The greatest latency of a mechanism, in cycles of the destination (R461). -/
def crossingCycles : CrossingKind → Nat
  | .synchroniser => 3
  | .grayHandshake => 3
  | .queue => 4

/-- The crossings other rules depend on, with their mechanism and their bound in ps, where the rule gives a time (R462). -/
def principalCrossings : List (String × String × CrossingKind × Option Nat) :=
  [("servo", "lane write: inhibit, wr_ok", .synchroniser, some 1500), ("yarn recovery", "lane write: timing guard", .synchroniser, some 1500),
   ("spindle", "lane write: hold line", .synchroniser, some 1500), ("spindle", "servo: hold line", .synchroniser, some 7500),
   ("pad SNS_INT", "lane write: shock", .synchroniser, some 1500), ("pad SNS_INT", "servo: shock", .synchroniser, some 7500),
   ("yarn recovery", "lane read-sample; servo: master phase", .grayHandshake, some 6000),
   ("yarn recovery", "servo: burst timestamps", .queue, some 10000),
   ("lane read-sample", "lane decoder: samples, tentative bits", .queue, some 4000),
   ("lane decoder; servo; spindle", "fabric: bursts, events, register replies", .queue, some 3400),
   ("fabric", "clusters; RLD; front end: both planes", .queue, some 10000),
   ("PCIe port", "NVMe front end: transaction layer packets", .queue, some 5000),
   ("motor ADC", "spindle: shunt and phase samples", .queue, some 20000), ("capture port", "fabric: beats", .queue, some 20000),
   ("every domain", "always-on: FLT sources", .synchroniser, some 120000),
   ("always-on", "every domain: timers, power-on seconds", .grayHandshake, none)]

/-! ### Draw by condition (R495) -/

/-- The conditions of R495. -/
inductive DrawCondition where
  | tripleRead
  | writeVerify
  | fullRebuild
  | allCores
  | ps1
  | ps2
  | ps3
  | ps4Low
  | ps4
  | safeState
  | refugeWrite
  | parkOnLoss
  deriving DecidableEq, Repr

/-- Typical draw, where the table gives one, and greatest draw, in mW (R495). -/
def drawMw : DrawCondition → Option Nat × Nat
  | .tripleRead => (some 7900, 9400)
  | .writeVerify => (some 6100, 7300)
  | .fullRebuild => (some 8200, 9600)
  | .allCores => (none, 11500)
  | .ps1 => (none, 7000)
  | .ps2 => (none, 4500)
  | .ps3 => (some 2400, 2400)
  | .ps4Low => (some 420, 500)
  | .ps4 => (some 550, 650)
  | .safeState => (some 900, 1100)
  | .refugeWrite => (some 6000, 6600)
  | .parkOnLoss => (some 1200, 1600)

/-- The energy that the power combo chip must hold for the power-loss sequence (R495), in µJ: the refuge write's draw for 32 ms, then the park's
up to the 300 ms of R85. -/
def lossEnergy : Nat := (drawMw .refugeWrite).2 * 32 + (drawMw .parkOnLoss).2 * (300 - 32)

/-! ### Interface levels and times (R496 to R501) -/

/-- The groups of balls with CMOS levels (R496). -/
inductive IoGroup where
  | cmos33
  | schmitt33
  | openDrain33
  | cmos18
  deriving DecidableEq, Repr

/-- Input levels in mV: at most this is low, at least this is high (R496). -/
def inputLevels : IoGroup → Nat × Nat
  | .cmos33 | .schmitt33 | .openDrain33 => (800, 2000)
  | .cmos18 => (630, 1170)

/-- Output levels in mV: low at most, high at least where the group drives high (R496). -/
def outputLevels : IoGroup → Option (Nat × Option Nat)
  | .cmos33 => some (400, some 2400)
  | .schmitt33 => none
  | .openDrain33 => some (400, none)
  | .cmos18 => some (450, some 1350)

/-- A level at an input: low, high, or between, where the input takes either (R496). -/
def inputLevel (g : IoGroup) (mv : Nat) : Option Bool :=
  if mv ≤ (inputLevels g).1 then some false else if (inputLevels g).2 ≤ mv then some true else none

/-- Bounds of the Drive Link (R497), in ps: the half period of its clock, its outputs after the falling edge, set-up and hold of the return, and
the most that the combo's delay and the flight may take. -/
structure DriveLinkTimes where
  halfLeast : Nat
  halfMost : Nat
  outLeast : Nat
  outMost : Nat
  setup : Nat
  hold : Nat
  deriving DecidableEq, Repr

def driveLinkTimes : DriveLinkTimes := { halfLeast := 4500, halfMost := 5500, outLeast := 500, outMost := 2000, setup := 1000, hold := 500 }

/-- A board meets the return's budget (R497): the combo's delay and twice the flight time, in ps. -/
def driveLinkMeets (combo flight : Nat) : Bool := decide (combo + 2 * flight ≤ driveLinkTimes.halfLeast - driveLinkTimes.setup)

/-- One frame of the preamplifier's serial port with its gap, in ns, and what an operation start with a list of frames waits (R191, R498). -/
def preampFrameNs : Nat := 360
def preampListNs (frames : Nat) : Nat := preampFrameNs * frames

/-- The capture port's clock in the out direction, in kHz (R410, R499). -/
def captureClock (s : State) : Nat := 200000 / max 1 (fld (regGet capRows s.cap.regs 4) 3 0)

/-- The boot flash's time for an image, in µs (R500): 200 MB/s in 8D-8D-8D, one bit at 25 MHz where the switch failed. -/
def bootReadUs (bytes : Nat) (octal : Bool) : Nat := if octal then bytes / 200 else bytes * 8 / 25

/-- Rates of the management and sensor buses (R501), in kHz. -/
def smbusRates : List Nat := [100, 400]
def i3cRate : Nat := 12500
def sensorRate : Nat := 20000

/-! ### Thermal and package (R1, R488, R502, R503) -/

/-- Junction bounds in °C: over the service life (R1), and never to be exceeded while powered (R488). -/
def junctionLife : Int × Int := (-5, 105)
def junctionNever : Int × Int := (-20, 125)

/-- The junction's steady temperature in m°C at an ambient, a draw in mW and a θJA in 0.1 °C/W (R502). -/
def junctionAt (ambient : Int) (mw theta : Nat) : Int := ambient + (mw * theta / 10 : Nat)

/-- The ball array (R503), in µm: pitch, and the outermost centres from the middle of the body. -/
def ballPitch : Nat := 1000
def ballCentre (k : Fin 30) : Int := 1000 * (k.val : Int) - 14500

/-! ### Reader taps (R56, R58) -/

/-- The selector of L4 (R56): the actuator whose readers it picks; none while it is open. -/
def readerSelector (s : State) : Option Nat := if laneBind s.flt 4 < 4 then some (laneBind s.flt 4) else none

/-- The pads an engine's servo signal comes from (R58): the actuator it is bound to, ahead of the lanes, and the reader it holds. -/
def servoTap (s : State) (e : EngIx) : Option (Nat × Nat) :=
  let v : Srv := s.srv.get e
  if srvBind s.flt e.val < 4 then some (srvBind s.flt e.val, v.reader) else none

end Sys2Proof.Machine
end

