-- ==== Sys2Proof/Machine/Format.lean ====
section
/-!
DEFINITION. The refuge descriptor sectors, as a function of their fields (R319; log entry 80).
-/
namespace Sys2Proof.Machine
open Sys2Proof

/-! ### Refuge descriptor sectors (R319) -/

/-- An entry: the namespace, the LBA and the CRC of the block's user data. -/
structure RefugeEntry where
  ns : Nat
  lba : Nat
  crc : Nat
  deriving DecidableEq, Repr

/-- A descriptor sector (R319): the 4,096 bytes of its fields and at most 254 entries. -/
def refugeSector (epoch share shares shareBlocks setBlocks : Nat) (es : List RefugeEntry) : List Byte :=
  let head := bytesLE 8 epoch ++ bytesLE 2 share ++ bytesLE 2 shares ++ bytesLE 2 es.length ++ bytesLE 2 0 ++ bytesLE 4 shareBlocks ++
    bytesLE 4 setBlocks
  let body := es.flatMap fun e => bytesLE 4 e.ns ++ bytesLE 8 e.lba ++ bytesLE 4 e.crc
  let body := body ++ List.replicate (4064 - body.length) 0
  head ++ bytesLE 4 (crc32c (head ++ body)) ++ bytesLE 4 0 ++ body

end Sys2Proof.Machine
end

