-- ==== Sys2Proof/Machine/Link.lean ====
section
/-!
DEFINITION. What each port's endpoint function and controller report (chapter "Host Link", R326 to R329, R338): fixed properties, the reference
clock that the straps select, and the controller's status.
-/
namespace Sys2Proof.Machine
open Sys2Proof

/-- The controller ID and the SerDes lanes of a port (R326): port 0 has lanes 0 to 3 in x4 mode. -/
def controllerId (c : CtlIx) : Nat := c.val + 1
def portLanes (s : State) (c : CtlIx) : List Nat :=
  if dualPort s then [2 * c.val, 2 * c.val + 1] else if c.val = 0 then [0, 1, 2, 3] else []

/-- How a port's width may turn out (R326). -/
def portWidths (s : State) : List Nat := if dualPort s then [2, 1] else [4, 2, 1]

/-- The kinds of reset of a function (R327). -/
inductive FunctionResetKind where
  | conventional
  | hot
  | functionLevel
  deriving DecidableEq, Repr

/-- The states of device power (R327). -/
inductive DevicePower where
  | d0
  | d3hot
  | d3cold
  deriving DecidableEq, Repr

/-- The low-power states of the link (R327). -/
inductive LinkPower where
  | aspmL1
  | aspmL11
  | aspmL12
  | pciPmL11
  | pciPmL12
  deriving DecidableEq, Repr

/-- The endpoint function of a port (R327). What is not listed among its optional capabilities is absent. -/
structure EndpointFunction where
  classCode : BitVec 24
  deviceId : BitVec 16
  bar0Bytes : Nat
  bar0Is64 : Bool
  bar0Prefetch : Bool
  doorbells : Nat
  doorbellStride : Nat
  maxPayload : Nat
  maxReadRequest : Nat
  tagBits : Nat
  nonPosted : Nat
  msixVectors : Nat
  msiVectors : Nat
  intx : Bool
  aer : Bool
  ecrc : Bool
  ltr : Bool
  resets : List FunctionResetKind
  power : List DevicePower
  linkPower : List LinkPower
  deriving DecidableEq, Repr

/-- The endpoint function (R327). -/
def endpointFunction : EndpointFunction :=
  { classCode := 0x010802#24, deviceId := 0x7248#16, bar0Bytes := 32768, bar0Is64 := true, bar0Prefetch := false, doorbells := 0x1000,
    doorbellStride := 4, maxPayload := 512, maxReadRequest := 4096, tagBits := 10, nonPosted := 256, msixVectors := 1025, msiVectors := 1,
    intx := true, aer := true, ecrc := true, ltr := true, resets := [.conventional, .hot, .functionLevel], power := [.d0, .d3hot, .d3cold],
    linkPower := [.aspmL1, .aspmL11, .aspmL12, .pciPmL11, .pciPmL12] }

/-- The byte of BAR0 at which a queue's doorbell stands (R327): submission queue q, then completion queue q. -/
def doorbellAt (q : Nat) (completion : Bool) : Nat :=
  endpointFunction.doorbells + endpointFunction.doorbellStride * (2 * q + if completion then 1 else 0)

/-- Where the ports' reference clock comes from (R328). -/
inductive RefClock where
  /-- the port's own PCIE_REFCLK pair: common clock or SRNS -/
  | pair
  /-- REFXTAL, SRIS: the PCIE_REFCLK pairs are ignored -/
  | xtal
  deriving DecidableEq, Repr

/-- The reference clock (R328): bit 5 of the latched straps is sris (R50). -/
def refClock (s : State) : RefClock := if bitOf s.sys.strap 5 then .xtal else .pair

/-- The host clocks tolerated with SRIS (R328): offset and down-spread in ppm. -/
def srisTolerance : Nat × Nat := (300, 5000)

/-- What the link reports of L1 (R329), in µs: least and greatest exit latency, T_POWER_ON, Common_Mode_Restore_Time. -/
structure LinkLatencies where
  exitLeast : Nat
  exitMost : Nat
  powerOn : Nat
  restore : Nat
  deriving DecidableEq, Repr

def linkLatencies : LinkLatencies := { exitLeast := 8, exitMost := 16, powerOn := 70, restore := 10 }

/-- The low-power state the link may enter (R329): L1 where Link Control enables it, a substate where L1 PM Substates Control enables it as well. -/
def mayEnterL1 (linkControl : Bool) : Bool := linkControl
def mayEnterL12 (linkControl substates : Bool) : Bool := linkControl && substates

/-- CAP (R338): MQES, CQR, AMS, TO, NSSRS, CSS, MPSMAX; the rest 0. -/
def capProperty : BitVec 64 :=
  BitVec.ofNat 64 (4095 + 2 ^ 16 + 2 ^ 17 + 4 * 2 ^ 24 + 2 ^ 36 + 2 ^ 37 + 2 ^ 43 + 4 * 2 ^ 52)

/-- VS (R338). -/
def vsProperty : Word := 0x00020000#32

/-- CSTS of a controller: RDY, CFS at 0 (R5, R338), SHST and NSSRO. -/
def cstsProperty (c : CtlIx) (s : State) : Word :=
  let v := s.hif.ctl[c]
  BitVec.ofNat 32 (flagBit v.rdy 0 + 4 * (v.shst % 4) + flagBit v.nssro 4)

end Sys2Proof.Machine
end

