-- ==== Sys2Proof/Machine/Pads.lean ====
section
/-!
DEFINITION. The output and bidirectional pads (chapter "Balls and Signals", R46 to R49): the state each has in reset and until firmware
first configures it, and the level it has then where the model's state fixes it.
-/
namespace Sys2Proof.Machine
open Sys2Proof

/-- A pad that the device drives or may drive, by the name of its signal. -/
inductive Pad where
  | clkreq (port : CtlIx)
  | mgmtAlert
  | wgate (a : ActIx)
  | rgate (a : ActIx)
  | paSclk (a : ActIx)
  | paSen (a : ActIx)
  | paSdio (a : ActIx)
  | yarnHead (h : Fin 2)
  | piezo (a : ActIx)
  | driveLink (a : ActIx)
  | spindleGate (phase : Fin 3) (high : Bool)
  | unloadN
  | snsSck
  | snsMosi
  | snsCs (n : Fin 2)
  | errOutN
  | permitOut
  | tdo
  | ospiClk
  | ospiCs
  | ospiRst
  | ospiData
  | capData
  | capXoff
  | capHold
  deriving DecidableEq, Repr

/-- What a pad does. -/
inductive PadState where
  | low
  | high
  /-- an open-drain pad that pulls nothing -/
  | released
  /-- an input with its pull-down -/
  | input
  | highZ
  /-- 0 V differential -/
  | zero
  /-- the clock head's bias is off -/
  | biasOff
  /-- driven by its block; the model holds what moves over it, not its level -/
  | driven
  deriving DecidableEq, Repr

/-- The "Reset" column (R46 to R49); MOSI, for which R48 states no level, is taken low with SCK (log entry 150). -/
def resetPad : Pad → PadState
  | .clkreq _ | .mgmtAlert | .errOutN => .released
  | .wgate _ | .rgate _ | .paSclk _ | .paSen _ | .driveLink _ | .spindleGate _ _ | .unloadN | .permitOut => .low
  | .snsSck | .snsMosi | .ospiClk | .ospiRst => .low
  | .snsCs _ | .ospiCs | .capXoff | .capHold => .high
  | .paSdio _ | .ospiData | .capData => .input
  | .yarnHead _ => .biasOff
  | .piezo _ => .zero
  | .tdo => .highZ

/-- The group that configures a pad; none for a pad that its block drives from the start (log entry 150). -/
def configuredBy : Pad → Option PadGroup
  | .clkreq _ | .mgmtAlert | .ospiClk | .ospiCs | .ospiRst | .ospiData => some .boot
  | .paSclk _ | .paSen _ | .paSdio _ | .yarnHead _ | .snsSck | .snsMosi | .snsCs _ => some .media
  | _ => none

/-- Low or high by a truth value. -/
def levelOf (b : Bool) : PadState := if b then .high else .low

/-- The gate of one switch of the bridge: all off, the low side on, or as the engine drives it. -/
def spindleGateOf (b : Bridge) (high : Bool) : PadState :=
  match b with
  | .off => .low
  | .short => levelOf (!high)
  | .pulses | .dtc | .sixStep => .driven

/-- A pad that is configured (R46 to R49). CLKREQn_N pulls low but in L1.2 (R329) and stays released in x4 mode, MGMT_ALERT_N in I3C mode; JTAG answers no command. -/
def drivenPad (p : Pad) (s : State) : PadState :=
  match p with
  | .clkreq c => if portUsed s c ∧ s.hif.ctl[c].l12 = false then .low else .released
  | .mgmtAlert => if i3cBus s then .released else .driven
  | .wgate a => levelOf (wgate s (laneOn s a))
  | .rgate a => levelOf (s.lane[laneOn s a]).row.rdOpen
  | .spindleGate _ high => spindleGateOf s.spn.bridge high
  | .unloadN => levelOf (!s.sys.unloadLow)
  | .errOutN => if errOut s then .low else .released
  | .permitOut => levelOf (permitOut s)
  | .capXoff => levelOf (capXoff s)
  | .driveLink a => if (engineOf s.flt a.val).isSome then .driven else .low
  | .tdo => .highZ
  | .capData => if bitOf (capReg s.cap 0) 0 then .driven else .input
  | .capHold => if bitOf (capReg s.cap 0) 0 then .driven else .high
  | .paSclk _ | .paSen _ | .paSdio _ | .yarnHead _ | .piezo _ | .snsSck | .snsMosi | .snsCs _ => .driven
  | .ospiClk | .ospiCs | .ospiRst | .ospiData => .driven

/-- Every pad (R46 to R49): its reset state in reset and until firmware has configured it. -/
def pad (p : Pad) (s : State) : PadState :=
  let waits : Bool := (configuredBy p).any fun g => !s.sys.pads.contains g
  if s.sys.inReset ∨ waits then resetPad p else drivenPad p s

end Sys2Proof.Machine
end

