-- ==== Sys2Proof/Safety.lean ====
section
/-!
DEFINITION. What claims speak of: the canonical form of the memory, the parts of the state a command may change, the invariant every
step keeps, and a safe run.
-/
namespace Sys2Proof.Machine
open Sys2Proof

/-! ### Memory -/

/-- Addresses strictly rising above a bound, and no byte that equals what an unlisted address reads as. -/
def Memory.above (lo : Nat) (m : List Host.Cell) : Bool :=
  match m with
  | [] => true
  | (a, b) :: t => decide (lo ≤ a) && decide (b ≠ 0) && Memory.above (a + 1) t

/-- The canonical form of the memory (log entry 3): equal memories are equal lists. -/
def Memory.wf (m : List Host.Cell) : Bool := Memory.above 0 m

/-! ### What a command may change -/

/-- A set of parts of the state. -/
structure Parts where
  sys : Bool := false
  flt : Bool := false
  pwr : Bool := false
  clk : Bool := false
  spn : Bool := false
  srv : Bool := false
  port : Bool := false
  sns : Bool := false
  yck : Bool := false
  lane : Bool := false
  ddp : Bool := false
  media : Bool := false
  dma : Bool := false
  hqm : Bool := false
  cap : Bool := false
  stc : Bool := false
  spe : Bool := false
  arr : Bool := false
  hif : Bool := false
  host : Bool := false
  mem : Bool := false
  free : Bool := false
  /-- the device may be reset: its reset inputs, its straps, and the end of a power-loss sequence -/
  rst : Bool := false
  /-- the bindings of R30 to R35 may change -/
  bind : Bool := false
  deriving DecidableEq, Repr

/-- t where the set allows it, s elsewhere; the queue is t's. -/
def patch (k : Parts) (s t : State) : State :=
  { sys := bif k.sys then t.sys else s.sys
    flt := bif k.flt then t.flt else s.flt
    pwr := bif k.pwr then t.pwr else s.pwr
    clk := bif k.clk then t.clk else s.clk
    spn := bif k.spn then t.spn else s.spn
    srv := bif k.srv then t.srv else s.srv
    port := bif k.port then t.port else s.port
    sns := bif k.sns then t.sns else s.sns
    yck := bif k.yck then t.yck else s.yck
    lane := bif k.lane then t.lane else s.lane
    ddp := bif k.ddp then t.ddp else s.ddp
    media := bif k.media then t.media else s.media
    dma := bif k.dma then t.dma else s.dma
    hqm := bif k.hqm then t.hqm else s.hqm
    cap := bif k.cap then t.cap else s.cap
    stc := bif k.stc then t.stc else s.stc
    spe := bif k.spe then t.spe else s.spe
    arr := bif k.arr then t.arr else s.arr
    hif := bif k.hif then t.hif else s.hif
    host := bif k.host then t.host else s.host
    mem := bif k.mem then t.mem else s.mem
    free := bif k.free then t.free else s.free
    pending := t.pending }

/-- The device is reset no further and no less, its straps are as they were, and a power-loss sequence that runs still runs (R50, R52,
R316, R322). -/
abbrev StillRuns (x y : Sys) : Prop :=
  y.inReset = x.inReset ∧ y.porHold = x.porHold ∧ y.rstLow = x.rstLow ∧ y.strap = x.strap ∧ (x.plActive = true → y.plActive = true)

/-- The bindings of lanes, servo engines and cores, and the staged core map, are as they were (R30, R31, R35, R36). -/
abbrev SameBindings (f g : Flt) : Prop := g.laneMap = f.laneMap ∧ g.srvMap = f.srvMap ∧ g.role = f.role ∧ g.staged = f.staged

/-- t differs from s in parts of the set alone, and in the queue not at all. -/
def OnlyIn (k : Parts) (s t : State) : Prop :=
  t = patch k s t ∧ t.pending = s.pending ∧ (k.rst = true ∨ StillRuns s.sys t.sys) ∧ (k.bind = true ∨ SameBindings s.flt t.flt)

/-! ### What each command may change -/

/-- What the occurrence of an FLT source may change, with the reactions FLT takes at once (R416 to R420). -/
abbrev eventParts : Parts :=
  { sys := true, flt := true, spn := true, srv := true, port := true, yck := true, lane := true, ddp := true, dma := true, hqm := true, cap := true, stc := true, spe := true, arr := true, hif := true, mem := true }

/-- The parts of the state a command may change. -/
def commandParts (c : Instr) : Parts :=
  match c with
  | .registerWrite _ _ _ _ => { eventParts with pwr := true, clk := true, sns := true, media := true, host := true, free := true, bind := true }
  | .misalignedAccess _ => eventParts
  | .unmappedAccess _ => eventParts
  | .gatedBlockAccess _ => eventParts
  | .hookViolation _ => eventParts
  | .reg64LowRead _ _ => { eventParts with free := true }
  | .reg64HighWrite _ _ _ => { eventParts with pwr := true, clk := true, sns := true, media := true, host := true, free := true, bind := true }
  | .reg64LowWrite _ _ _ => { eventParts with pwr := true, clk := true, sns := true, media := true, host := true, free := true, bind := true }
  | .powerOnReset _ _ => { eventParts with pwr := true, clk := true, sns := true, media := true, host := true, free := true, rst := true, bind := true }
  | .resetNQualified => { eventParts with pwr := true, clk := true, sns := true, media := true, host := true, free := true, rst := true, bind := true }
  | .resetNRise _ => { sys := true, rst := true }
  | .railOutOfWindow _ _ _ => { eventParts with pwr := true }
  | .railBrownout => { eventParts with pwr := true }
  | .railResetLevel _ => { eventParts with pwr := true, clk := true, sns := true, media := true, host := true, free := true, rst := true, bind := true }
  | .pwrfailQualified => { eventParts with pwr := true }
  | .refugeWrite _ => { sys := true, lane := true, spe := true }
  | .refugeDone _ => { sys := true, srv := true, stc := true }
  | .powerlossRecoveryReset => { eventParts with pwr := true, clk := true, sns := true, media := true, host := true, free := true, rst := true, bind := true }
  | .permitInFilteredHigh => eventParts
  | .permitInFall => { sys := true }
  | .permitDelayExpiry => { sys := true }
  | .errOutMinExpiry => { sys := true }
  | .shockPinAssert _ _ => eventParts
  | .paFaultAssert _ _ => { sys := true }
  | .perstAssert _ => { eventParts with pwr := true, host := true }
  | .perstDeassert _ => { hif := true }
  | .linkDown _ => { eventParts with pwr := true, host := true }
  | .functionReset _ => { eventParts with pwr := true, host := true }
  | .l12Entry _ => { pwr := true, hif := true }
  | .l12Exit _ => { pwr := true, hif := true }
  | .crystalLost => { eventParts with clk := true }
  | .crystalRestored _ => { eventParts with clk := true }
  | .clkRefSelect _ => { eventParts with clk := true }
  | .clkClusterFreq _ _ => { eventParts with clk := true }
  | .post _ => { eventParts with pwr := true, clk := true, host := true, bind := true }
  | .safeCommitReset => { eventParts with pwr := true, clk := true, sns := true, media := true, host := true, free := true, rst := true, bind := true }
  | .spinupStart => { eventParts with pwr := true }
  | .castonMedia _ => { eventParts with media := true, host := true, free := true }
  | .ready => { eventParts with pwr := true, media := true, host := true, free := true }
  | .bindOff => { eventParts with pwr := true, media := true, host := true, free := true }
  | .shutdownNotify _ _ => { eventParts with pwr := true, host := true }
  | .ps4Wake => { eventParts with pwr := true, host := true }
  | .ps3Wake => { eventParts with pwr := true }
  | .spnDecision _ => eventParts
  | .spnStart _ => eventParts
  | .spnStop _ => eventParts
  | .spnLock _ => eventParts
  | .bemfZeroCrossing _ => eventParts
  | .sensingWindowEnd => eventParts
  | .inductiveDetectDone _ => { spn := true, lane := true }
  | .brakeProbe _ _ => eventParts
  | .brakeTimeout => eventParts
  | .lockedRotor => eventParts
  | .lockedRotorPauseEnd => { spn := true, lane := true }
  | .resyncTimeout => eventParts
  | .restartCoastEnd => { spn := true, lane := true }
  | .refugeDelayExpiry => { sys := true, spn := true }
  | .reseedDone _ => eventParts
  | .yckEnable _ => eventParts
  | .yckSelForce _ => eventParts
  | .yckLock _ => eventParts
  | .yarnHeadLost _ _ => { eventParts with media := true, host := true, free := true }
  | .yarnHeadQualified _ _ => eventParts
  | .switchover _ _ => eventParts
  | .forcedSwitchover _ _ => eventParts
  | .timingGuardFall => { yck := true }
  | .slewDone => { yck := true }
  | .yarnReturn => eventParts
  | .gaugeRowMove _ => eventParts
  | .gaugeUpdateApply _ => { eventParts with media := true }
  | .gaugeHourlyWrite => { yck := true, media := true, arr := true }
  | .servoSample _ _ => { eventParts with media := true }
  | .halfSamplePiezo _ => { srv := true }
  | .samMissRun _ => eventParts
  | .servoImplausible _ => eventParts
  | .holdTimeout _ => eventParts
  | .onTrack _ => { eventParts with media := true }
  | .srvLoad _ _ => eventParts
  | .srvSeek _ _ => eventParts
  | .srvHoldCmd _ _ => eventParts
  | .srvReleaseHold _ _ => eventParts
  | .srvUnload _ _ => eventParts
  | .srvSwapRequest _ _ => eventParts
  | .srvLock _ _ => eventParts
  | .srvBankWrite _ _ _ _ _ => eventParts
  | .loadCapture _ _ => { srv := true, stc := true, arr := true }
  | .loadTimeout _ => eventParts
  | .retractDone _ => { srv := true }
  | .parkCheck _ _ => eventParts
  | .unloadNFall => { sys := true, srv := true, stc := true, arr := true }
  | .dlFrameReceive _ _ => eventParts
  | .dlFault _ => eventParts
  | .portHoldExpiry _ => { flt := true, port := true, arr := true, bind := true }
  | .portHoldRetract _ _ => { flt := true, srv := true, port := true, arr := true, bind := true }
  | .sensorRead _ _ => { sns := true, stc := true }
  | .laneTempRefresh _ => { lane := true }
  | .feReady _ => { lane := true }
  | .readerFail _ _ => eventParts
  | .paCmdQueue _ _ => eventParts
  | .paFrameSend _ _ => eventParts
  | .decodeAttemptDone _ _ => { eventParts with media := true }
  | .rawVerdict _ _ => { eventParts with media := true }
  | .deepDecodeRequest _ _ _ => { eventParts with media := true }
  | .deepWaitTimeout _ _ _ => { eventParts with media := true }
  | .deepDecodeDone _ _ => { eventParts with media := true }
  | .retryRevolution _ _ => { eventParts with media := true }
  | .selvageDecode _ _ => { eventParts with media := true }
  | .rowSeq _ _ => { eventParts with media := true, free := true }
  | .rowJmp _ _ => { eventParts with media := true, free := true }
  | .rowBrt _ _ => { eventParts with media := true, free := true }
  | .rowBrf _ _ => { eventParts with media := true, free := true }
  | .rowDsp _ _ => { eventParts with media := true, free := true }
  | .rowCall _ _ => { eventParts with media := true, free := true }
  | .rowRet _ _ => { eventParts with media := true, free := true }
  | .rowWait _ _ => { eventParts with media := true, free := true }
  | .rowWaitTimeout _ => { eventParts with media := true, free := true }
  | .customerTimeFault _ => { eventParts with media := true, free := true }
  | .rowReloadDone _ => { eventParts with media := true, free := true }
  | .opcodeIdle _ => { eventParts with media := true, free := true }
  | .opcodeOpBegin _ => { eventParts with media := true, free := true }
  | .opcodeOpEnd _ => { eventParts with media := true, free := true }
  | .opcodeRdRun _ _ => { eventParts with media := true, free := true }
  | .opcodeRrRun _ _ => { eventParts with media := true, free := true }
  | .opcodeWrRun _ _ => { eventParts with media := true, free := true }
  | .opcodeWrSelv _ _ => { eventParts with media := true, free := true }
  | .opcodeGap _ => { eventParts with media := true, free := true }
  | .opcodeCustomer _ _ => { eventParts with media := true, free := true }
  | .rowLoadWrite _ => eventParts
  | .rowLoadReadback _ => { lane := true }
  | .rowRun _ _ => { lane := true }
  | .rowStop _ _ => { lane := true }
  | .custEnWrite _ _ _ => { lane := true }
  | .rowSwapRequest _ _ => { lane := true }
  | .rowSwap _ => eventParts
  | .patOperation _ _ => { eventParts with media := true, free := true }
  | .patRun _ _ => eventParts
  | .patQuiesce _ _ => eventParts
  | .darnWrite _ => eventParts
  | .darnReadback _ => { lane := true }
  | .matchWrite _ _ _ => { lane := true }
  | .matchApply _ => eventParts
  | .jrnlAppend _ => eventParts
  | .jrnlGroupIssue => { spe := true, mem := true }
  | .jrnlAck _ => { lane := true, media := true, spe := true, arr := true, hif := true, host := true, mem := true, free := true }
  | .replicaReplace _ => { eventParts with media := true, host := true }
  | .replicaFillDone => { eventParts with media := true, host := true, free := true }
  | .checkpoint _ => eventParts
  | .bitClearDelay _ => { spe := true, mem := true }
  | .rowVerified _ _ => { lane := true, media := true, spe := true, arr := true, hif := true, host := true, mem := true, free := true }
  | .rowIdleTimeout _ _ => { lane := true, media := true, spe := true, arr := true, hif := true, host := true, mem := true, free := true }
  | .rmwEntriesDurable _ _ _ => { media := true, spe := true }
  | .rmwVerified _ _ _ => { lane := true, media := true, spe := true, arr := true, hif := true, host := true, mem := true, free := true }
  | .skipWalkUnit _ _ _ => { lane := true, media := true, spe := true, arr := true, hif := true, host := true, mem := true, free := true }
  | .reconstructRead _ _ _ _ _ _ => { eventParts with media := true }
  | .speJob _ _ => eventParts
  | .speEnable _ => { spe := true }
  | .speHalt _ => { spe := true }
  | .speLock _ => { spe := true }
  | .speCalWrite _ => eventParts
  | .suspectTrigger _ _ => { spe := true, arr := true, hif := true, mem := true }
  | .suspectExpiry _ => { spe := true, arr := true, hif := true, mem := true }
  | .fenceTrigger _ _ => { eventParts with media := true, host := true, free := true }
  | .actuatorUnavailable _ _ => { eventParts with media := true, host := true, free := true }
  | .actuatorReload _ => eventParts
  | .actuatorRetryTimer _ => { eventParts with media := true, host := true, free := true }
  | .rebuildRow _ _ _ => { media := true, spe := true, arr := true, hif := true, mem := true, free := true }
  | .rebuildZoneDone _ => { spe := true, arr := true, hif := true, mem := true }
  | .fencedProbe _ _ => { stc := true, arr := true }
  | .requalSwatchDone _ _ => { spe := true, arr := true, hif := true, mem := true }
  | .requalVerifyDone _ _ _ _ _ => { spe := true, arr := true, hif := true, mem := true }
  | .migrateZone _ _ => { spe := true, arr := true, hif := true, mem := true, free := true }
  | .reshapeZone _ => { lane := true, media := true, spe := true, arr := true, hif := true, host := true, mem := true, free := true }
  | .formatConversion _ _ => { lane := true, media := true, spe := true, arr := true, hif := true, host := true, mem := true, free := true }
  | .scrubRow _ _ _ => eventParts
  | .commandFetch _ _ => eventParts
  | .rangeLockRelease _ => { lane := true, media := true, spe := true, arr := true, hif := true, host := true, mem := true, free := true }
  | .completionPost => { lane := true, media := true, spe := true, arr := true, hif := true, host := true, mem := true, free := true }
  | .holdLimitExpiry _ => { lane := true, media := true, spe := true, arr := true, hif := true, host := true, mem := true, free := true }
  | .ccEnSet _ _ _ => { hif := true }
  | .ccEnClear _ => { eventParts with pwr := true, host := true }
  | .rejoinWindowExpiry _ => { stc := true, arr := true, hif := true, host := true }
  | .attachRequest _ _ => { stc := true, arr := true, hif := true, host := true }
  | .partnerDepart _ => { stc := true, arr := true, hif := true, host := true }
  | .roleChange _ => { stc := true, arr := true, hif := true, host := true }
  | .nssr _ _ => { eventParts with pwr := true, host := true }
  | .identify _ _ _ _ _ => { hif := true, free := true }
  | .getLogPage _ _ _ _ _ => { hif := true, free := true }
  | .setFeatures _ _ _ _ _ => { eventParts with pwr := true, media := true, host := true, free := true }
  | .getFeatures _ _ _ _ => { hif := true }
  | .powerManagement _ _ => { eventParts with pwr := true, host := true }
  | .layoutDefaults _ _ _ => { hif := true, host := true }
  | .scrubSchedule _ _ _ => { hif := true, host := true }
  | .spinUpPermitPolicy _ _ _ => { hif := true, host := true }
  | .protectedWriteWindow _ _ _ => { lane := true, media := true, stc := true, spe := true, arr := true, hif := true, host := true, mem := true, free := true }
  | .createIoSq _ _ _ _ => { hif := true }
  | .deleteIoSq _ _ => { hif := true }
  | .createIoCq _ _ _ _ => { hif := true }
  | .deleteIoCq _ _ => { hif := true }
  | .abort _ _ => { lane := true, media := true, spe := true, arr := true, hif := true, host := true, mem := true, free := true }
  | .asynchronousEventRequest _ => { hif := true }
  | .namespaceManagement _ _ _ => { lane := true, media := true, spe := true, arr := true, hif := true, host := true, mem := true, free := true }
  | .namespaceAttachment _ _ _ _ => { hif := true, host := true }
  | .firmwareImageDownload _ _ _ => { hif := true, host := true }
  | .fwCommitStore _ _ _ => { hif := true, host := true }
  | .fwCommitActivateAtReset _ _ _ => { hif := true, host := true }
  | .fwCommitSlotAtReset _ _ => { hif := true, host := true }
  | .fwCommitActivateNow _ _ _ => { sys := true, hif := true, host := true }
  | .activationHoldStart => { hif := true, host := true }
  | .activationQuietTimeout => { flt := true, hif := true, host := true }
  | .activationSwitch _ => { flt := true, pwr := true, lane := true, stc := true, hif := true, host := true }
  | .selftestShort _ => { hif := true, host := true }
  | .selftestExtended _ => { hif := true, host := true }
  | .selftestAbort _ => { hif := true, host := true }
  | .slice _ => { eventParts with media := true, host := true, free := true }
  | .formatNvm _ _ _ _ _ => { lane := true, media := true, spe := true, arr := true, hif := true, host := true, mem := true, free := true }
  | .securitySend _ _ => { lane := true, media := true, spe := true, arr := true, hif := true, host := true, mem := true, free := true }
  | .securityReceive _ _ => { hif := true, free := true }
  | .sanitizeCryptoErase _ => { lane := true, media := true, spe := true, arr := true, hif := true, host := true, mem := true, free := true }
  | .sanitizeBlockErase _ => { lane := true, media := true, spe := true, arr := true, hif := true, host := true, mem := true, free := true }
  | .nvmeMiSend _ _ => { eventParts with pwr := true, host := true, free := true }
  | .nvmeMiReceive _ _ => { eventParts with pwr := true, host := true, free := true }
  | .declareDead _ _ _ _ => { eventParts with media := true, host := true, free := true }
  | .requalify _ _ _ => { spe := true, arr := true, hif := true, host := true, mem := true }
  | .readmitAsSpare _ _ _ => { spe := true, arr := true, hif := true, host := true, mem := true }
  | .setScrubPeriod _ _ _ _ => { arr := true, hif := true }
  | .surfaceQuery _ _ => { hif := true, free := true }
  | .reshapeStart _ _ _ _ _ _ => { spe := true, arr := true, hif := true, host := true, mem := true }
  | .recorderRead _ _ _ => { stc := true, hif := true }
  | .recorderClear _ _ => { stc := true, hif := true, host := true }
  | .calibrationRequest _ _ _ _ _ => { arr := true, hif := true }
  | .flush _ _ => { eventParts with pwr := true, host := true }
  | .write _ _ => { eventParts with pwr := true, media := true, host := true, free := true }
  | .read _ _ => { eventParts with pwr := true, media := true, host := true, free := true }
  | .compare _ _ => { eventParts with pwr := true, media := true, host := true, free := true }
  | .writeZeroes _ _ => { eventParts with pwr := true, media := true, host := true, free := true }
  | .verify _ _ => { eventParts with pwr := true, media := true, host := true, free := true }
  | .zoneAppend _ _ => { eventParts with pwr := true, media := true, host := true, free := true }
  | .zoneManagementReceive _ _ _ => { hif := true }
  | .zoneOpen _ _ => { eventParts with pwr := true, media := true, host := true, free := true }
  | .zoneClose _ _ => { eventParts with pwr := true, media := true, host := true, free := true }
  | .zoneFinish _ _ => { eventParts with pwr := true, media := true, host := true, free := true }
  | .zoneReset _ _ => { eventParts with pwr := true, media := true, host := true, free := true }
  | .fixityDigest _ _ => { eventParts with pwr := true, media := true, host := true, free := true }
  | .salvageRead _ _ => { eventParts with pwr := true, media := true, host := true, free := true }
  | .miReadDataStructure _ => { eventParts with pwr := true, media := true, host := true, free := true }
  | .miSubsystemHealthPoll => { eventParts with pwr := true, media := true, host := true, free := true }
  | .miControllerHealthPoll _ => { eventParts with pwr := true, media := true, host := true, free := true }
  | .miConfigurationSet _ _ => { eventParts with pwr := true, media := true, host := true, free := true }
  | .miConfigurationGet _ => { eventParts with pwr := true, media := true, host := true, free := true }
  | .miVpdRead _ _ => { eventParts with pwr := true, media := true, host := true, free := true }
  | .miVpdWrite _ _ => { eventParts with pwr := true, media := true, host := true, free := true }
  | .miReset => { eventParts with pwr := true, media := true, host := true, free := true }
  | .miPause => { host := true }
  | .miResume => { eventParts with pwr := true, media := true, host := true, free := true }
  | .miAbort => { host := true }
  | .miGetState => { host := true }
  | .miReplay => { host := true }
  | .miTunnelledAdmin _ => { eventParts with pwr := true, media := true, host := true, free := true }
  | .hifFetchHold _ => { hif := true }
  | .hifRingConfig _ _ => eventParts
  | .feInstanceFail _ => eventParts
  | .linkWidthReduce _ => eventParts
  | .dmaStart _ => eventParts
  | .dmaAbort _ => eventParts
  | .dmaResume _ => eventParts
  | .dmaExtend _ => eventParts
  | .dmaDisable => eventParts
  | .dmaDescriptorComplete _ _ => { eventParts with pwr := true, clk := true, sns := true, media := true, host := true, free := true, bind := true }
  | .dmaBurstError _ _ => eventParts
  | .dmaRequest _ _ => { eventParts with pwr := true, clk := true, sns := true, media := true, host := true, free := true, bind := true }
  | .dmaEventTrigger _ => eventParts
  | .dmaTimerExpiry _ => eventParts
  | .pwrDomRequest _ => { eventParts with pwr := true }
  | .dmaQuiesceDone => { eventParts with pwr := true }
  | .dmaQuiesceTimeout _ => { eventParts with pwr := true }
  | .pwrHaltReq _ => { eventParts with pwr := true }
  | .pwrLaneLimit _ => { eventParts with pwr := true }
  | .thermalLimit _ => { eventParts with pwr := true, host := true }
  | .laneGateSwap _ _ => { eventParts with pwr := true, host := true }
  | .apstIdleExpiry _ => { eventParts with pwr := true, host := true }
  | .hqmRingEnable _ => eventParts
  | .hqmRingDisable _ => eventParts
  | .flushPkt _ => eventParts
  | .flushNow _ => eventParts
  | .hqmProdOpen _ => eventParts
  | .hqmProdSlot _ _ => eventParts
  | .hqmProdClose _ _ => eventParts
  | .hqmConsHeader _ => eventParts
  | .hqmConsSlot _ => eventParts
  | .hqmConsSkip _ => eventParts
  | .hqmStallTimeout _ => eventParts
  | .capFrameIn _ => eventParts
  | .capRecordOut _ => eventParts
  | .capEnable _ => eventParts
  | .faultSourceOccurrence _ => { eventParts with free := true, bind := true }
  | .faultAcknowledge _ _ _ _ => eventParts
  | .fltSwraise _ _ => eventParts
  | .fltDefaultCore _ => eventParts
  | .warmReset _ => { eventParts with pwr := true, media := true, host := true, free := true }
  | .coreWatchdog _ => { eventParts with bind := true }
  | .coreFail _ => { eventParts with bind := true }
  | .clusterFail _ => { eventParts with bind := true }
  | .laneFail _ _ => { eventParts with bind := true }
  | .laneLoopback _ _ => { eventParts with bind := true }
  | .laneMapWrite _ => { eventParts with bind := true }
  | .muxSwitch _ => { sys := true, lane := true }
  | .srvMapWrite _ => { eventParts with bind := true }
  | .coreMapWrite _ _ => { flt := true, bind := true }
  | .coreCommit _ => { eventParts with bind := true }
  | .coreDiscard _ => { eventParts with bind := true }
  | .injectionUnlock _ => { sys := true, flt := true, free := true }
  | .injRaiseSource => eventParts
  | .injSingleBitError => eventParts
  | .injDoubleBitError => eventParts
  | .injRowParity => eventParts
  | .injServoResidue => eventParts
  | .injLockstep => eventParts
  | .injDlDrop => eventParts
  | .injRldBurst => eventParts
  | .sramPatrol _ => eventParts
  | .sramUncorrectable _ => { eventParts with media := true, bind := true }
  | .rldChannelFail _ => eventParts
  | .stcEntry _ _ _ _ => { stc := true }
  | .stcSecondTick _ _ => { lane := true, stc := true }
  | .stcMsTick => { eventParts with pwr := true }
  | .stcClear _ => eventParts
  | .stcCondAdd => eventParts
  | .stcPersist => { stc := true }
  | .stcPersistDone _ _ => { eventParts with host := true }
  | .stcLock _ => { stc := true }
  | .stcReadSelect _ _ => { stc := true }
  | .stcWindowAdvance _ => { stc := true }
  | .yarnPllLock _ _ => { yck := true }
  | .linkUp _ _ _ => { pwr := true, hif := true }
  | .l12HostExit _ => { pwr := true, hif := true }
  | .basicManagementCommand _ => { host := true, free := true }
  | .i3cDynamicAddressAssign _ _ => { host := true }
  | .calibrationAbandon => { arr := true, hif := true }

/-- The commands that reset the device or end a reset of it (R52, R303, R322, R490, R493). -/
def isDeviceReset (c : Instr) : Bool :=
  match c with
  | .powerOnReset _ _ => true
  | .resetNQualified => true
  | .resetNRise _ => true
  | .railResetLevel _ => true
  | .powerlossRecoveryReset => true
  | .safeCommitReset => true
  | _ => false

/-- The commands that may change a binding: writes of the binding registers, which a register write or a DMA burst may make too; failures of a unit, which an occurrence or an injection may find; POST; and the resets of the device. -/
def mayRebind (c : Instr) : Bool :=
  match c with
  | .registerWrite _ _ _ _ => true
  | .reg64HighWrite _ _ _ => true
  | .reg64LowWrite _ _ _ => true
  | .powerOnReset _ _ => true
  | .resetNQualified => true
  | .railResetLevel _ => true
  | .powerlossRecoveryReset => true
  | .post _ => true
  | .safeCommitReset => true
  | .portHoldExpiry _ => true
  | .portHoldRetract _ _ => true
  | .dmaDescriptorComplete _ _ => true
  | .dmaRequest _ _ => true
  | .faultSourceOccurrence _ => true
  | .coreWatchdog _ => true
  | .coreFail _ => true
  | .clusterFail _ => true
  | .laneFail _ _ => true
  | .laneLoopback _ _ => true
  | .laneMapWrite _ => true
  | .srvMapWrite _ => true
  | .coreMapWrite _ _ => true
  | .coreCommit _ => true
  | .coreDiscard _ => true
  | .sramUncorrectable _ => true
  | _ => false

/-- The commands that act while the device is in reset: the resets themselves and the pins and rails that are watched in reset (R52, R493). -/
def actsInReset (c : Instr) : Bool :=
  match c with
  | .powerOnReset _ _ => true
  | .resetNQualified => true
  | .resetNRise _ => true
  | .railOutOfWindow _ _ _ => true
  | .railResetLevel _ => true
  | .shockPinAssert _ _ => true
  | .paFaultAssert _ _ => true
  | .crystalLost => true
  | _ => false

/-! ### The invariant -/

/-- What every step keeps: the memory is canonical. -/
def Inv (s : State) : Prop := Memory.wf s.mem = true

/-! ### Completion -/

/-- The device is out of reset: an event acts (R52). -/
abbrev Live (s : State) : Prop := s.sys.inReset = false

/-- The command ends in a next state of which P holds. -/
def Completes (c : Instr) (s : State) (P : State → Prop) : Prop := ∃ t, exec c s = .next t ∧ P t

/-! ### Safe runs -/

/-- A step that ends neither in a fault nor in a refusal. -/
def SafeStep (s : State) : Prop := ∃ t, step s = .next t

/-- n steps that all end in a next state. -/
def SafeRun (n : Nat) (s : State) : Prop :=
  match n with
  | 0 => True
  | n + 1 => ∃ t, step s = .next t ∧ SafeRun n t

/-! ### What a full-device reset leaves in the registers (R52, R487) -/

/-- FLT: offsets with their reset values. -/
def resetFlt : List (Nat × Word) :=
  [(0x0, 0), (0x4, 0), (0x8, 0), (0xc, 0), (0x10, 0), (0x14, 0), (0x340, 0), (0xe00, 0), (0xe04, 0), (0xe08, 0), (0xe0c, 0),
    (0xf00, 0x4688), (0xf04, 0x4688), (0xf08, 0), (0xf10, 0x900000), (0xf14, 0x900000), (0xf18, 0xa50000), (0xf1c, 0)]

/-- SPN: offsets with their reset values. -/
def resetSpn : List (Nat × Word) :=
  [(0x0, 0), (0x4, 0), (0x8, 0), (0xc, 0), (0x10, 0x8041518), (0x14, 0), (0x18, 0), (0x1c, 0), (0x20, 0x200028), (0x24, 0x1000),
    (0x28, 0x606), (0x2c, 0x9c40708), (0x30, 0x5505465c), (0x34, 0x6402814), (0x38, 0xf31ec), (0x3c, 0x643332), (0x40, 0x14321f4),
    (0x44, 0xa), (0x48, 0x14), (0x4c, 0x400200), (0x50, 0), (0x54, 0), (0x58, 0)]

/-- YCK: offsets with their reset values. -/
def resetYck : List (Nat × Word) :=
  [(0x0, 0), (0x4, 0x3), (0x8, 0), (0xc, 0), (0x10, 0), (0x14, 0x204), (0x18, 0x204019), (0x1c, 0x10810), (0x20, 0), (0x24, 0),
    (0x28, 0), (0x2c, 0), (0x30, 0x3), (0x34, 0x400221), (0x38, 0x208), (0x3c, 0x8)]

/-- SRV: offsets with their reset values, first part. -/
def resetSrvA : List (Nat × Word) :=
  [(0x0, 0), (0x4, 0), (0x8, 0), (0xc, 0), (0x10, 0), (0x14, 0), (0x18, 0), (0x1c, 0), (0x20, 0x4), (0x24, 0), (0x28, 0x4100000),
    (0x2c, 0xcd007b), (0x30, 0x6052), (0x34, 0x4258309a), (0x38, 0), (0x3c, 0), (0x40, 0), (0x44, 0)]

/-- SRV, second part. -/
def resetSrvB : List (Nat × Word) :=
  [(0x48, 0), (0x4c, 0x1ffff), (0x50, 0x7fff), (0x54, 0x100320), (0x58, 0), (0x5c, 0), (0x60, 0), (0x64, 0x209664), (0x68, 0),
    (0x6c, 0), (0x70, 0), (0x74, 0), (0x78, 0), (0x7c, 0), (0x80, 0), (0x84, 0x8b6), (0x88, 0x400), (0x90, 0)]

/-- SRV. -/
def resetSrv : List (Nat × Word) := resetSrvA ++ resetSrvB

/-- LANE: offsets with their reset values, first part. -/
def resetLaneA : List (Nat × Word) :=
  [(0x0, 0), (0x8, 0), (0xc, 0), (0x10, 0), (0x14, 0), (0x18, 0), (0x1c, 0x307), (0x20, 0x80040), (0x24, 0x408), (0x28, 0x418),
    (0x2c, 0), (0x30, 0), (0x34, 0), (0x38, 0), (0x50, 0), (0x400, 0), (0x404, 0x14802), (0x408, 0x14d03d6), (0x40c, 0x140206),
    (0x410, 0), (0x414, 0), (0x1000, 0)]

/-- LANE, second part. -/
def resetLaneB : List (Nat × Word) :=
  [(0x1004, 0), (0x1008, 0), (0x100c, 0), (0x1010, 0x40), (0x1014, 0), (0x1018, 0), (0x101c, 0), (0x1020, 0), (0x1024, 0),
    (0x1030, 0), (0x1048, 0), (0x1050, 0), (0x1100, 0), (0x1104, 0), (0x1108, 0), (0x110c, 0), (0x1110, 0), (0x1114, 0), (0x1118, 0),
    (0x111c, 0), (0x1120, 0), (0x1124, 0)]

/-- LANE. -/
def resetLane : List (Nat × Word) := resetLaneA ++ resetLaneB

/-- the deep-decode pool in the block of L0: offsets with their reset values. -/
def resetDdp : List (Nat × Word) :=
  [(0x800, 0x3), (0x804, 0), (0x808, 0), (0x80c, 0x2028)]

/-- SPE: offsets with their reset values. -/
def resetSpe : List (Nat × Word) :=
  [(0x0, 0), (0x4, 0), (0x8, 0), (0xc, 0x618), (0x10, 0), (0x14, 0x14050040), (0x18, 0), (0x1c, 0), (0x20, 0), (0x24, 0), (0x28, 0),
    (0x2c, 0), (0x30, 0), (0x34, 0), (0x38, 0), (0x3c, 0), (0x40, 0), (0x44, 0), (0x48, 0), (0x4c, 0)]

/-- DMA: offsets with their reset values. -/
def resetDma : List (Nat × Word) :=
  [(0x0, 0), (0x4, 0), (0x8, 0), (0xc, 0), (0x10, 0), (0x14, 0)]

/-- HQM: offsets with their reset values. -/
def resetHqm : List (Nat × Word) :=
  [(0x0, 0x64), (0x4, 0), (0x8, 0), (0x10, 0), (0x14, 0), (0x18, 0), (0x1c, 0x4), (0x20, 0xc0004), (0x24, 0), (0x28, 0), (0x30, 0),
    (0x100, 0), (0x110, 0), (0x130, 0), (0x134, 0), (0x200, 0), (0x230, 0), (0x234, 0)]

/-- CAP: offsets with their reset values. -/
def resetCap : List (Nat × Word) :=
  [(0x0, 0), (0x4, 0x801), (0x8, 0), (0xc, 0x3), (0x10, 0)]

/-- STC: offsets with their reset values. -/
def resetStc : List (Nat × Word) :=
  [(0x0, 0), (0x4, 0x1), (0x8, 0), (0xc, 0), (0x10, 0), (0x14, 0), (0x18, 0), (0x1c, 0), (0x20, 0), (0x24, 0), (0x100, 0xff),
    (0x104, 0), (0x108, 0)]

/-- PWR: offsets with their reset values. -/
def resetPwr : List (Nat × Word) :=
  [(0x0, 0x5), (0x4, 0x28), (0x8, 0), (0xc, 0), (0x10, 0), (0x14, 0), (0x18, 0), (0x1c, 0), (0x20, 0), (0x24, 0)]

/-- CLK: offsets with their reset values. -/
def resetClk : List (Nat × Word) :=
  [(0x0, 0), (0x4, 0x1), (0x8, 0), (0xc, 0)]

/-- HIF: offsets with their reset values. -/
def resetHif : List (Nat × Word) :=
  [(0x0, 0), (0x4, 0), (0x8, 0), (0xc, 0x2), (0x10, 0), (0x14, 0), (0x18, 0), (0x1c, 0)]

/-- The registers of a block at the offsets of their listings with the reset values given there, where a register stands at one offset
and its value is a constant. LANE_FE_STATUS shows the live connection and guard (log entry 119) and is not listed. -/
def resetListing (b : Blk) : List (Nat × Word) :=
  match b with
  | .flt => resetFlt
  | .spn => resetSpn
  | .yck => resetYck
  | .srv _ => resetSrv
  | .lane l => if l = 0 then resetLane ++ resetDdp else resetLane
  | .spe => resetSpe
  | .dma => resetDma
  | .hqm => resetHqm
  | .cap => resetCap
  | .stc => resetStc
  | .pwr => resetPwr
  | .clk => resetClk
  | .hif => resetHif

end Sys2Proof.Machine
end

