-- ==== Sys2Proof/Certificates/Slice0/Obligations.lean ====
section
/-!
DEFINITION. The statements for the provers. The completion statements give, command by command, the state that the command answers,
under hypotheses on the state and the operands alone; the others state what every command leaves alone, what resets and warm resets
keep, and single rules whole.
-/
open Sys2Proof Sys2Proof.Machine

/-- Each access of the register rows answers the state its rule gives: a write its effect, a refused access its source (R16, R17, R19, R28, R480, R483).
One clause for each command and form, for every state and operand that meet the clause's hypotheses. -/
def Obligations.RegisterAccessCompletes : Prop :=
  -- REGISTER_WRITE (R19)
  (∀ (s : State) (q : Requester) (a : Nat) (w : Word) (arriving : List SrcIx), Live s → accessFault s { who := q, addr := a, bytes := 4, write := some w } = none → (∀ b off, regionAt a ≠ .reg b off) → exec (.registerWrite q a w arriving) s = .next (windowNote (window s) (writeLE s a 4 w.toNat))) ∧
  -- REGISTER_WRITE (R19)
  (∀ (s : State) (q : Requester) (a : Nat) (w : Word) (arriving : List SrcIx) (b : Blk) (off : Nat), Live s → accessFault s { who := q, addr := a, bytes := 4, write := some w } = none → regionAt a = .reg b off → exec (.registerWrite q a w arriving) s = .next (windowNote (window s) (registerStore q arriving b a off w s))) ∧
  -- MISALIGNED_ACCESS (R16)
  (∀ (s : State) (x : Access), Live s → accessFault s x = some .misaligned → exec (.misalignedAccess x) s = .next (raise 168 (if x.write.isNone then setRdata 0 s else s))) ∧
  -- UNMAPPED_ACCESS (R480)
  (∀ (s : State) (x : Access), Live s → accessFault s x = some .unmapped → exec (.unmappedAccess x) s = .next (raise 168 (if x.write.isNone then setRdata 0 s else s))) ∧
  -- GATED_BLOCK_ACCESS (R483)
  (∀ (s : State) (x : Access), Live s → accessFault s x = some .gated → exec (.gatedBlockAccess x) s = .next (raise 168 (if x.write.isNone then setRdata 0 s else s))) ∧
  -- HOOK_VIOLATION (R28)
  (∀ (s : State) (x : Access), Live s → accessFault s x = some .hook → exec (.hookViolation x) s = .next (raise 169 (if x.write.isNone then setRdata 0 s else s))) ∧
  -- REG64_LOW_READ (R17)
  (∀ (s : State) (q : Requester) (a : Nat), Live s → accessFault s { who := q, addr := a, bytes := 4, write := none } = none → (∀ b off, regionAt a ≠ .reg b off) → exec (.reg64LowRead q a) s = .next (setRdata (BitVec.ofNat 32 (readLE s a 4)) s)) ∧
  -- REG64_LOW_READ (R17)
  (∀ (s : State) (q : Requester) (a off lo : Nat), Live s → accessFault s { who := q, addr := a, bytes := 4, write := none } = none → regionAt a = .reg .dma off → pairOf .dma off = some lo → exec (.reg64LowRead q a) s = .next (readPair q .dma a off s)) ∧
  -- REG64_HIGH_WRITE (R17)
  (∀ (s : State) (q : Requester) (a : Nat) (w : Word) (b : Blk) (off lo : Nat), Live s → accessFault s { who := q, addr := a, bytes := 4, write := some w } = none → regionAt a = .reg b off → pairOf b off = some lo → off ≠ lo → isHook s q = false → exec (.reg64HighWrite q a w) s = .next (arrivals b off [] (highWrite a off lo w s))) ∧
  -- REG64_LOW_WRITE (R17)
  (∀ (s : State) (q : Requester) (a : Nat) (w : Word) (b : Blk) (off : Nat), Live s → accessFault s { who := q, addr := a, bytes := 4, write := some w } = none → regionAt a = .reg b off → pairOf b off = some off → exec (.reg64LowWrite q a w) s = .next (arrivals b off [] (lowWrite b a off w s)))

/-- Each reset, rail and power-loss row answers the state its rule gives (R50, R52, R316, R318, R320, R322, R490, R493). One clause for each command and
form, for every state and operand that meet the clause's hypotheses. -/
def Obligations.ResetsAndRailsComplete : Prop :=
  -- POWER_ON_RESET (R493)
  (∀ (s : State) (straps : BitVec 7), Completes (.powerOnReset false straps) s fun t =>
    t.sys.porHold = true ∧ t.sys.inReset = true ∧ t.arr.zones = (arrOnDisk { s with sys := { s.sys with porHold := true } }).zones) ∧
  -- POWER_ON_RESET (R493)
  (∀ (s : State) (straps : BitVec 7), s.sys.porHold = true → s.pwr.railLow = 0 → s.pwr.railHigh = 0 → s.sys.rstLow = false → exec (.powerOnReset true straps) s = .next (deviceStart straps { s with sys := { s.sys with porHold := false } })) ∧
  -- RESET_N_QUALIFIED (R52)
  (∀ (s : State) , s.sys.rstLow = false → Completes .resetNQualified s fun t =>
    t.sys.rstLow = true ∧ t.sys.inReset = true) ∧
  -- RESET_N_RISE (R50)
  (∀ (s : State) (straps : BitVec 7), s.sys.rstLow = true → s.sys.porHold = false → exec (.resetNRise straps) s = .next (deviceStart straps { s with sys := { s.sys with rstLow := false } })) ∧
  -- RAIL_OUT_OF_WINDOW (R490)
  (∀ (s : State) (r : Fin 7) (below above : Bool), Live s → (below = true ∨ above = true) → s.pwr.railLow.getLsbD r.val = false → s.pwr.railHigh.getLsbD r.val = false → exec (.railOutOfWindow r below above) s = .next (pwrEvent r.val { s with pwr := { s.pwr with railLow := putBit s.pwr.railLow r.val below, railHigh := putBit s.pwr.railHigh r.val above } })) ∧
  -- RAIL_BROWNOUT (R490)
  (∀ (s : State) , Live s → s.sys.plActive = false → s.sys.phase = .ready → s.spn.hold = false → Completes .railBrownout s fun t =>
    let u := wakeForLoss (abortLanes (powerlossEntry { s with sys := { s.sys with plActive := true, phase := .powerloss } }))
    t = guardAll (if u.sys.refugeUnconsumed then u else { u with sys := { u.sys with refugeEpoch := u.spe.next, shares := buildShares u } })) ∧
  -- RAIL_RESET_LEVEL (R490)
  (∀ (s : State) (r : Fin 7), Completes (.railResetLevel r) s fun t =>
    t.sys.porHold = true ∧ t.sys.inReset = true ∧ t.pwr.railLow = (railWindow r true false s).pwr.railLow) ∧
  -- PWRFAIL_QUALIFIED (R316)
  (∀ (s : State) , Live s → s.sys.plActive = false → s.sys.phase = .ready → s.spn.hold = false → Completes .pwrfailQualified s fun t =>
    let u := wakeForLoss (abortLanes (powerlossEntry { s with sys := { s.sys with plActive := true, phase := .powerloss } }))
    t = guardAll (if u.sys.refugeUnconsumed then u else { u with sys := { u.sys with refugeEpoch := u.spe.next, shares := buildShares u } })) ∧
  -- REFUGE_WRITE (R318)
  (∀ (s : State) (l : LaneIx), Live s → s.sys.plActive = true → (s.sys.shares.any fun x => decide (x.lane = l) && !x.done) = true → guardCauses (setLane l { s.lane[l] with regs := regSet laneRows s.lane[l].regs 0 (laneReg s.lane[l] 0 ||| bitAt true 17) } s) l = 0 → domState s (12 + l.val) = .on → Completes (.refugeWrite l) s fun t =>
    t.sys.shares = s.sys.shares.map fun x => if x.lane = l then { x with done := true } else x) ∧
  -- REFUGE_DONE (R320)
  (∀ (s : State) , Live s → s.sys.plActive = true → (s.sys.shares.any fun x => !x.done) = false → exec (.refugeDone false) s = .next (unloadFall s)) ∧
  -- POWERLOSS_RECOVERY_RESET (R322)
  (∀ (s : State) , Live s → s.sys.plActive = true → s.srv.toList.all offDisk = true → Completes .powerlossRecoveryReset s fun t =>
    t.sys.plActive = false ∧ t.spn.state = .stopped)

/-- Each change of a pin in the state it is for answers the state its rule gives (R59, R60, R61, R134, R190). One clause for each command and form, for
every state and operand that meet the clause's hypotheses. -/
def Obligations.PinEventsComplete : Prop :=
  -- PERMIT_IN_FILTERED_HIGH (R59)
  (∀ (s : State) , Live s → s.sys.phase = .ready → s.spn.startPend = false → s.spn.state ≠ .fault → exec .permitInFilteredHigh s = .next ({ s with sys := { s.sys with permitIn := true } })) ∧
  -- PERMIT_IN_FILTERED_HIGH (R59)
  (∀ (s : State) , Live s → s.sys.phase = .safe → s.spn.startPend = false → Completes .permitInFilteredHigh s fun t =>
    t.sys.permitIn = true ∧ t.sys.permitEarned = true) ∧
  -- PERMIT_IN_FALL (R59)
  (∀ (s : State) , Live s → exec .permitInFall s = .next ({ s with sys := { s.sys with permitIn := false } })) ∧
  -- PERMIT_DELAY_EXPIRY (R60)
  (∀ (s : State) , Live s → s.sys.permitDelayOn = true → exec .permitDelayExpiry s = .next ({ s with sys := { s.sys with permitEarned := true, permitDelayOn := false } })) ∧
  -- ERR_OUT_MIN_EXPIRY (R61)
  (∀ (s : State) , Live s → exec .errOutMinExpiry s = .next ({ s with sys := { s.sys with errMin := false } })) ∧
  -- SHOCK_PIN_ASSERT (R134)
  (∀ (s : State) (n : Fin 2), exec (.shockPinAssert n false) s = .next ({ s with sys := { s.sys with snsInt := clearBit s.sys.snsInt n.val } })) ∧
  -- SHOCK_PIN_ASSERT (R134)
  (∀ (s : State) (n : Fin 2), Completes (.shockPinAssert n true) s fun t =>
    t.sys.snsInt = setBit s.sys.snsInt n.val) ∧
  -- PA_FAULT_ASSERT (R190)
  (∀ (s : State) (a : ActIx) (level : Bool), exec (.paFaultAssert a level) s = .next ({ s with sys := { s.sys with paFault := putBit s.sys.paFault a.val level } }))

/-- Each event of the PCIe link and each clock command in the state it is for answers the state its rule gives (R329, R334, R463, R464, R466, R494). One
clause for each command and form, for every state and operand that meet the clause's hypotheses. -/
def Obligations.LinkAndClockEventsComplete : Prop :=
  -- PERST_ASSERT (R334)
  (∀ (s : State) (c : CtlIx), Live s → portUsed s c = true → s.hif.ctl[c].perst = false → s.sys.plActive = false → s.sys.phase ≠ .dark → exec (.perstAssert c) s = .next (functionReset c (portEvent c 3 (linkGone c (setCtl c { s.hif.ctl[c] with perst := true } s))))) ∧
  -- PERST_DEASSERT (R494)
  (∀ (s : State) (c : CtlIx), Live s → portUsed s c = true → exec (.perstDeassert c) s = .next (setCtl c { s.hif.ctl[c] with perst := false } s)) ∧
  -- LINK_DOWN (R334)
  (∀ (s : State) (c : CtlIx), Live s → portUsed s c = true → s.hif.ctl[c].linkUp = true → s.sys.plActive = false → s.sys.phase ≠ .dark → exec (.linkDown c) s = .next (functionReset c (portEvent c 0 (linkGone c s)))) ∧
  -- FUNCTION_RESET (R334)
  (∀ (s : State) (c : CtlIx), Live s → portUsed s c = true → s.hif.ctl[c].linkUp = true → s.sys.plActive = false → s.sys.phase ≠ .dark → exec (.functionReset c) s = .next (Machine.functionReset c (portEvent c 4 s))) ∧
  -- L1_2_ENTRY (R329)
  (∀ (s : State) (c : CtlIx), Live s → portUsed s c = true → s.hif.ctl[c].linkUp = true → s.sys.plActive = false → s.sys.phase ≠ .dark → exec (.l12Entry c) s = .next (setPortDom c .retain (setCtl c { s.hif.ctl[c] with l12 := true } s))) ∧
  -- L1_2_EXIT (R329)
  (∀ (s : State) (c : CtlIx), Live s → portUsed s c = true → s.hif.ctl[c].l12 = true → s.sys.plActive = false → s.sys.phase ≠ .dark → exec (.l12Exit c) s = .next (setPortDom c .on (setCtl c { s.hif.ctl[c] with l12 := false } s))) ∧
  -- CRYSTAL_LOST (R463)
  (∀ (s : State) , s.sys.inReset = false → s.sys.phase ≠ .post → Completes .crystalLost s fun t =>
    t.clk.running = false ∧ t.clk.onBackup = true ∧ t.clk.restored = false) ∧
  -- CRYSTAL_RESTORED (R464)
  (∀ (s : State) (ppm : BitVec 16), Live s → s.clk.onBackup = true → s.clk.restored = false → Completes (.crystalRestored ppm) s fun t =>
    t.clk.running = true ∧ t.clk.restored = true ∧ t.clk.ppm = ppm) ∧
  -- CLK_REF_SELECT (R464)
  (∀ (s : State) (w : Word), Live s → bitOf w 0 = true → exec (.clkRefSelect w) s = .next ({ s with clk := { s.clk with regs := regWrite clkRows s.clk.regs false 0 w, onBackup := true } })) ∧
  -- CLK_REF_SELECT (R464)
  (∀ (s : State) (w : Word), Live s → bitOf w 0 = false → s.clk.onBackup = true → s.clk.restored = true → exec (.clkRefSelect w) s = .next ({ s with clk := { s.clk with regs := regWrite clkRows s.clk.regs false 0 w, onBackup := false, restored := false } })) ∧
  -- CLK_CLUSTER_FREQ (R466)
  (∀ (s : State) (c : Fin 3) (w : Word), Live s → 400 ≤ fld w 10 0 → fld w 10 0 ≤ 1600 → fld w 10 0 % 100 = 0 → exec (.clkClusterFreq c w) s = .next ({ s with clk := { s.clk with regs := regWrite clkRows s.clk.regs false (0x20 + 4 * c.val) w } }))

/-- Each row of the power states answers the state its rule gives (R298, R303, R304, R307, R309, R311, R312, R315, R456). One clause for each command and
form, for every state and operand that meet the clause's hypotheses. -/
def Obligations.PowerStatesComplete : Prop :=
  -- POST (R298)
  (∀ (s : State) (f : PostFindings), Live s → s.sys.phase = .post → f.romCrcOk = false → exec (.post f) s = .next ({ s with sys := { s.sys with phase := .dark } })) ∧
  -- POST (R298)
  (∀ (s : State) (f : PostFindings), Live s → s.sys.phase = .post → f.romCrcOk = true → f.bootCorePasses = true → safeStep s f (postRoles (postCores s f)) ≠ 0 → Completes (.post f) s fun t =>
    t.host = { s.host with critical := true } ∧ t.sys.phase = .safe) ∧
  -- POST (R298)
  (∀ (s : State) (f : PostFindings), Live s → s.sys.phase = .post → f.romCrcOk = true → f.bootCorePasses = true → safeStep s f (postRoles (postCores s f)) = 0 → bitOf s.sys.strap 6 = true → Completes (.post f) s fun t =>
    t.sys.phase = .spinup) ∧
  -- POST (R298)
  (∀ (s : State) (f : PostFindings), Live s → s.sys.phase = .post → f.romCrcOk = true → f.bootCorePasses = true → safeStep s f (postRoles (postCores s f)) = 0 → bitOf s.sys.strap 6 = false → Completes (.post f) s fun t =>
    t.sys.phase = .standby) ∧
  -- SAFE_COMMIT_RESET (R303)
  (∀ (s : State) , Live s → s.sys.phase = .safe → s.sys.safeCommit = true → Completes .safeCommitReset s fun t =>
    t = fullReset s ∧ t.mem = [] ∧ t.sys.phase = .post ∧ t.dma = Dma.reset ∧ t.hqm = Hqm.reset ∧ t.flt.spareUse = s.flt.spareSaved ∧ t.flt.failRec = s.flt.failRec) ∧
  -- SPINUP_START (R304)
  (∀ (s : State) , Live s → spindleIdle s.spn = true → s.sys.phase = .spinup → exec .spinupStart s = .next (guardAll (startSpindle s))) ∧
  -- CASTON_MEDIA (R307)
  (∀ (s : State) (sram : List (Nat × List (BitVec 8))), Live s → s.sys.phase = .spinup → s.spn.doneSent = true → allParked s = true → exec (.castonMedia (.load sram)) s = .next (guardAll (loadHeads true { placeTables sram s with
    sys := { (placeTables sram s).sys with phase := .caston, journalDone := false, pads := [.boot, .media] } }))) ∧
  -- CASTON_MEDIA (R307)
  (∀ (s : State) (sets : List SurfaceFind) (guard : Option (Nat × Nat × Nat)) (sram : List (Nat × List (BitVec 8))), Live s → s.sys.phase = .caston → s.sys.journalDone = false → exec (.castonMedia (.tables sets guard sram)) s = .next (guardAll (tablesRead sets guard sram s))) ∧
  -- READY (R309)
  (∀ (s : State) , Live s → s.sys.phase = .waking → headsReady s = true → s.stc.restored = true → Completes .ready s fun t =>
    let u := reachOp { s with sys := { s.sys with phase := .ready, spinRequested := false, refugeUnconsumed := false } }
    t = if shuttingDown u then { u with sys := { u.sys with phase := .bindoff .normal 1 } } else kick u) ∧
  -- BIND_OFF (R312)
  (∀ (s : State) (b : BindTrigger), Live s → s.sys.phase = .bindoff b 1 → (s.hif.flight.all fun f => decide (f.ctl = 3)) = true → s.hif.flushes = [] → (s.hif.fetched.all fun f => f.cmd.admin) = true → exec .bindOff s = .next (windowNote (window s) (guardAll { s with sys := { s.sys with phase := .bindoff b 2 } }))) ∧
  -- SHUTDOWN_NOTIFY (R311)
  (∀ (s : State) (c : CtlIx), Live s → portUsed s c = true → s.sys.plActive = false → s.hif.ctl[c].en = true → s.hif.ctl[c].shst = 0 → s.hif.ctl[c].role ≠ .standby → s.sys.phase = .ready → Completes (.shutdownNotify c false) s fun t =>
    t.sys.phase = .bindoff .normal 1 ∧ t.hif.ctl[c].shst = 1) ∧
  -- PS4_WAKE (R315)
  (∀ (s : State) , Live s → s.sys.phase = .parked .ps4 → s.sys.spinRequested = true → s.spn.startPend = false → spindleIdle s.spn = true → s.pwr.psTarget ≠ some 3 → exec .ps4Wake s = .next (guardAll (if spindleIdle (supplyFor (opTarget s) { s with sys := { s.sys with phase := .waking } }).spn then startSpindle (supplyFor (opTarget s) { s with sys := { s.sys with phase := .waking } }) else supplyFor (opTarget s) { s with sys := { s.sys with phase := .waking } }))) ∧
  -- PS3_WAKE (R456)
  (∀ (s : State) , Live s → s.sys.phase = .parked .ps3 → s.sys.spinRequested = true → allParked s = true → exec .ps3Wake s = .next (guardAll (loadHeads false (supplyFor (opTarget s) { s with sys := { s.sys with phase := .waking } }))))

/-- Each spindle row answers the state its rule gives (R63, R72, R73, R78, R79, R82, R86, R87, R88). One clause for each command and form, for every state
and operand that meet the clause's hypotheses. -/
def Obligations.SpindleComplete : Prop :=
  -- SPN_DECISION (R63)
  (∀ (s : State) (x : SpnSample), Live s → s.sys.plActive = false → x.mismatch = false → exec (.spnDecision x) s = .next (guardAll (let u := speedSteps (speedUnload (let v := missedCrossing x (observerCheck x { s with spn := advanceModels x (takeSamples x { s.spn with cur := s.spn.regs, speedQ := x.speedQ, dir := x.dir, speedValid := true }) })
      { v with spn := refreshOk v.spn }))
    { u with spn := refreshOk (if dtcState u.spn then driveBridge x u.spn else u.spn) }))) ∧
  -- SPN_START (R87)
  (∀ (s : State) (w : Word), Live s → bitOf w 1 = false → (bitOf (w ||| 1#32) 0 = true ∧ bitOf (w ||| 1#32) 1 = false) → exec (.spnStart w) s = .next (guardAll (spnStartCmd { s with spn := { s.spn with regs := regWrite spnRows s.spn.regs false 0 (w ||| 1#32) } }))) ∧
  -- SPN_STOP (R86)
  (∀ (s : State) (w : Word), Live s → (bitOf (w ||| 2#32) 0 = false ∧ bitOf (w ||| 2#32) 1 = true) → exec (.spnStop w) s = .next (guardAll (spnStopCmd { s with spn := { s.spn with regs := regWrite spnRows s.spn.regs false 0 (w ||| 2#32) } }))) ∧
  -- SPN_LOCK (R88)
  (∀ (s : State) (w : Word), Live s → (bitOf (w ||| 0x100#32) 0 = false ∧ bitOf (w ||| 0x100#32) 1 = false) → Completes (.spnLock w) s fun t =>
    t.spn = { s.spn with regs := regWrite spnRows s.spn.regs false 0 (w ||| 0x100#32) }) ∧
  -- BEMF_ZERO_CROSSING (R72)
  (∀ (s : State) (x : Crossing) (j : Fin 6), Live s → s.spn.state = .sensing → s.spn.pause = false → s.spn.coastWait = false → s.spn.reseeding = false → s.spn.lastCross = some j → x.at6 = j + 1 → s.spn.senseCross = 1 → Completes (.bemfZeroCrossing x) s fun t =>
    t.spn.state = .sensing ∧ t.spn.senseCross = 2 ∧ t.spn.dir = .forward ∧ t.spn.speedQ = 40000000 / (x.us * spnPoles s.spn) ∧ t.spn.lastCross = some (j + 1)) ∧
  -- SENSING_WINDOW_END (R72)
  (∀ (s : State) , Live s → s.spn.state = .sensing → s.spn.pause = false → s.spn.coastWait = false → s.spn.reseeding = false → s.spn.pairFailed = false → Completes .sensingWindowEnd s fun t =>
    t.spn = { s.spn with state := .aligning, bridge := .pulses, coasting := false, dir := .still, speedQ := 0 }) ∧
  -- INDUCTIVE_DETECT_DONE (R72)
  (∀ (s : State) (angle : Fin 12), Live s → s.spn.state = .aligning → Completes (.inductiveDetectDone angle) s fun t =>
    t.spn = { seedObserver (1600000 * angle.val) s.spn with state := .accelerating, bridge := .dtc, angle := angle, cleanCross := 0, residRun := 0, commEvents := 0 }) ∧
  -- BRAKE_PROBE (R72)
  (∀ (s : State) (speedQ : Nat), Live s → s.spn.state = .spindown → Completes (.brakeProbe speedQ .still) s fun t =>
    t.spn = { bridgeOff { s.spn with speedQ := speedQ, dir := .still, speedValid := true } with state := .stopped, wrOk := false, coasting := false }) ∧
  -- BRAKE_TIMEOUT (R72)
  (∀ (s : State) , Live s → s.spn.state = .braking → exec .brakeTimeout s = .next (guardAll (spindleFault 2 s))) ∧
  -- LOCKED_ROTOR (R73)
  (∀ (s : State) , Live s → s.spn.state = .aligning → exec .lockedRotor s = .next (guardAll (let u := spnEvent 9 { s with spn := { bridgeOff s.spn with wrOk := false } }
    if fld (spnCur u.spn 0x3C) 15 12 ≤ u.spn.retries then spindleFault 1 u
    else { u with spn := { u.spn with
      state := .sensing, pause := true, senseCross := 0, lastCross := none, retries := u.spn.retries + 1, attempt := u.spn.attempt + 1 } }))) ∧
  -- LOCKED_ROTOR_PAUSE_END (R73)
  (∀ (s : State) , Live s → s.spn.state = .sensing → s.spn.pause = true → exec .lockedRotorPauseEnd s = .next (guardAll { s with spn := { bridgeOff s.spn with state := .sensing, startPend := false, startNext := false, pause := false, coastWait := false, coasting := false, senseCross := 0, lastCross := none, matched := 0, sinceFirst := 0, commEvents := 0, wrOk := false, residRun := 0, doneSent := false } })) ∧
  -- RESYNC_TIMEOUT (R78)
  (∀ (s : State) , Live s → s.spn.state = .resync → exec .resyncTimeout s = .next (guardAll (coastNote (spnEvent 4 { s with spn := { bridgeOff s.spn with state := .restart, residRun := 0, cleanCross := 0, integral := 0, inRestart := true, retries := 0, catchFails := 0, attempt := 1, runLimit := false } })))) ∧
  -- RESTART_COAST_END (R78)
  (∀ (s : State) , Live s → s.spn.state = .restart → exec .restartCoastEnd s = .next (guardAll { s with spn := { bridgeOff s.spn with state := .sensing, startPend := false, startNext := false, pause := false, coastWait := false, coasting := false, senseCross := 0, lastCross := none, matched := 0, sinceFirst := 0, commEvents := 0, wrOk := false, residRun := 0, doneSent := false } })) ∧
  -- REFUGE_DELAY_EXPIRY (R79)
  (∀ (s : State) , Live s → s.spn.hold = true → s.spn.state = .resync → s.spn.refugeAsked = false → s.sys.plActive = false → s.sys.refugeUnconsumed = false → exec .refugeDelayExpiry s = .next ({ s with spn := { s.spn with refugeAsked := true }, sys := { s.sys with refugeEpoch := s.spe.next, shares := buildShares s } })) ∧
  -- RESEED_DONE (R82)
  (∀ (s : State) , Live s → s.spn.reseeding = true → s.spn.pairFailed = false → s.spn.state ≠ .limp → s.spn.stopHeld = false → exec (.reseedDone true) s = .next (guardAll (let u := spnEvent 7 { s with spn := { s.spn with reseeding := false, reseedOkAt := some s.sys.ms, limpGates := false, stopHeld := false } }
    let v := stcCond 0x31 0 (lockstepWord u) u
    if v.spn.state = .sensing ∧ v.spn.pause = false ∧ v.spn.coastWait = false then enterSensing v else v)))

/-- Each yarn clock command, with a selection whose head is qualified, and each yarn clock event answers the state its rule gives (R93, R94, R95, R97,
R98, R99, R100, R105, R106, R107, R117, R118). One clause for each command and form, for every state and operand that meet the clause's hypotheses. -/
def Obligations.YarnClockComplete : Prop :=
  -- YCK_ENABLE (R95)
  (∀ (s : State) (w : Word) (r : Regs), Live s → r = regWrite yckRows s.yck.regs false 0 (w ||| 1#32) → fld (w ||| 1#32) 2 1 = 0 → bitOf (yckReg s.yck 0) 8 = false → bitOf (yckReg s.yck 0) 0 = false → bitOf (w ||| 1#32) 0 = true → yckConfigOk { s.yck with regs := r, cur := regSet yckRows s.yck.cur 0 (regGet yckRows r 0), pendForce := none } = true → Completes (.yckEnable w) s fun t =>
    t.yck = { s.yck with regs := r, cur := regSet yckRows s.yck.cur 0 (regGet yckRows r 0), pendForce := none, running := true }) ∧
  -- YCK_SEL_FORCE (R100)
  (∀ (s : State) (w : Word) (r : Regs), Live s → r = regWrite yckRows s.yck.regs false 0 (setFld w 5 4 (fld (yckReg s.yck 0) 5 4)) → fld w 2 1 = 1 → s.yck.head[0].qual = true → some (0 : Fin 2) ≠ s.yck.active → bitOf (yckReg s.yck 0) 8 = true → bitOf (yckReg s.yck 0) 0 = bitOf (setFld w 5 4 (fld (yckReg s.yck 0) 5 4)) 0 → exec (.yckSelForce w) s = .next ({ s with yck := { s.yck with regs := r, cur := regSet yckRows s.yck.cur 0 (regGet yckRows r 0), pendForce := some 0 } })) ∧
  -- YCK_LOCK (R118)
  (∀ (s : State) (w : Word) (r : Regs), Live s → r = regWrite yckRows s.yck.regs false 0 (w ||| 0x100#32) → fld (w ||| 0x100#32) 2 1 = 0 → bitOf (yckReg s.yck 0) 8 = false → bitOf (yckReg s.yck 0) 0 = bitOf (w ||| 0x100#32) 0 → exec (.yckLock w) s = .next ({ s with yck := { s.yck with regs := r, cur := regSet yckRows s.yck.cur 0 (regGet yckRows r 0), pendForce := none } })) ∧
  -- YARN_HEAD_LOST (R93)
  (∀ (s : State) (h : Fin 2) (mv periods : Nat), Live s → s.yck.running = true → s.yck.head[h].locked = true → mv < fld (yckCur s.yck 0x18) 7 0 → fld (yckCur s.yck 0x18) 15 8 ≤ periods → exec (.yarnHeadLost h (.amplitude mv periods)) s = .next (let u := yarnLostW raise h s
    if u.yck.preamble ∧ s.yck.preamble = false then kick (stcCond 0x21 0 0 u) else u)) ∧
  -- YARN_HEAD_LOST (R93)
  (∀ (s : State) (h : Fin 2) (mv periods : Nat), Live s → fld (yckCur s.yck 0x18) 7 0 ≤ mv ∨ periods < fld (yckCur s.yck 0x18) 15 8 → exec (.yarnHeadLost h (.amplitude mv periods)) s = .next (s)) ∧
  -- YARN_HEAD_QUALIFIED (R94)
  (∀ (s : State) (h : Fin 2) (revs : Nat), Live s → fld (yckCur s.yck 0x1C) 7 0 ≤ revs → s.yck.running = true → yarnFit s.yck h = true → s.yck.head[h].locked = true → s.yck.head[h].qual = false → s.yck.active = none → s.yck.preamble = false → exec (.yarnHeadQualified h revs) s = .next (yckEvent (6 + h.val) { s with yck := { s.yck with head := s.yck.head.set h { locked := true, qual := true }, active := some h } })) ∧
  -- SWITCHOVER (R97)
  (∀ (s : State) (yofs : Nat) (h : Fin 2), Live s → s.yck.pendSwitch = some h → exec (.switchover 0 yofs) s = .next (stcCond 0x20 h.val 0 (yckEvent 2 { s with yck := { s.yck with active := some h, held := false, pendSwitch := none, yofs := yofs, slewing := false } }))) ∧
  -- FORCED_SWITCHOVER (R100)
  (∀ (s : State) (yofs : Nat) (h a : Fin 2), Live s → s.yck.pendForce = some h → s.yck.head[h].qual = true → s.yck.active = some a → a ≠ h → s.yck.pendSwitch = none → exec (.forcedSwitchover 0 yofs) s = .next (stcCond 0x20 h.val 0 (yckEvent 2 { s with yck := { s.yck with pendForce := none, active := some h, held := false, pendSwitch := none, yofs := yofs, slewing := false } }))) ∧
  -- TIMING_GUARD_FALL (R98)
  (∀ (s : State) , Live s → s.yck.pendSwitch = none → exec .timingGuardFall s = .next ({ s with yck := { s.yck with guardSector := false } })) ∧
  -- SLEW_DONE (R99)
  (∀ (s : State) , Live s → exec .slewDone s = .next ({ s with yck := { s.yck with slewing := false, guardSlew := false } })) ∧
  -- YARN_RETURN (R117)
  (∀ (s : State) (h : Fin 2), Live s → s.yck.pendReturn = some h → exec .yarnReturn s = .next (yckEvent 5 (guardAll { s with yck := { s.yck with active := some h, preamble := false, pendReturn := none, guardSector := true } }))) ∧
  -- GAUGE_ROW_MOVE (R105)
  (∀ (s : State) (l : LaneIx) (a : Nat), Live s → a = (yckReg s.yck (0x44 + 16 * l.val)).toNat → gaugeCrcOk s a = true → s.lane[l].pat.op = none → Completes (.gaugeRowMove l) s fun t =>
    t.yck.lane[l].rowOk = rowValid s a ∧ t.yck.lane[l].zone = rowZone s a ∧ t.yck.regs = regSet yckRows s.yck.regs (0x40 + 16 * l.val) (BitVec.ofNat 32 a) ∧ t.mem = s.mem) ∧
  -- GAUGE_UPDATE_APPLY (R106)
  (∀ (s : State) (wedge : Nat) (x : GaugeAcc) (d : Int), Live s → s.yck.acc = [x] → x.wedge = wedge → (x.sum.natAbs : Int) < 4 * (fld (yckReg s.yck 0x34) 23 16 : Int) * ((max 1 x.count : Nat) : Int) → d = clampInt (-(fld (yckReg s.yck 0x34) 15 8 : Int)) (fld (yckReg s.yck 0x34) 15 8) (Int.tdiv x.sum (((max 1 x.count : Nat) : Int) * 2 ^ fld (yckReg s.yck 0x34) 7 4)) → Completes (.gaugeUpdateApply wedge) s fun t =>
    let u := writeLE { s with yck := { s.yck with cur := s.yck.regs, acc := [] } } (x.row + 16 + 2 * wedge) 2 ((gaugeEntry s x.row wedge + d) % 65536).toNat
    t.mem = (writeLE u (x.row + 12) 4 (crc32c (gaugeBytes u x.row))).mem) ∧
  -- GAUGE_HOURLY_WRITE (R107)
  (∀ (s : State) , Live s → exec .gaugeHourlyWrite s = .next ({ s.yck.dirty.foldl (fun t a => gaugeSave a t) s with yck := { (s.yck.dirty.foldl (fun t a => gaugeSave a t) s).yck with dirty := [] } }))

/-- Each servo sample, each event of a servo engine and each event of an actuator port answers the state its rule gives (R119, R123, R133, R135, R137,
R139, R140, R141, R143). One clause for each command and form, for every state and operand that meet the clause's hypotheses. -/
def Obligations.ServoSamplesAndPortEventsComplete : Prop :=
  -- SERVO_SAMPLE (R123)
  (∀ (s : State) (a : ActIx) (x : WedgeRead) (e : EngIx), Live s → actAbsent s a = false → engineOf s.flt a.val = some e → s.port[a].driver = some e → s.port[a].heldFor = none → x.engineBad = false → x.eccCorr = false → s.srv[e].state ≠ .failed → exec (.servoSample a x) s = .next (windowNote (window s) (engineSample e a x { s with
      yck := { s.yck with cur := s.yck.regs }
      srv := s.srv.set e { s.srv[e] with cur := s.srv[e].regs, coarse := coarseNow { s with yck := { s.yck with cur := s.yck.regs } }, longest := max s.srv[e].longest x.step5 } }))) ∧
  -- SERVO_SAMPLE (R123)
  (∀ (s : State) (a : ActIx) (x : WedgeRead) (f : EngIx), Live s → actAbsent s a = false → engineOf s.flt a.val = none → s.port[a].driver = none → s.port[a].heldFor = some f → exec (.servoSample a x) s = .next (windowNote (window s) ({ s with
      yck := { s.yck with cur := s.yck.regs }
      port := s.port.set a (portHoldSample (fld (srvSet s.srv[f] 0x88) 11 0) s.port[a]) }))) ∧
  -- HALF_SAMPLE_PIEZO (R123)
  (∀ (s : State) (a : ActIx) (e : EngIx), Live s → s.port[a].driver = some e → sendsCommands s.srv[e] = true → srvPzEn s.srv[e] = true → actAbsent s a = false → Completes (.halfSamplePiezo a) s fun t =>
    let r := cascade pzSections (clampInt (-(2 ^ 23 - 1)) (2 ^ 23 - 1) (s.srv[e].ref - halfPredict s.srv[e])) s.srv[e]
    t = setSrv e { r.2 with uPz := clampInt (-(fld (srvReg s.srv[e] 0x50) 15 0 : Int)) (fld (srvReg s.srv[e] 0x50) 15 0) (r.1 + r.2.pzFf) } s) ∧
  -- SAM_MISS_RUN (R119)
  (∀ (s : State) (e : EngIx), Live s → exec (.samMissRun e) s = .next (setSrv e { (implausible e s).srv[e] with searching := true } (implausible e s))) ∧
  -- SERVO_IMPLAUSIBLE (R133)
  (∀ (s : State) (e : EngIx), Live s → s.srv[e].state = .follow → exec (.servoImplausible e) s = .next (srvEvent e 3 (setSrv e { modelFresh s.srv[e] with
      state := .hold
      ref := s.srv[e].lastPlausible
      play := none
      onTrack := false
      settled := false
      settleRun := 0
      plausRun := 0
      holdMet := false
      holdRun := 0
      inh := setBit s.srv[e].inh 2
      switchTo := none
      aim := none
      uFf := 0 } s))) ∧
  -- HOLD_TIMEOUT (R133)
  (∀ (s : State) (e : EngIx), Live s → s.srv[e].state = .hold → exec (.holdTimeout e) s = .next (windowNote (window s) (controlledUnload e (srvEvent e 9 (availChange e (fun v => { v with holdTmos := s.sys.ms :: v.holdTmos, reloading := true }) s))))) ∧
  -- ON_TRACK (R137)
  (∀ (s : State) (e : EngIx) (a : ActIx), Live s → s.srv[e].state = .settle → srvBind s.flt e.val = a.val → s.srv[e].aiming = none → exec (.onTrack e) s = .next (srvEvent e 0 (availChange e (fun x => { x with unavailable := false, reloading := false })
      (headReached a s.srv[e].head s.srv[e].missedHeads
        (setSrv e { s.srv[e] with state := .follow, onTrack := true, settled := true, aiming := none, missedHeads := [] } s))))) ∧
  -- LOAD_CAPTURE (R140)
  (∀ (s : State) (e : EngIx) (x : WedgeRead) (p : Int), Live s → s.srv[e].state = .loading → p = (measure { modelFresh s.srv[e] with wedge := none, searching := true } x).1 → exec (.loadCapture e x) s = .next (windowNote (window s) (setSrv e { modelFresh s.srv[e] with state := .capture, pos := p, ref := p, lastPlausible := p, aim := none, play := none, settleRun := 0, searching := true, wedge := some (wedgeAfter s x.wedge.val) } s))) ∧
  -- LOAD_TIMEOUT (R140)
  (∀ (s : State) (e : EngIx), Live s → s.srv[e].state = .loading → exec (.loadTimeout e) s = .next (controlledUnload e (srvEvent e 10 (availChange e (fun v => { v with loadFails := s.sys.ms :: v.loadFails, reloading := true }) s)))) ∧
  -- RETRACT_DONE (R140)
  (∀ (s : State) (e : EngIx), Live s → s.sys.unloadLow = true → s.srv[e].state = .unloading → exec (.retractDone e) s = .next (setSrv e { s.srv[e] with state := .parked, play := none, parkWait := false, idleAt := none, holdPend := false } s)) ∧
  -- PARK_CHECK (R140)
  (∀ (s : State) (e : EngIx), Live s → s.srv[e].state = .unloading → s.srv[e].parkWait = true → exec (.parkCheck e false) s = .next (setSrv e { s.srv[e] with state := .parked, play := none, parkWait := false, idleAt := none, lastCur := 0 } s)) ∧
  -- UNLOAD_N_FALL (R143)
  (∀ (s : State) , Live s → Completes .unloadNFall s fun t =>
    t.sys.unloadLow = true ∧ (∀ e : EngIx, s.srv[e].state = .follow → t.srv[e] = enterUnloading none s.srv[e])) ∧
  -- DL_FRAME_RECEIVE (R139)
  (∀ (s : State) (a : ActIx) (frame : BitVec 32) (e : EngIx), Live s → s.port[a].driver = some e → s.port[a].drop = 0 → frame.toNat % 256 = crc8 24 (frame.toNat / 256) 0 → frame.toNat / 256 % 16 = s.port[a].frame.toNat / 256 % 16 → frame.toNat / 256 / 2 ^ 22 ≠ 3 → Completes (.dlFrameReceive a frame) s fun t =>
    t.srv[e].dlCur = signed 18 (frame.toNat / 256 / 16) ∧ t.srv[e].dlStatus = frame.toNat / 256 / 2 ^ 22 ∧ t.srv[e].dlInvalid = 0 ∧ t.srv[e].dlValid = s.srv[e].dlValid + 1) ∧
  -- DL_FAULT (R139)
  (∀ (s : State) (e : EngIx), Live s → exec (.dlFault e) s = .next (windowNote (window s) (let u := srvEvent e 12 (setSrv e { s.srv[e] with inh := setBit s.srv[e].inh 5, dlValid := 0 } s)
    match drives u e with
    | some a => actInhibit a u
    | none => u))) ∧
  -- PORT_HOLD_EXPIRY (R141)
  (∀ (s : State) (a : ActIx) (e : EngIx), Live s → s.port[a].heldFor = some e → Completes (.portHoldExpiry a) s fun t =>
    t.port = s.port.set a { s.port[a] with retract := s.port[a].retract.orElse (fun _ => some 0) } ∧ t.flt = { s.flt with srvMap := setFld s.flt.srvMap (3 * e.val + 2) (3 * e.val) 5, failRec := { s.flt.failRec with engines := setBit s.flt.failRec.engines e.val } }) ∧
  -- PORT_HOLD_RETRACT (R141)
  (∀ (s : State) (e : EngIx) (w : Word), Live s → bitOf (w ||| 0x10000#32) 16 = true → (∀ a : ActIx, s.port[a].heldFor ≠ some e) → exec (.portHoldRetract e w) s = .next (setSrv e { s.srv[e] with regs := regSet srvRows s.srv[e].regs 0x88 ((w ||| 0x10000#32) &&& 0xFFF#32) } s)) ∧
  -- PORT_HOLD_RETRACT (R141)
  (∀ (s : State) (e : EngIx) (w : Word) (a : ActIx), Live s → bitOf (w ||| 0x10000#32) 16 = true → s.port[a].heldFor = some e → (∀ b : ActIx, s.port[b].heldFor = some e → b = a) → s.port[a].retract = none → srvBind s.flt 4 = 4 → exec (.portHoldRetract e w) s = .next ({ s with
      srv := s.srv.set e { s.srv[e] with regs := regSet srvRows s.srv[e].regs 0x88 ((w ||| 0x10000#32) &&& 0xFFF#32) }
      port := s.port.set a { s.port[a] with retract := some 0 } })) ∧
  -- SENSOR_READ (R135)
  (∀ (s : State) (r0 r1 : AccelRead), Live s → exec (.sensorRead r0 r1) s = .next (shockReading 1 r1 (shockReading 0 r0 { s with sns := { s.sns with accel := #v[r0, r1] } })))

/-- Each command written to a servo engine, in the state it is for, answers the state its rule gives (R129, R130, R136, R140, R143, R144). One clause for
each command and form, for every state and operand that meet the clause's hypotheses. -/
def Obligations.ServoCommandsComplete : Prop :=
  -- SRV_LOAD (R140)
  (∀ (s : State) (e : EngIx) (w : Word) (v : Srv), Live s → bitOf (setFld w 3 0 1) 4 = false → (bitOf (setFld w 3 0 1) 8 = false ∨ srvLocked s.srv[e] = true) → v = { s.srv[e] with regs := regWrite srvRows s.srv[e].regs false 0 (setFld w 3 0 1) } → s.sys.unloadLow = false → v.state = .parked → headFitted v (fld (srvSet v 0x0C) 26 24) = true → tableCrcOk s (srvSet v 0x5C).toNat 4 = true → exec (.srvLoad e w) s = .next (windowNote (window s) (setSrv e { v with
      state := .loading
      head := fld (srvSet v 0x0C) 26 24
      reader := fld (srvSet v 0x24) (2 * fld (srvSet v 0x0C) 26 24 + 1) (2 * fld (srvSet v 0x0C) 26 24)
      play := some (tableAt s (srvSet v 0x5C).toNat)
      searching := true
      wedge := none
      validRun := 0
      missRun := 0
      lastCur := 0
      onTrack := false
      settled := false
      aim := none
      parkWait := false
      idleAt := none } s))) ∧
  -- SRV_SEEK (R136)
  (∀ (s : State) (e : EngIx) (w : Word) (v : Srv) (a : Nat), Live s → bitOf (setFld w 3 0 2) 4 = false → (bitOf (setFld w 3 0 2) 8 = false ∨ srvLocked s.srv[e] = true) → v = { s.srv[e] with regs := regWrite srvRows s.srv[e].regs false 0 (setFld w 3 0 2) } → v.state = .follow → headFitted v (fld (srvSet v 0x0C) 26 24) = true → fld (srvSet v 0x0C) 26 24 = v.head → profileFor (setSrv e v s) (srvSet v 0x58) (trackPosSet v (fld (srvSet v 0x0C) 23 0) - v.ref) = some a → exec (.srvSeek e w) s = .next (windowNote (window s) (setSrv e (playProfile (setSrv e v s) v a (fld (srvSet v 0x0C) 23 0) v.ref (trackPosSet v (fld (srvSet v 0x0C) 23 0) - v.ref)) (setSrv e v s)))) ∧
  -- SRV_HOLD_CMD (R143)
  (∀ (s : State) (e : EngIx) (w : Word), Live s → bitOf (setFld w 3 0 3) 4 = false → (bitOf (setFld w 3 0 3) 8 = false ∨ srvLocked s.srv[e] = true) → s.srv[e].state = .idle → exec (.srvHoldCmd e w) s = .next (windowNote (window s) (setSrv e { s.srv[e] with regs := regWrite srvRows s.srv[e].regs false 0 (setFld w 3 0 3), holdPend := true } s))) ∧
  -- SRV_RELEASE_HOLD (R143)
  (∀ (s : State) (e : EngIx) (w : Word), Live s → bitOf (setFld w 3 0 4) 4 = false → (bitOf (setFld w 3 0 4) 8 = false ∨ srvLocked s.srv[e] = true) → exec (.srvReleaseHold e w) s = .next (windowNote (window s) (setSrv e { s.srv[e] with regs := regWrite srvRows s.srv[e].regs false 0 (setFld w 3 0 4), holdPend := false } s))) ∧
  -- SRV_UNLOAD (R140)
  (∀ (s : State) (e : EngIx) (w : Word) (v : Srv), Live s → bitOf (setFld w 3 0 5) 4 = false → (bitOf (setFld w 3 0 5) 8 = false ∨ srvLocked s.srv[e] = true) → v = { s.srv[e] with regs := regWrite srvRows s.srv[e].regs false 0 (setFld w 3 0 5) } → v.state = .follow → tableCrcOk s (srvSet v 0x60).toNat 4 = true → exec (.srvUnload e w) s = .next (windowNote (window s) (setSrv e { enterUnloading (some (tableAt s (srvSet v 0x60).toNat)) v with lastCur := 0 } s))) ∧
  -- SRV_SWAP_REQUEST (R130)
  (∀ (s : State) (e : EngIx) (w : Word), Live s → bitOf (setFld (setFld w 3 0 0) 4 4 1) 4 = true → fld (setFld (setFld w 3 0 0) 4 4 1) 3 0 = 0 → (bitOf (setFld (setFld w 3 0 0) 4 4 1) 8 = false ∨ srvLocked s.srv[e] = true) → s.srv[e].swapPend = false → exec (.srvSwapRequest e w) s = .next (windowNote (window s) (setSrv e { s.srv[e] with regs := regWrite srvRows s.srv[e].regs false 0 (setFld (setFld w 3 0 0) 4 4 1), swapPend := true, swapWait := 0 } s))) ∧
  -- SRV_LOCK (R144)
  (∀ (s : State) (e : EngIx) (w : Word), Live s → bitOf (setFld (setFld w 4 0 0) 8 8 1) 4 = false → fld (setFld (setFld w 4 0 0) 8 8 1) 3 0 = 0 → bitOf (setFld (setFld w 4 0 0) 8 8 1) 8 = true → srvLocked s.srv[e] = false → exec (.srvLock e w) s = .next (windowNote (window s) (Machine.srvLock e (setSrv e { s.srv[e] with regs := regWrite srvRows s.srv[e].regs false 0 (setFld (setFld w 4 0 0) 8 8 1) } s)))) ∧
  -- SRV_BANK_WRITE (R129)
  (∀ (s : State) (e : EngIx) (i : Fin 24) (k : Fin 8) (w : Word), Live s → s.srv[e].bankB = false → s.srv[e].swapPend = false → exec (.srvBankWrite e true i k w) s = .next (setSrv e { s.srv[e] with regs := regWrite srvRows s.srv[e].regs false (0x1800 + 32 * i.val + 4 * k.val) w } s))

/-- Each event of a lane's front end, decoder and error recovery answers the state its rule gives (R175, R177, R191, R200, R208, R209, R210, R212, R214).
One clause for each command and form, for every state and operand that meet the clause's hypotheses. -/
def Obligations.ReadPathCompletes : Prop :=
  -- LANE_TEMP_REFRESH (R177)
  (∀ (s : State) (celsius : Int), Live s → exec (.laneTempRefresh celsius) s = .next ({ s with lane := s.lane.map fun v => { v with temp := clampInt (-128) 127 celsius } })) ∧
  -- FE_READY (R177)
  (∀ (s : State) (l : LaneIx), Live s → s.lane[l].rdrOn ≠ 0 → exec (.feReady l) s = .next (setLane l { s.lane[l] with feReady := true } s)) ∧
  -- READER_FAIL (R175)
  (∀ (s : State) (l : LaneIx) (r : Fin 4), Live s → s.lane[l].pat.op = none → exec (.readerFail l r) s = .next (feEvent l 4 (setLane l { s.lane[l] with
      regs := regSet laneRows s.lane[l].regs 0x50 (laneReg s.lane[l] 0x50 ||| bitAt true (4 * fld (laneReg s.lane[l] 0) 7 5 + r.val))
      low := s.lane[l].low.set r true } s))) ∧
  -- PA_CMD_QUEUE (R191)
  (∀ (s : State) (l : LaneIx) (w : Word), Live s → s.lane[l].paQueue.length < 8 → exec (.paCmdQueue l w) s = .next (setLane l { s.lane[l] with paQueue := s.lane[l].paQueue ++ [BitVec.ofNat 16 (fld w 15 0)] } s)) ∧
  -- PA_FRAME_SEND (R191)
  (∀ (s : State) (l : LaneIx) (data : Byte) (f : BitVec 16) (rest : List (BitVec 16)), Live s → s.lane[l].paQueue = f :: rest → wgate s l = false → exec (.paFrameSend l data) s = .next (setLane l { s.lane[l] with paQueue := rest, paData := if f.getLsbD 15 then data.toNat else s.lane[l].paData } s)) ∧
  -- DECODE_ATTEMPT_DONE (R200)
  (∀ (s : State) (l : LaneIx) (x : DecodeResult) (e : Ladder) (p : TrackAt) (a : AttemptEnd), Live s → ladderAt s.lane[l] x.slot.val x.output.val = some e → e.rung = 1 → p = placeOf s.lane[l] x.output.val → a = attemptEnd s.media s.lane[l] x false → a.converged = true → x.id = expectedId s.media p x.slot.val → x.piOk = true → x.tapLimit = false → Completes (.decodeAttemptDone l x) s fun t =>
    let align := e.cands.headD ((syncFound (if s.yck.lane[l].timing = .yarn then 8 else 32) (fld (yckCur s.yck 0x30) 4 0) x.sync).getD 0)
    let v := markKnown s.lane[l] x.slot.val x.output.val ((a.iterations - 1) / max 1 (iterEach (zoneIter s.media p)))
    t = deliver l p x.slot.val x.output.val 1 (sectorReports l p x.slot.val x.output.val (decide (s.lane[l].modeOn = 2)) x.phaseErr align false true (setLane l v s))) ∧
  -- RAW_VERDICT (R214)
  (∀ (s : State) (l : LaneIx) (x : VerifyResult) (p : TrackAt) (z : ZoneDesc), Live s → p = s.lane[l].now.place → zoneOn s.media p.surface p.zone = some z → verifies s.lane[l] z x.reread = true → verifyPass s.lane[l] (decide (s.yck.lane[l].timing = .yarn)) (fld (yckCur s.yck 0x30) 4 0) z.rate (expectedId s.media p x.slot.val) x = true → exec (.rawVerdict l x) s = .next ({ s with media := { s.media with rewrite := s.media.rewrite.filter fun d => decide (d ≠ (⟨p.surface, p.zone, p.track, x.slot.val, false⟩ : Defect)) } })) ∧
  -- RAW_VERDICT (R214)
  (∀ (s : State) (l : LaneIx) (x : VerifyResult) (p : TrackAt) (z : ZoneDesc), Live s → p = s.lane[l].now.place → zoneOn s.media p.surface p.zone = some z → verifies s.lane[l] z x.reread = true → z.area = 0 → verifyPass s.lane[l] (decide (s.yck.lane[l].timing = .yarn)) (fld (yckCur s.yck 0x30) 4 0) z.rate (expectedId s.media p x.slot.val) x = false → exec (.rawVerdict l x) s = .next (addSlip l x.slot.val (if x.reread then 2 else 1) s.lane[l].row.slot s.lane[l].row.wgReq (decEvent l 4 s))) ∧
  -- DEEP_DECODE_REQUEST (R208)
  (∀ (s : State) (l : LaneIx) (slot : Fin 4096) (output : Fin 3) (e : Ladder), Live s → ladderAt s.lane[l] slot.val output.val = some e → e.rung = 1 → e.cands = [] → (fld (laneCur s.lane[l] 0x408) 19 18 = 0 ∨ (deepOn s.ddp 0 = false ∧ deepOn s.ddp 1 = false)) → exec (.deepDecodeRequest l slot output) s = .next (climb l e 3 s)) ∧
  -- DEEP_DECODE_REQUEST (R208)
  (∀ (s : State) (l : LaneIx) (slot : Fin 4096) (output : Fin 3) (e : Ladder), Live s → ladderAt s.lane[l] slot.val output.val = some e → e.rung = 1 → e.cands = [] → e.pinned = 0 → ¬ (fld (laneCur s.lane[l] 0x408) 19 18 = 0 ∨ (deepOn s.ddp 0 = false ∧ deepOn s.ddp 1 = false)) → ¬ 16 < s.lane[l].hold + slotsNeeded s.lane[l] → ¬ (fld (regGet ddpRows s.ddp.regs 0x80C) 13 8 ≤ s.ddp.queue.length ∨ 8 ≤ (s.ddp.queue.filter fun q => decide (q.lane = l)).length) → Completes (.deepDecodeRequest l slot output) s fun t =>
    t.ddp = poolServe { s.ddp with queue := s.ddp.queue ++ [{ lane := l, slot := slot.val, output := output.val, best := (e.best.map fun b => b.1).getD 0, place := e.place, head := s.lane[l].now.head }] } ∧ t.lane[l] = ladderPut s.lane[l] { e with rung := 2, pinned := slotsNeeded s.lane[l] }) ∧
  -- DEEP_WAIT_TIMEOUT (R208)
  (∀ (s : State) (l : LaneIx) (slot : Fin 4096) (output : Fin 3) (q : DeepReq) (e : Ladder), Live s → s.ddp.queue = [q] → (q.lane = l ∧ q.slot = slot.val ∧ q.output = output.val) → ladderAt s.lane[l] slot.val output.val = some e → exec (.deepWaitTimeout l slot output) s = .next (rung2Skip l e (ddpEvent 1 { s with ddp := { s.ddp with queue := [] } }))) ∧
  -- DEEP_DECODE_DONE (R209)
  (∀ (s : State) (d : Fin 2) (x : DeepResult) (q : DeepReq) (e : Ladder), Live s → s.ddp.running[d] = some q → ladderAt s.lane[q.lane] q.slot q.output = some e → deepAttempt s q x = none → exec (.deepDecodeDone d x) s = .next (climb q.lane e 3 { s with ddp := poolServe { s.ddp with running := s.ddp.running.set d none } })) ∧
  -- DEEP_DECODE_DONE (R209)
  (∀ (s : State) (d : Fin 2) (x : DeepResult) (q : DeepReq) (e : Ladder), Live s → s.ddp.running[d] = some q → ladderAt s.lane[q.lane] q.slot q.output = some e → (deepAttempt s q x).isSome = true → x.id = expectedId s.media e.place e.slot → x.piOk = true → Completes (.deepDecodeDone d x) s fun t =>
    let u := { s with ddp := poolServe { s.ddp with running := s.ddp.running.set d none } }
    t = deliver q.lane e.place q.slot q.output 2 (sectorReports q.lane e.place q.slot q.output (decide (s.lane[q.lane].modeOn = 2)) x.phaseErr q.best false true
      (setLane q.lane (markKnown s.lane[q.lane] q.slot q.output 0) u))) ∧
  -- RETRY_REVOLUTION (R210)
  (∀ (s : State) (l : LaneIx) (xs : List SectorTry) (e : Ladder), Live s → s.lane[l].ladder = [e] → e.rung = 3 → e.retries ≤ 8 → s.lane[l].pat.op = none → exec (.retryRevolution l xs) s = .next (retryEnd l e.place (retryOne l xs e (retrySet l e.place (e.retries + 1) s)))) ∧
  -- SELVAGE_DECODE (R212)
  (∀ (s : State) (l : LaneIx) (x : SelvageTry) (e : Ladder), Live s → s.lane[l].ladder = [e] → e.rung = 4 → e.output = x.output.val → (groupSlots s.media e.place x.group).contains e.slot = true → selvageOutcome s e.place x = some true → exec (.selvageDecode l x) s = .next (deliver l e.place e.slot e.output 4 (decEvent l 7 s))) ∧
  -- SELVAGE_DECODE (R212)
  (∀ (s : State) (l : LaneIx) (x : SelvageTry) (e : Ladder), Live s → s.lane[l].ladder = [e] → e.rung = 4 → e.output = x.output.val → (groupSlots s.media e.place x.group).contains e.slot = true → selvageOutcome s e.place x = none → exec (.selvageDecode l x) s = .next (climb l e 5 s))

/-- A Row word of each kind of next, read without a parity fault, with no breakpoint, no word fault and no servo span starting in it, performs its actions
(R221, R229, R233). One clause for each command and form, for every state and operand that meet the clause's hypotheses. -/
def Obligations.RowWordsComplete : Prop :=
  -- ROW_SEQ (R221)
  (∀ (s : State) (l : LaneIx) (x : RowSymbol) (w : BitVec 144), Live s → s.lane[l].row.state = .running → w = rowFetch s.lane[l].row s.lane[l].row.pc → badQuarters w = 0 → wf w 142 140 = 0 → wf w 112 112 = 0 → wordFault s l w x (rowCond s l w x) = none → exec (.rowSeq l x) s = .next (rowPerform l w x (rowCond s l w x) s)) ∧
  -- ROW_JMP (R221)
  (∀ (s : State) (l : LaneIx) (x : RowSymbol) (w : BitVec 144), Live s → s.lane[l].row.state = .running → w = rowFetch s.lane[l].row s.lane[l].row.pc → badQuarters w = 0 → wf w 142 140 = 1 → wf w 112 112 = 0 → wordFault s l w x (rowCond s l w x) = none → exec (.rowJmp l x) s = .next (rowPerform l w x (rowCond s l w x) s)) ∧
  -- ROW_BRT (R221)
  (∀ (s : State) (l : LaneIx) (x : RowSymbol) (w : BitVec 144), Live s → s.lane[l].row.state = .running → w = rowFetch s.lane[l].row s.lane[l].row.pc → badQuarters w = 0 → wf w 142 140 = 2 → wf w 112 112 = 0 → wordFault s l w x (rowCond s l w x) = none → exec (.rowBrt l x) s = .next (rowPerform l w x (rowCond s l w x) s)) ∧
  -- ROW_BRF (R221)
  (∀ (s : State) (l : LaneIx) (x : RowSymbol) (w : BitVec 144), Live s → s.lane[l].row.state = .running → w = rowFetch s.lane[l].row s.lane[l].row.pc → badQuarters w = 0 → wf w 142 140 = 3 → wf w 112 112 = 0 → wordFault s l w x (rowCond s l w x) = none → exec (.rowBrf l x) s = .next (rowPerform l w x (rowCond s l w x) s)) ∧
  -- ROW_DSP (R221)
  (∀ (s : State) (l : LaneIx) (x : RowSymbol) (w : BitVec 144), Live s → s.lane[l].row.state = .running → w = rowFetch s.lane[l].row s.lane[l].row.pc → badQuarters w = 0 → wf w 142 140 = 4 → wf w 112 112 = 0 → wordFault s l w x (rowCond s l w x) = none → exec (.rowDsp l x) s = .next (rowPerform l w x (rowCond s l w x) s)) ∧
  -- ROW_CALL (R221)
  (∀ (s : State) (l : LaneIx) (x : RowSymbol) (w : BitVec 144), Live s → s.lane[l].row.state = .running → w = rowFetch s.lane[l].row s.lane[l].row.pc → badQuarters w = 0 → wf w 142 140 = 5 → wf w 112 112 = 0 → wordFault s l w x (rowCond s l w x) = none → exec (.rowCall l x) s = .next (rowPerform l w x (rowCond s l w x) s)) ∧
  -- ROW_RET (R221)
  (∀ (s : State) (l : LaneIx) (x : RowSymbol) (w : BitVec 144), Live s → s.lane[l].row.state = .running → w = rowFetch s.lane[l].row s.lane[l].row.pc → badQuarters w = 0 → wf w 142 140 = 6 → wf w 112 112 = 0 → wordFault s l w x (rowCond s l w x) = none → exec (.rowRet l x) s = .next (rowPerform l w x (rowCond s l w x) s)) ∧
  -- ROW_WAIT (R221)
  (∀ (s : State) (l : LaneIx) (x : RowSymbol) (w : BitVec 144), Live s → s.lane[l].row.state = .running → w = rowFetch s.lane[l].row s.lane[l].row.pc → badQuarters w = 0 → wf w 142 140 = 7 → wf w 112 112 = 0 → wordFault s l w x true = none → rowCond s l w x = true → exec (.rowWait l x) s = .next (rowPerform l w x true s)) ∧
  -- ROW_WAIT (R221)
  (∀ (s : State) (l : LaneIx) (x : RowSymbol) (w : BitVec 144), Live s → s.lane[l].row.state = .running → w = rowFetch s.lane[l].row s.lane[l].row.pc → badQuarters w = 0 → wf w 142 140 = 7 → wf w 112 112 = 0 → wordFault s l w x false = none → rowCond s l w x = false → exec (.rowWait l x) s = .next (rowHold l w s)) ∧
  -- ROW_WAIT_TIMEOUT (R221)
  (∀ (s : State) (l : LaneIx), Live s → s.lane[l].row.state = .waiting → exec (.rowWaitTimeout l) s = .next (rowFault l 2 s)) ∧
  -- CUSTOMER_TIME_FAULT (R229)
  (∀ (s : State) (l : LaneIx), Live s → s.lane[l].row.state = .running → s.lane[l].row.inCust = true → exec (.customerTimeFault l) s = .next (rowFault l 11 s)) ∧
  -- ROW_RELOAD_DONE (R233)
  (∀ (s : State) (l : LaneIx) (a time : Nat), Live s → s.lane[l].row.state = .machineCheck → s.lane[l].row.errors = [(a, time)] → s.lane[l].pat.op = none → Completes (.rowReloadDone l) s fun t =>
    t.lane[l].row.state = (if bitOf (rowCtl s.lane[l]) 0 then .running else .stopped) ∧ t.lane[l].row.pc = 0 ∧ t.lane[l].parityHold = false)

/-- Each opcode at the front of a running sequencer's FIFO is taken and has its effect (R229, R237). One clause for each command and form, for every state
and operand that meet the clause's hypotheses. -/
def Obligations.OpcodesComplete : Prop :=
  -- OPCODE_IDLE (R237)
  (∀ (s : State) (l : LaneIx) (u : State), Live s → opTake l 0x00 s = some u → exec (.opcodeIdle l) s = .next (u)) ∧
  -- OPCODE_OP_BEGIN (R237)
  (∀ (s : State) (l : LaneIx) (u : State), Live s → s.lane[l].feReady = true → opTake l 0x01 s = some u → exec (.opcodeOpBegin l) s = .next (u)) ∧
  -- OPCODE_OP_END (R237)
  (∀ (s : State) (l : LaneIx) (u : State), Live s → atExported s.lane[l].row 0x02 = false → opTake l 0x02 s = some u → exec (.opcodeOpEnd l) s = .next (rowPost l 10 0 (setRow l { u.lane[l].row with wgReq := false, rdOpen := false, syncArmed := false } u))) ∧
  -- OPCODE_RD_RUN (R237)
  (∀ (s : State) (l : LaneIx) (xs : List ReadSlot) (u : State), Live s → atExported s.lane[l].row 0x10 = false → opTake l 0x10 s = some u → exec (.opcodeRdRun l xs) s = .next (readRun l xs u)) ∧
  -- OPCODE_RR_RUN (R237)
  (∀ (s : State) (l : LaneIx) (xs : List ReadSlot) (u : State), Live s → opTake l 0x11 s = some u → exec (.opcodeRrRun l xs) s = .next (readRun l xs (setRow l { u.lane[l].row with capture := 2 } u))) ∧
  -- OPCODE_WR_RUN (R237)
  (∀ (s : State) (l : LaneIx) (xs : List WriteSlot) (u : State), Live s → atExported s.lane[l].row 0x20 = false → opTake l 0x20 s = some u → exec (.opcodeWrRun l xs) s = .next (writeRun l 0x20 xs u)) ∧
  -- OPCODE_WR_SELV (R237)
  (∀ (s : State) (l : LaneIx) (xs : List WriteSlot) (u : State), Live s → opTake l 0x21 s = some u → exec (.opcodeWrSelv l xs) s = .next (writeRun l 0x21 (xs.take 4) u)) ∧
  -- OPCODE_GAP (R237)
  (∀ (s : State) (l : LaneIx) (u : State), Live s → atExported s.lane[l].row 0x30 = false → opTake l 0x30 s = some u → exec (.opcodeGap l) s = .next (setRow l { u.lane[l].row with cnt1 := 0 } u)) ∧
  -- OPCODE_GAP (R237)
  (∀ (s : State) (l : LaneIx) (a : Nat) (rest : List Nat), Live s → s.lane[l].row.state = .running → s.lane[l].row.pc = 0x058 → s.lane[l].row.stack = a :: rest → exec (.opcodeGap l) s = .next (setRow l { s.lane[l].row with cnt1 := 0, pc := a, stack := rest, acted := false } s)) ∧
  -- OPCODE_CUSTOMER (R229)
  (∀ (s : State) (l : LaneIx) (n : Fin 32) (u : State), Live s → opTake l (0xE0 + n.val) s = some u → bitOf (rowCtl s.lane[l]) 1 = true → exec (.opcodeCustomer l n) s = .next (setRow l { u.lane[l].row with pc := (dispatchEntry u.lane[l].row (0xE0 + n.val)).toNat % 4096, inCust := true, custPosted := false, state := .running } u))

/-- Each command of a lane's load port, pattern sequencer and darning store answers the state its rule gives (R229, R231, R236, R239, R242, R243). One
clause for each command and form, for every state and operand that meet the clause's hypotheses. -/
def Obligations.LaneProgramsComplete : Prop :=
  -- ROW_LOAD_WRITE (R229)
  (∀ (s : State) (l : LaneIx), Live s → s.lane[l].row.swapPend = false → ldOk s.lane[l] = true → bitOf (laneReg s.lane[l] 0x1030) 16 = false → s.lane[l].row.remap = [] → exec (.rowLoadWrite l) s = .next (writeLE (setRow l (storeSet s.lane[l].row (fld (laneReg s.lane[l] 0x1030) 11 0) (ldWord s.lane[l])) s) (shadowBase s.lane[l] + 24 * fld (laneReg s.lane[l] 0x1030) 11 0) 24 (ldWord s.lane[l]).toNat)) ∧
  -- ROW_LOAD_READBACK (R243)
  (∀ (s : State) (l : LaneIx), Live s → bitOf (laneReg s.lane[l] 0x1030) 16 = false → Completes (.rowLoadReadback l) s fun t =>
    let n := (rowFetch s.lane[l].row (fld (laneReg s.lane[l] 0x1030) 11 0)).toNat
    t = setLane l { s.lane[l] with regs := (List.range 5).foldl (fun rs i => regSet laneRows rs (0x1034 + 4 * i) (BitVec.ofNat 32 (n / 2 ^ (32 * i)))) s.lane[l].regs } s) ∧
  -- ROW_RUN (R243)
  (∀ (s : State) (l : LaneIx) (w : Word), Live s → bitOf (rowCtl s.lane[l]) 0 = false → bitOf (fldAt (fld (w ||| 1#32) 3 0) 3 0) 0 = true → bitOf (w ||| 1#32) 8 = false → laneBind s.flt l.val ≠ 5 → l ≠ 4 → Completes (.rowRun l w) s fun t =>
    t.lane[l].row.state = .running ∧ t.lane[l].row.pc = 0 ∧ t.lane[l].row.stack = []) ∧
  -- ROW_STOP (R243)
  (∀ (s : State) (l : LaneIx) (w : Word), Live s → bitOf (rowCtl s.lane[l]) 0 = true → bitOf (fldAt (fld (w &&& ~~~ 1#32) 3 0) 3 0) 0 = false → bitOf (w &&& ~~~ 1#32) 8 = false → Completes (.rowStop l w) s fun t =>
    t.lane[l].row.state = .stopped ∧ t.lane[l].row.wgReq = false ∧ t.lane[l].row.rdOpen = false ∧ t.lane[l].row.syncArmed = false) ∧
  -- CUST_EN_WRITE (R231)
  (∀ (s : State) (l : LaneIx) (w : Word), Live s → bitOf (setFld (rowCtl s.lane[l]) 1 1 (fld w 1 1)) 0 = bitOf (rowCtl s.lane[l]) 0 → exec (.custEnWrite l true w) s = .next (setLane l { s.lane[l] with regs := regSet laneRows s.lane[l].regs 0x1000 (setFld (rowCtl s.lane[l]) 1 1 (fld w 1 1)) } s)) ∧
  -- ROW_SWAP_REQUEST (R242)
  (∀ (s : State) (l : LaneIx) (w : Word), Live s → bitOf (w ||| 0x100#32) 8 = true → bitOf (fldAt (fld (w ||| 0x100#32) 3 0) 3 0) 0 = bitOf (rowCtl s.lane[l]) 0 → Completes (.rowSwapRequest l w) s fun t =>
    t.lane[l].row = { s.lane[l].row with swapPend := true }) ∧
  -- ROW_SWAP (R242)
  (∀ (s : State) (l : LaneIx), Live s → s.lane[l].row.swapPend = true → s.lane[l].pat.op = none → exec (.rowSwap l) s = .next (rowEvent l 8 (setRow l { loadStores s (laneReg s.lane[l] (if s.lane[l].row.shadow1 then 0x1020 else 0x1024)).toNat s.lane[l].row with shadow1 := !s.lane[l].row.shadow1, swapPend := false } s))) ∧
  -- PAT_OPERATION (R236)
  (∀ (s : State) (l : LaneIx) (x : PatStart) (ws : List Word) (taken : State) (d : OpDesc) (a surface usable mode : Nat) (z : Option ZoneDesc), Live s → s.lane[l].pat.state = .idle → (s.lane[l].ladder.any fun e => decide (3 ≤ e.rung)) = false → hqmTake (fld (laneReg s.lane[l] 0x1110) 13 0) s = some (ws, taken) → d = parseDesc ws → a = headRecord s.lane[l] d.head → surface = ((laneAct s.flt l).elim 24 fun y => surfaceOf y d.head) → z = zoneOn s.media surface d.zone → usable = usableReaders s s.lane[l] a d.head d.zone → mode = modeFor d.mode (tripleOk s d (z.getD (zoneDesc [])) surface a usable (refOfs s l) (s.yck.active.isSome && gaugeCrcOk s d.row.toNat && rowValid s d.row.toNat && !(z.getD (zoneDesc [])).preamble)) (combinedOk s (z.getD (zoneDesc [])) a usable (refOfs s l)) → descBad d z = false → headRecordOk s a = true → (z.isSome = false ∨ recVreader s a = (z.getD (zoneDesc [])).vreader) → d.rdrEn &&& recFitted s a = d.rdrEn → (d.kind ≠ 1 ∧ d.kind ≠ 3) → detEntryOk s s.lane[l] d.head d.zone mode = true → (usable ≠ 0 ∨ d.kind = 4) → exec (.patOperation l x) s = .next (patParity l x.parity (opSetup l d (z.getD (zoneDesc [])) mode usable surface a x taken))) ∧
  -- PAT_OPERATION (R236)
  (∀ (s : State) (l : LaneIx) (x : PatStart), Live s → s.lane[l].pat.state = .idle → hqmTake (fld (laneReg s.lane[l] 0x1110) 13 0) s = none → exec (.patOperation l x) s = .next (s)) ∧
  -- PAT_RUN (R243)
  (∀ (s : State) (l : LaneIx) (w : Word), Live s → bitOf w 0 = true → bitOf w 1 = false → s.lane[l].pat.state = .stopped → s.lane[l].pat.lost = none → Completes (.patRun l w) s fun t =>
    t.lane[l].pat.state = .idle ∧ t.lane[l].pat.op = s.lane[l].pat.op) ∧
  -- PAT_QUIESCE (R242)
  (∀ (s : State) (l : LaneIx) (w : Word), Live s → bitOf (w ||| 2#32) 0 = true → bitOf (w ||| 2#32) 1 = true → s.lane[l].pat.state = .idle → s.lane[l].pat.lost = none → exec (.patQuiesce l w) s = .next (patEvent l 5 (setLane l { s.lane[l] with regs := regSet laneRows s.lane[l].regs 0x1100 (fldAt (fld (w ||| 2#32) 1 0) 1 0), pat := { s.lane[l].pat with state := .quiesced } } s))) ∧
  -- DARN_WRITE (R239)
  (∀ (s : State) (l : LaneIx), Live s → s.lane[l].pat.state = .stopped → exec (.darnWrite l) s = .next (setPat l (darnSet s.lane[l] (fld (laneReg s.lane[l] 0x1114) 7 0) (BitVec.ofNat 64 ((laneReg s.lane[l] 0x1118).toNat + (laneReg s.lane[l] 0x111C).toNat * 2 ^ 32))) s)) ∧
  -- DARN_READBACK (R243)
  (∀ (s : State) (l : LaneIx), Live s → Completes (.darnReadback l) s fun t =>
    let w := (darnGet s.lane[l] (fld (laneReg s.lane[l] 0x1114) 7 0)).toNat
    t = setLane l { s.lane[l] with regs := regSet laneRows (regSet laneRows s.lane[l].regs 0x1118 (BitVec.ofNat 32 w)) 0x111C (BitVec.ofNat 32 (w / 2 ^ 32)) } s) ∧
  -- MATCH_WRITE (R239)
  (∀ (s : State) (l : LaneIx) (n : Fin 32) (w : Word), Live s → exec (.matchWrite l n w) s = .next (setPat l { s.lane[l].pat with staged := keyPut s.lane[l].pat.staged n.val (w &&& 0x80FF3FFF#32) } s)) ∧
  -- MATCH_APPLY (R239)
  (∀ (s : State) (l : LaneIx) (x : Nat × Word) (rest : List (Nat × Word)), Live s → s.lane[l].pat.state = .idle → s.lane[l].pat.staged = x :: rest → exec (.matchApply l) s = .next (patEvent l 6 (setLane l { s.lane[l] with regs := (x :: rest).foldl (fun rs e => regSet laneRows rs (0x1180 + 4 * e.1) e.2) s.lane[l].regs, pat := { s.lane[l].pat with staged := [] } } s)))

/-- Each event of the journal and of a stripe row, in the state it is for, answers the state its rule gives (R254, R255, R256, R258, R259, R260, R262,
R510). One clause for each command and form, for every state and operand that meet the clause's hypotheses. -/
def Obligations.JournalAndRowsComplete : Prop :=
  -- JRNL_APPEND (R254)
  (∀ (s : State) (w : Word), Live s → jTypes.contains (fld w 7 0) = true → fld w 15 8 < 4 → speOn s = true → exec (.jrnlAppend w) s = .next (jAppend (fld w 7 0) (stagePayload s (fld w 15 8)) s)) ∧
  -- JRNL_GROUP_ISSUE (R254)
  (∀ (s : State) (g : JGroup) (rest : List JGroup), Live s → speOn s = true → s.spe.stalled = false → s.sys.plActive = false → s.flt.warm = false → currentCount s.spe ≠ 0 → s.spe.groups = g :: rest → g.issued = false → g.closed = true → exec .jrnlGroupIssue s = .next ({ s with spe := { s.spe with groups := { g with closed := true, issued := true } :: rest } })) ∧
  -- JRNL_ACK (R254)
  (∀ (s : State) (w : Word), Live s → exec (.jrnlAck w) s = .next (kick (groupAck (fld w 1 0) (fld w 15 8) s))) ∧
  -- REPLICA_REPLACE (R255)
  (∀ (s : State) (i : Fin 3), Live s → s.spe.replica[i].current = true → s.spe.fill = none → Completes (.replicaReplace i) s fun t =>
    let u := settleJournal (speEvent 2 { s with spe := { s.spe with replica := s.spe.replica.set i { s.spe.replica[i] with current := false }, fill := none } })
    t = if u.spe.fill.isSome then u else startFill i u) ∧
  -- REPLICA_FILL_DONE (R255)
  (∀ (s : State) (i : Fin 3), Live s → s.spe.fill = some i → currentCount s.spe ≠ 0 → Completes .replicaFillDone s fun t =>
    let u := settleJournal (speEvent 3 { s with spe := { s.spe with replica := s.spe.replica.set i { s.spe.replica[i] with current := true }, fill := none } })
    t = kick (match freePlace u.spe with | some j => startFill j u | none => u)) ∧
  -- CHECKPOINT (R256)
  (∀ (s : State) , Live s → speOn s = true → s.sys.plActive = false → checkpointDue s = true → currentCount s.spe ≠ 0 → s.spn.hold = false → s.spe.rmw = [] → Completes (.checkpoint true) s fun t =>
    let u := jAppend 0x40 (packFields [(32, s.arr.version), (32, changedPages s.spe), (64, s.spe.next)]) s
    t = speEvent 1 { u with spe := { u.spe with live := u.spe.live.filter fun e => decide (s.spe.next ≤ e.seq), ckptBusy := false, stalled := false, ckptAt := u.sys.ms, ckptSeq := s.spe.next } }) ∧
  -- BIT_CLEAR_DELAY (R258)
  (∀ (s : State) (r : Nat), Live s → speOn s = true → (s.spe.dirty.any fun d => decide (d.region = r ∧ d.touched + 100 * fld (speReg s.spe 0x14) 31 24 ≤ s.sys.ms)) = true → regionQuiet s r = true → exec (.bitClearDelay r) s = .next (jAppend 2 (packFields ((32, r) :: List.replicate 10 (32, 0xFFFFFFFF))) s)) ∧
  -- ROW_VERIFIED (R259)
  (∀ (s : State) (n r : Nat) (z : Zone) (o : OpenRow) (u : State), Live s → u = assignTargets n s → zoneGet u n = some z → (u.spe.rows.find? fun o => decide (o.zone = n ∧ o.row = r)) = some o → logged n z u = false → rowComplete z r = true → mediaGo u n z r o.seq = true → unitsFree u z (List.range z.w) = true → Completes (.rowVerified n r) s fun t =>
    let a := jAppend 0x12 (packFields [(32, n), (16, r)]) (skipRow n z r (rowUnits z) u)
    let d := unfrog n z (makeDurable (rowKeys a n z r) false a)
    let c := { d with spe := { d.spe with rows := d.spe.rows.filter fun x => decide (¬ (x.zone = n ∧ x.row = r)) } }
    t = kick (if z.st = .full ∧ ¬ (c.spe.rows.any fun x => decide (x.zone = n)) then completeGroups n c else c)) ∧
  -- ROW_IDLE_TIMEOUT (R260)
  (∀ (s : State) (n r present : Nat) (z : Zone) (o : OpenRow) (u : State), Live s → u = assignTargets n s → zoneGet u n = some z → present = min (z.wp - r * 16 * dataUnits z.w) (16 * dataUnits z.w) → (u.spe.rows.find? fun o => decide (o.zone = n ∧ o.row = r)) = some o → logged n z u = false → rowTrigger u o = true → rowKeys u n z r ≠ [] → mediaGo u n z r o.seq = true → unitsFree u z ((presentUnits z r present).map Prod.fst) = true → Completes (.rowIdleTimeout n r) s fun t =>
    let l := logRecord (logActuator z r present) 32 u
    let a := jAppend 0x11 (packFields [(32, n), (16, r), (16, present), (8, logActuator z r present), (32, l.1)]) (skipRow n z r (presentUnits z r present) l.2)
    let d := unfrog n z (makeDurable (rowKeys u n z r) false a)
    t = kick { d with spe := { d.spe with rows := d.spe.rows.map fun x => if x.zone = n ∧ x.row = r then { x with partialTo := some present } else x } }) ∧
  -- RMW_ENTRIES_DURABLE (R262)
  (∀ (s : State) (n r u : Nat) (z : Zone) (o : Rmw), Live s → s.spe.rmw = [o] → (o.zone = n ∧ o.row = r ∧ o.unit = u) → zoneGet s n = some z → seqDurable s.spe o.seq = true → regionSet s.spe (regionOf n (r * 16 * dataUnits z.w + (if u = 0xFF then 0 else 16 * u) + o.first)) = true → exec (.rmwEntriesDurable n r u) s = .next (markGroups n .stale (rmwGroups s n r u o.first o.count) { s with spe := { s.spe with rmw := [{ o with computed := true }] } })) ∧
  -- RMW_VERIFIED (R262)
  (∀ (s : State) (n r u : Nat) (z : Zone) (o : Rmw) (x : State) (keys units : List Nat), Live s → x = assignTargets n s → zoneGet x n = some z → (x.spe.rmw.find? fun o => decide (o.zone = n ∧ o.row = r ∧ o.unit = u) && o.computed) = some o → keys = rmwKeys x n z o → units = (keys.map fun k => posOf z.w (k % 65536)).eraseDups ++ [posP z.w r, posQ z.w r] → logged n z x = false → mediaGo x n z r o.seq = true → unitsFree x z units = true → Completes (.rmwVerified n r u) s fun t =>
    let mask : BitVec 16 := (List.range o.count).foldl (fun m i => setBit m (o.first + i)) 0
    let a := jAppend 0x21 (packFields [(32, n), (16, r), (8, u)]) (skipRow n z r (units.map fun p => (p, mask)) x)
    let b := markGroups n .carries (rmwGroups a n r u o.first o.count) (unfrog n z (makeDurable keys false a))
    let v := keys.foldl (fun t k => lostRewritten n r (blockIn (k % 65536)) (posOf z.w (k % 65536)) t) b
    t = kick { v with spe := { v.spe with rmw := v.spe.rmw.filter fun x => decide (x ≠ o) } }) ∧
  -- SKIP_WALK_UNIT (R510)
  (∀ (s : State) (n r p : Nat) (z : Zone) (x : Skipped), Live s → zoneGet s n = some z → (s.arr.skipped.find? fun x => decide (x.zone = n ∧ x.row = r ∧ x.pos = p)) = some x → posUnreachable s z p = false → posGone s z p = false → ((List.range 16).all fun k => !x.offsets.getLsbD k || decide (missingAt s n z r k ≤ 2)) = true → timingFor s n z = .go → exec (.skipWalkUnit n r p) s = .next (kick (zmap n 0x2B [(32, n), (16, r), (8, p)] { s with arr := { s.arr with skipped := s.arr.skipped.filter fun y => decide (¬ (y.zone = n ∧ y.row = r ∧ y.pos = p)) } })))

/-- A reconstruction read and each command of the surface parity engine, in the state it is for, answers the state its rule gives (R264, R266, R270,
R271). One clause for each command and form, for every state and operand that meet the clause's hypotheses. -/
def Obligations.ReconstructionAndParityEngineComplete : Prop :=
  -- RECONSTRUCT_READ (R264)
  (∀ (s : State) (n o extra piBad : Nat) (z : Zone), Live s → zoneGet s n = some z → missingAt s n z (rowOf z.w o) (blockIn o) + (if posOut s n z (rowOf z.w o) (posOf z.w o) (blockIn o) then 0 else 1) + extra ≤ 2 → exec (.reconstructRead n o extra false piBad true) s = .next (handedBack n z o s)) ∧
  -- RECONSTRUCT_READ (R264)
  (∀ (s : State) (n o extra piBad : Nat) (verified : Bool) (z : Zone), Live s → zoneGet s n = some z → 2 < missingAt s n z (rowOf z.w o) (blockIn o) + (if posOut s n z (rowOf z.w o) (posOf z.w o) (blockIn o) then 0 else 1) + extra → ((List.range z.w).any fun q => posUnreachable s z q) = false → exec (.reconstructRead n o extra false piBad verified) s = .next (dropStitch n (rowOf z.w o) (blockIn o) 3 (BitVec.ofNat 24 (2 ^ posOf z.w o)) s)) ∧
  -- SPE_JOB (R271)
  (∀ (s : State) (piFail ecc : BitVec 16) (ws : List Word) (u : State), Live s → speOn s = true → bitOf (speReg s.spe 0) 1 = false → s.flt.warm = false → hqmTake (fld (speReg s.spe 0x10) 13 0) s = some (ws, u) → jobBad (fld (jobWord ws 0) 31 28) (fld (jobWord ws 0) 27 23) (fld (jobWord ws 0) 22 18) (fld (jobWord ws 0) 17 13) (fld (jobWord ws 0) 12 8) (fld (jobWord ws 0) 7 3) (fld (jobWord ws 0) 1 0) = false → ecc = 0 → Completes (.speJob piFail ecc) s fun t =>
    let r := jobColumns (fld (jobWord ws 0) 31 28) (fld (jobWord ws 0) 27 23) (fld (jobWord ws 0) 22 18) (fld (jobWord ws 0) 17 13) (fld (jobWord ws 0) 12 8) (fld (jobWord ws 4) 15 0) (fld (jobWord ws 0) 7 3) (jobWord ws 1).toNat (List.range (4096 * fld (jobWord ws 0) 7 3)) u
    t = if r.2 ≠ 0 then jobDone (jobWord ws 5) 1 r.2 (speEvent 6 r.1) else if bitOf (jobWord ws 0) 2 ∧ fld (jobWord ws 0) 31 28 = 3 ∧ piFail ≠ 0 then jobDone (jobWord ws 5) 2 piFail r.1 else jobDone (jobWord ws 5) 0 0 r.1) ∧
  -- SPE_ENABLE (R270)
  (∀ (s : State) (w : Word), Live s → Completes (.speEnable w) s fun t =>
    t.spe.regs = regWrite speRows s.spe.regs false 0 w ∧ t.spe.active = 0) ∧
  -- SPE_HALT (R270)
  (∀ (s : State) (w : Word), Live s → Completes (.speHalt w) s fun t =>
    t.spe.regs = regWrite speRows s.spe.regs false 0 (w ||| 2#32) ∧ t.spe.active = 0) ∧
  -- SPE_LOCK (R270)
  (∀ (s : State) (w : Word), Live s → Completes (.speLock w) s fun t =>
    t.spe.regs = regWrite speRows s.spe.regs false 0 (w ||| 0x100#32) ∧ t.spe.active = 0) ∧
  -- SPE_CAL_WRITE (R266)
  (∀ (s : State) (w : Word), Live s → (bitOf w 7 = false ∨ (fld w 4 0 < 24 ∧ calAllowed s (fld w 4 0) = true)) → exec (.speCalWrite w) s = .next ({ s with spe := { s.spe with regs := regWrite speRows s.spe.regs false 0x48 w } }))

/-- Each event of a member's or an actuator's life, of a rebuild, a migration, a reshape, a format conversion and the scrub answers the state its rule
gives (R273, R275, R276, R277, R280, R281, R287, R288, R291, R294, R295). One clause for each command and form, for every state and operand that meet
the clause's hypotheses. -/
def Obligations.MembersComplete : Prop :=
  -- SUSPECT_TRIGGER (R275)
  (∀ (s : State) (m : Fin 24) (c : SuspectCause), Live s → (suspectHolds s m c).1 = true → s.arr.member[m].state = .active → Completes (.suspectTrigger m c) s fun t =>
    let none_ := match c with | .readerFailed x => x | _ => false
    t = memberChange m .suspect s.arr.member[m].gen (suspectHolds s m c).2 (setMember m { s.arr.member[m] with suspectAt := s.stc.pos, noReader := s.arr.member[m].noReader || none_ } s)) ∧
  -- SUSPECT_EXPIRY (R273)
  (∀ (s : State) (m : Fin 24), Live s → s.arr.member[m].state = .suspect → s.arr.member[m].suspectAt + 604800 ≤ s.stc.pos → exec (.suspectExpiry m) s = .next (memberChange m .active s.arr.member[m].gen 0 (setMember m { s.arr.member[m] with withheld := false } s))) ∧
  -- FENCE_TRIGGER (R276)
  (∀ (s : State) (m : Fin 24) (c : FenceCause), Live s → (fenceHolds s m c).1 = true → exec (.fenceTrigger m c) s = .next (kick (fenceAll [m] (fenceHolds s m c).2 s))) ∧
  -- ACTUATOR_UNAVAILABLE (R277)
  (∀ (s : State) (a : ActIx) (c : ActCause), Live s → s.arr.avail[a].unavailable = false → actHolds s a c = true → engineOf s.flt a.val = none → exec (.actuatorUnavailable a c) s = .next (windowNote (window s) (kick ((List.finRange 3).foldl (fun t i => if t.spe.replica[i].member / 6 = a.val then replicaLost i t else t)
      ((membersOf (setAvail a { s.arr.avail[a] with unavailable := true, reloading := false, since := s.sys.ms } s) a).foldl (fun t m => Machine.suspectTrigger m .actuator t)
        (noteChange (setAvail a { s.arr.avail[a] with unavailable := true, reloading := false, since := s.sys.ms } s))))))) ∧
  -- ACTUATOR_RELOAD (R277)
  (∀ (s : State) (a : ActIx) (e : EngIx), Live s → s.arr.avail[a].reloading = true → s.sys.phase = .ready → engineOf s.flt a.val = some e → (s.srv.get e).state = .parked → s.sys.unloadLow = false → exec (.actuatorReload a) s = .next (srvLoad e s)) ∧
  -- ACTUATOR_RETRY_TIMER (R277)
  (∀ (s : State) (a : ActIx), Live s → s.arr.avail[a].unavailable = true → exec (.actuatorRetryTimer a) s = .next (kick (loadAgain a (if s.arr.avail[a].since + 600000 ≤ s.sys.ms then fenceAll (membersOf s a) 5 s else s)))) ∧
  -- REBUILD_ROW (R280)
  (∀ (s : State) (n r : Nat) (fails : List (Fin 16 × BitVec 24)) (z y : Zone), Live s → zoneGet s n = some z → mediaWork s = true → rebuildNext s = some n → r < writtenRows z → r = (if s.arr.cursor = n then s.arr.rowsDone else keyGet s.arr.rebuildAt n 0) → zoneGet (assignTargets n s) n = some y → ((List.range y.w).any (awaiting (assignTargets n s) n y)) = true → Completes (.rebuildRow n r fails) s fun t =>
    let u := assignTargets n s
    t = (List.range 16).foldl (fun t k =>
      let more := fails.foldl (fun (m : BitVec 24) x => if x.1.val = k then m ||| x.2 else m) 0
      let miss := missingMask t n y r k ||| more
      let count := ((List.range y.w).filter fun p => miss.getLsbD p).length
      if 3 ≤ count then dropStitch n r k 2 more t else t) { u with arr := { rebuildTurns n u.arr with cursor := n, rowsDone := r + 1 } }) ∧
  -- REBUILD_ZONE_DONE (R281)
  (∀ (s : State) (n : Nat) (z : Zone), Live s → zoneGet s n = some z → mediaWork s = true → rebuildNext s = some n → ¬ (writtenRows z ≠ 0 ∧ (s.arr.cursor ≠ n ∨ s.arr.rowsDone < writtenRows z)) → Completes (.rebuildZoneDone n) s fun t =>
    let u := (List.range z.w).foldl (fun t p =>
      if awaiting t n z p then
        let v := zmap n 0x22 [(32, n), (8, p)] t;
        noteChange { v with arr := { v.arr with commits := v.arr.commits ++ [(jNext t, .rebuilt n p)] } }
      else t) s
    t = spareDuty { u with arr := { u.arr with cursor := n + 1, rowsDone := 0, rebuildAt := keyDel u.arr.rebuildAt n } }) ∧
  -- FENCED_PROBE (R287)
  (∀ (s : State) (m : Fin 24), Live s → s.arr.member[m].state = .fenced → s.sys.phase = .ready → s.sys.plActive = false → (s.arr.avail.toList.getD (m.val / 6) .reset).unavailable = false → loaded s (m.val / 6) = true → exec (.fencedProbe m false) s = .next (setMember m { s.arr.member[m] with probes := 0 } s)) ∧
  -- FENCED_PROBE (R287)
  (∀ (s : State) (m : Fin 24), Live s → s.arr.member[m].state = .fenced → s.sys.phase = .ready → s.sys.plActive = false → (s.arr.avail.toList.getD (m.val / 6) .reset).unavailable = false → loaded s (m.val / 6) = true → s.arr.member[m].probes + 1 < 3 → exec (.fencedProbe m true) s = .next (setMember m { s.arr.member[m] with probes := s.arr.member[m].probes + 1 } s)) ∧
  -- FENCED_PROBE (R287)
  (∀ (s : State) (m : Fin 24), Live s → s.arr.member[m].state = .fenced → s.sys.phase = .ready → s.sys.plActive = false → (s.arr.avail.toList.getD (m.val / 6) .reset).unavailable = false → loaded s (m.val / 6) = true → s.arr.member[m].probes = 2 → s.arr.member[m].returned = false → exec (.fencedProbe m true) s = .next (noteChange (stcCond 0x10 m.val (BitVec.ofNat 32 s.arr.member[m].gen) (setMember m { s.arr.member[m] with probes := 3, returned := true } s)))) ∧
  -- REQUAL_SWATCH_DONE (R288)
  (∀ (s : State) (m : Fin 24), Live s → s.arr.member[m].state = .qualifying → s.arr.member[m].swatched = false → mediaWork s = true → exec (.requalSwatchDone m true) s = .next (setMember m { s.arr.member[m] with swatched := true } s)) ∧
  -- REQUAL_VERIFY_DONE (R288)
  (∀ (s : State) (m : Fin 24) (written failed wedges extra : Nat), Live s → s.arr.member[m].state = .qualifying → s.arr.member[m].swatched = true → s.arr.member[m].noReader = false → mediaWork s = true → 10000 * failed < written → 1000 * extra < wedges → Completes (.requalVerifyDone m written failed wedges extra) s fun t =>
    let v := { s.arr.member[m] with requalRate := 10000 * failed / written }
    t = vendorEvent 0xC4 (memberChange m .spare s.arr.member[m].gen 0 (setMember m { v with requalResult := 1, swatched := false, returned := false } (setMember m v s)))) ∧
  -- MIGRATE_ZONE (R288)
  (∀ (s : State) (n : Nat) (m : Fin 24) (r : Nat × Nat), Live s → s.arr.member[m].standing = true → s.arr.member[m].state = .spare → rebuildActive s = false → mediaWork s = true → migrationRecord s m.val = some r → Completes (.migrateZone n m) s fun t =>
    let moving (t : State) (n p : Nat) : Bool := t.arr.commits.any fun c => decide (c.2 = .migrated n p m.val s.arr.member[m].gen)
    let u := (recordTargets s r).foldl (fun t x =>
      if x.1 = n ∧ migrateOk t x.2.1 x.2.2 m.val ∧ moving t n x.2.2.pos = false then
        let e := freeNext t
        let place := ((newPlace e.2.media m.val (memberBlocks x.2.1.w) x.2.1.conv).map fun y => y.1.first).getD e.1.toNat
        let v := zmap n 0x23 [(32, n), (8, x.2.2.pos), (8, m.val), (24, place)] e.2
        let w := v.arr.member[m]
        setMember m { w with frog := w.frog.filter fun f => decide (¬ (f.zone = n ∧ f.pos = x.2.2.pos)) }
          { v with arr := { v.arr with commits := v.arr.commits ++ [(jNext t, .migrated n x.2.2.pos m.val s.arr.member[m].gen)] } }
      else t) s
    t = if (recordTargets u r).any fun x => migrateOk u x.2.1 x.2.2 m.val && !moving u x.1 x.2.2.pos then u else memberChange m .active s.arr.member[m].gen 0 (setMember m { u.arr.member[m] with standing := false } u)) ∧
  -- RESHAPE_ZONE (R291)
  (∀ (s : State) (f : CopyFind) (r : Reshape) (n : Nat) (z : Zone), Live s → s.arr.reshape = some r → reshapeNext s r = some n → zoneGet s n = some z → mediaWork s = true → s.arr.commits = [] → s.yck.preamble = false → (r.copying.map Prod.fst) ≠ some n → rebuildActive s = false → z.st = .empty → Completes (.reshapeZone f) s fun t =>
    let u := zmap n 0x25 [(32, n), (8, r.w), (8, r.c), (24, memberMask []), (32, (r.zones[if r.zones[r.boundary]? = some n then r.boundary + 1 else r.boundary]?).getD 0)] s
    t = { u with arr := { u.arr with commits := u.arr.commits ++ [(jNext s, .switched n { z with w := r.w, c := r.c, place := [], targets := [] } none)], reshape := some { r with copying := none } } }) ∧
  -- FORMAT_CONVERSION (R294)
  (∀ (s : State) (n : Nat) (z : Zone), Live s → zoneGet s n = some z → mediaWork s = true → s.arr.commits = [] → z.place ≠ [] → (s.arr.converting.find? fun x => decide (x.1 = n)) = none → z.degraded = true → (s.arr.converting.any fun x => decide (x.1 ≠ n) && ((zoneGet s x.1).map fun y => y.degraded).getD false) = false → s.yck.preamble = false → s.yck.active.isSome = true → s.arr.reshape = none → Completes (.formatConversion n .begin) s fun t =>
    let r := zoneLockIf z.conv 0 n true s
    t = { r.2 with arr := { r.2.arr with converting := r.2.arr.converting ++ [(n, r.1)] } }) ∧
  -- SCRUB_ROW (R295)
  (∀ (s : State) (n r : Nat) (z : Zone), Live s → zoneGet s n = some z → mediaWork s = true → z.place ≠ [] → r < writtenRows z → (rebuildActive s = false ∨ suspectZone s z = true) → scrubMay s n r = true → scrubNext s = some (n, r) → exec (.scrubRow n r .clean) s = .next ({ s with arr := { s.arr with scrubAt := some (n, r) } }))

/-- A command fetched, a controller enabled, disabled or attached, a role change and the subsystem reset answer the state their rules give (R330, R332,
R334, R335, R354, R355, R362, R363, R366, R367). One clause for each command and form, for every state and operand that meet the clause's hypotheses. -/
def Obligations.HostLinkCompletes : Prop :=
  -- COMMAND_FETCH (R354)
  (∀ (s : State) (c : CtlIx) (k : RawCmd), Live s → fetchOk s c.val (!k.admin) = true → (if k.admin then adminOpcodes.contains k.opcode.val else ioOpcodes.contains k.opcode.val) = false → exec (.commandFetch c k) s = .next (complete c.val s.hif.fseq .invalidOpcode 0 0 [] { s with hif := { s.hif with fseq := s.hif.fseq + 1 } })) ∧
  -- COMMAND_FETCH (R354)
  (∀ (s : State) (c : CtlIx) (k : RawCmd), Live s → fetchOk s c.val (!k.admin) = true → k.admin = true → adminOpcodes.contains k.opcode.val = true → cmdRing s c = none → exec (.commandFetch c k) s = .next ({ s with hif := { s.hif with fseq := s.hif.fseq + 1, fetched := s.hif.fetched ++ [{ fseq := s.hif.fseq, ctl := c.val, cmd := k }] } })) ∧
  -- RANGE_LOCK_RELEASE (R355)
  (∀ (s : State) (n : Nat), Live s → (s.hif.flight.any (fun f => decide (f.fseq = n)) || s.hif.fetched.any (fun f => decide (f.fseq = n)) || lockBusy s n) = false → (s.hif.locks.any fun l => decide (l.fseq = n) && l.modify && !lockDurable s l) = false → exec (.rangeLockRelease n) s = .next (kick (unlock n s))) ∧
  -- COMPLETION_POST (R363)
  (∀ (s : State) , Live s → exec .completionPost s = .next (kick s)) ∧
  -- COMPLETION_POST (R363)
  (∀ (s : State) (f : InFlight) (v : Namespace), Live s → s.sys.phase = .ready → s.sys.plActive = false → s.flt.warm = false → s.hif.flight = [f] → f.phase = .waiting → f.io.kind = .write → f.ctl ≠ 3 → nsGet s f.io.ns = some v → refusedNow s v f.io = false → coastClear s = true → unprotected s + undurable s (ioKeys v f.io) ≤ window s → s.host.eraseWait = [] → s.hif.flushes = [] → exec .completionPost s = .next (complete f.ctl f.fseq .success 0 0 [] (ackBlocks (ioKeys v f.io) s))) ∧
  -- HOLD_LIMIT_EXPIRY (R362)
  (∀ (s : State) (n : Nat) (f : InFlight), Live s → (s.hif.flight.find? fun f => decide (f.fseq = n)) = some f → overLimit s f = true → exec (.holdLimitExpiry n) s = .next (kick (complete f.ctl n .namespaceNotReady 0 0 [] s))) ∧
  -- HOLD_LIMIT_EXPIRY (R362)
  (∀ (s : State) (f : InFlight), Live s → s.sys.phase = .ready → s.hif.flight = [f] → f.phase = .held → f.at_ + holdLimit s f.io ≤ s.sys.ms → s.host.eraseWait = [] → s.hif.flushes = [] → exec (.holdLimitExpiry f.fseq) s = .next (complete f.ctl f.fseq .namespaceNotReady 0 0 [] s)) ∧
  -- CC_EN_SET (R330)
  (∀ (s : State) (c : CtlIx), Live s → portUsed s c = true → s.sys.plActive = false → s.sys.phase ≠ .dark → s.hif.ctl[c].en = false → s.hif.ctl[c].linkUp = true → s.sys.phase ≠ .post → Completes (.ccEnSet c 6 4) s fun t =>
    let u := setCtl c { s.hif.ctl[c] with en := true, rdy := true, shst := 0, rejoin := false } s
    t = giveRole c (if s.hif.ctl[c].rejoin ∨ holdsAttachment u.hif.ctl[peer c] = false then .attached else .standby) u) ∧
  -- CC_EN_CLEAR (R366)
  (∀ (s : State) (c : CtlIx), Live s → portUsed s c = true → s.sys.plActive = false → s.sys.phase ≠ .dark → s.hif.ctl[c].en = true → Completes (.ccEnClear c) s fun t =>
    let u := resetController c (abandonCommands c s)
    t = fwAtReset (takeRole c .none (setCtl c { u.hif.ctl[c] with rejoin := decide (s.hif.ctl[c].role = .attached) || decide (s.hif.ctl[c].waiting = some .attached), waiting := none } u))) ∧
  -- REJOIN_WINDOW_EXPIRY (R334)
  (∀ (s : State) (c : CtlIx), Live s → portUsed s c = true → s.sys.plActive = false → s.sys.phase ≠ .dark → s.hif.ctl[c].rejoin = true → exec (.rejoinWindowExpiry c) s = .next (depart c false s)) ∧
  -- ATTACH_REQUEST (R332)
  (∀ (s : State) (c : CtlIx) (w : Word), Live s → portUsed s c = true → s.sys.plActive = false → s.sys.phase ≠ .dark → bitOf w 0 = false → exec (.attachRequest c w) s = .next (setCtl c { s.hif.ctl[c] with force := bitOf w 1, auto := bitOf w 2 } s)) ∧
  -- PARTNER_DEPART (R335)
  (∀ (s : State) (c : CtlIx), Live s → portUsed s c = true → s.sys.plActive = false → s.sys.phase ≠ .dark → departCause s.hif.ctl[c] = true → exec (.partnerDepart c) s = .next (depart c false s)) ∧
  -- ROLE_CHANGE (R332)
  (∀ (s : State) (c : CtlIx) (r : CtlRole), Live s → portUsed s c = true → s.sys.plActive = false → s.sys.phase ≠ .dark → s.hif.ctl[c].waiting = some r → activationHold s = false → s.hif.ctl[c].en = true → r = .standby → s.hif.ctl[c].attach ≠ 3 → exec (.roleChange c) s = .next (takeRole c r s)) ∧
  -- NSSR (R367)
  (∀ (s : State) (c : CtlIx), Live s → portUsed s c = true → s.sys.plActive = false → s.sys.phase ≠ .dark → s.hif.ctl[c].linkUp = true → exec (.nssr c 0x4E564D65#32) s = .next (subsystemReset s))

/-- Each of these commands, taken from a controller's queue outside standby and Safe Mode, completes as its rule says (R341, R377, R455). One clause for
each command and form, for every state and operand that meet the clause's hypotheses. -/
def Obligations.IdentifyLogsAndFeaturesComplete : Prop :=
  -- IDENTIFY (R341)
  (∀ (s : State) (c : CtlIx) (cns csi ns cntid : Nat) (n : Nat) (u : State), Live s → startOk s c.val true 0x06 0 0 0 = true → takeNumber c.val true 0x06 0 0 0 s = (n, u) → u.sys.phase ≠ .safe → u.hif.ctl[c].role ≠ .standby → exec (.identify c cns csi ns cntid) s = .next (identifyCmd c.val cns csi ns cntid n u)) ∧
  -- GET_LOG_PAGE (R341)
  (∀ (s : State) (c : CtlIx) (lid : Nat) (rae : Bool) (offset bytes : Nat) (n : Nat) (u : State), Live s → startOk s c.val true 0x02 0 0 0 = true → takeNumber c.val true 0x02 0 0 0 s = (n, u) → u.sys.phase ≠ .safe → u.hif.ctl[c].role ≠ .standby → logServed u c.val lid = true → Completes (.getLogPage c lid rae offset bytes) s fun t =>
    let r := logPage lid u
    t = complete c.val n .success 0 0 [r.1 / 256 ^ offset % 256 ^ bytes] (if rae then r.2 else readEvents (actingCtl c.val) lid r.2)) ∧
  -- SET_FEATURES (R341)
  (∀ (s : State) (c : CtlIx) (save : Bool) (v data : Nat) (n : Nat) (u : State), Live s → startOk s c.val true 0x09 0 0 0 = true → takeNumber c.val true 0x09 0 0 0 s = (n, u) → u.sys.phase ≠ .safe → u.hif.ctl[c].role ≠ .standby → featureServed u 0x02 = true → exec (.setFeatures c 0x02 save v data) s = .next (powerCmd c.val v n u)) ∧
  -- SET_FEATURES (R341)
  (∀ (s : State) (c : CtlIx) (save : Bool) (v data : Nat) (n : Nat) (u : State), Live s → startOk s c.val true 0x09 0 0 0 = true → takeNumber c.val true 0x09 0 0 0 s = (n, u) → u.sys.phase ≠ .safe → u.hif.ctl[c].role ≠ .standby → featureServed u 0x07 = true → exec (.setFeatures c 0x07 save v data) s = .next (complete c.val n .success (queueGrant v) 0 [] (putFeature (featureSlot (actingCtl c.val).val 0x07 v) 7 (queueGrant v) save u))) ∧
  -- GET_FEATURES (R341)
  (∀ (s : State) (c : CtlIx) (fid sel v : Nat) (n : Nat) (u : State), Live s → startOk s c.val true 0x0A 0 0 0 = true → takeNumber c.val true 0x0A 0 0 0 s = (n, u) → u.sys.phase ≠ .safe → u.hif.ctl[c].role ≠ .standby → featureServed u fid = true → fid ≠ 0xC3 → fid ≠ 0x0C → fid ≠ 0x0E → exec (.getFeatures c fid sel v) s = .next (complete c.val n .success (selectFeature u (featureSlot (actingCtl c.val).val fid v) fid sel) 0 [] u)) ∧
  -- POWER_MANAGEMENT (R455)
  (∀ (s : State) (c : CtlIx) (v : Nat) (n : Nat) (u : State), Live s → startOk s c.val true 0x09 0 0 0 = true → takeNumber c.val true 0x09 0 0 0 s = (n, u) → u.sys.phase ≠ .safe → u.hif.ctl[c].role ≠ .standby → v % 32 ≤ 4 → exec (.powerManagement c v) s = .next (nextPs (u.host.pmWait.length + 1) { u with host := { u.host with pmWait := u.host.pmWait ++ [(c.val, n, v % 32)] } })) ∧
  -- LAYOUT_DEFAULTS (R377)
  (∀ (s : State) (c : CtlIx) (save : Bool) (v : Nat) (n : Nat) (u : State), Live s → startOk s c.val true 0x09 0 0 0 = true → takeNumber c.val true 0x09 0 0 0 s = (n, u) → u.sys.phase ≠ .safe → u.hif.ctl[c].role ≠ .standby → layoutOk u v = true → exec (.layoutDefaults c save v) s = .next (complete c.val n .success 0 0 [] (putFeature 0xC0 0xC0 v save u))) ∧
  -- SCRUB_SCHEDULE (R377)
  (∀ (s : State) (c : CtlIx) (save : Bool) (v : Nat) (n : Nat) (u : State), Live s → startOk s c.val true 0x09 0 0 0 = true → takeNumber c.val true 0x09 0 0 0 s = (n, u) → u.sys.phase ≠ .safe → u.hif.ctl[c].role ≠ .standby → scrubOk v = true → exec (.scrubSchedule c save v) s = .next (complete c.val n .success 0 0 [] (putFeature 0xC1 0xC1 v save u))) ∧
  -- SPIN_UP_PERMIT_POLICY (R377)
  (∀ (s : State) (c : CtlIx) (save : Bool) (v : Nat) (n : Nat) (u : State), Live s → startOk s c.val true 0x09 0 0 0 = true → takeNumber c.val true 0x09 0 0 0 s = (n, u) → u.sys.phase ≠ .safe → u.hif.ctl[c].role ≠ .standby → permitOk v = true → exec (.spinUpPermitPolicy c save v) s = .next (complete c.val n .success 0 0 [] (putFeature 0xC2 0xC2 v save u))) ∧
  -- PROTECTED_WRITE_WINDOW (R377)
  (∀ (s : State) (c : CtlIx) (save : Bool) (v : Nat) (n : Nat) (u : State), Live s → startOk s c.val true 0x09 0 0 0 = true → takeNumber c.val true 0x09 0 0 0 s = (n, u) → u.sys.phase ≠ .safe → u.hif.ctl[c].role ≠ .standby → windowOk v = true → exec (.protectedWriteWindow c save v) s = .next (kick (complete c.val n .success 0 0 [] (windowNote (window u) (putFeature 0xC3 0xC3 v save u)))))

/-- Each of these commands, taken from a controller's queue outside standby and Safe Mode, completes as its rule says (R340, R361, R382). One clause for
each command and form, for every state and operand that meet the clause's hypotheses. -/
def Obligations.QueueAndEventCommandsComplete : Prop :=
  -- CREATE_IO_SQ (R340)
  (∀ (s : State) (c : CtlIx) (q size cq : Nat) (n : Nat) (u : State), Live s → startOk s c.val true 0x01 0 0 0 = true → takeNumber c.val true 0x01 0 0 0 s = (n, u) → u.sys.phase ≠ .safe → u.hif.ctl[c].role ≠ .standby → queueId q = true → hasQueue u.hif.ctl[c].sqs q = false → hasQueue u.hif.ctl[c].cqs cq = true → exec (.createIoSq c q size cq) s = .next (complete c.val n .success 0 0 [] (setCtl c { u.hif.ctl[c] with sqs := u.hif.ctl[c].sqs ++ [(q, size, cq)] } u))) ∧
  -- DELETE_IO_SQ (R340)
  (∀ (s : State) (c : CtlIx) (q : Nat) (n : Nat) (u : State), Live s → startOk s c.val true 0x00 0 0 0 = true → takeNumber c.val true 0x00 0 0 0 s = (n, u) → u.sys.phase ≠ .safe → u.hif.ctl[c].role ≠ .standby → hasQueue u.hif.ctl[c].sqs q = true → exec (.deleteIoSq c q) s = .next (complete c.val n .success 0 0 [] (setCtl c { u.hif.ctl[c] with sqs := u.hif.ctl[c].sqs.filter fun x => decide (x.1 ≠ q) } u))) ∧
  -- CREATE_IO_CQ (R340)
  (∀ (s : State) (c : CtlIx) (q size iv : Nat) (n : Nat) (u : State), Live s → startOk s c.val true 0x05 0 0 0 = true → takeNumber c.val true 0x05 0 0 0 s = (n, u) → u.sys.phase ≠ .safe → u.hif.ctl[c].role ≠ .standby → queueId q = true → hasQueue u.hif.ctl[c].cqs q = false → exec (.createIoCq c q size iv) s = .next (complete c.val n .success 0 0 [] (setCtl c { u.hif.ctl[c] with cqs := u.hif.ctl[c].cqs ++ [(q, size, iv)] } u))) ∧
  -- DELETE_IO_CQ (R340)
  (∀ (s : State) (c : CtlIx) (q : Nat) (n : Nat) (u : State), Live s → startOk s c.val true 0x04 0 0 0 = true → takeNumber c.val true 0x04 0 0 0 s = (n, u) → u.sys.phase ≠ .safe → u.hif.ctl[c].role ≠ .standby → hasQueue u.hif.ctl[c].cqs q = true → (u.hif.ctl[c].sqs.any fun x => decide (x.2.2 = q)) = false → exec (.deleteIoCq c q) s = .next (complete c.val n .success 0 0 [] (setCtl c { u.hif.ctl[c] with cqs := u.hif.ctl[c].cqs.filter fun x => decide (x.1 ≠ q) } u))) ∧
  -- ABORT (R361)
  (∀ (s : State) (c : CtlIx) (target : Nat) (n : Nat) (u : State), Live s → startOk s c.val true 0x08 0 0 0 = true → takeNumber c.val true 0x08 0 0 0 s = (n, u) → u.sys.phase ≠ .safe → u.hif.ctl[c].role ≠ .standby → abortable u c target = false → exec (.abort c target) s = .next (complete c.val n .success 1 0 [] u)) ∧
  -- ASYNCHRONOUS_EVENT_REQUEST (R382)
  (∀ (s : State) (c : CtlIx) (n : Nat) (u : State), Live s → startOk s c.val true 0x0C 0 0 0 = true → takeNumber c.val true 0x0C 0 0 0 s = (n, u) → u.sys.phase ≠ .safe → u.hif.ctl[c].role ≠ .standby → u.hif.ctl[c].events = [] → exec (.asynchronousEventRequest c) s = .next (setCtl c { u.hif.ctl[c] with aers := u.hif.ctl[c].aers ++ [n] } u))

/-- Each of these commands, taken from a controller's queue outside standby and Safe Mode, completes as its rule says, and so does each step of an
activation (R368, R369). One clause for each command and form, for every state and operand that meet the clause's hypotheses. -/
def Obligations.FirmwareCommandsComplete : Prop :=
  -- FIRMWARE_IMAGE_DOWNLOAD (R368)
  (∀ (s : State) (c : CtlIx) (offset len : Nat) (n : Nat) (u : State), Live s → startOk s c.val true 0x11 0 0 0 = true → takeNumber c.val true 0x11 0 0 0 s = (n, u) → u.sys.phase ≠ .safe → u.hif.ctl[c].role ≠ .standby → ¬ (offset % 4096 ≠ 0 ∨ len % 4096 ≠ 0 ∨ len = 0 ∨ 24 * 2 ^ 20 < offset + len) → exec (.firmwareImageDownload c offset len) s = .next (complete c.val n .success 0 0 [] (setFw { u.host.fw with staged := if offset = 0 then len else max u.host.fw.staged (offset + len) } u))) ∧
  -- FW_COMMIT_STORE (R368)
  (∀ (s : State) (c : CtlIx) (slot : Nat) (x : ImageCheck) (i : Fin 2) (n : Nat) (u : State), Live s → startOk s c.val true 0x10 0 0 0 = true → takeNumber c.val true 0x10 0 0 0 s = (n, u) → u.sys.phase ≠ .safe → u.hif.ctl[c].role ≠ .standby → commitSlot u.host.fw slot = some i → slotKept u.host.fw i = false → imageOk u.host.fw x = true → exec (.fwCommitStore c slot x) s = .next (complete c.val n .success 0 0 [] (setFw (storeImage i x u.host.fw) u))) ∧
  -- FW_COMMIT_ACTIVATE_AT_RESET (R368)
  (∀ (s : State) (c : CtlIx) (slot : Nat) (x : ImageCheck) (i : Fin 2) (n : Nat) (u : State), Live s → startOk s c.val true 0x10 0 0 0 = true → takeNumber c.val true 0x10 0 0 0 s = (n, u) → u.sys.phase ≠ .safe → u.hif.ctl[c].role ≠ .standby → commitSlot u.host.fw slot = some i → slotKept u.host.fw i = false → imageOk u.host.fw x = true → exec (.fwCommitActivateAtReset c slot x) s = .next (complete c.val n .success 0 0 [] (setFw { storeImage i x u.host.fw with atReset := some i } u))) ∧
  -- FW_COMMIT_SLOT_AT_RESET (R368)
  (∀ (s : State) (c : CtlIx) (slot : Nat) (i : Fin 2) (n : Nat) (u : State), Live s → startOk s c.val true 0x10 0 0 0 = true → takeNumber c.val true 0x10 0 0 0 s = (n, u) → u.sys.phase ≠ .safe → u.hif.ctl[c].role ≠ .standby → commitSlot u.host.fw slot = some i → slotKept u.host.fw i = false → slotGood u.host.fw i = true → exec (.fwCommitSlotAtReset c slot) s = .next (complete c.val n .success 0 0 [] (setFw { u.host.fw with atReset := some i } u))) ∧
  -- FW_COMMIT_ACTIVATE_NOW (R369)
  (∀ (s : State) (c : CtlIx) (slot : Nat) (x : ImageCheck) (i : Fin 2) (n : Nat) (u : State), Live s → startOk s c.val true 0x10 0 0 0 = true → takeNumber c.val true 0x10 0 0 0 s = (n, u) → u.sys.phase ≠ .safe → u.hif.ctl[c].role ≠ .standby → commitSlot u.host.fw slot = some i → slotKept u.host.fw i = false → u.host.fw.activation = none → u.host.fw.staged ≠ 0 → imageOk u.host.fw x = true → exec (.fwCommitActivateNow c slot x) s = .next (setFw { storeImage i x u.host.fw with activation := some { slot := i, ctl := c.val, fseq := n, holding := false } } u)) ∧
  -- ACTIVATION_HOLD_START (R369)
  (∀ (s : State) (a : Activation), Live s → s.host.fw.activation = some a → a.holding = false → quiet s = true → exec .activationHoldStart s = .next (activationNotice 1 (activationNotice 0 (fetchHold true (setFw { s.host.fw with activation := some { a with holding := true } } s))))) ∧
  -- ACTIVATION_QUIET_TIMEOUT (R369)
  (∀ (s : State) (a : Activation), Live s → s.host.fw.activation = some a → a.holding = false → exec .activationQuietTimeout s = .next (activationFail s)) ∧
  -- ACTIVATION_SWITCH (R369)
  (∀ (s : State) (a : Activation), Live s → s.host.fw.activation = some a → a.holding = true → allCompleted s = true → s.host.fw.slot[a.slot].starts = true → a.ctl ≠ 3 → exec (.activationSwitch false) s = .next (complete a.ctl a.fseq .success 0 0 [] (fwSwitch a.slot (setFw { (s.host.fw) with activation := none } (fetchHold false s)))))

/-- Each of these commands, taken from a controller's queue outside standby and Safe Mode, completes as its rule says, and so does each step of its
background work (R342, R348, R351, R356, R370, R371). One clause for each command and form, for every state and operand that meet the clause's
hypotheses. -/
def Obligations.NamespaceSelfTestAndSecurityComplete : Prop :=
  -- NAMESPACE_MANAGEMENT (R342)
  (∀ (s : State) (c : CtlIx) (x : NsCreate) (ns k : Nat) (n : Nat) (u : State), Live s → startOk s c.val true 0x0D 0 0 0 = true → takeNumber c.val true 0x0D 0 0 0 s = (n, u) → u.sys.phase ≠ .safe → u.hif.ctl[c].role ≠ .standby → createCheck u x = none → freeNs u = some k → exec (.namespaceManagement c (some x) ns) s = .next (complete c.val n .success k 0 [] (createDo k x u))) ∧
  -- NAMESPACE_MANAGEMENT (R342)
  (∀ (s : State) (c : CtlIx) (ns : Nat) (n : Nat) (u : State), Live s → startOk s c.val true 0x0D 0 0 0 = true → takeNumber c.val true 0x0D 0 0 0 s = (n, u) → u.sys.phase ≠ .safe → u.hif.ctl[c].role ≠ .standby → (nsGet u ns).isSome = true → exec (.namespaceManagement c none ns) s = .next (kick (eraseStart c.val n (.deleteNs ns) u))) ∧
  -- NAMESPACE_ATTACHMENT (R342)
  (∀ (s : State) (c : CtlIx) (ns : Nat) (attach : Bool) (to_ : BitVec 2) (v : Namespace) (n : Nat) (u : State), Live s → startOk s c.val true 0x15 0 0 0 = true → takeNumber c.val true 0x15 0 0 0 s = (n, u) → u.sys.phase ≠ .safe → u.hif.ctl[c].role ≠ .standby → nsGet u ns = some v → to_ = 1 → v.shared = false → (if attach then v.attached ||| to_ else v.attached &&& ~~~ to_) ≠ 3 → exec (.namespaceAttachment c ns attach to_) s = .next (complete c.val n .success 0 0 [] { u with host := { u.host with namespaces := keyPut u.host.namespaces ns { v with attached := if attach then v.attached ||| to_ else v.attached &&& ~~~ to_ } } })) ∧
  -- SELFTEST_SHORT (R371)
  (∀ (s : State) (c : CtlIx) (n : Nat) (u : State), Live s → startOk s c.val true 0x14 0 0 0 = true → takeNumber c.val true 0x14 0 0 0 s = (n, u) → u.sys.phase ≠ .safe → u.hif.ctl[c].role ≠ .standby → u.host.test = none → exec (.selftestShort c) s = .next (complete c.val n .success 0 0 [] { u with host := { u.host with test := some { kind := 1, segment := 0, poh := u.stc.pos, result := 0 } } })) ∧
  -- SELFTEST_EXTENDED (R371)
  (∀ (s : State) (c : CtlIx) (n : Nat) (u : State), Live s → startOk s c.val true 0x14 0 0 0 = true → takeNumber c.val true 0x14 0 0 0 s = (n, u) → u.sys.phase ≠ .safe → u.hif.ctl[c].role ≠ .standby → u.host.test = none → exec (.selftestExtended c) s = .next (complete c.val n .success 0 0 [] { u with host := { u.host with test := some { kind := 2, segment := 0, poh := u.stc.pos, result := 0 } } })) ∧
  -- SELFTEST_ABORT (R371)
  (∀ (s : State) (c : CtlIx) (n : Nat) (u : State), Live s → startOk s c.val true 0x14 0 0 0 = true → takeNumber c.val true 0x14 0 0 0 s = (n, u) → u.sys.phase ≠ .safe → u.hif.ctl[c].role ≠ .standby → exec (.selftestAbort c) s = .next (complete c.val n .success 0 0 [] (abortTest u))) ∧
  -- SLICE (R370)
  (∀ (s : State) (pass : Bool) (x : SelfTest), Live s → mediaWork s = true → s.host.test = some x → pass = true → nextSegment s x < (if x.kind = 1 then 6 else 7) → exec (.slice (.selfTest pass)) s = .next ({ s with host := { s.host with test := some { x with segment := nextSegment s x } } })) ∧
  -- SLICE (R370)
  (∀ (s : State) (pass : Bool) (r : CalRequest), Live s → mediaWork s = true → bitOf (speReg s.spe 0x48) 7 = true → (s.arr.calReqs.find? fun r => decide (r.member = fld (speReg s.spe 0x48) 4 0)) = some r → r.kinds.testBit 20 = false → Completes (.slice (.calDone pass)) s fun t =>
    let u := speCalWrite 0 s
    t = kick (vendorEvent 0xC4 { u with arr := { u.arr with calReqs := u.arr.calReqs.filter fun x => decide (x.id ≠ r.id), calDone := (({ r with poh := u.stc.pos }, if pass then 1 else 2) :: u.arr.calDone).take 64 } })) ∧
  -- FORMAT_NVM (R356)
  (∀ (s : State) (c : CtlIx) (ns lbaf pi ses : Nat) (n : Nat) (u : State), Live s → startOk s c.val true 0x80 0 0 0 = true → takeNumber c.val true 0x80 0 0 0 s = (n, u) → u.sys.phase ≠ .safe → u.hif.ctl[c].role ≠ .standby → ¬ (1 < lbaf % 16 ∨ 32 ≤ lbaf ∨ (pi ≠ 0 ∧ (lbaf % 16 = 0 ∨ (pi ≠ 1 ∧ pi ≠ 9))) ∨ 2 < ses) → (nsGet u ns).isSome = true → exec (.formatNvm c ns lbaf pi ses) s = .next (kick (eraseStart c.val n (.format ns (decide (lbaf % 16 = 1)) (lbaf.testBit 4) (decide (pi ≠ 0)) (pi.testBit 3) (decide (ses = 2))) u))) ∧
  -- SECURITY_SEND (R348)
  (∀ (s : State) (c : CtlIx) (m : OpalMethod) (n : Nat) (u : State), Live s → startOk s c.val true 0x81 0 0 0 = true → takeNumber c.val true 0x81 0 0 0 s = (n, u) → u.sys.phase ≠ .safe → u.hif.ctl[c].role ≠ .standby → exec (.securitySend c m) s = .next (kick (complete c.val n .success 0 0 [] (opalMethod m u)))) ∧
  -- SECURITY_RECEIVE (R348)
  (∀ (s : State) (c : CtlIx) (discovery : Bool) (n : Nat) (u : State), Live s → startOk s c.val true 0x82 0 0 0 = true → takeNumber c.val true 0x82 0 0 0 s = (n, u) → u.sys.phase ≠ .safe → u.hif.ctl[c].role ≠ .standby → exec (.securityReceive c discovery) s = .next (complete c.val n .success 0 0 [(openPage 0 512 0 u).1] (openPage 0 512 0 u).2)) ∧
  -- SANITIZE_CRYPTO_ERASE (R351)
  (∀ (s : State) (c : CtlIx) (n : Nat) (u : State), Live s → startOk s c.val true 0x84 0 0 0 = true → takeNumber c.val true 0x84 0 0 0 s = (n, u) → u.sys.phase ≠ .safe → u.hif.ctl[c].role ≠ .standby → exec (.sanitizeCryptoErase c) s = .next (kick (eraseStart c.val n (.sanitize false) u))) ∧
  -- SANITIZE_BLOCK_ERASE (R351)
  (∀ (s : State) (c : CtlIx) (n : Nat) (u : State), Live s → startOk s c.val true 0x84 0 0 0 = true → takeNumber c.val true 0x84 0 0 0 s = (n, u) → u.sys.phase ≠ .safe → u.hif.ctl[c].role ≠ .standby → exec (.sanitizeBlockErase c) s = .next (kick (eraseStart c.val n (.sanitize true) u)))

/-- Each of these commands, taken from a controller's queue outside standby and Safe Mode, completes as its rule says (R276, R288, R290, R340, R372, R373,
R441, R442). One clause for each command and form, for every state and operand that meet the clause's hypotheses. -/
def Obligations.VendorCommandsComplete : Prop :=
  -- NVME_MI_SEND (R340)
  (∀ (s : State) (c : CtlIx) (k : MiCmd) (n : Nat) (u : State), Live s → startOk s c.val true 0x1D 0 0 0 = true → takeNumber c.val true 0x1D 0 0 0 s = (n, u) → u.sys.phase ≠ .safe → u.hif.ctl[c].role ≠ .standby → miSends k = true → exec (.nvmeMiSend c k) s = .next (complete c.val n .success ((miCommand k u).1.headD 0) 0 ((miCommand k u).1.drop 1) (miCommand k u).2)) ∧
  -- NVME_MI_RECEIVE (R340)
  (∀ (s : State) (c : CtlIx) (k : MiCmd) (n : Nat) (u : State), Live s → startOk s c.val true 0x1E 0 0 0 = true → takeNumber c.val true 0x1E 0 0 0 s = (n, u) → u.sys.phase ≠ .safe → u.hif.ctl[c].role ≠ .standby → miSends k = false → exec (.nvmeMiReceive c k) s = .next (complete c.val n .success ((miCommand k u).1.headD 0) 0 ((miCommand k u).1.drop 1) (miCommand k u).2)) ∧
  -- DECLARE_DEAD (R276)
  (∀ (s : State) (c : CtlIx) (m : Fin 24) (force : Bool) (gen : Nat) (n : Nat) (u : State), Live s → startOk s c.val true 0xC1 0 0 0 = true → takeNumber c.val true 0xC1 0 0 0 s = (n, u) → u.sys.phase ≠ .safe → u.hif.ctl[c].role ≠ .standby → u.arr.member[m].gen = gen → (u.arr.member[m].state = .active ∨ u.arr.member[m].state = .suspect) → (force = true ∨ noLoss u [m.val] = true) → exec (.declareDead c m.val force gen) s = .next (kick (whenDurable c.val n (jNext u) (surfaceDw0 (fence m 0 u) m) (fence m 0 u)))) ∧
  -- REQUALIFY (R288)
  (∀ (s : State) (c : CtlIx) (m : Fin 24) (gen : Nat) (n : Nat) (u : State), Live s → startOk s c.val true 0xC1 0 0 0 = true → takeNumber c.val true 0xC1 0 0 0 s = (n, u) → u.sys.phase ≠ .safe → u.hif.ctl[c].role ≠ .standby → u.arr.member[m].gen = gen → u.arr.member[m].state = .fenced → Completes (.requalify c m.val gen) s fun t =>
    let v := memberChange m (if 4 ≤ u.arr.member[m].gen then .retired else .qualifying) u.arr.member[m].gen 0 (setMember m { u.arr.member[m] with swatched := false } u)
    t = whenDurable c.val n (jNext u) (surfaceDw0 v m) v) ∧
  -- READMIT_AS_SPARE (R288)
  (∀ (s : State) (c : CtlIx) (m : Fin 24) (gen : Nat) (n : Nat) (u : State), Live s → startOk s c.val true 0xC1 0 0 0 = true → takeNumber c.val true 0xC1 0 0 0 s = (n, u) → u.sys.phase ≠ .safe → u.hif.ctl[c].role ≠ .standby → u.arr.member[m].gen = gen → u.arr.member[m].state = .spare → ((List.finRange 24).any fun k => decide (k.val / 6 = m.val / 6) && u.arr.member[k].standing) = false → Completes (.readmitAsSpare c m.val gen) s fun t =>
    let v := memberChange m .spare u.arr.member[m].gen u.arr.member[m].cause (setMember m { u.arr.member[m] with standing := true } u)
    t = whenDurable c.val n (jNext u) (surfaceDw0 v m) v) ∧
  -- SET_SCRUB_PERIOD (R373)
  (∀ (s : State) (c : CtlIx) (m : Fin 24) (gen days : Nat) (n : Nat) (u : State), Live s → startOk s c.val true 0xC1 0 0 0 = true → takeNumber c.val true 0xC1 0 0 0 s = (n, u) → u.sys.phase ≠ .safe → u.hif.ctl[c].role ≠ .standby → u.arr.member[m].gen = gen → days ≤ 365 → Completes (.setScrubPeriod c m.val gen days) s fun t =>
    let v := noteChange (setMember m { u.arr.member[m] with scrubDays := days } u)
    t = complete c.val n .success (surfaceDw0 v m) 0 [] v) ∧
  -- SURFACE_QUERY (R373)
  (∀ (s : State) (c : CtlIx) (m : Nat) (n : Nat) (u : State), Live s → startOk s c.val true 0xC2 0 0 0 = true → takeNumber c.val true 0xC2 0 0 0 s = (n, u) → u.sys.phase ≠ .safe → u.hif.ctl[c].role ≠ .standby → m < 24 → exec (.surfaceQuery c m) s = .next (complete c.val n .success 0 0 [(surfacePage m u).1] (surfacePage m u).2)) ∧
  -- RESHAPE_START (R290)
  (∀ (s : State) (c : CtlIx) (ns first last w cc : Nat) (v : Namespace) (n : Nat) (u : State), Live s → startOk s c.val true 0xC5 0 0 0 = true → takeNumber c.val true 0xC5 0 0 0 s = (n, u) → u.sys.phase ≠ .safe → u.hif.ctl[c].role ≠ .standby → nsGet u ns = some v → ¬ (last < first ∨ v.zones.length ≤ last ∨ w < 4 ∨ 24 < w ∨ cc = 0 ∨ 6 < cc) → reshapeBad u ((v.zones.drop first).take (last - first + 1)) w cc = false → Completes (.reshapeStart c ns first last w cc) s fun t =>
    let zs := (v.zones.drop first).take (last - first + 1)
    let a := zs.headD 0
    let x := zmap a 0x24 [(32, a), (32, zs.getLastD 0), (8, w), (8, cc), (32, a)] u
    t = whenDurable c.val n (jNext u) 0 (noteChange { x with arr := { x.arr with reshape := some { zones := zs, w := w, c := cc, boundary := 0, copying := none } } })) ∧
  -- RECORDER_READ (R441)
  (∀ (s : State) (c : CtlIx) (group : Fin 256) (rewind : Bool) (n : Nat) (u : State), Live s → startOk s c.val true 0xC6 0 0 0 = true → takeNumber c.val true 0xC6 0 0 0 s = (n, u) → u.sys.phase ≠ .safe → u.hif.ctl[c].role ≠ .standby → Completes (.recorderRead c group rewind) s fun t =>
    let r := stcHostRead (actingCtl c.val) group.val rewind u
    t = complete c.val n .success r.2.1 0 [r.1.toNat] r.2.2) ∧
  -- RECORDER_CLEAR (R442)
  (∀ (s : State) (c : CtlIx) (group : Fin 256) (n : Nat) (u : State), Live s → startOk s c.val true 0xC8 0 0 0 = true → takeNumber c.val true 0xC8 0 0 0 s = (n, u) → u.sys.phase ≠ .safe → u.hif.ctl[c].role ≠ .standby → (group.val = 0xFF ∨ (1 ≤ group.val ∧ group.val ≤ 10)) → exec (.recorderClear c group) s = .next (stcClear group.val { u with host := { u.host with clearWait := u.host.clearWait ++ [(c.val, n)] } })) ∧
  -- CALIBRATION_REQUEST (R372)
  (∀ (s : State) (c : CtlIx) (m zone : Nat) (all : Bool) (kinds : BitVec 5) (n : Nat) (u : State), Live s → startOk s c.val true 0xCC 0 0 0 = true → takeNumber c.val true 0xCC 0 0 0 s = (n, u) → u.sys.phase ≠ .safe → u.hif.ctl[c].role ≠ .standby → ¬ (24 ≤ m ∨ 64 ≤ zone ∨ (memberAt u m).state = .fenced ∨ (memberAt u m).state = .qualifying ∨ (memberAt u m).state = .retired) → Completes (.calibrationRequest c m zone all kinds) s fun t =>
    let r := calAdd m (if all then 64 else zone) (kinds.toNat * 65536) u
    t = complete c.val n .success r.1 0 [] r.2)

/-- An I/O command of the attached controller, on a namespace attached to it, with no lock that conflicts and no field or access check that refuses it,
runs as its rule says (R40, R244, R260, R289, R296, R340, R344, R346, R357, R358, R364, R365). One clause for each command and form, for every state
and operand that meet the clause's hypotheses. -/
def Obligations.IoCommandsComplete : Prop :=
  -- FLUSH (R364)
  (∀ (s : State) (c : CtlIx) (ns n : Nat) (u : State), Live s → ioStand s = .run → startOk s c.val false 0x00 ns 0 0 = true → takeNumber c.val false 0x00 ns 0 0 s = (n, u) → (ns = 0xFFFFFFFF ∨ ((nsGet u ns).all fun v => !v.attached.getLsbD c.val) = false) → exec (.flush c ns) s = .next (settleFlushes { u with hif := { u.hif with flushes := u.hif.flushes ++ [{ fseq := n, ctl := c.val, keys := flushKeys u ns, at_ := u.sys.ms }] } })) ∧
  -- WRITE (R40)
  (∀ (s : State) (c : CtlIx) (io : IoCmd) (n : Nat) (u v : State) (f : InFlight) (x : Namespace), Live s → ioStand s = .run → startOk s c.val false 0x01 io.ns io.slba io.nlb = true → takeNumber c.val false 0x01 io.ns io.slba io.nlb s = (n, u) → f = { fseq := n, ctl := c.val, io := { io with kind := .write }, phase := .stalled, at_ := u.sys.ms } → v = addLock { ns := io.ns, first := (ioRange u f.io).1, last := (ioRange u f.io).2, modify := ioModifies .write, fseq := n } u → conflicts v { ns := io.ns, first := (ioRange u f.io).1, last := (ioRange u f.io).2, modify := ioModifies .write, fseq := n } = false → nsGet v io.ns = some x → x.attached.getLsbD c.val = true → opalLocked v f.io = false → ioField v x f.io = none → exec (.write c io) s = .next (kick (runWrite f x v))) ∧
  -- READ (R357)
  (∀ (s : State) (c : CtlIx) (io : IoCmd) (n : Nat) (u v : State) (f : InFlight) (x : Namespace), Live s → ioStand s = .run → startOk s c.val false 0x02 io.ns io.slba io.nlb = true → takeNumber c.val false 0x02 io.ns io.slba io.nlb s = (n, u) → f = { fseq := n, ctl := c.val, io := { io with kind := .read }, phase := .stalled, at_ := u.sys.ms } → v = addLock { ns := io.ns, first := (ioRange u f.io).1, last := (ioRange u f.io).2, modify := ioModifies .read, fseq := n } u → conflicts v { ns := io.ns, first := (ioRange u f.io).1, last := (ioRange u f.io).2, modify := ioModifies .read, fseq := n } = false → nsGet v io.ns = some x → x.attached.getLsbD c.val = true → opalLocked v f.io = false → ioField v x f.io = none → exec (.read c io) s = .next (kick ((runRead f x v).getD (setFlight { f with phase := .held, got := transferred v x f } v)))) ∧
  -- COMPARE (R340)
  (∀ (s : State) (c : CtlIx) (io : IoCmd) (n : Nat) (u v : State) (f : InFlight) (x : Namespace), Live s → ioStand s = .run → startOk s c.val false 0x05 io.ns io.slba io.nlb = true → takeNumber c.val false 0x05 io.ns io.slba io.nlb s = (n, u) → f = { fseq := n, ctl := c.val, io := { io with kind := .compare }, phase := .stalled, at_ := u.sys.ms } → v = addLock { ns := io.ns, first := (ioRange u f.io).1, last := (ioRange u f.io).2, modify := ioModifies .compare, fseq := n } u → conflicts v { ns := io.ns, first := (ioRange u f.io).1, last := (ioRange u f.io).2, modify := ioModifies .compare, fseq := n } = false → nsGet v io.ns = some x → x.attached.getLsbD c.val = true → opalLocked v f.io = false → ioField v x f.io = none → exec (.compare c io) s = .next (kick ((runRead f x v).getD (setFlight { f with phase := .held, got := transferred v x f } v)))) ∧
  -- WRITE_ZEROES (R346)
  (∀ (s : State) (c : CtlIx) (io : IoCmd) (n : Nat) (u v : State) (f : InFlight) (x : Namespace), Live s → ioStand s = .run → startOk s c.val false 0x08 io.ns io.slba io.nlb = true → takeNumber c.val false 0x08 io.ns io.slba io.nlb s = (n, u) → f = { fseq := n, ctl := c.val, io := { io with kind := .writeZeroes }, phase := .stalled, at_ := u.sys.ms } → v = addLock { ns := io.ns, first := (ioRange u f.io).1, last := (ioRange u f.io).2, modify := ioModifies .writeZeroes, fseq := n } u → conflicts v { ns := io.ns, first := (ioRange u f.io).1, last := (ioRange u f.io).2, modify := ioModifies .writeZeroes, fseq := n } = false → nsGet v io.ns = some x → x.attached.getLsbD c.val = true → opalLocked v f.io = false → ioField v x f.io = none → exec (.writeZeroes c io) s = .next (kick (runWrite f x v))) ∧
  -- VERIFY (R340)
  (∀ (s : State) (c : CtlIx) (io : IoCmd) (n : Nat) (u v : State) (f : InFlight) (x : Namespace), Live s → ioStand s = .run → startOk s c.val false 0x0C io.ns io.slba io.nlb = true → takeNumber c.val false 0x0C io.ns io.slba io.nlb s = (n, u) → f = { fseq := n, ctl := c.val, io := { io with kind := .verify }, phase := .stalled, at_ := u.sys.ms } → v = addLock { ns := io.ns, first := (ioRange u f.io).1, last := (ioRange u f.io).2, modify := ioModifies .verify, fseq := n } u → conflicts v { ns := io.ns, first := (ioRange u f.io).1, last := (ioRange u f.io).2, modify := ioModifies .verify, fseq := n } = false → nsGet v io.ns = some x → x.attached.getLsbD c.val = true → opalLocked v f.io = false → ioField v x f.io = none → exec (.verify c io) s = .next (kick ((runRead f x v).getD (setFlight { f with phase := .held, got := transferred v x f } v)))) ∧
  -- ZONE_APPEND (R358)
  (∀ (s : State) (c : CtlIx) (io : IoCmd) (n : Nat) (u v : State) (f : InFlight) (x : Namespace), Live s → ioStand s = .run → startOk s c.val false 0x7D io.ns io.slba io.nlb = true → takeNumber c.val false 0x7D io.ns io.slba io.nlb s = (n, u) → f = { fseq := n, ctl := c.val, io := { io with kind := .append }, phase := .stalled, at_ := u.sys.ms } → v = addLock { ns := io.ns, first := (ioRange u f.io).1, last := (ioRange u f.io).2, modify := ioModifies .append, fseq := n } u → conflicts v { ns := io.ns, first := (ioRange u f.io).1, last := (ioRange u f.io).2, modify := ioModifies .append, fseq := n } = false → nsGet v io.ns = some x → x.attached.getLsbD c.val = true → opalLocked v f.io = false → ioField v x f.io = none → exec (.zoneAppend c io) s = .next (kick (runWrite f x v))) ∧
  -- ZONE_MANAGEMENT_RECEIVE (R344)
  (∀ (s : State) (c : CtlIx) (ns slba n : Nat) (u : State) (v : Namespace), Live s → ioStand s = .run → startOk s c.val false 0x7A ns slba 0 = true → takeNumber c.val false 0x7A ns slba 0 s = (n, u) → nsGet u ns = some v → v.attached.getLsbD c.val = true → v.zoned = true → slba < nsBlocks v → exec (.zoneManagementReceive c ns slba) s = .next (complete c.val n .success 0 0 (((v.zones.zip (List.range v.zones.length)).drop (slba / 65536)).map fun x => zoneDescriptor u x.2 x.1) u)) ∧
  -- ZONE_OPEN (R244)
  (∀ (s : State) (c : CtlIx) (io : IoCmd) (n : Nat) (u v : State) (f : InFlight) (x : Namespace), Live s → ioStand s = .run → startOk s c.val false 0x79 io.ns io.slba io.nlb = true → takeNumber c.val false 0x79 io.ns io.slba io.nlb s = (n, u) → f = { fseq := n, ctl := c.val, io := { io with kind := .zoneOpen }, phase := .stalled, at_ := u.sys.ms } → v = addLock { ns := io.ns, first := (ioRange u f.io).1, last := (ioRange u f.io).2, modify := ioModifies .zoneOpen, fseq := n } u → conflicts v { ns := io.ns, first := (ioRange u f.io).1, last := (ioRange u f.io).2, modify := ioModifies .zoneOpen, fseq := n } = false → nsGet v io.ns = some x → x.attached.getLsbD c.val = true → opalLocked v f.io = false → ioField v x f.io = none → exec (.zoneOpen c io) s = .next (kick (runZone f x v))) ∧
  -- ZONE_CLOSE (R260)
  (∀ (s : State) (c : CtlIx) (io : IoCmd) (n : Nat) (u v : State) (f : InFlight) (x : Namespace), Live s → ioStand s = .run → startOk s c.val false 0x79 io.ns io.slba io.nlb = true → takeNumber c.val false 0x79 io.ns io.slba io.nlb s = (n, u) → f = { fseq := n, ctl := c.val, io := { io with kind := .zoneClose }, phase := .stalled, at_ := u.sys.ms } → v = addLock { ns := io.ns, first := (ioRange u f.io).1, last := (ioRange u f.io).2, modify := ioModifies .zoneClose, fseq := n } u → conflicts v { ns := io.ns, first := (ioRange u f.io).1, last := (ioRange u f.io).2, modify := ioModifies .zoneClose, fseq := n } = false → nsGet v io.ns = some x → x.attached.getLsbD c.val = true → opalLocked v f.io = false → ioField v x f.io = none → exec (.zoneClose c io) s = .next (kick (runZone f x v))) ∧
  -- ZONE_FINISH (R260)
  (∀ (s : State) (c : CtlIx) (io : IoCmd) (n : Nat) (u v : State) (f : InFlight) (x : Namespace), Live s → ioStand s = .run → startOk s c.val false 0x79 io.ns io.slba io.nlb = true → takeNumber c.val false 0x79 io.ns io.slba io.nlb s = (n, u) → f = { fseq := n, ctl := c.val, io := { io with kind := .zoneFinish }, phase := .stalled, at_ := u.sys.ms } → v = addLock { ns := io.ns, first := (ioRange u f.io).1, last := (ioRange u f.io).2, modify := ioModifies .zoneFinish, fseq := n } u → conflicts v { ns := io.ns, first := (ioRange u f.io).1, last := (ioRange u f.io).2, modify := ioModifies .zoneFinish, fseq := n } = false → nsGet v io.ns = some x → x.attached.getLsbD c.val = true → opalLocked v f.io = false → ioField v x f.io = none → exec (.zoneFinish c io) s = .next (kick (runZone f x v))) ∧
  -- ZONE_RESET (R365)
  (∀ (s : State) (c : CtlIx) (io : IoCmd) (n : Nat) (u v : State) (f : InFlight) (x : Namespace), Live s → ioStand s = .run → startOk s c.val false 0x79 io.ns io.slba io.nlb = true → takeNumber c.val false 0x79 io.ns io.slba io.nlb s = (n, u) → f = { fseq := n, ctl := c.val, io := { io with kind := .zoneReset }, phase := .stalled, at_ := u.sys.ms } → v = addLock { ns := io.ns, first := (ioRange u f.io).1, last := (ioRange u f.io).2, modify := ioModifies .zoneReset, fseq := n } u → conflicts v { ns := io.ns, first := (ioRange u f.io).1, last := (ioRange u f.io).2, modify := ioModifies .zoneReset, fseq := n } = false → nsGet v io.ns = some x → x.attached.getLsbD c.val = true → opalLocked v f.io = false → ioField v x f.io = none → exec (.zoneReset c io) s = .next (kick (runZone f x v))) ∧
  -- FIXITY_DIGEST (R296)
  (∀ (s : State) (c : CtlIx) (io : IoCmd) (n : Nat) (u v : State) (f : InFlight) (x : Namespace), Live s → ioStand s = .run → startOk s c.val false 0x86 io.ns io.slba io.nlb = true → takeNumber c.val false 0x86 io.ns io.slba io.nlb s = (n, u) → f = { fseq := n, ctl := c.val, io := { io with kind := .fixity }, phase := .stalled, at_ := u.sys.ms } → v = addLock { ns := io.ns, first := (ioRange u f.io).1, last := (ioRange u f.io).2, modify := ioModifies .fixity, fseq := n } u → conflicts v { ns := io.ns, first := (ioRange u f.io).1, last := (ioRange u f.io).2, modify := ioModifies .fixity, fseq := n } = false → nsGet v io.ns = some x → x.attached.getLsbD c.val = true → opalLocked v f.io = false → ioField v x f.io = none → exec (.fixityDigest c io) s = .next (kick ((runRead f x v).getD (setFlight { f with phase := .held, got := transferred v x f } v)))) ∧
  -- SALVAGE_READ (R289)
  (∀ (s : State) (c : CtlIx) (io : IoCmd) (n : Nat) (u v : State) (f : InFlight) (x : Namespace), Live s → ioStand s = .run → startOk s c.val false 0x8A io.ns io.slba io.nlb = true → takeNumber c.val false 0x8A io.ns io.slba io.nlb s = (n, u) → f = { fseq := n, ctl := c.val, io := { io with kind := .salvage }, phase := .stalled, at_ := u.sys.ms } → v = addLock { ns := io.ns, first := (ioRange u f.io).1, last := (ioRange u f.io).2, modify := ioModifies .salvage, fseq := n } u → conflicts v { ns := io.ns, first := (ioRange u f.io).1, last := (ioRange u f.io).2, modify := ioModifies .salvage, fseq := n } = false → nsGet v io.ns = some x → x.attached.getLsbD c.val = true → opalLocked v f.io = false → ioField v x f.io = none → v.spn.hold = false → exec (.salvageRead c io) s = .next (kick (runSalvage f x v)))

/-- Each message to the management endpoint, while it is up and not paused, is served and answered as its rule says (R347). One clause for each command
and form, for every state and operand that meet the clause's hypotheses. -/
def Obligations.ManagementEndpointCompletes : Prop :=
  -- MI_READ_DATA_STRUCTURE (R347)
  (∀ (s : State) (kind : Nat), Live s → miUp s = true → s.host.mi.paused = false → exec (.miReadDataStructure kind) s = .next (miRespond (Machine.miReadData kind s).1 (Machine.miReadData kind s).2)) ∧
  -- MI_SUBSYSTEM_HEALTH_POLL (R347)
  (∀ (s : State) , Live s → miUp s = true → s.host.mi.paused = false → exec .miSubsystemHealthPoll s = .next (miRespond (Machine.miSubsystemPoll s).1 (Machine.miSubsystemPoll s).2)) ∧
  -- MI_CONTROLLER_HEALTH_POLL (R347)
  (∀ (s : State) (cntid : Nat), Live s → miUp s = true → s.host.mi.paused = false → exec (.miControllerHealthPoll cntid) s = .next (miRespond (Machine.miControllerPoll cntid s).1 (Machine.miControllerPoll cntid s).2)) ∧
  -- MI_CONFIGURATION_SET (R347)
  (∀ (s : State) (id v : Nat), Live s → miUp s = true → s.host.mi.paused = false → exec (.miConfigurationSet id v) s = .next (miRespond (Machine.miConfigSet id v s).1 (Machine.miConfigSet id v s).2)) ∧
  -- MI_CONFIGURATION_GET (R347)
  (∀ (s : State) (id : Nat), Live s → miUp s = true → s.host.mi.paused = false → exec (.miConfigurationGet id) s = .next (miRespond (Machine.miConfigGet id s).1 (Machine.miConfigGet id s).2)) ∧
  -- MI_VPD_READ (R347)
  (∀ (s : State) (offset len : Nat), Live s → miUp s = true → s.host.mi.paused = false → exec (.miVpdRead offset len) s = .next (miRespond (Machine.miVpdRead offset len s).1 (Machine.miVpdRead offset len s).2)) ∧
  -- MI_VPD_WRITE (R347)
  (∀ (s : State) (offset : Nat) (bs : List Byte), Live s → miUp s = true → s.host.mi.paused = false → exec (.miVpdWrite offset bs) s = .next (miRespond (Machine.miVpdWrite offset bs s).1 (Machine.miVpdWrite offset bs s).2)) ∧
  -- MI_RESET (R347)
  (∀ (s : State) , Live s → miUp s = true → s.host.mi.paused = false → exec .miReset s = .next (miRespond (Machine.miReset s).1 (Machine.miReset s).2)) ∧
  -- MI_PAUSE (R347)
  (∀ (s : State) , Live s → miUp s = true → exec .miPause s = .next (miRespond [miOk] (setMi { s.host.mi with paused := true } s))) ∧
  -- MI_RESUME (R347)
  (∀ (s : State) , Live s → miUp s = true → exec .miResume s = .next (s.host.mi.waiting.foldl (fun t r => miServe r t) (miRespond [miOk] (setMi { s.host.mi with paused := false, waiting := [] } s)))) ∧
  -- MI_ABORT (R347)
  (∀ (s : State) , Live s → miUp s = true → exec .miAbort s = .next (miRespond [miOk] (setMi { s.host.mi with waiting := s.host.mi.waiting.drop 1 } s))) ∧
  -- MI_GET_STATE (R347)
  (∀ (s : State) , Live s → miUp s = true → exec .miGetState s = .next (miRespond [miOk, flagBit s.host.mi.paused 4 + flagBit (!s.host.mi.waiting.isEmpty) 0] s)) ∧
  -- MI_REPLAY (R347)
  (∀ (s : State) (r : List Nat), Live s → miUp s = true → s.host.mi.last = some r → exec .miReplay s = .next (setMi { s.host.mi with responses := r :: s.host.mi.responses } s)) ∧
  -- MI_TUNNELLED_ADMIN (R347)
  (∀ (s : State) (k : AdminCmd), Live s → miUp s = true → s.host.mi.paused = false → exec (.miTunnelledAdmin k) s = .next (miServe (.admin k) s))

/-- Each command and event of the host interface, in the state it is for, answers the state its rule gives (R433, R486). One clause for each command and
form, for every state and operand that meet the clause's hypotheses. -/
def Obligations.HostInterfaceEventsComplete : Prop :=
  -- HIF_FETCH_HOLD (R486)
  (∀ (s : State) (w : Word), Live s → exec (.hifFetchHold w) s = .next ({ s with hif := { s.hif with regs := regWrite hifRows s.hif.regs false 0 w } })) ∧
  -- HIF_RING_CONFIG (R486)
  (∀ (s : State) (w : Word), Live s → ringBad s w = false → exec (.hifRingConfig 1 w) s = .next ({ s with hif := { s.hif with regs := regWrite hifRows s.hif.regs false 0x18 w } })) ∧
  -- HIF_RING_CONFIG (R486)
  (∀ (s : State) (w : Word), Live s → s.hif.feFailed = 0 → exec (.hifRingConfig 0 w) s = .next ({ s with hif := { s.hif with regs := regWrite hifRows s.hif.regs false 0x0C w } })) ∧
  -- FE_INSTANCE_FAIL (R433)
  (∀ (s : State) (i : Fin 2), Live s → s.hif.feFailed.getLsbD i.val = false → Completes (.feInstanceFail i) s fun t =>
    let m := hifReg s.hif 0x0C
    let x := (List.range 2).foldl (fun (x : Word) c => if (if bitOf m c then 1 else 0) = i.val then putBit x c (decide (i.val = 0)) else x) m
    let u := { s with hif := { s.hif with feFailed := setBit s.hif.feFailed i.val, regs := if s.hif.feFailed.getLsbD (1 - i.val) then s.hif.regs else regSet hifRows s.hif.regs 0x0C x } }
    t = (List.finRange 2).foldl (fun t c => if (decide ((if bitOf m c.val then 1 else 0) = i.val) && portUsed s c) = true then portEvent c 6 t else t) u) ∧
  -- LINK_WIDTH_REDUCE (R433)
  (∀ (s : State) (c : CtlIx), Live s → portUsed s c = true → s.sys.plActive = false → s.sys.phase ≠ .dark → s.hif.ctl[c].linkUp = true → 2 ≤ s.hif.ctl[c].width → exec (.linkWidthReduce c) s = .next (portEvent c 7 (setCtl c { s.hif.ctl[c] with width := s.hif.ctl[c].width / 2 } s)))

/-- Each command and event of a DMA channel, in the state it is for, answers the state its rule gives (R384, R388, R389, R391, R393, R394, R395). One
clause for each command and form, for every state and operand that meet the clause's hypotheses. -/
def Obligations.DmaCommandsComplete : Prop :=
  -- DMA_START (R384)
  (∀ (s : State) (n : ChanIx), Live s → s.dma.chan[n].state = .idle → bitOf (dmaReg s.dma 0) 0 = true → exec (.dmaStart n) s = .next (chanTake n (chanHead s n) s)) ∧
  -- DMA_ABORT (R393)
  (∀ (s : State) (n : ChanIx), Live s → s.dma.chan[n].state = .parked → Completes (.dmaAbort n) s fun t =>
    t.dma.chan[n] = { s.dma.chan[n] with state := .stopped }) ∧
  -- DMA_RESUME (R395)
  (∀ (s : State) (n : ChanIx), Live s → s.dma.chan[n].state = .stopped → s.dma.chan[n].code = 1 → exec (.dmaResume n) s = .next (chanLoad n s.dma.chan[n].resid s)) ∧
  -- DMA_EXTEND (R391)
  (∀ (s : State) (n : ChanIx), Live s → s.dma.chan[n].flag = false → s.dma.chan[n].state ≠ .parked → exec (.dmaExtend n) s = .next (setChan n { s.dma.chan[n] with flag := true } s)) ∧
  -- DMA_DISABLE (R393)
  (∀ (s : State) , Live s → exec .dmaDisable s = .next ((List.finRange 64).foldl (fun t n => Machine.dmaAbort n t) { s with dma := { s.dma with regs := regWrite dmaRows s.dma.regs false 0 0 } })) ∧
  -- DMA_DESCRIPTOR_COMPLETE (R389)
  (∀ (s : State) (n : ChanIx) (host : List Byte) (d : Desc), Live s → d = descAt s s.dma.chan[n].cur → s.dma.chan[n].state = .running → endsBad s d = false → descSspace d ≠ 3 → descDspace d ≠ 3 → exec (.dmaDescriptorComplete n host) s = .next (chanComplete n 0 (moveBytes dmaBus n s.dma.chan[n].resid host s))) ∧
  -- DMA_BURST_ERROR (R394)
  (∀ (s : State) (n : ChanIx) (cause : BurstCause), Live s → s.dma.chan[n].state = .running → (cause = .sram ∨ cause = .completer) → exec (.dmaBurstError n cause) s = .next (windowNote (window s) (dmaEvent 0 (chanStop n 3 s)))) ∧
  -- DMA_BURST_ERROR (R394)
  (∀ (s : State) (n : ChanIx) (chan : Fin 2) (mirrored : Bool), Live s → s.dma.chan[n].state = .running → exec (.dmaBurstError n (.rld chan mirrored)) s = .next (windowNote (window s) (if mirrored ∧ mirrorHolds s.flt chan then rldBurst chan s else burstError n (rldBurst chan s)))) ∧
  -- DMA_REQUEST (R388)
  (∀ (s : State) (line : Nat) (host : List Byte), Live s → exec (.dmaRequest line host) s = .next ((List.finRange 64).foldl (fun t n => if chanPace t n = 1 ∧ chanSel t n = line then chanRequest dmaBus n host t else t) s)) ∧
  -- DMA_EVENT_TRIGGER (R388)
  (∀ (s : State) (e : Fin 256), Live s → exec (.dmaEventTrigger e) s = .next ((List.finRange 64).foldl (fun t n => if chanPace t n = 2 ∧ chanSel t n = e.val then chanEvent n t else t) s)) ∧
  -- DMA_TIMER_EXPIRY (R388)
  (∀ (s : State) (t : Fin 8), Live s → bitOf (dmaReg s.dma (0x20 + 4 * t.val)) 31 = true → exec (.dmaTimerExpiry t) s = .next (dmaFire (64 + t.val) s))

/-- Each command of the power unit, with its operands valid, and each event of it answers the state its rule gives (R397, R448, R454, R457, R459, R465,
R507). One clause for each command and form, for every state and operand that meet the clause's hypotheses. -/
def Obligations.PowerCommandsComplete : Prop :=
  -- PWR_DOM_REQUEST (R448)
  (∀ (s : State) (w : Word), Live s → s.pwr.req = none → fld w 9 8 = 0 → fld w 4 0 < 25 → s.dma.quiesce ≠ some (fld w 4 0) → domState s (fld w 4 0) ≠ .on → orderBad s (fld w 4 0) .on = false → exec (.pwrDomRequest w) s = .next (domDone (fld w 4 0) 0 0 (setDom (fld w 4 0) .on s))) ∧
  -- DMA_QUIESCE_DONE (R397)
  (∀ (s : State) (q : DomReq), Live s → s.pwr.req = some q → q.final = false → s.dma.quiesce = some q.dom.val → exec .dmaQuiesceDone s = .next (domDone q.dom.val (domCode q.target) 0 (setDom q.dom.val q.target (dmaEvent 3 (quiesceOver q.dom.val (quiesceStop s.dma.affected s)))))) ∧
  -- DMA_QUIESCE_TIMEOUT (R397)
  (∀ (s : State) (stopped : BitVec 64) (q : DomReq), Live s → s.pwr.req = some q → q.final = false → s.dma.quiesce = some q.dom.val → exec (.dmaQuiesceTimeout stopped) s = .next (domDone q.dom.val (domCode q.target) 1 (dmaEvent 4 (quiesceOver q.dom.val (quiesceStop (s.dma.affected &&& stopped) s))))) ∧
  -- PWR_HALT_REQ (R507)
  (∀ (s : State) (m : BitVec 36), Live s → ((List.range 36).any fun k => decide (roleOf s.flt k = .resident) && !coreHalted { s with pwr := { s.pwr with haltReq := m } } k) = true → exec (.pwrHaltReq m) s = .next ({ s with pwr := { s.pwr with haltReq := m } })) ∧
  -- PWR_LANE_LIMIT (R465)
  (∀ (s : State) (w : Word), Live s → 1 ≤ fld w 2 0 → fld w 2 0 ≤ 5 → exec (.pwrLaneLimit w) s = .next ({ s with pwr := { s.pwr with regs := regWrite pwrRows s.pwr.regs false 0 w } })) ∧
  -- THERMAL_LIMIT (R459)
  (∀ (s : State) (k : Nat), Live s → k ≤ 365 → exec (.thermalLimit k) s = .next ({ s with pwr := { s.pwr with holdW := false, holdC := false }, host := { s.host with tempK := k } })) ∧
  -- LANE_GATE_SWAP (R454)
  (∀ (s : State) (l : LaneIx), Live s → s.pwr.psTarget = none → (serveWaiting (laneNeeds l s)).pwr.psTarget = none → exec (.laneGateSwap (some l) none) s = .next (serveWaiting (laneNeeds l s))) ∧
  -- APST_IDLE_EXPIRY (R457)
  (∀ (s : State) (p : Fin 5), Live s → (feature s 0x0C).testBit 0 = true → (s.arr.zones.any fun z => (List.range z.2.place.length).any fun p => posGone s z.2 p && (posTarget z.2 p).isSome) = false → ((s.arr.reshape.map fun r => r.copying.isSome).getD false) = false → ((s.host.fw.activation.map fun a => a.holding).getD false) = false → s.sys.phase = .ready → s.sys.plActive = false → s.pwr.psTarget = none → s.host.pmWait = [] → apstTarget s = some p → exec (.apstIdleExpiry false) s = .next (nextPs 1 { s with host := { s.host with pmWait := [(3, 0, p.val)] } }))

/-- Each command of a hardware ring and each access to a producer or consumer port, in the state it is for, answers the state its rule gives (R399, R401,
R402, R403, R404). One clause for each command and form, for every state and operand that meet the clause's hypotheses. -/
def Obligations.HardwareQueueCommandsComplete : Prop :=
  -- HQM_RING_ENABLE (R399)
  (∀ (s : State) (w : Word), Live s → bitOf (w ||| 1#32) 0 = true → bitOf (w ||| 1#32) 1 = false → bitOf (w ||| 1#32) 2 = false → bitOf (w ||| 1#32) 3 = false → exec (.hqmRingEnable w) s = .next (ringEnable s)) ∧
  -- HQM_RING_DISABLE (R399)
  (∀ (s : State) (w : Word), Live s → bitOf (w ||| 2#32) 0 = false → bitOf (w ||| 2#32) 1 = true → bitOf (w ||| 2#32) 2 = false → bitOf (w ||| 2#32) 3 = false → (ringAt s (selRing s)).packets = [] → exec (.hqmRingDisable w) s = .next (setRing (selRing s) { ringAt s (selRing s) with enabled := false, pacing := false } s)) ∧
  -- FLUSH_PKT (R404)
  (∀ (s : State) (w : Word), Live s → bitOf (w ||| 4#32) 0 = false → bitOf (w ||| 4#32) 1 = false → bitOf (w ||| 4#32) 2 = true → bitOf (w ||| 4#32) 3 = false → Completes (.flushPkt w) s fun t =>
    let r := selRing s
    t = retryStalls (ringUpdate r { ringAt s r with packets := ((ringAt s r).packets.filter fun p => p.isOpen || p.reader.isSome).map fun p => { p with marked := true }, flushing := true } s)) ∧
  -- FLUSH_NOW (R404)
  (∀ (s : State) (w : Word), Live s → bitOf (w ||| 8#32) 0 = false → bitOf (w ||| 8#32) 1 = false → bitOf (w ||| 8#32) 2 = false → bitOf (w ||| 8#32) 3 = true → Completes (.flushNow w) s fun t =>
    let r := selRing s
    t = retryStalls (ringUpdate r { ringAt s r with packets := [] } { s with hqm := { s.hqm with ports := s.hqm.ports.map fun p => (p.1, { p.2 with
      lost := p.2.lost || decide (p.2.openIn = some r)
      flushed := p.2.flushed || decide (p.2.reading = some r)
      reading := if p.2.reading = some r then none else p.2.reading }) } })) ∧
  -- HQM_PROD_OPEN (R401)
  (∀ (s : State) (q : Requester), Live s → isStalled s (reqNum q) = false → (hqmPort s (reqNum q)).openIn = none → (ringAt s (hqmPort s (reqNum q)).prodRing).enabled = true → openCount (ringAt s (hqmPort s (reqNum q)).prodRing) < 8 → exec (.hqmProdOpen q) s = .next (tryAccess (reqNum q, (hqmPort s (reqNum q)).prodRing, .opening) s)) ∧
  -- HQM_PROD_SLOT (R401)
  (∀ (s : State) (q : Requester) (d3 : Word) (r : Nat), Live s → (hqmPort s (reqNum q)).openIn = some r → isStalled s (reqNum q) = false → (hqmPort s (reqNum q)).lost = false → (hqmPort s (reqNum q)).written < bodyLimit (ringAt s r) → exec (.hqmProdSlot q d3) s = .next (tryAccess (reqNum q, r, .slot #v[(hqmPort s (reqNum q)).d[0], (hqmPort s (reqNum q)).d[1], (hqmPort s (reqNum q)).d[2], d3]) s)) ∧
  -- HQM_PROD_CLOSE (R401)
  (∀ (s : State) (q : Requester) (w : Word) (r : Nat), Live s → (hqmPort s (reqNum q)).openIn = some r → isStalled s (reqNum q) = false → (hqmPort s (reqNum q)).lost = false → ((ringAt s r).packets.any fun k => (decide (k.owner = reqNum q) && k.isOpen) && k.excess) = false → ((ringAt s r).packets.any fun k => (decide (k.owner = reqNum q) && k.isOpen) && k.marked) = false → fld w 11 0 = (hqmPort s (reqNum q)).written → Completes (.hqmProdClose q w) s fun t =>
    let h0 := fldAt (fld w 11 0) 11 0 ||| fldAt (fld w 23 16) 23 16
    t = retryStalls (ringUpdate r { ringAt s r with packets := (ringAt s r).packets.map fun k => if decide (k.owner = reqNum q) && k.isOpen then { k with isOpen := false, h0 := h0 ||| (k.h0 &&& 0x80000000#32) } else k } (setHqmPort (reqNum q) { hqmPort s (reqNum q) with openIn := none, lost := false, close := 0 } s))) ∧
  -- HQM_CONS_HEADER (R403)
  (∀ (s : State) (q : Requester) (k : Packet), Live s → isStalled s (reqNum q) = false → readPacket s (hqmPort s (reqNum q)) = some k → exec (.hqmConsHeader q) s = .next (setRdata k.h0 s)) ∧
  -- HQM_CONS_HEADER (R403)
  (∀ (s : State) (q : Requester), Live s → isStalled s (reqNum q) = false → readPacket s (hqmPort s (reqNum q)) = none → (ringAt s (hqmPort s (reqNum q)).consRing).enabled = true → exec (.hqmConsHeader q) s = .next (tryAccess (reqNum q, (hqmPort s (reqNum q)).consRing, .header) (setHqmPort (reqNum q) { hqmPort s (reqNum q) with flushed := false, reading := none } s))) ∧
  -- HQM_CONS_SLOT (R402)
  (∀ (s : State) (q : Requester) (k : Packet), Live s → isStalled s (reqNum q) = false → readPacket s (hqmPort s (reqNum q)) = some k → (hqmPort s (reqNum q)).nextSlot + 1 < packetSlots k - 1 → exec (.hqmConsSlot q) s = .next (setRdata (consWord (reqNum q) 3 s) (setHqmPort (reqNum q) { hqmPort s (reqNum q) with nextSlot := (hqmPort s (reqNum q)).nextSlot + 1 } s))) ∧
  -- HQM_CONS_SKIP (R402)
  (∀ (s : State) (q : Requester), Live s → isStalled s (reqNum q) = false → exec (.hqmConsSkip q) s = .next (consFree (reqNum q) s)) ∧
  -- HQM_STALL_TIMEOUT (R403)
  (∀ (s : State) (c : CoreIx), Live s → fld (hqmReg s.hqm 0) 15 0 ≠ 0 → isStalled s c.val = true → Completes (.hqmStallTimeout c) s fun t =>
    let u := { s with hqm := { s.hqm with stalls := s.hqm.stalls.filter fun w => decide (w.1 ≠ c.val) } }
    t = hqmEvent 1 (if (s.hqm.stalls.any fun w => decide (w.1 = c.val ∧ w.2.2 = .header)) = true then setRdata 0 u else u))

/-- Each record of the capture port and its enable, in the state it is for, answers the state its rule gives (R408, R409, R410). One clause for each
command and form, for every state and operand that meet the clause's hypotheses. -/
def Obligations.CapturePortComplete : Prop :=
  -- CAP_FRAME_IN (R409)
  (∀ (s : State) (f : CapFrame), Live s → bitOf (capReg s.cap 0) 0 = true → bitOf (capReg s.cap 0) 1 = true → f.cut = false → f.body.length = 4 * fld f.h0 11 0 → fld f.h0 11 0 ≤ bodyLimit (ringAt s (capRing s)) → postFits (ringAt s (capRing s)) f.body = true → exec (.capFrameIn f) s = .next (retryStalls (ringUpdate (capRing s) { ringAt s (capRing s) with packets := (ringAt s (capRing s)).packets ++ [{ owner := 80, isOpen := false, h0 := f.h0, h1 := f.h1, h2 := f.h2, h3 := f.h3, body := f.body, excess := false, marked := false, reader := none }] } s))) ∧
  -- CAP_RECORD_OUT (R410)
  (∀ (s : State) (l : LaneIx) (rd : Fin 16) (mark : Word) (codes : List Word), Live s → bitOf (capReg s.cap 0) 0 = true → bitOf (capReg s.cap 0) 1 = false → bitOf (capReg s.cap 8) l.val = true → exec (.capRecordOut (.samples l rd mark codes)) s = .next (capPut 1 (fldAt l.val 2 0 ||| fldAt rd.val 7 4) mark (BitVec.ofNat 32 s.cap.seq[l]) (codes.take 16380) { s with cap := { s.cap with seq := s.cap.seq.set l (s.cap.seq[l] + 1) } })) ∧
  -- CAP_RECORD_OUT (R410)
  (∀ (s : State) (l : LaneIx) (revs : Word) (x : TraceRec) (rest : List TraceRec), Live s → bitOf (capReg s.cap 0) 0 = true → bitOf (capReg s.cap 0) 1 = false → s.lane[l].row.traces = x :: rest → bitOf (capReg s.cap 8) 16 = true → x.kind = 3 → exec (.capRecordOut (.row l revs)) s = .next (capPut 2 (fldAt l.val 2 0 ||| fldAt x.tag 15 8 ||| fldAt x.pc 27 16) (BitVec.ofNat 32 x.mark) (BitVec.ofNat 32 x.slot) [] (setLane l { s.lane[l] with row := { s.lane[l].row with traces := rest } } s))) ∧
  -- CAP_ENABLE (R408)
  (∀ (s : State) (w : Word), Live s → bitOf (capReg s.cap 0) 0 = false → bitOf w 0 = true → fld (ringAt s (fld w 29 16)).wm 31 16 + fld (capReg s.cap 4) 15 8 ≤ ringSize (ringAt s (fld w 29 16)) → exec (.capEnable w) s = .next ({ s with cap := { s.cap with regs := regWrite capRows s.cap.regs false 0 w, hold := !bitOf w 1 } }))

/-- Each occurrence of a fault source, each acknowledge, the warm reset and each failure of a core, a cluster or a lane answers the state its rule gives
(R29, R30, R414, R416, R419, R421, R425, R426, R427, R435). One clause for each command and form, for every state and operand that meet the clause's
hypotheses. -/
def Obligations.FaultsComplete : Prop :=
  -- FAULT_SOURCE_OCCURRENCE (R416)
  (∀ (s : State) (k : SrcIx), Live s → (108 ≤ k.val ∨ k.val % 3 = 2) → k.val ∉ [129, 130, 133, 134] → exec (.faultSourceOccurrence k) s = .next (windowNote (window s) (raise k.val (sourceMark k.val s)))) ∧
  -- FAULT_ACKNOWLEDGE (R419)
  (∀ (s : State) (k : Fin 20) (w : Word) (hook : Bool), Live s → exec (.faultAcknowledge k w hook []) s = .next (windowNote (window s) ({ s with flt := settleSteps { s.flt with
      pend := s.flt.pend &&& ~~~ (ackMask k w hook &&& ~~~ s.flt.freshPend)
      pinPend := s.flt.pinPend &&& ~~~ (ackMask k w hook &&& ~~~ s.flt.freshPend)
      delivered := s.flt.delivered.filter fun d => !(ackMask k w hook &&& ~~~ s.flt.freshPend).getLsbD d.src } }))) ∧
  -- FLT_SWRAISE (R414)
  (∀ (s : State) (r : Requester) (w : Word), Live s → isHook s r = false → exec (.fltSwraise r w) s = .next (raise (176 + fld w 2 0) s)) ∧
  -- FLT_DEFAULT_CORE (R435)
  (∀ (s : State) (w : Word), Live s → fld w 5 0 ≤ 35 → exec (.fltDefaultCore w) s = .next ({ s with flt := { s.flt with regs := regWrite fltRows s.flt.regs false 0 w } })) ∧
  -- WARM_RESET (R421)
  (∀ (s : State) , Live s → s.flt.chipReq = true → s.flt.warm = false → Completes (.warmReset .enter) s fun t =>
    let a := (List.finRange 5).foldl (fun t l => if writing s l then slipInterrupted l t else t) { s with
      flt := { s.flt with chipReq := false, warm := true, chipTimes := s.sys.ms :: s.flt.chipTimes.filter fun x => decide (s.sys.ms < x + 3600000), chipTotal := s.flt.chipTotal + 1 } }
    let b := capDisable (pwrWarmReset (dmaWarmReset ((List.range 36).foldl (fun u k => requesterGone k u) { a with
      lane := a.lane.map fun v => { seqReset v with warmHold := true }
      ddp := { a.ddp with queue := [], running := Vector.replicate 2 none } })))
    t = guardAll { b with spe := { b.spe with regs := regSet speRows b.spe.regs 0 (speReg b.spe 0 &&& ~~~ 3#32), active := 0, halted := false, groups := b.spe.groups.map fun g => { g with issued := false, held := 0 } } }) ∧
  -- WARM_RESET (R421)
  (∀ (s : State) (pages : Nat) (slotOk : Vector Bool 2), Live s → s.flt.warm = true → exec (.warmReset (.leave pages slotOk)) s = .next (warmLeave pages slotOk s)) ∧
  -- CORE_WATCHDOG (R425)
  (∀ (s : State) (c : CoreIx), Live s → exec (.coreWatchdog c) s = .next (Machine.coreFail c (raise (srcCore c.val 1) s))) ∧
  -- CORE_FAIL (R29)
  (∀ (s : State) (c : CoreIx), Live s → s.flt.role[c] ≠ .failed → (((c.val, s.sys.ms) :: s.flt.coreFails.filter fun e => decide (s.sys.ms ≤ e.2 + 1000)).filter fun e => decide (e.1 / 12 = c.val / 12)).length < 3 → Completes (.coreFail c) s fun t =>
    t.flt = { (requesterGone c.val s).flt with
      role := rolesAfterFail s.flt.role c
      staged := rolesAfterFail s.flt.role c
      coreFails := (c.val, s.sys.ms) :: s.flt.coreFails.filter fun e => decide (s.sys.ms ≤ e.2 + 1000)
      failRec := { (requesterGone c.val s).flt.failRec with cores := setBit (requesterGone c.val s).flt.failRec.cores c.val } }) ∧
  -- CLUSTER_FAIL (R30)
  (∀ (s : State) (cluster : Fin 3), Live s → s.flt.clusterFailed.getLsbD cluster.val = false → Completes (.clusterFail cluster) s fun t =>
    let u := (List.range 12).foldl (fun t k => requesterGone (12 * cluster.val + k) t) s
    let v := { u with flt := { u.flt with
      role := rolesAfterCluster s.flt.role cluster.val
      staged := rolesAfterCluster s.flt.role cluster.val
      clusterFailed := setBit u.flt.clusterFailed cluster.val
      failRec := { u.flt.failRec with clusters := setBit u.flt.failRec.clusters cluster.val } } }
    t = if ((List.finRange 36).any fun c => decide (s.flt.role[c] = .hook ∧ c.val / 12 = cluster.val)) = true then raise 170 v else v) ∧
  -- LANE_FAIL (R427)
  (∀ (s : State) (l : LaneIx) (c : LaneCause), Live s → laneFailHolds s l c = true → laneBind s.flt l.val = 4 → exec (.laneFail l c) s = .next (windowNote (window s) (laneMapWrite (setFld s.flt.laneMap (3 * l.val + 2) (3 * l.val) 5) s))) ∧
  -- LANE_LOOPBACK (R426)
  (∀ (s : State) (l : LaneIx), Live s → 2 ≤ (s.flt.rungOne[l]).length → laneIdle s l = true → exec (.laneLoopback l true) s = .next (windowNote (window s) ({ s with flt := { s.flt with rungOne := s.flt.rungOne.set l [] } })))

/-- Each write of a binding register and the switch that follows it, in the state it is for, answers the state its rule gives (R32, R35, R57). One clause
for each command and form, for every state and operand that meet the clause's hypotheses. -/
def Obligations.BindingCommandsComplete : Prop :=
  -- LANE_MAP_WRITE (R32)
  (∀ (s : State) (w : Word), Live s → mapBad s.flt.laneMap w = false → ((List.finRange 5).any fun l => decide (bindField w l.val ≠ bindField s.flt.laneMap l.val ∧ bindField w l.val ≠ 5) && rowRuns s.lane[l]) = false → newlyFailed s.flt.laneMap w = 0 → exec (.laneMapWrite w) s = .next (windowNote (window s) (spareNote s.flt.laneMap w (guardAll (lanelessNotice (fun a => laneless s a.val) (muxFollow 3 (wgate s (laneOn s 3)) (muxFollow 2 (wgate s (laneOn s 2)) (muxFollow 1 (wgate s (laneOn s 1)) (muxFollow 0 (wgate s (laneOn s 0)) { s with flt := { s.flt with laneMap := fldAt (fld w 14 0) 14 0 } }))))))))) ∧
  -- MUX_SWITCH (R57)
  (∀ (s : State) (a : ActIx), Live s → s.sys.mux[a].waiting = true → wgate s (laneOn s a) = false → (muxFollow a false s).lane[(4 : LaneIx)].row.startPend = false → exec (.muxSwitch a) s = .next (guardAll (muxFollow a false s))) ∧
  -- SRV_MAP_WRITE (R32)
  (∀ (s : State) (w : Word), Live s → mapBad s.flt.srvMap w = false → s.sys.unloadLow = true → exec (.srvMapWrite w) s = .next (windowNote (window s) (spareNote s.flt.srvMap w <| lanelessNotice (fun a => laneless s a.val) { s with flt := { s.flt with srvMap := fldAt (fld w 14 0) 14 0, failRec := { s.flt.failRec with engines := s.flt.failRec.engines ||| newlyFailed s.flt.srvMap w } } }))) ∧
  -- CORE_MAP_WRITE (R35)
  (∀ (s : State) (cluster : Fin 3) (w : Word), Live s → Completes (.coreMapWrite cluster w) s fun t =>
    t.flt.staged = (Vector.ofFn fun c : Fin 36 => if c.val / 12 = cluster.val then roleAt (fld w (2 * (c.val % 12) + 1) (2 * (c.val % 12))) else s.flt.staged[c]) ∧ t.flt.role = s.flt.role) ∧
  -- CORE_COMMIT (R35)
  (∀ (s : State) (w : Word), Live s → bitOf (w ||| 1#32) 0 = true → bitOf (w ||| 1#32) 1 = false → commitBad s.flt.role s.flt.staged = false → exec (.coreCommit w) s = .next ({ s with flt := { s.flt with role := s.flt.staged } })) ∧
  -- CORE_DISCARD (R35)
  (∀ (s : State) (w : Word), Live s → bitOf (w ||| 2#32) 0 = false → bitOf (w ||| 2#32) 1 = true → exec (.coreDiscard w) s = .next ({ s with flt := { s.flt with staged := s.flt.role } }))

/-- Each injected fault and each memory error, in the state it is for, answers the state its rule gives (R429, R430, R432, R434). One clause for each
command and form, for every state and operand that meet the clause's hypotheses. -/
def Obligations.InjectionAndMemoryErrorsComplete : Prop :=
  -- INJECTION_UNLOCK (R434)
  (∀ (s : State) , Live s → bitOf s.sys.strap 7 = true → s.flt.injOpen = false → exec (.injectionUnlock true) s = .next ({ s with flt := { s.flt with injOpen := true }, sys := { s.sys with unlocks := s.stc.poh :: s.sys.unlocks } })) ∧
  -- INJ_RAISE_SOURCE (R434)
  (∀ (s : State) , Live s → s.flt.injOpen = true → srcReserved (fld (injArg s) 9 0) = false → fld (injArg s) 9 0 < 640 → exec .injRaiseSource s = .next (injected (raise (fld (injArg s) 9 0)) s)) ∧
  -- INJ_SINGLE_BIT_ERROR (R434)
  (∀ (s : State) , Live s → s.flt.injOpen = true → fld (injArg s) 3 0 < 10 → exec .injSingleBitError s = .next ({ s with flt := { s.flt with armed := s.flt.armed ++ [(2, fld (injArg s) 3 0)] } })) ∧
  -- INJ_DOUBLE_BIT_ERROR (R434)
  (∀ (s : State) , Live s → s.flt.injOpen = true → fld (injArg s) 3 0 < 10 → exec .injDoubleBitError s = .next ({ s with flt := { s.flt with armed := s.flt.armed ++ [(3, fld (injArg s) 3 0)] } })) ∧
  -- INJ_ROW_PARITY (R434)
  (∀ (s : State) (l : LaneIx), Live s → s.flt.injOpen = true → fld (injArg s) 2 0 = l.val → exec .injRowParity s = .next (injected (setRow l (storeSet s.lane[l].row (fld (injArg s) 27 16) (storeGet s.lane[l].row (fld (injArg s) 27 16) ^^^ 1))) s)) ∧
  -- INJ_SERVO_RESIDUE (R434)
  (∀ (s : State) (e : EngIx), Live s → s.flt.injOpen = true → fld (injArg s) 2 0 = e.val → exec .injServoResidue s = .next (injected (engineFault e) s)) ∧
  -- INJ_LOCKSTEP (R434)
  (∀ (s : State) , Live s → s.flt.injOpen = true → exec .injLockstep s = .next (injected lockstepMismatch s)) ∧
  -- INJ_DL_DROP (R434)
  (∀ (s : State) (p : ActIx), Live s → s.flt.injOpen = true → fld (injArg s) 1 0 % 4 = p.val → exec .injDlDrop s = .next (injected (setPort p { s.port[p] with drop := s.port[p].drop + fld (injArg s) 15 8 }) s)) ∧
  -- INJ_RLD_BURST (R434)
  (∀ (s : State) , Live s → s.flt.injOpen = true → exec .injRldBurst s = .next (windowNote (window s) (injected (rldBurst (if bitOf (injArg s) 0 then 1 else 0)) s))) ∧
  -- SRAM_PATROL (R429)
  (∀ (s : State) (es : List CorrectedRow), Live s → Completes (.sramPatrol es) s fun t =>
    let u := es.foldl (fun t e => takeArmed 2 e.region.val (correctedRow e) t) { s with flt := { s.flt with patrolPass := s.flt.patrolPass + 1 } }
    t = { u with flt := { u.flt with spareSaved := u.flt.spareUse } }) ∧
  -- SRAM_UNCORRECTABLE (R430)
  (∀ (s : State) (x : SramWord), Live s → s.flt.armed.contains (3, (sramRegion x).val) = false → x = .sab → spareInUse s.flt (sramRegion x).val < spareTotal (sramRegion x).val → exec (.sramUncorrectable x) s = .next (repairRow (sramRegion x) (raise (srcSram (sramRegion x).val 1) s))) ∧
  -- RLD_CHANNEL_FAIL (R432)
  (∀ (s : State) (chan : Fin 2), Live s → (raise (srcRld chan.val 2) s).flt.rldFailed.getLsbD chan.val = false → exec (.rldChannelFail chan) s = .next (windowNote (window s) ({ raise (srcRld chan.val 2) s with
      flt := { (raise (srcRld chan.val 2) s).flt with rldFailed := setBit (raise (srcRld chan.val 2) s).flt.rldFailed chan.val, mirror := true }
      arr := { (raise (srcRld chan.val 2) s).arr with blocks := (raise (srcRld chan.val 2) s).arr.blocks.map (copiesMove chan.val) } })))

/-- Each entry, tick and command of the Stitch Counter, in the state it is for, answers the state its rule gives (R436, R439, R441, R442, R443, R445). One
clause for each command and form, for every state and operand that meet the clause's hypotheses. -/
def Obligations.RecorderCommandsComplete : Prop :=
  -- STC_ENTRY (R436)
  (∀ (s : State) (g : Fin 256) (inst : Nat) (v : Int), Live s → inst < stcInstances g.val → stcExtremeOf g.val inst = none → g.val ≠ 9 → g.val ≠ 5 → keyGet s.stc.live.hist (stcKey g.val inst (stcBin g.val inst v)) 0 < 2 ^ 48 - 1 → Completes (.stcEntry g inst v false) s fun t =>
    let k := stcKey g.val inst (stcBin g.val inst v)
    let h := keySet s.stc.live.hist k (keyGet s.stc.live.hist k 0 + 1) 0
    t = { s with stc := { s.stc with live := { s.stc.live with hist := keySet h (stcKey g.val inst 8) (min (keyGet s.stc.live.hist (stcKey g.val inst 8) 0 + v) (2 ^ 64 - 1)) 0 } } }) ∧
  -- STC_SECOND_TICK (R436)
  (∀ (s : State) (junction thermistor : Int), Live s → Completes (.stcSecondTick junction thermistor) s fun t =>
    let u := Machine.stcEntry 6 1 thermistor false (Machine.stcEntry 6 0 junction false s)
    t = tempRefresh thermistor { u with stc := { u.stc with pos := u.stc.pos + 1 } }) ∧
  -- STC_MS_TICK (R436)
  (∀ (s : State) , Live s → Completes .stcMsTick s fun t =>
    let u := Machine.stcEntry 8 1 (queueDepth s 1) false (Machine.stcEntry 8 0 (queueDepth s 0) false s)
    t = ps4Settle { u with sys := { u.sys with ms := u.sys.ms + 1 } }) ∧
  -- STC_CLEAR (R442)
  (∀ (s : State) (g : Fin 256), Live s → (g.val = 0xFF ∨ (1 ≤ g.val ∧ g.val ≤ 10)) → exec (.stcClear g) s = .next (Machine.stcClear g.val s)) ∧
  -- STC_COND_ADD (R439)
  (∀ (s : State) , Live s → fld (stcReg s.stc 0x18) 15 0 ≠ 0 → fld (stcReg s.stc 0x18) 15 0 ≠ 0xFFFF → exec .stcCondAdd s = .next (stcCond (fld (stcReg s.stc 0x18) 15 0) (fld (stcReg s.stc 0x18) 23 16) (stcReg s.stc 0x1C) s)) ∧
  -- STC_PERSIST (R443)
  (∀ (s : State) , Live s → s.stc.write = none → exec .stcPersist s = .next ({ s with stc := { s.stc with write := some { area := olderArea s.stc, copy := { s.stc.live with seq := s.stc.live.seq + 1, persistPoh := s.stc.poh, noHistory := false }, again := false, covers := s.host.clearWait.map Prod.snd } } })) ∧
  -- STC_PERSIST_DONE (R443)
  (∀ (s : State) (flashStatus : Word) (w : StcWrite), Live s → s.stc.write = some w → w.again = false → Completes (.stcPersistDone true flashStatus) s fun t =>
    let u := stcEvent 1 { s with stc := { s.stc with
      area := s.stc.area.set w.area (.valid w.copy)
      live := { s.stc.live with seq := w.copy.seq, persistPoh := w.copy.persistPoh, noHistory := false }
      write := none } }
    t = (u.host.clearWait.filter fun x => w.covers.contains x.2).foldl (fun t x => complete x.1 x.2 .success 0 0 [] t)
      { u with host := { u.host with clearWait := u.host.clearWait.filter fun x => !w.covers.contains x.2 } }) ∧
  -- STC_LOCK (R445)
  (∀ (s : State) (w : Word), Live s → bitOf (w ||| 0x100#32) 0 = false → exec (.stcLock w) s = .next ({ s with stc := { s.stc with regs := regWrite stcRows s.stc.regs false 0 (w ||| 0x100#32) } })) ∧
  -- STC_READ_SELECT (R441)
  (∀ (s : State) (c : CoreIx) (g : Option (Fin 256)), Live s → Completes (.stcReadSelect c g) s fun t =>
    t.stc.core[c] = { group := (g.map Fin.val).getD s.stc.core[c].group, cur := 0, window := stcLatch s.stc ((g.map Fin.val).getD s.stc.core[c].group) 0 }) ∧
  -- STC_WINDOW_ADVANCE (R441)
  (∀ (s : State) (c : CoreIx), Live s → stcAtEnd s.stc.core[c].group s.stc.core[c].cur = false → Completes (.stcWindowAdvance c) s fun t =>
    t.stc.core[c] = { s.stc.core[c] with cur := s.stc.core[c].cur + 1, window := stcLatch s.stc s.stc.core[c].group (s.stc.core[c].cur + 1) })

/-- Each of these events, in the state it is for, answers the state its rule gives (R92, R326, R347, R372, R453, R501). One clause for each command and
form, for every state and operand that meet the clause's hypotheses. -/
def Obligations.LateLinkAndBusEventsComplete : Prop :=
  -- YARN_PLL_LOCK (R92)
  (∀ (s : State) (h : Fin 2) (yofs : Nat), Live s → s.yck.running = true → yarnFit s.yck h = true → s.yck.head[h].locked = false → Completes (.yarnPllLock h yofs) s fun t =>
    t.yck.head = s.yck.head.set h { locked := true, qual := false }) ∧
  -- LINK_UP (R326)
  (∀ (s : State) (c : CtlIx) (width rate : Nat), Live s → portUsed s c = true → s.sys.plActive = false → s.sys.phase ≠ .dark → s.hif.ctl[c].linkUp = false → s.hif.ctl[c].perst = false → (width = 1 ∨ width = 2) → 1 ≤ rate → rate ≤ 5 → exec (.linkUp c width rate) s = .next (setPortDom c .on (setCtl c { s.hif.ctl[c] with linkUp := true, width := width, rate := rate } s))) ∧
  -- L1_2_HOST_EXIT (R453)
  (∀ (s : State) (c : CtlIx), Live s → portUsed s c = true → s.sys.plActive = false → s.sys.phase ≠ .dark → s.hif.ctl[c].l12 = true → exec (.l12HostExit c) s = .next (setPortDom c .on (setCtl c { s.hif.ctl[c] with l12 := false } s))) ∧
  -- BASIC_MANAGEMENT_COMMAND (R347)
  (∀ (s : State) (dest : Nat), Live s → miUp s = true → i3cBus s = false → dest = mgmtAddress s → Completes (.basicManagementCommand dest) s fun t =>
    let r := freeWords 1 s
    t = setMi { r.2.host.mi with responses := [r.1] :: r.2.host.mi.responses } r.2) ∧
  -- I3C_DYNAMIC_ADDRESS_ASSIGN (R501)
  (∀ (s : State) (address : Nat), Live s → miUp s = true → i3cBus s = true → address < 128 → exec (.i3cDynamicAddressAssign none address) s = .next (setMi { s.host.mi with dynamic := some address } s)) ∧
  -- I3C_DYNAMIC_ADDRESS_ASSIGN (R501)
  (∀ (s : State) (sa address : Nat), Live s → miUp s = true → i3cBus s = true → address < 128 → sa = mgmtAddress s → s.host.mi.dynamic = none → exec (.i3cDynamicAddressAssign (some sa) address) s = .next (setMi { s.host.mi with dynamic := some address } s)) ∧
  -- CALIBRATION_ABANDON (R372)
  (∀ (s : State) (r : CalRequest), Live s → (s.arr.calReqs.find? fun r => !calAllowed s r.member && decide (r.poh + 86400 ≤ s.stc.pos)) = some r → exec .calibrationAbandon s = .next (vendorEvent 0xC4 { s with arr := { s.arr with calReqs := s.arr.calReqs.filter fun x => decide (x.id ≠ r.id), calDone := (({ r with poh := s.stc.pos }, 3) :: s.arr.calDone).take 64 } }))

/-- For each kind of next but dispatch: a word that neither faults nor posts nor traps performs its action fields once, and the sequencer goes on at the
next address, the target, or the address it returns to (R221). One clause for each command and form, for every state and operand that meet the
clause's hypotheses. -/
def Obligations.RowWordNextPlaces : Prop :=
  -- ROW_SEQ (R221)
  (∀ (s : State) (l : LaneIx) (x : RowSymbol) (v : BitVec 144), Live s → v = rowFetch s.lane[l].row s.lane[l].row.pc → s.lane[l].row.state = .running → s.lane[l].row.acted = false → badQuarters v = 0 → wf v 142 140 = 0 → wf v 112 112 = 0 → wordFault s l v x (rowCond s l v x) = none → spanStarts s l x.sym = false → wf v 113 113 = 0 → wf v 55 52 ≠ 1 → wf v 88 86 = 0 → (custAddr s.lane[l].row.pc || s.lane[l].row.inCust) = false → Completes (.rowSeq l x) s fun t =>
    t.lane[l].row = { rowActs v x.encPass (decide (s.yck.lane[l].timing ≠ .yarn)) (nextMark s l v x.sym) ((laneZone s l).map fun z => slotEnd z s.lane[l].row.slot) s.lane[l].row with
      pc := (s.lane[l].row.pc + 1) % 4096
      stack := s.lane[l].row.stack
      state := .running
      acted := false }) ∧
  -- ROW_JMP (R221)
  (∀ (s : State) (l : LaneIx) (x : RowSymbol) (v : BitVec 144), Live s → v = rowFetch s.lane[l].row s.lane[l].row.pc → s.lane[l].row.state = .running → s.lane[l].row.acted = false → badQuarters v = 0 → wf v 142 140 = 1 → wf v 112 112 = 0 → wordFault s l v x (rowCond s l v x) = none → spanStarts s l x.sym = false → wf v 113 113 = 0 → wf v 55 52 ≠ 1 → wf v 88 86 = 0 → (custAddr s.lane[l].row.pc || s.lane[l].row.inCust) = false → Completes (.rowJmp l x) s fun t =>
    t.lane[l].row = { rowActs v x.encPass (decide (s.yck.lane[l].timing ≠ .yarn)) (nextMark s l v x.sym) ((laneZone s l).map fun z => slotEnd z s.lane[l].row.slot) s.lane[l].row with
      pc := wf v 133 122
      stack := s.lane[l].row.stack
      state := .running
      acted := false }) ∧
  -- ROW_BRT (R221)
  (∀ (s : State) (l : LaneIx) (x : RowSymbol) (v : BitVec 144), Live s → v = rowFetch s.lane[l].row s.lane[l].row.pc → s.lane[l].row.state = .running → s.lane[l].row.acted = false → badQuarters v = 0 → wf v 142 140 = 2 → wf v 112 112 = 0 → wordFault s l v x (rowCond s l v x) = none → spanStarts s l x.sym = false → wf v 113 113 = 0 → wf v 55 52 ≠ 1 → wf v 88 86 = 0 → (custAddr s.lane[l].row.pc || s.lane[l].row.inCust) = false → Completes (.rowBrt l x) s fun t =>
    t.lane[l].row = { rowActs v x.encPass (decide (s.yck.lane[l].timing ≠ .yarn)) (nextMark s l v x.sym) ((laneZone s l).map fun z => slotEnd z s.lane[l].row.slot) s.lane[l].row with
      pc := if rowCond s l v x then wf v 133 122 else (s.lane[l].row.pc + 1) % 4096
      stack := s.lane[l].row.stack
      state := .running
      acted := false }) ∧
  -- ROW_BRF (R221)
  (∀ (s : State) (l : LaneIx) (x : RowSymbol) (v : BitVec 144), Live s → v = rowFetch s.lane[l].row s.lane[l].row.pc → s.lane[l].row.state = .running → s.lane[l].row.acted = false → badQuarters v = 0 → wf v 142 140 = 3 → wf v 112 112 = 0 → wordFault s l v x (rowCond s l v x) = none → spanStarts s l x.sym = false → wf v 113 113 = 0 → wf v 55 52 ≠ 1 → wf v 88 86 = 0 → (custAddr s.lane[l].row.pc || s.lane[l].row.inCust) = false → Completes (.rowBrf l x) s fun t =>
    t.lane[l].row = { rowActs v x.encPass (decide (s.yck.lane[l].timing ≠ .yarn)) (nextMark s l v x.sym) ((laneZone s l).map fun z => slotEnd z s.lane[l].row.slot) s.lane[l].row with
      pc := if rowCond s l v x then (s.lane[l].row.pc + 1) % 4096 else wf v 133 122
      stack := s.lane[l].row.stack
      state := .running
      acted := false }) ∧
  -- ROW_CALL (R221)
  (∀ (s : State) (l : LaneIx) (x : RowSymbol) (v : BitVec 144), Live s → v = rowFetch s.lane[l].row s.lane[l].row.pc → s.lane[l].row.state = .running → s.lane[l].row.acted = false → badQuarters v = 0 → wf v 142 140 = 5 → wf v 112 112 = 0 → wordFault s l v x (rowCond s l v x) = none → spanStarts s l x.sym = false → wf v 113 113 = 0 → wf v 55 52 ≠ 1 → wf v 88 86 = 0 → (custAddr s.lane[l].row.pc || s.lane[l].row.inCust) = false → Completes (.rowCall l x) s fun t =>
    t.lane[l].row = { rowActs v x.encPass (decide (s.yck.lane[l].timing ≠ .yarn)) (nextMark s l v x.sym) ((laneZone s l).map fun z => slotEnd z s.lane[l].row.slot) s.lane[l].row with
      pc := wf v 133 122
      stack := ((s.lane[l].row.pc + 1) % 4096) :: s.lane[l].row.stack
      state := .running
      acted := false }) ∧
  -- ROW_RET (R221)
  (∀ (s : State) (l : LaneIx) (x : RowSymbol) (v : BitVec 144), Live s → v = rowFetch s.lane[l].row s.lane[l].row.pc → s.lane[l].row.state = .running → s.lane[l].row.acted = false → badQuarters v = 0 → wf v 142 140 = 6 → wf v 112 112 = 0 → wordFault s l v x (rowCond s l v x) = none → spanStarts s l x.sym = false → wf v 113 113 = 0 → wf v 55 52 ≠ 1 → wf v 88 86 = 0 → (custAddr s.lane[l].row.pc || s.lane[l].row.inCust) = false → Completes (.rowRet l x) s fun t =>
    t.lane[l].row = { rowActs v x.encPass (decide (s.yck.lane[l].timing ≠ .yarn)) (nextMark s l v x.sym) ((laneZone s l).map fun z => slotEnd z s.lane[l].row.slot) s.lane[l].row with
      pc := s.lane[l].row.stack.headD 0
      stack := s.lane[l].row.stack.tail
      state := .running
      acted := false }) ∧
  -- ROW_WAIT (R221)
  (∀ (s : State) (l : LaneIx) (x : RowSymbol) (v : BitVec 144), Live s → v = rowFetch s.lane[l].row s.lane[l].row.pc → s.lane[l].row.state = .running → s.lane[l].row.acted = false → badQuarters v = 0 → wf v 142 140 = 7 → wf v 112 112 = 0 → wordFault s l v x (rowCond s l v x) = none → spanStarts s l x.sym = false → wf v 113 113 = 0 → wf v 55 52 ≠ 1 → wf v 88 86 = 0 → (custAddr s.lane[l].row.pc || s.lane[l].row.inCust) = false → rowCond s l v x = true → Completes (.rowWait l x) s fun t =>
    t.lane[l].row = { rowActs v x.encPass (decide (s.yck.lane[l].timing ≠ .yarn)) (nextMark s l v x.sym) ((laneZone s l).map fun z => slotEnd z s.lane[l].row.slot) s.lane[l].row with
      pc := (s.lane[l].row.pc + 1) % 4096
      stack := s.lane[l].row.stack
      state := .running
      acted := false })

/-- For every command c and state s whose queue is c followed by q, a step of s is exec of c on s with the queue q. Taking commands first in, first out is
the model's arrangement (log entry 4). -/
def Obligations.StepRunsTheFrontCommand : Prop :=
  ∀ (c : Instr) (q : List Instr) (s : State), s.pending = c :: q → step s = exec c { s with pending := q }

/-- On an empty queue the block idles: the step answers a next state in which the capture port has sent the frame at its head, if there is one, and the
queue is still empty. The choice of what an idle step does is the model's (log entries 4 and 45). -/
def Obligations.EmptyQueueIdles : Prop :=
  ∀ s : State, s.pending = [] → ∃ t, step s = .next t ∧ t = capSend s ∧ t.pending = []

/-- The state after reset has a memory in canonical form with nothing listed, and no command waits in it. -/
def Obligations.ResetMeetsTheInvariant : Prop :=
  Inv State.reset ∧ State.reset.mem = [] ∧ State.reset.pending = []

/-- From every state in which the memory is in canonical form (addresses strictly rising, no byte listed that equals what an unlisted address reads as), a
step that answers a next state gives a state whose memory is in canonical form, whichever of the 338 commands stands in front and also when none does. -/
def Obligations.EveryStepKeepsTheInvariant : Prop :=
  ∀ s t : State, Inv s → step s = .next t → Inv t

/-- Whatever the commands do, the queue after a step is the queue before it without its front command; no command's effect puts a command into the queue.
The queue is the model's arrangement (log entry 4). -/
def Obligations.AStepTakesOneCommand : Prop :=
  ∀ s t : State, step s = .next t → t.pending = s.pending.tail

/-- Every command in every state ends in a next state, never in a fault or a refusal; and from every state a run of any number of steps goes on to its
end. -/
def Obligations.EveryRunGoesOn : Prop :=
  (∀ (c : Instr) (s : State), ∃ t, exec c s = .next t) ∧ ∀ (n : Nat) (s : State), SafeRun n s

/-- No command but the resets of the table (POWER_ON_RESET, RESET_N_QUALIFIED, RESET_N_RISE, RAIL_RESET_LEVEL, POWERLOSS_RECOVERY_RESET,
SAFE_COMMIT_RESET) ends a power-loss sequence that runs, changes whether the device is in reset, or changes the sampled straps. -/
def Obligations.PowerlossIsLeftOnlyByAReset : Prop :=
  ∀ (c : Instr) (s t : State), isDeviceReset c = false → exec c s = .next t → StillRuns s.sys t.sys

/-- For each of the 338 commands, in every state: where it answers a next state, every part of the state outside the set that commandParts names for it is
as it was, and so is the queue; a command that is no reset of the device neither ends a power-loss sequence nor changes the reset inputs; one that is
none of those that may rebind leaves every lane, servo and core binding. -/
def Obligations.EveryCommandChangesOnlyItsParts : Prop :=
  ∀ (c : Instr) (s t : State), exec c s = .next t → OnlyIn (commandParts c) s t

/-- A command that is not a write of a register, a failure or an occurrence that may find one, POST, or a reset of the device (mayRebind lists them)
leaves FLT_LANE_MAP, FLT_SRV_MAP, the core roles in force and their staged copies as they were. -/
def Obligations.BindingsChangeOnlyByTheirCommands : Prop :=
  ∀ (c : Instr) (s t : State), mayRebind c = false → exec c s = .next t → SameBindings s.flt t.flt

/-- Both ends of a warm reset complete in every state, and leave FLT_LANE_MAP, FLT_SRV_MAP, the core roles in force and their staged copies as they were.
(R36) -/
def Obligations.AWarmResetKeepsEveryBinding : Prop :=
  ∀ (s : State) (p : WarmStage), ∃ t, exec (.warmReset p) s = .next t ∧ SameBindings s.flt t.flt

/-- From the moment of qualification the device is in reset until RESET_N rises: every command but those that actsInReset names (the resets themselves,
and the rails and pins that are watched in reset) leaves the whole state as it was. -/
def Obligations.NothingActsInReset : Prop :=
  ∀ (c : Instr) (s : State), s.sys.inReset = true → actsInReset c = false → exec c s = .next s

/-- An access of a core whose role is hook to an address outside the hook partition (hookReach, the Address Map's table), whatever its width, completes
with no effect but the hook-violation source 169; a read returns 0 (and where the source's own reaction changes the effective window, that is reported
as ever, R317). This holds of the violation itself and of a read and a write that the core issues. No write of a hook core to the binding registers
(0x2000_0F00 to 0x2000_0F1F) is inside the partition. (R28) -/
def Obligations.HookCoresReachOnlyTheirPartition : Prop :=
  (∀ (s : State) (c : CoreIx) (x : Access), Live s → x.who = .core c → s.flt.role[c] = .hook → hookReach s c x = false →
    exec (.hookViolation x) s = .next (raise 169 (if x.write.isNone then setRdata 0 s else s))) ∧
  (∀ (s : State) (c : CoreIx) (a : Nat) (w : Word) (arriving : List SrcIx), Live s → s.flt.role[c] = .hook →
    hookReach s c { who := .core c, addr := a, bytes := 4, write := some w } = false →
    exec (.registerWrite (.core c) a w arriving) s = .next (windowNote (window s) (raise 169 s))) ∧
  (∀ (s : State) (c : CoreIx) (a : Nat), Live s → s.flt.role[c] = .hook →
    hookReach s c { who := .core c, addr := a, bytes := 4, write := none } = false →
    exec (.reg64LowRead (.core c) a) s = .next (raise 169 (setRdata 0 s))) ∧
  (∀ (s : State) (c : CoreIx) (a n : Nat) (w : Word), 0x20000F00 ≤ a → a < 0x20000F20 →
    hookReach s c { who := .core c, addr := a, bytes := n, write := some w } = false)

/-- An access to a register of a block whose domain is on, of a width other than 4 bytes or at an address that is no multiple of 4, completes with no
effect but source 168 (a read returns 0, which is the model's reading, log entry 100); and an access to a register that nothing stops has 4 bytes at a
multiple of 4. -/
def Obligations.AMisalignedAccessDoesNothing : Prop :=
  (∀ (s : State) (e : Nat) (x : Access) (b : Blk) (off : Nat), Live s → x.who = .engine e → regionAt x.addr = .reg b off →
    domState s (regDom b off) = .on → rldDown s x.addr = false → (x.bytes ≠ 4 ∨ x.addr % 4 ≠ 0) →
    exec (.misalignedAccess x) s = .next (raise 168 (if x.write.isNone then setRdata 0 s else s))) ∧
  (∀ (s : State) (x : Access) (b : Blk) (off : Nat), accessFault s x = none → regionAt x.addr = .reg b off → x.bytes = 4 ∧ x.addr % 4 = 0)

/-- Reading the low word of a pair returns it and latches the high word; in every later state that still holds the latch, the next read of the high word
returns what was latched, whatever the register has become. Writing the high word stages it and changes nothing else; in every later state that still
holds the staged word, the next write of the low word commits both halves together (a hook core's write of DMA_IRQ_HI, whose low word lies outside its
partition, takes effect at once instead: log entry 101). (R17) -/
def Obligations.SixtyFourBitPairs : Prop :=
  (∀ (s : State) (q : Requester) (a off : Nat) (b : Blk), Live s →
    accessFault s { who := q, addr := a, bytes := 4, write := none } = none →
    regionAt a = .reg b off → regionAt (a + 4) = .reg b (off + 4) → pairOf b off = some off → pairOf b (off + 4) = some off →
    Completes (.reg64LowRead q a) s fun t =>
      t.sys.rdata = (readValue q b off s).1 ∧
      ∀ u, Live u → u.sys.latched = t.sys.latched → accessFault u { who := q, addr := a + 4, bytes := 4, write := none } = none →
        Completes (.reg64LowRead q (a + 4)) u fun v => v.sys.rdata = (readValue q b (off + 4) (readValue q b off s).2).1) ∧
  (∀ (s : State) (q : Requester) (a off : Nat) (b : Blk) (hi : Word), Live s →
    accessFault s { who := q, addr := a + 4, bytes := 4, write := some hi } = none →
    regionAt a = .reg b off → regionAt (a + 4) = .reg b (off + 4) → pairOf b off = some off → pairOf b (off + 4) = some off →
    ¬ (b = .dma ∧ off = 0x10 ∧ isHook s q = true) →
    Completes (.reg64HighWrite q (a + 4) hi) s fun t =>
      t = { s with sys := { s.sys with staged := t.sys.staged } } ∧
      ∀ (u : State) (lo : Word), Live u → u.sys.staged = t.sys.staged →
        accessFault u { who := q, addr := a, bytes := 4, write := some lo } = none →
        Completes (.reg64LowWrite q a lo) u fun v =>
          v = commitPair b off (lo.toNat + hi.toNat * 2 ^ 32) { u with sys := { u.sys with staged := keyDel u.sys.staged (stageKey a off off) } })

/-- A write of a word to an address outside the register blocks that nothing stops stores its four bytes, lowest byte first, at the address and the three
after it: reading the word back gives it, every other byte of memory reads as before, and nothing else of the state changes. -/
def Obligations.AStoreReachesItsBytesAlone : Prop :=
  ∀ (s : State) (q : Requester) (a : Nat) (w : Word) (arriving : List SrcIx), Live s → Inv s →
    accessFault s { who := q, addr := a, bytes := 4, write := some w } = none → (∀ b off, regionAt a ≠ .reg b off) →
    Completes (.registerWrite q a w arriving) s fun t =>
      readLE t a 4 = w.toNat ∧ (∀ c, c < a ∨ a + 4 ≤ c → readByte t c = readByte s c) ∧ t = { s with mem := t.mem }

/-- A write of an FLT_CORE_MAP register sets the staged roles of its cluster's 12 cores by the codes of its fields and changes nothing else; the register
reads the roles in force, bits 31 to 24 reading 0. A write of FLT_CORE_COMMIT with [0] alone applies the staged roles of all 36 cores at once, unless
the commit would change a failed core or would leave another number of hook cores than R29 requires of the working cores it leaves, where it sets
FLT_BIND_ERR[2] and leaves roles and staged copies; with [1] alone it sets every staged copy back to the roles in force; with both it is ignored and
sets FLT_BIND_ERR[2]. FLT_CORE_COMMIT reads 0. (R35) -/
def Obligations.CoreRolesAreStagedAndCommitted : Prop :=
  (∀ (s : State) (k : Fin 3) (w : Word), Live s → Completes (.coreMapWrite k w) s fun t =>
    (∀ c : Fin 36, t.flt.staged[c] = if c.val / 12 = k.val then roleAt (fld w (2 * (c.val % 12) + 1) (2 * (c.val % 12))) else s.flt.staged[c]) ∧
    t = { s with flt := { s.flt with staged := t.flt.staged } }) ∧
  (∀ (s : State) (h : Bool) (n : Nat), blockView n h .flt 0xF10 s = coreMapWord s.flt 0 ∧ blockView n h .flt 0xF14 s = coreMapWord s.flt 1 ∧
    blockView n h .flt 0xF18 s = coreMapWord s.flt 2 ∧ blockView n h .flt 0xF1C s = 0) ∧
  (∀ (f : Flt) (k : Fin 3), fld (coreMapWord f k) 31 24 = 0 ∧
    ∀ i : Fin 12, fld (coreMapWord f k) (2 * i.val + 1) (2 * i.val) = roleCode (roleOf f (12 * k.val + i.val))) ∧
  (roleAt 0 = .resident ∧ roleAt 1 = .hook ∧ roleAt 2 = .spare ∧ roleAt 3 = .failed) ∧
  (∀ (s : State) (w : Word), Live s → bitOf w 0 = true → bitOf w 1 = false →
    (∀ c : Fin 36, s.flt.role[c] = .failed → s.flt.staged[c] = .failed) → hookCount s.flt.staged = requiredHooks s.flt.staged →
    exec (.coreCommit w) s = .next { s with flt := { s.flt with role := s.flt.staged } }) ∧
  (∀ (s : State) (w : Word), Live s → bitOf w 0 = true →
    (bitOf w 1 = true ∨ (∃ c : Fin 36, s.flt.role[c] = .failed ∧ s.flt.staged[c] ≠ .failed) ∨ hookCount s.flt.staged ≠ requiredHooks s.flt.staged) →
    Completes (.coreCommit w) s fun t => bitOf t.flt.bindErr 2 = true ∧ SameBindings s.flt t.flt) ∧
  (∀ (s : State) (w : Word), Live s → bitOf w 1 = true → bitOf w 0 = false →
    exec (.coreDiscard w) s = .next { s with flt := { s.flt with staged := s.flt.role } })

/-- A write w of register k of FLT_PEND completes. With nothing arriving in its cycle, source n stays pending exactly if it was pending and the write does
not name it, or it names it but the writer is a hook core and n is not hook-tagged, or it occurred since its register was last read (R20, log entry
149); nothing outside FLT changes. A source that occurs in the same cycle and is enabled, or was pending, is pending afterwards. (R419) -/
def Obligations.AcknowledgementClearsWhatWasPending : Prop :=
  (∀ (s : State) (k : Fin 20) (w : Word) (hook : Bool), Live s → Completes (.faultAcknowledge k w hook []) s fun t =>
    (∀ n : Fin 640, t.flt.pend.getLsbD n.val =
      (s.flt.pend.getLsbD n.val && !(decide (n.val / 32 = k.val) && bitOf w (n.val % 32) && (!hook || hookTagged n.val) && !s.flt.freshPend.getLsbD n.val))) ∧
    t = { s with flt := t.flt }) ∧
  (∀ (s : State) (k : Fin 20) (w : Word) (hook : Bool) (arriving : List SrcIx), Live s →
    Completes (.faultAcknowledge k w hook arriving) s fun t =>
      ∀ n ∈ arriving, (s.flt.pend.getLsbD n.val = true ∨ (srcReserved n.val = false ∧ bitOf (srcCfg s.flt n.val) 9 = true)) →
        t.flt.pend.getLsbD n.val = true)

/-- The clear of a Stitch Counter group and the entry that arrives in its cycle both complete in every state out of reset, so nothing waits for the
recorder. After them the group begins again at that one entry: of its counts only the entry's own is 1, and every other count of the group is 0.
(R438) -/
def Obligations.AnEntryAfterAClearIsCounted : Prop :=
  ∀ (s : State) (g : Fin 256) (inst : Nat) (v : Int), Live s → 1 ≤ g.val → g.val ≤ 10 → inst < stcInstances g.val →
    Completes (.stcClear g) s fun t => Completes (.stcEntry g inst v false) t fun u =>
      ∀ i b : Nat, i < 32 → b < 8 →
        keyGet u.stc.live.hist (stcKey g.val i b) 0 = if i = inst ∧ b = stcBin g.val inst v then 1 else 0

/-- In the state after reset every register that resetListing names reads, for a resident core, the reset value of its register listing (R487): 225
registers of the 13 kinds of block, in each servo block and in each lane block alike, with the deep-decode pool in the block of L0. LANE_FE_STATUS
shows the live connection and guard instead (log entry 119, the model's choice). -/
def Obligations.ResetRegisterValues : Prop :=
  ∀ (b : Blk), ∀ x ∈ resetListing b, blockView 0 false b x.1 State.reset = x.2

/-- For every servo bit length, every number of bits and of master periods to a wedge interval for which the data region is not empty: the servo span S is
the least number of data bits that covers the 332 servo bits of a wedge; data index m lies in wedge interval m / D, at least S + 8 and at most B_w - 9
bits behind its start; and a higher index has a higher bit number (R150). -/
def Obligations.DataBitsLieInTheirRegion : Prop :=
  ∀ div bw pw : Nat, 0 < pw → 0 < dataRegion bw (servoSpan div bw pw) →
    (332 * div * bw ≤ servoSpan div bw pw * pw ∧ servoSpan div bw pw * pw < 332 * div * bw + pw) ∧
    ∀ m : Nat,
      dataBit bw (servoSpan div bw pw) (dataRegion bw (servoSpan div bw pw)) m / bw = m / dataRegion bw (servoSpan div bw pw) ∧
      servoSpan div bw pw + 8 ≤ dataBit bw (servoSpan div bw pw) (dataRegion bw (servoSpan div bw pw)) m % bw ∧
      dataBit bw (servoSpan div bw pw) (dataRegion bw (servoSpan div bw pw)) m % bw + 9 ≤ bw ∧
      ∀ n : Nat, m < n →
        dataBit bw (servoSpan div bw pw) (dataRegion bw (servoSpan div bw pw)) m <
          dataBit bw (servoSpan div bw pw) (dataRegion bw (servoSpan div bw pw)) n

/-- For a requester that is no hook core. A word written to SAB lands in its four bytes and changes nothing else. A write of FLT_CTL takes its core index
of 0 to 35 and changes no other register; one of 36 to 63 is ignored in whole and raises source 171. An access to a register block in a domain that is
on, of another width than 4 bytes or at no multiple of 4, one to an address that no row of the map covers, and one to a block whose domain is not on,
each does nothing but raise source 168, pending where it is enabled, a read returning 0 (for a misaligned one this is log entry 100's reading); so
does an access of a hook core outside its partition with source 169. In a domain that is on, an aligned read of a pair's low word returns it and
latches the high word; an aligned write of a pair's high word stages it and changes nothing else; an aligned write of a pair's low word commits it
with the staged high word. -/
def Obligations.AccessesFollowTheAddressMap : Prop :=
  (∀ (s : State) (q : Requester) (a : Nat) (w : Word) (arriving : List SrcIx), Live s → Inv s → isHook s q = false →
    0x10000000 ≤ a → a + 4 ≤ 0x11000000 →
    Completes (.registerWrite q a w arriving) s fun t =>
      readLE t a 4 = w.toNat ∧ (∀ c, c < a ∨ a + 4 ≤ c → readByte t c = readByte s c) ∧ t = { s with mem := t.mem }) ∧
  (∀ (s : State) (q : Requester) (w : Word), Live s → isHook s q = false → domState s 0 = .on →
    Completes (.registerWrite q 0x20000000 w []) s fun t =>
      if fld w 5 0 ≤ 35 then
        t = { s with flt := { s.flt with regs := regSet fltRows s.flt.regs 0 ((regGet fltRows s.flt.regs 0 &&& ~~~0x3F#32) ||| (w &&& 0x3F#32)) } } ∧
          (∀ off, off ≠ 0 → regGet fltRows t.flt.regs off = regGet fltRows s.flt.regs off)
      else t = windowNote (window s) (raise 171 s)) ∧
  (∀ (s : State) (x : Access) (b : Blk) (off : Nat), Live s → isHook s x.who = false → regionAt x.addr = .reg b off →
    domState s (regDom b off) = .on → (x.bytes ≠ 4 ∨ x.addr % 4 ≠ 0) →
    Completes (.misalignedAccess x) s fun t => t = raise 168 (if x.write.isNone then setRdata 0 s else s) ∧
      (bitOf (srcCfg s.flt 168) 9 = true → t.flt.pend.getLsbD 168 = true) ∧ (x.write = none → t.sys.rdata = 0)) ∧
  (∀ (s : State) (x : Access), Live s → isHook s x.who = false → regionAt x.addr = .unmapped →
    Completes (.unmappedAccess x) s fun t => t = raise 168 (if x.write.isNone then setRdata 0 s else s) ∧
      (bitOf (srcCfg s.flt 168) 9 = true → t.flt.pend.getLsbD 168 = true) ∧ (x.write = none → t.sys.rdata = 0)) ∧
  (∀ (s : State) (x : Access) (b : Blk) (off : Nat), Live s → isHook s x.who = false → regionAt x.addr = .reg b off →
    domState s (regDom b off) ≠ .on →
    Completes (.gatedBlockAccess x) s fun t => t = raise 168 (if x.write.isNone then setRdata 0 s else s) ∧
      (bitOf (srcCfg s.flt 168) 9 = true → t.flt.pend.getLsbD 168 = true) ∧ (x.write = none → t.sys.rdata = 0)) ∧
  (∀ (s : State) (c : CoreIx) (x : Access), Live s → x.who = .core c → s.flt.role[c] = .hook → hookReach s c x = false →
    Completes (.hookViolation x) s fun t => t = raise 169 (if x.write.isNone then setRdata 0 s else s) ∧
      (bitOf (srcCfg s.flt 169) 9 = true → t.flt.pend.getLsbD 169 = true) ∧ (x.write = none → t.sys.rdata = 0)) ∧
  (∀ (s : State) (q : Requester) (a off : Nat) (b : Blk), Live s → isHook s q = false → a % 4 = 0 → regionAt a = .reg b off →
    domState s (regDom b off) = .on → pairOf b off = some off →
    Completes (.reg64LowRead q a) s fun t => t.sys.rdata = (readValue q b off s).1 ∧
      keyGet t.sys.latched (stageKey a off off) 0 = (readValue q b (off + 4) (readValue q b off s).2).1) ∧
  (∀ (s : State) (q : Requester) (a off lo : Nat) (b : Blk) (hi : Word), Live s → isHook s q = false → a % 4 = 0 → regionAt a = .reg b off →
    domState s (regDom b off) = .on → pairOf b off = some lo → off ≠ lo →
    exec (.reg64HighWrite q a hi) s = .next { s with sys := { s.sys with staged := keyPut s.sys.staged (stageKey a off lo) hi } }) ∧
  (∀ (s : State) (q : Requester) (a off : Nat) (b : Blk) (lo : Word), Live s → isHook s q = false → a % 4 = 0 → regionAt a = .reg b off →
    domState s (regDom b off) = .on → pairOf b off = some off →
    exec (.reg64LowWrite q a lo) s =
      .next (commitPair b off (lo.toNat + (keyGet s.sys.staged (stageKey a off off) (highStands b off s)).toNat * 2 ^ 32)
        { s with sys := { s.sys with staged := keyDel s.sys.staged (stageKey a off off) } }))

/-- In every state in reset each pad that the device drives stands as the Reset column gives it (for MOSI, whose level R48 does not give, as log entry 150
takes it). In no state are both gate pads of one phase high. -/
def Obligations.PadsInReset : Prop :=
  (∀ s : State, s.sys.inReset = true → ∀ (c : CtlIx) (a : ActIx) (h : Fin 2) (p : Fin 3) (b : Bool),
    pad (.clkreq c) s = .released ∧ pad .mgmtAlert s = .released ∧ pad .errOutN s = .released ∧
    pad (.wgate a) s = .low ∧ pad (.rgate a) s = .low ∧ pad (.paSclk a) s = .low ∧ pad (.paSen a) s = .low ∧ pad (.paSdio a) s = .input ∧
    pad (.yarnHead h) s = .biasOff ∧ pad (.piezo a) s = .zero ∧ pad (.driveLink a) s = .low ∧ pad (.spindleGate p b) s = .low ∧
    pad .unloadN s = .low ∧ pad .snsSck s = .low ∧ pad (.snsCs h) s = .high ∧ pad .permitOut s = .low ∧ pad .tdo s = .highZ ∧
    pad .ospiClk s = .low ∧ pad .ospiCs s = .high ∧ pad .ospiRst s = .low ∧ pad .ospiData s = .input ∧
    pad .capData s = .input ∧ pad .capXoff s = .high ∧ pad .capHold s = .high) ∧
  (∀ (s : State) (p : Fin 3), ¬ (pad (.spindleGate p true) s = .high ∧ pad (.spindleGate p false) s = .high))
end

