-- ==== Sys2Proof/Laws/Fields.lean ====
section
/-!
SUPPORT. The laws of fields, bits and sets of numbered things: which bits a field takes, and what setting or clearing one leaves.
-/
namespace Sys2Proof.Laws
open Sys2Proof Sys2Proof.Machine

set_option Elab.async false

theorem testBit_two_pow_mul (v lo j : Nat) : (v * 2 ^ lo).testBit j = (decide (lo ≤ j) && v.testBit (j - lo)) := by
  rw [← Nat.shiftLeft_eq, Nat.testBit_shiftLeft]

/-- The bits of a value put in its field. -/
theorem getLsbD_fldAt (v hi lo j : Nat) :
    (fldAt v hi lo).getLsbD j = (decide (j < 32) && (decide (lo ≤ j) && (decide (j - lo < hi - lo + 1) && v.testBit (j - lo)))) := by
  unfold fldAt
  simp only [BitVec.getLsbD_ofNat, testBit_two_pow_mul, Nat.testBit_mod_two_pow]

/-- The bits of a field read as a number. -/
theorem testBit_fld (w : Word) (hi lo i : Nat) : (fld w hi lo).testBit i = (decide (i < hi - lo + 1) && w.getLsbD (lo + i)) := by
  simp [fld, BitVec.getLsbD, Nat.testBit_mod_two_pow, Nat.testBit_shiftRight]

theorem fld_lt (w : Word) (hi lo : Nat) : fld w hi lo < 2 ^ (hi - lo + 1) := Nat.mod_lt _ (Nat.two_pow_pos _)

/-- One bit set, the others as they were. -/
theorem getLsbD_setBit {n : Nat} (x : BitVec n) (k j : Nat) : (setBit x k).getLsbD j = (x.getLsbD j || (decide (j < n) && decide (j = k))) := by
  unfold setBit
  rw [BitVec.getLsbD_or, BitVec.getLsbD_ofNat, Nat.testBit_two_pow]
  by_cases h : k = j
  · simp [h]
  · simp [h, Ne.symm h]

theorem getLsbD_bitAt (b : Bool) (n j : Nat) : (bitAt b n).getLsbD j = (b && (decide (j < 32) && decide (j = n))) := by
  unfold bitAt
  cases b with
  | false => simp
  | true =>
    simp only [if_true, BitVec.getLsbD_ofNat, Nat.testBit_two_pow, Bool.true_and]
    by_cases h : n = j
    · simp [h]
    · simp [h, Ne.symm h]

end Sys2Proof.Laws
end

