-- ==== Sys2Proof/Laws/Frame.lean ====
section
/-!
SUPPORT. Frames: what a function leaves as it was, and how frames follow one another.
-/
namespace Sys2Proof.Machine

theorem StillRuns.refl {x : Sys} : StillRuns x x := ⟨rfl, rfl, rfl, rfl, id⟩

theorem StillRuns.trans {x y z : Sys} (h : StillRuns x y) (g : StillRuns y z) : StillRuns x z :=
  ⟨g.1.trans h.1, g.2.1.trans h.2.1, g.2.2.1.trans h.2.2.1, g.2.2.2.1.trans h.2.2.2.1, fun e => g.2.2.2.2 (h.2.2.2.2 e)⟩

theorem StillRuns.ite {x y z : Sys} {c : Prop} [Decidable c] (h : StillRuns x y) (g : StillRuns x z) : StillRuns x (if c then y else z) := by
  split <;> assumption

theorem SameBindings.refl {f : Flt} : SameBindings f f := ⟨rfl, rfl, rfl, rfl⟩

theorem SameBindings.trans {f g h : Flt} (a : SameBindings f g) (b : SameBindings g h) : SameBindings f h :=
  ⟨b.1.trans a.1, b.2.1.trans a.2.1, b.2.2.1.trans a.2.2.1, b.2.2.2.trans a.2.2.2⟩

theorem SameBindings.ite {f g h : Flt} {c : Prop} [Decidable c] (a : SameBindings f g) (b : SameBindings f h) :
    SameBindings f (if c then g else h) := by
  split <;> assumption

theorem addFaultRecord_binds (r : FaultRecord) (f : Flt) : SameBindings f (addFaultRecord r f) := by
  unfold addFaultRecord
  split <;> (try split) <;> exact ⟨rfl, rfl, rfl, rfl⟩

end Sys2Proof.Machine

namespace Sys2Proof.Laws
open Sys2Proof Sys2Proof.Machine

set_option Elab.async false

/-! ### The memory's canonical form -/

theorem above_mono {lo hi : Nat} {m : List Host.Cell} (h : lo ≤ hi) (w : Memory.above hi m = true) : Memory.above lo m = true := by
  cases m with
  | nil => rfl
  | cons c t => simp only [Memory.above, Bool.and_eq_true, decide_eq_true_eq] at *; exact ⟨⟨Nat.le_trans h w.1.1, w.1.2⟩, w.2⟩

/-- Removing a key keeps the form. -/
theorem above_del {lo : Nat} {m : List Host.Cell} (w : Memory.above lo m = true) (a : Nat) : Memory.above lo (keyDel m a) = true := by
  induction m generalizing lo with
  | nil => rfl
  | cons c t ih =>
    simp only [Memory.above, keyDel, Bool.and_eq_true, decide_eq_true_eq] at *
    split
    · exact above_mono (by omega) w.2
    · simp only [Memory.above, Bool.and_eq_true, decide_eq_true_eq]; exact ⟨w.1, ih w.2⟩

/-- Putting a byte that is not 0 keeps the form. -/
theorem above_put {lo : Nat} {m : List Host.Cell} (w : Memory.above lo m = true) {a : Nat} (ha : lo ≤ a) {b : Byte} (hb : b ≠ 0) :
    Memory.above lo (keyPut m a b) = true := by
  induction m generalizing lo with
  | nil => simp only [keyPut, Memory.above, Bool.and_eq_true, decide_eq_true_eq]; exact ⟨⟨ha, hb⟩, trivial⟩
  | cons c t ih =>
    simp only [Memory.above, keyPut, Bool.and_eq_true, decide_eq_true_eq] at *
    split
    · simp only [Memory.above, Bool.and_eq_true, decide_eq_true_eq]; exact ⟨⟨ha, hb⟩, ⟨⟨by omega, w.1.2⟩, w.2⟩⟩
    · split
      · subst_vars; simp only [Memory.above, Bool.and_eq_true, decide_eq_true_eq]; exact ⟨⟨ha, hb⟩, w.2⟩
      · simp only [Memory.above, Bool.and_eq_true, decide_eq_true_eq]; exact ⟨w.1, ih w.2 (by omega)⟩

/-- A write of one byte keeps the form. -/
theorem memory_set {m : List Host.Cell} (w : Memory.wf m = true) (a : Nat) (b : Byte) : Memory.wf (keySet m a b 0) = true := by
  unfold keySet
  split
  · exact above_del w a
  · exact above_put w (Nat.zero_le a) ‹_›

theorem above_filter {lo : Nat} {m : List Host.Cell} (w : Memory.above lo m = true) (p : Host.Cell → Bool) :
    Memory.above lo (m.filter p) = true := by
  induction m generalizing lo with
  | nil => rfl
  | cons c t ih =>
    simp only [Memory.above, Bool.and_eq_true, decide_eq_true_eq] at w
    simp only [List.filter_cons]
    split
    · simp only [Memory.above, Bool.and_eq_true, decide_eq_true_eq]; exact ⟨w.1, ih w.2⟩
    · exact above_mono (by omega) (ih w.2)

/-- Cells dropped keep the form. -/
theorem memory_filter {m : List Host.Cell} (w : Memory.wf m = true) (p : Host.Cell → Bool) : Memory.wf (m.filter p) = true := above_filter w p

/-! ### Frames -/

/-- Every part of l is in k. -/
def sub (l k : Parts) : Bool :=
  (!l.sys || k.sys) && (!l.flt || k.flt) && (!l.pwr || k.pwr) && (!l.clk || k.clk) && (!l.spn || k.spn) && (!l.srv || k.srv) && (!l.port || k.port) && (!l.sns || k.sns) && (!l.yck || k.yck) && (!l.lane || k.lane) && (!l.ddp || k.ddp) && (!l.media || k.media) && (!l.dma || k.dma) && (!l.hqm || k.hqm) && (!l.cap || k.cap) && (!l.stc || k.stc) && (!l.spe || k.spe) && (!l.arr || k.arr) && (!l.hif || k.hif) && (!l.host || k.host) && (!l.mem || k.mem) && (!l.free || k.free) && (!l.rst || k.rst) && (!l.bind || k.bind)

/-- From s to t only parts of k change; the queue stays; the memory stays canonical; free values are only used up. -/
structure Frame (k : Parts) (s t : State) : Prop where
  queue : t.pending = s.pending
  used : s.free ≤ t.free
  canon : Memory.wf s.mem = true → Memory.wf t.mem = true
  only : t = patch k s t
  runs : k.rst = true ∨ StillRuns s.sys t.sys
  binds : k.bind = true ∨ SameBindings s.flt t.flt

/-- What a part of a larger set leaves, the larger set leaves. -/
theorem or_trans {k l : Bool} {α : Type} {R : α → α → Prop} (tr : ∀ {x y z}, R x y → R y z → R x z) {x y z : α} (e : (!l || k) = true)
    (h : k = true ∨ R x y) (g : l = true ∨ R y z) : k = true ∨ R x z := by
  cases k <;> cases l <;> simp_all
  exact tr h g

theorem patch_self (k : Parts) (s : State) : patch k s s = s := by
  unfold patch
  simp only [Bool.cond_self]

theorem Frame.refl {k : Parts} {s : State} : Frame k s s :=
  ⟨rfl, Nat.le_refl _, id, (patch_self k s).symm, .inr .refl, .inr .refl⟩

theorem bif_trans {α : Type} {k l : Bool} {a b c : α} (h : (!l || k) = true) (h₁ : b = bif k then b else a) (h₂ : c = bif l then c else b) :
    c = bif k then c else a := by
  cases k <;> cases l <;> simp_all

theorem patch_trans {k l : Parts} {s t u : State} (h : sub l k = true) (h₁ : t = patch k s t) (h₂ : u = patch l t u) :
    u = patch k s u := by
  simp only [sub, Bool.and_eq_true, and_assoc] at h
  obtain ⟨h0, h1, h2, h3, h4, h5, h6, h7, h8, h9, h10, h11, h12, h13, h14, h15, h16, h17, h18, h19, h20, h21, _, _⟩ := h
  have e₁ := State.mk.inj ((congrArg (fun x : State => x) h₁ : (⟨t.sys, t.flt, t.pwr, t.clk, t.spn, t.srv, t.port, t.sns, t.yck, t.lane, t.ddp, t.media, t.dma, t.hqm, t.cap, t.stc, t.spe, t.arr, t.hif, t.host, t.mem, t.free, t.pending⟩ : State) = patch k s t))
  have e₂ := State.mk.inj ((congrArg (fun x : State => x) h₂ : (⟨u.sys, u.flt, u.pwr, u.clk, u.spn, u.srv, u.port, u.sns, u.yck, u.lane, u.ddp, u.media, u.dma, u.hqm, u.cap, u.stc, u.spe, u.arr, u.hif, u.host, u.mem, u.free, u.pending⟩ : State) = patch l t u))
  obtain ⟨a0, a1, a2, a3, a4, a5, a6, a7, a8, a9, a10, a11, a12, a13, a14, a15, a16, a17, a18, a19, a20, a21, _⟩ := e₁
  obtain ⟨b0, b1, b2, b3, b4, b5, b6, b7, b8, b9, b10, b11, b12, b13, b14, b15, b16, b17, b18, b19, b20, b21, _⟩ := e₂
  exact congr (congr (congr (congr (congr (congr (congr (congr (congr (congr (congr (congr (congr (congr (congr (congr (congr (congr (congr (congr (congr (congr (congrArg State.mk
    (bif_trans h0 a0 b0)) (bif_trans h1 a1 b1)) (bif_trans h2 a2 b2)) (bif_trans h3 a3 b3)) (bif_trans h4 a4 b4)) (bif_trans h5 a5 b5)) (bif_trans h6 a6 b6)) (bif_trans h7 a7 b7)) (bif_trans h8 a8 b8)) (bif_trans h9 a9 b9)) (bif_trans h10 a10 b10)) (bif_trans h11 a11 b11)) (bif_trans h12 a12 b12)) (bif_trans h13 a13 b13)) (bif_trans h14 a14 b14)) (bif_trans h15 a15 b15)) (bif_trans h16 a16 b16)) (bif_trans h17 a17 b17)) (bif_trans h18 a18 b18)) (bif_trans h19 a19 b19)) (bif_trans h20 a20 b20)) (bif_trans h21 a21 b21)) rfl

/-- A step of a larger function: what has been shown so far, then a function whose frame is known. -/
theorem Frame.step {k l : Parts} {s t u : State} (h₁ : Frame k s t) (h₂ : Frame l t u) (h : sub l k = true) : Frame k s u :=
  by
  have e := h
  simp only [sub, Bool.and_eq_true, and_assoc] at e
  obtain ⟨_, _, _, _, _, _, _, _, _, _, _, _, _, _, _, _, _, _, _, _, _, _, er, eb⟩ := e
  exact ⟨h₂.queue.trans h₁.queue, Nat.le_trans h₁.used h₂.used, fun w => h₂.canon (h₁.canon w), patch_trans h h₁.only h₂.only,
    or_trans (R := StillRuns) StillRuns.trans er h₁.runs h₂.runs, or_trans (R := SameBindings) SameBindings.trans eb h₁.binds h₂.binds⟩

/-- A part that a record update leaves as it was. -/
theorem frSame {P : Prop} {α : Type} {a : α} : P ∨ a = a := .inr rfl

/-- A part that the record update may change. -/
theorem frMine {P : Prop} {b : Bool} : b = b ∨ P := .inl rfl

/-- A record update of parts in k that leaves memory, free values and queue. -/
theorem Frame.upd {k : Parts} {s t u : State} (h₁ : Frame k s t) (q : u.pending = t.pending) (m : u.mem = t.mem) (f : u.free = t.free)
    (e : u = patch k t u) (r : k.rst = true ∨ StillRuns t.sys u.sys) (b : k.bind = true ∨ SameBindings t.flt u.flt) : Frame k s u :=
  Frame.step h₁ ⟨q, Nat.le_of_eq f.symm, fun w => m ▸ w, e, r, b⟩ (by simp [sub])

/-- What has been shown of a value, used of what is built from it. -/
theorem Frame.cut {k : Parts} {s t : State} {P : Prop} (h : Frame k s t) (f : Frame k s t → P) : P := f h

theorem Frame.cutTo {k : Parts} {s t u : State} (h : Frame k s t) (f : Frame k s t → Frame k s u) : Frame k s u := f h

theorem Frame.snd {α : Type} {k : Parts} {s t : State} {a : α} (h : Frame k s t) : Frame k s (a, t).2 := h

theorem Frame.fst {α : Type} {k : Parts} {s t : State} {a : α} (h : Frame k s t) : Frame k s (t, a).1 := h

theorem bif_or {α : Type} {k : Bool} {a b : α} (h : k = true ∨ a = b) : a = bif k then a else b := by
  cases k <;> simp_all

/-- A record update of parts in k that leaves memory, free values and queue. -/
theorem Frame.ofMk {k : Parts} {s t : State} {a0} {a1} {a2} {a3} {a4} {a5} {a6} {a7} {a8} {a9} {a10} {a11} {a12} {a13} {a14} {a15} {a16} {a17} {a18} {a19} {a20} {a21} {q} (h : Frame k s t)
    (h0 : k.sys = true ∨ a0 = t.sys) (h1 : k.flt = true ∨ a1 = t.flt) (h2 : k.pwr = true ∨ a2 = t.pwr) (h3 : k.clk = true ∨ a3 = t.clk) (h4 : k.spn = true ∨ a4 = t.spn) (h5 : k.srv = true ∨ a5 = t.srv) (h6 : k.port = true ∨ a6 = t.port) (h7 : k.sns = true ∨ a7 = t.sns) (h8 : k.yck = true ∨ a8 = t.yck) (h9 : k.lane = true ∨ a9 = t.lane) (h10 : k.ddp = true ∨ a10 = t.ddp) (h11 : k.media = true ∨ a11 = t.media) (h12 : k.dma = true ∨ a12 = t.dma) (h13 : k.hqm = true ∨ a13 = t.hqm) (h14 : k.cap = true ∨ a14 = t.cap) (h15 : k.stc = true ∨ a15 = t.stc) (h16 : k.spe = true ∨ a16 = t.spe) (h17 : k.arr = true ∨ a17 = t.arr) (h18 : k.hif = true ∨ a18 = t.hif) (h19 : k.host = true ∨ a19 = t.host)
    (h20 : a20 = t.mem) (h21 : a21 = t.free) (hq : q = t.pending) (hr : k.rst = true ∨ StillRuns t.sys a0)
    (hb : k.bind = true ∨ SameBindings t.flt a1) :
    Frame k s ⟨a0, a1, a2, a3, a4, a5, a6, a7, a8, a9, a10, a11, a12, a13, a14, a15, a16, a17, a18, a19, a20, a21, q⟩ := by
  subst h20 h21 hq
  refine Frame.step (l := k) h ⟨rfl, Nat.le_refl _, id, ?_, hr, hb⟩ (by simp [sub])
  exact congr (congr (congr (congr (congr (congr (congr (congr (congr (congr (congr (congr (congr (congr (congr (congr (congr (congr (congr (congr (congr (congr (congrArg State.mk (bif_or h0)) (bif_or h1)) (bif_or h2)) (bif_or h3)) (bif_or h4)) (bif_or h5)) (bif_or h6)) (bif_or h7)) (bif_or h8)) (bif_or h9)) (bif_or h10)) (bif_or h11)) (bif_or h12)) (bif_or h13)) (bif_or h14)) (bif_or h15)) (bif_or h16)) (bif_or h17)) (bif_or h18)) (bif_or h19)) (Bool.cond_self _ _).symm) (Bool.cond_self _ _).symm) rfl

theorem bool_trans : ∀ {x y z : Bool}, (!x || y) = true → (!y || z) = true → (!x || z) = true := by decide

theorem and_lift {p q r x y z : Bool} (f : p = true → q = true → r = true) (h : (p && (!x || y)) = true) (g : (q && (!y || z)) = true) :
    (r && (!x || z)) = true :=
  Bool.and_eq_true_iff.mpr ⟨f (Bool.and_eq_true_iff.mp h).1 (Bool.and_eq_true_iff.mp g).1,
    bool_trans (Bool.and_eq_true_iff.mp h).2 (Bool.and_eq_true_iff.mp g).2⟩

theorem sub_trans {a b c : Parts} : sub a b = true → sub b c = true → sub a c = true := by
  unfold sub
  iterate 23 refine and_lift ?_
  exact bool_trans

theorem Frame.foldl {α : Type} {k : Parts} {s : State} (g : State → α → State) (l : List α) {t : State} (h : Frame k s t)
    (hg : ∀ u x, Frame k s u → Frame k s (g u x)) : Frame k s (l.foldl g t) := by
  induction l generalizing t with
  | nil => exact h
  | cons x l ih => exact ih (hg t x h)

theorem Frame.foldr {α : Type} {k : Parts} {s : State} (g : α → State → State) (l : List α) {t : State} (h : Frame k s t)
    (hg : ∀ u x, Frame k s u → Frame k s (g x u)) : Frame k s (l.foldr g t) := by
  induction l with
  | nil => exact h
  | cons x l ih => exact hg _ x ih

/-- A function that also answers a value: the state it answers. -/
theorem Frame.pair {α : Type} {k : Parts} {s b : State} {e : α × State} {a : α} (h : Frame k s e.2) (he : e = (a, b)) : Frame k s b := by
  rw [he] at h; exact h

theorem Frame.pair' {α : Type} {k : Parts} {s a : State} {e : State × α} {b : α} (h : Frame k s e.1) (he : e = (a, b)) : Frame k s a := by
  rw [he] at h; exact h

theorem Frame.triple {α β : Type} {k : Parts} {s b : State} {e : α × β × State} {a : α} {c : β} (h : Frame k s e.2.2) (he : e = (a, c, b)) :
    Frame k s b := by
  rw [he] at h; exact h

theorem Frame.getD {k : Parts} {s d : State} {o : Option State} (h : ∀ t, o = some t → Frame k s t) (hd : Frame k s d) :
    Frame k s (o.getD d) := by
  cases o with
  | none => exact hd
  | some t => exact h t rfl

theorem Frame.getDMap {α : Type} {k : Parts} {s d : State} {o : Option α} {f : α → State} (hd : Frame k s d) (h : ∀ a, Frame k s (f a)) :
    Frame k s ((o.map f).getD d) := by
  cases o with
  | none => exact hd
  | some a => exact h a

/-- What a function that may answer nothing answers. -/
theorem Frame.some {k : Parts} {s x b : State} (h : Frame k s x) (e : Option.some x = Option.some b) : Frame k s b := by
  cases e; exact h

theorem Frame.somePair {α : Type} {k : Parts} {s x b : State} {y z : α} (h : Frame k s x) (e : Option.some (y, x) = Option.some (z, b)) :
    Frame k s b := by
  cases e; exact h

theorem Frame.none {α : Type} {b : α} {P : Prop} (e : Option.none = Option.some b) : P := by cases e

theorem Frame.ite {k : Parts} {s a b : State} {c : Prop} [Decidable c] (ha : Frame k s a) (hb : Frame k s b) :
    Frame k s (if c then a else b) := by split <;> assumption

/-- What the block is commanded while it is not in reset changes what the command's function changes. -/
theorem Frame.act {k : Parts} {s t : State} {f : State → State} (h : Frame k s (f s)) (e : Machine.act s f = .next t) : Frame k s t := by
  unfold Machine.act at e
  split at e
  · cases e; exact Frame.refl
  · cases e; exact h

theorem Frame.next {k : Parts} {s t u : State} (h : Frame k s u) (e : (Host.Outcome.next u : Host.Outcome State Fault Refusal) = .next t) :
    Frame k s t := by
  cases e; exact h

/-! ### What a frame leaves -/

theorem Frame.keep_sys {k : Parts} {s t : State} (h : Frame k s t) (e : k.sys = false := by rfl) : t.sys = s.sys := by
  have o := congrArg State.sys h.only
  simpa only [patch, e, cond_false] using o

theorem Frame.keep_flt {k : Parts} {s t : State} (h : Frame k s t) (e : k.flt = false := by rfl) : t.flt = s.flt := by
  have o := congrArg State.flt h.only
  simpa only [patch, e, cond_false] using o

theorem Frame.keep_pwr {k : Parts} {s t : State} (h : Frame k s t) (e : k.pwr = false := by rfl) : t.pwr = s.pwr := by
  have o := congrArg State.pwr h.only
  simpa only [patch, e, cond_false] using o

theorem Frame.keep_clk {k : Parts} {s t : State} (h : Frame k s t) (e : k.clk = false := by rfl) : t.clk = s.clk := by
  have o := congrArg State.clk h.only
  simpa only [patch, e, cond_false] using o

theorem Frame.keep_spn {k : Parts} {s t : State} (h : Frame k s t) (e : k.spn = false := by rfl) : t.spn = s.spn := by
  have o := congrArg State.spn h.only
  simpa only [patch, e, cond_false] using o

theorem Frame.keep_srv {k : Parts} {s t : State} (h : Frame k s t) (e : k.srv = false := by rfl) : t.srv = s.srv := by
  have o := congrArg State.srv h.only
  simpa only [patch, e, cond_false] using o

theorem Frame.keep_port {k : Parts} {s t : State} (h : Frame k s t) (e : k.port = false := by rfl) : t.port = s.port := by
  have o := congrArg State.port h.only
  simpa only [patch, e, cond_false] using o

theorem Frame.keep_sns {k : Parts} {s t : State} (h : Frame k s t) (e : k.sns = false := by rfl) : t.sns = s.sns := by
  have o := congrArg State.sns h.only
  simpa only [patch, e, cond_false] using o

theorem Frame.keep_yck {k : Parts} {s t : State} (h : Frame k s t) (e : k.yck = false := by rfl) : t.yck = s.yck := by
  have o := congrArg State.yck h.only
  simpa only [patch, e, cond_false] using o

theorem Frame.keep_lane {k : Parts} {s t : State} (h : Frame k s t) (e : k.lane = false := by rfl) : t.lane = s.lane := by
  have o := congrArg State.lane h.only
  simpa only [patch, e, cond_false] using o

theorem Frame.keep_ddp {k : Parts} {s t : State} (h : Frame k s t) (e : k.ddp = false := by rfl) : t.ddp = s.ddp := by
  have o := congrArg State.ddp h.only
  simpa only [patch, e, cond_false] using o

theorem Frame.keep_media {k : Parts} {s t : State} (h : Frame k s t) (e : k.media = false := by rfl) : t.media = s.media := by
  have o := congrArg State.media h.only
  simpa only [patch, e, cond_false] using o

theorem Frame.keep_dma {k : Parts} {s t : State} (h : Frame k s t) (e : k.dma = false := by rfl) : t.dma = s.dma := by
  have o := congrArg State.dma h.only
  simpa only [patch, e, cond_false] using o

theorem Frame.keep_hqm {k : Parts} {s t : State} (h : Frame k s t) (e : k.hqm = false := by rfl) : t.hqm = s.hqm := by
  have o := congrArg State.hqm h.only
  simpa only [patch, e, cond_false] using o

theorem Frame.keep_cap {k : Parts} {s t : State} (h : Frame k s t) (e : k.cap = false := by rfl) : t.cap = s.cap := by
  have o := congrArg State.cap h.only
  simpa only [patch, e, cond_false] using o

theorem Frame.keep_stc {k : Parts} {s t : State} (h : Frame k s t) (e : k.stc = false := by rfl) : t.stc = s.stc := by
  have o := congrArg State.stc h.only
  simpa only [patch, e, cond_false] using o

theorem Frame.keep_spe {k : Parts} {s t : State} (h : Frame k s t) (e : k.spe = false := by rfl) : t.spe = s.spe := by
  have o := congrArg State.spe h.only
  simpa only [patch, e, cond_false] using o

theorem Frame.keep_arr {k : Parts} {s t : State} (h : Frame k s t) (e : k.arr = false := by rfl) : t.arr = s.arr := by
  have o := congrArg State.arr h.only
  simpa only [patch, e, cond_false] using o

theorem Frame.keep_hif {k : Parts} {s t : State} (h : Frame k s t) (e : k.hif = false := by rfl) : t.hif = s.hif := by
  have o := congrArg State.hif h.only
  simpa only [patch, e, cond_false] using o

theorem Frame.keep_host {k : Parts} {s t : State} (h : Frame k s t) (e : k.host = false := by rfl) : t.host = s.host := by
  have o := congrArg State.host h.only
  simpa only [patch, e, cond_false] using o

theorem Frame.keep_mem {k : Parts} {s t : State} (h : Frame k s t) (e : k.mem = false := by rfl) : t.mem = s.mem := by
  have o := congrArg State.mem h.only
  simpa only [patch, e, cond_false] using o

theorem Frame.keep_free {k : Parts} {s t : State} (h : Frame k s t) (e : k.free = false := by rfl) : t.free = s.free := by
  have o := congrArg State.free h.only
  simpa only [patch, e, cond_false] using o

end Sys2Proof.Laws
end

