-- ==== Sys2Proof/Laws/PartSets.lean ====
section
/-!
SUPPORT. Names for the sets of parts that many operations share.
-/
namespace Sys2Proof.Laws
open Sys2Proof Sys2Proof.Machine

/-- What engineFaultW may change. -/
abbrev partsEngineFaultW : Parts :=
  { sys := true, flt := true, spn := true, srv := true, port := true, yck := true, lane := true, ddp := true, dma := true, hqm := true, cap := true, stc := true, spe := true, arr := true, hif := true, mem := true }

/-- What replicaLost may change. -/
abbrev partsReplicaLost : Parts :=
  { sys := true, flt := true, spn := true, srv := true, port := true, yck := true, lane := true, ddp := true, media := true, dma := true, hqm := true, cap := true, stc := true, spe := true, arr := true, hif := true, host := true, mem := true }

/-- What addLost may change. -/
abbrev partsAddLost : Parts :=
  { spe := true, arr := true, hif := true, mem := true }

/-- What assignTarget may change. -/
abbrev partsAssignTarget : Parts :=
  { media := true, spe := true, arr := true, hif := true, mem := true, free := true }

/-- What zoneAction may change. -/
abbrev partsZoneAction : Parts :=
  { lane := true, media := true, spe := true, arr := true, hif := true, mem := true, free := true }

/-- What eraseDo may change. -/
abbrev partsEraseDo : Parts :=
  { media := true, spe := true, arr := true, hif := true, host := true, mem := true }

/-- What kick may change. -/
abbrev partsKick : Parts :=
  { lane := true, media := true, spe := true, arr := true, hif := true, host := true, mem := true, free := true }

/-- What yarnHeadLost may change. -/
abbrev partsYarnHeadLost : Parts :=
  { sys := true, flt := true, spn := true, srv := true, port := true, yck := true, lane := true, ddp := true, media := true, dma := true, hqm := true, cap := true, stc := true, spe := true, arr := true, hif := true, host := true, mem := true, free := true }

/-- What gaugeEntryApply may change. -/
abbrev partsGaugeEntryApply : Parts :=
  { sys := true, flt := true, spn := true, srv := true, port := true, yck := true, lane := true, ddp := true, media := true, dma := true, hqm := true, cap := true, stc := true, spe := true, arr := true, hif := true, mem := true }

/-- What deliver may change. -/
abbrev partsDeliver : Parts :=
  { lane := true, media := true, stc := true, arr := true, hif := true }

/-- What opFinish may change. -/
abbrev partsOpFinish : Parts :=
  { sys := true, flt := true, spn := true, srv := true, port := true, yck := true, lane := true, ddp := true, media := true, dma := true, hqm := true, cap := true, stc := true, spe := true, arr := true, hif := true, mem := true, free := true }

/-- What romParity may change. -/
abbrev partsRomParity : Parts :=
  { sys := true, flt := true, spn := true, srv := true, port := true, yck := true, lane := true, ddp := true, dma := true, hqm := true, cap := true, stc := true, spe := true, arr := true, hif := true, mem := true, free := true }

/-- What srvWrite may change. -/
abbrev partsSrvWrite : Parts :=
  { sys := true, flt := true, spn := true, srv := true, port := true, yck := true, lane := true, ddp := true, dma := true, hqm := true, cap := true, stc := true, spe := true, arr := true, hif := true, mem := true, bind := true }

/-- What pwrEvent may change. -/
abbrev partsPwrEvent : Parts :=
  { sys := true, flt := true, pwr := true, spn := true, srv := true, port := true, yck := true, lane := true, ddp := true, dma := true, hqm := true, cap := true, stc := true, spe := true, arr := true, hif := true, mem := true }

/-- What nextPs may change. -/
abbrev partsNextPs : Parts :=
  { sys := true, flt := true, pwr := true, spn := true, srv := true, port := true, yck := true, lane := true, ddp := true, dma := true, hqm := true, cap := true, stc := true, spe := true, arr := true, hif := true, host := true, mem := true }

/-- What startIo may change. -/
abbrev partsStartIo : Parts :=
  { sys := true, flt := true, pwr := true, spn := true, srv := true, port := true, yck := true, lane := true, ddp := true, media := true, dma := true, hqm := true, cap := true, stc := true, spe := true, arr := true, hif := true, host := true, mem := true, free := true }

/-- What abandonCommands may change. -/
abbrev partsAbandonCommands : Parts :=
  { stc := true, arr := true, hif := true, host := true }

/-- Every part. -/
abbrev allParts : Parts :=
  { sys := true, flt := true, pwr := true, clk := true, spn := true, srv := true, port := true, sns := true, yck := true, lane := true, ddp := true, media := true, dma := true, hqm := true, cap := true, stc := true, spe := true, arr := true, hif := true, host := true, mem := true, free := true, rst := true, bind := true }

/-- What clkEvent may change. -/
abbrev partsClkEvent : Parts :=
  { sys := true, flt := true, clk := true, spn := true, srv := true, port := true, yck := true, lane := true, ddp := true, dma := true, hqm := true, cap := true, stc := true, spe := true, arr := true, hif := true, mem := true }

/-- What burstTail may change. -/
abbrev busParts : Parts :=
  { sys := true, flt := true, pwr := true, clk := true, spn := true, srv := true, port := true, sns := true, yck := true, lane := true, ddp := true, media := true, dma := true, hqm := true, cap := true, stc := true, spe := true, arr := true, hif := true, host := true, mem := true, free := true, bind := true }

/-- What requalify may change. -/
abbrev partsRequalify : Parts :=
  { spe := true, arr := true, hif := true, host := true, mem := true }

/-- What miCommand may change. -/
abbrev partsMiCommand : Parts :=
  { sys := true, flt := true, pwr := true, spn := true, srv := true, port := true, yck := true, lane := true, ddp := true, dma := true, hqm := true, cap := true, stc := true, spe := true, arr := true, hif := true, host := true, mem := true, free := true }

end Sys2Proof.Laws
end

