-- ==== Sys2Proof/Laws/Frames/Gate.lean ====
section
/-!
SUPPORT. The frames of the operations of Machine/Gate.lean: the parts each may change.
-/
namespace Sys2Proof.Laws
open Sys2Proof Sys2Proof.Machine

set_option linter.all false
set_option Elab.async false

theorem yckBoundary_frame {k : Parts} {s t : State} 
    (h : Frame k s t) (hk : sub { yck := true } k = true) :
    Frame k s (yckBoundary t) := by
  refine Frame.step h (l := { yck := true }) ?_ hk
  clear h hk
  unfold yckBoundary
  repeat' first
    | (extract_lets +onlyGivenNames -merge -underBinder x; first | (with_reducible refine Frame.cutTo (t := x) ?_ ?_; rotate_left; (try clear_value x); rename _ => y; intro hx; rotate_left; clear_value (hh : x = _); subst hh) | (clear_value x; rename _ => y) | (have hq := x; clear hq; rename _ => y))
    | with_reducible exact Frame.ofMk (by first | exact Frame.refl | assumption) frSame frSame frSame frSame frSame frSame frSame frSame frMine frSame frSame frSame frSame frSame frSame frSame frSame frSame frSame frSame rfl rfl rfl (.inr .refl) (.inr .refl)
    | with_reducible apply Frame.refl
    | with_reducible assumption

theorem setLane_frame {k : Parts} {s t : State} {a0 : LaneIx} {a1 : Lane}
    (h : Frame k s t) (hk : sub { lane := true } k = true) :
    Frame k s (setLane a0 a1 t) := by
  refine Frame.step h (l := { lane := true }) ?_ hk
  clear h hk
  unfold setLane
  repeat' first
    | (extract_lets +onlyGivenNames -merge -underBinder x; first | (with_reducible refine Frame.cutTo (t := x) ?_ ?_; rotate_left; (try clear_value x); rename _ => y; intro hx; rotate_left; clear_value (hh : x = _); subst hh) | (clear_value x; rename _ => y) | (have hq := x; clear hq; rename _ => y))
    | with_reducible exact Frame.ofMk (by first | exact Frame.refl | assumption) frSame frSame frSame frSame frSame frSame frSame frSame frSame frMine frSame frSame frSame frSame frSame frSame frSame frSame frSame frSame rfl rfl rfl (.inr .refl) (.inr .refl)
    | with_reducible apply Frame.refl
    | with_reducible assumption

theorem guardLane_frame {k : Parts} {s t : State} {a0 : LaneIx}
    (h : Frame k s t) (hk : sub { lane := true } k = true) :
    Frame k s (guardLane a0 t) := by
  refine Frame.step h (l := { lane := true }) ?_ hk
  clear h hk
  unfold guardLane
  repeat' first
    | (extract_lets +onlyGivenNames -merge -underBinder x; first | (with_reducible refine Frame.cutTo (t := x) ?_ ?_; rotate_left; (try clear_value x); rename _ => y; intro hx; rotate_left; clear_value (hh : x = _); subst hh) | (clear_value x; rename _ => y) | (have hq := x; clear hq; rename _ => y))
    | with_reducible refine setLane_frame ?_ (by with_unfolding_all rfl)
    | with_reducible apply Frame.ite
    | with_reducible exact Frame.ofMk (by first | exact Frame.refl | assumption) frSame frSame frSame frSame frSame frSame frSame frSame frSame frMine frSame frSame frSame frSame frSame frSame frSame frSame frSame frSame rfl rfl rfl (.inr .refl) (.inr .refl)
    | with_reducible apply Frame.refl
    | with_reducible assumption
    | split

theorem guardAll_frame {k : Parts} {s t : State} 
    (h : Frame k s t) (hk : sub { lane := true } k = true) :
    Frame k s (guardAll t) := by
  refine Frame.step h (l := { lane := true }) ?_ hk
  clear h hk
  unfold guardAll
  repeat' first
    | with_reducible refine guardLane_frame ?_ (by with_unfolding_all rfl)
    | with_reducible apply Frame.foldl
    | with_reducible apply Frame.refl
    | with_reducible assumption
    | intro _ _ _
    | intro _ _

theorem actInhibit_frame {k : Parts} {s t : State} {a0 : ActIx}
    (h : Frame k s t) (hk : sub { lane := true } k = true) :
    Frame k s (actInhibit a0 t) := by
  refine Frame.step h (l := { lane := true }) ?_ hk
  clear h hk
  unfold actInhibit
  repeat' first
    | with_reducible refine guardLane_frame ?_ (by with_unfolding_all rfl)
    | with_reducible apply Frame.refl
    | with_reducible assumption

end Sys2Proof.Laws
end

