-- ==== Sys2Proof/Laws/Frames/HostEvents.lean ====
section
/-!
SUPPORT. The frames of the operations of Machine/HostEvents.lean: the parts each may change.
-/
namespace Sys2Proof.Laws
open Sys2Proof Sys2Proof.Machine

set_option linter.all false
set_option Elab.async false

theorem setCtl_frame {k : Parts} {s t : State} {a0 : CtlIx} {a1 : Ctl}
    (h : Frame k s t) (hk : sub { hif := true } k = true) :
    Frame k s (setCtl a0 a1 t) := by
  refine Frame.step h (l := { hif := true }) ?_ hk
  clear h hk
  unfold setCtl
  repeat' first
    | (extract_lets +onlyGivenNames -merge -underBinder x; first | (with_reducible refine Frame.cutTo (t := x) ?_ ?_; rotate_left; (try clear_value x); rename _ => y; intro hx; rotate_left; clear_value (hh : x = _); subst hh) | (clear_value x; rename _ => y) | (have hq := x; clear hq; rename _ => y))
    | with_reducible exact Frame.ofMk (by first | exact Frame.refl | assumption) frSame frSame frSame frSame frSame frSame frSame frSame frSame frSame frSame frSame frSame frSame frSame frSame frSame frSame frMine frSame rfl rfl rfl (.inr .refl) (.inr .refl)
    | with_reducible apply Frame.refl
    | with_reducible assumption

theorem setFeature_frame {k : Parts} {s t : State} {a0 : Nat} {a1 : Nat}
    (h : Frame k s t) (hk : sub { host := true } k = true) :
    Frame k s (setFeature a0 a1 t) := by
  refine Frame.step h (l := { host := true }) ?_ hk
  clear h hk
  unfold setFeature
  repeat' first
    | (extract_lets +onlyGivenNames -merge -underBinder x; first | (with_reducible refine Frame.cutTo (t := x) ?_ ?_; rotate_left; (try clear_value x); rename _ => y; intro hx; rotate_left; clear_value (hh : x = _); subst hh) | (clear_value x; rename _ => y) | (have hq := x; clear hq; rename _ => y))
    | with_reducible exact Frame.ofMk (by first | exact Frame.refl | assumption) frSame frSame frSame frSame frSame frSame frSame frSame frSame frSame frSame frSame frSame frSame frSame frSame frSame frSame frSame frMine rfl rfl rfl (.inr .refl) (.inr .refl)
    | with_reducible apply Frame.refl
    | with_reducible assumption
    | assumption

theorem unlock_frame {k : Parts} {s t : State} {a0 : Nat}
    (h : Frame k s t) (hk : sub { hif := true } k = true) :
    Frame k s (unlock a0 t) := by
  refine Frame.step h (l := { hif := true }) ?_ hk
  clear h hk
  unfold unlock
  repeat' first
    | (extract_lets +onlyGivenNames -merge -underBinder x; first | (with_reducible refine Frame.cutTo (t := x) ?_ ?_; rotate_left; (try clear_value x); rename _ => y; intro hx; rotate_left; clear_value (hh : x = _); subst hh) | (clear_value x; rename _ => y) | (have hq := x; clear hq; rename _ => y))
    | with_reducible exact Frame.ofMk (by first | exact Frame.refl | assumption) frSame frSame frSame frSame frSame frSame frSame frSame frSame frSame frSame frSame frSame frSame frSame frSame frSame frSame frMine frSame rfl rfl rfl (.inr .refl) (.inr .refl)
    | with_reducible apply Frame.refl
    | with_reducible assumption

theorem complete_frame {k : Parts} {s t : State} {a0 : Nat} {a1 : Nat} {a2 : Status} {a3 : Nat} {a4 : Nat} {a5 : List Nat}
    (h : Frame k s t) (hk : sub { hif := true } k = true) :
    Frame k s (complete a0 a1 a2 a3 a4 a5 t) := by
  refine Frame.step h (l := { hif := true }) ?_ hk
  clear h hk
  unfold complete
  repeat' first
    | (extract_lets +onlyGivenNames -merge -underBinder x; first | (with_reducible refine Frame.cutTo (t := x) ?_ ?_; rotate_left; (try clear_value x); rename _ => y; intro hx; rotate_left; clear_value (hh : x = _); subst hh) | (clear_value x; rename _ => y) | (have hq := x; clear hq; rename _ => y))
    | with_reducible refine unlock_frame ?_ (by with_unfolding_all rfl)
    | with_reducible apply Frame.ite
    | with_reducible exact Frame.ofMk (by first | exact Frame.refl | assumption) frSame frSame frSame frSame frSame frSame frSame frSame frSame frSame frSame frSame frSame frSame frSame frSame frSame frSame frMine frSame rfl rfl rfl (.inr .refl) (.inr .refl)
    | with_reducible apply Frame.refl
    | with_reducible assumption
    | split

theorem reportEvent_frame {k : Parts} {s t : State} {a0 : CtlIx} {a1 : Nat}
    (h : Frame k s t) (hk : sub { hif := true } k = true) :
    Frame k s (reportEvent a0 a1 t) := by
  refine Frame.step h (l := { hif := true }) ?_ hk
  clear h hk
  unfold reportEvent
  repeat' first
    | (extract_lets +onlyGivenNames -merge -underBinder x; first | (with_reducible refine Frame.cutTo (t := x) ?_ ?_; rotate_left; (try clear_value x); rename _ => y; intro hx; rotate_left; clear_value (hh : x = _); subst hh) | (clear_value x; rename _ => y) | (have hq := x; clear hq; rename _ => y))
    | with_reducible refine complete_frame ?_ (by with_unfolding_all rfl)
    | with_reducible refine setCtl_frame ?_ (by with_unfolding_all rfl)
    | with_reducible exact Frame.ofMk (by first | exact Frame.refl | assumption) frSame frSame frSame frSame frSame frSame frSame frSame frSame frSame frSame frSame frSame frSame frSame frSame frSame frSame frMine frSame rfl rfl rfl (.inr .refl) (.inr .refl)
    | with_reducible apply Frame.refl
    | with_reducible assumption
    | split

theorem eventTo_frame {k : Parts} {s t : State} {a0 : CtlIx} {a1 : Nat}
    (h : Frame k s t) (hk : sub { hif := true } k = true) :
    Frame k s (eventTo a0 a1 t) := by
  refine Frame.step h (l := { hif := true }) ?_ hk
  clear h hk
  unfold eventTo
  repeat' first
    | (extract_lets +onlyGivenNames -merge -underBinder x; first | (with_reducible refine Frame.cutTo (t := x) ?_ ?_; rotate_left; (try clear_value x); rename _ => y; intro hx; rotate_left; clear_value (hh : x = _); subst hh) | (clear_value x; rename _ => y) | (have hq := x; clear hq; rename _ => y))
    | with_reducible refine reportEvent_frame ?_ (by with_unfolding_all rfl)
    | with_reducible apply Frame.ite
    | with_reducible apply Frame.refl
    | with_reducible assumption
    | split

theorem event_frame {k : Parts} {s t : State} {a0 : Nat}
    (h : Frame k s t) (hk : sub { hif := true } k = true) :
    Frame k s (event a0 t) := by
  refine Frame.step h (l := { hif := true }) ?_ hk
  clear h hk
  unfold event
  repeat' first
    | with_reducible refine eventTo_frame ?_ (by with_unfolding_all rfl)
    | with_reducible apply Frame.refl
    | with_reducible assumption

theorem vendorEvent_frame {k : Parts} {s t : State} {a0 : Nat}
    (h : Frame k s t) (hk : sub { hif := true } k = true) :
    Frame k s (vendorEvent a0 t) := by
  refine Frame.step h (l := { hif := true }) ?_ hk
  clear h hk
  unfold vendorEvent
  repeat' first
    | with_reducible refine event_frame ?_ (by with_unfolding_all rfl)
    | with_reducible apply Frame.refl
    | with_reducible assumption

theorem noteChange_frame {k : Parts} {s t : State} 
    (h : Frame k s t) (hk : sub { arr := true } k = true) :
    Frame k s (noteChange t) := by
  refine Frame.step h (l := { arr := true }) ?_ hk
  clear h hk
  unfold noteChange
  repeat' first
    | (extract_lets +onlyGivenNames -merge -underBinder x; first | (with_reducible refine Frame.cutTo (t := x) ?_ ?_; rotate_left; (try clear_value x); rename _ => y; intro hx; rotate_left; clear_value (hh : x = _); subst hh) | (clear_value x; rename _ => y) | (have hq := x; clear hq; rename _ => y))
    | with_reducible exact Frame.ofMk (by first | exact Frame.refl | assumption) frSame frSame frSame frSame frSame frSame frSame frSame frSame frSame frSame frSame frSame frSame frSame frSame frSame frMine frSame frSame rfl rfl rfl (.inr .refl) (.inr .refl)
    | with_reducible apply Frame.refl
    | with_reducible assumption

theorem historyNote_frame {k : Parts} {s t : State} {a0 : Nat} {a1 : Nat} {a2 : Nat}
    (h : Frame k s t) (hk : sub { flt := true } k = true) :
    Frame k s (historyNote a0 a1 a2 t) := by
  refine Frame.step h (l := { flt := true }) ?_ hk
  clear h hk
  unfold historyNote
  repeat' first
    | (extract_lets +onlyGivenNames -merge -underBinder x; first | (with_reducible refine Frame.cutTo (t := x) ?_ ?_; rotate_left; (try clear_value x); rename _ => y; intro hx; rotate_left; clear_value (hh : x = _); subst hh) | (have hq : Flt := x; clear hq; rename _ => y) | (clear_value x; rename _ => y) | (have hq := x; clear hq; rename _ => y))
    | with_reducible exact Frame.ofMk (by first | exact Frame.refl | assumption) frSame frMine frSame frSame frSame frSame frSame frSame frSame frSame frSame frSame frSame frSame frSame frSame frSame frSame frSame frSame rfl rfl rfl (.inr .refl) (by first | exact .inr .refl | exact .inr ⟨rfl, rfl, rfl, rfl⟩ | exact .inr (addFaultRecord_binds _ _) | with_unfolding_all exact .inr ⟨rfl, rfl, rfl, rfl⟩)
    | with_reducible apply Frame.refl
    | with_reducible assumption

end Sys2Proof.Laws
end

