-- ==== Sys2Proof/Laws/Frames/Extents.lean ====
section
/-!
SUPPORT. The frames of the operations of Machine/Extents.lean: the parts each may change.
-/
namespace Sys2Proof.Laws
open Sys2Proof Sys2Proof.Machine

set_option linter.all false
set_option Elab.async false

theorem spareShort_frame {k : Parts} {s t : State} 
    (h : Frame k s t) (hk : sub { arr := true, hif := true } k = true) :
    Frame k s (spareShort t) := by
  refine Frame.step h (l := { arr := true, hif := true }) ?_ hk
  clear h hk
  unfold spareShort
  repeat' first
    | (extract_lets +onlyGivenNames -merge -underBinder x; first | (with_reducible refine Frame.cutTo (t := x) ?_ ?_; rotate_left; (try clear_value x); rename _ => y; intro hx; rotate_left; clear_value (hh : x = _); subst hh) | (clear_value x; rename _ => y) | (have hq := x; clear hq; rename _ => y))
    | with_reducible refine vendorEvent_frame ?_ (by with_unfolding_all rfl)
    | with_reducible refine noteChange_frame ?_ (by with_unfolding_all rfl)
    | with_reducible apply Frame.ite
    | with_reducible exact Frame.ofMk (by first | exact Frame.refl | assumption) frSame frSame frSame frSame frSame frSame frSame frSame frSame frSame frSame frSame frSame frSame frSame frSame frSame frMine frMine frSame rfl rfl rfl (.inr .refl) (.inr .refl)
    | with_reducible apply Frame.refl
    | with_reducible assumption
    | split

theorem takeSpare_frame {k : Parts} {s t : State} {a0 : Nat}
    (h : Frame k s t) (hk : sub { arr := true, hif := true } k = true) :
    Frame k s (takeSpare a0 t) := by
  refine Frame.step h (l := { arr := true, hif := true }) ?_ hk
  clear h hk
  unfold takeSpare
  repeat' first
    | (extract_lets +onlyGivenNames -merge -underBinder x; first | (with_reducible refine Frame.cutTo (t := x) ?_ ?_; rotate_left; (try clear_value x); rename _ => y; intro hx; rotate_left; clear_value (hh : x = _); subst hh) | (clear_value x; rename _ => y) | (have hq := x; clear hq; rename _ => y))
    | with_reducible refine spareShort_frame ?_ (by with_unfolding_all rfl)
    | with_reducible apply Frame.ite
    | with_reducible exact Frame.ofMk (by first | exact Frame.refl | assumption) frSame frSame frSame frSame frSame frSame frSame frSame frSame frSame frSame frSame frSame frSame frSame frSame frSame frMine frMine frSame rfl rfl rfl (.inr .refl) (.inr .refl)
    | with_reducible apply Frame.refl
    | with_reducible assumption
    | split

theorem extentFree_frame {k : Parts} {s t : State} {a0 : Nat}
    (h : Frame k s t) (hk : sub { arr := true } k = true) :
    Frame k s (extentFree a0 t) := by
  refine Frame.step h (l := { arr := true }) ?_ hk
  clear h hk
  unfold extentFree
  repeat' first
    | (extract_lets +onlyGivenNames -merge -underBinder x; first | (with_reducible refine Frame.cutTo (t := x) ?_ ?_; rotate_left; (try clear_value x); rename _ => y; intro hx; rotate_left; clear_value (hh : x = _); subst hh) | (clear_value x; rename _ => y) | (have hq := x; clear hq; rename _ => y))
    | with_reducible apply Frame.ite
    | with_reducible exact Frame.ofMk (by first | exact Frame.refl | assumption) frSame frSame frSame frSame frSame frSame frSame frSame frSame frSame frSame frSame frSame frSame frSame frSame frSame frMine frSame frSame rfl rfl rfl (.inr .refl) (.inr .refl)
    | with_reducible apply Frame.refl
    | with_reducible assumption
    | split

theorem resetExtent_frame {k : Parts} {s t : State} {a0 : Extent}
    (h : Frame k s t) (hk : sub { media := true, arr := true } k = true) :
    Frame k s (resetExtent a0 t) := by
  refine Frame.step h (l := { media := true, arr := true }) ?_ hk
  clear h hk
  unfold resetExtent
  repeat' first
    | (extract_lets +onlyGivenNames -merge -underBinder x; first | (with_reducible refine Frame.cutTo (t := x) ?_ ?_; rotate_left; (try clear_value x); rename _ => y; intro hx; rotate_left; clear_value (hh : x = _); subst hh) | (clear_value x; rename _ => y) | (have hq := x; clear hq; rename _ => y))
    | with_reducible refine extentFree_frame ?_ (by with_unfolding_all rfl)
    | with_reducible apply Frame.ite
    | with_reducible exact Frame.ofMk (by first | exact Frame.refl | assumption) frSame frSame frSame frSame frSame frSame frSame frSame frSame frSame frSame frMine frSame frSame frSame frSame frSame frMine frSame frSame rfl rfl rfl (.inr .refl) (.inr .refl)
    | with_reducible apply Frame.refl
    | with_reducible assumption
    | split

theorem resetExtents_frame {k : Parts} {s t : State} {a0 : Nat}
    (h : Frame k s t) (hk : sub { media := true, arr := true } k = true) :
    Frame k s (resetExtents a0 t) := by
  refine Frame.step h (l := { media := true, arr := true }) ?_ hk
  clear h hk
  unfold resetExtents
  repeat' first
    | with_reducible refine resetExtent_frame ?_ (by with_unfolding_all rfl)
    | with_reducible apply Frame.foldl
    | with_reducible apply Frame.refl
    | with_reducible assumption
    | intro _ _ _
    | intro _ _

theorem giveExtent_frame {k : Parts} {s t : State} {a0 : Nat} {a1 : Nat} {a2 : Nat} {a3 : Bool}
    (h : Frame k s t) (hk : sub { media := true } k = true) :
    Frame k s (giveExtent a0 a1 a2 a3 t) := by
  refine Frame.step h (l := { media := true }) ?_ hk
  clear h hk
  unfold giveExtent
  repeat' first
    | (extract_lets +onlyGivenNames -merge -underBinder x; first | (with_reducible refine Frame.cutTo (t := x) ?_ ?_; rotate_left; (try clear_value x); rename _ => y; intro hx; rotate_left; clear_value (hh : x = _); subst hh) | (clear_value x; rename _ => y) | (have hq := x; clear hq; rename _ => y))
    | with_reducible apply Frame.ite
    | with_reducible exact Frame.ofMk (by first | exact Frame.refl | assumption) frSame frSame frSame frSame frSame frSame frSame frSame frSame frSame frSame frMine frSame frSame frSame frSame frSame frSame frSame frSame rfl rfl rfl (.inr .refl) (.inr .refl)
    | with_reducible apply Frame.refl
    | with_reducible assumption
    | split

theorem giveExtents_frame {k : Parts} {s t : State} {a0 : Nat} {a1 : Nat} {a2 : Bool} {a3 : List Nat}
    (h : Frame k s t) (hk : sub { media := true } k = true) :
    Frame k s (giveExtents a0 a1 a2 a3 t) := by
  refine Frame.step h (l := { media := true }) ?_ hk
  clear h hk
  unfold giveExtents
  repeat' first
    | with_reducible refine giveExtent_frame ?_ (by with_unfolding_all rfl)
    | with_reducible apply Frame.foldl
    | with_reducible apply Frame.refl
    | with_reducible assumption
    | intro _ _ _
    | intro _ _

theorem degradeExtent_frame {k : Parts} {s t : State} {a0 : Nat} {a1 : Nat} {a2 : Nat}
    (h : Frame k s t) (hk : sub { media := true, arr := true, hif := true } k = true) :
    Frame k s (degradeExtent a0 a1 a2 t) := by
  refine Frame.step h (l := { media := true, arr := true, hif := true }) ?_ hk
  clear h hk
  unfold degradeExtent
  repeat' first
    | (extract_lets +onlyGivenNames -merge -underBinder x; first | (with_reducible refine Frame.cutTo (t := x) ?_ ?_; rotate_left; (try clear_value x); rename _ => y; intro hx; rotate_left; clear_value (hh : x = _); subst hh) | (clear_value x; rename _ => y) | (have hq := x; clear hq; rename _ => y))
    | with_reducible refine takeSpare_frame ?_ (by with_unfolding_all rfl)
    | with_reducible refine spareShort_frame ?_ (by with_unfolding_all rfl)
    | with_reducible apply Frame.ite
    | with_reducible exact Frame.ofMk (by first | exact Frame.refl | assumption) frSame frSame frSame frSame frSame frSame frSame frSame frSame frSame frSame frMine frSame frSame frSame frSame frSame frMine frMine frSame rfl rfl rfl (.inr .refl) (.inr .refl)
    | with_reducible apply Frame.refl
    | with_reducible assumption
    | split

theorem endExtent_frame {k : Parts} {s t : State} {a0 : Option Extent}
    (h : Frame k s t) (hk : sub { media := true, arr := true } k = true) :
    Frame k s (endExtent a0 t) := by
  refine Frame.step h (l := { media := true, arr := true }) ?_ hk
  clear h hk
  unfold endExtent
  repeat' first
    | with_reducible refine resetExtent_frame ?_ (by with_unfolding_all rfl)
    | with_reducible exact Frame.ofMk (by first | exact Frame.refl | assumption) frSame frSame frSame frSame frSame frSame frSame frSame frSame frSame frSame frMine frSame frSame frSame frSame frSame frMine frSame frSame rfl rfl rfl (.inr .refl) (.inr .refl)
    | with_reducible apply Frame.refl
    | with_reducible assumption
    | split

theorem moveExtent_frame {k : Parts} {s t : State} {a0 : Nat} {a1 : Nat} {a2 : Nat} {a3 : Bool}
    (h : Frame k s t) (hk : sub { media := true, arr := true } k = true) :
    Frame k s (moveExtent a0 a1 a2 a3 t) := by
  refine Frame.step h (l := { media := true, arr := true }) ?_ hk
  clear h hk
  unfold moveExtent
  repeat' first
    | (extract_lets +onlyGivenNames -merge -underBinder x; first | (with_reducible refine Frame.cutTo (t := x) ?_ ?_; rotate_left; (try clear_value x); rename _ => y; intro hx; rotate_left; clear_value (hh : x = _); subst hh) | (clear_value x; rename _ => y) | (have hq := x; clear hq; rename _ => y))
    | with_reducible refine endExtent_frame ?_ (by with_unfolding_all rfl)
    | with_reducible refine Frame.getDMap ?_ (fun _ => ?_)
    | with_reducible apply Frame.getD
    | with_reducible exact Frame.ofMk (by first | exact Frame.refl | assumption) frSame frSame frSame frSame frSame frSame frSame frSame frSame frSame frSame frMine frSame frSame frSame frSame frSame frMine frSame frSame rfl rfl rfl (.inr .refl) (.inr .refl)
    | with_reducible apply Frame.refl
    | with_reducible assumption
    | intro _ _ _
    | intro _ _
    | split

theorem dropExtents_frame {k : Parts} {s t : State} {a0 : Nat} {a1 : List Nat}
    (h : Frame k s t) (hk : sub { media := true, arr := true } k = true) :
    Frame k s (dropExtents a0 a1 t) := by
  refine Frame.step h (l := { media := true, arr := true }) ?_ hk
  clear h hk
  unfold dropExtents
  repeat' first
    | (extract_lets +onlyGivenNames -merge -underBinder x; first | (with_reducible refine Frame.cutTo (t := x) ?_ ?_; rotate_left; (try clear_value x); rename _ => y; intro hx; rotate_left; clear_value (hh : x = _); subst hh) | (clear_value x; rename _ => y) | (have hq := x; clear hq; rename _ => y))
    | with_reducible refine resetExtent_frame ?_ (by with_unfolding_all rfl)
    | with_reducible apply Frame.foldl
    | with_reducible exact Frame.ofMk (by first | exact Frame.refl | assumption) frSame frSame frSame frSame frSame frSame frSame frSame frSame frSame frSame frMine frSame frSame frSame frSame frSame frMine frSame frSame rfl rfl rfl (.inr .refl) (.inr .refl)
    | with_reducible apply Frame.refl
    | with_reducible assumption
    | intro _ _ _
    | intro _ _

theorem dropMembers_frame {k : Parts} {s t : State} {a0 : Nat} {a1 : List Nat}
    (h : Frame k s t) (hk : sub { media := true } k = true) :
    Frame k s (dropMembers a0 a1 t) := by
  refine Frame.step h (l := { media := true }) ?_ hk
  clear h hk
  unfold dropMembers
  repeat' first
    | (extract_lets +onlyGivenNames -merge -underBinder x; first | (with_reducible refine Frame.cutTo (t := x) ?_ ?_; rotate_left; (try clear_value x); rename _ => y; intro hx; rotate_left; clear_value (hh : x = _); subst hh) | (clear_value x; rename _ => y) | (have hq := x; clear hq; rename _ => y))
    | with_reducible exact Frame.ofMk (by first | exact Frame.refl | assumption) frSame frSame frSame frSame frSame frSame frSame frSame frSame frSame frSame frMine frSame frSame frSame frSame frSame frSame frSame frSame rfl rfl rfl (.inr .refl) (.inr .refl)
    | with_reducible apply Frame.refl
    | with_reducible assumption

theorem switchExtents_frame {k : Parts} {s t : State} {a0 : Nat} {a1 : Nat} {a2 : Bool} {a3 : Bool} {a4 : List Nat}
    (h : Frame k s t) (hk : sub { media := true, arr := true, hif := true } k = true) :
    Frame k s (switchExtents a0 a1 a2 a3 a4 t) := by
  refine Frame.step h (l := { media := true, arr := true, hif := true }) ?_ hk
  clear h hk
  unfold switchExtents
  repeat' first
    | (extract_lets +onlyGivenNames -merge -underBinder x; first | (with_reducible refine Frame.cutTo (t := x) ?_ ?_; rotate_left; (try clear_value x); rename _ => y; intro hx; rotate_left; clear_value (hh : x = _); subst hh) | (clear_value x; rename _ => y) | (have hq := x; clear hq; rename _ => y))
    | with_reducible refine dropExtents_frame ?_ (by with_unfolding_all rfl)
    | with_reducible refine moveExtent_frame ?_ (by with_unfolding_all rfl)
    | with_reducible refine degradeExtent_frame ?_ (by with_unfolding_all rfl)
    | with_reducible apply Frame.foldl
    | with_reducible apply Frame.ite
    | with_reducible apply Frame.refl
    | with_reducible assumption
    | intro _ _ _
    | intro _ _
    | split

theorem targetExtent_frame {k : Parts} {s t : State} {a0 : Nat} {a1 : Nat} {a2 : Nat} {a3 : Nat}
    (h : Frame k s t) (hk : sub { media := true } k = true) :
    Frame k s (targetExtent a0 a1 a2 a3 t) := by
  refine Frame.step h (l := { media := true }) ?_ hk
  clear h hk
  unfold targetExtent
  repeat' first
    | (extract_lets +onlyGivenNames -merge -underBinder x; first | (with_reducible refine Frame.cutTo (t := x) ?_ ?_; rotate_left; (try clear_value x); rename _ => y; intro hx; rotate_left; clear_value (hh : x = _); subst hh) | (clear_value x; rename _ => y) | (have hq := x; clear hq; rename _ => y))
    | with_reducible apply Frame.ite
    | with_reducible exact Frame.ofMk (by first | exact Frame.refl | assumption) frSame frSame frSame frSame frSame frSame frSame frSame frSame frSame frSame frMine frSame frSame frSame frSame frSame frSame frSame frSame rfl rfl rfl (.inr .refl) (.inr .refl)
    | with_reducible apply Frame.refl
    | with_reducible assumption
    | split

theorem migrateExtent_frame {k : Parts} {s t : State} {a0 : Nat} {a1 : Nat} {a2 : Nat} {a3 : Bool}
    (h : Frame k s t) (hk : sub { media := true, arr := true } k = true) :
    Frame k s (migrateExtent a0 a1 a2 a3 t) := by
  refine Frame.step h (l := { media := true, arr := true }) ?_ hk
  clear h hk
  unfold migrateExtent
  repeat' first
    | with_reducible refine moveExtent_frame ?_ (by with_unfolding_all rfl)
    | with_reducible apply Frame.refl
    | with_reducible assumption

theorem completeGroups_frame {k : Parts} {s t : State} {a0 : Nat}
    (h : Frame k s t) (hk : sub { lane := true, media := true } k = true) :
    Frame k s (completeGroups a0 t) := by
  refine Frame.step h (l := { lane := true, media := true }) ?_ hk
  clear h hk
  unfold completeGroups
  repeat' first
    | (extract_lets +onlyGivenNames -merge -underBinder x; first | (with_reducible refine Frame.cutTo (t := x) ?_ ?_; rotate_left; (try clear_value x); rename _ => y; intro hx; rotate_left; clear_value (hh : x = _); subst hh) | (clear_value x; rename _ => y) | (have hq := x; clear hq; rename _ => y))
    | with_reducible refine setLane_frame ?_ (by with_unfolding_all rfl)
    | with_reducible apply Frame.foldl
    | with_reducible apply Frame.ite
    | with_reducible exact Frame.ofMk (by first | exact Frame.refl | assumption) frSame frSame frSame frSame frSame frSame frSame frSame frSame frMine frSame frMine frSame frSame frSame frSame frSame frSame frSame frSame rfl rfl rfl (.inr .refl) (.inr .refl)
    | with_reducible apply Frame.refl
    | with_reducible assumption
    | intro _ _ _
    | intro _ _
    | split

theorem markGroups_frame {k : Parts} {s t : State} {a0 : Nat} {a1 : GroupState} {a2 : List (Nat × Nat)}
    (h : Frame k s t) (hk : sub { media := true } k = true) :
    Frame k s (markGroups a0 a1 a2 t) := by
  refine Frame.step h (l := { media := true }) ?_ hk
  clear h hk
  unfold markGroups
  repeat' first
    | (extract_lets +onlyGivenNames -merge -underBinder x; first | (with_reducible refine Frame.cutTo (t := x) ?_ ?_; rotate_left; (try clear_value x); rename _ => y; intro hx; rotate_left; clear_value (hh : x = _); subst hh) | (clear_value x; rename _ => y) | (have hq := x; clear hq; rename _ => y))
    | with_reducible apply Frame.foldl
    | with_reducible exact Frame.ofMk (by first | exact Frame.refl | assumption) frSame frSame frSame frSame frSame frSame frSame frSame frSame frSame frSame frMine frSame frSame frSame frSame frSame frSame frSame frSame rfl rfl rfl (.inr .refl) (.inr .refl)
    | with_reducible apply Frame.refl
    | with_reducible assumption
    | intro _ _ _
    | intro _ _

end Sys2Proof.Laws
end

