-- ==== Sys2Proof/Laws/Frames/Ops.lean ====
section
/-!
SUPPORT. The frames of the operations of Machine/Ops.lean: the parts each may change.
-/
namespace Sys2Proof.Laws
open Sys2Proof Sys2Proof.Machine

set_option linter.all false
set_option Elab.async false

theorem writeByte_frame {k : Parts} {s t : State} {a1 : Nat} {a2 : Byte}
    (h : Frame k s t) (hk : sub { mem := true } k = true) :
    Frame k s (writeByte t a1 a2) := by
  exact Frame.step h (l := { mem := true }) ⟨rfl, Nat.le_refl _, fun w => memory_set w _ _, rfl, .inr .refl, .inr .refl⟩ hk

theorem writeLE_frame {k : Parts} {s t : State} {a1 : Nat} {a2 : Nat} {a3 : Nat}
    (h : Frame k s t) (hk : sub { mem := true } k = true) :
    Frame k s (writeLE t a1 a2 a3) := by
  refine Frame.step h (l := { mem := true }) ?_ hk
  clear h hk
  fun_induction writeLE t a1 a2 a3
  repeat' first
    | with_reducible refine Frame.step ?_ (by assumption) (by with_unfolding_all rfl)
    | with_reducible refine writeByte_frame ?_ (by with_unfolding_all rfl)
    | with_reducible exact Frame.ofMk (by first | exact Frame.refl | assumption) frSame frSame frSame frSame frSame frSame frSame frSame frSame frSame frSame frSame frSame frSame frSame frSame frSame frSame frSame frSame rfl rfl rfl (.inr .refl) (.inr .refl)
    | with_reducible apply Frame.refl
    | with_reducible assumption
    | split

theorem writeBytes_frame {k : Parts} {s t : State} {a1 : Nat} {a2 : List Byte}
    (h : Frame k s t) (hk : sub { mem := true } k = true) :
    Frame k s (writeBytes t a1 a2) := by
  refine Frame.step h (l := { mem := true }) ?_ hk
  clear h hk
  fun_induction writeBytes t a1 a2
  repeat' first
    | with_reducible refine Frame.step ?_ (by assumption) (by with_unfolding_all rfl)
    | with_reducible refine writeByte_frame ?_ (by with_unfolding_all rfl)
    | with_reducible exact Frame.ofMk (by first | exact Frame.refl | assumption) frSame frSame frSame frSame frSame frSame frSame frSame frSame frSame frSame frSame frSame frSame frSame frSame frSame frSame frSame frSame rfl rfl rfl (.inr .refl) (.inr .refl)
    | with_reducible apply Frame.refl
    | with_reducible assumption
    | split

theorem copyBytes_frame {k : Parts} {s t : State} {a1 : Nat} {a2 : Nat} {a3 : Nat}
    (h : Frame k s t) (hk : sub { mem := true } k = true) :
    Frame k s (copyBytes t a1 a2 a3) := by
  refine Frame.step h (l := { mem := true }) ?_ hk
  clear h hk
  unfold copyBytes
  repeat' first
    | with_reducible refine writeBytes_frame ?_ (by with_unfolding_all rfl)
    | with_reducible apply Frame.refl
    | with_reducible assumption

theorem freeNext_frame {k : Parts} {s t : State} 
    (h : Frame k s t) (hk : sub { free := true } k = true) :
    Frame k s (freeNext t).2 := by
  exact Frame.step h (l := { free := true }) ⟨rfl, Nat.le_succ _, id, rfl, .inr .refl, .inr .refl⟩ hk

theorem freeNext_pair {k : Parts} {s t : State}  {y : BitVec 64} {b : State} (e : freeNext t = (y, b))
    (h : Frame k s t) (hk : sub { free := true } k = true) :
    Frame k s b := by
  have f := freeNext_frame  h hk
  rw [e] at f; exact f

theorem sourceMark_frame {k : Parts} {s t : State} {a0 : Nat}
    (h : Frame k s t) (hk : sub { flt := true, ddp := true, free := true } k = true) :
    Frame k s (sourceMark a0 t) := by
  refine Frame.step h (l := { flt := true, ddp := true, free := true }) ?_ hk
  clear h hk
  unfold sourceMark
  repeat' first
    | (extract_lets +onlyGivenNames -merge -underBinder x; first | (with_reducible refine Frame.cutTo (t := x) ?_ ?_; rotate_left; (try clear_value x); rename _ => y; intro hx; rotate_left; clear_value (hh : x = _); subst hh) | (with_reducible refine Frame.cutTo (t := (Prod.snd x)) ?_ ?_; rotate_left; (try clear_value x); rename _ => y; intro hx; rotate_left; clear_value (hh : x = _); subst hh) | (have hq : Flt := x; clear hq; rename _ => y) | (clear_value x; rename _ => y) | (have hq := x; clear hq; rename _ => y))
    | split
    | with_reducible refine freeNext_frame ?_ (by with_unfolding_all rfl)
    | with_reducible refine freeNext_pair (by assumption) ?_ (by with_unfolding_all rfl)
    | with_reducible apply Frame.ite
    | with_reducible exact Frame.ofMk (by first | exact Frame.refl | assumption | exact freeNext_pair (by assumption) (by first | exact Frame.refl | assumption | exact freeNext_pair (by assumption) (by first | exact Frame.refl | assumption) (by with_unfolding_all rfl)) (by with_unfolding_all rfl)) frSame frMine frSame frSame frSame frSame frSame frSame frSame frSame frMine frSame frSame frSame frSame frSame frSame frSame frSame frSame rfl rfl rfl (.inr .refl) (by first | exact .inr .refl | exact .inr ⟨rfl, rfl, rfl, rfl⟩ | exact .inr (addFaultRecord_binds _ _) | with_unfolding_all exact .inr ⟨rfl, rfl, rfl, rfl⟩)
    | with_reducible apply Frame.refl
    | with_reducible assumption
    | split

theorem freshMark_frame {k : Parts} {s t : State} {a0 : Nat}
    (h : Frame k s t) (hk : sub { flt := true } k = true) :
    Frame k s (freshMark a0 t) := by
  refine Frame.step h (l := { flt := true }) ?_ hk
  clear h hk
  unfold freshMark
  repeat' first
    | (extract_lets +onlyGivenNames -merge -underBinder x; first | (with_reducible refine Frame.cutTo (t := x) ?_ ?_; rotate_left; (try clear_value x); rename _ => y; intro hx; rotate_left; clear_value (hh : x = _); subst hh) | (have hq : Flt := x; clear hq; rename _ => y) | (clear_value x; rename _ => y) | (have hq := x; clear hq; rename _ => y))
    | with_reducible exact Frame.ofMk (by first | exact Frame.refl | assumption) frSame frMine frSame frSame frSame frSame frSame frSame frSame frSame frSame frSame frSame frSame frSame frSame frSame frSame frSame frSame rfl rfl rfl (.inr .refl) (by first | exact .inr .refl | exact .inr ⟨rfl, rfl, rfl, rfl⟩ | exact .inr (addFaultRecord_binds _ _) | with_unfolding_all exact .inr ⟨rfl, rfl, rfl, rfl⟩)
    | with_reducible apply Frame.refl
    | with_reducible assumption

theorem fltOccur_frame {k : Parts} {s t : State} {a0 : Nat}
    (h : Frame k s t) (hk : sub { sys := true, flt := true } k = true) :
    Frame k s (fltOccur a0 t) := by
  refine Frame.step h (l := { sys := true, flt := true }) ?_ hk
  clear h hk
  unfold fltOccur
  dsimp only
  split
  · exact Frame.ofMk Frame.refl frMine frMine frSame frSame frSame frSame frSame frSame frSame frSame frSame frSame frSame frSame frSame frSame frSame frSame frSame frSame rfl rfl rfl (.inr .refl) (.inr ⟨rfl, rfl, rfl, rfl⟩)
  · exact Frame.ofMk Frame.refl frMine frMine frSame frSame frSame frSame frSame frSame frSame frSame frSame frSame frSame frSame frSame frSame frSame frSame frSame frSame rfl rfl rfl (.inr (.ite ⟨rfl, rfl, rfl, rfl, id⟩ .refl))
      (.inr (.ite ⟨rfl, rfl, rfl, rfl⟩ (.trans ⟨rfl, rfl, rfl, rfl⟩ (addFaultRecord_binds _ _))))

end Sys2Proof.Laws
end

