-- ==== Sys2Proof/Laws/Frames/Raise.lean ====
section
/-!
SUPPORT. The frames of the operations of Machine/Raise.lean: the parts each may change.
-/
namespace Sys2Proof.Laws
open Sys2Proof Sys2Proof.Machine

set_option linter.all false
set_option Elab.async false

theorem spnReseed_frame {k : Parts} {s t : State} 
    (h : Frame k s t) (hk : sub { spn := true } k = true) :
    Frame k s (spnReseed t) := by
  refine Frame.step h (l := { spn := true }) ?_ hk
  clear h hk
  unfold spnReseed
  repeat' first
    | (extract_lets +onlyGivenNames -merge -underBinder x; first | (with_reducible refine Frame.cutTo (t := x) ?_ ?_; rotate_left; (try clear_value x); rename _ => y; intro hx; rotate_left; clear_value (hh : x = _); subst hh) | (clear_value x; rename _ => y) | (have hq := x; clear hq; rename _ => y))
    | with_reducible apply Frame.ite
    | with_reducible exact Frame.ofMk (by first | exact Frame.refl | assumption) frSame frSame frSame frSame frMine frSame frSame frSame frSame frSame frSame frSame frSame frSame frSame frSame frSame frSame frSame frSame rfl rfl rfl (.inr .refl) (.inr .refl)
    | with_reducible apply Frame.refl
    | with_reducible assumption
    | split

theorem engineFaultW_frame {k : Parts} {s t : State} {a0 : Nat → State → State} {a1 : EngIx} (hrz : ∀ j v, Frame partsEngineFaultW v (a0 j v))
    (h : Frame k s t) (hk : sub partsEngineFaultW k = true) :
    Frame k s (engineFaultW a0 a1 t) := by
  refine Frame.step h (l := partsEngineFaultW) ?_ hk
  clear h hk
  unfold engineFaultW
  repeat' first
    | (extract_lets +onlyGivenNames -merge -underBinder x; first | (with_reducible refine Frame.cutTo (t := x) ?_ ?_; rotate_left; (try clear_value x); rename _ => y; intro hx; rotate_left; clear_value (hh : x = _); subst hh) | (have hq : Flt := x; clear hq; rename _ => y) | (have hq : Sys := x; clear hq; rename _ => y) | (clear_value x; rename _ => y) | (have hq := x; clear hq; rename _ => y))
    | with_reducible refine actInhibit_frame ?_ (by with_unfolding_all rfl)
    | with_reducible refine Frame.step ?_ (hrz _ _) (by with_unfolding_all rfl)
    | with_reducible apply Frame.ite
    | with_reducible exact Frame.ofMk (by first | exact Frame.refl | assumption) frMine frMine frSame frSame frMine frMine frMine frSame frMine frMine frMine frSame frMine frMine frMine frMine frMine frMine frMine frSame rfl rfl rfl (by first | exact .inr .refl | exact .inr ⟨rfl, rfl, rfl, rfl, id⟩ | exact .inr ⟨rfl, rfl, rfl, rfl, fun _ => rfl⟩ | exact .inr (.ite ⟨rfl, rfl, rfl, rfl, id⟩ ⟨rfl, rfl, rfl, rfl, id⟩)) (by first | exact .inr .refl | exact .inr ⟨rfl, rfl, rfl, rfl⟩ | exact .inr (addFaultRecord_binds _ _) | with_unfolding_all exact .inr ⟨rfl, rfl, rfl, rfl⟩)
    | with_reducible apply Frame.refl
    | with_reducible assumption
    | split

theorem yckEventW_frame {k : Parts} {s t : State} {a0 : Nat → State → State} {a1 : Nat} (hrz : ∀ j v, Frame partsEngineFaultW v (a0 j v))
    (h : Frame k s t) (hk : sub partsEngineFaultW k = true) :
    Frame k s (yckEventW a0 a1 t) := by
  refine Frame.step h (l := partsEngineFaultW) ?_ hk
  clear h hk
  unfold yckEventW
  repeat' first
    | (extract_lets +onlyGivenNames -merge -underBinder x; first | (with_reducible refine Frame.cutTo (t := x) ?_ ?_; rotate_left; (try clear_value x); rename _ => y; intro hx; rotate_left; clear_value (hh : x = _); subst hh) | (have hq : Flt := x; clear hq; rename _ => y) | (have hq : Sys := x; clear hq; rename _ => y) | (clear_value x; rename _ => y) | (have hq := x; clear hq; rename _ => y))
    | with_reducible refine Frame.step ?_ (hrz _ _) (by with_unfolding_all rfl)
    | with_reducible exact Frame.ofMk (by first | exact Frame.refl | assumption) frMine frMine frSame frSame frMine frMine frMine frSame frMine frMine frMine frSame frMine frMine frMine frMine frMine frMine frMine frSame rfl rfl rfl (by first | exact .inr .refl | exact .inr ⟨rfl, rfl, rfl, rfl, id⟩ | exact .inr ⟨rfl, rfl, rfl, rfl, fun _ => rfl⟩ | exact .inr (.ite ⟨rfl, rfl, rfl, rfl, id⟩ ⟨rfl, rfl, rfl, rfl, id⟩)) (by first | exact .inr .refl | exact .inr ⟨rfl, rfl, rfl, rfl⟩ | exact .inr (addFaultRecord_binds _ _) | with_unfolding_all exact .inr ⟨rfl, rfl, rfl, rfl⟩)
    | with_reducible apply Frame.refl
    | with_reducible assumption

theorem preambleAborts_frame {k : Parts} {s t : State} 
    (h : Frame k s t) (hk : sub { lane := true } k = true) :
    Frame k s (preambleAborts t) := by
  refine Frame.step h (l := { lane := true }) ?_ hk
  clear h hk
  unfold preambleAborts
  repeat' first
    | (extract_lets +onlyGivenNames -merge -underBinder x; first | (with_reducible refine Frame.cutTo (t := x) ?_ ?_; rotate_left; (try clear_value x); rename _ => y; intro hx; rotate_left; clear_value (hh : x = _); subst hh) | (clear_value x; rename _ => y) | (have hq := x; clear hq; rename _ => y))
    | with_reducible refine Frame.getDMap ?_ (fun _ => ?_)
    | with_reducible apply Frame.getD
    | with_reducible apply Frame.ite
    | with_reducible exact Frame.ofMk (by first | exact Frame.refl | assumption) frSame frSame frSame frSame frSame frSame frSame frSame frSame frMine frSame frSame frSame frSame frSame frSame frSame frSame frSame frSame rfl rfl rfl (.inr .refl) (.inr .refl)
    | with_reducible apply Frame.refl
    | with_reducible assumption
    | intro _ _ _
    | intro _ _
    | split

theorem withdrawQueued_frame {k : Parts} {s t : State} 
    (h : Frame k s t) (hk : sub { hqm := true } k = true) :
    Frame k s (withdrawQueued t) := by
  refine Frame.step h (l := { hqm := true }) ?_ hk
  clear h hk
  unfold withdrawQueued
  repeat' first
    | (extract_lets +onlyGivenNames -merge -underBinder x; first | (with_reducible refine Frame.cutTo (t := x) ?_ ?_; rotate_left; (try clear_value x); rename _ => y; intro hx; rotate_left; clear_value (hh : x = _); subst hh) | (have hq : ∀ a, Frame {} t (x a) → True := fun _ _ => trivial; clear hq; rename _ => y) | (have hq : ∀ a b, Frame {} t (x a b) → True := fun _ _ _ => trivial; clear hq; rename _ => y) | (clear_value x; rename _ => y) | (have hq := x; clear hq; rename _ => y))
    | with_reducible refine Frame.getDMap ?_ (fun _ => ?_)
    | with_reducible apply Frame.getD
    | with_reducible exact Frame.ofMk (by first | exact Frame.refl | assumption) frSame frSame frSame frSame frSame frSame frSame frSame frSame frSame frSame frSame frSame frMine frSame frSame frSame frSame frSame frSame rfl rfl rfl (.inr .refl) (.inr .refl)
    | with_reducible apply Frame.refl
    | with_reducible assumption
    | intro _ _ _
    | intro _ _

theorem enterPreamble_frame {k : Parts} {s t : State} {a0 : Nat → State → State} (hrz : ∀ j v, Frame partsEngineFaultW v (a0 j v))
    (h : Frame k s t) (hk : sub partsEngineFaultW k = true) :
    Frame k s (enterPreamble a0 t) := by
  refine Frame.step h (l := partsEngineFaultW) ?_ hk
  clear h hk
  unfold enterPreamble
  repeat' first
    | (extract_lets +onlyGivenNames -merge -underBinder x; first | (with_reducible refine Frame.cutTo (t := x) ?_ ?_; rotate_left; (try clear_value x); rename _ => y; intro hx; rotate_left; clear_value (hh : x = _); subst hh) | (have hq : Flt := x; clear hq; rename _ => y) | (have hq : Sys := x; clear hq; rename _ => y) | (clear_value x; rename _ => y) | (have hq := x; clear hq; rename _ => y))
    | with_reducible refine withdrawQueued_frame ?_ (by with_unfolding_all rfl)
    | with_reducible refine preambleAborts_frame ?_ (by with_unfolding_all rfl)
    | with_reducible refine yckEventW_frame (hrz := by first | assumption | exact fun j v => raise_frame Frame.refl rfl) ?_ (by with_unfolding_all rfl)
    | with_reducible refine guardAll_frame ?_ (by with_unfolding_all rfl)
    | with_reducible refine Frame.step ?_ (hrz _ _) (by with_unfolding_all rfl)
    | with_reducible exact Frame.ofMk (by first | exact Frame.refl | assumption) frMine frMine frSame frSame frMine frMine frMine frSame frMine frMine frMine frSame frMine frMine frMine frMine frMine frMine frMine frSame rfl rfl rfl (by first | exact .inr .refl | exact .inr ⟨rfl, rfl, rfl, rfl, id⟩ | exact .inr ⟨rfl, rfl, rfl, rfl, fun _ => rfl⟩ | exact .inr (.ite ⟨rfl, rfl, rfl, rfl, id⟩ ⟨rfl, rfl, rfl, rfl, id⟩)) (by first | exact .inr .refl | exact .inr ⟨rfl, rfl, rfl, rfl⟩ | exact .inr (addFaultRecord_binds _ _) | with_unfolding_all exact .inr ⟨rfl, rfl, rfl, rfl⟩)
    | with_reducible apply Frame.refl
    | with_reducible assumption
    | intro _ _ _
    | intro _ _

theorem yarnLostW_frame {k : Parts} {s t : State} {a0 : Nat → State → State} {a1 : Fin 2} (hrz : ∀ j v, Frame partsEngineFaultW v (a0 j v))
    (h : Frame k s t) (hk : sub partsEngineFaultW k = true) :
    Frame k s (yarnLostW a0 a1 t) := by
  refine Frame.step h (l := partsEngineFaultW) ?_ hk
  clear h hk
  unfold yarnLostW
  repeat' first
    | (extract_lets +onlyGivenNames -merge -underBinder x; first | (with_reducible refine Frame.cutTo (t := x) ?_ ?_; rotate_left; (try clear_value x); rename _ => y; intro hx; rotate_left; clear_value (hh : x = _); subst hh) | (have hq : Flt := x; clear hq; rename _ => y) | (have hq : Sys := x; clear hq; rename _ => y) | (clear_value x; rename _ => y) | (have hq := x; clear hq; rename _ => y))
    | with_reducible refine yckEventW_frame (hrz := by first | assumption | exact fun j v => raise_frame Frame.refl rfl) ?_ (by with_unfolding_all rfl)
    | with_reducible refine enterPreamble_frame (hrz := by first | assumption | exact fun j v => raise_frame Frame.refl rfl) ?_ (by with_unfolding_all rfl)
    | with_reducible refine guardAll_frame ?_ (by with_unfolding_all rfl)
    | with_reducible refine Frame.step ?_ (hrz _ _) (by with_unfolding_all rfl)
    | with_reducible apply Frame.ite
    | with_reducible exact Frame.ofMk (by first | exact Frame.refl | assumption) frMine frMine frSame frSame frMine frMine frMine frSame frMine frMine frMine frSame frMine frMine frMine frMine frMine frMine frMine frSame rfl rfl rfl (by first | exact .inr .refl | exact .inr ⟨rfl, rfl, rfl, rfl, id⟩ | exact .inr ⟨rfl, rfl, rfl, rfl, fun _ => rfl⟩ | exact .inr (.ite ⟨rfl, rfl, rfl, rfl, id⟩ ⟨rfl, rfl, rfl, rfl, id⟩)) (by first | exact .inr .refl | exact .inr ⟨rfl, rfl, rfl, rfl⟩ | exact .inr (addFaultRecord_binds _ _) | with_unfolding_all exact .inr ⟨rfl, rfl, rfl, rfl⟩)
    | with_reducible apply Frame.refl
    | with_reducible assumption
    | intro _ _ _
    | intro _ _
    | split

theorem rung2SkipW_frame {k : Parts} {s t : State} {a0 : Nat → State → State} {a1 : DeepReq} (hrz : ∀ j v, Frame partsEngineFaultW v (a0 j v))
    (h : Frame k s t) (hk : sub partsEngineFaultW k = true) :
    Frame k s (rung2SkipW a0 a1 t) := by
  refine Frame.step h (l := partsEngineFaultW) ?_ hk
  clear h hk
  unfold rung2SkipW
  repeat' first
    | (extract_lets +onlyGivenNames -merge -underBinder x; first | (with_reducible refine Frame.cutTo (t := x) ?_ ?_; rotate_left; (try clear_value x); rename _ => y; intro hx; rotate_left; clear_value (hh : x = _); subst hh) | (have hq : Flt := x; clear hq; rename _ => y) | (have hq : Sys := x; clear hq; rename _ => y) | (clear_value x; rename _ => y) | (have hq := x; clear hq; rename _ => y))
    | with_reducible refine setLane_frame ?_ (by with_unfolding_all rfl)
    | with_reducible refine Frame.step ?_ (hrz _ _) (by with_unfolding_all rfl)
    | with_reducible apply Frame.foldl
    | with_reducible apply Frame.ite
    | with_reducible exact Frame.ofMk (by first | exact Frame.refl | assumption) frMine frMine frSame frSame frMine frMine frMine frSame frMine frMine frMine frSame frMine frMine frMine frMine frMine frMine frMine frSame rfl rfl rfl (by first | exact .inr .refl | exact .inr ⟨rfl, rfl, rfl, rfl, id⟩ | exact .inr ⟨rfl, rfl, rfl, rfl, fun _ => rfl⟩ | exact .inr (.ite ⟨rfl, rfl, rfl, rfl, id⟩ ⟨rfl, rfl, rfl, rfl, id⟩)) (by first | exact .inr .refl | exact .inr ⟨rfl, rfl, rfl, rfl⟩ | exact .inr (addFaultRecord_binds _ _) | with_unfolding_all exact .inr ⟨rfl, rfl, rfl, rfl⟩)
    | with_reducible apply Frame.refl
    | with_reducible assumption
    | intro _ _ _
    | intro _ _
    | split

theorem poolResetW_frame {k : Parts} {s t : State} {a0 : Nat → State → State} (hrz : ∀ j v, Frame partsEngineFaultW v (a0 j v))
    (h : Frame k s t) (hk : sub partsEngineFaultW k = true) :
    Frame k s (poolResetW a0 t) := by
  refine Frame.step h (l := partsEngineFaultW) ?_ hk
  clear h hk
  unfold poolResetW
  repeat' first
    | (extract_lets +onlyGivenNames -merge -underBinder x; first | (with_reducible refine Frame.cutTo (t := x) ?_ ?_; rotate_left; (try clear_value x); rename _ => y; intro hx; rotate_left; clear_value (hh : x = _); subst hh) | (have hq : Flt := x; clear hq; rename _ => y) | (have hq : Sys := x; clear hq; rename _ => y) | (clear_value x; rename _ => y) | (have hq := x; clear hq; rename _ => y))
    | with_reducible refine rung2SkipW_frame (hrz := by first | assumption | exact fun j v => raise_frame Frame.refl rfl) ?_ (by with_unfolding_all rfl)
    | with_reducible refine Frame.step ?_ (hrz _ _) (by with_unfolding_all rfl)
    | with_reducible apply Frame.foldl
    | with_reducible exact Frame.ofMk (by first | exact Frame.refl | assumption) frMine frMine frSame frSame frMine frMine frMine frSame frMine frMine frMine frSame frMine frMine frMine frMine frMine frMine frMine frSame rfl rfl rfl (by first | exact .inr .refl | exact .inr ⟨rfl, rfl, rfl, rfl, id⟩ | exact .inr ⟨rfl, rfl, rfl, rfl, fun _ => rfl⟩ | exact .inr (.ite ⟨rfl, rfl, rfl, rfl, id⟩ ⟨rfl, rfl, rfl, rfl, id⟩)) (by first | exact .inr .refl | exact .inr ⟨rfl, rfl, rfl, rfl⟩ | exact .inr (addFaultRecord_binds _ _) | with_unfolding_all exact .inr ⟨rfl, rfl, rfl, rfl⟩)
    | with_reducible apply Frame.refl
    | with_reducible assumption
    | assumption
    | intro _ _ _
    | intro _ _

theorem dmaIrqW_frame {k : Parts} {s t : State} {a0 : Nat → State → State} {a1 : ChanIx} (hrz : ∀ j v, Frame partsEngineFaultW v (a0 j v))
    (h : Frame k s t) (hk : sub partsEngineFaultW k = true) :
    Frame k s (dmaIrqW a0 a1 t) := by
  refine Frame.step h (l := partsEngineFaultW) ?_ hk
  clear h hk
  unfold dmaIrqW
  repeat' first
    | (extract_lets +onlyGivenNames -merge -underBinder x; first | (with_reducible refine Frame.cutTo (t := x) ?_ ?_; rotate_left; (try clear_value x); rename _ => y; intro hx; rotate_left; clear_value (hh : x = _); subst hh) | (have hq : Flt := x; clear hq; rename _ => y) | (have hq : Sys := x; clear hq; rename _ => y) | (clear_value x; rename _ => y) | (have hq := x; clear hq; rename _ => y))
    | with_reducible refine Frame.step ?_ (hrz _ _) (by with_unfolding_all rfl)
    | with_reducible exact Frame.ofMk (by first | exact Frame.refl | assumption) frMine frMine frSame frSame frMine frMine frMine frSame frMine frMine frMine frSame frMine frMine frMine frMine frMine frMine frMine frSame rfl rfl rfl (by first | exact .inr .refl | exact .inr ⟨rfl, rfl, rfl, rfl, id⟩ | exact .inr ⟨rfl, rfl, rfl, rfl, fun _ => rfl⟩ | exact .inr (.ite ⟨rfl, rfl, rfl, rfl, id⟩ ⟨rfl, rfl, rfl, rfl, id⟩)) (by first | exact .inr .refl | exact .inr ⟨rfl, rfl, rfl, rfl⟩ | exact .inr (addFaultRecord_binds _ _) | with_unfolding_all exact .inr ⟨rfl, rfl, rfl, rfl⟩)
    | with_reducible apply Frame.refl
    | with_reducible assumption

theorem chanStopW_frame {k : Parts} {s t : State} {a0 : Nat → State → State} {a1 : ChanIx} {a2 : Nat} (hrz : ∀ j v, Frame partsEngineFaultW v (a0 j v))
    (h : Frame k s t) (hk : sub partsEngineFaultW k = true) :
    Frame k s (chanStopW a0 a1 a2 t) := by
  refine Frame.step h (l := partsEngineFaultW) ?_ hk
  clear h hk
  unfold chanStopW
  repeat' first
    | (extract_lets +onlyGivenNames -merge -underBinder x; first | (with_reducible refine Frame.cutTo (t := x) ?_ ?_; rotate_left; (try clear_value x); rename _ => y; intro hx; rotate_left; clear_value (hh : x = _); subst hh) | (have hq : Flt := x; clear hq; rename _ => y) | (have hq : Sys := x; clear hq; rename _ => y) | (clear_value x; rename _ => y) | (have hq := x; clear hq; rename _ => y))
    | with_reducible refine writeLE_frame ?_ (by with_unfolding_all rfl)
    | with_reducible refine dmaIrqW_frame (hrz := by first | assumption | exact fun j v => raise_frame Frame.refl rfl) ?_ (by with_unfolding_all rfl)
    | with_reducible refine Frame.step ?_ (hrz _ _) (by with_unfolding_all rfl)
    | with_reducible exact Frame.ofMk (by first | exact Frame.refl | assumption) frMine frMine frSame frSame frMine frMine frMine frSame frMine frMine frMine frSame frMine frMine frMine frMine frMine frMine frMine frSame rfl rfl rfl (by first | exact .inr .refl | exact .inr ⟨rfl, rfl, rfl, rfl, id⟩ | exact .inr ⟨rfl, rfl, rfl, rfl, fun _ => rfl⟩ | exact .inr (.ite ⟨rfl, rfl, rfl, rfl, id⟩ ⟨rfl, rfl, rfl, rfl, id⟩)) (by first | exact .inr .refl | exact .inr ⟨rfl, rfl, rfl, rfl⟩ | exact .inr (addFaultRecord_binds _ _) | with_unfolding_all exact .inr ⟨rfl, rfl, rfl, rfl⟩)
    | with_reducible apply Frame.refl
    | with_reducible assumption
    | intro _ _ _
    | intro _ _

theorem chanAbortW_frame {k : Parts} {s t : State} {a0 : Nat → State → State} {a1 : ChanIx} (hrz : ∀ j v, Frame partsEngineFaultW v (a0 j v))
    (h : Frame k s t) (hk : sub partsEngineFaultW k = true) :
    Frame k s (chanAbortW a0 a1 t) := by
  refine Frame.step h (l := partsEngineFaultW) ?_ hk
  clear h hk
  unfold chanAbortW
  repeat' first
    | (extract_lets +onlyGivenNames -merge -underBinder x; first | (with_reducible refine Frame.cutTo (t := x) ?_ ?_; rotate_left; (try clear_value x); rename _ => y; intro hx; rotate_left; clear_value (hh : x = _); subst hh) | (have hq : Flt := x; clear hq; rename _ => y) | (have hq : Sys := x; clear hq; rename _ => y) | (clear_value x; rename _ => y) | (have hq := x; clear hq; rename _ => y))
    | with_reducible refine chanStopW_frame (hrz := by first | assumption | exact fun j v => raise_frame Frame.refl rfl) ?_ (by with_unfolding_all rfl)
    | with_reducible refine Frame.step ?_ (hrz _ _) (by with_unfolding_all rfl)
    | with_reducible exact Frame.ofMk (by first | exact Frame.refl | assumption) frMine frMine frSame frSame frMine frMine frMine frSame frMine frMine frMine frSame frMine frMine frMine frMine frMine frMine frMine frSame rfl rfl rfl (by first | exact .inr .refl | exact .inr ⟨rfl, rfl, rfl, rfl, id⟩ | exact .inr ⟨rfl, rfl, rfl, rfl, fun _ => rfl⟩ | exact .inr (.ite ⟨rfl, rfl, rfl, rfl, id⟩ ⟨rfl, rfl, rfl, rfl, id⟩)) (by first | exact .inr .refl | exact .inr ⟨rfl, rfl, rfl, rfl⟩ | exact .inr (addFaultRecord_binds _ _) | with_unfolding_all exact .inr ⟨rfl, rfl, rfl, rfl⟩)
    | with_reducible apply Frame.refl
    | with_reducible assumption
    | intro _ _ _
    | intro _ _
    | split

theorem capDisable_frame {k : Parts} {s t : State} 
    (h : Frame k s t) (hk : sub { cap := true } k = true) :
    Frame k s (capDisable t) := by
  refine Frame.step h (l := { cap := true }) ?_ hk
  clear h hk
  unfold capDisable
  repeat' first
    | (extract_lets +onlyGivenNames -merge -underBinder x; first | (with_reducible refine Frame.cutTo (t := x) ?_ ?_; rotate_left; (try clear_value x); rename _ => y; intro hx; rotate_left; clear_value (hh : x = _); subst hh) | (clear_value x; rename _ => y) | (have hq := x; clear hq; rename _ => y))
    | with_reducible exact Frame.ofMk (by first | exact Frame.refl | assumption) frSame frSame frSame frSame frSame frSame frSame frSame frSame frSame frSame frSame frSame frSame frMine frSame frSame frSame frSame frSame rfl rfl rfl (.inr .refl) (.inr .refl)
    | with_reducible apply Frame.refl
    | with_reducible assumption

theorem requesterGone_frame {k : Parts} {s t : State} {a0 : Nat}
    (h : Frame k s t) (hk : sub { hqm := true, stc := true } k = true) :
    Frame k s (requesterGone a0 t) := by
  refine Frame.step h (l := { hqm := true, stc := true }) ?_ hk
  clear h hk
  unfold requesterGone
  repeat' first
    | (extract_lets +onlyGivenNames -merge -underBinder x; first | (with_reducible refine Frame.cutTo (t := x) ?_ ?_; rotate_left; (try clear_value x); rename _ => y; intro hx; rotate_left; clear_value (hh : x = _); subst hh) | (clear_value x; rename _ => y) | (have hq := x; clear hq; rename _ => y))
    | with_reducible apply Frame.ite
    | with_reducible exact Frame.ofMk (by first | exact Frame.refl | assumption) frSame frSame frSame frSame frSame frSame frSame frSame frSame frSame frSame frSame frSame frMine frSame frMine frSame frSame frSame frSame rfl rfl rfl (.inr .refl) (.inr .refl)
    | with_reducible apply Frame.refl
    | with_reducible assumption
    | split

theorem rldOut_frame {k : Parts} {s t : State} {a0 : Nat}
    (h : Frame k s t) (hk : sub { flt := true, arr := true } k = true) :
    Frame k s (rldOut a0 t) := by
  refine Frame.step h (l := { flt := true, arr := true }) ?_ hk
  clear h hk
  unfold rldOut
  repeat' first
    | (extract_lets +onlyGivenNames -merge -underBinder x; first | (with_reducible refine Frame.cutTo (t := x) ?_ ?_; rotate_left; (try clear_value x); rename _ => y; intro hx; rotate_left; clear_value (hh : x = _); subst hh) | (have hq : Flt := x; clear hq; rename _ => y) | (clear_value x; rename _ => y) | (have hq := x; clear hq; rename _ => y))
    | with_reducible apply Frame.ite
    | with_reducible exact Frame.ofMk (by first | exact Frame.refl | assumption) frSame frMine frSame frSame frSame frSame frSame frSame frSame frSame frSame frSame frSame frSame frSame frSame frSame frMine frSame frSame rfl rfl rfl (.inr .refl) (by first | exact .inr .refl | exact .inr ⟨rfl, rfl, rfl, rfl⟩ | exact .inr (addFaultRecord_binds _ _) | with_unfolding_all exact .inr ⟨rfl, rfl, rfl, rfl⟩)
    | with_reducible apply Frame.refl
    | with_reducible assumption
    | split

theorem blkReset_frame {k : Parts} {s t : State} {a0 : Nat → State → State} {a1 : BlkOf} (hrz : ∀ j v, Frame partsEngineFaultW v (a0 j v))
    (h : Frame k s t) (hk : sub partsEngineFaultW k = true) :
    Frame k s (blkReset a0 a1 t) := by
  refine Frame.step h (l := partsEngineFaultW) ?_ hk
  clear h hk
  unfold blkReset
  repeat' first
    | (extract_lets +onlyGivenNames -merge -underBinder x; first | (with_reducible refine Frame.cutTo (t := x) ?_ ?_; rotate_left; (try clear_value x); rename _ => y; intro hx; rotate_left; clear_value (hh : x = _); subst hh) | (have hq : Flt := x; clear hq; rename _ => y) | (have hq : Sys := x; clear hq; rename _ => y) | (clear_value x; rename _ => y) | (have hq := x; clear hq; rename _ => y))
    | with_reducible refine requesterGone_frame ?_ (by with_unfolding_all rfl)
    | with_reducible refine setLane_frame ?_ (by with_unfolding_all rfl)
    | with_reducible refine poolResetW_frame (hrz := by first | assumption | exact fun j v => raise_frame Frame.refl rfl) ?_ (by with_unfolding_all rfl)
    | with_reducible refine engineFaultW_frame (hrz := by first | assumption | exact fun j v => raise_frame Frame.refl rfl) ?_ (by with_unfolding_all rfl)
    | with_reducible refine spnReseed_frame ?_ (by with_unfolding_all rfl)
    | with_reducible refine yarnLostW_frame (hrz := by first | assumption | exact fun j v => raise_frame Frame.refl rfl) ?_ (by with_unfolding_all rfl)
    | with_reducible refine chanAbortW_frame (hrz := by first | assumption | exact fun j v => raise_frame Frame.refl rfl) ?_ (by with_unfolding_all rfl)
    | with_reducible refine capDisable_frame ?_ (by with_unfolding_all rfl)
    | with_reducible refine rldOut_frame ?_ (by with_unfolding_all rfl)
    | with_reducible refine Frame.step ?_ (hrz _ _) (by with_unfolding_all rfl)
    | with_reducible apply Frame.ite
    | with_reducible exact Frame.ofMk (by first | exact Frame.refl | assumption) frMine frMine frSame frSame frMine frMine frMine frSame frMine frMine frMine frSame frMine frMine frMine frMine frMine frMine frMine frSame rfl rfl rfl (by first | exact .inr .refl | exact .inr ⟨rfl, rfl, rfl, rfl, id⟩ | exact .inr ⟨rfl, rfl, rfl, rfl, fun _ => rfl⟩ | exact .inr (.ite ⟨rfl, rfl, rfl, rfl, id⟩ ⟨rfl, rfl, rfl, rfl, id⟩)) (by first | exact .inr .refl | exact .inr ⟨rfl, rfl, rfl, rfl⟩ | exact .inr (addFaultRecord_binds _ _) | with_unfolding_all exact .inr ⟨rfl, rfl, rfl, rfl⟩)
    | with_reducible apply Frame.refl
    | with_reducible assumption
    | intro _ _ _
    | intro _ _
    | split

theorem raiseN_frame {k : Parts} {s t : State} {a0 : Nat} {a1 : Nat}
    (h : Frame k s t) (hk : sub partsEngineFaultW k = true) :
    Frame k s (raiseN a0 a1 t) := by
  refine Frame.step h ?_ hk
  clear h hk
  induction a0 generalizing a1 t with
  | zero => exact fltOccur_frame Frame.refl rfl
  | succ n ih =>
    unfold raiseN
    dsimp only
    repeat' first
      | with_reducible apply Frame.refl
      | with_reducible refine fltOccur_frame ?_ (by with_unfolding_all rfl)
      | with_reducible refine vendorEvent_frame ?_ (by with_unfolding_all rfl)
      | with_reducible refine blkReset_frame (hrz := fun j v => ih (t := v) (a1 := j)) ?_ (by with_unfolding_all rfl)
      | with_reducible apply Frame.ite
      | split


theorem raise_frame {k : Parts} {s t : State} {a0 : Nat}
    (h : Frame k s t) (hk : sub partsEngineFaultW k = true) :
    Frame k s (raise a0 t) := by
  refine Frame.step h (l := partsEngineFaultW) ?_ hk
  clear h hk
  unfold raise
  repeat' first
    | with_reducible refine raiseN_frame ?_ (by with_unfolding_all rfl)
    | with_reducible apply Frame.refl
    | with_reducible assumption

theorem raiseAll_frame {k : Parts} {s t : State} {a0 : List Nat}
    (h : Frame k s t) (hk : sub partsEngineFaultW k = true) :
    Frame k s (raiseAll a0 t) := by
  refine Frame.step h (l := partsEngineFaultW) ?_ hk
  clear h hk
  unfold raiseAll
  repeat' first
    | with_reducible refine raise_frame ?_ (by with_unfolding_all rfl)
    | with_reducible apply Frame.foldl
    | with_reducible apply Frame.refl
    | with_reducible assumption
    | intro _ _ _
    | intro _ _

end Sys2Proof.Laws
end

