-- ==== Sys2Proof/Laws/Frames/Journal.lean ====
section
/-!
SUPPORT. The frames of the operations of Machine/Journal.lean: the parts each may change.
-/
namespace Sys2Proof.Laws
open Sys2Proof Sys2Proof.Machine

set_option linter.all false
set_option Elab.async false

theorem speEvent_frame {k : Parts} {s t : State} {a0 : Nat}
    (h : Frame k s t) (hk : sub partsEngineFaultW k = true) :
    Frame k s (speEvent a0 t) := by
  refine Frame.step h (l := partsEngineFaultW) ?_ hk
  clear h hk
  unfold speEvent
  repeat' first
    | (extract_lets +onlyGivenNames -merge -underBinder x; first | (with_reducible refine Frame.cutTo (t := x) ?_ ?_; rotate_left; (try clear_value x); rename _ => y; intro hx; rotate_left; clear_value (hh : x = _); subst hh) | (have hq : Flt := x; clear hq; rename _ => y) | (have hq : Sys := x; clear hq; rename _ => y) | (clear_value x; rename _ => y) | (have hq := x; clear hq; rename _ => y))
    | with_reducible refine raise_frame ?_ (by with_unfolding_all rfl)
    | with_reducible exact Frame.ofMk (by first | exact Frame.refl | assumption) frMine frMine frSame frSame frMine frMine frMine frSame frMine frMine frMine frSame frMine frMine frMine frMine frMine frMine frMine frSame rfl rfl rfl (by first | exact .inr .refl | exact .inr ⟨rfl, rfl, rfl, rfl, id⟩ | exact .inr ⟨rfl, rfl, rfl, rfl, fun _ => rfl⟩ | exact .inr (.ite ⟨rfl, rfl, rfl, rfl, id⟩ ⟨rfl, rfl, rfl, rfl, id⟩)) (by first | exact .inr .refl | exact .inr ⟨rfl, rfl, rfl, rfl⟩ | exact .inr (addFaultRecord_binds _ _) | with_unfolding_all exact .inr ⟨rfl, rfl, rfl, rfl⟩)
    | with_reducible apply Frame.refl
    | with_reducible assumption

theorem bmapPut_frame {k : Parts} {s t : State} {a0 : Nat} {a1 : Bool}
    (h : Frame k s t) (hk : sub { mem := true } k = true) :
    Frame k s (bmapPut a0 a1 t) := by
  refine Frame.step h (l := { mem := true }) ?_ hk
  clear h hk
  unfold bmapPut
  repeat' first
    | (extract_lets +onlyGivenNames -merge -underBinder x; first | (with_reducible refine Frame.cutTo (t := x) ?_ ?_; rotate_left; (try clear_value x); rename _ => y; intro hx; rotate_left; clear_value (hh : x = _); subst hh) | (clear_value x; rename _ => y) | (have hq := x; clear hq; rename _ => y))
    | with_reducible refine writeByte_frame ?_ (by with_unfolding_all rfl)
    | with_reducible exact Frame.ofMk (by first | exact Frame.refl | assumption) frSame frSame frSame frSame frSame frSame frSame frSame frSame frSame frSame frSame frSame frSame frSame frSame frSame frSame frSame frSame rfl rfl rfl (.inr .refl) (.inr .refl)
    | with_reducible apply Frame.refl
    | with_reducible assumption
    | split

theorem bmapEntry_frame {k : Parts} {s t : State} {a0 : JEntry}
    (h : Frame k s t) (hk : sub { spe := true, mem := true } k = true) :
    Frame k s (bmapEntry a0 t) := by
  refine Frame.step h (l := { spe := true, mem := true }) ?_ hk
  clear h hk
  unfold bmapEntry
  repeat' first
    | (extract_lets +onlyGivenNames -merge -underBinder x; first | (with_reducible refine Frame.cutTo (t := x) ?_ ?_; rotate_left; (try clear_value x); rename _ => y; intro hx; rotate_left; clear_value (hh : x = _); subst hh) | (clear_value x; rename _ => y) | (have hq := x; clear hq; rename _ => y))
    | with_reducible refine bmapPut_frame ?_ (by with_unfolding_all rfl)
    | with_reducible apply Frame.foldl
    | with_reducible apply Frame.ite
    | with_reducible exact Frame.ofMk (by first | exact Frame.refl | assumption) frSame frSame frSame frSame frSame frSame frSame frSame frSame frSame frSame frSame frSame frSame frSame frSame frMine frSame frSame frSame rfl rfl rfl (.inr .refl) (.inr .refl)
    | with_reducible apply Frame.refl
    | with_reducible assumption
    | intro _ _ _
    | intro _ _
    | split

theorem entryStore_frame {k : Parts} {s t : State} {a0 : JEntry}
    (h : Frame k s t) (hk : sub { mem := true } k = true) :
    Frame k s (entryStore a0 t) := by
  refine Frame.step h (l := { mem := true }) ?_ hk
  clear h hk
  unfold entryStore
  repeat' first
    | (extract_lets +onlyGivenNames -merge -underBinder x; first | (with_reducible refine Frame.cutTo (t := x) ?_ ?_; rotate_left; (try clear_value x); rename _ => y; intro hx; rotate_left; clear_value (hh : x = _); subst hh) | (clear_value x; rename _ => y) | (have hq := x; clear hq; rename _ => y))
    | with_reducible refine writeBytes_frame ?_ (by with_unfolding_all rfl)
    | with_reducible apply Frame.ite
    | with_reducible exact Frame.ofMk (by first | exact Frame.refl | assumption) frSame frSame frSame frSame frSame frSame frSame frSame frSame frSame frSame frSame frSame frSame frSame frSame frSame frSame frSame frSame rfl rfl rfl (.inr .refl) (.inr .refl)
    | with_reducible apply Frame.refl
    | with_reducible assumption
    | split

theorem jAppend_frame {k : Parts} {s t : State} {a0 : Nat} {a1 : Nat}
    (h : Frame k s t) (hk : sub { spe := true, mem := true } k = true) :
    Frame k s (jAppend a0 a1 t) := by
  refine Frame.step h (l := { spe := true, mem := true }) ?_ hk
  clear h hk
  unfold jAppend
  repeat' first
    | (extract_lets +onlyGivenNames -merge -underBinder x; first | (with_reducible refine Frame.cutTo (t := x) ?_ ?_; rotate_left; (try clear_value x); rename _ => y; intro hx; rotate_left; clear_value (hh : x = _); subst hh) | (clear_value x; rename _ => y) | (have hq := x; clear hq; rename _ => y))
    | with_reducible refine bmapEntry_frame ?_ (by with_unfolding_all rfl)
    | with_reducible refine entryStore_frame ?_ (by with_unfolding_all rfl)
    | with_reducible exact Frame.ofMk (by first | exact Frame.refl | assumption) frSame frSame frSame frSame frSame frSame frSame frSame frSame frSame frSame frSame frSame frSame frSame frSame frMine frSame frSame frSame rfl rfl rfl (.inr .refl) (.inr .refl)
    | with_reducible apply Frame.refl
    | with_reducible assumption

theorem zmap_frame {k : Parts} {s t : State} {a0 : Nat} {a1 : Nat} {a2 : List (Nat × Nat)}
    (h : Frame k s t) (hk : sub { spe := true, arr := true, mem := true } k = true) :
    Frame k s (zmap a0 a1 a2 t) := by
  refine Frame.step h (l := { spe := true, arr := true, mem := true }) ?_ hk
  clear h hk
  unfold zmap
  repeat' first
    | (extract_lets +onlyGivenNames -merge -underBinder x; first | (with_reducible refine Frame.cutTo (t := x) ?_ ?_; rotate_left; (try clear_value x); rename _ => y; intro hx; rotate_left; clear_value (hh : x = _); subst hh) | (clear_value x; rename _ => y) | (have hq := x; clear hq; rename _ => y))
    | with_reducible refine jAppend_frame ?_ (by with_unfolding_all rfl)
    | with_reducible exact Frame.ofMk (by first | exact Frame.refl | assumption) frSame frSame frSame frSame frSame frSame frSame frSame frSame frSame frSame frSame frSame frSame frSame frSame frMine frMine frSame frSame rfl rfl rfl (.inr .refl) (.inr .refl)
    | with_reducible apply Frame.refl
    | with_reducible assumption

theorem padGroup_frame {k : Parts} {s t : State} {a0 : Nat}
    (h : Frame k s t) (hk : sub { spe := true, mem := true } k = true) :
    Frame k s (padGroup a0 t) := by
  refine Frame.step h (l := { spe := true, mem := true }) ?_ hk
  clear h hk
  fun_induction padGroup a0 t
  repeat' first
    | with_reducible refine Frame.step ?_ (by assumption) (by with_unfolding_all rfl)
    | with_reducible refine jAppend_frame ?_ (by with_unfolding_all rfl)
    | with_reducible exact Frame.ofMk (by first | exact Frame.refl | assumption) frSame frSame frSame frSame frSame frSame frSame frSame frSame frSame frSame frSame frSame frSame frSame frSame frMine frSame frSame frSame rfl rfl rfl (.inr .refl) (.inr .refl)
    | with_reducible apply Frame.refl
    | with_reducible assumption
    | split

theorem settleGroups_frame {k : Parts} {s t : State} {a0 : Nat}
    (h : Frame k s t) (hk : sub { spe := true } k = true) :
    Frame k s (settleGroups a0 t) := by
  refine Frame.step h (l := { spe := true }) ?_ hk
  clear h hk
  fun_induction settleGroups a0 t
  repeat' first
    | with_reducible refine Frame.step ?_ (by assumption) (by with_unfolding_all rfl)
    | (extract_lets +onlyGivenNames -merge -underBinder x; first | (with_reducible refine Frame.cutTo (t := x) ?_ ?_; rotate_left; (try clear_value x); rename _ => y; intro hx; rotate_left; clear_value (hh : x = _); subst hh) | (clear_value x; rename _ => y) | (have hq := x; clear hq; rename _ => y))
    | with_reducible refine Frame.getDMap ?_ (fun _ => ?_)
    | with_reducible apply Frame.getD
    | with_reducible apply Frame.ite
    | with_reducible exact Frame.ofMk (by first | exact Frame.refl | assumption) frSame frSame frSame frSame frSame frSame frSame frSame frSame frSame frSame frSame frSame frSame frSame frSame frMine frSame frSame frSame rfl rfl rfl (.inr .refl) (.inr .refl)
    | with_reducible apply Frame.refl
    | with_reducible assumption
    | intro _ _ _
    | intro _ _
    | split

theorem reshapeDone_frame {k : Parts} {s t : State} 
    (h : Frame k s t) (hk : sub { arr := true, hif := true } k = true) :
    Frame k s (reshapeDone t) := by
  refine Frame.step h (l := { arr := true, hif := true }) ?_ hk
  clear h hk
  unfold reshapeDone
  repeat' first
    | (extract_lets +onlyGivenNames -merge -underBinder x; first | (with_reducible refine Frame.cutTo (t := x) ?_ ?_; rotate_left; (try clear_value x); rename _ => y; intro hx; rotate_left; clear_value (hh : x = _); subst hh) | (clear_value x; rename _ => y) | (have hq := x; clear hq; rename _ => y))
    | with_reducible refine vendorEvent_frame ?_ (by with_unfolding_all rfl)
    | with_reducible refine noteChange_frame ?_ (by with_unfolding_all rfl)
    | with_reducible apply Frame.ite
    | with_reducible exact Frame.ofMk (by first | exact Frame.refl | assumption) frSame frSame frSame frSame frSame frSame frSame frSame frSame frSame frSame frSame frSame frSame frSame frSame frSame frMine frMine frSame rfl rfl rfl (.inr .refl) (.inr .refl)
    | with_reducible apply Frame.refl
    | with_reducible assumption
    | split

theorem reshapeStep_frame {k : Parts} {s t : State} {a0 : Nat}
    (h : Frame k s t) (hk : sub { arr := true, hif := true } k = true) :
    Frame k s (reshapeStep a0 t) := by
  refine Frame.step h (l := { arr := true, hif := true }) ?_ hk
  clear h hk
  unfold reshapeStep
  repeat' first
    | (extract_lets +onlyGivenNames -merge -underBinder x; first | (with_reducible refine Frame.cutTo (t := x) ?_ ?_; rotate_left; (try clear_value x); rename _ => y; intro hx; rotate_left; clear_value (hh : x = _); subst hh) | (clear_value x; rename _ => y) | (have hq := x; clear hq; rename _ => y))
    | with_reducible refine reshapeDone_frame ?_ (by with_unfolding_all rfl)
    | with_reducible apply Frame.ite
    | with_reducible exact Frame.ofMk (by first | exact Frame.refl | assumption) frSame frSame frSame frSame frSame frSame frSame frSame frSame frSame frSame frSame frSame frSame frSame frSame frSame frMine frMine frSame rfl rfl rfl (.inr .refl) (.inr .refl)
    | with_reducible apply Frame.refl
    | with_reducible assumption
    | split

theorem zonePut_frame {k : Parts} {s t : State} {a0 : Nat} {a1 : Zone → Zone}
    (h : Frame k s t) (hk : sub { arr := true } k = true) :
    Frame k s (zonePut a0 a1 t) := by
  refine Frame.step h (l := { arr := true }) ?_ hk
  clear h hk
  unfold zonePut
  repeat' first
    | (extract_lets +onlyGivenNames -merge -underBinder x; first | (with_reducible refine Frame.cutTo (t := x) ?_ ?_; rotate_left; (try clear_value x); rename _ => y; intro hx; rotate_left; clear_value (hh : x = _); subst hh) | (clear_value x; rename _ => y) | (have hq := x; clear hq; rename _ => y))
    | with_reducible apply Frame.ite
    | with_reducible exact Frame.ofMk (by first | exact Frame.refl | assumption) frSame frSame frSame frSame frSame frSame frSame frSame frSame frSame frSame frSame frSame frSame frSame frSame frSame frMine frSame frSame rfl rfl rfl (.inr .refl) (.inr .refl)
    | with_reducible apply Frame.refl
    | with_reducible assumption
    | split

theorem applyCommit_frame {k : Parts} {s t : State} {a0 : ZCommit}
    (h : Frame k s t) (hk : sub { media := true, arr := true, hif := true } k = true) :
    Frame k s (applyCommit a0 t) := by
  refine Frame.step h (l := { media := true, arr := true, hif := true }) ?_ hk
  clear h hk
  unfold applyCommit
  repeat' first
    | (extract_lets +onlyGivenNames -merge -underBinder x; first | (with_reducible refine Frame.cutTo (t := x) ?_ ?_; rotate_left; (try clear_value x); rename _ => y; intro hx; rotate_left; clear_value (hh : x = _); subst hh) | (have hq : ∀ a, Frame {} t (x a) → True := fun _ _ => trivial; clear hq; rename _ => y) | (have hq : ∀ a b, Frame {} t (x a b) → True := fun _ _ _ => trivial; clear hq; rename _ => y) | (clear_value x; rename _ => y) | (have hq := x; clear hq; rename _ => y))
    | with_reducible refine zonePut_frame ?_ (by with_unfolding_all rfl)
    | with_reducible refine extentFree_frame ?_ (by with_unfolding_all rfl)
    | with_reducible refine migrateExtent_frame ?_ (by with_unfolding_all rfl)
    | with_reducible refine dropMembers_frame ?_ (by with_unfolding_all rfl)
    | with_reducible refine switchExtents_frame ?_ (by with_unfolding_all rfl)
    | with_reducible refine unlock_frame ?_ (by with_unfolding_all rfl)
    | with_reducible refine reshapeStep_frame ?_ (by with_unfolding_all rfl)
    | with_reducible apply Frame.foldl
    | with_reducible refine Frame.getDMap ?_ (fun _ => ?_)
    | with_reducible apply Frame.getD
    | with_reducible apply Frame.ite
    | with_reducible exact Frame.ofMk (by first | exact Frame.refl | assumption) frSame frSame frSame frSame frSame frSame frSame frSame frSame frSame frSame frMine frSame frSame frSame frSame frSame frMine frMine frSame rfl rfl rfl (.inr .refl) (.inr .refl)
    | with_reducible apply Frame.refl
    | with_reducible assumption
    | intro _ _ _
    | intro _ _
    | split

theorem applyCommits_frame {k : Parts} {s t : State} 
    (h : Frame k s t) (hk : sub { media := true, arr := true, hif := true } k = true) :
    Frame k s (applyCommits t) := by
  refine Frame.step h (l := { media := true, arr := true, hif := true }) ?_ hk
  clear h hk
  unfold applyCommits
  repeat' first
    | (extract_lets +onlyGivenNames -merge -underBinder x; first | (with_reducible refine Frame.cutTo (t := x) ?_ ?_; rotate_left; (try clear_value x); rename _ => y; intro hx; rotate_left; clear_value (hh : x = _); subst hh) | (clear_value x; rename _ => y) | (have hq := x; clear hq; rename _ => y))
    | with_reducible refine applyCommit_frame ?_ (by with_unfolding_all rfl)
    | with_reducible apply Frame.foldl
    | with_reducible exact Frame.ofMk (by first | exact Frame.refl | assumption) frSame frSame frSame frSame frSame frSame frSame frSame frSame frSame frSame frMine frSame frSame frSame frSame frSame frMine frMine frSame rfl rfl rfl (.inr .refl) (.inr .refl)
    | with_reducible apply Frame.refl
    | with_reducible assumption
    | intro _ _ _
    | intro _ _

theorem settleWaits_frame {k : Parts} {s t : State} 
    (h : Frame k s t) (hk : sub { hif := true, host := true } k = true) :
    Frame k s (settleWaits t) := by
  refine Frame.step h (l := { hif := true, host := true }) ?_ hk
  clear h hk
  unfold settleWaits
  repeat' first
    | (extract_lets +onlyGivenNames -merge -underBinder x; first | (with_reducible refine Frame.cutTo (t := x) ?_ ?_; rotate_left; (try clear_value x); rename _ => y; intro hx; rotate_left; clear_value (hh : x = _); subst hh) | (clear_value x; rename _ => y) | (have hq := x; clear hq; rename _ => y))
    | with_reducible refine complete_frame ?_ (by with_unfolding_all rfl)
    | with_reducible apply Frame.foldl
    | with_reducible exact Frame.ofMk (by first | exact Frame.refl | assumption) frSame frSame frSame frSame frSame frSame frSame frSame frSame frSame frSame frSame frSame frSame frSame frSame frSame frSame frMine frMine rfl rfl rfl (.inr .refl) (.inr .refl)
    | with_reducible apply Frame.refl
    | with_reducible assumption
    | intro _ _ _
    | intro _ _

theorem settleJournal_frame {k : Parts} {s t : State} 
    (h : Frame k s t) (hk : sub { media := true, spe := true, arr := true, hif := true, host := true } k = true) :
    Frame k s (settleJournal t) := by
  refine Frame.step h (l := { media := true, spe := true, arr := true, hif := true, host := true }) ?_ hk
  clear h hk
  unfold settleJournal
  repeat' first
    | with_reducible refine settleWaits_frame ?_ (by with_unfolding_all rfl)
    | with_reducible refine applyCommits_frame ?_ (by with_unfolding_all rfl)
    | with_reducible refine settleGroups_frame ?_ (by with_unfolding_all rfl)
    | with_reducible apply Frame.refl
    | with_reducible assumption

theorem groupIssue_frame {k : Parts} {s t : State} 
    (h : Frame k s t) (hk : sub { spe := true, mem := true } k = true) :
    Frame k s (groupIssue t) := by
  refine Frame.step h (l := { spe := true, mem := true }) ?_ hk
  clear h hk
  unfold groupIssue
  repeat' first
    | (extract_lets +onlyGivenNames -merge -underBinder x; first | (with_reducible refine Frame.cutTo (t := x) ?_ ?_; rotate_left; (try clear_value x); rename _ => y; intro hx; rotate_left; clear_value (hh : x = _); subst hh) | (clear_value x; rename _ => y) | (have hq := x; clear hq; rename _ => y))
    | with_reducible refine padGroup_frame ?_ (by with_unfolding_all rfl)
    | with_reducible apply Frame.ite
    | with_reducible exact Frame.ofMk (by first | exact Frame.refl | assumption) frSame frSame frSame frSame frSame frSame frSame frSame frSame frSame frSame frSame frSame frSame frSame frSame frMine frSame frSame frSame rfl rfl rfl (.inr .refl) (.inr .refl)
    | with_reducible apply Frame.refl
    | with_reducible assumption
    | split

theorem execJrnlGroupIssue_frame {s t : State}  (e : execJrnlGroupIssue s = .next t) :
    Frame { spe := true, mem := true } s t := by
  unfold execJrnlGroupIssue at e
  refine Frame.act ?_ e
  clear e
  try dsimp -zeta only
  repeat' first
    | with_reducible refine groupIssue_frame ?_ (by with_unfolding_all rfl)
    | with_reducible apply Frame.refl
    | with_reducible assumption

theorem groupAck_frame {k : Parts} {s t : State} {a0 : Nat} {a1 : Nat}
    (h : Frame k s t) (hk : sub { media := true, spe := true, arr := true, hif := true, host := true } k = true) :
    Frame k s (groupAck a0 a1 t) := by
  refine Frame.step h (l := { media := true, spe := true, arr := true, hif := true, host := true }) ?_ hk
  clear h hk
  unfold groupAck
  repeat' first
    | (extract_lets +onlyGivenNames -merge -underBinder x; first | (with_reducible refine Frame.cutTo (t := x) ?_ ?_; rotate_left; (try clear_value x); rename _ => y; intro hx; rotate_left; clear_value (hh : x = _); subst hh) | (clear_value x; rename _ => y) | (have hq := x; clear hq; rename _ => y))
    | with_reducible refine settleJournal_frame ?_ (by with_unfolding_all rfl)
    | with_reducible apply Frame.ite
    | with_reducible exact Frame.ofMk (by first | exact Frame.refl | assumption) frSame frSame frSame frSame frSame frSame frSame frSame frSame frSame frSame frMine frSame frSame frSame frSame frMine frMine frMine frMine rfl rfl rfl (.inr .refl) (.inr .refl)
    | with_reducible apply Frame.refl
    | with_reducible assumption
    | split

theorem jrnlAppendWrite_frame {k : Parts} {s t : State} {a0 : Word}
    (h : Frame k s t) (hk : sub partsEngineFaultW k = true) :
    Frame k s (jrnlAppendWrite a0 t) := by
  refine Frame.step h (l := partsEngineFaultW) ?_ hk
  clear h hk
  unfold jrnlAppendWrite
  repeat' first
    | (extract_lets +onlyGivenNames -merge -underBinder x; first | (with_reducible refine Frame.cutTo (t := x) ?_ ?_; rotate_left; (try clear_value x); rename _ => y; intro hx; rotate_left; clear_value (hh : x = _); subst hh) | (have hq : Flt := x; clear hq; rename _ => y) | (have hq : Sys := x; clear hq; rename _ => y) | (clear_value x; rename _ => y) | (have hq := x; clear hq; rename _ => y))
    | with_reducible refine speEvent_frame ?_ (by with_unfolding_all rfl)
    | with_reducible refine jAppend_frame ?_ (by with_unfolding_all rfl)
    | with_reducible apply Frame.ite
    | with_reducible apply Frame.refl
    | with_reducible assumption
    | split

theorem execJrnlAppend_frame {s t : State} {a0 : Word} (e : execJrnlAppend a0 s = .next t) :
    Frame partsEngineFaultW s t := by
  unfold execJrnlAppend at e
  refine Frame.act ?_ e
  clear e
  try dsimp -zeta only
  repeat' first
    | with_reducible refine jrnlAppendWrite_frame ?_ (by with_unfolding_all rfl)
    | with_reducible apply Frame.refl
    | with_reducible assumption

theorem replicaEntry_frame {k : Parts} {s t : State} 
    (h : Frame k s t) (hk : sub { spe := true, mem := true } k = true) :
    Frame k s (replicaEntry t) := by
  refine Frame.step h (l := { spe := true, mem := true }) ?_ hk
  clear h hk
  unfold replicaEntry
  repeat' first
    | (extract_lets +onlyGivenNames -merge -underBinder x; first | (with_reducible refine Frame.cutTo (t := x) ?_ ?_; rotate_left; (try clear_value x); rename _ => y; intro hx; rotate_left; clear_value (hh : x = _); subst hh) | (have hq : ∀ a, Frame {} t (x a) → True := fun _ _ => trivial; clear hq; rename _ => y) | (have hq : ∀ a b, Frame {} t (x a b) → True := fun _ _ _ => trivial; clear hq; rename _ => y) | (clear_value x; rename _ => y) | (have hq := x; clear hq; rename _ => y))
    | with_reducible refine jAppend_frame ?_ (by with_unfolding_all rfl)
    | with_reducible refine Frame.getDMap ?_ (fun _ => ?_)
    | with_reducible apply Frame.getD
    | with_reducible apply Frame.refl
    | with_reducible assumption
    | intro _ _ _
    | intro _ _

theorem startFill_frame {k : Parts} {s t : State} {a0 : Fin 3}
    (h : Frame k s t) (hk : sub { spe := true, mem := true } k = true) :
    Frame k s (startFill a0 t) := by
  refine Frame.step h (l := { spe := true, mem := true }) ?_ hk
  clear h hk
  unfold startFill
  repeat' first
    | (extract_lets +onlyGivenNames -merge -underBinder x; first | (with_reducible refine Frame.cutTo (t := x) ?_ ?_; rotate_left; (try clear_value x); rename _ => y; intro hx; rotate_left; clear_value (hh : x = _); subst hh) | (clear_value x; rename _ => y) | (have hq := x; clear hq; rename _ => y))
    | with_reducible refine replicaEntry_frame ?_ (by with_unfolding_all rfl)
    | with_reducible apply Frame.ite
    | with_reducible exact Frame.ofMk (by first | exact Frame.refl | assumption) frSame frSame frSame frSame frSame frSame frSame frSame frSame frSame frSame frSame frSame frSame frSame frSame frMine frSame frSame frSame rfl rfl rfl (.inr .refl) (.inr .refl)
    | with_reducible apply Frame.refl
    | with_reducible assumption
    | split

theorem fillGroups_frame {k : Parts} {s t : State} {a0 : Fin 3}
    (h : Frame k s t) (hk : sub { spe := true, mem := true } k = true) :
    Frame k s (fillGroups a0 t) := by
  refine Frame.step h (l := { spe := true, mem := true }) ?_ hk
  clear h hk
  unfold fillGroups
  repeat' first
    | (extract_lets +onlyGivenNames -merge -underBinder x; first | (with_reducible refine Frame.cutTo (t := x) ?_ ?_; rotate_left; (try clear_value x); rename _ => y; intro hx; rotate_left; clear_value (hh : x = _); subst hh) | (clear_value x; rename _ => y) | (have hq := x; clear hq; rename _ => y))
    | with_reducible refine padGroup_frame ?_ (by with_unfolding_all rfl)
    | with_reducible refine Frame.getDMap ?_ (fun _ => ?_)
    | with_reducible apply Frame.getD
    | with_reducible apply Frame.ite
    | with_reducible exact Frame.ofMk (by first | exact Frame.refl | assumption) frSame frSame frSame frSame frSame frSame frSame frSame frSame frSame frSame frSame frSame frSame frSame frSame frMine frSame frSame frSame rfl rfl rfl (.inr .refl) (.inr .refl)
    | with_reducible apply Frame.refl
    | with_reducible assumption
    | intro _ _ _
    | intro _ _
    | split

theorem replicaLost_frame {k : Parts} {s t : State} {a0 : Fin 3}
    (h : Frame k s t) (hk : sub partsReplicaLost k = true) :
    Frame k s (replicaLost a0 t) := by
  refine Frame.step h (l := partsReplicaLost) ?_ hk
  clear h hk
  unfold replicaLost
  repeat' first
    | (extract_lets +onlyGivenNames -merge -underBinder x; first | (with_reducible refine Frame.cutTo (t := x) ?_ ?_; rotate_left; (try clear_value x); rename _ => y; intro hx; rotate_left; clear_value (hh : x = _); subst hh) | (have hq : Flt := x; clear hq; rename _ => y) | (have hq : Sys := x; clear hq; rename _ => y) | (clear_value x; rename _ => y) | (have hq := x; clear hq; rename _ => y))
    | with_reducible refine speEvent_frame ?_ (by with_unfolding_all rfl)
    | with_reducible refine settleJournal_frame ?_ (by with_unfolding_all rfl)
    | with_reducible refine startFill_frame ?_ (by with_unfolding_all rfl)
    | with_reducible apply Frame.ite
    | with_reducible exact Frame.ofMk (by first | exact Frame.refl | assumption) frMine frMine frSame frSame frMine frMine frMine frSame frMine frMine frMine frMine frMine frMine frMine frMine frMine frMine frMine frMine rfl rfl rfl (by first | exact .inr .refl | exact .inr ⟨rfl, rfl, rfl, rfl, id⟩ | exact .inr ⟨rfl, rfl, rfl, rfl, fun _ => rfl⟩ | exact .inr (.ite ⟨rfl, rfl, rfl, rfl, id⟩ ⟨rfl, rfl, rfl, rfl, id⟩)) (by first | exact .inr .refl | exact .inr ⟨rfl, rfl, rfl, rfl⟩ | exact .inr (addFaultRecord_binds _ _) | with_unfolding_all exact .inr ⟨rfl, rfl, rfl, rfl⟩)
    | with_reducible apply Frame.refl
    | with_reducible assumption
    | split

theorem execReplicaReplace_frame {s t : State} {a0 : Fin 3} (e : execReplicaReplace a0 s = .next t) :
    Frame partsReplicaLost s t := by
  unfold execReplicaReplace at e
  refine Frame.act ?_ e
  clear e
  try dsimp -zeta only
  repeat' first
    | with_reducible refine replicaLost_frame ?_ (by with_unfolding_all rfl)
    | with_reducible apply Frame.refl
    | with_reducible assumption

theorem fillDone_frame {k : Parts} {s t : State} 
    (h : Frame k s t) (hk : sub partsReplicaLost k = true) :
    Frame k s (fillDone t) := by
  refine Frame.step h (l := partsReplicaLost) ?_ hk
  clear h hk
  unfold fillDone
  repeat' first
    | (extract_lets +onlyGivenNames -merge -underBinder x; first | (with_reducible refine Frame.cutTo (t := x) ?_ ?_; rotate_left; (try clear_value x); rename _ => y; intro hx; rotate_left; clear_value (hh : x = _); subst hh) | (have hq : Flt := x; clear hq; rename _ => y) | (have hq : Sys := x; clear hq; rename _ => y) | (clear_value x; rename _ => y) | (have hq := x; clear hq; rename _ => y))
    | with_reducible refine settleJournal_frame ?_ (by with_unfolding_all rfl)
    | with_reducible refine speEvent_frame ?_ (by with_unfolding_all rfl)
    | with_reducible refine fillGroups_frame ?_ (by with_unfolding_all rfl)
    | with_reducible refine replicaEntry_frame ?_ (by with_unfolding_all rfl)
    | with_reducible refine startFill_frame ?_ (by with_unfolding_all rfl)
    | with_reducible apply Frame.ite
    | with_reducible exact Frame.ofMk (by first | exact Frame.refl | assumption) frMine frMine frSame frSame frMine frMine frMine frSame frMine frMine frMine frMine frMine frMine frMine frMine frMine frMine frMine frMine rfl rfl rfl (by first | exact .inr .refl | exact .inr ⟨rfl, rfl, rfl, rfl, id⟩ | exact .inr ⟨rfl, rfl, rfl, rfl, fun _ => rfl⟩ | exact .inr (.ite ⟨rfl, rfl, rfl, rfl, id⟩ ⟨rfl, rfl, rfl, rfl, id⟩)) (by first | exact .inr .refl | exact .inr ⟨rfl, rfl, rfl, rfl⟩ | exact .inr (addFaultRecord_binds _ _) | with_unfolding_all exact .inr ⟨rfl, rfl, rfl, rfl⟩)
    | with_reducible apply Frame.refl
    | with_reducible assumption
    | split

theorem replicaRetry_frame {k : Parts} {s t : State} 
    (h : Frame k s t) (hk : sub { spe := true, mem := true } k = true) :
    Frame k s (replicaRetry t) := by
  refine Frame.step h (l := { spe := true, mem := true }) ?_ hk
  clear h hk
  unfold replicaRetry
  repeat' first
    | with_reducible refine startFill_frame ?_ (by with_unfolding_all rfl)
    | with_reducible apply Frame.ite
    | with_reducible exact Frame.ofMk (by first | exact Frame.refl | assumption) frSame frSame frSame frSame frSame frSame frSame frSame frSame frSame frSame frSame frSame frSame frSame frSame frMine frSame frSame frSame rfl rfl rfl (.inr .refl) (.inr .refl)
    | with_reducible apply Frame.refl
    | with_reducible assumption
    | split

theorem reappend_frame {k : Parts} {s t : State} {a0 : List Rmw}
    (h : Frame k s t) (hk : sub { spe := true, mem := true } k = true) :
    Frame k s (reappend a0 t) := by
  refine Frame.step h (l := { spe := true, mem := true }) ?_ hk
  clear h hk
  fun_induction reappend a0 t
  repeat' first
    | with_reducible refine Frame.step ?_ (by assumption) (by with_unfolding_all rfl)
    | with_reducible refine jAppend_frame ?_ (by with_unfolding_all rfl)
    | with_reducible refine Frame.getDMap ?_ (fun _ => ?_)
    | with_reducible apply Frame.getD
    | with_reducible exact Frame.ofMk (by first | exact Frame.refl | assumption) frSame frSame frSame frSame frSame frSame frSame frSame frSame frSame frSame frSame frSame frSame frSame frSame frMine frSame frSame frSame rfl rfl rfl (.inr .refl) (.inr .refl)
    | with_reducible apply Frame.refl
    | with_reducible assumption
    | intro _ _ _
    | intro _ _
    | split

theorem checkpoint_frame {k : Parts} {s t : State} 
    (h : Frame k s t) (hk : sub partsEngineFaultW k = true) :
    Frame k s (checkpoint t) := by
  refine Frame.step h (l := partsEngineFaultW) ?_ hk
  clear h hk
  unfold checkpoint
  repeat' first
    | (extract_lets +onlyGivenNames -merge -underBinder x; first | (with_reducible refine Frame.cutTo (t := x) ?_ ?_; rotate_left; (try clear_value x); rename _ => y; intro hx; rotate_left; clear_value (hh : x = _); subst hh) | (have hq : Flt := x; clear hq; rename _ => y) | (have hq : Sys := x; clear hq; rename _ => y) | (clear_value x; rename _ => y) | (have hq := x; clear hq; rename _ => y))
    | with_reducible refine reappend_frame ?_ (by with_unfolding_all rfl)
    | with_reducible refine jAppend_frame ?_ (by with_unfolding_all rfl)
    | with_reducible refine speEvent_frame ?_ (by with_unfolding_all rfl)
    | with_reducible apply Frame.foldl
    | with_reducible exact Frame.ofMk (by first | exact Frame.refl | assumption) frMine frMine frSame frSame frMine frMine frMine frSame frMine frMine frMine frSame frMine frMine frMine frMine frMine frMine frMine frSame rfl rfl rfl (by first | exact .inr .refl | exact .inr ⟨rfl, rfl, rfl, rfl, id⟩ | exact .inr ⟨rfl, rfl, rfl, rfl, fun _ => rfl⟩ | exact .inr (.ite ⟨rfl, rfl, rfl, rfl, id⟩ ⟨rfl, rfl, rfl, rfl, id⟩)) (by first | exact .inr .refl | exact .inr ⟨rfl, rfl, rfl, rfl⟩ | exact .inr (addFaultRecord_binds _ _) | with_unfolding_all exact .inr ⟨rfl, rfl, rfl, rfl⟩)
    | with_reducible apply Frame.refl
    | with_reducible assumption
    | intro _ _ _
    | intro _ _

theorem checkpointRun_frame {k : Parts} {s t : State} {a0 : Bool}
    (h : Frame k s t) (hk : sub partsEngineFaultW k = true) :
    Frame k s (checkpointRun a0 t) := by
  refine Frame.step h (l := partsEngineFaultW) ?_ hk
  clear h hk
  unfold checkpointRun
  repeat' first
    | (extract_lets +onlyGivenNames -merge -underBinder x; first | (with_reducible refine Frame.cutTo (t := x) ?_ ?_; rotate_left; (try clear_value x); rename _ => y; intro hx; rotate_left; clear_value (hh : x = _); subst hh) | (have hq : Flt := x; clear hq; rename _ => y) | (have hq : Sys := x; clear hq; rename _ => y) | (clear_value x; rename _ => y) | (have hq := x; clear hq; rename _ => y))
    | with_reducible refine checkpoint_frame ?_ (by with_unfolding_all rfl)
    | with_reducible refine speEvent_frame ?_ (by with_unfolding_all rfl)
    | with_reducible apply Frame.ite
    | with_reducible exact Frame.ofMk (by first | exact Frame.refl | assumption) frMine frMine frSame frSame frMine frMine frMine frSame frMine frMine frMine frSame frMine frMine frMine frMine frMine frMine frMine frSame rfl rfl rfl (by first | exact .inr .refl | exact .inr ⟨rfl, rfl, rfl, rfl, id⟩ | exact .inr ⟨rfl, rfl, rfl, rfl, fun _ => rfl⟩ | exact .inr (.ite ⟨rfl, rfl, rfl, rfl, id⟩ ⟨rfl, rfl, rfl, rfl, id⟩)) (by first | exact .inr .refl | exact .inr ⟨rfl, rfl, rfl, rfl⟩ | exact .inr (addFaultRecord_binds _ _) | with_unfolding_all exact .inr ⟨rfl, rfl, rfl, rfl⟩)
    | with_reducible apply Frame.refl
    | with_reducible assumption
    | split

theorem execCheckpoint_frame {s t : State} {a0 : Bool} (e : execCheckpoint a0 s = .next t) :
    Frame partsEngineFaultW s t := by
  unfold execCheckpoint at e
  refine Frame.act ?_ e
  clear e
  try dsimp -zeta only
  repeat' first
    | with_reducible refine checkpointRun_frame ?_ (by with_unfolding_all rfl)
    | with_reducible apply Frame.refl
    | with_reducible assumption

theorem touchRegion_frame {k : Parts} {s t : State} {a0 : Nat}
    (h : Frame k s t) (hk : sub { spe := true, mem := true } k = true) :
    Frame k s (touchRegion a0 t) := by
  refine Frame.step h (l := { spe := true, mem := true }) ?_ hk
  clear h hk
  unfold touchRegion
  repeat' first
    | (extract_lets +onlyGivenNames -merge -underBinder x; first | (with_reducible refine Frame.cutTo (t := x) ?_ ?_; rotate_left; (try clear_value x); rename _ => y; intro hx; rotate_left; clear_value (hh : x = _); subst hh) | (clear_value x; rename _ => y) | (have hq := x; clear hq; rename _ => y))
    | with_reducible refine jAppend_frame ?_ (by with_unfolding_all rfl)
    | with_reducible apply Frame.ite
    | with_reducible exact Frame.ofMk (by first | exact Frame.refl | assumption) frSame frSame frSame frSame frSame frSame frSame frSame frSame frSame frSame frSame frSame frSame frSame frSame frMine frSame frSame frSame rfl rfl rfl (.inr .refl) (.inr .refl)
    | with_reducible apply Frame.refl
    | with_reducible assumption
    | split

theorem bitClearDelay_frame {k : Parts} {s t : State} {a0 : Nat}
    (h : Frame k s t) (hk : sub { spe := true, mem := true } k = true) :
    Frame k s (bitClearDelay a0 t) := by
  refine Frame.step h (l := { spe := true, mem := true }) ?_ hk
  clear h hk
  unfold bitClearDelay
  repeat' first
    | (extract_lets +onlyGivenNames -merge -underBinder x; first | (with_reducible refine Frame.cutTo (t := x) ?_ ?_; rotate_left; (try clear_value x); rename _ => y; intro hx; rotate_left; clear_value (hh : x = _); subst hh) | (clear_value x; rename _ => y) | (have hq := x; clear hq; rename _ => y))
    | with_reducible refine jAppend_frame ?_ (by with_unfolding_all rfl)
    | with_reducible apply Frame.ite
    | with_reducible apply Frame.refl
    | with_reducible assumption
    | split

theorem execBitClearDelay_frame {s t : State} {a0 : Nat} (e : execBitClearDelay a0 s = .next t) :
    Frame { spe := true, mem := true } s t := by
  unfold execBitClearDelay at e
  refine Frame.act ?_ e
  clear e
  try dsimp -zeta only
  repeat' first
    | with_reducible refine bitClearDelay_frame ?_ (by with_unfolding_all rfl)
    | with_reducible apply Frame.refl
    | with_reducible assumption

end Sys2Proof.Laws
end

