-- ==== Sys2Proof/Laws/Frames/Array.lean ====
section
/-!
SUPPORT. The frames of the operations of Machine/Array.lean: the parts each may change.
-/
namespace Sys2Proof.Laws
open Sys2Proof Sys2Proof.Machine

set_option linter.all false
set_option Elab.async false

theorem setZone_frame {k : Parts} {s t : State} {a0 : Nat} {a1 : Zone}
    (h : Frame k s t) (hk : sub { arr := true } k = true) :
    Frame k s (setZone a0 a1 t) := by
  refine Frame.step h (l := { arr := true }) ?_ hk
  clear h hk
  unfold setZone
  repeat' first
    | (extract_lets +onlyGivenNames -merge -underBinder x; first | (with_reducible refine Frame.cutTo (t := x) ?_ ?_; rotate_left; (try clear_value x); rename _ => y; intro hx; rotate_left; clear_value (hh : x = _); subst hh) | (clear_value x; rename _ => y) | (have hq := x; clear hq; rename _ => y))
    | with_reducible exact Frame.ofMk (by first | exact Frame.refl | assumption) frSame frSame frSame frSame frSame frSame frSame frSame frSame frSame frSame frSame frSame frSame frSame frSame frSame frMine frSame frSame rfl rfl rfl (.inr .refl) (.inr .refl)
    | with_reducible apply Frame.refl
    | with_reducible assumption

theorem setMember_frame {k : Parts} {s t : State} {a0 : Fin 24} {a1 : Member}
    (h : Frame k s t) (hk : sub { arr := true } k = true) :
    Frame k s (setMember a0 a1 t) := by
  refine Frame.step h (l := { arr := true }) ?_ hk
  clear h hk
  unfold setMember
  repeat' first
    | (extract_lets +onlyGivenNames -merge -underBinder x; first | (with_reducible refine Frame.cutTo (t := x) ?_ ?_; rotate_left; (try clear_value x); rename _ => y; intro hx; rotate_left; clear_value (hh : x = _); subst hh) | (clear_value x; rename _ => y) | (have hq := x; clear hq; rename _ => y))
    | with_reducible exact Frame.ofMk (by first | exact Frame.refl | assumption) frSame frSame frSame frSame frSame frSame frSame frSame frSame frSame frSame frSame frSame frSame frSame frSame frSame frMine frSame frSame rfl rfl rfl (.inr .refl) (.inr .refl)
    | with_reducible apply Frame.refl
    | with_reducible assumption

theorem addLost_frame {k : Parts} {s t : State} {a0 : Lost}
    (h : Frame k s t) (hk : sub partsAddLost k = true) :
    Frame k s (addLost a0 t) := by
  refine Frame.step h (l := partsAddLost) ?_ hk
  clear h hk
  unfold addLost
  repeat' first
    | (extract_lets +onlyGivenNames -merge -underBinder x; first | (with_reducible refine Frame.cutTo (t := x) ?_ ?_; rotate_left; (try clear_value x); rename _ => y; intro hx; rotate_left; clear_value (hh : x = _); subst hh) | (clear_value x; rename _ => y) | (have hq := x; clear hq; rename _ => y))
    | with_reducible refine vendorEvent_frame ?_ (by with_unfolding_all rfl)
    | with_reducible refine noteChange_frame ?_ (by with_unfolding_all rfl)
    | with_reducible refine zmap_frame ?_ (by with_unfolding_all rfl)
    | with_reducible apply Frame.ite
    | with_reducible exact Frame.ofMk (by first | exact Frame.refl | assumption) frSame frSame frSame frSame frSame frSame frSame frSame frSame frSame frSame frSame frSame frSame frSame frSame frMine frMine frMine frSame rfl rfl rfl (.inr .refl) (.inr .refl)
    | with_reducible apply Frame.refl
    | with_reducible assumption
    | split

theorem dropStitch_frame {k : Parts} {s t : State} {a0 : Nat} {a1 : Nat} {a2 : Nat} {a3 : Nat} {a4 : BitVec 24}
    (h : Frame k s t) (hk : sub partsAddLost k = true) :
    Frame k s (dropStitch a0 a1 a2 a3 a4 t) := by
  refine Frame.step h (l := partsAddLost) ?_ hk
  clear h hk
  unfold dropStitch
  repeat' first
    | with_reducible refine addLost_frame ?_ (by with_unfolding_all rfl)
    | with_reducible apply Frame.ite
    | with_reducible exact Frame.ofMk (by first | exact Frame.refl | assumption) frSame frSame frSame frSame frSame frSame frSame frSame frSame frSame frSame frSame frSame frSame frSame frSame frMine frMine frMine frSame rfl rfl rfl (.inr .refl) (.inr .refl)
    | with_reducible apply Frame.refl
    | with_reducible assumption
    | split

theorem dropLost_frame {k : Parts} {s t : State} {a0 : Nat}
    (h : Frame k s t) (hk : sub { spe := true, arr := true, mem := true } k = true) :
    Frame k s (dropLost a0 t) := by
  refine Frame.step h (l := { spe := true, arr := true, mem := true }) ?_ hk
  clear h hk
  unfold dropLost
  repeat' first
    | (extract_lets +onlyGivenNames -merge -underBinder x; first | (with_reducible refine Frame.cutTo (t := x) ?_ ?_; rotate_left; (try clear_value x); rename _ => y; intro hx; rotate_left; clear_value (hh : x = _); subst hh) | (clear_value x; rename _ => y) | (have hq := x; clear hq; rename _ => y))
    | with_reducible refine noteChange_frame ?_ (by with_unfolding_all rfl)
    | with_reducible refine zmap_frame ?_ (by with_unfolding_all rfl)
    | with_reducible apply Frame.ite
    | with_reducible exact Frame.ofMk (by first | exact Frame.refl | assumption) frSame frSame frSame frSame frSame frSame frSame frSame frSame frSame frSame frSame frSame frSame frSame frSame frMine frMine frSame frSame rfl rfl rfl (.inr .refl) (.inr .refl)
    | with_reducible apply Frame.refl
    | with_reducible assumption
    | split

theorem lostRewritten_frame {k : Parts} {s t : State} {a0 : Nat} {a1 : Nat} {a2 : Nat} {a3 : Nat}
    (h : Frame k s t) (hk : sub { spe := true, arr := true, mem := true } k = true) :
    Frame k s (lostRewritten a0 a1 a2 a3 t) := by
  refine Frame.step h (l := { spe := true, arr := true, mem := true }) ?_ hk
  clear h hk
  unfold lostRewritten
  repeat' first
    | (extract_lets +onlyGivenNames -merge -underBinder x; first | (with_reducible refine Frame.cutTo (t := x) ?_ ?_; rotate_left; (try clear_value x); rename _ => y; intro hx; rotate_left; clear_value (hh : x = _); subst hh) | (have hq : ∀ a, Frame {} t (x a) → True := fun _ _ => trivial; clear hq; rename _ => y) | (have hq : ∀ a b, Frame {} t (x a b) → True := fun _ _ _ => trivial; clear hq; rename _ => y) | (clear_value x; rename _ => y) | (have hq := x; clear hq; rename _ => y))
    | with_reducible refine zmap_frame ?_ (by with_unfolding_all rfl)
    | with_reducible refine Frame.getDMap ?_ (fun _ => ?_)
    | with_reducible apply Frame.getD
    | with_reducible apply Frame.ite
    | with_reducible exact Frame.ofMk (by first | exact Frame.refl | assumption) frSame frSame frSame frSame frSame frSame frSame frSame frSame frSame frSame frSame frSame frSame frSame frSame frMine frMine frSame frSame rfl rfl rfl (.inr .refl) (.inr .refl)
    | with_reducible apply Frame.refl
    | with_reducible assumption
    | intro _ _ _
    | intro _ _
    | split

theorem memberChange_frame {k : Parts} {s t : State} {a0 : Fin 24} {a1 : MemberState} {a2 : Nat} {a3 : Nat}
    (h : Frame k s t) (hk : sub partsAddLost k = true) :
    Frame k s (memberChange a0 a1 a2 a3 t) := by
  refine Frame.step h (l := partsAddLost) ?_ hk
  clear h hk
  unfold memberChange
  repeat' first
    | (extract_lets +onlyGivenNames -merge -underBinder x; first | (with_reducible refine Frame.cutTo (t := x) ?_ ?_; rotate_left; (try clear_value x); rename _ => y; intro hx; rotate_left; clear_value (hh : x = _); subst hh) | (clear_value x; rename _ => y) | (have hq := x; clear hq; rename _ => y))
    | with_reducible refine setMember_frame ?_ (by with_unfolding_all rfl)
    | with_reducible refine vendorEvent_frame ?_ (by with_unfolding_all rfl)
    | with_reducible refine noteChange_frame ?_ (by with_unfolding_all rfl)
    | with_reducible refine zmap_frame ?_ (by with_unfolding_all rfl)
    | with_reducible apply Frame.ite
    | with_reducible exact Frame.ofMk (by first | exact Frame.refl | assumption) frSame frSame frSame frSame frSame frSame frSame frSame frSame frSame frSame frSame frSame frSame frSame frSame frMine frMine frMine frSame rfl rfl rfl (.inr .refl) (.inr .refl)
    | with_reducible apply Frame.refl
    | with_reducible assumption
    | split

theorem fence_frame {k : Parts} {s t : State} {a0 : Fin 24} {a1 : Nat}
    (h : Frame k s t) (hk : sub partsReplicaLost k = true) :
    Frame k s (fence a0 a1 t) := by
  refine Frame.step h (l := partsReplicaLost) ?_ hk
  clear h hk
  unfold fence
  repeat' first
    | (extract_lets +onlyGivenNames -merge -underBinder x; first | (with_reducible refine Frame.cutTo (t := x) ?_ ?_; rotate_left; (try clear_value x); rename _ => y; intro hx; rotate_left; clear_value (hh : x = _); subst hh) | (have hq : ∀ a, Frame {} t (x a) → True := fun _ _ => trivial; clear hq; rename _ => y) | (have hq : ∀ a b, Frame {} t (x a b) → True := fun _ _ _ => trivial; clear hq; rename _ => y) | (have hq : Flt := x; clear hq; rename _ => y) | (have hq : Sys := x; clear hq; rename _ => y) | (clear_value x; rename _ => y) | (have hq := x; clear hq; rename _ => y))
    | with_reducible refine setMember_frame ?_ (by with_unfolding_all rfl)
    | with_reducible refine memberChange_frame ?_ (by with_unfolding_all rfl)
    | with_reducible refine replicaLost_frame ?_ (by with_unfolding_all rfl)
    | with_reducible apply Frame.ite
    | with_reducible exact Frame.ofMk (by first | exact Frame.refl | assumption) frMine frMine frSame frSame frMine frMine frMine frSame frMine frMine frMine frMine frMine frMine frMine frMine frMine frMine frMine frMine rfl rfl rfl (by first | exact .inr .refl | exact .inr ⟨rfl, rfl, rfl, rfl, id⟩ | exact .inr ⟨rfl, rfl, rfl, rfl, fun _ => rfl⟩ | exact .inr (.ite ⟨rfl, rfl, rfl, rfl, id⟩ ⟨rfl, rfl, rfl, rfl, id⟩)) (by first | exact .inr .refl | exact .inr ⟨rfl, rfl, rfl, rfl⟩ | exact .inr (addFaultRecord_binds _ _) | with_unfolding_all exact .inr ⟨rfl, rfl, rfl, rfl⟩)
    | with_reducible apply Frame.refl
    | with_reducible assumption
    | split

theorem withhold_frame {k : Parts} {s t : State} {a0 : Fin 24} {a1 : Nat}
    (h : Frame k s t) (hk : sub { flt := true, spe := true, arr := true, hif := true, mem := true } k = true) :
    Frame k s (withhold a0 a1 t) := by
  refine Frame.step h (l := { flt := true, spe := true, arr := true, hif := true, mem := true }) ?_ hk
  clear h hk
  unfold withhold
  repeat' first
    | (extract_lets +onlyGivenNames -merge -underBinder x; first | (with_reducible refine Frame.cutTo (t := x) ?_ ?_; rotate_left; (try clear_value x); rename _ => y; intro hx; rotate_left; clear_value (hh : x = _); subst hh) | (have hq : Flt := x; clear hq; rename _ => y) | (clear_value x; rename _ => y) | (have hq := x; clear hq; rename _ => y))
    | with_reducible refine memberChange_frame ?_ (by with_unfolding_all rfl)
    | with_reducible refine historyNote_frame ?_ (by with_unfolding_all rfl)
    | with_reducible refine noteChange_frame ?_ (by with_unfolding_all rfl)
    | with_reducible refine setMember_frame ?_ (by with_unfolding_all rfl)
    | with_reducible apply Frame.ite
    | with_reducible exact Frame.ofMk (by first | exact Frame.refl | assumption) frSame frMine frSame frSame frSame frSame frSame frSame frSame frSame frSame frSame frSame frSame frSame frSame frMine frMine frMine frSame rfl rfl rfl (.inr .refl) (by first | exact .inr .refl | exact .inr ⟨rfl, rfl, rfl, rfl⟩ | exact .inr (addFaultRecord_binds _ _) | with_unfolding_all exact .inr ⟨rfl, rfl, rfl, rfl⟩)
    | with_reducible apply Frame.refl
    | with_reducible assumption
    | split

theorem spareSet_frame {k : Parts} {s t : State} {a0 : Nat} {a1 : Nat}
    (h : Frame k s t) (hk : sub { arr := true } k = true) :
    Frame k s (spareSet a0 a1 t) := by
  refine Frame.step h (l := { arr := true }) ?_ hk
  clear h hk
  unfold spareSet
  repeat' first
    | (extract_lets +onlyGivenNames -merge -underBinder x; first | (with_reducible refine Frame.cutTo (t := x) ?_ ?_; rotate_left; (try clear_value x); rename _ => y; intro hx; rotate_left; clear_value (hh : x = _); subst hh) | (clear_value x; rename _ => y) | (have hq := x; clear hq; rename _ => y))
    | with_reducible apply Frame.ite
    | with_reducible exact Frame.ofMk (by first | exact Frame.refl | assumption) frSame frSame frSame frSame frSame frSame frSame frSame frSame frSame frSame frSame frSame frSame frSame frSame frSame frMine frSame frSame rfl rfl rfl (.inr .refl) (.inr .refl)
    | with_reducible apply Frame.refl
    | with_reducible assumption
    | split

theorem targetPlace_frame {k : Parts} {s t : State} {a0 : Nat} {a1 : Nat} {a2 : Zone}
    (h : Frame k s t) (hk : sub { media := true, free := true } k = true) :
    Frame k s (targetPlace a0 a1 a2 t).2 := by
  refine Frame.step h (l := { media := true, free := true }) ?_ hk
  clear h hk
  unfold targetPlace
  repeat' first
    | (extract_lets +onlyGivenNames -merge -underBinder x; first | (with_reducible refine Frame.cutTo (t := x) ?_ ?_; rotate_left; (try clear_value x); rename _ => y; intro hx; rotate_left; clear_value (hh : x = _); subst hh) | (with_reducible refine Frame.cutTo (t := (Prod.snd x)) ?_ ?_; rotate_left; (try clear_value x); rename _ => y; intro hx; rotate_left; clear_value (hh : x = _); subst hh) | (clear_value x; rename _ => y) | (have hq := x; clear hq; rename _ => y))
    | split
    | with_reducible refine targetExtent_frame ?_ (by with_unfolding_all rfl)
    | with_reducible refine freeNext_frame ?_ (by with_unfolding_all rfl)
    | with_reducible refine freeNext_pair (by assumption) ?_ (by with_unfolding_all rfl)
    | with_reducible refine Frame.getDMap ?_ (fun _ => ?_)
    | with_reducible apply Frame.getD
    | with_reducible exact Frame.ofMk (by first | exact Frame.refl | assumption | exact freeNext_pair (by assumption) (by first | exact Frame.refl | assumption | exact freeNext_pair (by assumption) (by first | exact Frame.refl | assumption) (by with_unfolding_all rfl)) (by with_unfolding_all rfl)) frSame frSame frSame frSame frSame frSame frSame frSame frSame frSame frSame frMine frSame frSame frSame frSame frSame frSame frSame frSame rfl rfl rfl (.inr .refl) (.inr .refl)
    | dsimp -zeta only
    | with_reducible apply Frame.refl
    | with_reducible assumption
    | intro _ _ _
    | intro _ _
    | split

theorem targetPlace_pair {k : Parts} {s t : State} {a0 : Nat} {a1 : Nat} {a2 : Zone} {y : Nat} {b : State} (e : targetPlace a0 a1 a2 t = (y, b))
    (h : Frame k s t) (hk : sub { media := true, free := true } k = true) :
    Frame k s b := by
  have f := targetPlace_frame (a0 := a0) (a1 := a1) (a2 := a2) h hk
  rw [e] at f; exact f

theorem assignTarget_frame {k : Parts} {s t : State} {a0 : Nat} {a1 : Nat}
    (h : Frame k s t) (hk : sub partsAssignTarget k = true) :
    Frame k s (assignTarget a0 a1 t) := by
  refine Frame.step h (l := partsAssignTarget) ?_ hk
  clear h hk
  unfold assignTarget
  repeat' first
    | (extract_lets +onlyGivenNames -merge -underBinder x; first | (with_reducible refine Frame.cutTo (t := x) ?_ ?_; rotate_left; (try clear_value x); rename _ => y; intro hx; rotate_left; clear_value (hh : x = _); subst hh) | (with_reducible refine Frame.cutTo (t := (Prod.snd x)) ?_ ?_; rotate_left; (try clear_value x); rename _ => y; intro hx; rotate_left; clear_value (hh : x = _); subst hh) | (clear_value x; rename _ => y) | (have hq := x; clear hq; rename _ => y))
    | split
    | with_reducible refine setZone_frame ?_ (by with_unfolding_all rfl)
    | with_reducible refine spareSet_frame ?_ (by with_unfolding_all rfl)
    | with_reducible refine vendorEvent_frame ?_ (by with_unfolding_all rfl)
    | with_reducible refine noteChange_frame ?_ (by with_unfolding_all rfl)
    | with_reducible refine targetPlace_frame ?_ (by with_unfolding_all rfl)
    | with_reducible refine targetPlace_pair (by assumption) ?_ (by with_unfolding_all rfl)
    | with_reducible refine zmap_frame ?_ (by with_unfolding_all rfl)
    | with_reducible refine spareShort_frame ?_ (by with_unfolding_all rfl)
    | with_reducible refine Frame.getDMap ?_ (fun _ => ?_)
    | with_reducible apply Frame.getD
    | with_reducible apply Frame.ite
    | with_reducible exact Frame.ofMk (by first | exact Frame.refl | assumption | exact targetPlace_pair (by assumption) (by first | exact Frame.refl | assumption | exact targetPlace_pair (by assumption) (by first | exact Frame.refl | assumption) (by with_unfolding_all rfl)) (by with_unfolding_all rfl)) frSame frSame frSame frSame frSame frSame frSame frSame frSame frSame frSame frMine frSame frSame frSame frSame frMine frMine frMine frSame rfl rfl rfl (.inr .refl) (.inr .refl)
    | with_reducible apply Frame.refl
    | with_reducible assumption
    | intro _ _ _
    | intro _ _
    | split

theorem assignTargets_frame {k : Parts} {s t : State} {a0 : Nat}
    (h : Frame k s t) (hk : sub partsAssignTarget k = true) :
    Frame k s (assignTargets a0 t) := by
  refine Frame.step h (l := partsAssignTarget) ?_ hk
  clear h hk
  unfold assignTargets
  repeat' first
    | with_reducible refine assignTarget_frame ?_ (by with_unfolding_all rfl)
    | with_reducible apply Frame.foldl
    | with_reducible exact Frame.ofMk (by first | exact Frame.refl | assumption) frSame frSame frSame frSame frSame frSame frSame frSame frSame frSame frSame frMine frSame frSame frSame frSame frMine frMine frMine frSame rfl rfl rfl (.inr .refl) (.inr .refl)
    | with_reducible apply Frame.refl
    | with_reducible assumption
    | intro _ _ _
    | intro _ _
    | split

theorem freeTargets_frame {k : Parts} {s t : State} {a0 : Zone}
    (h : Frame k s t) (hk : sub { arr := true } k = true) :
    Frame k s (freeTargets a0 t) := by
  refine Frame.step h (l := { arr := true }) ?_ hk
  clear h hk
  unfold freeTargets
  repeat' first
    | with_reducible refine extentFree_frame ?_ (by with_unfolding_all rfl)
    | with_reducible apply Frame.foldl
    | with_reducible apply Frame.refl
    | with_reducible assumption
    | intro _ _ _
    | intro _ _

theorem placeZone_frame {k : Parts} {s t : State} {a0 : Nat} {b : State} (e : placeZone a0 t = some b)
    (h : Frame k s t) (hk : sub partsAssignTarget k = true) :
    Frame k s b := by
  refine Frame.step h (l := partsAssignTarget) ?_ hk
  clear h hk
  revert e
  unfold placeZone
  repeat' first
    | with_reducible exact Frame.none
    | with_reducible refine Frame.some ?_
    | with_reducible refine Frame.somePair ?_
    | (extract_lets +onlyGivenNames -merge -underBinder x; first | (with_reducible refine Frame.cut (k := partsAssignTarget) (s := t) (t := x) ?_ ?_; rotate_left; (try clear_value x); rename _ => y; intro hx; rotate_left; clear_value (hh : x = _); subst hh) | (clear_value x; rename _ => y) | (have hq := x; clear hq; rename _ => y))
    | with_reducible refine assignTargets_frame ?_ (by with_unfolding_all rfl)
    | with_reducible refine giveExtents_frame ?_ (by with_unfolding_all rfl)
    | with_reducible refine setZone_frame ?_ (by with_unfolding_all rfl)
    | with_reducible apply Frame.ite
    | with_reducible exact Frame.ofMk (by first | exact Frame.refl | assumption) frSame frSame frSame frSame frSame frSame frSame frSame frSame frSame frSame frMine frSame frSame frSame frSame frMine frMine frMine frSame rfl rfl rfl (.inr .refl) (.inr .refl)
    | with_reducible apply Frame.refl
    | with_reducible assumption
    | split

theorem reshapeReset_frame {k : Parts} {s t : State} {a0 : Nat}
    (h : Frame k s t) (hk : sub partsAddLost k = true) :
    Frame k s (reshapeReset a0 t) := by
  refine Frame.step h (l := partsAddLost) ?_ hk
  clear h hk
  unfold reshapeReset
  repeat' first
    | (extract_lets +onlyGivenNames -merge -underBinder x; first | (with_reducible refine Frame.cutTo (t := x) ?_ ?_; rotate_left; (try clear_value x); rename _ => y; intro hx; rotate_left; clear_value (hh : x = _); subst hh) | (clear_value x; rename _ => y) | (have hq := x; clear hq; rename _ => y))
    | with_reducible refine zmap_frame ?_ (by with_unfolding_all rfl)
    | with_reducible refine unlock_frame ?_ (by with_unfolding_all rfl)
    | with_reducible refine setZone_frame ?_ (by with_unfolding_all rfl)
    | with_reducible refine Frame.getDMap ?_ (fun _ => ?_)
    | with_reducible apply Frame.getD
    | with_reducible apply Frame.ite
    | with_reducible exact Frame.ofMk (by first | exact Frame.refl | assumption) frSame frSame frSame frSame frSame frSame frSame frSame frSame frSame frSame frSame frSame frSame frSame frSame frMine frMine frMine frSame rfl rfl rfl (.inr .refl) (.inr .refl)
    | with_reducible apply Frame.refl
    | with_reducible assumption
    | intro _ _ _
    | intro _ _
    | split

theorem clearZone_frame {k : Parts} {s t : State} {a0 : Nat}
    (h : Frame k s t) (hk : sub { media := true, spe := true, arr := true, mem := true } k = true) :
    Frame k s (clearZone a0 t) := by
  refine Frame.step h (l := { media := true, spe := true, arr := true, mem := true }) ?_ hk
  clear h hk
  unfold clearZone
  repeat' first
    | (extract_lets +onlyGivenNames -merge -underBinder x; first | (with_reducible refine Frame.cutTo (t := x) ?_ ?_; rotate_left; (try clear_value x); rename _ => y; intro hx; rotate_left; clear_value (hh : x = _); subst hh) | (clear_value x; rename _ => y) | (have hq := x; clear hq; rename _ => y))
    | with_reducible refine dropMembers_frame ?_ (by with_unfolding_all rfl)
    | with_reducible refine resetExtents_frame ?_ (by with_unfolding_all rfl)
    | with_reducible refine freeTargets_frame ?_ (by with_unfolding_all rfl)
    | with_reducible refine setZone_frame ?_ (by with_unfolding_all rfl)
    | with_reducible refine dropLost_frame ?_ (by with_unfolding_all rfl)
    | with_reducible exact Frame.ofMk (by first | exact Frame.refl | assumption) frSame frSame frSame frSame frSame frSame frSame frSame frSame frSame frSame frMine frSame frSame frSame frSame frMine frMine frSame frSame rfl rfl rfl (.inr .refl) (.inr .refl)
    | with_reducible apply Frame.refl
    | with_reducible assumption
    | split

end Sys2Proof.Laws
end

