-- ==== Sys2Proof/Laws/Frames/Stc.lean ====
section
/-!
SUPPORT. The frames of the operations of Machine/Stc.lean: the parts each may change.
-/
namespace Sys2Proof.Laws
open Sys2Proof Sys2Proof.Machine

set_option linter.all false
set_option Elab.async false

theorem stcEvent_frame {k : Parts} {s t : State} {a0 : Nat}
    (h : Frame k s t) (hk : sub partsEngineFaultW k = true) :
    Frame k s (stcEvent a0 t) := by
  refine Frame.step h (l := partsEngineFaultW) ?_ hk
  clear h hk
  unfold stcEvent
  repeat' first
    | (extract_lets +onlyGivenNames -merge -underBinder x; first | (with_reducible refine Frame.cutTo (t := x) ?_ ?_; rotate_left; (try clear_value x); rename _ => y; intro hx; rotate_left; clear_value (hh : x = _); subst hh) | (have hq : Flt := x; clear hq; rename _ => y) | (have hq : Sys := x; clear hq; rename _ => y) | (clear_value x; rename _ => y) | (have hq := x; clear hq; rename _ => y))
    | with_reducible refine raise_frame ?_ (by with_unfolding_all rfl)
    | with_reducible refine freshMark_frame ?_ (by with_unfolding_all rfl)
    | with_reducible apply Frame.ite
    | with_reducible exact Frame.ofMk (by first | exact Frame.refl | assumption) frMine frMine frSame frSame frMine frMine frMine frSame frMine frMine frMine frSame frMine frMine frMine frMine frMine frMine frMine frSame rfl rfl rfl (by first | exact .inr .refl | exact .inr ⟨rfl, rfl, rfl, rfl, id⟩ | exact .inr ⟨rfl, rfl, rfl, rfl, fun _ => rfl⟩ | exact .inr (.ite ⟨rfl, rfl, rfl, rfl, id⟩ ⟨rfl, rfl, rfl, rfl, id⟩)) (by first | exact .inr .refl | exact .inr ⟨rfl, rfl, rfl, rfl⟩ | exact .inr (addFaultRecord_binds _ _) | with_unfolding_all exact .inr ⟨rfl, rfl, rfl, rfl⟩)
    | with_reducible apply Frame.refl
    | with_reducible assumption
    | split

theorem stcEntry_frame {k : Parts} {s t : State} {a0 : Nat} {a1 : Nat} {a2 : Int} {a3 : Bool}
    (h : Frame k s t) (hk : sub { stc := true } k = true) :
    Frame k s (stcEntry a0 a1 a2 a3 t) := by
  refine Frame.step h (l := { stc := true }) ?_ hk
  clear h hk
  unfold stcEntry
  repeat' first
    | (extract_lets +onlyGivenNames -merge -underBinder x; first | (with_reducible refine Frame.cutTo (t := x) ?_ ?_; rotate_left; (try clear_value x); rename _ => y; intro hx; rotate_left; clear_value (hh : x = _); subst hh) | (clear_value x; rename _ => y) | (have hq := x; clear hq; rename _ => y))
    | with_reducible apply Frame.ite
    | with_reducible exact Frame.ofMk (by first | exact Frame.refl | assumption) frSame frSame frSame frSame frSame frSame frSame frSame frSame frSame frSame frSame frSame frSame frSame frMine frSame frSame frSame frSame rfl rfl rfl (.inr .refl) (.inr .refl)
    | with_reducible apply Frame.refl
    | with_reducible assumption
    | split

theorem shockBegin_frame {k : Parts} {s t : State} {a0 : Fin 2}
    (h : Frame k s t) (hk : sub { stc := true } k = true) :
    Frame k s (shockBegin a0 t) := by
  refine Frame.step h (l := { stc := true }) ?_ hk
  clear h hk
  unfold shockBegin
  repeat' first
    | (extract_lets +onlyGivenNames -merge -underBinder x; first | (with_reducible refine Frame.cutTo (t := x) ?_ ?_; rotate_left; (try clear_value x); rename _ => y; intro hx; rotate_left; clear_value (hh : x = _); subst hh) | (clear_value x; rename _ => y) | (have hq := x; clear hq; rename _ => y))
    | with_reducible exact Frame.ofMk (by first | exact Frame.refl | assumption) frSame frSame frSame frSame frSame frSame frSame frSame frSame frSame frSame frSame frSame frSame frSame frMine frSame frSame frSame frSame rfl rfl rfl (.inr .refl) (.inr .refl)
    | with_reducible apply Frame.refl
    | with_reducible assumption
    | split

theorem stcCond_frame {k : Parts} {s t : State} {a0 : Nat} {a1 : Nat} {a2 : Word}
    (h : Frame k s t) (hk : sub { stc := true } k = true) :
    Frame k s (stcCond a0 a1 a2 t) := by
  refine Frame.step h (l := { stc := true }) ?_ hk
  clear h hk
  unfold stcCond
  repeat' first
    | (extract_lets +onlyGivenNames -merge -underBinder x; first | (with_reducible refine Frame.cutTo (t := x) ?_ ?_; rotate_left; (try clear_value x); rename _ => y; intro hx; rotate_left; clear_value (hh : x = _); subst hh) | (clear_value x; rename _ => y) | (have hq := x; clear hq; rename _ => y))
    | with_reducible apply Frame.ite
    | with_reducible exact Frame.ofMk (by first | exact Frame.refl | assumption) frSame frSame frSame frSame frSame frSame frSame frSame frSame frSame frSame frSame frSame frSame frSame frMine frSame frSame frSame frSame rfl rfl rfl (.inr .refl) (.inr .refl)
    | with_reducible apply Frame.refl
    | with_reducible assumption
    | split

theorem stcPersist_frame {k : Parts} {s t : State} 
    (h : Frame k s t) (hk : sub { stc := true } k = true) :
    Frame k s (stcPersist t) := by
  refine Frame.step h (l := { stc := true }) ?_ hk
  clear h hk
  unfold stcPersist
  repeat' first
    | (extract_lets +onlyGivenNames -merge -underBinder x; first | (with_reducible refine Frame.cutTo (t := x) ?_ ?_; rotate_left; (try clear_value x); rename _ => y; intro hx; rotate_left; clear_value (hh : x = _); subst hh) | (clear_value x; rename _ => y) | (have hq := x; clear hq; rename _ => y))
    | with_reducible exact Frame.ofMk (by first | exact Frame.refl | assumption) frSame frSame frSame frSame frSame frSame frSame frSame frSame frSame frSame frSame frSame frSame frSame frMine frSame frSame frSame frSame rfl rfl rfl (.inr .refl) (.inr .refl)
    | with_reducible apply Frame.refl
    | with_reducible assumption
    | split

theorem stcClearGroup_frame {k : Parts} {s t : State} {a0 : Nat}
    (h : Frame k s t) (hk : sub { stc := true } k = true) :
    Frame k s (stcClearGroup a0 t) := by
  refine Frame.step h (l := { stc := true }) ?_ hk
  clear h hk
  unfold stcClearGroup
  repeat' first
    | (extract_lets +onlyGivenNames -merge -underBinder x; first | (with_reducible refine Frame.cutTo (t := x) ?_ ?_; rotate_left; (try clear_value x); rename _ => y; intro hx; rotate_left; clear_value (hh : x = _); subst hh) | (clear_value x; rename _ => y) | (have hq := x; clear hq; rename _ => y))
    | with_reducible apply Frame.ite
    | with_reducible exact Frame.ofMk (by first | exact Frame.refl | assumption) frSame frSame frSame frSame frSame frSame frSame frSame frSame frSame frSame frSame frSame frSame frSame frMine frSame frSame frSame frSame rfl rfl rfl (.inr .refl) (.inr .refl)
    | with_reducible apply Frame.refl
    | with_reducible assumption
    | split

theorem stcClear_frame {k : Parts} {s t : State} {a0 : Nat}
    (h : Frame k s t) (hk : sub { stc := true } k = true) :
    Frame k s (stcClear a0 t) := by
  refine Frame.step h (l := { stc := true }) ?_ hk
  clear h hk
  unfold stcClear
  repeat' first
    | with_reducible refine stcPersist_frame ?_ (by with_unfolding_all rfl)
    | with_reducible refine stcClearGroup_frame ?_ (by with_unfolding_all rfl)
    | with_reducible apply Frame.foldl
    | with_reducible apply Frame.ite
    | with_reducible apply Frame.refl
    | with_reducible assumption
    | intro _ _ _
    | intro _ _
    | split

theorem stcPersistDone_frame {k : Parts} {s t : State} {a0 : Bool} {a1 : Word}
    (h : Frame k s t) (hk : sub partsEngineFaultW k = true) :
    Frame k s (stcPersistDone a0 a1 t) := by
  refine Frame.step h (l := partsEngineFaultW) ?_ hk
  clear h hk
  unfold stcPersistDone
  repeat' first
    | (extract_lets +onlyGivenNames -merge -underBinder x; first | (with_reducible refine Frame.cutTo (t := x) ?_ ?_; rotate_left; (try clear_value x); rename _ => y; intro hx; rotate_left; clear_value (hh : x = _); subst hh) | (have hq : Flt := x; clear hq; rename _ => y) | (have hq : Sys := x; clear hq; rename _ => y) | (clear_value x; rename _ => y) | (have hq := x; clear hq; rename _ => y))
    | with_reducible refine stcEvent_frame ?_ (by with_unfolding_all rfl)
    | with_reducible refine stcCond_frame ?_ (by with_unfolding_all rfl)
    | with_reducible refine stcPersist_frame ?_ (by with_unfolding_all rfl)
    | with_reducible apply Frame.ite
    | with_reducible exact Frame.ofMk (by first | exact Frame.refl | assumption) frMine frMine frSame frSame frMine frMine frMine frSame frMine frMine frMine frSame frMine frMine frMine frMine frMine frMine frMine frSame rfl rfl rfl (by first | exact .inr .refl | exact .inr ⟨rfl, rfl, rfl, rfl, id⟩ | exact .inr ⟨rfl, rfl, rfl, rfl, fun _ => rfl⟩ | exact .inr (.ite ⟨rfl, rfl, rfl, rfl, id⟩ ⟨rfl, rfl, rfl, rfl, id⟩)) (by first | exact .inr .refl | exact .inr ⟨rfl, rfl, rfl, rfl⟩ | exact .inr (addFaultRecord_binds _ _) | with_unfolding_all exact .inr ⟨rfl, rfl, rfl, rfl⟩)
    | with_reducible apply Frame.refl
    | with_reducible assumption
    | split

theorem stcRestore_frame {k : Parts} {s t : State} 
    (h : Frame k s t) (hk : sub { stc := true } k = true) :
    Frame k s (stcRestore t) := by
  refine Frame.step h (l := { stc := true }) ?_ hk
  clear h hk
  unfold stcRestore
  repeat' first
    | (extract_lets +onlyGivenNames -merge -underBinder x; first | (with_reducible refine Frame.cutTo (t := x) ?_ ?_; rotate_left; (try clear_value x); rename _ => y; intro hx; rotate_left; clear_value (hh : x = _); subst hh) | (have hq : ∀ a, Frame {} t (x a) → True := fun _ _ => trivial; clear hq; rename _ => y) | (have hq : ∀ a b, Frame {} t (x a b) → True := fun _ _ _ => trivial; clear hq; rename _ => y) | (clear_value x; rename _ => y) | (have hq := x; clear hq; rename _ => y))
    | with_reducible refine stcCond_frame ?_ (by with_unfolding_all rfl)
    | with_reducible apply Frame.ite
    | with_reducible exact Frame.ofMk (by first | exact Frame.refl | assumption) frSame frSame frSame frSame frSame frSame frSame frSame frSame frSame frSame frSame frSame frSame frSame frMine frSame frSame frSame frSame rfl rfl rfl (.inr .refl) (.inr .refl)
    | with_reducible apply Frame.refl
    | with_reducible assumption
    | split

theorem stcRewind_frame {k : Parts} {s t : State} {a0 : CoreIx} {a1 : Nat}
    (h : Frame k s t) (hk : sub { stc := true } k = true) :
    Frame k s (stcRewind a0 a1 t) := by
  refine Frame.step h (l := { stc := true }) ?_ hk
  clear h hk
  unfold stcRewind
  repeat' first
    | (extract_lets +onlyGivenNames -merge -underBinder x; first | (with_reducible refine Frame.cutTo (t := x) ?_ ?_; rotate_left; (try clear_value x); rename _ => y; intro hx; rotate_left; clear_value (hh : x = _); subst hh) | (clear_value x; rename _ => y) | (have hq := x; clear hq; rename _ => y))
    | with_reducible exact Frame.ofMk (by first | exact Frame.refl | assumption) frSame frSame frSame frSame frSame frSame frSame frSame frSame frSame frSame frSame frSame frSame frSame frMine frSame frSame frSame frSame rfl rfl rfl (.inr .refl) (.inr .refl)
    | with_reducible apply Frame.refl
    | with_reducible assumption

theorem stcAdvance_frame {k : Parts} {s t : State} {a0 : CoreIx}
    (h : Frame k s t) (hk : sub { stc := true } k = true) :
    Frame k s (stcAdvance a0 t) := by
  refine Frame.step h (l := { stc := true }) ?_ hk
  clear h hk
  unfold stcAdvance
  repeat' first
    | (extract_lets +onlyGivenNames -merge -underBinder x; first | (with_reducible refine Frame.cutTo (t := x) ?_ ?_; rotate_left; (try clear_value x); rename _ => y; intro hx; rotate_left; clear_value (hh : x = _); subst hh) | (clear_value x; rename _ => y) | (have hq := x; clear hq; rename _ => y))
    | with_reducible apply Frame.ite
    | with_reducible exact Frame.ofMk (by first | exact Frame.refl | assumption) frSame frSame frSame frSame frSame frSame frSame frSame frSame frSame frSame frSame frSame frSame frSame frMine frSame frSame frSame frSame rfl rfl rfl (.inr .refl) (.inr .refl)
    | with_reducible apply Frame.refl
    | with_reducible assumption
    | split

theorem stcHostRead_frame {k : Parts} {s t : State} {a0 : Fin 2} {a1 : Nat} {a2 : Bool}
    (h : Frame k s t) (hk : sub { stc := true } k = true) :
    Frame k s (stcHostRead a0 a1 a2 t).2.2 := by
  refine Frame.step h (l := { stc := true }) ?_ hk
  clear h hk
  unfold stcHostRead
  repeat' first
    | (extract_lets +onlyGivenNames -merge -underBinder x; first | (with_reducible refine Frame.cutTo (t := x) ?_ ?_; rotate_left; (try clear_value x); rename _ => y; intro hx; rotate_left; clear_value (hh : x = _); subst hh) | (with_reducible refine Frame.cutTo (t := (Prod.snd x)) ?_ ?_; rotate_left; (try clear_value x); rename _ => y; intro hx; rotate_left; clear_value (hh : x = _); subst hh) | (clear_value x; rename _ => y) | (have hq := x; clear hq; rename _ => y))
    | with_reducible apply Frame.ite
    | with_reducible exact Frame.ofMk (by first | exact Frame.refl | assumption) frSame frSame frSame frSame frSame frSame frSame frSame frSame frSame frSame frSame frSame frSame frSame frMine frSame frSame frSame frSame rfl rfl rfl (.inr .refl) (.inr .refl)
    | dsimp -zeta only
    | with_reducible apply Frame.refl
    | with_reducible assumption
    | split

theorem stcHostRead_pair {k : Parts} {s t : State} {a0 : Fin 2} {a1 : Nat} {a2 : Bool} {y : BitVec 512} {z : Nat} {b : State} (e : stcHostRead a0 a1 a2 t = (y, z, b))
    (h : Frame k s t) (hk : sub { stc := true } k = true) :
    Frame k s b := by
  have f := stcHostRead_frame (a0 := a0) (a1 := a1) (a2 := a2) h hk
  rw [e] at f; exact f

end Sys2Proof.Laws
end

