-- ==== Sys2Proof/Laws/Frames/HostOps.lean ====
section
/-!
SUPPORT. The frames of the operations of Machine/HostOps.lean: the parts each may change.
-/
namespace Sys2Proof.Laws
open Sys2Proof Sys2Proof.Machine

set_option linter.all false
set_option Elab.async false

theorem hifEvent_frame {k : Parts} {s t : State} {a0 : Nat}
    (h : Frame k s t) (hk : sub partsEngineFaultW k = true) :
    Frame k s (hifEvent a0 t) := by
  refine Frame.step h (l := partsEngineFaultW) ?_ hk
  clear h hk
  unfold hifEvent
  repeat' first
    | (extract_lets +onlyGivenNames -merge -underBinder x; first | (with_reducible refine Frame.cutTo (t := x) ?_ ?_; rotate_left; (try clear_value x); rename _ => y; intro hx; rotate_left; clear_value (hh : x = _); subst hh) | (have hq : Flt := x; clear hq; rename _ => y) | (have hq : Sys := x; clear hq; rename _ => y) | (clear_value x; rename _ => y) | (have hq := x; clear hq; rename _ => y))
    | with_reducible refine raise_frame ?_ (by with_unfolding_all rfl)
    | with_reducible exact Frame.ofMk (by first | exact Frame.refl | assumption) frMine frMine frSame frSame frMine frMine frMine frSame frMine frMine frMine frSame frMine frMine frMine frMine frMine frMine frMine frSame rfl rfl rfl (by first | exact .inr .refl | exact .inr ⟨rfl, rfl, rfl, rfl, id⟩ | exact .inr ⟨rfl, rfl, rfl, rfl, fun _ => rfl⟩ | exact .inr (.ite ⟨rfl, rfl, rfl, rfl, id⟩ ⟨rfl, rfl, rfl, rfl, id⟩)) (by first | exact .inr .refl | exact .inr ⟨rfl, rfl, rfl, rfl⟩ | exact .inr (addFaultRecord_binds _ _) | with_unfolding_all exact .inr ⟨rfl, rfl, rfl, rfl⟩)
    | with_reducible apply Frame.refl
    | with_reducible assumption

theorem fetchHold_frame {k : Parts} {s t : State} {a0 : Bool}
    (h : Frame k s t) (hk : sub { hif := true } k = true) :
    Frame k s (fetchHold a0 t) := by
  refine Frame.step h (l := { hif := true }) ?_ hk
  clear h hk
  unfold fetchHold
  repeat' first
    | (extract_lets +onlyGivenNames -merge -underBinder x; first | (with_reducible refine Frame.cutTo (t := x) ?_ ?_; rotate_left; (try clear_value x); rename _ => y; intro hx; rotate_left; clear_value (hh : x = _); subst hh) | (clear_value x; rename _ => y) | (have hq := x; clear hq; rename _ => y))
    | with_reducible exact Frame.ofMk (by first | exact Frame.refl | assumption) frSame frSame frSame frSame frSame frSame frSame frSame frSame frSame frSame frSame frSame frSame frSame frSame frSame frSame frMine frSame rfl rfl rfl (.inr .refl) (.inr .refl)
    | with_reducible apply Frame.refl
    | with_reducible assumption

theorem takeNumber_frame {k : Parts} {s t : State} {a0 : Nat} {a1 : Bool} {a2 : Nat} {a3 : Nat} {a4 : Nat} {a5 : Nat}
    (h : Frame k s t) (hk : sub { hif := true } k = true) :
    Frame k s (takeNumber a0 a1 a2 a3 a4 a5 t).2 := by
  refine Frame.step h (l := { hif := true }) ?_ hk
  clear h hk
  unfold takeNumber
  repeat' first
    | (extract_lets +onlyGivenNames -merge -underBinder x; first | (with_reducible refine Frame.cutTo (t := x) ?_ ?_; rotate_left; (try clear_value x); rename _ => y; intro hx; rotate_left; clear_value (hh : x = _); subst hh) | (with_reducible refine Frame.cutTo (t := (Prod.snd x)) ?_ ?_; rotate_left; (try clear_value x); rename _ => y; intro hx; rotate_left; clear_value (hh : x = _); subst hh) | (clear_value x; rename _ => y) | (have hq := x; clear hq; rename _ => y))
    | with_reducible exact Frame.ofMk (by first | exact Frame.refl | assumption) frSame frSame frSame frSame frSame frSame frSame frSame frSame frSame frSame frSame frSame frSame frSame frSame frSame frSame frMine frSame rfl rfl rfl (.inr .refl) (.inr .refl)
    | dsimp -zeta only
    | with_reducible apply Frame.refl
    | with_reducible assumption
    | split

theorem takeNumber_pair {k : Parts} {s t : State} {a0 : Nat} {a1 : Bool} {a2 : Nat} {a3 : Nat} {a4 : Nat} {a5 : Nat} {y : Nat} {b : State} (e : takeNumber a0 a1 a2 a3 a4 a5 t = (y, b))
    (h : Frame k s t) (hk : sub { hif := true } k = true) :
    Frame k s b := by
  have f := takeNumber_frame (a0 := a0) (a1 := a1) (a2 := a2) (a3 := a3) (a4 := a4) (a5 := a5) h hk
  rw [e] at f; exact f

theorem adminServe_frame {k : Parts} {s t : State} {a0 : Nat} {a1 : Nat} {a2 : Bool} {a3 : Nat → State → State} (hf : ∀ i v, Frame k s v → Frame k s (a3 i v))
    (h : Frame k s t) (hk : sub { hif := true } k = true) :
    Frame k s (adminServe a0 a1 a2 a3 t) := by
  have gen : ∀ (x : State), True := fun _ => trivial
  clear gen
  unfold adminServe
  repeat' first
    | (extract_lets +onlyGivenNames -merge -underBinder x; first | (with_reducible refine Frame.cutTo (t := x) ?_ ?_; rotate_left; (try clear_value x); rename _ => y; intro hx; rotate_left; clear_value (hh : x = _); subst hh) | (with_reducible refine Frame.cutTo (t := (Prod.snd x)) ?_ ?_; rotate_left; (try clear_value x); rename _ => y; intro hx; rotate_left; clear_value (hh : x = _); subst hh) | (clear_value x; rename _ => y) | (have hq := x; clear hq; rename _ => y))
    | split
    | with_reducible refine takeNumber_frame ?_ (sub_trans (by with_unfolding_all rfl) hk)
    | with_reducible refine takeNumber_pair (by assumption) ?_ (sub_trans (by with_unfolding_all rfl) hk)
    | with_reducible refine complete_frame ?_ (sub_trans (by with_unfolding_all rfl) hk)
    | with_reducible refine hf _ _ ?_
    | with_reducible apply Frame.ite
    | with_reducible assumption
    | split

theorem adminRun_frame {k : Parts} {s t : State} {a0 : Nat} {a1 : Nat} {a2 : Nat → State → State} (hf : ∀ i v, Frame k s v → Frame k s (a2 i v))
    (h : Frame k s t) (hk : sub { hif := true } k = true) :
    Frame k s (adminRun a0 a1 a2 t) := by
  have gen : ∀ (x : State), True := fun _ => trivial
  clear gen
  unfold adminRun
  repeat' first
    | with_reducible refine adminServe_frame ?_ ?_ (sub_trans (by with_unfolding_all rfl) hk)
    | with_reducible refine hf _ _ ?_
    | with_reducible assumption
    | intro _ _ _
    | intro _ _

theorem windowNote_frame {k : Parts} {s t : State} {a0 : Nat}
    (h : Frame k s t) (hk : sub { stc := true, arr := true } k = true) :
    Frame k s (windowNote a0 t) := by
  refine Frame.step h (l := { stc := true, arr := true }) ?_ hk
  clear h hk
  unfold windowNote
  repeat' first
    | with_reducible refine noteChange_frame ?_ (by with_unfolding_all rfl)
    | with_reducible refine stcCond_frame ?_ (by with_unfolding_all rfl)
    | with_reducible apply Frame.ite
    | with_reducible apply Frame.refl
    | with_reducible assumption
    | split

end Sys2Proof.Laws
end

