-- ==== Sys2Proof/Laws/Frames/Io.lean ====
section
/-!
SUPPORT. The frames of the operations of Machine/Io.lean: the parts each may change.
-/
namespace Sys2Proof.Laws
open Sys2Proof Sys2Proof.Machine

set_option linter.all false
set_option Elab.async false

theorem setBlock_frame {k : Parts} {s t : State} {a0 : Nat} {a1 : Block}
    (h : Frame k s t) (hk : sub { arr := true } k = true) :
    Frame k s (setBlock a0 a1 t) := by
  refine Frame.step h (l := { arr := true }) ?_ hk
  clear h hk
  unfold setBlock
  repeat' first
    | (extract_lets +onlyGivenNames -merge -underBinder x; first | (with_reducible refine Frame.cutTo (t := x) ?_ ?_; rotate_left; (try clear_value x); rename _ => y; intro hx; rotate_left; clear_value (hh : x = _); subst hh) | (clear_value x; rename _ => y) | (have hq := x; clear hq; rename _ => y))
    | with_reducible exact Frame.ofMk (by first | exact Frame.refl | assumption) frSame frSame frSame frSame frSame frSame frSame frSame frSame frSame frSame frSame frSame frSame frSame frSame frSame frMine frSame frSame rfl rfl rfl (.inr .refl) (.inr .refl)
    | with_reducible apply Frame.refl
    | with_reducible assumption

theorem addLock_frame {k : Parts} {s t : State} {a0 : Lock}
    (h : Frame k s t) (hk : sub { hif := true } k = true) :
    Frame k s (addLock a0 t) := by
  refine Frame.step h (l := { hif := true }) ?_ hk
  clear h hk
  unfold addLock
  repeat' first
    | (extract_lets +onlyGivenNames -merge -underBinder x; first | (with_reducible refine Frame.cutTo (t := x) ?_ ?_; rotate_left; (try clear_value x); rename _ => y; intro hx; rotate_left; clear_value (hh : x = _); subst hh) | (clear_value x; rename _ => y) | (have hq := x; clear hq; rename _ => y))
    | with_reducible exact Frame.ofMk (by first | exact Frame.refl | assumption) frSame frSame frSame frSame frSame frSame frSame frSame frSame frSame frSame frSame frSame frSame frSame frSame frSame frSame frMine frSame rfl rfl rfl (.inr .refl) (.inr .refl)
    | with_reducible apply Frame.refl
    | with_reducible assumption

theorem setFlight_frame {k : Parts} {s t : State} {a0 : InFlight}
    (h : Frame k s t) (hk : sub { hif := true } k = true) :
    Frame k s (setFlight a0 t) := by
  refine Frame.step h (l := { hif := true }) ?_ hk
  clear h hk
  unfold setFlight
  repeat' first
    | (extract_lets +onlyGivenNames -merge -underBinder x; first | (with_reducible refine Frame.cutTo (t := x) ?_ ?_; rotate_left; (try clear_value x); rename _ => y; intro hx; rotate_left; clear_value (hh : x = _); subst hh) | (clear_value x; rename _ => y) | (have hq := x; clear hq; rename _ => y))
    | with_reducible exact Frame.ofMk (by first | exact Frame.refl | assumption) frSame frSame frSame frSame frSame frSame frSame frSame frSame frSame frSame frSame frSame frSame frSame frSame frSame frSame frMine frSame rfl rfl rfl (.inr .refl) (.inr .refl)
    | with_reducible apply Frame.refl
    | with_reducible assumption

theorem outData_frame {k : Parts} {s t : State} {a0 : List BlockOut}
    (h : Frame k s t) (hk : sub { free := true } k = true) :
    Frame k s (outData a0 t).2 := by
  refine Frame.step h (l := { free := true }) ?_ hk
  clear h hk
  fun_induction outData a0 t
  repeat' first
    | with_reducible refine Frame.step ?_ (by assumption) (by with_unfolding_all rfl)
    | with_reducible refine Frame.step ?_ (Frame.pair (by assumption) (by assumption)) (by with_unfolding_all rfl)
    | (extract_lets +onlyGivenNames -merge -underBinder x; first | (with_reducible refine Frame.cutTo (t := x) ?_ ?_; rotate_left; (try clear_value x); rename _ => y; intro hx; rotate_left; clear_value (hh : x = _); subst hh) | (with_reducible refine Frame.cutTo (t := (Prod.snd x)) ?_ ?_; rotate_left; (try clear_value x); rename _ => y; intro hx; rotate_left; clear_value (hh : x = _); subst hh) | (clear_value x; rename _ => y) | (have hq := x; clear hq; rename _ => y))
    | split
    | with_reducible refine freeNext_frame ?_ (by with_unfolding_all rfl)
    | with_reducible refine freeNext_pair (by assumption) ?_ (by with_unfolding_all rfl)
    | with_reducible exact Frame.ofMk (by first | exact Frame.refl | assumption | exact freeNext_pair (by assumption) (by first | exact Frame.refl | assumption | exact freeNext_pair (by assumption) (by first | exact Frame.refl | assumption) (by with_unfolding_all rfl)) (by with_unfolding_all rfl)) frSame frSame frSame frSame frSame frSame frSame frSame frSame frSame frSame frSame frSame frSame frSame frSame frSame frSame frSame frSame rfl rfl rfl (.inr .refl) (.inr .refl)
    | dsimp -zeta only
    | with_reducible apply Frame.refl
    | with_reducible assumption
    | split

theorem outData_pair {k : Parts} {s t : State} {a0 : List BlockOut} {y : List Nat} {b : State} (e : outData a0 t = (y, b))
    (h : Frame k s t) (hk : sub { free := true } k = true) :
    Frame k s b := by
  have f := outData_frame (a0 := a0) h hk
  rw [e] at f; exact f

theorem recordLost_frame {k : Parts} {s t : State} {a0 : Namespace} {a1 : IoCmd} {a2 : List Nat}
    (h : Frame k s t) (hk : sub partsAddLost k = true) :
    Frame k s (recordLost a0 a1 a2 t) := by
  refine Frame.step h (l := partsAddLost) ?_ hk
  clear h hk
  unfold recordLost
  repeat' first
    | with_reducible refine dropStitch_frame ?_ (by with_unfolding_all rfl)
    | with_reducible apply Frame.foldl
    | with_reducible exact Frame.ofMk (by first | exact Frame.refl | assumption) frSame frSame frSame frSame frSame frSame frSame frSame frSame frSame frSame frSame frSame frSame frSame frSame frMine frMine frMine frSame rfl rfl rfl (.inr .refl) (.inr .refl)
    | with_reducible apply Frame.refl
    | with_reducible assumption
    | intro _ _ _
    | intro _ _
    | split

theorem noteError_frame {k : Parts} {s t : State} {a0 : Nat} {a1 : Nat}
    (h : Frame k s t) (hk : sub { hif := true } k = true) :
    Frame k s (noteError a0 a1 t) := by
  refine Frame.step h (l := { hif := true }) ?_ hk
  clear h hk
  unfold noteError
  repeat' first
    | (extract_lets +onlyGivenNames -merge -underBinder x; first | (with_reducible refine Frame.cutTo (t := x) ?_ ?_; rotate_left; (try clear_value x); rename _ => y; intro hx; rotate_left; clear_value (hh : x = _); subst hh) | (clear_value x; rename _ => y) | (have hq := x; clear hq; rename _ => y))
    | with_reducible exact Frame.ofMk (by first | exact Frame.refl | assumption) frSame frSame frSame frSame frSame frSame frSame frSame frSame frSame frSame frSame frSame frSame frSame frSame frSame frSame frMine frSame rfl rfl rfl (.inr .refl) (.inr .refl)
    | with_reducible apply Frame.refl
    | with_reducible assumption

theorem runRead_frame {k : Parts} {s t : State} {a0 : InFlight} {a1 : Namespace} {b : State} (e : runRead a0 a1 t = some b)
    (h : Frame k s t) (hk : sub { spe := true, arr := true, hif := true, mem := true, free := true } k = true) :
    Frame k s b := by
  refine Frame.step h (l := { spe := true, arr := true, hif := true, mem := true, free := true }) ?_ hk
  clear h hk
  revert e
  unfold runRead
  repeat' first
    | with_reducible exact Frame.none
    | with_reducible refine Frame.some ?_
    | with_reducible refine Frame.somePair ?_
    | (extract_lets +onlyGivenNames -merge -underBinder x; first | (with_reducible refine Frame.cut (k := { spe := true, arr := true, hif := true, mem := true, free := true }) (s := t) (t := x) ?_ ?_; rotate_left; (try clear_value x); rename _ => y; intro hx; rotate_left; clear_value (hh : x = _); subst hh) | (with_reducible refine Frame.cut (k := { spe := true, arr := true, hif := true, mem := true, free := true }) (s := t) (t := (Prod.snd x)) ?_ ?_; rotate_left; (try clear_value x); rename _ => y; intro hx; rotate_left; clear_value (hh : x = _); subst hh) | (clear_value x; rename _ => y) | (have hq := x; clear hq; rename _ => y))
    | split
    | with_reducible refine recordLost_frame ?_ (by with_unfolding_all rfl)
    | with_reducible refine noteError_frame ?_ (by with_unfolding_all rfl)
    | with_reducible refine outData_frame ?_ (by with_unfolding_all rfl)
    | with_reducible refine outData_pair (by assumption) ?_ (by with_unfolding_all rfl)
    | with_reducible refine complete_frame ?_ (by with_unfolding_all rfl)
    | with_reducible refine Frame.getDMap ?_ (fun _ => ?_)
    | with_reducible apply Frame.getD
    | with_reducible apply Frame.ite
    | with_reducible exact Frame.ofMk (by first | exact Frame.refl | assumption | exact outData_pair (by assumption) (by first | exact Frame.refl | assumption | exact outData_pair (by assumption) (by first | exact Frame.refl | assumption) (by with_unfolding_all rfl)) (by with_unfolding_all rfl)) frSame frSame frSame frSame frSame frSame frSame frSame frSame frSame frSame frSame frSame frSame frSame frSame frMine frMine frMine frSame rfl rfl rfl (.inr .refl) (.inr .refl)
    | with_reducible apply Frame.refl
    | with_reducible assumption
    | intro _ _ _
    | intro _ _
    | split

theorem runSalvage_frame {k : Parts} {s t : State} {a0 : InFlight} {a1 : Namespace}
    (h : Frame k s t) (hk : sub { hif := true } k = true) :
    Frame k s (runSalvage a0 a1 t) := by
  refine Frame.step h (l := { hif := true }) ?_ hk
  clear h hk
  unfold runSalvage
  repeat' first
    | (extract_lets +onlyGivenNames -merge -underBinder x; first | (with_reducible refine Frame.cutTo (t := x) ?_ ?_; rotate_left; (try clear_value x); rename _ => y; intro hx; rotate_left; clear_value (hh : x = _); subst hh) | (clear_value x; rename _ => y) | (have hq := x; clear hq; rename _ => y))
    | with_reducible refine complete_frame ?_ (by with_unfolding_all rfl)
    | with_reducible apply Frame.foldl
    | with_reducible apply Frame.ite
    | with_reducible apply Frame.refl
    | with_reducible assumption
    | intro _ _ _
    | intro _ _
    | split

theorem makeRoom_frame {k : Parts} {s t : State} {a0 : Zone} {a1 : Bool}
    (h : Frame k s t) (hk : sub { arr := true } k = true) :
    Frame k s (makeRoom a0 a1 t).2 := by
  refine Frame.step h (l := { arr := true }) ?_ hk
  clear h hk
  unfold makeRoom
  repeat' first
    | (extract_lets +onlyGivenNames -merge -underBinder x; first | (with_reducible refine Frame.cutTo (t := x) ?_ ?_; rotate_left; (try clear_value x); rename _ => y; intro hx; rotate_left; clear_value (hh : x = _); subst hh) | (with_reducible refine Frame.cutTo (t := (Prod.snd x)) ?_ ?_; rotate_left; (try clear_value x); rename _ => y; intro hx; rotate_left; clear_value (hh : x = _); subst hh) | (clear_value x; rename _ => y) | (have hq := x; clear hq; rename _ => y))
    | with_reducible refine setZone_frame ?_ (by with_unfolding_all rfl)
    | with_reducible apply Frame.ite
    | with_reducible exact Frame.ofMk (by first | exact Frame.refl | assumption) frSame frSame frSame frSame frSame frSame frSame frSame frSame frSame frSame frSame frSame frSame frSame frSame frSame frMine frSame frSame rfl rfl rfl (.inr .refl) (.inr .refl)
    | dsimp -zeta only
    | with_reducible apply Frame.refl
    | with_reducible assumption
    | split

theorem makeRoom_pair {k : Parts} {s t : State} {a0 : Zone} {a1 : Bool} {y : Status} {b : State} (e : makeRoom a0 a1 t = (y, b))
    (h : Frame k s t) (hk : sub { arr := true } k = true) :
    Frame k s b := by
  have f := makeRoom_frame (a0 := a0) (a1 := a1) h hk
  rw [e] at f; exact f

theorem ackBlocks_frame {k : Parts} {s t : State} {a0 : List Nat}
    (h : Frame k s t) (hk : sub { arr := true } k = true) :
    Frame k s (ackBlocks a0 t) := by
  refine Frame.step h (l := { arr := true }) ?_ hk
  clear h hk
  unfold ackBlocks
  repeat' first
    | (extract_lets +onlyGivenNames -merge -underBinder x; first | (with_reducible refine Frame.cutTo (t := x) ?_ ?_; rotate_left; (try clear_value x); rename _ => y; intro hx; rotate_left; clear_value (hh : x = _); subst hh) | (clear_value x; rename _ => y) | (have hq := x; clear hq; rename _ => y))
    | with_reducible apply Frame.ite
    | with_reducible exact Frame.ofMk (by first | exact Frame.refl | assumption) frSame frSame frSame frSame frSame frSame frSame frSame frSame frSame frSame frSame frSame frSame frSame frSame frSame frMine frSame frSame rfl rfl rfl (.inr .refl) (.inr .refl)
    | with_reducible apply Frame.refl
    | with_reducible assumption
    | split

theorem finishWrite_frame {k : Parts} {s t : State} {a0 : InFlight} {a1 : Namespace} {a2 : Nat}
    (h : Frame k s t) (hk : sub { arr := true, hif := true } k = true) :
    Frame k s (finishWrite a0 a1 a2 t) := by
  refine Frame.step h (l := { arr := true, hif := true }) ?_ hk
  clear h hk
  unfold finishWrite
  repeat' first
    | (extract_lets +onlyGivenNames -merge -underBinder x; first | (with_reducible refine Frame.cutTo (t := x) ?_ ?_; rotate_left; (try clear_value x); rename _ => y; intro hx; rotate_left; clear_value (hh : x = _); subst hh) | (clear_value x; rename _ => y) | (have hq := x; clear hq; rename _ => y))
    | with_reducible refine ackBlocks_frame ?_ (by with_unfolding_all rfl)
    | with_reducible refine complete_frame ?_ (by with_unfolding_all rfl)
    | with_reducible refine setFlight_frame ?_ (by with_unfolding_all rfl)
    | with_reducible apply Frame.ite
    | with_reducible exact Frame.ofMk (by first | exact Frame.refl | assumption) frSame frSame frSame frSame frSame frSame frSame frSame frSame frSame frSame frSame frSame frSame frSame frSame frSame frMine frMine frSame rfl rfl rfl (.inr .refl) (.inr .refl)
    | with_reducible apply Frame.refl
    | with_reducible assumption
    | split

theorem storeBlock_frame {k : Parts} {s t : State} {a0 : Nat} {a1 : Nat} {a2 : Nat}
    (h : Frame k s t) (hk : sub { arr := true } k = true) :
    Frame k s (storeBlock a0 a1 a2 t) := by
  refine Frame.step h (l := { arr := true }) ?_ hk
  clear h hk
  unfold storeBlock
  repeat' first
    | (extract_lets +onlyGivenNames -merge -underBinder x; first | (with_reducible refine Frame.cutTo (t := x) ?_ ?_; rotate_left; (try clear_value x); rename _ => y; intro hx; rotate_left; clear_value (hh : x = _); subst hh) | (clear_value x; rename _ => y) | (have hq := x; clear hq; rename _ => y))
    | with_reducible refine setBlock_frame ?_ (by with_unfolding_all rfl)
    | with_reducible apply Frame.ite
    | with_reducible exact Frame.ofMk (by first | exact Frame.refl | assumption) frSame frSame frSame frSame frSame frSame frSame frSame frSame frSame frSame frSame frSame frSame frSame frSame frSame frMine frSame frSame rfl rfl rfl (.inr .refl) (.inr .refl)
    | with_reducible apply Frame.refl
    | with_reducible assumption
    | split

theorem openRow_frame {k : Parts} {s t : State} {a0 : Nat} {a1 : Nat}
    (h : Frame k s t) (hk : sub { spe := true, mem := true } k = true) :
    Frame k s (openRow a0 a1 t) := by
  refine Frame.step h (l := { spe := true, mem := true }) ?_ hk
  clear h hk
  unfold openRow
  repeat' first
    | (extract_lets +onlyGivenNames -merge -underBinder x; first | (with_reducible refine Frame.cutTo (t := x) ?_ ?_; rotate_left; (try clear_value x); rename _ => y; intro hx; rotate_left; clear_value (hh : x = _); subst hh) | (clear_value x; rename _ => y) | (have hq := x; clear hq; rename _ => y))
    | with_reducible refine jAppend_frame ?_ (by with_unfolding_all rfl)
    | with_reducible apply Frame.ite
    | with_reducible exact Frame.ofMk (by first | exact Frame.refl | assumption) frSame frSame frSame frSame frSame frSame frSame frSame frSame frSame frSame frSame frSame frSame frSame frSame frMine frSame frSame frSame rfl rfl rfl (.inr .refl) (.inr .refl)
    | with_reducible apply Frame.refl
    | with_reducible assumption
    | split

theorem logRecord_frame {k : Parts} {s t : State} {a0 : Nat} {a1 : Nat}
    (h : Frame k s t) (hk : sub { arr := true } k = true) :
    Frame k s (logRecord a0 a1 t).2 := by
  refine Frame.step h (l := { arr := true }) ?_ hk
  clear h hk
  unfold logRecord
  repeat' first
    | (extract_lets +onlyGivenNames -merge -underBinder x; first | (with_reducible refine Frame.cutTo (t := x) ?_ ?_; rotate_left; (try clear_value x); rename _ => y; intro hx; rotate_left; clear_value (hh : x = _); subst hh) | (with_reducible refine Frame.cutTo (t := (Prod.snd x)) ?_ ?_; rotate_left; (try clear_value x); rename _ => y; intro hx; rotate_left; clear_value (hh : x = _); subst hh) | (clear_value x; rename _ => y) | (have hq := x; clear hq; rename _ => y))
    | with_reducible refine Frame.getDMap ?_ (fun _ => ?_)
    | with_reducible apply Frame.getD
    | with_reducible apply Frame.ite
    | with_reducible exact Frame.ofMk (by first | exact Frame.refl | assumption) frSame frSame frSame frSame frSame frSame frSame frSame frSame frSame frSame frSame frSame frSame frSame frSame frSame frMine frSame frSame rfl rfl rfl (.inr .refl) (.inr .refl)
    | dsimp -zeta only
    | with_reducible apply Frame.refl
    | with_reducible assumption
    | intro _ _ _
    | intro _ _
    | split

theorem logRecord_pair {k : Parts} {s t : State} {a0 : Nat} {a1 : Nat} {y : Nat} {b : State} (e : logRecord a0 a1 t = (y, b))
    (h : Frame k s t) (hk : sub { arr := true } k = true) :
    Frame k s b := by
  have f := logRecord_frame (a0 := a0) (a1 := a1) h hk
  rw [e] at f; exact f

theorem secureMissing_frame {k : Parts} {s t : State} {a0 : Nat} {a1 : Nat} {a2 : Nat}
    (h : Frame k s t) (hk : sub { arr := true } k = true) :
    Frame k s (secureMissing a0 a1 a2 t).2 := by
  refine Frame.step h (l := { arr := true }) ?_ hk
  clear h hk
  unfold secureMissing
  repeat' first
    | (extract_lets +onlyGivenNames -merge -underBinder x; first | (with_reducible refine Frame.cutTo (t := x) ?_ ?_; rotate_left; (try clear_value x); rename _ => y; intro hx; rotate_left; clear_value (hh : x = _); subst hh) | (with_reducible refine Frame.cutTo (t := (Prod.snd x)) ?_ ?_; rotate_left; (try clear_value x); rename _ => y; intro hx; rotate_left; clear_value (hh : x = _); subst hh) | (clear_value x; rename _ => y) | (have hq := x; clear hq; rename _ => y))
    | split
    | with_reducible refine logRecord_frame ?_ (by with_unfolding_all rfl)
    | with_reducible refine logRecord_pair (by assumption) ?_ (by with_unfolding_all rfl)
    | with_reducible apply Frame.ite
    | with_reducible exact Frame.ofMk (by first | exact Frame.refl | assumption | exact logRecord_pair (by assumption) (by first | exact Frame.refl | assumption | exact logRecord_pair (by assumption) (by first | exact Frame.refl | assumption) (by with_unfolding_all rfl)) (by with_unfolding_all rfl)) frSame frSame frSame frSame frSame frSame frSame frSame frSame frSame frSame frSame frSame frSame frSame frSame frSame frMine frSame frSame rfl rfl rfl (.inr .refl) (.inr .refl)
    | dsimp -zeta only
    | with_reducible apply Frame.refl
    | with_reducible assumption
    | split

theorem secureMissing_pair {k : Parts} {s t : State} {a0 : Nat} {a1 : Nat} {a2 : Nat} {y : Option (Nat × Nat)} {b : State} (e : secureMissing a0 a1 a2 t = (y, b))
    (h : Frame k s t) (hk : sub { arr := true } k = true) :
    Frame k s b := by
  have f := secureMissing_frame (a0 := a0) (a1 := a1) (a2 := a2) h hk
  rw [e] at f; exact f

theorem openRmw_frame {k : Parts} {s t : State} {a0 : Nat} {a1 : Nat} {a2 : Nat} {a3 : Nat}
    (h : Frame k s t) (hk : sub { spe := true, arr := true, mem := true } k = true) :
    Frame k s (openRmw a0 a1 a2 a3 t) := by
  refine Frame.step h (l := { spe := true, arr := true, mem := true }) ?_ hk
  clear h hk
  unfold openRmw
  repeat' first
    | (extract_lets +onlyGivenNames -merge -underBinder x; first | (with_reducible refine Frame.cutTo (t := x) ?_ ?_; rotate_left; (try clear_value x); rename _ => y; intro hx; rotate_left; clear_value (hh : x = _); subst hh) | (with_reducible refine Frame.cutTo (t := (Prod.snd x)) ?_ ?_; rotate_left; (try clear_value x); rename _ => y; intro hx; rotate_left; clear_value (hh : x = _); subst hh) | (clear_value x; rename _ => y) | (have hq := x; clear hq; rename _ => y))
    | split
    | with_reducible refine secureMissing_frame ?_ (by with_unfolding_all rfl)
    | with_reducible refine secureMissing_pair (by assumption) ?_ (by with_unfolding_all rfl)
    | with_reducible refine jAppend_frame ?_ (by with_unfolding_all rfl)
    | with_reducible refine Frame.getDMap ?_ (fun _ => ?_)
    | with_reducible apply Frame.getD
    | with_reducible apply Frame.ite
    | with_reducible exact Frame.ofMk (by first | exact Frame.refl | assumption | exact secureMissing_pair (by assumption) (by first | exact Frame.refl | assumption | exact secureMissing_pair (by assumption) (by first | exact Frame.refl | assumption) (by with_unfolding_all rfl)) (by with_unfolding_all rfl)) frSame frSame frSame frSame frSame frSame frSame frSame frSame frSame frSame frSame frSame frSame frSame frSame frMine frMine frSame frSame rfl rfl rfl (.inr .refl) (.inr .refl)
    | with_reducible apply Frame.refl
    | with_reducible assumption
    | intro _ _ _
    | intro _ _
    | split

theorem journalBlock_frame {k : Parts} {s t : State} {a0 : Nat} {a1 : Zone} {a2 : List Nat} {a3 : Nat}
    (h : Frame k s t) (hk : sub { spe := true, arr := true, mem := true } k = true) :
    Frame k s (journalBlock a0 a1 a2 a3 t) := by
  refine Frame.step h (l := { spe := true, arr := true, mem := true }) ?_ hk
  clear h hk
  unfold journalBlock
  repeat' first
    | (extract_lets +onlyGivenNames -merge -underBinder x; first | (with_reducible refine Frame.cutTo (t := x) ?_ ?_; rotate_left; (try clear_value x); rename _ => y; intro hx; rotate_left; clear_value (hh : x = _); subst hh) | (clear_value x; rename _ => y) | (have hq := x; clear hq; rename _ => y))
    | with_reducible refine touchRegion_frame ?_ (by with_unfolding_all rfl)
    | with_reducible refine openRmw_frame ?_ (by with_unfolding_all rfl)
    | with_reducible refine openRow_frame ?_ (by with_unfolding_all rfl)
    | with_reducible apply Frame.ite
    | with_reducible apply Frame.refl
    | with_reducible assumption
    | split

theorem storeBlocks_frame {k : Parts} {s t : State} {a0 : InFlight} {a1 : Nat} {a2 : Zone} {a3 : Nat} {a4 : List Nat}
    (h : Frame k s t) (hk : sub { spe := true, arr := true, mem := true } k = true) :
    Frame k s (storeBlocks a0 a1 a2 a3 a4 t) := by
  refine Frame.step h (l := { spe := true, arr := true, mem := true }) ?_ hk
  clear h hk
  unfold storeBlocks
  repeat' first
    | (extract_lets +onlyGivenNames -merge -underBinder x; first | (with_reducible refine Frame.cutTo (t := x) ?_ ?_; rotate_left; (try clear_value x); rename _ => y; intro hx; rotate_left; clear_value (hh : x = _); subst hh) | (clear_value x; rename _ => y) | (have hq := x; clear hq; rename _ => y))
    | with_reducible refine storeBlock_frame ?_ (by with_unfolding_all rfl)
    | with_reducible refine journalBlock_frame ?_ (by with_unfolding_all rfl)
    | with_reducible refine setZone_frame ?_ (by with_unfolding_all rfl)
    | with_reducible apply Frame.foldl
    | with_reducible apply Frame.ite
    | with_reducible exact Frame.ofMk (by first | exact Frame.refl | assumption) frSame frSame frSame frSame frSame frSame frSame frSame frSame frSame frSame frSame frSame frSame frSame frSame frMine frMine frSame frSame rfl rfl rfl (.inr .refl) (.inr .refl)
    | with_reducible apply Frame.refl
    | with_reducible assumption
    | intro _ _ _
    | intro _ _
    | split

theorem writeZone_frame {k : Parts} {s t : State} {a0 : InFlight} {a1 : Nat} {a2 : Nat} {a3 : Nat} {a4 : Nat} {b : State} (e : writeZone a0 a1 a2 a3 a4 t = some b)
    (h : Frame k s t) (hk : sub partsAssignTarget k = true) :
    Frame k s b := by
  refine Frame.step h (l := partsAssignTarget) ?_ hk
  clear h hk
  revert e
  unfold writeZone
  repeat' first
    | with_reducible exact Frame.none
    | with_reducible refine Frame.some ?_
    | with_reducible refine Frame.somePair ?_
    | (extract_lets +onlyGivenNames -merge -underBinder x; first | (with_reducible refine Frame.cut (k := partsAssignTarget) (s := t) (t := x) ?_ ?_; rotate_left; (try clear_value x); rename _ => y; intro hx; rotate_left; clear_value (hh : x = _); subst hh) | (clear_value x; rename _ => y) | (have hq := x; clear hq; rename _ => y))
    | with_reducible refine storeBlocks_frame ?_ (by with_unfolding_all rfl)
    | with_reducible refine assignTargets_frame ?_ (by with_unfolding_all rfl)
    | with_reducible refine placeZone_frame (by assumption) ?_ (by with_unfolding_all rfl)
    | with_reducible apply Frame.ite
    | with_reducible exact Frame.ofMk (by first | exact Frame.refl | assumption) frSame frSame frSame frSame frSame frSame frSame frSame frSame frSame frSame frMine frSame frSame frSame frSame frMine frMine frMine frSame rfl rfl rfl (.inr .refl) (.inr .refl)
    | with_reducible apply Frame.refl
    | with_reducible assumption
    | split

theorem formatCode_frame {k : Parts} {s t : State} {a0 : Nat} {a1 : Bool} {a2 : List Nat}
    (h : Frame k s t) (hk : sub { free := true } k = true) :
    Frame k s (formatCode a0 a1 a2 t).2 := by
  refine Frame.step h (l := { free := true }) ?_ hk
  clear h hk
  unfold formatCode
  repeat' first
    | (extract_lets +onlyGivenNames -merge -underBinder x; first | (with_reducible refine Frame.cutTo (t := x) ?_ ?_; rotate_left; (try clear_value x); rename _ => y; intro hx; rotate_left; clear_value (hh : x = _); subst hh) | (with_reducible refine Frame.cutTo (t := (Prod.snd x)) ?_ ?_; rotate_left; (try clear_value x); rename _ => y; intro hx; rotate_left; clear_value (hh : x = _); subst hh) | (clear_value x; rename _ => y) | (have hq := x; clear hq; rename _ => y))
    | split
    | with_reducible refine freeNext_frame ?_ (by with_unfolding_all rfl)
    | with_reducible refine freeNext_pair (by assumption) ?_ (by with_unfolding_all rfl)
    | with_reducible refine Frame.getDMap ?_ (fun _ => ?_)
    | with_reducible apply Frame.getD
    | dsimp -zeta only
    | with_reducible apply Frame.refl
    | with_reducible assumption
    | intro _ _ _
    | intro _ _
    | split

theorem formatCode_pair {k : Parts} {s t : State} {a0 : Nat} {a1 : Bool} {a2 : List Nat} {y : Nat} {b : State} (e : formatCode a0 a1 a2 t = (y, b))
    (h : Frame k s t) (hk : sub { free := true } k = true) :
    Frame k s b := by
  have f := formatCode_frame (a0 := a0) (a1 := a1) (a2 := a2) h hk
  rw [e] at f; exact f

theorem degradeZone_frame {k : Parts} {s t : State} {a0 : Nat}
    (h : Frame k s t) (hk : sub partsAssignTarget k = true) :
    Frame k s (degradeZone a0 t) := by
  refine Frame.step h (l := partsAssignTarget) ?_ hk
  clear h hk
  unfold degradeZone
  repeat' first
    | (extract_lets +onlyGivenNames -merge -underBinder x; first | (with_reducible refine Frame.cutTo (t := x) ?_ ?_; rotate_left; (try clear_value x); rename _ => y; intro hx; rotate_left; clear_value (hh : x = _); subst hh) | (with_reducible refine Frame.cutTo (t := (Prod.snd x)) ?_ ?_; rotate_left; (try clear_value x); rename _ => y; intro hx; rotate_left; clear_value (hh : x = _); subst hh) | (clear_value x; rename _ => y) | (have hq := x; clear hq; rename _ => y))
    | split
    | with_reducible refine formatCode_frame ?_ (by with_unfolding_all rfl)
    | with_reducible refine formatCode_pair (by assumption) ?_ (by with_unfolding_all rfl)
    | with_reducible refine zmap_frame ?_ (by with_unfolding_all rfl)
    | with_reducible refine noteChange_frame ?_ (by with_unfolding_all rfl)
    | with_reducible refine degradeExtent_frame ?_ (by with_unfolding_all rfl)
    | with_reducible apply Frame.foldl
    | with_reducible exact Frame.ofMk (by first | exact Frame.refl | assumption | exact formatCode_pair (by assumption) (by first | exact Frame.refl | assumption | exact formatCode_pair (by assumption) (by first | exact Frame.refl | assumption) (by with_unfolding_all rfl)) (by with_unfolding_all rfl)) frSame frSame frSame frSame frSame frSame frSame frSame frSame frSame frSame frMine frSame frSame frSame frSame frMine frMine frMine frSame rfl rfl rfl (.inr .refl) (.inr .refl)
    | with_reducible apply Frame.refl
    | with_reducible assumption
    | intro _ _ _
    | intro _ _
    | split

theorem runWrite_frame {k : Parts} {s t : State} {a0 : InFlight} {a1 : Namespace}
    (h : Frame k s t) (hk : sub partsAssignTarget k = true) :
    Frame k s (runWrite a0 a1 t) := by
  refine Frame.step h (l := partsAssignTarget) ?_ hk
  clear h hk
  unfold runWrite
  repeat' first
    | (extract_lets +onlyGivenNames -merge -underBinder x; first | (with_reducible refine Frame.cutTo (t := x) ?_ ?_; rotate_left; (try clear_value x); rename _ => y; intro hx; rotate_left; clear_value (hh : x = _); subst hh) | (with_reducible refine Frame.cutTo (t := (Prod.snd x)) ?_ ?_; rotate_left; (try clear_value x); rename _ => y; intro hx; rotate_left; clear_value (hh : x = _); subst hh) | (have hq : ∀ a, Frame {} t (x a) → True := fun _ _ => trivial; clear hq; rename _ => y) | (have hq : ∀ a b, Frame {} t (x a b) → True := fun _ _ _ => trivial; clear hq; rename _ => y) | (clear_value x; rename _ => y) | (have hq := x; clear hq; rename _ => y))
    | with_reducible refine complete_frame ?_ (by with_unfolding_all rfl)
    | with_reducible refine noteError_frame ?_ (by with_unfolding_all rfl)
    | with_reducible refine setFlight_frame ?_ (by with_unfolding_all rfl)
    | with_reducible refine makeRoom_frame ?_ (by with_unfolding_all rfl)
    | with_reducible refine makeRoom_pair (by assumption) ?_ (by with_unfolding_all rfl)
    | with_reducible refine setZone_frame ?_ (by with_unfolding_all rfl)
    | with_reducible refine writeZone_frame (by assumption) ?_ (by with_unfolding_all rfl)
    | with_reducible refine degradeZone_frame ?_ (by with_unfolding_all rfl)
    | with_reducible refine addLock_frame ?_ (by with_unfolding_all rfl)
    | with_reducible refine finishWrite_frame ?_ (by with_unfolding_all rfl)
    | with_reducible apply Frame.foldl
    | with_reducible refine Frame.getDMap ?_ (fun _ => ?_)
    | with_reducible apply Frame.getD
    | with_reducible apply Frame.ite
    | with_reducible exact Frame.ofMk (by first | exact Frame.refl | assumption | exact makeRoom_pair (by assumption) (by first | exact Frame.refl | assumption | exact makeRoom_pair (by assumption) (by first | exact Frame.refl | assumption) (by with_unfolding_all rfl)) (by with_unfolding_all rfl)) frSame frSame frSame frSame frSame frSame frSame frSame frSame frSame frSame frMine frSame frSame frSame frSame frMine frMine frMine frSame rfl rfl rfl (.inr .refl) (.inr .refl)
    | with_reducible apply Frame.refl
    | with_reducible assumption
    | intro _ _ _
    | intro _ _
    | split

theorem closeZone_frame {k : Parts} {s t : State} {a0 : Nat} {a1 : Zone} {a2 : ZState}
    (h : Frame k s t) (hk : sub { lane := true, media := true, arr := true } k = true) :
    Frame k s (closeZone a0 a1 a2 t) := by
  refine Frame.step h (l := { lane := true, media := true, arr := true }) ?_ hk
  clear h hk
  unfold closeZone
  repeat' first
    | (extract_lets +onlyGivenNames -merge -underBinder x; first | (with_reducible refine Frame.cutTo (t := x) ?_ ?_; rotate_left; (try clear_value x); rename _ => y; intro hx; rotate_left; clear_value (hh : x = _); subst hh) | (clear_value x; rename _ => y) | (have hq := x; clear hq; rename _ => y))
    | with_reducible refine completeGroups_frame ?_ (by with_unfolding_all rfl)
    | with_reducible refine setZone_frame ?_ (by with_unfolding_all rfl)
    | with_reducible exact Frame.ofMk (by first | exact Frame.refl | assumption) frSame frSame frSame frSame frSame frSame frSame frSame frSame frMine frSame frMine frSame frSame frSame frSame frSame frMine frSame frSame rfl rfl rfl (.inr .refl) (.inr .refl)
    | with_reducible apply Frame.refl
    | with_reducible assumption

theorem zoneAction_frame {k : Parts} {s t : State} {a0 : IoKind} {a1 : Nat}
    (h : Frame k s t) (hk : sub partsZoneAction k = true) :
    Frame k s (zoneAction a0 a1 t).2 := by
  refine Frame.step h (l := partsZoneAction) ?_ hk
  clear h hk
  unfold zoneAction
  repeat' first
    | (extract_lets +onlyGivenNames -merge -underBinder x; first | (with_reducible refine Frame.cutTo (t := x) ?_ ?_; rotate_left; (try clear_value x); rename _ => y; intro hx; rotate_left; clear_value (hh : x = _); subst hh) | (with_reducible refine Frame.cutTo (t := (Prod.snd x)) ?_ ?_; rotate_left; (try clear_value x); rename _ => y; intro hx; rotate_left; clear_value (hh : x = _); subst hh) | (clear_value x; rename _ => y) | (have hq := x; clear hq; rename _ => y))
    | split
    | with_reducible refine makeRoom_frame ?_ (by with_unfolding_all rfl)
    | with_reducible refine makeRoom_pair (by assumption) ?_ (by with_unfolding_all rfl)
    | with_reducible refine placeZone_frame (by assumption) ?_ (by with_unfolding_all rfl)
    | with_reducible refine setZone_frame ?_ (by with_unfolding_all rfl)
    | with_reducible refine closeZone_frame ?_ (by with_unfolding_all rfl)
    | with_reducible refine clearZone_frame ?_ (by with_unfolding_all rfl)
    | with_reducible refine reshapeReset_frame ?_ (by with_unfolding_all rfl)
    | with_reducible apply Frame.ite
    | with_reducible exact Frame.ofMk (by first | exact Frame.refl | assumption | exact makeRoom_pair (by assumption) (by first | exact Frame.refl | assumption | exact makeRoom_pair (by assumption) (by first | exact Frame.refl | assumption) (by with_unfolding_all rfl)) (by with_unfolding_all rfl)) frSame frSame frSame frSame frSame frSame frSame frSame frSame frMine frSame frMine frSame frSame frSame frSame frMine frMine frMine frSame rfl rfl rfl (.inr .refl) (.inr .refl)
    | dsimp -zeta only
    | with_reducible apply Frame.refl
    | with_reducible assumption
    | split

theorem zoneAction_pair {k : Parts} {s t : State} {a0 : IoKind} {a1 : Nat} {y : Status} {b : State} (e : zoneAction a0 a1 t = (y, b))
    (h : Frame k s t) (hk : sub partsZoneAction k = true) :
    Frame k s b := by
  have f := zoneAction_frame (a0 := a0) (a1 := a1) h hk
  rw [e] at f; exact f

theorem zoneActions_frame {k : Parts} {s t : State} {a0 : IoKind} {a1 : List Nat}
    (h : Frame k s t) (hk : sub partsZoneAction k = true) :
    Frame k s (zoneActions a0 a1 t).2 := by
  refine Frame.step h (l := partsZoneAction) ?_ hk
  clear h hk
  fun_induction zoneActions a0 a1 t
  repeat' first
    | with_reducible refine Frame.step ?_ (by assumption) (by with_unfolding_all rfl)
    | with_reducible refine Frame.step ?_ (Frame.pair (by assumption) (by assumption)) (by with_unfolding_all rfl)
    | (extract_lets +onlyGivenNames -merge -underBinder x; first | (with_reducible refine Frame.cutTo (t := x) ?_ ?_; rotate_left; (try clear_value x); rename _ => y; intro hx; rotate_left; clear_value (hh : x = _); subst hh) | (with_reducible refine Frame.cutTo (t := (Prod.snd x)) ?_ ?_; rotate_left; (try clear_value x); rename _ => y; intro hx; rotate_left; clear_value (hh : x = _); subst hh) | (clear_value x; rename _ => y) | (have hq := x; clear hq; rename _ => y))
    | with_reducible refine zoneAction_frame ?_ (by with_unfolding_all rfl)
    | with_reducible refine zoneAction_pair (by assumption) ?_ (by with_unfolding_all rfl)
    | with_reducible apply Frame.ite
    | with_reducible exact Frame.ofMk (by first | exact Frame.refl | assumption | exact zoneAction_pair (by assumption) (by first | exact Frame.refl | assumption | exact zoneAction_pair (by assumption) (by first | exact Frame.refl | assumption) (by with_unfolding_all rfl)) (by with_unfolding_all rfl)) frSame frSame frSame frSame frSame frSame frSame frSame frSame frMine frSame frMine frSame frSame frSame frSame frMine frMine frMine frSame rfl rfl rfl (.inr .refl) (.inr .refl)
    | dsimp -zeta only
    | with_reducible apply Frame.refl
    | with_reducible assumption
    | split

theorem zoneActions_pair {k : Parts} {s t : State} {a0 : IoKind} {a1 : List Nat} {y : Status} {b : State} (e : zoneActions a0 a1 t = (y, b))
    (h : Frame k s t) (hk : sub partsZoneAction k = true) :
    Frame k s b := by
  have f := zoneActions_frame (a0 := a0) (a1 := a1) h hk
  rw [e] at f; exact f

theorem runZone_frame {k : Parts} {s t : State} {a0 : InFlight} {a1 : Namespace}
    (h : Frame k s t) (hk : sub partsZoneAction k = true) :
    Frame k s (runZone a0 a1 t) := by
  refine Frame.step h (l := partsZoneAction) ?_ hk
  clear h hk
  unfold runZone
  repeat' first
    | (extract_lets +onlyGivenNames -merge -underBinder x; first | (with_reducible refine Frame.cutTo (t := x) ?_ ?_; rotate_left; (try clear_value x); rename _ => y; intro hx; rotate_left; clear_value (hh : x = _); subst hh) | (with_reducible refine Frame.cutTo (t := (Prod.snd x)) ?_ ?_; rotate_left; (try clear_value x); rename _ => y; intro hx; rotate_left; clear_value (hh : x = _); subst hh) | (clear_value x; rename _ => y) | (have hq := x; clear hq; rename _ => y))
    | with_reducible refine zoneActions_frame ?_ (by with_unfolding_all rfl)
    | with_reducible refine zoneActions_pair (by assumption) ?_ (by with_unfolding_all rfl)
    | with_reducible refine complete_frame ?_ (by with_unfolding_all rfl)
    | with_reducible apply Frame.ite
    | with_reducible apply Frame.refl
    | with_reducible assumption
    | split

theorem runIo_frame {k : Parts} {s t : State} {a0 : InFlight}
    (h : Frame k s t) (hk : sub partsZoneAction k = true) :
    Frame k s (runIo a0 t) := by
  refine Frame.step h (l := partsZoneAction) ?_ hk
  clear h hk
  unfold runIo
  repeat' first
    | (extract_lets +onlyGivenNames -merge -underBinder x; first | (with_reducible refine Frame.cutTo (t := x) ?_ ?_; rotate_left; (try clear_value x); rename _ => y; intro hx; rotate_left; clear_value (hh : x = _); subst hh) | (clear_value x; rename _ => y) | (have hq := x; clear hq; rename _ => y))
    | with_reducible refine complete_frame ?_ (by with_unfolding_all rfl)
    | with_reducible refine noteError_frame ?_ (by with_unfolding_all rfl)
    | with_reducible refine runWrite_frame ?_ (by with_unfolding_all rfl)
    | with_reducible refine runZone_frame ?_ (by with_unfolding_all rfl)
    | with_reducible refine setFlight_frame ?_ (by with_unfolding_all rfl)
    | with_reducible refine runSalvage_frame ?_ (by with_unfolding_all rfl)
    | with_reducible refine runRead_frame (by assumption) ?_ (by with_unfolding_all rfl)
    | with_reducible refine Frame.getDMap ?_ (fun _ => ?_)
    | with_reducible apply Frame.getD
    | with_reducible apply Frame.ite
    | with_reducible exact Frame.ofMk (by first | exact Frame.refl | assumption) frSame frSame frSame frSame frSame frSame frSame frSame frSame frMine frSame frMine frSame frSame frSame frSame frMine frMine frMine frSame rfl rfl rfl (.inr .refl) (.inr .refl)
    | with_reducible apply Frame.refl
    | with_reducible assumption
    | intro _ _ _
    | intro _ _
    | split

theorem retryFlight_frame {k : Parts} {s t : State} {a0 : InFlight}
    (h : Frame k s t) (hk : sub partsZoneAction k = true) :
    Frame k s (retryFlight a0 t) := by
  refine Frame.step h (l := partsZoneAction) ?_ hk
  clear h hk
  unfold retryFlight
  repeat' first
    | (extract_lets +onlyGivenNames -merge -underBinder x; first | (with_reducible refine Frame.cutTo (t := x) ?_ ?_; rotate_left; (try clear_value x); rename _ => y; intro hx; rotate_left; clear_value (hh : x = _); subst hh) | (clear_value x; rename _ => y) | (have hq := x; clear hq; rename _ => y))
    | with_reducible refine complete_frame ?_ (by with_unfolding_all rfl)
    | with_reducible refine noteError_frame ?_ (by with_unfolding_all rfl)
    | with_reducible refine finishWrite_frame ?_ (by with_unfolding_all rfl)
    | with_reducible refine runIo_frame ?_ (by with_unfolding_all rfl)
    | with_reducible apply Frame.ite
    | with_reducible exact Frame.ofMk (by first | exact Frame.refl | assumption) frSame frSame frSame frSame frSame frSame frSame frSame frSame frMine frSame frMine frSame frSame frSame frSame frMine frMine frMine frSame rfl rfl rfl (.inr .refl) (.inr .refl)
    | with_reducible apply Frame.refl
    | with_reducible assumption
    | split

theorem settleFlushes_frame {k : Parts} {s t : State} 
    (h : Frame k s t) (hk : sub { hif := true } k = true) :
    Frame k s (settleFlushes t) := by
  refine Frame.step h (l := { hif := true }) ?_ hk
  clear h hk
  unfold settleFlushes
  repeat' first
    | (extract_lets +onlyGivenNames -merge -underBinder x; first | (with_reducible refine Frame.cutTo (t := x) ?_ ?_; rotate_left; (try clear_value x); rename _ => y; intro hx; rotate_left; clear_value (hh : x = _); subst hh) | (have hq : ∀ a, Frame {} t (x a) → True := fun _ _ => trivial; clear hq; rename _ => y) | (have hq : ∀ a b, Frame {} t (x a b) → True := fun _ _ _ => trivial; clear hq; rename _ => y) | (clear_value x; rename _ => y) | (have hq := x; clear hq; rename _ => y))
    | with_reducible refine complete_frame ?_ (by with_unfolding_all rfl)
    | with_reducible apply Frame.foldl
    | with_reducible refine Frame.getDMap ?_ (fun _ => ?_)
    | with_reducible apply Frame.getD
    | with_reducible exact Frame.ofMk (by first | exact Frame.refl | assumption) frSame frSame frSame frSame frSame frSame frSame frSame frSame frSame frSame frSame frSame frSame frSame frSame frSame frSame frMine frSame rfl rfl rfl (.inr .refl) (.inr .refl)
    | with_reducible apply Frame.refl
    | with_reducible assumption
    | intro _ _ _
    | intro _ _

theorem eraseZone_frame {k : Parts} {s t : State} {a0 : Nat}
    (h : Frame k s t) (hk : sub { media := true, spe := true, arr := true, hif := true, mem := true } k = true) :
    Frame k s (eraseZone a0 t) := by
  refine Frame.step h (l := { media := true, spe := true, arr := true, hif := true, mem := true }) ?_ hk
  clear h hk
  unfold eraseZone
  repeat' first
    | (extract_lets +onlyGivenNames -merge -underBinder x; first | (with_reducible refine Frame.cutTo (t := x) ?_ ?_; rotate_left; (try clear_value x); rename _ => y; intro hx; rotate_left; clear_value (hh : x = _); subst hh) | (clear_value x; rename _ => y) | (have hq := x; clear hq; rename _ => y))
    | with_reducible refine clearZone_frame ?_ (by with_unfolding_all rfl)
    | with_reducible refine reshapeReset_frame ?_ (by with_unfolding_all rfl)
    | with_reducible refine setZone_frame ?_ (by with_unfolding_all rfl)
    | with_reducible apply Frame.ite
    | with_reducible exact Frame.ofMk (by first | exact Frame.refl | assumption) frSame frSame frSame frSame frSame frSame frSame frSame frSame frSame frSame frMine frSame frSame frSame frSame frMine frMine frMine frSame rfl rfl rfl (.inr .refl) (.inr .refl)
    | with_reducible apply Frame.refl
    | with_reducible assumption
    | split

theorem eraseSpaces_frame {k : Parts} {s t : State} {a0 : List (Nat × Namespace)}
    (h : Frame k s t) (hk : sub { media := true, spe := true, arr := true, hif := true, mem := true } k = true) :
    Frame k s (eraseSpaces a0 t) := by
  refine Frame.step h (l := { media := true, spe := true, arr := true, hif := true, mem := true }) ?_ hk
  clear h hk
  unfold eraseSpaces
  repeat' first
    | with_reducible refine eraseZone_frame ?_ (by with_unfolding_all rfl)
    | with_reducible apply Frame.foldl
    | with_reducible apply Frame.refl
    | with_reducible assumption
    | intro _ _ _
    | intro _ _

theorem cryptoErase_frame {k : Parts} {s t : State} 
    (h : Frame k s t) (hk : sub { arr := true, host := true } k = true) :
    Frame k s (cryptoErase t) := by
  refine Frame.step h (l := { arr := true, host := true }) ?_ hk
  clear h hk
  unfold cryptoErase
  repeat' first
    | (extract_lets +onlyGivenNames -merge -underBinder x; first | (with_reducible refine Frame.cutTo (t := x) ?_ ?_; rotate_left; (try clear_value x); rename _ => y; intro hx; rotate_left; clear_value (hh : x = _); subst hh) | (clear_value x; rename _ => y) | (have hq := x; clear hq; rename _ => y))
    | with_reducible exact Frame.ofMk (by first | exact Frame.refl | assumption) frSame frSame frSame frSame frSame frSame frSame frSame frSame frSame frSame frSame frSame frSame frSame frSame frSame frMine frSame frMine rfl rfl rfl (.inr .refl) (.inr .refl)
    | with_reducible apply Frame.refl
    | with_reducible assumption

theorem eraseDo_frame {k : Parts} {s t : State} {a0 : EraseWork}
    (h : Frame k s t) (hk : sub partsEraseDo k = true) :
    Frame k s (eraseDo a0 t) := by
  refine Frame.step h (l := partsEraseDo) ?_ hk
  clear h hk
  unfold eraseDo
  repeat' first
    | (extract_lets +onlyGivenNames -merge -underBinder x; first | (with_reducible refine Frame.cutTo (t := x) ?_ ?_; rotate_left; (try clear_value x); rename _ => y; intro hx; rotate_left; clear_value (hh : x = _); subst hh) | (have hq : ∀ a, Frame {} t (x a) → True := fun _ _ => trivial; clear hq; rename _ => y) | (have hq : ∀ a b, Frame {} t (x a b) → True := fun _ _ _ => trivial; clear hq; rename _ => y) | (clear_value x; rename _ => y) | (have hq := x; clear hq; rename _ => y))
    | with_reducible refine eraseSpaces_frame ?_ (by with_unfolding_all rfl)
    | with_reducible refine cryptoErase_frame ?_ (by with_unfolding_all rfl)
    | with_reducible refine noteChange_frame ?_ (by with_unfolding_all rfl)
    | with_reducible apply Frame.ite
    | with_reducible exact Frame.ofMk (by first | exact Frame.refl | assumption) frSame frSame frSame frSame frSame frSame frSame frSame frSame frSame frSame frMine frSame frSame frSame frSame frMine frMine frMine frMine rfl rfl rfl (.inr .refl) (.inr .refl)
    | with_reducible apply Frame.refl
    | with_reducible assumption
    | split

theorem eraseTry_frame {k : Parts} {s t : State} {a0 : EraseWait}
    (h : Frame k s t) (hk : sub partsEraseDo k = true) :
    Frame k s (eraseTry a0 t) := by
  refine Frame.step h (l := partsEraseDo) ?_ hk
  clear h hk
  unfold eraseTry
  repeat' first
    | (extract_lets +onlyGivenNames -merge -underBinder x; first | (with_reducible refine Frame.cutTo (t := x) ?_ ?_; rotate_left; (try clear_value x); rename _ => y; intro hx; rotate_left; clear_value (hh : x = _); subst hh) | (clear_value x; rename _ => y) | (have hq := x; clear hq; rename _ => y))
    | with_reducible refine complete_frame ?_ (by with_unfolding_all rfl)
    | with_reducible refine eraseDo_frame ?_ (by with_unfolding_all rfl)
    | with_reducible apply Frame.ite
    | with_reducible exact Frame.ofMk (by first | exact Frame.refl | assumption) frSame frSame frSame frSame frSame frSame frSame frSame frSame frSame frSame frMine frSame frSame frSame frSame frMine frMine frMine frMine rfl rfl rfl (.inr .refl) (.inr .refl)
    | with_reducible apply Frame.refl
    | with_reducible assumption
    | split

theorem eraseStart_frame {k : Parts} {s t : State} {a0 : Nat} {a1 : Nat} {a2 : EraseWork}
    (h : Frame k s t) (hk : sub partsEraseDo k = true) :
    Frame k s (eraseStart a0 a1 a2 t) := by
  refine Frame.step h (l := partsEraseDo) ?_ hk
  clear h hk
  unfold eraseStart
  repeat' first
    | (extract_lets +onlyGivenNames -merge -underBinder x; first | (with_reducible refine Frame.cutTo (t := x) ?_ ?_; rotate_left; (try clear_value x); rename _ => y; intro hx; rotate_left; clear_value (hh : x = _); subst hh) | (clear_value x; rename _ => y) | (have hq := x; clear hq; rename _ => y))
    | with_reducible refine eraseTry_frame ?_ (by with_unfolding_all rfl)
    | with_reducible exact Frame.ofMk (by first | exact Frame.refl | assumption) frSame frSame frSame frSame frSame frSame frSame frSame frSame frSame frSame frMine frSame frSame frSame frSame frMine frMine frMine frMine rfl rfl rfl (.inr .refl) (.inr .refl)
    | with_reducible apply Frame.refl
    | with_reducible assumption

theorem retryAll_frame {k : Parts} {s t : State} 
    (h : Frame k s t) (hk : sub partsZoneAction k = true) :
    Frame k s (retryAll t) := by
  refine Frame.step h (l := partsZoneAction) ?_ hk
  clear h hk
  unfold retryAll
  repeat' first
    | with_reducible refine retryFlight_frame ?_ (by with_unfolding_all rfl)
    | with_reducible apply Frame.foldl
    | with_reducible apply Frame.ite
    | with_reducible apply Frame.refl
    | with_reducible assumption
    | intro _ _ _
    | intro _ _
    | split

theorem kick_frame {k : Parts} {s t : State} 
    (h : Frame k s t) (hk : sub partsKick k = true) :
    Frame k s (kick t) := by
  refine Frame.step h (l := partsKick) ?_ hk
  clear h hk
  unfold kick
  repeat' first
    | (extract_lets +onlyGivenNames -merge -underBinder x; first | (with_reducible refine Frame.cutTo (t := x) ?_ ?_; rotate_left; (try clear_value x); rename _ => y; intro hx; rotate_left; clear_value (hh : x = _); subst hh) | (clear_value x; rename _ => y) | (have hq := x; clear hq; rename _ => y))
    | with_reducible refine retryAll_frame ?_ (by with_unfolding_all rfl)
    | with_reducible refine settleFlushes_frame ?_ (by with_unfolding_all rfl)
    | with_reducible refine eraseTry_frame ?_ (by with_unfolding_all rfl)
    | with_reducible apply Frame.foldl
    | with_reducible apply Frame.ite
    | with_reducible apply Frame.refl
    | with_reducible assumption
    | intro _ _ _
    | intro _ _
    | split

end Sys2Proof.Laws
end

