-- ==== Sys2Proof/Laws/Frames/Pages.lean ====
section
/-!
SUPPORT. The frames of the operations of Machine/Pages.lean: the parts each may change.
-/
namespace Sys2Proof.Laws
open Sys2Proof Sys2Proof.Machine

set_option linter.all false
set_option Elab.async false

theorem freeWords_frame {k : Parts} {s t : State} {a0 : Nat}
    (h : Frame k s t) (hk : sub { free := true } k = true) :
    Frame k s (freeWords a0 t).2 := by
  refine Frame.step h (l := { free := true }) ?_ hk
  clear h hk
  fun_induction freeWords a0 t
  repeat' first
    | with_reducible refine Frame.step ?_ (by assumption) (by with_unfolding_all rfl)
    | with_reducible refine Frame.step ?_ (Frame.pair (by assumption) (by assumption)) (by with_unfolding_all rfl)
    | (extract_lets +onlyGivenNames -merge -underBinder x; first | (with_reducible refine Frame.cutTo (t := x) ?_ ?_; rotate_left; (try clear_value x); rename _ => y; intro hx; rotate_left; clear_value (hh : x = _); subst hh) | (with_reducible refine Frame.cutTo (t := (Prod.snd x)) ?_ ?_; rotate_left; (try clear_value x); rename _ => y; intro hx; rotate_left; clear_value (hh : x = _); subst hh) | (clear_value x; rename _ => y) | (have hq := x; clear hq; rename _ => y))
    | split
    | with_reducible refine freeNext_frame ?_ (by with_unfolding_all rfl)
    | with_reducible refine freeNext_pair (by assumption) ?_ (by with_unfolding_all rfl)
    | with_reducible exact Frame.ofMk (by first | exact Frame.refl | assumption | exact freeNext_pair (by assumption) (by first | exact Frame.refl | assumption | exact freeNext_pair (by assumption) (by first | exact Frame.refl | assumption) (by with_unfolding_all rfl)) (by with_unfolding_all rfl)) frSame frSame frSame frSame frSame frSame frSame frSame frSame frSame frSame frSame frSame frSame frSame frSame frSame frSame frSame frSame rfl rfl rfl (.inr .refl) (.inr .refl)
    | dsimp -zeta only
    | with_reducible apply Frame.refl
    | with_reducible assumption
    | split

theorem freeWords_pair {k : Parts} {s t : State} {a0 : Nat} {y : Nat} {b : State} (e : freeWords a0 t = (y, b))
    (h : Frame k s t) (hk : sub { free := true } k = true) :
    Frame k s b := by
  have f := freeWords_frame (a0 := a0) h hk
  rw [e] at f; exact f

theorem openPage_frame {k : Parts} {s t : State} {a0 : Nat} {a1 : Nat} {a2 : Nat}
    (h : Frame k s t) (hk : sub { free := true } k = true) :
    Frame k s (openPage a0 a1 a2 t).2 := by
  refine Frame.step h (l := { free := true }) ?_ hk
  clear h hk
  unfold openPage
  repeat' first
    | (extract_lets +onlyGivenNames -merge -underBinder x; first | (with_reducible refine Frame.cutTo (t := x) ?_ ?_; rotate_left; (try clear_value x); rename _ => y; intro hx; rotate_left; clear_value (hh : x = _); subst hh) | (with_reducible refine Frame.cutTo (t := (Prod.snd x)) ?_ ?_; rotate_left; (try clear_value x); rename _ => y; intro hx; rotate_left; clear_value (hh : x = _); subst hh) | (clear_value x; rename _ => y) | (have hq := x; clear hq; rename _ => y))
    | split
    | with_reducible refine freeWords_frame ?_ (by with_unfolding_all rfl)
    | with_reducible refine freeWords_pair (by assumption) ?_ (by with_unfolding_all rfl)
    | dsimp -zeta only
    | with_reducible apply Frame.refl
    | with_reducible assumption
    | split

theorem openPage_pair {k : Parts} {s t : State} {a0 : Nat} {a1 : Nat} {a2 : Nat} {y : Nat} {b : State} (e : openPage a0 a1 a2 t = (y, b))
    (h : Frame k s t) (hk : sub { free := true } k = true) :
    Frame k s b := by
  have f := openPage_frame (a0 := a0) (a1 := a1) (a2 := a2) h hk
  rw [e] at f; exact f

theorem idDescriptors_frame {k : Parts} {s t : State} {a0 : Nat}
    (h : Frame k s t) (hk : sub { free := true } k = true) :
    Frame k s (idDescriptors a0 t).2.2 := by
  refine Frame.step h (l := { free := true }) ?_ hk
  clear h hk
  unfold idDescriptors
  repeat' first
    | (extract_lets +onlyGivenNames -merge -underBinder x; first | (with_reducible refine Frame.cutTo (t := x) ?_ ?_; rotate_left; (try clear_value x); rename _ => y; intro hx; rotate_left; clear_value (hh : x = _); subst hh) | (with_reducible refine Frame.cutTo (t := (Prod.snd x)) ?_ ?_; rotate_left; (try clear_value x); rename _ => y; intro hx; rotate_left; clear_value (hh : x = _); subst hh) | (clear_value x; rename _ => y) | (have hq := x; clear hq; rename _ => y))
    | split
    | with_reducible refine freeWords_frame ?_ (by with_unfolding_all rfl)
    | with_reducible refine freeWords_pair (by assumption) ?_ (by with_unfolding_all rfl)
    | with_reducible exact Frame.ofMk (by first | exact Frame.refl | assumption | exact freeWords_pair (by assumption) (by first | exact Frame.refl | assumption | exact freeWords_pair (by assumption) (by first | exact Frame.refl | assumption) (by with_unfolding_all rfl)) (by with_unfolding_all rfl)) frSame frSame frSame frSame frSame frSame frSame frSame frSame frSame frSame frSame frSame frSame frSame frSame frSame frSame frSame frSame rfl rfl rfl (.inr .refl) (.inr .refl)
    | dsimp -zeta only
    | with_reducible apply Frame.refl
    | with_reducible assumption
    | assumption
    | split

theorem idDescriptors_pair {k : Parts} {s t : State} {a0 : Nat} {y : Status} {z : Nat} {b : State} (e : idDescriptors a0 t = (y, z, b))
    (h : Frame k s t) (hk : sub { free := true } k = true) :
    Frame k s b := by
  have f := idDescriptors_frame (a0 := a0) h hk
  rw [e] at f; exact f

theorem identifyPage_frame {k : Parts} {s t : State} {a0 : Nat} {a1 : Nat} {a2 : Nat} {a3 : Nat} {a4 : Nat}
    (h : Frame k s t) (hk : sub { free := true } k = true) :
    Frame k s (identifyPage a0 a1 a2 a3 a4 t).2.2 := by
  refine Frame.step h (l := { free := true }) ?_ hk
  clear h hk
  unfold identifyPage
  repeat' first
    | (extract_lets +onlyGivenNames -merge -underBinder x; first | (with_reducible refine Frame.cutTo (t := x) ?_ ?_; rotate_left; (try clear_value x); rename _ => y; intro hx; rotate_left; clear_value (hh : x = _); subst hh) | (with_reducible refine Frame.cutTo (t := (Prod.snd x)) ?_ ?_; rotate_left; (try clear_value x); rename _ => y; intro hx; rotate_left; clear_value (hh : x = _); subst hh) | (with_reducible refine Frame.cutTo (t := (Prod.snd (Prod.snd x) : State)) ?_ ?_; rotate_left; (try clear_value x); rename _ => y; intro hx; rotate_left; clear_value (hh : x = _); subst hh) | (clear_value x; rename _ => y) | (have hq := x; clear hq; rename _ => y))
    | with_reducible refine idDescriptors_frame ?_ (by with_unfolding_all rfl)
    | with_reducible refine idDescriptors_pair (by assumption) ?_ (by with_unfolding_all rfl)
    | with_reducible apply Frame.ite
    | dsimp -zeta only
    | with_reducible apply Frame.refl
    | with_reducible assumption
    | split

theorem identifyPage_pair {k : Parts} {s t : State} {a0 : Nat} {a1 : Nat} {a2 : Nat} {a3 : Nat} {a4 : Nat} {y : Status} {z : Nat} {b : State} (e : identifyPage a0 a1 a2 a3 a4 t = (y, z, b))
    (h : Frame k s t) (hk : sub { free := true } k = true) :
    Frame k s b := by
  have f := identifyPage_frame (a0 := a0) (a1 := a1) (a2 := a2) (a3 := a3) (a4 := a4) h hk
  rw [e] at f; exact f

theorem logErrors_frame {k : Parts} {s t : State} {a0 : List (Nat × Nat)}
    (h : Frame k s t) (hk : sub { free := true } k = true) :
    Frame k s (logErrors a0 t).2 := by
  refine Frame.step h (l := { free := true }) ?_ hk
  clear h hk
  fun_induction logErrors a0 t
  repeat' first
    | with_reducible refine Frame.step ?_ (by assumption) (by with_unfolding_all rfl)
    | with_reducible refine Frame.step ?_ (Frame.pair (by assumption) (by assumption)) (by with_unfolding_all rfl)
    | (extract_lets +onlyGivenNames -merge -underBinder x; first | (with_reducible refine Frame.cutTo (t := x) ?_ ?_; rotate_left; (try clear_value x); rename _ => y; intro hx; rotate_left; clear_value (hh : x = _); subst hh) | (with_reducible refine Frame.cutTo (t := (Prod.snd x)) ?_ ?_; rotate_left; (try clear_value x); rename _ => y; intro hx; rotate_left; clear_value (hh : x = _); subst hh) | (clear_value x; rename _ => y) | (have hq := x; clear hq; rename _ => y))
    | split
    | with_reducible refine freeWords_frame ?_ (by with_unfolding_all rfl)
    | with_reducible refine freeWords_pair (by assumption) ?_ (by with_unfolding_all rfl)
    | with_reducible exact Frame.ofMk (by first | exact Frame.refl | assumption | exact freeWords_pair (by assumption) (by first | exact Frame.refl | assumption | exact freeWords_pair (by assumption) (by first | exact Frame.refl | assumption) (by with_unfolding_all rfl)) (by with_unfolding_all rfl)) frSame frSame frSame frSame frSame frSame frSame frSame frSame frSame frSame frSame frSame frSame frSame frSame frSame frSame frSame frSame rfl rfl rfl (.inr .refl) (.inr .refl)
    | dsimp -zeta only
    | with_reducible apply Frame.refl
    | with_reducible assumption
    | split

theorem logErrors_pair {k : Parts} {s t : State} {a0 : List (Nat × Nat)} {y : Nat} {b : State} (e : logErrors a0 t = (y, b))
    (h : Frame k s t) (hk : sub { free := true } k = true) :
    Frame k s b := by
  have f := logErrors_frame (a0 := a0) h hk
  rw [e] at f; exact f

theorem logSmart_frame {k : Parts} {s t : State} 
    (h : Frame k s t) (hk : sub { free := true } k = true) :
    Frame k s (logSmart t).2 := by
  refine Frame.step h (l := { free := true }) ?_ hk
  clear h hk
  unfold logSmart
  repeat' first
    | with_reducible refine openPage_frame ?_ (by with_unfolding_all rfl)
    | with_reducible refine openPage_pair (by assumption) ?_ (by with_unfolding_all rfl)
    | dsimp -zeta only
    | with_reducible apply Frame.refl
    | with_reducible assumption

theorem logSmart_pair {k : Parts} {s t : State}  {y : Nat} {b : State} (e : logSmart t = (y, b))
    (h : Frame k s t) (hk : sub { free := true } k = true) :
    Frame k s b := by
  have f := logSmart_frame  h hk
  rw [e] at f; exact f

theorem logSlots_frame {k : Parts} {s t : State} 
    (h : Frame k s t) (hk : sub { free := true } k = true) :
    Frame k s (logSlots t).2 := by
  refine Frame.step h (l := { free := true }) ?_ hk
  clear h hk
  unfold logSlots
  repeat' first
    | (extract_lets +onlyGivenNames -merge -underBinder x; first | (with_reducible refine Frame.cutTo (t := x) ?_ ?_; rotate_left; (try clear_value x); rename _ => y; intro hx; rotate_left; clear_value (hh : x = _); subst hh) | (with_reducible refine Frame.cutTo (t := (Prod.snd x)) ?_ ?_; rotate_left; (try clear_value x); rename _ => y; intro hx; rotate_left; clear_value (hh : x = _); subst hh) | (clear_value x; rename _ => y) | (have hq := x; clear hq; rename _ => y))
    | split
    | with_reducible refine freeWords_frame ?_ (by with_unfolding_all rfl)
    | with_reducible refine freeWords_pair (by assumption) ?_ (by with_unfolding_all rfl)
    | with_reducible refine Frame.getDMap ?_ (fun _ => ?_)
    | with_reducible apply Frame.getD
    | with_reducible apply Frame.ite
    | dsimp -zeta only
    | with_reducible apply Frame.refl
    | with_reducible assumption
    | intro _ _ _
    | intro _ _
    | split

theorem logSlots_pair {k : Parts} {s t : State}  {y : Nat} {b : State} (e : logSlots t = (y, b))
    (h : Frame k s t) (hk : sub { free := true } k = true) :
    Frame k s b := by
  have f := logSlots_frame  h hk
  rw [e] at f; exact f

theorem logEffects_frame {k : Parts} {s t : State} {a0 : List Nat}
    (h : Frame k s t) (hk : sub { free := true } k = true) :
    Frame k s (logEffects a0 t).2 := by
  refine Frame.step h (l := { free := true }) ?_ hk
  clear h hk
  fun_induction logEffects a0 t
  repeat' first
    | with_reducible refine Frame.step ?_ (by assumption) (by with_unfolding_all rfl)
    | with_reducible refine Frame.step ?_ (Frame.pair (by assumption) (by assumption)) (by with_unfolding_all rfl)
    | (extract_lets +onlyGivenNames -merge -underBinder x; first | (with_reducible refine Frame.cutTo (t := x) ?_ ?_; rotate_left; (try clear_value x); rename _ => y; intro hx; rotate_left; clear_value (hh : x = _); subst hh) | (with_reducible refine Frame.cutTo (t := (Prod.snd x)) ?_ ?_; rotate_left; (try clear_value x); rename _ => y; intro hx; rotate_left; clear_value (hh : x = _); subst hh) | (clear_value x; rename _ => y) | (have hq := x; clear hq; rename _ => y))
    | split
    | with_reducible refine freeWords_frame ?_ (by with_unfolding_all rfl)
    | with_reducible refine freeWords_pair (by assumption) ?_ (by with_unfolding_all rfl)
    | with_reducible exact Frame.ofMk (by first | exact Frame.refl | assumption | exact freeWords_pair (by assumption) (by first | exact Frame.refl | assumption | exact freeWords_pair (by assumption) (by first | exact Frame.refl | assumption) (by with_unfolding_all rfl)) (by with_unfolding_all rfl)) frSame frSame frSame frSame frSame frSame frSame frSame frSame frSame frSame frSame frSame frSame frSame frSame frSame frSame frSame frSame rfl rfl rfl (.inr .refl) (.inr .refl)
    | dsimp -zeta only
    | with_reducible apply Frame.refl
    | with_reducible assumption
    | split

theorem logEffects_pair {k : Parts} {s t : State} {a0 : List Nat} {y : Nat} {b : State} (e : logEffects a0 t = (y, b))
    (h : Frame k s t) (hk : sub { free := true } k = true) :
    Frame k s b := by
  have f := logEffects_frame (a0 := a0) h hk
  rw [e] at f; exact f

theorem logSelfTest_frame {k : Parts} {s t : State} 
    (h : Frame k s t) (hk : sub { free := true } k = true) :
    Frame k s (logSelfTest t).2 := by
  refine Frame.step h (l := { free := true }) ?_ hk
  clear h hk
  unfold logSelfTest
  repeat' first
    | (extract_lets +onlyGivenNames -merge -underBinder x; first | (with_reducible refine Frame.cutTo (t := x) ?_ ?_; rotate_left; (try clear_value x); rename _ => y; intro hx; rotate_left; clear_value (hh : x = _); subst hh) | (with_reducible refine Frame.cutTo (t := (Prod.snd x)) ?_ ?_; rotate_left; (try clear_value x); rename _ => y; intro hx; rotate_left; clear_value (hh : x = _); subst hh) | (clear_value x; rename _ => y) | (have hq := x; clear hq; rename _ => y))
    | split
    | with_reducible refine freeWords_frame ?_ (by with_unfolding_all rfl)
    | with_reducible refine freeWords_pair (by assumption) ?_ (by with_unfolding_all rfl)
    | with_reducible exact Frame.ofMk (by first | exact Frame.refl | assumption | exact freeWords_pair (by assumption) (by first | exact Frame.refl | assumption | exact freeWords_pair (by assumption) (by first | exact Frame.refl | assumption) (by with_unfolding_all rfl)) (by with_unfolding_all rfl)) frSame frSame frSame frSame frSame frSame frSame frSame frSame frSame frSame frSame frSame frSame frSame frSame frSame frSame frSame frSame rfl rfl rfl (.inr .refl) (.inr .refl)
    | dsimp -zeta only
    | with_reducible apply Frame.refl
    | with_reducible assumption
    | split

theorem logSelfTest_pair {k : Parts} {s t : State}  {y : Nat} {b : State} (e : logSelfTest t = (y, b))
    (h : Frame k s t) (hk : sub { free := true } k = true) :
    Frame k s b := by
  have f := logSelfTest_frame  h hk
  rw [e] at f; exact f

theorem logSanitize_frame {k : Parts} {s t : State} 
    (h : Frame k s t) (hk : sub { free := true } k = true) :
    Frame k s (logSanitize t).2 := by
  refine Frame.step h (l := { free := true }) ?_ hk
  clear h hk
  unfold logSanitize
  repeat' first
    | (extract_lets +onlyGivenNames -merge -underBinder x; first | (with_reducible refine Frame.cutTo (t := x) ?_ ?_; rotate_left; (try clear_value x); rename _ => y; intro hx; rotate_left; clear_value (hh : x = _); subst hh) | (with_reducible refine Frame.cutTo (t := (Prod.snd x)) ?_ ?_; rotate_left; (try clear_value x); rename _ => y; intro hx; rotate_left; clear_value (hh : x = _); subst hh) | (clear_value x; rename _ => y) | (have hq := x; clear hq; rename _ => y))
    | split
    | with_reducible refine freeWords_frame ?_ (by with_unfolding_all rfl)
    | with_reducible refine freeWords_pair (by assumption) ?_ (by with_unfolding_all rfl)
    | with_reducible apply Frame.ite
    | dsimp -zeta only
    | with_reducible apply Frame.refl
    | with_reducible assumption
    | split

theorem logSanitize_pair {k : Parts} {s t : State}  {y : Nat} {b : State} (e : logSanitize t = (y, b))
    (h : Frame k s t) (hk : sub { free := true } k = true) :
    Frame k s b := by
  have f := logSanitize_frame  h hk
  rw [e] at f; exact f

theorem logDetail_frame {k : Parts} {s t : State} 
    (h : Frame k s t) (hk : sub { free := true } k = true) :
    Frame k s (logDetail t).2 := by
  refine Frame.step h (l := { free := true }) ?_ hk
  clear h hk
  unfold logDetail
  repeat' first
    | (extract_lets +onlyGivenNames -merge -underBinder x; first | (with_reducible refine Frame.cutTo (t := x) ?_ ?_; rotate_left; (try clear_value x); rename _ => y; intro hx; rotate_left; clear_value (hh : x = _); subst hh) | (with_reducible refine Frame.cutTo (t := (Prod.snd x)) ?_ ?_; rotate_left; (try clear_value x); rename _ => y; intro hx; rotate_left; clear_value (hh : x = _); subst hh) | (clear_value x; rename _ => y) | (have hq := x; clear hq; rename _ => y))
    | split
    | with_reducible refine freeWords_frame ?_ (by with_unfolding_all rfl)
    | with_reducible refine freeWords_pair (by assumption) ?_ (by with_unfolding_all rfl)
    | dsimp -zeta only
    | with_reducible apply Frame.refl
    | with_reducible assumption
    | split

theorem logDetail_pair {k : Parts} {s t : State}  {y : Nat} {b : State} (e : logDetail t = (y, b))
    (h : Frame k s t) (hk : sub { free := true } k = true) :
    Frame k s b := by
  have f := logDetail_frame  h hk
  rw [e] at f; exact f

theorem logPage_frame {k : Parts} {s t : State} {a0 : Nat}
    (h : Frame k s t) (hk : sub { free := true } k = true) :
    Frame k s (logPage a0 t).2 := by
  refine Frame.step h (l := { free := true }) ?_ hk
  clear h hk
  unfold logPage
  repeat' first
    | (extract_lets +onlyGivenNames -merge -underBinder x; first | (with_reducible refine Frame.cutTo (t := x) ?_ ?_; rotate_left; (try clear_value x); rename _ => y; intro hx; rotate_left; clear_value (hh : x = _); subst hh) | (with_reducible refine Frame.cutTo (t := (Prod.snd x)) ?_ ?_; rotate_left; (try clear_value x); rename _ => y; intro hx; rotate_left; clear_value (hh : x = _); subst hh) | (clear_value x; rename _ => y) | (have hq := x; clear hq; rename _ => y))
    | split
    | with_reducible refine logErrors_frame ?_ (by with_unfolding_all rfl)
    | with_reducible refine logErrors_pair (by assumption) ?_ (by with_unfolding_all rfl)
    | with_reducible refine logSmart_frame ?_ (by with_unfolding_all rfl)
    | with_reducible refine logSmart_pair (by assumption) ?_ (by with_unfolding_all rfl)
    | with_reducible refine logSlots_frame ?_ (by with_unfolding_all rfl)
    | with_reducible refine logSlots_pair (by assumption) ?_ (by with_unfolding_all rfl)
    | with_reducible refine logEffects_frame ?_ (by with_unfolding_all rfl)
    | with_reducible refine logEffects_pair (by assumption) ?_ (by with_unfolding_all rfl)
    | with_reducible refine logSelfTest_frame ?_ (by with_unfolding_all rfl)
    | with_reducible refine logSelfTest_pair (by assumption) ?_ (by with_unfolding_all rfl)
    | with_reducible refine logSanitize_frame ?_ (by with_unfolding_all rfl)
    | with_reducible refine logSanitize_pair (by assumption) ?_ (by with_unfolding_all rfl)
    | with_reducible refine logDetail_frame ?_ (by with_unfolding_all rfl)
    | with_reducible refine logDetail_pair (by assumption) ?_ (by with_unfolding_all rfl)
    | with_reducible refine openPage_frame ?_ (by with_unfolding_all rfl)
    | with_reducible refine openPage_pair (by assumption) ?_ (by with_unfolding_all rfl)
    | with_reducible exact Frame.ofMk (by first | exact Frame.refl | assumption | exact logErrors_pair (by assumption) (by first | exact Frame.refl | assumption | exact logErrors_pair (by assumption) (by first | exact Frame.refl | assumption) (by with_unfolding_all rfl) | exact logSmart_pair (by assumption) (by first | exact Frame.refl | assumption) (by with_unfolding_all rfl) | exact logSlots_pair (by assumption) (by first | exact Frame.refl | assumption) (by with_unfolding_all rfl) | exact logEffects_pair (by assumption) (by first | exact Frame.refl | assumption) (by with_unfolding_all rfl) | exact logSelfTest_pair (by assumption) (by first | exact Frame.refl | assumption) (by with_unfolding_all rfl) | exact logSanitize_pair (by assumption) (by first | exact Frame.refl | assumption) (by with_unfolding_all rfl) | exact logDetail_pair (by assumption) (by first | exact Frame.refl | assumption) (by with_unfolding_all rfl) | exact openPage_pair (by assumption) (by first | exact Frame.refl | assumption) (by with_unfolding_all rfl)) (by with_unfolding_all rfl) | exact logSmart_pair (by assumption) (by first | exact Frame.refl | assumption | exact logErrors_pair (by assumption) (by first | exact Frame.refl | assumption) (by with_unfolding_all rfl) | exact logSmart_pair (by assumption) (by first | exact Frame.refl | assumption) (by with_unfolding_all rfl) | exact logSlots_pair (by assumption) (by first | exact Frame.refl | assumption) (by with_unfolding_all rfl) | exact logEffects_pair (by assumption) (by first | exact Frame.refl | assumption) (by with_unfolding_all rfl) | exact logSelfTest_pair (by assumption) (by first | exact Frame.refl | assumption) (by with_unfolding_all rfl) | exact logSanitize_pair (by assumption) (by first | exact Frame.refl | assumption) (by with_unfolding_all rfl) | exact logDetail_pair (by assumption) (by first | exact Frame.refl | assumption) (by with_unfolding_all rfl) | exact openPage_pair (by assumption) (by first | exact Frame.refl | assumption) (by with_unfolding_all rfl)) (by with_unfolding_all rfl) | exact logSlots_pair (by assumption) (by first | exact Frame.refl | assumption | exact logErrors_pair (by assumption) (by first | exact Frame.refl | assumption) (by with_unfolding_all rfl) | exact logSmart_pair (by assumption) (by first | exact Frame.refl | assumption) (by with_unfolding_all rfl) | exact logSlots_pair (by assumption) (by first | exact Frame.refl | assumption) (by with_unfolding_all rfl) | exact logEffects_pair (by assumption) (by first | exact Frame.refl | assumption) (by with_unfolding_all rfl) | exact logSelfTest_pair (by assumption) (by first | exact Frame.refl | assumption) (by with_unfolding_all rfl) | exact logSanitize_pair (by assumption) (by first | exact Frame.refl | assumption) (by with_unfolding_all rfl) | exact logDetail_pair (by assumption) (by first | exact Frame.refl | assumption) (by with_unfolding_all rfl) | exact openPage_pair (by assumption) (by first | exact Frame.refl | assumption) (by with_unfolding_all rfl)) (by with_unfolding_all rfl) | exact logEffects_pair (by assumption) (by first | exact Frame.refl | assumption | exact logErrors_pair (by assumption) (by first | exact Frame.refl | assumption) (by with_unfolding_all rfl) | exact logSmart_pair (by assumption) (by first | exact Frame.refl | assumption) (by with_unfolding_all rfl) | exact logSlots_pair (by assumption) (by first | exact Frame.refl | assumption) (by with_unfolding_all rfl) | exact logEffects_pair (by assumption) (by first | exact Frame.refl | assumption) (by with_unfolding_all rfl) | exact logSelfTest_pair (by assumption) (by first | exact Frame.refl | assumption) (by with_unfolding_all rfl) | exact logSanitize_pair (by assumption) (by first | exact Frame.refl | assumption) (by with_unfolding_all rfl) | exact logDetail_pair (by assumption) (by first | exact Frame.refl | assumption) (by with_unfolding_all rfl) | exact openPage_pair (by assumption) (by first | exact Frame.refl | assumption) (by with_unfolding_all rfl)) (by with_unfolding_all rfl) | exact logSelfTest_pair (by assumption) (by first | exact Frame.refl | assumption | exact logErrors_pair (by assumption) (by first | exact Frame.refl | assumption) (by with_unfolding_all rfl) | exact logSmart_pair (by assumption) (by first | exact Frame.refl | assumption) (by with_unfolding_all rfl) | exact logSlots_pair (by assumption) (by first | exact Frame.refl | assumption) (by with_unfolding_all rfl) | exact logEffects_pair (by assumption) (by first | exact Frame.refl | assumption) (by with_unfolding_all rfl) | exact logSelfTest_pair (by assumption) (by first | exact Frame.refl | assumption) (by with_unfolding_all rfl) | exact logSanitize_pair (by assumption) (by first | exact Frame.refl | assumption) (by with_unfolding_all rfl) | exact logDetail_pair (by assumption) (by first | exact Frame.refl | assumption) (by with_unfolding_all rfl) | exact openPage_pair (by assumption) (by first | exact Frame.refl | assumption) (by with_unfolding_all rfl)) (by with_unfolding_all rfl) | exact logSanitize_pair (by assumption) (by first | exact Frame.refl | assumption | exact logErrors_pair (by assumption) (by first | exact Frame.refl | assumption) (by with_unfolding_all rfl) | exact logSmart_pair (by assumption) (by first | exact Frame.refl | assumption) (by with_unfolding_all rfl) | exact logSlots_pair (by assumption) (by first | exact Frame.refl | assumption) (by with_unfolding_all rfl) | exact logEffects_pair (by assumption) (by first | exact Frame.refl | assumption) (by with_unfolding_all rfl) | exact logSelfTest_pair (by assumption) (by first | exact Frame.refl | assumption) (by with_unfolding_all rfl) | exact logSanitize_pair (by assumption) (by first | exact Frame.refl | assumption) (by with_unfolding_all rfl) | exact logDetail_pair (by assumption) (by first | exact Frame.refl | assumption) (by with_unfolding_all rfl) | exact openPage_pair (by assumption) (by first | exact Frame.refl | assumption) (by with_unfolding_all rfl)) (by with_unfolding_all rfl) | exact logDetail_pair (by assumption) (by first | exact Frame.refl | assumption | exact logErrors_pair (by assumption) (by first | exact Frame.refl | assumption) (by with_unfolding_all rfl) | exact logSmart_pair (by assumption) (by first | exact Frame.refl | assumption) (by with_unfolding_all rfl) | exact logSlots_pair (by assumption) (by first | exact Frame.refl | assumption) (by with_unfolding_all rfl) | exact logEffects_pair (by assumption) (by first | exact Frame.refl | assumption) (by with_unfolding_all rfl) | exact logSelfTest_pair (by assumption) (by first | exact Frame.refl | assumption) (by with_unfolding_all rfl) | exact logSanitize_pair (by assumption) (by first | exact Frame.refl | assumption) (by with_unfolding_all rfl) | exact logDetail_pair (by assumption) (by first | exact Frame.refl | assumption) (by with_unfolding_all rfl) | exact openPage_pair (by assumption) (by first | exact Frame.refl | assumption) (by with_unfolding_all rfl)) (by with_unfolding_all rfl) | exact openPage_pair (by assumption) (by first | exact Frame.refl | assumption | exact logErrors_pair (by assumption) (by first | exact Frame.refl | assumption) (by with_unfolding_all rfl) | exact logSmart_pair (by assumption) (by first | exact Frame.refl | assumption) (by with_unfolding_all rfl) | exact logSlots_pair (by assumption) (by first | exact Frame.refl | assumption) (by with_unfolding_all rfl) | exact logEffects_pair (by assumption) (by first | exact Frame.refl | assumption) (by with_unfolding_all rfl) | exact logSelfTest_pair (by assumption) (by first | exact Frame.refl | assumption) (by with_unfolding_all rfl) | exact logSanitize_pair (by assumption) (by first | exact Frame.refl | assumption) (by with_unfolding_all rfl) | exact logDetail_pair (by assumption) (by first | exact Frame.refl | assumption) (by with_unfolding_all rfl) | exact openPage_pair (by assumption) (by first | exact Frame.refl | assumption) (by with_unfolding_all rfl)) (by with_unfolding_all rfl)) frSame frSame frSame frSame frSame frSame frSame frSame frSame frSame frSame frSame frSame frSame frSame frSame frSame frSame frSame frSame rfl rfl rfl (.inr .refl) (.inr .refl)
    | dsimp -zeta only
    | with_reducible apply Frame.refl
    | with_reducible assumption
    | split

theorem logPage_pair {k : Parts} {s t : State} {a0 : Nat} {y : Nat} {b : State} (e : logPage a0 t = (y, b))
    (h : Frame k s t) (hk : sub { free := true } k = true) :
    Frame k s b := by
  have f := logPage_frame (a0 := a0) h hk
  rw [e] at f; exact f

theorem surfacePage_frame {k : Parts} {s t : State} {a0 : Nat}
    (h : Frame k s t) (hk : sub { free := true } k = true) :
    Frame k s (surfacePage a0 t).2 := by
  refine Frame.step h (l := { free := true }) ?_ hk
  clear h hk
  unfold surfacePage
  repeat' first
    | (extract_lets +onlyGivenNames -merge -underBinder x; first | (with_reducible refine Frame.cutTo (t := x) ?_ ?_; rotate_left; (try clear_value x); rename _ => y; intro hx; rotate_left; clear_value (hh : x = _); subst hh) | (with_reducible refine Frame.cutTo (t := (Prod.snd x)) ?_ ?_; rotate_left; (try clear_value x); rename _ => y; intro hx; rotate_left; clear_value (hh : x = _); subst hh) | (clear_value x; rename _ => y) | (have hq := x; clear hq; rename _ => y))
    | split
    | with_reducible refine freeWords_frame ?_ (by with_unfolding_all rfl)
    | with_reducible refine freeWords_pair (by assumption) ?_ (by with_unfolding_all rfl)
    | dsimp -zeta only
    | with_reducible apply Frame.refl
    | with_reducible assumption
    | split

theorem surfacePage_pair {k : Parts} {s t : State} {a0 : Nat} {y : Nat} {b : State} (e : surfacePage a0 t = (y, b))
    (h : Frame k s t) (hk : sub { free := true } k = true) :
    Frame k s b := by
  have f := surfacePage_frame (a0 := a0) h hk
  rw [e] at f; exact f

end Sys2Proof.Laws
end

