-- ==== Sys2Proof/Laws/Frames/Crypt.lean ====
section
/-!
SUPPORT. The frames of the operations of Machine/Crypt.lean: the parts each may change.
-/
namespace Sys2Proof.Laws
open Sys2Proof Sys2Proof.Machine

set_option linter.all false
set_option Elab.async false

theorem cryptSector_frame {k : Parts} {s t : State} {a0 : LaneIx} {a1 : TrackAt} {a2 : Nat}
    (h : Frame k s t) (hk : sub { lane := true } k = true) :
    Frame k s (cryptSector a0 a1 a2 t) := by
  refine Frame.step h (l := { lane := true }) ?_ hk
  clear h hk
  unfold cryptSector
  repeat' first
    | (extract_lets +onlyGivenNames -merge -underBinder x; first | (with_reducible refine Frame.cutTo (t := x) ?_ ?_; rotate_left; (try clear_value x); rename _ => y; intro hx; rotate_left; clear_value (hh : x = _); subst hh) | (clear_value x; rename _ => y) | (have hq := x; clear hq; rename _ => y))
    | with_reducible refine setLane_frame ?_ (by with_unfolding_all rfl)
    | with_reducible exact Frame.ofMk (by first | exact Frame.refl | assumption) frSame frSame frSame frSame frSame frSame frSame frSame frSame frMine frSame frSame frSame frSame frSame frSame frSame frSame frSame frSame rfl rfl rfl (.inr .refl) (.inr .refl)
    | with_reducible apply Frame.refl
    | with_reducible assumption

end Sys2Proof.Laws
end

