-- ==== Sys2Proof/Laws/Frames/ReadPath.lean ====
section
/-!
SUPPORT. The frames of the operations of Machine/ReadPath.lean: the parts each may change.
-/
namespace Sys2Proof.Laws
open Sys2Proof Sys2Proof.Machine

set_option linter.all false
set_option Elab.async false

theorem feEvent_frame {k : Parts} {s t : State} {a0 : LaneIx} {a1 : Nat}
    (h : Frame k s t) (hk : sub partsEngineFaultW k = true) :
    Frame k s (feEvent a0 a1 t) := by
  refine Frame.step h (l := partsEngineFaultW) ?_ hk
  clear h hk
  unfold feEvent
  repeat' first
    | (extract_lets +onlyGivenNames -merge -underBinder x; first | (with_reducible refine Frame.cutTo (t := x) ?_ ?_; rotate_left; (try clear_value x); rename _ => y; intro hx; rotate_left; clear_value (hh : x = _); subst hh) | (have hq : Flt := x; clear hq; rename _ => y) | (have hq : Sys := x; clear hq; rename _ => y) | (clear_value x; rename _ => y) | (have hq := x; clear hq; rename _ => y))
    | with_reducible refine setLane_frame ?_ (by with_unfolding_all rfl)
    | with_reducible refine stcEntry_frame ?_ (by with_unfolding_all rfl)
    | with_reducible refine raise_frame ?_ (by with_unfolding_all rfl)
    | with_reducible exact Frame.ofMk (by first | exact Frame.refl | assumption) frMine frMine frSame frSame frMine frMine frMine frSame frMine frMine frMine frSame frMine frMine frMine frMine frMine frMine frMine frSame rfl rfl rfl (by first | exact .inr .refl | exact .inr ⟨rfl, rfl, rfl, rfl, id⟩ | exact .inr ⟨rfl, rfl, rfl, rfl, fun _ => rfl⟩ | exact .inr (.ite ⟨rfl, rfl, rfl, rfl, id⟩ ⟨rfl, rfl, rfl, rfl, id⟩)) (by first | exact .inr .refl | exact .inr ⟨rfl, rfl, rfl, rfl⟩ | exact .inr (addFaultRecord_binds _ _) | with_unfolding_all exact .inr ⟨rfl, rfl, rfl, rfl⟩)
    | with_reducible apply Frame.refl
    | with_reducible assumption
    | split

theorem decEvent_frame {k : Parts} {s t : State} {a0 : LaneIx} {a1 : Nat}
    (h : Frame k s t) (hk : sub partsEngineFaultW k = true) :
    Frame k s (decEvent a0 a1 t) := by
  refine Frame.step h (l := partsEngineFaultW) ?_ hk
  clear h hk
  unfold decEvent
  repeat' first
    | (extract_lets +onlyGivenNames -merge -underBinder x; first | (with_reducible refine Frame.cutTo (t := x) ?_ ?_; rotate_left; (try clear_value x); rename _ => y; intro hx; rotate_left; clear_value (hh : x = _); subst hh) | (have hq : Flt := x; clear hq; rename _ => y) | (have hq : Sys := x; clear hq; rename _ => y) | (clear_value x; rename _ => y) | (have hq := x; clear hq; rename _ => y))
    | with_reducible refine setLane_frame ?_ (by with_unfolding_all rfl)
    | with_reducible refine stcEntry_frame ?_ (by with_unfolding_all rfl)
    | with_reducible refine raise_frame ?_ (by with_unfolding_all rfl)
    | with_reducible apply Frame.ite
    | with_reducible exact Frame.ofMk (by first | exact Frame.refl | assumption) frMine frMine frSame frSame frMine frMine frMine frSame frMine frMine frMine frSame frMine frMine frMine frMine frMine frMine frMine frSame rfl rfl rfl (by first | exact .inr .refl | exact .inr ⟨rfl, rfl, rfl, rfl, id⟩ | exact .inr ⟨rfl, rfl, rfl, rfl, fun _ => rfl⟩ | exact .inr (.ite ⟨rfl, rfl, rfl, rfl, id⟩ ⟨rfl, rfl, rfl, rfl, id⟩)) (by first | exact .inr .refl | exact .inr ⟨rfl, rfl, rfl, rfl⟩ | exact .inr (addFaultRecord_binds _ _) | with_unfolding_all exact .inr ⟨rfl, rfl, rfl, rfl⟩)
    | with_reducible apply Frame.refl
    | with_reducible assumption
    | split

theorem ddpEvent_frame {k : Parts} {s t : State} {a0 : Nat}
    (h : Frame k s t) (hk : sub partsEngineFaultW k = true) :
    Frame k s (ddpEvent a0 t) := by
  refine Frame.step h (l := partsEngineFaultW) ?_ hk
  clear h hk
  unfold ddpEvent
  repeat' first
    | (extract_lets +onlyGivenNames -merge -underBinder x; first | (with_reducible refine Frame.cutTo (t := x) ?_ ?_; rotate_left; (try clear_value x); rename _ => y; intro hx; rotate_left; clear_value (hh : x = _); subst hh) | (have hq : Flt := x; clear hq; rename _ => y) | (have hq : Sys := x; clear hq; rename _ => y) | (clear_value x; rename _ => y) | (have hq := x; clear hq; rename _ => y))
    | with_reducible refine raise_frame ?_ (by with_unfolding_all rfl)
    | with_reducible exact Frame.ofMk (by first | exact Frame.refl | assumption) frMine frMine frSame frSame frMine frMine frMine frSame frMine frMine frMine frSame frMine frMine frMine frMine frMine frMine frMine frSame rfl rfl rfl (by first | exact .inr .refl | exact .inr ⟨rfl, rfl, rfl, rfl, id⟩ | exact .inr ⟨rfl, rfl, rfl, rfl, fun _ => rfl⟩ | exact .inr (.ite ⟨rfl, rfl, rfl, rfl, id⟩ ⟨rfl, rfl, rfl, rfl, id⟩)) (by first | exact .inr .refl | exact .inr ⟨rfl, rfl, rfl, rfl⟩ | exact .inr (addFaultRecord_binds _ _) | with_unfolding_all exact .inr ⟨rfl, rfl, rfl, rfl⟩)
    | with_reducible apply Frame.refl
    | with_reducible assumption

theorem tempRefresh_frame {k : Parts} {s t : State} {a0 : Int}
    (h : Frame k s t) (hk : sub { lane := true } k = true) :
    Frame k s (tempRefresh a0 t) := by
  refine Frame.step h (l := { lane := true }) ?_ hk
  clear h hk
  unfold tempRefresh
  repeat' first
    | (extract_lets +onlyGivenNames -merge -underBinder x; first | (with_reducible refine Frame.cutTo (t := x) ?_ ?_; rotate_left; (try clear_value x); rename _ => y; intro hx; rotate_left; clear_value (hh : x = _); subst hh) | (clear_value x; rename _ => y) | (have hq := x; clear hq; rename _ => y))
    | with_reducible exact Frame.ofMk (by first | exact Frame.refl | assumption) frSame frSame frSame frSame frSame frSame frSame frSame frSame frMine frSame frSame frSame frSame frSame frSame frSame frSame frSame frSame rfl rfl rfl (.inr .refl) (.inr .refl)
    | with_reducible apply Frame.refl
    | with_reducible assumption

theorem execLaneTempRefresh_frame {s t : State} {a0 : Int} (e : execLaneTempRefresh a0 s = .next t) :
    Frame { lane := true } s t := by
  unfold execLaneTempRefresh at e
  refine Frame.act ?_ e
  clear e
  try dsimp -zeta only
  repeat' first
    | with_reducible refine tempRefresh_frame ?_ (by with_unfolding_all rfl)
    | with_reducible apply Frame.refl
    | with_reducible assumption

theorem feReady_frame {k : Parts} {s t : State} {a0 : LaneIx}
    (h : Frame k s t) (hk : sub { lane := true } k = true) :
    Frame k s (feReady a0 t) := by
  refine Frame.step h (l := { lane := true }) ?_ hk
  clear h hk
  unfold feReady
  repeat' first
    | (extract_lets +onlyGivenNames -merge -underBinder x; first | (with_reducible refine Frame.cutTo (t := x) ?_ ?_; rotate_left; (try clear_value x); rename _ => y; intro hx; rotate_left; clear_value (hh : x = _); subst hh) | (clear_value x; rename _ => y) | (have hq := x; clear hq; rename _ => y))
    | with_reducible refine setLane_frame ?_ (by with_unfolding_all rfl)
    | with_reducible apply Frame.ite
    | with_reducible exact Frame.ofMk (by first | exact Frame.refl | assumption) frSame frSame frSame frSame frSame frSame frSame frSame frSame frMine frSame frSame frSame frSame frSame frSame frSame frSame frSame frSame rfl rfl rfl (.inr .refl) (.inr .refl)
    | with_reducible apply Frame.refl
    | with_reducible assumption
    | split

theorem execFeReady_frame {s t : State} {a0 : LaneIx} (e : execFeReady a0 s = .next t) :
    Frame { lane := true } s t := by
  unfold execFeReady at e
  refine Frame.act ?_ e
  clear e
  try dsimp -zeta only
  repeat' first
    | with_reducible refine feReady_frame ?_ (by with_unfolding_all rfl)
    | with_reducible apply Frame.refl
    | with_reducible assumption

theorem readerFail_frame {k : Parts} {s t : State} {a0 : LaneIx} {a1 : Fin 4}
    (h : Frame k s t) (hk : sub partsEngineFaultW k = true) :
    Frame k s (readerFail a0 a1 t) := by
  refine Frame.step h (l := partsEngineFaultW) ?_ hk
  clear h hk
  unfold readerFail
  repeat' first
    | (extract_lets +onlyGivenNames -merge -underBinder x; first | (with_reducible refine Frame.cutTo (t := x) ?_ ?_; rotate_left; (try clear_value x); rename _ => y; intro hx; rotate_left; clear_value (hh : x = _); subst hh) | (have hq : Flt := x; clear hq; rename _ => y) | (have hq : Sys := x; clear hq; rename _ => y) | (clear_value x; rename _ => y) | (have hq := x; clear hq; rename _ => y))
    | with_reducible refine feEvent_frame ?_ (by with_unfolding_all rfl)
    | with_reducible refine setLane_frame ?_ (by with_unfolding_all rfl)
    | with_reducible refine Frame.getDMap ?_ (fun _ => ?_)
    | with_reducible apply Frame.getD
    | with_reducible exact Frame.ofMk (by first | exact Frame.refl | assumption) frMine frMine frSame frSame frMine frMine frMine frSame frMine frMine frMine frSame frMine frMine frMine frMine frMine frMine frMine frSame rfl rfl rfl (by first | exact .inr .refl | exact .inr ⟨rfl, rfl, rfl, rfl, id⟩ | exact .inr ⟨rfl, rfl, rfl, rfl, fun _ => rfl⟩ | exact .inr (.ite ⟨rfl, rfl, rfl, rfl, id⟩ ⟨rfl, rfl, rfl, rfl, id⟩)) (by first | exact .inr .refl | exact .inr ⟨rfl, rfl, rfl, rfl⟩ | exact .inr (addFaultRecord_binds _ _) | with_unfolding_all exact .inr ⟨rfl, rfl, rfl, rfl⟩)
    | with_reducible apply Frame.refl
    | with_reducible assumption
    | intro _ _ _
    | intro _ _

theorem execReaderFail_frame {s t : State} {a0 : LaneIx} {a1 : Fin 4} (e : execReaderFail a0 a1 s = .next t) :
    Frame partsEngineFaultW s t := by
  unfold execReaderFail at e
  refine Frame.act ?_ e
  clear e
  try dsimp -zeta only
  repeat' first
    | with_reducible refine readerFail_frame ?_ (by with_unfolding_all rfl)
    | with_reducible apply Frame.refl
    | with_reducible assumption

theorem paQueue_frame {k : Parts} {s t : State} {a0 : LaneIx} {a1 : Word}
    (h : Frame k s t) (hk : sub partsEngineFaultW k = true) :
    Frame k s (paQueue a0 a1 t) := by
  refine Frame.step h (l := partsEngineFaultW) ?_ hk
  clear h hk
  unfold paQueue
  repeat' first
    | (extract_lets +onlyGivenNames -merge -underBinder x; first | (with_reducible refine Frame.cutTo (t := x) ?_ ?_; rotate_left; (try clear_value x); rename _ => y; intro hx; rotate_left; clear_value (hh : x = _); subst hh) | (have hq : Flt := x; clear hq; rename _ => y) | (have hq : Sys := x; clear hq; rename _ => y) | (clear_value x; rename _ => y) | (have hq := x; clear hq; rename _ => y))
    | with_reducible refine feEvent_frame ?_ (by with_unfolding_all rfl)
    | with_reducible refine setLane_frame ?_ (by with_unfolding_all rfl)
    | with_reducible apply Frame.ite
    | with_reducible exact Frame.ofMk (by first | exact Frame.refl | assumption) frMine frMine frSame frSame frMine frMine frMine frSame frMine frMine frMine frSame frMine frMine frMine frMine frMine frMine frMine frSame rfl rfl rfl (by first | exact .inr .refl | exact .inr ⟨rfl, rfl, rfl, rfl, id⟩ | exact .inr ⟨rfl, rfl, rfl, rfl, fun _ => rfl⟩ | exact .inr (.ite ⟨rfl, rfl, rfl, rfl, id⟩ ⟨rfl, rfl, rfl, rfl, id⟩)) (by first | exact .inr .refl | exact .inr ⟨rfl, rfl, rfl, rfl⟩ | exact .inr (addFaultRecord_binds _ _) | with_unfolding_all exact .inr ⟨rfl, rfl, rfl, rfl⟩)
    | with_reducible apply Frame.refl
    | with_reducible assumption
    | split

theorem execPaCmdQueue_frame {s t : State} {a0 : LaneIx} {a1 : Word} (e : execPaCmdQueue a0 a1 s = .next t) :
    Frame partsEngineFaultW s t := by
  unfold execPaCmdQueue at e
  refine Frame.act ?_ e
  clear e
  try dsimp -zeta only
  repeat' first
    | with_reducible refine paQueue_frame ?_ (by with_unfolding_all rfl)
    | with_reducible apply Frame.refl
    | with_reducible assumption

theorem paSend_frame {k : Parts} {s t : State} {a0 : LaneIx} {a1 : Byte}
    (h : Frame k s t) (hk : sub partsEngineFaultW k = true) :
    Frame k s (paSend a0 a1 t) := by
  refine Frame.step h (l := partsEngineFaultW) ?_ hk
  clear h hk
  unfold paSend
  repeat' first
    | (extract_lets +onlyGivenNames -merge -underBinder x; first | (with_reducible refine Frame.cutTo (t := x) ?_ ?_; rotate_left; (try clear_value x); rename _ => y; intro hx; rotate_left; clear_value (hh : x = _); subst hh) | (have hq : Flt := x; clear hq; rename _ => y) | (have hq : Sys := x; clear hq; rename _ => y) | (clear_value x; rename _ => y) | (have hq := x; clear hq; rename _ => y))
    | with_reducible refine setLane_frame ?_ (by with_unfolding_all rfl)
    | with_reducible refine paQueue_frame ?_ (by with_unfolding_all rfl)
    | with_reducible apply Frame.ite
    | with_reducible exact Frame.ofMk (by first | exact Frame.refl | assumption) frMine frMine frSame frSame frMine frMine frMine frSame frMine frMine frMine frSame frMine frMine frMine frMine frMine frMine frMine frSame rfl rfl rfl (by first | exact .inr .refl | exact .inr ⟨rfl, rfl, rfl, rfl, id⟩ | exact .inr ⟨rfl, rfl, rfl, rfl, fun _ => rfl⟩ | exact .inr (.ite ⟨rfl, rfl, rfl, rfl, id⟩ ⟨rfl, rfl, rfl, rfl, id⟩)) (by first | exact .inr .refl | exact .inr ⟨rfl, rfl, rfl, rfl⟩ | exact .inr (addFaultRecord_binds _ _) | with_unfolding_all exact .inr ⟨rfl, rfl, rfl, rfl⟩)
    | with_reducible apply Frame.refl
    | with_reducible assumption
    | split

theorem execPaFrameSend_frame {s t : State} {a0 : LaneIx} {a1 : Byte} (e : execPaFrameSend a0 a1 s = .next t) :
    Frame partsEngineFaultW s t := by
  unfold execPaFrameSend at e
  refine Frame.act ?_ e
  clear e
  try dsimp -zeta only
  repeat' first
    | with_reducible refine paSend_frame ?_ (by with_unfolding_all rfl)
    | with_reducible apply Frame.refl
    | with_reducible assumption

theorem addGrown_frame {k : Parts} {s t : State} {a0 : Defect}
    (h : Frame k s t) (hk : sub { media := true, stc := true } k = true) :
    Frame k s (addGrown a0 t) := by
  refine Frame.step h (l := { media := true, stc := true }) ?_ hk
  clear h hk
  unfold addGrown
  repeat' first
    | (extract_lets +onlyGivenNames -merge -underBinder x; first | (with_reducible refine Frame.cutTo (t := x) ?_ ?_; rotate_left; (try clear_value x); rename _ => y; intro hx; rotate_left; clear_value (hh : x = _); subst hh) | (clear_value x; rename _ => y) | (have hq := x; clear hq; rename _ => y))
    | with_reducible refine stcEntry_frame ?_ (by with_unfolding_all rfl)
    | with_reducible apply Frame.ite
    | with_reducible exact Frame.ofMk (by first | exact Frame.refl | assumption) frSame frSame frSame frSame frSame frSame frSame frSame frSame frSame frSame frMine frSame frSame frSame frMine frSame frSame frSame frSame rfl rfl rfl (.inr .refl) (.inr .refl)
    | with_reducible apply Frame.refl
    | with_reducible assumption
    | split

theorem relocate_frame {k : Parts} {s t : State} {a0 : TrackAt} {a1 : Nat}
    (h : Frame k s t) (hk : sub { media := true, arr := true, hif := true } k = true) :
    Frame k s (relocate a0 a1 t) := by
  refine Frame.step h (l := { media := true, arr := true, hif := true }) ?_ hk
  clear h hk
  unfold relocate
  repeat' first
    | (extract_lets +onlyGivenNames -merge -underBinder x; first | (with_reducible refine Frame.cutTo (t := x) ?_ ?_; rotate_left; (try clear_value x); rename _ => y; intro hx; rotate_left; clear_value (hh : x = _); subst hh) | (clear_value x; rename _ => y) | (have hq := x; clear hq; rename _ => y))
    | with_reducible refine spareShort_frame ?_ (by with_unfolding_all rfl)
    | with_reducible refine takeSpare_frame ?_ (by with_unfolding_all rfl)
    | with_reducible apply Frame.ite
    | with_reducible exact Frame.ofMk (by first | exact Frame.refl | assumption) frSame frSame frSame frSame frSame frSame frSame frSame frSame frSame frSame frMine frSame frSame frSame frSame frSame frMine frMine frSame rfl rfl rfl (.inr .refl) (.inr .refl)
    | with_reducible apply Frame.refl
    | with_reducible assumption
    | split

theorem recoverLate_frame {k : Parts} {s t : State} {a0 : TrackAt} {a1 : Nat}
    (h : Frame k s t) (hk : sub { media := true, stc := true, arr := true, hif := true } k = true) :
    Frame k s (recoverLate a0 a1 t) := by
  refine Frame.step h (l := { media := true, stc := true, arr := true, hif := true }) ?_ hk
  clear h hk
  unfold recoverLate
  repeat' first
    | (extract_lets +onlyGivenNames -merge -underBinder x; first | (with_reducible refine Frame.cutTo (t := x) ?_ ?_; rotate_left; (try clear_value x); rename _ => y; intro hx; rotate_left; clear_value (hh : x = _); subst hh) | (clear_value x; rename _ => y) | (have hq := x; clear hq; rename _ => y))
    | with_reducible refine relocate_frame ?_ (by with_unfolding_all rfl)
    | with_reducible refine addGrown_frame ?_ (by with_unfolding_all rfl)
    | with_reducible apply Frame.ite
    | with_reducible exact Frame.ofMk (by first | exact Frame.refl | assumption) frSame frSame frSame frSame frSame frSame frSame frSame frSame frSame frSame frMine frSame frSame frSame frMine frSame frMine frMine frSame rfl rfl rfl (.inr .refl) (.inr .refl)
    | with_reducible apply Frame.refl
    | with_reducible assumption
    | split

theorem deliver_frame {k : Parts} {s t : State} {a0 : LaneIx} {a1 : TrackAt} {a2 : Nat} {a3 : Nat} {a4 : Nat}
    (h : Frame k s t) (hk : sub partsDeliver k = true) :
    Frame k s (deliver a0 a1 a2 a3 a4 t) := by
  refine Frame.step h (l := partsDeliver) ?_ hk
  clear h hk
  unfold deliver
  repeat' first
    | (extract_lets +onlyGivenNames -merge -underBinder x; first | (with_reducible refine Frame.cutTo (t := x) ?_ ?_; rotate_left; (try clear_value x); rename _ => y; intro hx; rotate_left; clear_value (hh : x = _); subst hh) | (clear_value x; rename _ => y) | (have hq := x; clear hq; rename _ => y))
    | with_reducible refine cryptSector_frame ?_ (by with_unfolding_all rfl)
    | with_reducible refine stcEntry_frame ?_ (by with_unfolding_all rfl)
    | with_reducible refine setLane_frame ?_ (by with_unfolding_all rfl)
    | with_reducible refine recoverLate_frame ?_ (by with_unfolding_all rfl)
    | with_reducible apply Frame.ite
    | with_reducible exact Frame.ofMk (by first | exact Frame.refl | assumption) frSame frSame frSame frSame frSame frSame frSame frSame frSame frMine frSame frMine frSame frSame frSame frMine frSame frMine frMine frSame rfl rfl rfl (.inr .refl) (.inr .refl)
    | with_reducible apply Frame.refl
    | with_reducible assumption
    | split

theorem giveUp_frame {k : Parts} {s t : State} {a0 : LaneIx} {a1 : TrackAt} {a2 : Nat} {a3 : Nat} {a4 : Bool}
    (h : Frame k s t) (hk : sub partsGaugeEntryApply k = true) :
    Frame k s (giveUp a0 a1 a2 a3 a4 t) := by
  refine Frame.step h (l := partsGaugeEntryApply) ?_ hk
  clear h hk
  unfold giveUp
  repeat' first
    | (extract_lets +onlyGivenNames -merge -underBinder x; first | (with_reducible refine Frame.cutTo (t := x) ?_ ?_; rotate_left; (try clear_value x); rename _ => y; intro hx; rotate_left; clear_value (hh : x = _); subst hh) | (have hq : Flt := x; clear hq; rename _ => y) | (have hq : Sys := x; clear hq; rename _ => y) | (clear_value x; rename _ => y) | (have hq := x; clear hq; rename _ => y))
    | with_reducible refine setLane_frame ?_ (by with_unfolding_all rfl)
    | with_reducible refine decEvent_frame ?_ (by with_unfolding_all rfl)
    | with_reducible refine stcEntry_frame ?_ (by with_unfolding_all rfl)
    | with_reducible apply Frame.ite
    | with_reducible exact Frame.ofMk (by first | exact Frame.refl | assumption) frMine frMine frSame frSame frMine frMine frMine frSame frMine frMine frMine frMine frMine frMine frMine frMine frMine frMine frMine frSame rfl rfl rfl (by first | exact .inr .refl | exact .inr ⟨rfl, rfl, rfl, rfl, id⟩ | exact .inr ⟨rfl, rfl, rfl, rfl, fun _ => rfl⟩ | exact .inr (.ite ⟨rfl, rfl, rfl, rfl, id⟩ ⟨rfl, rfl, rfl, rfl, id⟩)) (by first | exact .inr .refl | exact .inr ⟨rfl, rfl, rfl, rfl⟩ | exact .inr (addFaultRecord_binds _ _) | with_unfolding_all exact .inr ⟨rfl, rfl, rfl, rfl⟩)
    | with_reducible apply Frame.refl
    | with_reducible assumption
    | split

theorem climb_frame {k : Parts} {s t : State} {a0 : LaneIx} {a1 : Ladder} {a2 : Nat}
    (h : Frame k s t) (hk : sub partsGaugeEntryApply k = true) :
    Frame k s (climb a0 a1 a2 t) := by
  refine Frame.step h (l := partsGaugeEntryApply) ?_ hk
  clear h hk
  unfold climb
  repeat' first
    | (extract_lets +onlyGivenNames -merge -underBinder x; first | (with_reducible refine Frame.cutTo (t := x) ?_ ?_; rotate_left; (try clear_value x); rename _ => y; intro hx; rotate_left; clear_value (hh : x = _); subst hh) | (have hq : Flt := x; clear hq; rename _ => y) | (have hq : Sys := x; clear hq; rename _ => y) | (clear_value x; rename _ => y) | (have hq := x; clear hq; rename _ => y))
    | with_reducible refine giveUp_frame ?_ (by with_unfolding_all rfl)
    | with_reducible refine setLane_frame ?_ (by with_unfolding_all rfl)
    | with_reducible apply Frame.ite
    | with_reducible exact Frame.ofMk (by first | exact Frame.refl | assumption) frMine frMine frSame frSame frMine frMine frMine frSame frMine frMine frMine frMine frMine frMine frMine frMine frMine frMine frMine frSame rfl rfl rfl (by first | exact .inr .refl | exact .inr ⟨rfl, rfl, rfl, rfl, id⟩ | exact .inr ⟨rfl, rfl, rfl, rfl, fun _ => rfl⟩ | exact .inr (.ite ⟨rfl, rfl, rfl, rfl, id⟩ ⟨rfl, rfl, rfl, rfl, id⟩)) (by first | exact .inr .refl | exact .inr ⟨rfl, rfl, rfl, rfl⟩ | exact .inr (addFaultRecord_binds _ _) | with_unfolding_all exact .inr ⟨rfl, rfl, rfl, rfl⟩)
    | with_reducible apply Frame.refl
    | with_reducible assumption
    | split

theorem enterRetry_frame {k : Parts} {s t : State} {a0 : LaneIx} {a1 : Nat} {a2 : Nat}
    (h : Frame k s t) (hk : sub partsGaugeEntryApply k = true) :
    Frame k s (enterRetry a0 a1 a2 t) := by
  refine Frame.step h (l := partsGaugeEntryApply) ?_ hk
  clear h hk
  unfold enterRetry
  repeat' first
    | with_reducible refine climb_frame ?_ (by with_unfolding_all rfl)
    | with_reducible apply Frame.refl
    | with_reducible assumption

theorem readerMeasure_frame {k : Parts} {s t : State} {a0 : LaneIx} {a1 : Fin 4} {a2 : ReaderStat}
    (h : Frame k s t) (hk : sub partsEngineFaultW k = true) :
    Frame k s (readerMeasure a0 a1 a2 t) := by
  refine Frame.step h (l := partsEngineFaultW) ?_ hk
  clear h hk
  unfold readerMeasure
  repeat' first
    | (extract_lets +onlyGivenNames -merge -underBinder x; first | (with_reducible refine Frame.cutTo (t := x) ?_ ?_; rotate_left; (try clear_value x); rename _ => y; intro hx; rotate_left; clear_value (hh : x = _); subst hh) | (have hq : Flt := x; clear hq; rename _ => y) | (have hq : Sys := x; clear hq; rename _ => y) | (clear_value x; rename _ => y) | (have hq := x; clear hq; rename _ => y))
    | with_reducible refine setLane_frame ?_ (by with_unfolding_all rfl)
    | with_reducible refine readerFail_frame ?_ (by with_unfolding_all rfl)
    | with_reducible refine scheduleCal_frame ?_ (by with_unfolding_all rfl)
    | with_reducible refine feEvent_frame ?_ (by with_unfolding_all rfl)
    | with_reducible apply Frame.ite
    | with_reducible exact Frame.ofMk (by first | exact Frame.refl | assumption) frMine frMine frSame frSame frMine frMine frMine frSame frMine frMine frMine frSame frMine frMine frMine frMine frMine frMine frMine frSame rfl rfl rfl (by first | exact .inr .refl | exact .inr ⟨rfl, rfl, rfl, rfl, id⟩ | exact .inr ⟨rfl, rfl, rfl, rfl, fun _ => rfl⟩ | exact .inr (.ite ⟨rfl, rfl, rfl, rfl, id⟩ ⟨rfl, rfl, rfl, rfl, id⟩)) (by first | exact .inr .refl | exact .inr ⟨rfl, rfl, rfl, rfl⟩ | exact .inr (addFaultRecord_binds _ _) | with_unfolding_all exact .inr ⟨rfl, rfl, rfl, rfl⟩)
    | with_reducible apply Frame.refl
    | with_reducible assumption
    | split

theorem eqDiverged_frame {k : Parts} {s t : State} {a0 : LaneIx}
    (h : Frame k s t) (hk : sub partsEngineFaultW k = true) :
    Frame k s (eqDiverged a0 t) := by
  refine Frame.step h (l := partsEngineFaultW) ?_ hk
  clear h hk
  unfold eqDiverged
  repeat' first
    | (extract_lets +onlyGivenNames -merge -underBinder x; first | (with_reducible refine Frame.cutTo (t := x) ?_ ?_; rotate_left; (try clear_value x); rename _ => y; intro hx; rotate_left; clear_value (hh : x = _); subst hh) | (have hq : Flt := x; clear hq; rename _ => y) | (have hq : Sys := x; clear hq; rename _ => y) | (clear_value x; rename _ => y) | (have hq := x; clear hq; rename _ => y))
    | with_reducible refine feEvent_frame ?_ (by with_unfolding_all rfl)
    | with_reducible refine setLane_frame ?_ (by with_unfolding_all rfl)
    | with_reducible refine scheduleCal_frame ?_ (by with_unfolding_all rfl)
    | with_reducible apply Frame.ite
    | with_reducible exact Frame.ofMk (by first | exact Frame.refl | assumption) frMine frMine frSame frSame frMine frMine frMine frSame frMine frMine frMine frSame frMine frMine frMine frMine frMine frMine frMine frSame rfl rfl rfl (by first | exact .inr .refl | exact .inr ⟨rfl, rfl, rfl, rfl, id⟩ | exact .inr ⟨rfl, rfl, rfl, rfl, fun _ => rfl⟩ | exact .inr (.ite ⟨rfl, rfl, rfl, rfl, id⟩ ⟨rfl, rfl, rfl, rfl, id⟩)) (by first | exact .inr .refl | exact .inr ⟨rfl, rfl, rfl, rfl⟩ | exact .inr (addFaultRecord_binds _ _) | with_unfolding_all exact .inr ⟨rfl, rfl, rfl, rfl⟩)
    | with_reducible apply Frame.refl
    | with_reducible assumption
    | split

theorem gaugeFeed_frame {k : Parts} {s t : State} {a0 : LaneIx} {a1 : Nat} {a2 : Nat} {a3 : Bool} {a4 : Int} {a5 : Int} {a6 : Bool}
    (h : Frame k s t) (hk : sub { yck := true } k = true) :
    Frame k s (gaugeFeed a0 a1 a2 a3 a4 a5 a6 t) := by
  refine Frame.step h (l := { yck := true }) ?_ hk
  clear h hk
  unfold gaugeFeed
  repeat' first
    | (extract_lets +onlyGivenNames -merge -underBinder x; first | (with_reducible refine Frame.cutTo (t := x) ?_ ?_; rotate_left; (try clear_value x); rename _ => y; intro hx; rotate_left; clear_value (hh : x = _); subst hh) | (clear_value x; rename _ => y) | (have hq := x; clear hq; rename _ => y))
    | with_reducible refine gaugeReport_frame ?_ (by with_unfolding_all rfl)
    | with_reducible apply Frame.foldl
    | with_reducible apply Frame.ite
    | with_reducible exact Frame.ofMk (by first | exact Frame.refl | assumption) frSame frSame frSame frSame frSame frSame frSame frSame frMine frSame frSame frSame frSame frSame frSame frSame frSame frSame frSame frSame rfl rfl rfl (.inr .refl) (.inr .refl)
    | with_reducible apply Frame.refl
    | with_reducible assumption
    | intro _ _ _
    | intro _ _
    | split

theorem sectorReports_frame {k : Parts} {s t : State} {a0 : LaneIx} {a1 : TrackAt} {a2 : Nat} {a3 : Nat} {a4 : Bool} {a5 : Int} {a6 : Int} {a7 : Bool} {a8 : Bool}
    (h : Frame k s t) (hk : sub partsEngineFaultW k = true) :
    Frame k s (sectorReports a0 a1 a2 a3 a4 a5 a6 a7 a8 t) := by
  refine Frame.step h (l := partsEngineFaultW) ?_ hk
  clear h hk
  unfold sectorReports
  repeat' first
    | with_reducible refine gaugeFeed_frame ?_ (by with_unfolding_all rfl)
    | with_reducible refine syncDevReport_frame ?_ (by with_unfolding_all rfl)
    | with_reducible refine stcEntry_frame ?_ (by with_unfolding_all rfl)
    | with_reducible apply Frame.refl
    | with_reducible assumption

theorem attemptFailed_frame {k : Parts} {s t : State} {a0 : LaneIx} {a1 : DecodeResult} {a2 : Nat} {a3 : Int} {a4 : List Int} {a5 : Option Ladder}
    (h : Frame k s t) (hk : sub partsGaugeEntryApply k = true) :
    Frame k s (attemptFailed a0 a1 a2 a3 a4 a5 t) := by
  refine Frame.step h (l := partsGaugeEntryApply) ?_ hk
  clear h hk
  unfold attemptFailed
  repeat' first
    | (extract_lets +onlyGivenNames -merge -underBinder x; first | (with_reducible refine Frame.cutTo (t := x) ?_ ?_; rotate_left; (try clear_value x); rename _ => y; intro hx; rotate_left; clear_value (hh : x = _); subst hh) | (have hq : Flt := x; clear hq; rename _ => y) | (have hq : Sys := x; clear hq; rename _ => y) | (clear_value x; rename _ => y) | (have hq := x; clear hq; rename _ => y))
    | with_reducible refine setLane_frame ?_ (by with_unfolding_all rfl)
    | with_reducible refine feEvent_frame ?_ (by with_unfolding_all rfl)
    | with_reducible refine climb_frame ?_ (by with_unfolding_all rfl)
    | with_reducible refine Frame.getDMap ?_ (fun _ => ?_)
    | with_reducible apply Frame.getD
    | with_reducible apply Frame.ite
    | with_reducible exact Frame.ofMk (by first | exact Frame.refl | assumption) frMine frMine frSame frSame frMine frMine frMine frSame frMine frMine frMine frMine frMine frMine frMine frMine frMine frMine frMine frSame rfl rfl rfl (by first | exact .inr .refl | exact .inr ⟨rfl, rfl, rfl, rfl, id⟩ | exact .inr ⟨rfl, rfl, rfl, rfl, fun _ => rfl⟩ | exact .inr (.ite ⟨rfl, rfl, rfl, rfl, id⟩ ⟨rfl, rfl, rfl, rfl, id⟩)) (by first | exact .inr .refl | exact .inr ⟨rfl, rfl, rfl, rfl⟩ | exact .inr (addFaultRecord_binds _ _) | with_unfolding_all exact .inr ⟨rfl, rfl, rfl, rfl⟩)
    | with_reducible apply Frame.refl
    | with_reducible assumption
    | intro _ _ _
    | intro _ _
    | split

theorem firstAttempt_frame {k : Parts} {s t : State} {a0 : LaneIx} {a1 : DecodeResult}
    (h : Frame k s t) (hk : sub partsEngineFaultW k = true) :
    Frame k s (firstAttempt a0 a1 t) := by
  refine Frame.step h (l := partsEngineFaultW) ?_ hk
  clear h hk
  unfold firstAttempt
  repeat' first
    | (extract_lets +onlyGivenNames -merge -underBinder x; first | (with_reducible refine Frame.cutTo (t := x) ?_ ?_; rotate_left; (try clear_value x); rename _ => y; intro hx; rotate_left; clear_value (hh : x = _); subst hh) | (have hq : Flt := x; clear hq; rename _ => y) | (have hq : Sys := x; clear hq; rename _ => y) | (clear_value x; rename _ => y) | (have hq := x; clear hq; rename _ => y))
    | with_reducible refine readerMeasure_frame ?_ (by with_unfolding_all rfl)
    | with_reducible refine setLane_frame ?_ (by with_unfolding_all rfl)
    | with_reducible apply Frame.foldl
    | with_reducible exact Frame.ofMk (by first | exact Frame.refl | assumption) frMine frMine frSame frSame frMine frMine frMine frSame frMine frMine frMine frSame frMine frMine frMine frMine frMine frMine frMine frSame rfl rfl rfl (by first | exact .inr .refl | exact .inr ⟨rfl, rfl, rfl, rfl, id⟩ | exact .inr ⟨rfl, rfl, rfl, rfl, fun _ => rfl⟩ | exact .inr (.ite ⟨rfl, rfl, rfl, rfl, id⟩ ⟨rfl, rfl, rfl, rfl, id⟩)) (by first | exact .inr .refl | exact .inr ⟨rfl, rfl, rfl, rfl⟩ | exact .inr (addFaultRecord_binds _ _) | with_unfolding_all exact .inr ⟨rfl, rfl, rfl, rfl⟩)
    | with_reducible apply Frame.refl
    | with_reducible assumption
    | intro _ _ _
    | intro _ _

theorem tapsRevert_frame {k : Parts} {s t : State} {a0 : LaneIx}
    (h : Frame k s t) (hk : sub { lane := true } k = true) :
    Frame k s (tapsRevert a0 t) := by
  refine Frame.step h (l := { lane := true }) ?_ hk
  clear h hk
  unfold tapsRevert
  repeat' first
    | (extract_lets +onlyGivenNames -merge -underBinder x; first | (with_reducible refine Frame.cutTo (t := x) ?_ ?_; rotate_left; (try clear_value x); rename _ => y; intro hx; rotate_left; clear_value (hh : x = _); subst hh) | (clear_value x; rename _ => y) | (have hq := x; clear hq; rename _ => y))
    | with_reducible refine setLane_frame ?_ (by with_unfolding_all rfl)
    | with_reducible apply Frame.ite
    | with_reducible exact Frame.ofMk (by first | exact Frame.refl | assumption) frSame frSame frSame frSame frSame frSame frSame frSame frSame frMine frSame frSame frSame frSame frSame frSame frSame frSame frSame frSame rfl rfl rfl (.inr .refl) (.inr .refl)
    | with_reducible apply Frame.refl
    | with_reducible assumption
    | split

theorem decodeDone_frame {k : Parts} {s t : State} {a0 : LaneIx} {a1 : DecodeResult}
    (h : Frame k s t) (hk : sub partsGaugeEntryApply k = true) :
    Frame k s (decodeDone a0 a1 t) := by
  refine Frame.step h (l := partsGaugeEntryApply) ?_ hk
  clear h hk
  unfold decodeDone
  repeat' first
    | (extract_lets +onlyGivenNames -merge -underBinder x; first | (with_reducible refine Frame.cutTo (t := x) ?_ ?_; rotate_left; (try clear_value x); rename _ => y; intro hx; rotate_left; clear_value (hh : x = _); subst hh) | (have hq : Flt := x; clear hq; rename _ => y) | (have hq : Sys := x; clear hq; rename _ => y) | (clear_value x; rename _ => y) | (have hq := x; clear hq; rename _ => y))
    | with_reducible refine firstAttempt_frame ?_ (by with_unfolding_all rfl)
    | with_reducible refine enterRetry_frame ?_ (by with_unfolding_all rfl)
    | with_reducible refine stcEntry_frame ?_ (by with_unfolding_all rfl)
    | with_reducible refine eqDiverged_frame ?_ (by with_unfolding_all rfl)
    | with_reducible refine decEvent_frame ?_ (by with_unfolding_all rfl)
    | with_reducible refine setLane_frame ?_ (by with_unfolding_all rfl)
    | with_reducible refine sectorReports_frame ?_ (by with_unfolding_all rfl)
    | with_reducible refine deliver_frame ?_ (by with_unfolding_all rfl)
    | with_reducible refine attemptFailed_frame ?_ (by with_unfolding_all rfl)
    | with_reducible refine tapsRevert_frame ?_ (by with_unfolding_all rfl)
    | with_reducible refine Frame.getDMap ?_ (fun _ => ?_)
    | with_reducible apply Frame.getD
    | with_reducible apply Frame.ite
    | with_reducible exact Frame.ofMk (by first | exact Frame.refl | assumption) frMine frMine frSame frSame frMine frMine frMine frSame frMine frMine frMine frMine frMine frMine frMine frMine frMine frMine frMine frSame rfl rfl rfl (by first | exact .inr .refl | exact .inr ⟨rfl, rfl, rfl, rfl, id⟩ | exact .inr ⟨rfl, rfl, rfl, rfl, fun _ => rfl⟩ | exact .inr (.ite ⟨rfl, rfl, rfl, rfl, id⟩ ⟨rfl, rfl, rfl, rfl, id⟩)) (by first | exact .inr .refl | exact .inr ⟨rfl, rfl, rfl, rfl⟩ | exact .inr (addFaultRecord_binds _ _) | with_unfolding_all exact .inr ⟨rfl, rfl, rfl, rfl⟩)
    | with_reducible apply Frame.refl
    | with_reducible assumption
    | assumption
    | intro _ _ _
    | intro _ _
    | split

theorem execDecodeAttemptDone_frame {s t : State} {a0 : LaneIx} {a1 : DecodeResult} (e : execDecodeAttemptDone a0 a1 s = .next t) :
    Frame partsGaugeEntryApply s t := by
  unfold execDecodeAttemptDone at e
  refine Frame.act ?_ e
  clear e
  try dsimp -zeta only
  repeat' first
    | with_reducible refine decodeDone_frame ?_ (by with_unfolding_all rfl)
    | with_reducible apply Frame.refl
    | with_reducible assumption

theorem rung2Skip_frame {k : Parts} {s t : State} {a0 : LaneIx} {a1 : Ladder}
    (h : Frame k s t) (hk : sub partsGaugeEntryApply k = true) :
    Frame k s (rung2Skip a0 a1 t) := by
  refine Frame.step h (l := partsGaugeEntryApply) ?_ hk
  clear h hk
  unfold rung2Skip
  repeat' first
    | with_reducible refine climb_frame ?_ (by with_unfolding_all rfl)
    | with_reducible refine decEvent_frame ?_ (by with_unfolding_all rfl)
    | with_reducible apply Frame.refl
    | with_reducible assumption

theorem deepRequest_frame {k : Parts} {s t : State} {a0 : LaneIx} {a1 : Nat} {a2 : Nat}
    (h : Frame k s t) (hk : sub partsGaugeEntryApply k = true) :
    Frame k s (deepRequest a0 a1 a2 t) := by
  refine Frame.step h (l := partsGaugeEntryApply) ?_ hk
  clear h hk
  unfold deepRequest
  repeat' first
    | (extract_lets +onlyGivenNames -merge -underBinder x; first | (with_reducible refine Frame.cutTo (t := x) ?_ ?_; rotate_left; (try clear_value x); rename _ => y; intro hx; rotate_left; clear_value (hh : x = _); subst hh) | (have hq : Flt := x; clear hq; rename _ => y) | (have hq : Sys := x; clear hq; rename _ => y) | (clear_value x; rename _ => y) | (have hq := x; clear hq; rename _ => y))
    | with_reducible refine climb_frame ?_ (by with_unfolding_all rfl)
    | with_reducible refine rung2Skip_frame ?_ (by with_unfolding_all rfl)
    | with_reducible refine feEvent_frame ?_ (by with_unfolding_all rfl)
    | with_reducible refine ddpEvent_frame ?_ (by with_unfolding_all rfl)
    | with_reducible refine setLane_frame ?_ (by with_unfolding_all rfl)
    | with_reducible refine Frame.getDMap ?_ (fun _ => ?_)
    | with_reducible apply Frame.getD
    | with_reducible apply Frame.ite
    | with_reducible exact Frame.ofMk (by first | exact Frame.refl | assumption) frMine frMine frSame frSame frMine frMine frMine frSame frMine frMine frMine frMine frMine frMine frMine frMine frMine frMine frMine frSame rfl rfl rfl (by first | exact .inr .refl | exact .inr ⟨rfl, rfl, rfl, rfl, id⟩ | exact .inr ⟨rfl, rfl, rfl, rfl, fun _ => rfl⟩ | exact .inr (.ite ⟨rfl, rfl, rfl, rfl, id⟩ ⟨rfl, rfl, rfl, rfl, id⟩)) (by first | exact .inr .refl | exact .inr ⟨rfl, rfl, rfl, rfl⟩ | exact .inr (addFaultRecord_binds _ _) | with_unfolding_all exact .inr ⟨rfl, rfl, rfl, rfl⟩)
    | with_reducible apply Frame.refl
    | with_reducible assumption
    | intro _ _ _
    | intro _ _
    | split

theorem execDeepDecodeRequest_frame {s t : State} {a0 : LaneIx} {a1 : Fin 4096} {a2 : Fin 3} (e : execDeepDecodeRequest a0 a1 a2 s = .next t) :
    Frame partsGaugeEntryApply s t := by
  unfold execDeepDecodeRequest at e
  refine Frame.act ?_ e
  clear e
  try dsimp -zeta only
  repeat' first
    | with_reducible refine deepRequest_frame ?_ (by with_unfolding_all rfl)
    | with_reducible apply Frame.refl
    | with_reducible assumption

theorem deepTimeout_frame {k : Parts} {s t : State} {a0 : LaneIx} {a1 : Nat} {a2 : Nat}
    (h : Frame k s t) (hk : sub partsGaugeEntryApply k = true) :
    Frame k s (deepTimeout a0 a1 a2 t) := by
  refine Frame.step h (l := partsGaugeEntryApply) ?_ hk
  clear h hk
  unfold deepTimeout
  repeat' first
    | (extract_lets +onlyGivenNames -merge -underBinder x; first | (with_reducible refine Frame.cutTo (t := x) ?_ ?_; rotate_left; (try clear_value x); rename _ => y; intro hx; rotate_left; clear_value (hh : x = _); subst hh) | (have hq : Flt := x; clear hq; rename _ => y) | (have hq : Sys := x; clear hq; rename _ => y) | (clear_value x; rename _ => y) | (have hq := x; clear hq; rename _ => y))
    | with_reducible refine rung2Skip_frame ?_ (by with_unfolding_all rfl)
    | with_reducible refine ddpEvent_frame ?_ (by with_unfolding_all rfl)
    | with_reducible exact Frame.ofMk (by first | exact Frame.refl | assumption) frMine frMine frSame frSame frMine frMine frMine frSame frMine frMine frMine frMine frMine frMine frMine frMine frMine frMine frMine frSame rfl rfl rfl (by first | exact .inr .refl | exact .inr ⟨rfl, rfl, rfl, rfl, id⟩ | exact .inr ⟨rfl, rfl, rfl, rfl, fun _ => rfl⟩ | exact .inr (.ite ⟨rfl, rfl, rfl, rfl, id⟩ ⟨rfl, rfl, rfl, rfl, id⟩)) (by first | exact .inr .refl | exact .inr ⟨rfl, rfl, rfl, rfl⟩ | exact .inr (addFaultRecord_binds _ _) | with_unfolding_all exact .inr ⟨rfl, rfl, rfl, rfl⟩)
    | with_reducible apply Frame.refl
    | with_reducible assumption
    | split

theorem execDeepWaitTimeout_frame {s t : State} {a0 : LaneIx} {a1 : Fin 4096} {a2 : Fin 3} (e : execDeepWaitTimeout a0 a1 a2 s = .next t) :
    Frame partsGaugeEntryApply s t := by
  unfold execDeepWaitTimeout at e
  refine Frame.act ?_ e
  clear e
  try dsimp -zeta only
  repeat' first
    | with_reducible refine deepTimeout_frame ?_ (by with_unfolding_all rfl)
    | with_reducible apply Frame.refl
    | with_reducible assumption

theorem deepDone_frame {k : Parts} {s t : State} {a0 : Fin 2} {a1 : DeepResult}
    (h : Frame k s t) (hk : sub partsGaugeEntryApply k = true) :
    Frame k s (deepDone a0 a1 t) := by
  refine Frame.step h (l := partsGaugeEntryApply) ?_ hk
  clear h hk
  unfold deepDone
  repeat' first
    | (extract_lets +onlyGivenNames -merge -underBinder x; first | (with_reducible refine Frame.cutTo (t := x) ?_ ?_; rotate_left; (try clear_value x); rename _ => y; intro hx; rotate_left; clear_value (hh : x = _); subst hh) | (have hq : Flt := x; clear hq; rename _ => y) | (have hq : Sys := x; clear hq; rename _ => y) | (clear_value x; rename _ => y) | (have hq := x; clear hq; rename _ => y))
    | with_reducible refine decEvent_frame ?_ (by with_unfolding_all rfl)
    | with_reducible refine setLane_frame ?_ (by with_unfolding_all rfl)
    | with_reducible refine sectorReports_frame ?_ (by with_unfolding_all rfl)
    | with_reducible refine deliver_frame ?_ (by with_unfolding_all rfl)
    | with_reducible refine climb_frame ?_ (by with_unfolding_all rfl)
    | with_reducible apply Frame.ite
    | with_reducible exact Frame.ofMk (by first | exact Frame.refl | assumption) frMine frMine frSame frSame frMine frMine frMine frSame frMine frMine frMine frMine frMine frMine frMine frMine frMine frMine frMine frSame rfl rfl rfl (by first | exact .inr .refl | exact .inr ⟨rfl, rfl, rfl, rfl, id⟩ | exact .inr ⟨rfl, rfl, rfl, rfl, fun _ => rfl⟩ | exact .inr (.ite ⟨rfl, rfl, rfl, rfl, id⟩ ⟨rfl, rfl, rfl, rfl, id⟩)) (by first | exact .inr .refl | exact .inr ⟨rfl, rfl, rfl, rfl⟩ | exact .inr (addFaultRecord_binds _ _) | with_unfolding_all exact .inr ⟨rfl, rfl, rfl, rfl⟩)
    | with_reducible apply Frame.refl
    | with_reducible assumption
    | assumption
    | split

theorem execDeepDecodeDone_frame {s t : State} {a0 : Fin 2} {a1 : DeepResult} (e : execDeepDecodeDone a0 a1 s = .next t) :
    Frame partsGaugeEntryApply s t := by
  unfold execDeepDecodeDone at e
  refine Frame.act ?_ e
  clear e
  try dsimp -zeta only
  repeat' first
    | with_reducible refine deepDone_frame ?_ (by with_unfolding_all rfl)
    | with_reducible apply Frame.refl
    | with_reducible assumption

theorem setRefOfs_frame {k : Parts} {s t : State} {a0 : LaneIx} {a1 : Int}
    (h : Frame k s t) (hk : sub { srv := true } k = true) :
    Frame k s (setRefOfs a0 a1 t) := by
  refine Frame.step h (l := { srv := true }) ?_ hk
  clear h hk
  unfold setRefOfs
  repeat' first
    | (extract_lets +onlyGivenNames -merge -underBinder x; first | (with_reducible refine Frame.cutTo (t := x) ?_ ?_; rotate_left; (try clear_value x); rename _ => y; intro hx; rotate_left; clear_value (hh : x = _); subst hh) | (clear_value x; rename _ => y) | (have hq := x; clear hq; rename _ => y))
    | with_reducible exact Frame.ofMk (by first | exact Frame.refl | assumption) frSame frSame frSame frSame frSame frMine frSame frSame frSame frSame frSame frSame frSame frSame frSame frSame frSame frSame frSame frSame rfl rfl rfl (.inr .refl) (.inr .refl)
    | with_reducible apply Frame.refl
    | with_reducible assumption
    | split

theorem retrySet_frame {k : Parts} {s t : State} {a0 : LaneIx} {a1 : TrackAt} {a2 : Nat}
    (h : Frame k s t) (hk : sub { srv := true, lane := true } k = true) :
    Frame k s (retrySet a0 a1 a2 t) := by
  refine Frame.step h (l := { srv := true, lane := true }) ?_ hk
  clear h hk
  unfold retrySet
  repeat' first
    | (extract_lets +onlyGivenNames -merge -underBinder x; first | (with_reducible refine Frame.cutTo (t := x) ?_ ?_; rotate_left; (try clear_value x); rename _ => y; intro hx; rotate_left; clear_value (hh : x = _); subst hh) | (clear_value x; rename _ => y) | (have hq := x; clear hq; rename _ => y))
    | split
    | with_reducible refine setRefOfs_frame ?_ (by with_unfolding_all rfl)
    | with_reducible refine setLane_frame ?_ (by with_unfolding_all rfl)
    | with_reducible refine Frame.getDMap ?_ (fun _ => ?_)
    | with_reducible apply Frame.getD
    | with_reducible apply Frame.ite
    | with_reducible exact Frame.ofMk (by first | exact Frame.refl | assumption) frSame frSame frSame frSame frSame frMine frSame frSame frSame frMine frSame frSame frSame frSame frSame frSame frSame frSame frSame frSame rfl rfl rfl (.inr .refl) (.inr .refl)
    | with_reducible apply Frame.refl
    | with_reducible assumption
    | intro _ _ _
    | intro _ _
    | split

theorem retryOne_frame {k : Parts} {s t : State} {a0 : LaneIx} {a1 : List SectorTry} {a2 : Ladder}
    (h : Frame k s t) (hk : sub partsGaugeEntryApply k = true) :
    Frame k s (retryOne a0 a1 a2 t) := by
  refine Frame.step h (l := partsGaugeEntryApply) ?_ hk
  clear h hk
  unfold retryOne
  repeat' first
    | (extract_lets +onlyGivenNames -merge -underBinder x; first | (with_reducible refine Frame.cutTo (t := x) ?_ ?_; rotate_left; (try clear_value x); rename _ => y; intro hx; rotate_left; clear_value (hh : x = _); subst hh) | (have hq : Flt := x; clear hq; rename _ => y) | (have hq : Sys := x; clear hq; rename _ => y) | (clear_value x; rename _ => y) | (have hq := x; clear hq; rename _ => y))
    | with_reducible refine deliver_frame ?_ (by with_unfolding_all rfl)
    | with_reducible refine sectorReports_frame ?_ (by with_unfolding_all rfl)
    | with_reducible refine setLane_frame ?_ (by with_unfolding_all rfl)
    | with_reducible exact Frame.ofMk (by first | exact Frame.refl | assumption) frMine frMine frSame frSame frMine frMine frMine frSame frMine frMine frMine frMine frMine frMine frMine frMine frMine frMine frMine frSame rfl rfl rfl (by first | exact .inr .refl | exact .inr ⟨rfl, rfl, rfl, rfl, id⟩ | exact .inr ⟨rfl, rfl, rfl, rfl, fun _ => rfl⟩ | exact .inr (.ite ⟨rfl, rfl, rfl, rfl, id⟩ ⟨rfl, rfl, rfl, rfl, id⟩)) (by first | exact .inr .refl | exact .inr ⟨rfl, rfl, rfl, rfl⟩ | exact .inr (addFaultRecord_binds _ _) | with_unfolding_all exact .inr ⟨rfl, rfl, rfl, rfl⟩)
    | with_reducible apply Frame.refl
    | with_reducible assumption
    | split

theorem retryEnd_frame {k : Parts} {s t : State} {a0 : LaneIx} {a1 : TrackAt}
    (h : Frame k s t) (hk : sub partsGaugeEntryApply k = true) :
    Frame k s (retryEnd a0 a1 t) := by
  refine Frame.step h (l := partsGaugeEntryApply) ?_ hk
  clear h hk
  unfold retryEnd
  repeat' first
    | (extract_lets +onlyGivenNames -merge -underBinder x; first | (with_reducible refine Frame.cutTo (t := x) ?_ ?_; rotate_left; (try clear_value x); rename _ => y; intro hx; rotate_left; clear_value (hh : x = _); subst hh) | (have hq : Flt := x; clear hq; rename _ => y) | (have hq : Sys := x; clear hq; rename _ => y) | (clear_value x; rename _ => y) | (have hq := x; clear hq; rename _ => y))
    | with_reducible refine climb_frame ?_ (by with_unfolding_all rfl)
    | with_reducible refine decEvent_frame ?_ (by with_unfolding_all rfl)
    | with_reducible refine retrySet_frame ?_ (by with_unfolding_all rfl)
    | with_reducible apply Frame.foldl
    | with_reducible apply Frame.ite
    | with_reducible apply Frame.refl
    | with_reducible assumption
    | intro _ _ _
    | intro _ _
    | split

theorem retryRevolution_frame {k : Parts} {s t : State} {a0 : LaneIx} {a1 : List SectorTry}
    (h : Frame k s t) (hk : sub partsGaugeEntryApply k = true) :
    Frame k s (retryRevolution a0 a1 t) := by
  refine Frame.step h (l := partsGaugeEntryApply) ?_ hk
  clear h hk
  unfold retryRevolution
  repeat' first
    | (extract_lets +onlyGivenNames -merge -underBinder x; first | (with_reducible refine Frame.cutTo (t := x) ?_ ?_; rotate_left; (try clear_value x); rename _ => y; intro hx; rotate_left; clear_value (hh : x = _); subst hh) | (have hq : Flt := x; clear hq; rename _ => y) | (have hq : Sys := x; clear hq; rename _ => y) | (clear_value x; rename _ => y) | (have hq := x; clear hq; rename _ => y))
    | with_reducible refine retryEnd_frame ?_ (by with_unfolding_all rfl)
    | with_reducible refine retryOne_frame ?_ (by with_unfolding_all rfl)
    | with_reducible refine retrySet_frame ?_ (by with_unfolding_all rfl)
    | with_reducible apply Frame.foldl
    | with_reducible apply Frame.ite
    | with_reducible exact Frame.ofMk (by first | exact Frame.refl | assumption) frMine frMine frSame frSame frMine frMine frMine frSame frMine frMine frMine frMine frMine frMine frMine frMine frMine frMine frMine frSame rfl rfl rfl (by first | exact .inr .refl | exact .inr ⟨rfl, rfl, rfl, rfl, id⟩ | exact .inr ⟨rfl, rfl, rfl, rfl, fun _ => rfl⟩ | exact .inr (.ite ⟨rfl, rfl, rfl, rfl, id⟩ ⟨rfl, rfl, rfl, rfl, id⟩)) (by first | exact .inr .refl | exact .inr ⟨rfl, rfl, rfl, rfl⟩ | exact .inr (addFaultRecord_binds _ _) | with_unfolding_all exact .inr ⟨rfl, rfl, rfl, rfl⟩)
    | with_reducible apply Frame.refl
    | with_reducible assumption
    | intro _ _ _
    | intro _ _
    | split

theorem execRetryRevolution_frame {s t : State} {a0 : LaneIx} {a1 : List SectorTry} (e : execRetryRevolution a0 a1 s = .next t) :
    Frame partsGaugeEntryApply s t := by
  unfold execRetryRevolution at e
  refine Frame.act ?_ e
  clear e
  try dsimp -zeta only
  repeat' first
    | with_reducible refine retryRevolution_frame ?_ (by with_unfolding_all rfl)
    | with_reducible apply Frame.refl
    | with_reducible assumption

theorem selvageDecode_frame {k : Parts} {s t : State} {a0 : LaneIx} {a1 : SelvageTry}
    (h : Frame k s t) (hk : sub partsGaugeEntryApply k = true) :
    Frame k s (selvageDecode a0 a1 t) := by
  refine Frame.step h (l := partsGaugeEntryApply) ?_ hk
  clear h hk
  unfold selvageDecode
  repeat' first
    | (extract_lets +onlyGivenNames -merge -underBinder x; first | (with_reducible refine Frame.cutTo (t := x) ?_ ?_; rotate_left; (try clear_value x); rename _ => y; intro hx; rotate_left; clear_value (hh : x = _); subst hh) | (have hq : Flt := x; clear hq; rename _ => y) | (have hq : Sys := x; clear hq; rename _ => y) | (clear_value x; rename _ => y) | (have hq := x; clear hq; rename _ => y))
    | with_reducible refine deliver_frame ?_ (by with_unfolding_all rfl)
    | with_reducible refine decEvent_frame ?_ (by with_unfolding_all rfl)
    | with_reducible refine climb_frame ?_ (by with_unfolding_all rfl)
    | with_reducible apply Frame.foldl
    | with_reducible apply Frame.ite
    | with_reducible exact Frame.ofMk (by first | exact Frame.refl | assumption) frMine frMine frSame frSame frMine frMine frMine frSame frMine frMine frMine frMine frMine frMine frMine frMine frMine frMine frMine frSame rfl rfl rfl (by first | exact .inr .refl | exact .inr ⟨rfl, rfl, rfl, rfl, id⟩ | exact .inr ⟨rfl, rfl, rfl, rfl, fun _ => rfl⟩ | exact .inr (.ite ⟨rfl, rfl, rfl, rfl, id⟩ ⟨rfl, rfl, rfl, rfl, id⟩)) (by first | exact .inr .refl | exact .inr ⟨rfl, rfl, rfl, rfl⟩ | exact .inr (addFaultRecord_binds _ _) | with_unfolding_all exact .inr ⟨rfl, rfl, rfl, rfl⟩)
    | with_reducible apply Frame.refl
    | with_reducible assumption
    | intro _ _ _
    | intro _ _
    | split

theorem execSelvageDecode_frame {s t : State} {a0 : LaneIx} {a1 : SelvageTry} (e : execSelvageDecode a0 a1 s = .next t) :
    Frame partsGaugeEntryApply s t := by
  unfold execSelvageDecode at e
  refine Frame.act ?_ e
  clear e
  try dsimp -zeta only
  repeat' first
    | with_reducible refine selvageDecode_frame ?_ (by with_unfolding_all rfl)
    | with_reducible apply Frame.refl
    | with_reducible assumption

theorem extend_frame {k : Parts} {s t : State} {a0 : Extent} {a1 : Nat}
    (h : Frame k s t) (hk : sub { media := true, arr := true, hif := true } k = true) :
    Frame k s (extend a0 a1 t) := by
  refine Frame.step h (l := { media := true, arr := true, hif := true }) ?_ hk
  clear h hk
  unfold extend
  repeat' first
    | (extract_lets +onlyGivenNames -merge -underBinder x; first | (with_reducible refine Frame.cutTo (t := x) ?_ ?_; rotate_left; (try clear_value x); rename _ => y; intro hx; rotate_left; clear_value (hh : x = _); subst hh) | (clear_value x; rename _ => y) | (have hq := x; clear hq; rename _ => y))
    | with_reducible refine takeSpare_frame ?_ (by with_unfolding_all rfl)
    | with_reducible refine spareShort_frame ?_ (by with_unfolding_all rfl)
    | with_reducible apply Frame.ite
    | with_reducible exact Frame.ofMk (by first | exact Frame.refl | assumption) frSame frSame frSame frSame frSame frSame frSame frSame frSame frSame frSame frMine frSame frSame frSame frSame frSame frMine frMine frSame rfl rfl rfl (.inr .refl) (.inr .refl)
    | with_reducible apply Frame.refl
    | with_reducible assumption
    | split

theorem moveBack_frame {k : Parts} {s t : State} {a0 : LaneIx}
    (h : Frame k s t) (hk : sub { lane := true } k = true) :
    Frame k s (moveBack a0 t) := by
  refine Frame.step h (l := { lane := true }) ?_ hk
  clear h hk
  unfold moveBack
  repeat' first
    | (extract_lets +onlyGivenNames -merge -underBinder x; first | (with_reducible refine Frame.cutTo (t := x) ?_ ?_; rotate_left; (try clear_value x); rename _ => y; intro hx; rotate_left; clear_value (hh : x = _); subst hh) | (clear_value x; rename _ => y) | (have hq := x; clear hq; rename _ => y))
    | with_reducible refine setLane_frame ?_ (by with_unfolding_all rfl)
    | with_reducible exact Frame.ofMk (by first | exact Frame.refl | assumption) frSame frSame frSame frSame frSame frSame frSame frSame frSame frMine frSame frSame frSame frSame frSame frSame frSame frSame frSame frSame rfl rfl rfl (.inr .refl) (.inr .refl)
    | with_reducible apply Frame.refl
    | with_reducible assumption
    | split

theorem addSlip_frame {k : Parts} {s t : State} {a0 : LaneIx} {a1 : Nat} {a2 : Nat} {a3 : Nat} {a4 : Bool}
    (h : Frame k s t) (hk : sub partsDeliver k = true) :
    Frame k s (addSlip a0 a1 a2 a3 a4 t) := by
  refine Frame.step h (l := partsDeliver) ?_ hk
  clear h hk
  unfold addSlip
  repeat' first
    | (extract_lets +onlyGivenNames -merge -underBinder x; first | (with_reducible refine Frame.cutTo (t := x) ?_ ?_; rotate_left; (try clear_value x); rename _ => y; intro hx; rotate_left; clear_value (hh : x = _); subst hh) | (clear_value x; rename _ => y) | (have hq := x; clear hq; rename _ => y))
    | with_reducible refine setLane_frame ?_ (by with_unfolding_all rfl)
    | with_reducible refine moveBack_frame ?_ (by with_unfolding_all rfl)
    | with_reducible refine stcEntry_frame ?_ (by with_unfolding_all rfl)
    | with_reducible refine extend_frame ?_ (by with_unfolding_all rfl)
    | with_reducible exact Frame.ofMk (by first | exact Frame.refl | assumption) frSame frSame frSame frSame frSame frSame frSame frSame frSame frMine frSame frMine frSame frSame frSame frMine frSame frMine frMine frSame rfl rfl rfl (.inr .refl) (.inr .refl)
    | with_reducible apply Frame.refl
    | with_reducible assumption
    | split

theorem verifyConventional_frame {k : Parts} {s t : State} {a0 : TrackAt} {a1 : Nat}
    (h : Frame k s t) (hk : sub { media := true, stc := true, arr := true, hif := true } k = true) :
    Frame k s (verifyConventional a0 a1 t) := by
  refine Frame.step h (l := { media := true, stc := true, arr := true, hif := true }) ?_ hk
  clear h hk
  unfold verifyConventional
  repeat' first
    | (extract_lets +onlyGivenNames -merge -underBinder x; first | (with_reducible refine Frame.cutTo (t := x) ?_ ?_; rotate_left; (try clear_value x); rename _ => y; intro hx; rotate_left; clear_value (hh : x = _); subst hh) | (clear_value x; rename _ => y) | (have hq := x; clear hq; rename _ => y))
    | with_reducible refine relocate_frame ?_ (by with_unfolding_all rfl)
    | with_reducible refine addGrown_frame ?_ (by with_unfolding_all rfl)
    | with_reducible apply Frame.ite
    | with_reducible exact Frame.ofMk (by first | exact Frame.refl | assumption) frSame frSame frSame frSame frSame frSame frSame frSame frSame frSame frSame frMine frSame frSame frSame frMine frSame frMine frMine frSame rfl rfl rfl (.inr .refl) (.inr .refl)
    | with_reducible apply Frame.refl
    | with_reducible assumption
    | split

theorem rawVerdict_frame {k : Parts} {s t : State} {a0 : LaneIx} {a1 : VerifyResult}
    (h : Frame k s t) (hk : sub partsGaugeEntryApply k = true) :
    Frame k s (rawVerdict a0 a1 t) := by
  refine Frame.step h (l := partsGaugeEntryApply) ?_ hk
  clear h hk
  unfold rawVerdict
  repeat' first
    | (extract_lets +onlyGivenNames -merge -underBinder x; first | (with_reducible refine Frame.cutTo (t := x) ?_ ?_; rotate_left; (try clear_value x); rename _ => y; intro hx; rotate_left; clear_value (hh : x = _); subst hh) | (have hq : Flt := x; clear hq; rename _ => y) | (have hq : Sys := x; clear hq; rename _ => y) | (clear_value x; rename _ => y) | (have hq := x; clear hq; rename _ => y))
    | with_reducible refine decEvent_frame ?_ (by with_unfolding_all rfl)
    | with_reducible refine addSlip_frame ?_ (by with_unfolding_all rfl)
    | with_reducible refine verifyConventional_frame ?_ (by with_unfolding_all rfl)
    | with_reducible apply Frame.ite
    | with_reducible exact Frame.ofMk (by first | exact Frame.refl | assumption) frMine frMine frSame frSame frMine frMine frMine frSame frMine frMine frMine frMine frMine frMine frMine frMine frMine frMine frMine frSame rfl rfl rfl (by first | exact .inr .refl | exact .inr ⟨rfl, rfl, rfl, rfl, id⟩ | exact .inr ⟨rfl, rfl, rfl, rfl, fun _ => rfl⟩ | exact .inr (.ite ⟨rfl, rfl, rfl, rfl, id⟩ ⟨rfl, rfl, rfl, rfl, id⟩)) (by first | exact .inr .refl | exact .inr ⟨rfl, rfl, rfl, rfl⟩ | exact .inr (addFaultRecord_binds _ _) | with_unfolding_all exact .inr ⟨rfl, rfl, rfl, rfl⟩)
    | with_reducible apply Frame.refl
    | with_reducible assumption
    | split

theorem execRawVerdict_frame {s t : State} {a0 : LaneIx} {a1 : VerifyResult} (e : execRawVerdict a0 a1 s = .next t) :
    Frame partsGaugeEntryApply s t := by
  unfold execRawVerdict at e
  refine Frame.act ?_ e
  clear e
  try dsimp -zeta only
  repeat' first
    | with_reducible refine rawVerdict_frame ?_ (by with_unfolding_all rfl)
    | with_reducible apply Frame.refl
    | with_reducible assumption

end Sys2Proof.Laws
end

