-- ==== Sys2Proof/Laws/Frames/Pattern.lean ====
section
/-!
SUPPORT. The frames of the operations of Machine/Pattern.lean: the parts each may change.
-/
namespace Sys2Proof.Laws
open Sys2Proof Sys2Proof.Machine

set_option linter.all false
set_option Elab.async false

theorem opTake_frame {k : Parts} {s t : State} {a0 : LaneIx} {a1 : Nat} {b : State} (e : opTake a0 a1 t = some b)
    (h : Frame k s t) (hk : sub { lane := true } k = true) :
    Frame k s b := by
  refine Frame.step h (l := { lane := true }) ?_ hk
  clear h hk
  revert e
  unfold opTake
  repeat' first
    | with_reducible exact Frame.none
    | with_reducible refine Frame.some ?_
    | with_reducible refine Frame.somePair ?_
    | (extract_lets +onlyGivenNames -merge -underBinder x; first | (with_reducible refine Frame.cut (k := { lane := true }) (s := t) (t := x) ?_ ?_; rotate_left; (try clear_value x); rename _ => y; intro hx; rotate_left; clear_value (hh : x = _); subst hh) | (clear_value x; rename _ => y) | (have hq := x; clear hq; rename _ => y))
    | with_reducible refine setLane_frame ?_ (by with_unfolding_all rfl)
    | with_reducible apply Frame.ite
    | with_reducible exact Frame.ofMk (by first | exact Frame.refl | assumption) frSame frSame frSame frSame frSame frSame frSame frSame frSame frMine frSame frSame frSame frSame frSame frSame frSame frSame frSame frSame rfl rfl rfl (.inr .refl) (.inr .refl)
    | with_reducible apply Frame.refl
    | with_reducible assumption
    | split

theorem exportedEnd_frame {k : Parts} {s t : State} {a0 : LaneIx} {a1 : Nat}
    (h : Frame k s t) (hk : sub partsOpFinish k = true) :
    Frame k s (exportedEnd a0 a1 t) := by
  refine Frame.step h (l := partsOpFinish) ?_ hk
  clear h hk
  unfold exportedEnd
  repeat' first
    | (extract_lets +onlyGivenNames -merge -underBinder x; first | (with_reducible refine Frame.cutTo (t := x) ?_ ?_; rotate_left; (try clear_value x); rename _ => y; intro hx; rotate_left; clear_value (hh : x = _); subst hh) | (have hq : Flt := x; clear hq; rename _ => y) | (have hq : Sys := x; clear hq; rename _ => y) | (clear_value x; rename _ => y) | (have hq := x; clear hq; rename _ => y))
    | with_reducible refine rowDispatch_frame ?_ (by with_unfolding_all rfl)
    | with_reducible refine rowFault_frame ?_ (by with_unfolding_all rfl)
    | with_reducible refine setRow_frame ?_ (by with_unfolding_all rfl)
    | with_reducible apply Frame.ite
    | with_reducible exact Frame.ofMk (by first | exact Frame.refl | assumption) frMine frMine frSame frSame frMine frMine frMine frSame frMine frMine frMine frMine frMine frMine frMine frMine frMine frMine frMine frSame rfl rfl rfl (by first | exact .inr .refl | exact .inr ⟨rfl, rfl, rfl, rfl, id⟩ | exact .inr ⟨rfl, rfl, rfl, rfl, fun _ => rfl⟩ | exact .inr (.ite ⟨rfl, rfl, rfl, rfl, id⟩ ⟨rfl, rfl, rfl, rfl, id⟩)) (by first | exact .inr .refl | exact .inr ⟨rfl, rfl, rfl, rfl⟩ | exact .inr (addFaultRecord_binds _ _) | with_unfolding_all exact .inr ⟨rfl, rfl, rfl, rfl⟩)
    | with_reducible apply Frame.refl
    | with_reducible assumption
    | split

theorem opcode_frame {k : Parts} {s t : State} {a0 : LaneIx} {a1 : Nat} {a2 : State → State} (hf : ∀ v, Frame k s v → Frame k s (a2 v))
    (h : Frame k s t) (hk : sub partsOpFinish k = true) :
    Frame k s (opcode a0 a1 a2 t) := by
  have gen : ∀ (x : State), True := fun _ => trivial
  clear gen
  unfold opcode
  repeat' first
    | with_reducible refine rowFault_frame ?_ (sub_trans (by with_unfolding_all rfl) hk)
    | with_reducible refine exportedEnd_frame ?_ (sub_trans (by with_unfolding_all rfl) hk)
    | with_reducible refine opTake_frame (by assumption) ?_ (sub_trans (by with_unfolding_all rfl) hk)
    | with_reducible refine hf _ ?_
    | with_reducible apply Frame.ite
    | with_reducible exact Frame.step (l := partsOpFinish) (by assumption) (Frame.ofMk Frame.refl frMine frMine frSame frSame frMine frMine frMine frSame frMine frMine frMine frMine frMine frMine frMine frMine frMine frMine frMine frSame rfl rfl rfl (by first | exact .inr .refl | exact .inr ⟨rfl, rfl, rfl, rfl, id⟩ | exact .inr ⟨rfl, rfl, rfl, rfl, fun _ => rfl⟩ | exact .inr (.ite ⟨rfl, rfl, rfl, rfl, id⟩ ⟨rfl, rfl, rfl, rfl, id⟩)) (by first | exact .inr .refl | exact .inr ⟨rfl, rfl, rfl, rfl⟩ | exact .inr (addFaultRecord_binds _ _) | with_unfolding_all exact .inr ⟨rfl, rfl, rfl, rfl⟩)) hk
    | with_reducible assumption
    | split

theorem execOpcodeIdle_frame {s t : State} {a0 : LaneIx} (e : execOpcodeIdle a0 s = .next t) :
    Frame partsOpFinish s t := by
  unfold execOpcodeIdle at e
  refine Frame.act ?_ e
  clear e
  try dsimp -zeta only
  repeat' first
    | with_reducible refine opcode_frame ?_ ?_ (by with_unfolding_all rfl)
    | with_reducible apply Frame.refl
    | with_reducible assumption
    | assumption
    | intro _ _ _
    | intro _ _

theorem opBegin_frame {k : Parts} {s t : State} {a0 : LaneIx}
    (h : Frame k s t) (hk : sub partsOpFinish k = true) :
    Frame k s (opBegin a0 t) := by
  refine Frame.step h (l := partsOpFinish) ?_ hk
  clear h hk
  unfold opBegin
  repeat' first
    | (extract_lets +onlyGivenNames -merge -underBinder x; first | (with_reducible refine Frame.cutTo (t := x) ?_ ?_; rotate_left; (try clear_value x); rename _ => y; intro hx; rotate_left; clear_value (hh : x = _); subst hh) | (have hq : Flt := x; clear hq; rename _ => y) | (have hq : Sys := x; clear hq; rename _ => y) | (clear_value x; rename _ => y) | (have hq := x; clear hq; rename _ => y))
    | with_reducible refine opcode_frame ?_ ?_ (by with_unfolding_all rfl)
    | with_reducible apply Frame.ite
    | with_reducible apply Frame.refl
    | with_reducible assumption
    | assumption
    | intro _ _ _
    | intro _ _
    | split

theorem execOpcodeOpBegin_frame {s t : State} {a0 : LaneIx} (e : execOpcodeOpBegin a0 s = .next t) :
    Frame partsOpFinish s t := by
  unfold execOpcodeOpBegin at e
  refine Frame.act ?_ e
  clear e
  try dsimp -zeta only
  repeat' first
    | with_reducible refine opBegin_frame ?_ (by with_unfolding_all rfl)
    | with_reducible apply Frame.refl
    | with_reducible assumption

theorem opEndCode_frame {k : Parts} {s t : State} {a0 : LaneIx}
    (h : Frame k s t) (hk : sub partsOpFinish k = true) :
    Frame k s (opEndCode a0 t) := by
  refine Frame.step h (l := partsOpFinish) ?_ hk
  clear h hk
  unfold opEndCode
  repeat' first
    | (extract_lets +onlyGivenNames -merge -underBinder x; first | (with_reducible refine Frame.cutTo (t := x) ?_ ?_; rotate_left; (try clear_value x); rename _ => y; intro hx; rotate_left; clear_value (hh : x = _); subst hh) | (have hq : Flt := x; clear hq; rename _ => y) | (have hq : Sys := x; clear hq; rename _ => y) | (clear_value x; rename _ => y) | (have hq := x; clear hq; rename _ => y))
    | with_reducible refine opcode_frame ?_ ?_ (by with_unfolding_all rfl)
    | with_reducible refine rowPost_frame ?_ (by with_unfolding_all rfl)
    | with_reducible refine setRow_frame ?_ (by with_unfolding_all rfl)
    | with_reducible exact Frame.ofMk (by first | exact Frame.refl | assumption) frMine frMine frSame frSame frMine frMine frMine frSame frMine frMine frMine frMine frMine frMine frMine frMine frMine frMine frMine frSame rfl rfl rfl (by first | exact .inr .refl | exact .inr ⟨rfl, rfl, rfl, rfl, id⟩ | exact .inr ⟨rfl, rfl, rfl, rfl, fun _ => rfl⟩ | exact .inr (.ite ⟨rfl, rfl, rfl, rfl, id⟩ ⟨rfl, rfl, rfl, rfl, id⟩)) (by first | exact .inr .refl | exact .inr ⟨rfl, rfl, rfl, rfl⟩ | exact .inr (addFaultRecord_binds _ _) | with_unfolding_all exact .inr ⟨rfl, rfl, rfl, rfl⟩)
    | with_reducible apply Frame.refl
    | with_reducible assumption
    | intro _ _ _
    | intro _ _

theorem execOpcodeOpEnd_frame {s t : State} {a0 : LaneIx} (e : execOpcodeOpEnd a0 s = .next t) :
    Frame partsOpFinish s t := by
  unfold execOpcodeOpEnd at e
  refine Frame.act ?_ e
  clear e
  try dsimp -zeta only
  repeat' first
    | with_reducible refine opEndCode_frame ?_ (by with_unfolding_all rfl)
    | with_reducible apply Frame.refl
    | with_reducible assumption

theorem nextSlot_frame {k : Parts} {s t : State} {a0 : LaneIx}
    (h : Frame k s t) (hk : sub { lane := true } k = true) :
    Frame k s (nextSlot a0 t) := by
  refine Frame.step h (l := { lane := true }) ?_ hk
  clear h hk
  unfold nextSlot
  repeat' first
    | (extract_lets +onlyGivenNames -merge -underBinder x; first | (with_reducible refine Frame.cutTo (t := x) ?_ ?_; rotate_left; (try clear_value x); rename _ => y; intro hx; rotate_left; clear_value (hh : x = _); subst hh) | (clear_value x; rename _ => y) | (have hq := x; clear hq; rename _ => y))
    | with_reducible refine setRow_frame ?_ (by with_unfolding_all rfl)
    | with_reducible exact Frame.ofMk (by first | exact Frame.refl | assumption) frSame frSame frSame frSame frSame frSame frSame frSame frSame frMine frSame frSame frSame frSame frSame frSame frSame frSame frSame frSame rfl rfl rfl (.inr .refl) (.inr .refl)
    | with_reducible apply Frame.refl
    | with_reducible assumption

theorem readSlot_frame {k : Parts} {s t : State} {a0 : LaneIx} {a1 : Fin 8}
    (h : Frame k s t) (hk : sub partsOpFinish k = true) :
    Frame k s (readSlot a0 a1 t) := by
  refine Frame.step h (l := partsOpFinish) ?_ hk
  clear h hk
  unfold readSlot
  repeat' first
    | (extract_lets +onlyGivenNames -merge -underBinder x; first | (with_reducible refine Frame.cutTo (t := x) ?_ ?_; rotate_left; (try clear_value x); rename _ => y; intro hx; rotate_left; clear_value (hh : x = _); subst hh) | (have hq : Flt := x; clear hq; rename _ => y) | (have hq : Sys := x; clear hq; rename _ => y) | (clear_value x; rename _ => y) | (have hq := x; clear hq; rename _ => y))
    | with_reducible refine predictSlot_frame ?_ (by with_unfolding_all rfl)
    | with_reducible refine rowPost_frame ?_ (by with_unfolding_all rfl)
    | with_reducible refine setLane_frame ?_ (by with_unfolding_all rfl)
    | with_reducible refine enterRetry_frame ?_ (by with_unfolding_all rfl)
    | with_reducible apply Frame.foldl
    | with_reducible apply Frame.ite
    | with_reducible exact Frame.ofMk (by first | exact Frame.refl | assumption) frMine frMine frSame frSame frMine frMine frMine frSame frMine frMine frMine frMine frMine frMine frMine frMine frMine frMine frMine frSame rfl rfl rfl (by first | exact .inr .refl | exact .inr ⟨rfl, rfl, rfl, rfl, id⟩ | exact .inr ⟨rfl, rfl, rfl, rfl, fun _ => rfl⟩ | exact .inr (.ite ⟨rfl, rfl, rfl, rfl, id⟩ ⟨rfl, rfl, rfl, rfl, id⟩)) (by first | exact .inr .refl | exact .inr ⟨rfl, rfl, rfl, rfl⟩ | exact .inr (addFaultRecord_binds _ _) | with_unfolding_all exact .inr ⟨rfl, rfl, rfl, rfl⟩)
    | with_reducible apply Frame.refl
    | with_reducible assumption
    | intro _ _ _
    | intro _ _
    | split

theorem unread_frame {k : Parts} {s t : State} {a0 : LaneIx}
    (h : Frame k s t) (hk : sub partsGaugeEntryApply k = true) :
    Frame k s (unread a0 t) := by
  refine Frame.step h (l := partsGaugeEntryApply) ?_ hk
  clear h hk
  unfold unread
  repeat' first
    | (extract_lets +onlyGivenNames -merge -underBinder x; first | (with_reducible refine Frame.cutTo (t := x) ?_ ?_; rotate_left; (try clear_value x); rename _ => y; intro hx; rotate_left; clear_value (hh : x = _); subst hh) | (have hq : Flt := x; clear hq; rename _ => y) | (have hq : Sys := x; clear hq; rename _ => y) | (clear_value x; rename _ => y) | (have hq := x; clear hq; rename _ => y))
    | with_reducible refine enterRetry_frame ?_ (by with_unfolding_all rfl)
    | with_reducible apply Frame.foldl
    | with_reducible apply Frame.ite
    | with_reducible apply Frame.refl
    | with_reducible assumption
    | intro _ _ _
    | intro _ _
    | split

theorem readRun_frame {k : Parts} {s t : State} {a0 : LaneIx} {a1 : List ReadSlot}
    (h : Frame k s t) (hk : sub partsOpFinish k = true) :
    Frame k s (readRun a0 a1 t) := by
  refine Frame.step h (l := partsOpFinish) ?_ hk
  clear h hk
  fun_induction readRun a0 a1 t
  repeat' first
    | with_reducible refine Frame.step ?_ (by assumption) (by with_unfolding_all rfl)
    | with_reducible refine nextSlot_frame ?_ (by with_unfolding_all rfl)
    | with_reducible refine readSlot_frame ?_ (by with_unfolding_all rfl)
    | with_reducible refine unread_frame ?_ (by with_unfolding_all rfl)
    | with_reducible refine rowPost_frame ?_ (by with_unfolding_all rfl)
    | with_reducible apply Frame.ite
    | with_reducible exact Frame.ofMk (by first | exact Frame.refl | assumption) frMine frMine frSame frSame frMine frMine frMine frSame frMine frMine frMine frMine frMine frMine frMine frMine frMine frMine frMine frSame rfl rfl rfl (by first | exact .inr .refl | exact .inr ⟨rfl, rfl, rfl, rfl, id⟩ | exact .inr ⟨rfl, rfl, rfl, rfl, fun _ => rfl⟩ | exact .inr (.ite ⟨rfl, rfl, rfl, rfl, id⟩ ⟨rfl, rfl, rfl, rfl, id⟩)) (by first | exact .inr .refl | exact .inr ⟨rfl, rfl, rfl, rfl⟩ | exact .inr (addFaultRecord_binds _ _) | with_unfolding_all exact .inr ⟨rfl, rfl, rfl, rfl⟩)
    | with_reducible apply Frame.refl
    | with_reducible assumption
    | split

theorem execOpcodeRdRun_frame {s t : State} {a0 : LaneIx} {a1 : List ReadSlot} (e : execOpcodeRdRun a0 a1 s = .next t) :
    Frame partsOpFinish s t := by
  unfold execOpcodeRdRun at e
  refine Frame.act ?_ e
  clear e
  try dsimp -zeta only
  repeat' first
    | with_reducible refine opcode_frame ?_ ?_ (by with_unfolding_all rfl)
    | with_reducible refine readRun_frame ?_ (by with_unfolding_all rfl)
    | with_reducible apply Frame.refl
    | with_reducible assumption
    | intro _ _ _
    | intro _ _

theorem rereadRun_frame {k : Parts} {s t : State} {a0 : LaneIx} {a1 : List ReadSlot}
    (h : Frame k s t) (hk : sub partsOpFinish k = true) :
    Frame k s (rereadRun a0 a1 t) := by
  refine Frame.step h (l := partsOpFinish) ?_ hk
  clear h hk
  unfold rereadRun
  repeat' first
    | (extract_lets +onlyGivenNames -merge -underBinder x; first | (with_reducible refine Frame.cutTo (t := x) ?_ ?_; rotate_left; (try clear_value x); rename _ => y; intro hx; rotate_left; clear_value (hh : x = _); subst hh) | (have hq : Flt := x; clear hq; rename _ => y) | (have hq : Sys := x; clear hq; rename _ => y) | (clear_value x; rename _ => y) | (have hq := x; clear hq; rename _ => y))
    | with_reducible refine readRun_frame ?_ (by with_unfolding_all rfl)
    | with_reducible refine setRow_frame ?_ (by with_unfolding_all rfl)
    | with_reducible exact Frame.ofMk (by first | exact Frame.refl | assumption) frMine frMine frSame frSame frMine frMine frMine frSame frMine frMine frMine frMine frMine frMine frMine frMine frMine frMine frMine frSame rfl rfl rfl (by first | exact .inr .refl | exact .inr ⟨rfl, rfl, rfl, rfl, id⟩ | exact .inr ⟨rfl, rfl, rfl, rfl, fun _ => rfl⟩ | exact .inr (.ite ⟨rfl, rfl, rfl, rfl, id⟩ ⟨rfl, rfl, rfl, rfl, id⟩)) (by first | exact .inr .refl | exact .inr ⟨rfl, rfl, rfl, rfl⟩ | exact .inr (addFaultRecord_binds _ _) | with_unfolding_all exact .inr ⟨rfl, rfl, rfl, rfl⟩)
    | with_reducible apply Frame.refl
    | with_reducible assumption

theorem execOpcodeRrRun_frame {s t : State} {a0 : LaneIx} {a1 : List ReadSlot} (e : execOpcodeRrRun a0 a1 s = .next t) :
    Frame partsOpFinish s t := by
  unfold execOpcodeRrRun at e
  refine Frame.act ?_ e
  clear e
  try dsimp -zeta only
  repeat' first
    | with_reducible refine opcode_frame ?_ ?_ (by with_unfolding_all rfl)
    | with_reducible refine rereadRun_frame ?_ (by with_unfolding_all rfl)
    | with_reducible apply Frame.refl
    | with_reducible assumption
    | intro _ _ _
    | intro _ _

theorem slipInterrupted_frame {k : Parts} {s t : State} {a0 : LaneIx}
    (h : Frame k s t) (hk : sub partsDeliver k = true) :
    Frame k s (slipInterrupted a0 t) := by
  refine Frame.step h (l := partsDeliver) ?_ hk
  clear h hk
  unfold slipInterrupted
  repeat' first
    | (extract_lets +onlyGivenNames -merge -underBinder x; first | (with_reducible refine Frame.cutTo (t := x) ?_ ?_; rotate_left; (try clear_value x); rename _ => y; intro hx; rotate_left; clear_value (hh : x = _); subst hh) | (clear_value x; rename _ => y) | (have hq := x; clear hq; rename _ => y))
    | with_reducible refine addSlip_frame ?_ (by with_unfolding_all rfl)
    | with_reducible refine recoverLate_frame ?_ (by with_unfolding_all rfl)
    | with_reducible apply Frame.ite
    | with_reducible exact Frame.ofMk (by first | exact Frame.refl | assumption) frSame frSame frSame frSame frSame frSame frSame frSame frSame frMine frSame frMine frSame frSame frSame frMine frSame frMine frMine frSame rfl rfl rfl (.inr .refl) (.inr .refl)
    | with_reducible apply Frame.refl
    | with_reducible assumption
    | split

theorem writeGate_frame {k : Parts} {s t : State} {a0 : LaneIx} {a1 : Bool}
    (h : Frame k s t) (hk : sub { lane := true } k = true) :
    Frame k s (writeGate a0 a1 t) := by
  refine Frame.step h (l := { lane := true }) ?_ hk
  clear h hk
  unfold writeGate
  repeat' first
    | (extract_lets +onlyGivenNames -merge -underBinder x; first | (with_reducible refine Frame.cutTo (t := x) ?_ ?_; rotate_left; (try clear_value x); rename _ => y; intro hx; rotate_left; clear_value (hh : x = _); subst hh) | (clear_value x; rename _ => y) | (have hq := x; clear hq; rename _ => y))
    | with_reducible refine setLane_frame ?_ (by with_unfolding_all rfl)
    | with_reducible refine guardLane_frame ?_ (by with_unfolding_all rfl)
    | with_reducible apply Frame.ite
    | with_reducible exact Frame.ofMk (by first | exact Frame.refl | assumption) frSame frSame frSame frSame frSame frSame frSame frSame frSame frMine frSame frSame frSame frSame frSame frSame frSame frSame frSame frSame rfl rfl rfl (.inr .refl) (.inr .refl)
    | with_reducible apply Frame.refl
    | with_reducible assumption
    | split

theorem sectorWritten_frame {k : Parts} {s t : State} {a0 : LaneIx} {a1 : Nat}
    (h : Frame k s t) (hk : sub { lane := true, media := true } k = true) :
    Frame k s (sectorWritten a0 a1 t) := by
  refine Frame.step h (l := { lane := true, media := true }) ?_ hk
  clear h hk
  unfold sectorWritten
  repeat' first
    | (extract_lets +onlyGivenNames -merge -underBinder x; first | (with_reducible refine Frame.cutTo (t := x) ?_ ?_; rotate_left; (try clear_value x); rename _ => y; intro hx; rotate_left; clear_value (hh : x = _); subst hh) | (clear_value x; rename _ => y) | (have hq := x; clear hq; rename _ => y))
    | with_reducible refine setLane_frame ?_ (by with_unfolding_all rfl)
    | with_reducible apply Frame.ite
    | with_reducible exact Frame.ofMk (by first | exact Frame.refl | assumption) frSame frSame frSame frSame frSame frSame frSame frSame frSame frMine frSame frMine frSame frSame frSame frSame frSame frSame frSame frSame rfl rfl rfl (.inr .refl) (.inr .refl)
    | with_reducible apply Frame.refl
    | with_reducible assumption
    | split

theorem selvageWritten_frame {k : Parts} {s t : State} {a0 : LaneIx} {a1 : Nat}
    (h : Frame k s t) (hk : sub { lane := true, media := true } k = true) :
    Frame k s (selvageWritten a0 a1 t) := by
  refine Frame.step h (l := { lane := true, media := true }) ?_ hk
  clear h hk
  unfold selvageWritten
  repeat' first
    | (extract_lets +onlyGivenNames -merge -underBinder x; first | (with_reducible refine Frame.cutTo (t := x) ?_ ?_; rotate_left; (try clear_value x); rename _ => y; intro hx; rotate_left; clear_value (hh : x = _); subst hh) | (clear_value x; rename _ => y) | (have hq := x; clear hq; rename _ => y))
    | with_reducible refine setLane_frame ?_ (by with_unfolding_all rfl)
    | with_reducible exact Frame.ofMk (by first | exact Frame.refl | assumption) frSame frSame frSame frSame frSame frSame frSame frSame frSame frMine frSame frMine frSame frSame frSame frSame frSame frSame frSame frSame rfl rfl rfl (.inr .refl) (.inr .refl)
    | with_reducible apply Frame.refl
    | with_reducible assumption
    | split

theorem writeHold_frame {k : Parts} {s t : State} {a0 : LaneIx} {a1 : Nat}
    (h : Frame k s t) (hk : sub { lane := true, arr := true } k = true) :
    Frame k s (writeHold a0 a1 t) := by
  refine Frame.step h (l := { lane := true, arr := true }) ?_ hk
  clear h hk
  unfold writeHold
  repeat' first
    | (extract_lets +onlyGivenNames -merge -underBinder x; first | (with_reducible refine Frame.cutTo (t := x) ?_ ?_; rotate_left; (try clear_value x); rename _ => y; intro hx; rotate_left; clear_value (hh : x = _); subst hh) | (clear_value x; rename _ => y) | (have hq := x; clear hq; rename _ => y))
    | with_reducible refine rowHeld_frame ?_ (by with_unfolding_all rfl)
    | with_reducible refine writeGate_frame ?_ (by with_unfolding_all rfl)
    | with_reducible refine setLane_frame ?_ (by with_unfolding_all rfl)
    | with_reducible exact Frame.ofMk (by first | exact Frame.refl | assumption) frSame frSame frSame frSame frSame frSame frSame frSame frSame frMine frSame frSame frSame frSame frSame frSame frSame frMine frSame frSame rfl rfl rfl (.inr .refl) (.inr .refl)
    | with_reducible apply Frame.refl
    | with_reducible assumption

theorem writeRun_frame {k : Parts} {s t : State} {a0 : LaneIx} {a1 : Nat} {a2 : List WriteSlot}
    (h : Frame k s t) (hk : sub partsOpFinish k = true) :
    Frame k s (writeRun a0 a1 a2 t) := by
  refine Frame.step h (l := partsOpFinish) ?_ hk
  clear h hk
  fun_induction writeRun a0 a1 a2 t
  repeat' first
    | with_reducible refine Frame.step ?_ (by assumption) (by with_unfolding_all rfl)
    | (extract_lets +onlyGivenNames -merge -underBinder x; first | (with_reducible refine Frame.cutTo (t := x) ?_ ?_; rotate_left; (try clear_value x); rename _ => y; intro hx; rotate_left; clear_value (hh : x = _); subst hh) | (have hq : Flt := x; clear hq; rename _ => y) | (have hq : Sys := x; clear hq; rename _ => y) | (clear_value x; rename _ => y) | (have hq := x; clear hq; rename _ => y))
    | with_reducible refine writeGate_frame ?_ (by with_unfolding_all rfl)
    | with_reducible refine rowPost_frame ?_ (by with_unfolding_all rfl)
    | with_reducible refine writeHold_frame ?_ (by with_unfolding_all rfl)
    | with_reducible refine predictSlot_frame ?_ (by with_unfolding_all rfl)
    | with_reducible refine sectorWritten_frame ?_ (by with_unfolding_all rfl)
    | with_reducible refine cryptSector_frame ?_ (by with_unfolding_all rfl)
    | with_reducible refine selvageWritten_frame ?_ (by with_unfolding_all rfl)
    | with_reducible refine nextSlot_frame ?_ (by with_unfolding_all rfl)
    | with_reducible refine slipInterrupted_frame ?_ (by with_unfolding_all rfl)
    | with_reducible apply Frame.ite
    | with_reducible exact Frame.ofMk (by first | exact Frame.refl | assumption) frMine frMine frSame frSame frMine frMine frMine frSame frMine frMine frMine frMine frMine frMine frMine frMine frMine frMine frMine frSame rfl rfl rfl (by first | exact .inr .refl | exact .inr ⟨rfl, rfl, rfl, rfl, id⟩ | exact .inr ⟨rfl, rfl, rfl, rfl, fun _ => rfl⟩ | exact .inr (.ite ⟨rfl, rfl, rfl, rfl, id⟩ ⟨rfl, rfl, rfl, rfl, id⟩)) (by first | exact .inr .refl | exact .inr ⟨rfl, rfl, rfl, rfl⟩ | exact .inr (addFaultRecord_binds _ _) | with_unfolding_all exact .inr ⟨rfl, rfl, rfl, rfl⟩)
    | with_reducible apply Frame.refl
    | with_reducible assumption
    | split

theorem execOpcodeWrRun_frame {s t : State} {a0 : LaneIx} {a1 : List WriteSlot} (e : execOpcodeWrRun a0 a1 s = .next t) :
    Frame partsOpFinish s t := by
  unfold execOpcodeWrRun at e
  refine Frame.act ?_ e
  clear e
  try dsimp -zeta only
  repeat' first
    | with_reducible refine opcode_frame ?_ ?_ (by with_unfolding_all rfl)
    | with_reducible refine writeRun_frame ?_ (by with_unfolding_all rfl)
    | with_reducible apply Frame.refl
    | with_reducible assumption
    | intro _ _ _
    | intro _ _

theorem execOpcodeWrSelv_frame {s t : State} {a0 : LaneIx} {a1 : List WriteSlot} (e : execOpcodeWrSelv a0 a1 s = .next t) :
    Frame partsOpFinish s t := by
  unfold execOpcodeWrSelv at e
  refine Frame.act ?_ e
  clear e
  try dsimp -zeta only
  repeat' first
    | with_reducible refine opcode_frame ?_ ?_ (by with_unfolding_all rfl)
    | with_reducible refine writeRun_frame ?_ (by with_unfolding_all rfl)
    | with_reducible apply Frame.refl
    | with_reducible assumption
    | intro _ _ _
    | intro _ _

theorem execOpcodeGap_frame {s t : State} {a0 : LaneIx} (e : execOpcodeGap a0 s = .next t) :
    Frame partsOpFinish s t := by
  unfold execOpcodeGap at e
  refine Frame.act ?_ e
  clear e
  try dsimp -zeta only
  repeat' first
    | (extract_lets +onlyGivenNames -merge -underBinder x; first | (with_reducible refine Frame.cutTo (t := x) ?_ ?_; rotate_left; (try clear_value x); rename _ => y; intro hx; rotate_left; clear_value (hh : x = _); subst hh) | (have hq : Flt := x; clear hq; rename _ => y) | (have hq : Sys := x; clear hq; rename _ => y) | (clear_value x; rename _ => y) | (have hq := x; clear hq; rename _ => y))
    | with_reducible refine opcode_frame ?_ ?_ (by with_unfolding_all rfl)
    | with_reducible refine setRow_frame ?_ (by with_unfolding_all rfl)
    | with_reducible exact Frame.ofMk (by first | exact Frame.refl | assumption) frMine frMine frSame frSame frMine frMine frMine frSame frMine frMine frMine frMine frMine frMine frMine frMine frMine frMine frMine frSame rfl rfl rfl (by first | exact .inr .refl | exact .inr ⟨rfl, rfl, rfl, rfl, id⟩ | exact .inr ⟨rfl, rfl, rfl, rfl, fun _ => rfl⟩ | exact .inr (.ite ⟨rfl, rfl, rfl, rfl, id⟩ ⟨rfl, rfl, rfl, rfl, id⟩)) (by first | exact .inr .refl | exact .inr ⟨rfl, rfl, rfl, rfl⟩ | exact .inr (addFaultRecord_binds _ _) | with_unfolding_all exact .inr ⟨rfl, rfl, rfl, rfl⟩)
    | with_reducible apply Frame.refl
    | with_reducible assumption
    | intro _ _ _
    | intro _ _

theorem opCustomer_frame {k : Parts} {s t : State} {a0 : LaneIx} {a1 : Nat}
    (h : Frame k s t) (hk : sub partsOpFinish k = true) :
    Frame k s (opCustomer a0 a1 t) := by
  refine Frame.step h (l := partsOpFinish) ?_ hk
  clear h hk
  unfold opCustomer
  repeat' first
    | (extract_lets +onlyGivenNames -merge -underBinder x; first | (with_reducible refine Frame.cutTo (t := x) ?_ ?_; rotate_left; (try clear_value x); rename _ => y; intro hx; rotate_left; clear_value (hh : x = _); subst hh) | (have hq : Flt := x; clear hq; rename _ => y) | (have hq : Sys := x; clear hq; rename _ => y) | (clear_value x; rename _ => y) | (have hq := x; clear hq; rename _ => y))
    | with_reducible refine opcode_frame ?_ ?_ (by with_unfolding_all rfl)
    | with_reducible refine setRow_frame ?_ (by with_unfolding_all rfl)
    | with_reducible refine rowEvent_frame ?_ (by with_unfolding_all rfl)
    | with_reducible refine rowPost_frame ?_ (by with_unfolding_all rfl)
    | with_reducible apply Frame.ite
    | with_reducible exact Frame.ofMk (by first | exact Frame.refl | assumption) frMine frMine frSame frSame frMine frMine frMine frSame frMine frMine frMine frMine frMine frMine frMine frMine frMine frMine frMine frSame rfl rfl rfl (by first | exact .inr .refl | exact .inr ⟨rfl, rfl, rfl, rfl, id⟩ | exact .inr ⟨rfl, rfl, rfl, rfl, fun _ => rfl⟩ | exact .inr (.ite ⟨rfl, rfl, rfl, rfl, id⟩ ⟨rfl, rfl, rfl, rfl, id⟩)) (by first | exact .inr .refl | exact .inr ⟨rfl, rfl, rfl, rfl⟩ | exact .inr (addFaultRecord_binds _ _) | with_unfolding_all exact .inr ⟨rfl, rfl, rfl, rfl⟩)
    | with_reducible apply Frame.refl
    | with_reducible assumption
    | intro _ _ _
    | intro _ _
    | split

theorem execOpcodeCustomer_frame {s t : State} {a0 : LaneIx} {a1 : Fin 32} (e : execOpcodeCustomer a0 a1 s = .next t) :
    Frame partsOpFinish s t := by
  unfold execOpcodeCustomer at e
  refine Frame.act ?_ e
  clear e
  try dsimp -zeta only
  repeat' first
    | with_reducible refine opCustomer_frame ?_ (by with_unfolding_all rfl)
    | with_reducible apply Frame.refl
    | with_reducible assumption

theorem rowLoadWrite_frame {k : Parts} {s t : State} {a0 : LaneIx}
    (h : Frame k s t) (hk : sub partsEngineFaultW k = true) :
    Frame k s (rowLoadWrite a0 t) := by
  refine Frame.step h (l := partsEngineFaultW) ?_ hk
  clear h hk
  unfold rowLoadWrite
  repeat' first
    | (extract_lets +onlyGivenNames -merge -underBinder x; first | (with_reducible refine Frame.cutTo (t := x) ?_ ?_; rotate_left; (try clear_value x); rename _ => y; intro hx; rotate_left; clear_value (hh : x = _); subst hh) | (have hq : Flt := x; clear hq; rename _ => y) | (have hq : Sys := x; clear hq; rename _ => y) | (clear_value x; rename _ => y) | (have hq := x; clear hq; rename _ => y))
    | with_reducible refine rowEvent_frame ?_ (by with_unfolding_all rfl)
    | with_reducible refine setRow_frame ?_ (by with_unfolding_all rfl)
    | with_reducible refine writeLE_frame ?_ (by with_unfolding_all rfl)
    | with_reducible apply Frame.ite
    | with_reducible exact Frame.ofMk (by first | exact Frame.refl | assumption) frMine frMine frSame frSame frMine frMine frMine frSame frMine frMine frMine frSame frMine frMine frMine frMine frMine frMine frMine frSame rfl rfl rfl (by first | exact .inr .refl | exact .inr ⟨rfl, rfl, rfl, rfl, id⟩ | exact .inr ⟨rfl, rfl, rfl, rfl, fun _ => rfl⟩ | exact .inr (.ite ⟨rfl, rfl, rfl, rfl, id⟩ ⟨rfl, rfl, rfl, rfl, id⟩)) (by first | exact .inr .refl | exact .inr ⟨rfl, rfl, rfl, rfl⟩ | exact .inr (addFaultRecord_binds _ _) | with_unfolding_all exact .inr ⟨rfl, rfl, rfl, rfl⟩)
    | with_reducible apply Frame.refl
    | with_reducible assumption
    | split

theorem execRowLoadWrite_frame {s t : State} {a0 : LaneIx} (e : execRowLoadWrite a0 s = .next t) :
    Frame partsEngineFaultW s t := by
  unfold execRowLoadWrite at e
  refine Frame.act ?_ e
  clear e
  try dsimp -zeta only
  repeat' first
    | with_reducible refine rowLoadWrite_frame ?_ (by with_unfolding_all rfl)
    | with_reducible apply Frame.refl
    | with_reducible assumption

theorem rowLoadRead_frame {k : Parts} {s t : State} {a0 : LaneIx}
    (h : Frame k s t) (hk : sub { lane := true } k = true) :
    Frame k s (rowLoadRead a0 t) := by
  refine Frame.step h (l := { lane := true }) ?_ hk
  clear h hk
  unfold rowLoadRead
  repeat' first
    | (extract_lets +onlyGivenNames -merge -underBinder x; first | (with_reducible refine Frame.cutTo (t := x) ?_ ?_; rotate_left; (try clear_value x); rename _ => y; intro hx; rotate_left; clear_value (hh : x = _); subst hh) | (clear_value x; rename _ => y) | (have hq := x; clear hq; rename _ => y))
    | with_reducible refine setLane_frame ?_ (by with_unfolding_all rfl)
    | with_reducible apply Frame.foldl
    | with_reducible apply Frame.ite
    | with_reducible exact Frame.ofMk (by first | exact Frame.refl | assumption) frSame frSame frSame frSame frSame frSame frSame frSame frSame frMine frSame frSame frSame frSame frSame frSame frSame frSame frSame frSame rfl rfl rfl (.inr .refl) (.inr .refl)
    | with_reducible apply Frame.refl
    | with_reducible assumption
    | intro _ _ _
    | intro _ _
    | split

theorem execRowLoadReadback_frame {s t : State} {a0 : LaneIx} (e : execRowLoadReadback a0 s = .next t) :
    Frame { lane := true } s t := by
  unfold execRowLoadReadback at e
  refine Frame.act ?_ e
  clear e
  try dsimp -zeta only
  repeat' first
    | with_reducible refine rowLoadRead_frame ?_ (by with_unfolding_all rfl)
    | with_reducible apply Frame.refl
    | with_reducible assumption

theorem ldCmdWrite_frame {k : Parts} {s t : State} {a0 : LaneIx} {a1 : Word}
    (h : Frame k s t) (hk : sub partsEngineFaultW k = true) :
    Frame k s (ldCmdWrite a0 a1 t) := by
  refine Frame.step h (l := partsEngineFaultW) ?_ hk
  clear h hk
  unfold ldCmdWrite
  repeat' first
    | (extract_lets +onlyGivenNames -merge -underBinder x; first | (with_reducible refine Frame.cutTo (t := x) ?_ ?_; rotate_left; (try clear_value x); rename _ => y; intro hx; rotate_left; clear_value (hh : x = _); subst hh) | (have hq : Flt := x; clear hq; rename _ => y) | (have hq : Sys := x; clear hq; rename _ => y) | (clear_value x; rename _ => y) | (have hq := x; clear hq; rename _ => y))
    | with_reducible refine rowLoadWrite_frame ?_ (by with_unfolding_all rfl)
    | with_reducible refine rowLoadRead_frame ?_ (by with_unfolding_all rfl)
    | with_reducible apply Frame.ite
    | with_reducible apply Frame.refl
    | with_reducible assumption
    | split

theorem rowStart_frame {k : Parts} {s t : State} {a0 : LaneIx}
    (h : Frame k s t) (hk : sub { lane := true } k = true) :
    Frame k s (rowStart a0 t) := by
  refine Frame.step h (l := { lane := true }) ?_ hk
  clear h hk
  unfold rowStart
  repeat' first
    | (extract_lets +onlyGivenNames -merge -underBinder x; first | (with_reducible refine Frame.cutTo (t := x) ?_ ?_; rotate_left; (try clear_value x); rename _ => y; intro hx; rotate_left; clear_value (hh : x = _); subst hh) | (clear_value x; rename _ => y) | (have hq := x; clear hq; rename _ => y))
    | with_reducible refine setRow_frame ?_ (by with_unfolding_all rfl)
    | with_reducible apply Frame.ite
    | with_reducible exact Frame.ofMk (by first | exact Frame.refl | assumption) frSame frSame frSame frSame frSame frSame frSame frSame frSame frMine frSame frSame frSame frSame frSame frSame frSame frSame frSame frSame rfl rfl rfl (.inr .refl) (.inr .refl)
    | with_reducible apply Frame.refl
    | with_reducible assumption
    | split

theorem rowStop_frame {k : Parts} {s t : State} {a0 : LaneIx}
    (h : Frame k s t) (hk : sub { lane := true } k = true) :
    Frame k s (rowStop a0 t) := by
  refine Frame.step h (l := { lane := true }) ?_ hk
  clear h hk
  unfold rowStop
  repeat' first
    | (extract_lets +onlyGivenNames -merge -underBinder x; first | (with_reducible refine Frame.cutTo (t := x) ?_ ?_; rotate_left; (try clear_value x); rename _ => y; intro hx; rotate_left; clear_value (hh : x = _); subst hh) | (clear_value x; rename _ => y) | (have hq := x; clear hq; rename _ => y))
    | with_reducible refine setRow_frame ?_ (by with_unfolding_all rfl)
    | with_reducible exact Frame.ofMk (by first | exact Frame.refl | assumption) frSame frSame frSame frSame frSame frSame frSame frSame frSame frMine frSame frSame frSame frSame frSame frSame frSame frSame frSame frSame rfl rfl rfl (.inr .refl) (.inr .refl)
    | with_reducible apply Frame.refl
    | with_reducible assumption

theorem rowCtlWrite_frame {k : Parts} {s t : State} {a0 : LaneIx} {a1 : Bool} {a2 : Word}
    (h : Frame k s t) (hk : sub { lane := true } k = true) :
    Frame k s (rowCtlWrite a0 a1 a2 t) := by
  refine Frame.step h (l := { lane := true }) ?_ hk
  clear h hk
  unfold rowCtlWrite
  repeat' first
    | (extract_lets +onlyGivenNames -merge -underBinder x; first | (with_reducible refine Frame.cutTo (t := x) ?_ ?_; rotate_left; (try clear_value x); rename _ => y; intro hx; rotate_left; clear_value (hh : x = _); subst hh) | (clear_value x; rename _ => y) | (have hq := x; clear hq; rename _ => y))
    | with_reducible refine setLane_frame ?_ (by with_unfolding_all rfl)
    | with_reducible refine setRow_frame ?_ (by with_unfolding_all rfl)
    | with_reducible refine rowStart_frame ?_ (by with_unfolding_all rfl)
    | with_reducible refine rowStop_frame ?_ (by with_unfolding_all rfl)
    | with_reducible apply Frame.ite
    | with_reducible exact Frame.ofMk (by first | exact Frame.refl | assumption) frSame frSame frSame frSame frSame frSame frSame frSame frSame frMine frSame frSame frSame frSame frSame frSame frSame frSame frSame frSame rfl rfl rfl (.inr .refl) (.inr .refl)
    | with_reducible apply Frame.refl
    | with_reducible assumption
    | split

theorem execRowRun_frame {s t : State} {a0 : LaneIx} {a1 : Word} (e : execRowRun a0 a1 s = .next t) :
    Frame { lane := true } s t := by
  unfold execRowRun at e
  refine Frame.act ?_ e
  clear e
  try dsimp -zeta only
  repeat' first
    | with_reducible refine rowCtlWrite_frame ?_ (by with_unfolding_all rfl)
    | with_reducible apply Frame.refl
    | with_reducible assumption

theorem execRowStop_frame {s t : State} {a0 : LaneIx} {a1 : Word} (e : execRowStop a0 a1 s = .next t) :
    Frame { lane := true } s t := by
  unfold execRowStop at e
  refine Frame.act ?_ e
  clear e
  try dsimp -zeta only
  repeat' first
    | with_reducible refine rowCtlWrite_frame ?_ (by with_unfolding_all rfl)
    | with_reducible apply Frame.refl
    | with_reducible assumption

theorem execCustEnWrite_frame {s t : State} {a0 : LaneIx} {a1 : Bool} {a2 : Word} (e : execCustEnWrite a0 a1 a2 s = .next t) :
    Frame { lane := true } s t := by
  unfold execCustEnWrite at e
  refine Frame.act ?_ e
  clear e
  try dsimp -zeta only
  repeat' first
    | with_reducible refine rowCtlWrite_frame ?_ (by with_unfolding_all rfl)
    | with_reducible apply Frame.refl
    | with_reducible assumption

theorem execRowSwapRequest_frame {s t : State} {a0 : LaneIx} {a1 : Word} (e : execRowSwapRequest a0 a1 s = .next t) :
    Frame { lane := true } s t := by
  unfold execRowSwapRequest at e
  refine Frame.act ?_ e
  clear e
  try dsimp -zeta only
  repeat' first
    | with_reducible refine rowCtlWrite_frame ?_ (by with_unfolding_all rfl)
    | with_reducible apply Frame.refl
    | with_reducible assumption

theorem rowSwap_frame {k : Parts} {s t : State} {a0 : LaneIx}
    (h : Frame k s t) (hk : sub partsEngineFaultW k = true) :
    Frame k s (rowSwap a0 t) := by
  refine Frame.step h (l := partsEngineFaultW) ?_ hk
  clear h hk
  unfold rowSwap
  repeat' first
    | (extract_lets +onlyGivenNames -merge -underBinder x; first | (with_reducible refine Frame.cutTo (t := x) ?_ ?_; rotate_left; (try clear_value x); rename _ => y; intro hx; rotate_left; clear_value (hh : x = _); subst hh) | (have hq : Flt := x; clear hq; rename _ => y) | (have hq : Sys := x; clear hq; rename _ => y) | (clear_value x; rename _ => y) | (have hq := x; clear hq; rename _ => y))
    | with_reducible refine rowEvent_frame ?_ (by with_unfolding_all rfl)
    | with_reducible refine setRow_frame ?_ (by with_unfolding_all rfl)
    | with_reducible apply Frame.ite
    | with_reducible exact Frame.ofMk (by first | exact Frame.refl | assumption) frMine frMine frSame frSame frMine frMine frMine frSame frMine frMine frMine frSame frMine frMine frMine frMine frMine frMine frMine frSame rfl rfl rfl (by first | exact .inr .refl | exact .inr ⟨rfl, rfl, rfl, rfl, id⟩ | exact .inr ⟨rfl, rfl, rfl, rfl, fun _ => rfl⟩ | exact .inr (.ite ⟨rfl, rfl, rfl, rfl, id⟩ ⟨rfl, rfl, rfl, rfl, id⟩)) (by first | exact .inr .refl | exact .inr ⟨rfl, rfl, rfl, rfl⟩ | exact .inr (addFaultRecord_binds _ _) | with_unfolding_all exact .inr ⟨rfl, rfl, rfl, rfl⟩)
    | with_reducible apply Frame.refl
    | with_reducible assumption
    | split

theorem execRowSwap_frame {s t : State} {a0 : LaneIx} (e : execRowSwap a0 s = .next t) :
    Frame partsEngineFaultW s t := by
  unfold execRowSwap at e
  refine Frame.act ?_ e
  clear e
  try dsimp -zeta only
  repeat' first
    | with_reducible refine rowSwap_frame ?_ (by with_unfolding_all rfl)
    | with_reducible apply Frame.refl
    | with_reducible assumption

theorem slipGrown_frame {k : Parts} {s t : State} {a0 : LaneIx} {a1 : OpDesc} {a2 : Nat}
    (h : Frame k s t) (hk : sub partsDeliver k = true) :
    Frame k s (slipGrown a0 a1 a2 t) := by
  refine Frame.step h (l := partsDeliver) ?_ hk
  clear h hk
  unfold slipGrown
  repeat' first
    | with_reducible refine addSlip_frame ?_ (by with_unfolding_all rfl)
    | with_reducible apply Frame.foldl
    | with_reducible apply Frame.ite
    | with_reducible apply Frame.refl
    | with_reducible assumption
    | intro _ _ _
    | intro _ _
    | split

theorem opSetup_frame {k : Parts} {s t : State} {a0 : LaneIx} {a1 : OpDesc} {a2 : ZoneDesc} {a3 : Nat} {a4 : Nat} {a5 : Nat} {a6 : Nat} {a7 : PatStart}
    (h : Frame k s t) (hk : sub partsOpFinish k = true) :
    Frame k s (opSetup a0 a1 a2 a3 a4 a5 a6 a7 t) := by
  refine Frame.step h (l := partsOpFinish) ?_ hk
  clear h hk
  unfold opSetup
  repeat' first
    | (extract_lets +onlyGivenNames -merge -underBinder x; first | (with_reducible refine Frame.cutTo (t := x) ?_ ?_; rotate_left; (try clear_value x); rename _ => y; intro hx; rotate_left; clear_value (hh : x = _); subst hh) | (have hq : Flt := x; clear hq; rename _ => y) | (have hq : Sys := x; clear hq; rename _ => y) | (clear_value x; rename _ => y) | (have hq := x; clear hq; rename _ => y))
    | with_reducible refine feReady_frame ?_ (by with_unfolding_all rfl)
    | with_reducible refine patMoves_frame ?_ (by with_unfolding_all rfl)
    | with_reducible refine setLane_frame ?_ (by with_unfolding_all rfl)
    | with_reducible refine slipGrown_frame ?_ (by with_unfolding_all rfl)
    | with_reducible refine scheduleCal_frame ?_ (by with_unfolding_all rfl)
    | with_reducible refine feEvent_frame ?_ (by with_unfolding_all rfl)
    | with_reducible apply Frame.ite
    | with_reducible exact Frame.ofMk (by first | exact Frame.refl | assumption) frMine frMine frSame frSame frMine frMine frMine frSame frMine frMine frMine frMine frMine frMine frMine frMine frMine frMine frMine frSame rfl rfl rfl (by first | exact .inr .refl | exact .inr ⟨rfl, rfl, rfl, rfl, id⟩ | exact .inr ⟨rfl, rfl, rfl, rfl, fun _ => rfl⟩ | exact .inr (.ite ⟨rfl, rfl, rfl, rfl, id⟩ ⟨rfl, rfl, rfl, rfl, id⟩)) (by first | exact .inr .refl | exact .inr ⟨rfl, rfl, rfl, rfl⟩ | exact .inr (addFaultRecord_binds _ _) | with_unfolding_all exact .inr ⟨rfl, rfl, rfl, rfl⟩)
    | with_reducible apply Frame.refl
    | with_reducible assumption
    | split

theorem darnParity_frame {k : Parts} {s t : State} {a0 : LaneIx} {a1 : Nat} {a2 : Nat}
    (h : Frame k s t) (hk : sub partsEngineFaultW k = true) :
    Frame k s (darnParity a0 a1 a2 t) := by
  refine Frame.step h (l := partsEngineFaultW) ?_ hk
  clear h hk
  unfold darnParity
  repeat' first
    | (extract_lets +onlyGivenNames -merge -underBinder x; first | (with_reducible refine Frame.cutTo (t := x) ?_ ?_; rotate_left; (try clear_value x); rename _ => y; intro hx; rotate_left; clear_value (hh : x = _); subst hh) | (have hq : Flt := x; clear hq; rename _ => y) | (have hq : Sys := x; clear hq; rename _ => y) | (clear_value x; rename _ => y) | (have hq := x; clear hq; rename _ => y))
    | with_reducible refine patEvent_frame ?_ (by with_unfolding_all rfl)
    | with_reducible refine setLane_frame ?_ (by with_unfolding_all rfl)
    | with_reducible apply Frame.ite
    | with_reducible exact Frame.ofMk (by first | exact Frame.refl | assumption) frMine frMine frSame frSame frMine frMine frMine frSame frMine frMine frMine frSame frMine frMine frMine frMine frMine frMine frMine frSame rfl rfl rfl (by first | exact .inr .refl | exact .inr ⟨rfl, rfl, rfl, rfl, id⟩ | exact .inr ⟨rfl, rfl, rfl, rfl, fun _ => rfl⟩ | exact .inr (.ite ⟨rfl, rfl, rfl, rfl, id⟩ ⟨rfl, rfl, rfl, rfl, id⟩)) (by first | exact .inr .refl | exact .inr ⟨rfl, rfl, rfl, rfl⟩ | exact .inr (addFaultRecord_binds _ _) | with_unfolding_all exact .inr ⟨rfl, rfl, rfl, rfl⟩)
    | with_reducible apply Frame.refl
    | with_reducible assumption
    | split

theorem romParity_frame {k : Parts} {s t : State} {a0 : LaneIx} {a1 : Nat} {a2 : Nat}
    (h : Frame k s t) (hk : sub partsRomParity k = true) :
    Frame k s (romParity a0 a1 a2 t) := by
  refine Frame.step h (l := partsRomParity) ?_ hk
  clear h hk
  unfold romParity
  repeat' first
    | (extract_lets +onlyGivenNames -merge -underBinder x; first | (with_reducible refine Frame.cutTo (t := x) ?_ ?_; rotate_left; (try clear_value x); rename _ => y; intro hx; rotate_left; clear_value (hh : x = _); subst hh) | (with_reducible refine Frame.cutTo (t := (Prod.snd x)) ?_ ?_; rotate_left; (try clear_value x); rename _ => y; intro hx; rotate_left; clear_value (hh : x = _); subst hh) | (have hq : Flt := x; clear hq; rename _ => y) | (have hq : Sys := x; clear hq; rename _ => y) | (clear_value x; rename _ => y) | (have hq := x; clear hq; rename _ => y))
    | split
    | with_reducible refine freeNext_frame ?_ (by with_unfolding_all rfl)
    | with_reducible refine freeNext_pair (by assumption) ?_ (by with_unfolding_all rfl)
    | with_reducible refine patEvent_frame ?_ (by with_unfolding_all rfl)
    | with_reducible refine setLane_frame ?_ (by with_unfolding_all rfl)
    | with_reducible exact Frame.ofMk (by first | exact Frame.refl | assumption | exact freeNext_pair (by assumption) (by first | exact Frame.refl | assumption | exact freeNext_pair (by assumption) (by first | exact Frame.refl | assumption) (by with_unfolding_all rfl)) (by with_unfolding_all rfl)) frMine frMine frSame frSame frMine frMine frMine frSame frMine frMine frMine frSame frMine frMine frMine frMine frMine frMine frMine frSame rfl rfl rfl (by first | exact .inr .refl | exact .inr ⟨rfl, rfl, rfl, rfl, id⟩ | exact .inr ⟨rfl, rfl, rfl, rfl, fun _ => rfl⟩ | exact .inr (.ite ⟨rfl, rfl, rfl, rfl, id⟩ ⟨rfl, rfl, rfl, rfl, id⟩)) (by first | exact .inr .refl | exact .inr ⟨rfl, rfl, rfl, rfl⟩ | exact .inr (addFaultRecord_binds _ _) | with_unfolding_all exact .inr ⟨rfl, rfl, rfl, rfl⟩)
    | with_reducible apply Frame.refl
    | with_reducible assumption
    | split

theorem patParity_frame {k : Parts} {s t : State} {a0 : LaneIx} {a1 : Option PatParity}
    (h : Frame k s t) (hk : sub partsRomParity k = true) :
    Frame k s (patParity a0 a1 t) := by
  refine Frame.step h (l := partsRomParity) ?_ hk
  clear h hk
  unfold patParity
  repeat' first
    | with_reducible refine romParity_frame ?_ (by with_unfolding_all rfl)
    | with_reducible refine darnParity_frame ?_ (by with_unfolding_all rfl)
    | with_reducible apply Frame.ite
    | with_reducible exact Frame.ofMk (by first | exact Frame.refl | assumption) frMine frMine frSame frSame frMine frMine frMine frSame frMine frMine frMine frSame frMine frMine frMine frMine frMine frMine frMine frSame rfl rfl rfl (by first | exact .inr .refl | exact .inr ⟨rfl, rfl, rfl, rfl, id⟩ | exact .inr ⟨rfl, rfl, rfl, rfl, fun _ => rfl⟩ | exact .inr (.ite ⟨rfl, rfl, rfl, rfl, id⟩ ⟨rfl, rfl, rfl, rfl, id⟩)) (by first | exact .inr .refl | exact .inr ⟨rfl, rfl, rfl, rfl⟩ | exact .inr (addFaultRecord_binds _ _) | with_unfolding_all exact .inr ⟨rfl, rfl, rfl, rfl⟩)
    | with_reducible apply Frame.refl
    | with_reducible assumption
    | split

theorem opRefuse_frame {k : Parts} {s t : State} {a0 : LaneIx} {a1 : OpDesc} {a2 : Nat}
    (h : Frame k s t) (hk : sub partsEngineFaultW k = true) :
    Frame k s (opRefuse a0 a1 a2 t) := by
  refine Frame.step h (l := partsEngineFaultW) ?_ hk
  clear h hk
  unfold opRefuse
  repeat' first
    | (extract_lets +onlyGivenNames -merge -underBinder x; first | (with_reducible refine Frame.cutTo (t := x) ?_ ?_; rotate_left; (try clear_value x); rename _ => y; intro hx; rotate_left; clear_value (hh : x = _); subst hh) | (have hq : Flt := x; clear hq; rename _ => y) | (have hq : Sys := x; clear hq; rename _ => y) | (clear_value x; rename _ => y) | (have hq := x; clear hq; rename _ => y))
    | with_reducible refine hqmPost_frame ?_ (by with_unfolding_all rfl)
    | with_reducible refine setPat_frame ?_ (by with_unfolding_all rfl)
    | with_reducible exact Frame.ofMk (by first | exact Frame.refl | assumption) frMine frMine frSame frSame frMine frMine frMine frSame frMine frMine frMine frSame frMine frMine frMine frMine frMine frMine frMine frSame rfl rfl rfl (by first | exact .inr .refl | exact .inr ⟨rfl, rfl, rfl, rfl, id⟩ | exact .inr ⟨rfl, rfl, rfl, rfl, fun _ => rfl⟩ | exact .inr (.ite ⟨rfl, rfl, rfl, rfl, id⟩ ⟨rfl, rfl, rfl, rfl, id⟩)) (by first | exact .inr .refl | exact .inr ⟨rfl, rfl, rfl, rfl⟩ | exact .inr (addFaultRecord_binds _ _) | with_unfolding_all exact .inr ⟨rfl, rfl, rfl, rfl⟩)
    | with_reducible apply Frame.refl
    | with_reducible assumption

theorem opUnreadable_frame {k : Parts} {s t : State} {a0 : LaneIx} {a1 : OpDesc} {a2 : Nat}
    (h : Frame k s t) (hk : sub partsGaugeEntryApply k = true) :
    Frame k s (opUnreadable a0 a1 a2 t) := by
  refine Frame.step h (l := partsGaugeEntryApply) ?_ hk
  clear h hk
  unfold opUnreadable
  repeat' first
    | (extract_lets +onlyGivenNames -merge -underBinder x; first | (with_reducible refine Frame.cutTo (t := x) ?_ ?_; rotate_left; (try clear_value x); rename _ => y; intro hx; rotate_left; clear_value (hh : x = _); subst hh) | (have hq : Flt := x; clear hq; rename _ => y) | (have hq : Sys := x; clear hq; rename _ => y) | (clear_value x; rename _ => y) | (have hq := x; clear hq; rename _ => y))
    | with_reducible refine decEvent_frame ?_ (by with_unfolding_all rfl)
    | with_reducible exact Frame.ofMk (by first | exact Frame.refl | assumption) frMine frMine frSame frSame frMine frMine frMine frSame frMine frMine frMine frMine frMine frMine frMine frMine frMine frMine frMine frSame rfl rfl rfl (by first | exact .inr .refl | exact .inr ⟨rfl, rfl, rfl, rfl, id⟩ | exact .inr ⟨rfl, rfl, rfl, rfl, fun _ => rfl⟩ | exact .inr (.ite ⟨rfl, rfl, rfl, rfl, id⟩ ⟨rfl, rfl, rfl, rfl, id⟩)) (by first | exact .inr .refl | exact .inr ⟨rfl, rfl, rfl, rfl⟩ | exact .inr (addFaultRecord_binds _ _) | with_unfolding_all exact .inr ⟨rfl, rfl, rfl, rfl⟩)
    | with_reducible apply Frame.refl
    | with_reducible assumption

theorem opHeld_frame {k : Parts} {s t : State} {a0 : Nat} {a1 : Nat} {a2 : Nat}
    (h : Frame k s t) (hk : sub { arr := true } k = true) :
    Frame k s (opHeld a0 a1 a2 t) := by
  refine Frame.step h (l := { arr := true }) ?_ hk
  clear h hk
  unfold opHeld
  repeat' first
    | with_reducible refine scheduleCal_frame ?_ (by with_unfolding_all rfl)
    | with_reducible apply Frame.ite
    | with_reducible apply Frame.refl
    | with_reducible assumption
    | split

theorem patOperation_frame {k : Parts} {s t : State} {a0 : LaneIx} {a1 : PatStart}
    (h : Frame k s t) (hk : sub partsOpFinish k = true) :
    Frame k s (patOperation a0 a1 t) := by
  refine Frame.step h (l := partsOpFinish) ?_ hk
  clear h hk
  unfold patOperation
  repeat' first
    | (extract_lets +onlyGivenNames -merge -underBinder x; first | (with_reducible refine Frame.cutTo (t := x) ?_ ?_; rotate_left; (try clear_value x); rename _ => y; intro hx; rotate_left; clear_value (hh : x = _); subst hh) | (have hq : Flt := x; clear hq; rename _ => y) | (have hq : Sys := x; clear hq; rename _ => y) | (clear_value x; rename _ => y) | (have hq := x; clear hq; rename _ => y))
    | with_reducible refine hqmTake_frame (by assumption) ?_ (by with_unfolding_all rfl)
    | with_reducible refine patEvent_frame ?_ (by with_unfolding_all rfl)
    | with_reducible refine opRefuse_frame ?_ (by with_unfolding_all rfl)
    | with_reducible refine feEvent_frame ?_ (by with_unfolding_all rfl)
    | with_reducible refine decEvent_frame ?_ (by with_unfolding_all rfl)
    | with_reducible refine opHeld_frame ?_ (by with_unfolding_all rfl)
    | with_reducible refine opUnreadable_frame ?_ (by with_unfolding_all rfl)
    | with_reducible refine patParity_frame ?_ (by with_unfolding_all rfl)
    | with_reducible refine opSetup_frame ?_ (by with_unfolding_all rfl)
    | with_reducible refine Frame.getDMap ?_ (fun _ => ?_)
    | with_reducible apply Frame.getD
    | with_reducible apply Frame.ite
    | with_reducible exact Frame.ofMk (by first | exact Frame.refl | assumption) frMine frMine frSame frSame frMine frMine frMine frSame frMine frMine frMine frMine frMine frMine frMine frMine frMine frMine frMine frSame rfl rfl rfl (by first | exact .inr .refl | exact .inr ⟨rfl, rfl, rfl, rfl, id⟩ | exact .inr ⟨rfl, rfl, rfl, rfl, fun _ => rfl⟩ | exact .inr (.ite ⟨rfl, rfl, rfl, rfl, id⟩ ⟨rfl, rfl, rfl, rfl, id⟩)) (by first | exact .inr .refl | exact .inr ⟨rfl, rfl, rfl, rfl⟩ | exact .inr (addFaultRecord_binds _ _) | with_unfolding_all exact .inr ⟨rfl, rfl, rfl, rfl⟩)
    | with_reducible apply Frame.refl
    | with_reducible assumption
    | intro _ _ _
    | intro _ _
    | split

theorem execPatOperation_frame {s t : State} {a0 : LaneIx} {a1 : PatStart} (e : execPatOperation a0 a1 s = .next t) :
    Frame partsOpFinish s t := by
  unfold execPatOperation at e
  refine Frame.act ?_ e
  clear e
  try dsimp -zeta only
  repeat' first
    | with_reducible refine patOperation_frame ?_ (by with_unfolding_all rfl)
    | with_reducible apply Frame.refl
    | with_reducible assumption

theorem patCtlWrite_frame {k : Parts} {s t : State} {a0 : LaneIx} {a1 : Word}
    (h : Frame k s t) (hk : sub partsEngineFaultW k = true) :
    Frame k s (patCtlWrite a0 a1 t) := by
  refine Frame.step h (l := partsEngineFaultW) ?_ hk
  clear h hk
  unfold patCtlWrite
  repeat' first
    | (extract_lets +onlyGivenNames -merge -underBinder x; first | (with_reducible refine Frame.cutTo (t := x) ?_ ?_; rotate_left; (try clear_value x); rename _ => y; intro hx; rotate_left; clear_value (hh : x = _); subst hh) | (have hq : Flt := x; clear hq; rename _ => y) | (have hq : Sys := x; clear hq; rename _ => y) | (clear_value x; rename _ => y) | (have hq := x; clear hq; rename _ => y))
    | with_reducible refine setLane_frame ?_ (by with_unfolding_all rfl)
    | with_reducible refine reissue_frame ?_ (by with_unfolding_all rfl)
    | with_reducible refine patEvent_frame ?_ (by with_unfolding_all rfl)
    | with_reducible apply Frame.ite
    | with_reducible exact Frame.ofMk (by first | exact Frame.refl | assumption) frMine frMine frSame frSame frMine frMine frMine frSame frMine frMine frMine frSame frMine frMine frMine frMine frMine frMine frMine frSame rfl rfl rfl (by first | exact .inr .refl | exact .inr ⟨rfl, rfl, rfl, rfl, id⟩ | exact .inr ⟨rfl, rfl, rfl, rfl, fun _ => rfl⟩ | exact .inr (.ite ⟨rfl, rfl, rfl, rfl, id⟩ ⟨rfl, rfl, rfl, rfl, id⟩)) (by first | exact .inr .refl | exact .inr ⟨rfl, rfl, rfl, rfl⟩ | exact .inr (addFaultRecord_binds _ _) | with_unfolding_all exact .inr ⟨rfl, rfl, rfl, rfl⟩)
    | with_reducible apply Frame.refl
    | with_reducible assumption
    | split

theorem execPatRun_frame {s t : State} {a0 : LaneIx} {a1 : Word} (e : execPatRun a0 a1 s = .next t) :
    Frame partsEngineFaultW s t := by
  unfold execPatRun at e
  refine Frame.act ?_ e
  clear e
  try dsimp -zeta only
  repeat' first
    | with_reducible refine patCtlWrite_frame ?_ (by with_unfolding_all rfl)
    | with_reducible apply Frame.refl
    | with_reducible assumption

theorem execPatQuiesce_frame {s t : State} {a0 : LaneIx} {a1 : Word} (e : execPatQuiesce a0 a1 s = .next t) :
    Frame partsEngineFaultW s t := by
  unfold execPatQuiesce at e
  refine Frame.act ?_ e
  clear e
  try dsimp -zeta only
  repeat' first
    | with_reducible refine patCtlWrite_frame ?_ (by with_unfolding_all rfl)
    | with_reducible apply Frame.refl
    | with_reducible assumption

theorem darnWrite_frame {k : Parts} {s t : State} {a0 : LaneIx}
    (h : Frame k s t) (hk : sub partsEngineFaultW k = true) :
    Frame k s (darnWrite a0 t) := by
  refine Frame.step h (l := partsEngineFaultW) ?_ hk
  clear h hk
  unfold darnWrite
  repeat' first
    | (extract_lets +onlyGivenNames -merge -underBinder x; first | (with_reducible refine Frame.cutTo (t := x) ?_ ?_; rotate_left; (try clear_value x); rename _ => y; intro hx; rotate_left; clear_value (hh : x = _); subst hh) | (have hq : Flt := x; clear hq; rename _ => y) | (have hq : Sys := x; clear hq; rename _ => y) | (clear_value x; rename _ => y) | (have hq := x; clear hq; rename _ => y))
    | with_reducible refine setPat_frame ?_ (by with_unfolding_all rfl)
    | with_reducible refine patEvent_frame ?_ (by with_unfolding_all rfl)
    | with_reducible exact Frame.ofMk (by first | exact Frame.refl | assumption) frMine frMine frSame frSame frMine frMine frMine frSame frMine frMine frMine frSame frMine frMine frMine frMine frMine frMine frMine frSame rfl rfl rfl (by first | exact .inr .refl | exact .inr ⟨rfl, rfl, rfl, rfl, id⟩ | exact .inr ⟨rfl, rfl, rfl, rfl, fun _ => rfl⟩ | exact .inr (.ite ⟨rfl, rfl, rfl, rfl, id⟩ ⟨rfl, rfl, rfl, rfl, id⟩)) (by first | exact .inr .refl | exact .inr ⟨rfl, rfl, rfl, rfl⟩ | exact .inr (addFaultRecord_binds _ _) | with_unfolding_all exact .inr ⟨rfl, rfl, rfl, rfl⟩)
    | with_reducible apply Frame.refl
    | with_reducible assumption
    | split

theorem execDarnWrite_frame {s t : State} {a0 : LaneIx} (e : execDarnWrite a0 s = .next t) :
    Frame partsEngineFaultW s t := by
  unfold execDarnWrite at e
  refine Frame.act ?_ e
  clear e
  try dsimp -zeta only
  repeat' first
    | with_reducible refine darnWrite_frame ?_ (by with_unfolding_all rfl)
    | with_reducible apply Frame.refl
    | with_reducible assumption

theorem darnRead_frame {k : Parts} {s t : State} {a0 : LaneIx}
    (h : Frame k s t) (hk : sub { lane := true } k = true) :
    Frame k s (darnRead a0 t) := by
  refine Frame.step h (l := { lane := true }) ?_ hk
  clear h hk
  unfold darnRead
  repeat' first
    | (extract_lets +onlyGivenNames -merge -underBinder x; first | (with_reducible refine Frame.cutTo (t := x) ?_ ?_; rotate_left; (try clear_value x); rename _ => y; intro hx; rotate_left; clear_value (hh : x = _); subst hh) | (clear_value x; rename _ => y) | (have hq := x; clear hq; rename _ => y))
    | with_reducible refine setLane_frame ?_ (by with_unfolding_all rfl)
    | with_reducible exact Frame.ofMk (by first | exact Frame.refl | assumption) frSame frSame frSame frSame frSame frSame frSame frSame frSame frMine frSame frSame frSame frSame frSame frSame frSame frSame frSame frSame rfl rfl rfl (.inr .refl) (.inr .refl)
    | with_reducible apply Frame.refl
    | with_reducible assumption

theorem execDarnReadback_frame {s t : State} {a0 : LaneIx} (e : execDarnReadback a0 s = .next t) :
    Frame { lane := true } s t := by
  unfold execDarnReadback at e
  refine Frame.act ?_ e
  clear e
  try dsimp -zeta only
  repeat' first
    | with_reducible refine darnRead_frame ?_ (by with_unfolding_all rfl)
    | with_reducible apply Frame.refl
    | with_reducible assumption

theorem matchWrite_frame {k : Parts} {s t : State} {a0 : LaneIx} {a1 : Fin 32} {a2 : Word}
    (h : Frame k s t) (hk : sub { lane := true } k = true) :
    Frame k s (matchWrite a0 a1 a2 t) := by
  refine Frame.step h (l := { lane := true }) ?_ hk
  clear h hk
  unfold matchWrite
  repeat' first
    | (extract_lets +onlyGivenNames -merge -underBinder x; first | (with_reducible refine Frame.cutTo (t := x) ?_ ?_; rotate_left; (try clear_value x); rename _ => y; intro hx; rotate_left; clear_value (hh : x = _); subst hh) | (clear_value x; rename _ => y) | (have hq := x; clear hq; rename _ => y))
    | with_reducible refine setPat_frame ?_ (by with_unfolding_all rfl)
    | with_reducible exact Frame.ofMk (by first | exact Frame.refl | assumption) frSame frSame frSame frSame frSame frSame frSame frSame frSame frMine frSame frSame frSame frSame frSame frSame frSame frSame frSame frSame rfl rfl rfl (.inr .refl) (.inr .refl)
    | with_reducible apply Frame.refl
    | with_reducible assumption

theorem execMatchWrite_frame {s t : State} {a0 : LaneIx} {a1 : Fin 32} {a2 : Word} (e : execMatchWrite a0 a1 a2 s = .next t) :
    Frame { lane := true } s t := by
  unfold execMatchWrite at e
  refine Frame.act ?_ e
  clear e
  try dsimp -zeta only
  repeat' first
    | with_reducible refine matchWrite_frame ?_ (by with_unfolding_all rfl)
    | with_reducible apply Frame.refl
    | with_reducible assumption

theorem matchApply_frame {k : Parts} {s t : State} {a0 : LaneIx}
    (h : Frame k s t) (hk : sub partsEngineFaultW k = true) :
    Frame k s (matchApply a0 t) := by
  refine Frame.step h (l := partsEngineFaultW) ?_ hk
  clear h hk
  unfold matchApply
  repeat' first
    | (extract_lets +onlyGivenNames -merge -underBinder x; first | (with_reducible refine Frame.cutTo (t := x) ?_ ?_; rotate_left; (try clear_value x); rename _ => y; intro hx; rotate_left; clear_value (hh : x = _); subst hh) | (have hq : Flt := x; clear hq; rename _ => y) | (have hq : Sys := x; clear hq; rename _ => y) | (clear_value x; rename _ => y) | (have hq := x; clear hq; rename _ => y))
    | with_reducible refine patEvent_frame ?_ (by with_unfolding_all rfl)
    | with_reducible refine setLane_frame ?_ (by with_unfolding_all rfl)
    | with_reducible apply Frame.foldl
    | with_reducible exact Frame.ofMk (by first | exact Frame.refl | assumption) frMine frMine frSame frSame frMine frMine frMine frSame frMine frMine frMine frSame frMine frMine frMine frMine frMine frMine frMine frSame rfl rfl rfl (by first | exact .inr .refl | exact .inr ⟨rfl, rfl, rfl, rfl, id⟩ | exact .inr ⟨rfl, rfl, rfl, rfl, fun _ => rfl⟩ | exact .inr (.ite ⟨rfl, rfl, rfl, rfl, id⟩ ⟨rfl, rfl, rfl, rfl, id⟩)) (by first | exact .inr .refl | exact .inr ⟨rfl, rfl, rfl, rfl⟩ | exact .inr (addFaultRecord_binds _ _) | with_unfolding_all exact .inr ⟨rfl, rfl, rfl, rfl⟩)
    | with_reducible apply Frame.refl
    | with_reducible assumption
    | intro _ _ _
    | intro _ _
    | split

theorem execMatchApply_frame {s t : State} {a0 : LaneIx} (e : execMatchApply a0 s = .next t) :
    Frame partsEngineFaultW s t := by
  unfold execMatchApply at e
  refine Frame.act ?_ e
  clear e
  try dsimp -zeta only
  repeat' first
    | with_reducible refine matchApply_frame ?_ (by with_unfolding_all rfl)
    | with_reducible apply Frame.refl
    | with_reducible assumption

theorem feCtlWrite_frame {k : Parts} {s t : State} {a0 : LaneIx} {a1 : Word}
    (h : Frame k s t) (hk : sub partsEngineFaultW k = true) :
    Frame k s (feCtlWrite a0 a1 t) := by
  refine Frame.step h (l := partsEngineFaultW) ?_ hk
  clear h hk
  unfold feCtlWrite
  repeat' first
    | (extract_lets +onlyGivenNames -merge -underBinder x; first | (with_reducible refine Frame.cutTo (t := x) ?_ ?_; rotate_left; (try clear_value x); rename _ => y; intro hx; rotate_left; clear_value (hh : x = _); subst hh) | (have hq : Flt := x; clear hq; rename _ => y) | (have hq : Sys := x; clear hq; rename _ => y) | (clear_value x; rename _ => y) | (have hq := x; clear hq; rename _ => y))
    | with_reducible refine feEvent_frame ?_ (by with_unfolding_all rfl)
    | with_reducible refine setLane_frame ?_ (by with_unfolding_all rfl)
    | with_reducible apply Frame.ite
    | with_reducible exact Frame.ofMk (by first | exact Frame.refl | assumption) frMine frMine frSame frSame frMine frMine frMine frSame frMine frMine frMine frSame frMine frMine frMine frMine frMine frMine frMine frSame rfl rfl rfl (by first | exact .inr .refl | exact .inr ⟨rfl, rfl, rfl, rfl, id⟩ | exact .inr ⟨rfl, rfl, rfl, rfl, fun _ => rfl⟩ | exact .inr (.ite ⟨rfl, rfl, rfl, rfl, id⟩ ⟨rfl, rfl, rfl, rfl, id⟩)) (by first | exact .inr .refl | exact .inr ⟨rfl, rfl, rfl, rfl⟩ | exact .inr (addFaultRecord_binds _ _) | with_unfolding_all exact .inr ⟨rfl, rfl, rfl, rfl⟩)
    | with_reducible apply Frame.refl
    | with_reducible assumption
    | split

theorem ddpWrite_frame {k : Parts} {s t : State} {a0 : Nat} {a1 : Word}
    (h : Frame k s t) (hk : sub partsEngineFaultW k = true) :
    Frame k s (ddpWrite a0 a1 t) := by
  refine Frame.step h (l := partsEngineFaultW) ?_ hk
  clear h hk
  unfold ddpWrite
  repeat' first
    | (extract_lets +onlyGivenNames -merge -underBinder x; first | (with_reducible refine Frame.cutTo (t := x) ?_ ?_; rotate_left; (try clear_value x); rename _ => y; intro hx; rotate_left; clear_value (hh : x = _); subst hh) | (have hq : ∀ a, Frame {} t (x a) → True := fun _ _ => trivial; clear hq; rename _ => y) | (have hq : ∀ a b, Frame {} t (x a b) → True := fun _ _ _ => trivial; clear hq; rename _ => y) | (have hq : Flt := x; clear hq; rename _ => y) | (have hq : Sys := x; clear hq; rename _ => y) | (clear_value x; rename _ => y) | (have hq := x; clear hq; rename _ => y))
    | with_reducible refine ddpEvent_frame ?_ (by with_unfolding_all rfl)
    | with_reducible apply Frame.ite
    | with_reducible exact Frame.ofMk (by first | exact Frame.refl | assumption) frMine frMine frSame frSame frMine frMine frMine frSame frMine frMine frMine frSame frMine frMine frMine frMine frMine frMine frMine frSame rfl rfl rfl (by first | exact .inr .refl | exact .inr ⟨rfl, rfl, rfl, rfl, id⟩ | exact .inr ⟨rfl, rfl, rfl, rfl, fun _ => rfl⟩ | exact .inr (.ite ⟨rfl, rfl, rfl, rfl, id⟩ ⟨rfl, rfl, rfl, rfl, id⟩)) (by first | exact .inr .refl | exact .inr ⟨rfl, rfl, rfl, rfl⟩ | exact .inr (addFaultRecord_binds _ _) | with_unfolding_all exact .inr ⟨rfl, rfl, rfl, rfl⟩)
    | with_reducible apply Frame.refl
    | with_reducible assumption
    | split

theorem laneWrite_frame {k : Parts} {s t : State} {a0 : LaneIx} {a1 : Bool} {a2 : Nat} {a3 : Word}
    (h : Frame k s t) (hk : sub partsEngineFaultW k = true) :
    Frame k s (laneWrite a0 a1 a2 a3 t) := by
  refine Frame.step h (l := partsEngineFaultW) ?_ hk
  clear h hk
  unfold laneWrite
  repeat' first
    | (extract_lets +onlyGivenNames -merge -underBinder x; first | (with_reducible refine Frame.cutTo (t := x) ?_ ?_; rotate_left; (try clear_value x); rename _ => y; intro hx; rotate_left; clear_value (hh : x = _); subst hh) | (have hq : Flt := x; clear hq; rename _ => y) | (have hq : Sys := x; clear hq; rename _ => y) | (clear_value x; rename _ => y) | (have hq := x; clear hq; rename _ => y))
    | with_reducible refine setLane_frame ?_ (by with_unfolding_all rfl)
    | with_reducible refine ddpWrite_frame ?_ (by with_unfolding_all rfl)
    | with_reducible refine feCtlWrite_frame ?_ (by with_unfolding_all rfl)
    | with_reducible refine feEvent_frame ?_ (by with_unfolding_all rfl)
    | with_reducible refine paQueue_frame ?_ (by with_unfolding_all rfl)
    | with_reducible refine decEvent_frame ?_ (by with_unfolding_all rfl)
    | with_reducible refine rowCtlWrite_frame ?_ (by with_unfolding_all rfl)
    | with_reducible refine rowEvent_frame ?_ (by with_unfolding_all rfl)
    | with_reducible refine ldCmdWrite_frame ?_ (by with_unfolding_all rfl)
    | with_reducible refine patCtlWrite_frame ?_ (by with_unfolding_all rfl)
    | with_reducible refine darnWrite_frame ?_ (by with_unfolding_all rfl)
    | with_reducible refine darnRead_frame ?_ (by with_unfolding_all rfl)
    | with_reducible refine matchWrite_frame ?_ (by with_unfolding_all rfl)
    | with_reducible apply Frame.ite
    | with_reducible exact Frame.ofMk (by first | exact Frame.refl | assumption) frMine frMine frSame frSame frMine frMine frMine frSame frMine frMine frMine frSame frMine frMine frMine frMine frMine frMine frMine frSame rfl rfl rfl (by first | exact .inr .refl | exact .inr ⟨rfl, rfl, rfl, rfl, id⟩ | exact .inr ⟨rfl, rfl, rfl, rfl, fun _ => rfl⟩ | exact .inr (.ite ⟨rfl, rfl, rfl, rfl, id⟩ ⟨rfl, rfl, rfl, rfl, id⟩)) (by first | exact .inr .refl | exact .inr ⟨rfl, rfl, rfl, rfl⟩ | exact .inr (addFaultRecord_binds _ _) | with_unfolding_all exact .inr ⟨rfl, rfl, rfl, rfl⟩)
    | with_reducible apply Frame.refl
    | with_reducible assumption
    | split

end Sys2Proof.Laws
end

