-- ==== Sys2Proof/Laws/Frames/Admin.lean ====
section
/-!
SUPPORT. The frames of the operations of Machine/Admin.lean: the parts each may change.
-/
namespace Sys2Proof.Laws
open Sys2Proof Sys2Proof.Machine

set_option linter.all false
set_option Elab.async false

theorem done_frame {k : Parts} {s t : State} {a0 : Nat} {a1 : Nat}
    (h : Frame k s t) (hk : sub { hif := true } k = true) :
    Frame k s (done a0 a1 t) := by
  refine Frame.step h (l := { hif := true }) ?_ hk
  clear h hk
  unfold done
  repeat' first
    | (extract_lets +onlyGivenNames -merge -underBinder x; first | (with_reducible refine Frame.cutTo (t := x) ?_ ?_; rotate_left; (try clear_value x); rename _ => y; intro hx; rotate_left; clear_value (hh : x = _); subst hh) | (clear_value x; rename _ => y) | (have hq := x; clear hq; rename _ => y))
    | with_reducible refine complete_frame ?_ (by with_unfolding_all rfl)
    | with_reducible apply Frame.refl
    | with_reducible assumption

theorem refuse_frame {k : Parts} {s t : State} {a0 : Nat} {a1 : Nat} {a2 : Status}
    (h : Frame k s t) (hk : sub { hif := true } k = true) :
    Frame k s (refuse a0 a1 a2 t) := by
  refine Frame.step h (l := { hif := true }) ?_ hk
  clear h hk
  unfold refuse
  repeat' first
    | (extract_lets +onlyGivenNames -merge -underBinder x; first | (with_reducible refine Frame.cutTo (t := x) ?_ ?_; rotate_left; (try clear_value x); rename _ => y; intro hx; rotate_left; clear_value (hh : x = _); subst hh) | (clear_value x; rename _ => y) | (have hq := x; clear hq; rename _ => y))
    | with_reducible refine complete_frame ?_ (by with_unfolding_all rfl)
    | with_reducible apply Frame.refl
    | with_reducible assumption

theorem identifyCmd_frame {k : Parts} {s t : State} {a0 : Nat} {a1 : Nat} {a2 : Nat} {a3 : Nat} {a4 : Nat} {a5 : Nat}
    (h : Frame k s t) (hk : sub { hif := true, free := true } k = true) :
    Frame k s (identifyCmd a0 a1 a2 a3 a4 a5 t) := by
  refine Frame.step h (l := { hif := true, free := true }) ?_ hk
  clear h hk
  unfold identifyCmd
  repeat' first
    | (extract_lets +onlyGivenNames -merge -underBinder x; first | (with_reducible refine Frame.cutTo (t := x) ?_ ?_; rotate_left; (try clear_value x); rename _ => y; intro hx; rotate_left; clear_value (hh : x = _); subst hh) | (with_reducible refine Frame.cutTo (t := (Prod.snd x)) ?_ ?_; rotate_left; (try clear_value x); rename _ => y; intro hx; rotate_left; clear_value (hh : x = _); subst hh) | (with_reducible refine Frame.cutTo (t := (Prod.snd (Prod.snd x) : State)) ?_ ?_; rotate_left; (try clear_value x); rename _ => y; intro hx; rotate_left; clear_value (hh : x = _); subst hh) | (clear_value x; rename _ => y) | (have hq := x; clear hq; rename _ => y))
    | with_reducible refine identifyPage_frame ?_ (by with_unfolding_all rfl)
    | with_reducible refine identifyPage_pair (by assumption) ?_ (by with_unfolding_all rfl)
    | with_reducible refine complete_frame ?_ (by with_unfolding_all rfl)
    | with_reducible apply Frame.ite
    | with_reducible apply Frame.refl
    | with_reducible assumption
    | split

theorem execIdentify_frame {s t : State} {a0 : CtlIx} {a1 : Nat} {a2 : Nat} {a3 : Nat} {a4 : Nat} (e : execIdentify a0 a1 a2 a3 a4 s = .next t) :
    Frame { hif := true, free := true } s t := by
  unfold execIdentify at e
  refine Frame.act ?_ e
  clear e
  try dsimp -zeta only
  repeat' first
    | with_reducible refine adminRun_frame ?_ ?_ (by with_unfolding_all rfl)
    | with_reducible refine identifyCmd_frame ?_ (by with_unfolding_all rfl)
    | with_reducible apply Frame.refl
    | with_reducible assumption
    | intro _ _ _
    | intro _ _

theorem readEvents_frame {k : Parts} {s t : State} {a0 : Fin 2} {a1 : Nat}
    (h : Frame k s t) (hk : sub { hif := true } k = true) :
    Frame k s (readEvents a0 a1 t) := by
  refine Frame.step h (l := { hif := true }) ?_ hk
  clear h hk
  unfold readEvents
  repeat' first
    | (extract_lets +onlyGivenNames -merge -underBinder x; first | (with_reducible refine Frame.cutTo (t := x) ?_ ?_; rotate_left; (try clear_value x); rename _ => y; intro hx; rotate_left; clear_value (hh : x = _); subst hh) | (clear_value x; rename _ => y) | (have hq := x; clear hq; rename _ => y))
    | with_reducible refine setCtl_frame ?_ (by with_unfolding_all rfl)
    | with_reducible exact Frame.ofMk (by first | exact Frame.refl | assumption) frSame frSame frSame frSame frSame frSame frSame frSame frSame frSame frSame frSame frSame frSame frSame frSame frSame frSame frMine frSame rfl rfl rfl (.inr .refl) (.inr .refl)
    | with_reducible apply Frame.refl
    | with_reducible assumption

theorem getLogCmd_frame {k : Parts} {s t : State} {a0 : Nat} {a1 : Nat} {a2 : Bool} {a3 : Nat} {a4 : Nat} {a5 : Nat}
    (h : Frame k s t) (hk : sub { hif := true, free := true } k = true) :
    Frame k s (getLogCmd a0 a1 a2 a3 a4 a5 t) := by
  refine Frame.step h (l := { hif := true, free := true }) ?_ hk
  clear h hk
  unfold getLogCmd
  repeat' first
    | (extract_lets +onlyGivenNames -merge -underBinder x; first | (with_reducible refine Frame.cutTo (t := x) ?_ ?_; rotate_left; (try clear_value x); rename _ => y; intro hx; rotate_left; clear_value (hh : x = _); subst hh) | (with_reducible refine Frame.cutTo (t := (Prod.snd x)) ?_ ?_; rotate_left; (try clear_value x); rename _ => y; intro hx; rotate_left; clear_value (hh : x = _); subst hh) | (clear_value x; rename _ => y) | (have hq := x; clear hq; rename _ => y))
    | with_reducible refine refuse_frame ?_ (by with_unfolding_all rfl)
    | with_reducible refine logPage_frame ?_ (by with_unfolding_all rfl)
    | with_reducible refine logPage_pair (by assumption) ?_ (by with_unfolding_all rfl)
    | with_reducible refine readEvents_frame ?_ (by with_unfolding_all rfl)
    | with_reducible refine complete_frame ?_ (by with_unfolding_all rfl)
    | with_reducible apply Frame.ite
    | with_reducible apply Frame.refl
    | with_reducible assumption
    | split

theorem execGetLogPage_frame {s t : State} {a0 : CtlIx} {a1 : Nat} {a2 : Bool} {a3 : Nat} {a4 : Nat} (e : execGetLogPage a0 a1 a2 a3 a4 s = .next t) :
    Frame { hif := true, free := true } s t := by
  unfold execGetLogPage at e
  refine Frame.act ?_ e
  clear e
  try dsimp -zeta only
  repeat' first
    | with_reducible refine adminRun_frame ?_ ?_ (by with_unfolding_all rfl)
    | with_reducible refine getLogCmd_frame ?_ (by with_unfolding_all rfl)
    | with_reducible apply Frame.refl
    | with_reducible assumption
    | intro _ _ _
    | intro _ _

theorem putFeature_frame {k : Parts} {s t : State} {a0 : Nat} {a1 : Nat} {a2 : Nat} {a3 : Bool}
    (h : Frame k s t) (hk : sub { host := true } k = true) :
    Frame k s (putFeature a0 a1 a2 a3 t) := by
  refine Frame.step h (l := { host := true }) ?_ hk
  clear h hk
  unfold putFeature
  repeat' first
    | (extract_lets +onlyGivenNames -merge -underBinder x; first | (with_reducible refine Frame.cutTo (t := x) ?_ ?_; rotate_left; (try clear_value x); rename _ => y; intro hx; rotate_left; clear_value (hh : x = _); subst hh) | (clear_value x; rename _ => y) | (have hq := x; clear hq; rename _ => y))
    | with_reducible refine setFeature_frame ?_ (by with_unfolding_all rfl)
    | with_reducible apply Frame.ite
    | with_reducible exact Frame.ofMk (by first | exact Frame.refl | assumption) frSame frSame frSame frSame frSame frSame frSame frSame frSame frSame frSame frSame frSame frSame frSame frSame frSame frSame frSame frMine rfl rfl rfl (.inr .refl) (.inr .refl)
    | with_reducible apply Frame.refl
    | with_reducible assumption
    | split

theorem powerCmd_frame {k : Parts} {s t : State} {a0 : Nat} {a1 : Nat} {a2 : Nat}
    (h : Frame k s t) (hk : sub partsNextPs k = true) :
    Frame k s (powerCmd a0 a1 a2 t) := by
  refine Frame.step h (l := partsNextPs) ?_ hk
  clear h hk
  unfold powerCmd
  repeat' first
    | (extract_lets +onlyGivenNames -merge -underBinder x; first | (with_reducible refine Frame.cutTo (t := x) ?_ ?_; rotate_left; (try clear_value x); rename _ => y; intro hx; rotate_left; clear_value (hh : x = _); subst hh) | (have hq : Flt := x; clear hq; rename _ => y) | (have hq : Sys := x; clear hq; rename _ => y) | (clear_value x; rename _ => y) | (have hq := x; clear hq; rename _ => y))
    | with_reducible refine refuse_frame ?_ (by with_unfolding_all rfl)
    | with_reducible refine nextPs_frame ?_ (by with_unfolding_all rfl)
    | with_reducible apply Frame.ite
    | with_reducible exact Frame.ofMk (by first | exact Frame.refl | assumption) frMine frMine frMine frSame frMine frMine frMine frSame frMine frMine frMine frSame frMine frMine frMine frMine frMine frMine frMine frMine rfl rfl rfl (by first | exact .inr .refl | exact .inr ⟨rfl, rfl, rfl, rfl, id⟩ | exact .inr ⟨rfl, rfl, rfl, rfl, fun _ => rfl⟩ | exact .inr (.ite ⟨rfl, rfl, rfl, rfl, id⟩ ⟨rfl, rfl, rfl, rfl, id⟩)) (by first | exact .inr .refl | exact .inr ⟨rfl, rfl, rfl, rfl⟩ | exact .inr (addFaultRecord_binds _ _) | with_unfolding_all exact .inr ⟨rfl, rfl, rfl, rfl⟩)
    | with_reducible apply Frame.refl
    | with_reducible assumption
    | split

theorem execPowerManagement_frame {s t : State} {a0 : CtlIx} {a1 : Nat} (e : execPowerManagement a0 a1 s = .next t) :
    Frame partsNextPs s t := by
  unfold execPowerManagement at e
  refine Frame.act ?_ e
  clear e
  try dsimp -zeta only
  repeat' first
    | with_reducible refine adminServe_frame ?_ ?_ (by with_unfolding_all rfl)
    | with_reducible refine refuse_frame ?_ (by with_unfolding_all rfl)
    | with_reducible refine powerCmd_frame ?_ (by with_unfolding_all rfl)
    | with_reducible apply Frame.ite
    | with_reducible apply Frame.refl
    | with_reducible assumption
    | intro _ _ _
    | intro _ _
    | split

theorem layoutCmd_frame {k : Parts} {s t : State} {a0 : Nat} {a1 : Bool} {a2 : Nat} {a3 : Nat}
    (h : Frame k s t) (hk : sub { hif := true, host := true } k = true) :
    Frame k s (layoutCmd a0 a1 a2 a3 t) := by
  refine Frame.step h (l := { hif := true, host := true }) ?_ hk
  clear h hk
  unfold layoutCmd
  repeat' first
    | with_reducible refine done_frame ?_ (by with_unfolding_all rfl)
    | with_reducible refine putFeature_frame ?_ (by with_unfolding_all rfl)
    | with_reducible refine refuse_frame ?_ (by with_unfolding_all rfl)
    | with_reducible apply Frame.ite
    | with_reducible apply Frame.refl
    | with_reducible assumption
    | split

theorem execLayoutDefaults_frame {s t : State} {a0 : CtlIx} {a1 : Bool} {a2 : Nat} (e : execLayoutDefaults a0 a1 a2 s = .next t) :
    Frame { hif := true, host := true } s t := by
  unfold execLayoutDefaults at e
  refine Frame.act ?_ e
  clear e
  try dsimp -zeta only
  repeat' first
    | with_reducible refine adminServe_frame ?_ ?_ (by with_unfolding_all rfl)
    | with_reducible refine refuse_frame ?_ (by with_unfolding_all rfl)
    | with_reducible refine layoutCmd_frame ?_ (by with_unfolding_all rfl)
    | with_reducible apply Frame.ite
    | with_reducible apply Frame.refl
    | with_reducible assumption
    | intro _ _ _
    | intro _ _
    | split

theorem scrubCmd_frame {k : Parts} {s t : State} {a0 : Nat} {a1 : Bool} {a2 : Nat} {a3 : Nat}
    (h : Frame k s t) (hk : sub { hif := true, host := true } k = true) :
    Frame k s (scrubCmd a0 a1 a2 a3 t) := by
  refine Frame.step h (l := { hif := true, host := true }) ?_ hk
  clear h hk
  unfold scrubCmd
  repeat' first
    | with_reducible refine done_frame ?_ (by with_unfolding_all rfl)
    | with_reducible refine putFeature_frame ?_ (by with_unfolding_all rfl)
    | with_reducible refine refuse_frame ?_ (by with_unfolding_all rfl)
    | with_reducible apply Frame.ite
    | with_reducible apply Frame.refl
    | with_reducible assumption
    | split

theorem execScrubSchedule_frame {s t : State} {a0 : CtlIx} {a1 : Bool} {a2 : Nat} (e : execScrubSchedule a0 a1 a2 s = .next t) :
    Frame { hif := true, host := true } s t := by
  unfold execScrubSchedule at e
  refine Frame.act ?_ e
  clear e
  try dsimp -zeta only
  repeat' first
    | with_reducible refine adminServe_frame ?_ ?_ (by with_unfolding_all rfl)
    | with_reducible refine refuse_frame ?_ (by with_unfolding_all rfl)
    | with_reducible refine scrubCmd_frame ?_ (by with_unfolding_all rfl)
    | with_reducible apply Frame.ite
    | with_reducible apply Frame.refl
    | with_reducible assumption
    | intro _ _ _
    | intro _ _
    | split

theorem permitCmd_frame {k : Parts} {s t : State} {a0 : Nat} {a1 : Bool} {a2 : Nat} {a3 : Nat}
    (h : Frame k s t) (hk : sub { hif := true, host := true } k = true) :
    Frame k s (permitCmd a0 a1 a2 a3 t) := by
  refine Frame.step h (l := { hif := true, host := true }) ?_ hk
  clear h hk
  unfold permitCmd
  repeat' first
    | with_reducible refine done_frame ?_ (by with_unfolding_all rfl)
    | with_reducible refine putFeature_frame ?_ (by with_unfolding_all rfl)
    | with_reducible refine refuse_frame ?_ (by with_unfolding_all rfl)
    | with_reducible apply Frame.ite
    | with_reducible apply Frame.refl
    | with_reducible assumption
    | split

theorem execSpinUpPermitPolicy_frame {s t : State} {a0 : CtlIx} {a1 : Bool} {a2 : Nat} (e : execSpinUpPermitPolicy a0 a1 a2 s = .next t) :
    Frame { hif := true, host := true } s t := by
  unfold execSpinUpPermitPolicy at e
  refine Frame.act ?_ e
  clear e
  try dsimp -zeta only
  repeat' first
    | with_reducible refine adminServe_frame ?_ ?_ (by with_unfolding_all rfl)
    | with_reducible refine refuse_frame ?_ (by with_unfolding_all rfl)
    | with_reducible refine permitCmd_frame ?_ (by with_unfolding_all rfl)
    | with_reducible apply Frame.ite
    | with_reducible apply Frame.refl
    | with_reducible assumption
    | intro _ _ _
    | intro _ _
    | split

theorem windowCmd_frame {k : Parts} {s t : State} {a0 : Nat} {a1 : Bool} {a2 : Nat} {a3 : Nat}
    (h : Frame k s t) (hk : sub { lane := true, media := true, stc := true, spe := true, arr := true, hif := true, host := true, mem := true, free := true } k = true) :
    Frame k s (windowCmd a0 a1 a2 a3 t) := by
  refine Frame.step h (l := { lane := true, media := true, stc := true, spe := true, arr := true, hif := true, host := true, mem := true, free := true }) ?_ hk
  clear h hk
  unfold windowCmd
  repeat' first
    | with_reducible refine kick_frame ?_ (by with_unfolding_all rfl)
    | with_reducible refine done_frame ?_ (by with_unfolding_all rfl)
    | with_reducible refine windowNote_frame ?_ (by with_unfolding_all rfl)
    | with_reducible refine putFeature_frame ?_ (by with_unfolding_all rfl)
    | with_reducible refine refuse_frame ?_ (by with_unfolding_all rfl)
    | with_reducible apply Frame.ite
    | with_reducible apply Frame.refl
    | with_reducible assumption
    | split

theorem execProtectedWriteWindow_frame {s t : State} {a0 : CtlIx} {a1 : Bool} {a2 : Nat} (e : execProtectedWriteWindow a0 a1 a2 s = .next t) :
    Frame { lane := true, media := true, stc := true, spe := true, arr := true, hif := true, host := true, mem := true, free := true } s t := by
  unfold execProtectedWriteWindow at e
  refine Frame.act ?_ e
  clear e
  try dsimp -zeta only
  repeat' first
    | with_reducible refine adminServe_frame ?_ ?_ (by with_unfolding_all rfl)
    | with_reducible refine refuse_frame ?_ (by with_unfolding_all rfl)
    | with_reducible refine windowCmd_frame ?_ (by with_unfolding_all rfl)
    | with_reducible apply Frame.ite
    | with_reducible apply Frame.refl
    | with_reducible assumption
    | intro _ _ _
    | intro _ _
    | split

theorem setFeaturesCmd_frame {k : Parts} {s t : State} {a0 : Nat} {a1 : Nat} {a2 : Bool} {a3 : Nat} {a4 : Nat} {a5 : Nat}
    (h : Frame k s t) (hk : sub partsStartIo k = true) :
    Frame k s (setFeaturesCmd a0 a1 a2 a3 a4 a5 t) := by
  refine Frame.step h (l := partsStartIo) ?_ hk
  clear h hk
  unfold setFeaturesCmd
  repeat' first
    | (extract_lets +onlyGivenNames -merge -underBinder x; first | (with_reducible refine Frame.cutTo (t := x) ?_ ?_; rotate_left; (try clear_value x); rename _ => y; intro hx; rotate_left; clear_value (hh : x = _); subst hh) | (have hq : Flt := x; clear hq; rename _ => y) | (have hq : Sys := x; clear hq; rename _ => y) | (clear_value x; rename _ => y) | (have hq := x; clear hq; rename _ => y))
    | with_reducible refine refuse_frame ?_ (by with_unfolding_all rfl)
    | with_reducible refine powerCmd_frame ?_ (by with_unfolding_all rfl)
    | with_reducible refine complete_frame ?_ (by with_unfolding_all rfl)
    | with_reducible refine putFeature_frame ?_ (by with_unfolding_all rfl)
    | with_reducible refine done_frame ?_ (by with_unfolding_all rfl)
    | with_reducible refine layoutCmd_frame ?_ (by with_unfolding_all rfl)
    | with_reducible refine scrubCmd_frame ?_ (by with_unfolding_all rfl)
    | with_reducible refine permitCmd_frame ?_ (by with_unfolding_all rfl)
    | with_reducible refine windowCmd_frame ?_ (by with_unfolding_all rfl)
    | with_reducible apply Frame.ite
    | with_reducible exact Frame.ofMk (by first | exact Frame.refl | assumption) frMine frMine frMine frSame frMine frMine frMine frSame frMine frMine frMine frMine frMine frMine frMine frMine frMine frMine frMine frMine rfl rfl rfl (by first | exact .inr .refl | exact .inr ⟨rfl, rfl, rfl, rfl, id⟩ | exact .inr ⟨rfl, rfl, rfl, rfl, fun _ => rfl⟩ | exact .inr (.ite ⟨rfl, rfl, rfl, rfl, id⟩ ⟨rfl, rfl, rfl, rfl, id⟩)) (by first | exact .inr .refl | exact .inr ⟨rfl, rfl, rfl, rfl⟩ | exact .inr (addFaultRecord_binds _ _) | with_unfolding_all exact .inr ⟨rfl, rfl, rfl, rfl⟩)
    | with_reducible apply Frame.refl
    | with_reducible assumption
    | split

theorem execSetFeatures_frame {s t : State} {a0 : CtlIx} {a1 : Nat} {a2 : Bool} {a3 : Nat} {a4 : Nat} (e : execSetFeatures a0 a1 a2 a3 a4 s = .next t) :
    Frame partsStartIo s t := by
  unfold execSetFeatures at e
  refine Frame.act ?_ e
  clear e
  try dsimp -zeta only
  repeat' first
    | with_reducible refine adminRun_frame ?_ ?_ (by with_unfolding_all rfl)
    | with_reducible refine setFeaturesCmd_frame ?_ (by with_unfolding_all rfl)
    | with_reducible apply Frame.refl
    | with_reducible assumption
    | intro _ _ _
    | intro _ _

theorem getFeaturesCmd_frame {k : Parts} {s t : State} {a0 : Nat} {a1 : Nat} {a2 : Nat} {a3 : Nat} {a4 : Nat}
    (h : Frame k s t) (hk : sub { hif := true } k = true) :
    Frame k s (getFeaturesCmd a0 a1 a2 a3 a4 t) := by
  refine Frame.step h (l := { hif := true }) ?_ hk
  clear h hk
  unfold getFeaturesCmd
  repeat' first
    | (extract_lets +onlyGivenNames -merge -underBinder x; first | (with_reducible refine Frame.cutTo (t := x) ?_ ?_; rotate_left; (try clear_value x); rename _ => y; intro hx; rotate_left; clear_value (hh : x = _); subst hh) | (clear_value x; rename _ => y) | (have hq := x; clear hq; rename _ => y))
    | with_reducible refine refuse_frame ?_ (by with_unfolding_all rfl)
    | with_reducible refine complete_frame ?_ (by with_unfolding_all rfl)
    | with_reducible apply Frame.ite
    | with_reducible apply Frame.refl
    | with_reducible assumption
    | split

theorem execGetFeatures_frame {s t : State} {a0 : CtlIx} {a1 : Nat} {a2 : Nat} {a3 : Nat} (e : execGetFeatures a0 a1 a2 a3 s = .next t) :
    Frame { hif := true } s t := by
  unfold execGetFeatures at e
  refine Frame.act ?_ e
  clear e
  try dsimp -zeta only
  repeat' first
    | with_reducible refine adminRun_frame ?_ ?_ (by with_unfolding_all rfl)
    | with_reducible refine getFeaturesCmd_frame ?_ (by with_unfolding_all rfl)
    | with_reducible apply Frame.refl
    | with_reducible assumption
    | intro _ _ _
    | intro _ _

theorem createCq_frame {k : Parts} {s t : State} {a0 : CtlIx} {a1 : Nat} {a2 : Nat} {a3 : Nat} {a4 : Nat}
    (h : Frame k s t) (hk : sub { hif := true } k = true) :
    Frame k s (createCq a0 a1 a2 a3 a4 t) := by
  refine Frame.step h (l := { hif := true }) ?_ hk
  clear h hk
  unfold createCq
  repeat' first
    | (extract_lets +onlyGivenNames -merge -underBinder x; first | (with_reducible refine Frame.cutTo (t := x) ?_ ?_; rotate_left; (try clear_value x); rename _ => y; intro hx; rotate_left; clear_value (hh : x = _); subst hh) | (clear_value x; rename _ => y) | (have hq := x; clear hq; rename _ => y))
    | with_reducible refine refuse_frame ?_ (by with_unfolding_all rfl)
    | with_reducible refine done_frame ?_ (by with_unfolding_all rfl)
    | with_reducible refine setCtl_frame ?_ (by with_unfolding_all rfl)
    | with_reducible apply Frame.ite
    | with_reducible exact Frame.ofMk (by first | exact Frame.refl | assumption) frSame frSame frSame frSame frSame frSame frSame frSame frSame frSame frSame frSame frSame frSame frSame frSame frSame frSame frMine frSame rfl rfl rfl (.inr .refl) (.inr .refl)
    | with_reducible apply Frame.refl
    | with_reducible assumption
    | split

theorem execCreateIoCq_frame {s t : State} {a0 : CtlIx} {a1 : Nat} {a2 : Nat} {a3 : Nat} (e : execCreateIoCq a0 a1 a2 a3 s = .next t) :
    Frame { hif := true } s t := by
  unfold execCreateIoCq at e
  refine Frame.act ?_ e
  clear e
  try dsimp -zeta only
  repeat' first
    | with_reducible refine adminRun_frame ?_ ?_ (by with_unfolding_all rfl)
    | with_reducible refine createCq_frame ?_ (by with_unfolding_all rfl)
    | with_reducible apply Frame.refl
    | with_reducible assumption
    | intro _ _ _
    | intro _ _

theorem createSq_frame {k : Parts} {s t : State} {a0 : CtlIx} {a1 : Nat} {a2 : Nat} {a3 : Nat} {a4 : Nat}
    (h : Frame k s t) (hk : sub { hif := true } k = true) :
    Frame k s (createSq a0 a1 a2 a3 a4 t) := by
  refine Frame.step h (l := { hif := true }) ?_ hk
  clear h hk
  unfold createSq
  repeat' first
    | (extract_lets +onlyGivenNames -merge -underBinder x; first | (with_reducible refine Frame.cutTo (t := x) ?_ ?_; rotate_left; (try clear_value x); rename _ => y; intro hx; rotate_left; clear_value (hh : x = _); subst hh) | (clear_value x; rename _ => y) | (have hq := x; clear hq; rename _ => y))
    | with_reducible refine refuse_frame ?_ (by with_unfolding_all rfl)
    | with_reducible refine done_frame ?_ (by with_unfolding_all rfl)
    | with_reducible refine setCtl_frame ?_ (by with_unfolding_all rfl)
    | with_reducible apply Frame.ite
    | with_reducible exact Frame.ofMk (by first | exact Frame.refl | assumption) frSame frSame frSame frSame frSame frSame frSame frSame frSame frSame frSame frSame frSame frSame frSame frSame frSame frSame frMine frSame rfl rfl rfl (.inr .refl) (.inr .refl)
    | with_reducible apply Frame.refl
    | with_reducible assumption
    | split

theorem execCreateIoSq_frame {s t : State} {a0 : CtlIx} {a1 : Nat} {a2 : Nat} {a3 : Nat} (e : execCreateIoSq a0 a1 a2 a3 s = .next t) :
    Frame { hif := true } s t := by
  unfold execCreateIoSq at e
  refine Frame.act ?_ e
  clear e
  try dsimp -zeta only
  repeat' first
    | with_reducible refine adminRun_frame ?_ ?_ (by with_unfolding_all rfl)
    | with_reducible refine createSq_frame ?_ (by with_unfolding_all rfl)
    | with_reducible apply Frame.refl
    | with_reducible assumption
    | intro _ _ _
    | intro _ _

theorem deleteCq_frame {k : Parts} {s t : State} {a0 : CtlIx} {a1 : Nat} {a2 : Nat}
    (h : Frame k s t) (hk : sub { hif := true } k = true) :
    Frame k s (deleteCq a0 a1 a2 t) := by
  refine Frame.step h (l := { hif := true }) ?_ hk
  clear h hk
  unfold deleteCq
  repeat' first
    | (extract_lets +onlyGivenNames -merge -underBinder x; first | (with_reducible refine Frame.cutTo (t := x) ?_ ?_; rotate_left; (try clear_value x); rename _ => y; intro hx; rotate_left; clear_value (hh : x = _); subst hh) | (clear_value x; rename _ => y) | (have hq := x; clear hq; rename _ => y))
    | with_reducible refine refuse_frame ?_ (by with_unfolding_all rfl)
    | with_reducible refine done_frame ?_ (by with_unfolding_all rfl)
    | with_reducible refine setCtl_frame ?_ (by with_unfolding_all rfl)
    | with_reducible apply Frame.ite
    | with_reducible exact Frame.ofMk (by first | exact Frame.refl | assumption) frSame frSame frSame frSame frSame frSame frSame frSame frSame frSame frSame frSame frSame frSame frSame frSame frSame frSame frMine frSame rfl rfl rfl (.inr .refl) (.inr .refl)
    | with_reducible apply Frame.refl
    | with_reducible assumption
    | split

theorem execDeleteIoCq_frame {s t : State} {a0 : CtlIx} {a1 : Nat} (e : execDeleteIoCq a0 a1 s = .next t) :
    Frame { hif := true } s t := by
  unfold execDeleteIoCq at e
  refine Frame.act ?_ e
  clear e
  try dsimp -zeta only
  repeat' first
    | (extract_lets +onlyGivenNames -merge -underBinder x; first | (with_reducible refine Frame.cutTo (t := x) ?_ ?_; rotate_left; (try clear_value x); rename _ => y; intro hx; rotate_left; clear_value (hh : x = _); subst hh) | (clear_value x; rename _ => y) | (have hq := x; clear hq; rename _ => y))
    | with_reducible refine adminRun_frame ?_ ?_ (by with_unfolding_all rfl)
    | with_reducible refine deleteCq_frame ?_ (by with_unfolding_all rfl)
    | with_reducible apply Frame.refl
    | with_reducible assumption
    | intro _ _ _
    | intro _ _

theorem deleteSq_frame {k : Parts} {s t : State} {a0 : CtlIx} {a1 : Nat} {a2 : Nat}
    (h : Frame k s t) (hk : sub { hif := true } k = true) :
    Frame k s (deleteSq a0 a1 a2 t) := by
  refine Frame.step h (l := { hif := true }) ?_ hk
  clear h hk
  unfold deleteSq
  repeat' first
    | (extract_lets +onlyGivenNames -merge -underBinder x; first | (with_reducible refine Frame.cutTo (t := x) ?_ ?_; rotate_left; (try clear_value x); rename _ => y; intro hx; rotate_left; clear_value (hh : x = _); subst hh) | (clear_value x; rename _ => y) | (have hq := x; clear hq; rename _ => y))
    | with_reducible refine refuse_frame ?_ (by with_unfolding_all rfl)
    | with_reducible refine done_frame ?_ (by with_unfolding_all rfl)
    | with_reducible refine setCtl_frame ?_ (by with_unfolding_all rfl)
    | with_reducible apply Frame.ite
    | with_reducible exact Frame.ofMk (by first | exact Frame.refl | assumption) frSame frSame frSame frSame frSame frSame frSame frSame frSame frSame frSame frSame frSame frSame frSame frSame frSame frSame frMine frSame rfl rfl rfl (.inr .refl) (.inr .refl)
    | with_reducible apply Frame.refl
    | with_reducible assumption
    | split

theorem execDeleteIoSq_frame {s t : State} {a0 : CtlIx} {a1 : Nat} (e : execDeleteIoSq a0 a1 s = .next t) :
    Frame { hif := true } s t := by
  unfold execDeleteIoSq at e
  refine Frame.act ?_ e
  clear e
  try dsimp -zeta only
  repeat' first
    | (extract_lets +onlyGivenNames -merge -underBinder x; first | (with_reducible refine Frame.cutTo (t := x) ?_ ?_; rotate_left; (try clear_value x); rename _ => y; intro hx; rotate_left; clear_value (hh : x = _); subst hh) | (clear_value x; rename _ => y) | (have hq := x; clear hq; rename _ => y))
    | with_reducible refine adminRun_frame ?_ ?_ (by with_unfolding_all rfl)
    | with_reducible refine deleteSq_frame ?_ (by with_unfolding_all rfl)
    | with_reducible apply Frame.refl
    | with_reducible assumption
    | intro _ _ _
    | intro _ _

theorem abortCmd_frame {k : Parts} {s t : State} {a0 : CtlIx} {a1 : Nat} {a2 : Nat}
    (h : Frame k s t) (hk : sub partsKick k = true) :
    Frame k s (abortCmd a0 a1 a2 t) := by
  refine Frame.step h (l := partsKick) ?_ hk
  clear h hk
  unfold abortCmd
  repeat' first
    | (extract_lets +onlyGivenNames -merge -underBinder x; first | (with_reducible refine Frame.cutTo (t := x) ?_ ?_; rotate_left; (try clear_value x); rename _ => y; intro hx; rotate_left; clear_value (hh : x = _); subst hh) | (clear_value x; rename _ => y) | (have hq := x; clear hq; rename _ => y))
    | with_reducible refine setCtl_frame ?_ (by with_unfolding_all rfl)
    | with_reducible refine kick_frame ?_ (by with_unfolding_all rfl)
    | with_reducible refine done_frame ?_ (by with_unfolding_all rfl)
    | with_reducible refine complete_frame ?_ (by with_unfolding_all rfl)
    | with_reducible apply Frame.ite
    | with_reducible exact Frame.ofMk (by first | exact Frame.refl | assumption) frSame frSame frSame frSame frSame frSame frSame frSame frSame frMine frSame frMine frSame frSame frSame frSame frMine frMine frMine frMine rfl rfl rfl (.inr .refl) (.inr .refl)
    | with_reducible apply Frame.refl
    | with_reducible assumption
    | split

theorem execAbort_frame {s t : State} {a0 : CtlIx} {a1 : Nat} (e : execAbort a0 a1 s = .next t) :
    Frame partsKick s t := by
  unfold execAbort at e
  refine Frame.act ?_ e
  clear e
  try dsimp -zeta only
  repeat' first
    | with_reducible refine adminRun_frame ?_ ?_ (by with_unfolding_all rfl)
    | with_reducible refine abortCmd_frame ?_ (by with_unfolding_all rfl)
    | with_reducible apply Frame.refl
    | with_reducible assumption
    | intro _ _ _
    | intro _ _

theorem aerCmd_frame {k : Parts} {s t : State} {a0 : CtlIx} {a1 : Nat}
    (h : Frame k s t) (hk : sub { hif := true } k = true) :
    Frame k s (aerCmd a0 a1 t) := by
  refine Frame.step h (l := { hif := true }) ?_ hk
  clear h hk
  unfold aerCmd
  repeat' first
    | (extract_lets +onlyGivenNames -merge -underBinder x; first | (with_reducible refine Frame.cutTo (t := x) ?_ ?_; rotate_left; (try clear_value x); rename _ => y; intro hx; rotate_left; clear_value (hh : x = _); subst hh) | (clear_value x; rename _ => y) | (have hq := x; clear hq; rename _ => y))
    | with_reducible refine complete_frame ?_ (by with_unfolding_all rfl)
    | with_reducible refine setCtl_frame ?_ (by with_unfolding_all rfl)
    | with_reducible apply Frame.ite
    | with_reducible exact Frame.ofMk (by first | exact Frame.refl | assumption) frSame frSame frSame frSame frSame frSame frSame frSame frSame frSame frSame frSame frSame frSame frSame frSame frSame frSame frMine frSame rfl rfl rfl (.inr .refl) (.inr .refl)
    | with_reducible apply Frame.refl
    | with_reducible assumption
    | split

theorem execAsynchronousEventRequest_frame {s t : State} {a0 : CtlIx} (e : execAsynchronousEventRequest a0 s = .next t) :
    Frame { hif := true } s t := by
  unfold execAsynchronousEventRequest at e
  refine Frame.act ?_ e
  clear e
  try dsimp -zeta only
  repeat' first
    | with_reducible refine adminRun_frame ?_ ?_ (by with_unfolding_all rfl)
    | with_reducible refine aerCmd_frame ?_ (by with_unfolding_all rfl)
    | with_reducible apply Frame.refl
    | with_reducible assumption
    | intro _ _ _
    | intro _ _

theorem createDo_frame {k : Parts} {s t : State} {a0 : Nat} {a1 : NsCreate}
    (h : Frame k s t) (hk : sub { arr := true, host := true } k = true) :
    Frame k s (createDo a0 a1 t) := by
  refine Frame.step h (l := { arr := true, host := true }) ?_ hk
  clear h hk
  unfold createDo
  repeat' first
    | (extract_lets +onlyGivenNames -merge -underBinder x; first | (with_reducible refine Frame.cutTo (t := x) ?_ ?_; rotate_left; (try clear_value x); rename _ => y; intro hx; rotate_left; clear_value (hh : x = _); subst hh) | (clear_value x; rename _ => y) | (have hq := x; clear hq; rename _ => y))
    | with_reducible refine setZone_frame ?_ (by with_unfolding_all rfl)
    | with_reducible apply Frame.foldl
    | with_reducible exact Frame.ofMk (by first | exact Frame.refl | assumption) frSame frSame frSame frSame frSame frSame frSame frSame frSame frSame frSame frSame frSame frSame frSame frSame frSame frMine frSame frMine rfl rfl rfl (.inr .refl) (.inr .refl)
    | with_reducible apply Frame.refl
    | with_reducible assumption
    | intro _ _ _
    | intro _ _

theorem nsManage_frame {k : Parts} {s t : State} {a0 : Nat} {a1 : Option NsCreate} {a2 : Nat} {a3 : Nat}
    (h : Frame k s t) (hk : sub partsKick k = true) :
    Frame k s (nsManage a0 a1 a2 a3 t) := by
  refine Frame.step h (l := partsKick) ?_ hk
  clear h hk
  unfold nsManage
  repeat' first
    | (extract_lets +onlyGivenNames -merge -underBinder x; first | (with_reducible refine Frame.cutTo (t := x) ?_ ?_; rotate_left; (try clear_value x); rename _ => y; intro hx; rotate_left; clear_value (hh : x = _); subst hh) | (clear_value x; rename _ => y) | (have hq := x; clear hq; rename _ => y))
    | with_reducible refine complete_frame ?_ (by with_unfolding_all rfl)
    | with_reducible refine createDo_frame ?_ (by with_unfolding_all rfl)
    | with_reducible refine refuse_frame ?_ (by with_unfolding_all rfl)
    | with_reducible refine kick_frame ?_ (by with_unfolding_all rfl)
    | with_reducible refine eraseStart_frame ?_ (by with_unfolding_all rfl)
    | with_reducible apply Frame.ite
    | with_reducible exact Frame.ofMk (by first | exact Frame.refl | assumption) frSame frSame frSame frSame frSame frSame frSame frSame frSame frMine frSame frMine frSame frSame frSame frSame frMine frMine frMine frMine rfl rfl rfl (.inr .refl) (.inr .refl)
    | with_reducible apply Frame.refl
    | with_reducible assumption
    | split

theorem execNamespaceManagement_frame {s t : State} {a0 : CtlIx} {a1 : Option NsCreate} {a2 : Nat} (e : execNamespaceManagement a0 a1 a2 s = .next t) :
    Frame partsKick s t := by
  unfold execNamespaceManagement at e
  refine Frame.act ?_ e
  clear e
  try dsimp -zeta only
  repeat' first
    | with_reducible refine adminRun_frame ?_ ?_ (by with_unfolding_all rfl)
    | with_reducible refine nsManage_frame ?_ (by with_unfolding_all rfl)
    | with_reducible apply Frame.refl
    | with_reducible assumption
    | intro _ _ _
    | intro _ _

theorem nsAttach_frame {k : Parts} {s t : State} {a0 : Nat} {a1 : Nat} {a2 : Bool} {a3 : BitVec 2} {a4 : Nat}
    (h : Frame k s t) (hk : sub { hif := true, host := true } k = true) :
    Frame k s (nsAttach a0 a1 a2 a3 a4 t) := by
  refine Frame.step h (l := { hif := true, host := true }) ?_ hk
  clear h hk
  unfold nsAttach
  repeat' first
    | (extract_lets +onlyGivenNames -merge -underBinder x; first | (with_reducible refine Frame.cutTo (t := x) ?_ ?_; rotate_left; (try clear_value x); rename _ => y; intro hx; rotate_left; clear_value (hh : x = _); subst hh) | (clear_value x; rename _ => y) | (have hq := x; clear hq; rename _ => y))
    | with_reducible refine refuse_frame ?_ (by with_unfolding_all rfl)
    | with_reducible refine done_frame ?_ (by with_unfolding_all rfl)
    | with_reducible apply Frame.ite
    | with_reducible exact Frame.ofMk (by first | exact Frame.refl | assumption) frSame frSame frSame frSame frSame frSame frSame frSame frSame frSame frSame frSame frSame frSame frSame frSame frSame frSame frMine frMine rfl rfl rfl (.inr .refl) (.inr .refl)
    | with_reducible apply Frame.refl
    | with_reducible assumption
    | split

theorem execNamespaceAttachment_frame {s t : State} {a0 : CtlIx} {a1 : Nat} {a2 : Bool} {a3 : BitVec 2} (e : execNamespaceAttachment a0 a1 a2 a3 s = .next t) :
    Frame { hif := true, host := true } s t := by
  unfold execNamespaceAttachment at e
  refine Frame.act ?_ e
  clear e
  try dsimp -zeta only
  repeat' first
    | with_reducible refine adminRun_frame ?_ ?_ (by with_unfolding_all rfl)
    | with_reducible refine nsAttach_frame ?_ (by with_unfolding_all rfl)
    | with_reducible apply Frame.refl
    | with_reducible assumption
    | intro _ _ _
    | intro _ _

end Sys2Proof.Laws
end

