-- ==== Sys2Proof/Laws/Frames/HostCtl.lean ====
section
/-!
SUPPORT. The frames of the operations of Machine/HostCtl.lean: the parts each may change.
-/
namespace Sys2Proof.Laws
open Sys2Proof Sys2Proof.Machine

set_option linter.all false
set_option Elab.async false

theorem fwSwitch_frame {k : Parts} {s t : State} {a0 : Fin 2}
    (h : Frame k s t) (hk : sub { pwr := true, lane := true, stc := true, host := true } k = true) :
    Frame k s (fwSwitch a0 t) := by
  refine Frame.step h (l := { pwr := true, lane := true, stc := true, host := true }) ?_ hk
  clear h hk
  unfold fwSwitch
  repeat' first
    | (extract_lets +onlyGivenNames -merge -underBinder x; first | (with_reducible refine Frame.cutTo (t := x) ?_ ?_; rotate_left; (try clear_value x); rename _ => y; intro hx; rotate_left; clear_value (hh : x = _); subst hh) | (have hq : ∀ a, Frame {} t (x a) → True := fun _ _ => trivial; clear hq; rename _ => y) | (have hq : ∀ a b, Frame {} t (x a b) → True := fun _ _ _ => trivial; clear hq; rename _ => y) | (clear_value x; rename _ => y) | (have hq := x; clear hq; rename _ => y))
    | with_reducible refine stcCond_frame ?_ (by with_unfolding_all rfl)
    | with_reducible apply Frame.foldl
    | with_reducible refine Frame.getDMap ?_ (fun _ => ?_)
    | with_reducible apply Frame.getD
    | with_reducible apply Frame.ite
    | with_reducible exact Frame.ofMk (by first | exact Frame.refl | assumption) frSame frSame frMine frSame frSame frSame frSame frSame frSame frMine frSame frSame frSame frSame frSame frMine frSame frSame frSame frMine rfl rfl rfl (.inr .refl) (.inr .refl)
    | with_reducible apply Frame.refl
    | with_reducible assumption
    | intro _ _ _
    | intro _ _
    | split

theorem fwAtReset_frame {k : Parts} {s t : State} 
    (h : Frame k s t) (hk : sub { flt := true, pwr := true, lane := true, stc := true, host := true } k = true) :
    Frame k s (fwAtReset t) := by
  refine Frame.step h (l := { flt := true, pwr := true, lane := true, stc := true, host := true }) ?_ hk
  clear h hk
  unfold fwAtReset
  repeat' first
    | (extract_lets +onlyGivenNames -merge -underBinder x; first | (with_reducible refine Frame.cutTo (t := x) ?_ ?_; rotate_left; (try clear_value x); rename _ => y; intro hx; rotate_left; clear_value (hh : x = _); subst hh) | (have hq : Flt := x; clear hq; rename _ => y) | (clear_value x; rename _ => y) | (have hq := x; clear hq; rename _ => y))
    | with_reducible refine fwSwitch_frame ?_ (by with_unfolding_all rfl)
    | with_reducible refine historyNote_frame ?_ (by with_unfolding_all rfl)
    | with_reducible apply Frame.ite
    | with_reducible exact Frame.ofMk (by first | exact Frame.refl | assumption) frSame frMine frMine frSame frSame frSame frSame frSame frSame frMine frSame frSame frSame frSame frSame frMine frSame frSame frSame frMine rfl rfl rfl (.inr .refl) (by first | exact .inr .refl | exact .inr ⟨rfl, rfl, rfl, rfl⟩ | exact .inr (addFaultRecord_binds _ _) | with_unfolding_all exact .inr ⟨rfl, rfl, rfl, rfl⟩)
    | with_reducible apply Frame.refl
    | with_reducible assumption
    | split

theorem flightGone_frame {k : Parts} {s t : State} {a0 : Nat}
    (h : Frame k s t) (hk : sub { hif := true } k = true) :
    Frame k s (flightGone a0 t) := by
  refine Frame.step h (l := { hif := true }) ?_ hk
  clear h hk
  unfold flightGone
  repeat' first
    | (extract_lets +onlyGivenNames -merge -underBinder x; first | (with_reducible refine Frame.cutTo (t := x) ?_ ?_; rotate_left; (try clear_value x); rename _ => y; intro hx; rotate_left; clear_value (hh : x = _); subst hh) | (clear_value x; rename _ => y) | (have hq := x; clear hq; rename _ => y))
    | with_reducible exact Frame.ofMk (by first | exact Frame.refl | assumption) frSame frSame frSame frSame frSame frSame frSame frSame frSame frSame frSame frSame frSame frSame frSame frSame frSame frSame frMine frSame rfl rfl rfl (.inr .refl) (.inr .refl)
    | with_reducible apply Frame.refl
    | with_reducible assumption

theorem abandonFlight_frame {k : Parts} {s t : State} {a0 : InFlight}
    (h : Frame k s t) (hk : sub { arr := true, hif := true } k = true) :
    Frame k s (abandonFlight a0 t) := by
  refine Frame.step h (l := { arr := true, hif := true }) ?_ hk
  clear h hk
  unfold abandonFlight
  repeat' first
    | (extract_lets +onlyGivenNames -merge -underBinder x; first | (with_reducible refine Frame.cutTo (t := x) ?_ ?_; rotate_left; (try clear_value x); rename _ => y; intro hx; rotate_left; clear_value (hh : x = _); subst hh) | (clear_value x; rename _ => y) | (have hq := x; clear hq; rename _ => y))
    | with_reducible refine flightGone_frame ?_ (by with_unfolding_all rfl)
    | with_reducible refine ackBlocks_frame ?_ (by with_unfolding_all rfl)
    | with_reducible refine setFlight_frame ?_ (by with_unfolding_all rfl)
    | with_reducible refine unlock_frame ?_ (by with_unfolding_all rfl)
    | with_reducible apply Frame.ite
    | with_reducible exact Frame.ofMk (by first | exact Frame.refl | assumption) frSame frSame frSame frSame frSame frSame frSame frSame frSame frSame frSame frSame frSame frSame frSame frSame frSame frMine frMine frSame rfl rfl rfl (.inr .refl) (.inr .refl)
    | with_reducible apply Frame.refl
    | with_reducible assumption
    | split

theorem abortTest_frame {k : Parts} {s t : State} 
    (h : Frame k s t) (hk : sub { hif := true, host := true } k = true) :
    Frame k s (abortTest t) := by
  refine Frame.step h (l := { hif := true, host := true }) ?_ hk
  clear h hk
  unfold abortTest
  repeat' first
    | (extract_lets +onlyGivenNames -merge -underBinder x; first | (with_reducible refine Frame.cutTo (t := x) ?_ ?_; rotate_left; (try clear_value x); rename _ => y; intro hx; rotate_left; clear_value (hh : x = _); subst hh) | (clear_value x; rename _ => y) | (have hq := x; clear hq; rename _ => y))
    | with_reducible refine vendorEvent_frame ?_ (by with_unfolding_all rfl)
    | with_reducible exact Frame.ofMk (by first | exact Frame.refl | assumption) frSame frSame frSame frSame frSame frSame frSame frSame frSame frSame frSame frSame frSame frSame frSame frSame frSame frSame frMine frMine rfl rfl rfl (.inr .refl) (.inr .refl)
    | with_reducible apply Frame.refl
    | with_reducible assumption
    | split

theorem closeSession_frame {k : Parts} {s t : State} 
    (h : Frame k s t) (hk : sub { host := true } k = true) :
    Frame k s (closeSession t) := by
  refine Frame.step h (l := { host := true }) ?_ hk
  clear h hk
  unfold closeSession
  repeat' first
    | (extract_lets +onlyGivenNames -merge -underBinder x; first | (with_reducible refine Frame.cutTo (t := x) ?_ ?_; rotate_left; (try clear_value x); rename _ => y; intro hx; rotate_left; clear_value (hh : x = _); subst hh) | (clear_value x; rename _ => y) | (have hq := x; clear hq; rename _ => y))
    | with_reducible exact Frame.ofMk (by first | exact Frame.refl | assumption) frSame frSame frSame frSame frSame frSame frSame frSame frSame frSame frSame frSame frSame frSame frSame frSame frSame frSame frSame frMine rfl rfl rfl (.inr .refl) (.inr .refl)
    | with_reducible apply Frame.refl
    | with_reducible assumption

theorem abandonCommands_frame {k : Parts} {s t : State} {a0 : CtlIx}
    (h : Frame k s t) (hk : sub partsAbandonCommands k = true) :
    Frame k s (abandonCommands a0 t) := by
  refine Frame.step h (l := partsAbandonCommands) ?_ hk
  clear h hk
  unfold abandonCommands
  repeat' first
    | (extract_lets +onlyGivenNames -merge -underBinder x; first | (with_reducible refine Frame.cutTo (t := x) ?_ ?_; rotate_left; (try clear_value x); rename _ => y; intro hx; rotate_left; clear_value (hh : x = _); subst hh) | (have hq : ∀ a, Frame {} t (x a) → True := fun _ _ => trivial; clear hq; rename _ => y) | (have hq : ∀ a b, Frame {} t (x a b) → True := fun _ _ _ => trivial; clear hq; rename _ => y) | (clear_value x; rename _ => y) | (have hq := x; clear hq; rename _ => y))
    | with_reducible refine unlock_frame ?_ (by with_unfolding_all rfl)
    | with_reducible refine abandonFlight_frame ?_ (by with_unfolding_all rfl)
    | with_reducible refine closeSession_frame ?_ (by with_unfolding_all rfl)
    | with_reducible refine abortTest_frame ?_ (by with_unfolding_all rfl)
    | with_reducible apply Frame.foldl
    | with_reducible apply Frame.ite
    | with_reducible exact Frame.ofMk (by first | exact Frame.refl | assumption) frSame frSame frSame frSame frSame frSame frSame frSame frSame frSame frSame frSame frSame frSame frSame frMine frSame frMine frMine frMine rfl rfl rfl (.inr .refl) (.inr .refl)
    | with_reducible apply Frame.refl
    | with_reducible assumption
    | intro _ _ _
    | intro _ _
    | split

theorem resetController_frame {k : Parts} {s t : State} {a0 : CtlIx}
    (h : Frame k s t) (hk : sub partsEngineFaultW k = true) :
    Frame k s (resetController a0 t) := by
  refine Frame.step h (l := partsEngineFaultW) ?_ hk
  clear h hk
  unfold resetController
  repeat' first
    | (extract_lets +onlyGivenNames -merge -underBinder x; first | (with_reducible refine Frame.cutTo (t := x) ?_ ?_; rotate_left; (try clear_value x); rename _ => y; intro hx; rotate_left; clear_value (hh : x = _); subst hh) | (have hq : Flt := x; clear hq; rename _ => y) | (have hq : Sys := x; clear hq; rename _ => y) | (clear_value x; rename _ => y) | (have hq := x; clear hq; rename _ => y))
    | with_reducible refine portChannelsStop_frame ?_ (by with_unfolding_all rfl)
    | with_reducible refine setCtl_frame ?_ (by with_unfolding_all rfl)
    | with_reducible exact Frame.ofMk (by first | exact Frame.refl | assumption) frMine frMine frSame frSame frMine frMine frMine frSame frMine frMine frMine frSame frMine frMine frMine frMine frMine frMine frMine frSame rfl rfl rfl (by first | exact .inr .refl | exact .inr ⟨rfl, rfl, rfl, rfl, id⟩ | exact .inr ⟨rfl, rfl, rfl, rfl, fun _ => rfl⟩ | exact .inr (.ite ⟨rfl, rfl, rfl, rfl, id⟩ ⟨rfl, rfl, rfl, rfl, id⟩)) (by first | exact .inr .refl | exact .inr ⟨rfl, rfl, rfl, rfl⟩ | exact .inr (addFaultRecord_binds _ _) | with_unfolding_all exact .inr ⟨rfl, rfl, rfl, rfl⟩)
    | with_reducible apply Frame.refl
    | with_reducible assumption

theorem takeRole_frame {k : Parts} {s t : State} {a0 : CtlIx} {a1 : CtlRole}
    (h : Frame k s t) (hk : sub { hif := true } k = true) :
    Frame k s (takeRole a0 a1 t) := by
  refine Frame.step h (l := { hif := true }) ?_ hk
  clear h hk
  unfold takeRole
  repeat' first
    | (extract_lets +onlyGivenNames -merge -underBinder x; first | (with_reducible refine Frame.cutTo (t := x) ?_ ?_; rotate_left; (try clear_value x); rename _ => y; intro hx; rotate_left; clear_value (hh : x = _); subst hh) | (clear_value x; rename _ => y) | (have hq := x; clear hq; rename _ => y))
    | with_reducible refine vendorEvent_frame ?_ (by with_unfolding_all rfl)
    | with_reducible refine setCtl_frame ?_ (by with_unfolding_all rfl)
    | with_reducible apply Frame.ite
    | with_reducible exact Frame.ofMk (by first | exact Frame.refl | assumption) frSame frSame frSame frSame frSame frSame frSame frSame frSame frSame frSame frSame frSame frSame frSame frSame frSame frSame frMine frSame rfl rfl rfl (.inr .refl) (.inr .refl)
    | with_reducible apply Frame.refl
    | with_reducible assumption
    | split

theorem giveRole_frame {k : Parts} {s t : State} {a0 : CtlIx} {a1 : CtlRole}
    (h : Frame k s t) (hk : sub { hif := true } k = true) :
    Frame k s (giveRole a0 a1 t) := by
  refine Frame.step h (l := { hif := true }) ?_ hk
  clear h hk
  unfold giveRole
  repeat' first
    | (extract_lets +onlyGivenNames -merge -underBinder x; first | (with_reducible refine Frame.cutTo (t := x) ?_ ?_; rotate_left; (try clear_value x); rename _ => y; intro hx; rotate_left; clear_value (hh : x = _); subst hh) | (clear_value x; rename _ => y) | (have hq := x; clear hq; rename _ => y))
    | with_reducible refine setCtl_frame ?_ (by with_unfolding_all rfl)
    | with_reducible refine takeRole_frame ?_ (by with_unfolding_all rfl)
    | with_reducible apply Frame.ite
    | with_reducible exact Frame.ofMk (by first | exact Frame.refl | assumption) frSame frSame frSame frSame frSame frSame frSame frSame frSame frSame frSame frSame frSame frSame frSame frSame frSame frSame frMine frSame rfl rfl rfl (.inr .refl) (.inr .refl)
    | with_reducible apply Frame.refl
    | with_reducible assumption
    | split

theorem autoAttach_frame {k : Parts} {s t : State} {a0 : CtlIx}
    (h : Frame k s t) (hk : sub { hif := true } k = true) :
    Frame k s (autoAttach a0 t) := by
  refine Frame.step h (l := { hif := true }) ?_ hk
  clear h hk
  unfold autoAttach
  repeat' first
    | (extract_lets +onlyGivenNames -merge -underBinder x; first | (with_reducible refine Frame.cutTo (t := x) ?_ ?_; rotate_left; (try clear_value x); rename _ => y; intro hx; rotate_left; clear_value (hh : x = _); subst hh) | (clear_value x; rename _ => y) | (have hq := x; clear hq; rename _ => y))
    | with_reducible refine giveRole_frame ?_ (by with_unfolding_all rfl)
    | with_reducible apply Frame.ite
    | with_reducible apply Frame.refl
    | with_reducible assumption
    | split

theorem depart_frame {k : Parts} {s t : State} {a0 : CtlIx} {a1 : Bool}
    (h : Frame k s t) (hk : sub partsAbandonCommands k = true) :
    Frame k s (depart a0 a1 t) := by
  refine Frame.step h (l := partsAbandonCommands) ?_ hk
  clear h hk
  unfold depart
  repeat' first
    | (extract_lets +onlyGivenNames -merge -underBinder x; first | (with_reducible refine Frame.cutTo (t := x) ?_ ?_; rotate_left; (try clear_value x); rename _ => y; intro hx; rotate_left; clear_value (hh : x = _); subst hh) | (clear_value x; rename _ => y) | (have hq := x; clear hq; rename _ => y))
    | with_reducible refine abandonCommands_frame ?_ (by with_unfolding_all rfl)
    | with_reducible refine setCtl_frame ?_ (by with_unfolding_all rfl)
    | with_reducible refine takeRole_frame ?_ (by with_unfolding_all rfl)
    | with_reducible refine autoAttach_frame ?_ (by with_unfolding_all rfl)
    | with_reducible apply Frame.ite
    | with_reducible exact Frame.ofMk (by first | exact Frame.refl | assumption) frSame frSame frSame frSame frSame frSame frSame frSame frSame frSame frSame frSame frSame frSame frSame frMine frSame frMine frMine frMine rfl rfl rfl (.inr .refl) (.inr .refl)
    | with_reducible apply Frame.refl
    | with_reducible assumption
    | split

theorem functionReset_frame {k : Parts} {s t : State} {a0 : CtlIx}
    (h : Frame k s t) (hk : sub partsNextPs k = true) :
    Frame k s (functionReset a0 t) := by
  refine Frame.step h (l := partsNextPs) ?_ hk
  clear h hk
  unfold functionReset
  repeat' first
    | (extract_lets +onlyGivenNames -merge -underBinder x; first | (with_reducible refine Frame.cutTo (t := x) ?_ ?_; rotate_left; (try clear_value x); rename _ => y; intro hx; rotate_left; clear_value (hh : x = _); subst hh) | (have hq : Flt := x; clear hq; rename _ => y) | (have hq : Sys := x; clear hq; rename _ => y) | (clear_value x; rename _ => y) | (have hq := x; clear hq; rename _ => y))
    | with_reducible refine resetController_frame ?_ (by with_unfolding_all rfl)
    | with_reducible refine abandonCommands_frame ?_ (by with_unfolding_all rfl)
    | with_reducible refine depart_frame ?_ (by with_unfolding_all rfl)
    | with_reducible refine takeRole_frame ?_ (by with_unfolding_all rfl)
    | with_reducible refine fwAtReset_frame ?_ (by with_unfolding_all rfl)
    | with_reducible apply Frame.ite
    | with_reducible apply Frame.refl
    | with_reducible assumption
    | split

theorem setPortDom_frame {k : Parts} {s t : State} {a0 : CtlIx} {a1 : DomState}
    (h : Frame k s t) (hk : sub { pwr := true } k = true) :
    Frame k s (setPortDom a0 a1 t) := by
  refine Frame.step h (l := { pwr := true }) ?_ hk
  clear h hk
  unfold setPortDom
  repeat' first
    | (extract_lets +onlyGivenNames -merge -underBinder x; first | (with_reducible refine Frame.cutTo (t := x) ?_ ?_; rotate_left; (try clear_value x); rename _ => y; intro hx; rotate_left; clear_value (hh : x = _); subst hh) | (clear_value x; rename _ => y) | (have hq := x; clear hq; rename _ => y))
    | with_reducible exact Frame.ofMk (by first | exact Frame.refl | assumption) frSame frSame frMine frSame frSame frSame frSame frSame frSame frSame frSame frSame frSame frSame frSame frSame frSame frSame frSame frSame rfl rfl rfl (.inr .refl) (.inr .refl)
    | with_reducible apply Frame.refl
    | with_reducible assumption

theorem portEvent_frame {k : Parts} {s t : State} {a0 : CtlIx} {a1 : Nat}
    (h : Frame k s t) (hk : sub partsEngineFaultW k = true) :
    Frame k s (portEvent a0 a1 t) := by
  refine Frame.step h (l := partsEngineFaultW) ?_ hk
  clear h hk
  unfold portEvent
  repeat' first
    | with_reducible refine hifEvent_frame ?_ (by with_unfolding_all rfl)
    | with_reducible apply Frame.refl
    | with_reducible assumption

theorem onPort_frame {k : Parts} {s t : State} {a0 : CtlIx} {a1 : State → State} (hf : ∀ v, Frame k s v → Frame k s (a1 v))
    (h : Frame k s t) (hk : sub {} k = true) :
    Frame k s (onPort a0 a1 t) := by
  have gen : ∀ (x : State), True := fun _ => trivial
  clear gen
  unfold onPort
  repeat' first
    | with_reducible refine hf _ ?_
    | with_reducible apply Frame.ite
    | with_reducible assumption
    | split

theorem linkGone_frame {k : Parts} {s t : State} {a0 : CtlIx}
    (h : Frame k s t) (hk : sub { pwr := true, hif := true } k = true) :
    Frame k s (linkGone a0 t) := by
  refine Frame.step h (l := { pwr := true, hif := true }) ?_ hk
  clear h hk
  unfold linkGone
  repeat' first
    | (extract_lets +onlyGivenNames -merge -underBinder x; first | (with_reducible refine Frame.cutTo (t := x) ?_ ?_; rotate_left; (try clear_value x); rename _ => y; intro hx; rotate_left; clear_value (hh : x = _); subst hh) | (clear_value x; rename _ => y) | (have hq := x; clear hq; rename _ => y))
    | with_reducible refine setPortDom_frame ?_ (by with_unfolding_all rfl)
    | with_reducible refine setCtl_frame ?_ (by with_unfolding_all rfl)
    | with_reducible exact Frame.ofMk (by first | exact Frame.refl | assumption) frSame frSame frMine frSame frSame frSame frSame frSame frSame frSame frSame frSame frSame frSame frSame frSame frSame frSame frMine frSame rfl rfl rfl (.inr .refl) (.inr .refl)
    | with_reducible apply Frame.refl
    | with_reducible assumption

theorem linkDown_frame {k : Parts} {s t : State} {a0 : CtlIx}
    (h : Frame k s t) (hk : sub partsNextPs k = true) :
    Frame k s (linkDown a0 t) := by
  refine Frame.step h (l := partsNextPs) ?_ hk
  clear h hk
  unfold linkDown
  repeat' first
    | with_reducible refine functionReset_frame ?_ (by with_unfolding_all rfl)
    | with_reducible refine portEvent_frame ?_ (by with_unfolding_all rfl)
    | with_reducible refine linkGone_frame ?_ (by with_unfolding_all rfl)
    | with_reducible apply Frame.ite
    | with_reducible apply Frame.refl
    | with_reducible assumption
    | split

theorem execLinkDown_frame {s t : State} {a0 : CtlIx} (e : execLinkDown a0 s = .next t) :
    Frame partsNextPs s t := by
  unfold execLinkDown at e
  refine Frame.act ?_ e
  clear e
  try dsimp -zeta only
  repeat' first
    | with_reducible refine onPort_frame ?_ ?_ (by with_unfolding_all rfl)
    | with_reducible refine linkDown_frame ?_ (by with_unfolding_all rfl)
    | with_reducible apply Frame.refl
    | with_reducible assumption
    | intro _ _ _
    | intro _ _

theorem perstAssert_frame {k : Parts} {s t : State} {a0 : CtlIx}
    (h : Frame k s t) (hk : sub partsNextPs k = true) :
    Frame k s (perstAssert a0 t) := by
  refine Frame.step h (l := partsNextPs) ?_ hk
  clear h hk
  unfold perstAssert
  repeat' first
    | (extract_lets +onlyGivenNames -merge -underBinder x; first | (with_reducible refine Frame.cutTo (t := x) ?_ ?_; rotate_left; (try clear_value x); rename _ => y; intro hx; rotate_left; clear_value (hh : x = _); subst hh) | (have hq : Flt := x; clear hq; rename _ => y) | (have hq : Sys := x; clear hq; rename _ => y) | (clear_value x; rename _ => y) | (have hq := x; clear hq; rename _ => y))
    | with_reducible refine setCtl_frame ?_ (by with_unfolding_all rfl)
    | with_reducible refine functionReset_frame ?_ (by with_unfolding_all rfl)
    | with_reducible refine portEvent_frame ?_ (by with_unfolding_all rfl)
    | with_reducible refine linkGone_frame ?_ (by with_unfolding_all rfl)
    | with_reducible apply Frame.ite
    | with_reducible exact Frame.ofMk (by first | exact Frame.refl | assumption) frMine frMine frMine frSame frMine frMine frMine frSame frMine frMine frMine frSame frMine frMine frMine frMine frMine frMine frMine frMine rfl rfl rfl (by first | exact .inr .refl | exact .inr ⟨rfl, rfl, rfl, rfl, id⟩ | exact .inr ⟨rfl, rfl, rfl, rfl, fun _ => rfl⟩ | exact .inr (.ite ⟨rfl, rfl, rfl, rfl, id⟩ ⟨rfl, rfl, rfl, rfl, id⟩)) (by first | exact .inr .refl | exact .inr ⟨rfl, rfl, rfl, rfl⟩ | exact .inr (addFaultRecord_binds _ _) | with_unfolding_all exact .inr ⟨rfl, rfl, rfl, rfl⟩)
    | with_reducible apply Frame.refl
    | with_reducible assumption
    | split

theorem execPerstAssert_frame {s t : State} {a0 : CtlIx} (e : execPerstAssert a0 s = .next t) :
    Frame partsNextPs s t := by
  unfold execPerstAssert at e
  refine Frame.act ?_ e
  clear e
  try dsimp -zeta only
  repeat' first
    | with_reducible refine perstAssert_frame ?_ (by with_unfolding_all rfl)
    | with_reducible apply Frame.refl
    | with_reducible assumption

theorem execPerstDeassert_frame {s t : State} {a0 : CtlIx} (e : execPerstDeassert a0 s = .next t) :
    Frame { hif := true } s t := by
  unfold execPerstDeassert at e
  refine Frame.act ?_ e
  clear e
  try dsimp -zeta only
  repeat' first
    | (extract_lets +onlyGivenNames -merge -underBinder x; first | (with_reducible refine Frame.cutTo (t := x) ?_ ?_; rotate_left; (try clear_value x); rename _ => y; intro hx; rotate_left; clear_value (hh : x = _); subst hh) | (clear_value x; rename _ => y) | (have hq := x; clear hq; rename _ => y))
    | with_reducible refine setCtl_frame ?_ (by with_unfolding_all rfl)
    | with_reducible apply Frame.ite
    | with_reducible exact Frame.ofMk (by first | exact Frame.refl | assumption) frSame frSame frSame frSame frSame frSame frSame frSame frSame frSame frSame frSame frSame frSame frSame frSame frSame frSame frMine frSame rfl rfl rfl (.inr .refl) (.inr .refl)
    | with_reducible apply Frame.refl
    | with_reducible assumption
    | split

theorem linkTrained_frame {k : Parts} {s t : State} {a0 : CtlIx} {a1 : Nat} {a2 : Nat}
    (h : Frame k s t) (hk : sub { pwr := true, hif := true } k = true) :
    Frame k s (linkTrained a0 a1 a2 t) := by
  refine Frame.step h (l := { pwr := true, hif := true }) ?_ hk
  clear h hk
  unfold linkTrained
  repeat' first
    | (extract_lets +onlyGivenNames -merge -underBinder x; first | (with_reducible refine Frame.cutTo (t := x) ?_ ?_; rotate_left; (try clear_value x); rename _ => y; intro hx; rotate_left; clear_value (hh : x = _); subst hh) | (clear_value x; rename _ => y) | (have hq := x; clear hq; rename _ => y))
    | with_reducible refine setPortDom_frame ?_ (by with_unfolding_all rfl)
    | with_reducible refine setCtl_frame ?_ (by with_unfolding_all rfl)
    | with_reducible apply Frame.ite
    | with_reducible exact Frame.ofMk (by first | exact Frame.refl | assumption) frSame frSame frMine frSame frSame frSame frSame frSame frSame frSame frSame frSame frSame frSame frSame frSame frSame frSame frMine frSame rfl rfl rfl (.inr .refl) (.inr .refl)
    | with_reducible apply Frame.refl
    | with_reducible assumption
    | split

theorem execLinkUp_frame {s t : State} {a0 : CtlIx} {a1 : Nat} {a2 : Nat} (e : execLinkUp a0 a1 a2 s = .next t) :
    Frame { pwr := true, hif := true } s t := by
  unfold execLinkUp at e
  refine Frame.act ?_ e
  clear e
  try dsimp -zeta only
  repeat' first
    | with_reducible refine onPort_frame ?_ ?_ (by with_unfolding_all rfl)
    | with_reducible refine linkTrained_frame ?_ (by with_unfolding_all rfl)
    | with_reducible apply Frame.refl
    | with_reducible assumption
    | intro _ _ _
    | intro _ _

theorem execFunctionReset_frame {s t : State} {a0 : CtlIx} (e : execFunctionReset a0 s = .next t) :
    Frame partsNextPs s t := by
  unfold execFunctionReset at e
  refine Frame.act ?_ e
  clear e
  try dsimp -zeta only
  repeat' first
    | with_reducible refine onPort_frame ?_ ?_ (by with_unfolding_all rfl)
    | with_reducible refine functionReset_frame ?_ (by with_unfolding_all rfl)
    | with_reducible refine portEvent_frame ?_ (by with_unfolding_all rfl)
    | with_reducible apply Frame.ite
    | with_reducible apply Frame.refl
    | with_reducible assumption
    | intro _ _ _
    | intro _ _
    | split

theorem execL12Entry_frame {s t : State} {a0 : CtlIx} (e : execL12Entry a0 s = .next t) :
    Frame { pwr := true, hif := true } s t := by
  unfold execL12Entry at e
  refine Frame.act ?_ e
  clear e
  try dsimp -zeta only
  repeat' first
    | (extract_lets +onlyGivenNames -merge -underBinder x; first | (with_reducible refine Frame.cutTo (t := x) ?_ ?_; rotate_left; (try clear_value x); rename _ => y; intro hx; rotate_left; clear_value (hh : x = _); subst hh) | (clear_value x; rename _ => y) | (have hq := x; clear hq; rename _ => y))
    | with_reducible refine onPort_frame ?_ ?_ (by with_unfolding_all rfl)
    | with_reducible refine setPortDom_frame ?_ (by with_unfolding_all rfl)
    | with_reducible refine setCtl_frame ?_ (by with_unfolding_all rfl)
    | with_reducible apply Frame.ite
    | with_reducible exact Frame.ofMk (by first | exact Frame.refl | assumption) frSame frSame frMine frSame frSame frSame frSame frSame frSame frSame frSame frSame frSame frSame frSame frSame frSame frSame frMine frSame rfl rfl rfl (.inr .refl) (.inr .refl)
    | with_reducible apply Frame.refl
    | with_reducible assumption
    | intro _ _ _
    | intro _ _
    | split

theorem l12Exit_frame {k : Parts} {s t : State} {a0 : CtlIx}
    (h : Frame k s t) (hk : sub { pwr := true, hif := true } k = true) :
    Frame k s (l12Exit a0 t) := by
  refine Frame.step h (l := { pwr := true, hif := true }) ?_ hk
  clear h hk
  unfold l12Exit
  repeat' first
    | (extract_lets +onlyGivenNames -merge -underBinder x; first | (with_reducible refine Frame.cutTo (t := x) ?_ ?_; rotate_left; (try clear_value x); rename _ => y; intro hx; rotate_left; clear_value (hh : x = _); subst hh) | (clear_value x; rename _ => y) | (have hq := x; clear hq; rename _ => y))
    | with_reducible refine setPortDom_frame ?_ (by with_unfolding_all rfl)
    | with_reducible refine setCtl_frame ?_ (by with_unfolding_all rfl)
    | with_reducible apply Frame.ite
    | with_reducible exact Frame.ofMk (by first | exact Frame.refl | assumption) frSame frSame frMine frSame frSame frSame frSame frSame frSame frSame frSame frSame frSame frSame frSame frSame frSame frSame frMine frSame rfl rfl rfl (.inr .refl) (.inr .refl)
    | with_reducible apply Frame.refl
    | with_reducible assumption
    | split

theorem execL12Exit_frame {s t : State} {a0 : CtlIx} (e : execL12Exit a0 s = .next t) :
    Frame { pwr := true, hif := true } s t := by
  unfold execL12Exit at e
  refine Frame.act ?_ e
  clear e
  try dsimp -zeta only
  repeat' first
    | with_reducible refine onPort_frame ?_ ?_ (by with_unfolding_all rfl)
    | with_reducible refine l12Exit_frame ?_ (by with_unfolding_all rfl)
    | with_reducible apply Frame.refl
    | with_reducible assumption
    | intro _ _ _
    | intro _ _

theorem execL12HostExit_frame {s t : State} {a0 : CtlIx} (e : execL12HostExit a0 s = .next t) :
    Frame { pwr := true, hif := true } s t := by
  unfold execL12HostExit at e
  refine Frame.act ?_ e
  clear e
  try dsimp -zeta only
  repeat' first
    | with_reducible refine onPort_frame ?_ ?_ (by with_unfolding_all rfl)
    | with_reducible refine l12Exit_frame ?_ (by with_unfolding_all rfl)
    | with_reducible apply Frame.refl
    | with_reducible assumption
    | intro _ _ _
    | intro _ _

theorem widthReduce_frame {k : Parts} {s t : State} {a0 : CtlIx}
    (h : Frame k s t) (hk : sub partsEngineFaultW k = true) :
    Frame k s (widthReduce a0 t) := by
  refine Frame.step h (l := partsEngineFaultW) ?_ hk
  clear h hk
  unfold widthReduce
  repeat' first
    | (extract_lets +onlyGivenNames -merge -underBinder x; first | (with_reducible refine Frame.cutTo (t := x) ?_ ?_; rotate_left; (try clear_value x); rename _ => y; intro hx; rotate_left; clear_value (hh : x = _); subst hh) | (have hq : Flt := x; clear hq; rename _ => y) | (have hq : Sys := x; clear hq; rename _ => y) | (clear_value x; rename _ => y) | (have hq := x; clear hq; rename _ => y))
    | with_reducible refine portEvent_frame ?_ (by with_unfolding_all rfl)
    | with_reducible refine setCtl_frame ?_ (by with_unfolding_all rfl)
    | with_reducible apply Frame.ite
    | with_reducible exact Frame.ofMk (by first | exact Frame.refl | assumption) frMine frMine frSame frSame frMine frMine frMine frSame frMine frMine frMine frSame frMine frMine frMine frMine frMine frMine frMine frSame rfl rfl rfl (by first | exact .inr .refl | exact .inr ⟨rfl, rfl, rfl, rfl, id⟩ | exact .inr ⟨rfl, rfl, rfl, rfl, fun _ => rfl⟩ | exact .inr (.ite ⟨rfl, rfl, rfl, rfl, id⟩ ⟨rfl, rfl, rfl, rfl, id⟩)) (by first | exact .inr .refl | exact .inr ⟨rfl, rfl, rfl, rfl⟩ | exact .inr (addFaultRecord_binds _ _) | with_unfolding_all exact .inr ⟨rfl, rfl, rfl, rfl⟩)
    | with_reducible apply Frame.refl
    | with_reducible assumption
    | split

theorem execLinkWidthReduce_frame {s t : State} {a0 : CtlIx} (e : execLinkWidthReduce a0 s = .next t) :
    Frame partsEngineFaultW s t := by
  unfold execLinkWidthReduce at e
  refine Frame.act ?_ e
  clear e
  try dsimp -zeta only
  repeat' first
    | with_reducible refine onPort_frame ?_ ?_ (by with_unfolding_all rfl)
    | with_reducible refine widthReduce_frame ?_ (by with_unfolding_all rfl)
    | with_reducible apply Frame.refl
    | with_reducible assumption
    | intro _ _ _
    | intro _ _

theorem ccEnSet_frame {k : Parts} {s t : State} {a0 : CtlIx} {a1 : Fin 16} {a2 : Fin 16}
    (h : Frame k s t) (hk : sub { hif := true } k = true) :
    Frame k s (ccEnSet a0 a1 a2 t) := by
  refine Frame.step h (l := { hif := true }) ?_ hk
  clear h hk
  unfold ccEnSet
  repeat' first
    | (extract_lets +onlyGivenNames -merge -underBinder x; first | (with_reducible refine Frame.cutTo (t := x) ?_ ?_; rotate_left; (try clear_value x); rename _ => y; intro hx; rotate_left; clear_value (hh : x = _); subst hh) | (clear_value x; rename _ => y) | (have hq := x; clear hq; rename _ => y))
    | with_reducible refine setCtl_frame ?_ (by with_unfolding_all rfl)
    | with_reducible refine giveRole_frame ?_ (by with_unfolding_all rfl)
    | with_reducible apply Frame.ite
    | with_reducible exact Frame.ofMk (by first | exact Frame.refl | assumption) frSame frSame frSame frSame frSame frSame frSame frSame frSame frSame frSame frSame frSame frSame frSame frSame frSame frSame frMine frSame rfl rfl rfl (.inr .refl) (.inr .refl)
    | with_reducible apply Frame.refl
    | with_reducible assumption
    | split

theorem execCcEnSet_frame {s t : State} {a0 : CtlIx} {a1 : Fin 16} {a2 : Fin 16} (e : execCcEnSet a0 a1 a2 s = .next t) :
    Frame { hif := true } s t := by
  unfold execCcEnSet at e
  refine Frame.act ?_ e
  clear e
  try dsimp -zeta only
  repeat' first
    | with_reducible refine onPort_frame ?_ ?_ (by with_unfolding_all rfl)
    | with_reducible refine ccEnSet_frame ?_ (by with_unfolding_all rfl)
    | with_reducible apply Frame.refl
    | with_reducible assumption
    | intro _ _ _
    | intro _ _

theorem ccEnClear_frame {k : Parts} {s t : State} {a0 : CtlIx}
    (h : Frame k s t) (hk : sub partsNextPs k = true) :
    Frame k s (ccEnClear a0 t) := by
  refine Frame.step h (l := partsNextPs) ?_ hk
  clear h hk
  unfold ccEnClear
  repeat' first
    | (extract_lets +onlyGivenNames -merge -underBinder x; first | (with_reducible refine Frame.cutTo (t := x) ?_ ?_; rotate_left; (try clear_value x); rename _ => y; intro hx; rotate_left; clear_value (hh : x = _); subst hh) | (have hq : Flt := x; clear hq; rename _ => y) | (have hq : Sys := x; clear hq; rename _ => y) | (clear_value x; rename _ => y) | (have hq := x; clear hq; rename _ => y))
    | with_reducible refine resetController_frame ?_ (by with_unfolding_all rfl)
    | with_reducible refine abandonCommands_frame ?_ (by with_unfolding_all rfl)
    | with_reducible refine setCtl_frame ?_ (by with_unfolding_all rfl)
    | with_reducible refine fwAtReset_frame ?_ (by with_unfolding_all rfl)
    | with_reducible refine takeRole_frame ?_ (by with_unfolding_all rfl)
    | with_reducible apply Frame.ite
    | with_reducible exact Frame.ofMk (by first | exact Frame.refl | assumption) frMine frMine frMine frSame frMine frMine frMine frSame frMine frMine frMine frSame frMine frMine frMine frMine frMine frMine frMine frMine rfl rfl rfl (by first | exact .inr .refl | exact .inr ⟨rfl, rfl, rfl, rfl, id⟩ | exact .inr ⟨rfl, rfl, rfl, rfl, fun _ => rfl⟩ | exact .inr (.ite ⟨rfl, rfl, rfl, rfl, id⟩ ⟨rfl, rfl, rfl, rfl, id⟩)) (by first | exact .inr .refl | exact .inr ⟨rfl, rfl, rfl, rfl⟩ | exact .inr (addFaultRecord_binds _ _) | with_unfolding_all exact .inr ⟨rfl, rfl, rfl, rfl⟩)
    | with_reducible apply Frame.refl
    | with_reducible assumption
    | split

theorem execCcEnClear_frame {s t : State} {a0 : CtlIx} (e : execCcEnClear a0 s = .next t) :
    Frame partsNextPs s t := by
  unfold execCcEnClear at e
  refine Frame.act ?_ e
  clear e
  try dsimp -zeta only
  repeat' first
    | with_reducible refine onPort_frame ?_ ?_ (by with_unfolding_all rfl)
    | with_reducible refine ccEnClear_frame ?_ (by with_unfolding_all rfl)
    | with_reducible apply Frame.refl
    | with_reducible assumption
    | intro _ _ _
    | intro _ _

theorem rejoinExpiry_frame {k : Parts} {s t : State} {a0 : CtlIx}
    (h : Frame k s t) (hk : sub partsAbandonCommands k = true) :
    Frame k s (rejoinExpiry a0 t) := by
  refine Frame.step h (l := partsAbandonCommands) ?_ hk
  clear h hk
  unfold rejoinExpiry
  repeat' first
    | with_reducible refine depart_frame ?_ (by with_unfolding_all rfl)
    | with_reducible apply Frame.ite
    | with_reducible apply Frame.refl
    | with_reducible assumption
    | split

theorem execRejoinWindowExpiry_frame {s t : State} {a0 : CtlIx} (e : execRejoinWindowExpiry a0 s = .next t) :
    Frame partsAbandonCommands s t := by
  unfold execRejoinWindowExpiry at e
  refine Frame.act ?_ e
  clear e
  try dsimp -zeta only
  repeat' first
    | with_reducible refine onPort_frame ?_ ?_ (by with_unfolding_all rfl)
    | with_reducible refine rejoinExpiry_frame ?_ (by with_unfolding_all rfl)
    | with_reducible apply Frame.refl
    | with_reducible assumption
    | intro _ _ _
    | intro _ _

theorem vsecWrite_frame {k : Parts} {s t : State} {a0 : CtlIx} {a1 : Word}
    (h : Frame k s t) (hk : sub partsAbandonCommands k = true) :
    Frame k s (vsecWrite a0 a1 t) := by
  refine Frame.step h (l := partsAbandonCommands) ?_ hk
  clear h hk
  unfold vsecWrite
  repeat' first
    | (extract_lets +onlyGivenNames -merge -underBinder x; first | (with_reducible refine Frame.cutTo (t := x) ?_ ?_; rotate_left; (try clear_value x); rename _ => y; intro hx; rotate_left; clear_value (hh : x = _); subst hh) | (clear_value x; rename _ => y) | (have hq := x; clear hq; rename _ => y))
    | with_reducible refine setCtl_frame ?_ (by with_unfolding_all rfl)
    | with_reducible refine depart_frame ?_ (by with_unfolding_all rfl)
    | with_reducible refine takeRole_frame ?_ (by with_unfolding_all rfl)
    | with_reducible apply Frame.ite
    | with_reducible exact Frame.ofMk (by first | exact Frame.refl | assumption) frSame frSame frSame frSame frSame frSame frSame frSame frSame frSame frSame frSame frSame frSame frSame frMine frSame frMine frMine frMine rfl rfl rfl (.inr .refl) (.inr .refl)
    | with_reducible apply Frame.refl
    | with_reducible assumption
    | split

theorem execAttachRequest_frame {s t : State} {a0 : CtlIx} {a1 : Word} (e : execAttachRequest a0 a1 s = .next t) :
    Frame partsAbandonCommands s t := by
  unfold execAttachRequest at e
  refine Frame.act ?_ e
  clear e
  try dsimp -zeta only
  repeat' first
    | with_reducible refine onPort_frame ?_ ?_ (by with_unfolding_all rfl)
    | with_reducible refine vsecWrite_frame ?_ (by with_unfolding_all rfl)
    | with_reducible apply Frame.refl
    | with_reducible assumption
    | intro _ _ _
    | intro _ _

theorem execPartnerDepart_frame {s t : State} {a0 : CtlIx} (e : execPartnerDepart a0 s = .next t) :
    Frame partsAbandonCommands s t := by
  unfold execPartnerDepart at e
  refine Frame.act ?_ e
  clear e
  try dsimp -zeta only
  repeat' first
    | with_reducible refine onPort_frame ?_ ?_ (by with_unfolding_all rfl)
    | with_reducible refine depart_frame ?_ (by with_unfolding_all rfl)
    | with_reducible apply Frame.ite
    | with_reducible apply Frame.refl
    | with_reducible assumption
    | intro _ _ _
    | intro _ _
    | split

theorem roleChange_frame {k : Parts} {s t : State} {a0 : CtlIx}
    (h : Frame k s t) (hk : sub partsAbandonCommands k = true) :
    Frame k s (roleChange a0 t) := by
  refine Frame.step h (l := partsAbandonCommands) ?_ hk
  clear h hk
  unfold roleChange
  repeat' first
    | (extract_lets +onlyGivenNames -merge -underBinder x; first | (with_reducible refine Frame.cutTo (t := x) ?_ ?_; rotate_left; (try clear_value x); rename _ => y; intro hx; rotate_left; clear_value (hh : x = _); subst hh) | (clear_value x; rename _ => y) | (have hq := x; clear hq; rename _ => y))
    | with_reducible refine depart_frame ?_ (by with_unfolding_all rfl)
    | with_reducible refine takeRole_frame ?_ (by with_unfolding_all rfl)
    | with_reducible refine setCtl_frame ?_ (by with_unfolding_all rfl)
    | with_reducible apply Frame.ite
    | with_reducible exact Frame.ofMk (by first | exact Frame.refl | assumption) frSame frSame frSame frSame frSame frSame frSame frSame frSame frSame frSame frSame frSame frSame frSame frMine frSame frMine frMine frMine rfl rfl rfl (.inr .refl) (.inr .refl)
    | with_reducible apply Frame.refl
    | with_reducible assumption
    | split

theorem execRoleChange_frame {s t : State} {a0 : CtlIx} (e : execRoleChange a0 s = .next t) :
    Frame partsAbandonCommands s t := by
  unfold execRoleChange at e
  refine Frame.act ?_ e
  clear e
  try dsimp -zeta only
  repeat' first
    | with_reducible refine onPort_frame ?_ ?_ (by with_unfolding_all rfl)
    | with_reducible refine roleChange_frame ?_ (by with_unfolding_all rfl)
    | with_reducible apply Frame.refl
    | with_reducible assumption
    | intro _ _ _
    | intro _ _

theorem subsystemReset_frame {k : Parts} {s t : State} 
    (h : Frame k s t) (hk : sub partsNextPs k = true) :
    Frame k s (subsystemReset t) := by
  refine Frame.step h (l := partsNextPs) ?_ hk
  clear h hk
  unfold subsystemReset
  repeat' first
    | (extract_lets +onlyGivenNames -merge -underBinder x; first | (with_reducible refine Frame.cutTo (t := x) ?_ ?_; rotate_left; (try clear_value x); rename _ => y; intro hx; rotate_left; clear_value (hh : x = _); subst hh) | (have hq : ∀ a, Frame {} t (x a) → True := fun _ _ => trivial; clear hq; rename _ => y) | (have hq : ∀ a b, Frame {} t (x a b) → True := fun _ _ _ => trivial; clear hq; rename _ => y) | (have hq : Flt := x; clear hq; rename _ => y) | (have hq : Sys := x; clear hq; rename _ => y) | (clear_value x; rename _ => y) | (have hq := x; clear hq; rename _ => y))
    | with_reducible refine resetController_frame ?_ (by with_unfolding_all rfl)
    | with_reducible refine abandonCommands_frame ?_ (by with_unfolding_all rfl)
    | with_reducible refine takeRole_frame ?_ (by with_unfolding_all rfl)
    | with_reducible refine setCtl_frame ?_ (by with_unfolding_all rfl)
    | with_reducible refine linkGone_frame ?_ (by with_unfolding_all rfl)
    | with_reducible refine portEvent_frame ?_ (by with_unfolding_all rfl)
    | with_reducible refine fwAtReset_frame ?_ (by with_unfolding_all rfl)
    | with_reducible apply Frame.ite
    | with_reducible exact Frame.ofMk (by first | exact Frame.refl | assumption) frMine frMine frMine frSame frMine frMine frMine frSame frMine frMine frMine frSame frMine frMine frMine frMine frMine frMine frMine frMine rfl rfl rfl (by first | exact .inr .refl | exact .inr ⟨rfl, rfl, rfl, rfl, id⟩ | exact .inr ⟨rfl, rfl, rfl, rfl, fun _ => rfl⟩ | exact .inr (.ite ⟨rfl, rfl, rfl, rfl, id⟩ ⟨rfl, rfl, rfl, rfl, id⟩)) (by first | exact .inr .refl | exact .inr ⟨rfl, rfl, rfl, rfl⟩ | exact .inr (addFaultRecord_binds _ _) | with_unfolding_all exact .inr ⟨rfl, rfl, rfl, rfl⟩)
    | with_reducible apply Frame.refl
    | with_reducible assumption
    | split

theorem execNssr_frame {s t : State} {a0 : CtlIx} {a1 : Word} (e : execNssr a0 a1 s = .next t) :
    Frame partsNextPs s t := by
  unfold execNssr at e
  refine Frame.act ?_ e
  clear e
  try dsimp -zeta only
  repeat' first
    | with_reducible refine onPort_frame ?_ ?_ (by with_unfolding_all rfl)
    | with_reducible refine subsystemReset_frame ?_ (by with_unfolding_all rfl)
    | with_reducible apply Frame.ite
    | with_reducible apply Frame.refl
    | with_reducible assumption
    | intro _ _ _
    | intro _ _
    | split

theorem hifCtlWrite_frame {k : Parts} {s t : State} {a0 : Word}
    (h : Frame k s t) (hk : sub { hif := true } k = true) :
    Frame k s (hifCtlWrite a0 t) := by
  refine Frame.step h (l := { hif := true }) ?_ hk
  clear h hk
  unfold hifCtlWrite
  repeat' first
    | (extract_lets +onlyGivenNames -merge -underBinder x; first | (with_reducible refine Frame.cutTo (t := x) ?_ ?_; rotate_left; (try clear_value x); rename _ => y; intro hx; rotate_left; clear_value (hh : x = _); subst hh) | (clear_value x; rename _ => y) | (have hq := x; clear hq; rename _ => y))
    | with_reducible exact Frame.ofMk (by first | exact Frame.refl | assumption) frSame frSame frSame frSame frSame frSame frSame frSame frSame frSame frSame frSame frSame frSame frSame frSame frSame frSame frMine frSame rfl rfl rfl (.inr .refl) (.inr .refl)
    | with_reducible apply Frame.refl
    | with_reducible assumption

theorem execHifFetchHold_frame {s t : State} {a0 : Word} (e : execHifFetchHold a0 s = .next t) :
    Frame { hif := true } s t := by
  unfold execHifFetchHold at e
  refine Frame.act ?_ e
  clear e
  try dsimp -zeta only
  repeat' first
    | with_reducible refine hifCtlWrite_frame ?_ (by with_unfolding_all rfl)
    | with_reducible apply Frame.refl
    | with_reducible assumption

theorem hifWrite_frame {k : Parts} {s t : State} {a0 : Nat} {a1 : Word}
    (h : Frame k s t) (hk : sub partsEngineFaultW k = true) :
    Frame k s (hifWrite a0 a1 t) := by
  refine Frame.step h (l := partsEngineFaultW) ?_ hk
  clear h hk
  unfold hifWrite
  repeat' first
    | (extract_lets +onlyGivenNames -merge -underBinder x; first | (with_reducible refine Frame.cutTo (t := x) ?_ ?_; rotate_left; (try clear_value x); rename _ => y; intro hx; rotate_left; clear_value (hh : x = _); subst hh) | (have hq : Flt := x; clear hq; rename _ => y) | (have hq : Sys := x; clear hq; rename _ => y) | (clear_value x; rename _ => y) | (have hq := x; clear hq; rename _ => y))
    | with_reducible refine hifCtlWrite_frame ?_ (by with_unfolding_all rfl)
    | with_reducible refine raise_frame ?_ (by with_unfolding_all rfl)
    | with_reducible apply Frame.ite
    | with_reducible exact Frame.ofMk (by first | exact Frame.refl | assumption) frMine frMine frSame frSame frMine frMine frMine frSame frMine frMine frMine frSame frMine frMine frMine frMine frMine frMine frMine frSame rfl rfl rfl (by first | exact .inr .refl | exact .inr ⟨rfl, rfl, rfl, rfl, id⟩ | exact .inr ⟨rfl, rfl, rfl, rfl, fun _ => rfl⟩ | exact .inr (.ite ⟨rfl, rfl, rfl, rfl, id⟩ ⟨rfl, rfl, rfl, rfl, id⟩)) (by first | exact .inr .refl | exact .inr ⟨rfl, rfl, rfl, rfl⟩ | exact .inr (addFaultRecord_binds _ _) | with_unfolding_all exact .inr ⟨rfl, rfl, rfl, rfl⟩)
    | with_reducible apply Frame.refl
    | with_reducible assumption
    | split

theorem execHifRingConfig_frame {s t : State} {a0 : Fin 3} {a1 : Word} (e : execHifRingConfig a0 a1 s = .next t) :
    Frame partsEngineFaultW s t := by
  unfold execHifRingConfig at e
  refine Frame.act ?_ e
  clear e
  try dsimp -zeta only
  repeat' first
    | with_reducible refine hifWrite_frame ?_ (by with_unfolding_all rfl)
    | with_reducible apply Frame.ite
    | with_reducible apply Frame.refl
    | with_reducible assumption
    | split

theorem feFail_frame {k : Parts} {s t : State} {a0 : Fin 2}
    (h : Frame k s t) (hk : sub partsEngineFaultW k = true) :
    Frame k s (feFail a0 t) := by
  refine Frame.step h (l := partsEngineFaultW) ?_ hk
  clear h hk
  unfold feFail
  repeat' first
    | (extract_lets +onlyGivenNames -merge -underBinder x; first | (with_reducible refine Frame.cutTo (t := x) ?_ ?_; rotate_left; (try clear_value x); rename _ => y; intro hx; rotate_left; clear_value (hh : x = _); subst hh) | (have hq : ∀ a, Frame {} t (x a) → True := fun _ _ => trivial; clear hq; rename _ => y) | (have hq : ∀ a b, Frame {} t (x a b) → True := fun _ _ _ => trivial; clear hq; rename _ => y) | (have hq : Flt := x; clear hq; rename _ => y) | (have hq : Sys := x; clear hq; rename _ => y) | (clear_value x; rename _ => y) | (have hq := x; clear hq; rename _ => y))
    | with_reducible refine portEvent_frame ?_ (by with_unfolding_all rfl)
    | with_reducible apply Frame.foldl
    | with_reducible apply Frame.ite
    | with_reducible exact Frame.ofMk (by first | exact Frame.refl | assumption) frMine frMine frSame frSame frMine frMine frMine frSame frMine frMine frMine frSame frMine frMine frMine frMine frMine frMine frMine frSame rfl rfl rfl (by first | exact .inr .refl | exact .inr ⟨rfl, rfl, rfl, rfl, id⟩ | exact .inr ⟨rfl, rfl, rfl, rfl, fun _ => rfl⟩ | exact .inr (.ite ⟨rfl, rfl, rfl, rfl, id⟩ ⟨rfl, rfl, rfl, rfl, id⟩)) (by first | exact .inr .refl | exact .inr ⟨rfl, rfl, rfl, rfl⟩ | exact .inr (addFaultRecord_binds _ _) | with_unfolding_all exact .inr ⟨rfl, rfl, rfl, rfl⟩)
    | with_reducible apply Frame.refl
    | with_reducible assumption
    | intro _ _ _
    | intro _ _
    | split

theorem execFeInstanceFail_frame {s t : State} {a0 : Fin 2} (e : execFeInstanceFail a0 s = .next t) :
    Frame partsEngineFaultW s t := by
  unfold execFeInstanceFail at e
  refine Frame.act ?_ e
  clear e
  try dsimp -zeta only
  repeat' first
    | with_reducible refine feFail_frame ?_ (by with_unfolding_all rfl)
    | with_reducible apply Frame.refl
    | with_reducible assumption

end Sys2Proof.Laws
end

