-- ==== Sys2Proof/Laws/Frames/Reset.lean ====
section
/-!
SUPPORT. The frames of the operations of Machine/Reset.lean: the parts each may change.
-/
namespace Sys2Proof.Laws
open Sys2Proof Sys2Proof.Machine

set_option linter.all false
set_option Elab.async false

theorem fullReset_frame {k : Parts} {s t : State} 
    (h : Frame k s t) (hk : sub allParts k = true) :
    Frame k s (fullReset t) := by
  exact Frame.step h ⟨rfl, Nat.le_refl _, fun _ => rfl, rfl, .inl rfl, .inl rfl⟩ hk

theorem deviceStart_frame {k : Parts} {s t : State} {a0 : BitVec 7}
    (h : Frame k s t) (hk : sub { sys := true, rst := true } k = true) :
    Frame k s (deviceStart a0 t) := by
  refine Frame.step h (l := { sys := true, rst := true }) ?_ hk
  clear h hk
  unfold deviceStart
  repeat' first
    | (extract_lets +onlyGivenNames -merge -underBinder x; first | (with_reducible refine Frame.cutTo (t := x) ?_ ?_; rotate_left; (try clear_value x); rename _ => y; intro hx; rotate_left; clear_value (hh : x = _); subst hh) | (clear_value x; rename _ => y) | (have hq := x; clear hq; rename _ => y))
    | with_reducible exact Frame.ofMk (by first | exact Frame.refl | assumption) frMine frSame frSame frSame frSame frSame frSame frSame frSame frSame frSame frSame frSame frSame frSame frSame frSame frSame frSame frSame rfl rfl rfl (.inl rfl) (.inr .refl)
    | with_reducible apply Frame.refl
    | with_reducible assumption

theorem powerOnReset_frame {k : Parts} {s t : State} {a0 : Bool} {a1 : BitVec 7}
    (h : Frame k s t) (hk : sub allParts k = true) :
    Frame k s (powerOnReset a0 a1 t) := by
  refine Frame.step h (l := allParts) ?_ hk
  clear h hk
  unfold powerOnReset
  repeat' first
    | (extract_lets +onlyGivenNames -merge -underBinder x; first | (with_reducible refine Frame.cutTo (t := x) ?_ ?_; rotate_left; (try clear_value x); rename _ => y; intro hx; rotate_left; clear_value (hh : x = _); subst hh) | (clear_value x; rename _ => y) | (have hq := x; clear hq; rename _ => y))
    | with_reducible refine deviceStart_frame ?_ (by with_unfolding_all rfl)
    | with_reducible refine fullReset_frame ?_ (by with_unfolding_all rfl)
    | with_reducible apply Frame.ite
    | with_reducible exact Frame.ofMk (by first | exact Frame.refl | assumption) frMine frMine frMine frMine frMine frMine frMine frMine frMine frMine frMine frMine frMine frMine frMine frMine frMine frMine frMine frMine rfl rfl rfl (.inl rfl) (.inl rfl)
    | with_reducible apply Frame.refl
    | with_reducible assumption
    | split

theorem execPowerOnReset_frame {s t : State} {a0 : Bool} {a1 : BitVec 7} (e : execPowerOnReset a0 a1 s = .next t) :
    Frame allParts s t := by
  unfold execPowerOnReset at e
  refine Frame.next ?_ e
  clear e
  try dsimp -zeta only
  repeat' first
    | with_reducible refine powerOnReset_frame ?_ (by with_unfolding_all rfl)
    | with_reducible apply Frame.refl
    | with_reducible assumption

theorem resetQualified_frame {k : Parts} {s t : State} 
    (h : Frame k s t) (hk : sub allParts k = true) :
    Frame k s (resetQualified t) := by
  refine Frame.step h (l := allParts) ?_ hk
  clear h hk
  unfold resetQualified
  repeat' first
    | (extract_lets +onlyGivenNames -merge -underBinder x; first | (with_reducible refine Frame.cutTo (t := x) ?_ ?_; rotate_left; (try clear_value x); rename _ => y; intro hx; rotate_left; clear_value (hh : x = _); subst hh) | (clear_value x; rename _ => y) | (have hq := x; clear hq; rename _ => y))
    | with_reducible refine fullReset_frame ?_ (by with_unfolding_all rfl)
    | with_reducible apply Frame.ite
    | with_reducible exact Frame.ofMk (by first | exact Frame.refl | assumption) frMine frMine frMine frMine frMine frMine frMine frMine frMine frMine frMine frMine frMine frMine frMine frMine frMine frMine frMine frMine rfl rfl rfl (.inl rfl) (.inl rfl)
    | with_reducible apply Frame.refl
    | with_reducible assumption
    | split

theorem execResetNQualified_frame {s t : State}  (e : execResetNQualified s = .next t) :
    Frame allParts s t := by
  unfold execResetNQualified at e
  refine Frame.next ?_ e
  clear e
  try dsimp -zeta only
  repeat' first
    | with_reducible refine resetQualified_frame ?_ (by with_unfolding_all rfl)
    | with_reducible apply Frame.refl
    | with_reducible assumption

theorem resetRise_frame {k : Parts} {s t : State} {a0 : BitVec 7}
    (h : Frame k s t) (hk : sub { sys := true, rst := true } k = true) :
    Frame k s (resetRise a0 t) := by
  refine Frame.step h (l := { sys := true, rst := true }) ?_ hk
  clear h hk
  unfold resetRise
  repeat' first
    | (extract_lets +onlyGivenNames -merge -underBinder x; first | (with_reducible refine Frame.cutTo (t := x) ?_ ?_; rotate_left; (try clear_value x); rename _ => y; intro hx; rotate_left; clear_value (hh : x = _); subst hh) | (clear_value x; rename _ => y) | (have hq := x; clear hq; rename _ => y))
    | with_reducible refine deviceStart_frame ?_ (by with_unfolding_all rfl)
    | with_reducible apply Frame.ite
    | with_reducible exact Frame.ofMk (by first | exact Frame.refl | assumption) frMine frSame frSame frSame frSame frSame frSame frSame frSame frSame frSame frSame frSame frSame frSame frSame frSame frSame frSame frSame rfl rfl rfl (.inl rfl) (.inr .refl)
    | with_reducible apply Frame.refl
    | with_reducible assumption
    | split

theorem execResetNRise_frame {s t : State} {a0 : BitVec 7} (e : execResetNRise a0 s = .next t) :
    Frame { sys := true, rst := true } s t := by
  unfold execResetNRise at e
  refine Frame.next ?_ e
  clear e
  try dsimp -zeta only
  repeat' first
    | with_reducible refine resetRise_frame ?_ (by with_unfolding_all rfl)
    | with_reducible apply Frame.refl
    | with_reducible assumption

theorem railWindow_frame {k : Parts} {s t : State} {a0 : Fin 7} {a1 : Bool} {a2 : Bool}
    (h : Frame k s t) (hk : sub partsPwrEvent k = true) :
    Frame k s (railWindow a0 a1 a2 t) := by
  refine Frame.step h (l := partsPwrEvent) ?_ hk
  clear h hk
  unfold railWindow
  repeat' first
    | (extract_lets +onlyGivenNames -merge -underBinder x; first | (with_reducible refine Frame.cutTo (t := x) ?_ ?_; rotate_left; (try clear_value x); rename _ => y; intro hx; rotate_left; clear_value (hh : x = _); subst hh) | (have hq : Flt := x; clear hq; rename _ => y) | (have hq : Sys := x; clear hq; rename _ => y) | (clear_value x; rename _ => y) | (have hq := x; clear hq; rename _ => y))
    | with_reducible refine pwrEvent_frame ?_ (by with_unfolding_all rfl)
    | with_reducible apply Frame.ite
    | with_reducible exact Frame.ofMk (by first | exact Frame.refl | assumption) frMine frMine frMine frSame frMine frMine frMine frSame frMine frMine frMine frSame frMine frMine frMine frMine frMine frMine frMine frSame rfl rfl rfl (by first | exact .inr .refl | exact .inr ⟨rfl, rfl, rfl, rfl, id⟩ | exact .inr ⟨rfl, rfl, rfl, rfl, fun _ => rfl⟩ | exact .inr (.ite ⟨rfl, rfl, rfl, rfl, id⟩ ⟨rfl, rfl, rfl, rfl, id⟩)) (by first | exact .inr .refl | exact .inr ⟨rfl, rfl, rfl, rfl⟩ | exact .inr (addFaultRecord_binds _ _) | with_unfolding_all exact .inr ⟨rfl, rfl, rfl, rfl⟩)
    | with_reducible apply Frame.refl
    | with_reducible assumption
    | split

theorem execRailOutOfWindow_frame {s t : State} {a0 : Fin 7} {a1 : Bool} {a2 : Bool} (e : execRailOutOfWindow a0 a1 a2 s = .next t) :
    Frame partsPwrEvent s t := by
  unfold execRailOutOfWindow at e
  refine Frame.next ?_ e
  clear e
  try dsimp -zeta only
  repeat' first
    | with_reducible refine railWindow_frame ?_ (by with_unfolding_all rfl)
    | with_reducible apply Frame.refl
    | with_reducible assumption

theorem execRailResetLevel_frame {s t : State} {a0 : Fin 7} (e : execRailResetLevel a0 s = .next t) :
    Frame allParts s t := by
  unfold execRailResetLevel at e
  refine Frame.next ?_ e
  clear e
  try dsimp -zeta only
  repeat' first
    | with_reducible refine powerOnReset_frame ?_ (by with_unfolding_all rfl)
    | with_reducible refine railWindow_frame ?_ (by with_unfolding_all rfl)
    | with_reducible apply Frame.refl
    | with_reducible assumption

theorem wakeForLoss_frame {k : Parts} {s t : State} 
    (h : Frame k s t) (hk : sub partsPwrEvent k = true) :
    Frame k s (wakeForLoss t) := by
  refine Frame.step h (l := partsPwrEvent) ?_ hk
  clear h hk
  unfold wakeForLoss
  repeat' first
    | with_reducible refine setDom_frame ?_ (by with_unfolding_all rfl)
    | with_reducible apply Frame.foldl
    | with_reducible refine Frame.getDMap ?_ (fun _ => ?_)
    | with_reducible apply Frame.getD
    | with_reducible apply Frame.ite
    | with_reducible apply Frame.refl
    | with_reducible assumption
    | intro _ _ _
    | intro _ _
    | split

theorem abortLanes_frame {k : Parts} {s t : State} 
    (h : Frame k s t) (hk : sub { lane := true } k = true) :
    Frame k s (abortLanes t) := by
  refine Frame.step h (l := { lane := true }) ?_ hk
  clear h hk
  unfold abortLanes
  repeat' first
    | (extract_lets +onlyGivenNames -merge -underBinder x; first | (with_reducible refine Frame.cutTo (t := x) ?_ ?_; rotate_left; (try clear_value x); rename _ => y; intro hx; rotate_left; clear_value (hh : x = _); subst hh) | (have hq : ∀ a, Frame {} t (x a) → True := fun _ _ => trivial; clear hq; rename _ => y) | (have hq : ∀ a b, Frame {} t (x a b) → True := fun _ _ _ => trivial; clear hq; rename _ => y) | (clear_value x; rename _ => y) | (have hq := x; clear hq; rename _ => y))
    | with_reducible apply Frame.ite
    | with_reducible exact Frame.ofMk (by first | exact Frame.refl | assumption) frSame frSame frSame frSame frSame frSame frSame frSame frSame frMine frSame frSame frSame frSame frSame frSame frSame frSame frSame frSame rfl rfl rfl (.inr .refl) (.inr .refl)
    | with_reducible apply Frame.refl
    | with_reducible assumption
    | split

theorem powerLoss_frame {k : Parts} {s t : State} 
    (h : Frame k s t) (hk : sub partsPwrEvent k = true) :
    Frame k s (powerLoss t) := by
  refine Frame.step h (l := partsPwrEvent) ?_ hk
  clear h hk
  unfold powerLoss
  repeat' first
    | (extract_lets +onlyGivenNames -merge -underBinder x; first | (with_reducible refine Frame.cutTo (t := x) ?_ ?_; rotate_left; (try clear_value x); rename _ => y; intro hx; rotate_left; clear_value (hh : x = _); subst hh) | (have hq : Flt := x; clear hq; rename _ => y) | (have hq : Sys := x; clear hq; rename _ => y) | (clear_value x; rename _ => y) | (have hq := x; clear hq; rename _ => y))
    | with_reducible refine powerlossEntry_frame ?_ (by with_unfolding_all rfl)
    | with_reducible refine wakeForLoss_frame ?_ (by with_unfolding_all rfl)
    | with_reducible refine abortLanes_frame ?_ (by with_unfolding_all rfl)
    | with_reducible refine guardAll_frame ?_ (by with_unfolding_all rfl)
    | with_reducible apply Frame.ite
    | with_reducible exact Frame.ofMk (by first | exact Frame.refl | assumption) frMine frMine frMine frSame frMine frMine frMine frSame frMine frMine frMine frSame frMine frMine frMine frMine frMine frMine frMine frSame rfl rfl rfl (by first | exact .inr .refl | exact .inr ⟨rfl, rfl, rfl, rfl, id⟩ | exact .inr ⟨rfl, rfl, rfl, rfl, fun _ => rfl⟩ | exact .inr (.ite ⟨rfl, rfl, rfl, rfl, id⟩ ⟨rfl, rfl, rfl, rfl, id⟩)) (by first | exact .inr .refl | exact .inr ⟨rfl, rfl, rfl, rfl⟩ | exact .inr (addFaultRecord_binds _ _) | with_unfolding_all exact .inr ⟨rfl, rfl, rfl, rfl⟩)
    | with_reducible apply Frame.refl
    | with_reducible assumption
    | split

theorem execPwrfailQualified_frame {s t : State}  (e : execPwrfailQualified s = .next t) :
    Frame partsPwrEvent s t := by
  unfold execPwrfailQualified at e
  refine Frame.act ?_ e
  clear e
  try dsimp -zeta only
  repeat' first
    | with_reducible refine powerLoss_frame ?_ (by with_unfolding_all rfl)
    | with_reducible apply Frame.refl
    | with_reducible assumption

theorem execRailBrownout_frame {s t : State}  (e : execRailBrownout s = .next t) :
    Frame partsPwrEvent s t := by
  unfold execRailBrownout at e
  refine Frame.act ?_ e
  clear e
  try dsimp -zeta only
  repeat' first
    | with_reducible refine powerLoss_frame ?_ (by with_unfolding_all rfl)
    | with_reducible apply Frame.refl
    | with_reducible assumption

theorem refugeDelay_frame {k : Parts} {s t : State} 
    (h : Frame k s t) (hk : sub { sys := true, spn := true } k = true) :
    Frame k s (refugeDelay t) := by
  refine Frame.step h (l := { sys := true, spn := true }) ?_ hk
  clear h hk
  unfold refugeDelay
  repeat' first
    | (extract_lets +onlyGivenNames -merge -underBinder x; first | (with_reducible refine Frame.cutTo (t := x) ?_ ?_; rotate_left; (try clear_value x); rename _ => y; intro hx; rotate_left; clear_value (hh : x = _); subst hh) | (have hq : Sys := x; clear hq; rename _ => y) | (clear_value x; rename _ => y) | (have hq := x; clear hq; rename _ => y))
    | with_reducible apply Frame.ite
    | with_reducible exact Frame.ofMk (by first | exact Frame.refl | assumption) frMine frSame frSame frSame frMine frSame frSame frSame frSame frSame frSame frSame frSame frSame frSame frSame frSame frSame frSame frSame rfl rfl rfl (by first | exact .inr .refl | exact .inr ⟨rfl, rfl, rfl, rfl, id⟩ | exact .inr ⟨rfl, rfl, rfl, rfl, fun _ => rfl⟩ | exact .inr (.ite ⟨rfl, rfl, rfl, rfl, id⟩ ⟨rfl, rfl, rfl, rfl, id⟩)) (.inr .refl)
    | with_reducible apply Frame.refl
    | with_reducible assumption
    | split

theorem execRefugeDelayExpiry_frame {s t : State}  (e : execRefugeDelayExpiry s = .next t) :
    Frame { sys := true, spn := true } s t := by
  unfold execRefugeDelayExpiry at e
  refine Frame.act ?_ e
  clear e
  try dsimp -zeta only
  repeat' first
    | with_reducible refine refugeDelay_frame ?_ (by with_unfolding_all rfl)
    | with_reducible apply Frame.refl
    | with_reducible assumption

theorem refugeWrite_frame {k : Parts} {s t : State} {a0 : LaneIx}
    (h : Frame k s t) (hk : sub { sys := true, lane := true, spe := true } k = true) :
    Frame k s (refugeWrite a0 t) := by
  refine Frame.step h (l := { sys := true, lane := true, spe := true }) ?_ hk
  clear h hk
  unfold refugeWrite
  repeat' first
    | (extract_lets +onlyGivenNames -merge -underBinder x; first | (with_reducible refine Frame.cutTo (t := x) ?_ ?_; rotate_left; (try clear_value x); rename _ => y; intro hx; rotate_left; clear_value (hh : x = _); subst hh) | (have hq : ∀ a, Frame {} t (x a) → True := fun _ _ => trivial; clear hq; rename _ => y) | (have hq : ∀ a b, Frame {} t (x a b) → True := fun _ _ _ => trivial; clear hq; rename _ => y) | (have hq : Sys := x; clear hq; rename _ => y) | (clear_value x; rename _ => y) | (have hq := x; clear hq; rename _ => y))
    | with_reducible refine setLane_frame ?_ (by with_unfolding_all rfl)
    | with_reducible apply Frame.ite
    | with_reducible exact Frame.ofMk (by first | exact Frame.refl | assumption) frMine frSame frSame frSame frSame frSame frSame frSame frSame frMine frSame frSame frSame frSame frSame frSame frMine frSame frSame frSame rfl rfl rfl (by first | exact .inr .refl | exact .inr ⟨rfl, rfl, rfl, rfl, id⟩ | exact .inr ⟨rfl, rfl, rfl, rfl, fun _ => rfl⟩ | exact .inr (.ite ⟨rfl, rfl, rfl, rfl, id⟩ ⟨rfl, rfl, rfl, rfl, id⟩)) (.inr .refl)
    | with_reducible apply Frame.refl
    | with_reducible assumption
    | split

theorem execRefugeWrite_frame {s t : State} {a0 : LaneIx} (e : execRefugeWrite a0 s = .next t) :
    Frame { sys := true, lane := true, spe := true } s t := by
  unfold execRefugeWrite at e
  refine Frame.act ?_ e
  clear e
  try dsimp -zeta only
  repeat' first
    | with_reducible refine refugeWrite_frame ?_ (by with_unfolding_all rfl)
    | with_reducible apply Frame.refl
    | with_reducible assumption

theorem refugeDone_frame {k : Parts} {s t : State} {a0 : Bool}
    (h : Frame k s t) (hk : sub { sys := true, srv := true, stc := true } k = true) :
    Frame k s (refugeDone a0 t) := by
  refine Frame.step h (l := { sys := true, srv := true, stc := true }) ?_ hk
  clear h hk
  unfold refugeDone
  repeat' first
    | (extract_lets +onlyGivenNames -merge -underBinder x; first | (with_reducible refine Frame.cutTo (t := x) ?_ ?_; rotate_left; (try clear_value x); rename _ => y; intro hx; rotate_left; clear_value (hh : x = _); subst hh) | (have hq : Sys := x; clear hq; rename _ => y) | (clear_value x; rename _ => y) | (have hq := x; clear hq; rename _ => y))
    | with_reducible refine unloadFall_frame ?_ (by with_unfolding_all rfl)
    | with_reducible apply Frame.ite
    | with_reducible exact Frame.ofMk (by first | exact Frame.refl | assumption) frMine frSame frSame frSame frSame frMine frSame frSame frSame frSame frSame frSame frSame frSame frSame frMine frSame frSame frSame frSame rfl rfl rfl (by first | exact .inr .refl | exact .inr ⟨rfl, rfl, rfl, rfl, id⟩ | exact .inr ⟨rfl, rfl, rfl, rfl, fun _ => rfl⟩ | exact .inr (.ite ⟨rfl, rfl, rfl, rfl, id⟩ ⟨rfl, rfl, rfl, rfl, id⟩)) (.inr .refl)
    | with_reducible apply Frame.refl
    | with_reducible assumption
    | split

theorem execRefugeDone_frame {s t : State} {a0 : Bool} (e : execRefugeDone a0 s = .next t) :
    Frame { sys := true, srv := true, stc := true } s t := by
  unfold execRefugeDone at e
  refine Frame.act ?_ e
  clear e
  try dsimp -zeta only
  repeat' first
    | with_reducible refine refugeDone_frame ?_ (by with_unfolding_all rfl)
    | with_reducible apply Frame.refl
    | with_reducible assumption

theorem lossRecovery_frame {k : Parts} {s t : State} 
    (h : Frame k s t) (hk : sub allParts k = true) :
    Frame k s (lossRecovery t) := by
  refine Frame.step h (l := allParts) ?_ hk
  clear h hk
  unfold lossRecovery
  repeat' first
    | with_reducible refine fullReset_frame ?_ (by with_unfolding_all rfl)
    | with_reducible apply Frame.ite
    | with_reducible apply Frame.refl
    | with_reducible assumption
    | split

theorem execPowerlossRecoveryReset_frame {s t : State}  (e : execPowerlossRecoveryReset s = .next t) :
    Frame allParts s t := by
  unfold execPowerlossRecoveryReset at e
  refine Frame.act ?_ e
  clear e
  try dsimp -zeta only
  repeat' first
    | with_reducible refine lossRecovery_frame ?_ (by with_unfolding_all rfl)
    | with_reducible apply Frame.refl
    | with_reducible assumption

theorem permitHigh_frame {k : Parts} {s t : State} 
    (h : Frame k s t) (hk : sub partsEngineFaultW k = true) :
    Frame k s (permitHigh t) := by
  refine Frame.step h (l := partsEngineFaultW) ?_ hk
  clear h hk
  unfold permitHigh
  repeat' first
    | (extract_lets +onlyGivenNames -merge -underBinder x; first | (with_reducible refine Frame.cutTo (t := x) ?_ ?_; rotate_left; (try clear_value x); rename _ => y; intro hx; rotate_left; clear_value (hh : x = _); subst hh) | (have hq : Flt := x; clear hq; rename _ => y) | (have hq : Sys := x; clear hq; rename _ => y) | (clear_value x; rename _ => y) | (have hq := x; clear hq; rename _ => y))
    | with_reducible refine earnIfIdle_frame ?_ (by with_unfolding_all rfl)
    | with_reducible refine beginStart_frame ?_ (by with_unfolding_all rfl)
    | with_reducible apply Frame.ite
    | with_reducible exact Frame.ofMk (by first | exact Frame.refl | assumption) frMine frMine frSame frSame frMine frMine frMine frSame frMine frMine frMine frSame frMine frMine frMine frMine frMine frMine frMine frSame rfl rfl rfl (by first | exact .inr .refl | exact .inr ⟨rfl, rfl, rfl, rfl, id⟩ | exact .inr ⟨rfl, rfl, rfl, rfl, fun _ => rfl⟩ | exact .inr (.ite ⟨rfl, rfl, rfl, rfl, id⟩ ⟨rfl, rfl, rfl, rfl, id⟩)) (by first | exact .inr .refl | exact .inr ⟨rfl, rfl, rfl, rfl⟩ | exact .inr (addFaultRecord_binds _ _) | with_unfolding_all exact .inr ⟨rfl, rfl, rfl, rfl⟩)
    | with_reducible apply Frame.refl
    | with_reducible assumption
    | split

theorem execPermitInFilteredHigh_frame {s t : State}  (e : execPermitInFilteredHigh s = .next t) :
    Frame partsEngineFaultW s t := by
  unfold execPermitInFilteredHigh at e
  refine Frame.act ?_ e
  clear e
  try dsimp -zeta only
  repeat' first
    | with_reducible refine permitHigh_frame ?_ (by with_unfolding_all rfl)
    | with_reducible apply Frame.refl
    | with_reducible assumption

theorem execPermitInFall_frame {s t : State}  (e : execPermitInFall s = .next t) :
    Frame { sys := true } s t := by
  unfold execPermitInFall at e
  refine Frame.act ?_ e
  clear e
  try dsimp -zeta only
  repeat' first
    | (extract_lets +onlyGivenNames -merge -underBinder x; first | (with_reducible refine Frame.cutTo (t := x) ?_ ?_; rotate_left; (try clear_value x); rename _ => y; intro hx; rotate_left; clear_value (hh : x = _); subst hh) | (have hq : Sys := x; clear hq; rename _ => y) | (clear_value x; rename _ => y) | (have hq := x; clear hq; rename _ => y))
    | with_reducible exact Frame.ofMk (by first | exact Frame.refl | assumption) frMine frSame frSame frSame frSame frSame frSame frSame frSame frSame frSame frSame frSame frSame frSame frSame frSame frSame frSame frSame rfl rfl rfl (by first | exact .inr .refl | exact .inr ⟨rfl, rfl, rfl, rfl, id⟩ | exact .inr ⟨rfl, rfl, rfl, rfl, fun _ => rfl⟩ | exact .inr (.ite ⟨rfl, rfl, rfl, rfl, id⟩ ⟨rfl, rfl, rfl, rfl, id⟩)) (.inr .refl)
    | with_reducible apply Frame.refl
    | with_reducible assumption

theorem execPermitDelayExpiry_frame {s t : State}  (e : execPermitDelayExpiry s = .next t) :
    Frame { sys := true } s t := by
  unfold execPermitDelayExpiry at e
  refine Frame.act ?_ e
  clear e
  try dsimp -zeta only
  repeat' first
    | with_reducible refine earnPermit_frame ?_ (by with_unfolding_all rfl)
    | with_reducible apply Frame.ite
    | with_reducible apply Frame.refl
    | with_reducible assumption
    | split

theorem execErrOutMinExpiry_frame {s t : State}  (e : execErrOutMinExpiry s = .next t) :
    Frame { sys := true } s t := by
  unfold execErrOutMinExpiry at e
  refine Frame.act ?_ e
  clear e
  try dsimp -zeta only
  repeat' first
    | (extract_lets +onlyGivenNames -merge -underBinder x; first | (with_reducible refine Frame.cutTo (t := x) ?_ ?_; rotate_left; (try clear_value x); rename _ => y; intro hx; rotate_left; clear_value (hh : x = _); subst hh) | (have hq : Sys := x; clear hq; rename _ => y) | (clear_value x; rename _ => y) | (have hq := x; clear hq; rename _ => y))
    | with_reducible exact Frame.ofMk (by first | exact Frame.refl | assumption) frMine frSame frSame frSame frSame frSame frSame frSame frSame frSame frSame frSame frSame frSame frSame frSame frSame frSame frSame frSame rfl rfl rfl (by first | exact .inr .refl | exact .inr ⟨rfl, rfl, rfl, rfl, id⟩ | exact .inr ⟨rfl, rfl, rfl, rfl, fun _ => rfl⟩ | exact .inr (.ite ⟨rfl, rfl, rfl, rfl, id⟩ ⟨rfl, rfl, rfl, rfl, id⟩)) (.inr .refl)
    | with_reducible apply Frame.refl
    | with_reducible assumption

theorem shockPin_frame {k : Parts} {s t : State} {a0 : Fin 2} {a1 : Bool}
    (h : Frame k s t) (hk : sub partsEngineFaultW k = true) :
    Frame k s (shockPin a0 a1 t) := by
  refine Frame.step h (l := partsEngineFaultW) ?_ hk
  clear h hk
  unfold shockPin
  repeat' first
    | (extract_lets +onlyGivenNames -merge -underBinder x; first | (with_reducible refine Frame.cutTo (t := x) ?_ ?_; rotate_left; (try clear_value x); rename _ => y; intro hx; rotate_left; clear_value (hh : x = _); subst hh) | (have hq : ∀ a, Frame {} t (x a) → True := fun _ _ => trivial; clear hq; rename _ => y) | (have hq : ∀ a b, Frame {} t (x a b) → True := fun _ _ _ => trivial; clear hq; rename _ => y) | (have hq : Flt := x; clear hq; rename _ => y) | (have hq : Sys := x; clear hq; rename _ => y) | (clear_value x; rename _ => y) | (have hq := x; clear hq; rename _ => y))
    | with_reducible refine shockBegin_frame ?_ (by with_unfolding_all rfl)
    | with_reducible refine srvEvent_frame ?_ (by with_unfolding_all rfl)
    | with_reducible refine setSrv_frame ?_ (by with_unfolding_all rfl)
    | with_reducible refine guardAll_frame ?_ (by with_unfolding_all rfl)
    | with_reducible apply Frame.foldl
    | with_reducible apply Frame.ite
    | with_reducible exact Frame.ofMk (by first | exact Frame.refl | assumption) frMine frMine frSame frSame frMine frMine frMine frSame frMine frMine frMine frSame frMine frMine frMine frMine frMine frMine frMine frSame rfl rfl rfl (by first | exact .inr .refl | exact .inr ⟨rfl, rfl, rfl, rfl, id⟩ | exact .inr ⟨rfl, rfl, rfl, rfl, fun _ => rfl⟩ | exact .inr (.ite ⟨rfl, rfl, rfl, rfl, id⟩ ⟨rfl, rfl, rfl, rfl, id⟩)) (by first | exact .inr .refl | exact .inr ⟨rfl, rfl, rfl, rfl⟩ | exact .inr (addFaultRecord_binds _ _) | with_unfolding_all exact .inr ⟨rfl, rfl, rfl, rfl⟩)
    | with_reducible apply Frame.refl
    | with_reducible assumption
    | intro _ _ _
    | intro _ _
    | split

theorem execShockPinAssert_frame {s t : State} {a0 : Fin 2} {a1 : Bool} (e : execShockPinAssert a0 a1 s = .next t) :
    Frame partsEngineFaultW s t := by
  unfold execShockPinAssert at e
  refine Frame.next ?_ e
  clear e
  try dsimp -zeta only
  repeat' first
    | with_reducible refine shockPin_frame ?_ (by with_unfolding_all rfl)
    | with_reducible apply Frame.refl
    | with_reducible assumption

theorem execPaFaultAssert_frame {s t : State} {a0 : ActIx} {a1 : Bool} (e : execPaFaultAssert a0 a1 s = .next t) :
    Frame { sys := true } s t := by
  unfold execPaFaultAssert at e
  refine Frame.next ?_ e
  clear e
  try dsimp -zeta only
  repeat' first
    | (extract_lets +onlyGivenNames -merge -underBinder x; first | (with_reducible refine Frame.cutTo (t := x) ?_ ?_; rotate_left; (try clear_value x); rename _ => y; intro hx; rotate_left; clear_value (hh : x = _); subst hh) | (have hq : Sys := x; clear hq; rename _ => y) | (clear_value x; rename _ => y) | (have hq := x; clear hq; rename _ => y))
    | with_reducible exact Frame.ofMk (by first | exact Frame.refl | assumption) frMine frSame frSame frSame frSame frSame frSame frSame frSame frSame frSame frSame frSame frSame frSame frSame frSame frSame frSame frSame rfl rfl rfl (by first | exact .inr .refl | exact .inr ⟨rfl, rfl, rfl, rfl, id⟩ | exact .inr ⟨rfl, rfl, rfl, rfl, fun _ => rfl⟩ | exact .inr (.ite ⟨rfl, rfl, rfl, rfl, id⟩ ⟨rfl, rfl, rfl, rfl, id⟩)) (.inr .refl)
    | with_reducible apply Frame.refl
    | with_reducible assumption

end Sys2Proof.Laws
end

