-- ==== Sys2Proof/Laws/Frames/Spe.lean ====
section
/-!
SUPPORT. The frames of the operations of Machine/Spe.lean: the parts each may change.
-/
namespace Sys2Proof.Laws
open Sys2Proof Sys2Proof.Machine

set_option linter.all false
set_option Elab.async false

theorem makeDurable_frame {k : Parts} {s t : State} {a0 : List Nat} {a1 : Bool}
    (h : Frame k s t) (hk : sub { arr := true } k = true) :
    Frame k s (makeDurable a0 a1 t) := by
  refine Frame.step h (l := { arr := true }) ?_ hk
  clear h hk
  unfold makeDurable
  repeat' first
    | (extract_lets +onlyGivenNames -merge -underBinder x; first | (with_reducible refine Frame.cutTo (t := x) ?_ ?_; rotate_left; (try clear_value x); rename _ => y; intro hx; rotate_left; clear_value (hh : x = _); subst hh) | (have hq : ∀ a, Frame {} t (x a) → True := fun _ _ => trivial; clear hq; rename _ => y) | (have hq : ∀ a b, Frame {} t (x a b) → True := fun _ _ _ => trivial; clear hq; rename _ => y) | (clear_value x; rename _ => y) | (have hq := x; clear hq; rename _ => y))
    | with_reducible apply Frame.ite
    | with_reducible exact Frame.ofMk (by first | exact Frame.refl | assumption) frSame frSame frSame frSame frSame frSame frSame frSame frSame frSame frSame frSame frSame frSame frSame frSame frSame frMine frSame frSame rfl rfl rfl (.inr .refl) (.inr .refl)
    | with_reducible apply Frame.refl
    | with_reducible assumption
    | split

theorem unfrog_frame {k : Parts} {s t : State} {a0 : Nat} {a1 : Zone}
    (h : Frame k s t) (hk : sub { arr := true } k = true) :
    Frame k s (unfrog a0 a1 t) := by
  refine Frame.step h (l := { arr := true }) ?_ hk
  clear h hk
  unfold unfrog
  repeat' first
    | (extract_lets +onlyGivenNames -merge -underBinder x; first | (with_reducible refine Frame.cutTo (t := x) ?_ ?_; rotate_left; (try clear_value x); rename _ => y; intro hx; rotate_left; clear_value (hh : x = _); subst hh) | (have hq : ∀ a, Frame {} t (x a) → True := fun _ _ => trivial; clear hq; rename _ => y) | (have hq : ∀ a b, Frame {} t (x a b) → True := fun _ _ _ => trivial; clear hq; rename _ => y) | (clear_value x; rename _ => y) | (have hq := x; clear hq; rename _ => y))
    | with_reducible apply Frame.ite
    | with_reducible exact Frame.ofMk (by first | exact Frame.refl | assumption) frSame frSame frSame frSame frSame frSame frSame frSame frSame frSame frSame frSame frSame frSame frSame frSame frSame frMine frSame frSame rfl rfl rfl (.inr .refl) (.inr .refl)
    | with_reducible apply Frame.refl
    | with_reducible assumption
    | split

theorem skipRow_frame {k : Parts} {s t : State} {a0 : Nat} {a1 : Zone} {a2 : Nat} {a3 : List (Nat × BitVec 16)}
    (h : Frame k s t) (hk : sub { spe := true, arr := true, mem := true } k = true) :
    Frame k s (skipRow a0 a1 a2 a3 t) := by
  refine Frame.step h (l := { spe := true, arr := true, mem := true }) ?_ hk
  clear h hk
  unfold skipRow
  repeat' first
    | (extract_lets +onlyGivenNames -merge -underBinder x; first | (with_reducible refine Frame.cutTo (t := x) ?_ ?_; rotate_left; (try clear_value x); rename _ => y; intro hx; rotate_left; clear_value (hh : x = _); subst hh) | (clear_value x; rename _ => y) | (have hq := x; clear hq; rename _ => y))
    | with_reducible refine zmap_frame ?_ (by with_unfolding_all rfl)
    | with_reducible apply Frame.foldl
    | with_reducible apply Frame.ite
    | with_reducible exact Frame.ofMk (by first | exact Frame.refl | assumption) frSame frSame frSame frSame frSame frSame frSame frSame frSame frSame frSame frSame frSame frSame frSame frSame frMine frMine frSame frSame rfl rfl rfl (.inr .refl) (.inr .refl)
    | with_reducible apply Frame.refl
    | with_reducible assumption
    | intro _ _ _
    | intro _ _
    | split

theorem logHeld_frame {k : Parts} {s t : State} {a0 : List Nat}
    (h : Frame k s t) (hk : sub partsKick k = true) :
    Frame k s (logHeld a0 t) := by
  refine Frame.step h (l := partsKick) ?_ hk
  clear h hk
  unfold logHeld
  repeat' first
    | (extract_lets +onlyGivenNames -merge -underBinder x; first | (with_reducible refine Frame.cutTo (t := x) ?_ ?_; rotate_left; (try clear_value x); rename _ => y; intro hx; rotate_left; clear_value (hh : x = _); subst hh) | (with_reducible refine Frame.cutTo (t := (Prod.snd x)) ?_ ?_; rotate_left; (try clear_value x); rename _ => y; intro hx; rotate_left; clear_value (hh : x = _); subst hh) | (clear_value x; rename _ => y) | (have hq := x; clear hq; rename _ => y))
    | with_reducible refine kick_frame ?_ (by with_unfolding_all rfl)
    | with_reducible refine makeDurable_frame ?_ (by with_unfolding_all rfl)
    | with_reducible refine logRecord_frame ?_ (by with_unfolding_all rfl)
    | with_reducible refine logRecord_pair (by assumption) ?_ (by with_unfolding_all rfl)
    | with_reducible refine Frame.getDMap ?_ (fun _ => ?_)
    | with_reducible apply Frame.getD
    | with_reducible apply Frame.ite
    | with_reducible apply Frame.refl
    | with_reducible assumption
    | intro _ _ _
    | intro _ _
    | split

theorem rowVerified_frame {k : Parts} {s t : State} {a0 : Nat} {a1 : Nat}
    (h : Frame k s t) (hk : sub partsKick k = true) :
    Frame k s (rowVerified a0 a1 t) := by
  refine Frame.step h (l := partsKick) ?_ hk
  clear h hk
  unfold rowVerified
  repeat' first
    | (extract_lets +onlyGivenNames -merge -underBinder x; first | (with_reducible refine Frame.cutTo (t := x) ?_ ?_; rotate_left; (try clear_value x); rename _ => y; intro hx; rotate_left; clear_value (hh : x = _); subst hh) | (clear_value x; rename _ => y) | (have hq := x; clear hq; rename _ => y))
    | with_reducible refine assignTargets_frame ?_ (by with_unfolding_all rfl)
    | with_reducible refine logHeld_frame ?_ (by with_unfolding_all rfl)
    | with_reducible refine skipRow_frame ?_ (by with_unfolding_all rfl)
    | with_reducible refine jAppend_frame ?_ (by with_unfolding_all rfl)
    | with_reducible refine unfrog_frame ?_ (by with_unfolding_all rfl)
    | with_reducible refine makeDurable_frame ?_ (by with_unfolding_all rfl)
    | with_reducible refine kick_frame ?_ (by with_unfolding_all rfl)
    | with_reducible refine completeGroups_frame ?_ (by with_unfolding_all rfl)
    | with_reducible apply Frame.ite
    | with_reducible exact Frame.ofMk (by first | exact Frame.refl | assumption) frSame frSame frSame frSame frSame frSame frSame frSame frSame frMine frSame frMine frSame frSame frSame frSame frMine frMine frMine frMine rfl rfl rfl (.inr .refl) (.inr .refl)
    | with_reducible apply Frame.refl
    | with_reducible assumption
    | split

theorem execRowVerified_frame {s t : State} {a0 : Nat} {a1 : Nat} (e : execRowVerified a0 a1 s = .next t) :
    Frame partsKick s t := by
  unfold execRowVerified at e
  refine Frame.act ?_ e
  clear e
  try dsimp -zeta only
  repeat' first
    | with_reducible refine rowVerified_frame ?_ (by with_unfolding_all rfl)
    | with_reducible apply Frame.refl
    | with_reducible assumption

theorem rowPartial_frame {k : Parts} {s t : State} {a0 : Nat} {a1 : Nat}
    (h : Frame k s t) (hk : sub partsKick k = true) :
    Frame k s (rowPartial a0 a1 t) := by
  refine Frame.step h (l := partsKick) ?_ hk
  clear h hk
  unfold rowPartial
  repeat' first
    | (extract_lets +onlyGivenNames -merge -underBinder x; first | (with_reducible refine Frame.cutTo (t := x) ?_ ?_; rotate_left; (try clear_value x); rename _ => y; intro hx; rotate_left; clear_value (hh : x = _); subst hh) | (with_reducible refine Frame.cutTo (t := (Prod.snd x)) ?_ ?_; rotate_left; (try clear_value x); rename _ => y; intro hx; rotate_left; clear_value (hh : x = _); subst hh) | (have hq : ∀ a, Frame {} t (x a) → True := fun _ _ => trivial; clear hq; rename _ => y) | (have hq : ∀ a b, Frame {} t (x a b) → True := fun _ _ _ => trivial; clear hq; rename _ => y) | (clear_value x; rename _ => y) | (have hq := x; clear hq; rename _ => y))
    | split
    | with_reducible refine assignTargets_frame ?_ (by with_unfolding_all rfl)
    | with_reducible refine logHeld_frame ?_ (by with_unfolding_all rfl)
    | with_reducible refine logRecord_frame ?_ (by with_unfolding_all rfl)
    | with_reducible refine logRecord_pair (by assumption) ?_ (by with_unfolding_all rfl)
    | with_reducible refine skipRow_frame ?_ (by with_unfolding_all rfl)
    | with_reducible refine jAppend_frame ?_ (by with_unfolding_all rfl)
    | with_reducible refine unfrog_frame ?_ (by with_unfolding_all rfl)
    | with_reducible refine makeDurable_frame ?_ (by with_unfolding_all rfl)
    | with_reducible refine kick_frame ?_ (by with_unfolding_all rfl)
    | with_reducible apply Frame.ite
    | with_reducible exact Frame.ofMk (by first | exact Frame.refl | assumption | exact logRecord_pair (by assumption) (by first | exact Frame.refl | assumption | exact logRecord_pair (by assumption) (by first | exact Frame.refl | assumption) (by with_unfolding_all rfl)) (by with_unfolding_all rfl)) frSame frSame frSame frSame frSame frSame frSame frSame frSame frMine frSame frMine frSame frSame frSame frSame frMine frMine frMine frMine rfl rfl rfl (.inr .refl) (.inr .refl)
    | with_reducible apply Frame.refl
    | with_reducible assumption
    | split

theorem execRowIdleTimeout_frame {s t : State} {a0 : Nat} {a1 : Nat} (e : execRowIdleTimeout a0 a1 s = .next t) :
    Frame partsKick s t := by
  unfold execRowIdleTimeout at e
  refine Frame.act ?_ e
  clear e
  try dsimp -zeta only
  repeat' first
    | with_reducible refine rowPartial_frame ?_ (by with_unfolding_all rfl)
    | with_reducible apply Frame.refl
    | with_reducible assumption

theorem rmwDurable_frame {k : Parts} {s t : State} {a0 : Nat} {a1 : Nat} {a2 : Nat}
    (h : Frame k s t) (hk : sub { media := true, spe := true } k = true) :
    Frame k s (rmwDurable a0 a1 a2 t) := by
  refine Frame.step h (l := { media := true, spe := true }) ?_ hk
  clear h hk
  unfold rmwDurable
  repeat' first
    | (extract_lets +onlyGivenNames -merge -underBinder x; first | (with_reducible refine Frame.cutTo (t := x) ?_ ?_; rotate_left; (try clear_value x); rename _ => y; intro hx; rotate_left; clear_value (hh : x = _); subst hh) | (have hq : ∀ a, Frame {} t (x a) → True := fun _ _ => trivial; clear hq; rename _ => y) | (have hq : ∀ a b, Frame {} t (x a b) → True := fun _ _ _ => trivial; clear hq; rename _ => y) | (clear_value x; rename _ => y) | (have hq := x; clear hq; rename _ => y))
    | with_reducible refine markGroups_frame ?_ (by with_unfolding_all rfl)
    | with_reducible apply Frame.foldl
    | with_reducible refine Frame.getDMap ?_ (fun _ => ?_)
    | with_reducible apply Frame.getD
    | with_reducible apply Frame.ite
    | with_reducible exact Frame.ofMk (by first | exact Frame.refl | assumption) frSame frSame frSame frSame frSame frSame frSame frSame frSame frSame frSame frMine frSame frSame frSame frSame frMine frSame frSame frSame rfl rfl rfl (.inr .refl) (.inr .refl)
    | with_reducible apply Frame.refl
    | with_reducible assumption
    | intro _ _ _
    | intro _ _
    | split

theorem execRmwEntriesDurable_frame {s t : State} {a0 : Nat} {a1 : Nat} {a2 : Nat} (e : execRmwEntriesDurable a0 a1 a2 s = .next t) :
    Frame { media := true, spe := true } s t := by
  unfold execRmwEntriesDurable at e
  refine Frame.act ?_ e
  clear e
  try dsimp -zeta only
  repeat' first
    | with_reducible refine rmwDurable_frame ?_ (by with_unfolding_all rfl)
    | with_reducible apply Frame.refl
    | with_reducible assumption

theorem rmwVerified_frame {k : Parts} {s t : State} {a0 : Nat} {a1 : Nat} {a2 : Nat}
    (h : Frame k s t) (hk : sub partsKick k = true) :
    Frame k s (rmwVerified a0 a1 a2 t) := by
  refine Frame.step h (l := partsKick) ?_ hk
  clear h hk
  unfold rmwVerified
  repeat' first
    | (extract_lets +onlyGivenNames -merge -underBinder x; first | (with_reducible refine Frame.cutTo (t := x) ?_ ?_; rotate_left; (try clear_value x); rename _ => y; intro hx; rotate_left; clear_value (hh : x = _); subst hh) | (clear_value x; rename _ => y) | (have hq := x; clear hq; rename _ => y))
    | with_reducible refine assignTargets_frame ?_ (by with_unfolding_all rfl)
    | with_reducible refine logHeld_frame ?_ (by with_unfolding_all rfl)
    | with_reducible refine skipRow_frame ?_ (by with_unfolding_all rfl)
    | with_reducible refine jAppend_frame ?_ (by with_unfolding_all rfl)
    | with_reducible refine markGroups_frame ?_ (by with_unfolding_all rfl)
    | with_reducible refine unfrog_frame ?_ (by with_unfolding_all rfl)
    | with_reducible refine makeDurable_frame ?_ (by with_unfolding_all rfl)
    | with_reducible refine lostRewritten_frame ?_ (by with_unfolding_all rfl)
    | with_reducible refine kick_frame ?_ (by with_unfolding_all rfl)
    | with_reducible apply Frame.foldl
    | with_reducible apply Frame.ite
    | with_reducible exact Frame.ofMk (by first | exact Frame.refl | assumption) frSame frSame frSame frSame frSame frSame frSame frSame frSame frMine frSame frMine frSame frSame frSame frSame frMine frMine frMine frMine rfl rfl rfl (.inr .refl) (.inr .refl)
    | with_reducible apply Frame.refl
    | with_reducible assumption
    | intro _ _ _
    | intro _ _
    | split

theorem execRmwVerified_frame {s t : State} {a0 : Nat} {a1 : Nat} {a2 : Nat} (e : execRmwVerified a0 a1 a2 s = .next t) :
    Frame partsKick s t := by
  unfold execRmwVerified at e
  refine Frame.act ?_ e
  clear e
  try dsimp -zeta only
  repeat' first
    | with_reducible refine rmwVerified_frame ?_ (by with_unfolding_all rfl)
    | with_reducible apply Frame.refl
    | with_reducible assumption

theorem skipWalk_frame {k : Parts} {s t : State} {a0 : Nat} {a1 : Nat} {a2 : Nat}
    (h : Frame k s t) (hk : sub partsKick k = true) :
    Frame k s (skipWalk a0 a1 a2 t) := by
  refine Frame.step h (l := partsKick) ?_ hk
  clear h hk
  unfold skipWalk
  repeat' first
    | (extract_lets +onlyGivenNames -merge -underBinder x; first | (with_reducible refine Frame.cutTo (t := x) ?_ ?_; rotate_left; (try clear_value x); rename _ => y; intro hx; rotate_left; clear_value (hh : x = _); subst hh) | (clear_value x; rename _ => y) | (have hq := x; clear hq; rename _ => y))
    | with_reducible refine kick_frame ?_ (by with_unfolding_all rfl)
    | with_reducible refine zmap_frame ?_ (by with_unfolding_all rfl)
    | with_reducible apply Frame.ite
    | with_reducible exact Frame.ofMk (by first | exact Frame.refl | assumption) frSame frSame frSame frSame frSame frSame frSame frSame frSame frMine frSame frMine frSame frSame frSame frSame frMine frMine frMine frMine rfl rfl rfl (.inr .refl) (.inr .refl)
    | with_reducible apply Frame.refl
    | with_reducible assumption
    | split

theorem execSkipWalkUnit_frame {s t : State} {a0 : Nat} {a1 : Nat} {a2 : Nat} (e : execSkipWalkUnit a0 a1 a2 s = .next t) :
    Frame partsKick s t := by
  unfold execSkipWalkUnit at e
  refine Frame.act ?_ e
  clear e
  try dsimp -zeta only
  repeat' first
    | with_reducible refine skipWalk_frame ?_ (by with_unfolding_all rfl)
    | with_reducible apply Frame.refl
    | with_reducible assumption

theorem handedBack_frame {k : Parts} {s t : State} {a0 : Nat} {a1 : Zone} {a2 : Nat}
    (h : Frame k s t) (hk : sub { media := true, stc := true, arr := true, hif := true } k = true) :
    Frame k s (handedBack a0 a1 a2 t) := by
  refine Frame.step h (l := { media := true, stc := true, arr := true, hif := true }) ?_ hk
  clear h hk
  unfold handedBack
  repeat' first
    | (extract_lets +onlyGivenNames -merge -underBinder x; first | (with_reducible refine Frame.cutTo (t := x) ?_ ?_; rotate_left; (try clear_value x); rename _ => y; intro hx; rotate_left; clear_value (hh : x = _); subst hh) | (clear_value x; rename _ => y) | (have hq := x; clear hq; rename _ => y))
    | with_reducible refine recoverLate_frame ?_ (by with_unfolding_all rfl)
    | with_reducible apply Frame.ite
    | with_reducible exact Frame.ofMk (by first | exact Frame.refl | assumption) frSame frSame frSame frSame frSame frSame frSame frSame frSame frSame frSame frMine frSame frSame frSame frMine frSame frMine frMine frSame rfl rfl rfl (.inr .refl) (.inr .refl)
    | with_reducible apply Frame.refl
    | with_reducible assumption
    | split

theorem reconstruct_frame {k : Parts} {s t : State} {a0 : Nat} {a1 : Nat} {a2 : Nat} {a3 : Bool} {a4 : Nat} {a5 : Bool}
    (h : Frame k s t) (hk : sub partsGaugeEntryApply k = true) :
    Frame k s (reconstruct a0 a1 a2 a3 a4 a5 t) := by
  refine Frame.step h (l := partsGaugeEntryApply) ?_ hk
  clear h hk
  unfold reconstruct
  repeat' first
    | (extract_lets +onlyGivenNames -merge -underBinder x; first | (with_reducible refine Frame.cutTo (t := x) ?_ ?_; rotate_left; (try clear_value x); rename _ => y; intro hx; rotate_left; clear_value (hh : x = _); subst hh) | (have hq : Flt := x; clear hq; rename _ => y) | (have hq : Sys := x; clear hq; rename _ => y) | (clear_value x; rename _ => y) | (have hq := x; clear hq; rename _ => y))
    | with_reducible refine speEvent_frame ?_ (by with_unfolding_all rfl)
    | with_reducible refine handedBack_frame ?_ (by with_unfolding_all rfl)
    | with_reducible refine dropStitch_frame ?_ (by with_unfolding_all rfl)
    | with_reducible apply Frame.ite
    | with_reducible exact Frame.ofMk (by first | exact Frame.refl | assumption) frMine frMine frSame frSame frMine frMine frMine frSame frMine frMine frMine frMine frMine frMine frMine frMine frMine frMine frMine frSame rfl rfl rfl (by first | exact .inr .refl | exact .inr ⟨rfl, rfl, rfl, rfl, id⟩ | exact .inr ⟨rfl, rfl, rfl, rfl, fun _ => rfl⟩ | exact .inr (.ite ⟨rfl, rfl, rfl, rfl, id⟩ ⟨rfl, rfl, rfl, rfl, id⟩)) (by first | exact .inr .refl | exact .inr ⟨rfl, rfl, rfl, rfl⟩ | exact .inr (addFaultRecord_binds _ _) | with_unfolding_all exact .inr ⟨rfl, rfl, rfl, rfl⟩)
    | with_reducible apply Frame.refl
    | with_reducible assumption
    | split

theorem execReconstructRead_frame {s t : State} {a0 : Nat} {a1 : Nat} {a2 : Nat} {a3 : Bool} {a4 : Nat} {a5 : Bool} (e : execReconstructRead a0 a1 a2 a3 a4 a5 s = .next t) :
    Frame partsGaugeEntryApply s t := by
  unfold execReconstructRead at e
  refine Frame.act ?_ e
  clear e
  try dsimp -zeta only
  repeat' first
    | with_reducible refine reconstruct_frame ?_ (by with_unfolding_all rfl)
    | with_reducible apply Frame.refl
    | with_reducible assumption

theorem putColumn_frame {k : Parts} {s t : State} {a0 : Nat} {a1 : List Nat}
    (h : Frame k s t) (hk : sub { mem := true } k = true) :
    Frame k s (putColumn a0 a1 t) := by
  refine Frame.step h (l := { mem := true }) ?_ hk
  clear h hk
  unfold putColumn
  repeat' first
    | with_reducible refine writeByte_frame ?_ (by with_unfolding_all rfl)
    | with_reducible apply Frame.foldl
    | with_reducible apply Frame.refl
    | with_reducible assumption
    | intro _ _ _
    | intro _ _

theorem jobColumn_frame {k : Parts} {s t : State} {a0 : Nat} {a1 : Nat} {a2 : Nat} {a3 : Nat} {a4 : Nat} {a5 : Nat} {a6 : Nat} {a7 : Nat} {a8 : Nat}
    (h : Frame k s t) (hk : sub { mem := true } k = true) :
    Frame k s (jobColumn a0 a1 a2 a3 a4 a5 a6 a7 a8 t).1 := by
  refine Frame.step h (l := { mem := true }) ?_ hk
  clear h hk
  unfold jobColumn
  repeat' first
    | (extract_lets +onlyGivenNames -merge -underBinder x; first | (with_reducible refine Frame.cutTo (t := x) ?_ ?_; rotate_left; (try clear_value x); rename _ => y; intro hx; rotate_left; clear_value (hh : x = _); subst hh) | (clear_value x; rename _ => y) | (have hq := x; clear hq; rename _ => y))
    | with_reducible refine putColumn_frame ?_ (by with_unfolding_all rfl)
    | with_reducible refine Frame.getDMap ?_ (fun _ => ?_)
    | with_reducible apply Frame.getD
    | with_reducible apply Frame.ite
    | with_reducible exact Frame.ofMk (by first | exact Frame.refl | assumption) frSame frSame frSame frSame frSame frSame frSame frSame frSame frSame frSame frSame frSame frSame frSame frSame frSame frSame frSame frSame rfl rfl rfl (.inr .refl) (.inr .refl)
    | dsimp -zeta only
    | with_reducible apply Frame.refl
    | with_reducible assumption
    | intro _ _ _
    | intro _ _
    | split

theorem jobColumn_pair {k : Parts} {s t : State} {a0 : Nat} {a1 : Nat} {a2 : Nat} {a3 : Nat} {a4 : Nat} {a5 : Nat} {a6 : Nat} {a7 : Nat} {a8 : Nat} {y : Bool} {b : State} (e : jobColumn a0 a1 a2 a3 a4 a5 a6 a7 a8 t = (b, y))
    (h : Frame k s t) (hk : sub { mem := true } k = true) :
    Frame k s b := by
  have f := jobColumn_frame (a0 := a0) (a1 := a1) (a2 := a2) (a3 := a3) (a4 := a4) (a5 := a5) (a6 := a6) (a7 := a7) (a8 := a8) h hk
  rw [e] at f; exact f

theorem jobColumns_frame {k : Parts} {s t : State} {a0 : Nat} {a1 : Nat} {a2 : Nat} {a3 : Nat} {a4 : Nat} {a5 : Nat} {a6 : Nat} {a7 : Nat} {a8 : List Nat}
    (h : Frame k s t) (hk : sub { mem := true } k = true) :
    Frame k s (jobColumns a0 a1 a2 a3 a4 a5 a6 a7 a8 t).1 := by
  refine Frame.step h (l := { mem := true }) ?_ hk
  clear h hk
  unfold jobColumns
  suffices g : ∀ p : State × BitVec 16, Frame { mem := true } t p.1 → Frame { mem := true } t
      (a8.foldl (fun (t : State × BitVec 16) o =>
        let r := jobColumn a0 a1 a2 a3 a4 a5 a6 o a7 t.1
        (r.1, if r.2 then setBit t.2 (o / 4096) else t.2)) p).1 by exact g (t, 0) Frame.refl
  induction a8 with
  | nil => intro p h; exact h
  | cons o os ih => intro p h; exact ih _ (jobColumn_frame h rfl)

theorem jobColumns_pair {k : Parts} {s t : State} {a0 : Nat} {a1 : Nat} {a2 : Nat} {a3 : Nat} {a4 : Nat} {a5 : Nat} {a6 : Nat} {a7 : Nat} {a8 : List Nat} {y : BitVec 16} {b : State} (e : jobColumns a0 a1 a2 a3 a4 a5 a6 a7 a8 t = (b, y))
    (h : Frame k s t) (hk : sub { mem := true } k = true) :
    Frame k s b := by
  have f := jobColumns_frame (a0 := a0) (a1 := a1) (a2 := a2) (a3 := a3) (a4 := a4) (a5 := a5) (a6 := a6) (a7 := a7) (a8 := a8) h hk
  rw [e] at f; exact f

theorem jobDone_frame {k : Parts} {s t : State} {a0 : Word} {a1 : Nat} {a2 : BitVec 16}
    (h : Frame k s t) (hk : sub partsEngineFaultW k = true) :
    Frame k s (jobDone a0 a1 a2 t) := by
  refine Frame.step h (l := partsEngineFaultW) ?_ hk
  clear h hk
  unfold jobDone
  repeat' first
    | (extract_lets +onlyGivenNames -merge -underBinder x; first | (with_reducible refine Frame.cutTo (t := x) ?_ ?_; rotate_left; (try clear_value x); rename _ => y; intro hx; rotate_left; clear_value (hh : x = _); subst hh) | (have hq : Flt := x; clear hq; rename _ => y) | (have hq : Sys := x; clear hq; rename _ => y) | (clear_value x; rename _ => y) | (have hq := x; clear hq; rename _ => y))
    | with_reducible refine hqmPost_frame ?_ (by with_unfolding_all rfl)
    | with_reducible refine speEvent_frame ?_ (by with_unfolding_all rfl)
    | with_reducible apply Frame.ite
    | with_reducible apply Frame.refl
    | with_reducible assumption
    | split

theorem speJob_frame {k : Parts} {s t : State} {a0 : BitVec 16} {a1 : BitVec 16}
    (h : Frame k s t) (hk : sub partsEngineFaultW k = true) :
    Frame k s (speJob a0 a1 t) := by
  refine Frame.step h (l := partsEngineFaultW) ?_ hk
  clear h hk
  unfold speJob
  repeat' first
    | (extract_lets +onlyGivenNames -merge -underBinder x; first | (with_reducible refine Frame.cutTo (t := x) ?_ ?_; rotate_left; (try clear_value x); rename _ => y; intro hx; rotate_left; clear_value (hh : x = _); subst hh) | (have hq : Flt := x; clear hq; rename _ => y) | (have hq : Sys := x; clear hq; rename _ => y) | (clear_value x; rename _ => y) | (have hq := x; clear hq; rename _ => y))
    | split
    | with_reducible refine hqmTake_frame (by assumption) ?_ (by with_unfolding_all rfl)
    | with_reducible refine jobDone_frame ?_ (by with_unfolding_all rfl)
    | with_reducible refine speEvent_frame ?_ (by with_unfolding_all rfl)
    | with_reducible refine jobColumns_frame ?_ (by with_unfolding_all rfl)
    | with_reducible refine jobColumns_pair (by assumption) ?_ (by with_unfolding_all rfl)
    | with_reducible apply Frame.ite
    | with_reducible exact Frame.ofMk (by first | exact Frame.refl | assumption | exact jobColumns_pair (by assumption) (by first | exact Frame.refl | assumption | exact jobColumns_pair (by assumption) (by first | exact Frame.refl | assumption) (by with_unfolding_all rfl)) (by with_unfolding_all rfl)) frMine frMine frSame frSame frMine frMine frMine frSame frMine frMine frMine frSame frMine frMine frMine frMine frMine frMine frMine frSame rfl rfl rfl (by first | exact .inr .refl | exact .inr ⟨rfl, rfl, rfl, rfl, id⟩ | exact .inr ⟨rfl, rfl, rfl, rfl, fun _ => rfl⟩ | exact .inr (.ite ⟨rfl, rfl, rfl, rfl, id⟩ ⟨rfl, rfl, rfl, rfl, id⟩)) (by first | exact .inr .refl | exact .inr ⟨rfl, rfl, rfl, rfl⟩ | exact .inr (addFaultRecord_binds _ _) | with_unfolding_all exact .inr ⟨rfl, rfl, rfl, rfl⟩)
    | with_reducible apply Frame.refl
    | with_reducible assumption
    | split

theorem execSpeJob_frame {s t : State} {a0 : BitVec 16} {a1 : BitVec 16} (e : execSpeJob a0 a1 s = .next t) :
    Frame partsEngineFaultW s t := by
  unfold execSpeJob at e
  refine Frame.act ?_ e
  clear e
  try dsimp -zeta only
  repeat' first
    | with_reducible refine speJob_frame ?_ (by with_unfolding_all rfl)
    | with_reducible apply Frame.refl
    | with_reducible assumption

theorem jrnlAckWrite_frame {k : Parts} {s t : State} {a0 : Word}
    (h : Frame k s t) (hk : sub partsKick k = true) :
    Frame k s (jrnlAckWrite a0 t) := by
  refine Frame.step h (l := partsKick) ?_ hk
  clear h hk
  unfold jrnlAckWrite
  repeat' first
    | with_reducible refine kick_frame ?_ (by with_unfolding_all rfl)
    | with_reducible refine groupAck_frame ?_ (by with_unfolding_all rfl)
    | with_reducible apply Frame.refl
    | with_reducible assumption

theorem execJrnlAck_frame {s t : State} {a0 : Word} (e : execJrnlAck a0 s = .next t) :
    Frame partsKick s t := by
  unfold execJrnlAck at e
  refine Frame.act ?_ e
  clear e
  try dsimp -zeta only
  repeat' first
    | with_reducible refine jrnlAckWrite_frame ?_ (by with_unfolding_all rfl)
    | with_reducible apply Frame.refl
    | with_reducible assumption

theorem speCtlWrite_frame {k : Parts} {s t : State} {a0 : Word}
    (h : Frame k s t) (hk : sub { spe := true } k = true) :
    Frame k s (speCtlWrite a0 t) := by
  refine Frame.step h (l := { spe := true }) ?_ hk
  clear h hk
  unfold speCtlWrite
  repeat' first
    | (extract_lets +onlyGivenNames -merge -underBinder x; first | (with_reducible refine Frame.cutTo (t := x) ?_ ?_; rotate_left; (try clear_value x); rename _ => y; intro hx; rotate_left; clear_value (hh : x = _); subst hh) | (clear_value x; rename _ => y) | (have hq := x; clear hq; rename _ => y))
    | with_reducible exact Frame.ofMk (by first | exact Frame.refl | assumption) frSame frSame frSame frSame frSame frSame frSame frSame frSame frSame frSame frSame frSame frSame frSame frSame frMine frSame frSame frSame rfl rfl rfl (.inr .refl) (.inr .refl)
    | with_reducible apply Frame.refl
    | with_reducible assumption

theorem execSpeEnable_frame {s t : State} {a0 : Word} (e : execSpeEnable a0 s = .next t) :
    Frame { spe := true } s t := by
  unfold execSpeEnable at e
  refine Frame.act ?_ e
  clear e
  try dsimp -zeta only
  repeat' first
    | with_reducible refine speCtlWrite_frame ?_ (by with_unfolding_all rfl)
    | with_reducible apply Frame.refl
    | with_reducible assumption

theorem execSpeHalt_frame {s t : State} {a0 : Word} (e : execSpeHalt a0 s = .next t) :
    Frame { spe := true } s t := by
  unfold execSpeHalt at e
  refine Frame.act ?_ e
  clear e
  try dsimp -zeta only
  repeat' first
    | with_reducible refine speCtlWrite_frame ?_ (by with_unfolding_all rfl)
    | with_reducible apply Frame.refl
    | with_reducible assumption

theorem execSpeLock_frame {s t : State} {a0 : Word} (e : execSpeLock a0 s = .next t) :
    Frame { spe := true } s t := by
  unfold execSpeLock at e
  refine Frame.act ?_ e
  clear e
  try dsimp -zeta only
  repeat' first
    | with_reducible refine speCtlWrite_frame ?_ (by with_unfolding_all rfl)
    | with_reducible apply Frame.refl
    | with_reducible assumption

theorem speCalWrite_frame {k : Parts} {s t : State} {a0 : Word}
    (h : Frame k s t) (hk : sub partsEngineFaultW k = true) :
    Frame k s (speCalWrite a0 t) := by
  refine Frame.step h (l := partsEngineFaultW) ?_ hk
  clear h hk
  unfold speCalWrite
  repeat' first
    | (extract_lets +onlyGivenNames -merge -underBinder x; first | (with_reducible refine Frame.cutTo (t := x) ?_ ?_; rotate_left; (try clear_value x); rename _ => y; intro hx; rotate_left; clear_value (hh : x = _); subst hh) | (have hq : Flt := x; clear hq; rename _ => y) | (have hq : Sys := x; clear hq; rename _ => y) | (clear_value x; rename _ => y) | (have hq := x; clear hq; rename _ => y))
    | with_reducible refine speEvent_frame ?_ (by with_unfolding_all rfl)
    | with_reducible apply Frame.ite
    | with_reducible exact Frame.ofMk (by first | exact Frame.refl | assumption) frMine frMine frSame frSame frMine frMine frMine frSame frMine frMine frMine frSame frMine frMine frMine frMine frMine frMine frMine frSame rfl rfl rfl (by first | exact .inr .refl | exact .inr ⟨rfl, rfl, rfl, rfl, id⟩ | exact .inr ⟨rfl, rfl, rfl, rfl, fun _ => rfl⟩ | exact .inr (.ite ⟨rfl, rfl, rfl, rfl, id⟩ ⟨rfl, rfl, rfl, rfl, id⟩)) (by first | exact .inr .refl | exact .inr ⟨rfl, rfl, rfl, rfl⟩ | exact .inr (addFaultRecord_binds _ _) | with_unfolding_all exact .inr ⟨rfl, rfl, rfl, rfl⟩)
    | with_reducible apply Frame.refl
    | with_reducible assumption
    | split

theorem execSpeCalWrite_frame {s t : State} {a0 : Word} (e : execSpeCalWrite a0 s = .next t) :
    Frame partsEngineFaultW s t := by
  unfold execSpeCalWrite at e
  refine Frame.act ?_ e
  clear e
  try dsimp -zeta only
  repeat' first
    | with_reducible refine speCalWrite_frame ?_ (by with_unfolding_all rfl)
    | with_reducible apply Frame.refl
    | with_reducible assumption

theorem membWrite_frame {k : Parts} {s t : State} {a0 : Word}
    (h : Frame k s t) (hk : sub { spe := true } k = true) :
    Frame k s (membWrite a0 t) := by
  refine Frame.step h (l := { spe := true }) ?_ hk
  clear h hk
  unfold membWrite
  repeat' first
    | (extract_lets +onlyGivenNames -merge -underBinder x; first | (with_reducible refine Frame.cutTo (t := x) ?_ ?_; rotate_left; (try clear_value x); rename _ => y; intro hx; rotate_left; clear_value (hh : x = _); subst hh) | (clear_value x; rename _ => y) | (have hq := x; clear hq; rename _ => y))
    | with_reducible apply Frame.ite
    | with_reducible exact Frame.ofMk (by first | exact Frame.refl | assumption) frSame frSame frSame frSame frSame frSame frSame frSame frSame frSame frSame frSame frSame frSame frSame frSame frMine frSame frSame frSame rfl rfl rfl (.inr .refl) (.inr .refl)
    | with_reducible apply Frame.refl
    | with_reducible assumption
    | split

theorem speWrite_frame {k : Parts} {s t : State} {a0 : Nat} {a1 : Word}
    (h : Frame k s t) (hk : sub partsYarnHeadLost k = true) :
    Frame k s (speWrite a0 a1 t) := by
  refine Frame.step h (l := partsYarnHeadLost) ?_ hk
  clear h hk
  unfold speWrite
  repeat' first
    | (extract_lets +onlyGivenNames -merge -underBinder x; first | (with_reducible refine Frame.cutTo (t := x) ?_ ?_; rotate_left; (try clear_value x); rename _ => y; intro hx; rotate_left; clear_value (hh : x = _); subst hh) | (have hq : Flt := x; clear hq; rename _ => y) | (have hq : Sys := x; clear hq; rename _ => y) | (clear_value x; rename _ => y) | (have hq := x; clear hq; rename _ => y))
    | with_reducible refine speCtlWrite_frame ?_ (by with_unfolding_all rfl)
    | with_reducible refine jrnlAppendWrite_frame ?_ (by with_unfolding_all rfl)
    | with_reducible refine jrnlAckWrite_frame ?_ (by with_unfolding_all rfl)
    | with_reducible refine speCalWrite_frame ?_ (by with_unfolding_all rfl)
    | with_reducible refine speEvent_frame ?_ (by with_unfolding_all rfl)
    | with_reducible refine membWrite_frame ?_ (by with_unfolding_all rfl)
    | with_reducible apply Frame.ite
    | with_reducible exact Frame.ofMk (by first | exact Frame.refl | assumption) frMine frMine frSame frSame frMine frMine frMine frSame frMine frMine frMine frMine frMine frMine frMine frMine frMine frMine frMine frMine rfl rfl rfl (by first | exact .inr .refl | exact .inr ⟨rfl, rfl, rfl, rfl, id⟩ | exact .inr ⟨rfl, rfl, rfl, rfl, fun _ => rfl⟩ | exact .inr (.ite ⟨rfl, rfl, rfl, rfl, id⟩ ⟨rfl, rfl, rfl, rfl, id⟩)) (by first | exact .inr .refl | exact .inr ⟨rfl, rfl, rfl, rfl⟩ | exact .inr (addFaultRecord_binds _ _) | with_unfolding_all exact .inr ⟨rfl, rfl, rfl, rfl⟩)
    | with_reducible apply Frame.refl
    | with_reducible assumption
    | split

theorem replicaFillDone_frame {k : Parts} {s t : State} 
    (h : Frame k s t) (hk : sub partsYarnHeadLost k = true) :
    Frame k s (replicaFillDone t) := by
  refine Frame.step h (l := partsYarnHeadLost) ?_ hk
  clear h hk
  unfold replicaFillDone
  repeat' first
    | with_reducible refine kick_frame ?_ (by with_unfolding_all rfl)
    | with_reducible refine fillDone_frame ?_ (by with_unfolding_all rfl)
    | with_reducible apply Frame.refl
    | with_reducible assumption

theorem execReplicaFillDone_frame {s t : State}  (e : execReplicaFillDone s = .next t) :
    Frame partsYarnHeadLost s t := by
  unfold execReplicaFillDone at e
  refine Frame.act ?_ e
  clear e
  try dsimp -zeta only
  repeat' first
    | with_reducible refine replicaFillDone_frame ?_ (by with_unfolding_all rfl)
    | with_reducible apply Frame.refl
    | with_reducible assumption

end Sys2Proof.Laws
end

