-- ==== Sys2Proof/Laws/Frames/CastOn.lean ====
section
/-!
SUPPORT. The frames of the operations of Machine/CastOn.lean: the parts each may change.
-/
namespace Sys2Proof.Laws
open Sys2Proof Sys2Proof.Machine

set_option linter.all false
set_option Elab.async false

theorem postBind_frame {k : Parts} {s t : State} {a0 : Word} {a1 : Word}
    (h : Frame k s t) (hk : sub { sys := true, flt := true, port := true, bind := true } k = true) :
    Frame k s (postBind a0 a1 t) := by
  refine Frame.step h (l := { sys := true, flt := true, port := true, bind := true }) ?_ hk
  clear h hk
  unfold postBind
  repeat' first
    | (extract_lets +onlyGivenNames -merge -underBinder x; first | (with_reducible refine Frame.cutTo (t := x) ?_ ?_; rotate_left; (try clear_value x); rename _ => y; intro hx; rotate_left; clear_value (hh : x = _); subst hh) | (have hq : Sys := x; clear hq; rename _ => y) | (clear_value x; rename _ => y) | (have hq := x; clear hq; rename _ => y))
    | with_reducible exact Frame.ofMk (by first | exact Frame.refl | assumption) frMine frMine frSame frSame frSame frSame frMine frSame frSame frSame frSame frSame frSame frSame frSame frSame frSame frSame frSame frSame rfl rfl rfl (by first | exact .inr .refl | exact .inr ⟨rfl, rfl, rfl, rfl, id⟩ | exact .inr ⟨rfl, rfl, rfl, rfl, fun _ => rfl⟩ | exact .inr (.ite ⟨rfl, rfl, rfl, rfl, id⟩ ⟨rfl, rfl, rfl, rfl, id⟩)) (.inl rfl)
    | with_reducible apply Frame.refl
    | with_reducible assumption

theorem postSpindle_frame {k : Parts} {s t : State} {a0 : Nat}
    (h : Frame k s t) (hk : sub partsEngineFaultW k = true) :
    Frame k s (postSpindle a0 t) := by
  refine Frame.step h (l := partsEngineFaultW) ?_ hk
  clear h hk
  unfold postSpindle
  repeat' first
    | with_reducible refine spnEvent_frame ?_ (by with_unfolding_all rfl)
    | with_reducible refine pairFail_frame ?_ (by with_unfolding_all rfl)
    | with_reducible apply Frame.ite
    | with_reducible apply Frame.refl
    | with_reducible assumption
    | split

theorem postImage_frame {k : Parts} {s t : State} {a0 : Fin 2}
    (h : Frame k s t) (hk : sub { flt := true, stc := true, host := true } k = true) :
    Frame k s (postImage a0 t) := by
  refine Frame.step h (l := { flt := true, stc := true, host := true }) ?_ hk
  clear h hk
  unfold postImage
  repeat' first
    | (extract_lets +onlyGivenNames -merge -underBinder x; first | (with_reducible refine Frame.cutTo (t := x) ?_ ?_; rotate_left; (try clear_value x); rename _ => y; intro hx; rotate_left; clear_value (hh : x = _); subst hh) | (have hq : Flt := x; clear hq; rename _ => y) | (clear_value x; rename _ => y) | (have hq := x; clear hq; rename _ => y))
    | with_reducible refine stcCond_frame ?_ (by with_unfolding_all rfl)
    | with_reducible refine historyNote_frame ?_ (by with_unfolding_all rfl)
    | with_reducible apply Frame.ite
    | with_reducible exact Frame.ofMk (by first | exact Frame.refl | assumption) frSame frMine frSame frSame frSame frSame frSame frSame frSame frSame frSame frSame frSame frSame frSame frMine frSame frSame frSame frMine rfl rfl rfl (.inr .refl) (by first | exact .inr .refl | exact .inr ⟨rfl, rfl, rfl, rfl⟩ | exact .inr (addFaultRecord_binds _ _) | with_unfolding_all exact .inr ⟨rfl, rfl, rfl, rfl⟩)
    | with_reducible apply Frame.refl
    | with_reducible assumption
    | split

theorem safeDomains_frame {k : Parts} {s t : State} 
    (h : Frame k s t) (hk : sub partsPwrEvent k = true) :
    Frame k s (safeDomains t) := by
  refine Frame.step h (l := partsPwrEvent) ?_ hk
  clear h hk
  unfold safeDomains
  repeat' first
    | (extract_lets +onlyGivenNames -merge -underBinder x; first | (with_reducible refine Frame.cutTo (t := x) ?_ ?_; rotate_left; (try clear_value x); rename _ => y; intro hx; rotate_left; clear_value (hh : x = _); subst hh) | (have hq : ∀ a, Frame {} t (x a) → True := fun _ _ => trivial; clear hq; rename _ => y) | (have hq : ∀ a b, Frame {} t (x a b) → True := fun _ _ _ => trivial; clear hq; rename _ => y) | (have hq : Flt := x; clear hq; rename _ => y) | (have hq : Sys := x; clear hq; rename _ => y) | (clear_value x; rename _ => y) | (have hq := x; clear hq; rename _ => y))
    | with_reducible refine setDom_frame ?_ (by with_unfolding_all rfl)
    | with_reducible apply Frame.foldl
    | with_reducible apply Frame.ite
    | with_reducible exact Frame.ofMk (by first | exact Frame.refl | assumption) frMine frMine frMine frSame frMine frMine frMine frSame frMine frMine frMine frSame frMine frMine frMine frMine frMine frMine frMine frSame rfl rfl rfl (by first | exact .inr .refl | exact .inr ⟨rfl, rfl, rfl, rfl, id⟩ | exact .inr ⟨rfl, rfl, rfl, rfl, fun _ => rfl⟩ | exact .inr (.ite ⟨rfl, rfl, rfl, rfl, id⟩ ⟨rfl, rfl, rfl, rfl, id⟩)) (by first | exact .inr .refl | exact .inr ⟨rfl, rfl, rfl, rfl⟩ | exact .inr (addFaultRecord_binds _ _) | with_unfolding_all exact .inr ⟨rfl, rfl, rfl, rfl⟩)
    | with_reducible apply Frame.refl
    | with_reducible assumption
    | intro _ _ _
    | intro _ _
    | split

theorem postCrystal_frame {k : Parts} {s t : State} 
    (h : Frame k s t) (hk : sub partsClkEvent k = true) :
    Frame k s (postCrystal t) := by
  refine Frame.step h (l := partsClkEvent) ?_ hk
  clear h hk
  unfold postCrystal
  repeat' first
    | (extract_lets +onlyGivenNames -merge -underBinder x; first | (with_reducible refine Frame.cutTo (t := x) ?_ ?_; rotate_left; (try clear_value x); rename _ => y; intro hx; rotate_left; clear_value (hh : x = _); subst hh) | (have hq : Flt := x; clear hq; rename _ => y) | (have hq : Sys := x; clear hq; rename _ => y) | (clear_value x; rename _ => y) | (have hq := x; clear hq; rename _ => y))
    | with_reducible refine clkEvent_frame ?_ (by with_unfolding_all rfl)
    | with_reducible apply Frame.ite
    | with_reducible exact Frame.ofMk (by first | exact Frame.refl | assumption) frMine frMine frSame frMine frMine frMine frMine frSame frMine frMine frMine frSame frMine frMine frMine frMine frMine frMine frMine frSame rfl rfl rfl (by first | exact .inr .refl | exact .inr ⟨rfl, rfl, rfl, rfl, id⟩ | exact .inr ⟨rfl, rfl, rfl, rfl, fun _ => rfl⟩ | exact .inr (.ite ⟨rfl, rfl, rfl, rfl, id⟩ ⟨rfl, rfl, rfl, rfl, id⟩)) (by first | exact .inr .refl | exact .inr ⟨rfl, rfl, rfl, rfl⟩ | exact .inr (addFaultRecord_binds _ _) | with_unfolding_all exact .inr ⟨rfl, rfl, rfl, rfl⟩)
    | with_reducible apply Frame.refl
    | with_reducible assumption
    | split

theorem postStores_frame {k : Parts} {s t : State} {a0 : Nat} {a1 : BitVec 5}
    (h : Frame k s t) (hk : sub partsEngineFaultW k = true) :
    Frame k s (postStores a0 a1 t) := by
  refine Frame.step h (l := partsEngineFaultW) ?_ hk
  clear h hk
  unfold postStores
  repeat' first
    | (extract_lets +onlyGivenNames -merge -underBinder x; first | (with_reducible refine Frame.cutTo (t := x) ?_ ?_; rotate_left; (try clear_value x); rename _ => y; intro hx; rotate_left; clear_value (hh : x = _); subst hh) | (have hq : ∀ a, Frame {} t (x a) → True := fun _ _ => trivial; clear hq; rename _ => y) | (have hq : ∀ a b, Frame {} t (x a b) → True := fun _ _ _ => trivial; clear hq; rename _ => y) | (have hq : Flt := x; clear hq; rename _ => y) | (have hq : Sys := x; clear hq; rename _ => y) | (clear_value x; rename _ => y) | (have hq := x; clear hq; rename _ => y))
    | with_reducible refine patCtlWrite_frame ?_ (by with_unfolding_all rfl)
    | with_reducible refine rowCtlWrite_frame ?_ (by with_unfolding_all rfl)
    | with_reducible refine setLane_frame ?_ (by with_unfolding_all rfl)
    | with_reducible apply Frame.foldl
    | with_reducible apply Frame.ite
    | with_reducible exact Frame.ofMk (by first | exact Frame.refl | assumption) frMine frMine frSame frSame frMine frMine frMine frSame frMine frMine frMine frSame frMine frMine frMine frMine frMine frMine frMine frSame rfl rfl rfl (by first | exact .inr .refl | exact .inr ⟨rfl, rfl, rfl, rfl, id⟩ | exact .inr ⟨rfl, rfl, rfl, rfl, fun _ => rfl⟩ | exact .inr (.ite ⟨rfl, rfl, rfl, rfl, id⟩ ⟨rfl, rfl, rfl, rfl, id⟩)) (by first | exact .inr .refl | exact .inr ⟨rfl, rfl, rfl, rfl⟩ | exact .inr (addFaultRecord_binds _ _) | with_unfolding_all exact .inr ⟨rfl, rfl, rfl, rfl⟩)
    | with_reducible apply Frame.refl
    | with_reducible assumption
    | intro _ _ _
    | intro _ _
    | split

theorem postRun_frame {k : Parts} {s t : State} {a0 : PostFindings}
    (h : Frame k s t) (hk : sub { sys := true, flt := true, pwr := true, clk := true, spn := true, srv := true, port := true, yck := true, lane := true, ddp := true, dma := true, hqm := true, cap := true, stc := true, spe := true, arr := true, hif := true, host := true, mem := true, bind := true } k = true) :
    Frame k s (postRun a0 t) := by
  refine Frame.step h (l := { sys := true, flt := true, pwr := true, clk := true, spn := true, srv := true, port := true, yck := true, lane := true, ddp := true, dma := true, hqm := true, cap := true, stc := true, spe := true, arr := true, hif := true, host := true, mem := true, bind := true }) ?_ hk
  clear h hk
  unfold postRun
  repeat' first
    | (extract_lets +onlyGivenNames -merge -underBinder x; first | (with_reducible refine Frame.cutTo (t := x) ?_ ?_; rotate_left; (try clear_value x); rename _ => y; intro hx; rotate_left; clear_value (hh : x = _); subst hh) | (have hq : ∀ a, Frame {} t (x a) → True := fun _ _ => trivial; clear hq; rename _ => y) | (have hq : ∀ a b, Frame {} t (x a b) → True := fun _ _ _ => trivial; clear hq; rename _ => y) | (have hq : Sys := x; clear hq; rename _ => y) | (clear_value x; rename _ => y) | (have hq := x; clear hq; rename _ => y))
    | with_reducible refine postBind_frame ?_ (by with_unfolding_all rfl)
    | with_reducible refine postStores_frame ?_ (by with_unfolding_all rfl)
    | with_reducible refine postCrystal_frame ?_ (by with_unfolding_all rfl)
    | with_reducible refine earnIfIdle_frame ?_ (by with_unfolding_all rfl)
    | with_reducible refine safeDomains_frame ?_ (by with_unfolding_all rfl)
    | with_reducible refine postSpindle_frame ?_ (by with_unfolding_all rfl)
    | with_reducible refine stcRestore_frame ?_ (by with_unfolding_all rfl)
    | with_reducible refine postImage_frame ?_ (by with_unfolding_all rfl)
    | with_reducible refine enterPs_frame ?_ (by with_unfolding_all rfl)
    | with_reducible apply Frame.foldl
    | with_reducible refine Frame.getDMap ?_ (fun _ => ?_)
    | with_reducible apply Frame.getD
    | with_reducible apply Frame.ite
    | with_reducible exact Frame.ofMk (by first | exact Frame.refl | assumption) frMine frMine frMine frMine frMine frMine frMine frSame frMine frMine frMine frSame frMine frMine frMine frMine frMine frMine frMine frMine rfl rfl rfl (by first | exact .inr .refl | exact .inr ⟨rfl, rfl, rfl, rfl, id⟩ | exact .inr ⟨rfl, rfl, rfl, rfl, fun _ => rfl⟩ | exact .inr (.ite ⟨rfl, rfl, rfl, rfl, id⟩ ⟨rfl, rfl, rfl, rfl, id⟩)) (.inl rfl)
    | with_reducible apply Frame.refl
    | with_reducible assumption
    | intro _ _ _
    | intro _ _
    | split

theorem execPost_frame {s t : State} {a0 : PostFindings} (e : execPost a0 s = .next t) :
    Frame { sys := true, flt := true, pwr := true, clk := true, spn := true, srv := true, port := true, yck := true, lane := true, ddp := true, dma := true, hqm := true, cap := true, stc := true, spe := true, arr := true, hif := true, host := true, mem := true, bind := true } s t := by
  unfold execPost at e
  refine Frame.act ?_ e
  clear e
  try dsimp -zeta only
  repeat' first
    | with_reducible refine postRun_frame ?_ (by with_unfolding_all rfl)
    | with_reducible apply Frame.refl
    | with_reducible assumption

theorem execSafeCommitReset_frame {s t : State}  (e : execSafeCommitReset s = .next t) :
    Frame allParts s t := by
  unfold execSafeCommitReset at e
  refine Frame.act ?_ e
  clear e
  try dsimp -zeta only
  repeat' first
    | with_reducible refine fullReset_frame ?_ (by with_unfolding_all rfl)
    | with_reducible apply Frame.ite
    | with_reducible apply Frame.refl
    | with_reducible assumption
    | split

theorem supplyFor_frame {k : Parts} {s t : State} {a0 : Fin 5}
    (h : Frame k s t) (hk : sub partsPwrEvent k = true) :
    Frame k s (supplyFor a0 t) := by
  refine Frame.step h (l := partsPwrEvent) ?_ hk
  clear h hk
  unfold supplyFor
  repeat' first
    | (extract_lets +onlyGivenNames -merge -underBinder x; first | (with_reducible refine Frame.cutTo (t := x) ?_ ?_; rotate_left; (try clear_value x); rename _ => y; intro hx; rotate_left; clear_value (hh : x = _); subst hh) | (have hq : Flt := x; clear hq; rename _ => y) | (have hq : Sys := x; clear hq; rename _ => y) | (clear_value x; rename _ => y) | (have hq := x; clear hq; rename _ => y))
    | with_reducible refine enterPs_frame ?_ (by with_unfolding_all rfl)
    | with_reducible exact Frame.ofMk (by first | exact Frame.refl | assumption) frMine frMine frMine frSame frMine frMine frMine frSame frMine frMine frMine frSame frMine frMine frMine frMine frMine frMine frMine frSame rfl rfl rfl (by first | exact .inr .refl | exact .inr ⟨rfl, rfl, rfl, rfl, id⟩ | exact .inr ⟨rfl, rfl, rfl, rfl, fun _ => rfl⟩ | exact .inr (.ite ⟨rfl, rfl, rfl, rfl, id⟩ ⟨rfl, rfl, rfl, rfl, id⟩)) (by first | exact .inr .refl | exact .inr ⟨rfl, rfl, rfl, rfl⟩ | exact .inr (addFaultRecord_binds _ _) | with_unfolding_all exact .inr ⟨rfl, rfl, rfl, rfl⟩)
    | with_reducible apply Frame.refl
    | with_reducible assumption

theorem startSpindle_frame {k : Parts} {s t : State} 
    (h : Frame k s t) (hk : sub partsEngineFaultW k = true) :
    Frame k s (startSpindle t) := by
  refine Frame.step h (l := partsEngineFaultW) ?_ hk
  clear h hk
  unfold startSpindle
  repeat' first
    | (extract_lets +onlyGivenNames -merge -underBinder x; first | (with_reducible refine Frame.cutTo (t := x) ?_ ?_; rotate_left; (try clear_value x); rename _ => y; intro hx; rotate_left; clear_value (hh : x = _); subst hh) | (have hq : Flt := x; clear hq; rename _ => y) | (have hq : Sys := x; clear hq; rename _ => y) | (clear_value x; rename _ => y) | (have hq := x; clear hq; rename _ => y))
    | with_reducible refine spnWrite_frame ?_ (by with_unfolding_all rfl)
    | with_reducible refine spnCtlWrite_frame ?_ (by with_unfolding_all rfl)
    | with_reducible apply Frame.refl
    | with_reducible assumption

theorem spinupStart_frame {k : Parts} {s t : State} 
    (h : Frame k s t) (hk : sub partsPwrEvent k = true) :
    Frame k s (spinupStart t) := by
  refine Frame.step h (l := partsPwrEvent) ?_ hk
  clear h hk
  unfold spinupStart
  repeat' first
    | (extract_lets +onlyGivenNames -merge -underBinder x; first | (with_reducible refine Frame.cutTo (t := x) ?_ ?_; rotate_left; (try clear_value x); rename _ => y; intro hx; rotate_left; clear_value (hh : x = _); subst hh) | (have hq : Flt := x; clear hq; rename _ => y) | (have hq : Sys := x; clear hq; rename _ => y) | (clear_value x; rename _ => y) | (have hq := x; clear hq; rename _ => y))
    | with_reducible refine startSpindle_frame ?_ (by with_unfolding_all rfl)
    | with_reducible refine supplyFor_frame ?_ (by with_unfolding_all rfl)
    | with_reducible apply Frame.ite
    | with_reducible exact Frame.ofMk (by first | exact Frame.refl | assumption) frMine frMine frMine frSame frMine frMine frMine frSame frMine frMine frMine frSame frMine frMine frMine frMine frMine frMine frMine frSame rfl rfl rfl (by first | exact .inr .refl | exact .inr ⟨rfl, rfl, rfl, rfl, id⟩ | exact .inr ⟨rfl, rfl, rfl, rfl, fun _ => rfl⟩ | exact .inr (.ite ⟨rfl, rfl, rfl, rfl, id⟩ ⟨rfl, rfl, rfl, rfl, id⟩)) (by first | exact .inr .refl | exact .inr ⟨rfl, rfl, rfl, rfl⟩ | exact .inr (addFaultRecord_binds _ _) | with_unfolding_all exact .inr ⟨rfl, rfl, rfl, rfl⟩)
    | with_reducible apply Frame.refl
    | with_reducible assumption
    | split

theorem execSpinupStart_frame {s t : State}  (e : execSpinupStart s = .next t) :
    Frame partsPwrEvent s t := by
  unfold execSpinupStart at e
  refine Frame.act ?_ e
  clear e
  try dsimp -zeta only
  repeat' first
    | with_reducible refine guardAll_frame ?_ (by with_unfolding_all rfl)
    | with_reducible refine spinupStart_frame ?_ (by with_unfolding_all rfl)
    | with_reducible apply Frame.refl
    | with_reducible assumption

theorem srvPut_frame {k : Parts} {s t : State} {a0 : EngIx} {a1 : Nat} {a2 : Nat} {a3 : Nat} {a4 : Nat}
    (h : Frame k s t) (hk : sub { srv := true } k = true) :
    Frame k s (srvPut a0 a1 a2 a3 a4 t) := by
  refine Frame.step h (l := { srv := true }) ?_ hk
  clear h hk
  unfold srvPut
  repeat' first
    | (extract_lets +onlyGivenNames -merge -underBinder x; first | (with_reducible refine Frame.cutTo (t := x) ?_ ?_; rotate_left; (try clear_value x); rename _ => y; intro hx; rotate_left; clear_value (hh : x = _); subst hh) | (clear_value x; rename _ => y) | (have hq := x; clear hq; rename _ => y))
    | with_reducible refine setSrv_frame ?_ (by with_unfolding_all rfl)
    | with_reducible exact Frame.ofMk (by first | exact Frame.refl | assumption) frSame frSame frSame frSame frSame frMine frSame frSame frSame frSame frSame frSame frSame frSame frSame frSame frSame frSame frSame frSame rfl rfl rfl (.inr .refl) (.inr .refl)
    | with_reducible apply Frame.refl
    | with_reducible assumption

theorem loadHeads_frame {k : Parts} {s t : State} {a0 : Bool}
    (h : Frame k s t) (hk : sub partsEngineFaultW k = true) :
    Frame k s (loadHeads a0 t) := by
  refine Frame.step h (l := partsEngineFaultW) ?_ hk
  clear h hk
  unfold loadHeads
  repeat' first
    | (extract_lets +onlyGivenNames -merge -underBinder x; first | (with_reducible refine Frame.cutTo (t := x) ?_ ?_; rotate_left; (try clear_value x); rename _ => y; intro hx; rotate_left; clear_value (hh : x = _); subst hh) | (have hq : ∀ a, Frame {} t (x a) → True := fun _ _ => trivial; clear hq; rename _ => y) | (have hq : ∀ a b, Frame {} t (x a b) → True := fun _ _ _ => trivial; clear hq; rename _ => y) | (have hq : Flt := x; clear hq; rename _ => y) | (have hq : Sys := x; clear hq; rename _ => y) | (clear_value x; rename _ => y) | (have hq := x; clear hq; rename _ => y))
    | with_reducible refine setSrv_frame ?_ (by with_unfolding_all rfl)
    | with_reducible refine srvPut_frame ?_ (by with_unfolding_all rfl)
    | with_reducible refine srvLoad_frame ?_ (by with_unfolding_all rfl)
    | with_reducible apply Frame.foldl
    | with_reducible apply Frame.ite
    | with_reducible exact Frame.ofMk (by first | exact Frame.refl | assumption) frMine frMine frSame frSame frMine frMine frMine frSame frMine frMine frMine frSame frMine frMine frMine frMine frMine frMine frMine frSame rfl rfl rfl (by first | exact .inr .refl | exact .inr ⟨rfl, rfl, rfl, rfl, id⟩ | exact .inr ⟨rfl, rfl, rfl, rfl, fun _ => rfl⟩ | exact .inr (.ite ⟨rfl, rfl, rfl, rfl, id⟩ ⟨rfl, rfl, rfl, rfl, id⟩)) (by first | exact .inr .refl | exact .inr ⟨rfl, rfl, rfl, rfl⟩ | exact .inr (addFaultRecord_binds _ _) | with_unfolding_all exact .inr ⟨rfl, rfl, rfl, rfl⟩)
    | with_reducible apply Frame.refl
    | with_reducible assumption
    | intro _ _ _
    | intro _ _
    | split

theorem placeTables_frame {k : Parts} {s t : State} {a0 : List (Nat × List Byte)}
    (h : Frame k s t) (hk : sub { mem := true } k = true) :
    Frame k s (placeTables a0 t) := by
  refine Frame.step h (l := { mem := true }) ?_ hk
  clear h hk
  unfold placeTables
  repeat' first
    | with_reducible refine writeBytes_frame ?_ (by with_unfolding_all rfl)
    | with_reducible apply Frame.foldl
    | with_reducible apply Frame.refl
    | with_reducible assumption
    | intro _ _ _
    | intro _ _

theorem gaugeMark_frame {k : Parts} {s t : State} {a0 : Nat}
    (h : Frame k s t) (hk : sub { mem := true } k = true) :
    Frame k s (gaugeMark a0 t) := by
  refine Frame.step h (l := { mem := true }) ?_ hk
  clear h hk
  unfold gaugeMark
  repeat' first
    | (extract_lets +onlyGivenNames -merge -underBinder x; first | (with_reducible refine Frame.cutTo (t := x) ?_ ?_; rotate_left; (try clear_value x); rename _ => y; intro hx; rotate_left; clear_value (hh : x = _); subst hh) | (clear_value x; rename _ => y) | (have hq := x; clear hq; rename _ => y))
    | with_reducible refine writeLE_frame ?_ (by with_unfolding_all rfl)
    | with_reducible apply Frame.refl
    | with_reducible assumption

theorem gaugeIn_frame {k : Parts} {s t : State} {a0 : Nat} {a1 : Nat × Nat × List Byte}
    (h : Frame k s t) (hk : sub { yck := true, media := true, mem := true } k = true) :
    Frame k s (gaugeIn a0 a1 t) := by
  refine Frame.step h (l := { yck := true, media := true, mem := true }) ?_ hk
  clear h hk
  unfold gaugeIn
  repeat' first
    | (extract_lets +onlyGivenNames -merge -underBinder x; first | (with_reducible refine Frame.cutTo (t := x) ?_ ?_; rotate_left; (try clear_value x); rename _ => y; intro hx; rotate_left; clear_value (hh : x = _); subst hh) | (clear_value x; rename _ => y) | (have hq := x; clear hq; rename _ => y))
    | with_reducible refine writeBytes_frame ?_ (by with_unfolding_all rfl)
    | with_reducible refine gaugeMark_frame ?_ (by with_unfolding_all rfl)
    | with_reducible apply Frame.ite
    | with_reducible exact Frame.ofMk (by first | exact Frame.refl | assumption) frSame frSame frSame frSame frSame frSame frSame frSame frMine frSame frSame frMine frSame frSame frSame frSame frSame frSame frSame frSame rfl rfl rfl (.inr .refl) (.inr .refl)
    | with_reducible apply Frame.refl
    | with_reducible assumption
    | split

theorem surfaceIn_frame {k : Parts} {s t : State} {a0 : Option (Nat × Nat × Nat)} {a1 : Nat} {a2 : TableSet} {a3 : Bool}
    (h : Frame k s t) (hk : sub { yck := true, media := true, arr := true, mem := true } k = true) :
    Frame k s (surfaceIn a0 a1 a2 a3 t) := by
  refine Frame.step h (l := { yck := true, media := true, arr := true, mem := true }) ?_ hk
  clear h hk
  unfold surfaceIn
  repeat' first
    | (extract_lets +onlyGivenNames -merge -underBinder x; first | (with_reducible refine Frame.cutTo (t := x) ?_ ?_; rotate_left; (try clear_value x); rename _ => y; intro hx; rotate_left; clear_value (hh : x = _); subst hh) | (clear_value x; rename _ => y) | (have hq := x; clear hq; rename _ => y))
    | with_reducible refine gaugeIn_frame ?_ (by with_unfolding_all rfl)
    | with_reducible refine scheduleCal_frame ?_ (by with_unfolding_all rfl)
    | with_reducible apply Frame.foldl
    | with_reducible apply Frame.ite
    | with_reducible exact Frame.ofMk (by first | exact Frame.refl | assumption) frSame frSame frSame frSame frSame frSame frSame frSame frMine frSame frSame frMine frSame frSame frSame frSame frSame frMine frSame frSame rfl rfl rfl (.inr .refl) (.inr .refl)
    | with_reducible apply Frame.refl
    | with_reducible assumption
    | intro _ _ _
    | intro _ _
    | split

theorem tablesRead_frame {k : Parts} {s t : State} {a0 : List SurfaceFind} {a1 : Option (Nat × Nat × Nat)} {a2 : List (Nat × List Byte)}
    (h : Frame k s t) (hk : sub { srv := true, yck := true, media := true, arr := true, mem := true } k = true) :
    Frame k s (tablesRead a0 a1 a2 t) := by
  refine Frame.step h (l := { srv := true, yck := true, media := true, arr := true, mem := true }) ?_ hk
  clear h hk
  unfold tablesRead
  repeat' first
    | (extract_lets +onlyGivenNames -merge -underBinder x; first | (with_reducible refine Frame.cutTo (t := x) ?_ ?_; rotate_left; (try clear_value x); rename _ => y; intro hx; rotate_left; clear_value (hh : x = _); subst hh) | (have hq : ∀ a, Frame {} t (x a) → True := fun _ _ => trivial; clear hq; rename _ => y) | (have hq : ∀ a b, Frame {} t (x a b) → True := fun _ _ _ => trivial; clear hq; rename _ => y) | (clear_value x; rename _ => y) | (have hq := x; clear hq; rename _ => y))
    | with_reducible refine surfaceIn_frame ?_ (by with_unfolding_all rfl)
    | with_reducible refine placeTables_frame ?_ (by with_unfolding_all rfl)
    | with_reducible refine noteChange_frame ?_ (by with_unfolding_all rfl)
    | with_reducible refine setMember_frame ?_ (by with_unfolding_all rfl)
    | with_reducible refine srvPut_frame ?_ (by with_unfolding_all rfl)
    | with_reducible apply Frame.foldl
    | with_reducible refine Frame.getDMap ?_ (fun _ => ?_)
    | with_reducible apply Frame.getD
    | with_reducible apply Frame.ite
    | with_reducible exact Frame.ofMk (by first | exact Frame.refl | assumption) frSame frSame frSame frSame frSame frMine frSame frSame frMine frSame frSame frMine frSame frSame frSame frSame frSame frMine frSame frSame rfl rfl rfl (.inr .refl) (.inr .refl)
    | with_reducible apply Frame.refl
    | with_reducible assumption
    | intro _ _ _
    | intro _ _
    | split

theorem resync_frame {k : Parts} {s t : State} {a0 : Bool}
    (h : Frame k s t) (hk : sub partsAssignTarget k = true) :
    Frame k s (resync a0 t) := by
  refine Frame.step h (l := partsAssignTarget) ?_ hk
  clear h hk
  unfold resync
  repeat' first
    | (extract_lets +onlyGivenNames -merge -underBinder x; first | (with_reducible refine Frame.cutTo (t := x) ?_ ?_; rotate_left; (try clear_value x); rename _ => y; intro hx; rotate_left; clear_value (hh : x = _); subst hh) | (with_reducible refine Frame.cutTo (t := (Prod.snd x)) ?_ ?_; rotate_left; (try clear_value x); rename _ => y; intro hx; rotate_left; clear_value (hh : x = _); subst hh) | (clear_value x; rename _ => y) | (have hq := x; clear hq; rename _ => y))
    | split
    | with_reducible refine assignTargets_frame ?_ (by with_unfolding_all rfl)
    | with_reducible refine logRecord_frame ?_ (by with_unfolding_all rfl)
    | with_reducible refine logRecord_pair (by assumption) ?_ (by with_unfolding_all rfl)
    | with_reducible refine jAppend_frame ?_ (by with_unfolding_all rfl)
    | with_reducible apply Frame.foldl
    | with_reducible apply Frame.ite
    | with_reducible exact Frame.ofMk (by first | exact Frame.refl | assumption | exact logRecord_pair (by assumption) (by first | exact Frame.refl | assumption | exact logRecord_pair (by assumption) (by first | exact Frame.refl | assumption) (by with_unfolding_all rfl)) (by with_unfolding_all rfl)) frSame frSame frSame frSame frSame frSame frSame frSame frSame frSame frSame frMine frSame frSame frSame frSame frMine frMine frMine frSame rfl rfl rfl (.inr .refl) (.inr .refl)
    | with_reducible apply Frame.refl
    | with_reducible assumption
    | intro _ _ _
    | intro _ _
    | split

theorem refugeLost_frame {k : Parts} {s t : State} {a0 : Nat}
    (h : Frame k s t) (hk : sub { flt := true, host := true } k = true) :
    Frame k s (refugeLost a0 t) := by
  refine Frame.step h (l := { flt := true, host := true }) ?_ hk
  clear h hk
  unfold refugeLost
  repeat' first
    | (extract_lets +onlyGivenNames -merge -underBinder x; first | (with_reducible refine Frame.cutTo (t := x) ?_ ?_; rotate_left; (try clear_value x); rename _ => y; intro hx; rotate_left; clear_value (hh : x = _); subst hh) | (have hq : Flt := x; clear hq; rename _ => y) | (clear_value x; rename _ => y) | (have hq := x; clear hq; rename _ => y))
    | with_reducible refine historyNote_frame ?_ (by with_unfolding_all rfl)
    | with_reducible apply Frame.foldl
    | with_reducible apply Frame.ite
    | with_reducible exact Frame.ofMk (by first | exact Frame.refl | assumption) frSame frMine frSame frSame frSame frSame frSame frSame frSame frSame frSame frSame frSame frSame frSame frSame frSame frSame frSame frMine rfl rfl rfl (.inr .refl) (by first | exact .inr .refl | exact .inr ⟨rfl, rfl, rfl, rfl⟩ | exact .inr (addFaultRecord_binds _ _) | with_unfolding_all exact .inr ⟨rfl, rfl, rfl, rfl⟩)
    | with_reducible apply Frame.refl
    | with_reducible assumption
    | intro _ _ _
    | intro _ _
    | split

theorem refugeApply_frame {k : Parts} {s t : State} {a0 : Bool} {a1 : BitVec 5} {a2 : List (Nat × Nat)}
    (h : Frame k s t) (hk : sub partsReplicaLost k = true) :
    Frame k s (refugeApply a0 a1 a2 t) := by
  refine Frame.step h (l := partsReplicaLost) ?_ hk
  clear h hk
  unfold refugeApply
  repeat' first
    | (extract_lets +onlyGivenNames -merge -underBinder x; first | (with_reducible refine Frame.cutTo (t := x) ?_ ?_; rotate_left; (try clear_value x); rename _ => y; intro hx; rotate_left; clear_value (hh : x = _); subst hh) | (have hq : Flt := x; clear hq; rename _ => y) | (have hq : Sys := x; clear hq; rename _ => y) | (clear_value x; rename _ => y) | (have hq := x; clear hq; rename _ => y))
    | with_reducible refine unread_frame ?_ (by with_unfolding_all rfl)
    | with_reducible refine makeDurable_frame ?_ (by with_unfolding_all rfl)
    | with_reducible refine refugeLost_frame ?_ (by with_unfolding_all rfl)
    | with_reducible exact Frame.ofMk (by first | exact Frame.refl | assumption) frMine frMine frSame frSame frMine frMine frMine frSame frMine frMine frMine frMine frMine frMine frMine frMine frMine frMine frMine frMine rfl rfl rfl (by first | exact .inr .refl | exact .inr ⟨rfl, rfl, rfl, rfl, id⟩ | exact .inr ⟨rfl, rfl, rfl, rfl, fun _ => rfl⟩ | exact .inr (.ite ⟨rfl, rfl, rfl, rfl, id⟩ ⟨rfl, rfl, rfl, rfl, id⟩)) (by first | exact .inr .refl | exact .inr ⟨rfl, rfl, rfl, rfl⟩ | exact .inr (addFaultRecord_binds _ _) | with_unfolding_all exact .inr ⟨rfl, rfl, rfl, rfl⟩)
    | with_reducible apply Frame.refl
    | with_reducible assumption

theorem pickReplicas_frame {k : Parts} {s t : State} 
    (h : Frame k s t) (hk : sub { spe := true } k = true) :
    Frame k s (pickReplicas t) := by
  refine Frame.step h (l := { spe := true }) ?_ hk
  clear h hk
  unfold pickReplicas
  repeat' first
    | (extract_lets +onlyGivenNames -merge -underBinder x; first | (with_reducible refine Frame.cutTo (t := x) ?_ ?_; rotate_left; (try clear_value x); rename _ => y; intro hx; rotate_left; clear_value (hh : x = _); subst hh) | (clear_value x; rename _ => y) | (have hq := x; clear hq; rename _ => y))
    | with_reducible apply Frame.foldl
    | with_reducible exact Frame.ofMk (by first | exact Frame.refl | assumption) frSame frSame frSame frSame frSame frSame frSame frSame frSame frSame frSame frSame frSame frSame frSame frSame frMine frSame frSame frSame rfl rfl rfl (.inr .refl) (.inr .refl)
    | with_reducible apply Frame.refl
    | with_reducible assumption
    | intro _ _ _
    | intro _ _
    | split

theorem requalCut_frame {k : Parts} {s t : State} 
    (h : Frame k s t) (hk : sub partsAddLost k = true) :
    Frame k s (requalCut t) := by
  refine Frame.step h (l := partsAddLost) ?_ hk
  clear h hk
  unfold requalCut
  repeat' first
    | (extract_lets +onlyGivenNames -merge -underBinder x; first | (with_reducible refine Frame.cutTo (t := x) ?_ ?_; rotate_left; (try clear_value x); rename _ => y; intro hx; rotate_left; clear_value (hh : x = _); subst hh) | (clear_value x; rename _ => y) | (have hq := x; clear hq; rename _ => y))
    | with_reducible refine memberChange_frame ?_ (by with_unfolding_all rfl)
    | with_reducible apply Frame.foldl
    | with_reducible apply Frame.ite
    | with_reducible apply Frame.refl
    | with_reducible assumption
    | intro _ _ _
    | intro _ _
    | split

theorem journalStages_frame {k : Parts} {s t : State} {a0 : MergeFind} {a1 : BitVec 5} {a2 : List (Nat × Nat)}
    (h : Frame k s t) (hk : sub partsYarnHeadLost k = true) :
    Frame k s (journalStages a0 a1 a2 t) := by
  refine Frame.step h (l := partsYarnHeadLost) ?_ hk
  clear h hk
  unfold journalStages
  repeat' first
    | (extract_lets +onlyGivenNames -merge -underBinder x; first | (with_reducible refine Frame.cutTo (t := x) ?_ ?_; rotate_left; (try clear_value x); rename _ => y; intro hx; rotate_left; clear_value (hh : x = _); subst hh) | (have hq : Flt := x; clear hq; rename _ => y) | (have hq : Sys := x; clear hq; rename _ => y) | (clear_value x; rename _ => y) | (have hq := x; clear hq; rename _ => y))
    | with_reducible refine speEvent_frame ?_ (by with_unfolding_all rfl)
    | with_reducible refine historyNote_frame ?_ (by with_unfolding_all rfl)
    | with_reducible refine refugeApply_frame ?_ (by with_unfolding_all rfl)
    | with_reducible refine unread_frame ?_ (by with_unfolding_all rfl)
    | with_reducible refine requalCut_frame ?_ (by with_unfolding_all rfl)
    | with_reducible refine resync_frame ?_ (by with_unfolding_all rfl)
    | with_reducible refine pickReplicas_frame ?_ (by with_unfolding_all rfl)
    | with_reducible refine touchRegion_frame ?_ (by with_unfolding_all rfl)
    | with_reducible refine checkpoint_frame ?_ (by with_unfolding_all rfl)
    | with_reducible apply Frame.foldl
    | with_reducible apply Frame.ite
    | with_reducible exact Frame.ofMk (by first | exact Frame.refl | assumption) frMine frMine frSame frSame frMine frMine frMine frSame frMine frMine frMine frMine frMine frMine frMine frMine frMine frMine frMine frMine rfl rfl rfl (by first | exact .inr .refl | exact .inr ⟨rfl, rfl, rfl, rfl, id⟩ | exact .inr ⟨rfl, rfl, rfl, rfl, fun _ => rfl⟩ | exact .inr (.ite ⟨rfl, rfl, rfl, rfl, id⟩ ⟨rfl, rfl, rfl, rfl, id⟩)) (by first | exact .inr .refl | exact .inr ⟨rfl, rfl, rfl, rfl⟩ | exact .inr (addFaultRecord_binds _ _) | with_unfolding_all exact .inr ⟨rfl, rfl, rfl, rfl⟩)
    | with_reducible apply Frame.refl
    | with_reducible assumption
    | intro _ _ _
    | intro _ _
    | split

theorem castonMedia_frame {k : Parts} {s t : State} {a0 : CastonStage}
    (h : Frame k s t) (hk : sub partsYarnHeadLost k = true) :
    Frame k s (castonMedia a0 t) := by
  refine Frame.step h (l := partsYarnHeadLost) ?_ hk
  clear h hk
  unfold castonMedia
  repeat' first
    | (extract_lets +onlyGivenNames -merge -underBinder x; first | (with_reducible refine Frame.cutTo (t := x) ?_ ?_; rotate_left; (try clear_value x); rename _ => y; intro hx; rotate_left; clear_value (hh : x = _); subst hh) | (have hq : Flt := x; clear hq; rename _ => y) | (have hq : Sys := x; clear hq; rename _ => y) | (clear_value x; rename _ => y) | (have hq := x; clear hq; rename _ => y))
    | with_reducible refine placeTables_frame ?_ (by with_unfolding_all rfl)
    | with_reducible refine loadHeads_frame ?_ (by with_unfolding_all rfl)
    | with_reducible refine tablesRead_frame ?_ (by with_unfolding_all rfl)
    | with_reducible refine srvSwap_frame ?_ (by with_unfolding_all rfl)
    | with_reducible refine unread_frame ?_ (by with_unfolding_all rfl)
    | with_reducible refine journalStages_frame ?_ (by with_unfolding_all rfl)
    | with_reducible apply Frame.foldl
    | with_reducible apply Frame.ite
    | with_reducible exact Frame.ofMk (by first | exact Frame.refl | assumption) frMine frMine frSame frSame frMine frMine frMine frSame frMine frMine frMine frMine frMine frMine frMine frMine frMine frMine frMine frMine rfl rfl rfl (by first | exact .inr .refl | exact .inr ⟨rfl, rfl, rfl, rfl, id⟩ | exact .inr ⟨rfl, rfl, rfl, rfl, fun _ => rfl⟩ | exact .inr (.ite ⟨rfl, rfl, rfl, rfl, id⟩ ⟨rfl, rfl, rfl, rfl, id⟩)) (by first | exact .inr .refl | exact .inr ⟨rfl, rfl, rfl, rfl⟩ | exact .inr (addFaultRecord_binds _ _) | with_unfolding_all exact .inr ⟨rfl, rfl, rfl, rfl⟩)
    | with_reducible apply Frame.refl
    | with_reducible assumption
    | intro _ _ _
    | intro _ _
    | split

theorem execCastonMedia_frame {s t : State} {a0 : CastonStage} (e : execCastonMedia a0 s = .next t) :
    Frame partsYarnHeadLost s t := by
  unfold execCastonMedia at e
  refine Frame.act ?_ e
  clear e
  try dsimp -zeta only
  repeat' first
    | with_reducible refine guardAll_frame ?_ (by with_unfolding_all rfl)
    | with_reducible refine castonMedia_frame ?_ (by with_unfolding_all rfl)
    | with_reducible apply Frame.refl
    | with_reducible assumption

theorem reachOp_frame {k : Parts} {s t : State} 
    (h : Frame k s t) (hk : sub partsNextPs k = true) :
    Frame k s (reachOp t) := by
  refine Frame.step h (l := partsNextPs) ?_ hk
  clear h hk
  unfold reachOp
  repeat' first
    | with_reducible refine reachPs_frame ?_ (by with_unfolding_all rfl)
    | with_reducible refine enterPs_frame ?_ (by with_unfolding_all rfl)
    | with_reducible apply Frame.ite
    | with_reducible exact Frame.ofMk (by first | exact Frame.refl | assumption) frMine frMine frMine frSame frMine frMine frMine frSame frMine frMine frMine frSame frMine frMine frMine frMine frMine frMine frMine frMine rfl rfl rfl (by first | exact .inr .refl | exact .inr ⟨rfl, rfl, rfl, rfl, id⟩ | exact .inr ⟨rfl, rfl, rfl, rfl, fun _ => rfl⟩ | exact .inr (.ite ⟨rfl, rfl, rfl, rfl, id⟩ ⟨rfl, rfl, rfl, rfl, id⟩)) (by first | exact .inr .refl | exact .inr ⟨rfl, rfl, rfl, rfl⟩ | exact .inr (addFaultRecord_binds _ _) | with_unfolding_all exact .inr ⟨rfl, rfl, rfl, rfl⟩)
    | with_reducible apply Frame.refl
    | with_reducible assumption
    | split

theorem becomeReady_frame {k : Parts} {s t : State} 
    (h : Frame k s t) (hk : sub partsStartIo k = true) :
    Frame k s (becomeReady t) := by
  refine Frame.step h (l := partsStartIo) ?_ hk
  clear h hk
  unfold becomeReady
  repeat' first
    | (extract_lets +onlyGivenNames -merge -underBinder x; first | (with_reducible refine Frame.cutTo (t := x) ?_ ?_; rotate_left; (try clear_value x); rename _ => y; intro hx; rotate_left; clear_value (hh : x = _); subst hh) | (have hq : Flt := x; clear hq; rename _ => y) | (have hq : Sys := x; clear hq; rename _ => y) | (clear_value x; rename _ => y) | (have hq := x; clear hq; rename _ => y))
    | with_reducible refine event_frame ?_ (by with_unfolding_all rfl)
    | with_reducible refine reachOp_frame ?_ (by with_unfolding_all rfl)
    | with_reducible refine kick_frame ?_ (by with_unfolding_all rfl)
    | with_reducible apply Frame.ite
    | with_reducible exact Frame.ofMk (by first | exact Frame.refl | assumption) frMine frMine frMine frSame frMine frMine frMine frSame frMine frMine frMine frMine frMine frMine frMine frMine frMine frMine frMine frMine rfl rfl rfl (by first | exact .inr .refl | exact .inr ⟨rfl, rfl, rfl, rfl, id⟩ | exact .inr ⟨rfl, rfl, rfl, rfl, fun _ => rfl⟩ | exact .inr (.ite ⟨rfl, rfl, rfl, rfl, id⟩ ⟨rfl, rfl, rfl, rfl, id⟩)) (by first | exact .inr .refl | exact .inr ⟨rfl, rfl, rfl, rfl⟩ | exact .inr (addFaultRecord_binds _ _) | with_unfolding_all exact .inr ⟨rfl, rfl, rfl, rfl⟩)
    | with_reducible apply Frame.refl
    | with_reducible assumption
    | split

theorem execReady_frame {s t : State}  (e : execReady s = .next t) :
    Frame partsStartIo s t := by
  unfold execReady at e
  refine Frame.act ?_ e
  clear e
  try dsimp -zeta only
  repeat' first
    | with_reducible refine becomeReady_frame ?_ (by with_unfolding_all rfl)
    | with_reducible apply Frame.refl
    | with_reducible assumption

theorem shutdownDone_frame {k : Parts} {s t : State} 
    (h : Frame k s t) (hk : sub partsAbandonCommands k = true) :
    Frame k s (shutdownDone t) := by
  refine Frame.step h (l := partsAbandonCommands) ?_ hk
  clear h hk
  unfold shutdownDone
  repeat' first
    | (extract_lets +onlyGivenNames -merge -underBinder x; first | (with_reducible refine Frame.cutTo (t := x) ?_ ?_; rotate_left; (try clear_value x); rename _ => y; intro hx; rotate_left; clear_value (hh : x = _); subst hh) | (clear_value x; rename _ => y) | (have hq := x; clear hq; rename _ => y))
    | with_reducible refine depart_frame ?_ (by with_unfolding_all rfl)
    | with_reducible refine setCtl_frame ?_ (by with_unfolding_all rfl)
    | with_reducible apply Frame.foldl
    | with_reducible apply Frame.ite
    | with_reducible exact Frame.ofMk (by first | exact Frame.refl | assumption) frSame frSame frSame frSame frSame frSame frSame frSame frSame frSame frSame frSame frSame frSame frSame frMine frSame frMine frMine frMine rfl rfl rfl (.inr .refl) (.inr .refl)
    | with_reducible apply Frame.refl
    | with_reducible assumption
    | intro _ _ _
    | intro _ _
    | split

theorem bindoffCheckpoint_frame {k : Parts} {s t : State} 
    (h : Frame k s t) (hk : sub partsEngineFaultW k = true) :
    Frame k s (bindoffCheckpoint t) := by
  refine Frame.step h (l := partsEngineFaultW) ?_ hk
  clear h hk
  unfold bindoffCheckpoint
  repeat' first
    | (extract_lets +onlyGivenNames -merge -underBinder x; first | (with_reducible refine Frame.cutTo (t := x) ?_ ?_; rotate_left; (try clear_value x); rename _ => y; intro hx; rotate_left; clear_value (hh : x = _); subst hh) | (have hq : Flt := x; clear hq; rename _ => y) | (have hq : Sys := x; clear hq; rename _ => y) | (clear_value x; rename _ => y) | (have hq := x; clear hq; rename _ => y))
    | with_reducible refine jAppend_frame ?_ (by with_unfolding_all rfl)
    | with_reducible refine historyNote_frame ?_ (by with_unfolding_all rfl)
    | with_reducible refine checkpoint_frame ?_ (by with_unfolding_all rfl)
    | with_reducible apply Frame.foldl
    | with_reducible apply Frame.refl
    | with_reducible assumption
    | intro _ _ _
    | intro _ _

theorem parkDone_frame {k : Parts} {s t : State} {a0 : BindTrigger}
    (h : Frame k s t) (hk : sub partsNextPs k = true) :
    Frame k s (parkDone a0 t) := by
  refine Frame.step h (l := partsNextPs) ?_ hk
  clear h hk
  unfold parkDone
  repeat' first
    | (extract_lets +onlyGivenNames -merge -underBinder x; first | (with_reducible refine Frame.cutTo (t := x) ?_ ?_; rotate_left; (try clear_value x); rename _ => y; intro hx; rotate_left; clear_value (hh : x = _); subst hh) | (have hq : Flt := x; clear hq; rename _ => y) | (have hq : Sys := x; clear hq; rename _ => y) | (clear_value x; rename _ => y) | (have hq := x; clear hq; rename _ => y))
    | with_reducible refine unloadFall_frame ?_ (by with_unfolding_all rfl)
    | with_reducible refine reachPs_frame ?_ (by with_unfolding_all rfl)
    | with_reducible refine spnStopCmd_frame ?_ (by with_unfolding_all rfl)
    | with_reducible refine shutdownDone_frame ?_ (by with_unfolding_all rfl)
    | with_reducible refine endPs_frame ?_ (by with_unfolding_all rfl)
    | with_reducible apply Frame.ite
    | with_reducible exact Frame.ofMk (by first | exact Frame.refl | assumption) frMine frMine frMine frSame frMine frMine frMine frSame frMine frMine frMine frSame frMine frMine frMine frMine frMine frMine frMine frMine rfl rfl rfl (by first | exact .inr .refl | exact .inr ⟨rfl, rfl, rfl, rfl, id⟩ | exact .inr ⟨rfl, rfl, rfl, rfl, fun _ => rfl⟩ | exact .inr (.ite ⟨rfl, rfl, rfl, rfl, id⟩ ⟨rfl, rfl, rfl, rfl, id⟩)) (by first | exact .inr .refl | exact .inr ⟨rfl, rfl, rfl, rfl⟩ | exact .inr (addFaultRecord_binds _ _) | with_unfolding_all exact .inr ⟨rfl, rfl, rfl, rfl⟩)
    | with_reducible apply Frame.refl
    | with_reducible assumption
    | split

theorem logToZones_frame {k : Parts} {s t : State} 
    (h : Frame k s t) (hk : sub { arr := true } k = true) :
    Frame k s (logToZones t) := by
  refine Frame.step h (l := { arr := true }) ?_ hk
  clear h hk
  unfold logToZones
  repeat' first
    | (extract_lets +onlyGivenNames -merge -underBinder x; first | (with_reducible refine Frame.cutTo (t := x) ?_ ?_; rotate_left; (try clear_value x); rename _ => y; intro hx; rotate_left; clear_value (hh : x = _); subst hh) | (have hq : ∀ a, Frame {} t (x a) → True := fun _ _ => trivial; clear hq; rename _ => y) | (have hq : ∀ a b, Frame {} t (x a b) → True := fun _ _ _ => trivial; clear hq; rename _ => y) | (clear_value x; rename _ => y) | (have hq := x; clear hq; rename _ => y))
    | with_reducible refine Frame.getDMap ?_ (fun _ => ?_)
    | with_reducible apply Frame.getD
    | with_reducible apply Frame.ite
    | with_reducible exact Frame.ofMk (by first | exact Frame.refl | assumption) frSame frSame frSame frSame frSame frSame frSame frSame frSame frSame frSame frSame frSame frSame frSame frSame frSame frMine frSame frSame rfl rfl rfl (.inr .refl) (.inr .refl)
    | with_reducible apply Frame.refl
    | with_reducible assumption
    | intro _ _ _
    | intro _ _
    | split

theorem bindStep_frame {k : Parts} {s t : State} {a0 : BindTrigger} {a1 : Nat}
    (h : Frame k s t) (hk : sub { sys := true } k = true) :
    Frame k s (bindStep a0 a1 t) := by
  refine Frame.step h (l := { sys := true }) ?_ hk
  clear h hk
  unfold bindStep
  repeat' first
    | (extract_lets +onlyGivenNames -merge -underBinder x; first | (with_reducible refine Frame.cutTo (t := x) ?_ ?_; rotate_left; (try clear_value x); rename _ => y; intro hx; rotate_left; clear_value (hh : x = _); subst hh) | (have hq : Sys := x; clear hq; rename _ => y) | (clear_value x; rename _ => y) | (have hq := x; clear hq; rename _ => y))
    | with_reducible exact Frame.ofMk (by first | exact Frame.refl | assumption) frMine frSame frSame frSame frSame frSame frSame frSame frSame frSame frSame frSame frSame frSame frSame frSame frSame frSame frSame frSame rfl rfl rfl (by first | exact .inr .refl | exact .inr ⟨rfl, rfl, rfl, rfl, id⟩ | exact .inr ⟨rfl, rfl, rfl, rfl, fun _ => rfl⟩ | exact .inr (.ite ⟨rfl, rfl, rfl, rfl, id⟩ ⟨rfl, rfl, rfl, rfl, id⟩)) (.inr .refl)
    | with_reducible apply Frame.refl
    | with_reducible assumption

theorem bindOff_frame {k : Parts} {s t : State} 
    (h : Frame k s t) (hk : sub partsStartIo k = true) :
    Frame k s (bindOff t) := by
  refine Frame.step h (l := partsStartIo) ?_ hk
  clear h hk
  unfold bindOff
  repeat' first
    | (extract_lets +onlyGivenNames -merge -underBinder x; first | (with_reducible refine Frame.cutTo (t := x) ?_ ?_; rotate_left; (try clear_value x); rename _ => y; intro hx; rotate_left; clear_value (hh : x = _); subst hh) | (have hq : Flt := x; clear hq; rename _ => y) | (have hq : Sys := x; clear hq; rename _ => y) | (clear_value x; rename _ => y) | (have hq := x; clear hq; rename _ => y))
    | with_reducible refine bindStep_frame ?_ (by with_unfolding_all rfl)
    | with_reducible refine kick_frame ?_ (by with_unfolding_all rfl)
    | with_reducible refine logToZones_frame ?_ (by with_unfolding_all rfl)
    | with_reducible refine makeDurable_frame ?_ (by with_unfolding_all rfl)
    | with_reducible refine stcPersist_frame ?_ (by with_unfolding_all rfl)
    | with_reducible refine gaugeHourly_frame ?_ (by with_unfolding_all rfl)
    | with_reducible refine bindoffCheckpoint_frame ?_ (by with_unfolding_all rfl)
    | with_reducible refine shutdownDone_frame ?_ (by with_unfolding_all rfl)
    | with_reducible refine endPs_frame ?_ (by with_unfolding_all rfl)
    | with_reducible refine parkDone_frame ?_ (by with_unfolding_all rfl)
    | with_reducible refine controlledUnload_frame ?_ (by with_unfolding_all rfl)
    | with_reducible apply Frame.foldl
    | with_reducible apply Frame.ite
    | with_reducible exact Frame.ofMk (by first | exact Frame.refl | assumption) frMine frMine frMine frSame frMine frMine frMine frSame frMine frMine frMine frMine frMine frMine frMine frMine frMine frMine frMine frMine rfl rfl rfl (by first | exact .inr .refl | exact .inr ⟨rfl, rfl, rfl, rfl, id⟩ | exact .inr ⟨rfl, rfl, rfl, rfl, fun _ => rfl⟩ | exact .inr (.ite ⟨rfl, rfl, rfl, rfl, id⟩ ⟨rfl, rfl, rfl, rfl, id⟩)) (by first | exact .inr .refl | exact .inr ⟨rfl, rfl, rfl, rfl⟩ | exact .inr (addFaultRecord_binds _ _) | with_unfolding_all exact .inr ⟨rfl, rfl, rfl, rfl⟩)
    | with_reducible apply Frame.refl
    | with_reducible assumption
    | intro _ _ _
    | intro _ _
    | split

theorem execBindOff_frame {s t : State}  (e : execBindOff s = .next t) :
    Frame partsStartIo s t := by
  unfold execBindOff actWindow at e
  refine Frame.act ?_ e
  clear e
  try dsimp -zeta only
  repeat' first
    | with_reducible refine guardAll_frame ?_ (by with_unfolding_all rfl)
    | with_reducible refine bindOff_frame ?_ (by with_unfolding_all rfl)
    | with_reducible refine windowNote_frame ?_ (by with_unfolding_all rfl)
    | with_reducible apply Frame.refl
    | with_reducible assumption

theorem shutdownNow_frame {k : Parts} {s t : State} {a0 : CtlIx} {a1 : Phase}
    (h : Frame k s t) (hk : sub { sys := true, flt := true, spn := true, srv := true, port := true, yck := true, lane := true, ddp := true, dma := true, hqm := true, cap := true, stc := true, spe := true, arr := true, hif := true, host := true, mem := true } k = true) :
    Frame k s (shutdownNow a0 a1 t) := by
  refine Frame.step h (l := { sys := true, flt := true, spn := true, srv := true, port := true, yck := true, lane := true, ddp := true, dma := true, hqm := true, cap := true, stc := true, spe := true, arr := true, hif := true, host := true, mem := true }) ?_ hk
  clear h hk
  unfold shutdownNow
  repeat' first
    | (extract_lets +onlyGivenNames -merge -underBinder x; first | (with_reducible refine Frame.cutTo (t := x) ?_ ?_; rotate_left; (try clear_value x); rename _ => y; intro hx; rotate_left; clear_value (hh : x = _); subst hh) | (have hq : Flt := x; clear hq; rename _ => y) | (have hq : Sys := x; clear hq; rename _ => y) | (clear_value x; rename _ => y) | (have hq := x; clear hq; rename _ => y))
    | with_reducible refine setCtl_frame ?_ (by with_unfolding_all rfl)
    | with_reducible refine spnStopCmd_frame ?_ (by with_unfolding_all rfl)
    | with_reducible refine shutdownDone_frame ?_ (by with_unfolding_all rfl)
    | with_reducible exact Frame.ofMk (by first | exact Frame.refl | assumption) frMine frMine frSame frSame frMine frMine frMine frSame frMine frMine frMine frSame frMine frMine frMine frMine frMine frMine frMine frMine rfl rfl rfl (by first | exact .inr .refl | exact .inr ⟨rfl, rfl, rfl, rfl, id⟩ | exact .inr ⟨rfl, rfl, rfl, rfl, fun _ => rfl⟩ | exact .inr (.ite ⟨rfl, rfl, rfl, rfl, id⟩ ⟨rfl, rfl, rfl, rfl, id⟩)) (by first | exact .inr .refl | exact .inr ⟨rfl, rfl, rfl, rfl⟩ | exact .inr (addFaultRecord_binds _ _) | with_unfolding_all exact .inr ⟨rfl, rfl, rfl, rfl⟩)
    | with_reducible apply Frame.refl
    | with_reducible assumption

theorem shutdownNotify_frame {k : Parts} {s t : State} {a0 : CtlIx} {a1 : Bool}
    (h : Frame k s t) (hk : sub partsNextPs k = true) :
    Frame k s (shutdownNotify a0 a1 t) := by
  refine Frame.step h (l := partsNextPs) ?_ hk
  clear h hk
  unfold shutdownNotify
  repeat' first
    | (extract_lets +onlyGivenNames -merge -underBinder x; first | (with_reducible refine Frame.cutTo (t := x) ?_ ?_; rotate_left; (try clear_value x); rename _ => y; intro hx; rotate_left; clear_value (hh : x = _); subst hh) | (have hq : ∀ a, Frame {} t (x a) → True := fun _ _ => trivial; clear hq; rename _ => y) | (have hq : ∀ a b, Frame {} t (x a b) → True := fun _ _ _ => trivial; clear hq; rename _ => y) | (have hq : Flt := x; clear hq; rename _ => y) | (have hq : Sys := x; clear hq; rename _ => y) | (clear_value x; rename _ => y) | (have hq := x; clear hq; rename _ => y))
    | with_reducible refine setCtl_frame ?_ (by with_unfolding_all rfl)
    | with_reducible refine abandonCommands_frame ?_ (by with_unfolding_all rfl)
    | with_reducible refine shutdownNow_frame ?_ (by with_unfolding_all rfl)
    | with_reducible refine enterPs_frame ?_ (by with_unfolding_all rfl)
    | with_reducible apply Frame.ite
    | with_reducible exact Frame.ofMk (by first | exact Frame.refl | assumption) frMine frMine frMine frSame frMine frMine frMine frSame frMine frMine frMine frSame frMine frMine frMine frMine frMine frMine frMine frMine rfl rfl rfl (by first | exact .inr .refl | exact .inr ⟨rfl, rfl, rfl, rfl, id⟩ | exact .inr ⟨rfl, rfl, rfl, rfl, fun _ => rfl⟩ | exact .inr (.ite ⟨rfl, rfl, rfl, rfl, id⟩ ⟨rfl, rfl, rfl, rfl, id⟩)) (by first | exact .inr .refl | exact .inr ⟨rfl, rfl, rfl, rfl⟩ | exact .inr (addFaultRecord_binds _ _) | with_unfolding_all exact .inr ⟨rfl, rfl, rfl, rfl⟩)
    | with_reducible apply Frame.refl
    | with_reducible assumption
    | split

theorem execShutdownNotify_frame {s t : State} {a0 : CtlIx} {a1 : Bool} (e : execShutdownNotify a0 a1 s = .next t) :
    Frame partsNextPs s t := by
  unfold execShutdownNotify at e
  refine Frame.act ?_ e
  clear e
  try dsimp -zeta only
  repeat' first
    | with_reducible refine onPort_frame ?_ ?_ (by with_unfolding_all rfl)
    | with_reducible refine guardAll_frame ?_ (by with_unfolding_all rfl)
    | with_reducible refine shutdownNotify_frame ?_ (by with_unfolding_all rfl)
    | with_reducible apply Frame.refl
    | with_reducible assumption
    | intro _ _ _
    | intro _ _

theorem ps4Wake_frame {k : Parts} {s t : State} 
    (h : Frame k s t) (hk : sub partsNextPs k = true) :
    Frame k s (ps4Wake t) := by
  refine Frame.step h (l := partsNextPs) ?_ hk
  clear h hk
  unfold ps4Wake
  repeat' first
    | (extract_lets +onlyGivenNames -merge -underBinder x; first | (with_reducible refine Frame.cutTo (t := x) ?_ ?_; rotate_left; (try clear_value x); rename _ => y; intro hx; rotate_left; clear_value (hh : x = _); subst hh) | (have hq : Flt := x; clear hq; rename _ => y) | (have hq : Sys := x; clear hq; rename _ => y) | (clear_value x; rename _ => y) | (have hq := x; clear hq; rename _ => y))
    | with_reducible refine supplyFor_frame ?_ (by with_unfolding_all rfl)
    | with_reducible refine startSpindle_frame ?_ (by with_unfolding_all rfl)
    | with_reducible refine reachPs_frame ?_ (by with_unfolding_all rfl)
    | with_reducible refine loadHeads_frame ?_ (by with_unfolding_all rfl)
    | with_reducible apply Frame.ite
    | with_reducible exact Frame.ofMk (by first | exact Frame.refl | assumption) frMine frMine frMine frSame frMine frMine frMine frSame frMine frMine frMine frSame frMine frMine frMine frMine frMine frMine frMine frMine rfl rfl rfl (by first | exact .inr .refl | exact .inr ⟨rfl, rfl, rfl, rfl, id⟩ | exact .inr ⟨rfl, rfl, rfl, rfl, fun _ => rfl⟩ | exact .inr (.ite ⟨rfl, rfl, rfl, rfl, id⟩ ⟨rfl, rfl, rfl, rfl, id⟩)) (by first | exact .inr .refl | exact .inr ⟨rfl, rfl, rfl, rfl⟩ | exact .inr (addFaultRecord_binds _ _) | with_unfolding_all exact .inr ⟨rfl, rfl, rfl, rfl⟩)
    | with_reducible apply Frame.refl
    | with_reducible assumption
    | split

theorem execPs4Wake_frame {s t : State}  (e : execPs4Wake s = .next t) :
    Frame partsNextPs s t := by
  unfold execPs4Wake at e
  refine Frame.act ?_ e
  clear e
  try dsimp -zeta only
  repeat' first
    | with_reducible refine guardAll_frame ?_ (by with_unfolding_all rfl)
    | with_reducible refine ps4Wake_frame ?_ (by with_unfolding_all rfl)
    | with_reducible apply Frame.refl
    | with_reducible assumption

theorem ps3Wake_frame {k : Parts} {s t : State} 
    (h : Frame k s t) (hk : sub partsPwrEvent k = true) :
    Frame k s (ps3Wake t) := by
  refine Frame.step h (l := partsPwrEvent) ?_ hk
  clear h hk
  unfold ps3Wake
  repeat' first
    | (extract_lets +onlyGivenNames -merge -underBinder x; first | (with_reducible refine Frame.cutTo (t := x) ?_ ?_; rotate_left; (try clear_value x); rename _ => y; intro hx; rotate_left; clear_value (hh : x = _); subst hh) | (have hq : Flt := x; clear hq; rename _ => y) | (have hq : Sys := x; clear hq; rename _ => y) | (clear_value x; rename _ => y) | (have hq := x; clear hq; rename _ => y))
    | with_reducible refine loadHeads_frame ?_ (by with_unfolding_all rfl)
    | with_reducible refine supplyFor_frame ?_ (by with_unfolding_all rfl)
    | with_reducible apply Frame.ite
    | with_reducible exact Frame.ofMk (by first | exact Frame.refl | assumption) frMine frMine frMine frSame frMine frMine frMine frSame frMine frMine frMine frSame frMine frMine frMine frMine frMine frMine frMine frSame rfl rfl rfl (by first | exact .inr .refl | exact .inr ⟨rfl, rfl, rfl, rfl, id⟩ | exact .inr ⟨rfl, rfl, rfl, rfl, fun _ => rfl⟩ | exact .inr (.ite ⟨rfl, rfl, rfl, rfl, id⟩ ⟨rfl, rfl, rfl, rfl, id⟩)) (by first | exact .inr .refl | exact .inr ⟨rfl, rfl, rfl, rfl⟩ | exact .inr (addFaultRecord_binds _ _) | with_unfolding_all exact .inr ⟨rfl, rfl, rfl, rfl⟩)
    | with_reducible apply Frame.refl
    | with_reducible assumption
    | split

theorem execPs3Wake_frame {s t : State}  (e : execPs3Wake s = .next t) :
    Frame partsPwrEvent s t := by
  unfold execPs3Wake at e
  refine Frame.act ?_ e
  clear e
  try dsimp -zeta only
  repeat' first
    | with_reducible refine guardAll_frame ?_ (by with_unfolding_all rfl)
    | with_reducible refine ps3Wake_frame ?_ (by with_unfolding_all rfl)
    | with_reducible apply Frame.refl
    | with_reducible assumption

end Sys2Proof.Laws
end

