-- ==== Sys2Proof/Laws/Frames/Dma.lean ====
section
/-!
SUPPORT. The frames of the operations of Machine/Dma.lean: the parts each may change.
-/
namespace Sys2Proof.Laws
open Sys2Proof Sys2Proof.Machine

set_option linter.all false
set_option Elab.async false

/-- What an access of a burst to a register block may change. -/
structure BusFrame (b : RegBus) : Prop where
  put : ∀ {a w v}, Frame busParts v (b.put a w v)
  get : ∀ {a v}, Frame busParts v (b.get a v).2
  bad : ∀ {v}, Frame busParts v (b.bad v)

theorem BusFrame.pair {b : RegBus} (h : BusFrame b) {a : Nat} {v u : State} {w : Word} (e : b.get a v = (w, u)) : Frame busParts v u := by
  have f := h.get (a := a) (v := v)
  rw [e] at f; exact f

theorem dmaCfgErr_frame {k : Parts} {s t : State} 
    (h : Frame k s t) (hk : sub partsEngineFaultW k = true) :
    Frame k s (dmaCfgErr t) := by
  refine Frame.step h (l := partsEngineFaultW) ?_ hk
  clear h hk
  unfold dmaCfgErr
  repeat' first
    | with_reducible refine dmaEvent_frame ?_ (by with_unfolding_all rfl)
    | with_reducible apply Frame.refl
    | with_reducible assumption

theorem chanStop_frame {k : Parts} {s t : State} {a0 : ChanIx} {a1 : Nat}
    (h : Frame k s t) (hk : sub partsEngineFaultW k = true) :
    Frame k s (chanStop a0 a1 t) := by
  refine Frame.step h (l := partsEngineFaultW) ?_ hk
  clear h hk
  unfold chanStop
  repeat' first
    | with_reducible refine chanStopW_frame (hrz := by first | assumption | exact fun j v => raise_frame Frame.refl rfl) ?_ (by with_unfolding_all rfl)
    | with_reducible refine raise_frame ?_ (by with_unfolding_all rfl)
    | with_reducible apply Frame.refl
    | with_reducible assumption
    | intro _ _ _
    | intro _ _

theorem chanLoad_frame {k : Parts} {s t : State} {a0 : ChanIx} {a1 : Nat}
    (h : Frame k s t) (hk : sub partsEngineFaultW k = true) :
    Frame k s (chanLoad a0 a1 t) := by
  refine Frame.step h (l := partsEngineFaultW) ?_ hk
  clear h hk
  unfold chanLoad
  repeat' first
    | (extract_lets +onlyGivenNames -merge -underBinder x; first | (with_reducible refine Frame.cutTo (t := x) ?_ ?_; rotate_left; (try clear_value x); rename _ => y; intro hx; rotate_left; clear_value (hh : x = _); subst hh) | (have hq : Flt := x; clear hq; rename _ => y) | (have hq : Sys := x; clear hq; rename _ => y) | (clear_value x; rename _ => y) | (have hq := x; clear hq; rename _ => y))
    | with_reducible refine setChan_frame ?_ (by with_unfolding_all rfl)
    | with_reducible refine raise_frame ?_ (by with_unfolding_all rfl)
    | with_reducible refine dmaEvent_frame ?_ (by with_unfolding_all rfl)
    | with_reducible refine chanStop_frame ?_ (by with_unfolding_all rfl)
    | with_reducible apply Frame.ite
    | with_reducible exact Frame.ofMk (by first | exact Frame.refl | assumption) frMine frMine frSame frSame frMine frMine frMine frSame frMine frMine frMine frSame frMine frMine frMine frMine frMine frMine frMine frSame rfl rfl rfl (by first | exact .inr .refl | exact .inr ⟨rfl, rfl, rfl, rfl, id⟩ | exact .inr ⟨rfl, rfl, rfl, rfl, fun _ => rfl⟩ | exact .inr (.ite ⟨rfl, rfl, rfl, rfl, id⟩ ⟨rfl, rfl, rfl, rfl, id⟩)) (by first | exact .inr .refl | exact .inr ⟨rfl, rfl, rfl, rfl⟩ | exact .inr (addFaultRecord_binds _ _) | with_unfolding_all exact .inr ⟨rfl, rfl, rfl, rfl⟩)
    | with_reducible apply Frame.refl
    | with_reducible assumption
    | split

theorem chanTake_frame {k : Parts} {s t : State} {a0 : ChanIx} {a1 : Nat}
    (h : Frame k s t) (hk : sub partsEngineFaultW k = true) :
    Frame k s (chanTake a0 a1 t) := by
  refine Frame.step h (l := partsEngineFaultW) ?_ hk
  clear h hk
  unfold chanTake
  repeat' first
    | (extract_lets +onlyGivenNames -merge -underBinder x; first | (with_reducible refine Frame.cutTo (t := x) ?_ ?_; rotate_left; (try clear_value x); rename _ => y; intro hx; rotate_left; clear_value (hh : x = _); subst hh) | (have hq : Flt := x; clear hq; rename _ => y) | (have hq : Sys := x; clear hq; rename _ => y) | (clear_value x; rename _ => y) | (have hq := x; clear hq; rename _ => y))
    | with_reducible refine chanLoad_frame ?_ (by with_unfolding_all rfl)
    | with_reducible refine setChan_frame ?_ (by with_unfolding_all rfl)
    | with_reducible exact Frame.ofMk (by first | exact Frame.refl | assumption) frMine frMine frSame frSame frMine frMine frMine frSame frMine frMine frMine frSame frMine frMine frMine frMine frMine frMine frMine frSame rfl rfl rfl (by first | exact .inr .refl | exact .inr ⟨rfl, rfl, rfl, rfl, id⟩ | exact .inr ⟨rfl, rfl, rfl, rfl, fun _ => rfl⟩ | exact .inr (.ite ⟨rfl, rfl, rfl, rfl, id⟩ ⟨rfl, rfl, rfl, rfl, id⟩)) (by first | exact .inr .refl | exact .inr ⟨rfl, rfl, rfl, rfl⟩ | exact .inr (addFaultRecord_binds _ _) | with_unfolding_all exact .inr ⟨rfl, rfl, rfl, rfl⟩)
    | with_reducible apply Frame.refl
    | with_reducible assumption

theorem dmaStart_frame {k : Parts} {s t : State} {a0 : ChanIx}
    (h : Frame k s t) (hk : sub partsEngineFaultW k = true) :
    Frame k s (dmaStart a0 t) := by
  refine Frame.step h (l := partsEngineFaultW) ?_ hk
  clear h hk
  unfold dmaStart
  repeat' first
    | with_reducible refine dmaCfgErr_frame ?_ (by with_unfolding_all rfl)
    | with_reducible refine chanTake_frame ?_ (by with_unfolding_all rfl)
    | with_reducible apply Frame.ite
    | with_reducible apply Frame.refl
    | with_reducible assumption
    | split

theorem dmaAbort_frame {k : Parts} {s t : State} {a0 : ChanIx}
    (h : Frame k s t) (hk : sub partsEngineFaultW k = true) :
    Frame k s (dmaAbort a0 t) := by
  refine Frame.step h (l := partsEngineFaultW) ?_ hk
  clear h hk
  unfold dmaAbort
  repeat' first
    | with_reducible refine chanAbortW_frame (hrz := by first | assumption | exact fun j v => raise_frame Frame.refl rfl) ?_ (by with_unfolding_all rfl)
    | with_reducible refine raise_frame ?_ (by with_unfolding_all rfl)
    | with_reducible apply Frame.refl
    | with_reducible assumption
    | intro _ _ _
    | intro _ _

theorem dmaResume_frame {k : Parts} {s t : State} {a0 : ChanIx}
    (h : Frame k s t) (hk : sub partsEngineFaultW k = true) :
    Frame k s (dmaResume a0 t) := by
  refine Frame.step h (l := partsEngineFaultW) ?_ hk
  clear h hk
  unfold dmaResume
  repeat' first
    | (extract_lets +onlyGivenNames -merge -underBinder x; first | (with_reducible refine Frame.cutTo (t := x) ?_ ?_; rotate_left; (try clear_value x); rename _ => y; intro hx; rotate_left; clear_value (hh : x = _); subst hh) | (have hq : Flt := x; clear hq; rename _ => y) | (have hq : Sys := x; clear hq; rename _ => y) | (clear_value x; rename _ => y) | (have hq := x; clear hq; rename _ => y))
    | with_reducible refine dmaCfgErr_frame ?_ (by with_unfolding_all rfl)
    | with_reducible refine chanLoad_frame ?_ (by with_unfolding_all rfl)
    | with_reducible apply Frame.ite
    | with_reducible apply Frame.refl
    | with_reducible assumption
    | split

theorem chanCtlWrite_frame {k : Parts} {s t : State} {a0 : ChanIx} {a1 : Word}
    (h : Frame k s t) (hk : sub partsEngineFaultW k = true) :
    Frame k s (chanCtlWrite a0 a1 t) := by
  refine Frame.step h (l := partsEngineFaultW) ?_ hk
  clear h hk
  unfold chanCtlWrite
  repeat' first
    | (extract_lets +onlyGivenNames -merge -underBinder x; first | (with_reducible refine Frame.cutTo (t := x) ?_ ?_; rotate_left; (try clear_value x); rename _ => y; intro hx; rotate_left; clear_value (hh : x = _); subst hh) | (have hq : Flt := x; clear hq; rename _ => y) | (have hq : Sys := x; clear hq; rename _ => y) | (clear_value x; rename _ => y) | (have hq := x; clear hq; rename _ => y))
    | with_reducible refine dmaAbort_frame ?_ (by with_unfolding_all rfl)
    | with_reducible refine dmaResume_frame ?_ (by with_unfolding_all rfl)
    | with_reducible refine dmaStart_frame ?_ (by with_unfolding_all rfl)
    | with_reducible apply Frame.ite
    | with_reducible apply Frame.refl
    | with_reducible assumption
    | split

theorem execDmaStart_frame {s t : State} {a0 : ChanIx} (e : execDmaStart a0 s = .next t) :
    Frame partsEngineFaultW s t := by
  unfold execDmaStart at e
  refine Frame.act ?_ e
  clear e
  try dsimp -zeta only
  repeat' first
    | with_reducible refine dmaStart_frame ?_ (by with_unfolding_all rfl)
    | with_reducible apply Frame.refl
    | with_reducible assumption

theorem execDmaAbort_frame {s t : State} {a0 : ChanIx} (e : execDmaAbort a0 s = .next t) :
    Frame partsEngineFaultW s t := by
  unfold execDmaAbort at e
  refine Frame.act ?_ e
  clear e
  try dsimp -zeta only
  repeat' first
    | with_reducible refine dmaAbort_frame ?_ (by with_unfolding_all rfl)
    | with_reducible apply Frame.refl
    | with_reducible assumption

theorem execDmaResume_frame {s t : State} {a0 : ChanIx} (e : execDmaResume a0 s = .next t) :
    Frame partsEngineFaultW s t := by
  unfold execDmaResume at e
  refine Frame.act ?_ e
  clear e
  try dsimp -zeta only
  repeat' first
    | with_reducible refine dmaResume_frame ?_ (by with_unfolding_all rfl)
    | with_reducible apply Frame.refl
    | with_reducible assumption

theorem linkRead_frame {k : Parts} {s t : State} {a0 : ChanIx} {a1 : Bool}
    (h : Frame k s t) (hk : sub partsEngineFaultW k = true) :
    Frame k s (linkRead a0 a1 t) := by
  refine Frame.step h (l := partsEngineFaultW) ?_ hk
  clear h hk
  unfold linkRead
  repeat' first
    | (extract_lets +onlyGivenNames -merge -underBinder x; first | (with_reducible refine Frame.cutTo (t := x) ?_ ?_; rotate_left; (try clear_value x); rename _ => y; intro hx; rotate_left; clear_value (hh : x = _); subst hh) | (have hq : Flt := x; clear hq; rename _ => y) | (have hq : Sys := x; clear hq; rename _ => y) | (clear_value x; rename _ => y) | (have hq := x; clear hq; rename _ => y))
    | with_reducible refine setChan_frame ?_ (by with_unfolding_all rfl)
    | with_reducible refine chanTake_frame ?_ (by with_unfolding_all rfl)
    | with_reducible apply Frame.ite
    | with_reducible exact Frame.ofMk (by first | exact Frame.refl | assumption) frMine frMine frSame frSame frMine frMine frMine frSame frMine frMine frMine frSame frMine frMine frMine frMine frMine frMine frMine frSame rfl rfl rfl (by first | exact .inr .refl | exact .inr ⟨rfl, rfl, rfl, rfl, id⟩ | exact .inr ⟨rfl, rfl, rfl, rfl, fun _ => rfl⟩ | exact .inr (.ite ⟨rfl, rfl, rfl, rfl, id⟩ ⟨rfl, rfl, rfl, rfl, id⟩)) (by first | exact .inr .refl | exact .inr ⟨rfl, rfl, rfl, rfl⟩ | exact .inr (addFaultRecord_binds _ _) | with_unfolding_all exact .inr ⟨rfl, rfl, rfl, rfl⟩)
    | with_reducible apply Frame.refl
    | with_reducible assumption
    | split

theorem dmaExtend_frame {k : Parts} {s t : State} {a0 : ChanIx}
    (h : Frame k s t) (hk : sub partsEngineFaultW k = true) :
    Frame k s (dmaExtend a0 t) := by
  refine Frame.step h (l := partsEngineFaultW) ?_ hk
  clear h hk
  unfold dmaExtend
  repeat' first
    | (extract_lets +onlyGivenNames -merge -underBinder x; first | (with_reducible refine Frame.cutTo (t := x) ?_ ?_; rotate_left; (try clear_value x); rename _ => y; intro hx; rotate_left; clear_value (hh : x = _); subst hh) | (have hq : Flt := x; clear hq; rename _ => y) | (have hq : Sys := x; clear hq; rename _ => y) | (clear_value x; rename _ => y) | (have hq := x; clear hq; rename _ => y))
    | with_reducible refine setChan_frame ?_ (by with_unfolding_all rfl)
    | with_reducible refine linkRead_frame ?_ (by with_unfolding_all rfl)
    | with_reducible apply Frame.ite
    | with_reducible exact Frame.ofMk (by first | exact Frame.refl | assumption) frMine frMine frSame frSame frMine frMine frMine frSame frMine frMine frMine frSame frMine frMine frMine frMine frMine frMine frMine frSame rfl rfl rfl (by first | exact .inr .refl | exact .inr ⟨rfl, rfl, rfl, rfl, id⟩ | exact .inr ⟨rfl, rfl, rfl, rfl, fun _ => rfl⟩ | exact .inr (.ite ⟨rfl, rfl, rfl, rfl, id⟩ ⟨rfl, rfl, rfl, rfl, id⟩)) (by first | exact .inr .refl | exact .inr ⟨rfl, rfl, rfl, rfl⟩ | exact .inr (addFaultRecord_binds _ _) | with_unfolding_all exact .inr ⟨rfl, rfl, rfl, rfl⟩)
    | with_reducible apply Frame.refl
    | with_reducible assumption
    | split

theorem execDmaExtend_frame {s t : State} {a0 : ChanIx} (e : execDmaExtend a0 s = .next t) :
    Frame partsEngineFaultW s t := by
  unfold execDmaExtend at e
  refine Frame.act ?_ e
  clear e
  try dsimp -zeta only
  repeat' first
    | with_reducible refine dmaExtend_frame ?_ (by with_unfolding_all rfl)
    | with_reducible apply Frame.refl
    | with_reducible assumption

theorem dmaCtlWrite_frame {k : Parts} {s t : State} {a0 : Word}
    (h : Frame k s t) (hk : sub partsEngineFaultW k = true) :
    Frame k s (dmaCtlWrite a0 t) := by
  refine Frame.step h (l := partsEngineFaultW) ?_ hk
  clear h hk
  unfold dmaCtlWrite
  repeat' first
    | (extract_lets +onlyGivenNames -merge -underBinder x; first | (with_reducible refine Frame.cutTo (t := x) ?_ ?_; rotate_left; (try clear_value x); rename _ => y; intro hx; rotate_left; clear_value (hh : x = _); subst hh) | (have hq : Flt := x; clear hq; rename _ => y) | (have hq : Sys := x; clear hq; rename _ => y) | (clear_value x; rename _ => y) | (have hq := x; clear hq; rename _ => y))
    | with_reducible refine dmaAbort_frame ?_ (by with_unfolding_all rfl)
    | with_reducible apply Frame.foldl
    | with_reducible apply Frame.ite
    | with_reducible exact Frame.ofMk (by first | exact Frame.refl | assumption) frMine frMine frSame frSame frMine frMine frMine frSame frMine frMine frMine frSame frMine frMine frMine frMine frMine frMine frMine frSame rfl rfl rfl (by first | exact .inr .refl | exact .inr ⟨rfl, rfl, rfl, rfl, id⟩ | exact .inr ⟨rfl, rfl, rfl, rfl, fun _ => rfl⟩ | exact .inr (.ite ⟨rfl, rfl, rfl, rfl, id⟩ ⟨rfl, rfl, rfl, rfl, id⟩)) (by first | exact .inr .refl | exact .inr ⟨rfl, rfl, rfl, rfl⟩ | exact .inr (addFaultRecord_binds _ _) | with_unfolding_all exact .inr ⟨rfl, rfl, rfl, rfl⟩)
    | with_reducible apply Frame.refl
    | with_reducible assumption
    | intro _ _ _
    | intro _ _
    | split

theorem execDmaDisable_frame {s t : State}  (e : execDmaDisable s = .next t) :
    Frame partsEngineFaultW s t := by
  unfold execDmaDisable at e
  refine Frame.act ?_ e
  clear e
  try dsimp -zeta only
  repeat' first
    | with_reducible refine dmaCtlWrite_frame ?_ (by with_unfolding_all rfl)
    | with_reducible apply Frame.refl
    | with_reducible assumption

theorem burstTail_frame {k : Parts} {s t : State} {a0 : RegBus} {a1 : Nat} {a2 : Nat} (hb : BusFrame a0)
    (h : Frame k s t) (hk : sub busParts k = true) :
    Frame k s (burstTail a0 a1 a2 t) := by
  refine Frame.step h (l := busParts) ?_ hk
  clear h hk
  unfold burstTail
  repeat' first
    | with_reducible refine Frame.step ?_ (BusFrame.put (by assumption)) (by with_unfolding_all rfl)
    | with_reducible refine Frame.step ?_ (BusFrame.get (by assumption)) (by with_unfolding_all rfl)
    | with_reducible refine Frame.step ?_ (BusFrame.pair (by assumption) (by assumption)) (by with_unfolding_all rfl)
    | with_reducible refine Frame.step ?_ (BusFrame.bad (by assumption)) (by with_unfolding_all rfl)
    | with_reducible apply Frame.ite
    | with_reducible apply Frame.refl
    | with_reducible assumption
    | split

theorem putBytes_frame {k : Parts} {s t : State} {a0 : RegBus} {a1 : Nat} {a2 : List Byte} (hb : BusFrame a0)
    (h : Frame k s t) (hk : sub busParts k = true) :
    Frame k s (putBytes a0 a1 a2 t) := by
  refine Frame.step h (l := busParts) ?_ hk
  clear h hk
  unfold putBytes
  repeat' first
    | (extract_lets +onlyGivenNames -merge -underBinder x; first | (with_reducible refine Frame.cutTo (t := x) ?_ ?_; rotate_left; (try clear_value x); rename _ => y; intro hx; rotate_left; clear_value (hh : x = _); subst hh) | (have hq : Sys := x; clear hq; rename _ => y) | (clear_value x; rename _ => y) | (have hq := x; clear hq; rename _ => y))
    | with_reducible refine burstTail_frame (hb := by first | assumption | exact dmaBus_frame) ?_ (by with_unfolding_all rfl)
    | with_reducible refine writeBytes_frame ?_ (by with_unfolding_all rfl)
    | with_reducible refine Frame.step ?_ (BusFrame.put (by assumption)) (by with_unfolding_all rfl)
    | with_reducible refine Frame.step ?_ (BusFrame.get (by assumption)) (by with_unfolding_all rfl)
    | with_reducible refine Frame.step ?_ (BusFrame.pair (by assumption) (by assumption)) (by with_unfolding_all rfl)
    | with_reducible refine Frame.step ?_ (BusFrame.bad (by assumption)) (by with_unfolding_all rfl)
    | with_reducible apply Frame.foldl
    | with_reducible apply Frame.ite
    | with_reducible exact Frame.ofMk (by first | exact Frame.refl | assumption) frMine frMine frMine frMine frMine frMine frMine frMine frMine frMine frMine frMine frMine frMine frMine frMine frMine frMine frMine frMine rfl rfl rfl (by first | exact .inr .refl | exact .inr ⟨rfl, rfl, rfl, rfl, id⟩ | exact .inr ⟨rfl, rfl, rfl, rfl, fun _ => rfl⟩ | exact .inr (.ite ⟨rfl, rfl, rfl, rfl, id⟩ ⟨rfl, rfl, rfl, rfl, id⟩)) (.inl rfl)
    | with_reducible apply Frame.refl
    | with_reducible assumption
    | intro _ _ _
    | intro _ _
    | split

theorem getWords_frame {k : Parts} {s t : State} {a0 : RegBus} {a1 : Nat} {a2 : Nat} (hb : BusFrame a0)
    (h : Frame k s t) (hk : sub busParts k = true) :
    Frame k s (getWords a0 a1 a2 t).2 := by
  refine Frame.step h (l := busParts) ?_ hk
  clear h hk
  fun_induction getWords a0 a1 a2 t
  repeat' first
    | with_reducible refine Frame.step ?_ (by assumption) (by with_unfolding_all rfl)
    | with_reducible refine Frame.step ?_ (Frame.pair (by assumption) (by assumption)) (by with_unfolding_all rfl)
    | (extract_lets +onlyGivenNames -merge -underBinder x; first | (with_reducible refine Frame.cutTo (t := x) ?_ ?_; rotate_left; (try clear_value x); rename _ => y; intro hx; rotate_left; clear_value (hh : x = _); subst hh) | (with_reducible refine Frame.cutTo (t := (Prod.snd x)) ?_ ?_; rotate_left; (try clear_value x); rename _ => y; intro hx; rotate_left; clear_value (hh : x = _); subst hh) | (have hq : Sys := x; clear hq; rename _ => y) | (clear_value x; rename _ => y) | (have hq := x; clear hq; rename _ => y))
    | split
    | with_reducible refine Frame.step ?_ (BusFrame.put (by assumption)) (by with_unfolding_all rfl)
    | with_reducible refine Frame.step ?_ (BusFrame.get (by assumption)) (by with_unfolding_all rfl)
    | with_reducible refine Frame.step ?_ (BusFrame.pair (by assumption) (by assumption)) (by with_unfolding_all rfl)
    | with_reducible refine Frame.step ?_ (BusFrame.bad (by assumption)) (by with_unfolding_all rfl)
    | with_reducible exact Frame.ofMk (by first | exact Frame.refl | assumption) frMine frMine frMine frMine frMine frMine frMine frMine frMine frMine frMine frMine frMine frMine frMine frMine frMine frMine frMine frMine rfl rfl rfl (by first | exact .inr .refl | exact .inr ⟨rfl, rfl, rfl, rfl, id⟩ | exact .inr ⟨rfl, rfl, rfl, rfl, fun _ => rfl⟩ | exact .inr (.ite ⟨rfl, rfl, rfl, rfl, id⟩ ⟨rfl, rfl, rfl, rfl, id⟩)) (.inl rfl)
    | dsimp -zeta only
    | with_reducible apply Frame.refl
    | with_reducible assumption
    | split

theorem getWords_pair {k : Parts} {s t : State} {a0 : RegBus} {a1 : Nat} {a2 : Nat} (hb : BusFrame a0) {y : List Word} {b : State} (e : getWords a0 a1 a2 t = (y, b))
    (h : Frame k s t) (hk : sub busParts k = true) :
    Frame k s b := by
  have f := getWords_frame (a0 := a0) (a1 := a1) (a2 := a2) (hb := hb) h hk
  rw [e] at f; exact f

theorem getBytes_frame {k : Parts} {s t : State} {a0 : RegBus} {a1 : Nat} {a2 : Nat} (hb : BusFrame a0)
    (h : Frame k s t) (hk : sub busParts k = true) :
    Frame k s (getBytes a0 a1 a2 t).2 := by
  refine Frame.step h (l := busParts) ?_ hk
  clear h hk
  unfold getBytes
  repeat' first
    | (extract_lets +onlyGivenNames -merge -underBinder x; first | (with_reducible refine Frame.cutTo (t := x) ?_ ?_; rotate_left; (try clear_value x); rename _ => y; intro hx; rotate_left; clear_value (hh : x = _); subst hh) | (with_reducible refine Frame.cutTo (t := (Prod.snd x)) ?_ ?_; rotate_left; (try clear_value x); rename _ => y; intro hx; rotate_left; clear_value (hh : x = _); subst hh) | (have hq : Sys := x; clear hq; rename _ => y) | (clear_value x; rename _ => y) | (have hq := x; clear hq; rename _ => y))
    | split
    | with_reducible refine getWords_frame (hb := by first | assumption | exact dmaBus_frame) ?_ (by with_unfolding_all rfl)
    | with_reducible refine getWords_pair (hb := by first | assumption | exact dmaBus_frame) (by assumption) ?_ (by with_unfolding_all rfl)
    | with_reducible refine burstTail_frame (hb := by first | assumption | exact dmaBus_frame) ?_ (by with_unfolding_all rfl)
    | with_reducible refine Frame.step ?_ (BusFrame.put (by assumption)) (by with_unfolding_all rfl)
    | with_reducible refine Frame.step ?_ (BusFrame.get (by assumption)) (by with_unfolding_all rfl)
    | with_reducible refine Frame.step ?_ (BusFrame.pair (by assumption) (by assumption)) (by with_unfolding_all rfl)
    | with_reducible refine Frame.step ?_ (BusFrame.bad (by assumption)) (by with_unfolding_all rfl)
    | with_reducible apply Frame.ite
    | with_reducible exact Frame.ofMk (by first | exact Frame.refl | assumption | exact getWords_pair (by assumption) (by first | exact Frame.refl | assumption | exact getWords_pair (by assumption) (by first | exact Frame.refl | assumption) (by with_unfolding_all rfl)) (by with_unfolding_all rfl)) frMine frMine frMine frMine frMine frMine frMine frMine frMine frMine frMine frMine frMine frMine frMine frMine frMine frMine frMine frMine rfl rfl rfl (by first | exact .inr .refl | exact .inr ⟨rfl, rfl, rfl, rfl, id⟩ | exact .inr ⟨rfl, rfl, rfl, rfl, fun _ => rfl⟩ | exact .inr (.ite ⟨rfl, rfl, rfl, rfl, id⟩ ⟨rfl, rfl, rfl, rfl, id⟩)) (.inl rfl)
    | dsimp -zeta only
    | with_reducible apply Frame.refl
    | with_reducible assumption
    | split

theorem getBytes_pair {k : Parts} {s t : State} {a0 : RegBus} {a1 : Nat} {a2 : Nat} (hb : BusFrame a0) {y : List Byte} {b : State} (e : getBytes a0 a1 a2 t = (y, b))
    (h : Frame k s t) (hk : sub busParts k = true) :
    Frame k s b := by
  have f := getBytes_frame (a0 := a0) (a1 := a1) (a2 := a2) (hb := hb) h hk
  rw [e] at f; exact f

theorem sourceBytes_frame {k : Parts} {s t : State} {a0 : RegBus} {a1 : Desc} {a2 : Nat} {a3 : Nat} {a4 : List Byte} (hb : BusFrame a0)
    (h : Frame k s t) (hk : sub busParts k = true) :
    Frame k s (sourceBytes a0 a1 a2 a3 a4 t).2 := by
  refine Frame.step h (l := busParts) ?_ hk
  clear h hk
  unfold sourceBytes
  repeat' first
    | with_reducible refine getBytes_frame (hb := by first | assumption | exact dmaBus_frame) ?_ (by with_unfolding_all rfl)
    | with_reducible refine getBytes_pair (hb := by first | assumption | exact dmaBus_frame) (by assumption) ?_ (by with_unfolding_all rfl)
    | with_reducible refine Frame.step ?_ (BusFrame.put (by assumption)) (by with_unfolding_all rfl)
    | with_reducible refine Frame.step ?_ (BusFrame.get (by assumption)) (by with_unfolding_all rfl)
    | with_reducible refine Frame.step ?_ (BusFrame.pair (by assumption) (by assumption)) (by with_unfolding_all rfl)
    | with_reducible refine Frame.step ?_ (BusFrame.bad (by assumption)) (by with_unfolding_all rfl)
    | with_reducible apply Frame.ite
    | dsimp -zeta only
    | with_reducible apply Frame.refl
    | with_reducible assumption
    | split

theorem sourceBytes_pair {k : Parts} {s t : State} {a0 : RegBus} {a1 : Desc} {a2 : Nat} {a3 : Nat} {a4 : List Byte} (hb : BusFrame a0) {y : List Byte} {b : State} (e : sourceBytes a0 a1 a2 a3 a4 t = (y, b))
    (h : Frame k s t) (hk : sub busParts k = true) :
    Frame k s b := by
  have f := sourceBytes_frame (a0 := a0) (a1 := a1) (a2 := a2) (a3 := a3) (a4 := a4) (hb := hb) h hk
  rw [e] at f; exact f

theorem moveBytes_frame {k : Parts} {s t : State} {a0 : RegBus} {a1 : ChanIx} {a2 : Nat} {a3 : List Byte} (hb : BusFrame a0)
    (h : Frame k s t) (hk : sub busParts k = true) :
    Frame k s (moveBytes a0 a1 a2 a3 t) := by
  refine Frame.step h (l := busParts) ?_ hk
  clear h hk
  unfold moveBytes
  repeat' first
    | (extract_lets +onlyGivenNames -merge -underBinder x; first | (with_reducible refine Frame.cutTo (t := x) ?_ ?_; rotate_left; (try clear_value x); rename _ => y; intro hx; rotate_left; clear_value (hh : x = _); subst hh) | (with_reducible refine Frame.cutTo (t := (Prod.snd x)) ?_ ?_; rotate_left; (try clear_value x); rename _ => y; intro hx; rotate_left; clear_value (hh : x = _); subst hh) | (have hq : Sys := x; clear hq; rename _ => y) | (clear_value x; rename _ => y) | (have hq := x; clear hq; rename _ => y))
    | split
    | with_reducible refine sourceBytes_frame (hb := by first | assumption | exact dmaBus_frame) ?_ (by with_unfolding_all rfl)
    | with_reducible refine sourceBytes_pair (hb := by first | assumption | exact dmaBus_frame) (by assumption) ?_ (by with_unfolding_all rfl)
    | with_reducible refine setChan_frame ?_ (by with_unfolding_all rfl)
    | with_reducible refine putBytes_frame (hb := by first | assumption | exact dmaBus_frame) ?_ (by with_unfolding_all rfl)
    | with_reducible refine Frame.step ?_ (BusFrame.put (by assumption)) (by with_unfolding_all rfl)
    | with_reducible refine Frame.step ?_ (BusFrame.get (by assumption)) (by with_unfolding_all rfl)
    | with_reducible refine Frame.step ?_ (BusFrame.pair (by assumption) (by assumption)) (by with_unfolding_all rfl)
    | with_reducible refine Frame.step ?_ (BusFrame.bad (by assumption)) (by with_unfolding_all rfl)
    | with_reducible apply Frame.ite
    | with_reducible exact Frame.ofMk (by first | exact Frame.refl | assumption | exact sourceBytes_pair (by assumption) (by first | exact Frame.refl | assumption | exact sourceBytes_pair (by assumption) (by first | exact Frame.refl | assumption) (by with_unfolding_all rfl)) (by with_unfolding_all rfl)) frMine frMine frMine frMine frMine frMine frMine frMine frMine frMine frMine frMine frMine frMine frMine frMine frMine frMine frMine frMine rfl rfl rfl (by first | exact .inr .refl | exact .inr ⟨rfl, rfl, rfl, rfl, id⟩ | exact .inr ⟨rfl, rfl, rfl, rfl, fun _ => rfl⟩ | exact .inr (.ite ⟨rfl, rfl, rfl, rfl, id⟩ ⟨rfl, rfl, rfl, rfl, id⟩)) (.inl rfl)
    | with_reducible apply Frame.refl
    | with_reducible assumption
    | split

theorem burstError_frame {k : Parts} {s t : State} {a0 : ChanIx}
    (h : Frame k s t) (hk : sub partsEngineFaultW k = true) :
    Frame k s (burstError a0 t) := by
  refine Frame.step h (l := partsEngineFaultW) ?_ hk
  clear h hk
  unfold burstError
  repeat' first
    | with_reducible refine dmaEvent_frame ?_ (by with_unfolding_all rfl)
    | with_reducible refine chanStop_frame ?_ (by with_unfolding_all rfl)
    | with_reducible exact Frame.ofMk (by first | exact Frame.refl | assumption) frMine frMine frSame frSame frMine frMine frMine frSame frMine frMine frMine frSame frMine frMine frMine frMine frMine frMine frMine frSame rfl rfl rfl (by first | exact .inr .refl | exact .inr ⟨rfl, rfl, rfl, rfl, id⟩ | exact .inr ⟨rfl, rfl, rfl, rfl, fun _ => rfl⟩ | exact .inr (.ite ⟨rfl, rfl, rfl, rfl, id⟩ ⟨rfl, rfl, rfl, rfl, id⟩)) (by first | exact .inr .refl | exact .inr ⟨rfl, rfl, rfl, rfl⟩ | exact .inr (addFaultRecord_binds _ _) | with_unfolding_all exact .inr ⟨rfl, rfl, rfl, rfl⟩)
    | with_reducible apply Frame.refl
    | with_reducible assumption
    | split

theorem timeoutEvents_frame {k : Parts} {s t : State} {a0 : ChanIx}
    (h : Frame k s t) (hk : sub partsEngineFaultW k = true) :
    Frame k s (timeoutEvents a0 t) := by
  refine Frame.step h (l := partsEngineFaultW) ?_ hk
  clear h hk
  unfold timeoutEvents
  repeat' first
    | (extract_lets +onlyGivenNames -merge -underBinder x; first | (with_reducible refine Frame.cutTo (t := x) ?_ ?_; rotate_left; (try clear_value x); rename _ => y; intro hx; rotate_left; clear_value (hh : x = _); subst hh) | (have hq : ∀ a, Frame {} t (x a) → True := fun _ _ => trivial; clear hq; rename _ => y) | (have hq : ∀ a b, Frame {} t (x a b) → True := fun _ _ _ => trivial; clear hq; rename _ => y) | (have hq : Flt := x; clear hq; rename _ => y) | (have hq : Sys := x; clear hq; rename _ => y) | (clear_value x; rename _ => y) | (have hq := x; clear hq; rename _ => y))
    | with_reducible refine hifEvent_frame ?_ (by with_unfolding_all rfl)
    | with_reducible apply Frame.ite
    | with_reducible apply Frame.refl
    | with_reducible assumption
    | split

theorem burstFails_frame {k : Parts} {s t : State} {a0 : ChanIx} {a1 : BurstCause}
    (h : Frame k s t) (hk : sub partsEngineFaultW k = true) :
    Frame k s (burstFails a0 a1 t) := by
  refine Frame.step h (l := partsEngineFaultW) ?_ hk
  clear h hk
  unfold burstFails
  repeat' first
    | (extract_lets +onlyGivenNames -merge -underBinder x; first | (with_reducible refine Frame.cutTo (t := x) ?_ ?_; rotate_left; (try clear_value x); rename _ => y; intro hx; rotate_left; clear_value (hh : x = _); subst hh) | (have hq : Flt := x; clear hq; rename _ => y) | (have hq : Sys := x; clear hq; rename _ => y) | (clear_value x; rename _ => y) | (have hq := x; clear hq; rename _ => y))
    | with_reducible refine rldBurst_frame ?_ (by with_unfolding_all rfl)
    | with_reducible refine burstError_frame ?_ (by with_unfolding_all rfl)
    | with_reducible refine timeoutEvents_frame ?_ (by with_unfolding_all rfl)
    | with_reducible apply Frame.ite
    | with_reducible exact Frame.ofMk (by first | exact Frame.refl | assumption) frMine frMine frSame frSame frMine frMine frMine frSame frMine frMine frMine frSame frMine frMine frMine frMine frMine frMine frMine frSame rfl rfl rfl (by first | exact .inr .refl | exact .inr ⟨rfl, rfl, rfl, rfl, id⟩ | exact .inr ⟨rfl, rfl, rfl, rfl, fun _ => rfl⟩ | exact .inr (.ite ⟨rfl, rfl, rfl, rfl, id⟩ ⟨rfl, rfl, rfl, rfl, id⟩)) (by first | exact .inr .refl | exact .inr ⟨rfl, rfl, rfl, rfl⟩ | exact .inr (addFaultRecord_binds _ _) | with_unfolding_all exact .inr ⟨rfl, rfl, rfl, rfl⟩)
    | with_reducible apply Frame.refl
    | with_reducible assumption
    | split

theorem execDmaBurstError_frame {s t : State} {a0 : ChanIx} {a1 : BurstCause} (e : execDmaBurstError a0 a1 s = .next t) :
    Frame partsEngineFaultW s t := by
  unfold execDmaBurstError actWindow at e
  refine Frame.act ?_ e
  clear e
  try dsimp -zeta only
  repeat' first
    | with_reducible refine burstFails_frame ?_ (by with_unfolding_all rfl)
    | with_reducible refine windowNote_frame ?_ (by with_unfolding_all rfl)
    | with_reducible apply Frame.refl
    | with_reducible assumption

theorem chanComplete_frame {k : Parts} {s t : State} {a0 : ChanIx} {a1 : Nat}
    (h : Frame k s t) (hk : sub partsEngineFaultW k = true) :
    Frame k s (chanComplete a0 a1 t) := by
  refine Frame.step h (l := partsEngineFaultW) ?_ hk
  clear h hk
  unfold chanComplete
  repeat' first
    | (extract_lets +onlyGivenNames -merge -underBinder x; first | (with_reducible refine Frame.cutTo (t := x) ?_ ?_; rotate_left; (try clear_value x); rename _ => y; intro hx; rotate_left; clear_value (hh : x = _); subst hh) | (have hq : Flt := x; clear hq; rename _ => y) | (have hq : Sys := x; clear hq; rename _ => y) | (clear_value x; rename _ => y) | (have hq := x; clear hq; rename _ => y))
    | with_reducible refine writeLE_frame ?_ (by with_unfolding_all rfl)
    | with_reducible refine setChan_frame ?_ (by with_unfolding_all rfl)
    | with_reducible refine dmaFire_frame ?_ (by with_unfolding_all rfl)
    | with_reducible refine dmaIrqW_frame (hrz := by first | assumption | exact fun j v => raise_frame Frame.refl rfl) ?_ (by with_unfolding_all rfl)
    | with_reducible refine raise_frame ?_ (by with_unfolding_all rfl)
    | with_reducible refine linkRead_frame ?_ (by with_unfolding_all rfl)
    | with_reducible apply Frame.ite
    | with_reducible exact Frame.ofMk (by first | exact Frame.refl | assumption) frMine frMine frSame frSame frMine frMine frMine frSame frMine frMine frMine frSame frMine frMine frMine frMine frMine frMine frMine frSame rfl rfl rfl (by first | exact .inr .refl | exact .inr ⟨rfl, rfl, rfl, rfl, id⟩ | exact .inr ⟨rfl, rfl, rfl, rfl, fun _ => rfl⟩ | exact .inr (.ite ⟨rfl, rfl, rfl, rfl, id⟩ ⟨rfl, rfl, rfl, rfl, id⟩)) (by first | exact .inr .refl | exact .inr ⟨rfl, rfl, rfl, rfl⟩ | exact .inr (addFaultRecord_binds _ _) | with_unfolding_all exact .inr ⟨rfl, rfl, rfl, rfl⟩)
    | with_reducible apply Frame.refl
    | with_reducible assumption
    | intro _ _ _
    | intro _ _
    | split

theorem servePending_frame {k : Parts} {s t : State} {a0 : RegBus} {a1 : Nat} {a2 : ChanIx} {a3 : List Byte} (hb : BusFrame a0)
    (h : Frame k s t) (hk : sub busParts k = true) :
    Frame k s (servePending a0 a1 a2 a3 t).2 := by
  refine Frame.step h (l := busParts) ?_ hk
  clear h hk
  fun_induction servePending a0 a1 a2 a3 t
  repeat' first
    | with_reducible refine Frame.step ?_ (by assumption) (by with_unfolding_all rfl)
    | with_reducible refine Frame.step ?_ (Frame.pair (by assumption) (by assumption)) (by with_unfolding_all rfl)
    | (extract_lets +onlyGivenNames -merge -underBinder x; first | (with_reducible refine Frame.cutTo (t := x) ?_ ?_; rotate_left; (try clear_value x); rename _ => y; intro hx; rotate_left; clear_value (hh : x = _); subst hh) | (with_reducible refine Frame.cutTo (t := (Prod.snd x)) ?_ ?_; rotate_left; (try clear_value x); rename _ => y; intro hx; rotate_left; clear_value (hh : x = _); subst hh) | (have hq : Sys := x; clear hq; rename _ => y) | (clear_value x; rename _ => y) | (have hq := x; clear hq; rename _ => y))
    | with_reducible refine moveBytes_frame (hb := by first | assumption | exact dmaBus_frame) ?_ (by with_unfolding_all rfl)
    | with_reducible refine setChan_frame ?_ (by with_unfolding_all rfl)
    | with_reducible refine Frame.step ?_ (BusFrame.put (by assumption)) (by with_unfolding_all rfl)
    | with_reducible refine Frame.step ?_ (BusFrame.get (by assumption)) (by with_unfolding_all rfl)
    | with_reducible refine Frame.step ?_ (BusFrame.pair (by assumption) (by assumption)) (by with_unfolding_all rfl)
    | with_reducible refine Frame.step ?_ (BusFrame.bad (by assumption)) (by with_unfolding_all rfl)
    | with_reducible apply Frame.ite
    | with_reducible exact Frame.ofMk (by first | exact Frame.refl | assumption) frMine frMine frMine frMine frMine frMine frMine frMine frMine frMine frMine frMine frMine frMine frMine frMine frMine frMine frMine frMine rfl rfl rfl (by first | exact .inr .refl | exact .inr ⟨rfl, rfl, rfl, rfl, id⟩ | exact .inr ⟨rfl, rfl, rfl, rfl, fun _ => rfl⟩ | exact .inr (.ite ⟨rfl, rfl, rfl, rfl, id⟩ ⟨rfl, rfl, rfl, rfl, id⟩)) (.inl rfl)
    | dsimp -zeta only
    | with_reducible apply Frame.refl
    | with_reducible assumption
    | split

theorem servePending_pair {k : Parts} {s t : State} {a0 : RegBus} {a1 : Nat} {a2 : ChanIx} {a3 : List Byte} (hb : BusFrame a0) {y : List Byte} {b : State} (e : servePending a0 a1 a2 a3 t = (y, b))
    (h : Frame k s t) (hk : sub busParts k = true) :
    Frame k s b := by
  have f := servePending_frame (a0 := a0) (a1 := a1) (a2 := a2) (a3 := a3) (hb := hb) h hk
  rw [e] at f; exact f

theorem ringPut_frame {k : Parts} {s t : State} {a0 : Nat} {a1 : Packet}
    (h : Frame k s t) (hk : sub partsEngineFaultW k = true) :
    Frame k s (ringPut a0 a1 t) := by
  refine Frame.step h (l := partsEngineFaultW) ?_ hk
  clear h hk
  unfold ringPut
  repeat' first
    | (extract_lets +onlyGivenNames -merge -underBinder x; first | (with_reducible refine Frame.cutTo (t := x) ?_ ?_; rotate_left; (try clear_value x); rename _ => y; intro hx; rotate_left; clear_value (hh : x = _); subst hh) | (have hq : Flt := x; clear hq; rename _ => y) | (have hq : Sys := x; clear hq; rename _ => y) | (clear_value x; rename _ => y) | (have hq := x; clear hq; rename _ => y))
    | with_reducible refine retryStalls_frame ?_ (by with_unfolding_all rfl)
    | with_reducible refine ringUpdate_frame ?_ (by with_unfolding_all rfl)
    | with_reducible exact Frame.ofMk (by first | exact Frame.refl | assumption) frMine frMine frSame frSame frMine frMine frMine frSame frMine frMine frMine frSame frMine frMine frMine frMine frMine frMine frMine frSame rfl rfl rfl (by first | exact .inr .refl | exact .inr ⟨rfl, rfl, rfl, rfl, id⟩ | exact .inr ⟨rfl, rfl, rfl, rfl, fun _ => rfl⟩ | exact .inr (.ite ⟨rfl, rfl, rfl, rfl, id⟩ ⟨rfl, rfl, rfl, rfl, id⟩)) (by first | exact .inr .refl | exact .inr ⟨rfl, rfl, rfl, rfl⟩ | exact .inr (addFaultRecord_binds _ _) | with_unfolding_all exact .inr ⟨rfl, rfl, rfl, rfl⟩)
    | with_reducible apply Frame.refl
    | with_reducible assumption

theorem descComplete_frame {k : Parts} {s t : State} {a0 : RegBus} {a1 : ChanIx} {a2 : List Byte} (hb : BusFrame a0)
    (h : Frame k s t) (hk : sub busParts k = true) :
    Frame k s (descComplete a0 a1 a2 t) := by
  refine Frame.step h (l := busParts) ?_ hk
  clear h hk
  unfold descComplete
  repeat' first
    | (extract_lets +onlyGivenNames -merge -underBinder x; first | (with_reducible refine Frame.cutTo (t := x) ?_ ?_; rotate_left; (try clear_value x); rename _ => y; intro hx; rotate_left; clear_value (hh : x = _); subst hh) | (with_reducible refine Frame.cutTo (t := (Prod.snd x)) ?_ ?_; rotate_left; (try clear_value x); rename _ => y; intro hx; rotate_left; clear_value (hh : x = _); subst hh) | (have hq : Sys := x; clear hq; rename _ => y) | (clear_value x; rename _ => y) | (have hq := x; clear hq; rename _ => y))
    | split
    | with_reducible refine servePending_frame (hb := by first | assumption | exact dmaBus_frame) ?_ (by with_unfolding_all rfl)
    | with_reducible refine servePending_pair (hb := by first | assumption | exact dmaBus_frame) (by assumption) ?_ (by with_unfolding_all rfl)
    | with_reducible refine burstError_frame ?_ (by with_unfolding_all rfl)
    | with_reducible refine dmaEvent_frame ?_ (by with_unfolding_all rfl)
    | with_reducible refine chanStop_frame ?_ (by with_unfolding_all rfl)
    | with_reducible refine hqmTake_frame (by assumption) ?_ (by with_unfolding_all rfl)
    | with_reducible refine putBytes_frame (hb := by first | assumption | exact dmaBus_frame) ?_ (by with_unfolding_all rfl)
    | with_reducible refine ringPut_frame ?_ (by with_unfolding_all rfl)
    | with_reducible refine chanComplete_frame ?_ (by with_unfolding_all rfl)
    | with_reducible refine sourceBytes_frame (hb := by first | assumption | exact dmaBus_frame) ?_ (by with_unfolding_all rfl)
    | with_reducible refine sourceBytes_pair (hb := by first | assumption | exact dmaBus_frame) (by assumption) ?_ (by with_unfolding_all rfl)
    | with_reducible refine moveBytes_frame (hb := by first | assumption | exact dmaBus_frame) ?_ (by with_unfolding_all rfl)
    | with_reducible refine Frame.step ?_ (BusFrame.put (by assumption)) (by with_unfolding_all rfl)
    | with_reducible refine Frame.step ?_ (BusFrame.get (by assumption)) (by with_unfolding_all rfl)
    | with_reducible refine Frame.step ?_ (BusFrame.pair (by assumption) (by assumption)) (by with_unfolding_all rfl)
    | with_reducible refine Frame.step ?_ (BusFrame.bad (by assumption)) (by with_unfolding_all rfl)
    | with_reducible apply Frame.ite
    | with_reducible exact Frame.ofMk (by first | exact Frame.refl | assumption | exact servePending_pair (by assumption) (by first | exact Frame.refl | assumption | exact servePending_pair (by assumption) (by first | exact Frame.refl | assumption) (by with_unfolding_all rfl) | exact sourceBytes_pair (by assumption) (by first | exact Frame.refl | assumption) (by with_unfolding_all rfl)) (by with_unfolding_all rfl) | exact sourceBytes_pair (by assumption) (by first | exact Frame.refl | assumption | exact servePending_pair (by assumption) (by first | exact Frame.refl | assumption) (by with_unfolding_all rfl) | exact sourceBytes_pair (by assumption) (by first | exact Frame.refl | assumption) (by with_unfolding_all rfl)) (by with_unfolding_all rfl)) frMine frMine frMine frMine frMine frMine frMine frMine frMine frMine frMine frMine frMine frMine frMine frMine frMine frMine frMine frMine rfl rfl rfl (by first | exact .inr .refl | exact .inr ⟨rfl, rfl, rfl, rfl, id⟩ | exact .inr ⟨rfl, rfl, rfl, rfl, fun _ => rfl⟩ | exact .inr (.ite ⟨rfl, rfl, rfl, rfl, id⟩ ⟨rfl, rfl, rfl, rfl, id⟩)) (.inl rfl)
    | with_reducible apply Frame.refl
    | with_reducible assumption
    | split

theorem chanRequest_frame {k : Parts} {s t : State} {a0 : RegBus} {a1 : ChanIx} {a2 : List Byte} (hb : BusFrame a0)
    (h : Frame k s t) (hk : sub busParts k = true) :
    Frame k s (chanRequest a0 a1 a2 t) := by
  refine Frame.step h (l := busParts) ?_ hk
  clear h hk
  unfold chanRequest
  repeat' first
    | (extract_lets +onlyGivenNames -merge -underBinder x; first | (with_reducible refine Frame.cutTo (t := x) ?_ ?_; rotate_left; (try clear_value x); rename _ => y; intro hx; rotate_left; clear_value (hh : x = _); subst hh) | (with_reducible refine Frame.cutTo (t := (Prod.snd x)) ?_ ?_; rotate_left; (try clear_value x); rename _ => y; intro hx; rotate_left; clear_value (hh : x = _); subst hh) | (have hq : Sys := x; clear hq; rename _ => y) | (clear_value x; rename _ => y) | (have hq := x; clear hq; rename _ => y))
    | split
    | with_reducible refine servePending_frame (hb := by first | assumption | exact dmaBus_frame) ?_ (by with_unfolding_all rfl)
    | with_reducible refine servePending_pair (hb := by first | assumption | exact dmaBus_frame) (by assumption) ?_ (by with_unfolding_all rfl)
    | with_reducible refine burstError_frame ?_ (by with_unfolding_all rfl)
    | with_reducible refine setChan_frame ?_ (by with_unfolding_all rfl)
    | with_reducible refine dmaEvent_frame ?_ (by with_unfolding_all rfl)
    | with_reducible refine moveBytes_frame (hb := by first | assumption | exact dmaBus_frame) ?_ (by with_unfolding_all rfl)
    | with_reducible refine Frame.step ?_ (BusFrame.put (by assumption)) (by with_unfolding_all rfl)
    | with_reducible refine Frame.step ?_ (BusFrame.get (by assumption)) (by with_unfolding_all rfl)
    | with_reducible refine Frame.step ?_ (BusFrame.pair (by assumption) (by assumption)) (by with_unfolding_all rfl)
    | with_reducible refine Frame.step ?_ (BusFrame.bad (by assumption)) (by with_unfolding_all rfl)
    | with_reducible apply Frame.ite
    | with_reducible exact Frame.ofMk (by first | exact Frame.refl | assumption | exact servePending_pair (by assumption) (by first | exact Frame.refl | assumption | exact servePending_pair (by assumption) (by first | exact Frame.refl | assumption) (by with_unfolding_all rfl)) (by with_unfolding_all rfl)) frMine frMine frMine frMine frMine frMine frMine frMine frMine frMine frMine frMine frMine frMine frMine frMine frMine frMine frMine frMine rfl rfl rfl (by first | exact .inr .refl | exact .inr ⟨rfl, rfl, rfl, rfl, id⟩ | exact .inr ⟨rfl, rfl, rfl, rfl, fun _ => rfl⟩ | exact .inr (.ite ⟨rfl, rfl, rfl, rfl, id⟩ ⟨rfl, rfl, rfl, rfl, id⟩)) (.inl rfl)
    | with_reducible apply Frame.refl
    | with_reducible assumption
    | split

theorem dmaRequest_frame {k : Parts} {s t : State} {a0 : RegBus} {a1 : Nat} {a2 : List Byte} (hb : BusFrame a0)
    (h : Frame k s t) (hk : sub busParts k = true) :
    Frame k s (dmaRequest a0 a1 a2 t) := by
  refine Frame.step h (l := busParts) ?_ hk
  clear h hk
  unfold dmaRequest
  refine Frame.foldl _ _ Frame.refl fun u n hu => ?_
  split
  · exact chanRequest_frame hb hu (by with_unfolding_all rfl)
  · exact hu

theorem execDmaEventTrigger_frame {s t : State} {a0 : Fin 256} (e : execDmaEventTrigger a0 s = .next t) :
    Frame partsEngineFaultW s t := by
  unfold execDmaEventTrigger at e
  refine Frame.act ?_ e
  clear e
  try dsimp -zeta only
  repeat' first
    | with_reducible refine dmaFire_frame ?_ (by with_unfolding_all rfl)
    | with_reducible apply Frame.refl
    | with_reducible assumption

theorem timerExpiry_frame {k : Parts} {s t : State} {a0 : Fin 8}
    (h : Frame k s t) (hk : sub partsEngineFaultW k = true) :
    Frame k s (timerExpiry a0 t) := by
  refine Frame.step h (l := partsEngineFaultW) ?_ hk
  clear h hk
  unfold timerExpiry
  repeat' first
    | with_reducible refine dmaFire_frame ?_ (by with_unfolding_all rfl)
    | with_reducible apply Frame.ite
    | with_reducible apply Frame.refl
    | with_reducible assumption
    | split

theorem execDmaTimerExpiry_frame {s t : State} {a0 : Fin 8} (e : execDmaTimerExpiry a0 s = .next t) :
    Frame partsEngineFaultW s t := by
  unfold execDmaTimerExpiry at e
  refine Frame.act ?_ e
  clear e
  try dsimp -zeta only
  repeat' first
    | with_reducible refine timerExpiry_frame ?_ (by with_unfolding_all rfl)
    | with_reducible apply Frame.refl
    | with_reducible assumption

theorem chanWrite_frame {k : Parts} {s t : State} {a0 : ChanIx} {a1 : Nat} {a2 : Word}
    (h : Frame k s t) (hk : sub partsEngineFaultW k = true) :
    Frame k s (chanWrite a0 a1 a2 t) := by
  refine Frame.step h (l := partsEngineFaultW) ?_ hk
  clear h hk
  unfold chanWrite
  repeat' first
    | (extract_lets +onlyGivenNames -merge -underBinder x; first | (with_reducible refine Frame.cutTo (t := x) ?_ ?_; rotate_left; (try clear_value x); rename _ => y; intro hx; rotate_left; clear_value (hh : x = _); subst hh) | (have hq : Flt := x; clear hq; rename _ => y) | (have hq : Sys := x; clear hq; rename _ => y) | (clear_value x; rename _ => y) | (have hq := x; clear hq; rename _ => y))
    | with_reducible refine chanCtlWrite_frame ?_ (by with_unfolding_all rfl)
    | with_reducible refine dmaExtend_frame ?_ (by with_unfolding_all rfl)
    | with_reducible refine dmaCfgErr_frame ?_ (by with_unfolding_all rfl)
    | with_reducible apply Frame.ite
    | with_reducible exact Frame.ofMk (by first | exact Frame.refl | assumption) frMine frMine frSame frSame frMine frMine frMine frSame frMine frMine frMine frSame frMine frMine frMine frMine frMine frMine frMine frSame rfl rfl rfl (by first | exact .inr .refl | exact .inr ⟨rfl, rfl, rfl, rfl, id⟩ | exact .inr ⟨rfl, rfl, rfl, rfl, fun _ => rfl⟩ | exact .inr (.ite ⟨rfl, rfl, rfl, rfl, id⟩ ⟨rfl, rfl, rfl, rfl, id⟩)) (by first | exact .inr .refl | exact .inr ⟨rfl, rfl, rfl, rfl⟩ | exact .inr (addFaultRecord_binds _ _) | with_unfolding_all exact .inr ⟨rfl, rfl, rfl, rfl⟩)
    | with_reducible apply Frame.refl
    | with_reducible assumption
    | split

theorem dmaWrite_frame {k : Parts} {s t : State} {a0 : Nat} {a1 : Word}
    (h : Frame k s t) (hk : sub partsEngineFaultW k = true) :
    Frame k s (dmaWrite a0 a1 t) := by
  refine Frame.step h (l := partsEngineFaultW) ?_ hk
  clear h hk
  unfold dmaWrite
  repeat' first
    | (extract_lets +onlyGivenNames -merge -underBinder x; first | (with_reducible refine Frame.cutTo (t := x) ?_ ?_; rotate_left; (try clear_value x); rename _ => y; intro hx; rotate_left; clear_value (hh : x = _); subst hh) | (have hq : Flt := x; clear hq; rename _ => y) | (have hq : Sys := x; clear hq; rename _ => y) | (clear_value x; rename _ => y) | (have hq := x; clear hq; rename _ => y))
    | with_reducible refine chanWrite_frame ?_ (by with_unfolding_all rfl)
    | with_reducible refine dmaCtlWrite_frame ?_ (by with_unfolding_all rfl)
    | with_reducible apply Frame.ite
    | with_reducible exact Frame.ofMk (by first | exact Frame.refl | assumption) frMine frMine frSame frSame frMine frMine frMine frSame frMine frMine frMine frSame frMine frMine frMine frMine frMine frMine frMine frSame rfl rfl rfl (by first | exact .inr .refl | exact .inr ⟨rfl, rfl, rfl, rfl, id⟩ | exact .inr ⟨rfl, rfl, rfl, rfl, fun _ => rfl⟩ | exact .inr (.ite ⟨rfl, rfl, rfl, rfl, id⟩ ⟨rfl, rfl, rfl, rfl, id⟩)) (by first | exact .inr .refl | exact .inr ⟨rfl, rfl, rfl, rfl⟩ | exact .inr (addFaultRecord_binds _ _) | with_unfolding_all exact .inr ⟨rfl, rfl, rfl, rfl⟩)
    | with_reducible apply Frame.refl
    | with_reducible assumption
    | split

theorem dmaWarmReset_frame {k : Parts} {s t : State} 
    (h : Frame k s t) (hk : sub partsEngineFaultW k = true) :
    Frame k s (dmaWarmReset t) := by
  refine Frame.step h (l := partsEngineFaultW) ?_ hk
  clear h hk
  unfold dmaWarmReset
  repeat' first
    | (extract_lets +onlyGivenNames -merge -underBinder x; first | (with_reducible refine Frame.cutTo (t := x) ?_ ?_; rotate_left; (try clear_value x); rename _ => y; intro hx; rotate_left; clear_value (hh : x = _); subst hh) | (have hq : Flt := x; clear hq; rename _ => y) | (have hq : Sys := x; clear hq; rename _ => y) | (clear_value x; rename _ => y) | (have hq := x; clear hq; rename _ => y))
    | with_reducible refine dmaAbort_frame ?_ (by with_unfolding_all rfl)
    | with_reducible apply Frame.foldl
    | with_reducible exact Frame.ofMk (by first | exact Frame.refl | assumption) frMine frMine frSame frSame frMine frMine frMine frSame frMine frMine frMine frSame frMine frMine frMine frMine frMine frMine frMine frSame rfl rfl rfl (by first | exact .inr .refl | exact .inr ⟨rfl, rfl, rfl, rfl, id⟩ | exact .inr ⟨rfl, rfl, rfl, rfl, fun _ => rfl⟩ | exact .inr (.ite ⟨rfl, rfl, rfl, rfl, id⟩ ⟨rfl, rfl, rfl, rfl, id⟩)) (by first | exact .inr .refl | exact .inr ⟨rfl, rfl, rfl, rfl⟩ | exact .inr (addFaultRecord_binds _ _) | with_unfolding_all exact .inr ⟨rfl, rfl, rfl, rfl⟩)
    | with_reducible apply Frame.refl
    | with_reducible assumption
    | intro _ _ _
    | intro _ _

end Sys2Proof.Laws
end

