-- ==== Sys2Proof/Laws/Frames/Firmware.lean ====
section
/-!
SUPPORT. The frames of the operations of Machine/Firmware.lean: the parts each may change.
-/
namespace Sys2Proof.Laws
open Sys2Proof Sys2Proof.Machine

set_option linter.all false
set_option Elab.async false

theorem setFw_frame {k : Parts} {s t : State} {a0 : Fw}
    (h : Frame k s t) (hk : sub { host := true } k = true) :
    Frame k s (setFw a0 t) := by
  refine Frame.step h (l := { host := true }) ?_ hk
  clear h hk
  unfold setFw
  repeat' first
    | (extract_lets +onlyGivenNames -merge -underBinder x; first | (with_reducible refine Frame.cutTo (t := x) ?_ ?_; rotate_left; (try clear_value x); rename _ => y; intro hx; rotate_left; clear_value (hh : x = _); subst hh) | (clear_value x; rename _ => y) | (have hq := x; clear hq; rename _ => y))
    | with_reducible exact Frame.ofMk (by first | exact Frame.refl | assumption) frSame frSame frSame frSame frSame frSame frSame frSame frSame frSame frSame frSame frSame frSame frSame frSame frSame frSame frSame frMine rfl rfl rfl (.inr .refl) (.inr .refl)
    | with_reducible apply Frame.refl
    | with_reducible assumption

theorem downloadCmd_frame {k : Parts} {s t : State} {a0 : Nat} {a1 : Nat} {a2 : Nat} {a3 : Nat}
    (h : Frame k s t) (hk : sub { hif := true, host := true } k = true) :
    Frame k s (downloadCmd a0 a1 a2 a3 t) := by
  refine Frame.step h (l := { hif := true, host := true }) ?_ hk
  clear h hk
  unfold downloadCmd
  repeat' first
    | (extract_lets +onlyGivenNames -merge -underBinder x; first | (with_reducible refine Frame.cutTo (t := x) ?_ ?_; rotate_left; (try clear_value x); rename _ => y; intro hx; rotate_left; clear_value (hh : x = _); subst hh) | (clear_value x; rename _ => y) | (have hq := x; clear hq; rename _ => y))
    | with_reducible refine refuse_frame ?_ (by with_unfolding_all rfl)
    | with_reducible refine done_frame ?_ (by with_unfolding_all rfl)
    | with_reducible refine setFw_frame ?_ (by with_unfolding_all rfl)
    | with_reducible apply Frame.ite
    | with_reducible exact Frame.ofMk (by first | exact Frame.refl | assumption) frSame frSame frSame frSame frSame frSame frSame frSame frSame frSame frSame frSame frSame frSame frSame frSame frSame frSame frMine frMine rfl rfl rfl (.inr .refl) (.inr .refl)
    | with_reducible apply Frame.refl
    | with_reducible assumption
    | split

theorem execFirmwareImageDownload_frame {s t : State} {a0 : CtlIx} {a1 : Nat} {a2 : Nat} (e : execFirmwareImageDownload a0 a1 a2 s = .next t) :
    Frame { hif := true, host := true } s t := by
  unfold execFirmwareImageDownload at e
  refine Frame.act ?_ e
  clear e
  try dsimp -zeta only
  repeat' first
    | with_reducible refine adminRun_frame ?_ ?_ (by with_unfolding_all rfl)
    | with_reducible refine downloadCmd_frame ?_ (by with_unfolding_all rfl)
    | with_reducible apply Frame.refl
    | with_reducible assumption
    | intro _ _ _
    | intro _ _

theorem commitStore_frame {k : Parts} {s t : State} {a0 : Nat} {a1 : Nat} {a2 : ImageCheck} {a3 : Nat}
    (h : Frame k s t) (hk : sub { hif := true, host := true } k = true) :
    Frame k s (commitStore a0 a1 a2 a3 t) := by
  refine Frame.step h (l := { hif := true, host := true }) ?_ hk
  clear h hk
  unfold commitStore
  repeat' first
    | (extract_lets +onlyGivenNames -merge -underBinder x; first | (with_reducible refine Frame.cutTo (t := x) ?_ ?_; rotate_left; (try clear_value x); rename _ => y; intro hx; rotate_left; clear_value (hh : x = _); subst hh) | (clear_value x; rename _ => y) | (have hq := x; clear hq; rename _ => y))
    | with_reducible refine refuse_frame ?_ (by with_unfolding_all rfl)
    | with_reducible refine done_frame ?_ (by with_unfolding_all rfl)
    | with_reducible refine setFw_frame ?_ (by with_unfolding_all rfl)
    | with_reducible apply Frame.ite
    | with_reducible exact Frame.ofMk (by first | exact Frame.refl | assumption) frSame frSame frSame frSame frSame frSame frSame frSame frSame frSame frSame frSame frSame frSame frSame frSame frSame frSame frMine frMine rfl rfl rfl (.inr .refl) (.inr .refl)
    | with_reducible apply Frame.refl
    | with_reducible assumption
    | split

theorem execFwCommitStore_frame {s t : State} {a0 : CtlIx} {a1 : Nat} {a2 : ImageCheck} (e : execFwCommitStore a0 a1 a2 s = .next t) :
    Frame { hif := true, host := true } s t := by
  unfold execFwCommitStore at e
  refine Frame.act ?_ e
  clear e
  try dsimp -zeta only
  repeat' first
    | with_reducible refine adminRun_frame ?_ ?_ (by with_unfolding_all rfl)
    | with_reducible refine commitStore_frame ?_ (by with_unfolding_all rfl)
    | with_reducible apply Frame.refl
    | with_reducible assumption
    | intro _ _ _
    | intro _ _

theorem commitAtReset_frame {k : Parts} {s t : State} {a0 : Nat} {a1 : Nat} {a2 : ImageCheck} {a3 : Nat}
    (h : Frame k s t) (hk : sub { hif := true, host := true } k = true) :
    Frame k s (commitAtReset a0 a1 a2 a3 t) := by
  refine Frame.step h (l := { hif := true, host := true }) ?_ hk
  clear h hk
  unfold commitAtReset
  repeat' first
    | (extract_lets +onlyGivenNames -merge -underBinder x; first | (with_reducible refine Frame.cutTo (t := x) ?_ ?_; rotate_left; (try clear_value x); rename _ => y; intro hx; rotate_left; clear_value (hh : x = _); subst hh) | (clear_value x; rename _ => y) | (have hq := x; clear hq; rename _ => y))
    | with_reducible refine refuse_frame ?_ (by with_unfolding_all rfl)
    | with_reducible refine done_frame ?_ (by with_unfolding_all rfl)
    | with_reducible refine setFw_frame ?_ (by with_unfolding_all rfl)
    | with_reducible apply Frame.ite
    | with_reducible exact Frame.ofMk (by first | exact Frame.refl | assumption) frSame frSame frSame frSame frSame frSame frSame frSame frSame frSame frSame frSame frSame frSame frSame frSame frSame frSame frMine frMine rfl rfl rfl (.inr .refl) (.inr .refl)
    | with_reducible apply Frame.refl
    | with_reducible assumption
    | split

theorem execFwCommitActivateAtReset_frame {s t : State} {a0 : CtlIx} {a1 : Nat} {a2 : ImageCheck} (e : execFwCommitActivateAtReset a0 a1 a2 s = .next t) :
    Frame { hif := true, host := true } s t := by
  unfold execFwCommitActivateAtReset at e
  refine Frame.act ?_ e
  clear e
  try dsimp -zeta only
  repeat' first
    | with_reducible refine adminRun_frame ?_ ?_ (by with_unfolding_all rfl)
    | with_reducible refine commitAtReset_frame ?_ (by with_unfolding_all rfl)
    | with_reducible apply Frame.refl
    | with_reducible assumption
    | intro _ _ _
    | intro _ _

theorem commitSlotAtReset_frame {k : Parts} {s t : State} {a0 : Nat} {a1 : Nat} {a2 : Nat}
    (h : Frame k s t) (hk : sub { hif := true, host := true } k = true) :
    Frame k s (commitSlotAtReset a0 a1 a2 t) := by
  refine Frame.step h (l := { hif := true, host := true }) ?_ hk
  clear h hk
  unfold commitSlotAtReset
  repeat' first
    | (extract_lets +onlyGivenNames -merge -underBinder x; first | (with_reducible refine Frame.cutTo (t := x) ?_ ?_; rotate_left; (try clear_value x); rename _ => y; intro hx; rotate_left; clear_value (hh : x = _); subst hh) | (clear_value x; rename _ => y) | (have hq := x; clear hq; rename _ => y))
    | with_reducible refine refuse_frame ?_ (by with_unfolding_all rfl)
    | with_reducible refine done_frame ?_ (by with_unfolding_all rfl)
    | with_reducible refine setFw_frame ?_ (by with_unfolding_all rfl)
    | with_reducible apply Frame.ite
    | with_reducible exact Frame.ofMk (by first | exact Frame.refl | assumption) frSame frSame frSame frSame frSame frSame frSame frSame frSame frSame frSame frSame frSame frSame frSame frSame frSame frSame frMine frMine rfl rfl rfl (.inr .refl) (.inr .refl)
    | with_reducible apply Frame.refl
    | with_reducible assumption
    | split

theorem execFwCommitSlotAtReset_frame {s t : State} {a0 : CtlIx} {a1 : Nat} (e : execFwCommitSlotAtReset a0 a1 s = .next t) :
    Frame { hif := true, host := true } s t := by
  unfold execFwCommitSlotAtReset at e
  refine Frame.act ?_ e
  clear e
  try dsimp -zeta only
  repeat' first
    | with_reducible refine adminRun_frame ?_ ?_ (by with_unfolding_all rfl)
    | with_reducible refine commitSlotAtReset_frame ?_ (by with_unfolding_all rfl)
    | with_reducible apply Frame.refl
    | with_reducible assumption
    | intro _ _ _
    | intro _ _

theorem commitNow_frame {k : Parts} {s t : State} {a0 : Nat} {a1 : Nat} {a2 : ImageCheck} {a3 : Nat}
    (h : Frame k s t) (hk : sub { sys := true, hif := true, host := true } k = true) :
    Frame k s (commitNow a0 a1 a2 a3 t) := by
  refine Frame.step h (l := { sys := true, hif := true, host := true }) ?_ hk
  clear h hk
  unfold commitNow
  repeat' first
    | (extract_lets +onlyGivenNames -merge -underBinder x; first | (with_reducible refine Frame.cutTo (t := x) ?_ ?_; rotate_left; (try clear_value x); rename _ => y; intro hx; rotate_left; clear_value (hh : x = _); subst hh) | (have hq : Sys := x; clear hq; rename _ => y) | (clear_value x; rename _ => y) | (have hq := x; clear hq; rename _ => y))
    | with_reducible refine refuse_frame ?_ (by with_unfolding_all rfl)
    | with_reducible refine done_frame ?_ (by with_unfolding_all rfl)
    | with_reducible refine setFw_frame ?_ (by with_unfolding_all rfl)
    | with_reducible apply Frame.ite
    | with_reducible exact Frame.ofMk (by first | exact Frame.refl | assumption) frMine frSame frSame frSame frSame frSame frSame frSame frSame frSame frSame frSame frSame frSame frSame frSame frSame frSame frMine frMine rfl rfl rfl (by first | exact .inr .refl | exact .inr ⟨rfl, rfl, rfl, rfl, id⟩ | exact .inr ⟨rfl, rfl, rfl, rfl, fun _ => rfl⟩ | exact .inr (.ite ⟨rfl, rfl, rfl, rfl, id⟩ ⟨rfl, rfl, rfl, rfl, id⟩)) (.inr .refl)
    | with_reducible apply Frame.refl
    | with_reducible assumption
    | split

theorem execFwCommitActivateNow_frame {s t : State} {a0 : CtlIx} {a1 : Nat} {a2 : ImageCheck} (e : execFwCommitActivateNow a0 a1 a2 s = .next t) :
    Frame { sys := true, hif := true, host := true } s t := by
  unfold execFwCommitActivateNow at e
  refine Frame.act ?_ e
  clear e
  try dsimp -zeta only
  repeat' first
    | with_reducible refine adminRun_frame ?_ ?_ (by with_unfolding_all rfl)
    | with_reducible refine commitNow_frame ?_ (by with_unfolding_all rfl)
    | with_reducible apply Frame.refl
    | with_reducible assumption
    | intro _ _ _
    | intro _ _

theorem commitCmd_frame {k : Parts} {s t : State} {a0 : Nat} {a1 : Nat} {a2 : Nat} {a3 : ImageCheck} {a4 : Nat}
    (h : Frame k s t) (hk : sub { sys := true, hif := true, host := true } k = true) :
    Frame k s (commitCmd a0 a1 a2 a3 a4 t) := by
  refine Frame.step h (l := { sys := true, hif := true, host := true }) ?_ hk
  clear h hk
  unfold commitCmd
  repeat' first
    | with_reducible refine commitStore_frame ?_ (by with_unfolding_all rfl)
    | with_reducible refine commitAtReset_frame ?_ (by with_unfolding_all rfl)
    | with_reducible refine commitSlotAtReset_frame ?_ (by with_unfolding_all rfl)
    | with_reducible refine commitNow_frame ?_ (by with_unfolding_all rfl)
    | with_reducible refine refuse_frame ?_ (by with_unfolding_all rfl)
    | with_reducible exact Frame.ofMk (by first | exact Frame.refl | assumption) frMine frSame frSame frSame frSame frSame frSame frSame frSame frSame frSame frSame frSame frSame frSame frSame frSame frSame frMine frMine rfl rfl rfl (by first | exact .inr .refl | exact .inr ⟨rfl, rfl, rfl, rfl, id⟩ | exact .inr ⟨rfl, rfl, rfl, rfl, fun _ => rfl⟩ | exact .inr (.ite ⟨rfl, rfl, rfl, rfl, id⟩ ⟨rfl, rfl, rfl, rfl, id⟩)) (.inr .refl)
    | with_reducible apply Frame.refl
    | with_reducible assumption
    | split

theorem activationNotice_frame {k : Parts} {s t : State} {a0 : CtlIx}
    (h : Frame k s t) (hk : sub { hif := true } k = true) :
    Frame k s (activationNotice a0 t) := by
  refine Frame.step h (l := { hif := true }) ?_ hk
  clear h hk
  unfold activationNotice
  repeat' first
    | (extract_lets +onlyGivenNames -merge -underBinder x; first | (with_reducible refine Frame.cutTo (t := x) ?_ ?_; rotate_left; (try clear_value x); rename _ => y; intro hx; rotate_left; clear_value (hh : x = _); subst hh) | (clear_value x; rename _ => y) | (have hq := x; clear hq; rename _ => y))
    | with_reducible refine complete_frame ?_ (by with_unfolding_all rfl)
    | with_reducible refine setCtl_frame ?_ (by with_unfolding_all rfl)
    | with_reducible exact Frame.ofMk (by first | exact Frame.refl | assumption) frSame frSame frSame frSame frSame frSame frSame frSame frSame frSame frSame frSame frSame frSame frSame frSame frSame frSame frMine frSame rfl rfl rfl (.inr .refl) (.inr .refl)
    | with_reducible apply Frame.refl
    | with_reducible assumption
    | split

theorem holdStart_frame {k : Parts} {s t : State} 
    (h : Frame k s t) (hk : sub { hif := true, host := true } k = true) :
    Frame k s (holdStart t) := by
  refine Frame.step h (l := { hif := true, host := true }) ?_ hk
  clear h hk
  unfold holdStart
  repeat' first
    | (extract_lets +onlyGivenNames -merge -underBinder x; first | (with_reducible refine Frame.cutTo (t := x) ?_ ?_; rotate_left; (try clear_value x); rename _ => y; intro hx; rotate_left; clear_value (hh : x = _); subst hh) | (clear_value x; rename _ => y) | (have hq := x; clear hq; rename _ => y))
    | with_reducible refine activationNotice_frame ?_ (by with_unfolding_all rfl)
    | with_reducible refine fetchHold_frame ?_ (by with_unfolding_all rfl)
    | with_reducible refine setFw_frame ?_ (by with_unfolding_all rfl)
    | with_reducible apply Frame.ite
    | with_reducible exact Frame.ofMk (by first | exact Frame.refl | assumption) frSame frSame frSame frSame frSame frSame frSame frSame frSame frSame frSame frSame frSame frSame frSame frSame frSame frSame frMine frMine rfl rfl rfl (.inr .refl) (.inr .refl)
    | with_reducible apply Frame.refl
    | with_reducible assumption
    | split

theorem execActivationHoldStart_frame {s t : State}  (e : execActivationHoldStart s = .next t) :
    Frame { hif := true, host := true } s t := by
  unfold execActivationHoldStart at e
  refine Frame.act ?_ e
  clear e
  try dsimp -zeta only
  repeat' first
    | with_reducible refine holdStart_frame ?_ (by with_unfolding_all rfl)
    | with_reducible apply Frame.refl
    | with_reducible assumption

theorem quietTimeout_frame {k : Parts} {s t : State} 
    (h : Frame k s t) (hk : sub { flt := true, hif := true, host := true } k = true) :
    Frame k s (quietTimeout t) := by
  refine Frame.step h (l := { flt := true, hif := true, host := true }) ?_ hk
  clear h hk
  unfold quietTimeout
  repeat' first
    | with_reducible refine activationFail_frame ?_ (by with_unfolding_all rfl)
    | with_reducible apply Frame.ite
    | with_reducible exact Frame.ofMk (by first | exact Frame.refl | assumption) frSame frMine frSame frSame frSame frSame frSame frSame frSame frSame frSame frSame frSame frSame frSame frSame frSame frSame frMine frMine rfl rfl rfl (.inr .refl) (by first | exact .inr .refl | exact .inr ⟨rfl, rfl, rfl, rfl⟩ | exact .inr (addFaultRecord_binds _ _) | with_unfolding_all exact .inr ⟨rfl, rfl, rfl, rfl⟩)
    | with_reducible apply Frame.refl
    | with_reducible assumption
    | split

theorem execActivationQuietTimeout_frame {s t : State}  (e : execActivationQuietTimeout s = .next t) :
    Frame { flt := true, hif := true, host := true } s t := by
  unfold execActivationQuietTimeout at e
  refine Frame.act ?_ e
  clear e
  try dsimp -zeta only
  repeat' first
    | with_reducible refine quietTimeout_frame ?_ (by with_unfolding_all rfl)
    | with_reducible apply Frame.refl
    | with_reducible assumption

theorem activationSwitch_frame {k : Parts} {s t : State} {a0 : Bool}
    (h : Frame k s t) (hk : sub { flt := true, pwr := true, lane := true, stc := true, hif := true, host := true } k = true) :
    Frame k s (activationSwitch a0 t) := by
  refine Frame.step h (l := { flt := true, pwr := true, lane := true, stc := true, hif := true, host := true }) ?_ hk
  clear h hk
  unfold activationSwitch
  repeat' first
    | (extract_lets +onlyGivenNames -merge -underBinder x; first | (with_reducible refine Frame.cutTo (t := x) ?_ ?_; rotate_left; (try clear_value x); rename _ => y; intro hx; rotate_left; clear_value (hh : x = _); subst hh) | (have hq : Flt := x; clear hq; rename _ => y) | (clear_value x; rename _ => y) | (have hq := x; clear hq; rename _ => y))
    | with_reducible refine activationFail_frame ?_ (by with_unfolding_all rfl)
    | with_reducible refine fwSwitch_frame ?_ (by with_unfolding_all rfl)
    | with_reducible refine setFw_frame ?_ (by with_unfolding_all rfl)
    | with_reducible refine fetchHold_frame ?_ (by with_unfolding_all rfl)
    | with_reducible refine done_frame ?_ (by with_unfolding_all rfl)
    | with_reducible apply Frame.ite
    | with_reducible exact Frame.ofMk (by first | exact Frame.refl | assumption) frSame frMine frMine frSame frSame frSame frSame frSame frSame frMine frSame frSame frSame frSame frSame frMine frSame frSame frMine frMine rfl rfl rfl (.inr .refl) (by first | exact .inr .refl | exact .inr ⟨rfl, rfl, rfl, rfl⟩ | exact .inr (addFaultRecord_binds _ _) | with_unfolding_all exact .inr ⟨rfl, rfl, rfl, rfl⟩)
    | with_reducible apply Frame.refl
    | with_reducible assumption
    | split

theorem execActivationSwitch_frame {s t : State} {a0 : Bool} (e : execActivationSwitch a0 s = .next t) :
    Frame { flt := true, pwr := true, lane := true, stc := true, hif := true, host := true } s t := by
  unfold execActivationSwitch at e
  refine Frame.act ?_ e
  clear e
  try dsimp -zeta only
  repeat' first
    | with_reducible refine activationSwitch_frame ?_ (by with_unfolding_all rfl)
    | with_reducible apply Frame.refl
    | with_reducible assumption

theorem selfTestStart_frame {k : Parts} {s t : State} {a0 : Nat} {a1 : Nat} {a2 : Nat}
    (h : Frame k s t) (hk : sub { hif := true, host := true } k = true) :
    Frame k s (selfTestStart a0 a1 a2 t) := by
  refine Frame.step h (l := { hif := true, host := true }) ?_ hk
  clear h hk
  unfold selfTestStart
  repeat' first
    | (extract_lets +onlyGivenNames -merge -underBinder x; first | (with_reducible refine Frame.cutTo (t := x) ?_ ?_; rotate_left; (try clear_value x); rename _ => y; intro hx; rotate_left; clear_value (hh : x = _); subst hh) | (clear_value x; rename _ => y) | (have hq := x; clear hq; rename _ => y))
    | with_reducible refine refuse_frame ?_ (by with_unfolding_all rfl)
    | with_reducible refine done_frame ?_ (by with_unfolding_all rfl)
    | with_reducible apply Frame.ite
    | with_reducible exact Frame.ofMk (by first | exact Frame.refl | assumption) frSame frSame frSame frSame frSame frSame frSame frSame frSame frSame frSame frSame frSame frSame frSame frSame frSame frSame frMine frMine rfl rfl rfl (.inr .refl) (.inr .refl)
    | with_reducible apply Frame.refl
    | with_reducible assumption
    | split

theorem execSelftestShort_frame {s t : State} {a0 : CtlIx} (e : execSelftestShort a0 s = .next t) :
    Frame { hif := true, host := true } s t := by
  unfold execSelftestShort at e
  refine Frame.act ?_ e
  clear e
  try dsimp -zeta only
  repeat' first
    | with_reducible refine adminRun_frame ?_ ?_ (by with_unfolding_all rfl)
    | with_reducible refine selfTestStart_frame ?_ (by with_unfolding_all rfl)
    | with_reducible apply Frame.refl
    | with_reducible assumption
    | intro _ _ _
    | intro _ _

theorem execSelftestExtended_frame {s t : State} {a0 : CtlIx} (e : execSelftestExtended a0 s = .next t) :
    Frame { hif := true, host := true } s t := by
  unfold execSelftestExtended at e
  refine Frame.act ?_ e
  clear e
  try dsimp -zeta only
  repeat' first
    | with_reducible refine adminRun_frame ?_ ?_ (by with_unfolding_all rfl)
    | with_reducible refine selfTestStart_frame ?_ (by with_unfolding_all rfl)
    | with_reducible apply Frame.refl
    | with_reducible assumption
    | intro _ _ _
    | intro _ _

theorem selfTestAbort_frame {k : Parts} {s t : State} {a0 : Nat} {a1 : Nat}
    (h : Frame k s t) (hk : sub { hif := true, host := true } k = true) :
    Frame k s (selfTestAbort a0 a1 t) := by
  refine Frame.step h (l := { hif := true, host := true }) ?_ hk
  clear h hk
  unfold selfTestAbort
  repeat' first
    | with_reducible refine done_frame ?_ (by with_unfolding_all rfl)
    | with_reducible refine abortTest_frame ?_ (by with_unfolding_all rfl)
    | with_reducible apply Frame.refl
    | with_reducible assumption

theorem execSelftestAbort_frame {s t : State} {a0 : CtlIx} (e : execSelftestAbort a0 s = .next t) :
    Frame { hif := true, host := true } s t := by
  unfold execSelftestAbort at e
  refine Frame.act ?_ e
  clear e
  try dsimp -zeta only
  repeat' first
    | with_reducible refine adminRun_frame ?_ ?_ (by with_unfolding_all rfl)
    | with_reducible refine selfTestAbort_frame ?_ (by with_unfolding_all rfl)
    | with_reducible apply Frame.refl
    | with_reducible assumption
    | intro _ _ _
    | intro _ _

theorem selfTestCmd_frame {k : Parts} {s t : State} {a0 : Nat} {a1 : Nat} {a2 : Nat}
    (h : Frame k s t) (hk : sub { hif := true, host := true } k = true) :
    Frame k s (selfTestCmd a0 a1 a2 t) := by
  refine Frame.step h (l := { hif := true, host := true }) ?_ hk
  clear h hk
  unfold selfTestCmd
  repeat' first
    | with_reducible refine selfTestStart_frame ?_ (by with_unfolding_all rfl)
    | with_reducible refine selfTestAbort_frame ?_ (by with_unfolding_all rfl)
    | with_reducible refine refuse_frame ?_ (by with_unfolding_all rfl)
    | with_reducible exact Frame.ofMk (by first | exact Frame.refl | assumption) frSame frSame frSame frSame frSame frSame frSame frSame frSame frSame frSame frSame frSame frSame frSame frSame frSame frSame frMine frMine rfl rfl rfl (.inr .refl) (.inr .refl)
    | with_reducible apply Frame.refl
    | with_reducible assumption
    | split

theorem testEnd_frame {k : Parts} {s t : State} {a0 : SelfTest}
    (h : Frame k s t) (hk : sub { hif := true, host := true } k = true) :
    Frame k s (testEnd a0 t) := by
  refine Frame.step h (l := { hif := true, host := true }) ?_ hk
  clear h hk
  unfold testEnd
  repeat' first
    | (extract_lets +onlyGivenNames -merge -underBinder x; first | (with_reducible refine Frame.cutTo (t := x) ?_ ?_; rotate_left; (try clear_value x); rename _ => y; intro hx; rotate_left; clear_value (hh : x = _); subst hh) | (clear_value x; rename _ => y) | (have hq := x; clear hq; rename _ => y))
    | with_reducible refine vendorEvent_frame ?_ (by with_unfolding_all rfl)
    | with_reducible exact Frame.ofMk (by first | exact Frame.refl | assumption) frSame frSame frSame frSame frSame frSame frSame frSame frSame frSame frSame frSame frSame frSame frSame frSame frSame frSame frMine frMine rfl rfl rfl (.inr .refl) (.inr .refl)
    | with_reducible apply Frame.refl
    | with_reducible assumption

theorem testSlice_frame {k : Parts} {s t : State} {a0 : Bool}
    (h : Frame k s t) (hk : sub { hif := true, host := true } k = true) :
    Frame k s (testSlice a0 t) := by
  refine Frame.step h (l := { hif := true, host := true }) ?_ hk
  clear h hk
  unfold testSlice
  repeat' first
    | (extract_lets +onlyGivenNames -merge -underBinder x; first | (with_reducible refine Frame.cutTo (t := x) ?_ ?_; rotate_left; (try clear_value x); rename _ => y; intro hx; rotate_left; clear_value (hh : x = _); subst hh) | (clear_value x; rename _ => y) | (have hq := x; clear hq; rename _ => y))
    | with_reducible refine testEnd_frame ?_ (by with_unfolding_all rfl)
    | with_reducible apply Frame.ite
    | with_reducible exact Frame.ofMk (by first | exact Frame.refl | assumption) frSame frSame frSame frSame frSame frSame frSame frSame frSame frSame frSame frSame frSame frSame frSame frSame frSame frSame frMine frMine rfl rfl rfl (.inr .refl) (.inr .refl)
    | with_reducible apply Frame.refl
    | with_reducible assumption
    | split

theorem calStart_frame {k : Parts} {s t : State} 
    (h : Frame k s t) (hk : sub partsEngineFaultW k = true) :
    Frame k s (calStart t) := by
  refine Frame.step h (l := partsEngineFaultW) ?_ hk
  clear h hk
  unfold calStart
  repeat' first
    | with_reducible refine speCalWrite_frame ?_ (by with_unfolding_all rfl)
    | with_reducible exact Frame.ofMk (by first | exact Frame.refl | assumption) frMine frMine frSame frSame frMine frMine frMine frSame frMine frMine frMine frSame frMine frMine frMine frMine frMine frMine frMine frSame rfl rfl rfl (by first | exact .inr .refl | exact .inr ⟨rfl, rfl, rfl, rfl, id⟩ | exact .inr ⟨rfl, rfl, rfl, rfl, fun _ => rfl⟩ | exact .inr (.ite ⟨rfl, rfl, rfl, rfl, id⟩ ⟨rfl, rfl, rfl, rfl, id⟩)) (by first | exact .inr .refl | exact .inr ⟨rfl, rfl, rfl, rfl⟩ | exact .inr (addFaultRecord_binds _ _) | with_unfolding_all exact .inr ⟨rfl, rfl, rfl, rfl⟩)
    | with_reducible apply Frame.refl
    | with_reducible assumption
    | split

theorem calEnd_frame {k : Parts} {s t : State} {a0 : Bool}
    (h : Frame k s t) (hk : sub partsYarnHeadLost k = true) :
    Frame k s (calEnd a0 t) := by
  refine Frame.step h (l := partsYarnHeadLost) ?_ hk
  clear h hk
  unfold calEnd
  repeat' first
    | (extract_lets +onlyGivenNames -merge -underBinder x; first | (with_reducible refine Frame.cutTo (t := x) ?_ ?_; rotate_left; (try clear_value x); rename _ => y; intro hx; rotate_left; clear_value (hh : x = _); subst hh) | (have hq : Flt := x; clear hq; rename _ => y) | (have hq : Sys := x; clear hq; rename _ => y) | (clear_value x; rename _ => y) | (have hq := x; clear hq; rename _ => y))
    | with_reducible refine speCalWrite_frame ?_ (by with_unfolding_all rfl)
    | with_reducible refine noteChange_frame ?_ (by with_unfolding_all rfl)
    | with_reducible refine setMember_frame ?_ (by with_unfolding_all rfl)
    | with_reducible refine kick_frame ?_ (by with_unfolding_all rfl)
    | with_reducible refine vendorEvent_frame ?_ (by with_unfolding_all rfl)
    | with_reducible apply Frame.ite
    | with_reducible exact Frame.ofMk (by first | exact Frame.refl | assumption) frMine frMine frSame frSame frMine frMine frMine frSame frMine frMine frMine frMine frMine frMine frMine frMine frMine frMine frMine frMine rfl rfl rfl (by first | exact .inr .refl | exact .inr ⟨rfl, rfl, rfl, rfl, id⟩ | exact .inr ⟨rfl, rfl, rfl, rfl, fun _ => rfl⟩ | exact .inr (.ite ⟨rfl, rfl, rfl, rfl, id⟩ ⟨rfl, rfl, rfl, rfl, id⟩)) (by first | exact .inr .refl | exact .inr ⟨rfl, rfl, rfl, rfl⟩ | exact .inr (addFaultRecord_binds _ _) | with_unfolding_all exact .inr ⟨rfl, rfl, rfl, rfl⟩)
    | with_reducible apply Frame.refl
    | with_reducible assumption
    | assumption
    | split

theorem sliceEnd_frame {k : Parts} {s t : State} {a0 : SliceEnd}
    (h : Frame k s t) (hk : sub partsYarnHeadLost k = true) :
    Frame k s (sliceEnd a0 t) := by
  refine Frame.step h (l := partsYarnHeadLost) ?_ hk
  clear h hk
  unfold sliceEnd
  repeat' first
    | with_reducible refine testSlice_frame ?_ (by with_unfolding_all rfl)
    | with_reducible refine calStart_frame ?_ (by with_unfolding_all rfl)
    | with_reducible refine calEnd_frame ?_ (by with_unfolding_all rfl)
    | with_reducible apply Frame.ite
    | with_reducible exact Frame.ofMk (by first | exact Frame.refl | assumption) frMine frMine frSame frSame frMine frMine frMine frSame frMine frMine frMine frMine frMine frMine frMine frMine frMine frMine frMine frMine rfl rfl rfl (by first | exact .inr .refl | exact .inr ⟨rfl, rfl, rfl, rfl, id⟩ | exact .inr ⟨rfl, rfl, rfl, rfl, fun _ => rfl⟩ | exact .inr (.ite ⟨rfl, rfl, rfl, rfl, id⟩ ⟨rfl, rfl, rfl, rfl, id⟩)) (by first | exact .inr .refl | exact .inr ⟨rfl, rfl, rfl, rfl⟩ | exact .inr (addFaultRecord_binds _ _) | with_unfolding_all exact .inr ⟨rfl, rfl, rfl, rfl⟩)
    | with_reducible apply Frame.refl
    | with_reducible assumption
    | split

theorem execSlice_frame {s t : State} {a0 : SliceEnd} (e : execSlice a0 s = .next t) :
    Frame partsYarnHeadLost s t := by
  unfold execSlice at e
  refine Frame.act ?_ e
  clear e
  try dsimp -zeta only
  repeat' first
    | with_reducible refine sliceEnd_frame ?_ (by with_unfolding_all rfl)
    | with_reducible apply Frame.refl
    | with_reducible assumption

theorem calAbandon_frame {k : Parts} {s t : State} 
    (h : Frame k s t) (hk : sub { arr := true, hif := true } k = true) :
    Frame k s (calAbandon t) := by
  refine Frame.step h (l := { arr := true, hif := true }) ?_ hk
  clear h hk
  unfold calAbandon
  repeat' first
    | (extract_lets +onlyGivenNames -merge -underBinder x; first | (with_reducible refine Frame.cutTo (t := x) ?_ ?_; rotate_left; (try clear_value x); rename _ => y; intro hx; rotate_left; clear_value (hh : x = _); subst hh) | (clear_value x; rename _ => y) | (have hq := x; clear hq; rename _ => y))
    | with_reducible refine vendorEvent_frame ?_ (by with_unfolding_all rfl)
    | with_reducible exact Frame.ofMk (by first | exact Frame.refl | assumption) frSame frSame frSame frSame frSame frSame frSame frSame frSame frSame frSame frSame frSame frSame frSame frSame frSame frMine frMine frSame rfl rfl rfl (.inr .refl) (.inr .refl)
    | with_reducible apply Frame.refl
    | with_reducible assumption
    | assumption
    | split

theorem execCalibrationAbandon_frame {s t : State}  (e : execCalibrationAbandon s = .next t) :
    Frame { arr := true, hif := true } s t := by
  unfold execCalibrationAbandon at e
  refine Frame.act ?_ e
  clear e
  try dsimp -zeta only
  repeat' first
    | with_reducible refine calAbandon_frame ?_ (by with_unfolding_all rfl)
    | with_reducible apply Frame.refl
    | with_reducible assumption

end Sys2Proof.Laws
end

