-- ==== Sys2Proof/Laws/Frames/Member.lean ====
section
/-!
SUPPORT. The frames of the operations of Machine/Member.lean: the parts each may change.
-/
namespace Sys2Proof.Laws
open Sys2Proof Sys2Proof.Machine

set_option linter.all false
set_option Elab.async false

theorem suspectTrigger_frame {k : Parts} {s t : State} {a0 : Fin 24} {a1 : SuspectCause}
    (h : Frame k s t) (hk : sub partsAddLost k = true) :
    Frame k s (suspectTrigger a0 a1 t) := by
  refine Frame.step h (l := partsAddLost) ?_ hk
  clear h hk
  unfold suspectTrigger
  repeat' first
    | (extract_lets +onlyGivenNames -merge -underBinder x; first | (with_reducible refine Frame.cutTo (t := x) ?_ ?_; rotate_left; (try clear_value x); rename _ => y; intro hx; rotate_left; clear_value (hh : x = _); subst hh) | (clear_value x; rename _ => y) | (have hq := x; clear hq; rename _ => y))
    | split
    | with_reducible refine setMember_frame ?_ (by with_unfolding_all rfl)
    | with_reducible refine memberChange_frame ?_ (by with_unfolding_all rfl)
    | with_reducible apply Frame.ite
    | with_reducible exact Frame.ofMk (by first | exact Frame.refl | assumption) frSame frSame frSame frSame frSame frSame frSame frSame frSame frSame frSame frSame frSame frSame frSame frSame frMine frMine frMine frSame rfl rfl rfl (.inr .refl) (.inr .refl)
    | with_reducible apply Frame.refl
    | with_reducible assumption
    | split

theorem execSuspectTrigger_frame {s t : State} {a0 : Fin 24} {a1 : SuspectCause} (e : execSuspectTrigger a0 a1 s = .next t) :
    Frame partsAddLost s t := by
  unfold execSuspectTrigger at e
  refine Frame.act ?_ e
  clear e
  try dsimp -zeta only
  repeat' first
    | with_reducible refine suspectTrigger_frame ?_ (by with_unfolding_all rfl)
    | with_reducible apply Frame.refl
    | with_reducible assumption

theorem suspectExpiry_frame {k : Parts} {s t : State} {a0 : Fin 24}
    (h : Frame k s t) (hk : sub partsAddLost k = true) :
    Frame k s (suspectExpiry a0 t) := by
  refine Frame.step h (l := partsAddLost) ?_ hk
  clear h hk
  unfold suspectExpiry
  repeat' first
    | (extract_lets +onlyGivenNames -merge -underBinder x; first | (with_reducible refine Frame.cutTo (t := x) ?_ ?_; rotate_left; (try clear_value x); rename _ => y; intro hx; rotate_left; clear_value (hh : x = _); subst hh) | (clear_value x; rename _ => y) | (have hq := x; clear hq; rename _ => y))
    | with_reducible refine memberChange_frame ?_ (by with_unfolding_all rfl)
    | with_reducible refine setMember_frame ?_ (by with_unfolding_all rfl)
    | with_reducible apply Frame.ite
    | with_reducible exact Frame.ofMk (by first | exact Frame.refl | assumption) frSame frSame frSame frSame frSame frSame frSame frSame frSame frSame frSame frSame frSame frSame frSame frSame frMine frMine frMine frSame rfl rfl rfl (.inr .refl) (.inr .refl)
    | with_reducible apply Frame.refl
    | with_reducible assumption
    | split

theorem execSuspectExpiry_frame {s t : State} {a0 : Fin 24} (e : execSuspectExpiry a0 s = .next t) :
    Frame partsAddLost s t := by
  unfold execSuspectExpiry at e
  refine Frame.act ?_ e
  clear e
  try dsimp -zeta only
  repeat' first
    | with_reducible refine suspectExpiry_frame ?_ (by with_unfolding_all rfl)
    | with_reducible apply Frame.refl
    | with_reducible assumption

theorem fenceAll_frame {k : Parts} {s t : State} {a0 : List (Fin 24)} {a1 : Nat}
    (h : Frame k s t) (hk : sub partsReplicaLost k = true) :
    Frame k s (fenceAll a0 a1 t) := by
  refine Frame.step h (l := partsReplicaLost) ?_ hk
  clear h hk
  unfold fenceAll
  repeat' first
    | (extract_lets +onlyGivenNames -merge -underBinder x; first | (with_reducible refine Frame.cutTo (t := x) ?_ ?_; rotate_left; (try clear_value x); rename _ => y; intro hx; rotate_left; clear_value (hh : x = _); subst hh) | (have hq : Flt := x; clear hq; rename _ => y) | (have hq : Sys := x; clear hq; rename _ => y) | (clear_value x; rename _ => y) | (have hq := x; clear hq; rename _ => y))
    | with_reducible refine fence_frame ?_ (by with_unfolding_all rfl)
    | with_reducible refine withhold_frame ?_ (by with_unfolding_all rfl)
    | with_reducible apply Frame.foldl
    | with_reducible apply Frame.ite
    | with_reducible apply Frame.refl
    | with_reducible assumption
    | intro _ _ _
    | intro _ _
    | split

theorem fenceTrigger_frame {k : Parts} {s t : State} {a0 : Fin 24} {a1 : FenceCause}
    (h : Frame k s t) (hk : sub partsYarnHeadLost k = true) :
    Frame k s (fenceTrigger a0 a1 t) := by
  refine Frame.step h (l := partsYarnHeadLost) ?_ hk
  clear h hk
  unfold fenceTrigger
  repeat' first
    | (extract_lets +onlyGivenNames -merge -underBinder x; first | (with_reducible refine Frame.cutTo (t := x) ?_ ?_; rotate_left; (try clear_value x); rename _ => y; intro hx; rotate_left; clear_value (hh : x = _); subst hh) | (have hq : Flt := x; clear hq; rename _ => y) | (have hq : Sys := x; clear hq; rename _ => y) | (clear_value x; rename _ => y) | (have hq := x; clear hq; rename _ => y))
    | split
    | with_reducible refine kick_frame ?_ (by with_unfolding_all rfl)
    | with_reducible refine fenceAll_frame ?_ (by with_unfolding_all rfl)
    | with_reducible apply Frame.ite
    | with_reducible apply Frame.refl
    | with_reducible assumption
    | split

theorem execFenceTrigger_frame {s t : State} {a0 : Fin 24} {a1 : FenceCause} (e : execFenceTrigger a0 a1 s = .next t) :
    Frame partsYarnHeadLost s t := by
  unfold execFenceTrigger at e
  refine Frame.act ?_ e
  clear e
  try dsimp -zeta only
  repeat' first
    | with_reducible refine fenceTrigger_frame ?_ (by with_unfolding_all rfl)
    | with_reducible apply Frame.refl
    | with_reducible assumption

theorem setAvail_frame {k : Parts} {s t : State} {a0 : ActIx} {a1 : ActAvail}
    (h : Frame k s t) (hk : sub { arr := true } k = true) :
    Frame k s (setAvail a0 a1 t) := by
  refine Frame.step h (l := { arr := true }) ?_ hk
  clear h hk
  unfold setAvail
  repeat' first
    | (extract_lets +onlyGivenNames -merge -underBinder x; first | (with_reducible refine Frame.cutTo (t := x) ?_ ?_; rotate_left; (try clear_value x); rename _ => y; intro hx; rotate_left; clear_value (hh : x = _); subst hh) | (clear_value x; rename _ => y) | (have hq := x; clear hq; rename _ => y))
    | with_reducible exact Frame.ofMk (by first | exact Frame.refl | assumption) frSame frSame frSame frSame frSame frSame frSame frSame frSame frSame frSame frSame frSame frSame frSame frSame frSame frMine frSame frSame rfl rfl rfl (.inr .refl) (.inr .refl)
    | with_reducible apply Frame.refl
    | with_reducible assumption

theorem actUnavailable_frame {k : Parts} {s t : State} {a0 : ActIx} {a1 : ActCause}
    (h : Frame k s t) (hk : sub partsYarnHeadLost k = true) :
    Frame k s (actUnavailable a0 a1 t) := by
  refine Frame.step h (l := partsYarnHeadLost) ?_ hk
  clear h hk
  unfold actUnavailable
  repeat' first
    | (extract_lets +onlyGivenNames -merge -underBinder x; first | (with_reducible refine Frame.cutTo (t := x) ?_ ?_; rotate_left; (try clear_value x); rename _ => y; intro hx; rotate_left; clear_value (hh : x = _); subst hh) | (have hq : Flt := x; clear hq; rename _ => y) | (have hq : Sys := x; clear hq; rename _ => y) | (clear_value x; rename _ => y) | (have hq := x; clear hq; rename _ => y))
    | with_reducible refine setAvail_frame ?_ (by with_unfolding_all rfl)
    | with_reducible refine srvUnload_frame ?_ (by with_unfolding_all rfl)
    | with_reducible refine suspectTrigger_frame ?_ (by with_unfolding_all rfl)
    | with_reducible refine noteChange_frame ?_ (by with_unfolding_all rfl)
    | with_reducible refine replicaLost_frame ?_ (by with_unfolding_all rfl)
    | with_reducible refine kick_frame ?_ (by with_unfolding_all rfl)
    | with_reducible apply Frame.foldl
    | with_reducible apply Frame.ite
    | with_reducible exact Frame.ofMk (by first | exact Frame.refl | assumption) frMine frMine frSame frSame frMine frMine frMine frSame frMine frMine frMine frMine frMine frMine frMine frMine frMine frMine frMine frMine rfl rfl rfl (by first | exact .inr .refl | exact .inr ⟨rfl, rfl, rfl, rfl, id⟩ | exact .inr ⟨rfl, rfl, rfl, rfl, fun _ => rfl⟩ | exact .inr (.ite ⟨rfl, rfl, rfl, rfl, id⟩ ⟨rfl, rfl, rfl, rfl, id⟩)) (by first | exact .inr .refl | exact .inr ⟨rfl, rfl, rfl, rfl⟩ | exact .inr (addFaultRecord_binds _ _) | with_unfolding_all exact .inr ⟨rfl, rfl, rfl, rfl⟩)
    | with_reducible apply Frame.refl
    | with_reducible assumption
    | intro _ _ _
    | intro _ _
    | split

theorem execActuatorUnavailable_frame {s t : State} {a0 : ActIx} {a1 : ActCause} (e : execActuatorUnavailable a0 a1 s = .next t) :
    Frame partsYarnHeadLost s t := by
  unfold execActuatorUnavailable actWindow at e
  refine Frame.act ?_ e
  clear e
  try dsimp -zeta only
  repeat' first
    | with_reducible refine actUnavailable_frame ?_ (by with_unfolding_all rfl)
    | with_reducible refine windowNote_frame ?_ (by with_unfolding_all rfl)
    | with_reducible apply Frame.refl
    | with_reducible assumption

theorem loadAgain_frame {k : Parts} {s t : State} {a0 : ActIx}
    (h : Frame k s t) (hk : sub partsEngineFaultW k = true) :
    Frame k s (loadAgain a0 t) := by
  refine Frame.step h (l := partsEngineFaultW) ?_ hk
  clear h hk
  unfold loadAgain
  repeat' first
    | with_reducible refine srvLoad_frame ?_ (by with_unfolding_all rfl)
    | with_reducible apply Frame.ite
    | with_reducible exact Frame.ofMk (by first | exact Frame.refl | assumption) frMine frMine frSame frSame frMine frMine frMine frSame frMine frMine frMine frSame frMine frMine frMine frMine frMine frMine frMine frSame rfl rfl rfl (by first | exact .inr .refl | exact .inr ⟨rfl, rfl, rfl, rfl, id⟩ | exact .inr ⟨rfl, rfl, rfl, rfl, fun _ => rfl⟩ | exact .inr (.ite ⟨rfl, rfl, rfl, rfl, id⟩ ⟨rfl, rfl, rfl, rfl, id⟩)) (by first | exact .inr .refl | exact .inr ⟨rfl, rfl, rfl, rfl⟩ | exact .inr (addFaultRecord_binds _ _) | with_unfolding_all exact .inr ⟨rfl, rfl, rfl, rfl⟩)
    | with_reducible apply Frame.refl
    | with_reducible assumption
    | split

theorem execActuatorReload_frame {s t : State} {a0 : ActIx} (e : execActuatorReload a0 s = .next t) :
    Frame partsEngineFaultW s t := by
  unfold execActuatorReload at e
  refine Frame.act ?_ e
  clear e
  try dsimp -zeta only
  repeat' first
    | with_reducible refine loadAgain_frame ?_ (by with_unfolding_all rfl)
    | with_reducible apply Frame.ite
    | with_reducible apply Frame.refl
    | with_reducible assumption
    | split

theorem actRetry_frame {k : Parts} {s t : State} {a0 : ActIx}
    (h : Frame k s t) (hk : sub partsYarnHeadLost k = true) :
    Frame k s (actRetry a0 t) := by
  refine Frame.step h (l := partsYarnHeadLost) ?_ hk
  clear h hk
  unfold actRetry
  repeat' first
    | (extract_lets +onlyGivenNames -merge -underBinder x; first | (with_reducible refine Frame.cutTo (t := x) ?_ ?_; rotate_left; (try clear_value x); rename _ => y; intro hx; rotate_left; clear_value (hh : x = _); subst hh) | (have hq : Flt := x; clear hq; rename _ => y) | (have hq : Sys := x; clear hq; rename _ => y) | (clear_value x; rename _ => y) | (have hq := x; clear hq; rename _ => y))
    | with_reducible refine fenceAll_frame ?_ (by with_unfolding_all rfl)
    | with_reducible refine kick_frame ?_ (by with_unfolding_all rfl)
    | with_reducible refine loadAgain_frame ?_ (by with_unfolding_all rfl)
    | with_reducible apply Frame.ite
    | with_reducible apply Frame.refl
    | with_reducible assumption
    | split

theorem execActuatorRetryTimer_frame {s t : State} {a0 : ActIx} (e : execActuatorRetryTimer a0 s = .next t) :
    Frame partsYarnHeadLost s t := by
  unfold execActuatorRetryTimer at e
  refine Frame.act ?_ e
  clear e
  try dsimp -zeta only
  repeat' first
    | with_reducible refine actRetry_frame ?_ (by with_unfolding_all rfl)
    | with_reducible apply Frame.refl
    | with_reducible assumption

theorem rebuildRow_frame {k : Parts} {s t : State} {a0 : Nat} {a1 : Nat} {a2 : List (Fin 16 × BitVec 24)}
    (h : Frame k s t) (hk : sub partsAssignTarget k = true) :
    Frame k s (rebuildRow a0 a1 a2 t) := by
  refine Frame.step h (l := partsAssignTarget) ?_ hk
  clear h hk
  unfold rebuildRow
  repeat' first
    | (extract_lets +onlyGivenNames -merge -underBinder x; first | (with_reducible refine Frame.cutTo (t := x) ?_ ?_; rotate_left; (try clear_value x); rename _ => y; intro hx; rotate_left; clear_value (hh : x = _); subst hh) | (clear_value x; rename _ => y) | (have hq := x; clear hq; rename _ => y))
    | with_reducible refine assignTargets_frame ?_ (by with_unfolding_all rfl)
    | with_reducible refine dropStitch_frame ?_ (by with_unfolding_all rfl)
    | with_reducible apply Frame.foldl
    | with_reducible apply Frame.ite
    | with_reducible exact Frame.ofMk (by first | exact Frame.refl | assumption) frSame frSame frSame frSame frSame frSame frSame frSame frSame frSame frSame frMine frSame frSame frSame frSame frMine frMine frMine frSame rfl rfl rfl (.inr .refl) (.inr .refl)
    | with_reducible apply Frame.refl
    | with_reducible assumption
    | intro _ _ _
    | intro _ _
    | split

theorem execRebuildRow_frame {s t : State} {a0 : Nat} {a1 : Nat} {a2 : List (Fin 16 × BitVec 24)} (e : execRebuildRow a0 a1 a2 s = .next t) :
    Frame partsAssignTarget s t := by
  unfold execRebuildRow at e
  refine Frame.act ?_ e
  clear e
  try dsimp -zeta only
  repeat' first
    | with_reducible refine rebuildRow_frame ?_ (by with_unfolding_all rfl)
    | with_reducible apply Frame.refl
    | with_reducible assumption

theorem spareDuty_frame {k : Parts} {s t : State} 
    (h : Frame k s t) (hk : sub partsAddLost k = true) :
    Frame k s (spareDuty t) := by
  refine Frame.step h (l := partsAddLost) ?_ hk
  clear h hk
  unfold spareDuty
  repeat' first
    | (extract_lets +onlyGivenNames -merge -underBinder x; first | (with_reducible refine Frame.cutTo (t := x) ?_ ?_; rotate_left; (try clear_value x); rename _ => y; intro hx; rotate_left; clear_value (hh : x = _); subst hh) | (clear_value x; rename _ => y) | (have hq := x; clear hq; rename _ => y))
    | with_reducible refine memberChange_frame ?_ (by with_unfolding_all rfl)
    | with_reducible refine setMember_frame ?_ (by with_unfolding_all rfl)
    | with_reducible apply Frame.foldl
    | with_reducible apply Frame.ite
    | with_reducible exact Frame.ofMk (by first | exact Frame.refl | assumption) frSame frSame frSame frSame frSame frSame frSame frSame frSame frSame frSame frSame frSame frSame frSame frSame frMine frMine frMine frSame rfl rfl rfl (.inr .refl) (.inr .refl)
    | with_reducible apply Frame.refl
    | with_reducible assumption
    | intro _ _ _
    | intro _ _
    | split

theorem rebuildZoneDone_frame {k : Parts} {s t : State} {a0 : Nat}
    (h : Frame k s t) (hk : sub partsAddLost k = true) :
    Frame k s (rebuildZoneDone a0 t) := by
  refine Frame.step h (l := partsAddLost) ?_ hk
  clear h hk
  unfold rebuildZoneDone
  repeat' first
    | (extract_lets +onlyGivenNames -merge -underBinder x; first | (with_reducible refine Frame.cutTo (t := x) ?_ ?_; rotate_left; (try clear_value x); rename _ => y; intro hx; rotate_left; clear_value (hh : x = _); subst hh) | (clear_value x; rename _ => y) | (have hq := x; clear hq; rename _ => y))
    | with_reducible refine zmap_frame ?_ (by with_unfolding_all rfl)
    | with_reducible refine noteChange_frame ?_ (by with_unfolding_all rfl)
    | with_reducible refine spareDuty_frame ?_ (by with_unfolding_all rfl)
    | with_reducible apply Frame.foldl
    | with_reducible apply Frame.ite
    | with_reducible exact Frame.ofMk (by first | exact Frame.refl | assumption) frSame frSame frSame frSame frSame frSame frSame frSame frSame frSame frSame frSame frSame frSame frSame frSame frMine frMine frMine frSame rfl rfl rfl (.inr .refl) (.inr .refl)
    | with_reducible apply Frame.refl
    | with_reducible assumption
    | intro _ _ _
    | intro _ _
    | split

theorem execRebuildZoneDone_frame {s t : State} {a0 : Nat} (e : execRebuildZoneDone a0 s = .next t) :
    Frame partsAddLost s t := by
  unfold execRebuildZoneDone at e
  refine Frame.act ?_ e
  clear e
  try dsimp -zeta only
  repeat' first
    | with_reducible refine rebuildZoneDone_frame ?_ (by with_unfolding_all rfl)
    | with_reducible apply Frame.refl
    | with_reducible assumption

theorem fencedProbe_frame {k : Parts} {s t : State} {a0 : Fin 24} {a1 : Bool}
    (h : Frame k s t) (hk : sub { stc := true, arr := true } k = true) :
    Frame k s (fencedProbe a0 a1 t) := by
  refine Frame.step h (l := { stc := true, arr := true }) ?_ hk
  clear h hk
  unfold fencedProbe
  repeat' first
    | (extract_lets +onlyGivenNames -merge -underBinder x; first | (with_reducible refine Frame.cutTo (t := x) ?_ ?_; rotate_left; (try clear_value x); rename _ => y; intro hx; rotate_left; clear_value (hh : x = _); subst hh) | (clear_value x; rename _ => y) | (have hq := x; clear hq; rename _ => y))
    | with_reducible refine setMember_frame ?_ (by with_unfolding_all rfl)
    | with_reducible refine noteChange_frame ?_ (by with_unfolding_all rfl)
    | with_reducible refine stcCond_frame ?_ (by with_unfolding_all rfl)
    | with_reducible refine Frame.getDMap ?_ (fun _ => ?_)
    | with_reducible apply Frame.getD
    | with_reducible apply Frame.ite
    | with_reducible exact Frame.ofMk (by first | exact Frame.refl | assumption) frSame frSame frSame frSame frSame frSame frSame frSame frSame frSame frSame frSame frSame frSame frSame frMine frSame frMine frSame frSame rfl rfl rfl (.inr .refl) (.inr .refl)
    | with_reducible apply Frame.refl
    | with_reducible assumption
    | intro _ _ _
    | intro _ _
    | split

theorem execFencedProbe_frame {s t : State} {a0 : Fin 24} {a1 : Bool} (e : execFencedProbe a0 a1 s = .next t) :
    Frame { stc := true, arr := true } s t := by
  unfold execFencedProbe at e
  refine Frame.act ?_ e
  clear e
  try dsimp -zeta only
  repeat' first
    | with_reducible refine fencedProbe_frame ?_ (by with_unfolding_all rfl)
    | with_reducible apply Frame.refl
    | with_reducible assumption

theorem requalFail_frame {k : Parts} {s t : State} {a0 : Fin 24} {a1 : Nat}
    (h : Frame k s t) (hk : sub partsAddLost k = true) :
    Frame k s (requalFail a0 a1 t) := by
  refine Frame.step h (l := partsAddLost) ?_ hk
  clear h hk
  unfold requalFail
  repeat' first
    | (extract_lets +onlyGivenNames -merge -underBinder x; first | (with_reducible refine Frame.cutTo (t := x) ?_ ?_; rotate_left; (try clear_value x); rename _ => y; intro hx; rotate_left; clear_value (hh : x = _); subst hh) | (clear_value x; rename _ => y) | (have hq := x; clear hq; rename _ => y))
    | with_reducible refine setMember_frame ?_ (by with_unfolding_all rfl)
    | with_reducible refine vendorEvent_frame ?_ (by with_unfolding_all rfl)
    | with_reducible refine memberChange_frame ?_ (by with_unfolding_all rfl)
    | with_reducible apply Frame.ite
    | with_reducible exact Frame.ofMk (by first | exact Frame.refl | assumption) frSame frSame frSame frSame frSame frSame frSame frSame frSame frSame frSame frSame frSame frSame frSame frSame frMine frMine frMine frSame rfl rfl rfl (.inr .refl) (.inr .refl)
    | with_reducible apply Frame.refl
    | with_reducible assumption
    | split

theorem requalSwatch_frame {k : Parts} {s t : State} {a0 : Fin 24} {a1 : Bool}
    (h : Frame k s t) (hk : sub partsAddLost k = true) :
    Frame k s (requalSwatch a0 a1 t) := by
  refine Frame.step h (l := partsAddLost) ?_ hk
  clear h hk
  unfold requalSwatch
  repeat' first
    | (extract_lets +onlyGivenNames -merge -underBinder x; first | (with_reducible refine Frame.cutTo (t := x) ?_ ?_; rotate_left; (try clear_value x); rename _ => y; intro hx; rotate_left; clear_value (hh : x = _); subst hh) | (clear_value x; rename _ => y) | (have hq := x; clear hq; rename _ => y))
    | with_reducible refine setMember_frame ?_ (by with_unfolding_all rfl)
    | with_reducible refine requalFail_frame ?_ (by with_unfolding_all rfl)
    | with_reducible apply Frame.ite
    | with_reducible exact Frame.ofMk (by first | exact Frame.refl | assumption) frSame frSame frSame frSame frSame frSame frSame frSame frSame frSame frSame frSame frSame frSame frSame frSame frMine frMine frMine frSame rfl rfl rfl (.inr .refl) (.inr .refl)
    | with_reducible apply Frame.refl
    | with_reducible assumption
    | split

theorem execRequalSwatchDone_frame {s t : State} {a0 : Fin 24} {a1 : Bool} (e : execRequalSwatchDone a0 a1 s = .next t) :
    Frame partsAddLost s t := by
  unfold execRequalSwatchDone at e
  refine Frame.act ?_ e
  clear e
  try dsimp -zeta only
  repeat' first
    | with_reducible refine requalSwatch_frame ?_ (by with_unfolding_all rfl)
    | with_reducible apply Frame.refl
    | with_reducible assumption

theorem requalVerify_frame {k : Parts} {s t : State} {a0 : Fin 24} {a1 : Nat} {a2 : Nat} {a3 : Nat} {a4 : Nat}
    (h : Frame k s t) (hk : sub partsAddLost k = true) :
    Frame k s (requalVerify a0 a1 a2 a3 a4 t) := by
  refine Frame.step h (l := partsAddLost) ?_ hk
  clear h hk
  unfold requalVerify
  repeat' first
    | (extract_lets +onlyGivenNames -merge -underBinder x; first | (with_reducible refine Frame.cutTo (t := x) ?_ ?_; rotate_left; (try clear_value x); rename _ => y; intro hx; rotate_left; clear_value (hh : x = _); subst hh) | (clear_value x; rename _ => y) | (have hq := x; clear hq; rename _ => y))
    | with_reducible refine setMember_frame ?_ (by with_unfolding_all rfl)
    | with_reducible refine vendorEvent_frame ?_ (by with_unfolding_all rfl)
    | with_reducible refine memberChange_frame ?_ (by with_unfolding_all rfl)
    | with_reducible refine requalFail_frame ?_ (by with_unfolding_all rfl)
    | with_reducible apply Frame.ite
    | with_reducible exact Frame.ofMk (by first | exact Frame.refl | assumption) frSame frSame frSame frSame frSame frSame frSame frSame frSame frSame frSame frSame frSame frSame frSame frSame frMine frMine frMine frSame rfl rfl rfl (.inr .refl) (.inr .refl)
    | with_reducible apply Frame.refl
    | with_reducible assumption
    | split

theorem execRequalVerifyDone_frame {s t : State} {a0 : Fin 24} {a1 : Nat} {a2 : Nat} {a3 : Nat} {a4 : Nat} (e : execRequalVerifyDone a0 a1 a2 a3 a4 s = .next t) :
    Frame partsAddLost s t := by
  unfold execRequalVerifyDone at e
  refine Frame.act ?_ e
  clear e
  try dsimp -zeta only
  repeat' first
    | with_reducible refine requalVerify_frame ?_ (by with_unfolding_all rfl)
    | with_reducible apply Frame.refl
    | with_reducible assumption

theorem migrateZone_frame {k : Parts} {s t : State} {a0 : Nat} {a1 : Fin 24}
    (h : Frame k s t) (hk : sub { spe := true, arr := true, hif := true, mem := true, free := true } k = true) :
    Frame k s (migrateZone a0 a1 t) := by
  refine Frame.step h (l := { spe := true, arr := true, hif := true, mem := true, free := true }) ?_ hk
  clear h hk
  unfold migrateZone
  repeat' first
    | (extract_lets +onlyGivenNames -merge -underBinder x; first | (with_reducible refine Frame.cutTo (t := x) ?_ ?_; rotate_left; (try clear_value x); rename _ => y; intro hx; rotate_left; clear_value (hh : x = _); subst hh) | (with_reducible refine Frame.cutTo (t := (Prod.snd x)) ?_ ?_; rotate_left; (try clear_value x); rename _ => y; intro hx; rotate_left; clear_value (hh : x = _); subst hh) | (have hq : ∀ a, Frame {} t (x a) → True := fun _ _ => trivial; clear hq; rename _ => y) | (have hq : ∀ a b, Frame {} t (x a b) → True := fun _ _ _ => trivial; clear hq; rename _ => y) | (clear_value x; rename _ => y) | (have hq := x; clear hq; rename _ => y))
    | split
    | with_reducible refine freeNext_frame ?_ (by with_unfolding_all rfl)
    | with_reducible refine freeNext_pair (by assumption) ?_ (by with_unfolding_all rfl)
    | with_reducible refine zmap_frame ?_ (by with_unfolding_all rfl)
    | with_reducible refine setMember_frame ?_ (by with_unfolding_all rfl)
    | with_reducible refine memberChange_frame ?_ (by with_unfolding_all rfl)
    | with_reducible apply Frame.foldl
    | with_reducible refine Frame.getDMap ?_ (fun _ => ?_)
    | with_reducible apply Frame.getD
    | with_reducible apply Frame.ite
    | with_reducible exact Frame.ofMk (by first | exact Frame.refl | assumption | exact freeNext_pair (by assumption) (by first | exact Frame.refl | assumption | exact freeNext_pair (by assumption) (by first | exact Frame.refl | assumption) (by with_unfolding_all rfl)) (by with_unfolding_all rfl)) frSame frSame frSame frSame frSame frSame frSame frSame frSame frSame frSame frSame frSame frSame frSame frSame frMine frMine frMine frSame rfl rfl rfl (.inr .refl) (.inr .refl)
    | with_reducible apply Frame.refl
    | with_reducible assumption
    | intro _ _ _
    | intro _ _
    | split

theorem execMigrateZone_frame {s t : State} {a0 : Nat} {a1 : Fin 24} (e : execMigrateZone a0 a1 s = .next t) :
    Frame { spe := true, arr := true, hif := true, mem := true, free := true } s t := by
  unfold execMigrateZone at e
  refine Frame.act ?_ e
  clear e
  try dsimp -zeta only
  repeat' first
    | with_reducible refine migrateZone_frame ?_ (by with_unfolding_all rfl)
    | with_reducible apply Frame.refl
    | with_reducible assumption

theorem reshapeSkip_frame {k : Parts} {s t : State} {a0 : Nat}
    (h : Frame k s t) (hk : sub { arr := true, hif := true } k = true) :
    Frame k s (reshapeSkip a0 t) := by
  refine Frame.step h (l := { arr := true, hif := true }) ?_ hk
  clear h hk
  unfold reshapeSkip
  repeat' first
    | (extract_lets +onlyGivenNames -merge -underBinder x; first | (with_reducible refine Frame.cutTo (t := x) ?_ ?_; rotate_left; (try clear_value x); rename _ => y; intro hx; rotate_left; clear_value (hh : x = _); subst hh) | (clear_value x; rename _ => y) | (have hq := x; clear hq; rename _ => y))
    | with_reducible refine reshapeStep_frame ?_ (by with_unfolding_all rfl)
    | with_reducible refine noteChange_frame ?_ (by with_unfolding_all rfl)
    | with_reducible exact Frame.ofMk (by first | exact Frame.refl | assumption) frSame frSame frSame frSame frSame frSame frSame frSame frSame frSame frSame frSame frSame frSame frSame frSame frSame frMine frMine frSame rfl rfl rfl (.inr .refl) (.inr .refl)
    | with_reducible apply Frame.refl
    | with_reducible assumption

theorem zoneLock_frame {k : Parts} {s t : State} {a0 : Nat} {a1 : Bool}
    (h : Frame k s t) (hk : sub { hif := true } k = true) :
    Frame k s (zoneLock a0 a1 t).2 := by
  refine Frame.step h (l := { hif := true }) ?_ hk
  clear h hk
  unfold zoneLock
  repeat' first
    | (extract_lets +onlyGivenNames -merge -underBinder x; first | (with_reducible refine Frame.cutTo (t := x) ?_ ?_; rotate_left; (try clear_value x); rename _ => y; intro hx; rotate_left; clear_value (hh : x = _); subst hh) | (with_reducible refine Frame.cutTo (t := (Prod.snd x)) ?_ ?_; rotate_left; (try clear_value x); rename _ => y; intro hx; rotate_left; clear_value (hh : x = _); subst hh) | (clear_value x; rename _ => y) | (have hq := x; clear hq; rename _ => y))
    | with_reducible refine addLock_frame ?_ (by with_unfolding_all rfl)
    | with_reducible exact Frame.ofMk (by first | exact Frame.refl | assumption) frSame frSame frSame frSame frSame frSame frSame frSame frSame frSame frSame frSame frSame frSame frSame frSame frSame frSame frMine frSame rfl rfl rfl (.inr .refl) (.inr .refl)
    | dsimp -zeta only
    | with_reducible apply Frame.refl
    | with_reducible assumption
    | split

theorem zoneLock_pair {k : Parts} {s t : State} {a0 : Nat} {a1 : Bool} {y : Nat} {b : State} (e : zoneLock a0 a1 t = (y, b))
    (h : Frame k s t) (hk : sub { hif := true } k = true) :
    Frame k s b := by
  have f := zoneLock_frame (a0 := a0) (a1 := a1) h hk
  rw [e] at f; exact f

theorem zoneLockIf_frame {k : Parts} {s t : State} {a0 : Bool} {a1 : Nat} {a2 : Nat} {a3 : Bool}
    (h : Frame k s t) (hk : sub { hif := true } k = true) :
    Frame k s (zoneLockIf a0 a1 a2 a3 t).2 := by
  refine Frame.step h (l := { hif := true }) ?_ hk
  clear h hk
  unfold zoneLockIf
  repeat' first
    | with_reducible refine zoneLock_frame ?_ (by with_unfolding_all rfl)
    | with_reducible refine zoneLock_pair (by assumption) ?_ (by with_unfolding_all rfl)
    | with_reducible apply Frame.ite
    | dsimp -zeta only
    | with_reducible apply Frame.refl
    | with_reducible assumption
    | split

theorem zoneLockIf_pair {k : Parts} {s t : State} {a0 : Bool} {a1 : Nat} {a2 : Nat} {a3 : Bool} {y : Nat} {b : State} (e : zoneLockIf a0 a1 a2 a3 t = (y, b))
    (h : Frame k s t) (hk : sub { hif := true } k = true) :
    Frame k s b := by
  have f := zoneLockIf_frame (a0 := a0) (a1 := a1) (a2 := a2) (a3 := a3) h hk
  rw [e] at f; exact f

theorem reshapeSwitch_frame {k : Parts} {s t : State} {a0 : Nat} {a1 : Zone} {a2 : Reshape} {a3 : List (Nat × Nat)} {a4 : Option Nat}
    (h : Frame k s t) (hk : sub { spe := true, arr := true, mem := true } k = true) :
    Frame k s (reshapeSwitch a0 a1 a2 a3 a4 t) := by
  refine Frame.step h (l := { spe := true, arr := true, mem := true }) ?_ hk
  clear h hk
  unfold reshapeSwitch
  repeat' first
    | (extract_lets +onlyGivenNames -merge -underBinder x; first | (with_reducible refine Frame.cutTo (t := x) ?_ ?_; rotate_left; (try clear_value x); rename _ => y; intro hx; rotate_left; clear_value (hh : x = _); subst hh) | (clear_value x; rename _ => y) | (have hq := x; clear hq; rename _ => y))
    | with_reducible refine zmap_frame ?_ (by with_unfolding_all rfl)
    | with_reducible refine Frame.getDMap ?_ (fun _ => ?_)
    | with_reducible apply Frame.getD
    | with_reducible apply Frame.ite
    | with_reducible exact Frame.ofMk (by first | exact Frame.refl | assumption) frSame frSame frSame frSame frSame frSame frSame frSame frSame frSame frSame frSame frSame frSame frSame frSame frMine frMine frSame frSame rfl rfl rfl (.inr .refl) (.inr .refl)
    | with_reducible apply Frame.refl
    | with_reducible assumption
    | intro _ _ _
    | intro _ _
    | split

theorem copyAbandon_frame {k : Parts} {s t : State} {a0 : Reshape}
    (h : Frame k s t) (hk : sub partsKick k = true) :
    Frame k s (copyAbandon a0 t) := by
  refine Frame.step h (l := partsKick) ?_ hk
  clear h hk
  unfold copyAbandon
  repeat' first
    | (extract_lets +onlyGivenNames -merge -underBinder x; first | (with_reducible refine Frame.cutTo (t := x) ?_ ?_; rotate_left; (try clear_value x); rename _ => y; intro hx; rotate_left; clear_value (hh : x = _); subst hh) | (clear_value x; rename _ => y) | (have hq := x; clear hq; rename _ => y))
    | with_reducible refine kick_frame ?_ (by with_unfolding_all rfl)
    | with_reducible refine unlock_frame ?_ (by with_unfolding_all rfl)
    | with_reducible exact Frame.ofMk (by first | exact Frame.refl | assumption) frSame frSame frSame frSame frSame frSame frSame frSame frSame frMine frSame frMine frSame frSame frSame frSame frMine frMine frMine frMine rfl rfl rfl (.inr .refl) (.inr .refl)
    | with_reducible apply Frame.refl
    | with_reducible assumption
    | split

theorem reshapeZone_frame {k : Parts} {s t : State} {a0 : CopyFind}
    (h : Frame k s t) (hk : sub partsKick k = true) :
    Frame k s (reshapeZone a0 t) := by
  refine Frame.step h (l := partsKick) ?_ hk
  clear h hk
  unfold reshapeZone
  repeat' first
    | (extract_lets +onlyGivenNames -merge -underBinder x; first | (with_reducible refine Frame.cutTo (t := x) ?_ ?_; rotate_left; (try clear_value x); rename _ => y; intro hx; rotate_left; clear_value (hh : x = _); subst hh) | (with_reducible refine Frame.cutTo (t := (Prod.snd x)) ?_ ?_; rotate_left; (try clear_value x); rename _ => y; intro hx; rotate_left; clear_value (hh : x = _); subst hh) | (clear_value x; rename _ => y) | (have hq := x; clear hq; rename _ => y))
    | split
    | with_reducible refine reshapeDone_frame ?_ (by with_unfolding_all rfl)
    | with_reducible refine reshapeSkip_frame ?_ (by with_unfolding_all rfl)
    | with_reducible refine copyAbandon_frame ?_ (by with_unfolding_all rfl)
    | with_reducible refine zoneLockIf_frame ?_ (by with_unfolding_all rfl)
    | with_reducible refine zoneLockIf_pair (by assumption) ?_ (by with_unfolding_all rfl)
    | with_reducible refine reshapeSwitch_frame ?_ (by with_unfolding_all rfl)
    | with_reducible refine dropStitch_frame ?_ (by with_unfolding_all rfl)
    | with_reducible refine zmap_frame ?_ (by with_unfolding_all rfl)
    | with_reducible apply Frame.ite
    | with_reducible exact Frame.ofMk (by first | exact Frame.refl | assumption | exact zoneLockIf_pair (by assumption) (by first | exact Frame.refl | assumption | exact zoneLockIf_pair (by assumption) (by first | exact Frame.refl | assumption) (by with_unfolding_all rfl)) (by with_unfolding_all rfl)) frSame frSame frSame frSame frSame frSame frSame frSame frSame frMine frSame frMine frSame frSame frSame frSame frMine frMine frMine frMine rfl rfl rfl (.inr .refl) (.inr .refl)
    | with_reducible apply Frame.refl
    | with_reducible assumption
    | split

theorem execReshapeZone_frame {s t : State} {a0 : CopyFind} (e : execReshapeZone a0 s = .next t) :
    Frame partsKick s t := by
  unfold execReshapeZone at e
  refine Frame.act ?_ e
  clear e
  try dsimp -zeta only
  repeat' first
    | with_reducible refine reshapeZone_frame ?_ (by with_unfolding_all rfl)
    | with_reducible apply Frame.refl
    | with_reducible assumption

theorem refuseWaiting_frame {k : Parts} {s t : State} {a0 : Nat}
    (h : Frame k s t) (hk : sub { hif := true } k = true) :
    Frame k s (refuseWaiting a0 t) := by
  refine Frame.step h (l := { hif := true }) ?_ hk
  clear h hk
  unfold refuseWaiting
  repeat' first
    | (extract_lets +onlyGivenNames -merge -underBinder x; first | (with_reducible refine Frame.cutTo (t := x) ?_ ?_; rotate_left; (try clear_value x); rename _ => y; intro hx; rotate_left; clear_value (hh : x = _); subst hh) | (have hq : ∀ a, Frame {} t (x a) → True := fun _ _ => trivial; clear hq; rename _ => y) | (have hq : ∀ a b, Frame {} t (x a b) → True := fun _ _ _ => trivial; clear hq; rename _ => y) | (clear_value x; rename _ => y) | (have hq := x; clear hq; rename _ => y))
    | with_reducible refine complete_frame ?_ (by with_unfolding_all rfl)
    | with_reducible apply Frame.foldl
    | with_reducible apply Frame.refl
    | with_reducible assumption
    | intro _ _ _
    | intro _ _

theorem convertStop_frame {k : Parts} {s t : State} {a0 : Nat} {a1 : Nat}
    (h : Frame k s t) (hk : sub { arr := true, hif := true } k = true) :
    Frame k s (convertStop a0 a1 t) := by
  refine Frame.step h (l := { arr := true, hif := true }) ?_ hk
  clear h hk
  unfold convertStop
  repeat' first
    | (extract_lets +onlyGivenNames -merge -underBinder x; first | (with_reducible refine Frame.cutTo (t := x) ?_ ?_; rotate_left; (try clear_value x); rename _ => y; intro hx; rotate_left; clear_value (hh : x = _); subst hh) | (clear_value x; rename _ => y) | (have hq := x; clear hq; rename _ => y))
    | with_reducible refine unlock_frame ?_ (by with_unfolding_all rfl)
    | with_reducible exact Frame.ofMk (by first | exact Frame.refl | assumption) frSame frSame frSame frSame frSame frSame frSame frSame frSame frSame frSame frSame frSame frSame frSame frSame frSame frMine frMine frSame rfl rfl rfl (.inr .refl) (.inr .refl)
    | with_reducible apply Frame.refl
    | with_reducible assumption

theorem formatConvert_frame {k : Parts} {s t : State} {a0 : Nat} {a1 : CopyFind}
    (h : Frame k s t) (hk : sub partsKick k = true) :
    Frame k s (formatConvert a0 a1 t) := by
  refine Frame.step h (l := partsKick) ?_ hk
  clear h hk
  unfold formatConvert
  repeat' first
    | (extract_lets +onlyGivenNames -merge -underBinder x; first | (with_reducible refine Frame.cutTo (t := x) ?_ ?_; rotate_left; (try clear_value x); rename _ => y; intro hx; rotate_left; clear_value (hh : x = _); subst hh) | (with_reducible refine Frame.cutTo (t := (Prod.snd x)) ?_ ?_; rotate_left; (try clear_value x); rename _ => y; intro hx; rotate_left; clear_value (hh : x = _); subst hh) | (clear_value x; rename _ => y) | (have hq := x; clear hq; rename _ => y))
    | split
    | with_reducible refine kick_frame ?_ (by with_unfolding_all rfl)
    | with_reducible refine refuseWaiting_frame ?_ (by with_unfolding_all rfl)
    | with_reducible refine copyAbandon_frame ?_ (by with_unfolding_all rfl)
    | with_reducible refine zoneLockIf_frame ?_ (by with_unfolding_all rfl)
    | with_reducible refine zoneLockIf_pair (by assumption) ?_ (by with_unfolding_all rfl)
    | with_reducible refine convertStop_frame ?_ (by with_unfolding_all rfl)
    | with_reducible refine dropStitch_frame ?_ (by with_unfolding_all rfl)
    | with_reducible refine formatCode_frame ?_ (by with_unfolding_all rfl)
    | with_reducible refine formatCode_pair (by assumption) ?_ (by with_unfolding_all rfl)
    | with_reducible refine zmap_frame ?_ (by with_unfolding_all rfl)
    | with_reducible refine Frame.getDMap ?_ (fun _ => ?_)
    | with_reducible apply Frame.getD
    | with_reducible apply Frame.ite
    | with_reducible exact Frame.ofMk (by first | exact Frame.refl | assumption | exact zoneLockIf_pair (by assumption) (by first | exact Frame.refl | assumption | exact zoneLockIf_pair (by assumption) (by first | exact Frame.refl | assumption) (by with_unfolding_all rfl) | exact formatCode_pair (by assumption) (by first | exact Frame.refl | assumption) (by with_unfolding_all rfl)) (by with_unfolding_all rfl) | exact formatCode_pair (by assumption) (by first | exact Frame.refl | assumption | exact zoneLockIf_pair (by assumption) (by first | exact Frame.refl | assumption) (by with_unfolding_all rfl) | exact formatCode_pair (by assumption) (by first | exact Frame.refl | assumption) (by with_unfolding_all rfl)) (by with_unfolding_all rfl)) frSame frSame frSame frSame frSame frSame frSame frSame frSame frMine frSame frMine frSame frSame frSame frSame frMine frMine frMine frMine rfl rfl rfl (.inr .refl) (.inr .refl)
    | with_reducible apply Frame.refl
    | with_reducible assumption
    | intro _ _ _
    | intro _ _
    | split

theorem execFormatConversion_frame {s t : State} {a0 : Nat} {a1 : CopyFind} (e : execFormatConversion a0 a1 s = .next t) :
    Frame partsKick s t := by
  unfold execFormatConversion at e
  refine Frame.act ?_ e
  clear e
  try dsimp -zeta only
  repeat' first
    | with_reducible refine formatConvert_frame ?_ (by with_unfolding_all rfl)
    | with_reducible apply Frame.refl
    | with_reducible assumption

theorem scrubRow_frame {k : Parts} {s t : State} {a0 : Nat} {a1 : Nat} {a2 : ScrubFind}
    (h : Frame k s t) (hk : sub partsEngineFaultW k = true) :
    Frame k s (scrubRow a0 a1 a2 t) := by
  refine Frame.step h (l := partsEngineFaultW) ?_ hk
  clear h hk
  unfold scrubRow
  repeat' first
    | (extract_lets +onlyGivenNames -merge -underBinder x; first | (with_reducible refine Frame.cutTo (t := x) ?_ ?_; rotate_left; (try clear_value x); rename _ => y; intro hx; rotate_left; clear_value (hh : x = _); subst hh) | (have hq : Flt := x; clear hq; rename _ => y) | (have hq : Sys := x; clear hq; rename _ => y) | (clear_value x; rename _ => y) | (have hq := x; clear hq; rename _ => y))
    | with_reducible refine speEvent_frame ?_ (by with_unfolding_all rfl)
    | with_reducible refine historyNote_frame ?_ (by with_unfolding_all rfl)
    | with_reducible refine addLost_frame ?_ (by with_unfolding_all rfl)
    | with_reducible apply Frame.ite
    | with_reducible exact Frame.ofMk (by first | exact Frame.refl | assumption) frMine frMine frSame frSame frMine frMine frMine frSame frMine frMine frMine frSame frMine frMine frMine frMine frMine frMine frMine frSame rfl rfl rfl (by first | exact .inr .refl | exact .inr ⟨rfl, rfl, rfl, rfl, id⟩ | exact .inr ⟨rfl, rfl, rfl, rfl, fun _ => rfl⟩ | exact .inr (.ite ⟨rfl, rfl, rfl, rfl, id⟩ ⟨rfl, rfl, rfl, rfl, id⟩)) (by first | exact .inr .refl | exact .inr ⟨rfl, rfl, rfl, rfl⟩ | exact .inr (addFaultRecord_binds _ _) | with_unfolding_all exact .inr ⟨rfl, rfl, rfl, rfl⟩)
    | with_reducible apply Frame.refl
    | with_reducible assumption
    | split

theorem execScrubRow_frame {s t : State} {a0 : Nat} {a1 : Nat} {a2 : ScrubFind} (e : execScrubRow a0 a1 a2 s = .next t) :
    Frame partsEngineFaultW s t := by
  unfold execScrubRow at e
  refine Frame.act ?_ e
  clear e
  try dsimp -zeta only
  repeat' first
    | with_reducible refine scrubRow_frame ?_ (by with_unfolding_all rfl)
    | with_reducible apply Frame.refl
    | with_reducible assumption

end Sys2Proof.Laws
end

