-- ==== Sys2Proof/Laws/Frames/Security.lean ====
section
/-!
SUPPORT. The frames of the operations of Machine/Security.lean: the parts each may change.
-/
namespace Sys2Proof.Laws
open Sys2Proof Sys2Proof.Machine

set_option linter.all false
set_option Elab.async false

theorem setOpal_frame {k : Parts} {s t : State} {a0 : Opal}
    (h : Frame k s t) (hk : sub { host := true } k = true) :
    Frame k s (setOpal a0 t) := by
  refine Frame.step h (l := { host := true }) ?_ hk
  clear h hk
  unfold setOpal
  repeat' first
    | (extract_lets +onlyGivenNames -merge -underBinder x; first | (with_reducible refine Frame.cutTo (t := x) ?_ ?_; rotate_left; (try clear_value x); rename _ => y; intro hx; rotate_left; clear_value (hh : x = _); subst hh) | (clear_value x; rename _ => y) | (have hq := x; clear hq; rename _ => y))
    | with_reducible exact Frame.ofMk (by first | exact Frame.refl | assumption) frSame frSame frSame frSame frSame frSame frSame frSame frSame frSame frSame frSame frSame frSame frSame frSame frSame frSame frSame frMine rfl rfl rfl (.inr .refl) (.inr .refl)
    | with_reducible apply Frame.refl
    | with_reducible assumption

theorem formatCmd_frame {k : Parts} {s t : State} {a0 : Nat} {a1 : Nat} {a2 : Nat} {a3 : Nat} {a4 : Nat} {a5 : Nat}
    (h : Frame k s t) (hk : sub partsKick k = true) :
    Frame k s (formatCmd a0 a1 a2 a3 a4 a5 t) := by
  refine Frame.step h (l := partsKick) ?_ hk
  clear h hk
  unfold formatCmd
  repeat' first
    | with_reducible refine refuse_frame ?_ (by with_unfolding_all rfl)
    | with_reducible refine kick_frame ?_ (by with_unfolding_all rfl)
    | with_reducible refine eraseStart_frame ?_ (by with_unfolding_all rfl)
    | with_reducible apply Frame.ite
    | with_reducible apply Frame.refl
    | with_reducible assumption
    | split

theorem execFormatNvm_frame {s t : State} {a0 : CtlIx} {a1 : Nat} {a2 : Nat} {a3 : Nat} {a4 : Nat} (e : execFormatNvm a0 a1 a2 a3 a4 s = .next t) :
    Frame partsKick s t := by
  unfold execFormatNvm at e
  refine Frame.act ?_ e
  clear e
  try dsimp -zeta only
  repeat' first
    | with_reducible refine adminRun_frame ?_ ?_ (by with_unfolding_all rfl)
    | with_reducible refine formatCmd_frame ?_ (by with_unfolding_all rfl)
    | with_reducible apply Frame.refl
    | with_reducible assumption
    | intro _ _ _
    | intro _ _

theorem sanitizeCmd_frame {k : Parts} {s t : State} {a0 : Nat} {a1 : Bool} {a2 : Nat}
    (h : Frame k s t) (hk : sub partsKick k = true) :
    Frame k s (sanitizeCmd a0 a1 a2 t) := by
  refine Frame.step h (l := partsKick) ?_ hk
  clear h hk
  unfold sanitizeCmd
  repeat' first
    | with_reducible refine kick_frame ?_ (by with_unfolding_all rfl)
    | with_reducible refine eraseStart_frame ?_ (by with_unfolding_all rfl)
    | with_reducible apply Frame.refl
    | with_reducible assumption

theorem execSanitizeCryptoErase_frame {s t : State} {a0 : CtlIx} (e : execSanitizeCryptoErase a0 s = .next t) :
    Frame partsKick s t := by
  unfold execSanitizeCryptoErase at e
  refine Frame.act ?_ e
  clear e
  try dsimp -zeta only
  repeat' first
    | with_reducible refine adminRun_frame ?_ ?_ (by with_unfolding_all rfl)
    | with_reducible refine sanitizeCmd_frame ?_ (by with_unfolding_all rfl)
    | with_reducible apply Frame.refl
    | with_reducible assumption
    | intro _ _ _
    | intro _ _

theorem execSanitizeBlockErase_frame {s t : State} {a0 : CtlIx} (e : execSanitizeBlockErase a0 s = .next t) :
    Frame partsKick s t := by
  unfold execSanitizeBlockErase at e
  refine Frame.act ?_ e
  clear e
  try dsimp -zeta only
  repeat' first
    | with_reducible refine adminRun_frame ?_ ?_ (by with_unfolding_all rfl)
    | with_reducible refine sanitizeCmd_frame ?_ (by with_unfolding_all rfl)
    | with_reducible apply Frame.refl
    | with_reducible assumption
    | intro _ _ _
    | intro _ _

theorem genKey_frame {k : Parts} {s t : State} {a0 : Fin 16}
    (h : Frame k s t) (hk : sub partsEraseDo k = true) :
    Frame k s (genKey a0 t) := by
  refine Frame.step h (l := partsEraseDo) ?_ hk
  clear h hk
  unfold genKey
  repeat' first
    | (extract_lets +onlyGivenNames -merge -underBinder x; first | (with_reducible refine Frame.cutTo (t := x) ?_ ?_; rotate_left; (try clear_value x); rename _ => y; intro hx; rotate_left; clear_value (hh : x = _); subst hh) | (clear_value x; rename _ => y) | (have hq := x; clear hq; rename _ => y))
    | with_reducible refine eraseZone_frame ?_ (by with_unfolding_all rfl)
    | with_reducible refine setOpal_frame ?_ (by with_unfolding_all rfl)
    | with_reducible apply Frame.foldl
    | with_reducible exact Frame.ofMk (by first | exact Frame.refl | assumption) frSame frSame frSame frSame frSame frSame frSame frSame frSame frSame frSame frMine frSame frSame frSame frSame frMine frMine frMine frMine rfl rfl rfl (.inr .refl) (.inr .refl)
    | with_reducible apply Frame.refl
    | with_reducible assumption
    | intro _ _ _
    | intro _ _

theorem opalRevert_frame {k : Parts} {s t : State} 
    (h : Frame k s t) (hk : sub partsEraseDo k = true) :
    Frame k s (opalRevert t) := by
  refine Frame.step h (l := partsEraseDo) ?_ hk
  clear h hk
  unfold opalRevert
  repeat' first
    | (extract_lets +onlyGivenNames -merge -underBinder x; first | (with_reducible refine Frame.cutTo (t := x) ?_ ?_; rotate_left; (try clear_value x); rename _ => y; intro hx; rotate_left; clear_value (hh : x = _); subst hh) | (clear_value x; rename _ => y) | (have hq := x; clear hq; rename _ => y))
    | with_reducible refine eraseSpaces_frame ?_ (by with_unfolding_all rfl)
    | with_reducible refine cryptoErase_frame ?_ (by with_unfolding_all rfl)
    | with_reducible refine setOpal_frame ?_ (by with_unfolding_all rfl)
    | with_reducible exact Frame.ofMk (by first | exact Frame.refl | assumption) frSame frSame frSame frSame frSame frSame frSame frSame frSame frSame frSame frMine frSame frSame frSame frSame frMine frMine frMine frMine rfl rfl rfl (.inr .refl) (.inr .refl)
    | with_reducible apply Frame.refl
    | with_reducible assumption

theorem opalMethod_frame {k : Parts} {s t : State} {a0 : OpalMethod}
    (h : Frame k s t) (hk : sub partsEraseDo k = true) :
    Frame k s (opalMethod a0 t) := by
  refine Frame.step h (l := partsEraseDo) ?_ hk
  clear h hk
  unfold opalMethod
  repeat' first
    | (extract_lets +onlyGivenNames -merge -underBinder x; first | (with_reducible refine Frame.cutTo (t := x) ?_ ?_; rotate_left; (try clear_value x); rename _ => y; intro hx; rotate_left; clear_value (hh : x = _); subst hh) | (clear_value x; rename _ => y) | (have hq := x; clear hq; rename _ => y))
    | with_reducible refine setOpal_frame ?_ (by with_unfolding_all rfl)
    | with_reducible refine opalRevert_frame ?_ (by with_unfolding_all rfl)
    | with_reducible refine genKey_frame ?_ (by with_unfolding_all rfl)
    | with_reducible apply Frame.ite
    | with_reducible exact Frame.ofMk (by first | exact Frame.refl | assumption) frSame frSame frSame frSame frSame frSame frSame frSame frSame frSame frSame frMine frSame frSame frSame frSame frMine frMine frMine frMine rfl rfl rfl (.inr .refl) (.inr .refl)
    | with_reducible apply Frame.refl
    | with_reducible assumption
    | split

theorem securitySendCmd_frame {k : Parts} {s t : State} {a0 : Nat} {a1 : OpalMethod} {a2 : Nat}
    (h : Frame k s t) (hk : sub partsKick k = true) :
    Frame k s (securitySendCmd a0 a1 a2 t) := by
  refine Frame.step h (l := partsKick) ?_ hk
  clear h hk
  unfold securitySendCmd
  repeat' first
    | with_reducible refine kick_frame ?_ (by with_unfolding_all rfl)
    | with_reducible refine done_frame ?_ (by with_unfolding_all rfl)
    | with_reducible refine opalMethod_frame ?_ (by with_unfolding_all rfl)
    | with_reducible apply Frame.refl
    | with_reducible assumption

theorem execSecuritySend_frame {s t : State} {a0 : CtlIx} {a1 : OpalMethod} (e : execSecuritySend a0 a1 s = .next t) :
    Frame partsKick s t := by
  unfold execSecuritySend at e
  refine Frame.act ?_ e
  clear e
  try dsimp -zeta only
  repeat' first
    | with_reducible refine adminRun_frame ?_ ?_ (by with_unfolding_all rfl)
    | with_reducible refine securitySendCmd_frame ?_ (by with_unfolding_all rfl)
    | with_reducible apply Frame.refl
    | with_reducible assumption
    | intro _ _ _
    | intro _ _

theorem securityReceiveCmd_frame {k : Parts} {s t : State} {a0 : Nat} {a1 : Nat}
    (h : Frame k s t) (hk : sub { hif := true, free := true } k = true) :
    Frame k s (securityReceiveCmd a0 a1 t) := by
  refine Frame.step h (l := { hif := true, free := true }) ?_ hk
  clear h hk
  unfold securityReceiveCmd
  repeat' first
    | (extract_lets +onlyGivenNames -merge -underBinder x; first | (with_reducible refine Frame.cutTo (t := x) ?_ ?_; rotate_left; (try clear_value x); rename _ => y; intro hx; rotate_left; clear_value (hh : x = _); subst hh) | (with_reducible refine Frame.cutTo (t := (Prod.snd x)) ?_ ?_; rotate_left; (try clear_value x); rename _ => y; intro hx; rotate_left; clear_value (hh : x = _); subst hh) | (clear_value x; rename _ => y) | (have hq := x; clear hq; rename _ => y))
    | with_reducible refine openPage_frame ?_ (by with_unfolding_all rfl)
    | with_reducible refine openPage_pair (by assumption) ?_ (by with_unfolding_all rfl)
    | with_reducible refine complete_frame ?_ (by with_unfolding_all rfl)
    | with_reducible apply Frame.refl
    | with_reducible assumption

theorem execSecurityReceive_frame {s t : State} {a0 : CtlIx} {a1 : Bool} (e : execSecurityReceive a0 a1 s = .next t) :
    Frame { hif := true, free := true } s t := by
  unfold execSecurityReceive at e
  refine Frame.act ?_ e
  clear e
  try dsimp -zeta only
  repeat' first
    | with_reducible refine adminServe_frame ?_ ?_ (by with_unfolding_all rfl)
    | with_reducible refine securityReceiveCmd_frame ?_ (by with_unfolding_all rfl)
    | with_reducible apply Frame.refl
    | with_reducible assumption
    | intro _ _ _
    | intro _ _

end Sys2Proof.Laws
end

