-- ==== Sys2Proof/Laws/Frames/Vendor.lean ====
section
/-!
SUPPORT. The frames of the operations of Machine/Vendor.lean: the parts each may change.
-/
namespace Sys2Proof.Laws
open Sys2Proof Sys2Proof.Machine

set_option linter.all false
set_option Elab.async false

theorem surfaceOn_frame {k : Parts} {s t : State} {a0 : Nat} {a1 : Nat} {a2 : Nat} {a3 : Nat} {a4 : Fin 24 → State → State} (hf : ∀ i v, Frame k s v → Frame k s (a4 i v))
    (h : Frame k s t) (hk : sub { hif := true } k = true) :
    Frame k s (surfaceOn a0 a1 a2 a3 a4 t) := by
  have gen : ∀ (x : State), True := fun _ => trivial
  clear gen
  unfold surfaceOn
  repeat' first
    | (extract_lets +onlyGivenNames -merge -underBinder x; first | (with_reducible refine Frame.cutTo (t := x) ?_ ?_; rotate_left; (try clear_value x); rename _ => y; intro hx; rotate_left; clear_value (hh : x = _); subst hh) | (clear_value x; rename _ => y) | (have hq := x; clear hq; rename _ => y))
    | with_reducible refine refuse_frame ?_ (sub_trans (by with_unfolding_all rfl) hk)
    | with_reducible refine hf _ _ ?_
    | with_reducible apply Frame.ite
    | with_reducible assumption
    | split

theorem whenDurable_frame {k : Parts} {s t : State} {a0 : Nat} {a1 : Nat} {a2 : Nat} {a3 : Nat}
    (h : Frame k s t) (hk : sub { hif := true, host := true } k = true) :
    Frame k s (whenDurable a0 a1 a2 a3 t) := by
  refine Frame.step h (l := { hif := true, host := true }) ?_ hk
  clear h hk
  unfold whenDurable
  repeat' first
    | (extract_lets +onlyGivenNames -merge -underBinder x; first | (with_reducible refine Frame.cutTo (t := x) ?_ ?_; rotate_left; (try clear_value x); rename _ => y; intro hx; rotate_left; clear_value (hh : x = _); subst hh) | (clear_value x; rename _ => y) | (have hq := x; clear hq; rename _ => y))
    | with_reducible refine settleWaits_frame ?_ (by with_unfolding_all rfl)
    | with_reducible exact Frame.ofMk (by first | exact Frame.refl | assumption) frSame frSame frSame frSame frSame frSame frSame frSame frSame frSame frSame frSame frSame frSame frSame frSame frSame frSame frMine frMine rfl rfl rfl (.inr .refl) (.inr .refl)
    | with_reducible apply Frame.refl
    | with_reducible assumption

theorem declareDead_frame {k : Parts} {s t : State} {a0 : Nat} {a1 : Nat} {a2 : Bool} {a3 : Nat} {a4 : Nat}
    (h : Frame k s t) (hk : sub partsYarnHeadLost k = true) :
    Frame k s (declareDead a0 a1 a2 a3 a4 t) := by
  refine Frame.step h (l := partsYarnHeadLost) ?_ hk
  clear h hk
  unfold declareDead
  repeat' first
    | (extract_lets +onlyGivenNames -merge -underBinder x; first | (with_reducible refine Frame.cutTo (t := x) ?_ ?_; rotate_left; (try clear_value x); rename _ => y; intro hx; rotate_left; clear_value (hh : x = _); subst hh) | (have hq : Flt := x; clear hq; rename _ => y) | (have hq : Sys := x; clear hq; rename _ => y) | (clear_value x; rename _ => y) | (have hq := x; clear hq; rename _ => y))
    | with_reducible refine surfaceOn_frame ?_ ?_ (by with_unfolding_all rfl)
    | with_reducible refine refuse_frame ?_ (by with_unfolding_all rfl)
    | with_reducible refine fence_frame ?_ (by with_unfolding_all rfl)
    | with_reducible refine kick_frame ?_ (by with_unfolding_all rfl)
    | with_reducible refine whenDurable_frame ?_ (by with_unfolding_all rfl)
    | with_reducible apply Frame.ite
    | with_reducible apply Frame.refl
    | with_reducible assumption
    | intro _ _ _
    | intro _ _
    | split

theorem execDeclareDead_frame {s t : State} {a0 : CtlIx} {a1 : Nat} {a2 : Bool} {a3 : Nat} (e : execDeclareDead a0 a1 a2 a3 s = .next t) :
    Frame partsYarnHeadLost s t := by
  unfold execDeclareDead at e
  refine Frame.act ?_ e
  clear e
  try dsimp -zeta only
  repeat' first
    | with_reducible refine adminRun_frame ?_ ?_ (by with_unfolding_all rfl)
    | with_reducible refine declareDead_frame ?_ (by with_unfolding_all rfl)
    | with_reducible apply Frame.refl
    | with_reducible assumption
    | intro _ _ _
    | intro _ _

theorem requalify_frame {k : Parts} {s t : State} {a0 : Nat} {a1 : Nat} {a2 : Nat} {a3 : Nat}
    (h : Frame k s t) (hk : sub partsRequalify k = true) :
    Frame k s (requalify a0 a1 a2 a3 t) := by
  refine Frame.step h (l := partsRequalify) ?_ hk
  clear h hk
  unfold requalify
  repeat' first
    | (extract_lets +onlyGivenNames -merge -underBinder x; first | (with_reducible refine Frame.cutTo (t := x) ?_ ?_; rotate_left; (try clear_value x); rename _ => y; intro hx; rotate_left; clear_value (hh : x = _); subst hh) | (clear_value x; rename _ => y) | (have hq := x; clear hq; rename _ => y))
    | with_reducible refine surfaceOn_frame ?_ ?_ (by with_unfolding_all rfl)
    | with_reducible refine refuse_frame ?_ (by with_unfolding_all rfl)
    | with_reducible refine memberChange_frame ?_ (by with_unfolding_all rfl)
    | with_reducible refine setMember_frame ?_ (by with_unfolding_all rfl)
    | with_reducible refine whenDurable_frame ?_ (by with_unfolding_all rfl)
    | with_reducible apply Frame.ite
    | with_reducible exact Frame.ofMk (by first | exact Frame.refl | assumption) frSame frSame frSame frSame frSame frSame frSame frSame frSame frSame frSame frSame frSame frSame frSame frSame frMine frMine frMine frMine rfl rfl rfl (.inr .refl) (.inr .refl)
    | with_reducible apply Frame.refl
    | with_reducible assumption
    | intro _ _ _
    | intro _ _
    | split

theorem execRequalify_frame {s t : State} {a0 : CtlIx} {a1 : Nat} {a2 : Nat} (e : execRequalify a0 a1 a2 s = .next t) :
    Frame partsRequalify s t := by
  unfold execRequalify at e
  refine Frame.act ?_ e
  clear e
  try dsimp -zeta only
  repeat' first
    | with_reducible refine adminRun_frame ?_ ?_ (by with_unfolding_all rfl)
    | with_reducible refine requalify_frame ?_ (by with_unfolding_all rfl)
    | with_reducible apply Frame.refl
    | with_reducible assumption
    | intro _ _ _
    | intro _ _

theorem readmit_frame {k : Parts} {s t : State} {a0 : Nat} {a1 : Nat} {a2 : Nat} {a3 : Nat}
    (h : Frame k s t) (hk : sub partsRequalify k = true) :
    Frame k s (readmit a0 a1 a2 a3 t) := by
  refine Frame.step h (l := partsRequalify) ?_ hk
  clear h hk
  unfold readmit
  repeat' first
    | (extract_lets +onlyGivenNames -merge -underBinder x; first | (with_reducible refine Frame.cutTo (t := x) ?_ ?_; rotate_left; (try clear_value x); rename _ => y; intro hx; rotate_left; clear_value (hh : x = _); subst hh) | (clear_value x; rename _ => y) | (have hq := x; clear hq; rename _ => y))
    | with_reducible refine surfaceOn_frame ?_ ?_ (by with_unfolding_all rfl)
    | with_reducible refine refuse_frame ?_ (by with_unfolding_all rfl)
    | with_reducible refine memberChange_frame ?_ (by with_unfolding_all rfl)
    | with_reducible refine setMember_frame ?_ (by with_unfolding_all rfl)
    | with_reducible refine whenDurable_frame ?_ (by with_unfolding_all rfl)
    | with_reducible apply Frame.ite
    | with_reducible exact Frame.ofMk (by first | exact Frame.refl | assumption) frSame frSame frSame frSame frSame frSame frSame frSame frSame frSame frSame frSame frSame frSame frSame frSame frMine frMine frMine frMine rfl rfl rfl (.inr .refl) (.inr .refl)
    | with_reducible apply Frame.refl
    | with_reducible assumption
    | intro _ _ _
    | intro _ _
    | split

theorem execReadmitAsSpare_frame {s t : State} {a0 : CtlIx} {a1 : Nat} {a2 : Nat} (e : execReadmitAsSpare a0 a1 a2 s = .next t) :
    Frame partsRequalify s t := by
  unfold execReadmitAsSpare at e
  refine Frame.act ?_ e
  clear e
  try dsimp -zeta only
  repeat' first
    | with_reducible refine adminRun_frame ?_ ?_ (by with_unfolding_all rfl)
    | with_reducible refine readmit_frame ?_ (by with_unfolding_all rfl)
    | with_reducible apply Frame.refl
    | with_reducible assumption
    | intro _ _ _
    | intro _ _

theorem scrubPeriod_frame {k : Parts} {s t : State} {a0 : Nat} {a1 : Nat} {a2 : Nat} {a3 : Nat} {a4 : Nat}
    (h : Frame k s t) (hk : sub { arr := true, hif := true } k = true) :
    Frame k s (scrubPeriod a0 a1 a2 a3 a4 t) := by
  refine Frame.step h (l := { arr := true, hif := true }) ?_ hk
  clear h hk
  unfold scrubPeriod
  repeat' first
    | (extract_lets +onlyGivenNames -merge -underBinder x; first | (with_reducible refine Frame.cutTo (t := x) ?_ ?_; rotate_left; (try clear_value x); rename _ => y; intro hx; rotate_left; clear_value (hh : x = _); subst hh) | (clear_value x; rename _ => y) | (have hq := x; clear hq; rename _ => y))
    | with_reducible refine surfaceOn_frame ?_ ?_ (by with_unfolding_all rfl)
    | with_reducible refine refuse_frame ?_ (by with_unfolding_all rfl)
    | with_reducible refine noteChange_frame ?_ (by with_unfolding_all rfl)
    | with_reducible refine setMember_frame ?_ (by with_unfolding_all rfl)
    | with_reducible refine complete_frame ?_ (by with_unfolding_all rfl)
    | with_reducible apply Frame.ite
    | with_reducible exact Frame.ofMk (by first | exact Frame.refl | assumption) frSame frSame frSame frSame frSame frSame frSame frSame frSame frSame frSame frSame frSame frSame frSame frSame frSame frMine frMine frSame rfl rfl rfl (.inr .refl) (.inr .refl)
    | with_reducible apply Frame.refl
    | with_reducible assumption
    | intro _ _ _
    | intro _ _
    | split

theorem execSetScrubPeriod_frame {s t : State} {a0 : CtlIx} {a1 : Nat} {a2 : Nat} {a3 : Nat} (e : execSetScrubPeriod a0 a1 a2 a3 s = .next t) :
    Frame { arr := true, hif := true } s t := by
  unfold execSetScrubPeriod at e
  refine Frame.act ?_ e
  clear e
  try dsimp -zeta only
  repeat' first
    | with_reducible refine adminRun_frame ?_ ?_ (by with_unfolding_all rfl)
    | with_reducible refine scrubPeriod_frame ?_ (by with_unfolding_all rfl)
    | with_reducible apply Frame.refl
    | with_reducible assumption
    | intro _ _ _
    | intro _ _

theorem surfaceQueryCmd_frame {k : Parts} {s t : State} {a0 : Nat} {a1 : Nat} {a2 : Nat}
    (h : Frame k s t) (hk : sub { hif := true, free := true } k = true) :
    Frame k s (surfaceQueryCmd a0 a1 a2 t) := by
  refine Frame.step h (l := { hif := true, free := true }) ?_ hk
  clear h hk
  unfold surfaceQueryCmd
  repeat' first
    | (extract_lets +onlyGivenNames -merge -underBinder x; first | (with_reducible refine Frame.cutTo (t := x) ?_ ?_; rotate_left; (try clear_value x); rename _ => y; intro hx; rotate_left; clear_value (hh : x = _); subst hh) | (with_reducible refine Frame.cutTo (t := (Prod.snd x)) ?_ ?_; rotate_left; (try clear_value x); rename _ => y; intro hx; rotate_left; clear_value (hh : x = _); subst hh) | (clear_value x; rename _ => y) | (have hq := x; clear hq; rename _ => y))
    | with_reducible refine refuse_frame ?_ (by with_unfolding_all rfl)
    | with_reducible refine surfacePage_frame ?_ (by with_unfolding_all rfl)
    | with_reducible refine surfacePage_pair (by assumption) ?_ (by with_unfolding_all rfl)
    | with_reducible refine complete_frame ?_ (by with_unfolding_all rfl)
    | with_reducible apply Frame.ite
    | with_reducible apply Frame.refl
    | with_reducible assumption
    | split

theorem execSurfaceQuery_frame {s t : State} {a0 : CtlIx} {a1 : Nat} (e : execSurfaceQuery a0 a1 s = .next t) :
    Frame { hif := true, free := true } s t := by
  unfold execSurfaceQuery at e
  refine Frame.act ?_ e
  clear e
  try dsimp -zeta only
  repeat' first
    | with_reducible refine adminRun_frame ?_ ?_ (by with_unfolding_all rfl)
    | with_reducible refine surfaceQueryCmd_frame ?_ (by with_unfolding_all rfl)
    | with_reducible apply Frame.refl
    | with_reducible assumption
    | intro _ _ _
    | intro _ _

theorem reshapeStart_frame {k : Parts} {s t : State} {a0 : Nat} {a1 : Nat} {a2 : Nat} {a3 : Nat} {a4 : Nat} {a5 : Nat} {a6 : Nat}
    (h : Frame k s t) (hk : sub partsRequalify k = true) :
    Frame k s (reshapeStart a0 a1 a2 a3 a4 a5 a6 t) := by
  refine Frame.step h (l := partsRequalify) ?_ hk
  clear h hk
  unfold reshapeStart
  repeat' first
    | (extract_lets +onlyGivenNames -merge -underBinder x; first | (with_reducible refine Frame.cutTo (t := x) ?_ ?_; rotate_left; (try clear_value x); rename _ => y; intro hx; rotate_left; clear_value (hh : x = _); subst hh) | (clear_value x; rename _ => y) | (have hq := x; clear hq; rename _ => y))
    | with_reducible refine refuse_frame ?_ (by with_unfolding_all rfl)
    | with_reducible refine zmap_frame ?_ (by with_unfolding_all rfl)
    | with_reducible refine whenDurable_frame ?_ (by with_unfolding_all rfl)
    | with_reducible refine noteChange_frame ?_ (by with_unfolding_all rfl)
    | with_reducible apply Frame.ite
    | with_reducible exact Frame.ofMk (by first | exact Frame.refl | assumption) frSame frSame frSame frSame frSame frSame frSame frSame frSame frSame frSame frSame frSame frSame frSame frSame frMine frMine frMine frMine rfl rfl rfl (.inr .refl) (.inr .refl)
    | with_reducible apply Frame.refl
    | with_reducible assumption
    | split

theorem execReshapeStart_frame {s t : State} {a0 : CtlIx} {a1 : Nat} {a2 : Nat} {a3 : Nat} {a4 : Nat} {a5 : Nat} (e : execReshapeStart a0 a1 a2 a3 a4 a5 s = .next t) :
    Frame partsRequalify s t := by
  unfold execReshapeStart at e
  refine Frame.act ?_ e
  clear e
  try dsimp -zeta only
  repeat' first
    | with_reducible refine adminRun_frame ?_ ?_ (by with_unfolding_all rfl)
    | with_reducible refine reshapeStart_frame ?_ (by with_unfolding_all rfl)
    | with_reducible apply Frame.refl
    | with_reducible assumption
    | intro _ _ _
    | intro _ _

theorem recorderReadCmd_frame {k : Parts} {s t : State} {a0 : Nat} {a1 : Nat} {a2 : Bool} {a3 : Nat}
    (h : Frame k s t) (hk : sub { stc := true, hif := true } k = true) :
    Frame k s (recorderReadCmd a0 a1 a2 a3 t) := by
  refine Frame.step h (l := { stc := true, hif := true }) ?_ hk
  clear h hk
  unfold recorderReadCmd
  repeat' first
    | (extract_lets +onlyGivenNames -merge -underBinder x; first | (with_reducible refine Frame.cutTo (t := x) ?_ ?_; rotate_left; (try clear_value x); rename _ => y; intro hx; rotate_left; clear_value (hh : x = _); subst hh) | (with_reducible refine Frame.cutTo (t := (Prod.snd x)) ?_ ?_; rotate_left; (try clear_value x); rename _ => y; intro hx; rotate_left; clear_value (hh : x = _); subst hh) | (with_reducible refine Frame.cutTo (t := (Prod.snd (Prod.snd x) : State)) ?_ ?_; rotate_left; (try clear_value x); rename _ => y; intro hx; rotate_left; clear_value (hh : x = _); subst hh) | (clear_value x; rename _ => y) | (have hq := x; clear hq; rename _ => y))
    | with_reducible refine stcHostRead_frame ?_ (by with_unfolding_all rfl)
    | with_reducible refine stcHostRead_pair (by assumption) ?_ (by with_unfolding_all rfl)
    | with_reducible refine complete_frame ?_ (by with_unfolding_all rfl)
    | with_reducible apply Frame.refl
    | with_reducible assumption

theorem execRecorderRead_frame {s t : State} {a0 : CtlIx} {a1 : Fin 256} {a2 : Bool} (e : execRecorderRead a0 a1 a2 s = .next t) :
    Frame { stc := true, hif := true } s t := by
  unfold execRecorderRead at e
  refine Frame.act ?_ e
  clear e
  try dsimp -zeta only
  repeat' first
    | with_reducible refine adminRun_frame ?_ ?_ (by with_unfolding_all rfl)
    | with_reducible refine recorderReadCmd_frame ?_ (by with_unfolding_all rfl)
    | with_reducible apply Frame.refl
    | with_reducible assumption
    | intro _ _ _
    | intro _ _

theorem recorderClear_frame {k : Parts} {s t : State} {a0 : Nat} {a1 : Nat} {a2 : Nat}
    (h : Frame k s t) (hk : sub { stc := true, hif := true, host := true } k = true) :
    Frame k s (recorderClear a0 a1 a2 t) := by
  refine Frame.step h (l := { stc := true, hif := true, host := true }) ?_ hk
  clear h hk
  unfold recorderClear
  repeat' first
    | (extract_lets +onlyGivenNames -merge -underBinder x; first | (with_reducible refine Frame.cutTo (t := x) ?_ ?_; rotate_left; (try clear_value x); rename _ => y; intro hx; rotate_left; clear_value (hh : x = _); subst hh) | (clear_value x; rename _ => y) | (have hq := x; clear hq; rename _ => y))
    | with_reducible refine stcClear_frame ?_ (by with_unfolding_all rfl)
    | with_reducible refine refuse_frame ?_ (by with_unfolding_all rfl)
    | with_reducible apply Frame.ite
    | with_reducible exact Frame.ofMk (by first | exact Frame.refl | assumption) frSame frSame frSame frSame frSame frSame frSame frSame frSame frSame frSame frSame frSame frSame frSame frMine frSame frSame frMine frMine rfl rfl rfl (.inr .refl) (.inr .refl)
    | with_reducible apply Frame.refl
    | with_reducible assumption
    | split

theorem execRecorderClear_frame {s t : State} {a0 : CtlIx} {a1 : Fin 256} (e : execRecorderClear a0 a1 s = .next t) :
    Frame { stc := true, hif := true, host := true } s t := by
  unfold execRecorderClear at e
  refine Frame.act ?_ e
  clear e
  try dsimp -zeta only
  repeat' first
    | with_reducible refine adminRun_frame ?_ ?_ (by with_unfolding_all rfl)
    | with_reducible refine recorderClear_frame ?_ (by with_unfolding_all rfl)
    | with_reducible apply Frame.refl
    | with_reducible assumption
    | intro _ _ _
    | intro _ _

theorem calRequest_frame {k : Parts} {s t : State} {a0 : Nat} {a1 : Nat} {a2 : Nat} {a3 : Bool} {a4 : BitVec 5} {a5 : Nat}
    (h : Frame k s t) (hk : sub { arr := true, hif := true } k = true) :
    Frame k s (calRequest a0 a1 a2 a3 a4 a5 t) := by
  refine Frame.step h (l := { arr := true, hif := true }) ?_ hk
  clear h hk
  unfold calRequest
  repeat' first
    | (extract_lets +onlyGivenNames -merge -underBinder x; first | (with_reducible refine Frame.cutTo (t := x) ?_ ?_; rotate_left; (try clear_value x); rename _ => y; intro hx; rotate_left; clear_value (hh : x = _); subst hh) | (with_reducible refine Frame.cutTo (t := (Prod.snd x)) ?_ ?_; rotate_left; (try clear_value x); rename _ => y; intro hx; rotate_left; clear_value (hh : x = _); subst hh) | (clear_value x; rename _ => y) | (have hq := x; clear hq; rename _ => y))
    | with_reducible refine refuse_frame ?_ (by with_unfolding_all rfl)
    | with_reducible refine calAdd_frame ?_ (by with_unfolding_all rfl)
    | with_reducible refine calAdd_pair (by assumption) ?_ (by with_unfolding_all rfl)
    | with_reducible refine complete_frame ?_ (by with_unfolding_all rfl)
    | with_reducible apply Frame.ite
    | with_reducible apply Frame.refl
    | with_reducible assumption
    | split

theorem execCalibrationRequest_frame {s t : State} {a0 : CtlIx} {a1 : Nat} {a2 : Nat} {a3 : Bool} {a4 : BitVec 5} (e : execCalibrationRequest a0 a1 a2 a3 a4 s = .next t) :
    Frame { arr := true, hif := true } s t := by
  unfold execCalibrationRequest at e
  refine Frame.act ?_ e
  clear e
  try dsimp -zeta only
  repeat' first
    | with_reducible refine adminRun_frame ?_ ?_ (by with_unfolding_all rfl)
    | with_reducible refine calRequest_frame ?_ (by with_unfolding_all rfl)
    | with_reducible apply Frame.refl
    | with_reducible assumption
    | intro _ _ _
    | intro _ _

end Sys2Proof.Laws
end

