-- ==== Sys2Proof/Laws/Frames/Mi.lean ====
section
/-!
SUPPORT. The frames of the operations of Machine/Mi.lean: the parts each may change.
-/
namespace Sys2Proof.Laws
open Sys2Proof Sys2Proof.Machine

set_option linter.all false
set_option Elab.async false

theorem setMi_frame {k : Parts} {s t : State} {a0 : Mi}
    (h : Frame k s t) (hk : sub { host := true } k = true) :
    Frame k s (setMi a0 t) := by
  refine Frame.step h (l := { host := true }) ?_ hk
  clear h hk
  unfold setMi
  repeat' first
    | (extract_lets +onlyGivenNames -merge -underBinder x; first | (with_reducible refine Frame.cutTo (t := x) ?_ ?_; rotate_left; (try clear_value x); rename _ => y; intro hx; rotate_left; clear_value (hh : x = _); subst hh) | (clear_value x; rename _ => y) | (have hq := x; clear hq; rename _ => y))
    | with_reducible exact Frame.ofMk (by first | exact Frame.refl | assumption) frSame frSame frSame frSame frSame frSame frSame frSame frSame frSame frSame frSame frSame frSame frSame frSame frSame frSame frSame frMine rfl rfl rfl (.inr .refl) (.inr .refl)
    | with_reducible apply Frame.refl
    | with_reducible assumption

theorem miOpen_frame {k : Parts} {s t : State} {a0 : Nat}
    (h : Frame k s t) (hk : sub { free := true } k = true) :
    Frame k s (miOpen a0 t).2 := by
  refine Frame.step h (l := { free := true }) ?_ hk
  clear h hk
  unfold miOpen
  repeat' first
    | (extract_lets +onlyGivenNames -merge -underBinder x; first | (with_reducible refine Frame.cutTo (t := x) ?_ ?_; rotate_left; (try clear_value x); rename _ => y; intro hx; rotate_left; clear_value (hh : x = _); subst hh) | (with_reducible refine Frame.cutTo (t := (Prod.snd x)) ?_ ?_; rotate_left; (try clear_value x); rename _ => y; intro hx; rotate_left; clear_value (hh : x = _); subst hh) | (clear_value x; rename _ => y) | (have hq := x; clear hq; rename _ => y))
    | with_reducible refine freeWords_frame ?_ (by with_unfolding_all rfl)
    | with_reducible refine freeWords_pair (by assumption) ?_ (by with_unfolding_all rfl)
    | dsimp -zeta only
    | with_reducible apply Frame.refl
    | with_reducible assumption

theorem miOpen_pair {k : Parts} {s t : State} {a0 : Nat} {y : List Nat} {b : State} (e : miOpen a0 t = (y, b))
    (h : Frame k s t) (hk : sub { free := true } k = true) :
    Frame k s b := by
  have f := miOpen_frame (a0 := a0) h hk
  rw [e] at f; exact f

theorem miReadData_frame {k : Parts} {s t : State} {a0 : Nat}
    (h : Frame k s t) (hk : sub { free := true } k = true) :
    Frame k s (miReadData a0 t).2 := by
  refine Frame.step h (l := { free := true }) ?_ hk
  clear h hk
  unfold miReadData
  repeat' first
    | with_reducible refine miOpen_frame ?_ (by with_unfolding_all rfl)
    | with_reducible refine miOpen_pair (by assumption) ?_ (by with_unfolding_all rfl)
    | with_reducible apply Frame.ite
    | dsimp -zeta only
    | with_reducible apply Frame.refl
    | with_reducible assumption
    | split

theorem miReadData_pair {k : Parts} {s t : State} {a0 : Nat} {y : List Nat} {b : State} (e : miReadData a0 t = (y, b))
    (h : Frame k s t) (hk : sub { free := true } k = true) :
    Frame k s b := by
  have f := miReadData_frame (a0 := a0) h hk
  rw [e] at f; exact f

theorem miSubsystemPoll_frame {k : Parts} {s t : State} 
    (h : Frame k s t) (hk : sub { free := true } k = true) :
    Frame k s (miSubsystemPoll t).2 := by
  refine Frame.step h (l := { free := true }) ?_ hk
  clear h hk
  unfold miSubsystemPoll
  repeat' first
    | (extract_lets +onlyGivenNames -merge -underBinder x; first | (with_reducible refine Frame.cutTo (t := x) ?_ ?_; rotate_left; (try clear_value x); rename _ => y; intro hx; rotate_left; clear_value (hh : x = _); subst hh) | (with_reducible refine Frame.cutTo (t := (Prod.snd x)) ?_ ?_; rotate_left; (try clear_value x); rename _ => y; intro hx; rotate_left; clear_value (hh : x = _); subst hh) | (clear_value x; rename _ => y) | (have hq := x; clear hq; rename _ => y))
    | with_reducible refine freeWords_frame ?_ (by with_unfolding_all rfl)
    | with_reducible refine freeWords_pair (by assumption) ?_ (by with_unfolding_all rfl)
    | dsimp -zeta only
    | with_reducible apply Frame.refl
    | with_reducible assumption

theorem miSubsystemPoll_pair {k : Parts} {s t : State}  {y : List Nat} {b : State} (e : miSubsystemPoll t = (y, b))
    (h : Frame k s t) (hk : sub { free := true } k = true) :
    Frame k s b := by
  have f := miSubsystemPoll_frame  h hk
  rw [e] at f; exact f

theorem miControllerPoll_frame {k : Parts} {s t : State} {a0 : Nat}
    (h : Frame k s t) (hk : sub { free := true } k = true) :
    Frame k s (miControllerPoll a0 t).2 := by
  refine Frame.step h (l := { free := true }) ?_ hk
  clear h hk
  unfold miControllerPoll
  repeat' first
    | (extract_lets +onlyGivenNames -merge -underBinder x; first | (with_reducible refine Frame.cutTo (t := x) ?_ ?_; rotate_left; (try clear_value x); rename _ => y; intro hx; rotate_left; clear_value (hh : x = _); subst hh) | (with_reducible refine Frame.cutTo (t := (Prod.snd x)) ?_ ?_; rotate_left; (try clear_value x); rename _ => y; intro hx; rotate_left; clear_value (hh : x = _); subst hh) | (clear_value x; rename _ => y) | (have hq := x; clear hq; rename _ => y))
    | with_reducible refine freeWords_frame ?_ (by with_unfolding_all rfl)
    | with_reducible refine freeWords_pair (by assumption) ?_ (by with_unfolding_all rfl)
    | with_reducible apply Frame.ite
    | dsimp -zeta only
    | with_reducible apply Frame.refl
    | with_reducible assumption
    | split

theorem miControllerPoll_pair {k : Parts} {s t : State} {a0 : Nat} {y : List Nat} {b : State} (e : miControllerPoll a0 t = (y, b))
    (h : Frame k s t) (hk : sub { free := true } k = true) :
    Frame k s b := by
  have f := miControllerPoll_frame (a0 := a0) h hk
  rw [e] at f; exact f

theorem miConfigSet_frame {k : Parts} {s t : State} {a0 : Nat} {a1 : Nat}
    (h : Frame k s t) (hk : sub { host := true } k = true) :
    Frame k s (miConfigSet a0 a1 t).2 := by
  refine Frame.step h (l := { host := true }) ?_ hk
  clear h hk
  unfold miConfigSet
  repeat' first
    | (extract_lets +onlyGivenNames -merge -underBinder x; first | (with_reducible refine Frame.cutTo (t := x) ?_ ?_; rotate_left; (try clear_value x); rename _ => y; intro hx; rotate_left; clear_value (hh : x = _); subst hh) | (with_reducible refine Frame.cutTo (t := (Prod.snd x)) ?_ ?_; rotate_left; (try clear_value x); rename _ => y; intro hx; rotate_left; clear_value (hh : x = _); subst hh) | (clear_value x; rename _ => y) | (have hq := x; clear hq; rename _ => y))
    | with_reducible refine setMi_frame ?_ (by with_unfolding_all rfl)
    | with_reducible apply Frame.ite
    | with_reducible exact Frame.ofMk (by first | exact Frame.refl | assumption) frSame frSame frSame frSame frSame frSame frSame frSame frSame frSame frSame frSame frSame frSame frSame frSame frSame frSame frSame frMine rfl rfl rfl (.inr .refl) (.inr .refl)
    | dsimp -zeta only
    | with_reducible apply Frame.refl
    | with_reducible assumption
    | assumption
    | split

theorem miConfigSet_pair {k : Parts} {s t : State} {a0 : Nat} {a1 : Nat} {y : List Nat} {b : State} (e : miConfigSet a0 a1 t = (y, b))
    (h : Frame k s t) (hk : sub { host := true } k = true) :
    Frame k s b := by
  have f := miConfigSet_frame (a0 := a0) (a1 := a1) h hk
  rw [e] at f; exact f

theorem miConfigGet_frame {k : Parts} {s t : State} {a0 : Nat}
    (h : Frame k s t) (hk : sub {} k = true) :
    Frame k s (miConfigGet a0 t).2 := by
  refine Frame.step h (l := {}) ?_ hk
  clear h hk
  unfold miConfigGet
  repeat' first
    | with_reducible apply Frame.ite
    | dsimp -zeta only
    | with_reducible apply Frame.refl
    | with_reducible assumption
    | assumption
    | split

theorem miConfigGet_pair {k : Parts} {s t : State} {a0 : Nat} {y : List Nat} {b : State} (e : miConfigGet a0 t = (y, b))
    (h : Frame k s t) (hk : sub {} k = true) :
    Frame k s b := by
  have f := miConfigGet_frame (a0 := a0) h hk
  rw [e] at f; exact f

theorem miVpdRead_frame {k : Parts} {s t : State} {a0 : Nat} {a1 : Nat}
    (h : Frame k s t) (hk : sub {} k = true) :
    Frame k s (miVpdRead a0 a1 t).2 := by
  refine Frame.step h (l := {}) ?_ hk
  clear h hk
  unfold miVpdRead
  repeat' first
    | with_reducible apply Frame.ite
    | dsimp -zeta only
    | with_reducible apply Frame.refl
    | with_reducible assumption
    | split

theorem miVpdRead_pair {k : Parts} {s t : State} {a0 : Nat} {a1 : Nat} {y : List Nat} {b : State} (e : miVpdRead a0 a1 t = (y, b))
    (h : Frame k s t) (hk : sub {} k = true) :
    Frame k s b := by
  have f := miVpdRead_frame (a0 := a0) (a1 := a1) h hk
  rw [e] at f; exact f

theorem miVpdWrite_frame {k : Parts} {s t : State} {a0 : Nat} {a1 : List Byte}
    (h : Frame k s t) (hk : sub { host := true } k = true) :
    Frame k s (miVpdWrite a0 a1 t).2 := by
  refine Frame.step h (l := { host := true }) ?_ hk
  clear h hk
  unfold miVpdWrite
  repeat' first
    | (extract_lets +onlyGivenNames -merge -underBinder x; first | (with_reducible refine Frame.cutTo (t := x) ?_ ?_; rotate_left; (try clear_value x); rename _ => y; intro hx; rotate_left; clear_value (hh : x = _); subst hh) | (with_reducible refine Frame.cutTo (t := (Prod.snd x)) ?_ ?_; rotate_left; (try clear_value x); rename _ => y; intro hx; rotate_left; clear_value (hh : x = _); subst hh) | (clear_value x; rename _ => y) | (have hq := x; clear hq; rename _ => y))
    | with_reducible refine setMi_frame ?_ (by with_unfolding_all rfl)
    | with_reducible apply Frame.ite
    | with_reducible exact Frame.ofMk (by first | exact Frame.refl | assumption) frSame frSame frSame frSame frSame frSame frSame frSame frSame frSame frSame frSame frSame frSame frSame frSame frSame frSame frSame frMine rfl rfl rfl (.inr .refl) (.inr .refl)
    | dsimp -zeta only
    | with_reducible apply Frame.refl
    | with_reducible assumption
    | split

theorem miVpdWrite_pair {k : Parts} {s t : State} {a0 : Nat} {a1 : List Byte} {y : List Nat} {b : State} (e : miVpdWrite a0 a1 t = (y, b))
    (h : Frame k s t) (hk : sub { host := true } k = true) :
    Frame k s b := by
  have f := miVpdWrite_frame (a0 := a0) (a1 := a1) h hk
  rw [e] at f; exact f

theorem miReset_frame {k : Parts} {s t : State} 
    (h : Frame k s t) (hk : sub partsNextPs k = true) :
    Frame k s (miReset t).2 := by
  refine Frame.step h (l := partsNextPs) ?_ hk
  clear h hk
  unfold miReset
  repeat' first
    | with_reducible refine subsystemReset_frame ?_ (by with_unfolding_all rfl)
    | with_reducible apply Frame.ite
    | dsimp -zeta only
    | with_reducible apply Frame.refl
    | with_reducible assumption
    | split

theorem miReset_pair {k : Parts} {s t : State}  {y : List Nat} {b : State} (e : miReset t = (y, b))
    (h : Frame k s t) (hk : sub partsNextPs k = true) :
    Frame k s b := by
  have f := miReset_frame  h hk
  rw [e] at f; exact f

theorem miCommand_frame {k : Parts} {s t : State} {a0 : MiCmd}
    (h : Frame k s t) (hk : sub partsMiCommand k = true) :
    Frame k s (miCommand a0 t).2 := by
  refine Frame.step h (l := partsMiCommand) ?_ hk
  clear h hk
  unfold miCommand
  repeat' first
    | with_reducible refine miReadData_frame ?_ (by with_unfolding_all rfl)
    | with_reducible refine miReadData_pair (by assumption) ?_ (by with_unfolding_all rfl)
    | with_reducible refine miSubsystemPoll_frame ?_ (by with_unfolding_all rfl)
    | with_reducible refine miSubsystemPoll_pair (by assumption) ?_ (by with_unfolding_all rfl)
    | with_reducible refine miControllerPoll_frame ?_ (by with_unfolding_all rfl)
    | with_reducible refine miControllerPoll_pair (by assumption) ?_ (by with_unfolding_all rfl)
    | with_reducible refine miConfigSet_frame ?_ (by with_unfolding_all rfl)
    | with_reducible refine miConfigSet_pair (by assumption) ?_ (by with_unfolding_all rfl)
    | with_reducible refine miConfigGet_frame ?_ (by with_unfolding_all rfl)
    | with_reducible refine miConfigGet_pair (by assumption) ?_ (by with_unfolding_all rfl)
    | with_reducible refine miVpdRead_frame ?_ (by with_unfolding_all rfl)
    | with_reducible refine miVpdRead_pair (by assumption) ?_ (by with_unfolding_all rfl)
    | with_reducible refine miVpdWrite_frame ?_ (by with_unfolding_all rfl)
    | with_reducible refine miVpdWrite_pair (by assumption) ?_ (by with_unfolding_all rfl)
    | with_reducible refine miReset_frame ?_ (by with_unfolding_all rfl)
    | with_reducible refine miReset_pair (by assumption) ?_ (by with_unfolding_all rfl)
    | with_reducible exact Frame.ofMk (by first | exact Frame.refl | assumption | exact miReadData_pair (by assumption) (by first | exact Frame.refl | assumption | exact miReadData_pair (by assumption) (by first | exact Frame.refl | assumption) (by with_unfolding_all rfl) | exact miSubsystemPoll_pair (by assumption) (by first | exact Frame.refl | assumption) (by with_unfolding_all rfl) | exact miControllerPoll_pair (by assumption) (by first | exact Frame.refl | assumption) (by with_unfolding_all rfl) | exact miConfigSet_pair (by assumption) (by first | exact Frame.refl | assumption) (by with_unfolding_all rfl) | exact miConfigGet_pair (by assumption) (by first | exact Frame.refl | assumption) (by with_unfolding_all rfl) | exact miVpdRead_pair (by assumption) (by first | exact Frame.refl | assumption) (by with_unfolding_all rfl) | exact miVpdWrite_pair (by assumption) (by first | exact Frame.refl | assumption) (by with_unfolding_all rfl) | exact miReset_pair (by assumption) (by first | exact Frame.refl | assumption) (by with_unfolding_all rfl)) (by with_unfolding_all rfl) | exact miSubsystemPoll_pair (by assumption) (by first | exact Frame.refl | assumption | exact miReadData_pair (by assumption) (by first | exact Frame.refl | assumption) (by with_unfolding_all rfl) | exact miSubsystemPoll_pair (by assumption) (by first | exact Frame.refl | assumption) (by with_unfolding_all rfl) | exact miControllerPoll_pair (by assumption) (by first | exact Frame.refl | assumption) (by with_unfolding_all rfl) | exact miConfigSet_pair (by assumption) (by first | exact Frame.refl | assumption) (by with_unfolding_all rfl) | exact miConfigGet_pair (by assumption) (by first | exact Frame.refl | assumption) (by with_unfolding_all rfl) | exact miVpdRead_pair (by assumption) (by first | exact Frame.refl | assumption) (by with_unfolding_all rfl) | exact miVpdWrite_pair (by assumption) (by first | exact Frame.refl | assumption) (by with_unfolding_all rfl) | exact miReset_pair (by assumption) (by first | exact Frame.refl | assumption) (by with_unfolding_all rfl)) (by with_unfolding_all rfl) | exact miControllerPoll_pair (by assumption) (by first | exact Frame.refl | assumption | exact miReadData_pair (by assumption) (by first | exact Frame.refl | assumption) (by with_unfolding_all rfl) | exact miSubsystemPoll_pair (by assumption) (by first | exact Frame.refl | assumption) (by with_unfolding_all rfl) | exact miControllerPoll_pair (by assumption) (by first | exact Frame.refl | assumption) (by with_unfolding_all rfl) | exact miConfigSet_pair (by assumption) (by first | exact Frame.refl | assumption) (by with_unfolding_all rfl) | exact miConfigGet_pair (by assumption) (by first | exact Frame.refl | assumption) (by with_unfolding_all rfl) | exact miVpdRead_pair (by assumption) (by first | exact Frame.refl | assumption) (by with_unfolding_all rfl) | exact miVpdWrite_pair (by assumption) (by first | exact Frame.refl | assumption) (by with_unfolding_all rfl) | exact miReset_pair (by assumption) (by first | exact Frame.refl | assumption) (by with_unfolding_all rfl)) (by with_unfolding_all rfl) | exact miConfigSet_pair (by assumption) (by first | exact Frame.refl | assumption | exact miReadData_pair (by assumption) (by first | exact Frame.refl | assumption) (by with_unfolding_all rfl) | exact miSubsystemPoll_pair (by assumption) (by first | exact Frame.refl | assumption) (by with_unfolding_all rfl) | exact miControllerPoll_pair (by assumption) (by first | exact Frame.refl | assumption) (by with_unfolding_all rfl) | exact miConfigSet_pair (by assumption) (by first | exact Frame.refl | assumption) (by with_unfolding_all rfl) | exact miConfigGet_pair (by assumption) (by first | exact Frame.refl | assumption) (by with_unfolding_all rfl) | exact miVpdRead_pair (by assumption) (by first | exact Frame.refl | assumption) (by with_unfolding_all rfl) | exact miVpdWrite_pair (by assumption) (by first | exact Frame.refl | assumption) (by with_unfolding_all rfl) | exact miReset_pair (by assumption) (by first | exact Frame.refl | assumption) (by with_unfolding_all rfl)) (by with_unfolding_all rfl) | exact miConfigGet_pair (by assumption) (by first | exact Frame.refl | assumption | exact miReadData_pair (by assumption) (by first | exact Frame.refl | assumption) (by with_unfolding_all rfl) | exact miSubsystemPoll_pair (by assumption) (by first | exact Frame.refl | assumption) (by with_unfolding_all rfl) | exact miControllerPoll_pair (by assumption) (by first | exact Frame.refl | assumption) (by with_unfolding_all rfl) | exact miConfigSet_pair (by assumption) (by first | exact Frame.refl | assumption) (by with_unfolding_all rfl) | exact miConfigGet_pair (by assumption) (by first | exact Frame.refl | assumption) (by with_unfolding_all rfl) | exact miVpdRead_pair (by assumption) (by first | exact Frame.refl | assumption) (by with_unfolding_all rfl) | exact miVpdWrite_pair (by assumption) (by first | exact Frame.refl | assumption) (by with_unfolding_all rfl) | exact miReset_pair (by assumption) (by first | exact Frame.refl | assumption) (by with_unfolding_all rfl)) (by with_unfolding_all rfl) | exact miVpdRead_pair (by assumption) (by first | exact Frame.refl | assumption | exact miReadData_pair (by assumption) (by first | exact Frame.refl | assumption) (by with_unfolding_all rfl) | exact miSubsystemPoll_pair (by assumption) (by first | exact Frame.refl | assumption) (by with_unfolding_all rfl) | exact miControllerPoll_pair (by assumption) (by first | exact Frame.refl | assumption) (by with_unfolding_all rfl) | exact miConfigSet_pair (by assumption) (by first | exact Frame.refl | assumption) (by with_unfolding_all rfl) | exact miConfigGet_pair (by assumption) (by first | exact Frame.refl | assumption) (by with_unfolding_all rfl) | exact miVpdRead_pair (by assumption) (by first | exact Frame.refl | assumption) (by with_unfolding_all rfl) | exact miVpdWrite_pair (by assumption) (by first | exact Frame.refl | assumption) (by with_unfolding_all rfl) | exact miReset_pair (by assumption) (by first | exact Frame.refl | assumption) (by with_unfolding_all rfl)) (by with_unfolding_all rfl) | exact miVpdWrite_pair (by assumption) (by first | exact Frame.refl | assumption | exact miReadData_pair (by assumption) (by first | exact Frame.refl | assumption) (by with_unfolding_all rfl) | exact miSubsystemPoll_pair (by assumption) (by first | exact Frame.refl | assumption) (by with_unfolding_all rfl) | exact miControllerPoll_pair (by assumption) (by first | exact Frame.refl | assumption) (by with_unfolding_all rfl) | exact miConfigSet_pair (by assumption) (by first | exact Frame.refl | assumption) (by with_unfolding_all rfl) | exact miConfigGet_pair (by assumption) (by first | exact Frame.refl | assumption) (by with_unfolding_all rfl) | exact miVpdRead_pair (by assumption) (by first | exact Frame.refl | assumption) (by with_unfolding_all rfl) | exact miVpdWrite_pair (by assumption) (by first | exact Frame.refl | assumption) (by with_unfolding_all rfl) | exact miReset_pair (by assumption) (by first | exact Frame.refl | assumption) (by with_unfolding_all rfl)) (by with_unfolding_all rfl) | exact miReset_pair (by assumption) (by first | exact Frame.refl | assumption | exact miReadData_pair (by assumption) (by first | exact Frame.refl | assumption) (by with_unfolding_all rfl) | exact miSubsystemPoll_pair (by assumption) (by first | exact Frame.refl | assumption) (by with_unfolding_all rfl) | exact miControllerPoll_pair (by assumption) (by first | exact Frame.refl | assumption) (by with_unfolding_all rfl) | exact miConfigSet_pair (by assumption) (by first | exact Frame.refl | assumption) (by with_unfolding_all rfl) | exact miConfigGet_pair (by assumption) (by first | exact Frame.refl | assumption) (by with_unfolding_all rfl) | exact miVpdRead_pair (by assumption) (by first | exact Frame.refl | assumption) (by with_unfolding_all rfl) | exact miVpdWrite_pair (by assumption) (by first | exact Frame.refl | assumption) (by with_unfolding_all rfl) | exact miReset_pair (by assumption) (by first | exact Frame.refl | assumption) (by with_unfolding_all rfl)) (by with_unfolding_all rfl)) frMine frMine frMine frSame frMine frMine frMine frSame frMine frMine frMine frSame frMine frMine frMine frMine frMine frMine frMine frMine rfl rfl rfl (by first | exact .inr .refl | exact .inr ⟨rfl, rfl, rfl, rfl, id⟩ | exact .inr ⟨rfl, rfl, rfl, rfl, fun _ => rfl⟩ | exact .inr (.ite ⟨rfl, rfl, rfl, rfl, id⟩ ⟨rfl, rfl, rfl, rfl, id⟩)) (by first | exact .inr .refl | exact .inr ⟨rfl, rfl, rfl, rfl⟩ | exact .inr (addFaultRecord_binds _ _) | with_unfolding_all exact .inr ⟨rfl, rfl, rfl, rfl⟩)
    | dsimp -zeta only
    | with_reducible apply Frame.refl
    | with_reducible assumption
    | assumption
    | split

theorem miCommand_pair {k : Parts} {s t : State} {a0 : MiCmd} {y : List Nat} {b : State} (e : miCommand a0 t = (y, b))
    (h : Frame k s t) (hk : sub partsMiCommand k = true) :
    Frame k s b := by
  have f := miCommand_frame (a0 := a0) h hk
  rw [e] at f; exact f

theorem miInBand_frame {k : Parts} {s t : State} {a0 : CtlIx} {a1 : MiCmd} {a2 : Nat}
    (h : Frame k s t) (hk : sub partsMiCommand k = true) :
    Frame k s (miInBand a0 a1 a2 t) := by
  refine Frame.step h (l := partsMiCommand) ?_ hk
  clear h hk
  unfold miInBand
  repeat' first
    | (extract_lets +onlyGivenNames -merge -underBinder x; first | (with_reducible refine Frame.cutTo (t := x) ?_ ?_; rotate_left; (try clear_value x); rename _ => y; intro hx; rotate_left; clear_value (hh : x = _); subst hh) | (with_reducible refine Frame.cutTo (t := (Prod.snd x)) ?_ ?_; rotate_left; (try clear_value x); rename _ => y; intro hx; rotate_left; clear_value (hh : x = _); subst hh) | (have hq : Flt := x; clear hq; rename _ => y) | (have hq : Sys := x; clear hq; rename _ => y) | (clear_value x; rename _ => y) | (have hq := x; clear hq; rename _ => y))
    | with_reducible refine miCommand_frame ?_ (by with_unfolding_all rfl)
    | with_reducible refine miCommand_pair (by assumption) ?_ (by with_unfolding_all rfl)
    | with_reducible refine complete_frame ?_ (by with_unfolding_all rfl)
    | with_reducible apply Frame.refl
    | with_reducible assumption

theorem execNvmeMiSend_frame {s t : State} {a0 : CtlIx} {a1 : MiCmd} (e : execNvmeMiSend a0 a1 s = .next t) :
    Frame partsMiCommand s t := by
  unfold execNvmeMiSend at e
  refine Frame.act ?_ e
  clear e
  try dsimp -zeta only
  repeat' first
    | with_reducible refine adminRun_frame ?_ ?_ (by with_unfolding_all rfl)
    | with_reducible refine miInBand_frame ?_ (by with_unfolding_all rfl)
    | with_reducible refine refuse_frame ?_ (by with_unfolding_all rfl)
    | with_reducible apply Frame.ite
    | with_reducible apply Frame.refl
    | with_reducible assumption
    | intro _ _ _
    | intro _ _
    | split

theorem execNvmeMiReceive_frame {s t : State} {a0 : CtlIx} {a1 : MiCmd} (e : execNvmeMiReceive a0 a1 s = .next t) :
    Frame partsMiCommand s t := by
  unfold execNvmeMiReceive at e
  refine Frame.act ?_ e
  clear e
  try dsimp -zeta only
  repeat' first
    | with_reducible refine adminRun_frame ?_ ?_ (by with_unfolding_all rfl)
    | with_reducible refine refuse_frame ?_ (by with_unfolding_all rfl)
    | with_reducible refine miInBand_frame ?_ (by with_unfolding_all rfl)
    | with_reducible apply Frame.ite
    | with_reducible apply Frame.refl
    | with_reducible assumption
    | intro _ _ _
    | intro _ _
    | split

theorem miRespond_frame {k : Parts} {s t : State} {a0 : List Nat}
    (h : Frame k s t) (hk : sub { host := true } k = true) :
    Frame k s (miRespond a0 t) := by
  refine Frame.step h (l := { host := true }) ?_ hk
  clear h hk
  unfold miRespond
  repeat' first
    | (extract_lets +onlyGivenNames -merge -underBinder x; first | (with_reducible refine Frame.cutTo (t := x) ?_ ?_; rotate_left; (try clear_value x); rename _ => y; intro hx; rotate_left; clear_value (hh : x = _); subst hh) | (clear_value x; rename _ => y) | (have hq := x; clear hq; rename _ => y))
    | with_reducible refine setMi_frame ?_ (by with_unfolding_all rfl)
    | with_reducible exact Frame.ofMk (by first | exact Frame.refl | assumption) frSame frSame frSame frSame frSame frSame frSame frSame frSame frSame frSame frSame frSame frSame frSame frSame frSame frSame frSame frMine rfl rfl rfl (.inr .refl) (.inr .refl)
    | with_reducible apply Frame.refl
    | with_reducible assumption

theorem tunnelRun_frame {k : Parts} {s t : State} {a0 : AdminCmd}
    (h : Frame k s t) (hk : sub partsStartIo k = true) :
    Frame k s (tunnelRun a0 t) := by
  refine Frame.step h (l := partsStartIo) ?_ hk
  clear h hk
  unfold tunnelRun
  repeat' first
    | with_reducible refine adminRun_frame ?_ ?_ (by with_unfolding_all rfl)
    | with_reducible refine identifyCmd_frame ?_ (by with_unfolding_all rfl)
    | with_reducible refine getLogCmd_frame ?_ (by with_unfolding_all rfl)
    | with_reducible refine setFeaturesCmd_frame ?_ (by with_unfolding_all rfl)
    | with_reducible refine getFeaturesCmd_frame ?_ (by with_unfolding_all rfl)
    | with_reducible refine downloadCmd_frame ?_ (by with_unfolding_all rfl)
    | with_reducible refine commitCmd_frame ?_ (by with_unfolding_all rfl)
    | with_reducible refine selfTestCmd_frame ?_ (by with_unfolding_all rfl)
    | with_reducible refine formatCmd_frame ?_ (by with_unfolding_all rfl)
    | with_reducible refine sanitizeCmd_frame ?_ (by with_unfolding_all rfl)
    | with_reducible refine securitySendCmd_frame ?_ (by with_unfolding_all rfl)
    | with_reducible refine securityReceiveCmd_frame ?_ (by with_unfolding_all rfl)
    | with_reducible refine surfaceQueryCmd_frame ?_ (by with_unfolding_all rfl)
    | with_reducible refine recorderReadCmd_frame ?_ (by with_unfolding_all rfl)
    | with_reducible exact Frame.ofMk (by first | exact Frame.refl | assumption) frMine frMine frMine frSame frMine frMine frMine frSame frMine frMine frMine frMine frMine frMine frMine frMine frMine frMine frMine frMine rfl rfl rfl (by first | exact .inr .refl | exact .inr ⟨rfl, rfl, rfl, rfl, id⟩ | exact .inr ⟨rfl, rfl, rfl, rfl, fun _ => rfl⟩ | exact .inr (.ite ⟨rfl, rfl, rfl, rfl, id⟩ ⟨rfl, rfl, rfl, rfl, id⟩)) (by first | exact .inr .refl | exact .inr ⟨rfl, rfl, rfl, rfl⟩ | exact .inr (addFaultRecord_binds _ _) | with_unfolding_all exact .inr ⟨rfl, rfl, rfl, rfl⟩)
    | with_reducible apply Frame.refl
    | with_reducible assumption
    | assumption
    | intro _ _ _
    | intro _ _
    | split

theorem miServe_frame {k : Parts} {s t : State} {a0 : MiRequest}
    (h : Frame k s t) (hk : sub partsStartIo k = true) :
    Frame k s (miServe a0 t) := by
  refine Frame.step h (l := partsStartIo) ?_ hk
  clear h hk
  unfold miServe
  repeat' first
    | (extract_lets +onlyGivenNames -merge -underBinder x; first | (with_reducible refine Frame.cutTo (t := x) ?_ ?_; rotate_left; (try clear_value x); rename _ => y; intro hx; rotate_left; clear_value (hh : x = _); subst hh) | (with_reducible refine Frame.cutTo (t := (Prod.snd x)) ?_ ?_; rotate_left; (try clear_value x); rename _ => y; intro hx; rotate_left; clear_value (hh : x = _); subst hh) | (have hq : Flt := x; clear hq; rename _ => y) | (have hq : Sys := x; clear hq; rename _ => y) | (clear_value x; rename _ => y) | (have hq := x; clear hq; rename _ => y))
    | with_reducible refine miCommand_frame ?_ (by with_unfolding_all rfl)
    | with_reducible refine miCommand_pair (by assumption) ?_ (by with_unfolding_all rfl)
    | with_reducible refine miRespond_frame ?_ (by with_unfolding_all rfl)
    | with_reducible refine tunnelRun_frame ?_ (by with_unfolding_all rfl)
    | with_reducible apply Frame.ite
    | with_reducible exact Frame.ofMk (by first | exact Frame.refl | assumption | exact miCommand_pair (by assumption) (by first | exact Frame.refl | assumption | exact miCommand_pair (by assumption) (by first | exact Frame.refl | assumption) (by with_unfolding_all rfl)) (by with_unfolding_all rfl)) frMine frMine frMine frSame frMine frMine frMine frSame frMine frMine frMine frMine frMine frMine frMine frMine frMine frMine frMine frMine rfl rfl rfl (by first | exact .inr .refl | exact .inr ⟨rfl, rfl, rfl, rfl, id⟩ | exact .inr ⟨rfl, rfl, rfl, rfl, fun _ => rfl⟩ | exact .inr (.ite ⟨rfl, rfl, rfl, rfl, id⟩ ⟨rfl, rfl, rfl, rfl, id⟩)) (by first | exact .inr .refl | exact .inr ⟨rfl, rfl, rfl, rfl⟩ | exact .inr (addFaultRecord_binds _ _) | with_unfolding_all exact .inr ⟨rfl, rfl, rfl, rfl⟩)
    | with_reducible apply Frame.refl
    | with_reducible assumption
    | split

theorem miArrive_frame {k : Parts} {s t : State} {a0 : MiRequest}
    (h : Frame k s t) (hk : sub partsStartIo k = true) :
    Frame k s (miArrive a0 t) := by
  refine Frame.step h (l := partsStartIo) ?_ hk
  clear h hk
  unfold miArrive
  repeat' first
    | (extract_lets +onlyGivenNames -merge -underBinder x; first | (with_reducible refine Frame.cutTo (t := x) ?_ ?_; rotate_left; (try clear_value x); rename _ => y; intro hx; rotate_left; clear_value (hh : x = _); subst hh) | (have hq : Flt := x; clear hq; rename _ => y) | (have hq : Sys := x; clear hq; rename _ => y) | (clear_value x; rename _ => y) | (have hq := x; clear hq; rename _ => y))
    | with_reducible refine setMi_frame ?_ (by with_unfolding_all rfl)
    | with_reducible refine miServe_frame ?_ (by with_unfolding_all rfl)
    | with_reducible apply Frame.ite
    | with_reducible exact Frame.ofMk (by first | exact Frame.refl | assumption) frMine frMine frMine frSame frMine frMine frMine frSame frMine frMine frMine frMine frMine frMine frMine frMine frMine frMine frMine frMine rfl rfl rfl (by first | exact .inr .refl | exact .inr ⟨rfl, rfl, rfl, rfl, id⟩ | exact .inr ⟨rfl, rfl, rfl, rfl, fun _ => rfl⟩ | exact .inr (.ite ⟨rfl, rfl, rfl, rfl, id⟩ ⟨rfl, rfl, rfl, rfl, id⟩)) (by first | exact .inr .refl | exact .inr ⟨rfl, rfl, rfl, rfl⟩ | exact .inr (addFaultRecord_binds _ _) | with_unfolding_all exact .inr ⟨rfl, rfl, rfl, rfl⟩)
    | with_reducible apply Frame.refl
    | with_reducible assumption
    | split

theorem execMiReadDataStructure_frame {s t : State} {a0 : Nat} (e : execMiReadDataStructure a0 s = .next t) :
    Frame partsStartIo s t := by
  unfold execMiReadDataStructure at e
  refine Frame.act ?_ e
  clear e
  try dsimp -zeta only
  repeat' first
    | with_reducible refine miArrive_frame ?_ (by with_unfolding_all rfl)
    | with_reducible apply Frame.refl
    | with_reducible assumption

theorem execMiSubsystemHealthPoll_frame {s t : State}  (e : execMiSubsystemHealthPoll s = .next t) :
    Frame partsStartIo s t := by
  unfold execMiSubsystemHealthPoll at e
  refine Frame.act ?_ e
  clear e
  try dsimp -zeta only
  repeat' first
    | with_reducible refine miArrive_frame ?_ (by with_unfolding_all rfl)
    | with_reducible apply Frame.refl
    | with_reducible assumption

theorem execMiControllerHealthPoll_frame {s t : State} {a0 : Nat} (e : execMiControllerHealthPoll a0 s = .next t) :
    Frame partsStartIo s t := by
  unfold execMiControllerHealthPoll at e
  refine Frame.act ?_ e
  clear e
  try dsimp -zeta only
  repeat' first
    | with_reducible refine miArrive_frame ?_ (by with_unfolding_all rfl)
    | with_reducible apply Frame.refl
    | with_reducible assumption

theorem execMiConfigurationSet_frame {s t : State} {a0 : Nat} {a1 : Nat} (e : execMiConfigurationSet a0 a1 s = .next t) :
    Frame partsStartIo s t := by
  unfold execMiConfigurationSet at e
  refine Frame.act ?_ e
  clear e
  try dsimp -zeta only
  repeat' first
    | with_reducible refine miArrive_frame ?_ (by with_unfolding_all rfl)
    | with_reducible apply Frame.refl
    | with_reducible assumption
    | assumption

theorem execMiConfigurationGet_frame {s t : State} {a0 : Nat} (e : execMiConfigurationGet a0 s = .next t) :
    Frame partsStartIo s t := by
  unfold execMiConfigurationGet at e
  refine Frame.act ?_ e
  clear e
  try dsimp -zeta only
  repeat' first
    | with_reducible refine miArrive_frame ?_ (by with_unfolding_all rfl)
    | with_reducible apply Frame.refl
    | with_reducible assumption
    | assumption

theorem execMiVpdRead_frame {s t : State} {a0 : Nat} {a1 : Nat} (e : execMiVpdRead a0 a1 s = .next t) :
    Frame partsStartIo s t := by
  unfold execMiVpdRead at e
  refine Frame.act ?_ e
  clear e
  try dsimp -zeta only
  repeat' first
    | with_reducible refine miArrive_frame ?_ (by with_unfolding_all rfl)
    | with_reducible apply Frame.refl
    | with_reducible assumption

theorem execMiVpdWrite_frame {s t : State} {a0 : Nat} {a1 : List Byte} (e : execMiVpdWrite a0 a1 s = .next t) :
    Frame partsStartIo s t := by
  unfold execMiVpdWrite at e
  refine Frame.act ?_ e
  clear e
  try dsimp -zeta only
  repeat' first
    | with_reducible refine miArrive_frame ?_ (by with_unfolding_all rfl)
    | with_reducible apply Frame.refl
    | with_reducible assumption

theorem execMiReset_frame {s t : State}  (e : execMiReset s = .next t) :
    Frame partsStartIo s t := by
  unfold execMiReset at e
  refine Frame.act ?_ e
  clear e
  try dsimp -zeta only
  repeat' first
    | with_reducible refine miArrive_frame ?_ (by with_unfolding_all rfl)
    | with_reducible apply Frame.refl
    | with_reducible assumption

theorem execMiTunnelledAdmin_frame {s t : State} {a0 : AdminCmd} (e : execMiTunnelledAdmin a0 s = .next t) :
    Frame partsStartIo s t := by
  unfold execMiTunnelledAdmin at e
  refine Frame.act ?_ e
  clear e
  try dsimp -zeta only
  repeat' first
    | with_reducible refine miArrive_frame ?_ (by with_unfolding_all rfl)
    | with_reducible apply Frame.refl
    | with_reducible assumption

theorem miPause_frame {k : Parts} {s t : State} 
    (h : Frame k s t) (hk : sub { host := true } k = true) :
    Frame k s (miPause t) := by
  refine Frame.step h (l := { host := true }) ?_ hk
  clear h hk
  unfold miPause
  repeat' first
    | (extract_lets +onlyGivenNames -merge -underBinder x; first | (with_reducible refine Frame.cutTo (t := x) ?_ ?_; rotate_left; (try clear_value x); rename _ => y; intro hx; rotate_left; clear_value (hh : x = _); subst hh) | (clear_value x; rename _ => y) | (have hq := x; clear hq; rename _ => y))
    | with_reducible refine miRespond_frame ?_ (by with_unfolding_all rfl)
    | with_reducible refine setMi_frame ?_ (by with_unfolding_all rfl)
    | with_reducible apply Frame.ite
    | with_reducible exact Frame.ofMk (by first | exact Frame.refl | assumption) frSame frSame frSame frSame frSame frSame frSame frSame frSame frSame frSame frSame frSame frSame frSame frSame frSame frSame frSame frMine rfl rfl rfl (.inr .refl) (.inr .refl)
    | with_reducible apply Frame.refl
    | with_reducible assumption
    | split

theorem execMiPause_frame {s t : State}  (e : execMiPause s = .next t) :
    Frame { host := true } s t := by
  unfold execMiPause at e
  refine Frame.act ?_ e
  clear e
  try dsimp -zeta only
  repeat' first
    | with_reducible refine miPause_frame ?_ (by with_unfolding_all rfl)
    | with_reducible apply Frame.refl
    | with_reducible assumption

theorem miResume_frame {k : Parts} {s t : State} 
    (h : Frame k s t) (hk : sub partsStartIo k = true) :
    Frame k s (miResume t) := by
  refine Frame.step h (l := partsStartIo) ?_ hk
  clear h hk
  unfold miResume
  repeat' first
    | (extract_lets +onlyGivenNames -merge -underBinder x; first | (with_reducible refine Frame.cutTo (t := x) ?_ ?_; rotate_left; (try clear_value x); rename _ => y; intro hx; rotate_left; clear_value (hh : x = _); subst hh) | (have hq : Flt := x; clear hq; rename _ => y) | (have hq : Sys := x; clear hq; rename _ => y) | (clear_value x; rename _ => y) | (have hq := x; clear hq; rename _ => y))
    | with_reducible refine miServe_frame ?_ (by with_unfolding_all rfl)
    | with_reducible refine miRespond_frame ?_ (by with_unfolding_all rfl)
    | with_reducible refine setMi_frame ?_ (by with_unfolding_all rfl)
    | with_reducible apply Frame.foldl
    | with_reducible apply Frame.ite
    | with_reducible exact Frame.ofMk (by first | exact Frame.refl | assumption) frMine frMine frMine frSame frMine frMine frMine frSame frMine frMine frMine frMine frMine frMine frMine frMine frMine frMine frMine frMine rfl rfl rfl (by first | exact .inr .refl | exact .inr ⟨rfl, rfl, rfl, rfl, id⟩ | exact .inr ⟨rfl, rfl, rfl, rfl, fun _ => rfl⟩ | exact .inr (.ite ⟨rfl, rfl, rfl, rfl, id⟩ ⟨rfl, rfl, rfl, rfl, id⟩)) (by first | exact .inr .refl | exact .inr ⟨rfl, rfl, rfl, rfl⟩ | exact .inr (addFaultRecord_binds _ _) | with_unfolding_all exact .inr ⟨rfl, rfl, rfl, rfl⟩)
    | with_reducible apply Frame.refl
    | with_reducible assumption
    | intro _ _ _
    | intro _ _
    | split

theorem execMiResume_frame {s t : State}  (e : execMiResume s = .next t) :
    Frame partsStartIo s t := by
  unfold execMiResume at e
  refine Frame.act ?_ e
  clear e
  try dsimp -zeta only
  repeat' first
    | with_reducible refine miResume_frame ?_ (by with_unfolding_all rfl)
    | with_reducible apply Frame.refl
    | with_reducible assumption

theorem miAbort_frame {k : Parts} {s t : State} 
    (h : Frame k s t) (hk : sub { host := true } k = true) :
    Frame k s (miAbort t) := by
  refine Frame.step h (l := { host := true }) ?_ hk
  clear h hk
  unfold miAbort
  repeat' first
    | (extract_lets +onlyGivenNames -merge -underBinder x; first | (with_reducible refine Frame.cutTo (t := x) ?_ ?_; rotate_left; (try clear_value x); rename _ => y; intro hx; rotate_left; clear_value (hh : x = _); subst hh) | (clear_value x; rename _ => y) | (have hq := x; clear hq; rename _ => y))
    | with_reducible refine miRespond_frame ?_ (by with_unfolding_all rfl)
    | with_reducible refine setMi_frame ?_ (by with_unfolding_all rfl)
    | with_reducible apply Frame.ite
    | with_reducible exact Frame.ofMk (by first | exact Frame.refl | assumption) frSame frSame frSame frSame frSame frSame frSame frSame frSame frSame frSame frSame frSame frSame frSame frSame frSame frSame frSame frMine rfl rfl rfl (.inr .refl) (.inr .refl)
    | with_reducible apply Frame.refl
    | with_reducible assumption
    | split

theorem execMiAbort_frame {s t : State}  (e : execMiAbort s = .next t) :
    Frame { host := true } s t := by
  unfold execMiAbort at e
  refine Frame.act ?_ e
  clear e
  try dsimp -zeta only
  repeat' first
    | with_reducible refine miAbort_frame ?_ (by with_unfolding_all rfl)
    | with_reducible apply Frame.refl
    | with_reducible assumption

theorem miGetState_frame {k : Parts} {s t : State} 
    (h : Frame k s t) (hk : sub { host := true } k = true) :
    Frame k s (miGetState t) := by
  refine Frame.step h (l := { host := true }) ?_ hk
  clear h hk
  unfold miGetState
  repeat' first
    | with_reducible refine miRespond_frame ?_ (by with_unfolding_all rfl)
    | with_reducible apply Frame.ite
    | with_reducible apply Frame.refl
    | with_reducible assumption
    | split

theorem execMiGetState_frame {s t : State}  (e : execMiGetState s = .next t) :
    Frame { host := true } s t := by
  unfold execMiGetState at e
  refine Frame.act ?_ e
  clear e
  try dsimp -zeta only
  repeat' first
    | with_reducible refine miGetState_frame ?_ (by with_unfolding_all rfl)
    | with_reducible apply Frame.refl
    | with_reducible assumption

theorem miReplay_frame {k : Parts} {s t : State} 
    (h : Frame k s t) (hk : sub { host := true } k = true) :
    Frame k s (miReplay t) := by
  refine Frame.step h (l := { host := true }) ?_ hk
  clear h hk
  unfold miReplay
  repeat' first
    | (extract_lets +onlyGivenNames -merge -underBinder x; first | (with_reducible refine Frame.cutTo (t := x) ?_ ?_; rotate_left; (try clear_value x); rename _ => y; intro hx; rotate_left; clear_value (hh : x = _); subst hh) | (clear_value x; rename _ => y) | (have hq := x; clear hq; rename _ => y))
    | with_reducible refine setMi_frame ?_ (by with_unfolding_all rfl)
    | with_reducible apply Frame.ite
    | with_reducible exact Frame.ofMk (by first | exact Frame.refl | assumption) frSame frSame frSame frSame frSame frSame frSame frSame frSame frSame frSame frSame frSame frSame frSame frSame frSame frSame frSame frMine rfl rfl rfl (.inr .refl) (.inr .refl)
    | with_reducible apply Frame.refl
    | with_reducible assumption
    | split

theorem execMiReplay_frame {s t : State}  (e : execMiReplay s = .next t) :
    Frame { host := true } s t := by
  unfold execMiReplay at e
  refine Frame.act ?_ e
  clear e
  try dsimp -zeta only
  repeat' first
    | with_reducible refine miReplay_frame ?_ (by with_unfolding_all rfl)
    | with_reducible apply Frame.refl
    | with_reducible assumption

theorem basicCommand_frame {k : Parts} {s t : State} {a0 : Nat}
    (h : Frame k s t) (hk : sub { host := true, free := true } k = true) :
    Frame k s (basicCommand a0 t) := by
  refine Frame.step h (l := { host := true, free := true }) ?_ hk
  clear h hk
  unfold basicCommand
  repeat' first
    | (extract_lets +onlyGivenNames -merge -underBinder x; first | (with_reducible refine Frame.cutTo (t := x) ?_ ?_; rotate_left; (try clear_value x); rename _ => y; intro hx; rotate_left; clear_value (hh : x = _); subst hh) | (with_reducible refine Frame.cutTo (t := (Prod.snd x)) ?_ ?_; rotate_left; (try clear_value x); rename _ => y; intro hx; rotate_left; clear_value (hh : x = _); subst hh) | (clear_value x; rename _ => y) | (have hq := x; clear hq; rename _ => y))
    | with_reducible refine freeWords_frame ?_ (by with_unfolding_all rfl)
    | with_reducible refine freeWords_pair (by assumption) ?_ (by with_unfolding_all rfl)
    | with_reducible refine setMi_frame ?_ (by with_unfolding_all rfl)
    | with_reducible apply Frame.ite
    | with_reducible exact Frame.ofMk (by first | exact Frame.refl | assumption | exact freeWords_pair (by assumption) (by first | exact Frame.refl | assumption | exact freeWords_pair (by assumption) (by first | exact Frame.refl | assumption) (by with_unfolding_all rfl)) (by with_unfolding_all rfl)) frSame frSame frSame frSame frSame frSame frSame frSame frSame frSame frSame frSame frSame frSame frSame frSame frSame frSame frSame frMine rfl rfl rfl (.inr .refl) (.inr .refl)
    | with_reducible apply Frame.refl
    | with_reducible assumption
    | split

theorem execBasicManagementCommand_frame {s t : State} {a0 : Nat} (e : execBasicManagementCommand a0 s = .next t) :
    Frame { host := true, free := true } s t := by
  unfold execBasicManagementCommand at e
  refine Frame.act ?_ e
  clear e
  try dsimp -zeta only
  repeat' first
    | with_reducible refine basicCommand_frame ?_ (by with_unfolding_all rfl)
    | with_reducible apply Frame.refl
    | with_reducible assumption

theorem i3cAssign_frame {k : Parts} {s t : State} {a0 : Option Nat} {a1 : Nat}
    (h : Frame k s t) (hk : sub { host := true } k = true) :
    Frame k s (i3cAssign a0 a1 t) := by
  refine Frame.step h (l := { host := true }) ?_ hk
  clear h hk
  unfold i3cAssign
  repeat' first
    | (extract_lets +onlyGivenNames -merge -underBinder x; first | (with_reducible refine Frame.cutTo (t := x) ?_ ?_; rotate_left; (try clear_value x); rename _ => y; intro hx; rotate_left; clear_value (hh : x = _); subst hh) | (clear_value x; rename _ => y) | (have hq := x; clear hq; rename _ => y))
    | with_reducible refine setMi_frame ?_ (by with_unfolding_all rfl)
    | with_reducible apply Frame.ite
    | with_reducible exact Frame.ofMk (by first | exact Frame.refl | assumption) frSame frSame frSame frSame frSame frSame frSame frSame frSame frSame frSame frSame frSame frSame frSame frSame frSame frSame frSame frMine rfl rfl rfl (.inr .refl) (.inr .refl)
    | with_reducible apply Frame.refl
    | with_reducible assumption
    | split

theorem execI3cDynamicAddressAssign_frame {s t : State} {a0 : Option Nat} {a1 : Nat} (e : execI3cDynamicAddressAssign a0 a1 s = .next t) :
    Frame { host := true } s t := by
  unfold execI3cDynamicAddressAssign at e
  refine Frame.act ?_ e
  clear e
  try dsimp -zeta only
  repeat' first
    | with_reducible refine i3cAssign_frame ?_ (by with_unfolding_all rfl)
    | with_reducible apply Frame.refl
    | with_reducible assumption

end Sys2Proof.Laws
end

