-- ==== Sys2Proof/Laws/Frames/Registers.lean ====
section
/-!
SUPPORT. The frames of the operations of Machine/Registers.lean: the parts each may change.
-/
namespace Sys2Proof.Laws
open Sys2Proof Sys2Proof.Machine

set_option linter.all false
set_option Elab.async false

theorem accessRefused_frame {k : Parts} {s t : State} {a0 : Nat} {a1 : Access}
    (h : Frame k s t) (hk : sub partsEngineFaultW k = true) :
    Frame k s (accessRefused a0 a1 t) := by
  refine Frame.step h (l := partsEngineFaultW) ?_ hk
  clear h hk
  unfold accessRefused
  repeat' first
    | with_reducible refine raise_frame ?_ (by with_unfolding_all rfl)
    | with_reducible refine setRdata_frame ?_ (by with_unfolding_all rfl)
    | with_reducible apply Frame.ite
    | with_reducible apply Frame.refl
    | with_reducible assumption
    | split

theorem accessStops_frame {k : Parts} {s t : State} {a0 : AccessFault} {a1 : Nat} {a2 : Access}
    (h : Frame k s t) (hk : sub partsEngineFaultW k = true) :
    Frame k s (accessStops a0 a1 a2 t) := by
  refine Frame.step h (l := partsEngineFaultW) ?_ hk
  clear h hk
  unfold accessStops
  repeat' first
    | with_reducible refine accessRefused_frame ?_ (by with_unfolding_all rfl)
    | with_reducible apply Frame.ite
    | with_reducible apply Frame.refl
    | with_reducible assumption
    | split

theorem execMisalignedAccess_frame {s t : State} {a0 : Access} (e : execMisalignedAccess a0 s = .next t) :
    Frame partsEngineFaultW s t := by
  unfold execMisalignedAccess at e
  refine Frame.act ?_ e
  clear e
  try dsimp -zeta only
  repeat' first
    | with_reducible refine accessStops_frame ?_ (by with_unfolding_all rfl)
    | with_reducible apply Frame.refl
    | with_reducible assumption

theorem execUnmappedAccess_frame {s t : State} {a0 : Access} (e : execUnmappedAccess a0 s = .next t) :
    Frame partsEngineFaultW s t := by
  unfold execUnmappedAccess at e
  refine Frame.act ?_ e
  clear e
  try dsimp -zeta only
  repeat' first
    | with_reducible refine accessStops_frame ?_ (by with_unfolding_all rfl)
    | with_reducible apply Frame.refl
    | with_reducible assumption

theorem execGatedBlockAccess_frame {s t : State} {a0 : Access} (e : execGatedBlockAccess a0 s = .next t) :
    Frame partsEngineFaultW s t := by
  unfold execGatedBlockAccess at e
  refine Frame.act ?_ e
  clear e
  try dsimp -zeta only
  repeat' first
    | with_reducible refine accessStops_frame ?_ (by with_unfolding_all rfl)
    | with_reducible apply Frame.refl
    | with_reducible assumption

theorem execHookViolation_frame {s t : State} {a0 : Access} (e : execHookViolation a0 s = .next t) :
    Frame partsEngineFaultW s t := by
  unfold execHookViolation at e
  refine Frame.act ?_ e
  clear e
  try dsimp -zeta only
  repeat' first
    | with_reducible refine accessStops_frame ?_ (by with_unfolding_all rfl)
    | with_reducible apply Frame.refl
    | with_reducible assumption

theorem seenBits_frame {k : Parts} {s t : State} {a0 : Blk} {a1 : Nat}
    (h : Frame k s t) (hk : sub { flt := true } k = true) :
    Frame k s (seenBits a0 a1 t) := by
  refine Frame.step h (l := { flt := true }) ?_ hk
  clear h hk
  unfold seenBits
  repeat' first
    | (extract_lets +onlyGivenNames -merge -underBinder x; first | (with_reducible refine Frame.cutTo (t := x) ?_ ?_; rotate_left; (try clear_value x); rename _ => y; intro hx; rotate_left; clear_value (hh : x = _); subst hh) | (have hq : Flt := x; clear hq; rename _ => y) | (clear_value x; rename _ => y) | (have hq := x; clear hq; rename _ => y))
    | with_reducible refine Frame.getDMap ?_ (fun _ => ?_)
    | with_reducible apply Frame.getD
    | with_reducible apply Frame.ite
    | with_reducible exact Frame.ofMk (by first | exact Frame.refl | assumption) frSame frMine frSame frSame frSame frSame frSame frSame frSame frSame frSame frSame frSame frSame frSame frSame frSame frSame frSame frSame rfl rfl rfl (.inr .refl) (by first | exact .inr .refl | exact .inr ⟨rfl, rfl, rfl, rfl⟩ | exact .inr (addFaultRecord_binds _ _) | with_unfolding_all exact .inr ⟨rfl, rfl, rfl, rfl⟩)
    | with_reducible apply Frame.refl
    | with_reducible assumption
    | intro _ _ _
    | intro _ _
    | split

theorem commitPair_frame {k : Parts} {s t : State} {a0 : Blk} {a1 : Nat} {a2 : Nat}
    (h : Frame k s t) (hk : sub partsPwrEvent k = true) :
    Frame k s (commitPair a0 a1 a2 t) := by
  refine Frame.step h (l := partsPwrEvent) ?_ hk
  clear h hk
  unfold commitPair
  repeat' first
    | (extract_lets +onlyGivenNames -merge -underBinder x; first | (with_reducible refine Frame.cutTo (t := x) ?_ ?_; rotate_left; (try clear_value x); rename _ => y; intro hx; rotate_left; clear_value (hh : x = _); subst hh) | (have hq : Flt := x; clear hq; rename _ => y) | (have hq : Sys := x; clear hq; rename _ => y) | (clear_value x; rename _ => y) | (have hq := x; clear hq; rename _ => y))
    | with_reducible refine setLane_frame ?_ (by with_unfolding_all rfl)
    | with_reducible refine haltWrite_frame ?_ (by with_unfolding_all rfl)
    | with_reducible refine dmaWrite_frame ?_ (by with_unfolding_all rfl)
    | with_reducible refine dmaCfgErr_frame ?_ (by with_unfolding_all rfl)
    | with_reducible refine rbaseWrite_frame ?_ (by with_unfolding_all rfl)
    | with_reducible refine speEvent_frame ?_ (by with_unfolding_all rfl)
    | with_reducible apply Frame.ite
    | with_reducible exact Frame.ofMk (by first | exact Frame.refl | assumption) frMine frMine frMine frSame frMine frMine frMine frSame frMine frMine frMine frSame frMine frMine frMine frMine frMine frMine frMine frSame rfl rfl rfl (by first | exact .inr .refl | exact .inr ⟨rfl, rfl, rfl, rfl, id⟩ | exact .inr ⟨rfl, rfl, rfl, rfl, fun _ => rfl⟩ | exact .inr (.ite ⟨rfl, rfl, rfl, rfl, id⟩ ⟨rfl, rfl, rfl, rfl, id⟩)) (by first | exact .inr .refl | exact .inr ⟨rfl, rfl, rfl, rfl⟩ | exact .inr (addFaultRecord_binds _ _) | with_unfolding_all exact .inr ⟨rfl, rfl, rfl, rfl⟩)
    | with_reducible apply Frame.refl
    | with_reducible assumption
    | split

theorem lowWrite_frame {k : Parts} {s t : State} {a0 : Blk} {a1 : Nat} {a2 : Nat} {a3 : Word}
    (h : Frame k s t) (hk : sub partsPwrEvent k = true) :
    Frame k s (lowWrite a0 a1 a2 a3 t) := by
  refine Frame.step h (l := partsPwrEvent) ?_ hk
  clear h hk
  unfold lowWrite
  repeat' first
    | (extract_lets +onlyGivenNames -merge -underBinder x; first | (with_reducible refine Frame.cutTo (t := x) ?_ ?_; rotate_left; (try clear_value x); rename _ => y; intro hx; rotate_left; clear_value (hh : x = _); subst hh) | (have hq : Flt := x; clear hq; rename _ => y) | (have hq : Sys := x; clear hq; rename _ => y) | (clear_value x; rename _ => y) | (have hq := x; clear hq; rename _ => y))
    | with_reducible refine commitPair_frame ?_ (by with_unfolding_all rfl)
    | with_reducible exact Frame.ofMk (by first | exact Frame.refl | assumption) frMine frMine frMine frSame frMine frMine frMine frSame frMine frMine frMine frSame frMine frMine frMine frMine frMine frMine frMine frSame rfl rfl rfl (by first | exact .inr .refl | exact .inr ⟨rfl, rfl, rfl, rfl, id⟩ | exact .inr ⟨rfl, rfl, rfl, rfl, fun _ => rfl⟩ | exact .inr (.ite ⟨rfl, rfl, rfl, rfl, id⟩ ⟨rfl, rfl, rfl, rfl, id⟩)) (by first | exact .inr .refl | exact .inr ⟨rfl, rfl, rfl, rfl⟩ | exact .inr (addFaultRecord_binds _ _) | with_unfolding_all exact .inr ⟨rfl, rfl, rfl, rfl⟩)
    | with_reducible apply Frame.refl
    | with_reducible assumption

theorem highWrite_frame {k : Parts} {s t : State} {a0 : Nat} {a1 : Nat} {a2 : Nat} {a3 : Word}
    (h : Frame k s t) (hk : sub { sys := true } k = true) :
    Frame k s (highWrite a0 a1 a2 a3 t) := by
  refine Frame.step h (l := { sys := true }) ?_ hk
  clear h hk
  unfold highWrite
  repeat' first
    | (extract_lets +onlyGivenNames -merge -underBinder x; first | (with_reducible refine Frame.cutTo (t := x) ?_ ?_; rotate_left; (try clear_value x); rename _ => y; intro hx; rotate_left; clear_value (hh : x = _); subst hh) | (have hq : Sys := x; clear hq; rename _ => y) | (clear_value x; rename _ => y) | (have hq := x; clear hq; rename _ => y))
    | with_reducible exact Frame.ofMk (by first | exact Frame.refl | assumption) frMine frSame frSame frSame frSame frSame frSame frSame frSame frSame frSame frSame frSame frSame frSame frSame frSame frSame frSame frSame rfl rfl rfl (by first | exact .inr .refl | exact .inr ⟨rfl, rfl, rfl, rfl, id⟩ | exact .inr ⟨rfl, rfl, rfl, rfl, fun _ => rfl⟩ | exact .inr (.ite ⟨rfl, rfl, rfl, rfl, id⟩ ⟨rfl, rfl, rfl, rfl, id⟩)) (.inr .refl)
    | with_reducible apply Frame.refl
    | with_reducible assumption

theorem eventOf_frame {k : Parts} {s t : State} {a0 : Nat}
    (h : Frame k s t) (hk : sub { sys := true, flt := true, pwr := true, clk := true, spn := true, srv := true, port := true, yck := true, lane := true, ddp := true, dma := true, hqm := true, cap := true, stc := true, spe := true, arr := true, hif := true, mem := true, free := true } k = true) :
    Frame k s (eventOf a0 t) := by
  refine Frame.step h (l := { sys := true, flt := true, pwr := true, clk := true, spn := true, srv := true, port := true, yck := true, lane := true, ddp := true, dma := true, hqm := true, cap := true, stc := true, spe := true, arr := true, hif := true, mem := true, free := true }) ?_ hk
  clear h hk
  unfold eventOf
  repeat' first
    | (extract_lets +onlyGivenNames -merge -underBinder x; first | (with_reducible refine Frame.cutTo (t := x) ?_ ?_; rotate_left; (try clear_value x); rename _ => y; intro hx; rotate_left; clear_value (hh : x = _); subst hh) | (have hq : Flt := x; clear hq; rename _ => y) | (have hq : Sys := x; clear hq; rename _ => y) | (clear_value x; rename _ => y) | (have hq := x; clear hq; rename _ => y))
    | with_reducible refine sourceMark_frame ?_ (by with_unfolding_all rfl)
    | with_reducible refine hifEvent_frame ?_ (by with_unfolding_all rfl)
    | with_reducible refine clkEvent_frame ?_ (by with_unfolding_all rfl)
    | with_reducible refine pwrEvent_frame ?_ (by with_unfolding_all rfl)
    | with_reducible refine stcEvent_frame ?_ (by with_unfolding_all rfl)
    | with_reducible refine spnEvent_frame ?_ (by with_unfolding_all rfl)
    | with_reducible refine yckEvent_frame ?_ (by with_unfolding_all rfl)
    | with_reducible refine srvEvent_frame ?_ (by with_unfolding_all rfl)
    | with_reducible refine feEvent_frame ?_ (by with_unfolding_all rfl)
    | with_reducible refine decEvent_frame ?_ (by with_unfolding_all rfl)
    | with_reducible refine rowEvent_frame ?_ (by with_unfolding_all rfl)
    | with_reducible refine patEvent_frame ?_ (by with_unfolding_all rfl)
    | with_reducible refine ddpEvent_frame ?_ (by with_unfolding_all rfl)
    | with_reducible refine speEvent_frame ?_ (by with_unfolding_all rfl)
    | with_reducible refine dmaEvent_frame ?_ (by with_unfolding_all rfl)
    | with_reducible refine dmaIrqW_frame (hrz := by first | assumption | exact fun j v => raise_frame Frame.refl rfl) ?_ (by with_unfolding_all rfl)
    | with_reducible refine raise_frame ?_ (by with_unfolding_all rfl)
    | with_reducible refine hqmEvent_frame ?_ (by with_unfolding_all rfl)
    | with_reducible refine notifyGroup_frame ?_ (by with_unfolding_all rfl)
    | with_reducible refine capEvent_frame ?_ (by with_unfolding_all rfl)
    | with_reducible apply Frame.ite
    | with_reducible apply Frame.refl
    | with_reducible assumption
    | intro _ _ _
    | intro _ _
    | split

theorem fltWrite_frame {k : Parts} {s t : State} {a0 : Requester} {a1 : List SrcIx} {a2 : Nat} {a3 : Word}
    (h : Frame k s t) (hk : sub partsSrvWrite k = true) :
    Frame k s (fltWrite a0 a1 a2 a3 t) := by
  refine Frame.step h (l := partsSrvWrite) ?_ hk
  clear h hk
  unfold fltWrite
  repeat' first
    | (extract_lets +onlyGivenNames -merge -underBinder x; first | (with_reducible refine Frame.cutTo (t := x) ?_ ?_; rotate_left; (try clear_value x); rename _ => y; intro hx; rotate_left; clear_value (hh : x = _); subst hh) | (have hq : Sys := x; clear hq; rename _ => y) | (clear_value x; rename _ => y) | (have hq := x; clear hq; rename _ => y))
    | with_reducible refine fltCtlWrite_frame ?_ (by with_unfolding_all rfl)
    | with_reducible refine swRaise_frame ?_ (by with_unfolding_all rfl)
    | with_reducible refine acknowledge_frame ?_ (by with_unfolding_all rfl)
    | with_reducible refine inject_frame ?_ (by with_unfolding_all rfl)
    | with_reducible refine laneMapWrite_frame ?_ (by with_unfolding_all rfl)
    | with_reducible refine srvMapWrite_frame ?_ (by with_unfolding_all rfl)
    | with_reducible refine coreMapWrite_frame ?_ (by with_unfolding_all rfl)
    | with_reducible refine coreCommitWrite_frame ?_ (by with_unfolding_all rfl)
    | with_reducible refine srcCfgWrite_frame ?_ (by with_unfolding_all rfl)
    | with_reducible apply Frame.ite
    | with_reducible exact Frame.ofMk (by first | exact Frame.refl | assumption) frMine frMine frSame frSame frMine frMine frMine frSame frMine frMine frMine frSame frMine frMine frMine frMine frMine frMine frMine frSame rfl rfl rfl (by first | exact .inr .refl | exact .inr ⟨rfl, rfl, rfl, rfl, id⟩ | exact .inr ⟨rfl, rfl, rfl, rfl, fun _ => rfl⟩ | exact .inr (.ite ⟨rfl, rfl, rfl, rfl, id⟩ ⟨rfl, rfl, rfl, rfl, id⟩)) (.inl rfl)
    | with_reducible apply Frame.refl
    | with_reducible assumption
    | split

theorem hqmWrite_frame {k : Parts} {s t : State} {a0 : Requester} {a1 : Bool} {a2 : Nat} {a3 : Word}
    (h : Frame k s t) (hk : sub partsEngineFaultW k = true) :
    Frame k s (hqmWrite a0 a1 a2 a3 t) := by
  refine Frame.step h (l := partsEngineFaultW) ?_ hk
  clear h hk
  unfold hqmWrite
  repeat' first
    | (extract_lets +onlyGivenNames -merge -underBinder x; first | (with_reducible refine Frame.cutTo (t := x) ?_ ?_; rotate_left; (try clear_value x); rename _ => y; intro hx; rotate_left; clear_value (hh : x = _); subst hh) | (have hq : Flt := x; clear hq; rename _ => y) | (have hq : Sys := x; clear hq; rename _ => y) | (clear_value x; rename _ => y) | (have hq := x; clear hq; rename _ => y))
    | with_reducible refine rcfgWrite_frame ?_ (by with_unfolding_all rfl)
    | with_reducible refine rwmWrite_frame ?_ (by with_unfolding_all rfl)
    | with_reducible refine rcmdWrite_frame ?_ (by with_unfolding_all rfl)
    | with_reducible refine setHqmPort_frame ?_ (by with_unfolding_all rfl)
    | with_reducible refine prodOpen_frame ?_ (by with_unfolding_all rfl)
    | with_reducible refine prodSlot_frame ?_ (by with_unfolding_all rfl)
    | with_reducible refine prodClose_frame ?_ (by with_unfolding_all rfl)
    | with_reducible refine consSkip_frame ?_ (by with_unfolding_all rfl)
    | with_reducible apply Frame.ite
    | with_reducible exact Frame.ofMk (by first | exact Frame.refl | assumption) frMine frMine frSame frSame frMine frMine frMine frSame frMine frMine frMine frSame frMine frMine frMine frMine frMine frMine frMine frSame rfl rfl rfl (by first | exact .inr .refl | exact .inr ⟨rfl, rfl, rfl, rfl, id⟩ | exact .inr ⟨rfl, rfl, rfl, rfl, fun _ => rfl⟩ | exact .inr (.ite ⟨rfl, rfl, rfl, rfl, id⟩ ⟨rfl, rfl, rfl, rfl, id⟩)) (by first | exact .inr .refl | exact .inr ⟨rfl, rfl, rfl, rfl⟩ | exact .inr (addFaultRecord_binds _ _) | with_unfolding_all exact .inr ⟨rfl, rfl, rfl, rfl⟩)
    | with_reducible apply Frame.refl
    | with_reducible assumption
    | split

theorem blockWrite_frame {k : Parts} {s t : State} {a0 : Requester} {a1 : List SrcIx} {a2 : Blk} {a3 : Nat} {a4 : Word}
    (h : Frame k s t) (hk : sub busParts k = true) :
    Frame k s (blockWrite a0 a1 a2 a3 a4 t) := by
  refine Frame.step h (l := busParts) ?_ hk
  clear h hk
  unfold blockWrite
  repeat' first
    | (extract_lets +onlyGivenNames -merge -underBinder x; first | (with_reducible refine Frame.cutTo (t := x) ?_ ?_; rotate_left; (try clear_value x); rename _ => y; intro hx; rotate_left; clear_value (hh : x = _); subst hh) | (have hq : Sys := x; clear hq; rename _ => y) | (clear_value x; rename _ => y) | (have hq := x; clear hq; rename _ => y))
    | with_reducible refine fltWrite_frame ?_ (by with_unfolding_all rfl)
    | with_reducible refine stcRewind_frame ?_ (by with_unfolding_all rfl)
    | with_reducible refine stcWrite_frame ?_ (by with_unfolding_all rfl)
    | with_reducible refine dmaWrite_frame ?_ (by with_unfolding_all rfl)
    | with_reducible refine hqmWrite_frame ?_ (by with_unfolding_all rfl)
    | with_reducible refine pwrWrite_frame ?_ (by with_unfolding_all rfl)
    | with_reducible refine clkWrite_frame ?_ (by with_unfolding_all rfl)
    | with_reducible refine laneWrite_frame ?_ (by with_unfolding_all rfl)
    | with_reducible refine srvWrite_frame ?_ (by with_unfolding_all rfl)
    | with_reducible refine spnWrite_frame ?_ (by with_unfolding_all rfl)
    | with_reducible refine yckWrite_frame ?_ (by with_unfolding_all rfl)
    | with_reducible refine speWrite_frame ?_ (by with_unfolding_all rfl)
    | with_reducible refine hifWrite_frame ?_ (by with_unfolding_all rfl)
    | with_reducible refine capWrite_frame ?_ (by with_unfolding_all rfl)
    | with_reducible apply Frame.ite
    | with_reducible exact Frame.ofMk (by first | exact Frame.refl | assumption) frMine frMine frMine frMine frMine frMine frMine frMine frMine frMine frMine frMine frMine frMine frMine frMine frMine frMine frMine frMine rfl rfl rfl (by first | exact .inr .refl | exact .inr ⟨rfl, rfl, rfl, rfl, id⟩ | exact .inr ⟨rfl, rfl, rfl, rfl, fun _ => rfl⟩ | exact .inr (.ite ⟨rfl, rfl, rfl, rfl, id⟩ ⟨rfl, rfl, rfl, rfl, id⟩)) (.inl rfl)
    | with_reducible apply Frame.refl
    | with_reducible assumption
    | split

theorem arrivals_frame {k : Parts} {s t : State} {a0 : Blk} {a1 : Nat} {a2 : List SrcIx}
    (h : Frame k s t) (hk : sub { sys := true, flt := true, pwr := true, clk := true, spn := true, srv := true, port := true, yck := true, lane := true, ddp := true, dma := true, hqm := true, cap := true, stc := true, spe := true, arr := true, hif := true, mem := true, free := true } k = true) :
    Frame k s (arrivals a0 a1 a2 t) := by
  refine Frame.step h (l := { sys := true, flt := true, pwr := true, clk := true, spn := true, srv := true, port := true, yck := true, lane := true, ddp := true, dma := true, hqm := true, cap := true, stc := true, spe := true, arr := true, hif := true, mem := true, free := true }) ?_ hk
  clear h hk
  unfold arrivals
  repeat' first
    | with_reducible refine eventOf_frame ?_ (by with_unfolding_all rfl)
    | with_reducible apply Frame.foldl
    | with_reducible apply Frame.ite
    | with_reducible apply Frame.refl
    | with_reducible assumption
    | intro _ _ _
    | intro _ _
    | split

theorem registerStore_frame {k : Parts} {s t : State} {a0 : Requester} {a1 : List SrcIx} {a2 : Blk} {a3 : Nat} {a4 : Nat} {a5 : Word}
    (h : Frame k s t) (hk : sub busParts k = true) :
    Frame k s (registerStore a0 a1 a2 a3 a4 a5 t) := by
  refine Frame.step h (l := busParts) ?_ hk
  clear h hk
  unfold registerStore
  repeat' first
    | with_reducible refine arrivals_frame ?_ (by with_unfolding_all rfl)
    | with_reducible refine lowWrite_frame ?_ (by with_unfolding_all rfl)
    | with_reducible refine blockWrite_frame ?_ (by with_unfolding_all rfl)
    | with_reducible refine highWrite_frame ?_ (by with_unfolding_all rfl)
    | with_reducible apply Frame.ite
    | with_reducible exact Frame.ofMk (by first | exact Frame.refl | assumption) frMine frMine frMine frMine frMine frMine frMine frMine frMine frMine frMine frMine frMine frMine frMine frMine frMine frMine frMine frMine rfl rfl rfl (by first | exact .inr .refl | exact .inr ⟨rfl, rfl, rfl, rfl, id⟩ | exact .inr ⟨rfl, rfl, rfl, rfl, fun _ => rfl⟩ | exact .inr (.ite ⟨rfl, rfl, rfl, rfl, id⟩ ⟨rfl, rfl, rfl, rfl, id⟩)) (.inl rfl)
    | with_reducible apply Frame.refl
    | with_reducible assumption
    | split

theorem storeWord_frame {k : Parts} {s t : State} {a0 : Requester} {a1 : List SrcIx} {a2 : Nat} {a3 : Word}
    (h : Frame k s t) (hk : sub busParts k = true) :
    Frame k s (storeWord a0 a1 a2 a3 t) := by
  refine Frame.step h (l := busParts) ?_ hk
  clear h hk
  unfold storeWord
  repeat' first
    | (extract_lets +onlyGivenNames -merge -underBinder x; first | (with_reducible refine Frame.cutTo (t := x) ?_ ?_; rotate_left; (try clear_value x); rename _ => y; intro hx; rotate_left; clear_value (hh : x = _); subst hh) | (have hq : Sys := x; clear hq; rename _ => y) | (clear_value x; rename _ => y) | (have hq := x; clear hq; rename _ => y))
    | with_reducible refine accessRefused_frame ?_ (by with_unfolding_all rfl)
    | with_reducible refine registerStore_frame ?_ (by with_unfolding_all rfl)
    | with_reducible refine writeLE_frame ?_ (by with_unfolding_all rfl)
    | with_reducible exact Frame.ofMk (by first | exact Frame.refl | assumption) frMine frMine frMine frMine frMine frMine frMine frMine frMine frMine frMine frMine frMine frMine frMine frMine frMine frMine frMine frMine rfl rfl rfl (by first | exact .inr .refl | exact .inr ⟨rfl, rfl, rfl, rfl, id⟩ | exact .inr ⟨rfl, rfl, rfl, rfl, fun _ => rfl⟩ | exact .inr (.ite ⟨rfl, rfl, rfl, rfl, id⟩ ⟨rfl, rfl, rfl, rfl, id⟩)) (.inl rfl)
    | with_reducible apply Frame.refl
    | with_reducible assumption
    | split

theorem execRegisterWrite_frame {s t : State} {a0 : Requester} {a1 : Nat} {a2 : Word} {a3 : List SrcIx} (e : execRegisterWrite a0 a1 a2 a3 s = .next t) :
    Frame busParts s t := by
  unfold execRegisterWrite actWindow at e
  refine Frame.act ?_ e
  clear e
  try dsimp -zeta only
  repeat' first
    | with_reducible refine storeWord_frame ?_ (by with_unfolding_all rfl)
    | with_reducible refine windowNote_frame ?_ (by with_unfolding_all rfl)
    | with_reducible apply Frame.refl
    | with_reducible assumption

theorem execReg64HighWrite_frame {s t : State} {a0 : Requester} {a1 : Nat} {a2 : Word} (e : execReg64HighWrite a0 a1 a2 s = .next t) :
    Frame busParts s t := by
  unfold execReg64HighWrite at e
  refine Frame.act ?_ e
  clear e
  try dsimp -zeta only
  repeat' first
    | with_reducible refine storeWord_frame ?_ (by with_unfolding_all rfl)
    | with_reducible apply Frame.ite
    | with_reducible apply Frame.refl
    | with_reducible assumption
    | split

theorem execReg64LowWrite_frame {s t : State} {a0 : Requester} {a1 : Nat} {a2 : Word} (e : execReg64LowWrite a0 a1 a2 s = .next t) :
    Frame busParts s t := by
  unfold execReg64LowWrite at e
  refine Frame.act ?_ e
  clear e
  try dsimp -zeta only
  repeat' first
    | with_reducible refine storeWord_frame ?_ (by with_unfolding_all rfl)
    | with_reducible apply Frame.ite
    | with_reducible apply Frame.refl
    | with_reducible assumption
    | split

theorem readValue_frame {k : Parts} {s t : State} {a0 : Requester} {a1 : Blk} {a2 : Nat}
    (h : Frame k s t) (hk : sub { flt := true, free := true } k = true) :
    Frame k s (readValue a0 a1 a2 t).2 := by
  refine Frame.step h (l := { flt := true, free := true }) ?_ hk
  clear h hk
  unfold readValue
  repeat' first
    | (extract_lets +onlyGivenNames -merge -underBinder x; first | (with_reducible refine Frame.cutTo (t := x) ?_ ?_; rotate_left; (try clear_value x); rename _ => y; intro hx; rotate_left; clear_value (hh : x = _); subst hh) | (with_reducible refine Frame.cutTo (t := (Prod.snd x)) ?_ ?_; rotate_left; (try clear_value x); rename _ => y; intro hx; rotate_left; clear_value (hh : x = _); subst hh) | (have hq : Flt := x; clear hq; rename _ => y) | (clear_value x; rename _ => y) | (have hq := x; clear hq; rename _ => y))
    | split
    | with_reducible refine seenBits_frame ?_ (by with_unfolding_all rfl)
    | with_reducible refine freeNext_frame ?_ (by with_unfolding_all rfl)
    | with_reducible refine freeNext_pair (by assumption) ?_ (by with_unfolding_all rfl)
    | with_reducible apply Frame.ite
    | dsimp -zeta only
    | with_reducible apply Frame.refl
    | with_reducible assumption
    | split

theorem readValue_pair {k : Parts} {s t : State} {a0 : Requester} {a1 : Blk} {a2 : Nat} {y : Word} {b : State} (e : readValue a0 a1 a2 t = (y, b))
    (h : Frame k s t) (hk : sub { flt := true, free := true } k = true) :
    Frame k s b := by
  have f := readValue_frame (a0 := a0) (a1 := a1) (a2 := a2) h hk
  rw [e] at f; exact f

theorem readPair_frame {k : Parts} {s t : State} {a0 : Requester} {a1 : Blk} {a2 : Nat} {a3 : Nat}
    (h : Frame k s t) (hk : sub { sys := true, flt := true, free := true } k = true) :
    Frame k s (readPair a0 a1 a2 a3 t) := by
  refine Frame.step h (l := { sys := true, flt := true, free := true }) ?_ hk
  clear h hk
  unfold readPair
  repeat' first
    | (extract_lets +onlyGivenNames -merge -underBinder x; first | (with_reducible refine Frame.cutTo (t := x) ?_ ?_; rotate_left; (try clear_value x); rename _ => y; intro hx; rotate_left; clear_value (hh : x = _); subst hh) | (with_reducible refine Frame.cutTo (t := (Prod.snd x)) ?_ ?_; rotate_left; (try clear_value x); rename _ => y; intro hx; rotate_left; clear_value (hh : x = _); subst hh) | (have hq : Flt := x; clear hq; rename _ => y) | (have hq : Sys := x; clear hq; rename _ => y) | (clear_value x; rename _ => y) | (have hq := x; clear hq; rename _ => y))
    | split
    | with_reducible refine readValue_frame ?_ (by with_unfolding_all rfl)
    | with_reducible refine readValue_pair (by assumption) ?_ (by with_unfolding_all rfl)
    | with_reducible refine setRdata_frame ?_ (by with_unfolding_all rfl)
    | with_reducible apply Frame.ite
    | with_reducible exact Frame.ofMk (by first | exact Frame.refl | assumption | exact readValue_pair (by assumption) (by first | exact Frame.refl | assumption | exact readValue_pair (by assumption) (by first | exact Frame.refl | assumption) (by with_unfolding_all rfl)) (by with_unfolding_all rfl)) frMine frMine frSame frSame frSame frSame frSame frSame frSame frSame frSame frSame frSame frSame frSame frSame frSame frSame frSame frSame rfl rfl rfl (by first | exact .inr .refl | exact .inr ⟨rfl, rfl, rfl, rfl, id⟩ | exact .inr ⟨rfl, rfl, rfl, rfl, fun _ => rfl⟩ | exact .inr (.ite ⟨rfl, rfl, rfl, rfl, id⟩ ⟨rfl, rfl, rfl, rfl, id⟩)) (by first | exact .inr .refl | exact .inr ⟨rfl, rfl, rfl, rfl⟩ | exact .inr (addFaultRecord_binds _ _) | with_unfolding_all exact .inr ⟨rfl, rfl, rfl, rfl⟩)
    | with_reducible apply Frame.refl
    | with_reducible assumption
    | split

theorem readRegister_frame {k : Parts} {s t : State} {a0 : Requester} {a1 : Blk} {a2 : Nat} {a3 : Nat}
    (h : Frame k s t) (hk : sub partsRomParity k = true) :
    Frame k s (readRegister a0 a1 a2 a3 t) := by
  refine Frame.step h (l := partsRomParity) ?_ hk
  clear h hk
  unfold readRegister
  repeat' first
    | with_reducible refine consHeader_frame ?_ (by with_unfolding_all rfl)
    | with_reducible refine consHeaderEnd_frame ?_ (by with_unfolding_all rfl)
    | with_reducible refine readPair_frame ?_ (by with_unfolding_all rfl)
    | with_reducible refine consSlot_frame ?_ (by with_unfolding_all rfl)
    | with_reducible refine consPast_frame ?_ (by with_unfolding_all rfl)
    | with_reducible refine stcAdvance_frame ?_ (by with_unfolding_all rfl)
    | with_reducible apply Frame.ite
    | with_reducible exact Frame.ofMk (by first | exact Frame.refl | assumption) frMine frMine frSame frSame frMine frMine frMine frSame frMine frMine frMine frSame frMine frMine frMine frMine frMine frMine frMine frSame rfl rfl rfl (by first | exact .inr .refl | exact .inr ⟨rfl, rfl, rfl, rfl, id⟩ | exact .inr ⟨rfl, rfl, rfl, rfl, fun _ => rfl⟩ | exact .inr (.ite ⟨rfl, rfl, rfl, rfl, id⟩ ⟨rfl, rfl, rfl, rfl, id⟩)) (by first | exact .inr .refl | exact .inr ⟨rfl, rfl, rfl, rfl⟩ | exact .inr (addFaultRecord_binds _ _) | with_unfolding_all exact .inr ⟨rfl, rfl, rfl, rfl⟩)
    | with_reducible apply Frame.refl
    | with_reducible assumption
    | split

theorem loadWord_frame {k : Parts} {s t : State} {a0 : Requester} {a1 : Nat}
    (h : Frame k s t) (hk : sub partsRomParity k = true) :
    Frame k s (loadWord a0 a1 t) := by
  refine Frame.step h (l := partsRomParity) ?_ hk
  clear h hk
  unfold loadWord
  repeat' first
    | (extract_lets +onlyGivenNames -merge -underBinder x; first | (with_reducible refine Frame.cutTo (t := x) ?_ ?_; rotate_left; (try clear_value x); rename _ => y; intro hx; rotate_left; clear_value (hh : x = _); subst hh) | (have hq : Flt := x; clear hq; rename _ => y) | (have hq : Sys := x; clear hq; rename _ => y) | (clear_value x; rename _ => y) | (have hq := x; clear hq; rename _ => y))
    | with_reducible refine accessRefused_frame ?_ (by with_unfolding_all rfl)
    | with_reducible refine readRegister_frame ?_ (by with_unfolding_all rfl)
    | with_reducible refine setRdata_frame ?_ (by with_unfolding_all rfl)
    | with_reducible exact Frame.ofMk (by first | exact Frame.refl | assumption) frMine frMine frSame frSame frMine frMine frMine frSame frMine frMine frMine frSame frMine frMine frMine frMine frMine frMine frMine frSame rfl rfl rfl (by first | exact .inr .refl | exact .inr ⟨rfl, rfl, rfl, rfl, id⟩ | exact .inr ⟨rfl, rfl, rfl, rfl, fun _ => rfl⟩ | exact .inr (.ite ⟨rfl, rfl, rfl, rfl, id⟩ ⟨rfl, rfl, rfl, rfl, id⟩)) (by first | exact .inr .refl | exact .inr ⟨rfl, rfl, rfl, rfl⟩ | exact .inr (addFaultRecord_binds _ _) | with_unfolding_all exact .inr ⟨rfl, rfl, rfl, rfl⟩)
    | with_reducible apply Frame.refl
    | with_reducible assumption
    | split

theorem execReg64LowRead_frame {s t : State} {a0 : Requester} {a1 : Nat} (e : execReg64LowRead a0 a1 s = .next t) :
    Frame partsRomParity s t := by
  unfold execReg64LowRead at e
  refine Frame.act ?_ e
  clear e
  try dsimp -zeta only
  repeat' first
    | with_reducible refine loadWord_frame ?_ (by with_unfolding_all rfl)
    | with_reducible apply Frame.refl
    | with_reducible assumption

theorem dmaRegRead_frame {k : Parts} {s t : State} {a0 : Nat}
    (h : Frame k s t) (hk : sub partsRomParity k = true) :
    Frame k s (dmaRegRead a0 t).2 := by
  refine Frame.step h (l := partsRomParity) ?_ hk
  clear h hk
  unfold dmaRegRead
  repeat' first
    | (extract_lets +onlyGivenNames -merge -underBinder x; first | (with_reducible refine Frame.cutTo (t := x) ?_ ?_; rotate_left; (try clear_value x); rename _ => y; intro hx; rotate_left; clear_value (hh : x = _); subst hh) | (with_reducible refine Frame.cutTo (t := (Prod.snd x)) ?_ ?_; rotate_left; (try clear_value x); rename _ => y; intro hx; rotate_left; clear_value (hh : x = _); subst hh) | (have hq : Flt := x; clear hq; rename _ => y) | (have hq : Sys := x; clear hq; rename _ => y) | (clear_value x; rename _ => y) | (have hq := x; clear hq; rename _ => y))
    | with_reducible refine loadWord_frame ?_ (by with_unfolding_all rfl)
    | with_reducible refine setRdata_frame ?_ (by with_unfolding_all rfl)
    | dsimp -zeta only
    | with_reducible apply Frame.refl
    | with_reducible assumption

theorem dmaRegRead_pair {k : Parts} {s t : State} {a0 : Nat} {y : Word} {b : State} (e : dmaRegRead a0 t = (y, b))
    (h : Frame k s t) (hk : sub partsRomParity k = true) :
    Frame k s b := by
  have f := dmaRegRead_frame (a0 := a0) h hk
  rw [e] at f; exact f

theorem dmaBus_frame : BusFrame dmaBus where
  put := fun {_ _ v} => storeWord_frame (k := busParts) (s := v) Frame.refl (by with_unfolding_all rfl)
  get := fun {_ v} => dmaRegRead_frame (k := busParts) (s := v) Frame.refl (by with_unfolding_all rfl)
  bad := fun {v} => raise_frame (a0 := 168) (k := busParts) (s := v) Frame.refl (by with_unfolding_all rfl)

theorem execDmaDescriptorComplete_frame {s t : State} {a0 : ChanIx} {a1 : List Byte} (e : execDmaDescriptorComplete a0 a1 s = .next t) :
    Frame busParts s t := by
  unfold execDmaDescriptorComplete at e
  refine Frame.act ?_ e
  clear e
  try dsimp -zeta only
  repeat' first
    | (extract_lets +onlyGivenNames -merge -underBinder x; first | (with_reducible refine Frame.cutTo (t := x) ?_ ?_; rotate_left; (try clear_value x); rename _ => y; intro hx; rotate_left; clear_value (hh : x = _); subst hh) | (have hq : Sys := x; clear hq; rename _ => y) | (clear_value x; rename _ => y) | (have hq := x; clear hq; rename _ => y))
    | with_reducible refine descComplete_frame (hb := by first | assumption | exact dmaBus_frame) ?_ (by with_unfolding_all rfl)
    | with_reducible apply Frame.refl
    | with_reducible assumption

theorem execDmaRequest_frame {s t : State} {a0 : Nat} {a1 : List Byte} (e : execDmaRequest a0 a1 s = .next t) :
    Frame busParts s t := by
  unfold execDmaRequest at e
  refine Frame.act ?_ e
  clear e
  try dsimp -zeta only
  repeat' first
    | with_reducible refine dmaRequest_frame (hb := by first | assumption | exact dmaBus_frame) ?_ (by with_unfolding_all rfl)
    | with_reducible apply Frame.refl
    | with_reducible assumption

end Sys2Proof.Laws
end

