-- ==== Sys2Proof/Laws/Keeps.lean ====
section
/-!
SUPPORT. What the shared operations leave as it was, from their frames.
-/
namespace Sys2Proof.Laws
open Sys2Proof Sys2Proof.Machine

set_option Elab.async false

@[simp] theorem guardLane_sys (a0 : LaneIx) (s : State) : (guardLane a0 s).sys = s.sys := (guardLane_frame (k := { lane := true }) Frame.refl (by rfl)).keep_sys
@[simp] theorem guardLane_flt (a0 : LaneIx) (s : State) : (guardLane a0 s).flt = s.flt := (guardLane_frame (k := { lane := true }) Frame.refl (by rfl)).keep_flt
@[simp] theorem guardLane_pwr (a0 : LaneIx) (s : State) : (guardLane a0 s).pwr = s.pwr := (guardLane_frame (k := { lane := true }) Frame.refl (by rfl)).keep_pwr
@[simp] theorem guardLane_clk (a0 : LaneIx) (s : State) : (guardLane a0 s).clk = s.clk := (guardLane_frame (k := { lane := true }) Frame.refl (by rfl)).keep_clk
@[simp] theorem guardLane_spn (a0 : LaneIx) (s : State) : (guardLane a0 s).spn = s.spn := (guardLane_frame (k := { lane := true }) Frame.refl (by rfl)).keep_spn
@[simp] theorem guardLane_srv (a0 : LaneIx) (s : State) : (guardLane a0 s).srv = s.srv := (guardLane_frame (k := { lane := true }) Frame.refl (by rfl)).keep_srv
@[simp] theorem guardLane_port (a0 : LaneIx) (s : State) : (guardLane a0 s).port = s.port := (guardLane_frame (k := { lane := true }) Frame.refl (by rfl)).keep_port
@[simp] theorem guardLane_sns (a0 : LaneIx) (s : State) : (guardLane a0 s).sns = s.sns := (guardLane_frame (k := { lane := true }) Frame.refl (by rfl)).keep_sns
@[simp] theorem guardLane_yck (a0 : LaneIx) (s : State) : (guardLane a0 s).yck = s.yck := (guardLane_frame (k := { lane := true }) Frame.refl (by rfl)).keep_yck
@[simp] theorem guardLane_ddp (a0 : LaneIx) (s : State) : (guardLane a0 s).ddp = s.ddp := (guardLane_frame (k := { lane := true }) Frame.refl (by rfl)).keep_ddp
@[simp] theorem guardLane_media (a0 : LaneIx) (s : State) : (guardLane a0 s).media = s.media := (guardLane_frame (k := { lane := true }) Frame.refl (by rfl)).keep_media
@[simp] theorem guardLane_dma (a0 : LaneIx) (s : State) : (guardLane a0 s).dma = s.dma := (guardLane_frame (k := { lane := true }) Frame.refl (by rfl)).keep_dma
@[simp] theorem guardLane_hqm (a0 : LaneIx) (s : State) : (guardLane a0 s).hqm = s.hqm := (guardLane_frame (k := { lane := true }) Frame.refl (by rfl)).keep_hqm
@[simp] theorem guardLane_cap (a0 : LaneIx) (s : State) : (guardLane a0 s).cap = s.cap := (guardLane_frame (k := { lane := true }) Frame.refl (by rfl)).keep_cap
@[simp] theorem guardLane_stc (a0 : LaneIx) (s : State) : (guardLane a0 s).stc = s.stc := (guardLane_frame (k := { lane := true }) Frame.refl (by rfl)).keep_stc
@[simp] theorem guardLane_spe (a0 : LaneIx) (s : State) : (guardLane a0 s).spe = s.spe := (guardLane_frame (k := { lane := true }) Frame.refl (by rfl)).keep_spe
@[simp] theorem guardLane_arr (a0 : LaneIx) (s : State) : (guardLane a0 s).arr = s.arr := (guardLane_frame (k := { lane := true }) Frame.refl (by rfl)).keep_arr
@[simp] theorem guardLane_hif (a0 : LaneIx) (s : State) : (guardLane a0 s).hif = s.hif := (guardLane_frame (k := { lane := true }) Frame.refl (by rfl)).keep_hif
@[simp] theorem guardLane_host (a0 : LaneIx) (s : State) : (guardLane a0 s).host = s.host := (guardLane_frame (k := { lane := true }) Frame.refl (by rfl)).keep_host
@[simp] theorem guardLane_mem (a0 : LaneIx) (s : State) : (guardLane a0 s).mem = s.mem := (guardLane_frame (k := { lane := true }) Frame.refl (by rfl)).keep_mem
@[simp] theorem guardLane_free (a0 : LaneIx) (s : State) : (guardLane a0 s).free = s.free := (guardLane_frame (k := { lane := true }) Frame.refl (by rfl)).keep_free
@[simp] theorem guardLane_pending (a0 : LaneIx) (s : State) : (guardLane a0 s).pending = s.pending := (guardLane_frame (k := allParts) Frame.refl (by rfl)).queue

@[simp] theorem guardAll_sys (s : State) : (guardAll s).sys = s.sys := (guardAll_frame (k := { lane := true }) Frame.refl (by rfl)).keep_sys
@[simp] theorem guardAll_flt (s : State) : (guardAll s).flt = s.flt := (guardAll_frame (k := { lane := true }) Frame.refl (by rfl)).keep_flt
@[simp] theorem guardAll_pwr (s : State) : (guardAll s).pwr = s.pwr := (guardAll_frame (k := { lane := true }) Frame.refl (by rfl)).keep_pwr
@[simp] theorem guardAll_clk (s : State) : (guardAll s).clk = s.clk := (guardAll_frame (k := { lane := true }) Frame.refl (by rfl)).keep_clk
@[simp] theorem guardAll_spn (s : State) : (guardAll s).spn = s.spn := (guardAll_frame (k := { lane := true }) Frame.refl (by rfl)).keep_spn
@[simp] theorem guardAll_srv (s : State) : (guardAll s).srv = s.srv := (guardAll_frame (k := { lane := true }) Frame.refl (by rfl)).keep_srv
@[simp] theorem guardAll_port (s : State) : (guardAll s).port = s.port := (guardAll_frame (k := { lane := true }) Frame.refl (by rfl)).keep_port
@[simp] theorem guardAll_sns (s : State) : (guardAll s).sns = s.sns := (guardAll_frame (k := { lane := true }) Frame.refl (by rfl)).keep_sns
@[simp] theorem guardAll_yck (s : State) : (guardAll s).yck = s.yck := (guardAll_frame (k := { lane := true }) Frame.refl (by rfl)).keep_yck
@[simp] theorem guardAll_ddp (s : State) : (guardAll s).ddp = s.ddp := (guardAll_frame (k := { lane := true }) Frame.refl (by rfl)).keep_ddp
@[simp] theorem guardAll_media (s : State) : (guardAll s).media = s.media := (guardAll_frame (k := { lane := true }) Frame.refl (by rfl)).keep_media
@[simp] theorem guardAll_dma (s : State) : (guardAll s).dma = s.dma := (guardAll_frame (k := { lane := true }) Frame.refl (by rfl)).keep_dma
@[simp] theorem guardAll_hqm (s : State) : (guardAll s).hqm = s.hqm := (guardAll_frame (k := { lane := true }) Frame.refl (by rfl)).keep_hqm
@[simp] theorem guardAll_cap (s : State) : (guardAll s).cap = s.cap := (guardAll_frame (k := { lane := true }) Frame.refl (by rfl)).keep_cap
@[simp] theorem guardAll_stc (s : State) : (guardAll s).stc = s.stc := (guardAll_frame (k := { lane := true }) Frame.refl (by rfl)).keep_stc
@[simp] theorem guardAll_spe (s : State) : (guardAll s).spe = s.spe := (guardAll_frame (k := { lane := true }) Frame.refl (by rfl)).keep_spe
@[simp] theorem guardAll_arr (s : State) : (guardAll s).arr = s.arr := (guardAll_frame (k := { lane := true }) Frame.refl (by rfl)).keep_arr
@[simp] theorem guardAll_hif (s : State) : (guardAll s).hif = s.hif := (guardAll_frame (k := { lane := true }) Frame.refl (by rfl)).keep_hif
@[simp] theorem guardAll_host (s : State) : (guardAll s).host = s.host := (guardAll_frame (k := { lane := true }) Frame.refl (by rfl)).keep_host
@[simp] theorem guardAll_mem (s : State) : (guardAll s).mem = s.mem := (guardAll_frame (k := { lane := true }) Frame.refl (by rfl)).keep_mem
@[simp] theorem guardAll_free (s : State) : (guardAll s).free = s.free := (guardAll_frame (k := { lane := true }) Frame.refl (by rfl)).keep_free
@[simp] theorem guardAll_pending (s : State) : (guardAll s).pending = s.pending := (guardAll_frame (k := allParts) Frame.refl (by rfl)).queue

@[simp] theorem raise_pwr (a0 : Nat) (s : State) : (raise a0 s).pwr = s.pwr := (raise_frame (k := { sys := true, flt := true, spn := true, srv := true, port := true, yck := true, lane := true, ddp := true, dma := true, hqm := true, cap := true, stc := true, spe := true, arr := true, hif := true, mem := true }) Frame.refl (by rfl)).keep_pwr
@[simp] theorem raise_clk (a0 : Nat) (s : State) : (raise a0 s).clk = s.clk := (raise_frame (k := { sys := true, flt := true, spn := true, srv := true, port := true, yck := true, lane := true, ddp := true, dma := true, hqm := true, cap := true, stc := true, spe := true, arr := true, hif := true, mem := true }) Frame.refl (by rfl)).keep_clk
@[simp] theorem raise_sns (a0 : Nat) (s : State) : (raise a0 s).sns = s.sns := (raise_frame (k := { sys := true, flt := true, spn := true, srv := true, port := true, yck := true, lane := true, ddp := true, dma := true, hqm := true, cap := true, stc := true, spe := true, arr := true, hif := true, mem := true }) Frame.refl (by rfl)).keep_sns
@[simp] theorem raise_media (a0 : Nat) (s : State) : (raise a0 s).media = s.media := (raise_frame (k := { sys := true, flt := true, spn := true, srv := true, port := true, yck := true, lane := true, ddp := true, dma := true, hqm := true, cap := true, stc := true, spe := true, arr := true, hif := true, mem := true }) Frame.refl (by rfl)).keep_media
@[simp] theorem raise_host (a0 : Nat) (s : State) : (raise a0 s).host = s.host := (raise_frame (k := { sys := true, flt := true, spn := true, srv := true, port := true, yck := true, lane := true, ddp := true, dma := true, hqm := true, cap := true, stc := true, spe := true, arr := true, hif := true, mem := true }) Frame.refl (by rfl)).keep_host
@[simp] theorem raise_free (a0 : Nat) (s : State) : (raise a0 s).free = s.free := (raise_frame (k := { sys := true, flt := true, spn := true, srv := true, port := true, yck := true, lane := true, ddp := true, dma := true, hqm := true, cap := true, stc := true, spe := true, arr := true, hif := true, mem := true }) Frame.refl (by rfl)).keep_free
@[simp] theorem raise_pending (a0 : Nat) (s : State) : (raise a0 s).pending = s.pending := (raise_frame (k := allParts) Frame.refl (by rfl)).queue

@[simp] theorem raiseAll_pwr (a0 : List Nat) (s : State) : (raiseAll a0 s).pwr = s.pwr := (raiseAll_frame (k := { sys := true, flt := true, spn := true, srv := true, port := true, yck := true, lane := true, ddp := true, dma := true, hqm := true, cap := true, stc := true, spe := true, arr := true, hif := true, mem := true }) Frame.refl (by rfl)).keep_pwr
@[simp] theorem raiseAll_clk (a0 : List Nat) (s : State) : (raiseAll a0 s).clk = s.clk := (raiseAll_frame (k := { sys := true, flt := true, spn := true, srv := true, port := true, yck := true, lane := true, ddp := true, dma := true, hqm := true, cap := true, stc := true, spe := true, arr := true, hif := true, mem := true }) Frame.refl (by rfl)).keep_clk
@[simp] theorem raiseAll_sns (a0 : List Nat) (s : State) : (raiseAll a0 s).sns = s.sns := (raiseAll_frame (k := { sys := true, flt := true, spn := true, srv := true, port := true, yck := true, lane := true, ddp := true, dma := true, hqm := true, cap := true, stc := true, spe := true, arr := true, hif := true, mem := true }) Frame.refl (by rfl)).keep_sns
@[simp] theorem raiseAll_media (a0 : List Nat) (s : State) : (raiseAll a0 s).media = s.media := (raiseAll_frame (k := { sys := true, flt := true, spn := true, srv := true, port := true, yck := true, lane := true, ddp := true, dma := true, hqm := true, cap := true, stc := true, spe := true, arr := true, hif := true, mem := true }) Frame.refl (by rfl)).keep_media
@[simp] theorem raiseAll_host (a0 : List Nat) (s : State) : (raiseAll a0 s).host = s.host := (raiseAll_frame (k := { sys := true, flt := true, spn := true, srv := true, port := true, yck := true, lane := true, ddp := true, dma := true, hqm := true, cap := true, stc := true, spe := true, arr := true, hif := true, mem := true }) Frame.refl (by rfl)).keep_host
@[simp] theorem raiseAll_free (a0 : List Nat) (s : State) : (raiseAll a0 s).free = s.free := (raiseAll_frame (k := { sys := true, flt := true, spn := true, srv := true, port := true, yck := true, lane := true, ddp := true, dma := true, hqm := true, cap := true, stc := true, spe := true, arr := true, hif := true, mem := true }) Frame.refl (by rfl)).keep_free
@[simp] theorem raiseAll_pending (a0 : List Nat) (s : State) : (raiseAll a0 s).pending = s.pending := (raiseAll_frame (k := allParts) Frame.refl (by rfl)).queue

@[simp] theorem windowNote_sys (n : Nat) (s : State) : (windowNote n s).sys = s.sys := (windowNote_frame (k := { stc := true, arr := true }) Frame.refl rfl).keep_sys
@[simp] theorem windowNote_flt (n : Nat) (s : State) : (windowNote n s).flt = s.flt := (windowNote_frame (k := { stc := true, arr := true }) Frame.refl rfl).keep_flt
@[simp] theorem windowNote_pwr (n : Nat) (s : State) : (windowNote n s).pwr = s.pwr := (windowNote_frame (k := { stc := true, arr := true }) Frame.refl rfl).keep_pwr
@[simp] theorem windowNote_clk (n : Nat) (s : State) : (windowNote n s).clk = s.clk := (windowNote_frame (k := { stc := true, arr := true }) Frame.refl rfl).keep_clk
@[simp] theorem windowNote_spn (n : Nat) (s : State) : (windowNote n s).spn = s.spn := (windowNote_frame (k := { stc := true, arr := true }) Frame.refl rfl).keep_spn
@[simp] theorem windowNote_srv (n : Nat) (s : State) : (windowNote n s).srv = s.srv := (windowNote_frame (k := { stc := true, arr := true }) Frame.refl rfl).keep_srv
@[simp] theorem windowNote_port (n : Nat) (s : State) : (windowNote n s).port = s.port := (windowNote_frame (k := { stc := true, arr := true }) Frame.refl rfl).keep_port
@[simp] theorem windowNote_sns (n : Nat) (s : State) : (windowNote n s).sns = s.sns := (windowNote_frame (k := { stc := true, arr := true }) Frame.refl rfl).keep_sns
@[simp] theorem windowNote_yck (n : Nat) (s : State) : (windowNote n s).yck = s.yck := (windowNote_frame (k := { stc := true, arr := true }) Frame.refl rfl).keep_yck
@[simp] theorem windowNote_lane (n : Nat) (s : State) : (windowNote n s).lane = s.lane := (windowNote_frame (k := { stc := true, arr := true }) Frame.refl rfl).keep_lane
@[simp] theorem windowNote_ddp (n : Nat) (s : State) : (windowNote n s).ddp = s.ddp := (windowNote_frame (k := { stc := true, arr := true }) Frame.refl rfl).keep_ddp
@[simp] theorem windowNote_media (n : Nat) (s : State) : (windowNote n s).media = s.media := (windowNote_frame (k := { stc := true, arr := true }) Frame.refl rfl).keep_media
@[simp] theorem windowNote_dma (n : Nat) (s : State) : (windowNote n s).dma = s.dma := (windowNote_frame (k := { stc := true, arr := true }) Frame.refl rfl).keep_dma
@[simp] theorem windowNote_hqm (n : Nat) (s : State) : (windowNote n s).hqm = s.hqm := (windowNote_frame (k := { stc := true, arr := true }) Frame.refl rfl).keep_hqm
@[simp] theorem windowNote_cap (n : Nat) (s : State) : (windowNote n s).cap = s.cap := (windowNote_frame (k := { stc := true, arr := true }) Frame.refl rfl).keep_cap
@[simp] theorem windowNote_spe (n : Nat) (s : State) : (windowNote n s).spe = s.spe := (windowNote_frame (k := { stc := true, arr := true }) Frame.refl rfl).keep_spe
@[simp] theorem windowNote_hif (n : Nat) (s : State) : (windowNote n s).hif = s.hif := (windowNote_frame (k := { stc := true, arr := true }) Frame.refl rfl).keep_hif
@[simp] theorem windowNote_host (n : Nat) (s : State) : (windowNote n s).host = s.host := (windowNote_frame (k := { stc := true, arr := true }) Frame.refl rfl).keep_host
@[simp] theorem windowNote_mem (n : Nat) (s : State) : (windowNote n s).mem = s.mem := (windowNote_frame (k := { stc := true, arr := true }) Frame.refl rfl).keep_mem
@[simp] theorem windowNote_free (n : Nat) (s : State) : (windowNote n s).free = s.free := (windowNote_frame (k := { stc := true, arr := true }) Frame.refl rfl).keep_free
@[simp] theorem windowNote_pending (n : Nat) (s : State) : (windowNote n s).pending = s.pending := (windowNote_frame (k := allParts) Frame.refl rfl).queue

@[simp] theorem event_sys (a0 : Nat) (s : State) : (event a0 s).sys = s.sys := (event_frame (k := { hif := true }) Frame.refl (by rfl)).keep_sys
@[simp] theorem event_flt (a0 : Nat) (s : State) : (event a0 s).flt = s.flt := (event_frame (k := { hif := true }) Frame.refl (by rfl)).keep_flt
@[simp] theorem event_pwr (a0 : Nat) (s : State) : (event a0 s).pwr = s.pwr := (event_frame (k := { hif := true }) Frame.refl (by rfl)).keep_pwr
@[simp] theorem event_clk (a0 : Nat) (s : State) : (event a0 s).clk = s.clk := (event_frame (k := { hif := true }) Frame.refl (by rfl)).keep_clk
@[simp] theorem event_spn (a0 : Nat) (s : State) : (event a0 s).spn = s.spn := (event_frame (k := { hif := true }) Frame.refl (by rfl)).keep_spn
@[simp] theorem event_srv (a0 : Nat) (s : State) : (event a0 s).srv = s.srv := (event_frame (k := { hif := true }) Frame.refl (by rfl)).keep_srv
@[simp] theorem event_port (a0 : Nat) (s : State) : (event a0 s).port = s.port := (event_frame (k := { hif := true }) Frame.refl (by rfl)).keep_port
@[simp] theorem event_sns (a0 : Nat) (s : State) : (event a0 s).sns = s.sns := (event_frame (k := { hif := true }) Frame.refl (by rfl)).keep_sns
@[simp] theorem event_yck (a0 : Nat) (s : State) : (event a0 s).yck = s.yck := (event_frame (k := { hif := true }) Frame.refl (by rfl)).keep_yck
@[simp] theorem event_lane (a0 : Nat) (s : State) : (event a0 s).lane = s.lane := (event_frame (k := { hif := true }) Frame.refl (by rfl)).keep_lane
@[simp] theorem event_ddp (a0 : Nat) (s : State) : (event a0 s).ddp = s.ddp := (event_frame (k := { hif := true }) Frame.refl (by rfl)).keep_ddp
@[simp] theorem event_media (a0 : Nat) (s : State) : (event a0 s).media = s.media := (event_frame (k := { hif := true }) Frame.refl (by rfl)).keep_media
@[simp] theorem event_dma (a0 : Nat) (s : State) : (event a0 s).dma = s.dma := (event_frame (k := { hif := true }) Frame.refl (by rfl)).keep_dma
@[simp] theorem event_hqm (a0 : Nat) (s : State) : (event a0 s).hqm = s.hqm := (event_frame (k := { hif := true }) Frame.refl (by rfl)).keep_hqm
@[simp] theorem event_cap (a0 : Nat) (s : State) : (event a0 s).cap = s.cap := (event_frame (k := { hif := true }) Frame.refl (by rfl)).keep_cap
@[simp] theorem event_stc (a0 : Nat) (s : State) : (event a0 s).stc = s.stc := (event_frame (k := { hif := true }) Frame.refl (by rfl)).keep_stc
@[simp] theorem event_spe (a0 : Nat) (s : State) : (event a0 s).spe = s.spe := (event_frame (k := { hif := true }) Frame.refl (by rfl)).keep_spe
@[simp] theorem event_arr (a0 : Nat) (s : State) : (event a0 s).arr = s.arr := (event_frame (k := { hif := true }) Frame.refl (by rfl)).keep_arr
@[simp] theorem event_host (a0 : Nat) (s : State) : (event a0 s).host = s.host := (event_frame (k := { hif := true }) Frame.refl (by rfl)).keep_host
@[simp] theorem event_mem (a0 : Nat) (s : State) : (event a0 s).mem = s.mem := (event_frame (k := { hif := true }) Frame.refl (by rfl)).keep_mem
@[simp] theorem event_free (a0 : Nat) (s : State) : (event a0 s).free = s.free := (event_frame (k := { hif := true }) Frame.refl (by rfl)).keep_free
@[simp] theorem event_pending (a0 : Nat) (s : State) : (event a0 s).pending = s.pending := (event_frame (k := allParts) Frame.refl (by rfl)).queue

@[simp] theorem vendorEvent_sys (a0 : Nat) (s : State) : (vendorEvent a0 s).sys = s.sys := (vendorEvent_frame (k := { hif := true }) Frame.refl (by rfl)).keep_sys
@[simp] theorem vendorEvent_flt (a0 : Nat) (s : State) : (vendorEvent a0 s).flt = s.flt := (vendorEvent_frame (k := { hif := true }) Frame.refl (by rfl)).keep_flt
@[simp] theorem vendorEvent_pwr (a0 : Nat) (s : State) : (vendorEvent a0 s).pwr = s.pwr := (vendorEvent_frame (k := { hif := true }) Frame.refl (by rfl)).keep_pwr
@[simp] theorem vendorEvent_clk (a0 : Nat) (s : State) : (vendorEvent a0 s).clk = s.clk := (vendorEvent_frame (k := { hif := true }) Frame.refl (by rfl)).keep_clk
@[simp] theorem vendorEvent_spn (a0 : Nat) (s : State) : (vendorEvent a0 s).spn = s.spn := (vendorEvent_frame (k := { hif := true }) Frame.refl (by rfl)).keep_spn
@[simp] theorem vendorEvent_srv (a0 : Nat) (s : State) : (vendorEvent a0 s).srv = s.srv := (vendorEvent_frame (k := { hif := true }) Frame.refl (by rfl)).keep_srv
@[simp] theorem vendorEvent_port (a0 : Nat) (s : State) : (vendorEvent a0 s).port = s.port := (vendorEvent_frame (k := { hif := true }) Frame.refl (by rfl)).keep_port
@[simp] theorem vendorEvent_sns (a0 : Nat) (s : State) : (vendorEvent a0 s).sns = s.sns := (vendorEvent_frame (k := { hif := true }) Frame.refl (by rfl)).keep_sns
@[simp] theorem vendorEvent_yck (a0 : Nat) (s : State) : (vendorEvent a0 s).yck = s.yck := (vendorEvent_frame (k := { hif := true }) Frame.refl (by rfl)).keep_yck
@[simp] theorem vendorEvent_lane (a0 : Nat) (s : State) : (vendorEvent a0 s).lane = s.lane := (vendorEvent_frame (k := { hif := true }) Frame.refl (by rfl)).keep_lane
@[simp] theorem vendorEvent_ddp (a0 : Nat) (s : State) : (vendorEvent a0 s).ddp = s.ddp := (vendorEvent_frame (k := { hif := true }) Frame.refl (by rfl)).keep_ddp
@[simp] theorem vendorEvent_media (a0 : Nat) (s : State) : (vendorEvent a0 s).media = s.media := (vendorEvent_frame (k := { hif := true }) Frame.refl (by rfl)).keep_media
@[simp] theorem vendorEvent_dma (a0 : Nat) (s : State) : (vendorEvent a0 s).dma = s.dma := (vendorEvent_frame (k := { hif := true }) Frame.refl (by rfl)).keep_dma
@[simp] theorem vendorEvent_hqm (a0 : Nat) (s : State) : (vendorEvent a0 s).hqm = s.hqm := (vendorEvent_frame (k := { hif := true }) Frame.refl (by rfl)).keep_hqm
@[simp] theorem vendorEvent_cap (a0 : Nat) (s : State) : (vendorEvent a0 s).cap = s.cap := (vendorEvent_frame (k := { hif := true }) Frame.refl (by rfl)).keep_cap
@[simp] theorem vendorEvent_stc (a0 : Nat) (s : State) : (vendorEvent a0 s).stc = s.stc := (vendorEvent_frame (k := { hif := true }) Frame.refl (by rfl)).keep_stc
@[simp] theorem vendorEvent_spe (a0 : Nat) (s : State) : (vendorEvent a0 s).spe = s.spe := (vendorEvent_frame (k := { hif := true }) Frame.refl (by rfl)).keep_spe
@[simp] theorem vendorEvent_arr (a0 : Nat) (s : State) : (vendorEvent a0 s).arr = s.arr := (vendorEvent_frame (k := { hif := true }) Frame.refl (by rfl)).keep_arr
@[simp] theorem vendorEvent_host (a0 : Nat) (s : State) : (vendorEvent a0 s).host = s.host := (vendorEvent_frame (k := { hif := true }) Frame.refl (by rfl)).keep_host
@[simp] theorem vendorEvent_mem (a0 : Nat) (s : State) : (vendorEvent a0 s).mem = s.mem := (vendorEvent_frame (k := { hif := true }) Frame.refl (by rfl)).keep_mem
@[simp] theorem vendorEvent_free (a0 : Nat) (s : State) : (vendorEvent a0 s).free = s.free := (vendorEvent_frame (k := { hif := true }) Frame.refl (by rfl)).keep_free
@[simp] theorem vendorEvent_pending (a0 : Nat) (s : State) : (vendorEvent a0 s).pending = s.pending := (vendorEvent_frame (k := allParts) Frame.refl (by rfl)).queue

@[simp] theorem complete_sys (a0 : Nat) (a1 : Nat) (a2 : Status) (a3 : Nat) (a4 : Nat) (a5 : List Nat) (s : State) : (complete a0 a1 a2 a3 a4 a5 s).sys = s.sys := (complete_frame (k := { hif := true }) Frame.refl (by rfl)).keep_sys
@[simp] theorem complete_flt (a0 : Nat) (a1 : Nat) (a2 : Status) (a3 : Nat) (a4 : Nat) (a5 : List Nat) (s : State) : (complete a0 a1 a2 a3 a4 a5 s).flt = s.flt := (complete_frame (k := { hif := true }) Frame.refl (by rfl)).keep_flt
@[simp] theorem complete_pwr (a0 : Nat) (a1 : Nat) (a2 : Status) (a3 : Nat) (a4 : Nat) (a5 : List Nat) (s : State) : (complete a0 a1 a2 a3 a4 a5 s).pwr = s.pwr := (complete_frame (k := { hif := true }) Frame.refl (by rfl)).keep_pwr
@[simp] theorem complete_clk (a0 : Nat) (a1 : Nat) (a2 : Status) (a3 : Nat) (a4 : Nat) (a5 : List Nat) (s : State) : (complete a0 a1 a2 a3 a4 a5 s).clk = s.clk := (complete_frame (k := { hif := true }) Frame.refl (by rfl)).keep_clk
@[simp] theorem complete_spn (a0 : Nat) (a1 : Nat) (a2 : Status) (a3 : Nat) (a4 : Nat) (a5 : List Nat) (s : State) : (complete a0 a1 a2 a3 a4 a5 s).spn = s.spn := (complete_frame (k := { hif := true }) Frame.refl (by rfl)).keep_spn
@[simp] theorem complete_srv (a0 : Nat) (a1 : Nat) (a2 : Status) (a3 : Nat) (a4 : Nat) (a5 : List Nat) (s : State) : (complete a0 a1 a2 a3 a4 a5 s).srv = s.srv := (complete_frame (k := { hif := true }) Frame.refl (by rfl)).keep_srv
@[simp] theorem complete_port (a0 : Nat) (a1 : Nat) (a2 : Status) (a3 : Nat) (a4 : Nat) (a5 : List Nat) (s : State) : (complete a0 a1 a2 a3 a4 a5 s).port = s.port := (complete_frame (k := { hif := true }) Frame.refl (by rfl)).keep_port
@[simp] theorem complete_sns (a0 : Nat) (a1 : Nat) (a2 : Status) (a3 : Nat) (a4 : Nat) (a5 : List Nat) (s : State) : (complete a0 a1 a2 a3 a4 a5 s).sns = s.sns := (complete_frame (k := { hif := true }) Frame.refl (by rfl)).keep_sns
@[simp] theorem complete_yck (a0 : Nat) (a1 : Nat) (a2 : Status) (a3 : Nat) (a4 : Nat) (a5 : List Nat) (s : State) : (complete a0 a1 a2 a3 a4 a5 s).yck = s.yck := (complete_frame (k := { hif := true }) Frame.refl (by rfl)).keep_yck
@[simp] theorem complete_lane (a0 : Nat) (a1 : Nat) (a2 : Status) (a3 : Nat) (a4 : Nat) (a5 : List Nat) (s : State) : (complete a0 a1 a2 a3 a4 a5 s).lane = s.lane := (complete_frame (k := { hif := true }) Frame.refl (by rfl)).keep_lane
@[simp] theorem complete_ddp (a0 : Nat) (a1 : Nat) (a2 : Status) (a3 : Nat) (a4 : Nat) (a5 : List Nat) (s : State) : (complete a0 a1 a2 a3 a4 a5 s).ddp = s.ddp := (complete_frame (k := { hif := true }) Frame.refl (by rfl)).keep_ddp
@[simp] theorem complete_media (a0 : Nat) (a1 : Nat) (a2 : Status) (a3 : Nat) (a4 : Nat) (a5 : List Nat) (s : State) : (complete a0 a1 a2 a3 a4 a5 s).media = s.media := (complete_frame (k := { hif := true }) Frame.refl (by rfl)).keep_media
@[simp] theorem complete_dma (a0 : Nat) (a1 : Nat) (a2 : Status) (a3 : Nat) (a4 : Nat) (a5 : List Nat) (s : State) : (complete a0 a1 a2 a3 a4 a5 s).dma = s.dma := (complete_frame (k := { hif := true }) Frame.refl (by rfl)).keep_dma
@[simp] theorem complete_hqm (a0 : Nat) (a1 : Nat) (a2 : Status) (a3 : Nat) (a4 : Nat) (a5 : List Nat) (s : State) : (complete a0 a1 a2 a3 a4 a5 s).hqm = s.hqm := (complete_frame (k := { hif := true }) Frame.refl (by rfl)).keep_hqm
@[simp] theorem complete_cap (a0 : Nat) (a1 : Nat) (a2 : Status) (a3 : Nat) (a4 : Nat) (a5 : List Nat) (s : State) : (complete a0 a1 a2 a3 a4 a5 s).cap = s.cap := (complete_frame (k := { hif := true }) Frame.refl (by rfl)).keep_cap
@[simp] theorem complete_stc (a0 : Nat) (a1 : Nat) (a2 : Status) (a3 : Nat) (a4 : Nat) (a5 : List Nat) (s : State) : (complete a0 a1 a2 a3 a4 a5 s).stc = s.stc := (complete_frame (k := { hif := true }) Frame.refl (by rfl)).keep_stc
@[simp] theorem complete_spe (a0 : Nat) (a1 : Nat) (a2 : Status) (a3 : Nat) (a4 : Nat) (a5 : List Nat) (s : State) : (complete a0 a1 a2 a3 a4 a5 s).spe = s.spe := (complete_frame (k := { hif := true }) Frame.refl (by rfl)).keep_spe
@[simp] theorem complete_arr (a0 : Nat) (a1 : Nat) (a2 : Status) (a3 : Nat) (a4 : Nat) (a5 : List Nat) (s : State) : (complete a0 a1 a2 a3 a4 a5 s).arr = s.arr := (complete_frame (k := { hif := true }) Frame.refl (by rfl)).keep_arr
@[simp] theorem complete_host (a0 : Nat) (a1 : Nat) (a2 : Status) (a3 : Nat) (a4 : Nat) (a5 : List Nat) (s : State) : (complete a0 a1 a2 a3 a4 a5 s).host = s.host := (complete_frame (k := { hif := true }) Frame.refl (by rfl)).keep_host
@[simp] theorem complete_mem (a0 : Nat) (a1 : Nat) (a2 : Status) (a3 : Nat) (a4 : Nat) (a5 : List Nat) (s : State) : (complete a0 a1 a2 a3 a4 a5 s).mem = s.mem := (complete_frame (k := { hif := true }) Frame.refl (by rfl)).keep_mem
@[simp] theorem complete_free (a0 : Nat) (a1 : Nat) (a2 : Status) (a3 : Nat) (a4 : Nat) (a5 : List Nat) (s : State) : (complete a0 a1 a2 a3 a4 a5 s).free = s.free := (complete_frame (k := { hif := true }) Frame.refl (by rfl)).keep_free
@[simp] theorem complete_pending (a0 : Nat) (a1 : Nat) (a2 : Status) (a3 : Nat) (a4 : Nat) (a5 : List Nat) (s : State) : (complete a0 a1 a2 a3 a4 a5 s).pending = s.pending := (complete_frame (k := allParts) Frame.refl (by rfl)).queue

@[simp] theorem spnEvent_pwr (a0 : Nat) (s : State) : (spnEvent a0 s).pwr = s.pwr := (spnEvent_frame (k := { sys := true, flt := true, spn := true, srv := true, port := true, yck := true, lane := true, ddp := true, dma := true, hqm := true, cap := true, stc := true, spe := true, arr := true, hif := true, mem := true }) Frame.refl (by rfl)).keep_pwr
@[simp] theorem spnEvent_clk (a0 : Nat) (s : State) : (spnEvent a0 s).clk = s.clk := (spnEvent_frame (k := { sys := true, flt := true, spn := true, srv := true, port := true, yck := true, lane := true, ddp := true, dma := true, hqm := true, cap := true, stc := true, spe := true, arr := true, hif := true, mem := true }) Frame.refl (by rfl)).keep_clk
@[simp] theorem spnEvent_sns (a0 : Nat) (s : State) : (spnEvent a0 s).sns = s.sns := (spnEvent_frame (k := { sys := true, flt := true, spn := true, srv := true, port := true, yck := true, lane := true, ddp := true, dma := true, hqm := true, cap := true, stc := true, spe := true, arr := true, hif := true, mem := true }) Frame.refl (by rfl)).keep_sns
@[simp] theorem spnEvent_media (a0 : Nat) (s : State) : (spnEvent a0 s).media = s.media := (spnEvent_frame (k := { sys := true, flt := true, spn := true, srv := true, port := true, yck := true, lane := true, ddp := true, dma := true, hqm := true, cap := true, stc := true, spe := true, arr := true, hif := true, mem := true }) Frame.refl (by rfl)).keep_media
@[simp] theorem spnEvent_host (a0 : Nat) (s : State) : (spnEvent a0 s).host = s.host := (spnEvent_frame (k := { sys := true, flt := true, spn := true, srv := true, port := true, yck := true, lane := true, ddp := true, dma := true, hqm := true, cap := true, stc := true, spe := true, arr := true, hif := true, mem := true }) Frame.refl (by rfl)).keep_host
@[simp] theorem spnEvent_free (a0 : Nat) (s : State) : (spnEvent a0 s).free = s.free := (spnEvent_frame (k := { sys := true, flt := true, spn := true, srv := true, port := true, yck := true, lane := true, ddp := true, dma := true, hqm := true, cap := true, stc := true, spe := true, arr := true, hif := true, mem := true }) Frame.refl (by rfl)).keep_free
@[simp] theorem spnEvent_pending (a0 : Nat) (s : State) : (spnEvent a0 s).pending = s.pending := (spnEvent_frame (k := allParts) Frame.refl (by rfl)).queue

@[simp] theorem pwrEvent_clk (a0 : Nat) (s : State) : (pwrEvent a0 s).clk = s.clk := (pwrEvent_frame (k := { sys := true, flt := true, pwr := true, spn := true, srv := true, port := true, yck := true, lane := true, ddp := true, dma := true, hqm := true, cap := true, stc := true, spe := true, arr := true, hif := true, mem := true }) Frame.refl (by rfl)).keep_clk
@[simp] theorem pwrEvent_sns (a0 : Nat) (s : State) : (pwrEvent a0 s).sns = s.sns := (pwrEvent_frame (k := { sys := true, flt := true, pwr := true, spn := true, srv := true, port := true, yck := true, lane := true, ddp := true, dma := true, hqm := true, cap := true, stc := true, spe := true, arr := true, hif := true, mem := true }) Frame.refl (by rfl)).keep_sns
@[simp] theorem pwrEvent_media (a0 : Nat) (s : State) : (pwrEvent a0 s).media = s.media := (pwrEvent_frame (k := { sys := true, flt := true, pwr := true, spn := true, srv := true, port := true, yck := true, lane := true, ddp := true, dma := true, hqm := true, cap := true, stc := true, spe := true, arr := true, hif := true, mem := true }) Frame.refl (by rfl)).keep_media
@[simp] theorem pwrEvent_host (a0 : Nat) (s : State) : (pwrEvent a0 s).host = s.host := (pwrEvent_frame (k := { sys := true, flt := true, pwr := true, spn := true, srv := true, port := true, yck := true, lane := true, ddp := true, dma := true, hqm := true, cap := true, stc := true, spe := true, arr := true, hif := true, mem := true }) Frame.refl (by rfl)).keep_host
@[simp] theorem pwrEvent_free (a0 : Nat) (s : State) : (pwrEvent a0 s).free = s.free := (pwrEvent_frame (k := { sys := true, flt := true, pwr := true, spn := true, srv := true, port := true, yck := true, lane := true, ddp := true, dma := true, hqm := true, cap := true, stc := true, spe := true, arr := true, hif := true, mem := true }) Frame.refl (by rfl)).keep_free
@[simp] theorem pwrEvent_pending (a0 : Nat) (s : State) : (pwrEvent a0 s).pending = s.pending := (pwrEvent_frame (k := allParts) Frame.refl (by rfl)).queue

@[simp] theorem clkEvent_pwr (a0 : Nat) (s : State) : (clkEvent a0 s).pwr = s.pwr := (clkEvent_frame (k := { sys := true, flt := true, clk := true, spn := true, srv := true, port := true, yck := true, lane := true, ddp := true, dma := true, hqm := true, cap := true, stc := true, spe := true, arr := true, hif := true, mem := true }) Frame.refl (by rfl)).keep_pwr
@[simp] theorem clkEvent_sns (a0 : Nat) (s : State) : (clkEvent a0 s).sns = s.sns := (clkEvent_frame (k := { sys := true, flt := true, clk := true, spn := true, srv := true, port := true, yck := true, lane := true, ddp := true, dma := true, hqm := true, cap := true, stc := true, spe := true, arr := true, hif := true, mem := true }) Frame.refl (by rfl)).keep_sns
@[simp] theorem clkEvent_media (a0 : Nat) (s : State) : (clkEvent a0 s).media = s.media := (clkEvent_frame (k := { sys := true, flt := true, clk := true, spn := true, srv := true, port := true, yck := true, lane := true, ddp := true, dma := true, hqm := true, cap := true, stc := true, spe := true, arr := true, hif := true, mem := true }) Frame.refl (by rfl)).keep_media
@[simp] theorem clkEvent_host (a0 : Nat) (s : State) : (clkEvent a0 s).host = s.host := (clkEvent_frame (k := { sys := true, flt := true, clk := true, spn := true, srv := true, port := true, yck := true, lane := true, ddp := true, dma := true, hqm := true, cap := true, stc := true, spe := true, arr := true, hif := true, mem := true }) Frame.refl (by rfl)).keep_host
@[simp] theorem clkEvent_free (a0 : Nat) (s : State) : (clkEvent a0 s).free = s.free := (clkEvent_frame (k := { sys := true, flt := true, clk := true, spn := true, srv := true, port := true, yck := true, lane := true, ddp := true, dma := true, hqm := true, cap := true, stc := true, spe := true, arr := true, hif := true, mem := true }) Frame.refl (by rfl)).keep_free
@[simp] theorem clkEvent_pending (a0 : Nat) (s : State) : (clkEvent a0 s).pending = s.pending := (clkEvent_frame (k := allParts) Frame.refl (by rfl)).queue

@[simp] theorem spindleFault_pwr (a0 : Nat) (s : State) : (spindleFault a0 s).pwr = s.pwr := (spindleFault_frame (k := { sys := true, flt := true, spn := true, srv := true, port := true, yck := true, lane := true, ddp := true, dma := true, hqm := true, cap := true, stc := true, spe := true, arr := true, hif := true, mem := true }) Frame.refl (by rfl)).keep_pwr
@[simp] theorem spindleFault_clk (a0 : Nat) (s : State) : (spindleFault a0 s).clk = s.clk := (spindleFault_frame (k := { sys := true, flt := true, spn := true, srv := true, port := true, yck := true, lane := true, ddp := true, dma := true, hqm := true, cap := true, stc := true, spe := true, arr := true, hif := true, mem := true }) Frame.refl (by rfl)).keep_clk
@[simp] theorem spindleFault_sns (a0 : Nat) (s : State) : (spindleFault a0 s).sns = s.sns := (spindleFault_frame (k := { sys := true, flt := true, spn := true, srv := true, port := true, yck := true, lane := true, ddp := true, dma := true, hqm := true, cap := true, stc := true, spe := true, arr := true, hif := true, mem := true }) Frame.refl (by rfl)).keep_sns
@[simp] theorem spindleFault_media (a0 : Nat) (s : State) : (spindleFault a0 s).media = s.media := (spindleFault_frame (k := { sys := true, flt := true, spn := true, srv := true, port := true, yck := true, lane := true, ddp := true, dma := true, hqm := true, cap := true, stc := true, spe := true, arr := true, hif := true, mem := true }) Frame.refl (by rfl)).keep_media
@[simp] theorem spindleFault_host (a0 : Nat) (s : State) : (spindleFault a0 s).host = s.host := (spindleFault_frame (k := { sys := true, flt := true, spn := true, srv := true, port := true, yck := true, lane := true, ddp := true, dma := true, hqm := true, cap := true, stc := true, spe := true, arr := true, hif := true, mem := true }) Frame.refl (by rfl)).keep_host
@[simp] theorem spindleFault_free (a0 : Nat) (s : State) : (spindleFault a0 s).free = s.free := (spindleFault_frame (k := { sys := true, flt := true, spn := true, srv := true, port := true, yck := true, lane := true, ddp := true, dma := true, hqm := true, cap := true, stc := true, spe := true, arr := true, hif := true, mem := true }) Frame.refl (by rfl)).keep_free
@[simp] theorem spindleFault_pending (a0 : Nat) (s : State) : (spindleFault a0 s).pending = s.pending := (spindleFault_frame (k := allParts) Frame.refl (by rfl)).queue

@[simp] theorem enterSensing_sys (s : State) : (enterSensing s).sys = s.sys := (enterSensing_frame (k := { spn := true }) Frame.refl (by rfl)).keep_sys
@[simp] theorem enterSensing_flt (s : State) : (enterSensing s).flt = s.flt := (enterSensing_frame (k := { spn := true }) Frame.refl (by rfl)).keep_flt
@[simp] theorem enterSensing_pwr (s : State) : (enterSensing s).pwr = s.pwr := (enterSensing_frame (k := { spn := true }) Frame.refl (by rfl)).keep_pwr
@[simp] theorem enterSensing_clk (s : State) : (enterSensing s).clk = s.clk := (enterSensing_frame (k := { spn := true }) Frame.refl (by rfl)).keep_clk
@[simp] theorem enterSensing_srv (s : State) : (enterSensing s).srv = s.srv := (enterSensing_frame (k := { spn := true }) Frame.refl (by rfl)).keep_srv
@[simp] theorem enterSensing_port (s : State) : (enterSensing s).port = s.port := (enterSensing_frame (k := { spn := true }) Frame.refl (by rfl)).keep_port
@[simp] theorem enterSensing_sns (s : State) : (enterSensing s).sns = s.sns := (enterSensing_frame (k := { spn := true }) Frame.refl (by rfl)).keep_sns
@[simp] theorem enterSensing_yck (s : State) : (enterSensing s).yck = s.yck := (enterSensing_frame (k := { spn := true }) Frame.refl (by rfl)).keep_yck
@[simp] theorem enterSensing_lane (s : State) : (enterSensing s).lane = s.lane := (enterSensing_frame (k := { spn := true }) Frame.refl (by rfl)).keep_lane
@[simp] theorem enterSensing_ddp (s : State) : (enterSensing s).ddp = s.ddp := (enterSensing_frame (k := { spn := true }) Frame.refl (by rfl)).keep_ddp
@[simp] theorem enterSensing_media (s : State) : (enterSensing s).media = s.media := (enterSensing_frame (k := { spn := true }) Frame.refl (by rfl)).keep_media
@[simp] theorem enterSensing_dma (s : State) : (enterSensing s).dma = s.dma := (enterSensing_frame (k := { spn := true }) Frame.refl (by rfl)).keep_dma
@[simp] theorem enterSensing_hqm (s : State) : (enterSensing s).hqm = s.hqm := (enterSensing_frame (k := { spn := true }) Frame.refl (by rfl)).keep_hqm
@[simp] theorem enterSensing_cap (s : State) : (enterSensing s).cap = s.cap := (enterSensing_frame (k := { spn := true }) Frame.refl (by rfl)).keep_cap
@[simp] theorem enterSensing_stc (s : State) : (enterSensing s).stc = s.stc := (enterSensing_frame (k := { spn := true }) Frame.refl (by rfl)).keep_stc
@[simp] theorem enterSensing_spe (s : State) : (enterSensing s).spe = s.spe := (enterSensing_frame (k := { spn := true }) Frame.refl (by rfl)).keep_spe
@[simp] theorem enterSensing_arr (s : State) : (enterSensing s).arr = s.arr := (enterSensing_frame (k := { spn := true }) Frame.refl (by rfl)).keep_arr
@[simp] theorem enterSensing_hif (s : State) : (enterSensing s).hif = s.hif := (enterSensing_frame (k := { spn := true }) Frame.refl (by rfl)).keep_hif
@[simp] theorem enterSensing_host (s : State) : (enterSensing s).host = s.host := (enterSensing_frame (k := { spn := true }) Frame.refl (by rfl)).keep_host
@[simp] theorem enterSensing_mem (s : State) : (enterSensing s).mem = s.mem := (enterSensing_frame (k := { spn := true }) Frame.refl (by rfl)).keep_mem
@[simp] theorem enterSensing_free (s : State) : (enterSensing s).free = s.free := (enterSensing_frame (k := { spn := true }) Frame.refl (by rfl)).keep_free
@[simp] theorem enterSensing_pending (s : State) : (enterSensing s).pending = s.pending := (enterSensing_frame (k := allParts) Frame.refl (by rfl)).queue

@[simp] theorem kick_sys (s : State) : (kick s).sys = s.sys := (kick_frame (k := { lane := true, media := true, spe := true, arr := true, hif := true, host := true, mem := true, free := true }) Frame.refl (by rfl)).keep_sys
@[simp] theorem kick_flt (s : State) : (kick s).flt = s.flt := (kick_frame (k := { lane := true, media := true, spe := true, arr := true, hif := true, host := true, mem := true, free := true }) Frame.refl (by rfl)).keep_flt
@[simp] theorem kick_pwr (s : State) : (kick s).pwr = s.pwr := (kick_frame (k := { lane := true, media := true, spe := true, arr := true, hif := true, host := true, mem := true, free := true }) Frame.refl (by rfl)).keep_pwr
@[simp] theorem kick_clk (s : State) : (kick s).clk = s.clk := (kick_frame (k := { lane := true, media := true, spe := true, arr := true, hif := true, host := true, mem := true, free := true }) Frame.refl (by rfl)).keep_clk
@[simp] theorem kick_spn (s : State) : (kick s).spn = s.spn := (kick_frame (k := { lane := true, media := true, spe := true, arr := true, hif := true, host := true, mem := true, free := true }) Frame.refl (by rfl)).keep_spn
@[simp] theorem kick_srv (s : State) : (kick s).srv = s.srv := (kick_frame (k := { lane := true, media := true, spe := true, arr := true, hif := true, host := true, mem := true, free := true }) Frame.refl (by rfl)).keep_srv
@[simp] theorem kick_port (s : State) : (kick s).port = s.port := (kick_frame (k := { lane := true, media := true, spe := true, arr := true, hif := true, host := true, mem := true, free := true }) Frame.refl (by rfl)).keep_port
@[simp] theorem kick_sns (s : State) : (kick s).sns = s.sns := (kick_frame (k := { lane := true, media := true, spe := true, arr := true, hif := true, host := true, mem := true, free := true }) Frame.refl (by rfl)).keep_sns
@[simp] theorem kick_yck (s : State) : (kick s).yck = s.yck := (kick_frame (k := { lane := true, media := true, spe := true, arr := true, hif := true, host := true, mem := true, free := true }) Frame.refl (by rfl)).keep_yck
@[simp] theorem kick_ddp (s : State) : (kick s).ddp = s.ddp := (kick_frame (k := { lane := true, media := true, spe := true, arr := true, hif := true, host := true, mem := true, free := true }) Frame.refl (by rfl)).keep_ddp
@[simp] theorem kick_dma (s : State) : (kick s).dma = s.dma := (kick_frame (k := { lane := true, media := true, spe := true, arr := true, hif := true, host := true, mem := true, free := true }) Frame.refl (by rfl)).keep_dma
@[simp] theorem kick_hqm (s : State) : (kick s).hqm = s.hqm := (kick_frame (k := { lane := true, media := true, spe := true, arr := true, hif := true, host := true, mem := true, free := true }) Frame.refl (by rfl)).keep_hqm
@[simp] theorem kick_cap (s : State) : (kick s).cap = s.cap := (kick_frame (k := { lane := true, media := true, spe := true, arr := true, hif := true, host := true, mem := true, free := true }) Frame.refl (by rfl)).keep_cap
@[simp] theorem kick_stc (s : State) : (kick s).stc = s.stc := (kick_frame (k := { lane := true, media := true, spe := true, arr := true, hif := true, host := true, mem := true, free := true }) Frame.refl (by rfl)).keep_stc
@[simp] theorem kick_pending (s : State) : (kick s).pending = s.pending := (kick_frame (k := allParts) Frame.refl (by rfl)).queue

@[simp] theorem refuse_sys (a0 : Nat) (a1 : Nat) (a2 : Status) (s : State) : (refuse a0 a1 a2 s).sys = s.sys := (refuse_frame (k := { hif := true }) Frame.refl (by rfl)).keep_sys
@[simp] theorem refuse_flt (a0 : Nat) (a1 : Nat) (a2 : Status) (s : State) : (refuse a0 a1 a2 s).flt = s.flt := (refuse_frame (k := { hif := true }) Frame.refl (by rfl)).keep_flt
@[simp] theorem refuse_pwr (a0 : Nat) (a1 : Nat) (a2 : Status) (s : State) : (refuse a0 a1 a2 s).pwr = s.pwr := (refuse_frame (k := { hif := true }) Frame.refl (by rfl)).keep_pwr
@[simp] theorem refuse_clk (a0 : Nat) (a1 : Nat) (a2 : Status) (s : State) : (refuse a0 a1 a2 s).clk = s.clk := (refuse_frame (k := { hif := true }) Frame.refl (by rfl)).keep_clk
@[simp] theorem refuse_spn (a0 : Nat) (a1 : Nat) (a2 : Status) (s : State) : (refuse a0 a1 a2 s).spn = s.spn := (refuse_frame (k := { hif := true }) Frame.refl (by rfl)).keep_spn
@[simp] theorem refuse_srv (a0 : Nat) (a1 : Nat) (a2 : Status) (s : State) : (refuse a0 a1 a2 s).srv = s.srv := (refuse_frame (k := { hif := true }) Frame.refl (by rfl)).keep_srv
@[simp] theorem refuse_port (a0 : Nat) (a1 : Nat) (a2 : Status) (s : State) : (refuse a0 a1 a2 s).port = s.port := (refuse_frame (k := { hif := true }) Frame.refl (by rfl)).keep_port
@[simp] theorem refuse_sns (a0 : Nat) (a1 : Nat) (a2 : Status) (s : State) : (refuse a0 a1 a2 s).sns = s.sns := (refuse_frame (k := { hif := true }) Frame.refl (by rfl)).keep_sns
@[simp] theorem refuse_yck (a0 : Nat) (a1 : Nat) (a2 : Status) (s : State) : (refuse a0 a1 a2 s).yck = s.yck := (refuse_frame (k := { hif := true }) Frame.refl (by rfl)).keep_yck
@[simp] theorem refuse_lane (a0 : Nat) (a1 : Nat) (a2 : Status) (s : State) : (refuse a0 a1 a2 s).lane = s.lane := (refuse_frame (k := { hif := true }) Frame.refl (by rfl)).keep_lane
@[simp] theorem refuse_ddp (a0 : Nat) (a1 : Nat) (a2 : Status) (s : State) : (refuse a0 a1 a2 s).ddp = s.ddp := (refuse_frame (k := { hif := true }) Frame.refl (by rfl)).keep_ddp
@[simp] theorem refuse_media (a0 : Nat) (a1 : Nat) (a2 : Status) (s : State) : (refuse a0 a1 a2 s).media = s.media := (refuse_frame (k := { hif := true }) Frame.refl (by rfl)).keep_media
@[simp] theorem refuse_dma (a0 : Nat) (a1 : Nat) (a2 : Status) (s : State) : (refuse a0 a1 a2 s).dma = s.dma := (refuse_frame (k := { hif := true }) Frame.refl (by rfl)).keep_dma
@[simp] theorem refuse_hqm (a0 : Nat) (a1 : Nat) (a2 : Status) (s : State) : (refuse a0 a1 a2 s).hqm = s.hqm := (refuse_frame (k := { hif := true }) Frame.refl (by rfl)).keep_hqm
@[simp] theorem refuse_cap (a0 : Nat) (a1 : Nat) (a2 : Status) (s : State) : (refuse a0 a1 a2 s).cap = s.cap := (refuse_frame (k := { hif := true }) Frame.refl (by rfl)).keep_cap
@[simp] theorem refuse_stc (a0 : Nat) (a1 : Nat) (a2 : Status) (s : State) : (refuse a0 a1 a2 s).stc = s.stc := (refuse_frame (k := { hif := true }) Frame.refl (by rfl)).keep_stc
@[simp] theorem refuse_spe (a0 : Nat) (a1 : Nat) (a2 : Status) (s : State) : (refuse a0 a1 a2 s).spe = s.spe := (refuse_frame (k := { hif := true }) Frame.refl (by rfl)).keep_spe
@[simp] theorem refuse_arr (a0 : Nat) (a1 : Nat) (a2 : Status) (s : State) : (refuse a0 a1 a2 s).arr = s.arr := (refuse_frame (k := { hif := true }) Frame.refl (by rfl)).keep_arr
@[simp] theorem refuse_host (a0 : Nat) (a1 : Nat) (a2 : Status) (s : State) : (refuse a0 a1 a2 s).host = s.host := (refuse_frame (k := { hif := true }) Frame.refl (by rfl)).keep_host
@[simp] theorem refuse_mem (a0 : Nat) (a1 : Nat) (a2 : Status) (s : State) : (refuse a0 a1 a2 s).mem = s.mem := (refuse_frame (k := { hif := true }) Frame.refl (by rfl)).keep_mem
@[simp] theorem refuse_free (a0 : Nat) (a1 : Nat) (a2 : Status) (s : State) : (refuse a0 a1 a2 s).free = s.free := (refuse_frame (k := { hif := true }) Frame.refl (by rfl)).keep_free
@[simp] theorem refuse_pending (a0 : Nat) (a1 : Nat) (a2 : Status) (s : State) : (refuse a0 a1 a2 s).pending = s.pending := (refuse_frame (k := allParts) Frame.refl (by rfl)).queue

@[simp] theorem hqmPost_pwr (a0 : Nat) (a1 : Nat) (a2 : List Word) (s : State) : (hqmPost a0 a1 a2 s).pwr = s.pwr := (hqmPost_frame (k := { sys := true, flt := true, spn := true, srv := true, port := true, yck := true, lane := true, ddp := true, dma := true, hqm := true, cap := true, stc := true, spe := true, arr := true, hif := true, mem := true }) Frame.refl (by rfl)).keep_pwr
@[simp] theorem hqmPost_clk (a0 : Nat) (a1 : Nat) (a2 : List Word) (s : State) : (hqmPost a0 a1 a2 s).clk = s.clk := (hqmPost_frame (k := { sys := true, flt := true, spn := true, srv := true, port := true, yck := true, lane := true, ddp := true, dma := true, hqm := true, cap := true, stc := true, spe := true, arr := true, hif := true, mem := true }) Frame.refl (by rfl)).keep_clk
@[simp] theorem hqmPost_sns (a0 : Nat) (a1 : Nat) (a2 : List Word) (s : State) : (hqmPost a0 a1 a2 s).sns = s.sns := (hqmPost_frame (k := { sys := true, flt := true, spn := true, srv := true, port := true, yck := true, lane := true, ddp := true, dma := true, hqm := true, cap := true, stc := true, spe := true, arr := true, hif := true, mem := true }) Frame.refl (by rfl)).keep_sns
@[simp] theorem hqmPost_media (a0 : Nat) (a1 : Nat) (a2 : List Word) (s : State) : (hqmPost a0 a1 a2 s).media = s.media := (hqmPost_frame (k := { sys := true, flt := true, spn := true, srv := true, port := true, yck := true, lane := true, ddp := true, dma := true, hqm := true, cap := true, stc := true, spe := true, arr := true, hif := true, mem := true }) Frame.refl (by rfl)).keep_media
@[simp] theorem hqmPost_host (a0 : Nat) (a1 : Nat) (a2 : List Word) (s : State) : (hqmPost a0 a1 a2 s).host = s.host := (hqmPost_frame (k := { sys := true, flt := true, spn := true, srv := true, port := true, yck := true, lane := true, ddp := true, dma := true, hqm := true, cap := true, stc := true, spe := true, arr := true, hif := true, mem := true }) Frame.refl (by rfl)).keep_host
@[simp] theorem hqmPost_free (a0 : Nat) (a1 : Nat) (a2 : List Word) (s : State) : (hqmPost a0 a1 a2 s).free = s.free := (hqmPost_frame (k := { sys := true, flt := true, spn := true, srv := true, port := true, yck := true, lane := true, ddp := true, dma := true, hqm := true, cap := true, stc := true, spe := true, arr := true, hif := true, mem := true }) Frame.refl (by rfl)).keep_free
@[simp] theorem hqmPost_pending (a0 : Nat) (a1 : Nat) (a2 : List Word) (s : State) : (hqmPost a0 a1 a2 s).pending = s.pending := (hqmPost_frame (k := allParts) Frame.refl (by rfl)).queue

end Sys2Proof.Laws
end

