-- ==== Sys2Proof/Laws/Memory.lean ====
section
/-!
SUPPORT. The laws of keyed lists and of the memory: a read after a write gives what was written, and a write leaves every other
place alone.
-/
namespace Sys2Proof.Laws
open Sys2Proof Sys2Proof.Machine

set_option Elab.async false

/-! ### Keyed lists -/

theorem keyGet_keyPut_same {α : Type} (l : List (Nat × α)) (k : Nat) (x d : α) : keyGet (keyPut l k x) k d = x := by
  induction l with
  | nil => simp [keyPut, keyGet]
  | cons p t ih =>
    obtain ⟨a, y⟩ := p
    simp only [keyPut]
    split
    · simp [keyGet]
    · split
      · simp [keyGet]
      · rename_i h
        simp [keyGet, Ne.symm h, ih]

theorem keyGet_keyPut_ne {α : Type} (l : List (Nat × α)) {k j : Nat} (h : j ≠ k) (x d : α) : keyGet (keyPut l k x) j d = keyGet l j d := by
  induction l with
  | nil => simp [keyPut, keyGet, Ne.symm h]
  | cons p t ih =>
    obtain ⟨a, y⟩ := p
    simp only [keyPut]
    split
    · simp [keyGet, Ne.symm h]
    · split
      · rename_i e; subst e
        simp [keyGet, Ne.symm h]
      · simp [keyGet, ih]

theorem keyGet_keyDel_ne {α : Type} (l : List (Nat × α)) {k j : Nat} (h : j ≠ k) (d : α) : keyGet (keyDel l k) j d = keyGet l j d := by
  induction l with
  | nil => rfl
  | cons p t ih =>
    obtain ⟨a, y⟩ := p
    simp only [keyDel]
    split
    · rename_i e; subst e
      simp [keyGet, Ne.symm h]
    · simp [keyGet, ih]

theorem keyGet_keySet_ne {α : Type} [DecidableEq α] (l : List (Nat × α)) {k j : Nat} (h : j ≠ k) (x d e : α) :
    keyGet (keySet l k x e) j d = keyGet l j d := by
  unfold keySet
  split
  · exact keyGet_keyDel_ne l h d
  · exact keyGet_keyPut_ne l h x d

theorem keyGet_above {lo k : Nat} {m : List Host.Cell} (w : Memory.above lo m = true) (h : k < lo) : keyGet m k 0 = 0 := by
  induction m generalizing lo with
  | nil => rfl
  | cons p t ih =>
    obtain ⟨a, b⟩ := p
    simp only [Memory.above, Bool.and_eq_true, decide_eq_true_eq] at w
    have : a ≠ k := by omega
    simp only [keyGet, if_neg this]
    exact ih w.2 (by omega)

theorem keyGet_keyDel_above {lo : Nat} {m : List Host.Cell} (w : Memory.above lo m = true) (k : Nat) : keyGet (keyDel m k) k 0 = 0 := by
  induction m generalizing lo with
  | nil => rfl
  | cons p t ih =>
    obtain ⟨a, b⟩ := p
    simp only [Memory.above, Bool.and_eq_true, decide_eq_true_eq] at w
    simp only [keyDel]
    split
    · rename_i e; subst e
      exact keyGet_above w.2 (by omega)
    · rename_i e
      simp only [keyGet, if_neg e]
      exact ih w.2

/-! ### Bytes -/

theorem readByte_writeByte_ne (s : State) {a c : Nat} (h : c ≠ a) (b : Byte) : readByte (writeByte s a b) c = readByte s c :=
  keyGet_keySet_ne _ h _ _ _

theorem readByte_writeByte (s : State) (w : Memory.wf s.mem = true) (a : Nat) (b : Byte) : readByte (writeByte s a b) a = b := by
  simp only [readByte, writeByte, keySet]
  split
  · rename_i e; subst e
    exact keyGet_keyDel_above w a
  · exact keyGet_keyPut_same _ _ _ _

theorem writeByte_wf (s : State) (w : Memory.wf s.mem = true) (a : Nat) (b : Byte) : Memory.wf (writeByte s a b).mem = true :=
  memory_set w a b

/-! ### Words -/

theorem readByte_writeLE_ne (n : Nat) : ∀ (s : State) (a v c : Nat), (c < a ∨ a + n ≤ c) → readByte (writeLE s a n v) c = readByte s c := by
  induction n with
  | zero => intro s a v c _; rfl
  | succ n ih =>
    intro s a v c h
    simp only [writeLE]
    rw [ih _ _ _ _ (by omega), readByte_writeByte_ne _ (by omega)]

theorem readByte_writeLE (n : Nat) : ∀ (s : State) (a v i : Nat), Memory.wf s.mem = true → i < n →
    readByte (writeLE s a n v) (a + i) = BitVec.ofNat 8 (v / 256 ^ i) := by
  induction n with
  | zero => intro s a v i _ h; omega
  | succ n ih =>
    intro s a v i w h
    simp only [writeLE]
    cases i with
    | zero =>
      rw [readByte_writeLE_ne _ _ _ _ _ (by omega)]
      simpa using readByte_writeByte s w a _
    | succ i =>
      have := ih (writeByte s a (BitVec.ofNat 8 v)) (a + 1) (v / 256) i (writeByte_wf s w a _) (by omega)
      rw [show a + (i + 1) = a + 1 + i by omega, this, Nat.div_div_eq_div_mul, Nat.pow_succ, Nat.mul_comm]

theorem readLE_writeLE (n : Nat) : ∀ (s : State) (a v : Nat), Memory.wf s.mem = true →
    readLE (writeLE s a n v) a n = v % 256 ^ n := by
  induction n with
  | zero => intro s a v _; simp [readLE, Nat.mod_one]
  | succ n ih =>
    intro s a v w
    simp only [writeLE, readLE]
    rw [readByte_writeLE_ne _ _ _ _ _ (by omega), readByte_writeByte s w, ih _ _ _ (writeByte_wf s w a _)]
    rw [BitVec.toNat_ofNat, show (256 : Nat) ^ (n + 1) = 256 * 256 ^ n from Nat.pow_succ', Nat.mod_mul]

end Sys2Proof.Laws
end

