-- ==== Sys2Proof/Laws/Raise.lean ====
section
/-!
SUPPORT. What an occurrence of an FLT source leaves as it was inside FLT and the device's own state: every binding, every
configuration register, every repair count; and that it only adds pending bits (R416, R419).
-/
namespace Sys2Proof.Laws
open Sys2Proof Sys2Proof.Machine

set_option Elab.async false

/-- What an occurrence writes of FLT and of the device's own state. -/
structure RaiseKeeps (s t : State) : Prop where
  sys : t.sys = { s.sys with errMin := t.sys.errMin }
  flt : t.flt = { s.flt with
    pend := t.flt.pend
    pinPend := t.flt.pinPend
    freshPend := t.flt.freshPend
    freshEvt := t.flt.freshEvt
    raw := t.flt.raw
    steps := t.flt.steps
    last := t.flt.last
    delivered := t.flt.delivered
    deferred := t.flt.deferred
    chipReq := t.flt.chipReq
    coreResets := t.flt.coreResets
    rldFailed := t.flt.rldFailed
    mirror := t.flt.mirror
    history := t.flt.history
    historyTotal := t.flt.historyTotal }
  pend : ∀ n, s.flt.pend.getLsbD n = true → t.flt.pend.getLsbD n = true
  chip : s.flt.chipReq = true → t.flt.chipReq = true

theorem RaiseKeeps.refl {s : State} : RaiseKeeps s s := ⟨rfl, rfl, fun _ h => h, fun h => h⟩

theorem RaiseKeeps.trans {s t u : State} (h : RaiseKeeps s t) (g : RaiseKeeps t u) : RaiseKeeps s u := by
  refine ⟨?_, ?_, fun n e => g.pend n (h.pend n e), fun e => g.chip (h.chip e)⟩
  · rw [g.sys, h.sys]
  · rw [g.flt, h.flt]

/-- A change elsewhere. -/
theorem RaiseKeeps.other {s t : State} (h : t.sys = s.sys) (g : t.flt = s.flt) : RaiseKeeps s t :=
  ⟨by rw [h], by rw [g], fun _ e => g ▸ e, fun e => g ▸ e⟩

theorem RaiseKeeps.step {s t u : State} (h : RaiseKeeps s t) (e : u.sys = t.sys) (g : u.flt = t.flt) : RaiseKeeps s u :=
  h.trans (.other e g)

theorem RaiseKeeps.foldl {α : Type} (g : State → α → State) (hg : ∀ u x, RaiseKeeps u (g u x)) (l : List α) :
    ∀ s, RaiseKeeps s (l.foldl g s) := by
  induction l with
  | nil => exact fun _ => .refl
  | cons x l ih => exact fun s => (hg s x).trans (ih _)

theorem getLsbD_setBit_640 (m : BitVec 640) (k n : Nat) (h : m.getLsbD n = true) : (setBit m k).getLsbD n = true := by
  simp [setBit, h]

theorem addFaultRecord_keeps (r : FaultRecord) (f : Flt) :
    addFaultRecord r f = { f with history := (addFaultRecord r f).history, historyTotal := (addFaultRecord r f).historyTotal } := by
  unfold addFaultRecord
  split <;> (try split) <;> rfl

theorem fltOccur_keeps (k : Nat) (s : State) : RaiseKeeps s (fltOccur k s) := by
  unfold fltOccur
  extract_lets f c cfg f1 rung pin d f2 f3
  split
  · exact ⟨rfl, rfl, fun _ h => h, fun h => h⟩
  · have e : f3 = { f2 with history := f3.history, historyTotal := f3.historyTotal } := by
      by_cases hc : c = 0
      · have : f3 = f2 := if_pos hc
        rw [this]
      · have : f3 = addFaultRecord _ f2 := if_neg hc
        rw [this]; exact addFaultRecord_keeps _ f2
    refine ⟨?_, ?_, ?_, ?_⟩
    · show (if pin then { s.sys with errMin := true } else s.sys) = _
      split <;> rfl
    · show f3 = _
      rw [e]
    · intro n h
      show f3.pend.getLsbD n = true
      rw [e]
      exact getLsbD_setBit_640 _ _ _ h
    · intro h
      show f3.chipReq = true
      rw [e]
      show (f.chipReq || _) = true
      rw [show f.chipReq = true from h]; rfl

theorem engineFaultW_keeps (rz : Nat → State → State) (hz : ∀ j s, RaiseKeeps s (rz j s)) (e : EngIx) (s : State) :
    RaiseKeeps s (engineFaultW rz e s) := by
  unfold engineFaultW
  cases drives s e with
  | none =>
    simp only
    split
    · exact .refl
    · refine RaiseKeeps.trans ?_ (hz _ _)
      exact .other rfl rfl
  | some a =>
    simp only
    split
    · exact .refl
    · refine RaiseKeeps.trans ?_ (hz _ _)
      exact .other (by simp [actInhibit]) (by simp [actInhibit])

/-- What is written for one BLK holds when the raises inside it hold. -/
theorem blkReset_keeps (rz : Nat → State → State) (hz : ∀ j s, RaiseKeeps s (rz j s)) (b : BlkOf) (s : State) :
    RaiseKeeps s (blkReset rz b s) := by
  have hy : ∀ j s, RaiseKeeps s (yckEventW rz j s) := fun j s => by
    unfold yckEventW; refine RaiseKeeps.trans ?_ (hz _ _); exact .other rfl rfl
  have hd : ∀ n s, RaiseKeeps s (dmaIrqW rz n s) := fun n s => by
    unfold dmaIrqW; refine RaiseKeeps.trans ?_ (hz _ _); exact .other rfl rfl
  have hr : ∀ q s, RaiseKeeps s (rung2SkipW rz q s) := fun q s => by
    unfold rung2SkipW; refine RaiseKeeps.trans ?_ (hz _ _); exact .other rfl rfl
  have hg : ∀ n s, RaiseKeeps s (requesterGone n s) := fun n s =>
    .other (requesterGone_frame (k := { hqm := true, stc := true }) Frame.refl rfl).keep_sys
      (requesterGone_frame (k := { hqm := true, stc := true }) Frame.refl rfl).keep_flt
  unfold blkReset
  split
  · split
    · refine RaiseKeeps.trans ?_ (hg _ _)
      exact ⟨rfl, rfl, fun _ h => h, fun h => h⟩
    · exact .refl
  · split
    · exact .other rfl rfl
    · exact .refl
  · unfold poolResetW
    refine RaiseKeeps.trans ?_ (RaiseKeeps.foldl _ (fun u x => hr x u) _ _)
    exact .other rfl rfl
  · split
    · exact engineFaultW_keeps rz hz _ _
    · exact .refl
  · exact .other rfl rfl
  · split
    · unfold yarnLostW
      extract_lets y o z w u
      split
      · exact .refl
      · have hu : RaiseKeeps s u := by
          refine RaiseKeeps.trans ?_ (hy _ _)
          exact .other rfl rfl
        have hp : ∀ v, RaiseKeeps v (enterPreamble rz v) := fun v => by
          unfold enterPreamble
          refine RaiseKeeps.trans ?_ (hy _ _)
          exact .other (by simp [withdrawQueued, preambleAborts]) (by simp [withdrawQueued, preambleAborts])
        split
        · exact hu.trans (hp u)
        · split
          · exact hu
          · split
            · exact hu.step (by simp) (by simp)
            · exact hu.trans (hp u)
    · exact .refl
  · exact .other rfl rfl
  · split
    · unfold chanAbortW
      extract_lets c
      split
      · refine RaiseKeeps.trans ?_ (hd _ _)
        refine .other ?_ ?_
        · exact (writeLE_frame (k := { mem := true }) Frame.refl rfl).keep_sys
        · exact (writeLE_frame (k := { mem := true }) Frame.refl rfl).keep_flt
      · refine RaiseKeeps.trans ?_ (hd _ _)
        refine .other ?_ ?_
        · exact (writeLE_frame (k := { mem := true }) Frame.refl rfl).keep_sys
        · exact (writeLE_frame (k := { mem := true }) Frame.refl rfl).keep_flt
      · exact .other rfl rfl
      · exact .refl
    · exact .refl
  · exact .other rfl rfl
  · unfold rldOut
    split
    · exact .refl
    · exact ⟨rfl, rfl, fun _ h => h, fun h => h⟩
  · exact .refl

theorem raiseN_keeps (n : Nat) : ∀ k s, RaiseKeeps s (raiseN n k s) := by
  induction n with
  | zero => exact fun k s => fltOccur_keeps k s
  | succ n ih =>
    intro k s
    unfold raiseN
    extract_lets live blk esc s1 s2
    have h1 : RaiseKeeps s s1 := by
      show RaiseKeeps s (if _ then _ else _)
      split
      · exact (fltOccur_keeps k s).step (by simp) (by simp)
      · exact fltOccur_keeps k s
    have h2 : RaiseKeeps s s2 := by
      show RaiseKeeps s (if _ then _ else _)
      split
      · exact h1.trans (blkReset_keeps _ ih _ _)
      · exact h1
    split
    · exact .refl
    · split
      · exact h2.trans (fltOccur_keeps 174 s2)
      · exact h2

/-- What one occurrence leaves. -/
theorem raise_keeps (k : Nat) (s : State) : RaiseKeeps s (raise k s) := raiseN_keeps 8 k s

/-- What several occurrences leave. -/
theorem raiseAll_keeps (ks : List Nat) (s : State) : RaiseKeeps s (raiseAll ks s) :=
  RaiseKeeps.foldl _ (fun u x => raise_keeps x u) (rising ks) s

@[simp] theorem raise_sys_inReset (k : Nat) (s : State) : (raise k s).sys.inReset = s.sys.inReset := by rw [(raise_keeps k s).sys]
@[simp] theorem raise_sys_porHold (k : Nat) (s : State) : (raise k s).sys.porHold = s.sys.porHold := by rw [(raise_keeps k s).sys]
@[simp] theorem raise_sys_rstLow (k : Nat) (s : State) : (raise k s).sys.rstLow = s.sys.rstLow := by rw [(raise_keeps k s).sys]
@[simp] theorem raise_sys_strap (k : Nat) (s : State) : (raise k s).sys.strap = s.sys.strap := by rw [(raise_keeps k s).sys]
@[simp] theorem raise_sys_phase (k : Nat) (s : State) : (raise k s).sys.phase = s.sys.phase := by rw [(raise_keeps k s).sys]
@[simp] theorem raise_sys_post (k : Nat) (s : State) : (raise k s).sys.post = s.sys.post := by rw [(raise_keeps k s).sys]
@[simp] theorem raise_sys_unloadLow (k : Nat) (s : State) : (raise k s).sys.unloadLow = s.sys.unloadLow := by rw [(raise_keeps k s).sys]
@[simp] theorem raise_sys_plActive (k : Nat) (s : State) : (raise k s).sys.plActive = s.sys.plActive := by rw [(raise_keeps k s).sys]
@[simp] theorem raise_sys_refugeEpoch (k : Nat) (s : State) : (raise k s).sys.refugeEpoch = s.sys.refugeEpoch := by rw [(raise_keeps k s).sys]
@[simp] theorem raise_sys_shares (k : Nat) (s : State) : (raise k s).sys.shares = s.sys.shares := by rw [(raise_keeps k s).sys]
@[simp] theorem raise_sys_sharesLost (k : Nat) (s : State) : (raise k s).sys.sharesLost = s.sys.sharesLost := by rw [(raise_keeps k s).sys]
@[simp] theorem raise_sys_refugeUnconsumed (k : Nat) (s : State) : (raise k s).sys.refugeUnconsumed = s.sys.refugeUnconsumed := by rw [(raise_keeps k s).sys]
@[simp] theorem raise_sys_permitIn (k : Nat) (s : State) : (raise k s).sys.permitIn = s.sys.permitIn := by rw [(raise_keeps k s).sys]
@[simp] theorem raise_sys_permitEarned (k : Nat) (s : State) : (raise k s).sys.permitEarned = s.sys.permitEarned := by rw [(raise_keeps k s).sys]
@[simp] theorem raise_sys_permitDelayOn (k : Nat) (s : State) : (raise k s).sys.permitDelayOn = s.sys.permitDelayOn := by rw [(raise_keeps k s).sys]
@[simp] theorem raise_sys_snsInt (k : Nat) (s : State) : (raise k s).sys.snsInt = s.sys.snsInt := by rw [(raise_keeps k s).sys]
@[simp] theorem raise_sys_paFault (k : Nat) (s : State) : (raise k s).sys.paFault = s.sys.paFault := by rw [(raise_keeps k s).sys]
@[simp] theorem raise_sys_pads (k : Nat) (s : State) : (raise k s).sys.pads = s.sys.pads := by rw [(raise_keeps k s).sys]
@[simp] theorem raise_sys_mux (k : Nat) (s : State) : (raise k s).sys.mux = s.sys.mux := by rw [(raise_keeps k s).sys]
@[simp] theorem raise_sys_safeCommit (k : Nat) (s : State) : (raise k s).sys.safeCommit = s.sys.safeCommit := by rw [(raise_keeps k s).sys]
@[simp] theorem raise_sys_ms (k : Nat) (s : State) : (raise k s).sys.ms = s.sys.ms := by rw [(raise_keeps k s).sys]
@[simp] theorem raise_sys_tsBase (k : Nat) (s : State) : (raise k s).sys.tsBase = s.sys.tsBase := by rw [(raise_keeps k s).sys]
@[simp] theorem raise_sys_tsSet (k : Nat) (s : State) : (raise k s).sys.tsSet = s.sys.tsSet := by rw [(raise_keeps k s).sys]
@[simp] theorem raise_sys_rdata (k : Nat) (s : State) : (raise k s).sys.rdata = s.sys.rdata := by rw [(raise_keeps k s).sys]
@[simp] theorem raise_sys_latched (k : Nat) (s : State) : (raise k s).sys.latched = s.sys.latched := by rw [(raise_keeps k s).sys]
@[simp] theorem raise_sys_staged (k : Nat) (s : State) : (raise k s).sys.staged = s.sys.staged := by rw [(raise_keeps k s).sys]
@[simp] theorem raise_sys_spinRequested (k : Nat) (s : State) : (raise k s).sys.spinRequested = s.sys.spinRequested := by rw [(raise_keeps k s).sys]
@[simp] theorem raise_sys_cleanStop (k : Nat) (s : State) : (raise k s).sys.cleanStop = s.sys.cleanStop := by rw [(raise_keeps k s).sys]
@[simp] theorem raise_sys_coastEpoch (k : Nat) (s : State) : (raise k s).sys.coastEpoch = s.sys.coastEpoch := by rw [(raise_keeps k s).sys]
@[simp] theorem raise_sys_journalDone (k : Nat) (s : State) : (raise k s).sys.journalDone = s.sys.journalDone := by rw [(raise_keeps k s).sys]
@[simp] theorem raise_sys_unlocks (k : Nat) (s : State) : (raise k s).sys.unlocks = s.sys.unlocks := by rw [(raise_keeps k s).sys]
@[simp] theorem raise_flt_regs (k : Nat) (s : State) : (raise k s).flt.regs = s.flt.regs := by rw [(raise_keeps k s).flt]
@[simp] theorem raise_flt_laneMap (k : Nat) (s : State) : (raise k s).flt.laneMap = s.flt.laneMap := by rw [(raise_keeps k s).flt]
@[simp] theorem raise_flt_srvMap (k : Nat) (s : State) : (raise k s).flt.srvMap = s.flt.srvMap := by rw [(raise_keeps k s).flt]
@[simp] theorem raise_flt_bindErr (k : Nat) (s : State) : (raise k s).flt.bindErr = s.flt.bindErr := by rw [(raise_keeps k s).flt]
@[simp] theorem raise_flt_role (k : Nat) (s : State) : (raise k s).flt.role = s.flt.role := by rw [(raise_keeps k s).flt]
@[simp] theorem raise_flt_staged (k : Nat) (s : State) : (raise k s).flt.staged = s.flt.staged := by rw [(raise_keeps k s).flt]
@[simp] theorem raise_flt_warm (k : Nat) (s : State) : (raise k s).flt.warm = s.flt.warm := by rw [(raise_keeps k s).flt]
@[simp] theorem raise_flt_chipTimes (k : Nat) (s : State) : (raise k s).flt.chipTimes = s.flt.chipTimes := by rw [(raise_keeps k s).flt]
@[simp] theorem raise_flt_chipTotal (k : Nat) (s : State) : (raise k s).flt.chipTotal = s.flt.chipTotal := by rw [(raise_keeps k s).flt]
@[simp] theorem raise_flt_reseeded (k : Nat) (s : State) : (raise k s).flt.reseeded = s.flt.reseeded := by rw [(raise_keeps k s).flt]
@[simp] theorem raise_flt_injOpen (k : Nat) (s : State) : (raise k s).flt.injOpen = s.flt.injOpen := by rw [(raise_keeps k s).flt]
@[simp] theorem raise_flt_nonce (k : Nat) (s : State) : (raise k s).flt.nonce = s.flt.nonce := by rw [(raise_keeps k s).flt]
@[simp] theorem raise_flt_armed (k : Nat) (s : State) : (raise k s).flt.armed = s.flt.armed := by rw [(raise_keeps k s).flt]
@[simp] theorem raise_flt_spareUse (k : Nat) (s : State) : (raise k s).flt.spareUse = s.flt.spareUse := by rw [(raise_keeps k s).flt]
@[simp] theorem raise_flt_spareSaved (k : Nat) (s : State) : (raise k s).flt.spareSaved = s.flt.spareSaved := by rw [(raise_keeps k s).flt]
@[simp] theorem raise_flt_sramSeen (k : Nat) (s : State) : (raise k s).flt.sramSeen = s.flt.sramSeen := by rw [(raise_keeps k s).flt]
@[simp] theorem raise_flt_patrolPass (k : Nat) (s : State) : (raise k s).flt.patrolPass = s.flt.patrolPass := by rw [(raise_keeps k s).flt]
@[simp] theorem raise_flt_rldBursts (k : Nat) (s : State) : (raise k s).flt.rldBursts = s.flt.rldBursts := by rw [(raise_keeps k s).flt]
@[simp] theorem raise_flt_coreCheck (k : Nat) (s : State) : (raise k s).flt.coreCheck = s.flt.coreCheck := by rw [(raise_keeps k s).flt]
@[simp] theorem raise_flt_coreFails (k : Nat) (s : State) : (raise k s).flt.coreFails = s.flt.coreFails := by rw [(raise_keeps k s).flt]
@[simp] theorem raise_flt_clusterFailed (k : Nat) (s : State) : (raise k s).flt.clusterFailed = s.flt.clusterFailed := by rw [(raise_keeps k s).flt]
@[simp] theorem raise_flt_seqFaults (k : Nat) (s : State) : (raise k s).flt.seqFaults = s.flt.seqFaults := by rw [(raise_keeps k s).flt]
@[simp] theorem raise_flt_rungOne (k : Nat) (s : State) : (raise k s).flt.rungOne = s.flt.rungOne := by rw [(raise_keeps k s).flt]
@[simp] theorem raise_flt_failRec (k : Nat) (s : State) : (raise k s).flt.failRec = s.flt.failRec := by rw [(raise_keeps k s).flt]

end Sys2Proof.Laws
end

