-- ==== Sys2Proof/Laws/State.lean ====
section
/-!
SUPPORT. What each one-part update leaves and what it sets, so that no proof unfolds a record update.
-/
namespace Sys2Proof.Laws
open Sys2Proof Sys2Proof.Machine

set_option Elab.async false

/-! ### What an update sets -/

@[simp] theorem setLane_lane (l : LaneIx) (v : Lane) (s : State) : (setLane l v s).lane = s.lane.set l v := rfl
@[simp] theorem setCtl_ctl (c : CtlIx) (v : Ctl) (s : State) : (setCtl c v s).hif.ctl = s.hif.ctl.set c v := rfl
@[simp] theorem setRdata_rdata (w : Word) (s : State) : (setRdata w s).sys.rdata = w := rfl
@[simp] theorem setChan_chan (n : ChanIx) (c : Chan) (s : State) : (setChan n c s).dma.chan = s.dma.chan.set n c := rfl
@[simp] theorem setZone_zones (n : Nat) (z : Zone) (s : State) : (setZone n z s).arr.zones = keyPut s.arr.zones n z := rfl
@[simp] theorem setMember_member (m : Fin 24) (v : Member) (s : State) : (setMember m v s).arr.member = s.arr.member.set m v := rfl
@[simp] theorem setBlock_blocks (k : Nat) (b : Block) (s : State) : (setBlock k b s).arr.blocks = keyPut s.arr.blocks k b := rfl
@[simp] theorem setAvail_avail (a : ActIx) (v : ActAvail) (s : State) : (setAvail a v s).arr.avail = s.arr.avail.set a v := rfl
@[simp] theorem setMi_mi (m : Mi) (s : State) : (setMi m s).host.mi = m := rfl
@[simp] theorem setFw_fw (f : Fw) (s : State) : (setFw f s).host.fw = f := rfl
@[simp] theorem setOpal_opal (o : Opal) (s : State) : (setOpal o s).host.opal = o := rfl
@[simp] theorem setSrv_srv (e : EngIx) (v : Srv) (s : State) : (setSrv e v s).srv = s.srv.set e v := rfl
@[simp] theorem setPort_port (a : ActIx) (v : Port) (s : State) : (setPort a v s).port = s.port.set a v := rfl
@[simp] theorem setPortDom_dom (c : CtlIx) (d : DomState) (s : State) : (setPortDom c d s).pwr.dom = s.pwr.dom.set (6 + c.val) d := rfl
@[simp] theorem bindStep_phase (b : BindTrigger) (n : Nat) (s : State) : (bindStep b n s).sys.phase = .bindoff b n := rfl
@[simp] theorem earnPermit_permitEarned (s : State) : (earnPermit s).sys.permitEarned = true := rfl

/-! ### What an update leaves -/

@[simp] theorem setLane_sys (a0 : LaneIx) (a1 : Lane) (s : State) : (setLane a0 a1 s).sys = s.sys := rfl
@[simp] theorem setLane_flt (a0 : LaneIx) (a1 : Lane) (s : State) : (setLane a0 a1 s).flt = s.flt := rfl
@[simp] theorem setLane_pwr (a0 : LaneIx) (a1 : Lane) (s : State) : (setLane a0 a1 s).pwr = s.pwr := rfl
@[simp] theorem setLane_clk (a0 : LaneIx) (a1 : Lane) (s : State) : (setLane a0 a1 s).clk = s.clk := rfl
@[simp] theorem setLane_spn (a0 : LaneIx) (a1 : Lane) (s : State) : (setLane a0 a1 s).spn = s.spn := rfl
@[simp] theorem setLane_srv (a0 : LaneIx) (a1 : Lane) (s : State) : (setLane a0 a1 s).srv = s.srv := rfl
@[simp] theorem setLane_port (a0 : LaneIx) (a1 : Lane) (s : State) : (setLane a0 a1 s).port = s.port := rfl
@[simp] theorem setLane_sns (a0 : LaneIx) (a1 : Lane) (s : State) : (setLane a0 a1 s).sns = s.sns := rfl
@[simp] theorem setLane_yck (a0 : LaneIx) (a1 : Lane) (s : State) : (setLane a0 a1 s).yck = s.yck := rfl
@[simp] theorem setLane_ddp (a0 : LaneIx) (a1 : Lane) (s : State) : (setLane a0 a1 s).ddp = s.ddp := rfl
@[simp] theorem setLane_media (a0 : LaneIx) (a1 : Lane) (s : State) : (setLane a0 a1 s).media = s.media := rfl
@[simp] theorem setLane_dma (a0 : LaneIx) (a1 : Lane) (s : State) : (setLane a0 a1 s).dma = s.dma := rfl
@[simp] theorem setLane_hqm (a0 : LaneIx) (a1 : Lane) (s : State) : (setLane a0 a1 s).hqm = s.hqm := rfl
@[simp] theorem setLane_cap (a0 : LaneIx) (a1 : Lane) (s : State) : (setLane a0 a1 s).cap = s.cap := rfl
@[simp] theorem setLane_stc (a0 : LaneIx) (a1 : Lane) (s : State) : (setLane a0 a1 s).stc = s.stc := rfl
@[simp] theorem setLane_spe (a0 : LaneIx) (a1 : Lane) (s : State) : (setLane a0 a1 s).spe = s.spe := rfl
@[simp] theorem setLane_arr (a0 : LaneIx) (a1 : Lane) (s : State) : (setLane a0 a1 s).arr = s.arr := rfl
@[simp] theorem setLane_hif (a0 : LaneIx) (a1 : Lane) (s : State) : (setLane a0 a1 s).hif = s.hif := rfl
@[simp] theorem setLane_host (a0 : LaneIx) (a1 : Lane) (s : State) : (setLane a0 a1 s).host = s.host := rfl
@[simp] theorem setLane_mem (a0 : LaneIx) (a1 : Lane) (s : State) : (setLane a0 a1 s).mem = s.mem := rfl
@[simp] theorem setLane_free (a0 : LaneIx) (a1 : Lane) (s : State) : (setLane a0 a1 s).free = s.free := rfl
@[simp] theorem setLane_pending (a0 : LaneIx) (a1 : Lane) (s : State) : (setLane a0 a1 s).pending = s.pending := rfl

@[simp] theorem setCtl_sys (a0 : CtlIx) (a1 : Ctl) (s : State) : (setCtl a0 a1 s).sys = s.sys := rfl
@[simp] theorem setCtl_flt (a0 : CtlIx) (a1 : Ctl) (s : State) : (setCtl a0 a1 s).flt = s.flt := rfl
@[simp] theorem setCtl_pwr (a0 : CtlIx) (a1 : Ctl) (s : State) : (setCtl a0 a1 s).pwr = s.pwr := rfl
@[simp] theorem setCtl_clk (a0 : CtlIx) (a1 : Ctl) (s : State) : (setCtl a0 a1 s).clk = s.clk := rfl
@[simp] theorem setCtl_spn (a0 : CtlIx) (a1 : Ctl) (s : State) : (setCtl a0 a1 s).spn = s.spn := rfl
@[simp] theorem setCtl_srv (a0 : CtlIx) (a1 : Ctl) (s : State) : (setCtl a0 a1 s).srv = s.srv := rfl
@[simp] theorem setCtl_port (a0 : CtlIx) (a1 : Ctl) (s : State) : (setCtl a0 a1 s).port = s.port := rfl
@[simp] theorem setCtl_sns (a0 : CtlIx) (a1 : Ctl) (s : State) : (setCtl a0 a1 s).sns = s.sns := rfl
@[simp] theorem setCtl_yck (a0 : CtlIx) (a1 : Ctl) (s : State) : (setCtl a0 a1 s).yck = s.yck := rfl
@[simp] theorem setCtl_lane (a0 : CtlIx) (a1 : Ctl) (s : State) : (setCtl a0 a1 s).lane = s.lane := rfl
@[simp] theorem setCtl_ddp (a0 : CtlIx) (a1 : Ctl) (s : State) : (setCtl a0 a1 s).ddp = s.ddp := rfl
@[simp] theorem setCtl_media (a0 : CtlIx) (a1 : Ctl) (s : State) : (setCtl a0 a1 s).media = s.media := rfl
@[simp] theorem setCtl_dma (a0 : CtlIx) (a1 : Ctl) (s : State) : (setCtl a0 a1 s).dma = s.dma := rfl
@[simp] theorem setCtl_hqm (a0 : CtlIx) (a1 : Ctl) (s : State) : (setCtl a0 a1 s).hqm = s.hqm := rfl
@[simp] theorem setCtl_cap (a0 : CtlIx) (a1 : Ctl) (s : State) : (setCtl a0 a1 s).cap = s.cap := rfl
@[simp] theorem setCtl_stc (a0 : CtlIx) (a1 : Ctl) (s : State) : (setCtl a0 a1 s).stc = s.stc := rfl
@[simp] theorem setCtl_spe (a0 : CtlIx) (a1 : Ctl) (s : State) : (setCtl a0 a1 s).spe = s.spe := rfl
@[simp] theorem setCtl_arr (a0 : CtlIx) (a1 : Ctl) (s : State) : (setCtl a0 a1 s).arr = s.arr := rfl
@[simp] theorem setCtl_host (a0 : CtlIx) (a1 : Ctl) (s : State) : (setCtl a0 a1 s).host = s.host := rfl
@[simp] theorem setCtl_mem (a0 : CtlIx) (a1 : Ctl) (s : State) : (setCtl a0 a1 s).mem = s.mem := rfl
@[simp] theorem setCtl_free (a0 : CtlIx) (a1 : Ctl) (s : State) : (setCtl a0 a1 s).free = s.free := rfl
@[simp] theorem setCtl_pending (a0 : CtlIx) (a1 : Ctl) (s : State) : (setCtl a0 a1 s).pending = s.pending := rfl

@[simp] theorem setFeature_sys (a0 : Nat) (a1 : Nat) (s : State) : (setFeature a0 a1 s).sys = s.sys := rfl
@[simp] theorem setFeature_flt (a0 : Nat) (a1 : Nat) (s : State) : (setFeature a0 a1 s).flt = s.flt := rfl
@[simp] theorem setFeature_pwr (a0 : Nat) (a1 : Nat) (s : State) : (setFeature a0 a1 s).pwr = s.pwr := rfl
@[simp] theorem setFeature_clk (a0 : Nat) (a1 : Nat) (s : State) : (setFeature a0 a1 s).clk = s.clk := rfl
@[simp] theorem setFeature_spn (a0 : Nat) (a1 : Nat) (s : State) : (setFeature a0 a1 s).spn = s.spn := rfl
@[simp] theorem setFeature_srv (a0 : Nat) (a1 : Nat) (s : State) : (setFeature a0 a1 s).srv = s.srv := rfl
@[simp] theorem setFeature_port (a0 : Nat) (a1 : Nat) (s : State) : (setFeature a0 a1 s).port = s.port := rfl
@[simp] theorem setFeature_sns (a0 : Nat) (a1 : Nat) (s : State) : (setFeature a0 a1 s).sns = s.sns := rfl
@[simp] theorem setFeature_yck (a0 : Nat) (a1 : Nat) (s : State) : (setFeature a0 a1 s).yck = s.yck := rfl
@[simp] theorem setFeature_lane (a0 : Nat) (a1 : Nat) (s : State) : (setFeature a0 a1 s).lane = s.lane := rfl
@[simp] theorem setFeature_ddp (a0 : Nat) (a1 : Nat) (s : State) : (setFeature a0 a1 s).ddp = s.ddp := rfl
@[simp] theorem setFeature_media (a0 : Nat) (a1 : Nat) (s : State) : (setFeature a0 a1 s).media = s.media := rfl
@[simp] theorem setFeature_dma (a0 : Nat) (a1 : Nat) (s : State) : (setFeature a0 a1 s).dma = s.dma := rfl
@[simp] theorem setFeature_hqm (a0 : Nat) (a1 : Nat) (s : State) : (setFeature a0 a1 s).hqm = s.hqm := rfl
@[simp] theorem setFeature_cap (a0 : Nat) (a1 : Nat) (s : State) : (setFeature a0 a1 s).cap = s.cap := rfl
@[simp] theorem setFeature_stc (a0 : Nat) (a1 : Nat) (s : State) : (setFeature a0 a1 s).stc = s.stc := rfl
@[simp] theorem setFeature_spe (a0 : Nat) (a1 : Nat) (s : State) : (setFeature a0 a1 s).spe = s.spe := rfl
@[simp] theorem setFeature_arr (a0 : Nat) (a1 : Nat) (s : State) : (setFeature a0 a1 s).arr = s.arr := rfl
@[simp] theorem setFeature_hif (a0 : Nat) (a1 : Nat) (s : State) : (setFeature a0 a1 s).hif = s.hif := rfl
@[simp] theorem setFeature_mem (a0 : Nat) (a1 : Nat) (s : State) : (setFeature a0 a1 s).mem = s.mem := rfl
@[simp] theorem setFeature_free (a0 : Nat) (a1 : Nat) (s : State) : (setFeature a0 a1 s).free = s.free := rfl
@[simp] theorem setFeature_pending (a0 : Nat) (a1 : Nat) (s : State) : (setFeature a0 a1 s).pending = s.pending := rfl

@[simp] theorem setRdata_flt (a0 : Word) (s : State) : (setRdata a0 s).flt = s.flt := rfl
@[simp] theorem setRdata_pwr (a0 : Word) (s : State) : (setRdata a0 s).pwr = s.pwr := rfl
@[simp] theorem setRdata_clk (a0 : Word) (s : State) : (setRdata a0 s).clk = s.clk := rfl
@[simp] theorem setRdata_spn (a0 : Word) (s : State) : (setRdata a0 s).spn = s.spn := rfl
@[simp] theorem setRdata_srv (a0 : Word) (s : State) : (setRdata a0 s).srv = s.srv := rfl
@[simp] theorem setRdata_port (a0 : Word) (s : State) : (setRdata a0 s).port = s.port := rfl
@[simp] theorem setRdata_sns (a0 : Word) (s : State) : (setRdata a0 s).sns = s.sns := rfl
@[simp] theorem setRdata_yck (a0 : Word) (s : State) : (setRdata a0 s).yck = s.yck := rfl
@[simp] theorem setRdata_lane (a0 : Word) (s : State) : (setRdata a0 s).lane = s.lane := rfl
@[simp] theorem setRdata_ddp (a0 : Word) (s : State) : (setRdata a0 s).ddp = s.ddp := rfl
@[simp] theorem setRdata_media (a0 : Word) (s : State) : (setRdata a0 s).media = s.media := rfl
@[simp] theorem setRdata_dma (a0 : Word) (s : State) : (setRdata a0 s).dma = s.dma := rfl
@[simp] theorem setRdata_hqm (a0 : Word) (s : State) : (setRdata a0 s).hqm = s.hqm := rfl
@[simp] theorem setRdata_cap (a0 : Word) (s : State) : (setRdata a0 s).cap = s.cap := rfl
@[simp] theorem setRdata_stc (a0 : Word) (s : State) : (setRdata a0 s).stc = s.stc := rfl
@[simp] theorem setRdata_spe (a0 : Word) (s : State) : (setRdata a0 s).spe = s.spe := rfl
@[simp] theorem setRdata_arr (a0 : Word) (s : State) : (setRdata a0 s).arr = s.arr := rfl
@[simp] theorem setRdata_hif (a0 : Word) (s : State) : (setRdata a0 s).hif = s.hif := rfl
@[simp] theorem setRdata_host (a0 : Word) (s : State) : (setRdata a0 s).host = s.host := rfl
@[simp] theorem setRdata_mem (a0 : Word) (s : State) : (setRdata a0 s).mem = s.mem := rfl
@[simp] theorem setRdata_free (a0 : Word) (s : State) : (setRdata a0 s).free = s.free := rfl
@[simp] theorem setRdata_pending (a0 : Word) (s : State) : (setRdata a0 s).pending = s.pending := rfl

@[simp] theorem setChan_sys (a0 : ChanIx) (a1 : Chan) (s : State) : (setChan a0 a1 s).sys = s.sys := rfl
@[simp] theorem setChan_flt (a0 : ChanIx) (a1 : Chan) (s : State) : (setChan a0 a1 s).flt = s.flt := rfl
@[simp] theorem setChan_pwr (a0 : ChanIx) (a1 : Chan) (s : State) : (setChan a0 a1 s).pwr = s.pwr := rfl
@[simp] theorem setChan_clk (a0 : ChanIx) (a1 : Chan) (s : State) : (setChan a0 a1 s).clk = s.clk := rfl
@[simp] theorem setChan_spn (a0 : ChanIx) (a1 : Chan) (s : State) : (setChan a0 a1 s).spn = s.spn := rfl
@[simp] theorem setChan_srv (a0 : ChanIx) (a1 : Chan) (s : State) : (setChan a0 a1 s).srv = s.srv := rfl
@[simp] theorem setChan_port (a0 : ChanIx) (a1 : Chan) (s : State) : (setChan a0 a1 s).port = s.port := rfl
@[simp] theorem setChan_sns (a0 : ChanIx) (a1 : Chan) (s : State) : (setChan a0 a1 s).sns = s.sns := rfl
@[simp] theorem setChan_yck (a0 : ChanIx) (a1 : Chan) (s : State) : (setChan a0 a1 s).yck = s.yck := rfl
@[simp] theorem setChan_lane (a0 : ChanIx) (a1 : Chan) (s : State) : (setChan a0 a1 s).lane = s.lane := rfl
@[simp] theorem setChan_ddp (a0 : ChanIx) (a1 : Chan) (s : State) : (setChan a0 a1 s).ddp = s.ddp := rfl
@[simp] theorem setChan_media (a0 : ChanIx) (a1 : Chan) (s : State) : (setChan a0 a1 s).media = s.media := rfl
@[simp] theorem setChan_hqm (a0 : ChanIx) (a1 : Chan) (s : State) : (setChan a0 a1 s).hqm = s.hqm := rfl
@[simp] theorem setChan_cap (a0 : ChanIx) (a1 : Chan) (s : State) : (setChan a0 a1 s).cap = s.cap := rfl
@[simp] theorem setChan_stc (a0 : ChanIx) (a1 : Chan) (s : State) : (setChan a0 a1 s).stc = s.stc := rfl
@[simp] theorem setChan_spe (a0 : ChanIx) (a1 : Chan) (s : State) : (setChan a0 a1 s).spe = s.spe := rfl
@[simp] theorem setChan_arr (a0 : ChanIx) (a1 : Chan) (s : State) : (setChan a0 a1 s).arr = s.arr := rfl
@[simp] theorem setChan_hif (a0 : ChanIx) (a1 : Chan) (s : State) : (setChan a0 a1 s).hif = s.hif := rfl
@[simp] theorem setChan_host (a0 : ChanIx) (a1 : Chan) (s : State) : (setChan a0 a1 s).host = s.host := rfl
@[simp] theorem setChan_mem (a0 : ChanIx) (a1 : Chan) (s : State) : (setChan a0 a1 s).mem = s.mem := rfl
@[simp] theorem setChan_free (a0 : ChanIx) (a1 : Chan) (s : State) : (setChan a0 a1 s).free = s.free := rfl
@[simp] theorem setChan_pending (a0 : ChanIx) (a1 : Chan) (s : State) : (setChan a0 a1 s).pending = s.pending := rfl

@[simp] theorem setRing_sys (a0 : Nat) (a1 : Ring) (s : State) : (setRing a0 a1 s).sys = s.sys := rfl
@[simp] theorem setRing_flt (a0 : Nat) (a1 : Ring) (s : State) : (setRing a0 a1 s).flt = s.flt := rfl
@[simp] theorem setRing_pwr (a0 : Nat) (a1 : Ring) (s : State) : (setRing a0 a1 s).pwr = s.pwr := rfl
@[simp] theorem setRing_clk (a0 : Nat) (a1 : Ring) (s : State) : (setRing a0 a1 s).clk = s.clk := rfl
@[simp] theorem setRing_spn (a0 : Nat) (a1 : Ring) (s : State) : (setRing a0 a1 s).spn = s.spn := rfl
@[simp] theorem setRing_srv (a0 : Nat) (a1 : Ring) (s : State) : (setRing a0 a1 s).srv = s.srv := rfl
@[simp] theorem setRing_port (a0 : Nat) (a1 : Ring) (s : State) : (setRing a0 a1 s).port = s.port := rfl
@[simp] theorem setRing_sns (a0 : Nat) (a1 : Ring) (s : State) : (setRing a0 a1 s).sns = s.sns := rfl
@[simp] theorem setRing_yck (a0 : Nat) (a1 : Ring) (s : State) : (setRing a0 a1 s).yck = s.yck := rfl
@[simp] theorem setRing_lane (a0 : Nat) (a1 : Ring) (s : State) : (setRing a0 a1 s).lane = s.lane := rfl
@[simp] theorem setRing_ddp (a0 : Nat) (a1 : Ring) (s : State) : (setRing a0 a1 s).ddp = s.ddp := rfl
@[simp] theorem setRing_media (a0 : Nat) (a1 : Ring) (s : State) : (setRing a0 a1 s).media = s.media := rfl
@[simp] theorem setRing_dma (a0 : Nat) (a1 : Ring) (s : State) : (setRing a0 a1 s).dma = s.dma := rfl
@[simp] theorem setRing_cap (a0 : Nat) (a1 : Ring) (s : State) : (setRing a0 a1 s).cap = s.cap := rfl
@[simp] theorem setRing_stc (a0 : Nat) (a1 : Ring) (s : State) : (setRing a0 a1 s).stc = s.stc := rfl
@[simp] theorem setRing_spe (a0 : Nat) (a1 : Ring) (s : State) : (setRing a0 a1 s).spe = s.spe := rfl
@[simp] theorem setRing_arr (a0 : Nat) (a1 : Ring) (s : State) : (setRing a0 a1 s).arr = s.arr := rfl
@[simp] theorem setRing_hif (a0 : Nat) (a1 : Ring) (s : State) : (setRing a0 a1 s).hif = s.hif := rfl
@[simp] theorem setRing_host (a0 : Nat) (a1 : Ring) (s : State) : (setRing a0 a1 s).host = s.host := rfl
@[simp] theorem setRing_mem (a0 : Nat) (a1 : Ring) (s : State) : (setRing a0 a1 s).mem = s.mem := rfl
@[simp] theorem setRing_free (a0 : Nat) (a1 : Ring) (s : State) : (setRing a0 a1 s).free = s.free := rfl
@[simp] theorem setRing_pending (a0 : Nat) (a1 : Ring) (s : State) : (setRing a0 a1 s).pending = s.pending := rfl

@[simp] theorem setHqmPort_sys (a0 : Nat) (a1 : HqmPort) (s : State) : (setHqmPort a0 a1 s).sys = s.sys := rfl
@[simp] theorem setHqmPort_flt (a0 : Nat) (a1 : HqmPort) (s : State) : (setHqmPort a0 a1 s).flt = s.flt := rfl
@[simp] theorem setHqmPort_pwr (a0 : Nat) (a1 : HqmPort) (s : State) : (setHqmPort a0 a1 s).pwr = s.pwr := rfl
@[simp] theorem setHqmPort_clk (a0 : Nat) (a1 : HqmPort) (s : State) : (setHqmPort a0 a1 s).clk = s.clk := rfl
@[simp] theorem setHqmPort_spn (a0 : Nat) (a1 : HqmPort) (s : State) : (setHqmPort a0 a1 s).spn = s.spn := rfl
@[simp] theorem setHqmPort_srv (a0 : Nat) (a1 : HqmPort) (s : State) : (setHqmPort a0 a1 s).srv = s.srv := rfl
@[simp] theorem setHqmPort_port (a0 : Nat) (a1 : HqmPort) (s : State) : (setHqmPort a0 a1 s).port = s.port := rfl
@[simp] theorem setHqmPort_sns (a0 : Nat) (a1 : HqmPort) (s : State) : (setHqmPort a0 a1 s).sns = s.sns := rfl
@[simp] theorem setHqmPort_yck (a0 : Nat) (a1 : HqmPort) (s : State) : (setHqmPort a0 a1 s).yck = s.yck := rfl
@[simp] theorem setHqmPort_lane (a0 : Nat) (a1 : HqmPort) (s : State) : (setHqmPort a0 a1 s).lane = s.lane := rfl
@[simp] theorem setHqmPort_ddp (a0 : Nat) (a1 : HqmPort) (s : State) : (setHqmPort a0 a1 s).ddp = s.ddp := rfl
@[simp] theorem setHqmPort_media (a0 : Nat) (a1 : HqmPort) (s : State) : (setHqmPort a0 a1 s).media = s.media := rfl
@[simp] theorem setHqmPort_dma (a0 : Nat) (a1 : HqmPort) (s : State) : (setHqmPort a0 a1 s).dma = s.dma := rfl
@[simp] theorem setHqmPort_cap (a0 : Nat) (a1 : HqmPort) (s : State) : (setHqmPort a0 a1 s).cap = s.cap := rfl
@[simp] theorem setHqmPort_stc (a0 : Nat) (a1 : HqmPort) (s : State) : (setHqmPort a0 a1 s).stc = s.stc := rfl
@[simp] theorem setHqmPort_spe (a0 : Nat) (a1 : HqmPort) (s : State) : (setHqmPort a0 a1 s).spe = s.spe := rfl
@[simp] theorem setHqmPort_arr (a0 : Nat) (a1 : HqmPort) (s : State) : (setHqmPort a0 a1 s).arr = s.arr := rfl
@[simp] theorem setHqmPort_hif (a0 : Nat) (a1 : HqmPort) (s : State) : (setHqmPort a0 a1 s).hif = s.hif := rfl
@[simp] theorem setHqmPort_host (a0 : Nat) (a1 : HqmPort) (s : State) : (setHqmPort a0 a1 s).host = s.host := rfl
@[simp] theorem setHqmPort_mem (a0 : Nat) (a1 : HqmPort) (s : State) : (setHqmPort a0 a1 s).mem = s.mem := rfl
@[simp] theorem setHqmPort_free (a0 : Nat) (a1 : HqmPort) (s : State) : (setHqmPort a0 a1 s).free = s.free := rfl
@[simp] theorem setHqmPort_pending (a0 : Nat) (a1 : HqmPort) (s : State) : (setHqmPort a0 a1 s).pending = s.pending := rfl

@[simp] theorem setZone_sys (a0 : Nat) (a1 : Zone) (s : State) : (setZone a0 a1 s).sys = s.sys := rfl
@[simp] theorem setZone_flt (a0 : Nat) (a1 : Zone) (s : State) : (setZone a0 a1 s).flt = s.flt := rfl
@[simp] theorem setZone_pwr (a0 : Nat) (a1 : Zone) (s : State) : (setZone a0 a1 s).pwr = s.pwr := rfl
@[simp] theorem setZone_clk (a0 : Nat) (a1 : Zone) (s : State) : (setZone a0 a1 s).clk = s.clk := rfl
@[simp] theorem setZone_spn (a0 : Nat) (a1 : Zone) (s : State) : (setZone a0 a1 s).spn = s.spn := rfl
@[simp] theorem setZone_srv (a0 : Nat) (a1 : Zone) (s : State) : (setZone a0 a1 s).srv = s.srv := rfl
@[simp] theorem setZone_port (a0 : Nat) (a1 : Zone) (s : State) : (setZone a0 a1 s).port = s.port := rfl
@[simp] theorem setZone_sns (a0 : Nat) (a1 : Zone) (s : State) : (setZone a0 a1 s).sns = s.sns := rfl
@[simp] theorem setZone_yck (a0 : Nat) (a1 : Zone) (s : State) : (setZone a0 a1 s).yck = s.yck := rfl
@[simp] theorem setZone_lane (a0 : Nat) (a1 : Zone) (s : State) : (setZone a0 a1 s).lane = s.lane := rfl
@[simp] theorem setZone_ddp (a0 : Nat) (a1 : Zone) (s : State) : (setZone a0 a1 s).ddp = s.ddp := rfl
@[simp] theorem setZone_media (a0 : Nat) (a1 : Zone) (s : State) : (setZone a0 a1 s).media = s.media := rfl
@[simp] theorem setZone_dma (a0 : Nat) (a1 : Zone) (s : State) : (setZone a0 a1 s).dma = s.dma := rfl
@[simp] theorem setZone_hqm (a0 : Nat) (a1 : Zone) (s : State) : (setZone a0 a1 s).hqm = s.hqm := rfl
@[simp] theorem setZone_cap (a0 : Nat) (a1 : Zone) (s : State) : (setZone a0 a1 s).cap = s.cap := rfl
@[simp] theorem setZone_stc (a0 : Nat) (a1 : Zone) (s : State) : (setZone a0 a1 s).stc = s.stc := rfl
@[simp] theorem setZone_spe (a0 : Nat) (a1 : Zone) (s : State) : (setZone a0 a1 s).spe = s.spe := rfl
@[simp] theorem setZone_hif (a0 : Nat) (a1 : Zone) (s : State) : (setZone a0 a1 s).hif = s.hif := rfl
@[simp] theorem setZone_host (a0 : Nat) (a1 : Zone) (s : State) : (setZone a0 a1 s).host = s.host := rfl
@[simp] theorem setZone_mem (a0 : Nat) (a1 : Zone) (s : State) : (setZone a0 a1 s).mem = s.mem := rfl
@[simp] theorem setZone_free (a0 : Nat) (a1 : Zone) (s : State) : (setZone a0 a1 s).free = s.free := rfl
@[simp] theorem setZone_pending (a0 : Nat) (a1 : Zone) (s : State) : (setZone a0 a1 s).pending = s.pending := rfl

@[simp] theorem setMember_sys (a0 : Fin 24) (a1 : Member) (s : State) : (setMember a0 a1 s).sys = s.sys := rfl
@[simp] theorem setMember_flt (a0 : Fin 24) (a1 : Member) (s : State) : (setMember a0 a1 s).flt = s.flt := rfl
@[simp] theorem setMember_pwr (a0 : Fin 24) (a1 : Member) (s : State) : (setMember a0 a1 s).pwr = s.pwr := rfl
@[simp] theorem setMember_clk (a0 : Fin 24) (a1 : Member) (s : State) : (setMember a0 a1 s).clk = s.clk := rfl
@[simp] theorem setMember_spn (a0 : Fin 24) (a1 : Member) (s : State) : (setMember a0 a1 s).spn = s.spn := rfl
@[simp] theorem setMember_srv (a0 : Fin 24) (a1 : Member) (s : State) : (setMember a0 a1 s).srv = s.srv := rfl
@[simp] theorem setMember_port (a0 : Fin 24) (a1 : Member) (s : State) : (setMember a0 a1 s).port = s.port := rfl
@[simp] theorem setMember_sns (a0 : Fin 24) (a1 : Member) (s : State) : (setMember a0 a1 s).sns = s.sns := rfl
@[simp] theorem setMember_yck (a0 : Fin 24) (a1 : Member) (s : State) : (setMember a0 a1 s).yck = s.yck := rfl
@[simp] theorem setMember_lane (a0 : Fin 24) (a1 : Member) (s : State) : (setMember a0 a1 s).lane = s.lane := rfl
@[simp] theorem setMember_ddp (a0 : Fin 24) (a1 : Member) (s : State) : (setMember a0 a1 s).ddp = s.ddp := rfl
@[simp] theorem setMember_media (a0 : Fin 24) (a1 : Member) (s : State) : (setMember a0 a1 s).media = s.media := rfl
@[simp] theorem setMember_dma (a0 : Fin 24) (a1 : Member) (s : State) : (setMember a0 a1 s).dma = s.dma := rfl
@[simp] theorem setMember_hqm (a0 : Fin 24) (a1 : Member) (s : State) : (setMember a0 a1 s).hqm = s.hqm := rfl
@[simp] theorem setMember_cap (a0 : Fin 24) (a1 : Member) (s : State) : (setMember a0 a1 s).cap = s.cap := rfl
@[simp] theorem setMember_stc (a0 : Fin 24) (a1 : Member) (s : State) : (setMember a0 a1 s).stc = s.stc := rfl
@[simp] theorem setMember_spe (a0 : Fin 24) (a1 : Member) (s : State) : (setMember a0 a1 s).spe = s.spe := rfl
@[simp] theorem setMember_hif (a0 : Fin 24) (a1 : Member) (s : State) : (setMember a0 a1 s).hif = s.hif := rfl
@[simp] theorem setMember_host (a0 : Fin 24) (a1 : Member) (s : State) : (setMember a0 a1 s).host = s.host := rfl
@[simp] theorem setMember_mem (a0 : Fin 24) (a1 : Member) (s : State) : (setMember a0 a1 s).mem = s.mem := rfl
@[simp] theorem setMember_free (a0 : Fin 24) (a1 : Member) (s : State) : (setMember a0 a1 s).free = s.free := rfl
@[simp] theorem setMember_pending (a0 : Fin 24) (a1 : Member) (s : State) : (setMember a0 a1 s).pending = s.pending := rfl

@[simp] theorem setBlock_sys (a0 : Nat) (a1 : Block) (s : State) : (setBlock a0 a1 s).sys = s.sys := rfl
@[simp] theorem setBlock_flt (a0 : Nat) (a1 : Block) (s : State) : (setBlock a0 a1 s).flt = s.flt := rfl
@[simp] theorem setBlock_pwr (a0 : Nat) (a1 : Block) (s : State) : (setBlock a0 a1 s).pwr = s.pwr := rfl
@[simp] theorem setBlock_clk (a0 : Nat) (a1 : Block) (s : State) : (setBlock a0 a1 s).clk = s.clk := rfl
@[simp] theorem setBlock_spn (a0 : Nat) (a1 : Block) (s : State) : (setBlock a0 a1 s).spn = s.spn := rfl
@[simp] theorem setBlock_srv (a0 : Nat) (a1 : Block) (s : State) : (setBlock a0 a1 s).srv = s.srv := rfl
@[simp] theorem setBlock_port (a0 : Nat) (a1 : Block) (s : State) : (setBlock a0 a1 s).port = s.port := rfl
@[simp] theorem setBlock_sns (a0 : Nat) (a1 : Block) (s : State) : (setBlock a0 a1 s).sns = s.sns := rfl
@[simp] theorem setBlock_yck (a0 : Nat) (a1 : Block) (s : State) : (setBlock a0 a1 s).yck = s.yck := rfl
@[simp] theorem setBlock_lane (a0 : Nat) (a1 : Block) (s : State) : (setBlock a0 a1 s).lane = s.lane := rfl
@[simp] theorem setBlock_ddp (a0 : Nat) (a1 : Block) (s : State) : (setBlock a0 a1 s).ddp = s.ddp := rfl
@[simp] theorem setBlock_media (a0 : Nat) (a1 : Block) (s : State) : (setBlock a0 a1 s).media = s.media := rfl
@[simp] theorem setBlock_dma (a0 : Nat) (a1 : Block) (s : State) : (setBlock a0 a1 s).dma = s.dma := rfl
@[simp] theorem setBlock_hqm (a0 : Nat) (a1 : Block) (s : State) : (setBlock a0 a1 s).hqm = s.hqm := rfl
@[simp] theorem setBlock_cap (a0 : Nat) (a1 : Block) (s : State) : (setBlock a0 a1 s).cap = s.cap := rfl
@[simp] theorem setBlock_stc (a0 : Nat) (a1 : Block) (s : State) : (setBlock a0 a1 s).stc = s.stc := rfl
@[simp] theorem setBlock_spe (a0 : Nat) (a1 : Block) (s : State) : (setBlock a0 a1 s).spe = s.spe := rfl
@[simp] theorem setBlock_hif (a0 : Nat) (a1 : Block) (s : State) : (setBlock a0 a1 s).hif = s.hif := rfl
@[simp] theorem setBlock_host (a0 : Nat) (a1 : Block) (s : State) : (setBlock a0 a1 s).host = s.host := rfl
@[simp] theorem setBlock_mem (a0 : Nat) (a1 : Block) (s : State) : (setBlock a0 a1 s).mem = s.mem := rfl
@[simp] theorem setBlock_free (a0 : Nat) (a1 : Block) (s : State) : (setBlock a0 a1 s).free = s.free := rfl
@[simp] theorem setBlock_pending (a0 : Nat) (a1 : Block) (s : State) : (setBlock a0 a1 s).pending = s.pending := rfl

@[simp] theorem setFlight_sys (a0 : InFlight) (s : State) : (setFlight a0 s).sys = s.sys := rfl
@[simp] theorem setFlight_flt (a0 : InFlight) (s : State) : (setFlight a0 s).flt = s.flt := rfl
@[simp] theorem setFlight_pwr (a0 : InFlight) (s : State) : (setFlight a0 s).pwr = s.pwr := rfl
@[simp] theorem setFlight_clk (a0 : InFlight) (s : State) : (setFlight a0 s).clk = s.clk := rfl
@[simp] theorem setFlight_spn (a0 : InFlight) (s : State) : (setFlight a0 s).spn = s.spn := rfl
@[simp] theorem setFlight_srv (a0 : InFlight) (s : State) : (setFlight a0 s).srv = s.srv := rfl
@[simp] theorem setFlight_port (a0 : InFlight) (s : State) : (setFlight a0 s).port = s.port := rfl
@[simp] theorem setFlight_sns (a0 : InFlight) (s : State) : (setFlight a0 s).sns = s.sns := rfl
@[simp] theorem setFlight_yck (a0 : InFlight) (s : State) : (setFlight a0 s).yck = s.yck := rfl
@[simp] theorem setFlight_lane (a0 : InFlight) (s : State) : (setFlight a0 s).lane = s.lane := rfl
@[simp] theorem setFlight_ddp (a0 : InFlight) (s : State) : (setFlight a0 s).ddp = s.ddp := rfl
@[simp] theorem setFlight_media (a0 : InFlight) (s : State) : (setFlight a0 s).media = s.media := rfl
@[simp] theorem setFlight_dma (a0 : InFlight) (s : State) : (setFlight a0 s).dma = s.dma := rfl
@[simp] theorem setFlight_hqm (a0 : InFlight) (s : State) : (setFlight a0 s).hqm = s.hqm := rfl
@[simp] theorem setFlight_cap (a0 : InFlight) (s : State) : (setFlight a0 s).cap = s.cap := rfl
@[simp] theorem setFlight_stc (a0 : InFlight) (s : State) : (setFlight a0 s).stc = s.stc := rfl
@[simp] theorem setFlight_spe (a0 : InFlight) (s : State) : (setFlight a0 s).spe = s.spe := rfl
@[simp] theorem setFlight_arr (a0 : InFlight) (s : State) : (setFlight a0 s).arr = s.arr := rfl
@[simp] theorem setFlight_host (a0 : InFlight) (s : State) : (setFlight a0 s).host = s.host := rfl
@[simp] theorem setFlight_mem (a0 : InFlight) (s : State) : (setFlight a0 s).mem = s.mem := rfl
@[simp] theorem setFlight_free (a0 : InFlight) (s : State) : (setFlight a0 s).free = s.free := rfl
@[simp] theorem setFlight_pending (a0 : InFlight) (s : State) : (setFlight a0 s).pending = s.pending := rfl

@[simp] theorem setAvail_sys (a0 : ActIx) (a1 : ActAvail) (s : State) : (setAvail a0 a1 s).sys = s.sys := rfl
@[simp] theorem setAvail_flt (a0 : ActIx) (a1 : ActAvail) (s : State) : (setAvail a0 a1 s).flt = s.flt := rfl
@[simp] theorem setAvail_pwr (a0 : ActIx) (a1 : ActAvail) (s : State) : (setAvail a0 a1 s).pwr = s.pwr := rfl
@[simp] theorem setAvail_clk (a0 : ActIx) (a1 : ActAvail) (s : State) : (setAvail a0 a1 s).clk = s.clk := rfl
@[simp] theorem setAvail_spn (a0 : ActIx) (a1 : ActAvail) (s : State) : (setAvail a0 a1 s).spn = s.spn := rfl
@[simp] theorem setAvail_srv (a0 : ActIx) (a1 : ActAvail) (s : State) : (setAvail a0 a1 s).srv = s.srv := rfl
@[simp] theorem setAvail_port (a0 : ActIx) (a1 : ActAvail) (s : State) : (setAvail a0 a1 s).port = s.port := rfl
@[simp] theorem setAvail_sns (a0 : ActIx) (a1 : ActAvail) (s : State) : (setAvail a0 a1 s).sns = s.sns := rfl
@[simp] theorem setAvail_yck (a0 : ActIx) (a1 : ActAvail) (s : State) : (setAvail a0 a1 s).yck = s.yck := rfl
@[simp] theorem setAvail_lane (a0 : ActIx) (a1 : ActAvail) (s : State) : (setAvail a0 a1 s).lane = s.lane := rfl
@[simp] theorem setAvail_ddp (a0 : ActIx) (a1 : ActAvail) (s : State) : (setAvail a0 a1 s).ddp = s.ddp := rfl
@[simp] theorem setAvail_media (a0 : ActIx) (a1 : ActAvail) (s : State) : (setAvail a0 a1 s).media = s.media := rfl
@[simp] theorem setAvail_dma (a0 : ActIx) (a1 : ActAvail) (s : State) : (setAvail a0 a1 s).dma = s.dma := rfl
@[simp] theorem setAvail_hqm (a0 : ActIx) (a1 : ActAvail) (s : State) : (setAvail a0 a1 s).hqm = s.hqm := rfl
@[simp] theorem setAvail_cap (a0 : ActIx) (a1 : ActAvail) (s : State) : (setAvail a0 a1 s).cap = s.cap := rfl
@[simp] theorem setAvail_stc (a0 : ActIx) (a1 : ActAvail) (s : State) : (setAvail a0 a1 s).stc = s.stc := rfl
@[simp] theorem setAvail_spe (a0 : ActIx) (a1 : ActAvail) (s : State) : (setAvail a0 a1 s).spe = s.spe := rfl
@[simp] theorem setAvail_hif (a0 : ActIx) (a1 : ActAvail) (s : State) : (setAvail a0 a1 s).hif = s.hif := rfl
@[simp] theorem setAvail_host (a0 : ActIx) (a1 : ActAvail) (s : State) : (setAvail a0 a1 s).host = s.host := rfl
@[simp] theorem setAvail_mem (a0 : ActIx) (a1 : ActAvail) (s : State) : (setAvail a0 a1 s).mem = s.mem := rfl
@[simp] theorem setAvail_free (a0 : ActIx) (a1 : ActAvail) (s : State) : (setAvail a0 a1 s).free = s.free := rfl
@[simp] theorem setAvail_pending (a0 : ActIx) (a1 : ActAvail) (s : State) : (setAvail a0 a1 s).pending = s.pending := rfl

@[simp] theorem setMi_sys (a0 : Mi) (s : State) : (setMi a0 s).sys = s.sys := rfl
@[simp] theorem setMi_flt (a0 : Mi) (s : State) : (setMi a0 s).flt = s.flt := rfl
@[simp] theorem setMi_pwr (a0 : Mi) (s : State) : (setMi a0 s).pwr = s.pwr := rfl
@[simp] theorem setMi_clk (a0 : Mi) (s : State) : (setMi a0 s).clk = s.clk := rfl
@[simp] theorem setMi_spn (a0 : Mi) (s : State) : (setMi a0 s).spn = s.spn := rfl
@[simp] theorem setMi_srv (a0 : Mi) (s : State) : (setMi a0 s).srv = s.srv := rfl
@[simp] theorem setMi_port (a0 : Mi) (s : State) : (setMi a0 s).port = s.port := rfl
@[simp] theorem setMi_sns (a0 : Mi) (s : State) : (setMi a0 s).sns = s.sns := rfl
@[simp] theorem setMi_yck (a0 : Mi) (s : State) : (setMi a0 s).yck = s.yck := rfl
@[simp] theorem setMi_lane (a0 : Mi) (s : State) : (setMi a0 s).lane = s.lane := rfl
@[simp] theorem setMi_ddp (a0 : Mi) (s : State) : (setMi a0 s).ddp = s.ddp := rfl
@[simp] theorem setMi_media (a0 : Mi) (s : State) : (setMi a0 s).media = s.media := rfl
@[simp] theorem setMi_dma (a0 : Mi) (s : State) : (setMi a0 s).dma = s.dma := rfl
@[simp] theorem setMi_hqm (a0 : Mi) (s : State) : (setMi a0 s).hqm = s.hqm := rfl
@[simp] theorem setMi_cap (a0 : Mi) (s : State) : (setMi a0 s).cap = s.cap := rfl
@[simp] theorem setMi_stc (a0 : Mi) (s : State) : (setMi a0 s).stc = s.stc := rfl
@[simp] theorem setMi_spe (a0 : Mi) (s : State) : (setMi a0 s).spe = s.spe := rfl
@[simp] theorem setMi_arr (a0 : Mi) (s : State) : (setMi a0 s).arr = s.arr := rfl
@[simp] theorem setMi_hif (a0 : Mi) (s : State) : (setMi a0 s).hif = s.hif := rfl
@[simp] theorem setMi_mem (a0 : Mi) (s : State) : (setMi a0 s).mem = s.mem := rfl
@[simp] theorem setMi_free (a0 : Mi) (s : State) : (setMi a0 s).free = s.free := rfl
@[simp] theorem setMi_pending (a0 : Mi) (s : State) : (setMi a0 s).pending = s.pending := rfl

@[simp] theorem setFw_sys (a0 : Fw) (s : State) : (setFw a0 s).sys = s.sys := rfl
@[simp] theorem setFw_flt (a0 : Fw) (s : State) : (setFw a0 s).flt = s.flt := rfl
@[simp] theorem setFw_pwr (a0 : Fw) (s : State) : (setFw a0 s).pwr = s.pwr := rfl
@[simp] theorem setFw_clk (a0 : Fw) (s : State) : (setFw a0 s).clk = s.clk := rfl
@[simp] theorem setFw_spn (a0 : Fw) (s : State) : (setFw a0 s).spn = s.spn := rfl
@[simp] theorem setFw_srv (a0 : Fw) (s : State) : (setFw a0 s).srv = s.srv := rfl
@[simp] theorem setFw_port (a0 : Fw) (s : State) : (setFw a0 s).port = s.port := rfl
@[simp] theorem setFw_sns (a0 : Fw) (s : State) : (setFw a0 s).sns = s.sns := rfl
@[simp] theorem setFw_yck (a0 : Fw) (s : State) : (setFw a0 s).yck = s.yck := rfl
@[simp] theorem setFw_lane (a0 : Fw) (s : State) : (setFw a0 s).lane = s.lane := rfl
@[simp] theorem setFw_ddp (a0 : Fw) (s : State) : (setFw a0 s).ddp = s.ddp := rfl
@[simp] theorem setFw_media (a0 : Fw) (s : State) : (setFw a0 s).media = s.media := rfl
@[simp] theorem setFw_dma (a0 : Fw) (s : State) : (setFw a0 s).dma = s.dma := rfl
@[simp] theorem setFw_hqm (a0 : Fw) (s : State) : (setFw a0 s).hqm = s.hqm := rfl
@[simp] theorem setFw_cap (a0 : Fw) (s : State) : (setFw a0 s).cap = s.cap := rfl
@[simp] theorem setFw_stc (a0 : Fw) (s : State) : (setFw a0 s).stc = s.stc := rfl
@[simp] theorem setFw_spe (a0 : Fw) (s : State) : (setFw a0 s).spe = s.spe := rfl
@[simp] theorem setFw_arr (a0 : Fw) (s : State) : (setFw a0 s).arr = s.arr := rfl
@[simp] theorem setFw_hif (a0 : Fw) (s : State) : (setFw a0 s).hif = s.hif := rfl
@[simp] theorem setFw_mem (a0 : Fw) (s : State) : (setFw a0 s).mem = s.mem := rfl
@[simp] theorem setFw_free (a0 : Fw) (s : State) : (setFw a0 s).free = s.free := rfl
@[simp] theorem setFw_pending (a0 : Fw) (s : State) : (setFw a0 s).pending = s.pending := rfl

@[simp] theorem setOpal_sys (a0 : Opal) (s : State) : (setOpal a0 s).sys = s.sys := rfl
@[simp] theorem setOpal_flt (a0 : Opal) (s : State) : (setOpal a0 s).flt = s.flt := rfl
@[simp] theorem setOpal_pwr (a0 : Opal) (s : State) : (setOpal a0 s).pwr = s.pwr := rfl
@[simp] theorem setOpal_clk (a0 : Opal) (s : State) : (setOpal a0 s).clk = s.clk := rfl
@[simp] theorem setOpal_spn (a0 : Opal) (s : State) : (setOpal a0 s).spn = s.spn := rfl
@[simp] theorem setOpal_srv (a0 : Opal) (s : State) : (setOpal a0 s).srv = s.srv := rfl
@[simp] theorem setOpal_port (a0 : Opal) (s : State) : (setOpal a0 s).port = s.port := rfl
@[simp] theorem setOpal_sns (a0 : Opal) (s : State) : (setOpal a0 s).sns = s.sns := rfl
@[simp] theorem setOpal_yck (a0 : Opal) (s : State) : (setOpal a0 s).yck = s.yck := rfl
@[simp] theorem setOpal_lane (a0 : Opal) (s : State) : (setOpal a0 s).lane = s.lane := rfl
@[simp] theorem setOpal_ddp (a0 : Opal) (s : State) : (setOpal a0 s).ddp = s.ddp := rfl
@[simp] theorem setOpal_media (a0 : Opal) (s : State) : (setOpal a0 s).media = s.media := rfl
@[simp] theorem setOpal_dma (a0 : Opal) (s : State) : (setOpal a0 s).dma = s.dma := rfl
@[simp] theorem setOpal_hqm (a0 : Opal) (s : State) : (setOpal a0 s).hqm = s.hqm := rfl
@[simp] theorem setOpal_cap (a0 : Opal) (s : State) : (setOpal a0 s).cap = s.cap := rfl
@[simp] theorem setOpal_stc (a0 : Opal) (s : State) : (setOpal a0 s).stc = s.stc := rfl
@[simp] theorem setOpal_spe (a0 : Opal) (s : State) : (setOpal a0 s).spe = s.spe := rfl
@[simp] theorem setOpal_arr (a0 : Opal) (s : State) : (setOpal a0 s).arr = s.arr := rfl
@[simp] theorem setOpal_hif (a0 : Opal) (s : State) : (setOpal a0 s).hif = s.hif := rfl
@[simp] theorem setOpal_mem (a0 : Opal) (s : State) : (setOpal a0 s).mem = s.mem := rfl
@[simp] theorem setOpal_free (a0 : Opal) (s : State) : (setOpal a0 s).free = s.free := rfl
@[simp] theorem setOpal_pending (a0 : Opal) (s : State) : (setOpal a0 s).pending = s.pending := rfl

@[simp] theorem setSrv_sys (a0 : EngIx) (a1 : Srv) (s : State) : (setSrv a0 a1 s).sys = s.sys := rfl
@[simp] theorem setSrv_flt (a0 : EngIx) (a1 : Srv) (s : State) : (setSrv a0 a1 s).flt = s.flt := rfl
@[simp] theorem setSrv_pwr (a0 : EngIx) (a1 : Srv) (s : State) : (setSrv a0 a1 s).pwr = s.pwr := rfl
@[simp] theorem setSrv_clk (a0 : EngIx) (a1 : Srv) (s : State) : (setSrv a0 a1 s).clk = s.clk := rfl
@[simp] theorem setSrv_spn (a0 : EngIx) (a1 : Srv) (s : State) : (setSrv a0 a1 s).spn = s.spn := rfl
@[simp] theorem setSrv_port (a0 : EngIx) (a1 : Srv) (s : State) : (setSrv a0 a1 s).port = s.port := rfl
@[simp] theorem setSrv_sns (a0 : EngIx) (a1 : Srv) (s : State) : (setSrv a0 a1 s).sns = s.sns := rfl
@[simp] theorem setSrv_yck (a0 : EngIx) (a1 : Srv) (s : State) : (setSrv a0 a1 s).yck = s.yck := rfl
@[simp] theorem setSrv_lane (a0 : EngIx) (a1 : Srv) (s : State) : (setSrv a0 a1 s).lane = s.lane := rfl
@[simp] theorem setSrv_ddp (a0 : EngIx) (a1 : Srv) (s : State) : (setSrv a0 a1 s).ddp = s.ddp := rfl
@[simp] theorem setSrv_media (a0 : EngIx) (a1 : Srv) (s : State) : (setSrv a0 a1 s).media = s.media := rfl
@[simp] theorem setSrv_dma (a0 : EngIx) (a1 : Srv) (s : State) : (setSrv a0 a1 s).dma = s.dma := rfl
@[simp] theorem setSrv_hqm (a0 : EngIx) (a1 : Srv) (s : State) : (setSrv a0 a1 s).hqm = s.hqm := rfl
@[simp] theorem setSrv_cap (a0 : EngIx) (a1 : Srv) (s : State) : (setSrv a0 a1 s).cap = s.cap := rfl
@[simp] theorem setSrv_stc (a0 : EngIx) (a1 : Srv) (s : State) : (setSrv a0 a1 s).stc = s.stc := rfl
@[simp] theorem setSrv_spe (a0 : EngIx) (a1 : Srv) (s : State) : (setSrv a0 a1 s).spe = s.spe := rfl
@[simp] theorem setSrv_arr (a0 : EngIx) (a1 : Srv) (s : State) : (setSrv a0 a1 s).arr = s.arr := rfl
@[simp] theorem setSrv_hif (a0 : EngIx) (a1 : Srv) (s : State) : (setSrv a0 a1 s).hif = s.hif := rfl
@[simp] theorem setSrv_host (a0 : EngIx) (a1 : Srv) (s : State) : (setSrv a0 a1 s).host = s.host := rfl
@[simp] theorem setSrv_mem (a0 : EngIx) (a1 : Srv) (s : State) : (setSrv a0 a1 s).mem = s.mem := rfl
@[simp] theorem setSrv_free (a0 : EngIx) (a1 : Srv) (s : State) : (setSrv a0 a1 s).free = s.free := rfl
@[simp] theorem setSrv_pending (a0 : EngIx) (a1 : Srv) (s : State) : (setSrv a0 a1 s).pending = s.pending := rfl

@[simp] theorem setPort_sys (a0 : ActIx) (a1 : Port) (s : State) : (setPort a0 a1 s).sys = s.sys := rfl
@[simp] theorem setPort_flt (a0 : ActIx) (a1 : Port) (s : State) : (setPort a0 a1 s).flt = s.flt := rfl
@[simp] theorem setPort_pwr (a0 : ActIx) (a1 : Port) (s : State) : (setPort a0 a1 s).pwr = s.pwr := rfl
@[simp] theorem setPort_clk (a0 : ActIx) (a1 : Port) (s : State) : (setPort a0 a1 s).clk = s.clk := rfl
@[simp] theorem setPort_spn (a0 : ActIx) (a1 : Port) (s : State) : (setPort a0 a1 s).spn = s.spn := rfl
@[simp] theorem setPort_srv (a0 : ActIx) (a1 : Port) (s : State) : (setPort a0 a1 s).srv = s.srv := rfl
@[simp] theorem setPort_sns (a0 : ActIx) (a1 : Port) (s : State) : (setPort a0 a1 s).sns = s.sns := rfl
@[simp] theorem setPort_yck (a0 : ActIx) (a1 : Port) (s : State) : (setPort a0 a1 s).yck = s.yck := rfl
@[simp] theorem setPort_lane (a0 : ActIx) (a1 : Port) (s : State) : (setPort a0 a1 s).lane = s.lane := rfl
@[simp] theorem setPort_ddp (a0 : ActIx) (a1 : Port) (s : State) : (setPort a0 a1 s).ddp = s.ddp := rfl
@[simp] theorem setPort_media (a0 : ActIx) (a1 : Port) (s : State) : (setPort a0 a1 s).media = s.media := rfl
@[simp] theorem setPort_dma (a0 : ActIx) (a1 : Port) (s : State) : (setPort a0 a1 s).dma = s.dma := rfl
@[simp] theorem setPort_hqm (a0 : ActIx) (a1 : Port) (s : State) : (setPort a0 a1 s).hqm = s.hqm := rfl
@[simp] theorem setPort_cap (a0 : ActIx) (a1 : Port) (s : State) : (setPort a0 a1 s).cap = s.cap := rfl
@[simp] theorem setPort_stc (a0 : ActIx) (a1 : Port) (s : State) : (setPort a0 a1 s).stc = s.stc := rfl
@[simp] theorem setPort_spe (a0 : ActIx) (a1 : Port) (s : State) : (setPort a0 a1 s).spe = s.spe := rfl
@[simp] theorem setPort_arr (a0 : ActIx) (a1 : Port) (s : State) : (setPort a0 a1 s).arr = s.arr := rfl
@[simp] theorem setPort_hif (a0 : ActIx) (a1 : Port) (s : State) : (setPort a0 a1 s).hif = s.hif := rfl
@[simp] theorem setPort_host (a0 : ActIx) (a1 : Port) (s : State) : (setPort a0 a1 s).host = s.host := rfl
@[simp] theorem setPort_mem (a0 : ActIx) (a1 : Port) (s : State) : (setPort a0 a1 s).mem = s.mem := rfl
@[simp] theorem setPort_free (a0 : ActIx) (a1 : Port) (s : State) : (setPort a0 a1 s).free = s.free := rfl
@[simp] theorem setPort_pending (a0 : ActIx) (a1 : Port) (s : State) : (setPort a0 a1 s).pending = s.pending := rfl

@[simp] theorem setPortDom_sys (a0 : CtlIx) (a1 : DomState) (s : State) : (setPortDom a0 a1 s).sys = s.sys := rfl
@[simp] theorem setPortDom_flt (a0 : CtlIx) (a1 : DomState) (s : State) : (setPortDom a0 a1 s).flt = s.flt := rfl
@[simp] theorem setPortDom_clk (a0 : CtlIx) (a1 : DomState) (s : State) : (setPortDom a0 a1 s).clk = s.clk := rfl
@[simp] theorem setPortDom_spn (a0 : CtlIx) (a1 : DomState) (s : State) : (setPortDom a0 a1 s).spn = s.spn := rfl
@[simp] theorem setPortDom_srv (a0 : CtlIx) (a1 : DomState) (s : State) : (setPortDom a0 a1 s).srv = s.srv := rfl
@[simp] theorem setPortDom_port (a0 : CtlIx) (a1 : DomState) (s : State) : (setPortDom a0 a1 s).port = s.port := rfl
@[simp] theorem setPortDom_sns (a0 : CtlIx) (a1 : DomState) (s : State) : (setPortDom a0 a1 s).sns = s.sns := rfl
@[simp] theorem setPortDom_yck (a0 : CtlIx) (a1 : DomState) (s : State) : (setPortDom a0 a1 s).yck = s.yck := rfl
@[simp] theorem setPortDom_lane (a0 : CtlIx) (a1 : DomState) (s : State) : (setPortDom a0 a1 s).lane = s.lane := rfl
@[simp] theorem setPortDom_ddp (a0 : CtlIx) (a1 : DomState) (s : State) : (setPortDom a0 a1 s).ddp = s.ddp := rfl
@[simp] theorem setPortDom_media (a0 : CtlIx) (a1 : DomState) (s : State) : (setPortDom a0 a1 s).media = s.media := rfl
@[simp] theorem setPortDom_dma (a0 : CtlIx) (a1 : DomState) (s : State) : (setPortDom a0 a1 s).dma = s.dma := rfl
@[simp] theorem setPortDom_hqm (a0 : CtlIx) (a1 : DomState) (s : State) : (setPortDom a0 a1 s).hqm = s.hqm := rfl
@[simp] theorem setPortDom_cap (a0 : CtlIx) (a1 : DomState) (s : State) : (setPortDom a0 a1 s).cap = s.cap := rfl
@[simp] theorem setPortDom_stc (a0 : CtlIx) (a1 : DomState) (s : State) : (setPortDom a0 a1 s).stc = s.stc := rfl
@[simp] theorem setPortDom_spe (a0 : CtlIx) (a1 : DomState) (s : State) : (setPortDom a0 a1 s).spe = s.spe := rfl
@[simp] theorem setPortDom_arr (a0 : CtlIx) (a1 : DomState) (s : State) : (setPortDom a0 a1 s).arr = s.arr := rfl
@[simp] theorem setPortDom_hif (a0 : CtlIx) (a1 : DomState) (s : State) : (setPortDom a0 a1 s).hif = s.hif := rfl
@[simp] theorem setPortDom_host (a0 : CtlIx) (a1 : DomState) (s : State) : (setPortDom a0 a1 s).host = s.host := rfl
@[simp] theorem setPortDom_mem (a0 : CtlIx) (a1 : DomState) (s : State) : (setPortDom a0 a1 s).mem = s.mem := rfl
@[simp] theorem setPortDom_free (a0 : CtlIx) (a1 : DomState) (s : State) : (setPortDom a0 a1 s).free = s.free := rfl
@[simp] theorem setPortDom_pending (a0 : CtlIx) (a1 : DomState) (s : State) : (setPortDom a0 a1 s).pending = s.pending := rfl

@[simp] theorem addLock_sys (a0 : Lock) (s : State) : (addLock a0 s).sys = s.sys := rfl
@[simp] theorem addLock_flt (a0 : Lock) (s : State) : (addLock a0 s).flt = s.flt := rfl
@[simp] theorem addLock_pwr (a0 : Lock) (s : State) : (addLock a0 s).pwr = s.pwr := rfl
@[simp] theorem addLock_clk (a0 : Lock) (s : State) : (addLock a0 s).clk = s.clk := rfl
@[simp] theorem addLock_spn (a0 : Lock) (s : State) : (addLock a0 s).spn = s.spn := rfl
@[simp] theorem addLock_srv (a0 : Lock) (s : State) : (addLock a0 s).srv = s.srv := rfl
@[simp] theorem addLock_port (a0 : Lock) (s : State) : (addLock a0 s).port = s.port := rfl
@[simp] theorem addLock_sns (a0 : Lock) (s : State) : (addLock a0 s).sns = s.sns := rfl
@[simp] theorem addLock_yck (a0 : Lock) (s : State) : (addLock a0 s).yck = s.yck := rfl
@[simp] theorem addLock_lane (a0 : Lock) (s : State) : (addLock a0 s).lane = s.lane := rfl
@[simp] theorem addLock_ddp (a0 : Lock) (s : State) : (addLock a0 s).ddp = s.ddp := rfl
@[simp] theorem addLock_media (a0 : Lock) (s : State) : (addLock a0 s).media = s.media := rfl
@[simp] theorem addLock_dma (a0 : Lock) (s : State) : (addLock a0 s).dma = s.dma := rfl
@[simp] theorem addLock_hqm (a0 : Lock) (s : State) : (addLock a0 s).hqm = s.hqm := rfl
@[simp] theorem addLock_cap (a0 : Lock) (s : State) : (addLock a0 s).cap = s.cap := rfl
@[simp] theorem addLock_stc (a0 : Lock) (s : State) : (addLock a0 s).stc = s.stc := rfl
@[simp] theorem addLock_spe (a0 : Lock) (s : State) : (addLock a0 s).spe = s.spe := rfl
@[simp] theorem addLock_arr (a0 : Lock) (s : State) : (addLock a0 s).arr = s.arr := rfl
@[simp] theorem addLock_host (a0 : Lock) (s : State) : (addLock a0 s).host = s.host := rfl
@[simp] theorem addLock_mem (a0 : Lock) (s : State) : (addLock a0 s).mem = s.mem := rfl
@[simp] theorem addLock_free (a0 : Lock) (s : State) : (addLock a0 s).free = s.free := rfl
@[simp] theorem addLock_pending (a0 : Lock) (s : State) : (addLock a0 s).pending = s.pending := rfl

@[simp] theorem unlock_sys (a0 : Nat) (s : State) : (unlock a0 s).sys = s.sys := rfl
@[simp] theorem unlock_flt (a0 : Nat) (s : State) : (unlock a0 s).flt = s.flt := rfl
@[simp] theorem unlock_pwr (a0 : Nat) (s : State) : (unlock a0 s).pwr = s.pwr := rfl
@[simp] theorem unlock_clk (a0 : Nat) (s : State) : (unlock a0 s).clk = s.clk := rfl
@[simp] theorem unlock_spn (a0 : Nat) (s : State) : (unlock a0 s).spn = s.spn := rfl
@[simp] theorem unlock_srv (a0 : Nat) (s : State) : (unlock a0 s).srv = s.srv := rfl
@[simp] theorem unlock_port (a0 : Nat) (s : State) : (unlock a0 s).port = s.port := rfl
@[simp] theorem unlock_sns (a0 : Nat) (s : State) : (unlock a0 s).sns = s.sns := rfl
@[simp] theorem unlock_yck (a0 : Nat) (s : State) : (unlock a0 s).yck = s.yck := rfl
@[simp] theorem unlock_lane (a0 : Nat) (s : State) : (unlock a0 s).lane = s.lane := rfl
@[simp] theorem unlock_ddp (a0 : Nat) (s : State) : (unlock a0 s).ddp = s.ddp := rfl
@[simp] theorem unlock_media (a0 : Nat) (s : State) : (unlock a0 s).media = s.media := rfl
@[simp] theorem unlock_dma (a0 : Nat) (s : State) : (unlock a0 s).dma = s.dma := rfl
@[simp] theorem unlock_hqm (a0 : Nat) (s : State) : (unlock a0 s).hqm = s.hqm := rfl
@[simp] theorem unlock_cap (a0 : Nat) (s : State) : (unlock a0 s).cap = s.cap := rfl
@[simp] theorem unlock_stc (a0 : Nat) (s : State) : (unlock a0 s).stc = s.stc := rfl
@[simp] theorem unlock_spe (a0 : Nat) (s : State) : (unlock a0 s).spe = s.spe := rfl
@[simp] theorem unlock_arr (a0 : Nat) (s : State) : (unlock a0 s).arr = s.arr := rfl
@[simp] theorem unlock_host (a0 : Nat) (s : State) : (unlock a0 s).host = s.host := rfl
@[simp] theorem unlock_mem (a0 : Nat) (s : State) : (unlock a0 s).mem = s.mem := rfl
@[simp] theorem unlock_free (a0 : Nat) (s : State) : (unlock a0 s).free = s.free := rfl
@[simp] theorem unlock_pending (a0 : Nat) (s : State) : (unlock a0 s).pending = s.pending := rfl

@[simp] theorem flightGone_sys (a0 : Nat) (s : State) : (flightGone a0 s).sys = s.sys := rfl
@[simp] theorem flightGone_flt (a0 : Nat) (s : State) : (flightGone a0 s).flt = s.flt := rfl
@[simp] theorem flightGone_pwr (a0 : Nat) (s : State) : (flightGone a0 s).pwr = s.pwr := rfl
@[simp] theorem flightGone_clk (a0 : Nat) (s : State) : (flightGone a0 s).clk = s.clk := rfl
@[simp] theorem flightGone_spn (a0 : Nat) (s : State) : (flightGone a0 s).spn = s.spn := rfl
@[simp] theorem flightGone_srv (a0 : Nat) (s : State) : (flightGone a0 s).srv = s.srv := rfl
@[simp] theorem flightGone_port (a0 : Nat) (s : State) : (flightGone a0 s).port = s.port := rfl
@[simp] theorem flightGone_sns (a0 : Nat) (s : State) : (flightGone a0 s).sns = s.sns := rfl
@[simp] theorem flightGone_yck (a0 : Nat) (s : State) : (flightGone a0 s).yck = s.yck := rfl
@[simp] theorem flightGone_lane (a0 : Nat) (s : State) : (flightGone a0 s).lane = s.lane := rfl
@[simp] theorem flightGone_ddp (a0 : Nat) (s : State) : (flightGone a0 s).ddp = s.ddp := rfl
@[simp] theorem flightGone_media (a0 : Nat) (s : State) : (flightGone a0 s).media = s.media := rfl
@[simp] theorem flightGone_dma (a0 : Nat) (s : State) : (flightGone a0 s).dma = s.dma := rfl
@[simp] theorem flightGone_hqm (a0 : Nat) (s : State) : (flightGone a0 s).hqm = s.hqm := rfl
@[simp] theorem flightGone_cap (a0 : Nat) (s : State) : (flightGone a0 s).cap = s.cap := rfl
@[simp] theorem flightGone_stc (a0 : Nat) (s : State) : (flightGone a0 s).stc = s.stc := rfl
@[simp] theorem flightGone_spe (a0 : Nat) (s : State) : (flightGone a0 s).spe = s.spe := rfl
@[simp] theorem flightGone_arr (a0 : Nat) (s : State) : (flightGone a0 s).arr = s.arr := rfl
@[simp] theorem flightGone_host (a0 : Nat) (s : State) : (flightGone a0 s).host = s.host := rfl
@[simp] theorem flightGone_mem (a0 : Nat) (s : State) : (flightGone a0 s).mem = s.mem := rfl
@[simp] theorem flightGone_free (a0 : Nat) (s : State) : (flightGone a0 s).free = s.free := rfl
@[simp] theorem flightGone_pending (a0 : Nat) (s : State) : (flightGone a0 s).pending = s.pending := rfl

@[simp] theorem fetchHold_sys (a0 : Bool) (s : State) : (fetchHold a0 s).sys = s.sys := rfl
@[simp] theorem fetchHold_flt (a0 : Bool) (s : State) : (fetchHold a0 s).flt = s.flt := rfl
@[simp] theorem fetchHold_pwr (a0 : Bool) (s : State) : (fetchHold a0 s).pwr = s.pwr := rfl
@[simp] theorem fetchHold_clk (a0 : Bool) (s : State) : (fetchHold a0 s).clk = s.clk := rfl
@[simp] theorem fetchHold_spn (a0 : Bool) (s : State) : (fetchHold a0 s).spn = s.spn := rfl
@[simp] theorem fetchHold_srv (a0 : Bool) (s : State) : (fetchHold a0 s).srv = s.srv := rfl
@[simp] theorem fetchHold_port (a0 : Bool) (s : State) : (fetchHold a0 s).port = s.port := rfl
@[simp] theorem fetchHold_sns (a0 : Bool) (s : State) : (fetchHold a0 s).sns = s.sns := rfl
@[simp] theorem fetchHold_yck (a0 : Bool) (s : State) : (fetchHold a0 s).yck = s.yck := rfl
@[simp] theorem fetchHold_lane (a0 : Bool) (s : State) : (fetchHold a0 s).lane = s.lane := rfl
@[simp] theorem fetchHold_ddp (a0 : Bool) (s : State) : (fetchHold a0 s).ddp = s.ddp := rfl
@[simp] theorem fetchHold_media (a0 : Bool) (s : State) : (fetchHold a0 s).media = s.media := rfl
@[simp] theorem fetchHold_dma (a0 : Bool) (s : State) : (fetchHold a0 s).dma = s.dma := rfl
@[simp] theorem fetchHold_hqm (a0 : Bool) (s : State) : (fetchHold a0 s).hqm = s.hqm := rfl
@[simp] theorem fetchHold_cap (a0 : Bool) (s : State) : (fetchHold a0 s).cap = s.cap := rfl
@[simp] theorem fetchHold_stc (a0 : Bool) (s : State) : (fetchHold a0 s).stc = s.stc := rfl
@[simp] theorem fetchHold_spe (a0 : Bool) (s : State) : (fetchHold a0 s).spe = s.spe := rfl
@[simp] theorem fetchHold_arr (a0 : Bool) (s : State) : (fetchHold a0 s).arr = s.arr := rfl
@[simp] theorem fetchHold_host (a0 : Bool) (s : State) : (fetchHold a0 s).host = s.host := rfl
@[simp] theorem fetchHold_mem (a0 : Bool) (s : State) : (fetchHold a0 s).mem = s.mem := rfl
@[simp] theorem fetchHold_free (a0 : Bool) (s : State) : (fetchHold a0 s).free = s.free := rfl
@[simp] theorem fetchHold_pending (a0 : Bool) (s : State) : (fetchHold a0 s).pending = s.pending := rfl

@[simp] theorem noteError_sys (a0 : Nat) (a1 : Nat) (s : State) : (noteError a0 a1 s).sys = s.sys := rfl
@[simp] theorem noteError_flt (a0 : Nat) (a1 : Nat) (s : State) : (noteError a0 a1 s).flt = s.flt := rfl
@[simp] theorem noteError_pwr (a0 : Nat) (a1 : Nat) (s : State) : (noteError a0 a1 s).pwr = s.pwr := rfl
@[simp] theorem noteError_clk (a0 : Nat) (a1 : Nat) (s : State) : (noteError a0 a1 s).clk = s.clk := rfl
@[simp] theorem noteError_spn (a0 : Nat) (a1 : Nat) (s : State) : (noteError a0 a1 s).spn = s.spn := rfl
@[simp] theorem noteError_srv (a0 : Nat) (a1 : Nat) (s : State) : (noteError a0 a1 s).srv = s.srv := rfl
@[simp] theorem noteError_port (a0 : Nat) (a1 : Nat) (s : State) : (noteError a0 a1 s).port = s.port := rfl
@[simp] theorem noteError_sns (a0 : Nat) (a1 : Nat) (s : State) : (noteError a0 a1 s).sns = s.sns := rfl
@[simp] theorem noteError_yck (a0 : Nat) (a1 : Nat) (s : State) : (noteError a0 a1 s).yck = s.yck := rfl
@[simp] theorem noteError_lane (a0 : Nat) (a1 : Nat) (s : State) : (noteError a0 a1 s).lane = s.lane := rfl
@[simp] theorem noteError_ddp (a0 : Nat) (a1 : Nat) (s : State) : (noteError a0 a1 s).ddp = s.ddp := rfl
@[simp] theorem noteError_media (a0 : Nat) (a1 : Nat) (s : State) : (noteError a0 a1 s).media = s.media := rfl
@[simp] theorem noteError_dma (a0 : Nat) (a1 : Nat) (s : State) : (noteError a0 a1 s).dma = s.dma := rfl
@[simp] theorem noteError_hqm (a0 : Nat) (a1 : Nat) (s : State) : (noteError a0 a1 s).hqm = s.hqm := rfl
@[simp] theorem noteError_cap (a0 : Nat) (a1 : Nat) (s : State) : (noteError a0 a1 s).cap = s.cap := rfl
@[simp] theorem noteError_stc (a0 : Nat) (a1 : Nat) (s : State) : (noteError a0 a1 s).stc = s.stc := rfl
@[simp] theorem noteError_spe (a0 : Nat) (a1 : Nat) (s : State) : (noteError a0 a1 s).spe = s.spe := rfl
@[simp] theorem noteError_arr (a0 : Nat) (a1 : Nat) (s : State) : (noteError a0 a1 s).arr = s.arr := rfl
@[simp] theorem noteError_host (a0 : Nat) (a1 : Nat) (s : State) : (noteError a0 a1 s).host = s.host := rfl
@[simp] theorem noteError_mem (a0 : Nat) (a1 : Nat) (s : State) : (noteError a0 a1 s).mem = s.mem := rfl
@[simp] theorem noteError_free (a0 : Nat) (a1 : Nat) (s : State) : (noteError a0 a1 s).free = s.free := rfl
@[simp] theorem noteError_pending (a0 : Nat) (a1 : Nat) (s : State) : (noteError a0 a1 s).pending = s.pending := rfl

@[simp] theorem noteChange_sys (s : State) : (noteChange s).sys = s.sys := rfl
@[simp] theorem noteChange_flt (s : State) : (noteChange s).flt = s.flt := rfl
@[simp] theorem noteChange_pwr (s : State) : (noteChange s).pwr = s.pwr := rfl
@[simp] theorem noteChange_clk (s : State) : (noteChange s).clk = s.clk := rfl
@[simp] theorem noteChange_spn (s : State) : (noteChange s).spn = s.spn := rfl
@[simp] theorem noteChange_srv (s : State) : (noteChange s).srv = s.srv := rfl
@[simp] theorem noteChange_port (s : State) : (noteChange s).port = s.port := rfl
@[simp] theorem noteChange_sns (s : State) : (noteChange s).sns = s.sns := rfl
@[simp] theorem noteChange_yck (s : State) : (noteChange s).yck = s.yck := rfl
@[simp] theorem noteChange_lane (s : State) : (noteChange s).lane = s.lane := rfl
@[simp] theorem noteChange_ddp (s : State) : (noteChange s).ddp = s.ddp := rfl
@[simp] theorem noteChange_media (s : State) : (noteChange s).media = s.media := rfl
@[simp] theorem noteChange_dma (s : State) : (noteChange s).dma = s.dma := rfl
@[simp] theorem noteChange_hqm (s : State) : (noteChange s).hqm = s.hqm := rfl
@[simp] theorem noteChange_cap (s : State) : (noteChange s).cap = s.cap := rfl
@[simp] theorem noteChange_stc (s : State) : (noteChange s).stc = s.stc := rfl
@[simp] theorem noteChange_spe (s : State) : (noteChange s).spe = s.spe := rfl
@[simp] theorem noteChange_hif (s : State) : (noteChange s).hif = s.hif := rfl
@[simp] theorem noteChange_host (s : State) : (noteChange s).host = s.host := rfl
@[simp] theorem noteChange_mem (s : State) : (noteChange s).mem = s.mem := rfl
@[simp] theorem noteChange_free (s : State) : (noteChange s).free = s.free := rfl
@[simp] theorem noteChange_pending (s : State) : (noteChange s).pending = s.pending := rfl

@[simp] theorem closeSession_sys (s : State) : (closeSession s).sys = s.sys := rfl
@[simp] theorem closeSession_flt (s : State) : (closeSession s).flt = s.flt := rfl
@[simp] theorem closeSession_pwr (s : State) : (closeSession s).pwr = s.pwr := rfl
@[simp] theorem closeSession_clk (s : State) : (closeSession s).clk = s.clk := rfl
@[simp] theorem closeSession_spn (s : State) : (closeSession s).spn = s.spn := rfl
@[simp] theorem closeSession_srv (s : State) : (closeSession s).srv = s.srv := rfl
@[simp] theorem closeSession_port (s : State) : (closeSession s).port = s.port := rfl
@[simp] theorem closeSession_sns (s : State) : (closeSession s).sns = s.sns := rfl
@[simp] theorem closeSession_yck (s : State) : (closeSession s).yck = s.yck := rfl
@[simp] theorem closeSession_lane (s : State) : (closeSession s).lane = s.lane := rfl
@[simp] theorem closeSession_ddp (s : State) : (closeSession s).ddp = s.ddp := rfl
@[simp] theorem closeSession_media (s : State) : (closeSession s).media = s.media := rfl
@[simp] theorem closeSession_dma (s : State) : (closeSession s).dma = s.dma := rfl
@[simp] theorem closeSession_hqm (s : State) : (closeSession s).hqm = s.hqm := rfl
@[simp] theorem closeSession_cap (s : State) : (closeSession s).cap = s.cap := rfl
@[simp] theorem closeSession_stc (s : State) : (closeSession s).stc = s.stc := rfl
@[simp] theorem closeSession_spe (s : State) : (closeSession s).spe = s.spe := rfl
@[simp] theorem closeSession_arr (s : State) : (closeSession s).arr = s.arr := rfl
@[simp] theorem closeSession_hif (s : State) : (closeSession s).hif = s.hif := rfl
@[simp] theorem closeSession_mem (s : State) : (closeSession s).mem = s.mem := rfl
@[simp] theorem closeSession_free (s : State) : (closeSession s).free = s.free := rfl
@[simp] theorem closeSession_pending (s : State) : (closeSession s).pending = s.pending := rfl

@[simp] theorem earnPermit_flt (s : State) : (earnPermit s).flt = s.flt := rfl
@[simp] theorem earnPermit_pwr (s : State) : (earnPermit s).pwr = s.pwr := rfl
@[simp] theorem earnPermit_clk (s : State) : (earnPermit s).clk = s.clk := rfl
@[simp] theorem earnPermit_spn (s : State) : (earnPermit s).spn = s.spn := rfl
@[simp] theorem earnPermit_srv (s : State) : (earnPermit s).srv = s.srv := rfl
@[simp] theorem earnPermit_port (s : State) : (earnPermit s).port = s.port := rfl
@[simp] theorem earnPermit_sns (s : State) : (earnPermit s).sns = s.sns := rfl
@[simp] theorem earnPermit_yck (s : State) : (earnPermit s).yck = s.yck := rfl
@[simp] theorem earnPermit_lane (s : State) : (earnPermit s).lane = s.lane := rfl
@[simp] theorem earnPermit_ddp (s : State) : (earnPermit s).ddp = s.ddp := rfl
@[simp] theorem earnPermit_media (s : State) : (earnPermit s).media = s.media := rfl
@[simp] theorem earnPermit_dma (s : State) : (earnPermit s).dma = s.dma := rfl
@[simp] theorem earnPermit_hqm (s : State) : (earnPermit s).hqm = s.hqm := rfl
@[simp] theorem earnPermit_cap (s : State) : (earnPermit s).cap = s.cap := rfl
@[simp] theorem earnPermit_stc (s : State) : (earnPermit s).stc = s.stc := rfl
@[simp] theorem earnPermit_spe (s : State) : (earnPermit s).spe = s.spe := rfl
@[simp] theorem earnPermit_arr (s : State) : (earnPermit s).arr = s.arr := rfl
@[simp] theorem earnPermit_hif (s : State) : (earnPermit s).hif = s.hif := rfl
@[simp] theorem earnPermit_host (s : State) : (earnPermit s).host = s.host := rfl
@[simp] theorem earnPermit_mem (s : State) : (earnPermit s).mem = s.mem := rfl
@[simp] theorem earnPermit_free (s : State) : (earnPermit s).free = s.free := rfl
@[simp] theorem earnPermit_pending (s : State) : (earnPermit s).pending = s.pending := rfl

@[simp] theorem bindStep_flt (a0 : BindTrigger) (a1 : Nat) (s : State) : (bindStep a0 a1 s).flt = s.flt := rfl
@[simp] theorem bindStep_pwr (a0 : BindTrigger) (a1 : Nat) (s : State) : (bindStep a0 a1 s).pwr = s.pwr := rfl
@[simp] theorem bindStep_clk (a0 : BindTrigger) (a1 : Nat) (s : State) : (bindStep a0 a1 s).clk = s.clk := rfl
@[simp] theorem bindStep_spn (a0 : BindTrigger) (a1 : Nat) (s : State) : (bindStep a0 a1 s).spn = s.spn := rfl
@[simp] theorem bindStep_srv (a0 : BindTrigger) (a1 : Nat) (s : State) : (bindStep a0 a1 s).srv = s.srv := rfl
@[simp] theorem bindStep_port (a0 : BindTrigger) (a1 : Nat) (s : State) : (bindStep a0 a1 s).port = s.port := rfl
@[simp] theorem bindStep_sns (a0 : BindTrigger) (a1 : Nat) (s : State) : (bindStep a0 a1 s).sns = s.sns := rfl
@[simp] theorem bindStep_yck (a0 : BindTrigger) (a1 : Nat) (s : State) : (bindStep a0 a1 s).yck = s.yck := rfl
@[simp] theorem bindStep_lane (a0 : BindTrigger) (a1 : Nat) (s : State) : (bindStep a0 a1 s).lane = s.lane := rfl
@[simp] theorem bindStep_ddp (a0 : BindTrigger) (a1 : Nat) (s : State) : (bindStep a0 a1 s).ddp = s.ddp := rfl
@[simp] theorem bindStep_media (a0 : BindTrigger) (a1 : Nat) (s : State) : (bindStep a0 a1 s).media = s.media := rfl
@[simp] theorem bindStep_dma (a0 : BindTrigger) (a1 : Nat) (s : State) : (bindStep a0 a1 s).dma = s.dma := rfl
@[simp] theorem bindStep_hqm (a0 : BindTrigger) (a1 : Nat) (s : State) : (bindStep a0 a1 s).hqm = s.hqm := rfl
@[simp] theorem bindStep_cap (a0 : BindTrigger) (a1 : Nat) (s : State) : (bindStep a0 a1 s).cap = s.cap := rfl
@[simp] theorem bindStep_stc (a0 : BindTrigger) (a1 : Nat) (s : State) : (bindStep a0 a1 s).stc = s.stc := rfl
@[simp] theorem bindStep_spe (a0 : BindTrigger) (a1 : Nat) (s : State) : (bindStep a0 a1 s).spe = s.spe := rfl
@[simp] theorem bindStep_arr (a0 : BindTrigger) (a1 : Nat) (s : State) : (bindStep a0 a1 s).arr = s.arr := rfl
@[simp] theorem bindStep_hif (a0 : BindTrigger) (a1 : Nat) (s : State) : (bindStep a0 a1 s).hif = s.hif := rfl
@[simp] theorem bindStep_host (a0 : BindTrigger) (a1 : Nat) (s : State) : (bindStep a0 a1 s).host = s.host := rfl
@[simp] theorem bindStep_mem (a0 : BindTrigger) (a1 : Nat) (s : State) : (bindStep a0 a1 s).mem = s.mem := rfl
@[simp] theorem bindStep_free (a0 : BindTrigger) (a1 : Nat) (s : State) : (bindStep a0 a1 s).free = s.free := rfl
@[simp] theorem bindStep_pending (a0 : BindTrigger) (a1 : Nat) (s : State) : (bindStep a0 a1 s).pending = s.pending := rfl

@[simp] theorem writeByte_sys (s : State) (a1 : Nat) (a2 : Byte) : (writeByte s a1 a2).sys = s.sys := rfl
@[simp] theorem writeByte_flt (s : State) (a1 : Nat) (a2 : Byte) : (writeByte s a1 a2).flt = s.flt := rfl
@[simp] theorem writeByte_pwr (s : State) (a1 : Nat) (a2 : Byte) : (writeByte s a1 a2).pwr = s.pwr := rfl
@[simp] theorem writeByte_clk (s : State) (a1 : Nat) (a2 : Byte) : (writeByte s a1 a2).clk = s.clk := rfl
@[simp] theorem writeByte_spn (s : State) (a1 : Nat) (a2 : Byte) : (writeByte s a1 a2).spn = s.spn := rfl
@[simp] theorem writeByte_srv (s : State) (a1 : Nat) (a2 : Byte) : (writeByte s a1 a2).srv = s.srv := rfl
@[simp] theorem writeByte_port (s : State) (a1 : Nat) (a2 : Byte) : (writeByte s a1 a2).port = s.port := rfl
@[simp] theorem writeByte_sns (s : State) (a1 : Nat) (a2 : Byte) : (writeByte s a1 a2).sns = s.sns := rfl
@[simp] theorem writeByte_yck (s : State) (a1 : Nat) (a2 : Byte) : (writeByte s a1 a2).yck = s.yck := rfl
@[simp] theorem writeByte_lane (s : State) (a1 : Nat) (a2 : Byte) : (writeByte s a1 a2).lane = s.lane := rfl
@[simp] theorem writeByte_ddp (s : State) (a1 : Nat) (a2 : Byte) : (writeByte s a1 a2).ddp = s.ddp := rfl
@[simp] theorem writeByte_media (s : State) (a1 : Nat) (a2 : Byte) : (writeByte s a1 a2).media = s.media := rfl
@[simp] theorem writeByte_dma (s : State) (a1 : Nat) (a2 : Byte) : (writeByte s a1 a2).dma = s.dma := rfl
@[simp] theorem writeByte_hqm (s : State) (a1 : Nat) (a2 : Byte) : (writeByte s a1 a2).hqm = s.hqm := rfl
@[simp] theorem writeByte_cap (s : State) (a1 : Nat) (a2 : Byte) : (writeByte s a1 a2).cap = s.cap := rfl
@[simp] theorem writeByte_stc (s : State) (a1 : Nat) (a2 : Byte) : (writeByte s a1 a2).stc = s.stc := rfl
@[simp] theorem writeByte_spe (s : State) (a1 : Nat) (a2 : Byte) : (writeByte s a1 a2).spe = s.spe := rfl
@[simp] theorem writeByte_arr (s : State) (a1 : Nat) (a2 : Byte) : (writeByte s a1 a2).arr = s.arr := rfl
@[simp] theorem writeByte_hif (s : State) (a1 : Nat) (a2 : Byte) : (writeByte s a1 a2).hif = s.hif := rfl
@[simp] theorem writeByte_host (s : State) (a1 : Nat) (a2 : Byte) : (writeByte s a1 a2).host = s.host := rfl
@[simp] theorem writeByte_free (s : State) (a1 : Nat) (a2 : Byte) : (writeByte s a1 a2).free = s.free := rfl
@[simp] theorem writeByte_pending (s : State) (a1 : Nat) (a2 : Byte) : (writeByte s a1 a2).pending = s.pending := rfl

@[simp] theorem speCtlWrite_sys (a0 : Word) (s : State) : (speCtlWrite a0 s).sys = s.sys := rfl
@[simp] theorem speCtlWrite_flt (a0 : Word) (s : State) : (speCtlWrite a0 s).flt = s.flt := rfl
@[simp] theorem speCtlWrite_pwr (a0 : Word) (s : State) : (speCtlWrite a0 s).pwr = s.pwr := rfl
@[simp] theorem speCtlWrite_clk (a0 : Word) (s : State) : (speCtlWrite a0 s).clk = s.clk := rfl
@[simp] theorem speCtlWrite_spn (a0 : Word) (s : State) : (speCtlWrite a0 s).spn = s.spn := rfl
@[simp] theorem speCtlWrite_srv (a0 : Word) (s : State) : (speCtlWrite a0 s).srv = s.srv := rfl
@[simp] theorem speCtlWrite_port (a0 : Word) (s : State) : (speCtlWrite a0 s).port = s.port := rfl
@[simp] theorem speCtlWrite_sns (a0 : Word) (s : State) : (speCtlWrite a0 s).sns = s.sns := rfl
@[simp] theorem speCtlWrite_yck (a0 : Word) (s : State) : (speCtlWrite a0 s).yck = s.yck := rfl
@[simp] theorem speCtlWrite_lane (a0 : Word) (s : State) : (speCtlWrite a0 s).lane = s.lane := rfl
@[simp] theorem speCtlWrite_ddp (a0 : Word) (s : State) : (speCtlWrite a0 s).ddp = s.ddp := rfl
@[simp] theorem speCtlWrite_media (a0 : Word) (s : State) : (speCtlWrite a0 s).media = s.media := rfl
@[simp] theorem speCtlWrite_dma (a0 : Word) (s : State) : (speCtlWrite a0 s).dma = s.dma := rfl
@[simp] theorem speCtlWrite_hqm (a0 : Word) (s : State) : (speCtlWrite a0 s).hqm = s.hqm := rfl
@[simp] theorem speCtlWrite_cap (a0 : Word) (s : State) : (speCtlWrite a0 s).cap = s.cap := rfl
@[simp] theorem speCtlWrite_stc (a0 : Word) (s : State) : (speCtlWrite a0 s).stc = s.stc := rfl
@[simp] theorem speCtlWrite_arr (a0 : Word) (s : State) : (speCtlWrite a0 s).arr = s.arr := rfl
@[simp] theorem speCtlWrite_hif (a0 : Word) (s : State) : (speCtlWrite a0 s).hif = s.hif := rfl
@[simp] theorem speCtlWrite_host (a0 : Word) (s : State) : (speCtlWrite a0 s).host = s.host := rfl
@[simp] theorem speCtlWrite_mem (a0 : Word) (s : State) : (speCtlWrite a0 s).mem = s.mem := rfl
@[simp] theorem speCtlWrite_free (a0 : Word) (s : State) : (speCtlWrite a0 s).free = s.free := rfl
@[simp] theorem speCtlWrite_pending (a0 : Word) (s : State) : (speCtlWrite a0 s).pending = s.pending := rfl

@[simp] theorem hifCtlWrite_sys (a0 : Word) (s : State) : (hifCtlWrite a0 s).sys = s.sys := rfl
@[simp] theorem hifCtlWrite_flt (a0 : Word) (s : State) : (hifCtlWrite a0 s).flt = s.flt := rfl
@[simp] theorem hifCtlWrite_pwr (a0 : Word) (s : State) : (hifCtlWrite a0 s).pwr = s.pwr := rfl
@[simp] theorem hifCtlWrite_clk (a0 : Word) (s : State) : (hifCtlWrite a0 s).clk = s.clk := rfl
@[simp] theorem hifCtlWrite_spn (a0 : Word) (s : State) : (hifCtlWrite a0 s).spn = s.spn := rfl
@[simp] theorem hifCtlWrite_srv (a0 : Word) (s : State) : (hifCtlWrite a0 s).srv = s.srv := rfl
@[simp] theorem hifCtlWrite_port (a0 : Word) (s : State) : (hifCtlWrite a0 s).port = s.port := rfl
@[simp] theorem hifCtlWrite_sns (a0 : Word) (s : State) : (hifCtlWrite a0 s).sns = s.sns := rfl
@[simp] theorem hifCtlWrite_yck (a0 : Word) (s : State) : (hifCtlWrite a0 s).yck = s.yck := rfl
@[simp] theorem hifCtlWrite_lane (a0 : Word) (s : State) : (hifCtlWrite a0 s).lane = s.lane := rfl
@[simp] theorem hifCtlWrite_ddp (a0 : Word) (s : State) : (hifCtlWrite a0 s).ddp = s.ddp := rfl
@[simp] theorem hifCtlWrite_media (a0 : Word) (s : State) : (hifCtlWrite a0 s).media = s.media := rfl
@[simp] theorem hifCtlWrite_dma (a0 : Word) (s : State) : (hifCtlWrite a0 s).dma = s.dma := rfl
@[simp] theorem hifCtlWrite_hqm (a0 : Word) (s : State) : (hifCtlWrite a0 s).hqm = s.hqm := rfl
@[simp] theorem hifCtlWrite_cap (a0 : Word) (s : State) : (hifCtlWrite a0 s).cap = s.cap := rfl
@[simp] theorem hifCtlWrite_stc (a0 : Word) (s : State) : (hifCtlWrite a0 s).stc = s.stc := rfl
@[simp] theorem hifCtlWrite_spe (a0 : Word) (s : State) : (hifCtlWrite a0 s).spe = s.spe := rfl
@[simp] theorem hifCtlWrite_arr (a0 : Word) (s : State) : (hifCtlWrite a0 s).arr = s.arr := rfl
@[simp] theorem hifCtlWrite_host (a0 : Word) (s : State) : (hifCtlWrite a0 s).host = s.host := rfl
@[simp] theorem hifCtlWrite_mem (a0 : Word) (s : State) : (hifCtlWrite a0 s).mem = s.mem := rfl
@[simp] theorem hifCtlWrite_free (a0 : Word) (s : State) : (hifCtlWrite a0 s).free = s.free := rfl
@[simp] theorem hifCtlWrite_pending (a0 : Word) (s : State) : (hifCtlWrite a0 s).pending = s.pending := rfl

@[simp] theorem deviceStart_flt (a0 : BitVec 7) (s : State) : (deviceStart a0 s).flt = s.flt := rfl
@[simp] theorem deviceStart_pwr (a0 : BitVec 7) (s : State) : (deviceStart a0 s).pwr = s.pwr := rfl
@[simp] theorem deviceStart_clk (a0 : BitVec 7) (s : State) : (deviceStart a0 s).clk = s.clk := rfl
@[simp] theorem deviceStart_spn (a0 : BitVec 7) (s : State) : (deviceStart a0 s).spn = s.spn := rfl
@[simp] theorem deviceStart_srv (a0 : BitVec 7) (s : State) : (deviceStart a0 s).srv = s.srv := rfl
@[simp] theorem deviceStart_port (a0 : BitVec 7) (s : State) : (deviceStart a0 s).port = s.port := rfl
@[simp] theorem deviceStart_sns (a0 : BitVec 7) (s : State) : (deviceStart a0 s).sns = s.sns := rfl
@[simp] theorem deviceStart_yck (a0 : BitVec 7) (s : State) : (deviceStart a0 s).yck = s.yck := rfl
@[simp] theorem deviceStart_lane (a0 : BitVec 7) (s : State) : (deviceStart a0 s).lane = s.lane := rfl
@[simp] theorem deviceStart_ddp (a0 : BitVec 7) (s : State) : (deviceStart a0 s).ddp = s.ddp := rfl
@[simp] theorem deviceStart_media (a0 : BitVec 7) (s : State) : (deviceStart a0 s).media = s.media := rfl
@[simp] theorem deviceStart_dma (a0 : BitVec 7) (s : State) : (deviceStart a0 s).dma = s.dma := rfl
@[simp] theorem deviceStart_hqm (a0 : BitVec 7) (s : State) : (deviceStart a0 s).hqm = s.hqm := rfl
@[simp] theorem deviceStart_cap (a0 : BitVec 7) (s : State) : (deviceStart a0 s).cap = s.cap := rfl
@[simp] theorem deviceStart_stc (a0 : BitVec 7) (s : State) : (deviceStart a0 s).stc = s.stc := rfl
@[simp] theorem deviceStart_spe (a0 : BitVec 7) (s : State) : (deviceStart a0 s).spe = s.spe := rfl
@[simp] theorem deviceStart_arr (a0 : BitVec 7) (s : State) : (deviceStart a0 s).arr = s.arr := rfl
@[simp] theorem deviceStart_hif (a0 : BitVec 7) (s : State) : (deviceStart a0 s).hif = s.hif := rfl
@[simp] theorem deviceStart_host (a0 : BitVec 7) (s : State) : (deviceStart a0 s).host = s.host := rfl
@[simp] theorem deviceStart_mem (a0 : BitVec 7) (s : State) : (deviceStart a0 s).mem = s.mem := rfl
@[simp] theorem deviceStart_free (a0 : BitVec 7) (s : State) : (deviceStart a0 s).free = s.free := rfl
@[simp] theorem deviceStart_pending (a0 : BitVec 7) (s : State) : (deviceStart a0 s).pending = s.pending := rfl

@[simp] theorem tempRefresh_sys (a0 : Int) (s : State) : (tempRefresh a0 s).sys = s.sys := rfl
@[simp] theorem tempRefresh_flt (a0 : Int) (s : State) : (tempRefresh a0 s).flt = s.flt := rfl
@[simp] theorem tempRefresh_pwr (a0 : Int) (s : State) : (tempRefresh a0 s).pwr = s.pwr := rfl
@[simp] theorem tempRefresh_clk (a0 : Int) (s : State) : (tempRefresh a0 s).clk = s.clk := rfl
@[simp] theorem tempRefresh_spn (a0 : Int) (s : State) : (tempRefresh a0 s).spn = s.spn := rfl
@[simp] theorem tempRefresh_srv (a0 : Int) (s : State) : (tempRefresh a0 s).srv = s.srv := rfl
@[simp] theorem tempRefresh_port (a0 : Int) (s : State) : (tempRefresh a0 s).port = s.port := rfl
@[simp] theorem tempRefresh_sns (a0 : Int) (s : State) : (tempRefresh a0 s).sns = s.sns := rfl
@[simp] theorem tempRefresh_yck (a0 : Int) (s : State) : (tempRefresh a0 s).yck = s.yck := rfl
@[simp] theorem tempRefresh_ddp (a0 : Int) (s : State) : (tempRefresh a0 s).ddp = s.ddp := rfl
@[simp] theorem tempRefresh_media (a0 : Int) (s : State) : (tempRefresh a0 s).media = s.media := rfl
@[simp] theorem tempRefresh_dma (a0 : Int) (s : State) : (tempRefresh a0 s).dma = s.dma := rfl
@[simp] theorem tempRefresh_hqm (a0 : Int) (s : State) : (tempRefresh a0 s).hqm = s.hqm := rfl
@[simp] theorem tempRefresh_cap (a0 : Int) (s : State) : (tempRefresh a0 s).cap = s.cap := rfl
@[simp] theorem tempRefresh_stc (a0 : Int) (s : State) : (tempRefresh a0 s).stc = s.stc := rfl
@[simp] theorem tempRefresh_spe (a0 : Int) (s : State) : (tempRefresh a0 s).spe = s.spe := rfl
@[simp] theorem tempRefresh_arr (a0 : Int) (s : State) : (tempRefresh a0 s).arr = s.arr := rfl
@[simp] theorem tempRefresh_hif (a0 : Int) (s : State) : (tempRefresh a0 s).hif = s.hif := rfl
@[simp] theorem tempRefresh_host (a0 : Int) (s : State) : (tempRefresh a0 s).host = s.host := rfl
@[simp] theorem tempRefresh_mem (a0 : Int) (s : State) : (tempRefresh a0 s).mem = s.mem := rfl
@[simp] theorem tempRefresh_free (a0 : Int) (s : State) : (tempRefresh a0 s).free = s.free := rfl
@[simp] theorem tempRefresh_pending (a0 : Int) (s : State) : (tempRefresh a0 s).pending = s.pending := rfl

end Sys2Proof.Laws
end

