-- ==== Sys2Proof/WellFormed.lean ====
section
/-!
DEFINITION. Well-formed commands: each operand fits the field that carries it (R16 for an access, R340 to R377 for an NVMe command's
dwords and data, R347 for a management message, R354 for a submission queue entry). Numbered parts are Fin and cannot be wrong.
-/
namespace Sys2Proof

/-- Every operand fits its field. -/
def Instr.wf (i : Instr) : Bool :=
  match i with
  | .registerWrite _ a _ _ => decide (a < 2 ^ 32)
  | .misalignedAccess x => decide (x.addr < 2 ^ 32 ∧ 0 < x.bytes ∧ x.bytes ≤ 64)
  | .unmappedAccess x => decide (x.addr < 2 ^ 32 ∧ 0 < x.bytes ∧ x.bytes ≤ 64)
  | .gatedBlockAccess x => decide (x.addr < 2 ^ 32 ∧ 0 < x.bytes ∧ x.bytes ≤ 64)
  | .hookViolation x => decide (x.addr < 2 ^ 32 ∧ 0 < x.bytes ∧ x.bytes ≤ 64)
  | .reg64LowRead _ a => decide (a < 2 ^ 32)
  | .reg64HighWrite _ a _ => decide (a < 2 ^ 32)
  | .reg64LowWrite _ a _ => decide (a < 2 ^ 32)
  | .gaugeUpdateApply wedge => decide (wedge < 1024)
  | .commandFetch _ k => decide (k.words.length = 16 ∧ k.ns < 2 ^ 32)
  | .identify _ cns csi ns cntid => decide (cns < 256 ∧ csi < 256 ∧ ns < 2 ^ 32 ∧ cntid < 65536)
  | .getLogPage _ lid _ offset bytes => decide (lid < 256 ∧ offset < 2 ^ 64 ∧ bytes ≤ 2 ^ 34)
  | .setFeatures _ fid _ v _ => decide (fid < 256 ∧ v < 2 ^ 32)
  | .getFeatures _ fid sel v => decide (fid < 256 ∧ sel < 8 ∧ v < 2 ^ 32)
  | .powerManagement _ v => decide (v < 2 ^ 32)
  | .layoutDefaults _ _ v => decide (v < 2 ^ 32)
  | .scrubSchedule _ _ v => decide (v < 2 ^ 32)
  | .spinUpPermitPolicy _ _ v => decide (v < 2 ^ 32)
  | .protectedWriteWindow _ _ v => decide (v < 2 ^ 32)
  | .createIoSq _ q size cq => decide (q < 65536 ∧ size < 65536 ∧ cq < 65536)
  | .deleteIoSq _ q => decide (q < 65536)
  | .createIoCq _ q size iv => decide (q < 65536 ∧ size < 65536 ∧ iv < 65536)
  | .deleteIoCq _ q => decide (q < 65536)
  | .abort _ target => decide (target < 2 ^ 64)
  | .namespaceManagement _ x ns => decide (ns < 2 ^ 32 ∧ (∀ y ∈ x, y.csi < 256 ∧ y.nsze < 2 ^ 64 ∧ y.ncap < 2 ^ 64 ∧ y.flbas < 256 ∧ y.dps < 256 ∧ y.nmic < 256 ∧ y.conv < 2 ^ 32 ∧ y.w < 256 ∧ y.c < 256))
  | .namespaceAttachment _ ns _ _ => decide (ns < 2 ^ 32)
  | .firmwareImageDownload _ offset len => decide (offset < 2 ^ 34 ∧ len ≤ 2 ^ 34)
  | .fwCommitStore _ slot x => decide (slot < 8 ∧ x.version < 2 ^ 32)
  | .fwCommitActivateAtReset _ slot x => decide (slot < 8 ∧ x.version < 2 ^ 32)
  | .fwCommitSlotAtReset _ slot => decide (slot < 8)
  | .fwCommitActivateNow _ slot x => decide (slot < 8 ∧ x.version < 2 ^ 32)
  | .formatNvm _ ns lbaf pi ses => decide (ns < 2 ^ 32 ∧ lbaf < 32 ∧ pi < 16 ∧ ses < 8)
  | .declareDead _ m _ gen => decide (m < 256 ∧ gen < 65536)
  | .requalify _ m gen => decide (m < 256 ∧ gen < 65536)
  | .readmitAsSpare _ m gen => decide (m < 256 ∧ gen < 65536)
  | .setScrubPeriod _ m gen days => decide (m < 256 ∧ gen < 65536 ∧ days < 65536)
  | .surfaceQuery _ m => decide (m < 32)
  | .reshapeStart _ ns first last w cc => decide (ns < 2 ^ 32 ∧ first < 2 ^ 32 ∧ last < 2 ^ 32 ∧ w < 256 ∧ cc < 256)
  | .calibrationRequest _ m zone _ _ => decide (m < 32 ∧ zone < 64)
  | .flush _ ns => decide (ns < 2 ^ 32)
  | .write _ io => decide (io.ns < 2 ^ 32 ∧ io.slba < 2 ^ 64 ∧ io.nlb ≤ 65536 ∧ io.data.length ≤ 65536)
  | .read _ io => decide (io.ns < 2 ^ 32 ∧ io.slba < 2 ^ 64 ∧ io.nlb ≤ 65536 ∧ io.data.length ≤ 65536)
  | .compare _ io => decide (io.ns < 2 ^ 32 ∧ io.slba < 2 ^ 64 ∧ io.nlb ≤ 65536 ∧ io.data.length ≤ 65536)
  | .writeZeroes _ io => decide (io.ns < 2 ^ 32 ∧ io.slba < 2 ^ 64 ∧ io.nlb ≤ 65536 ∧ io.data.length ≤ 65536)
  | .verify _ io => decide (io.ns < 2 ^ 32 ∧ io.slba < 2 ^ 64 ∧ io.nlb ≤ 65536 ∧ io.data.length ≤ 65536)
  | .zoneAppend _ io => decide (io.ns < 2 ^ 32 ∧ io.slba < 2 ^ 64 ∧ io.nlb ≤ 65536 ∧ io.data.length ≤ 65536)
  | .zoneManagementReceive _ ns slba => decide (ns < 2 ^ 32 ∧ slba < 2 ^ 64)
  | .zoneOpen _ io => decide (io.ns < 2 ^ 32 ∧ io.slba < 2 ^ 64 ∧ io.nlb ≤ 65536 ∧ io.data.length ≤ 65536)
  | .zoneClose _ io => decide (io.ns < 2 ^ 32 ∧ io.slba < 2 ^ 64 ∧ io.nlb ≤ 65536 ∧ io.data.length ≤ 65536)
  | .zoneFinish _ io => decide (io.ns < 2 ^ 32 ∧ io.slba < 2 ^ 64 ∧ io.nlb ≤ 65536 ∧ io.data.length ≤ 65536)
  | .zoneReset _ io => decide (io.ns < 2 ^ 32 ∧ io.slba < 2 ^ 64 ∧ io.nlb ≤ 65536 ∧ io.data.length ≤ 65536)
  | .fixityDigest _ io => decide (io.ns < 2 ^ 32 ∧ io.slba < 2 ^ 64 ∧ io.nlb ≤ 65536 ∧ io.data.length ≤ 65536)
  | .salvageRead _ io => decide (io.ns < 2 ^ 32 ∧ io.slba < 2 ^ 64 ∧ io.nlb ≤ 65536 ∧ io.data.length ≤ 65536)
  | .miReadDataStructure kind => decide (kind < 256)
  | .miControllerHealthPoll cntid => decide (cntid < 65536)
  | .miConfigurationSet id v => decide (id < 256 ∧ v < 2 ^ 32)
  | .miConfigurationGet id => decide (id < 256)
  | .miVpdRead offset len => decide (offset < 65536 ∧ len < 65536)
  | .miVpdWrite offset bs => decide (offset < 65536 ∧ bs.length < 65536)
  | .dmaRequest line _ => decide (line < 64)
  | .capFrameIn f => decide (f.body.length < 16384)
  | .basicManagementCommand dest => decide (dest < 128)
  | .i3cDynamicAddressAssign setdasa address => decide (address < 128 ∧ (∀ a ∈ setdasa, a < 128))
  | .powerOnReset .. | .resetNQualified .. | .resetNRise .. | .railOutOfWindow .. | .railBrownout .. | .railResetLevel ..
  | .pwrfailQualified .. | .refugeWrite .. | .refugeDone .. | .powerlossRecoveryReset .. | .permitInFilteredHigh ..
  | .permitInFall .. | .permitDelayExpiry .. | .errOutMinExpiry .. | .shockPinAssert .. | .paFaultAssert .. | .perstAssert ..
  | .perstDeassert .. | .linkDown .. | .functionReset .. | .l12Entry .. | .l12Exit .. | .crystalLost .. | .crystalRestored ..
  | .clkRefSelect .. | .clkClusterFreq .. | .post .. | .safeCommitReset .. | .spinupStart .. | .castonMedia .. | .ready ..
  | .bindOff .. | .shutdownNotify .. | .ps4Wake .. | .ps3Wake .. | .spnDecision .. | .spnStart .. | .spnStop .. | .spnLock ..
  | .bemfZeroCrossing .. | .sensingWindowEnd .. | .inductiveDetectDone .. | .brakeProbe .. | .brakeTimeout .. | .lockedRotor ..
  | .lockedRotorPauseEnd .. | .resyncTimeout .. | .restartCoastEnd .. | .refugeDelayExpiry .. | .reseedDone .. | .yckEnable ..
  | .yckSelForce .. | .yckLock .. | .yarnHeadLost .. | .yarnHeadQualified .. | .switchover .. | .forcedSwitchover ..
  | .timingGuardFall .. | .slewDone .. | .yarnReturn .. | .gaugeRowMove .. | .gaugeHourlyWrite .. | .servoSample ..
  | .halfSamplePiezo .. | .samMissRun .. | .servoImplausible .. | .holdTimeout .. | .onTrack .. | .srvLoad .. | .srvSeek ..
  | .srvHoldCmd .. | .srvReleaseHold .. | .srvUnload .. | .srvSwapRequest .. | .srvLock .. | .srvBankWrite .. | .loadCapture ..
  | .loadTimeout .. | .retractDone .. | .parkCheck .. | .unloadNFall .. | .dlFrameReceive .. | .dlFault .. | .portHoldExpiry ..
  | .portHoldRetract .. | .sensorRead .. | .laneTempRefresh .. | .feReady .. | .readerFail .. | .paCmdQueue .. | .paFrameSend ..
  | .decodeAttemptDone .. | .rawVerdict .. | .deepDecodeRequest .. | .deepWaitTimeout .. | .deepDecodeDone ..
  | .retryRevolution .. | .selvageDecode .. | .rowSeq .. | .rowJmp .. | .rowBrt .. | .rowBrf .. | .rowDsp .. | .rowCall ..
  | .rowRet .. | .rowWait .. | .rowWaitTimeout .. | .customerTimeFault .. | .rowReloadDone .. | .opcodeIdle ..
  | .opcodeOpBegin .. | .opcodeOpEnd .. | .opcodeRdRun .. | .opcodeRrRun .. | .opcodeWrRun .. | .opcodeWrSelv .. | .opcodeGap ..
  | .opcodeCustomer .. | .rowLoadWrite .. | .rowLoadReadback .. | .rowRun .. | .rowStop .. | .custEnWrite .. | .rowSwapRequest ..
  | .rowSwap .. | .patOperation .. | .patRun .. | .patQuiesce .. | .darnWrite .. | .darnReadback .. | .matchWrite ..
  | .matchApply .. | .jrnlAppend .. | .jrnlGroupIssue .. | .jrnlAck .. | .replicaReplace .. | .replicaFillDone ..
  | .checkpoint .. | .bitClearDelay .. | .rowVerified .. | .rowIdleTimeout .. | .rmwEntriesDurable .. | .rmwVerified ..
  | .skipWalkUnit .. | .reconstructRead .. | .speJob .. | .speEnable .. | .speHalt .. | .speLock .. | .speCalWrite ..
  | .suspectTrigger .. | .suspectExpiry .. | .fenceTrigger .. | .actuatorUnavailable .. | .actuatorReload ..
  | .actuatorRetryTimer .. | .rebuildRow .. | .rebuildZoneDone .. | .fencedProbe .. | .requalSwatchDone .. | .requalVerifyDone ..
  | .migrateZone .. | .reshapeZone .. | .formatConversion .. | .scrubRow .. | .rangeLockRelease .. | .completionPost ..
  | .holdLimitExpiry .. | .ccEnSet .. | .ccEnClear .. | .rejoinWindowExpiry .. | .attachRequest .. | .partnerDepart ..
  | .roleChange .. | .nssr .. | .asynchronousEventRequest .. | .activationHoldStart .. | .activationQuietTimeout ..
  | .activationSwitch .. | .selftestShort .. | .selftestExtended .. | .selftestAbort .. | .slice .. | .securitySend ..
  | .securityReceive .. | .sanitizeCryptoErase .. | .sanitizeBlockErase .. | .nvmeMiSend .. | .nvmeMiReceive ..
  | .recorderRead .. | .recorderClear .. | .miSubsystemHealthPoll .. | .miReset .. | .miPause .. | .miResume .. | .miAbort ..
  | .miGetState .. | .miReplay .. | .miTunnelledAdmin .. | .hifFetchHold .. | .hifRingConfig .. | .feInstanceFail ..
  | .linkWidthReduce .. | .dmaStart .. | .dmaAbort .. | .dmaResume .. | .dmaExtend .. | .dmaDisable ..
  | .dmaDescriptorComplete .. | .dmaBurstError .. | .dmaEventTrigger .. | .dmaTimerExpiry .. | .pwrDomRequest ..
  | .dmaQuiesceDone .. | .dmaQuiesceTimeout .. | .pwrHaltReq .. | .pwrLaneLimit .. | .thermalLimit .. | .laneGateSwap ..
  | .apstIdleExpiry .. | .hqmRingEnable .. | .hqmRingDisable .. | .flushPkt .. | .flushNow .. | .hqmProdOpen .. | .hqmProdSlot ..
  | .hqmProdClose .. | .hqmConsHeader .. | .hqmConsSlot .. | .hqmConsSkip .. | .hqmStallTimeout .. | .capRecordOut ..
  | .capEnable .. | .faultSourceOccurrence .. | .faultAcknowledge .. | .fltSwraise .. | .fltDefaultCore .. | .warmReset ..
  | .coreWatchdog .. | .coreFail .. | .clusterFail .. | .laneFail .. | .laneLoopback .. | .laneMapWrite .. | .muxSwitch ..
  | .srvMapWrite .. | .coreMapWrite .. | .coreCommit .. | .coreDiscard .. | .injectionUnlock .. | .injRaiseSource ..
  | .injSingleBitError .. | .injDoubleBitError .. | .injRowParity .. | .injServoResidue .. | .injLockstep .. | .injDlDrop ..
  | .injRldBurst .. | .sramPatrol .. | .sramUncorrectable .. | .rldChannelFail .. | .stcEntry .. | .stcSecondTick ..
  | .stcMsTick .. | .stcClear .. | .stcCondAdd .. | .stcPersist .. | .stcPersistDone .. | .stcLock .. | .stcReadSelect ..
  | .stcWindowAdvance .. | .yarnPllLock .. | .linkUp .. | .l12HostExit .. | .calibrationAbandon .. => true

end Sys2Proof
end

