-- ==== Sys2Proof/Tests/Slice0.lean ====
section
/-!
SUPPORT. Own tests: ill-formed commands that the check refuses, small facts of the spec's own tables and formulas, and for each
statement with hypotheses a state and operands that meet them.
-/
set_option linter.all false
set_option Elab.async false
namespace Sys2Proof.Tests
open Sys2Proof Sys2Proof.Machine

/-! ### States of the witnesses -/

def live : State := { State.reset with sys := { State.reset.sys with inReset := false } }
def onSys (f : Sys → Sys) (s : State) : State := { s with sys := f s.sys }
def findings : PostFindings := { romCrcOk := true, coresFailed := 0, bootCorePasses := true, bootCore := 0, badRows := Vector.replicate 10 0, slotOk := Vector.replicate 2 true, storeBad := 0, rldTrained := Vector.replicate 2 true, lanesFailed := 0, enginesFailed := 0, padsOk := true, spindleMismatches := 0, flashOctal := true, timeMs := 0 }
def onPwrOff (s : State) : State := { s with pwr := { s.pwr with dom := s.pwr.dom.set 12 .off } }
def enabled (s : State) : State := setCtl 0 { s.hif.ctl[0] with en := true, role := .attached } s
def parkedAll (s : State) : State := { s with srv := Vector.replicate 5 { State.reset.srv[0] with state := .parked } }
def followAll (s : State) : State := { s with srv := Vector.replicate 5 { State.reset.srv[0] with state := .follow } }
def wakingState : State := followAll (onSys (fun x => { x with phase := .waking }) { live with stc := { State.reset.stc with restored := true } })
def quietSample : SpnSample := { shuntA := 0, shuntB := 0, average := 0, supply := 12000, speedQ := 0, dir := .still, commanded := 0, track := 0, mismatch := false, missing := false }
def linked (s : State) : State := setCtl 0 { s.hif.ctl[0] with linkUp := true } s
def onYck (f : Yck → Yck) (s : State) : State := { s with yck := f s.yck }
def onSrv (f : Srv → Srv) (s : State) : State := { s with srv := Vector.replicate 5 (f State.reset.srv[0]) }
def yckGood : Regs := regSet yckRows (regSet yckRows Yck.reset.regs 0x10 256) 0x0C 256
def gaugeState : State := { live with mem := [(12, 93), (13, 181), (14, 96), (15, 43)] }
def onPort0 (f : Port → Port) (s : State) : State := setPort 0 (f s.port[0]) s
def bound (s : State) : State := onPort0 (fun p => { p with driver := some 0 }) { s with flt := { s.flt with srvMap := 0x4688 } }
def quietWedge : WedgeRead := { sam := some 0, wedge := 0, trackId := 0, idOk := true, transitions := 0, tA := 0, tB := 0, tC := 0, tD := 0, rro := 0, eccCorr := false, engineBad := false, step5 := 0 }
def fitted (st : SrvState) : State := onSrv (fun v => { v with state := st, regs := regSet srvRows v.regs 0x20 0x100 }) live
def noDrive : State := { live with port := Vector.replicate 4 { live.port[0] with driver := none } }
def onLane (f : Lane → Lane) (s : State) : State := setLane 0 (f s.lane[0]) s
def onRow (f : Row → Row) (s : State) : State := onLane (fun v => { v with row := f v.row }) s
def rowWordOf (nxt top : Nat) : BitVec 144 := BitVec.ofNat 144 (2 ^ 143 * top + 2 ^ 140 * nxt + 2 ^ 78 + 2 ^ 60 + 2 ^ 35)
def rowState (nxt top : Nat) : State := onRow (fun r => { r with state := .running, store := [(0, rowWordOf nxt top)], stack := if nxt = 6 then [5] else [] }) live
def quietSymbol : RowSymbol := { sym := 0, found := 0, closed := 0, rdRoom := false, wrAvail := false, encPass := false }
def takes (op : Nat) : State := onRow (fun r => { r with state := .running, fifo := [(op, 4096)] }) live
def aPlace : TrackAt := { surface := 0, zone := 0, track := 0 }
def aLadder (rung : Nat) : Ladder := { place := aPlace, slot := 0, output := 0, rung := rung, ceiling := 5, noRetry := false, cands := [], best := none, pinned := 0, retries := 0 }
def onLadder (rung : Nat) (s : State) : State := onLane (fun v => { v with ladder := [aLadder rung] }) s
def goodDecode : DecodeResult := { output := 0, slot := 0, sync := [(0, 0)], checks := Vector.replicate 4 [0], id := 0, piOk := true, phaseErr := 0, expiring := false, tapLimit := false, readers := Vector.replicate 4 { mean := 0, clipped := 0 } }
def aVerify : VerifyResult := { slot := 0, sync := [(0, 0)], checks := [0], id := 0, piOk := true, mean := 255, reread := false }
def aSelvage : SelvageTry := { output := 0, group := 0, sectors := [], hasPi := false, piPass := false }
def aDeep : DeepReq := { lane := 0, slot := 0, output := 0, best := 0, place := aPlace, head := 0 }
def onArr (f : Arr → Arr) (s : State) : State := { s with arr := f s.arr }
def onSpe (f : Spe → Spe) (s : State) : State := { s with spe := f s.spe }
def aZone : Zone := { ns := 1, index := 0, conv := false, w := 4, c := 1, place := [(0, 0), (6, 0), (12, 0), (18, 0)], st := .full, wp := 32, degraded := false, lastWrite := 0, targets := [] }
def work : State := onArr (fun a => { a with zones := [(0, aZone)] }) (onSpe (fun p => { p with regs := regSet speRows p.regs 0 1, next := 5, replica := Vector.replicate 3 { member := 0, current := true } }) (onYck (fun y => { y with active := some 0, running := true }) (onSys (fun x => { x with phase := .ready }) { live with spn := { live.spn with hold := false } })))
def anOpenRow : OpenRow := { zone := 0, row := 0, seq := 0, touched := 0, partialTo := none }
def aRmw : Rmw := { zone := 0, row := 0, unit := 0, first := 0, count := 1, seq := 0, computed := true, record := none }
def ringed (body : List Word) (s : State) : State := { s with hqm := { s.hqm with rings := [(0, { Ring.reset with packets := [{ owner := 0, isOpen := false, h0 := 0, h1 := 0, h2 := 0, h3 := 0, body := body, reader := none, excess := false, marked := false }] })] } }
def aPatStart : PatStart := { source := .host false, soon := false, parity := none }
def patState : State := ringed [0x40000000#32] (onLane (fun v => { v with pat := { v.pat with state := .idle } }) { live with mem := [(0, 1), (16, 11), (17, 76), (18, 67), (19, 156)] })
def jobState : State := ringed [0x27fe008#32] work
def onMember (f : Member → Member) (s : State) : State := onArr (fun a => { a with member := a.member.set 0 (f a.member[0]) }) s
def reshaping : State := onArr (fun a => { a with zones := [(0, { aZone with st := .empty })], reshape := some { zones := [0], w := 5, c := 1, boundary := 0, copying := none } }) work
def aTarget : Target := { pos := 0, member := 1, gen := 0, fenced := 0, fgen := 0, rebuilt := true }
def migrating : State := onArr (fun a => { a with zones := [(0, { aZone with c := 3, targets := [aTarget] })], fences := [(0, 0)], member := a.member.set 0 { a.member[0] with standing := true, state := .spare } }) work
def rebuilding : State := onArr (fun a => { a with zones := [(0, { aZone with targets := [{ aTarget with rebuilt := false }] })], member := a.member.set 0 { a.member[0] with state := .fenced } }) work
def hosted : State := setCtl 0 { live.hif.ctl[0] with en := true, linkUp := true, role := .attached } (work)
def aNs : Namespace := { zoned := true, meta16 := false, ext := false, pi := false, pip := false, shared := false, attached := 1, zones := [0], w := 4, c := 1, conv := 0 }
def onHost (f : HostIf → HostIf) (s : State) : State := { s with host := f s.host }
def onCtl (f : Ctl → Ctl) (s : State) : State := setCtl 0 (f s.hif.ctl[0]) s
def withNs (s : State) : State := onHost (fun h => { h with namespaces := [(1, aNs)] }) s
def anActivation : Activation := { slot := 1, ctl := 0, fseq := 3, holding := false }
def anIo : IoCmd := { kind := .read, ns := 1, slba := 0, nlb := 1, data := [], pract := false, checkApp := false, lbat := 0, lbatm := 0, limitedRetry := false, all := false, zoneMode := false, sha3 := false, find := { bad := [], unverified := [], salvaged := [] } }
def heldFlight : InFlight := { fseq := 9, ctl := 0, io := anIo, phase := .held, at_ := 0 }
def goodImage : ImageCheck := { valid := true, version := 5, raises := false, starts := true }
def staged : State := onHost (fun h => { h with fw := { h.fw with active := 0, staged := 4096, slot := Vector.replicate 2 { valid := true, version := 5, raises := false, starts := true } } }) hosted
def dmaOn : State := { live with dma := { live.dma with regs := regSet dmaRows live.dma.regs 0 1 } }
def onChan (f : Chan → Chan) (s : State) : State := { s with dma := { s.dma with chan := s.dma.chan.set 0 (f s.dma.chan[0]) } }
def aDomReq : DomReq := { dom := 12, target := .retain, final := false }
def clustersOn : State := { live with pwr := { live.pwr with dom := Vector.replicate 25 .on } }
def apstState : State := onHost (fun h => { h with features := [(0x0C, 1), (0x20C, (1 * 256 + 3 * 8) * 18446744073709551617 )] }) work
def aPacket : Packet := { owner := 0, isOpen := false, h0 := 3, h1 := 0, h2 := 0, h3 := 0, body := [1, 2, 3, 4, 5, 6, 7, 8], excess := false, marked := false, reader := some 0 }
def ringOn : State := { live with hqm := { live.hqm with rings := [(0, { Ring.reset with enabled := true, cfg := 0xF })] } }
def portOpen : State := { ringOn with hqm := { ringOn.hqm with ports := [(0, { HqmPort.reset with openIn := some 0 })] } }
def portReading : State := { ringOn with hqm := { ringOn.hqm with ports := [(0, { HqmPort.reset with reading := some 0 })], rings := [(0, { Ring.reset with enabled := true, packets := [aPacket] })] } }
def onFlt (f : Flt → Flt) (s : State) : State := { s with flt := f s.flt }
def openWith (a : Word) : State := onFlt (fun f => { f with injOpen := true, regs := regSet fltRows f.regs 0xE0C a }) live
def aWrite : StcWrite := { area := 0, copy := StcImage.empty, again := false, covers := [] }
def i3cState : State := onSys (fun x => { x with strap := 0xFFFF }) hosted
def aCal : CalRequest := { id := 0, member := 0, zone := 0, kinds := 0, poh := 0 }
def calState : State := onArr (fun a => { a with calReqs := [aCal], skipped := [{ zone := 0, row := 0, pos := 1, offsets := 1 }] }) { work with stc := { work.stc with pos := 90000 } }
def crcMem : List Host.Cell := [(8, 93), (9, 181), (10, 96), (11, 43)]
def aDesc : ZoneDesc := { valid := true, zone := 0, bpw := 4096, area := 0, surface := 0, first := 0, last := 255, rate := 0, preamble := true, rmodes := 1, raw := 1, vreader := 0, guard := 0, nslot := 16, ndata := 12, slipRes := 0, dreg := 3800, span := 296, pitch := 1024, iter := 0x44, crcOk := true }
def withDesc (f : ZoneDesc → ZoneDesc) (s : State) : State := { s with media := { s.media with zones := [(0, f aDesc)] } }
def placed (s : State) : State := onLane (fun v => { v with now := { v.now with place := aPlace } }) s

/-- The lane after a word's actions (R218). -/
def actedLane (s : State) (l : LaneIx) (w : BitVec 144) (x : RowSymbol) : Lane :=
  { s.lane[l] with
    row := rowActs w x.encPass (decide (s.yck.lane[l].timing ≠ .yarn)) (nextMark s l w x.sym) ((laneZone s l).map fun z => slotEnd z s.lane[l].row.slot) s.lane[l].row
    gateLatched := s.lane[l].gateLatched && !decide (wf w 70 68 = 2 ∨ wf w 70 68 = 3) }
def waitingFlight : InFlight := { heldFlight with phase := .waiting, io := { anIo with kind := .write } }

/-! ### Ill-formed commands are refused -/

def acc (a n : Nat) : Access := { who := .mi, addr := a, bytes := n, write := none }
def aCreate : NsCreate := { csi := 0, nsze := 0, ncap := 0, flbas := 0, dps := 0, nmic := 0, conv := 0, w := 0, c := 0 }
def aRaw : RawCmd := { admin := false, opcode := 2, ns := 1, first := 0, count := 1, modify := false, words := List.replicate 16 0 }

/-- An address of 33 bits, or an access of no bytes or of more than 64 (WellFormed). -/
theorem test_wf_register_access :
    Instr.wf (.registerWrite .mi (2 ^ 32) 0 []) = false ∧
    Instr.wf (.misalignedAccess (acc (2 ^ 32) 4)) = false ∧
    Instr.wf (.misalignedAccess (acc 0 0)) = false ∧
    Instr.wf (.misalignedAccess (acc 0 65)) = false ∧
    Instr.wf (.unmappedAccess (acc (2 ^ 32) 4)) = false ∧
    Instr.wf (.unmappedAccess (acc 0 0)) = false ∧
    Instr.wf (.unmappedAccess (acc 0 65)) = false ∧
    Instr.wf (.gatedBlockAccess (acc (2 ^ 32) 4)) = false ∧
    Instr.wf (.gatedBlockAccess (acc 0 0)) = false ∧
    Instr.wf (.gatedBlockAccess (acc 0 65)) = false ∧
    Instr.wf (.hookViolation (acc (2 ^ 32) 4)) = false ∧
    Instr.wf (.hookViolation (acc 0 0)) = false ∧
    Instr.wf (.hookViolation (acc 0 65)) = false ∧
    Instr.wf (.reg64LowRead .mi (2 ^ 32)) = false ∧
    Instr.wf (.reg64HighWrite .mi (2 ^ 32) 0) = false ∧
    Instr.wf (.reg64LowWrite .mi (2 ^ 32) 0) = false ∧
    Instr.wf (.gaugeUpdateApply 1024) = false ∧
    Instr.wf (.dmaRequest 64 []) = false ∧
    Instr.wf (.i3cDynamicAddressAssign none 128) = false ∧
    Instr.wf (.i3cDynamicAddressAssign (some 128) 0) = false ∧
    Instr.wf (.basicManagementCommand 128) = false := by
  decide

/-- Operands of admin commands beyond their dwords' fields. -/
theorem test_wf_admin :
    Instr.wf (.identify 0 256 0 0 0) = false ∧
    Instr.wf (.identify 0 0 256 0 0) = false ∧
    Instr.wf (.identify 0 0 0 (2 ^ 32) 0) = false ∧
    Instr.wf (.identify 0 0 0 0 65536) = false ∧
    Instr.wf (.getLogPage 0 256 false 0 0) = false ∧
    Instr.wf (.getLogPage 0 0 false (2 ^ 64) 0) = false ∧
    Instr.wf (.getLogPage 0 0 false 0 (2 ^ 34 + 1)) = false ∧
    Instr.wf (.setFeatures 0 256 false 0 0) = false ∧
    Instr.wf (.setFeatures 0 0 false (2 ^ 32) 0) = false ∧
    Instr.wf (.getFeatures 0 256 0 0) = false ∧
    Instr.wf (.getFeatures 0 0 8 0) = false ∧
    Instr.wf (.getFeatures 0 0 0 (2 ^ 32)) = false ∧
    Instr.wf (.powerManagement 0 (2 ^ 32)) = false ∧
    Instr.wf (.layoutDefaults 0 false (2 ^ 32)) = false ∧
    Instr.wf (.scrubSchedule 0 false (2 ^ 32)) = false ∧
    Instr.wf (.spinUpPermitPolicy 0 false (2 ^ 32)) = false ∧
    Instr.wf (.protectedWriteWindow 0 false (2 ^ 32)) = false ∧
    Instr.wf (.createIoSq 0 65536 0 0) = false ∧
    Instr.wf (.createIoSq 0 0 65536 0) = false ∧
    Instr.wf (.createIoSq 0 0 0 65536) = false ∧
    Instr.wf (.deleteIoSq 0 65536) = false ∧
    Instr.wf (.createIoCq 0 65536 0 0) = false ∧
    Instr.wf (.createIoCq 0 0 65536 0) = false ∧
    Instr.wf (.createIoCq 0 0 0 65536) = false ∧
    Instr.wf (.deleteIoCq 0 65536) = false ∧
    Instr.wf (.abort 0 (2 ^ 64)) = false := by
  decide

/-- Operands of namespace, firmware, format and vendor commands beyond their fields. -/
theorem test_wf_management :
    Instr.wf (.namespaceManagement 0 none (2 ^ 32)) = false ∧
    Instr.wf (.namespaceManagement 0 (some { aCreate with csi := 256 }) 0) = false ∧
    Instr.wf (.namespaceManagement 0 (some { aCreate with nsze := 2 ^ 64 }) 0) = false ∧
    Instr.wf (.namespaceManagement 0 (some { aCreate with ncap := 2 ^ 64 }) 0) = false ∧
    Instr.wf (.namespaceManagement 0 (some { aCreate with flbas := 256 }) 0) = false ∧
    Instr.wf (.namespaceManagement 0 (some { aCreate with dps := 256 }) 0) = false ∧
    Instr.wf (.namespaceManagement 0 (some { aCreate with nmic := 256 }) 0) = false ∧
    Instr.wf (.namespaceManagement 0 (some { aCreate with conv := 2 ^ 32 }) 0) = false ∧
    Instr.wf (.namespaceManagement 0 (some { aCreate with w := 256 }) 0) = false ∧
    Instr.wf (.namespaceManagement 0 (some { aCreate with c := 256 }) 0) = false ∧
    Instr.wf (.namespaceAttachment 0 (2 ^ 32) true 1) = false ∧
    Instr.wf (.firmwareImageDownload 0 (2 ^ 34) 0) = false ∧
    Instr.wf (.firmwareImageDownload 0 0 (2 ^ 34 + 1)) = false ∧
    Instr.wf (.fwCommitStore 0 8 goodImage) = false ∧
    Instr.wf (.fwCommitStore 0 0 { goodImage with version := 2 ^ 32 }) = false ∧
    Instr.wf (.fwCommitActivateAtReset 0 8 goodImage) = false ∧
    Instr.wf (.fwCommitActivateAtReset 0 0 { goodImage with version := 2 ^ 32 }) = false ∧
    Instr.wf (.fwCommitSlotAtReset 0 8) = false ∧
    Instr.wf (.fwCommitActivateNow 0 8 goodImage) = false ∧
    Instr.wf (.fwCommitActivateNow 0 0 { goodImage with version := 2 ^ 32 }) = false ∧
    Instr.wf (.formatNvm 0 (2 ^ 32) 0 0 0) = false ∧
    Instr.wf (.formatNvm 0 0 32 0 0) = false ∧
    Instr.wf (.formatNvm 0 0 0 16 0) = false ∧
    Instr.wf (.formatNvm 0 0 0 0 8) = false ∧
    Instr.wf (.declareDead 0 256 false 0) = false ∧
    Instr.wf (.declareDead 0 0 false 65536) = false ∧
    Instr.wf (.requalify 0 256 0) = false ∧
    Instr.wf (.requalify 0 0 65536) = false ∧
    Instr.wf (.readmitAsSpare 0 256 0) = false ∧
    Instr.wf (.readmitAsSpare 0 0 65536) = false ∧
    Instr.wf (.setScrubPeriod 0 256 0 0) = false ∧
    Instr.wf (.setScrubPeriod 0 0 65536 0) = false ∧
    Instr.wf (.setScrubPeriod 0 0 0 65536) = false ∧
    Instr.wf (.surfaceQuery 0 32) = false ∧
    Instr.wf (.reshapeStart 0 (2 ^ 32) 0 0 0 0) = false ∧
    Instr.wf (.reshapeStart 0 0 (2 ^ 32) 0 0 0) = false ∧
    Instr.wf (.reshapeStart 0 0 0 (2 ^ 32) 0 0) = false ∧
    Instr.wf (.reshapeStart 0 0 0 0 256 0) = false ∧
    Instr.wf (.reshapeStart 0 0 0 0 0 256) = false ∧
    Instr.wf (.calibrationRequest 0 32 0 false 0) = false ∧
    Instr.wf (.calibrationRequest 0 0 64 false 0) = false := by
  decide

/-- Namespaces, blocks and counts of I/O commands beyond their fields. -/
theorem test_wf_io :
    Instr.wf (.flush 0 (2 ^ 32)) = false ∧
    Instr.wf (.zoneManagementReceive 0 (2 ^ 32) 0) = false ∧
    Instr.wf (.zoneManagementReceive 0 0 (2 ^ 64)) = false ∧
    Instr.wf (.commandFetch 0 { aRaw with words := [] }) = false ∧
    Instr.wf (.commandFetch 0 { aRaw with ns := 2 ^ 32 }) = false ∧
    Instr.wf (.write 0 { anIo with ns := 2 ^ 32 }) = false ∧
    Instr.wf (.write 0 { anIo with slba := 2 ^ 64 }) = false ∧
    Instr.wf (.write 0 { anIo with nlb := 65537 }) = false ∧
    Instr.wf (.read 0 { anIo with ns := 2 ^ 32 }) = false ∧
    Instr.wf (.read 0 { anIo with slba := 2 ^ 64 }) = false ∧
    Instr.wf (.read 0 { anIo with nlb := 65537 }) = false ∧
    Instr.wf (.compare 0 { anIo with ns := 2 ^ 32 }) = false ∧
    Instr.wf (.compare 0 { anIo with slba := 2 ^ 64 }) = false ∧
    Instr.wf (.compare 0 { anIo with nlb := 65537 }) = false ∧
    Instr.wf (.writeZeroes 0 { anIo with ns := 2 ^ 32 }) = false ∧
    Instr.wf (.writeZeroes 0 { anIo with slba := 2 ^ 64 }) = false ∧
    Instr.wf (.writeZeroes 0 { anIo with nlb := 65537 }) = false ∧
    Instr.wf (.verify 0 { anIo with ns := 2 ^ 32 }) = false ∧
    Instr.wf (.verify 0 { anIo with slba := 2 ^ 64 }) = false ∧
    Instr.wf (.verify 0 { anIo with nlb := 65537 }) = false ∧
    Instr.wf (.zoneAppend 0 { anIo with ns := 2 ^ 32 }) = false ∧
    Instr.wf (.zoneAppend 0 { anIo with slba := 2 ^ 64 }) = false ∧
    Instr.wf (.zoneAppend 0 { anIo with nlb := 65537 }) = false ∧
    Instr.wf (.zoneOpen 0 { anIo with ns := 2 ^ 32 }) = false ∧
    Instr.wf (.zoneOpen 0 { anIo with slba := 2 ^ 64 }) = false ∧
    Instr.wf (.zoneOpen 0 { anIo with nlb := 65537 }) = false ∧
    Instr.wf (.zoneClose 0 { anIo with ns := 2 ^ 32 }) = false ∧
    Instr.wf (.zoneClose 0 { anIo with slba := 2 ^ 64 }) = false ∧
    Instr.wf (.zoneClose 0 { anIo with nlb := 65537 }) = false ∧
    Instr.wf (.zoneFinish 0 { anIo with ns := 2 ^ 32 }) = false ∧
    Instr.wf (.zoneFinish 0 { anIo with slba := 2 ^ 64 }) = false ∧
    Instr.wf (.zoneFinish 0 { anIo with nlb := 65537 }) = false ∧
    Instr.wf (.zoneReset 0 { anIo with ns := 2 ^ 32 }) = false ∧
    Instr.wf (.zoneReset 0 { anIo with slba := 2 ^ 64 }) = false ∧
    Instr.wf (.zoneReset 0 { anIo with nlb := 65537 }) = false ∧
    Instr.wf (.fixityDigest 0 { anIo with ns := 2 ^ 32 }) = false ∧
    Instr.wf (.fixityDigest 0 { anIo with slba := 2 ^ 64 }) = false ∧
    Instr.wf (.fixityDigest 0 { anIo with nlb := 65537 }) = false ∧
    Instr.wf (.salvageRead 0 { anIo with ns := 2 ^ 32 }) = false ∧
    Instr.wf (.salvageRead 0 { anIo with slba := 2 ^ 64 }) = false ∧
    Instr.wf (.salvageRead 0 { anIo with nlb := 65537 }) = false := by
  decide

/-- Identifiers and lengths of management endpoint requests beyond their fields. -/
theorem test_wf_endpoint :
    Instr.wf (.miReadDataStructure 256) = false ∧
    Instr.wf (.miControllerHealthPoll 65536) = false ∧
    Instr.wf (.miConfigurationSet 256 0) = false ∧
    Instr.wf (.miConfigurationSet 0 (2 ^ 32)) = false ∧
    Instr.wf (.miConfigurationGet 256) = false ∧
    Instr.wf (.miVpdRead 65536 0) = false ∧
    Instr.wf (.miVpdRead 0 65536) = false ∧
    Instr.wf (.miVpdWrite 65536 []) = false := by
  decide

/-- Lists longer than a transfer can carry: capture frame bodies, VPD writes, and the blocks of a write. -/
theorem test_wf_long_lists (x : List Word) (y : List Byte) (z : List HostBlock) (hx : 16384 ≤ x.length) (hy : 65536 ≤ y.length)
    (hz : 65536 < z.length) :
    Instr.wf (.capFrameIn { h0 := 0, h1 := 0, h2 := 0, h3 := 0, body := x, cut := false }) = false ∧
    Instr.wf (.miVpdWrite 0 y) = false ∧ Instr.wf (.write 0 { anIo with data := z }) = false ∧
    Instr.wf (.zoneAppend 0 { anIo with data := z }) = false ∧ Instr.wf (.fixityDigest 0 { anIo with data := z }) = false := by
  refine ⟨?_, ?_, ?_, ?_, ?_⟩ <;> simp only [Instr.wf, decide_eq_false_iff_not] <;> omega

/-- Well-formed commands pass. -/
theorem test_wf_accepts :
    Instr.wf (.registerWrite .mi 0xFFFFFFFC 0 []) = true ∧ Instr.wf (.read 0 anIo) = true ∧ Instr.wf (.commandFetch 0 aRaw) = true ∧
    Instr.wf (.namespaceManagement 0 (some aCreate) 0) = true ∧ Instr.wf .lockedRotor = true := by
  decide

/-! ### The manual's worked examples -/

/-- The outermost recording zone of the reference drive (after R158, R160, R170): S, D, slots, data sectors, tracks. -/
theorem test_outermost_zone :
    servoSpan 4 38892 9260 = 5578 ∧ dataRegion 38892 5578 = 33298 ∧ trackSlots false 0 600 33298 = 557 ∧ trackData 557 = 537 ∧
    trackSlots true 0 600 33298 = 554 ∧ trackData 554 = 534 ∧ trackSlots true 1 600 33298 = 541 ∧ trackData 541 = 521 ∧
    extentTracks 2976 64 537 = 6 ∧ extentTracks 2976 64 521 = 6 ∧ bandTracks 6 1 = 13 ∧ spareExtents 2 27000 = 2455 := by
  decide +kernel

/-- Predicting a sync mark on H8 (after R103): 1,550,904 periods and 625/1,024. -/
theorem test_sync_mark_on_h8 :
    phaseOfBit (fun w => if w = 17 then 37 else if w = 18 then 45 else 0) 600 38892 9260 1389000 680000 0 = 1550904 * 1024 + 625 := by
  decide +kernel

/-- ndata and degraded extra tracks of zones 2 and 8 of the reference drive (R505). -/
theorem test_zones_2_and_8 :
    trackData (trackSlots false 0 600 (dataRegion 37040 (servoSpan 4 37040 9260))) = 510 ∧
    degradedExtra 0 600 (dataRegion 37040 (servoSpan 4 37040 9260)) 2976 64 = 1 ∧
    trackData (trackSlots false 2 600 (dataRegion 25928 (servoSpan 4 25928 9260))) = 342 ∧
    degradedExtra 2 600 (dataRegion 25928 (servoSpan 4 25928 9260)) 2976 64 = 1 := by
  decide +kernel

/-- The reference drive's iter byte 0x44 (R199): 3 passes of 4 iterations. -/
theorem test_iteration_budget : iterPasses 0x44 = 3 ∧ iterEach 0x44 = 4 ∧ iterOk 0x44 = true ∧ iterOk 0x40 = false := by
  decide

/-- The columns of the four rates (R153), and the length of a sector of each format at rate 0.92. -/
theorem test_code_lengths :
    (List.finRange 4).map ldpcColumns = [280, 287, 293, 300] ∧ sectorBits false 0 = 35864 ∧ sectorBits true 0 = 35976 := by
  decide +kernel

/-- Loss of cluster Z (after R30): 20 resident cores and 4 hook cores remain, no spare. -/
theorem test_loss_of_cluster_z :
    let r := rolesAfterCluster State.reset.flt.role 2
    hookCount r = 4 ∧ (r.toList.filter fun x => decide (x = .resident)).length = 20 ∧ (r.toList.filter fun x => decide (x = .spare)).length = 0 := by
  decide +kernel

/-- The loss of cluster X or Y ends in the same numbers. -/
theorem test_loss_of_cluster_x_or_y :
    hookCount (rolesAfterCluster State.reset.flt.role 0) = 4 ∧ hookCount (rolesAfterCluster State.reset.flt.role 1) = 4 ∧
    workingCores (rolesAfterCluster State.reset.flt.role 0) = 24 := by
  decide +kernel

/-- Encoding of coefficients (after R126): a state of 80,000 signal LSB reads as 0x2710 over 0. -/
theorem test_section_state_words :
    let v := { State.reset.srv[0] with s1 := State.reset.srv[0].s1.set 0 (80000 * 2 ^ 29) }
    srvStateWord v 0 0 = 0 ∧ srvStateWord v 0 1 = 0x2710 := by
  decide +kernel

/-- Swap while saturated (after R131): s1 = 70,000 and s2 = 55,000, and the output is the new clamp, 90,000. -/
theorem test_swap_while_saturated :
    let coefs := regSet srvRows (regSet srvRows (regSet srvRows (regSet srvRows (regSet srvRows State.reset.srv[0].cur 0x1060 0x10000000)
      0x1068 0x08000000) 0x1070 0xF0000000) 0x1074 90000) 0x1078 0xFFFE0000
    let v := { State.reset.srv[0] with cur := coefs, bump := State.reset.srv[0].bump.set 3 .high }
    (runSection v 3 40000).1 = 90000 := by
  decide +kernel

/-- Translation on the reference drive (after R248): block 14,432 of a 22+2 zone. -/
theorem test_translation_of_block :
    rowOf 24 14432 = 41 ∧ unitIn 24 14432 = 0 ∧ blockIn 14432 = 0 ∧ posP 24 41 = 6 ∧ posQ 24 41 = 7 ∧ posD 24 41 0 = 8 := by
  decide

/-- Capacity of a 22+2 zone (R249), which the reshape example gives as 65,472 blocks. -/
theorem test_zone_capacity : zoneCapacity 24 = 65472 := by
  decide

/-- One byte column of a 6+2 row (after R251): the products, P and Q. -/
theorem test_parity_bytes :
    gfMul (gfPow 1) 0x7C = 0xF8 ∧ gfMul (gfPow 2) 0x05 = 0x14 ∧ gfMul (gfPow 3) 0xC1 = 0x46 ∧ gfMul (gfPow 4) 0x90 = 0xF5 ∧
    gfMul (gfPow 5) 0x2E = 0xA9 ∧ parP [0x3A, 0x7C, 0x05, 0xC1, 0x90, 0x2E] = 0x3C ∧ parQ [0x3A, 0x7C, 0x05, 0xC1, 0x90, 0x2E] = 0xCC := by
  decide +kernel

/-- The same column with units 1 and 4 missing. -/
theorem test_parity_rebuild :
    rebuildColumn 6 [0x3A, 0, 0x05, 0xC1, 0, 0x2E, 0x3C, 0xCC] (some 1) (some 4) =
      some [0x3A, 0x7C, 0x05, 0xC1, 0x90, 0x2E, 0x3C, 0xCC] := by
  decide +kernel

/-- A lane takeover (after R10): with bind2 at 0b101 and bind4 at 2, lane 4 serves actuator 2 and lane 2 none. -/
theorem test_lane_takeover :
    let f := { State.reset.flt with laneMap := 0x2748 }
    laneAct f 4 = some 2 ∧ laneAct f 2 = none := by
  decide +kernel

/-! ### Commands -/

/-- At reset each lane and each servo engine serves its own actuator, and the spare none (R31). -/
theorem test_reset_bindings : laneAct State.reset.flt 3 = some 3 ∧ laneAct State.reset.flt 4 = none ∧ engineOf State.reset.flt 2 = some 2 := by
  decide +kernel

/-- The step takes the front command and idles without one. -/
theorem test_step_takes_the_front :
    step { State.reset with pending := [.coreMapWrite 0 0x00900000] } = exec (.coreMapWrite 0 0x00900000) State.reset := by
  rfl

/-- No row of the table has bits. -/
theorem test_no_row_has_bits : decodeTableWord 32 0x12345678 = none ∧ State.reset.withFetchWord 32 5 = State.reset := by
  exact ⟨rfl, rfl⟩

/-! ### Every statement's hypotheses can be met, clause by clause -/

theorem test_met_RegisterAccessCompletes :
    (∃ (s : State) (q : Requester) (a : Nat) (w : Word) (arriving : List SrcIx), (Live s) ∧ (accessFault s { who := q, addr := a, bytes := 4, write := some w } = none) ∧ ((∀ b off, regionAt a ≠ .reg b off))) ∧
    (∃ (s : State) (q : Requester) (a : Nat) (w : Word) (arriving : List SrcIx) (b : Blk) (off : Nat), (Live s) ∧ (accessFault s { who := q, addr := a, bytes := 4, write := some w } = none) ∧ (regionAt a = .reg b off)) ∧
    (∃ (s : State) (x : Access), (Live s) ∧ (accessFault s x = some .misaligned)) ∧
    (∃ (s : State) (x : Access), (Live s) ∧ (accessFault s x = some .unmapped)) ∧
    (∃ (s : State) (x : Access), (Live s) ∧ (accessFault s x = some .gated)) ∧
    (∃ (s : State) (x : Access), (Live s) ∧ (accessFault s x = some .hook)) ∧
    (∃ (s : State) (q : Requester) (a : Nat), (Live s) ∧ (accessFault s { who := q, addr := a, bytes := 4, write := none } = none) ∧ ((∀ b off, regionAt a ≠ .reg b off))) ∧
    (∃ (s : State) (q : Requester) (a off lo : Nat), (Live s) ∧ (accessFault s { who := q, addr := a, bytes := 4, write := none } = none) ∧ (regionAt a = .reg .dma off) ∧ (pairOf .dma off = some lo)) ∧
    (∃ (s : State) (q : Requester) (a : Nat) (w : Word) (b : Blk) (off lo : Nat), (Live s) ∧ (accessFault s { who := q, addr := a, bytes := 4, write := some w } = none) ∧ (regionAt a = .reg b off) ∧ (pairOf b off = some lo) ∧ (off ≠ lo) ∧ (isHook s q = false)) ∧
    (∃ (s : State) (q : Requester) (a : Nat) (w : Word) (b : Blk) (off : Nat), (Live s) ∧ (accessFault s { who := q, addr := a, bytes := 4, write := some w } = none) ∧ (regionAt a = .reg b off) ∧ (pairOf b off = some off)) :=
  ⟨⟨live, .engine 0, 0x10000000, 5, [], by decide, by decide, by intro b off e; exact absurd (e.symm.trans (by decide : regionAt 0x10000000 = .sab)) (by intro h; cases h)⟩,
   ⟨live, .engine 0, 0x20000000, 5, [], .flt, 0, by decide⟩,
   ⟨live, { who := .engine 0, addr := 0x20000001, bytes := 4, write := none }, by decide⟩,
   ⟨live, { who := .engine 0, addr := 0x30000000, bytes := 4, write := none }, by decide⟩,
   ⟨onPwrOff live, { who := .engine 0, addr := 0x20100000, bytes := 4, write := none }, by decide⟩,
   ⟨live, { who := .core 10, addr := 0x20300000, bytes := 4, write := some 0 }, by decide⟩,
   ⟨live, .engine 0, 0x10000000, by decide, by decide, by intro b off e; exact absurd (e.symm.trans (by decide : regionAt 0x10000000 = .sab)) (by intro h; cases h)⟩,
   ⟨live, .engine 0, 0x20020000 + 0x1008, 0x1008, 0x1008, by decide⟩,
   ⟨live, .engine 0, 0x20020000 + 0x100C, 7, .dma, 0x100C, 0x1008, by decide⟩,
   ⟨live, .engine 0, 0x20020000 + 0x1008, 7, .dma, 0x1008, by decide⟩⟩

theorem test_met_ResetsAndRailsComplete :
    (∃ (s : State) (straps : BitVec 7), (s.sys.porHold = true) ∧ (s.pwr.railLow = 0) ∧ (s.pwr.railHigh = 0) ∧ (s.sys.rstLow = false)) ∧
    (∃ (s : State), (s.sys.rstLow = false)) ∧
    (∃ (s : State) (straps : BitVec 7), (s.sys.rstLow = true) ∧ (s.sys.porHold = false)) ∧
    (∃ (s : State) (r : Fin 7) (below above : Bool), (Live s) ∧ ((below = true ∨ above = true)) ∧ (s.pwr.railLow.getLsbD r.val = false) ∧ (s.pwr.railHigh.getLsbD r.val = false)) ∧
    (∃ (s : State), (Live s) ∧ (s.sys.plActive = false) ∧ (s.sys.phase = .ready) ∧ (s.spn.hold = false)) ∧
    (∃ (s : State), (Live s) ∧ (s.sys.plActive = false) ∧ (s.sys.phase = .ready) ∧ (s.spn.hold = false)) ∧
    (∃ (s : State) (l : LaneIx), (Live s) ∧ (s.sys.plActive = true) ∧ ((s.sys.shares.any fun x => decide (x.lane = l) && !x.done) = true) ∧ (guardCauses (setLane l { s.lane[l] with regs := regSet laneRows s.lane[l].regs 0 (laneReg s.lane[l] 0 ||| bitAt true 17) } s) l = 0) ∧ (domState s (12 + l.val) = .on)) ∧
    (∃ (s : State), (Live s) ∧ (s.sys.plActive = true) ∧ ((s.sys.shares.any fun x => !x.done) = false)) ∧
    (∃ (s : State), (Live s) ∧ (s.sys.plActive = true) ∧ (s.srv.toList.all offDisk = true)) :=
  ⟨⟨onSys (fun x => { x with porHold := true }) live, 0, by decide⟩,
   ⟨live, by decide⟩,
   ⟨{ live with sys := { live.sys with rstLow := true, porHold := false } }, 0, by decide⟩,
   ⟨live, 0, true, false, by decide⟩,
   ⟨{ live with sys := { live.sys with phase := .ready } }, by decide⟩,
   ⟨{ live with sys := { live.sys with phase := .ready } }, by decide⟩,
   ⟨{ clustersOn with srv := (onSrv (fun v => { v with state := .follow, settled := true, inh := 0 }) live).srv, spn := { live.spn with hold := false, wrOk := true }, sys := { clustersOn.sys with plActive := true, shares := [{ lane := 0, head := 0, blocks := [], done := false }] } }, 0, by decide⟩,
   ⟨{ live with sys := { live.sys with plActive := true } }, by decide⟩,
   ⟨{ live with sys := { live.sys with plActive := true } }, by decide⟩⟩

theorem test_met_PinEventsComplete :
    (∃ (s : State), (Live s) ∧ (s.sys.phase = .ready) ∧ (s.spn.startPend = false) ∧ (s.spn.state ≠ .fault)) ∧
    (∃ (s : State), (Live s) ∧ (s.sys.phase = .safe) ∧ (s.spn.startPend = false)) ∧
    (∃ (s : State), (Live s)) ∧
    (∃ (s : State), (Live s) ∧ (s.sys.permitDelayOn = true)) ∧
    (∃ (s : State), (Live s)) :=
  ⟨⟨onSys (fun x => { x with phase := .ready }) live, by decide⟩,
   ⟨onSys (fun x => { x with phase := .safe }) live, by decide⟩,
   ⟨live, by decide⟩,
   ⟨onSys (fun x => { x with permitDelayOn := true }) live, by decide⟩,
   ⟨live, by decide⟩⟩

theorem test_met_LinkAndClockEventsComplete :
    (∃ (s : State) (c : CtlIx), (Live s) ∧ (portUsed s c = true) ∧ (s.hif.ctl[c].perst = false) ∧ (s.sys.plActive = false) ∧ (s.sys.phase ≠ .dark)) ∧
    (∃ (s : State) (c : CtlIx), (Live s) ∧ (portUsed s c = true)) ∧
    (∃ (s : State) (c : CtlIx), (Live s) ∧ (portUsed s c = true) ∧ (s.hif.ctl[c].linkUp = true) ∧ (s.sys.plActive = false) ∧ (s.sys.phase ≠ .dark)) ∧
    (∃ (s : State) (c : CtlIx), (Live s) ∧ (portUsed s c = true) ∧ (s.hif.ctl[c].linkUp = true) ∧ (s.sys.plActive = false) ∧ (s.sys.phase ≠ .dark)) ∧
    (∃ (s : State) (c : CtlIx), (Live s) ∧ (portUsed s c = true) ∧ (s.hif.ctl[c].linkUp = true) ∧ (s.sys.plActive = false) ∧ (s.sys.phase ≠ .dark)) ∧
    (∃ (s : State) (c : CtlIx), (Live s) ∧ (portUsed s c = true) ∧ (s.hif.ctl[c].l12 = true) ∧ (s.sys.plActive = false) ∧ (s.sys.phase ≠ .dark)) ∧
    (∃ (s : State), (s.sys.inReset = false) ∧ (s.sys.phase ≠ .post)) ∧
    (∃ (s : State) (ppm : BitVec 16), (Live s) ∧ (s.clk.onBackup = true) ∧ (s.clk.restored = false)) ∧
    (∃ (s : State) (w : Word), (Live s) ∧ (bitOf w 0 = true)) ∧
    (∃ (s : State) (w : Word), (Live s) ∧ (bitOf w 0 = false) ∧ (s.clk.onBackup = true) ∧ (s.clk.restored = true)) ∧
    (∃ (s : State) (c : Fin 3) (w : Word), (Live s) ∧ (400 ≤ fld w 10 0) ∧ (fld w 10 0 ≤ 1600) ∧ (fld w 10 0 % 100 = 0)) :=
  ⟨⟨onSys (fun x => { x with phase := .ready }) live, 0, by decide⟩,
   ⟨live, 0, by decide⟩,
   ⟨linked live, 0, by decide⟩,
   ⟨linked live, 0, by decide⟩,
   ⟨linked live, 0, by decide⟩,
   ⟨setCtl 0 { live.hif.ctl[0] with l12 := true } live, 0, by decide⟩,
   ⟨onSys (fun x => { x with phase := .ready }) live, by decide⟩,
   ⟨{ live with clk := { live.clk with onBackup := true } }, 3, by decide⟩,
   ⟨live, 1, by decide⟩,
   ⟨{ live with clk := { live.clk with onBackup := true, restored := true } }, 0, by decide⟩,
   ⟨live, 1, 500, by decide⟩⟩

theorem test_met_PowerStatesComplete :
    (∃ (s : State) (f : PostFindings), (Live s) ∧ (s.sys.phase = .post) ∧ (f.romCrcOk = false)) ∧
    (∃ (s : State) (f : PostFindings), (Live s) ∧ (s.sys.phase = .post) ∧ (f.romCrcOk = true) ∧ (f.bootCorePasses = true) ∧ (safeStep s f (postRoles (postCores s f)) ≠ 0)) ∧
    (∃ (s : State) (f : PostFindings), (Live s) ∧ (s.sys.phase = .post) ∧ (f.romCrcOk = true) ∧ (f.bootCorePasses = true) ∧ (safeStep s f (postRoles (postCores s f)) = 0) ∧ (bitOf s.sys.strap 6 = true)) ∧
    (∃ (s : State) (f : PostFindings), (Live s) ∧ (s.sys.phase = .post) ∧ (f.romCrcOk = true) ∧ (f.bootCorePasses = true) ∧ (safeStep s f (postRoles (postCores s f)) = 0) ∧ (bitOf s.sys.strap 6 = false)) ∧
    (∃ (s : State), (Live s) ∧ (s.sys.phase = .safe) ∧ (s.sys.safeCommit = true)) ∧
    (∃ (s : State), (Live s) ∧ (spindleIdle s.spn = true) ∧ (s.sys.phase = .spinup)) ∧
    (∃ (s : State) (sram : List (Nat × List (BitVec 8))), (Live s) ∧ (s.sys.phase = .spinup) ∧ (s.spn.doneSent = true) ∧ (allParked s = true)) ∧
    (∃ (s : State) (sets : List SurfaceFind) (guard : Option (Nat × Nat × Nat)) (sram : List (Nat × List (BitVec 8))), (Live s) ∧ (s.sys.phase = .caston) ∧ (s.sys.journalDone = false)) ∧
    (∃ (s : State), (Live s) ∧ (s.sys.phase = .waking) ∧ (headsReady s = true) ∧ (s.stc.restored = true)) ∧
    (∃ (s : State) (b : BindTrigger), (Live s) ∧ (s.sys.phase = .bindoff b 1) ∧ ((s.hif.flight.all fun f => decide (f.ctl = 3)) = true) ∧ (s.hif.flushes = []) ∧ ((s.hif.fetched.all fun f => f.cmd.admin) = true)) ∧
    (∃ (s : State) (c : CtlIx), (Live s) ∧ (portUsed s c = true) ∧ (s.sys.plActive = false) ∧ (s.hif.ctl[c].en = true) ∧ (s.hif.ctl[c].shst = 0) ∧ (s.hif.ctl[c].role ≠ .standby) ∧ (s.sys.phase = .ready)) ∧
    (∃ (s : State), (Live s) ∧ (s.sys.phase = .parked .ps4) ∧ (s.sys.spinRequested = true) ∧ (s.spn.startPend = false) ∧ (spindleIdle s.spn = true) ∧ (s.pwr.psTarget ≠ some 3)) ∧
    (∃ (s : State), (Live s) ∧ (s.sys.phase = .parked .ps3) ∧ (s.sys.spinRequested = true) ∧ (allParked s = true)) :=
  ⟨⟨live, { findings with romCrcOk := false }, by decide⟩,
   ⟨live, { findings with padsOk := false }, by decide⟩,
   ⟨onSys (fun x => { x with strap := 0x40 }) live, findings, by decide⟩,
   ⟨live, findings, by decide⟩,
   ⟨onSys (fun x => { x with phase := .safe, safeCommit := true }) live, by decide⟩,
   ⟨onSys (fun x => { x with phase := .spinup }) live, by decide⟩,
   ⟨parkedAll { onSys (fun x => { x with phase := .spinup }) live with spn := { State.reset.spn with doneSent := true } }, [], by decide⟩,
   ⟨onSys (fun x => { x with phase := .caston }) live, [], none, [], by decide⟩,
   ⟨wakingState, by decide⟩,
   ⟨onSys (fun x => { x with phase := .bindoff .normal 1 }) live, .normal, by decide⟩,
   ⟨enabled (onSys (fun x => { x with phase := .ready }) live), 0, by decide⟩,
   ⟨onSys (fun x => { x with phase := .parked .ps4, spinRequested := true }) live, by decide⟩,
   ⟨parkedAll (onSys (fun x => { x with phase := .parked .ps3, spinRequested := true }) live), by decide⟩⟩

theorem test_met_SpindleComplete :
    (∃ (s : State) (x : SpnSample), (Live s) ∧ (s.sys.plActive = false) ∧ (x.mismatch = false)) ∧
    (∃ (s : State) (w : Word), (Live s) ∧ (bitOf w 1 = false) ∧ ((bitOf (w ||| 1#32) 0 = true ∧ bitOf (w ||| 1#32) 1 = false))) ∧
    (∃ (s : State) (w : Word), (Live s) ∧ ((bitOf (w ||| 2#32) 0 = false ∧ bitOf (w ||| 2#32) 1 = true))) ∧
    (∃ (s : State) (w : Word), (Live s) ∧ ((bitOf (w ||| 0x100#32) 0 = false ∧ bitOf (w ||| 0x100#32) 1 = false))) ∧
    (∃ (s : State) (x : Crossing) (j : Fin 6), (Live s) ∧ (s.spn.state = .sensing) ∧ (s.spn.pause = false) ∧ (s.spn.coastWait = false) ∧ (s.spn.reseeding = false) ∧ (s.spn.lastCross = some j) ∧ (x.at6 = j + 1) ∧ (s.spn.senseCross = 1)) ∧
    (∃ (s : State), (Live s) ∧ (s.spn.state = .sensing) ∧ (s.spn.pause = false) ∧ (s.spn.coastWait = false) ∧ (s.spn.reseeding = false) ∧ (s.spn.pairFailed = false)) ∧
    (∃ (s : State) (angle : Fin 12), (Live s) ∧ (s.spn.state = .aligning)) ∧
    (∃ (s : State) (speedQ : Nat), (Live s) ∧ (s.spn.state = .spindown)) ∧
    (∃ (s : State), (Live s) ∧ (s.spn.state = .braking)) ∧
    (∃ (s : State), (Live s) ∧ (s.spn.state = .aligning)) ∧
    (∃ (s : State), (Live s) ∧ (s.spn.state = .sensing) ∧ (s.spn.pause = true)) ∧
    (∃ (s : State), (Live s) ∧ (s.spn.state = .resync)) ∧
    (∃ (s : State), (Live s) ∧ (s.spn.state = .restart)) ∧
    (∃ (s : State), (Live s) ∧ (s.spn.hold = true) ∧ (s.spn.state = .resync) ∧ (s.spn.refugeAsked = false) ∧ (s.sys.plActive = false) ∧ (s.sys.refugeUnconsumed = false)) ∧
    (∃ (s : State), (Live s) ∧ (s.spn.reseeding = true) ∧ (s.spn.pairFailed = false) ∧ (s.spn.state ≠ .limp) ∧ (s.spn.stopHeld = false)) :=
  ⟨⟨live, quietSample, by decide⟩,
   ⟨live, 0, by decide⟩,
   ⟨live, 0, by decide⟩,
   ⟨live, 0, by decide⟩,
   ⟨{ live with spn := { State.reset.spn with state := .sensing, lastCross := some 0, senseCross := 1 } }, { at6 := 1, us := 1000 }, 0, by decide⟩,
   ⟨{ live with spn := { State.reset.spn with state := .sensing } }, by decide⟩,
   ⟨{ live with spn := { State.reset.spn with state := .aligning } }, 5, by decide⟩,
   ⟨{ live with spn := { State.reset.spn with state := .spindown } }, 0, by decide⟩,
   ⟨{ live with spn := { State.reset.spn with state := .braking } }, by decide⟩,
   ⟨{ live with spn := { State.reset.spn with state := .aligning } }, by decide⟩,
   ⟨{ live with spn := { State.reset.spn with state := .sensing, pause := true } }, by decide⟩,
   ⟨{ live with spn := { State.reset.spn with state := .resync } }, by decide⟩,
   ⟨{ live with spn := { State.reset.spn with state := .restart } }, by decide⟩,
   ⟨{ live with spn := { State.reset.spn with state := .resync, hold := true } }, by decide⟩,
   ⟨{ live with spn := { State.reset.spn with reseeding := true } }, by decide⟩⟩

theorem test_met_YarnClockComplete :
    (∃ (s : State) (w : Word) (r : Regs), (Live s) ∧ (r = regWrite yckRows s.yck.regs false 0 (w ||| 1#32)) ∧ (fld (w ||| 1#32) 2 1 = 0) ∧ (bitOf (yckReg s.yck 0) 8 = false) ∧ (bitOf (yckReg s.yck 0) 0 = false) ∧ (bitOf (w ||| 1#32) 0 = true) ∧ (yckConfigOk { s.yck with regs := r, cur := regSet yckRows s.yck.cur 0 (regGet yckRows r 0), pendForce := none } = true)) ∧
    (∃ (s : State) (w : Word) (r : Regs), (Live s) ∧ (r = regWrite yckRows s.yck.regs false 0 (setFld w 5 4 (fld (yckReg s.yck 0) 5 4))) ∧ (fld w 2 1 = 1) ∧ (s.yck.head[0].qual = true) ∧ (some (0 : Fin 2) ≠ s.yck.active) ∧ (bitOf (yckReg s.yck 0) 8 = true) ∧ (bitOf (yckReg s.yck 0) 0 = bitOf (setFld w 5 4 (fld (yckReg s.yck 0) 5 4)) 0)) ∧
    (∃ (s : State) (w : Word) (r : Regs), (Live s) ∧ (r = regWrite yckRows s.yck.regs false 0 (w ||| 0x100#32)) ∧ (fld (w ||| 0x100#32) 2 1 = 0) ∧ (bitOf (yckReg s.yck 0) 8 = false) ∧ (bitOf (yckReg s.yck 0) 0 = bitOf (w ||| 0x100#32) 0)) ∧
    (∃ (s : State) (h : Fin 2) (mv periods : Nat), (Live s) ∧ (s.yck.running = true) ∧ (s.yck.head[h].locked = true) ∧ (mv < fld (yckCur s.yck 0x18) 7 0) ∧ (fld (yckCur s.yck 0x18) 15 8 ≤ periods)) ∧
    (∃ (s : State) (h : Fin 2) (mv periods : Nat), (Live s) ∧ (fld (yckCur s.yck 0x18) 7 0 ≤ mv ∨ periods < fld (yckCur s.yck 0x18) 15 8)) ∧
    (∃ (s : State) (h : Fin 2) (revs : Nat), (Live s) ∧ (fld (yckCur s.yck 0x1C) 7 0 ≤ revs) ∧ (s.yck.running = true) ∧ (yarnFit s.yck h = true) ∧ (s.yck.head[h].locked = true) ∧ (s.yck.head[h].qual = false) ∧ (s.yck.active = none) ∧ (s.yck.preamble = false)) ∧
    (∃ (s : State) (yofs : Nat) (h : Fin 2), (Live s) ∧ (s.yck.pendSwitch = some h)) ∧
    (∃ (s : State) (yofs : Nat) (h a : Fin 2), (Live s) ∧ (s.yck.pendForce = some h) ∧ (s.yck.head[h].qual = true) ∧ (s.yck.active = some a) ∧ (a ≠ h) ∧ (s.yck.pendSwitch = none)) ∧
    (∃ (s : State), (Live s) ∧ (s.yck.pendSwitch = none)) ∧
    (∃ (s : State), (Live s)) ∧
    (∃ (s : State) (h : Fin 2), (Live s) ∧ (s.yck.pendReturn = some h)) ∧
    (∃ (s : State) (l : LaneIx) (a : Nat), (Live s) ∧ (a = (yckReg s.yck (0x44 + 16 * l.val)).toNat) ∧ (gaugeCrcOk s a = true) ∧ (s.lane[l].pat.op = none)) ∧
    (∃ (s : State) (wedge : Nat) (x : GaugeAcc) (d : Int), (Live s) ∧ (s.yck.acc = [x]) ∧ (x.wedge = wedge) ∧ ((x.sum.natAbs : Int) < 4 * (fld (yckReg s.yck 0x34) 23 16 : Int) * ((max 1 x.count : Nat) : Int)) ∧ (d = clampInt (-(fld (yckReg s.yck 0x34) 15 8 : Int)) (fld (yckReg s.yck 0x34) 15 8) (Int.tdiv x.sum (((max 1 x.count : Nat) : Int) * 2 ^ fld (yckReg s.yck 0x34) 7 4)))) ∧
    (∃ (s : State), (Live s)) :=
  ⟨⟨onYck (fun y => { y with regs := yckGood }) live, 0, _, by decide, rfl, by decide +kernel⟩,
   ⟨onYck (fun y => { y with regs := regSet yckRows y.regs 0 0x100, head := Vector.replicate 2 { locked := true, qual := true } }) live, 2, _, by decide, rfl, by decide +kernel⟩,
   ⟨live, 0, _, by decide, rfl, by decide +kernel⟩,
   ⟨onYck (fun y => { y with running := true, cur := regSet yckRows y.cur 0x18 0xFFFF, head := Vector.replicate 2 { locked := true, qual := true } }) live, 0, 0, 255, by decide⟩,
   ⟨live, 0, 255, 0, by decide⟩,
   ⟨onYck (fun y => { y with running := true, regs := regSet yckRows y.regs 0 0x30, head := Vector.replicate 2 { locked := true, qual := false } }) live, 0, 255, by decide⟩,
   ⟨onYck (fun y => { y with pendSwitch := some 1 }) live, 7, 1, by decide⟩,
   ⟨onYck (fun y => { y with pendForce := some 1, active := some 0, head := Vector.replicate 2 { locked := true, qual := true } }) live, 7, 1, 0, by decide⟩,
   ⟨live, by decide⟩,
   ⟨live, by decide⟩,
   ⟨onYck (fun y => { y with pendReturn := some 1 }) live, 1, by decide⟩,
   ⟨gaugeState, 0, _, by decide, rfl, by decide +kernel, rfl⟩,
   ⟨onYck (fun y => { y with regs := regSet yckRows y.regs 0x34 0x10FF20, acc := [{ row := 0, wedge := 0, sum := 8, count := 1 }] }) live, 0, _, _, by decide, rfl, rfl, by decide, rfl⟩,
   ⟨live, by decide⟩⟩

theorem test_met_ServoSamplesAndPortEventsComplete :
    (∃ (s : State) (a : ActIx) (x : WedgeRead) (e : EngIx), (Live s) ∧ (actAbsent s a = false) ∧ (engineOf s.flt a.val = some e) ∧ (s.port[a].driver = some e) ∧ (s.port[a].heldFor = none) ∧ (x.engineBad = false) ∧ (x.eccCorr = false) ∧ (s.srv[e].state ≠ .failed)) ∧
    (∃ (s : State) (a : ActIx) (x : WedgeRead) (f : EngIx), (Live s) ∧ (actAbsent s a = false) ∧ (engineOf s.flt a.val = none) ∧ (s.port[a].driver = none) ∧ (s.port[a].heldFor = some f)) ∧
    (∃ (s : State) (a : ActIx) (e : EngIx), (Live s) ∧ (s.port[a].driver = some e) ∧ (sendsCommands s.srv[e] = true) ∧ (srvPzEn s.srv[e] = true) ∧ (actAbsent s a = false)) ∧
    (∃ (s : State) (e : EngIx), (Live s)) ∧
    (∃ (s : State) (e : EngIx), (Live s) ∧ (s.srv[e].state = .follow)) ∧
    (∃ (s : State) (e : EngIx), (Live s) ∧ (s.srv[e].state = .hold)) ∧
    (∃ (s : State) (e : EngIx) (a : ActIx), (Live s) ∧ (s.srv[e].state = .settle) ∧ (srvBind s.flt e.val = a.val) ∧ (s.srv[e].aiming = none)) ∧
    (∃ (s : State) (e : EngIx) (x : WedgeRead) (p : Int), (Live s) ∧ (s.srv[e].state = .loading) ∧ (p = (measure { modelFresh s.srv[e] with wedge := none, searching := true } x).1)) ∧
    (∃ (s : State) (e : EngIx), (Live s) ∧ (s.srv[e].state = .loading)) ∧
    (∃ (s : State) (e : EngIx), (Live s) ∧ (s.sys.unloadLow = true) ∧ (s.srv[e].state = .unloading)) ∧
    (∃ (s : State) (e : EngIx), (Live s) ∧ (s.srv[e].state = .unloading) ∧ (s.srv[e].parkWait = true)) ∧
    (∃ (s : State), (Live s)) ∧
    (∃ (s : State) (a : ActIx) (frame : BitVec 32) (e : EngIx), (Live s) ∧ (s.port[a].driver = some e) ∧ (s.port[a].drop = 0) ∧ (frame.toNat % 256 = crc8 24 (frame.toNat / 256) 0) ∧ (frame.toNat / 256 % 16 = s.port[a].frame.toNat / 256 % 16) ∧ (frame.toNat / 256 / 2 ^ 22 ≠ 3)) ∧
    (∃ (s : State) (e : EngIx), (Live s)) ∧
    (∃ (s : State) (a : ActIx) (e : EngIx), (Live s) ∧ (s.port[a].heldFor = some e)) ∧
    (∃ (s : State) (e : EngIx) (w : Word), (Live s) ∧ (bitOf (w ||| 0x10000#32) 16 = true) ∧ ((∀ a : ActIx, s.port[a].heldFor ≠ some e))) ∧
    (∃ (s : State) (e : EngIx) (w : Word) (a : ActIx), (Live s) ∧ (bitOf (w ||| 0x10000#32) 16 = true) ∧ (s.port[a].heldFor = some e) ∧ ((∀ b : ActIx, s.port[b].heldFor = some e → b = a)) ∧ (s.port[a].retract = none) ∧ (srvBind s.flt 4 = 4)) ∧
    (∃ (s : State) (r0 r1 : AccelRead), (Live s)) :=
  ⟨⟨bound live, 0, quietWedge, 0, by decide⟩,
   ⟨onPort0 (fun p => { p with driver := none, heldFor := some 0 }) { live with flt := { live.flt with srvMap := 0x7FFF } }, 0, quietWedge, 0, by decide⟩,
   ⟨bound (onSrv (fun v => { v with state := .follow, cur := regSet srvRows v.cur 0 0x80 }) live), 0, 0, by decide⟩,
   ⟨live, 0, by decide⟩,
   ⟨onSrv (fun v => { v with state := .follow }) live, 0, by decide⟩,
   ⟨onSrv (fun v => { v with state := .hold }) live, 0, by decide⟩,
   ⟨bound (onSrv (fun v => { v with state := .settle }) live), 0, 0, by decide⟩,
   ⟨onSrv (fun v => { v with state := .loading }) live, 0, quietWedge, _, by decide, by decide, rfl⟩,
   ⟨onSrv (fun v => { v with state := .loading }) live, 0, by decide⟩,
   ⟨onSrv (fun v => { v with state := .unloading }) (onSys (fun x => { x with unloadLow := true }) live), 0, by decide⟩,
   ⟨onSrv (fun v => { v with state := .unloading, parkWait := true }) live, 0, by decide⟩,
   ⟨live, by decide⟩,
   ⟨bound live, 0, 0, 0, by decide⟩,
   ⟨live, 0, by decide⟩,
   ⟨onPort0 (fun p => { p with heldFor := some 0 }) live, 0, 0, by decide⟩,
   ⟨noDrive, 0, 0, by decide⟩,
   ⟨onPort0 (fun p => { p with heldFor := some 0, retract := none }) live, 0, 0, 0, by decide⟩,
   ⟨live, ⟨0, 0, 0⟩, ⟨0, 0, 0⟩, by decide⟩⟩

theorem test_met_ServoCommandsComplete :
    (∃ (s : State) (e : EngIx) (w : Word) (v : Srv), (Live s) ∧ (bitOf (setFld w 3 0 1) 4 = false) ∧ ((bitOf (setFld w 3 0 1) 8 = false ∨ srvLocked s.srv[e] = true)) ∧ (v = { s.srv[e] with regs := regWrite srvRows s.srv[e].regs false 0 (setFld w 3 0 1) }) ∧ (s.sys.unloadLow = false) ∧ (v.state = .parked) ∧ (headFitted v (fld (srvSet v 0x0C) 26 24) = true) ∧ (tableCrcOk s (srvSet v 0x5C).toNat 4 = true)) ∧
    (∃ (s : State) (e : EngIx) (w : Word) (v : Srv) (a : Nat), (Live s) ∧ (bitOf (setFld w 3 0 2) 4 = false) ∧ ((bitOf (setFld w 3 0 2) 8 = false ∨ srvLocked s.srv[e] = true)) ∧ (v = { s.srv[e] with regs := regWrite srvRows s.srv[e].regs false 0 (setFld w 3 0 2) }) ∧ (v.state = .follow) ∧ (headFitted v (fld (srvSet v 0x0C) 26 24) = true) ∧ (fld (srvSet v 0x0C) 26 24 = v.head) ∧ (profileFor (setSrv e v s) (srvSet v 0x58) (trackPosSet v (fld (srvSet v 0x0C) 23 0) - v.ref) = some a)) ∧
    (∃ (s : State) (e : EngIx) (w : Word), (Live s) ∧ (bitOf (setFld w 3 0 3) 4 = false) ∧ ((bitOf (setFld w 3 0 3) 8 = false ∨ srvLocked s.srv[e] = true)) ∧ (s.srv[e].state = .idle)) ∧
    (∃ (s : State) (e : EngIx) (w : Word), (Live s) ∧ (bitOf (setFld w 3 0 4) 4 = false) ∧ ((bitOf (setFld w 3 0 4) 8 = false ∨ srvLocked s.srv[e] = true))) ∧
    (∃ (s : State) (e : EngIx) (w : Word) (v : Srv), (Live s) ∧ (bitOf (setFld w 3 0 5) 4 = false) ∧ ((bitOf (setFld w 3 0 5) 8 = false ∨ srvLocked s.srv[e] = true)) ∧ (v = { s.srv[e] with regs := regWrite srvRows s.srv[e].regs false 0 (setFld w 3 0 5) }) ∧ (v.state = .follow) ∧ (tableCrcOk s (srvSet v 0x60).toNat 4 = true)) ∧
    (∃ (s : State) (e : EngIx) (w : Word), (Live s) ∧ (bitOf (setFld (setFld w 3 0 0) 4 4 1) 4 = true) ∧ (fld (setFld (setFld w 3 0 0) 4 4 1) 3 0 = 0) ∧ ((bitOf (setFld (setFld w 3 0 0) 4 4 1) 8 = false ∨ srvLocked s.srv[e] = true)) ∧ (s.srv[e].swapPend = false)) ∧
    (∃ (s : State) (e : EngIx) (w : Word), (Live s) ∧ (bitOf (setFld (setFld w 4 0 0) 8 8 1) 4 = false) ∧ (fld (setFld (setFld w 4 0 0) 8 8 1) 3 0 = 0) ∧ (bitOf (setFld (setFld w 4 0 0) 8 8 1) 8 = true) ∧ (srvLocked s.srv[e] = false)) ∧
    (∃ (s : State) (e : EngIx) (i : Fin 24) (k : Fin 8) (w : Word), (Live s) ∧ (s.srv[e].bankB = false) ∧ (s.srv[e].swapPend = false)) :=
  ⟨⟨{ onSys (fun x => { x with unloadLow := false }) (fitted .parked) with mem := crcMem }, 0, 0, _, by decide, by decide, by decide, rfl, by decide +kernel⟩,
   ⟨{ onSrv (fun v => { v with state := .follow, regs := regSet srvRows (regSet srvRows v.regs 0x20 0x100) 0x58 1 }) live with mem := crcMem }, 0, 0, _, 0, by decide, by decide, by decide, rfl, by decide +kernel⟩,
   ⟨live, 0, 0, by decide⟩,
   ⟨live, 0, 0, by decide⟩,
   ⟨{ onSrv (fun v => { v with state := .follow }) live with mem := crcMem }, 0, 0, _, by decide, by decide, by decide, rfl, by decide +kernel⟩,
   ⟨live, 0, 0, by decide⟩,
   ⟨live, 0, 0, by decide⟩,
   ⟨live, 0, 0, 0, 7, by decide⟩⟩

set_option maxRecDepth 100000 in
theorem test_met_ReadPathCompletes :
    (∃ (s : State) (celsius : Int), (Live s)) ∧
    (∃ (s : State) (l : LaneIx), (Live s) ∧ (s.lane[l].rdrOn ≠ 0)) ∧
    (∃ (s : State) (l : LaneIx) (r : Fin 4), (Live s) ∧ (s.lane[l].pat.op = none)) ∧
    (∃ (s : State) (l : LaneIx) (w : Word), (Live s) ∧ (s.lane[l].paQueue.length < 8)) ∧
    (∃ (s : State) (l : LaneIx) (data : Byte) (f : BitVec 16) (rest : List (BitVec 16)), (Live s) ∧ (s.lane[l].paQueue = f :: rest) ∧ (wgate s l = false)) ∧
    (∃ (s : State) (l : LaneIx) (x : DecodeResult) (e : Ladder) (p : TrackAt) (a : AttemptEnd), (Live s) ∧ (ladderAt s.lane[l] x.slot.val x.output.val = some e) ∧ (e.rung = 1) ∧ (p = placeOf s.lane[l] x.output.val) ∧ (a = attemptEnd s.media s.lane[l] x false) ∧ (a.converged = true) ∧ (x.id = expectedId s.media p x.slot.val) ∧ (x.piOk = true) ∧ (x.tapLimit = false)) ∧
    (∃ (s : State) (l : LaneIx) (x : VerifyResult) (p : TrackAt) (z : ZoneDesc), (Live s) ∧ (p = s.lane[l].now.place) ∧ (zoneOn s.media p.surface p.zone = some z) ∧ (verifies s.lane[l] z x.reread = true) ∧ (verifyPass s.lane[l] (decide (s.yck.lane[l].timing = .yarn)) (fld (yckCur s.yck 0x30) 4 0) z.rate (expectedId s.media p x.slot.val) x = true)) ∧
    (∃ (s : State) (l : LaneIx) (x : VerifyResult) (p : TrackAt) (z : ZoneDesc), (Live s) ∧ (p = s.lane[l].now.place) ∧ (zoneOn s.media p.surface p.zone = some z) ∧ (verifies s.lane[l] z x.reread = true) ∧ (z.area = 0) ∧ (verifyPass s.lane[l] (decide (s.yck.lane[l].timing = .yarn)) (fld (yckCur s.yck 0x30) 4 0) z.rate (expectedId s.media p x.slot.val) x = false)) ∧
    (∃ (s : State) (l : LaneIx) (slot : Fin 4096) (output : Fin 3) (e : Ladder), (Live s) ∧ (ladderAt s.lane[l] slot.val output.val = some e) ∧ (e.rung = 1) ∧ (e.cands = []) ∧ ((fld (laneCur s.lane[l] 0x408) 19 18 = 0 ∨ (deepOn s.ddp 0 = false ∧ deepOn s.ddp 1 = false)))) ∧
    (∃ (s : State) (l : LaneIx) (slot : Fin 4096) (output : Fin 3) (e : Ladder), (Live s) ∧ (ladderAt s.lane[l] slot.val output.val = some e) ∧ (e.rung = 1) ∧ (e.cands = []) ∧ (e.pinned = 0) ∧ (¬ (fld (laneCur s.lane[l] 0x408) 19 18 = 0 ∨ (deepOn s.ddp 0 = false ∧ deepOn s.ddp 1 = false))) ∧ (¬ 16 < s.lane[l].hold + slotsNeeded s.lane[l]) ∧ (¬ (fld (regGet ddpRows s.ddp.regs 0x80C) 13 8 ≤ s.ddp.queue.length ∨ 8 ≤ (s.ddp.queue.filter fun q => decide (q.lane = l)).length))) ∧
    (∃ (s : State) (l : LaneIx) (slot : Fin 4096) (output : Fin 3) (q : DeepReq) (e : Ladder), (Live s) ∧ (s.ddp.queue = [q]) ∧ ((q.lane = l ∧ q.slot = slot.val ∧ q.output = output.val)) ∧ (ladderAt s.lane[l] slot.val output.val = some e)) ∧
    (∃ (s : State) (d : Fin 2) (x : DeepResult) (q : DeepReq) (e : Ladder), (Live s) ∧ (s.ddp.running[d] = some q) ∧ (ladderAt s.lane[q.lane] q.slot q.output = some e) ∧ (deepAttempt s q x = none)) ∧
    (∃ (s : State) (d : Fin 2) (x : DeepResult) (q : DeepReq) (e : Ladder), (Live s) ∧ (s.ddp.running[d] = some q) ∧ (ladderAt s.lane[q.lane] q.slot q.output = some e) ∧ ((deepAttempt s q x).isSome = true) ∧ (x.id = expectedId s.media e.place e.slot) ∧ (x.piOk = true)) ∧
    (∃ (s : State) (l : LaneIx) (xs : List SectorTry) (e : Ladder), (Live s) ∧ (s.lane[l].ladder = [e]) ∧ (e.rung = 3) ∧ (e.retries ≤ 8) ∧ (s.lane[l].pat.op = none)) ∧
    (∃ (s : State) (l : LaneIx) (x : SelvageTry) (e : Ladder), (Live s) ∧ (s.lane[l].ladder = [e]) ∧ (e.rung = 4) ∧ (e.output = x.output.val) ∧ ((groupSlots s.media e.place x.group).contains e.slot = true) ∧ (selvageOutcome s e.place x = some true)) ∧
    (∃ (s : State) (l : LaneIx) (x : SelvageTry) (e : Ladder), (Live s) ∧ (s.lane[l].ladder = [e]) ∧ (e.rung = 4) ∧ (e.output = x.output.val) ∧ ((groupSlots s.media e.place x.group).contains e.slot = true) ∧ (selvageOutcome s e.place x = none)) :=
  ⟨⟨live, 40, by decide⟩,
   ⟨onLane (fun v => { v with rdrOn := 1 }) live, 0, by decide⟩,
   ⟨live, 0, 1, by decide⟩,
   ⟨live, 0, 5, by decide⟩,
   ⟨onLane (fun v => { v with paQueue := [5] }) live, 0, 3, 5, [], by decide⟩,
   ⟨onLadder 1 (placed live), 0, goodDecode, aLadder 1, _, _, by decide, by decide, rfl, rfl, rfl, by decide +kernel⟩,
   ⟨withDesc id (onLane (fun v => { v with regs := regSet laneRows v.regs 0 0x10000 }) (placed live)), 0, aVerify, _, aDesc, by decide, rfl, by decide +kernel⟩,
   ⟨withDesc id (onLane (fun v => { v with regs := regSet laneRows v.regs 0 0x10000 }) (placed live)), 0, { aVerify with piOk := false }, _, aDesc, by decide, rfl, by decide +kernel⟩,
   ⟨onLadder 1 (onLane (fun v => { v with cur := regSet laneRows v.cur 0x408 0 }) live), 0, 0, 0, aLadder 1, by decide⟩,
   ⟨onLadder 1 (onLane (fun v => { v with cur := regSet laneRows v.cur 0x408 0x40000 }) { live with ddp := { live.ddp with regs := regSet ddpRows live.ddp.regs 0x800 1 } }), 0, 0, 0, aLadder 1, by decide⟩,
   ⟨onLadder 2 { live with ddp := { live.ddp with queue := [aDeep] } }, 0, 0, 0, aDeep, aLadder 2, by decide⟩,
   ⟨onLadder 2 { live with ddp := { live.ddp with running := Vector.replicate 2 (some aDeep) } }, 0, { checks := [], id := 0, piOk := false, phaseErr := 0 }, aDeep, aLadder 2, by decide +kernel, by decide +kernel, rfl, by decide +kernel⟩,
   ⟨onLadder 2 (onLane (fun v => { v with cur := regSet laneRows v.cur 0x408 0x40000 }) { live with ddp := { live.ddp with regs := regSet ddpRows live.ddp.regs 0x80C 0x20, running := Vector.replicate 2 (some aDeep) } }), 0, { checks := [[0]], id := 0, piOk := true, phaseErr := 0 }, aDeep, aLadder 2, by decide +kernel, by decide +kernel, rfl, by decide +kernel, by decide, rfl⟩,
   ⟨onLadder 3 live, 0, [], aLadder 3, by decide⟩,
   ⟨onLadder 4 (withDesc id { live with media := { live.media with groups := [(0, .carries)] } }), 0, aSelvage, aLadder 4, by decide⟩,
   ⟨onLadder 4 (withDesc id live), 0, aSelvage, aLadder 4, by decide⟩⟩

theorem test_met_RowWordsComplete :
    (∃ (s : State) (l : LaneIx) (x : RowSymbol) (w : BitVec 144), (Live s) ∧ (s.lane[l].row.state = .running) ∧ (w = rowFetch s.lane[l].row s.lane[l].row.pc) ∧ (badQuarters w = 0) ∧ (wf w 142 140 = 0) ∧ (wf w 112 112 = 0) ∧ (wordFault s l w x (rowCond s l w x) = none)) ∧
    (∃ (s : State) (l : LaneIx) (x : RowSymbol) (w : BitVec 144), (Live s) ∧ (s.lane[l].row.state = .running) ∧ (w = rowFetch s.lane[l].row s.lane[l].row.pc) ∧ (badQuarters w = 0) ∧ (wf w 142 140 = 1) ∧ (wf w 112 112 = 0) ∧ (wordFault s l w x (rowCond s l w x) = none)) ∧
    (∃ (s : State) (l : LaneIx) (x : RowSymbol) (w : BitVec 144), (Live s) ∧ (s.lane[l].row.state = .running) ∧ (w = rowFetch s.lane[l].row s.lane[l].row.pc) ∧ (badQuarters w = 0) ∧ (wf w 142 140 = 2) ∧ (wf w 112 112 = 0) ∧ (wordFault s l w x (rowCond s l w x) = none)) ∧
    (∃ (s : State) (l : LaneIx) (x : RowSymbol) (w : BitVec 144), (Live s) ∧ (s.lane[l].row.state = .running) ∧ (w = rowFetch s.lane[l].row s.lane[l].row.pc) ∧ (badQuarters w = 0) ∧ (wf w 142 140 = 3) ∧ (wf w 112 112 = 0) ∧ (wordFault s l w x (rowCond s l w x) = none)) ∧
    (∃ (s : State) (l : LaneIx) (x : RowSymbol) (w : BitVec 144), (Live s) ∧ (s.lane[l].row.state = .running) ∧ (w = rowFetch s.lane[l].row s.lane[l].row.pc) ∧ (badQuarters w = 0) ∧ (wf w 142 140 = 4) ∧ (wf w 112 112 = 0) ∧ (wordFault s l w x (rowCond s l w x) = none)) ∧
    (∃ (s : State) (l : LaneIx) (x : RowSymbol) (w : BitVec 144), (Live s) ∧ (s.lane[l].row.state = .running) ∧ (w = rowFetch s.lane[l].row s.lane[l].row.pc) ∧ (badQuarters w = 0) ∧ (wf w 142 140 = 5) ∧ (wf w 112 112 = 0) ∧ (wordFault s l w x (rowCond s l w x) = none)) ∧
    (∃ (s : State) (l : LaneIx) (x : RowSymbol) (w : BitVec 144), (Live s) ∧ (s.lane[l].row.state = .running) ∧ (w = rowFetch s.lane[l].row s.lane[l].row.pc) ∧ (badQuarters w = 0) ∧ (wf w 142 140 = 6) ∧ (wf w 112 112 = 0) ∧ (wordFault s l w x (rowCond s l w x) = none)) ∧
    (∃ (s : State) (l : LaneIx) (x : RowSymbol) (w : BitVec 144), (Live s) ∧ (s.lane[l].row.state = .running) ∧ (w = rowFetch s.lane[l].row s.lane[l].row.pc) ∧ (badQuarters w = 0) ∧ (wf w 142 140 = 7) ∧ (wf w 112 112 = 0) ∧ (wordFault s l w x true = none) ∧ (rowCond s l w x = true)) ∧
    (∃ (s : State) (l : LaneIx) (x : RowSymbol) (w : BitVec 144), (Live s) ∧ (s.lane[l].row.state = .running) ∧ (w = rowFetch s.lane[l].row s.lane[l].row.pc) ∧ (badQuarters w = 0) ∧ (wf w 142 140 = 7) ∧ (wf w 112 112 = 0) ∧ (wordFault s l w x false = none) ∧ (rowCond s l w x = false)) ∧
    (∃ (s : State) (l : LaneIx), (Live s) ∧ (s.lane[l].row.state = .waiting)) ∧
    (∃ (s : State) (l : LaneIx), (Live s) ∧ (s.lane[l].row.state = .running) ∧ (s.lane[l].row.inCust = true)) ∧
    (∃ (s : State) (l : LaneIx) (a time : Nat), (Live s) ∧ (s.lane[l].row.state = .machineCheck) ∧ (s.lane[l].row.errors = [(a, time)]) ∧ (s.lane[l].pat.op = none)) :=
  ⟨⟨rowState 0 1, 0, quietSymbol, _, by decide, by decide, rfl, by decide +kernel⟩,
   ⟨rowState 1 0, 0, quietSymbol, _, by decide, by decide, rfl, by decide +kernel⟩,
   ⟨rowState 2 0, 0, quietSymbol, _, by decide, by decide, rfl, by decide +kernel⟩,
   ⟨rowState 3 1, 0, quietSymbol, _, by decide, by decide, rfl, by decide +kernel⟩,
   ⟨rowState 4 0, 0, quietSymbol, _, by decide, by decide, rfl, by decide +kernel⟩,
   ⟨rowState 5 1, 0, quietSymbol, _, by decide, by decide, rfl, by decide +kernel⟩,
   ⟨rowState 6 1, 0, quietSymbol, _, by decide, by decide, rfl, by decide +kernel⟩,
   ⟨rowState 7 0, 0, quietSymbol, _, by decide, by decide, rfl, by decide +kernel⟩,
   ⟨onRow (fun r => { r with state := .running, store := [(0, rowWordOf 7 1 + BitVec.ofNat 144 (2 ^ 138))] }) live, 0, quietSymbol, _, by decide, by decide, rfl, by decide +kernel⟩,
   ⟨onRow (fun r => { r with state := .waiting }) live, 0, by decide⟩,
   ⟨onRow (fun r => { r with state := .running, inCust := true }) live, 0, by decide⟩,
   ⟨onRow (fun r => { r with state := .machineCheck, errors := [(3, 0)] }) live, 0, 3, 0, by decide⟩⟩

theorem test_met_OpcodesComplete :
    (∃ (s : State) (l : LaneIx) (u : State), (Live s) ∧ (opTake l 0x00 s = some u)) ∧
    (∃ (s : State) (l : LaneIx) (u : State), (Live s) ∧ (s.lane[l].feReady = true) ∧ (opTake l 0x01 s = some u)) ∧
    (∃ (s : State) (l : LaneIx) (u : State), (Live s) ∧ (atExported s.lane[l].row 0x02 = false) ∧ (opTake l 0x02 s = some u)) ∧
    (∃ (s : State) (l : LaneIx) (xs : List ReadSlot) (u : State), (Live s) ∧ (atExported s.lane[l].row 0x10 = false) ∧ (opTake l 0x10 s = some u)) ∧
    (∃ (s : State) (l : LaneIx) (xs : List ReadSlot) (u : State), (Live s) ∧ (opTake l 0x11 s = some u)) ∧
    (∃ (s : State) (l : LaneIx) (xs : List WriteSlot) (u : State), (Live s) ∧ (atExported s.lane[l].row 0x20 = false) ∧ (opTake l 0x20 s = some u)) ∧
    (∃ (s : State) (l : LaneIx) (xs : List WriteSlot) (u : State), (Live s) ∧ (opTake l 0x21 s = some u)) ∧
    (∃ (s : State) (l : LaneIx) (u : State), (Live s) ∧ (atExported s.lane[l].row 0x30 = false) ∧ (opTake l 0x30 s = some u)) ∧
    (∃ (s : State) (l : LaneIx) (a : Nat) (rest : List Nat), (Live s) ∧ (s.lane[l].row.state = .running) ∧ (s.lane[l].row.pc = 0x058) ∧ (s.lane[l].row.stack = a :: rest)) ∧
    (∃ (s : State) (l : LaneIx) (n : Fin 32) (u : State), (Live s) ∧ (opTake l (0xE0 + n.val) s = some u) ∧ (bitOf (rowCtl s.lane[l]) 1 = true)) :=
  ⟨⟨takes 0, 0, _, by decide, rfl⟩,
   ⟨onLane (fun v => { v with feReady := true }) (takes 1), 0, _, by decide, by decide, rfl⟩,
   ⟨takes 2, 0, _, by decide, by decide, rfl⟩,
   ⟨takes 0x10, 0, [.read 1], _, by decide, by decide, rfl⟩,
   ⟨takes 0x11, 0, [.read 1], _, by decide, rfl⟩,
   ⟨takes 0x20, 0, [.written], _, by decide, by decide, rfl⟩,
   ⟨takes 0x21, 0, [.written], _, by decide, rfl⟩,
   ⟨takes 0x30, 0, _, by decide, by decide, rfl⟩,
   ⟨onRow (fun r => { r with state := .running, pc := 0x058, stack := [5] }) live, 0, 5, [], by decide⟩,
   ⟨onLane (fun v => { v with regs := regSet laneRows v.regs 0x1000 2 }) (takes 0xE0), 0, 0, _, by decide, rfl, by decide⟩⟩

set_option maxRecDepth 1000000 in
theorem test_met_LaneProgramsComplete :
    (∃ (s : State) (l : LaneIx), (Live s) ∧ (s.lane[l].row.swapPend = false) ∧ (ldOk s.lane[l] = true) ∧ (bitOf (laneReg s.lane[l] 0x1030) 16 = false) ∧ (s.lane[l].row.remap = [])) ∧
    (∃ (s : State) (l : LaneIx), (Live s) ∧ (bitOf (laneReg s.lane[l] 0x1030) 16 = false)) ∧
    (∃ (s : State) (l : LaneIx) (w : Word), (Live s) ∧ (bitOf (rowCtl s.lane[l]) 0 = false) ∧ (bitOf (fldAt (fld (w ||| 1#32) 3 0) 3 0) 0 = true) ∧ (bitOf (w ||| 1#32) 8 = false) ∧ (laneBind s.flt l.val ≠ 5) ∧ (l ≠ 4)) ∧
    (∃ (s : State) (l : LaneIx) (w : Word), (Live s) ∧ (bitOf (rowCtl s.lane[l]) 0 = true) ∧ (bitOf (fldAt (fld (w &&& ~~~ 1#32) 3 0) 3 0) 0 = false) ∧ (bitOf (w &&& ~~~ 1#32) 8 = false)) ∧
    (∃ (s : State) (l : LaneIx) (w : Word), (Live s) ∧ (bitOf (setFld (rowCtl s.lane[l]) 1 1 (fld w 1 1)) 0 = bitOf (rowCtl s.lane[l]) 0)) ∧
    (∃ (s : State) (l : LaneIx) (w : Word), (Live s) ∧ (bitOf (w ||| 0x100#32) 8 = true) ∧ (bitOf (fldAt (fld (w ||| 0x100#32) 3 0) 3 0) 0 = bitOf (rowCtl s.lane[l]) 0)) ∧
    (∃ (s : State) (l : LaneIx), (Live s) ∧ (s.lane[l].row.swapPend = true) ∧ (s.lane[l].pat.op = none)) ∧
    (∃ (s : State) (l : LaneIx) (x : PatStart) (ws : List Word) (taken : State) (d : OpDesc) (a surface usable mode : Nat) (z : Option ZoneDesc), (Live s) ∧ (s.lane[l].pat.state = .idle) ∧ ((s.lane[l].ladder.any fun e => decide (3 ≤ e.rung)) = false) ∧ (hqmTake (fld (laneReg s.lane[l] 0x1110) 13 0) s = some (ws, taken)) ∧ (d = parseDesc ws) ∧ (a = headRecord s.lane[l] d.head) ∧ (surface = ((laneAct s.flt l).elim 24 fun y => surfaceOf y d.head)) ∧ (z = zoneOn s.media surface d.zone) ∧ (usable = usableReaders s s.lane[l] a d.head d.zone) ∧ (mode = modeFor d.mode (tripleOk s d (z.getD (zoneDesc [])) surface a usable (refOfs s l) (s.yck.active.isSome && gaugeCrcOk s d.row.toNat && rowValid s d.row.toNat && !(z.getD (zoneDesc [])).preamble)) (combinedOk s (z.getD (zoneDesc [])) a usable (refOfs s l))) ∧ (descBad d z = false) ∧ (headRecordOk s a = true) ∧ ((z.isSome = false ∨ recVreader s a = (z.getD (zoneDesc [])).vreader)) ∧ (d.rdrEn &&& recFitted s a = d.rdrEn) ∧ ((d.kind ≠ 1 ∧ d.kind ≠ 3)) ∧ (detEntryOk s s.lane[l] d.head d.zone mode = true) ∧ ((usable ≠ 0 ∨ d.kind = 4))) ∧
    (∃ (s : State) (l : LaneIx) (x : PatStart), (Live s) ∧ (s.lane[l].pat.state = .idle) ∧ (hqmTake (fld (laneReg s.lane[l] 0x1110) 13 0) s = none)) ∧
    (∃ (s : State) (l : LaneIx) (w : Word), (Live s) ∧ (bitOf w 0 = true) ∧ (bitOf w 1 = false) ∧ (s.lane[l].pat.state = .stopped) ∧ (s.lane[l].pat.lost = none)) ∧
    (∃ (s : State) (l : LaneIx) (w : Word), (Live s) ∧ (bitOf (w ||| 2#32) 0 = true) ∧ (bitOf (w ||| 2#32) 1 = true) ∧ (s.lane[l].pat.state = .idle) ∧ (s.lane[l].pat.lost = none)) ∧
    (∃ (s : State) (l : LaneIx), (Live s) ∧ (s.lane[l].pat.state = .stopped)) ∧
    (∃ (s : State) (l : LaneIx), (Live s)) ∧
    (∃ (s : State) (l : LaneIx) (n : Fin 32) (w : Word), (Live s)) ∧
    (∃ (s : State) (l : LaneIx) (x : Nat × Word) (rest : List (Nat × Word)), (Live s) ∧ (s.lane[l].pat.state = .idle) ∧ (s.lane[l].pat.staged = x :: rest)) :=
  ⟨⟨onLane (fun v => { v with regs := regSet laneRows (regSet laneRows (regSet laneRows (regSet laneRows (regSet laneRows v.regs 0x1030 0xE00) 0x1034 1) 0x1038 0x10) 0x103C 0x100) 0x1040 0x1000 }) live, 0, by decide⟩,
   ⟨live, 0, by decide⟩,
   ⟨live, 0, 0, by decide⟩,
   ⟨onLane (fun v => { v with regs := regSet laneRows v.regs 0x1000 1 }) live, 0, 0, by decide⟩,
   ⟨live, 0, 2, by decide⟩,
   ⟨live, 0, 0, by decide⟩,
   ⟨onRow (fun r => { r with swapPend := true }) live, 0, by decide⟩,
   ⟨onLane (fun v => { v with regs := regSet laneRows v.regs 0x400 0x10000 }) { patState with mem := patState.mem ++ [(65536, 1), (65575, 1), (65596, 135), (65597, 220), (65598, 186), (65599, 34)] }, 0, aPatStart, _, _, _, _, _, _, _, _, by decide +kernel, by decide +kernel, by decide +kernel, rfl, rfl, rfl, rfl, rfl, rfl, rfl, by decide +kernel⟩,
   ⟨onLane (fun v => { v with pat := { v.pat with state := .idle } }) live, 0, aPatStart, by decide⟩,
   ⟨live, 0, 1, by decide⟩,
   ⟨onLane (fun v => { v with pat := { v.pat with state := .idle } }) live, 0, 1, by decide⟩,
   ⟨live, 0, by decide⟩,
   ⟨live, 0, by decide⟩,
   ⟨live, 0, 3, 5, by decide⟩,
   ⟨onLane (fun v => { v with pat := { v.pat with state := .idle, staged := [(0, 5)] } }) live, 0, (0, 5), [], by decide⟩⟩

theorem test_met_JournalAndRowsComplete :
    (∃ (s : State) (w : Word), (Live s) ∧ (jTypes.contains (fld w 7 0) = true) ∧ (fld w 15 8 < 4) ∧ (speOn s = true)) ∧
    (∃ (s : State) (g : JGroup) (rest : List JGroup), (Live s) ∧ (speOn s = true) ∧ (s.spe.stalled = false) ∧ (s.sys.plActive = false) ∧ (s.flt.warm = false) ∧ (currentCount s.spe ≠ 0) ∧ (s.spe.groups = g :: rest) ∧ (g.issued = false) ∧ (g.closed = true)) ∧
    (∃ (s : State) (w : Word), (Live s)) ∧
    (∃ (s : State) (i : Fin 3), (Live s) ∧ (s.spe.replica[i].current = true) ∧ (s.spe.fill = none)) ∧
    (∃ (s : State) (i : Fin 3), (Live s) ∧ (s.spe.fill = some i) ∧ (currentCount s.spe ≠ 0)) ∧
    (∃ (s : State), (Live s) ∧ (speOn s = true) ∧ (s.sys.plActive = false) ∧ (checkpointDue s = true) ∧ (currentCount s.spe ≠ 0) ∧ (s.spn.hold = false) ∧ (s.spe.rmw = [])) ∧
    (∃ (s : State) (r : Nat), (Live s) ∧ (speOn s = true) ∧ ((s.spe.dirty.any fun d => decide (d.region = r ∧ d.touched + 100 * fld (speReg s.spe 0x14) 31 24 ≤ s.sys.ms)) = true) ∧ (regionQuiet s r = true)) ∧
    (∃ (s : State) (n r : Nat) (z : Zone) (o : OpenRow) (u : State), (Live s) ∧ (u = assignTargets n s) ∧ (zoneGet u n = some z) ∧ ((u.spe.rows.find? fun o => decide (o.zone = n ∧ o.row = r)) = some o) ∧ (logged n z u = false) ∧ (rowComplete z r = true) ∧ (mediaGo u n z r o.seq = true) ∧ (unitsFree u z (List.range z.w) = true)) ∧
    (∃ (s : State) (n r present : Nat) (z : Zone) (o : OpenRow) (u : State), (Live s) ∧ (u = assignTargets n s) ∧ (zoneGet u n = some z) ∧ (present = min (z.wp - r * 16 * dataUnits z.w) (16 * dataUnits z.w)) ∧ ((u.spe.rows.find? fun o => decide (o.zone = n ∧ o.row = r)) = some o) ∧ (logged n z u = false) ∧ (rowTrigger u o = true) ∧ (rowKeys u n z r ≠ []) ∧ (mediaGo u n z r o.seq = true) ∧ (unitsFree u z ((presentUnits z r present).map Prod.fst) = true)) ∧
    (∃ (s : State) (n r u : Nat) (z : Zone) (o : Rmw), (Live s) ∧ (s.spe.rmw = [o]) ∧ ((o.zone = n ∧ o.row = r ∧ o.unit = u)) ∧ (zoneGet s n = some z) ∧ (seqDurable s.spe o.seq = true) ∧ (regionSet s.spe (regionOf n (r * 16 * dataUnits z.w + (if u = 0xFF then 0 else 16 * u) + o.first)) = true)) ∧
    (∃ (s : State) (n r u : Nat) (z : Zone) (o : Rmw) (x : State) (keys units : List Nat), (Live s) ∧ (x = assignTargets n s) ∧ (zoneGet x n = some z) ∧ ((x.spe.rmw.find? fun o => decide (o.zone = n ∧ o.row = r ∧ o.unit = u) && o.computed) = some o) ∧ (keys = rmwKeys x n z o) ∧ (units = (keys.map fun k => posOf z.w (k % 65536)).eraseDups ++ [posP z.w r, posQ z.w r]) ∧ (logged n z x = false) ∧ (mediaGo x n z r o.seq = true) ∧ (unitsFree x z units = true)) ∧
    (∃ (s : State) (n r p : Nat) (z : Zone) (x : Skipped), (Live s) ∧ (zoneGet s n = some z) ∧ ((s.arr.skipped.find? fun x => decide (x.zone = n ∧ x.row = r ∧ x.pos = p)) = some x) ∧ (posUnreachable s z p = false) ∧ (posGone s z p = false) ∧ (((List.range 16).all fun k => !x.offsets.getLsbD k || decide (missingAt s n z r k ≤ 2)) = true) ∧ (timingFor s n z = .go)) :=
  ⟨⟨work, 1, by decide⟩,
   ⟨onSpe (fun p => { p with groups := [{ buf := 0, entries := [], closed := true, issued := false, held := 0 }] }) work, { buf := 0, entries := [], closed := true, issued := false, held := 0 }, [], by decide⟩,
   ⟨live, 0, by decide⟩,
   ⟨work, 0, by decide⟩,
   ⟨onSpe (fun p => { p with fill := some 0 }) work, 0, by decide⟩,
   ⟨onSpe (fun p => { p with ckptBusy := true }) work, by decide⟩,
   ⟨onSys (fun x => { x with ms := 100000 }) (onSpe (fun p => { p with dirty := [{ region := 3, seq := 0, touched := 0 }] }) work), 3, by decide⟩,
   ⟨onSpe (fun p => { p with rows := [anOpenRow] }) work, 0, 0, aZone, anOpenRow, _, by decide +kernel, rfl, by decide +kernel⟩,
   ⟨onArr (fun a => { a with blocks := [(0, { data := 0, app := 0, acked := false, durable := false, logged := false, prev := none })] }) (onSys (fun x => { x with ms := 2000 }) (onSpe (fun p => { p with rows := [anOpenRow], dirty := [{ region := 0, seq := 0, touched := 0 }] }) work)), 0, 0, _, aZone, anOpenRow, _, by decide +kernel, rfl, by decide +kernel, rfl, by decide +kernel⟩,
   ⟨onSpe (fun p => { p with rmw := [{ aRmw with computed := false }], dirty := [{ region := 0, seq := 0, touched := 0 }] }) work, 0, 0, 0, aZone, { aRmw with computed := false }, by decide⟩,
   ⟨onSpe (fun p => { p with rmw := [aRmw] }) work, 0, 0, 0, aZone, aRmw, _, _, _, by decide +kernel, rfl, by decide +kernel, by decide +kernel, rfl, rfl, by decide +kernel⟩,
   ⟨onArr (fun a => { a with skipped := [{ zone := 0, row := 0, pos := 1, offsets := 1 }] }) work, 0, 0, 1, aZone, { zone := 0, row := 0, pos := 1, offsets := 1 }, by decide +kernel⟩⟩

theorem test_met_ReconstructionAndParityEngineComplete :
    (∃ (s : State) (n o extra piBad : Nat) (z : Zone), (Live s) ∧ (zoneGet s n = some z) ∧ (missingAt s n z (rowOf z.w o) (blockIn o) + (if posOut s n z (rowOf z.w o) (posOf z.w o) (blockIn o) then 0 else 1) + extra ≤ 2)) ∧
    (∃ (s : State) (n o extra piBad : Nat) (verified : Bool) (z : Zone), (Live s) ∧ (zoneGet s n = some z) ∧ (2 < missingAt s n z (rowOf z.w o) (blockIn o) + (if posOut s n z (rowOf z.w o) (posOf z.w o) (blockIn o) then 0 else 1) + extra) ∧ (((List.range z.w).any fun q => posUnreachable s z q) = false)) ∧
    (∃ (s : State) (piFail ecc : BitVec 16) (ws : List Word) (u : State), (Live s) ∧ (speOn s = true) ∧ (bitOf (speReg s.spe 0) 1 = false) ∧ (s.flt.warm = false) ∧ (hqmTake (fld (speReg s.spe 0x10) 13 0) s = some (ws, u)) ∧ (jobBad (fld (jobWord ws 0) 31 28) (fld (jobWord ws 0) 27 23) (fld (jobWord ws 0) 22 18) (fld (jobWord ws 0) 17 13) (fld (jobWord ws 0) 12 8) (fld (jobWord ws 0) 7 3) (fld (jobWord ws 0) 1 0) = false) ∧ (ecc = 0)) ∧
    (∃ (s : State) (w : Word), (Live s)) ∧
    (∃ (s : State) (w : Word), (Live s)) ∧
    (∃ (s : State) (w : Word), (Live s)) ∧
    (∃ (s : State) (w : Word), (Live s) ∧ ((bitOf w 7 = false ∨ (fld w 4 0 < 24 ∧ calAllowed s (fld w 4 0) = true)))) :=
  ⟨⟨work, 0, 0, 0, 0, aZone, by decide +kernel⟩,
   ⟨work, 0, 0, 3, 0, true, aZone, by decide +kernel⟩,
   ⟨jobState, 0, 0, _, _, by decide, by decide, by decide, by decide, rfl, by decide +kernel⟩,
   ⟨live, 1, by decide⟩,
   ⟨live, 1, by decide⟩,
   ⟨live, 1, by decide⟩,
   ⟨live, 0, by decide⟩⟩

theorem test_met_MembersComplete :
    (∃ (s : State) (m : Fin 24) (c : SuspectCause), (Live s) ∧ ((suspectHolds s m c).1 = true) ∧ (s.arr.member[m].state = .active)) ∧
    (∃ (s : State) (m : Fin 24), (Live s) ∧ (s.arr.member[m].state = .suspect) ∧ (s.arr.member[m].suspectAt + 604800 ≤ s.stc.pos)) ∧
    (∃ (s : State) (m : Fin 24) (c : FenceCause), (Live s) ∧ ((fenceHolds s m c).1 = true)) ∧
    (∃ (s : State) (a : ActIx) (c : ActCause), (Live s) ∧ (s.arr.avail[a].unavailable = false) ∧ (actHolds s a c = true) ∧ (engineOf s.flt a.val = none)) ∧
    (∃ (s : State) (a : ActIx) (e : EngIx), (Live s) ∧ (s.arr.avail[a].reloading = true) ∧ (s.sys.phase = .ready) ∧ (engineOf s.flt a.val = some e) ∧ ((s.srv.get e).state = .parked) ∧ (s.sys.unloadLow = false)) ∧
    (∃ (s : State) (a : ActIx), (Live s) ∧ (s.arr.avail[a].unavailable = true)) ∧
    (∃ (s : State) (n r : Nat) (fails : List (Fin 16 × BitVec 24)) (z y : Zone), (Live s) ∧ (zoneGet s n = some z) ∧ (mediaWork s = true) ∧ (rebuildNext s = some n) ∧ (r < writtenRows z) ∧ (r = (if s.arr.cursor = n then s.arr.rowsDone else keyGet s.arr.rebuildAt n 0)) ∧ (zoneGet (assignTargets n s) n = some y) ∧ (((List.range y.w).any (awaiting (assignTargets n s) n y)) = true)) ∧
    (∃ (s : State) (n : Nat) (z : Zone), (Live s) ∧ (zoneGet s n = some z) ∧ (mediaWork s = true) ∧ (rebuildNext s = some n) ∧ (¬ (writtenRows z ≠ 0 ∧ (s.arr.cursor ≠ n ∨ s.arr.rowsDone < writtenRows z)))) ∧
    (∃ (s : State) (m : Fin 24), (Live s) ∧ (s.arr.member[m].state = .fenced) ∧ (s.sys.phase = .ready) ∧ (s.sys.plActive = false) ∧ ((s.arr.avail.toList.getD (m.val / 6) .reset).unavailable = false) ∧ (loaded s (m.val / 6) = true)) ∧
    (∃ (s : State) (m : Fin 24), (Live s) ∧ (s.arr.member[m].state = .fenced) ∧ (s.sys.phase = .ready) ∧ (s.sys.plActive = false) ∧ ((s.arr.avail.toList.getD (m.val / 6) .reset).unavailable = false) ∧ (loaded s (m.val / 6) = true) ∧ (s.arr.member[m].probes + 1 < 3)) ∧
    (∃ (s : State) (m : Fin 24), (Live s) ∧ (s.arr.member[m].state = .fenced) ∧ (s.sys.phase = .ready) ∧ (s.sys.plActive = false) ∧ ((s.arr.avail.toList.getD (m.val / 6) .reset).unavailable = false) ∧ (loaded s (m.val / 6) = true) ∧ (s.arr.member[m].probes = 2) ∧ (s.arr.member[m].returned = false)) ∧
    (∃ (s : State) (m : Fin 24), (Live s) ∧ (s.arr.member[m].state = .qualifying) ∧ (s.arr.member[m].swatched = false) ∧ (mediaWork s = true)) ∧
    (∃ (s : State) (m : Fin 24) (written failed wedges extra : Nat), (Live s) ∧ (s.arr.member[m].state = .qualifying) ∧ (s.arr.member[m].swatched = true) ∧ (s.arr.member[m].noReader = false) ∧ (mediaWork s = true) ∧ (10000 * failed < written) ∧ (1000 * extra < wedges)) ∧
    (∃ (s : State) (n : Nat) (m : Fin 24) (r : Nat × Nat), (Live s) ∧ (s.arr.member[m].standing = true) ∧ (s.arr.member[m].state = .spare) ∧ (rebuildActive s = false) ∧ (mediaWork s = true) ∧ (migrationRecord s m.val = some r)) ∧
    (∃ (s : State) (f : CopyFind) (r : Reshape) (n : Nat) (z : Zone), (Live s) ∧ (s.arr.reshape = some r) ∧ (reshapeNext s r = some n) ∧ (zoneGet s n = some z) ∧ (mediaWork s = true) ∧ (s.arr.commits = []) ∧ (s.yck.preamble = false) ∧ ((r.copying.map Prod.fst) ≠ some n) ∧ (rebuildActive s = false) ∧ (z.st = .empty)) ∧
    (∃ (s : State) (n : Nat) (z : Zone), (Live s) ∧ (zoneGet s n = some z) ∧ (mediaWork s = true) ∧ (s.arr.commits = []) ∧ (z.place ≠ []) ∧ ((s.arr.converting.find? fun x => decide (x.1 = n)) = none) ∧ (z.degraded = true) ∧ ((s.arr.converting.any fun x => decide (x.1 ≠ n) && ((zoneGet s x.1).map fun y => y.degraded).getD false) = false) ∧ (s.yck.preamble = false) ∧ (s.yck.active.isSome = true) ∧ (s.arr.reshape = none)) ∧
    (∃ (s : State) (n r : Nat) (z : Zone), (Live s) ∧ (zoneGet s n = some z) ∧ (mediaWork s = true) ∧ (z.place ≠ []) ∧ (r < writtenRows z) ∧ ((rebuildActive s = false ∨ suspectZone s z = true)) ∧ (scrubMay s n r = true) ∧ (scrubNext s = some (n, r))) :=
  ⟨⟨live, 0, .readerFailed false, by decide⟩,
   ⟨onMember (fun v => { v with state := .suspect }) { live with stc := { live.stc with pos := 700000 } }, 0, by decide⟩,
   ⟨onMember (fun v => { v with noReader := true }) live, 0, .noReader, by decide⟩,
   ⟨onArr (fun a => { a with avail := Vector.replicate 4 { ActAvail.reset with loadFails := [0, 0, 0] } }) { live with flt := { live.flt with srvMap := 0x7FFF } }, 0, .loadFail, by decide⟩,
   ⟨parkedAll (onSys (fun x => { x with unloadLow := false }) (onFlt (fun f => { f with srvMap := 0x4688 }) (onArr (fun a => { a with avail := Vector.replicate 4 { ActAvail.reset with reloading := true } }) work))), 0, 0, by decide⟩,
   ⟨onArr (fun a => { a with avail := Vector.replicate 4 { ActAvail.reset with unavailable := true } }) work, 0, by decide⟩,
   ⟨rebuilding, 0, 0, [], _, _, by decide, rfl, by decide +kernel, by decide +kernel, by decide +kernel, by decide +kernel, rfl, by decide +kernel⟩,
   ⟨onArr (fun a => { a with rowsDone := 50 }) rebuilding, 0, { aZone with targets := [{ aTarget with rebuilt := false }] }, by decide +kernel⟩,
   ⟨onSrv (fun v => { v with state := .follow }) (onMember (fun v => { v with state := .fenced }) work), 0, by decide⟩,
   ⟨onSrv (fun v => { v with state := .follow }) (onMember (fun v => { v with state := .fenced }) work), 0, by decide⟩,
   ⟨onSrv (fun v => { v with state := .follow }) (onMember (fun v => { v with state := .fenced, probes := 2 }) work), 0, by decide⟩,
   ⟨onMember (fun v => { v with state := .qualifying }) work, 0, by decide⟩,
   ⟨onMember (fun v => { v with state := .qualifying, swatched := true }) work, 0, 20000, 1, 512, 0, by decide⟩,
   ⟨migrating, 0, 0, (0, 0), by decide +kernel⟩,
   ⟨reshaping, .begin, { zones := [0], w := 5, c := 1, boundary := 0, copying := none }, 0, { aZone with st := .empty }, by decide +kernel⟩,
   ⟨onArr (fun a => { a with zones := [(0, { aZone with degraded := true })] }) work, 0, { aZone with degraded := true }, by decide +kernel⟩,
   ⟨work, 0, 0, aZone, by decide +kernel⟩⟩

theorem test_met_HostLinkCompletes :
    (∃ (s : State) (c : CtlIx) (k : RawCmd), (Live s) ∧ (fetchOk s c.val (!k.admin) = true) ∧ ((if k.admin then adminOpcodes.contains k.opcode.val else ioOpcodes.contains k.opcode.val) = false)) ∧
    (∃ (s : State) (c : CtlIx) (k : RawCmd), (Live s) ∧ (fetchOk s c.val (!k.admin) = true) ∧ (k.admin = true) ∧ (adminOpcodes.contains k.opcode.val = true) ∧ (cmdRing s c = none)) ∧
    (∃ (s : State) (n : Nat), (Live s) ∧ ((s.hif.flight.any (fun f => decide (f.fseq = n)) || s.hif.fetched.any (fun f => decide (f.fseq = n)) || lockBusy s n) = false) ∧ ((s.hif.locks.any fun l => decide (l.fseq = n) && l.modify && !lockDurable s l) = false)) ∧
    (∃ (s : State), (Live s)) ∧
    (∃ (s : State) (f : InFlight) (v : Namespace), (Live s) ∧ (s.sys.phase = .ready) ∧ (s.sys.plActive = false) ∧ (s.flt.warm = false) ∧ (s.hif.flight = [f]) ∧ (f.phase = .waiting) ∧ (f.io.kind = .write) ∧ (f.ctl ≠ 3) ∧ (nsGet s f.io.ns = some v) ∧ (refusedNow s v f.io = false) ∧ (coastClear s = true) ∧ (unprotected s + undurable s (ioKeys v f.io) ≤ window s) ∧ (s.host.eraseWait = []) ∧ (s.hif.flushes = [])) ∧
    (∃ (s : State) (n : Nat) (f : InFlight), (Live s) ∧ ((s.hif.flight.find? fun f => decide (f.fseq = n)) = some f) ∧ (overLimit s f = true)) ∧
    (∃ (s : State) (f : InFlight), (Live s) ∧ (s.sys.phase = .ready) ∧ (s.hif.flight = [f]) ∧ (f.phase = .held) ∧ (f.at_ + holdLimit s f.io ≤ s.sys.ms) ∧ (s.host.eraseWait = []) ∧ (s.hif.flushes = [])) ∧
    (∃ (s : State) (c : CtlIx), (Live s) ∧ (portUsed s c = true) ∧ (s.sys.plActive = false) ∧ (s.sys.phase ≠ .dark) ∧ (s.hif.ctl[c].en = false) ∧ (s.hif.ctl[c].linkUp = true) ∧ (s.sys.phase ≠ .post)) ∧
    (∃ (s : State) (c : CtlIx), (Live s) ∧ (portUsed s c = true) ∧ (s.sys.plActive = false) ∧ (s.sys.phase ≠ .dark) ∧ (s.hif.ctl[c].en = true)) ∧
    (∃ (s : State) (c : CtlIx), (Live s) ∧ (portUsed s c = true) ∧ (s.sys.plActive = false) ∧ (s.sys.phase ≠ .dark) ∧ (s.hif.ctl[c].rejoin = true)) ∧
    (∃ (s : State) (c : CtlIx) (w : Word), (Live s) ∧ (portUsed s c = true) ∧ (s.sys.plActive = false) ∧ (s.sys.phase ≠ .dark) ∧ (bitOf w 0 = false)) ∧
    (∃ (s : State) (c : CtlIx), (Live s) ∧ (portUsed s c = true) ∧ (s.sys.plActive = false) ∧ (s.sys.phase ≠ .dark) ∧ (departCause s.hif.ctl[c] = true)) ∧
    (∃ (s : State) (c : CtlIx) (r : CtlRole), (Live s) ∧ (portUsed s c = true) ∧ (s.sys.plActive = false) ∧ (s.sys.phase ≠ .dark) ∧ (s.hif.ctl[c].waiting = some r) ∧ (activationHold s = false) ∧ (s.hif.ctl[c].en = true) ∧ (r = .standby) ∧ (s.hif.ctl[c].attach ≠ 3)) ∧
    (∃ (s : State) (c : CtlIx), (Live s) ∧ (portUsed s c = true) ∧ (s.sys.plActive = false) ∧ (s.sys.phase ≠ .dark) ∧ (s.hif.ctl[c].linkUp = true)) :=
  ⟨⟨hosted, 0, { admin := true, opcode := 255, ns := 0, first := 0, count := 0, modify := false, words := [] }, by decide⟩,
   ⟨hosted, 0, { admin := true, opcode := 6, ns := 0, first := 0, count := 0, modify := false, words := [] }, by decide⟩,
   ⟨hosted, 3, by decide⟩,
   ⟨hosted, by decide⟩,
   ⟨withNs { hosted with hif := { hosted.hif with flight := [waitingFlight] } }, waitingFlight, aNs, by decide, by decide, by decide, by decide, rfl, by decide +kernel⟩,
   ⟨{ hosted with hif := { hosted.hif with flight := [heldFlight] }, sys := { hosted.sys with ms := 10000000 } }, 9, heldFlight, by decide +kernel⟩,
   ⟨{ hosted with hif := { hosted.hif with flight := [heldFlight] }, sys := { hosted.sys with ms := 10000000 } }, heldFlight, by decide +kernel⟩,
   ⟨onCtl (fun v => { v with en := false }) hosted, 0, by decide⟩,
   ⟨hosted, 0, by decide⟩,
   ⟨onCtl (fun v => { v with rejoin := true }) hosted, 0, by decide⟩,
   ⟨hosted, 0, 0, by decide⟩,
   ⟨onCtl (fun v => { v with linkUp := false }) hosted, 0, by decide⟩,
   ⟨onCtl (fun v => { v with waiting := some .standby }) hosted, 0, .standby, by decide⟩,
   ⟨hosted, 0, by decide⟩⟩

theorem test_met_IdentifyLogsAndFeaturesComplete :
    (∃ (s : State) (c : CtlIx) (cns csi ns cntid : Nat) (n : Nat) (u : State), (Live s) ∧ (startOk s c.val true 0x06 0 0 0 = true) ∧ (takeNumber c.val true 0x06 0 0 0 s = (n, u)) ∧ (u.sys.phase ≠ .safe) ∧ (u.hif.ctl[c].role ≠ .standby)) ∧
    (∃ (s : State) (c : CtlIx) (lid : Nat) (rae : Bool) (offset bytes : Nat) (n : Nat) (u : State), (Live s) ∧ (startOk s c.val true 0x02 0 0 0 = true) ∧ (takeNumber c.val true 0x02 0 0 0 s = (n, u)) ∧ (u.sys.phase ≠ .safe) ∧ (u.hif.ctl[c].role ≠ .standby) ∧ (logServed u c.val lid = true)) ∧
    (∃ (s : State) (c : CtlIx) (save : Bool) (v data : Nat) (n : Nat) (u : State), (Live s) ∧ (startOk s c.val true 0x09 0 0 0 = true) ∧ (takeNumber c.val true 0x09 0 0 0 s = (n, u)) ∧ (u.sys.phase ≠ .safe) ∧ (u.hif.ctl[c].role ≠ .standby) ∧ (featureServed u 0x02 = true)) ∧
    (∃ (s : State) (c : CtlIx) (save : Bool) (v data : Nat) (n : Nat) (u : State), (Live s) ∧ (startOk s c.val true 0x09 0 0 0 = true) ∧ (takeNumber c.val true 0x09 0 0 0 s = (n, u)) ∧ (u.sys.phase ≠ .safe) ∧ (u.hif.ctl[c].role ≠ .standby) ∧ (featureServed u 0x07 = true)) ∧
    (∃ (s : State) (c : CtlIx) (fid sel v : Nat) (n : Nat) (u : State), (Live s) ∧ (startOk s c.val true 0x0A 0 0 0 = true) ∧ (takeNumber c.val true 0x0A 0 0 0 s = (n, u)) ∧ (u.sys.phase ≠ .safe) ∧ (u.hif.ctl[c].role ≠ .standby) ∧ (featureServed u fid = true) ∧ (fid ≠ 0xC3) ∧ (fid ≠ 0x0C) ∧ (fid ≠ 0x0E)) ∧
    (∃ (s : State) (c : CtlIx) (v : Nat) (n : Nat) (u : State), (Live s) ∧ (startOk s c.val true 0x09 0 0 0 = true) ∧ (takeNumber c.val true 0x09 0 0 0 s = (n, u)) ∧ (u.sys.phase ≠ .safe) ∧ (u.hif.ctl[c].role ≠ .standby) ∧ (v % 32 ≤ 4)) ∧
    (∃ (s : State) (c : CtlIx) (save : Bool) (v : Nat) (n : Nat) (u : State), (Live s) ∧ (startOk s c.val true 0x09 0 0 0 = true) ∧ (takeNumber c.val true 0x09 0 0 0 s = (n, u)) ∧ (u.sys.phase ≠ .safe) ∧ (u.hif.ctl[c].role ≠ .standby) ∧ (layoutOk u v = true)) ∧
    (∃ (s : State) (c : CtlIx) (save : Bool) (v : Nat) (n : Nat) (u : State), (Live s) ∧ (startOk s c.val true 0x09 0 0 0 = true) ∧ (takeNumber c.val true 0x09 0 0 0 s = (n, u)) ∧ (u.sys.phase ≠ .safe) ∧ (u.hif.ctl[c].role ≠ .standby) ∧ (scrubOk v = true)) ∧
    (∃ (s : State) (c : CtlIx) (save : Bool) (v : Nat) (n : Nat) (u : State), (Live s) ∧ (startOk s c.val true 0x09 0 0 0 = true) ∧ (takeNumber c.val true 0x09 0 0 0 s = (n, u)) ∧ (u.sys.phase ≠ .safe) ∧ (u.hif.ctl[c].role ≠ .standby) ∧ (permitOk v = true)) ∧
    (∃ (s : State) (c : CtlIx) (save : Bool) (v : Nat) (n : Nat) (u : State), (Live s) ∧ (startOk s c.val true 0x09 0 0 0 = true) ∧ (takeNumber c.val true 0x09 0 0 0 s = (n, u)) ∧ (u.sys.phase ≠ .safe) ∧ (u.hif.ctl[c].role ≠ .standby) ∧ (windowOk v = true)) :=
  ⟨⟨hosted, 0, 1, 0, 0, 0, _, _, by decide, by decide, rfl, by decide +kernel⟩,
   ⟨hosted, 0, 0, false, 0, 4, _, _, by decide, by decide, rfl, by decide +kernel⟩,
   ⟨hosted, 0, false, 1, 0, _, _, by decide, by decide, rfl, by decide +kernel⟩,
   ⟨hosted, 0, false, 1, 0, _, _, by decide, by decide, rfl, by decide +kernel⟩,
   ⟨hosted, 0, 1, 0, 0, _, _, by decide, by decide, rfl, by decide +kernel⟩,
   ⟨hosted, 0, 1, _, _, by decide, by decide, rfl, by decide +kernel⟩,
   ⟨hosted, 0, false, 0x104, _, _, by decide, by decide, rfl, by decide +kernel⟩,
   ⟨hosted, 0, false, 7, _, _, by decide, by decide, rfl, by decide +kernel⟩,
   ⟨hosted, 0, false, 0x118, _, _, by decide, by decide, rfl, by decide +kernel⟩,
   ⟨hosted, 0, false, 2, _, _, by decide, by decide, rfl, by decide +kernel⟩⟩

theorem test_met_QueueAndEventCommandsComplete :
    (∃ (s : State) (c : CtlIx) (q size cq : Nat) (n : Nat) (u : State), (Live s) ∧ (startOk s c.val true 0x01 0 0 0 = true) ∧ (takeNumber c.val true 0x01 0 0 0 s = (n, u)) ∧ (u.sys.phase ≠ .safe) ∧ (u.hif.ctl[c].role ≠ .standby) ∧ (queueId q = true) ∧ (hasQueue u.hif.ctl[c].sqs q = false) ∧ (hasQueue u.hif.ctl[c].cqs cq = true)) ∧
    (∃ (s : State) (c : CtlIx) (q : Nat) (n : Nat) (u : State), (Live s) ∧ (startOk s c.val true 0x00 0 0 0 = true) ∧ (takeNumber c.val true 0x00 0 0 0 s = (n, u)) ∧ (u.sys.phase ≠ .safe) ∧ (u.hif.ctl[c].role ≠ .standby) ∧ (hasQueue u.hif.ctl[c].sqs q = true)) ∧
    (∃ (s : State) (c : CtlIx) (q size iv : Nat) (n : Nat) (u : State), (Live s) ∧ (startOk s c.val true 0x05 0 0 0 = true) ∧ (takeNumber c.val true 0x05 0 0 0 s = (n, u)) ∧ (u.sys.phase ≠ .safe) ∧ (u.hif.ctl[c].role ≠ .standby) ∧ (queueId q = true) ∧ (hasQueue u.hif.ctl[c].cqs q = false)) ∧
    (∃ (s : State) (c : CtlIx) (q : Nat) (n : Nat) (u : State), (Live s) ∧ (startOk s c.val true 0x04 0 0 0 = true) ∧ (takeNumber c.val true 0x04 0 0 0 s = (n, u)) ∧ (u.sys.phase ≠ .safe) ∧ (u.hif.ctl[c].role ≠ .standby) ∧ (hasQueue u.hif.ctl[c].cqs q = true) ∧ ((u.hif.ctl[c].sqs.any fun x => decide (x.2.2 = q)) = false)) ∧
    (∃ (s : State) (c : CtlIx) (target : Nat) (n : Nat) (u : State), (Live s) ∧ (startOk s c.val true 0x08 0 0 0 = true) ∧ (takeNumber c.val true 0x08 0 0 0 s = (n, u)) ∧ (u.sys.phase ≠ .safe) ∧ (u.hif.ctl[c].role ≠ .standby) ∧ (abortable u c target = false)) ∧
    (∃ (s : State) (c : CtlIx) (n : Nat) (u : State), (Live s) ∧ (startOk s c.val true 0x0C 0 0 0 = true) ∧ (takeNumber c.val true 0x0C 0 0 0 s = (n, u)) ∧ (u.sys.phase ≠ .safe) ∧ (u.hif.ctl[c].role ≠ .standby) ∧ (u.hif.ctl[c].events = [])) :=
  ⟨⟨onCtl (fun v => { v with cqs := [(1, 4, 0)] }) hosted, 0, 1, 4, 1, _, _, by decide, by decide, rfl, by decide +kernel⟩,
   ⟨onCtl (fun v => { v with sqs := [(1, 4, 1)] }) hosted, 0, 1, _, _, by decide, by decide, rfl, by decide +kernel⟩,
   ⟨hosted, 0, 1, 4, 1, _, _, by decide, by decide, rfl, by decide +kernel⟩,
   ⟨onCtl (fun v => { v with cqs := [(1, 4, 0)] }) hosted, 0, 1, _, _, by decide, by decide, rfl, by decide +kernel⟩,
   ⟨hosted, 0, 77, _, _, by decide, by decide, rfl, by decide +kernel⟩,
   ⟨hosted, 0, _, _, by decide, by decide, rfl, by decide +kernel⟩⟩

theorem test_met_FirmwareCommandsComplete :
    (∃ (s : State) (c : CtlIx) (offset len : Nat) (n : Nat) (u : State), (Live s) ∧ (startOk s c.val true 0x11 0 0 0 = true) ∧ (takeNumber c.val true 0x11 0 0 0 s = (n, u)) ∧ (u.sys.phase ≠ .safe) ∧ (u.hif.ctl[c].role ≠ .standby) ∧ (¬ (offset % 4096 ≠ 0 ∨ len % 4096 ≠ 0 ∨ len = 0 ∨ 24 * 2 ^ 20 < offset + len))) ∧
    (∃ (s : State) (c : CtlIx) (slot : Nat) (x : ImageCheck) (i : Fin 2) (n : Nat) (u : State), (Live s) ∧ (startOk s c.val true 0x10 0 0 0 = true) ∧ (takeNumber c.val true 0x10 0 0 0 s = (n, u)) ∧ (u.sys.phase ≠ .safe) ∧ (u.hif.ctl[c].role ≠ .standby) ∧ (commitSlot u.host.fw slot = some i) ∧ (slotKept u.host.fw i = false) ∧ (imageOk u.host.fw x = true)) ∧
    (∃ (s : State) (c : CtlIx) (slot : Nat) (x : ImageCheck) (i : Fin 2) (n : Nat) (u : State), (Live s) ∧ (startOk s c.val true 0x10 0 0 0 = true) ∧ (takeNumber c.val true 0x10 0 0 0 s = (n, u)) ∧ (u.sys.phase ≠ .safe) ∧ (u.hif.ctl[c].role ≠ .standby) ∧ (commitSlot u.host.fw slot = some i) ∧ (slotKept u.host.fw i = false) ∧ (imageOk u.host.fw x = true)) ∧
    (∃ (s : State) (c : CtlIx) (slot : Nat) (i : Fin 2) (n : Nat) (u : State), (Live s) ∧ (startOk s c.val true 0x10 0 0 0 = true) ∧ (takeNumber c.val true 0x10 0 0 0 s = (n, u)) ∧ (u.sys.phase ≠ .safe) ∧ (u.hif.ctl[c].role ≠ .standby) ∧ (commitSlot u.host.fw slot = some i) ∧ (slotKept u.host.fw i = false) ∧ (slotGood u.host.fw i = true)) ∧
    (∃ (s : State) (c : CtlIx) (slot : Nat) (x : ImageCheck) (i : Fin 2) (n : Nat) (u : State), (Live s) ∧ (startOk s c.val true 0x10 0 0 0 = true) ∧ (takeNumber c.val true 0x10 0 0 0 s = (n, u)) ∧ (u.sys.phase ≠ .safe) ∧ (u.hif.ctl[c].role ≠ .standby) ∧ (commitSlot u.host.fw slot = some i) ∧ (slotKept u.host.fw i = false) ∧ (u.host.fw.activation = none) ∧ (u.host.fw.staged ≠ 0) ∧ (imageOk u.host.fw x = true)) ∧
    (∃ (s : State) (a : Activation), (Live s) ∧ (s.host.fw.activation = some a) ∧ (a.holding = false) ∧ (quiet s = true)) ∧
    (∃ (s : State) (a : Activation), (Live s) ∧ (s.host.fw.activation = some a) ∧ (a.holding = false)) ∧
    (∃ (s : State) (a : Activation), (Live s) ∧ (s.host.fw.activation = some a) ∧ (a.holding = true) ∧ (allCompleted s = true) ∧ (s.host.fw.slot[a.slot].starts = true) ∧ (a.ctl ≠ 3)) :=
  ⟨⟨hosted, 0, 0, 4096, _, _, by decide, by decide, rfl, by decide +kernel⟩,
   ⟨staged, 0, 2, goodImage, 1, _, _, by decide, by decide, rfl, by decide +kernel⟩,
   ⟨staged, 0, 2, goodImage, 1, _, _, by decide, by decide, rfl, by decide +kernel⟩,
   ⟨staged, 0, 2, 1, _, _, by decide, by decide, rfl, by decide +kernel⟩,
   ⟨staged, 0, 2, goodImage, 1, _, _, by decide, by decide, rfl, by decide +kernel⟩,
   ⟨onHost (fun h => { h with fw := { h.fw with activation := some anActivation } }) hosted, anActivation, by decide⟩,
   ⟨onHost (fun h => { h with fw := { h.fw with activation := some anActivation } }) hosted, anActivation, by decide⟩,
   ⟨onHost (fun h => { h with fw := { h.fw with activation := some { anActivation with holding := true } } }) staged, { anActivation with holding := true }, by decide⟩⟩

theorem test_met_NamespaceSelfTestAndSecurityComplete :
    (∃ (s : State) (c : CtlIx) (x : NsCreate) (ns k : Nat) (n : Nat) (u : State), (Live s) ∧ (startOk s c.val true 0x0D 0 0 0 = true) ∧ (takeNumber c.val true 0x0D 0 0 0 s = (n, u)) ∧ (u.sys.phase ≠ .safe) ∧ (u.hif.ctl[c].role ≠ .standby) ∧ (createCheck u x = none) ∧ (freeNs u = some k)) ∧
    (∃ (s : State) (c : CtlIx) (ns : Nat) (n : Nat) (u : State), (Live s) ∧ (startOk s c.val true 0x0D 0 0 0 = true) ∧ (takeNumber c.val true 0x0D 0 0 0 s = (n, u)) ∧ (u.sys.phase ≠ .safe) ∧ (u.hif.ctl[c].role ≠ .standby) ∧ ((nsGet u ns).isSome = true)) ∧
    (∃ (s : State) (c : CtlIx) (ns : Nat) (attach : Bool) (to_ : BitVec 2) (v : Namespace) (n : Nat) (u : State), (Live s) ∧ (startOk s c.val true 0x15 0 0 0 = true) ∧ (takeNumber c.val true 0x15 0 0 0 s = (n, u)) ∧ (u.sys.phase ≠ .safe) ∧ (u.hif.ctl[c].role ≠ .standby) ∧ (nsGet u ns = some v) ∧ (to_ = 1) ∧ (v.shared = false) ∧ ((if attach then v.attached ||| to_ else v.attached &&& ~~~ to_) ≠ 3)) ∧
    (∃ (s : State) (c : CtlIx) (n : Nat) (u : State), (Live s) ∧ (startOk s c.val true 0x14 0 0 0 = true) ∧ (takeNumber c.val true 0x14 0 0 0 s = (n, u)) ∧ (u.sys.phase ≠ .safe) ∧ (u.hif.ctl[c].role ≠ .standby) ∧ (u.host.test = none)) ∧
    (∃ (s : State) (c : CtlIx) (n : Nat) (u : State), (Live s) ∧ (startOk s c.val true 0x14 0 0 0 = true) ∧ (takeNumber c.val true 0x14 0 0 0 s = (n, u)) ∧ (u.sys.phase ≠ .safe) ∧ (u.hif.ctl[c].role ≠ .standby) ∧ (u.host.test = none)) ∧
    (∃ (s : State) (c : CtlIx) (n : Nat) (u : State), (Live s) ∧ (startOk s c.val true 0x14 0 0 0 = true) ∧ (takeNumber c.val true 0x14 0 0 0 s = (n, u)) ∧ (u.sys.phase ≠ .safe) ∧ (u.hif.ctl[c].role ≠ .standby)) ∧
    (∃ (s : State) (pass : Bool) (x : SelfTest), (Live s) ∧ (mediaWork s = true) ∧ (s.host.test = some x) ∧ (pass = true) ∧ (nextSegment s x < (if x.kind = 1 then 6 else 7))) ∧
    (∃ (s : State) (pass : Bool) (r : CalRequest), (Live s) ∧ (mediaWork s = true) ∧ (bitOf (speReg s.spe 0x48) 7 = true) ∧ ((s.arr.calReqs.find? fun r => decide (r.member = fld (speReg s.spe 0x48) 4 0)) = some r) ∧ (r.kinds.testBit 20 = false)) ∧
    (∃ (s : State) (c : CtlIx) (ns lbaf pi ses : Nat) (n : Nat) (u : State), (Live s) ∧ (startOk s c.val true 0x80 0 0 0 = true) ∧ (takeNumber c.val true 0x80 0 0 0 s = (n, u)) ∧ (u.sys.phase ≠ .safe) ∧ (u.hif.ctl[c].role ≠ .standby) ∧ (¬ (1 < lbaf % 16 ∨ 32 ≤ lbaf ∨ (pi ≠ 0 ∧ (lbaf % 16 = 0 ∨ (pi ≠ 1 ∧ pi ≠ 9))) ∨ 2 < ses)) ∧ ((nsGet u ns).isSome = true)) ∧
    (∃ (s : State) (c : CtlIx) (m : OpalMethod) (n : Nat) (u : State), (Live s) ∧ (startOk s c.val true 0x81 0 0 0 = true) ∧ (takeNumber c.val true 0x81 0 0 0 s = (n, u)) ∧ (u.sys.phase ≠ .safe) ∧ (u.hif.ctl[c].role ≠ .standby)) ∧
    (∃ (s : State) (c : CtlIx) (discovery : Bool) (n : Nat) (u : State), (Live s) ∧ (startOk s c.val true 0x82 0 0 0 = true) ∧ (takeNumber c.val true 0x82 0 0 0 s = (n, u)) ∧ (u.sys.phase ≠ .safe) ∧ (u.hif.ctl[c].role ≠ .standby)) ∧
    (∃ (s : State) (c : CtlIx) (n : Nat) (u : State), (Live s) ∧ (startOk s c.val true 0x84 0 0 0 = true) ∧ (takeNumber c.val true 0x84 0 0 0 s = (n, u)) ∧ (u.sys.phase ≠ .safe) ∧ (u.hif.ctl[c].role ≠ .standby)) ∧
    (∃ (s : State) (c : CtlIx) (n : Nat) (u : State), (Live s) ∧ (startOk s c.val true 0x84 0 0 0 = true) ∧ (takeNumber c.val true 0x84 0 0 0 s = (n, u)) ∧ (u.sys.phase ≠ .safe) ∧ (u.hif.ctl[c].role ≠ .standby)) :=
  ⟨⟨hosted, 0, { csi := 2, nsze := 65536, ncap := 65536, flbas := 0, dps := 0, nmic := 0, conv := 0, w := 4, c := 1 }, 0, 1, _, _, by decide, by decide, rfl, by decide +kernel⟩,
   ⟨withNs hosted, 0, 1, _, _, by decide, by decide, rfl, by decide +kernel⟩,
   ⟨withNs hosted, 0, 1, true, 1, aNs, _, _, by decide, by decide, rfl, by decide +kernel⟩,
   ⟨hosted, 0, _, _, by decide, by decide, rfl, by decide +kernel⟩,
   ⟨hosted, 0, _, _, by decide, by decide, rfl, by decide +kernel⟩,
   ⟨hosted, 0, _, _, by decide, by decide, rfl, by decide +kernel⟩,
   ⟨onHost (fun h => { h with test := some { kind := 1, segment := 0, poh := 0, result := 0 } }) hosted, true, _, by decide, by decide, rfl, by decide +kernel⟩,
   ⟨onSpe (fun p => { p with regs := regSet speRows p.regs 0x48 0x80 }) (onArr (fun a => { a with calReqs := [aCal] }) hosted), true, aCal, by decide⟩,
   ⟨withNs hosted, 0, 1, 0, 0, 0, _, _, by decide, by decide, rfl, by decide +kernel⟩,
   ⟨hosted, 0, .endSession, _, _, by decide, by decide, rfl, by decide +kernel⟩,
   ⟨hosted, 0, true, _, _, by decide, by decide, rfl, by decide +kernel⟩,
   ⟨hosted, 0, _, _, by decide, by decide, rfl, by decide +kernel⟩,
   ⟨hosted, 0, _, _, by decide, by decide, rfl, by decide +kernel⟩⟩

theorem test_met_VendorCommandsComplete :
    (∃ (s : State) (c : CtlIx) (k : MiCmd) (n : Nat) (u : State), (Live s) ∧ (startOk s c.val true 0x1D 0 0 0 = true) ∧ (takeNumber c.val true 0x1D 0 0 0 s = (n, u)) ∧ (u.sys.phase ≠ .safe) ∧ (u.hif.ctl[c].role ≠ .standby) ∧ (miSends k = true)) ∧
    (∃ (s : State) (c : CtlIx) (k : MiCmd) (n : Nat) (u : State), (Live s) ∧ (startOk s c.val true 0x1E 0 0 0 = true) ∧ (takeNumber c.val true 0x1E 0 0 0 s = (n, u)) ∧ (u.sys.phase ≠ .safe) ∧ (u.hif.ctl[c].role ≠ .standby) ∧ (miSends k = false)) ∧
    (∃ (s : State) (c : CtlIx) (m : Fin 24) (force : Bool) (gen : Nat) (n : Nat) (u : State), (Live s) ∧ (startOk s c.val true 0xC1 0 0 0 = true) ∧ (takeNumber c.val true 0xC1 0 0 0 s = (n, u)) ∧ (u.sys.phase ≠ .safe) ∧ (u.hif.ctl[c].role ≠ .standby) ∧ (u.arr.member[m].gen = gen) ∧ ((u.arr.member[m].state = .active ∨ u.arr.member[m].state = .suspect)) ∧ ((force = true ∨ noLoss u [m.val] = true))) ∧
    (∃ (s : State) (c : CtlIx) (m : Fin 24) (gen : Nat) (n : Nat) (u : State), (Live s) ∧ (startOk s c.val true 0xC1 0 0 0 = true) ∧ (takeNumber c.val true 0xC1 0 0 0 s = (n, u)) ∧ (u.sys.phase ≠ .safe) ∧ (u.hif.ctl[c].role ≠ .standby) ∧ (u.arr.member[m].gen = gen) ∧ (u.arr.member[m].state = .fenced)) ∧
    (∃ (s : State) (c : CtlIx) (m : Fin 24) (gen : Nat) (n : Nat) (u : State), (Live s) ∧ (startOk s c.val true 0xC1 0 0 0 = true) ∧ (takeNumber c.val true 0xC1 0 0 0 s = (n, u)) ∧ (u.sys.phase ≠ .safe) ∧ (u.hif.ctl[c].role ≠ .standby) ∧ (u.arr.member[m].gen = gen) ∧ (u.arr.member[m].state = .spare) ∧ (((List.finRange 24).any fun k => decide (k.val / 6 = m.val / 6) && u.arr.member[k].standing) = false)) ∧
    (∃ (s : State) (c : CtlIx) (m : Fin 24) (gen days : Nat) (n : Nat) (u : State), (Live s) ∧ (startOk s c.val true 0xC1 0 0 0 = true) ∧ (takeNumber c.val true 0xC1 0 0 0 s = (n, u)) ∧ (u.sys.phase ≠ .safe) ∧ (u.hif.ctl[c].role ≠ .standby) ∧ (u.arr.member[m].gen = gen) ∧ (days ≤ 365)) ∧
    (∃ (s : State) (c : CtlIx) (m : Nat) (n : Nat) (u : State), (Live s) ∧ (startOk s c.val true 0xC2 0 0 0 = true) ∧ (takeNumber c.val true 0xC2 0 0 0 s = (n, u)) ∧ (u.sys.phase ≠ .safe) ∧ (u.hif.ctl[c].role ≠ .standby) ∧ (m < 24)) ∧
    (∃ (s : State) (c : CtlIx) (ns first last w cc : Nat) (v : Namespace) (n : Nat) (u : State), (Live s) ∧ (startOk s c.val true 0xC5 0 0 0 = true) ∧ (takeNumber c.val true 0xC5 0 0 0 s = (n, u)) ∧ (u.sys.phase ≠ .safe) ∧ (u.hif.ctl[c].role ≠ .standby) ∧ (nsGet u ns = some v) ∧ (¬ (last < first ∨ v.zones.length ≤ last ∨ w < 4 ∨ 24 < w ∨ cc = 0 ∨ 6 < cc)) ∧ (reshapeBad u ((v.zones.drop first).take (last - first + 1)) w cc = false)) ∧
    (∃ (s : State) (c : CtlIx) (group : Fin 256) (rewind : Bool) (n : Nat) (u : State), (Live s) ∧ (startOk s c.val true 0xC6 0 0 0 = true) ∧ (takeNumber c.val true 0xC6 0 0 0 s = (n, u)) ∧ (u.sys.phase ≠ .safe) ∧ (u.hif.ctl[c].role ≠ .standby)) ∧
    (∃ (s : State) (c : CtlIx) (group : Fin 256) (n : Nat) (u : State), (Live s) ∧ (startOk s c.val true 0xC8 0 0 0 = true) ∧ (takeNumber c.val true 0xC8 0 0 0 s = (n, u)) ∧ (u.sys.phase ≠ .safe) ∧ (u.hif.ctl[c].role ≠ .standby) ∧ ((group.val = 0xFF ∨ (1 ≤ group.val ∧ group.val ≤ 10)))) ∧
    (∃ (s : State) (c : CtlIx) (m zone : Nat) (all : Bool) (kinds : BitVec 5) (n : Nat) (u : State), (Live s) ∧ (startOk s c.val true 0xCC 0 0 0 = true) ∧ (takeNumber c.val true 0xCC 0 0 0 s = (n, u)) ∧ (u.sys.phase ≠ .safe) ∧ (u.hif.ctl[c].role ≠ .standby) ∧ (¬ (24 ≤ m ∨ 64 ≤ zone ∨ (memberAt u m).state = .fenced ∨ (memberAt u m).state = .qualifying ∨ (memberAt u m).state = .retired))) :=
  ⟨⟨hosted, 0, .reset, _, _, by decide, by decide, rfl, by decide +kernel⟩,
   ⟨hosted, 0, .subsystemPoll, _, _, by decide, by decide, rfl, by decide +kernel⟩,
   ⟨hosted, 0, 0, true, 0, _, _, by decide, by decide, rfl, by decide +kernel⟩,
   ⟨onMember (fun v => { v with state := .fenced }) hosted, 0, 0, 0, _, _, by decide, by decide, rfl, by decide +kernel⟩,
   ⟨onMember (fun v => { v with state := .spare }) hosted, 0, 0, 0, _, _, by decide, by decide, rfl, by decide +kernel⟩,
   ⟨hosted, 0, 0, 0, 30, _, _, by decide, by decide, rfl, by decide +kernel⟩,
   ⟨hosted, 0, 3, _, _, by decide, by decide, rfl, by decide +kernel⟩,
   ⟨withNs hosted, 0, 1, 0, 0, 4, 1, aNs, _, _, by decide, by decide, rfl, by decide +kernel⟩,
   ⟨hosted, 0, 1, true, _, _, by decide, by decide, rfl, by decide +kernel⟩,
   ⟨hosted, 0, 1, _, _, by decide, by decide, rfl, by decide +kernel⟩,
   ⟨hosted, 0, 0, 0, true, 1, _, _, by decide, by decide, rfl, by decide +kernel⟩⟩

theorem test_met_IoCommandsComplete :
    (∃ (s : State) (c : CtlIx) (ns n : Nat) (u : State), (Live s) ∧ (ioStand s = .run) ∧ (startOk s c.val false 0x00 ns 0 0 = true) ∧ (takeNumber c.val false 0x00 ns 0 0 s = (n, u)) ∧ ((ns = 0xFFFFFFFF ∨ ((nsGet u ns).all fun v => !v.attached.getLsbD c.val) = false))) ∧
    (∃ (s : State) (c : CtlIx) (io : IoCmd) (n : Nat) (u v : State) (f : InFlight) (x : Namespace), (Live s) ∧ (ioStand s = .run) ∧ (startOk s c.val false 0x01 io.ns io.slba io.nlb = true) ∧ (takeNumber c.val false 0x01 io.ns io.slba io.nlb s = (n, u)) ∧ (f = { fseq := n, ctl := c.val, io := { io with kind := .write }, phase := .stalled, at_ := u.sys.ms }) ∧ (v = addLock { ns := io.ns, first := (ioRange u f.io).1, last := (ioRange u f.io).2, modify := ioModifies .write, fseq := n } u) ∧ (conflicts v { ns := io.ns, first := (ioRange u f.io).1, last := (ioRange u f.io).2, modify := ioModifies .write, fseq := n } = false) ∧ (nsGet v io.ns = some x) ∧ (x.attached.getLsbD c.val = true) ∧ (opalLocked v f.io = false) ∧ (ioField v x f.io = none)) ∧
    (∃ (s : State) (c : CtlIx) (io : IoCmd) (n : Nat) (u v : State) (f : InFlight) (x : Namespace), (Live s) ∧ (ioStand s = .run) ∧ (startOk s c.val false 0x02 io.ns io.slba io.nlb = true) ∧ (takeNumber c.val false 0x02 io.ns io.slba io.nlb s = (n, u)) ∧ (f = { fseq := n, ctl := c.val, io := { io with kind := .read }, phase := .stalled, at_ := u.sys.ms }) ∧ (v = addLock { ns := io.ns, first := (ioRange u f.io).1, last := (ioRange u f.io).2, modify := ioModifies .read, fseq := n } u) ∧ (conflicts v { ns := io.ns, first := (ioRange u f.io).1, last := (ioRange u f.io).2, modify := ioModifies .read, fseq := n } = false) ∧ (nsGet v io.ns = some x) ∧ (x.attached.getLsbD c.val = true) ∧ (opalLocked v f.io = false) ∧ (ioField v x f.io = none)) ∧
    (∃ (s : State) (c : CtlIx) (io : IoCmd) (n : Nat) (u v : State) (f : InFlight) (x : Namespace), (Live s) ∧ (ioStand s = .run) ∧ (startOk s c.val false 0x05 io.ns io.slba io.nlb = true) ∧ (takeNumber c.val false 0x05 io.ns io.slba io.nlb s = (n, u)) ∧ (f = { fseq := n, ctl := c.val, io := { io with kind := .compare }, phase := .stalled, at_ := u.sys.ms }) ∧ (v = addLock { ns := io.ns, first := (ioRange u f.io).1, last := (ioRange u f.io).2, modify := ioModifies .compare, fseq := n } u) ∧ (conflicts v { ns := io.ns, first := (ioRange u f.io).1, last := (ioRange u f.io).2, modify := ioModifies .compare, fseq := n } = false) ∧ (nsGet v io.ns = some x) ∧ (x.attached.getLsbD c.val = true) ∧ (opalLocked v f.io = false) ∧ (ioField v x f.io = none)) ∧
    (∃ (s : State) (c : CtlIx) (io : IoCmd) (n : Nat) (u v : State) (f : InFlight) (x : Namespace), (Live s) ∧ (ioStand s = .run) ∧ (startOk s c.val false 0x08 io.ns io.slba io.nlb = true) ∧ (takeNumber c.val false 0x08 io.ns io.slba io.nlb s = (n, u)) ∧ (f = { fseq := n, ctl := c.val, io := { io with kind := .writeZeroes }, phase := .stalled, at_ := u.sys.ms }) ∧ (v = addLock { ns := io.ns, first := (ioRange u f.io).1, last := (ioRange u f.io).2, modify := ioModifies .writeZeroes, fseq := n } u) ∧ (conflicts v { ns := io.ns, first := (ioRange u f.io).1, last := (ioRange u f.io).2, modify := ioModifies .writeZeroes, fseq := n } = false) ∧ (nsGet v io.ns = some x) ∧ (x.attached.getLsbD c.val = true) ∧ (opalLocked v f.io = false) ∧ (ioField v x f.io = none)) ∧
    (∃ (s : State) (c : CtlIx) (io : IoCmd) (n : Nat) (u v : State) (f : InFlight) (x : Namespace), (Live s) ∧ (ioStand s = .run) ∧ (startOk s c.val false 0x0C io.ns io.slba io.nlb = true) ∧ (takeNumber c.val false 0x0C io.ns io.slba io.nlb s = (n, u)) ∧ (f = { fseq := n, ctl := c.val, io := { io with kind := .verify }, phase := .stalled, at_ := u.sys.ms }) ∧ (v = addLock { ns := io.ns, first := (ioRange u f.io).1, last := (ioRange u f.io).2, modify := ioModifies .verify, fseq := n } u) ∧ (conflicts v { ns := io.ns, first := (ioRange u f.io).1, last := (ioRange u f.io).2, modify := ioModifies .verify, fseq := n } = false) ∧ (nsGet v io.ns = some x) ∧ (x.attached.getLsbD c.val = true) ∧ (opalLocked v f.io = false) ∧ (ioField v x f.io = none)) ∧
    (∃ (s : State) (c : CtlIx) (io : IoCmd) (n : Nat) (u v : State) (f : InFlight) (x : Namespace), (Live s) ∧ (ioStand s = .run) ∧ (startOk s c.val false 0x7D io.ns io.slba io.nlb = true) ∧ (takeNumber c.val false 0x7D io.ns io.slba io.nlb s = (n, u)) ∧ (f = { fseq := n, ctl := c.val, io := { io with kind := .append }, phase := .stalled, at_ := u.sys.ms }) ∧ (v = addLock { ns := io.ns, first := (ioRange u f.io).1, last := (ioRange u f.io).2, modify := ioModifies .append, fseq := n } u) ∧ (conflicts v { ns := io.ns, first := (ioRange u f.io).1, last := (ioRange u f.io).2, modify := ioModifies .append, fseq := n } = false) ∧ (nsGet v io.ns = some x) ∧ (x.attached.getLsbD c.val = true) ∧ (opalLocked v f.io = false) ∧ (ioField v x f.io = none)) ∧
    (∃ (s : State) (c : CtlIx) (ns slba n : Nat) (u : State) (v : Namespace), (Live s) ∧ (ioStand s = .run) ∧ (startOk s c.val false 0x7A ns slba 0 = true) ∧ (takeNumber c.val false 0x7A ns slba 0 s = (n, u)) ∧ (nsGet u ns = some v) ∧ (v.attached.getLsbD c.val = true) ∧ (v.zoned = true) ∧ (slba < nsBlocks v)) ∧
    (∃ (s : State) (c : CtlIx) (io : IoCmd) (n : Nat) (u v : State) (f : InFlight) (x : Namespace), (Live s) ∧ (ioStand s = .run) ∧ (startOk s c.val false 0x79 io.ns io.slba io.nlb = true) ∧ (takeNumber c.val false 0x79 io.ns io.slba io.nlb s = (n, u)) ∧ (f = { fseq := n, ctl := c.val, io := { io with kind := .zoneOpen }, phase := .stalled, at_ := u.sys.ms }) ∧ (v = addLock { ns := io.ns, first := (ioRange u f.io).1, last := (ioRange u f.io).2, modify := ioModifies .zoneOpen, fseq := n } u) ∧ (conflicts v { ns := io.ns, first := (ioRange u f.io).1, last := (ioRange u f.io).2, modify := ioModifies .zoneOpen, fseq := n } = false) ∧ (nsGet v io.ns = some x) ∧ (x.attached.getLsbD c.val = true) ∧ (opalLocked v f.io = false) ∧ (ioField v x f.io = none)) ∧
    (∃ (s : State) (c : CtlIx) (io : IoCmd) (n : Nat) (u v : State) (f : InFlight) (x : Namespace), (Live s) ∧ (ioStand s = .run) ∧ (startOk s c.val false 0x79 io.ns io.slba io.nlb = true) ∧ (takeNumber c.val false 0x79 io.ns io.slba io.nlb s = (n, u)) ∧ (f = { fseq := n, ctl := c.val, io := { io with kind := .zoneClose }, phase := .stalled, at_ := u.sys.ms }) ∧ (v = addLock { ns := io.ns, first := (ioRange u f.io).1, last := (ioRange u f.io).2, modify := ioModifies .zoneClose, fseq := n } u) ∧ (conflicts v { ns := io.ns, first := (ioRange u f.io).1, last := (ioRange u f.io).2, modify := ioModifies .zoneClose, fseq := n } = false) ∧ (nsGet v io.ns = some x) ∧ (x.attached.getLsbD c.val = true) ∧ (opalLocked v f.io = false) ∧ (ioField v x f.io = none)) ∧
    (∃ (s : State) (c : CtlIx) (io : IoCmd) (n : Nat) (u v : State) (f : InFlight) (x : Namespace), (Live s) ∧ (ioStand s = .run) ∧ (startOk s c.val false 0x79 io.ns io.slba io.nlb = true) ∧ (takeNumber c.val false 0x79 io.ns io.slba io.nlb s = (n, u)) ∧ (f = { fseq := n, ctl := c.val, io := { io with kind := .zoneFinish }, phase := .stalled, at_ := u.sys.ms }) ∧ (v = addLock { ns := io.ns, first := (ioRange u f.io).1, last := (ioRange u f.io).2, modify := ioModifies .zoneFinish, fseq := n } u) ∧ (conflicts v { ns := io.ns, first := (ioRange u f.io).1, last := (ioRange u f.io).2, modify := ioModifies .zoneFinish, fseq := n } = false) ∧ (nsGet v io.ns = some x) ∧ (x.attached.getLsbD c.val = true) ∧ (opalLocked v f.io = false) ∧ (ioField v x f.io = none)) ∧
    (∃ (s : State) (c : CtlIx) (io : IoCmd) (n : Nat) (u v : State) (f : InFlight) (x : Namespace), (Live s) ∧ (ioStand s = .run) ∧ (startOk s c.val false 0x79 io.ns io.slba io.nlb = true) ∧ (takeNumber c.val false 0x79 io.ns io.slba io.nlb s = (n, u)) ∧ (f = { fseq := n, ctl := c.val, io := { io with kind := .zoneReset }, phase := .stalled, at_ := u.sys.ms }) ∧ (v = addLock { ns := io.ns, first := (ioRange u f.io).1, last := (ioRange u f.io).2, modify := ioModifies .zoneReset, fseq := n } u) ∧ (conflicts v { ns := io.ns, first := (ioRange u f.io).1, last := (ioRange u f.io).2, modify := ioModifies .zoneReset, fseq := n } = false) ∧ (nsGet v io.ns = some x) ∧ (x.attached.getLsbD c.val = true) ∧ (opalLocked v f.io = false) ∧ (ioField v x f.io = none)) ∧
    (∃ (s : State) (c : CtlIx) (io : IoCmd) (n : Nat) (u v : State) (f : InFlight) (x : Namespace), (Live s) ∧ (ioStand s = .run) ∧ (startOk s c.val false 0x86 io.ns io.slba io.nlb = true) ∧ (takeNumber c.val false 0x86 io.ns io.slba io.nlb s = (n, u)) ∧ (f = { fseq := n, ctl := c.val, io := { io with kind := .fixity }, phase := .stalled, at_ := u.sys.ms }) ∧ (v = addLock { ns := io.ns, first := (ioRange u f.io).1, last := (ioRange u f.io).2, modify := ioModifies .fixity, fseq := n } u) ∧ (conflicts v { ns := io.ns, first := (ioRange u f.io).1, last := (ioRange u f.io).2, modify := ioModifies .fixity, fseq := n } = false) ∧ (nsGet v io.ns = some x) ∧ (x.attached.getLsbD c.val = true) ∧ (opalLocked v f.io = false) ∧ (ioField v x f.io = none)) ∧
    (∃ (s : State) (c : CtlIx) (io : IoCmd) (n : Nat) (u v : State) (f : InFlight) (x : Namespace), (Live s) ∧ (ioStand s = .run) ∧ (startOk s c.val false 0x8A io.ns io.slba io.nlb = true) ∧ (takeNumber c.val false 0x8A io.ns io.slba io.nlb s = (n, u)) ∧ (f = { fseq := n, ctl := c.val, io := { io with kind := .salvage }, phase := .stalled, at_ := u.sys.ms }) ∧ (v = addLock { ns := io.ns, first := (ioRange u f.io).1, last := (ioRange u f.io).2, modify := ioModifies .salvage, fseq := n } u) ∧ (conflicts v { ns := io.ns, first := (ioRange u f.io).1, last := (ioRange u f.io).2, modify := ioModifies .salvage, fseq := n } = false) ∧ (nsGet v io.ns = some x) ∧ (x.attached.getLsbD c.val = true) ∧ (opalLocked v f.io = false) ∧ (ioField v x f.io = none) ∧ (v.spn.hold = false)) :=
  ⟨⟨withNs hosted, 0, 1, _, _, by decide, by decide, by decide, rfl, by decide⟩,
   ⟨withNs hosted, 0, { anIo with data := [{ data := 0, app := 0, guardOk := true, refTag := 0 }] }, _, _, _, _, aNs, by decide, by decide, by decide, rfl, rfl, rfl, by decide +kernel⟩,
   ⟨withNs hosted, 0, { anIo with data := [] }, _, _, _, _, aNs, by decide, by decide, by decide, rfl, rfl, rfl, by decide +kernel⟩,
   ⟨withNs hosted, 0, { anIo with data := [{ data := 0, app := 0, guardOk := true, refTag := 0 }] }, _, _, _, _, aNs, by decide, by decide, by decide, rfl, rfl, rfl, by decide +kernel⟩,
   ⟨withNs hosted, 0, { anIo with data := [] }, _, _, _, _, aNs, by decide, by decide, by decide, rfl, rfl, rfl, by decide +kernel⟩,
   ⟨withNs hosted, 0, { anIo with data := [] }, _, _, _, _, aNs, by decide, by decide, by decide, rfl, rfl, rfl, by decide +kernel⟩,
   ⟨withNs hosted, 0, { anIo with data := [{ data := 0, app := 0, guardOk := true, refTag := 0 }] }, _, _, _, _, aNs, by decide, by decide, by decide, rfl, rfl, rfl, by decide +kernel⟩,
   ⟨withNs hosted, 0, 1, 0, _, _, aNs, by decide, by decide, by decide, rfl, by decide +kernel⟩,
   ⟨withNs hosted, 0, { anIo with data := [] }, _, _, _, _, aNs, by decide, by decide, by decide, rfl, rfl, rfl, by decide +kernel⟩,
   ⟨withNs hosted, 0, { anIo with data := [] }, _, _, _, _, aNs, by decide, by decide, by decide, rfl, rfl, rfl, by decide +kernel⟩,
   ⟨withNs hosted, 0, { anIo with data := [] }, _, _, _, _, aNs, by decide, by decide, by decide, rfl, rfl, rfl, by decide +kernel⟩,
   ⟨withNs hosted, 0, { anIo with data := [] }, _, _, _, _, aNs, by decide, by decide, by decide, rfl, rfl, rfl, by decide +kernel⟩,
   ⟨withNs hosted, 0, { anIo with data := [] }, _, _, _, _, aNs, by decide, by decide, by decide, rfl, rfl, rfl, by decide +kernel⟩,
   ⟨withNs hosted, 0, { anIo with data := [] }, _, _, _, _, aNs, by decide, by decide, by decide, rfl, rfl, rfl, by decide +kernel, by decide +kernel, by decide, by decide +kernel, by decide +kernel, rfl⟩⟩

theorem test_met_ManagementEndpointCompletes :
    (∃ (s : State) (kind : Nat), (Live s) ∧ (miUp s = true) ∧ (s.host.mi.paused = false)) ∧
    (∃ (s : State), (Live s) ∧ (miUp s = true) ∧ (s.host.mi.paused = false)) ∧
    (∃ (s : State) (cntid : Nat), (Live s) ∧ (miUp s = true) ∧ (s.host.mi.paused = false)) ∧
    (∃ (s : State) (id v : Nat), (Live s) ∧ (miUp s = true) ∧ (s.host.mi.paused = false)) ∧
    (∃ (s : State) (id : Nat), (Live s) ∧ (miUp s = true) ∧ (s.host.mi.paused = false)) ∧
    (∃ (s : State) (offset len : Nat), (Live s) ∧ (miUp s = true) ∧ (s.host.mi.paused = false)) ∧
    (∃ (s : State) (offset : Nat) (bs : List Byte), (Live s) ∧ (miUp s = true) ∧ (s.host.mi.paused = false)) ∧
    (∃ (s : State), (Live s) ∧ (miUp s = true) ∧ (s.host.mi.paused = false)) ∧
    (∃ (s : State), (Live s) ∧ (miUp s = true)) ∧
    (∃ (s : State), (Live s) ∧ (miUp s = true)) ∧
    (∃ (s : State), (Live s) ∧ (miUp s = true)) ∧
    (∃ (s : State), (Live s) ∧ (miUp s = true)) ∧
    (∃ (s : State) (r : List Nat), (Live s) ∧ (miUp s = true) ∧ (s.host.mi.last = some r)) ∧
    (∃ (s : State) (k : AdminCmd), (Live s) ∧ (miUp s = true) ∧ (s.host.mi.paused = false)) :=
  ⟨⟨hosted, 0, by decide⟩,
   ⟨hosted, by decide⟩,
   ⟨hosted, 0, by decide⟩,
   ⟨hosted, 0, 0, by decide⟩,
   ⟨hosted, 0, by decide⟩,
   ⟨hosted, 0, 4, by decide⟩,
   ⟨hosted, 0, [1], by decide⟩,
   ⟨hosted, by decide⟩,
   ⟨hosted, by decide⟩,
   ⟨hosted, by decide⟩,
   ⟨hosted, by decide⟩,
   ⟨hosted, by decide⟩,
   ⟨onHost (fun h => { h with mi := { h.mi with last := some [1] } }) hosted, [1], by decide⟩,
   ⟨hosted, .identify 1 0 0 0, by decide⟩⟩

theorem test_met_HostInterfaceEventsComplete :
    (∃ (s : State) (w : Word), (Live s)) ∧
    (∃ (s : State) (w : Word), (Live s) ∧ (ringBad s w = false)) ∧
    (∃ (s : State) (w : Word), (Live s) ∧ (s.hif.feFailed = 0)) ∧
    (∃ (s : State) (i : Fin 2), (Live s) ∧ (s.hif.feFailed.getLsbD i.val = false)) ∧
    (∃ (s : State) (c : CtlIx), (Live s) ∧ (portUsed s c = true) ∧ (s.sys.plActive = false) ∧ (s.sys.phase ≠ .dark) ∧ (s.hif.ctl[c].linkUp = true) ∧ (2 ≤ s.hif.ctl[c].width)) :=
  ⟨⟨live, 1, by decide⟩,
   ⟨live, 0, by decide⟩,
   ⟨live, 1, by decide⟩,
   ⟨live, 0, by decide⟩,
   ⟨onCtl (fun v => { v with width := 4 }) hosted, 0, by decide⟩⟩

theorem test_met_DmaCommandsComplete :
    (∃ (s : State) (n : ChanIx), (Live s) ∧ (s.dma.chan[n].state = .idle) ∧ (bitOf (dmaReg s.dma 0) 0 = true)) ∧
    (∃ (s : State) (n : ChanIx), (Live s) ∧ (s.dma.chan[n].state = .parked)) ∧
    (∃ (s : State) (n : ChanIx), (Live s) ∧ (s.dma.chan[n].state = .stopped) ∧ (s.dma.chan[n].code = 1)) ∧
    (∃ (s : State) (n : ChanIx), (Live s) ∧ (s.dma.chan[n].flag = false) ∧ (s.dma.chan[n].state ≠ .parked)) ∧
    (∃ (s : State), (Live s)) ∧
    (∃ (s : State) (n : ChanIx) (host : List Byte) (d : Desc), (Live s) ∧ (d = descAt s s.dma.chan[n].cur) ∧ (s.dma.chan[n].state = .running) ∧ (endsBad s d = false) ∧ (descSspace d ≠ 3) ∧ (descDspace d ≠ 3)) ∧
    (∃ (s : State) (n : ChanIx) (cause : BurstCause), (Live s) ∧ (s.dma.chan[n].state = .running) ∧ ((cause = .sram ∨ cause = .completer))) ∧
    (∃ (s : State) (n : ChanIx) (chan : Fin 2) (mirrored : Bool), (Live s) ∧ (s.dma.chan[n].state = .running)) ∧
    (∃ (s : State) (line : Nat) (host : List Byte), (Live s)) ∧
    (∃ (s : State) (e : Fin 256), (Live s)) ∧
    (∃ (s : State) (t : Fin 8), (Live s) ∧ (bitOf (dmaReg s.dma (0x20 + 4 * t.val)) 31 = true)) :=
  ⟨⟨dmaOn, 0, by decide⟩,
   ⟨onChan (fun c => { c with state := .parked }) dmaOn, 0, by decide⟩,
   ⟨onChan (fun c => { c with state := .stopped, code := 1 }) dmaOn, 0, by decide⟩,
   ⟨dmaOn, 0, by decide⟩,
   ⟨live, by decide⟩,
   ⟨onChan (fun c => { c with state := .running, cur := 0x10000000 }) { dmaOn with mem := [(0x10000000 + 7, 0x10), (0x10000000 + 15, 0x10)] }, 0, [], _, by decide, rfl, by decide +kernel⟩,
   ⟨onChan (fun c => { c with state := .running }) dmaOn, 0, .sram, by decide, by decide, .inl rfl⟩,
   ⟨onChan (fun c => { c with state := .running }) dmaOn, 0, 0, true, by decide⟩,
   ⟨live, 0, [], by decide⟩,
   ⟨live, 0, by decide⟩,
   ⟨{ live with dma := { live.dma with regs := regSet dmaRows live.dma.regs 0x20 0x80000000 } }, 0, by decide⟩⟩

theorem test_met_PowerCommandsComplete :
    (∃ (s : State) (w : Word), (Live s) ∧ (s.pwr.req = none) ∧ (fld w 9 8 = 0) ∧ (fld w 4 0 < 25) ∧ (s.dma.quiesce ≠ some (fld w 4 0)) ∧ (domState s (fld w 4 0) ≠ .on) ∧ (orderBad s (fld w 4 0) .on = false)) ∧
    (∃ (s : State) (q : DomReq), (Live s) ∧ (s.pwr.req = some q) ∧ (q.final = false) ∧ (s.dma.quiesce = some q.dom.val)) ∧
    (∃ (s : State) (stopped : BitVec 64) (q : DomReq), (Live s) ∧ (s.pwr.req = some q) ∧ (q.final = false) ∧ (s.dma.quiesce = some q.dom.val)) ∧
    (∃ (s : State) (m : BitVec 36), (Live s) ∧ (((List.range 36).any fun k => decide (roleOf s.flt k = .resident) && !coreHalted { s with pwr := { s.pwr with haltReq := m } } k) = true)) ∧
    (∃ (s : State) (w : Word), (Live s) ∧ (1 ≤ fld w 2 0) ∧ (fld w 2 0 ≤ 5)) ∧
    (∃ (s : State) (k : Nat), (Live s) ∧ (k ≤ 365)) ∧
    (∃ (s : State) (l : LaneIx), (Live s) ∧ (s.pwr.psTarget = none) ∧ ((serveWaiting (laneNeeds l s)).pwr.psTarget = none)) ∧
    (∃ (s : State) (p : Fin 5), (Live s) ∧ ((feature s 0x0C).testBit 0 = true) ∧ ((s.arr.zones.any fun z => (List.range z.2.place.length).any fun p => posGone s z.2 p && (posTarget z.2 p).isSome) = false) ∧ (((s.arr.reshape.map fun r => r.copying.isSome).getD false) = false) ∧ (((s.host.fw.activation.map fun a => a.holding).getD false) = false) ∧ (s.sys.phase = .ready) ∧ (s.sys.plActive = false) ∧ (s.pwr.psTarget = none) ∧ (s.host.pmWait = []) ∧ (apstTarget s = some p)) :=
  ⟨⟨onPwrOff live, 12, by decide⟩,
   ⟨{ live with pwr := { live.pwr with req := some aDomReq }, dma := { live.dma with quiesce := some 12 } }, aDomReq, by decide⟩,
   ⟨{ live with pwr := { live.pwr with req := some aDomReq }, dma := { live.dma with quiesce := some 12 } }, 0, aDomReq, by decide⟩,
   ⟨clustersOn, 0, by decide +kernel⟩,
   ⟨live, 2, by decide⟩,
   ⟨live, 300, by decide⟩,
   ⟨live, 0, by decide⟩,
   ⟨apstState, 3, by decide +kernel⟩⟩

theorem test_met_HardwareQueueCommandsComplete :
    (∃ (s : State) (w : Word), (Live s) ∧ (bitOf (w ||| 1#32) 0 = true) ∧ (bitOf (w ||| 1#32) 1 = false) ∧ (bitOf (w ||| 1#32) 2 = false) ∧ (bitOf (w ||| 1#32) 3 = false)) ∧
    (∃ (s : State) (w : Word), (Live s) ∧ (bitOf (w ||| 2#32) 0 = false) ∧ (bitOf (w ||| 2#32) 1 = true) ∧ (bitOf (w ||| 2#32) 2 = false) ∧ (bitOf (w ||| 2#32) 3 = false) ∧ ((ringAt s (selRing s)).packets = [])) ∧
    (∃ (s : State) (w : Word), (Live s) ∧ (bitOf (w ||| 4#32) 0 = false) ∧ (bitOf (w ||| 4#32) 1 = false) ∧ (bitOf (w ||| 4#32) 2 = true) ∧ (bitOf (w ||| 4#32) 3 = false)) ∧
    (∃ (s : State) (w : Word), (Live s) ∧ (bitOf (w ||| 8#32) 0 = false) ∧ (bitOf (w ||| 8#32) 1 = false) ∧ (bitOf (w ||| 8#32) 2 = false) ∧ (bitOf (w ||| 8#32) 3 = true)) ∧
    (∃ (s : State) (q : Requester), (Live s) ∧ (isStalled s (reqNum q) = false) ∧ ((hqmPort s (reqNum q)).openIn = none) ∧ ((ringAt s (hqmPort s (reqNum q)).prodRing).enabled = true) ∧ (openCount (ringAt s (hqmPort s (reqNum q)).prodRing) < 8)) ∧
    (∃ (s : State) (q : Requester) (d3 : Word) (r : Nat), (Live s) ∧ ((hqmPort s (reqNum q)).openIn = some r) ∧ (isStalled s (reqNum q) = false) ∧ ((hqmPort s (reqNum q)).lost = false) ∧ ((hqmPort s (reqNum q)).written < bodyLimit (ringAt s r))) ∧
    (∃ (s : State) (q : Requester) (w : Word) (r : Nat), (Live s) ∧ ((hqmPort s (reqNum q)).openIn = some r) ∧ (isStalled s (reqNum q) = false) ∧ ((hqmPort s (reqNum q)).lost = false) ∧ (((ringAt s r).packets.any fun k => (decide (k.owner = reqNum q) && k.isOpen) && k.excess) = false) ∧ (((ringAt s r).packets.any fun k => (decide (k.owner = reqNum q) && k.isOpen) && k.marked) = false) ∧ (fld w 11 0 = (hqmPort s (reqNum q)).written)) ∧
    (∃ (s : State) (q : Requester) (k : Packet), (Live s) ∧ (isStalled s (reqNum q) = false) ∧ (readPacket s (hqmPort s (reqNum q)) = some k)) ∧
    (∃ (s : State) (q : Requester), (Live s) ∧ (isStalled s (reqNum q) = false) ∧ (readPacket s (hqmPort s (reqNum q)) = none) ∧ ((ringAt s (hqmPort s (reqNum q)).consRing).enabled = true)) ∧
    (∃ (s : State) (q : Requester) (k : Packet), (Live s) ∧ (isStalled s (reqNum q) = false) ∧ (readPacket s (hqmPort s (reqNum q)) = some k) ∧ ((hqmPort s (reqNum q)).nextSlot + 1 < packetSlots k - 1)) ∧
    (∃ (s : State) (q : Requester), (Live s) ∧ (isStalled s (reqNum q) = false)) ∧
    (∃ (s : State) (c : CoreIx), (Live s) ∧ (fld (hqmReg s.hqm 0) 15 0 ≠ 0) ∧ (isStalled s c.val = true)) :=
  ⟨⟨live, 0, by decide⟩,
   ⟨live, 0, by decide⟩,
   ⟨live, 0, by decide⟩,
   ⟨live, 0, by decide⟩,
   ⟨ringOn, .core 0, by decide⟩,
   ⟨portOpen, .core 0, 5, 0, by decide⟩,
   ⟨portOpen, .core 0, 0, 0, by decide⟩,
   ⟨portReading, .core 0, aPacket, by decide⟩,
   ⟨ringOn, .core 0, by decide⟩,
   ⟨portReading, .core 0, aPacket, by decide⟩,
   ⟨portReading, .core 0, by decide⟩,
   ⟨{ live with hqm := { live.hqm with regs := regSet hqmRows live.hqm.regs 0 100, stalls := [(0, 0, .opening)] } }, 0, by decide⟩⟩

theorem test_met_CapturePortComplete :
    (∃ (s : State) (f : CapFrame), (Live s) ∧ (bitOf (capReg s.cap 0) 0 = true) ∧ (bitOf (capReg s.cap 0) 1 = true) ∧ (f.cut = false) ∧ (f.body.length = 4 * fld f.h0 11 0) ∧ (fld f.h0 11 0 ≤ bodyLimit (ringAt s (capRing s))) ∧ (postFits (ringAt s (capRing s)) f.body = true)) ∧
    (∃ (s : State) (l : LaneIx) (rd : Fin 16) (mark : Word) (codes : List Word), (Live s) ∧ (bitOf (capReg s.cap 0) 0 = true) ∧ (bitOf (capReg s.cap 0) 1 = false) ∧ (bitOf (capReg s.cap 8) l.val = true)) ∧
    (∃ (s : State) (l : LaneIx) (revs : Word) (x : TraceRec) (rest : List TraceRec), (Live s) ∧ (bitOf (capReg s.cap 0) 0 = true) ∧ (bitOf (capReg s.cap 0) 1 = false) ∧ (s.lane[l].row.traces = x :: rest) ∧ (bitOf (capReg s.cap 8) 16 = true) ∧ (x.kind = 3)) ∧
    (∃ (s : State) (w : Word), (Live s) ∧ (bitOf (capReg s.cap 0) 0 = false) ∧ (bitOf w 0 = true) ∧ (fld (ringAt s (fld w 29 16)).wm 31 16 + fld (capReg s.cap 4) 15 8 ≤ ringSize (ringAt s (fld w 29 16)))) :=
  ⟨⟨{ ringOn with cap := { ringOn.cap with regs := regSet capRows ringOn.cap.regs 0 3 } }, { h0 := 0, h1 := 0, h2 := 0, h3 := 0, body := [], cut := false }, by decide⟩,
   ⟨{ ringOn with cap := { ringOn.cap with regs := regSet capRows (regSet capRows ringOn.cap.regs 0 1) 8 1 } }, 0, 0, 0, [], by decide⟩,
   ⟨onRow (fun r => { r with traces := [{ kind := 3, tag := 0, pc := 0, mark := 0, slot := 0 }] }) { ringOn with cap := { ringOn.cap with regs := regSet capRows (regSet capRows ringOn.cap.regs 0 1) 8 0x10000 } }, 0, 0, { kind := 3, tag := 0, pc := 0, mark := 0, slot := 0 }, [], by decide⟩,
   ⟨ringOn, 1, by decide⟩⟩

theorem test_met_FaultsComplete :
    (∃ (s : State) (k : SrcIx), (Live s) ∧ ((108 ≤ k.val ∨ k.val % 3 = 2)) ∧ (k.val ∉ [129, 130, 133, 134])) ∧
    (∃ (s : State) (k : Fin 20) (w : Word) (hook : Bool), (Live s)) ∧
    (∃ (s : State) (r : Requester) (w : Word), (Live s) ∧ (isHook s r = false)) ∧
    (∃ (s : State) (w : Word), (Live s) ∧ (fld w 5 0 ≤ 35)) ∧
    (∃ (s : State), (Live s) ∧ (s.flt.chipReq = true) ∧ (s.flt.warm = false)) ∧
    (∃ (s : State) (pages : Nat) (slotOk : Vector Bool 2), (Live s) ∧ (s.flt.warm = true)) ∧
    (∃ (s : State) (c : CoreIx), (Live s)) ∧
    (∃ (s : State) (c : CoreIx), (Live s) ∧ (s.flt.role[c] ≠ .failed) ∧ ((((c.val, s.sys.ms) :: s.flt.coreFails.filter fun e => decide (s.sys.ms ≤ e.2 + 1000)).filter fun e => decide (e.1 / 12 = c.val / 12)).length < 3)) ∧
    (∃ (s : State) (cluster : Fin 3), (Live s) ∧ (s.flt.clusterFailed.getLsbD cluster.val = false)) ∧
    (∃ (s : State) (l : LaneIx) (c : LaneCause), (Live s) ∧ (laneFailHolds s l c = true) ∧ (laneBind s.flt l.val = 4)) ∧
    (∃ (s : State) (l : LaneIx), (Live s) ∧ (2 ≤ (s.flt.rungOne[l]).length) ∧ (laneIdle s l = true)) :=
  ⟨⟨live, 150, by decide⟩,
   ⟨live, 0, 1, false, by decide⟩,
   ⟨live, .core 0, 1, by decide⟩,
   ⟨live, 3, by decide⟩,
   ⟨onFlt (fun f => { f with chipReq := true }) live, by decide⟩,
   ⟨onFlt (fun f => { f with warm := true }) live, 0, Vector.replicate 2 true, by decide⟩,
   ⟨live, 0, by decide⟩,
   ⟨live, 0, by decide⟩,
   ⟨live, 0, by decide⟩,
   ⟨live, 4, .loopback, by decide⟩,
   ⟨onFlt (fun f => { f with rungOne := f.rungOne.set 0 [1, 2] }) live, 0, by decide⟩⟩

theorem test_met_BindingCommandsComplete :
    (∃ (s : State) (w : Word), (Live s) ∧ (mapBad s.flt.laneMap w = false) ∧ (((List.finRange 5).any fun l => decide (bindField w l.val ≠ bindField s.flt.laneMap l.val ∧ bindField w l.val ≠ 5) && rowRuns s.lane[l]) = false) ∧ (newlyFailed s.flt.laneMap w = 0)) ∧
    (∃ (s : State) (a : ActIx), (Live s) ∧ (s.sys.mux[a].waiting = true) ∧ (wgate s (laneOn s a) = false) ∧ ((muxFollow a false s).lane[(4 : LaneIx)].row.startPend = false)) ∧
    (∃ (s : State) (w : Word), (Live s) ∧ (mapBad s.flt.srvMap w = false) ∧ (s.sys.unloadLow = true)) ∧
    (∃ (s : State) (cluster : Fin 3) (w : Word), (Live s)) ∧
    (∃ (s : State) (w : Word), (Live s) ∧ (bitOf (w ||| 1#32) 0 = true) ∧ (bitOf (w ||| 1#32) 1 = false) ∧ (commitBad s.flt.role s.flt.staged = false)) ∧
    (∃ (s : State) (w : Word), (Live s) ∧ (bitOf (w ||| 2#32) 0 = false) ∧ (bitOf (w ||| 2#32) 1 = true)) :=
  ⟨⟨live, 0x4688, by decide⟩,
   ⟨onSys (fun x => { x with mux := x.mux.set 0 { x.mux[0] with waiting := true } }) live, 0, by decide⟩,
   ⟨onSys (fun x => { x with unloadLow := true }) live, 0x4688, by decide⟩,
   ⟨live, 0, 0, by decide⟩,
   ⟨live, 0, by decide⟩,
   ⟨live, 0, by decide⟩⟩

set_option maxRecDepth 100000 in
theorem test_met_InjectionAndMemoryErrorsComplete :
    (∃ (s : State), (Live s) ∧ (bitOf s.sys.strap 7 = true) ∧ (s.flt.injOpen = false)) ∧
    (∃ (s : State), (Live s) ∧ (s.flt.injOpen = true) ∧ (srcReserved (fld (injArg s) 9 0) = false) ∧ (fld (injArg s) 9 0 < 640)) ∧
    (∃ (s : State), (Live s) ∧ (s.flt.injOpen = true) ∧ (fld (injArg s) 3 0 < 10)) ∧
    (∃ (s : State), (Live s) ∧ (s.flt.injOpen = true) ∧ (fld (injArg s) 3 0 < 10)) ∧
    (∃ (s : State) (l : LaneIx), (Live s) ∧ (s.flt.injOpen = true) ∧ (fld (injArg s) 2 0 = l.val)) ∧
    (∃ (s : State) (e : EngIx), (Live s) ∧ (s.flt.injOpen = true) ∧ (fld (injArg s) 2 0 = e.val)) ∧
    (∃ (s : State), (Live s) ∧ (s.flt.injOpen = true)) ∧
    (∃ (s : State) (p : ActIx), (Live s) ∧ (s.flt.injOpen = true) ∧ (fld (injArg s) 1 0 % 4 = p.val)) ∧
    (∃ (s : State), (Live s) ∧ (s.flt.injOpen = true)) ∧
    (∃ (s : State) (es : List CorrectedRow), (Live s)) ∧
    (∃ (s : State) (x : SramWord), (Live s) ∧ (s.flt.armed.contains (3, (sramRegion x).val) = false) ∧ (x = .sab) ∧ (spareInUse s.flt (sramRegion x).val < spareTotal (sramRegion x).val)) ∧
    (∃ (s : State) (chan : Fin 2), (Live s) ∧ ((raise (srcRld chan.val 2) s).flt.rldFailed.getLsbD chan.val = false)) :=
  ⟨⟨onSys (fun x => { x with strap := 0x80 }) live, by decide⟩,
   ⟨openWith 150, by decide⟩,
   ⟨openWith 1, by decide⟩,
   ⟨openWith 1, by decide⟩,
   ⟨openWith 0, 0, by decide⟩,
   ⟨openWith 0, 0, by decide⟩,
   ⟨openWith 0, by decide⟩,
   ⟨openWith 0, 0, by decide⟩,
   ⟨openWith 0, by decide⟩,
   ⟨live, [], by decide⟩,
   ⟨live, .sab, by decide⟩,
   ⟨live, 0, by decide +kernel⟩⟩

theorem test_met_RecorderCommandsComplete :
    (∃ (s : State) (g : Fin 256) (inst : Nat) (v : Int), (Live s) ∧ (inst < stcInstances g.val) ∧ (stcExtremeOf g.val inst = none) ∧ (g.val ≠ 9) ∧ (g.val ≠ 5) ∧ (keyGet s.stc.live.hist (stcKey g.val inst (stcBin g.val inst v)) 0 < 2 ^ 48 - 1)) ∧
    (∃ (s : State) (junction thermistor : Int), (Live s)) ∧
    (∃ (s : State), (Live s)) ∧
    (∃ (s : State) (g : Fin 256), (Live s) ∧ ((g.val = 0xFF ∨ (1 ≤ g.val ∧ g.val ≤ 10)))) ∧
    (∃ (s : State), (Live s) ∧ (fld (stcReg s.stc 0x18) 15 0 ≠ 0) ∧ (fld (stcReg s.stc 0x18) 15 0 ≠ 0xFFFF)) ∧
    (∃ (s : State), (Live s) ∧ (s.stc.write = none)) ∧
    (∃ (s : State) (flashStatus : Word) (w : StcWrite), (Live s) ∧ (s.stc.write = some w) ∧ (w.again = false)) ∧
    (∃ (s : State) (w : Word), (Live s) ∧ (bitOf (w ||| 0x100#32) 0 = false)) ∧
    (∃ (s : State) (c : CoreIx) (g : Option (Fin 256)), (Live s)) ∧
    (∃ (s : State) (c : CoreIx), (Live s) ∧ (stcAtEnd s.stc.core[c].group s.stc.core[c].cur = false)) :=
  ⟨⟨live, 2, 0, 3, by decide⟩,
   ⟨live, 30, 30, by decide⟩,
   ⟨live, by decide⟩,
   ⟨live, 1, by decide⟩,
   ⟨{ live with stc := { live.stc with regs := regSet stcRows live.stc.regs 0x18 0x8000 } }, by decide⟩,
   ⟨live, by decide⟩,
   ⟨{ live with stc := { live.stc with write := some aWrite } }, 0, aWrite, by decide⟩,
   ⟨live, 0, by decide⟩,
   ⟨live, 0, some 1, by decide⟩,
   ⟨live, 0, by decide⟩⟩

theorem test_met_LateLinkAndBusEventsComplete :
    (∃ (s : State) (h : Fin 2) (yofs : Nat), (Live s) ∧ (s.yck.running = true) ∧ (yarnFit s.yck h = true) ∧ (s.yck.head[h].locked = false)) ∧
    (∃ (s : State) (c : CtlIx) (width rate : Nat), (Live s) ∧ (portUsed s c = true) ∧ (s.sys.plActive = false) ∧ (s.sys.phase ≠ .dark) ∧ (s.hif.ctl[c].linkUp = false) ∧ (s.hif.ctl[c].perst = false) ∧ ((width = 1 ∨ width = 2)) ∧ (1 ≤ rate) ∧ (rate ≤ 5)) ∧
    (∃ (s : State) (c : CtlIx), (Live s) ∧ (portUsed s c = true) ∧ (s.sys.plActive = false) ∧ (s.sys.phase ≠ .dark) ∧ (s.hif.ctl[c].l12 = true)) ∧
    (∃ (s : State) (dest : Nat), (Live s) ∧ (miUp s = true) ∧ (i3cBus s = false) ∧ (dest = mgmtAddress s)) ∧
    (∃ (s : State) (address : Nat), (Live s) ∧ (miUp s = true) ∧ (i3cBus s = true) ∧ (address < 128)) ∧
    (∃ (s : State) (sa address : Nat), (Live s) ∧ (miUp s = true) ∧ (i3cBus s = true) ∧ (address < 128) ∧ (sa = mgmtAddress s) ∧ (s.host.mi.dynamic = none)) ∧
    (∃ (s : State) (r : CalRequest), (Live s) ∧ ((s.arr.calReqs.find? fun r => !calAllowed s r.member && decide (r.poh + 86400 ≤ s.stc.pos)) = some r)) :=
  ⟨⟨onYck (fun y => { y with running := true, regs := regSet yckRows y.regs 0 0x30 }) live, 0, 3, by decide⟩,
   ⟨onCtl (fun v => { v with linkUp := false }) hosted, 0, 1, 5, by decide⟩,
   ⟨onCtl (fun v => { v with l12 := true }) hosted, 0, by decide⟩,
   ⟨hosted, _, by decide, by decide, by decide, rfl⟩,
   ⟨i3cState, 5, by decide⟩,
   ⟨i3cState, _, 5, by decide, by decide, by decide, by decide, rfl, by decide⟩,
   ⟨calState, aCal, by decide +kernel⟩⟩

theorem test_met_RowWordNextPlaces :
    (∃ (s : State) (l : LaneIx) (x : RowSymbol) (v : BitVec 144), (Live s) ∧ (v = rowFetch s.lane[l].row s.lane[l].row.pc) ∧ (s.lane[l].row.state = .running) ∧ (s.lane[l].row.acted = false) ∧ (badQuarters v = 0) ∧ (wf v 142 140 = 0) ∧ (wf v 112 112 = 0) ∧ (wordFault s l v x (rowCond s l v x) = none) ∧ (spanStarts s l x.sym = false) ∧ (wf v 113 113 = 0) ∧ (wf v 55 52 ≠ 1) ∧ (wf v 88 86 = 0) ∧ ((custAddr s.lane[l].row.pc || s.lane[l].row.inCust) = false)) ∧
    (∃ (s : State) (l : LaneIx) (x : RowSymbol) (v : BitVec 144), (Live s) ∧ (v = rowFetch s.lane[l].row s.lane[l].row.pc) ∧ (s.lane[l].row.state = .running) ∧ (s.lane[l].row.acted = false) ∧ (badQuarters v = 0) ∧ (wf v 142 140 = 1) ∧ (wf v 112 112 = 0) ∧ (wordFault s l v x (rowCond s l v x) = none) ∧ (spanStarts s l x.sym = false) ∧ (wf v 113 113 = 0) ∧ (wf v 55 52 ≠ 1) ∧ (wf v 88 86 = 0) ∧ ((custAddr s.lane[l].row.pc || s.lane[l].row.inCust) = false)) ∧
    (∃ (s : State) (l : LaneIx) (x : RowSymbol) (v : BitVec 144), (Live s) ∧ (v = rowFetch s.lane[l].row s.lane[l].row.pc) ∧ (s.lane[l].row.state = .running) ∧ (s.lane[l].row.acted = false) ∧ (badQuarters v = 0) ∧ (wf v 142 140 = 2) ∧ (wf v 112 112 = 0) ∧ (wordFault s l v x (rowCond s l v x) = none) ∧ (spanStarts s l x.sym = false) ∧ (wf v 113 113 = 0) ∧ (wf v 55 52 ≠ 1) ∧ (wf v 88 86 = 0) ∧ ((custAddr s.lane[l].row.pc || s.lane[l].row.inCust) = false)) ∧
    (∃ (s : State) (l : LaneIx) (x : RowSymbol) (v : BitVec 144), (Live s) ∧ (v = rowFetch s.lane[l].row s.lane[l].row.pc) ∧ (s.lane[l].row.state = .running) ∧ (s.lane[l].row.acted = false) ∧ (badQuarters v = 0) ∧ (wf v 142 140 = 3) ∧ (wf v 112 112 = 0) ∧ (wordFault s l v x (rowCond s l v x) = none) ∧ (spanStarts s l x.sym = false) ∧ (wf v 113 113 = 0) ∧ (wf v 55 52 ≠ 1) ∧ (wf v 88 86 = 0) ∧ ((custAddr s.lane[l].row.pc || s.lane[l].row.inCust) = false)) ∧
    (∃ (s : State) (l : LaneIx) (x : RowSymbol) (v : BitVec 144), (Live s) ∧ (v = rowFetch s.lane[l].row s.lane[l].row.pc) ∧ (s.lane[l].row.state = .running) ∧ (s.lane[l].row.acted = false) ∧ (badQuarters v = 0) ∧ (wf v 142 140 = 5) ∧ (wf v 112 112 = 0) ∧ (wordFault s l v x (rowCond s l v x) = none) ∧ (spanStarts s l x.sym = false) ∧ (wf v 113 113 = 0) ∧ (wf v 55 52 ≠ 1) ∧ (wf v 88 86 = 0) ∧ ((custAddr s.lane[l].row.pc || s.lane[l].row.inCust) = false)) ∧
    (∃ (s : State) (l : LaneIx) (x : RowSymbol) (v : BitVec 144), (Live s) ∧ (v = rowFetch s.lane[l].row s.lane[l].row.pc) ∧ (s.lane[l].row.state = .running) ∧ (s.lane[l].row.acted = false) ∧ (badQuarters v = 0) ∧ (wf v 142 140 = 6) ∧ (wf v 112 112 = 0) ∧ (wordFault s l v x (rowCond s l v x) = none) ∧ (spanStarts s l x.sym = false) ∧ (wf v 113 113 = 0) ∧ (wf v 55 52 ≠ 1) ∧ (wf v 88 86 = 0) ∧ ((custAddr s.lane[l].row.pc || s.lane[l].row.inCust) = false)) ∧
    (∃ (s : State) (l : LaneIx) (x : RowSymbol) (v : BitVec 144), (Live s) ∧ (v = rowFetch s.lane[l].row s.lane[l].row.pc) ∧ (s.lane[l].row.state = .running) ∧ (s.lane[l].row.acted = false) ∧ (badQuarters v = 0) ∧ (wf v 142 140 = 7) ∧ (wf v 112 112 = 0) ∧ (wordFault s l v x (rowCond s l v x) = none) ∧ (spanStarts s l x.sym = false) ∧ (wf v 113 113 = 0) ∧ (wf v 55 52 ≠ 1) ∧ (wf v 88 86 = 0) ∧ ((custAddr s.lane[l].row.pc || s.lane[l].row.inCust) = false) ∧ (rowCond s l v x = true)) :=
  ⟨⟨rowState 0 1, 0, quietSymbol, _, by decide, rfl, by decide +kernel⟩,
   ⟨rowState 1 0, 0, quietSymbol, _, by decide, rfl, by decide +kernel⟩,
   ⟨rowState 2 0, 0, quietSymbol, _, by decide, rfl, by decide +kernel⟩,
   ⟨rowState 3 1, 0, quietSymbol, _, by decide, rfl, by decide +kernel⟩,
   ⟨rowState 5 1, 0, quietSymbol, _, by decide, rfl, by decide +kernel⟩,
   ⟨rowState 6 1, 0, quietSymbol, _, by decide, rfl, by decide +kernel⟩,
   ⟨rowState 7 0, 0, quietSymbol, _, by decide, rfl, by decide +kernel⟩⟩

theorem test_met_StepRunsTheFrontCommand :
    (∃ (s : State) (c : Instr) (q : List Instr), s.pending = c :: q) :=
  ⟨{ State.reset with pending := [.lockedRotor] }, .lockedRotor, [], rfl⟩

theorem test_met_EmptyQueueIdles :
    (∃ (s : State), s.pending = []) :=
  ⟨State.reset, rfl⟩

theorem test_met_EveryStepKeepsTheInvariant :
    (∃ (s : State) (t : State), Inv s ∧ step s = .next t) :=
  ⟨State.reset, capSend State.reset, rfl, rfl⟩

theorem test_met_AStepTakesOneCommand :
    (∃ (s : State) (t : State), step s = .next t) :=
  ⟨State.reset, capSend State.reset, rfl⟩

theorem test_met_PowerlossIsLeftOnlyByAReset :
    (∃ (s : State) (c : Instr) (t : State), isDeviceReset c = false ∧ exec c s = .next t) :=
  ⟨State.reset, .lockedRotor, State.reset, rfl, rfl⟩

theorem test_met_EveryCommandChangesOnlyItsParts :
    (∃ (s : State) (c : Instr) (t : State), exec c s = .next t) :=
  ⟨State.reset, .lockedRotor, _, rfl⟩

theorem test_met_BindingsChangeOnlyByTheirCommands :
    (∃ (s : State) (c : Instr) (t : State), mayRebind c = false ∧ exec c s = .next t) :=
  ⟨State.reset, .lockedRotor, _, rfl, rfl⟩

theorem test_met_NothingActsInReset :
    (∃ (s : State) (c : Instr), s.sys.inReset = true ∧ actsInReset c = false) :=
  ⟨{ State.reset with sys := { State.reset.sys with inReset := true } }, .lockedRotor, rfl, rfl⟩

theorem test_met_HookCoresReachOnlyTheirPartition :
    (∃ (s : State) (c : CoreIx) (x : Access), Live s ∧ x.who = .core c ∧ s.flt.role[c] = .hook ∧ hookReach s c x = false) ∧
    (∃ (s : State) (c : CoreIx) (a : Nat) (w : Word), Live s ∧ s.flt.role[c] = .hook ∧ hookReach s c { who := .core c, addr := a, bytes := 4, write := some w } = false) ∧
    (∃ (s : State) (c : CoreIx) (a : Nat), Live s ∧ s.flt.role[c] = .hook ∧ hookReach s c { who := .core c, addr := a, bytes := 4, write := none } = false) ∧
    (∃ (a : Nat), 0x20000F00 ≤ a ∧ a < 0x20000F20) :=
  ⟨⟨live, 10, { who := .core 10, addr := 0x20300000, bytes := 4, write := some 0 }, rfl, rfl, by decide +kernel⟩,
   ⟨live, 10, 0x20300000, 0, rfl, by decide +kernel⟩,
   ⟨live, 10, 0x20300000, rfl, by decide +kernel⟩,
   ⟨0x20000F1C, by decide⟩⟩

theorem test_met_AMisalignedAccessDoesNothing :
    (∃ (s : State) (e : Nat) (x : Access) (b : Blk) (off : Nat), Live s ∧ x.who = .engine e ∧ regionAt x.addr = .reg b off ∧ domState s (regDom b off) = .on ∧ rldDown s x.addr = false ∧ (x.bytes ≠ 4 ∨ x.addr % 4 ≠ 0)) ∧
    (∃ (s : State) (x : Access) (b : Blk) (off : Nat), accessFault s x = none ∧ regionAt x.addr = .reg b off) :=
  ⟨⟨live, 0, { who := .engine 0, addr := 0x20000001, bytes := 4, write := none }, .flt, 1, rfl, rfl, by decide +kernel⟩,
   ⟨live, { who := .engine 0, addr := 0x20000000, bytes := 4, write := none }, .flt, 0, by decide +kernel⟩⟩

theorem test_met_SixtyFourBitPairs :
    (∃ (s : State) (q : Requester) (a : Nat) (off : Nat) (b : Blk), Live s ∧ accessFault s { who := q, addr := a, bytes := 4, write := none } = none ∧ regionAt a = .reg b off ∧ regionAt (a + 4) = .reg b (off + 4) ∧ pairOf b off = some off ∧ pairOf b (off + 4) = some off) ∧
    (∃ (s : State) (q : Requester) (a : Nat) (off : Nat) (b : Blk) (hi : Word), Live s ∧ accessFault s { who := q, addr := a + 4, bytes := 4, write := some hi } = none ∧ regionAt a = .reg b off ∧ regionAt (a + 4) = .reg b (off + 4) ∧ pairOf b off = some off ∧ pairOf b (off + 4) = some off ∧ ¬ (b = .dma ∧ off = 0x10 ∧ isHook s q = true)) :=
  ⟨⟨live, .engine 0, 0x20021008, 0x1008, .dma, rfl, by decide +kernel⟩,
   ⟨live, .engine 0, 0x20021008, 0x1008, .dma, 7, rfl, by decide +kernel⟩⟩

theorem test_met_AStoreReachesItsBytesAlone :
    (∃ (s : State) (q : Requester) (a : Nat) (w : Word), Live s ∧ Inv s ∧ accessFault s { who := q, addr := a, bytes := 4, write := some w } = none ∧ (∀ b off, regionAt a ≠ .reg b off)) :=
  ⟨live, .engine 0, 0x10000000, 5, rfl, rfl, by decide, by intro b off e; exact absurd (e.symm.trans (by decide : regionAt 0x10000000 = .sab)) (by intro h; cases h)⟩

set_option maxRecDepth 100000 in
theorem test_met_AcknowledgementClearsWhatWasPending :
    (∃ (s : State) (k : Fin 20) (w : Word) (hook : Bool) (arriving : List SrcIx) (n : SrcIx), Live s ∧ n ∈ arriving ∧ (s.flt.pend.getLsbD n.val = true ∨ (srcReserved n.val = false ∧ bitOf (srcCfg s.flt n.val) 9 = true))) :=
  ⟨live, 0, 1, false, [0], 0, rfl, List.mem_singleton.mpr rfl, by decide⟩

theorem test_met_AnEntryAfterAClearIsCounted :
    (∃ (s : State) (g : Fin 256) (inst : Nat) (v : Int), Live s ∧ 1 ≤ g.val ∧ g.val ≤ 10 ∧ inst < stcInstances g.val) :=
  ⟨live, 2, 0, 3, rfl, by decide +kernel⟩

theorem test_met_DataBitsLieInTheirRegion :
    (∃ (div : Nat) (bw : Nat) (pw : Nat), 0 < pw ∧ 0 < dataRegion bw (servoSpan div bw pw)) :=
  ⟨4, 38892, 9260, by decide⟩

theorem test_met_AccessesFollowTheAddressMap :
    (∃ (s : State) (q : Requester) (a : Nat) (w : Word), Live s ∧ Inv s ∧ isHook s q = false ∧ 0x10000000 ≤ a ∧ a + 4 ≤ 0x11000000) ∧
    (∃ (s : State) (q : Requester) (w : Word), Live s ∧ isHook s q = false ∧ domState s 0 = .on ∧ fld w 5 0 ≤ 35) ∧
    (∃ (s : State) (x : Access) (b : Blk) (off : Nat), Live s ∧ isHook s x.who = false ∧ regionAt x.addr = .reg b off ∧ domState s (regDom b off) = .on ∧ (x.bytes ≠ 4 ∨ x.addr % 4 ≠ 0)) ∧
    (∃ (s : State) (x : Access), Live s ∧ isHook s x.who = false ∧ regionAt x.addr = .unmapped) ∧
    (∃ (s : State) (x : Access) (b : Blk) (off : Nat), Live s ∧ isHook s x.who = false ∧ regionAt x.addr = .reg b off ∧ domState s (regDom b off) ≠ .on) ∧
    (∃ (s : State) (c : CoreIx) (x : Access), Live s ∧ x.who = .core c ∧ s.flt.role[c] = .hook ∧ hookReach s c x = false) ∧
    (∃ (s : State) (q : Requester) (a : Nat) (off : Nat) (b : Blk), Live s ∧ isHook s q = false ∧ a % 4 = 0 ∧ regionAt a = .reg b off ∧ domState s (regDom b off) = .on ∧ pairOf b off = some off) ∧
    (∃ (s : State) (q : Requester) (a : Nat) (off : Nat) (lo : Nat) (b : Blk) (hi : Word), Live s ∧ isHook s q = false ∧ a % 4 = 0 ∧ regionAt a = .reg b off ∧ domState s (regDom b off) = .on ∧ pairOf b off = some lo ∧ off ≠ lo) :=
  ⟨⟨live, .engine 0, 0x10000000, 5, rfl, rfl, rfl, by decide +kernel⟩,
   ⟨live, .engine 0, 35, rfl, rfl, rfl, by decide⟩,
   ⟨live, { who := .engine 0, addr := 0x20000001, bytes := 4, write := none }, .flt, 1, rfl, rfl, by decide +kernel⟩,
   ⟨live, { who := .engine 0, addr := 0x30000000, bytes := 4, write := none }, rfl, rfl, by decide⟩,
   ⟨onPwrOff live, { who := .engine 0, addr := 0x20100000, bytes := 4, write := none }, .lane 0, 0, rfl, rfl, by decide +kernel⟩,
   ⟨live, 10, { who := .core 10, addr := 0x20300000, bytes := 4, write := some 0 }, rfl, rfl, by decide +kernel⟩,
   ⟨live, .engine 0, 0x20021008, 0x1008, .dma, rfl, rfl, by decide +kernel⟩,
   ⟨live, .engine 0, 0x2002100C, 0x100C, 0x1008, .dma, 7, rfl, rfl, by decide +kernel⟩⟩

theorem test_met_PadsInReset :
    (∃ (s : State), s.sys.inReset = true) :=
  ⟨{ State.reset with sys := { State.reset.sys with inReset := true } }, rfl⟩

end Sys2Proof.Tests
end

