-- ==== Sys2Proof/Proofs/Pairs.lean ====
section
/-!
The 64-bit pairs of R17: what an access to a half does, by the half that it names, and from that the obligation on the latch of a read and
the staged word of a write.
-/
namespace Sys2Proof.Proofs
open Sys2Proof Sys2Proof.Machine Sys2Proof.Laws

/-! ### Keyed lists -/

theorem any_key_keyPut {α : Type} (l : List (Nat × α)) (k : Nat) (x : α) : ((keyPut l k x).any fun p => decide (p.1 = k)) = true := by
  induction l with
  | nil => simp only [keyPut, List.any_cons, decide_true, Bool.true_or]
  | cons p t ih =>
    simp only [keyPut]
    split
    · simp only [List.any_cons, decide_true, Bool.true_or]
    · split
      · simp only [List.any_cons, decide_true, Bool.true_or]
      · simp only [List.any_cons, ih, Bool.or_true]

/-! ### Accesses that nothing stops -/

/-- Out of reset an event acts (R52). -/
theorem act_live {s : State} (live : Live s) (f : State → State) : act s f = .next (f s) :=
  if_neg (by rw [live]; exact Bool.false_ne_true)

/-- Of the two commands of a pair's writes, each takes the addresses of one half. -/
theorem isHalf_of_pairOf {high : Bool} {a off lo : Nat} {b : Blk} (hr : regionAt a = .reg b off) (hp : pairOf b off = some lo) :
    isHalf high a = (decide (off = lo) != high) := by
  simp only [isHalf, hr, hp, Option.map_some, Option.getD_some]

/-- No register whose read does more than return its value is half of a pair. -/
theorem readRegister_of_pairOf {b : Blk} {off lo : Nat} (hp : pairOf b off = some lo) (q : Requester) (a : Nat) (s : State) :
    readRegister q b a off s = readPair q b a off s := by
  cases b with
  | hqm =>
    by_cases ho : off = 0x14 ∨ off = 0x18
    · rcases ho with rfl | rfl <;> rfl
    · exact absurd (hp.symm.trans (if_neg ho)) (by simp only [reduceCtorEq, not_false_eq_true])
  | stc => exact absurd hp (by simp only [pairOf, reduceCtorEq, not_false_eq_true])
  | _ => rfl

theorem loadWord_of_pairOf {s : State} {q : Requester} {a off lo : Nat} {b : Blk}
    (hf : accessFault s { who := q, addr := a, bytes := 4, write := none } = none) (hr : regionAt a = .reg b off)
    (hp : pairOf b off = some lo) : loadWord q a s = readPair q b a off s := by
  simp only [loadWord, hf, hr, readRegister_of_pairOf hp]

theorem storeWord_of_reg {s : State} {q : Requester} {a off : Nat} {b : Blk} {w : Word}
    (hf : accessFault s { who := q, addr := a, bytes := 4, write := some w } = none) (hr : regionAt a = .reg b off)
    (arriving : List SrcIx) : storeWord q arriving a w s = registerStore q arriving b a off w s := by
  simp only [storeWord, hf, hr]

/-- A cycle in which no source occurs adds nothing to a write. -/
theorem arrivals_nil (b : Blk) (off : Nat) (s : State) : arrivals b off [] s = s := by
  simp only [arrivals, rising, List.map_nil, List.foldr_nil, List.foldl_nil, ite_self]

/-! ### The halves of a pair -/

/-- The high word's address leads to the key of the low word's. -/
theorem stageKey_high (a off : Nat) : stageKey (a + 4) (off + 4) off = stageKey a off off := by
  simp only [stageKey, Nat.add_sub_add_right]

/-- A read of the low word returns it and latches the high word. -/
theorem readPair_low {b : Blk} {off : Nat} (hp : pairOf b off = some off) (q : Requester) (a : Nat) (s : State) :
    (readPair q b a off s).sys.rdata = (readValue q b off s).1 ∧
    ∃ l, (readPair q b a off s).sys.latched = keyPut l (stageKey a off off) (readValue q b (off + 4) (readValue q b off s).2).1 := by
  simp only [readPair, hp, if_true]
  exact ⟨rfl, _, rfl⟩

/-- A read of the high word returns the word latched for its pair. -/
theorem readPair_high_latched {b : Blk} {off : Nat} {a : Nat} {s : State} {l : List (Nat × Word)} {w : Word}
    (hp : pairOf b (off + 4) = some off) (hl : s.sys.latched = keyPut l (stageKey a off off) w) (q : Requester) :
    (readPair q b (a + 4) (off + 4) s).sys.rdata = w := by
  have hne : off + 4 ≠ off := by omega
  simp only [readPair, hp, if_neg hne, stageKey_high, hl, any_key_keyPut, if_true, keyGet_keyPut_same, setRdata_rdata]

/-- A write of the high word is staged, but for a hook core's write of DMA_IRQ_HI. -/
theorem registerStore_high {b : Blk} {off : Nat} {q : Requester} {s : State} (hp : pairOf b (off + 4) = some off)
    (hook : ¬ (b = .dma ∧ off = 0x10 ∧ isHook s q = true)) (a : Nat) (w : Word) :
    registerStore q [] b (a + 4) (off + 4) w s =
      { s with sys := { s.sys with staged := keyPut s.sys.staged (stageKey a off off) w } } := by
  have hne : off + 4 ≠ off := by omega
  simp only [registerStore, hp, if_neg hne, if_neg hook, arrivals_nil, highWrite, stageKey_high]

/-- A write of the low word commits it with the word staged for its pair. -/
theorem registerStore_low_staged {b : Blk} {off : Nat} {a : Nat} {s : State} {l : List (Nat × Word)} {hi : Word}
    (hp : pairOf b off = some off) (hs : s.sys.staged = keyPut l (stageKey a off off) hi) (q : Requester) (lo : Word) :
    registerStore q [] b a off lo s =
      commitPair b off (lo.toNat + hi.toNat * 2 ^ 32)
        { s with sys := { s.sys with staged := keyDel s.sys.staged (stageKey a off off) } } := by
  have hk : keyGet s.sys.staged (stageKey a off off) (highStands b off s) = hi := by rw [hs, keyGet_keyPut_same]
  simp only [registerStore, hp, if_true, arrivals_nil, lowWrite, hk]

/-! ### The commands -/

/-- REG64_LOW_READ of a half of a pair (R17). -/
theorem exec_reg64LowRead_of_pairOf {s : State} {q : Requester} {a off lo : Nat} {b : Blk} (live : Live s)
    (hf : accessFault s { who := q, addr := a, bytes := 4, write := none } = none) (hr : regionAt a = .reg b off)
    (hp : pairOf b off = some lo) : exec (.reg64LowRead q a) s = .next (readPair q b a off s) := by
  rw [← loadWord_of_pairOf hf hr hp]
  exact act_live live _

/-- REG64_HIGH_WRITE of the high word of a pair (R17). -/
theorem exec_reg64HighWrite_of_pairOf {s : State} {q : Requester} {a off lo : Nat} {b : Blk} {w : Word} (live : Live s)
    (hf : accessFault s { who := q, addr := a, bytes := 4, write := some w } = none) (hr : regionAt a = .reg b off)
    (hp : pairOf b off = some lo) (hne : off ≠ lo) : exec (.reg64HighWrite q a w) s = .next (registerStore q [] b a off w s) := by
  have half : isHalf true a = true := by rw [isHalf_of_pairOf hr hp, decide_eq_false hne]; rfl
  rw [← storeWord_of_reg hf hr]
  exact (act_live live _).trans (by rw [if_pos half])

/-- REG64_LOW_WRITE of the low word of a pair (R17). -/
theorem exec_reg64LowWrite_of_pairOf {s : State} {q : Requester} {a off : Nat} {b : Blk} {w : Word} (live : Live s)
    (hf : accessFault s { who := q, addr := a, bytes := 4, write := some w } = none) (hr : regionAt a = .reg b off)
    (hp : pairOf b off = some off) : exec (.reg64LowWrite q a w) s = .next (registerStore q [] b a off w s) := by
  have half : isHalf false a = true := by rw [isHalf_of_pairOf hr hp, decide_eq_true rfl]; rfl
  rw [← storeWord_of_reg hf hr]
  exact (act_live live _).trans (by rw [if_pos half])

/-- Settles O49: a read of the low word leaves the high word under the pair's key, where a later read of the high word finds it; a write of
the high word leaves it under the same key for a later write of the low word. -/
theorem sixtyFourBitPairs : Obligations.SixtyFourBitPairs := by
  unfold Obligations.SixtyFourBitPairs
  refine ⟨fun s q a off b live hf hlo hhi plo phi => ?_, fun s q a off b hi live hf hlo hhi plo phi hook => ?_⟩
  · obtain ⟨hdata, l, hlatch⟩ := readPair_low plo q a s
    refine ⟨_, exec_reg64LowRead_of_pairOf live hf hlo plo, hdata, fun u ulive held uf => ?_⟩
    exact ⟨_, exec_reg64LowRead_of_pairOf ulive uf hhi phi, readPair_high_latched phi (held.trans hlatch) q⟩
  · have hne : off + 4 ≠ off := by omega
    have stored := exec_reg64HighWrite_of_pairOf live hf hhi phi hne
    rw [registerStore_high phi hook] at stored
    refine ⟨_, stored, rfl, fun u lo ulive held uf => ?_⟩
    exact ⟨_, exec_reg64LowWrite_of_pairOf ulive uf hlo plo, registerStore_low_staged plo held q lo⟩

end Sys2Proof.Proofs
end

