-- ==== Sys2Proof/Proofs/Bindings.lean ====
section
/-!
The bindings of R35 and R36: what a core map register shows and takes, when a commit of the staged roles applies and when it is refused, and
what a warm reset leaves.
-/
namespace Sys2Proof.Proofs
open Sys2Proof Sys2Proof.Machine Sys2Proof.Laws

/-! ### A warm reset -/

/-- An event ends in a next state, in reset and out of it. -/
theorem act_completes (s : State) (f : State → State) : ∃ t, act s f = .next t := by
  unfold act
  split
  · exact ⟨s, rfl⟩
  · exact ⟨f s, rfl⟩

/-- Settles O45: the frame of WARM_RESET does not name the bindings. -/
theorem aWarmResetKeepsEveryBinding : Obligations.AWarmResetKeepsEveryBinding := by
  unfold Obligations.AWarmResetKeepsEveryBinding
  intro s p
  obtain ⟨t, ht⟩ : ∃ t, execWarmReset p s = .next t := act_completes s _
  exact ⟨t, ht, (execWarmReset_frame ht).binds.resolve_left Bool.false_ne_true⟩

/-! ### What a core map register shows -/

theorem roleCode_lt (r : Role) : roleCode r < 4 := by cases r <;> decide

/-- A bit of words gathered by "or" is set where it is set in one of them. -/
theorem getLsbD_foldl_or (f : Nat → Word) (l : List Nat) (w : Word) (j : Nat) :
    (l.foldl (fun w k => w ||| f k) w).getLsbD j = (w.getLsbD j || l.any fun k => (f k).getLsbD j) := by
  induction l generalizing w with
  | nil => simp only [List.foldl_nil, List.any_nil, Bool.or_false]
  | cons k l ih => simp only [List.foldl_cons, ih, BitVec.getLsbD_or, List.any_cons, Bool.or_assoc]

/-- Bits 2k and 2k + 1 are the code of core k of the cluster, and no bit stands above the twelfth core's (R35). -/
theorem getLsbD_coreMapWord (f : Flt) (cluster : Fin 3) (j : Nat) :
    (coreMapWord f cluster).getLsbD j = (decide (j < 24) && (roleCode (roleOf f (12 * cluster.val + j / 2))).testBit (j % 2)) := by
  unfold coreMapWord
  rw [getLsbD_foldl_or, Bool.eq_iff_iff]
  simp only [getLsbD_fldAt, BitVec.ofNat_eq_ofNat, BitVec.getLsbD_zero, Bool.false_or, List.any_eq_true, List.mem_range, Bool.and_eq_true,
    decide_eq_true_eq]
  constructor
  · rintro ⟨k, hk, -, hlo, hhi, hbit⟩
    obtain rfl : k = j / 2 := by omega
    rw [show j - 2 * (j / 2) = j % 2 by omega] at hbit
    exact ⟨by omega, hbit⟩
  · rintro ⟨hj, hbit⟩
    refine ⟨j / 2, by omega, by omega, by omega, by omega, ?_⟩
    rwa [show j - 2 * (j / 2) = j % 2 by omega]

/-- The reserved bits of a core map read 0 (R35). -/
theorem fld_coreMapWord_reserved (f : Flt) (cluster : Fin 3) : fld (coreMapWord f cluster) 31 24 = 0 := by
  refine Nat.eq_of_testBit_eq fun b => ?_
  have above : ¬ 24 + b < 24 := by omega
  rw [testBit_fld, getLsbD_coreMapWord, decide_eq_false above, Bool.false_and, Bool.and_false, Nat.zero_testBit]

/-- The field of core i of a cluster reads the code of its role in force (R35). -/
theorem fld_coreMapWord_role (f : Flt) (cluster : Fin 3) (i : Fin 12) :
    fld (coreMapWord f cluster) (2 * i.val + 1) (2 * i.val) = roleCode (roleOf f (12 * cluster.val + i.val)) := by
  refine Nat.eq_of_testBit_eq fun b => ?_
  rw [testBit_fld, getLsbD_coreMapWord]
  by_cases hb : b < 2
  · have core : (2 * i.val + b) / 2 = i.val := by omega
    have bit : (2 * i.val + b) % 2 = b := by omega
    have inField : b < 2 * i.val + 1 - 2 * i.val + 1 := by omega
    have inWord : 2 * i.val + b < 24 := by omega
    rw [core, bit, decide_eq_true inField, decide_eq_true inWord, Bool.true_and, Bool.true_and]
  · have outside : ¬ b < 2 * i.val + 1 - 2 * i.val + 1 := by omega
    have small : roleCode (roleOf f (12 * cluster.val + i.val)) < 2 ^ b :=
      Nat.lt_of_lt_of_le (roleCode_lt _) (Nat.pow_le_pow_right (i := 2) Nat.two_pos (Nat.not_lt.mp hb))
    rw [decide_eq_false outside, Bool.false_and, Nat.testBit_lt_two_pow small]

/-! ### Staging -/

/-- The staged role of a core after a write of one cluster's map (R35). -/
theorem coreMapWrite_staged (k : Fin 3) (w : Word) (s : State) (c : Fin 36) :
    (coreMapWrite k w s).flt.staged[c] =
      if c.val / 12 = k.val then roleAt (fld w (2 * (c.val % 12) + 1) (2 * (c.val % 12))) else s.flt.staged[c] := by
  simp only [coreMapWrite, Fin.getElem_fin, Vector.getElem_ofFn]

/-! ### Commit and discard -/

theorem setBit_eq_self {n k : Nat} {x : BitVec n} (h : x.getLsbD k = true) : setBit x k = x := by
  refine BitVec.eq_of_getLsbD_eq fun j _ => ?_
  rw [getLsbD_setBit]
  by_cases hj : j = k
  · rw [hj, h, Bool.true_or]
  · rw [decide_eq_false hj, Bool.and_false, Bool.or_false]

/-- A commit is bad if it would change a failed core or leave another number of hook cores than R29 requires (R35). -/
theorem commitBad_iff {role staged : Vector Role 36} :
    commitBad role staged = true ↔
      (∃ c : Fin 36, role[c] = .failed ∧ staged[c] ≠ .failed) ∨ hookCount staged ≠ requiredHooks staged := by
  simp only [commitBad, Bool.or_eq_true, List.any_eq_true, List.mem_finRange, true_and, Bool.and_eq_true, decide_eq_true_eq]

theorem coreCommitWrite_apply {w : Word} {s : State} (commit : bitOf w 0 = true) (discard : bitOf w 1 = false)
    (good : commitBad s.flt.role s.flt.staged = false) :
    coreCommitWrite w s = { s with flt := { s.flt with role := s.flt.staged } } := by
  simp only [coreCommitWrite, commit, discard, good, Bool.false_eq_true, if_false]

theorem coreCommitWrite_refuse {w : Word} {s : State} (commit : bitOf w 0 = true)
    (bad : bitOf w 1 = true ∨ commitBad s.flt.role s.flt.staged = true) : coreCommitWrite w s = bindError 2 s := by
  cases discard : bitOf w 1 with
  | true => simp only [coreCommitWrite, commit, discard]
  | false =>
    have bad : commitBad s.flt.role s.flt.staged = true := bad.resolve_left (by rw [discard]; exact Bool.false_ne_true)
    simp only [coreCommitWrite, commit, discard, bad, if_true]

theorem coreCommitWrite_discard {w : Word} {s : State} (commit : bitOf w 0 = false) (discard : bitOf w 1 = true) :
    coreCommitWrite w s = { s with flt := { s.flt with staged := s.flt.role } } := by
  simp only [coreCommitWrite, commit, discard]

/-- A binding error sets its bit of FLT_BIND_ERR (R32). -/
theorem bindError_bindErr {b : Nat} (hb : b < 32) (s : State) : bitOf (bindError b s).flt.bindErr b = true := by
  simp only [bindError, raise_flt_bindErr, freshMark, bitOf, BitVec.getLsbD_or, getLsbD_bitAt, hb, decide_true, Bool.and_self, Bool.or_true]

/-- A binding error leaves every binding and the staged roles (R32, R35). -/
theorem bindError_binds (b : Nat) (s : State) : SameBindings s.flt (bindError b s).flt :=
  (bindError_frame (k := partsEngineFaultW) (a0 := b) Frame.refl rfl).binds.resolve_left Bool.false_ne_true

/-- CORE_COMMIT is a write of FLT_CORE_COMMIT with [0] at 1 (R35). -/
theorem exec_coreCommit_of_bit {s : State} {w : Word} (live : Live s) (commit : bitOf w 0 = true) :
    exec (.coreCommit w) s = .next (coreCommitWrite w s) := by
  have same : w ||| 1#32 = w := setBit_eq_self (k := 0) commit
  exact (act_live live _).trans (by rw [same])

/-- CORE_DISCARD is a write of FLT_CORE_COMMIT with [1] at 1 (R35). -/
theorem exec_coreDiscard_of_bit {s : State} {w : Word} (live : Live s) (discard : bitOf w 1 = true) :
    exec (.coreDiscard w) s = .next (coreCommitWrite w s) := by
  have same : w ||| 2#32 = w := setBit_eq_self (k := 1) discard
  exact (act_live live _).trans (by rw [same])

/-- Settles O51: the register shows the codes bit by bit, a write stages them, and a write of FLT_CORE_COMMIT applies the staged roles,
is refused by commitBad, or discards them. -/
theorem coreRolesAreStagedAndCommitted : Obligations.CoreRolesAreStagedAndCommitted := by
  unfold Obligations.CoreRolesAreStagedAndCommitted
  refine ⟨fun s k w live => ?stage, fun s h n => ⟨rfl, rfl, rfl, rfl⟩,
    fun f k => ⟨fld_coreMapWord_reserved f k, fld_coreMapWord_role f k⟩, ⟨rfl, rfl, rfl, rfl⟩,
    fun s w live commit discard kept hooks => ?apply, fun s w live commit bad => ?refuse, fun s w live discard commit => ?discard⟩
  case stage => exact ⟨coreMapWrite k w s, act_live live _, coreMapWrite_staged k w s, rfl⟩
  case apply =>
    have good : commitBad s.flt.role s.flt.staged = false := by
      refine Bool.eq_false_iff.mpr fun bad => ?_
      rcases commitBad_iff.mp bad with ⟨c, failed, changed⟩ | other
      · exact changed (kept c failed)
      · exact other hooks
    rw [exec_coreCommit_of_bit live commit, coreCommitWrite_apply commit discard good]
  case refuse =>
    refine ⟨bindError 2 s, ?_, bindError_bindErr (by decide) s, bindError_binds 2 s⟩
    rw [exec_coreCommit_of_bit live commit, coreCommitWrite_refuse commit (bad.imp_right commitBad_iff.mpr)]
  case discard => rw [exec_coreDiscard_of_bit live discard, coreCommitWrite_discard commit discard]

end Sys2Proof.Proofs
end

