-- ==== Sys2Proof/Proofs/Acknowledgement.lean ====
section
/-!
The acknowledgement of R419: which sources a write of a word to a register of FLT_PEND clears, and why one that occurs in the cycle of the
write is pending after it.
-/
namespace Sys2Proof.Proofs
open Sys2Proof Sys2Proof.Machine Sys2Proof.Laws

/-! ### Sets of sources -/

/-- The bits of a set after some of a list's numbers were added: those it had, and the numbers added. -/
theorem getLsbD_foldl_setBit {α : Type} {n : Nat} (p : α → Prop) [DecidablePred p] (num : α → Nat) (l : List α) (m : BitVec n) (j : Nat) :
    (l.foldl (fun m a => if p a then setBit m (num a) else m) m).getLsbD j = true ↔
      m.getLsbD j = true ∨ j < n ∧ ∃ a ∈ l, p a ∧ j = num a := by
  induction l generalizing m with
  | nil => simp only [List.foldl_nil, List.not_mem_nil, false_and, exists_false, and_false, or_false]
  | cons a l ih =>
    have headOrTail : (∃ x ∈ a :: l, p x ∧ j = num x) ↔ (p a ∧ j = num a) ∨ ∃ x ∈ l, p x ∧ j = num x := by
      simp only [List.mem_cons, or_and_right, exists_or, exists_eq_left]
    rw [List.foldl_cons, ih, headOrTail]
    by_cases hp : p a
    · rw [if_pos hp, getLsbD_setBit]
      simp only [hp, Bool.or_eq_true, Bool.and_eq_true, decide_eq_true_eq, true_and, and_or_left, or_assoc]
    · simp only [hp, if_false, false_and, false_or]

/-- A number among those added is in the set (R20). -/
theorem getLsbD_foldl_setBit_of_mem {l : List SrcIx} {n : SrcIx} (hn : n ∈ l) :
    (l.foldl (fun (m : BitVec 640) a => setBit m a.val) 0).getLsbD n.val = true :=
  (getLsbD_foldl_setBit (fun _ => True) Fin.val l 0 n.val).mpr (.inr ⟨n.isLt, n, hn, trivial, rfl⟩)

/-- A write of FLT_PENDk names the sources of its own register that its 1 bits stand for, of a hook core only tagged ones (R419). -/
theorem getLsbD_ackMask (k : Fin 20) (w : Word) (hook : Bool) (n : Fin 640) :
    (ackMask k w hook).getLsbD n.val = (decide (n.val / 32 = k.val) && bitOf w (n.val % 32) && (!hook || hookTagged n.val)) := by
  rw [Bool.eq_iff_iff]
  unfold ackMask
  rw [getLsbD_foldl_setBit (fun b => bitOf w b = true ∧ (hook = false ∨ hookTagged (32 * k.val + b) = true)) (fun b => 32 * k.val + b)]
  simp only [BitVec.ofNat_eq_ofNat, BitVec.getLsbD_zero, Bool.false_eq_true, false_or, n.isLt, true_and, List.mem_range, Bool.and_eq_true,
    Bool.or_eq_true, Bool.not_eq_true', decide_eq_true_eq]
  constructor
  · rintro ⟨b, hb, ⟨named, tagged⟩, hn⟩
    have register : n.val / 32 = k.val := by omega
    have bit : n.val % 32 = b := by omega
    exact ⟨⟨register, bit ▸ named⟩, hn ▸ tagged⟩
  · rintro ⟨⟨register, named⟩, tagged⟩
    have number : n.val = 32 * k.val + n.val % 32 := by omega
    exact ⟨n.val % 32, by omega, ⟨named, number ▸ tagged⟩, number⟩

/-! ### Occurrences -/

theorem mem_putRising {k n : Nat} {xs : List Nat} : n ∈ putRising k xs ↔ n = k ∨ n ∈ xs := by
  induction xs with
  | nil => simp only [putRising, List.mem_singleton, List.not_mem_nil, or_false]
  | cons x t ih =>
    unfold putRising
    split
    · exact List.mem_cons
    · rw [List.mem_cons, ih, List.mem_cons, or_left_comm]

/-- Ordering the sources of a cycle leaves none out (R420). -/
theorem mem_rising {n : Nat} {ks : List Nat} : n ∈ rising ks ↔ n ∈ ks := by
  induction ks with
  | nil => exact Iff.rfl
  | cons k ks ih => exact mem_putRising.trans ((or_congr_right ih).trans List.mem_cons.symm)

/-- A cycle in which no source occurs raises nothing. -/
theorem raiseAll_nil (s : State) : raiseAll [] s = s := rfl

theorem addFaultRecord_pend (r : FaultRecord) (f : Flt) : (addFaultRecord r f).pend = f.pend := by rw [addFaultRecord_keeps]

/-- An occurrence of an enabled source sets its pending bit (R416). -/
theorem fltOccur_pend {k : Nat} {s : State} (hk : k < 640) (enabled : bitOf (srcCfg s.flt k) 9 = true) :
    (fltOccur k s).flt.pend.getLsbD k = true := by
  have set : (setBit s.flt.pend k).getLsbD k = true := by
    rw [getLsbD_setBit, decide_eq_true hk, decide_eq_true rfl, Bool.and_self, Bool.or_true]
  unfold fltOccur
  simp only [enabled, Bool.true_eq_false, if_false]
  split
  · exact set
  · rw [addFaultRecord_pend]; exact set

/-- An enabled source that can fire is pending after its occurrence: BLK's effect and source 174 clear nothing (R416, R417, R420). -/
theorem raise_pend {k : Nat} {s : State} (hk : k < 640) (fires : srcReserved k = false) (enabled : bitOf (srcCfg s.flt k) 9 = true) :
    (raise k s).flt.pend.getLsbD k = true := by
  unfold raise raiseN
  extract_lets live blkNow esc s1 s2
  have own : (fltOccur k s).flt.pend.getLsbD k = true := fltOccur_pend hk enabled
  have recorded : s1.flt.pend.getLsbD k = true := by
    unfold s1
    split
    · rw [vendorEvent_flt, own]
    · exact own
  have reset : s2.flt.pend.getLsbD k = true := by
    unfold s2
    split
    · exact (blkReset_keeps _ (raiseN_keeps 7) _ s1).pend k recorded
    · exact recorded
  rw [if_neg (by rw [fires]; exact Bool.false_ne_true)]
  split
  · exact (fltOccur_keeps 174 s2).pend k reset
  · exact reset

/-- Whether a source is enabled does not change as sources occur. -/
theorem raise_srcCfg (k n : Nat) (s : State) : srcCfg (raise k s).flt n = srcCfg s.flt n := by
  simp only [srcCfg, raise_flt_regs]

/-- A source that occurs in a cycle is pending after all the cycle's occurrences, if it was pending or can fire and is enabled (R416). -/
theorem raiseAll_pend {ks : List Nat} {n : Nat} {s : State} (hn : n < 640) (occurs : n ∈ ks)
    (h : s.flt.pend.getLsbD n = true ∨ srcReserved n = false ∧ bitOf (srcCfg s.flt n) 9 = true) :
    (raiseAll ks s).flt.pend.getLsbD n = true := by
  rcases h with pending | ⟨fires, enabled⟩
  · exact (raiseAll_keeps ks s).pend n pending
  unfold raiseAll
  have occurs : n ∈ rising ks := mem_rising.mpr occurs
  generalize rising ks = l at occurs
  induction l generalizing s with
  | nil => exact absurd occurs List.not_mem_nil
  | cons k l ih =>
    rcases List.mem_cons.mp occurs with rfl | later
    · exact (RaiseKeeps.foldl _ (fun u x => raise_keeps x u) l _).pend n (raise_pend hn fires enabled)
    · exact ih (by rw [raise_srcCfg]; exact enabled) later

/-! ### The acknowledgement -/

/-- What is pending after an acknowledgement: what was, with the cycle's occurrences, less what the write names of those that neither occur in its cycle
nor have occurred since the last read (R20, R419). -/
theorem acknowledge_pend (k : Fin 20) (w : Word) (hook : Bool) (arriving : List SrcIx) (s : State) (n : Fin 640) :
    (acknowledge k w hook arriving s).flt.pend.getLsbD n.val =
      ((raiseAll (arriving.map Fin.val) s).flt.pend.getLsbD n.val &&
        !((ackMask k w hook).getLsbD n.val && !(arriving.foldl (fun (m : BitVec 640) a => setBit m a.val) 0).getLsbD n.val &&
          !(raiseAll (arriving.map Fin.val) s).flt.freshPend.getLsbD n.val)) := by
  simp only [acknowledge, settleSteps, BitVec.getLsbD_and, BitVec.getLsbD_not, n.isLt, decide_true, Bool.true_and]

/-- FAULT_ACKNOWLEDGE is a write of FLT_PENDk (R419). -/
theorem exec_faultAcknowledge {s : State} (live : Live s) (k : Fin 20) (w : Word) (hook : Bool) (arriving : List SrcIx) :
    exec (.faultAcknowledge k w hook arriving) s = .next (windowNote (window s) (acknowledge k w hook arriving s)) :=
  act_live live fun s => windowNote (window s) (acknowledge k w hook arriving s)

/-- Settles O52: the bits of the write's mask decide what a write with nothing arriving clears, and what arrives is raised before the clear
and taken out of the mask. That a bit marked fresh stays is log entry 149, the model's choice of how R20 knows what was present at a read. -/
theorem acknowledgementClearsWhatWasPending : Obligations.AcknowledgementClearsWhatWasPending := by
  unfold Obligations.AcknowledgementClearsWhatWasPending
  refine ⟨fun s k w hook live => ?clears, fun s k w hook arriving live => ?keeps⟩
  case clears =>
    have sameWindow : windowNote (window s) (acknowledge k w hook [] s) = acknowledge k w hook [] s := if_pos rfl
    refine ⟨acknowledge k w hook [] s, (exec_faultAcknowledge live k w hook []).trans (congrArg _ sameWindow), fun n => ?_, rfl⟩
    simp only [acknowledge_pend, getLsbD_ackMask, List.map_nil, raiseAll_nil, List.foldl_nil, BitVec.ofNat_eq_ofNat, BitVec.getLsbD_zero,
      Bool.not_false, Bool.and_true]
  case keeps =>
    refine ⟨_, exec_faultAcknowledge live k w hook arriving, fun n hn h => ?_⟩
    have occurs : n.val ∈ arriving.map Fin.val := List.mem_map_of_mem hn
    rw [windowNote_flt, acknowledge_pend, raiseAll_pend n.isLt occurs h, getLsbD_foldl_setBit_of_mem hn, Bool.not_true,
      Bool.and_false, Bool.false_and, Bool.not_false, Bool.and_self]

end Sys2Proof.Proofs
end

