-- ==== Sys2Proof/Proofs/StitchCounter.lean ====
section
/-!
The Stitch Counter's clear and entry of R438: a clear leaves no count of its group, and an entry then leaves a count of 1 at its own bin alone.
-/
namespace Sys2Proof.Proofs
open Sys2Proof Sys2Proof.Machine Sys2Proof.Laws

/-! ### Bins and keys -/

theorem length_ite_le {α : Type} {c : Prop} [Decidable c] {l m : List α} {n : Nat} (hl : l.length ≤ n) (hm : m.length ≤ n) :
    (if c then l else m).length ≤ n := by
  split
  · exact hl
  · exact hm

/-- Seven lower edges at most, so eight bins (R436). -/
theorem stcBin_lt (g inst : Nat) (v : Int) : stcBin g inst v < 8 := by
  have edges : (stcEdges g inst).length ≤ 7 := by
    unfold stcEdges
    repeat' apply length_ite_le
    all_goals decide
  exact Nat.lt_succ_of_le (Nat.le_trans (List.length_filter_le _ _) edges)

/-- Instances have five bits of a key (R436). -/
theorem stcInstances_le (g : Nat) : stcInstances g ≤ 32 := by
  unfold stcInstances
  repeat' split
  all_goals decide

/-- The keys of a group: the bins and the sums of all its instances. -/
theorem stcKey_group {i b : Nat} (hi : i < 32) (hb : b < 16) (g : Nat) : stcKey g i b / 512 = g := by
  unfold stcKey
  omega

theorem stcKey_inj {g i j b c : Nat} (hb : b < 16) (hc : c < 16) : stcKey g i b = stcKey g j c ↔ i = j ∧ b = c := by
  unfold stcKey
  omega

/-! ### The clear -/

/-- A store without the keys that fail p has the value for "not listed" at each of them. -/
theorem keyGet_filter_key {α : Type} (l : List (Nat × α)) (p : Nat → Bool) {k : Nat} (hk : p k = false) (d : α) :
    keyGet (l.filter fun e => p e.1) k d = d := by
  induction l with
  | nil => rfl
  | cons e t ih =>
    cases he : p e.1 with
    | false => simpa only [List.filter_cons, he, Bool.false_eq_true, if_false] using ih
    | true =>
      have other : e.1 ≠ k := fun same => by rw [same, hk] at he; exact Bool.false_ne_true he
      simpa only [List.filter_cons, he, if_true, keyGet, if_neg other] using ih

/-- The persistence write copies the live counts and leaves them (R442). -/
theorem stcPersist_live (s : State) : (stcPersist s).stc.live = s.stc.live := by
  simp only [stcPersist]
  split <;> rfl

/-- A clear of a group takes its keys out of the store (R442). -/
theorem stcClearGroup_hist {g : Nat} (lo : 1 ≤ g) (hi : g ≤ 10) (s : State) :
    (stcClearGroup g s).stc.live.hist = s.stc.live.hist.filter fun e => decide (e.1 / 512 ≠ g) := by
  have group : 1 ≤ g ∧ g - 1 < 10 := by omega
  unfold stcClearGroup
  rw [dif_pos group]

/-- A write of a clearable group to STC_CLR leaves no count of the group (R442). -/
theorem stcClrWrite_count {g i b : Nat} (lo : 1 ≤ g) (hi : g ≤ 10) (hinst : i < 32) (hb : b < 16) (s : State) :
    keyGet (stcClrWrite g s).stc.live.hist (stcKey g i b) 0 = 0 := by
  have one : g ≠ 0xFF := by omega
  rw [stcClrWrite, if_pos (.inr ⟨lo, hi⟩), stcClear, if_neg one, stcPersist_live, stcClearGroup_hist lo hi]
  exact keyGet_filter_key _ (fun k => decide (k / 512 ≠ g)) (decide_eq_false (not_not_intro (stcKey_group hinst hb g))) 0

/-- A write to STC_CLR does not put the device in reset (R442). -/
theorem stcClrWrite_live {g : Nat} {s : State} (live : Live s) : Live (stcClrWrite g s) := by
  have frame : Frame partsEngineFaultW s (stcClrWrite g s) := stcClrWrite_frame Frame.refl rfl
  obtain ⟨inReset, -⟩ := frame.runs.resolve_left Bool.false_ne_true
  rw [Live, inReset, live]

/-! ### The entry -/

/-- An entry at a bin whose count is 0 makes it 1 and leaves every other count of its group (R436). -/
theorem stcEntry_count {g inst : Nat} {v : Int} {s : State} (known : inst < stcInstances g)
    (zero : keyGet s.stc.live.hist (stcKey g inst (stcBin g inst v)) 0 = 0) (i : Nat) {b : Nat} (hb : b < 8) :
    keyGet (Machine.stcEntry g inst v false s).stc.live.hist (stcKey g i b) 0 =
      if i = inst ∧ b = stcBin g inst v then 1 else keyGet s.stc.live.hist (stcKey g i b) 0 := by
  have bin := stcBin_lt g inst v
  have key : stcKey g i b = stcKey g inst (stcBin g inst v) ↔ i = inst ∧ b = stcBin g inst v := stcKey_inj (by omega) (by omega)
  have notSum : stcKey g i b ≠ stcKey g inst 8 := fun same => Nat.ne_of_lt hb ((stcKey_inj (by omega) (by omega)).mp same).2
  simp only [Machine.stcEntry, if_neg (Nat.not_le.mpr known), Bool.false_eq_true, if_false, zero, keyGet_keySet_ne _ notSum]
  by_cases own : i = inst ∧ b = stcBin g inst v
  · rw [if_pos own, key.mpr own]
    exact keyGet_keyPut_same _ _ _ _
  · rw [if_neg own, keyGet_keySet_ne _ (mt key.mp own)]

/-- Settles O53: the clear takes every key of the group out of the store, so the entry finds a count of 0 at its own bin and makes it 1. -/
theorem anEntryAfterAClearIsCounted : Obligations.AnEntryAfterAClearIsCounted := by
  unfold Obligations.AnEntryAfterAClearIsCounted
  intro s g inst v live lo hi known
  have cleared {i b : Nat} (hi32 : i < 32) (hb : b < 16) : keyGet (stcClrWrite g.val s).stc.live.hist (stcKey g.val i b) 0 = 0 :=
    stcClrWrite_count lo hi hi32 hb s
  have zero := cleared (Nat.lt_of_lt_of_le known (stcInstances_le _)) (Nat.lt_trans (stcBin_lt g.val inst v) (by decide))
  refine ⟨_, act_live live _, _, act_live (stcClrWrite_live live) _, fun i b hi32 hb => ?_⟩
  rw [stcEntry_count known zero i hb, cleared hi32 (by omega)]

end Sys2Proof.Proofs
end

