-- ==== Sys2Proof/Proofs/Steps.lean ====
section
/-!
What every command keeps: its frame, put together from the frames of the 338 meanings, and from that the obligations on the parts of the
state, the power-loss sequence, the bindings, the memory's form and the queue; and that every command and every run completes.
-/
namespace Sys2Proof.Laws
open Sys2Proof Sys2Proof.Machine

/-- A frame holds in every larger set of parts. -/
theorem Frame.within {k l : Parts} {s t : State} (h : Frame l s t) (hk : sub l k = true) : Frame k s t := Frame.refl.step h hk

end Sys2Proof.Laws

namespace Sys2Proof.Proofs
open Sys2Proof Sys2Proof.Machine Sys2Proof.Laws

/-! ### The frame of a command -/

/-- A command changes only the parts that commandParts names for it: each meaning has its frame in Laws/Frames. -/
theorem exec_frame {c : Instr} {s t : State} (h : exec c s = .next t) : Frame (commandParts c) s t := by
  cases c with
  | registerWrite => exact (execRegisterWrite_frame h).within rfl
  | misalignedAccess => exact (execMisalignedAccess_frame h).within rfl
  | unmappedAccess => exact (execUnmappedAccess_frame h).within rfl
  | gatedBlockAccess => exact (execGatedBlockAccess_frame h).within rfl
  | hookViolation => exact (execHookViolation_frame h).within rfl
  | reg64LowRead => exact (execReg64LowRead_frame h).within rfl
  | reg64HighWrite => exact (execReg64HighWrite_frame h).within rfl
  | reg64LowWrite => exact (execReg64LowWrite_frame h).within rfl
  | powerOnReset => exact (execPowerOnReset_frame h).within rfl
  | resetNQualified => exact (execResetNQualified_frame h).within rfl
  | resetNRise => exact (execResetNRise_frame h).within rfl
  | railOutOfWindow => exact (execRailOutOfWindow_frame h).within rfl
  | railBrownout => exact (execRailBrownout_frame h).within rfl
  | railResetLevel => exact (execRailResetLevel_frame h).within rfl
  | pwrfailQualified => exact (execPwrfailQualified_frame h).within rfl
  | refugeWrite => exact (execRefugeWrite_frame h).within rfl
  | refugeDone => exact (execRefugeDone_frame h).within rfl
  | powerlossRecoveryReset => exact (execPowerlossRecoveryReset_frame h).within rfl
  | permitInFilteredHigh => exact (execPermitInFilteredHigh_frame h).within rfl
  | permitInFall => exact (execPermitInFall_frame h).within rfl
  | permitDelayExpiry => exact (execPermitDelayExpiry_frame h).within rfl
  | errOutMinExpiry => exact (execErrOutMinExpiry_frame h).within rfl
  | shockPinAssert => exact (execShockPinAssert_frame h).within rfl
  | paFaultAssert => exact (execPaFaultAssert_frame h).within rfl
  | perstAssert => exact (execPerstAssert_frame h).within rfl
  | perstDeassert => exact (execPerstDeassert_frame h).within rfl
  | linkDown => exact (execLinkDown_frame h).within rfl
  | functionReset => exact (execFunctionReset_frame h).within rfl
  | l12Entry => exact (execL12Entry_frame h).within rfl
  | l12Exit => exact (execL12Exit_frame h).within rfl
  | crystalLost => exact (execCrystalLost_frame h).within rfl
  | crystalRestored => exact (execCrystalRestored_frame h).within rfl
  | clkRefSelect => exact (execClkRefSelect_frame h).within rfl
  | clkClusterFreq => exact (execClkClusterFreq_frame h).within rfl
  | post => exact (execPost_frame h).within rfl
  | safeCommitReset => exact (execSafeCommitReset_frame h).within rfl
  | spinupStart => exact (execSpinupStart_frame h).within rfl
  | castonMedia => exact (execCastonMedia_frame h).within rfl
  | ready => exact (execReady_frame h).within rfl
  | bindOff => exact (execBindOff_frame h).within rfl
  | shutdownNotify => exact (execShutdownNotify_frame h).within rfl
  | ps4Wake => exact (execPs4Wake_frame h).within rfl
  | ps3Wake => exact (execPs3Wake_frame h).within rfl
  | spnDecision => exact (execSpnDecision_frame h).within rfl
  | spnStart => exact (execSpnStart_frame h).within rfl
  | spnStop => exact (execSpnStop_frame h).within rfl
  | spnLock => exact (execSpnLock_frame h).within rfl
  | bemfZeroCrossing => exact (execBemfZeroCrossing_frame h).within rfl
  | sensingWindowEnd => exact (execSensingWindowEnd_frame h).within rfl
  | inductiveDetectDone => exact (execInductiveDetectDone_frame h).within rfl
  | brakeProbe => exact (execBrakeProbe_frame h).within rfl
  | brakeTimeout => exact (execBrakeTimeout_frame h).within rfl
  | lockedRotor => exact (execLockedRotor_frame h).within rfl
  | lockedRotorPauseEnd => exact (execLockedRotorPauseEnd_frame h).within rfl
  | resyncTimeout => exact (execResyncTimeout_frame h).within rfl
  | restartCoastEnd => exact (execRestartCoastEnd_frame h).within rfl
  | refugeDelayExpiry => exact (execRefugeDelayExpiry_frame h).within rfl
  | reseedDone => exact (execReseedDone_frame h).within rfl
  | yckEnable => exact (execYckEnable_frame h).within rfl
  | yckSelForce => exact (execYckSelForce_frame h).within rfl
  | yckLock => exact (execYckLock_frame h).within rfl
  | yarnHeadLost => exact (execYarnHeadLost_frame h).within rfl
  | yarnHeadQualified => exact (execYarnHeadQualified_frame h).within rfl
  | switchover => exact (execSwitchover_frame h).within rfl
  | forcedSwitchover => exact (execForcedSwitchover_frame h).within rfl
  | timingGuardFall => exact (execTimingGuardFall_frame h).within rfl
  | slewDone => exact (execSlewDone_frame h).within rfl
  | yarnReturn => exact (execYarnReturn_frame h).within rfl
  | gaugeRowMove => exact (execGaugeRowMove_frame h).within rfl
  | gaugeUpdateApply => exact (execGaugeUpdateApply_frame h).within rfl
  | gaugeHourlyWrite => exact (execGaugeHourlyWrite_frame h).within rfl
  | servoSample => exact (execServoSample_frame h).within rfl
  | halfSamplePiezo => exact (execHalfSamplePiezo_frame h).within rfl
  | samMissRun => exact (execSamMissRun_frame h).within rfl
  | servoImplausible => exact (execServoImplausible_frame h).within rfl
  | holdTimeout => exact (execHoldTimeout_frame h).within rfl
  | onTrack => exact (execOnTrack_frame h).within rfl
  | srvLoad => exact (execSrvLoad_frame h).within rfl
  | srvSeek => exact (execSrvSeek_frame h).within rfl
  | srvHoldCmd => exact (execSrvHoldCmd_frame h).within rfl
  | srvReleaseHold => exact (execSrvReleaseHold_frame h).within rfl
  | srvUnload => exact (execSrvUnload_frame h).within rfl
  | srvSwapRequest => exact (execSrvSwapRequest_frame h).within rfl
  | srvLock => exact (execSrvLock_frame h).within rfl
  | srvBankWrite => exact (execSrvBankWrite_frame h).within rfl
  | loadCapture => exact (execLoadCapture_frame h).within rfl
  | loadTimeout => exact (execLoadTimeout_frame h).within rfl
  | retractDone => exact (execRetractDone_frame h).within rfl
  | parkCheck => exact (execParkCheck_frame h).within rfl
  | unloadNFall => exact (execUnloadNFall_frame h).within rfl
  | dlFrameReceive => exact (execDlFrameReceive_frame h).within rfl
  | dlFault => exact (execDlFault_frame h).within rfl
  | portHoldExpiry => exact (execPortHoldExpiry_frame h).within rfl
  | portHoldRetract => exact (execPortHoldRetract_frame h).within rfl
  | sensorRead => exact (execSensorRead_frame h).within rfl
  | laneTempRefresh => exact (execLaneTempRefresh_frame h).within rfl
  | feReady => exact (execFeReady_frame h).within rfl
  | readerFail => exact (execReaderFail_frame h).within rfl
  | paCmdQueue => exact (execPaCmdQueue_frame h).within rfl
  | paFrameSend => exact (execPaFrameSend_frame h).within rfl
  | decodeAttemptDone => exact (execDecodeAttemptDone_frame h).within rfl
  | rawVerdict => exact (execRawVerdict_frame h).within rfl
  | deepDecodeRequest => exact (execDeepDecodeRequest_frame h).within rfl
  | deepWaitTimeout => exact (execDeepWaitTimeout_frame h).within rfl
  | deepDecodeDone => exact (execDeepDecodeDone_frame h).within rfl
  | retryRevolution => exact (execRetryRevolution_frame h).within rfl
  | selvageDecode => exact (execSelvageDecode_frame h).within rfl
  | rowSeq => exact (execRowSeq_frame h).within rfl
  | rowJmp => exact (execRowJmp_frame h).within rfl
  | rowBrt => exact (execRowBrt_frame h).within rfl
  | rowBrf => exact (execRowBrf_frame h).within rfl
  | rowDsp => exact (execRowDsp_frame h).within rfl
  | rowCall => exact (execRowCall_frame h).within rfl
  | rowRet => exact (execRowRet_frame h).within rfl
  | rowWait => exact (execRowWait_frame h).within rfl
  | rowWaitTimeout => exact (execRowWaitTimeout_frame h).within rfl
  | customerTimeFault => exact (execCustomerTimeFault_frame h).within rfl
  | rowReloadDone => exact (execRowReloadDone_frame h).within rfl
  | opcodeIdle => exact (execOpcodeIdle_frame h).within rfl
  | opcodeOpBegin => exact (execOpcodeOpBegin_frame h).within rfl
  | opcodeOpEnd => exact (execOpcodeOpEnd_frame h).within rfl
  | opcodeRdRun => exact (execOpcodeRdRun_frame h).within rfl
  | opcodeRrRun => exact (execOpcodeRrRun_frame h).within rfl
  | opcodeWrRun => exact (execOpcodeWrRun_frame h).within rfl
  | opcodeWrSelv => exact (execOpcodeWrSelv_frame h).within rfl
  | opcodeGap => exact (execOpcodeGap_frame h).within rfl
  | opcodeCustomer => exact (execOpcodeCustomer_frame h).within rfl
  | rowLoadWrite => exact (execRowLoadWrite_frame h).within rfl
  | rowLoadReadback => exact (execRowLoadReadback_frame h).within rfl
  | rowRun => exact (execRowRun_frame h).within rfl
  | rowStop => exact (execRowStop_frame h).within rfl
  | custEnWrite => exact (execCustEnWrite_frame h).within rfl
  | rowSwapRequest => exact (execRowSwapRequest_frame h).within rfl
  | rowSwap => exact (execRowSwap_frame h).within rfl
  | patOperation => exact (execPatOperation_frame h).within rfl
  | patRun => exact (execPatRun_frame h).within rfl
  | patQuiesce => exact (execPatQuiesce_frame h).within rfl
  | darnWrite => exact (execDarnWrite_frame h).within rfl
  | darnReadback => exact (execDarnReadback_frame h).within rfl
  | matchWrite => exact (execMatchWrite_frame h).within rfl
  | matchApply => exact (execMatchApply_frame h).within rfl
  | jrnlAppend => exact (execJrnlAppend_frame h).within rfl
  | jrnlGroupIssue => exact (execJrnlGroupIssue_frame h).within rfl
  | jrnlAck => exact (execJrnlAck_frame h).within rfl
  | replicaReplace => exact (execReplicaReplace_frame h).within rfl
  | replicaFillDone => exact (execReplicaFillDone_frame h).within rfl
  | checkpoint => exact (execCheckpoint_frame h).within rfl
  | bitClearDelay => exact (execBitClearDelay_frame h).within rfl
  | rowVerified => exact (execRowVerified_frame h).within rfl
  | rowIdleTimeout => exact (execRowIdleTimeout_frame h).within rfl
  | rmwEntriesDurable => exact (execRmwEntriesDurable_frame h).within rfl
  | rmwVerified => exact (execRmwVerified_frame h).within rfl
  | skipWalkUnit => exact (execSkipWalkUnit_frame h).within rfl
  | reconstructRead => exact (execReconstructRead_frame h).within rfl
  | speJob => exact (execSpeJob_frame h).within rfl
  | speEnable => exact (execSpeEnable_frame h).within rfl
  | speHalt => exact (execSpeHalt_frame h).within rfl
  | speLock => exact (execSpeLock_frame h).within rfl
  | speCalWrite => exact (execSpeCalWrite_frame h).within rfl
  | suspectTrigger => exact (execSuspectTrigger_frame h).within rfl
  | suspectExpiry => exact (execSuspectExpiry_frame h).within rfl
  | fenceTrigger => exact (execFenceTrigger_frame h).within rfl
  | actuatorUnavailable => exact (execActuatorUnavailable_frame h).within rfl
  | actuatorReload => exact (execActuatorReload_frame h).within rfl
  | actuatorRetryTimer => exact (execActuatorRetryTimer_frame h).within rfl
  | rebuildRow => exact (execRebuildRow_frame h).within rfl
  | rebuildZoneDone => exact (execRebuildZoneDone_frame h).within rfl
  | fencedProbe => exact (execFencedProbe_frame h).within rfl
  | requalSwatchDone => exact (execRequalSwatchDone_frame h).within rfl
  | requalVerifyDone => exact (execRequalVerifyDone_frame h).within rfl
  | migrateZone => exact (execMigrateZone_frame h).within rfl
  | reshapeZone => exact (execReshapeZone_frame h).within rfl
  | formatConversion => exact (execFormatConversion_frame h).within rfl
  | scrubRow => exact (execScrubRow_frame h).within rfl
  | commandFetch => exact (execCommandFetch_frame h).within rfl
  | rangeLockRelease => exact (execRangeLockRelease_frame h).within rfl
  | completionPost => exact (execCompletionPost_frame h).within rfl
  | holdLimitExpiry => exact (execHoldLimitExpiry_frame h).within rfl
  | ccEnSet => exact (execCcEnSet_frame h).within rfl
  | ccEnClear => exact (execCcEnClear_frame h).within rfl
  | rejoinWindowExpiry => exact (execRejoinWindowExpiry_frame h).within rfl
  | attachRequest => exact (execAttachRequest_frame h).within rfl
  | partnerDepart => exact (execPartnerDepart_frame h).within rfl
  | roleChange => exact (execRoleChange_frame h).within rfl
  | nssr => exact (execNssr_frame h).within rfl
  | identify => exact (execIdentify_frame h).within rfl
  | getLogPage => exact (execGetLogPage_frame h).within rfl
  | setFeatures => exact (execSetFeatures_frame h).within rfl
  | getFeatures => exact (execGetFeatures_frame h).within rfl
  | powerManagement => exact (execPowerManagement_frame h).within rfl
  | layoutDefaults => exact (execLayoutDefaults_frame h).within rfl
  | scrubSchedule => exact (execScrubSchedule_frame h).within rfl
  | spinUpPermitPolicy => exact (execSpinUpPermitPolicy_frame h).within rfl
  | protectedWriteWindow => exact (execProtectedWriteWindow_frame h).within rfl
  | createIoSq => exact (execCreateIoSq_frame h).within rfl
  | deleteIoSq => exact (execDeleteIoSq_frame h).within rfl
  | createIoCq => exact (execCreateIoCq_frame h).within rfl
  | deleteIoCq => exact (execDeleteIoCq_frame h).within rfl
  | abort => exact (execAbort_frame h).within rfl
  | asynchronousEventRequest => exact (execAsynchronousEventRequest_frame h).within rfl
  | namespaceManagement => exact (execNamespaceManagement_frame h).within rfl
  | namespaceAttachment => exact (execNamespaceAttachment_frame h).within rfl
  | firmwareImageDownload => exact (execFirmwareImageDownload_frame h).within rfl
  | fwCommitStore => exact (execFwCommitStore_frame h).within rfl
  | fwCommitActivateAtReset => exact (execFwCommitActivateAtReset_frame h).within rfl
  | fwCommitSlotAtReset => exact (execFwCommitSlotAtReset_frame h).within rfl
  | fwCommitActivateNow => exact (execFwCommitActivateNow_frame h).within rfl
  | activationHoldStart => exact (execActivationHoldStart_frame h).within rfl
  | activationQuietTimeout => exact (execActivationQuietTimeout_frame h).within rfl
  | activationSwitch => exact (execActivationSwitch_frame h).within rfl
  | selftestShort => exact (execSelftestShort_frame h).within rfl
  | selftestExtended => exact (execSelftestExtended_frame h).within rfl
  | selftestAbort => exact (execSelftestAbort_frame h).within rfl
  | slice => exact (execSlice_frame h).within rfl
  | formatNvm => exact (execFormatNvm_frame h).within rfl
  | securitySend => exact (execSecuritySend_frame h).within rfl
  | securityReceive => exact (execSecurityReceive_frame h).within rfl
  | sanitizeCryptoErase => exact (execSanitizeCryptoErase_frame h).within rfl
  | sanitizeBlockErase => exact (execSanitizeBlockErase_frame h).within rfl
  | nvmeMiSend => exact (execNvmeMiSend_frame h).within rfl
  | nvmeMiReceive => exact (execNvmeMiReceive_frame h).within rfl
  | declareDead => exact (execDeclareDead_frame h).within rfl
  | requalify => exact (execRequalify_frame h).within rfl
  | readmitAsSpare => exact (execReadmitAsSpare_frame h).within rfl
  | setScrubPeriod => exact (execSetScrubPeriod_frame h).within rfl
  | surfaceQuery => exact (execSurfaceQuery_frame h).within rfl
  | reshapeStart => exact (execReshapeStart_frame h).within rfl
  | recorderRead => exact (execRecorderRead_frame h).within rfl
  | recorderClear => exact (execRecorderClear_frame h).within rfl
  | calibrationRequest => exact (execCalibrationRequest_frame h).within rfl
  | flush => exact (execFlush_frame h).within rfl
  | write => exact (execWrite_frame h).within rfl
  | read => exact (execRead_frame h).within rfl
  | compare => exact (execCompare_frame h).within rfl
  | writeZeroes => exact (execWriteZeroes_frame h).within rfl
  | verify => exact (execVerify_frame h).within rfl
  | zoneAppend => exact (execZoneAppend_frame h).within rfl
  | zoneManagementReceive => exact (execZoneManagementReceive_frame h).within rfl
  | zoneOpen => exact (execZoneOpen_frame h).within rfl
  | zoneClose => exact (execZoneClose_frame h).within rfl
  | zoneFinish => exact (execZoneFinish_frame h).within rfl
  | zoneReset => exact (execZoneReset_frame h).within rfl
  | fixityDigest => exact (execFixityDigest_frame h).within rfl
  | salvageRead => exact (execSalvageRead_frame h).within rfl
  | miReadDataStructure => exact (execMiReadDataStructure_frame h).within rfl
  | miSubsystemHealthPoll => exact (execMiSubsystemHealthPoll_frame h).within rfl
  | miControllerHealthPoll => exact (execMiControllerHealthPoll_frame h).within rfl
  | miConfigurationSet => exact (execMiConfigurationSet_frame h).within rfl
  | miConfigurationGet => exact (execMiConfigurationGet_frame h).within rfl
  | miVpdRead => exact (execMiVpdRead_frame h).within rfl
  | miVpdWrite => exact (execMiVpdWrite_frame h).within rfl
  | miReset => exact (execMiReset_frame h).within rfl
  | miPause => exact (execMiPause_frame h).within rfl
  | miResume => exact (execMiResume_frame h).within rfl
  | miAbort => exact (execMiAbort_frame h).within rfl
  | miGetState => exact (execMiGetState_frame h).within rfl
  | miReplay => exact (execMiReplay_frame h).within rfl
  | miTunnelledAdmin => exact (execMiTunnelledAdmin_frame h).within rfl
  | hifFetchHold => exact (execHifFetchHold_frame h).within rfl
  | hifRingConfig => exact (execHifRingConfig_frame h).within rfl
  | feInstanceFail => exact (execFeInstanceFail_frame h).within rfl
  | linkWidthReduce => exact (execLinkWidthReduce_frame h).within rfl
  | dmaStart => exact (execDmaStart_frame h).within rfl
  | dmaAbort => exact (execDmaAbort_frame h).within rfl
  | dmaResume => exact (execDmaResume_frame h).within rfl
  | dmaExtend => exact (execDmaExtend_frame h).within rfl
  | dmaDisable => exact (execDmaDisable_frame h).within rfl
  | dmaDescriptorComplete => exact (execDmaDescriptorComplete_frame h).within rfl
  | dmaBurstError => exact (execDmaBurstError_frame h).within rfl
  | dmaRequest => exact (execDmaRequest_frame h).within rfl
  | dmaEventTrigger => exact (execDmaEventTrigger_frame h).within rfl
  | dmaTimerExpiry => exact (execDmaTimerExpiry_frame h).within rfl
  | pwrDomRequest => exact (execPwrDomRequest_frame h).within rfl
  | dmaQuiesceDone => exact (execDmaQuiesceDone_frame h).within rfl
  | dmaQuiesceTimeout => exact (execDmaQuiesceTimeout_frame h).within rfl
  | pwrHaltReq => exact (execPwrHaltReq_frame h).within rfl
  | pwrLaneLimit => exact (execPwrLaneLimit_frame h).within rfl
  | thermalLimit => exact (execThermalLimit_frame h).within rfl
  | laneGateSwap => exact (execLaneGateSwap_frame h).within rfl
  | apstIdleExpiry => exact (execApstIdleExpiry_frame h).within rfl
  | hqmRingEnable => exact (execHqmRingEnable_frame h).within rfl
  | hqmRingDisable => exact (execHqmRingDisable_frame h).within rfl
  | flushPkt => exact (execFlushPkt_frame h).within rfl
  | flushNow => exact (execFlushNow_frame h).within rfl
  | hqmProdOpen => exact (execHqmProdOpen_frame h).within rfl
  | hqmProdSlot => exact (execHqmProdSlot_frame h).within rfl
  | hqmProdClose => exact (execHqmProdClose_frame h).within rfl
  | hqmConsHeader => exact (execHqmConsHeader_frame h).within rfl
  | hqmConsSlot => exact (execHqmConsSlot_frame h).within rfl
  | hqmConsSkip => exact (execHqmConsSkip_frame h).within rfl
  | hqmStallTimeout => exact (execHqmStallTimeout_frame h).within rfl
  | capFrameIn => exact (execCapFrameIn_frame h).within rfl
  | capRecordOut => exact (execCapRecordOut_frame h).within rfl
  | capEnable => exact (execCapEnable_frame h).within rfl
  | faultSourceOccurrence => exact (execFaultSourceOccurrence_frame h).within rfl
  | faultAcknowledge => exact (execFaultAcknowledge_frame h).within rfl
  | fltSwraise => exact (execFltSwraise_frame h).within rfl
  | fltDefaultCore => exact (execFltDefaultCore_frame h).within rfl
  | warmReset => exact (execWarmReset_frame h).within rfl
  | coreWatchdog => exact (execCoreWatchdog_frame h).within rfl
  | coreFail => exact (execCoreFail_frame h).within rfl
  | clusterFail => exact (execClusterFail_frame h).within rfl
  | laneFail => exact (execLaneFail_frame h).within rfl
  | laneLoopback => exact (execLaneLoopback_frame h).within rfl
  | laneMapWrite => exact (execLaneMapWrite_frame h).within rfl
  | muxSwitch => exact (execMuxSwitch_frame h).within rfl
  | srvMapWrite => exact (execSrvMapWrite_frame h).within rfl
  | coreMapWrite => exact (execCoreMapWrite_frame h).within rfl
  | coreCommit => exact (execCoreCommit_frame h).within rfl
  | coreDiscard => exact (execCoreDiscard_frame h).within rfl
  | injectionUnlock => exact (execInjectionUnlock_frame h).within rfl
  | injRaiseSource => exact (execInjRaiseSource_frame h).within rfl
  | injSingleBitError => exact (execInjSingleBitError_frame h).within rfl
  | injDoubleBitError => exact (execInjDoubleBitError_frame h).within rfl
  | injRowParity => exact (execInjRowParity_frame h).within rfl
  | injServoResidue => exact (execInjServoResidue_frame h).within rfl
  | injLockstep => exact (execInjLockstep_frame h).within rfl
  | injDlDrop => exact (execInjDlDrop_frame h).within rfl
  | injRldBurst => exact (execInjRldBurst_frame h).within rfl
  | sramPatrol => exact (execSramPatrol_frame h).within rfl
  | sramUncorrectable => exact (execSramUncorrectable_frame h).within rfl
  | rldChannelFail => exact (execRldChannelFail_frame h).within rfl
  | stcEntry => exact (execStcEntry_frame h).within rfl
  | stcSecondTick => exact (execStcSecondTick_frame h).within rfl
  | stcMsTick => exact (execStcMsTick_frame h).within rfl
  | stcClear => exact (execStcClear_frame h).within rfl
  | stcCondAdd => exact (execStcCondAdd_frame h).within rfl
  | stcPersist => exact (execStcPersist_frame h).within rfl
  | stcPersistDone => exact (execStcPersistDone_frame h).within rfl
  | stcLock => exact (execStcLock_frame h).within rfl
  | stcReadSelect => exact (execStcReadSelect_frame h).within rfl
  | stcWindowAdvance => exact (execStcWindowAdvance_frame h).within rfl
  | yarnPllLock => exact (execYarnPllLock_frame h).within rfl
  | linkUp => exact (execLinkUp_frame h).within rfl
  | l12HostExit => exact (execL12HostExit_frame h).within rfl
  | basicManagementCommand => exact (execBasicManagementCommand_frame h).within rfl
  | i3cDynamicAddressAssign => exact (execI3cDynamicAddressAssign_frame h).within rfl
  | calibrationAbandon => exact (execCalibrationAbandon_frame h).within rfl

/-- Settles O43: the four parts of the statement are four parts of the command's frame. -/
theorem everyCommandChangesOnlyItsParts : Obligations.EveryCommandChangesOnlyItsParts := by
  unfold Obligations.EveryCommandChangesOnlyItsParts
  intro c s t h
  have frame := exec_frame h
  exact ⟨frame.only, frame.queue, frame.runs, frame.binds⟩

/-- The commands whose parts include the end of a reset or of a power-loss sequence are the resets of the table. -/
theorem commandParts_rst (c : Instr) : (commandParts c).rst = isDeviceReset c := by cases c <;> rfl

/-- The commands whose parts include the bindings are those that may rebind. -/
theorem commandParts_bind (c : Instr) : (commandParts c).bind = mayRebind c := by cases c <;> rfl

/-- Settles O42: the frame of a command that is no reset keeps a power-loss sequence, the reset inputs and the straps. -/
theorem powerlossIsLeftOnlyByAReset : Obligations.PowerlossIsLeftOnlyByAReset := by
  unfold Obligations.PowerlossIsLeftOnlyByAReset
  intro c s t noReset h
  rw [← commandParts_rst] at noReset
  exact (exec_frame h).runs.resolve_left (Bool.eq_false_iff.mp noReset)

/-- Settles O44: the frame of a command that may not rebind keeps the bindings. -/
theorem bindingsChangeOnlyByTheirCommands : Obligations.BindingsChangeOnlyByTheirCommands := by
  unfold Obligations.BindingsChangeOnlyByTheirCommands
  intro c s t noRebind h
  rw [← commandParts_bind] at noRebind
  exact (exec_frame h).binds.resolve_left (Bool.eq_false_iff.mp noRebind)

/-! ### Steps -/

theorem step_nil {s : State} (h : s.pending = []) : step s = .next (idle s) := by rw [step, h]

theorem step_cons {s : State} {c : Instr} {q : List Instr} (h : s.pending = c :: q) : step s = exec c { s with pending := q } := by
  rw [step, h]

/-- Settles O36. -/
theorem stepRunsTheFrontCommand : Obligations.StepRunsTheFrontCommand := by
  unfold Obligations.StepRunsTheFrontCommand
  intro c q s h
  exact step_cons h

/-- Settles O37: the frame of the capture port's sending keeps the queue. -/
theorem emptyQueueIdles : Obligations.EmptyQueueIdles := by
  unfold Obligations.EmptyQueueIdles
  intro s h
  exact ⟨idle s, step_nil h, rfl, (idle_frame (k := allParts) Frame.refl rfl).queue.trans h⟩

/-- Settles O38: after reset nothing is listed. -/
theorem resetMeetsTheInvariant : Obligations.ResetMeetsTheInvariant := by
  unfold Obligations.ResetMeetsTheInvariant
  exact ⟨rfl, rfl, rfl⟩

/-- Settles O39: every frame keeps the memory's canonical form, and the queue is no part of the memory. -/
theorem everyStepKeepsTheInvariant : Obligations.EveryStepKeepsTheInvariant := by
  unfold Obligations.EveryStepKeepsTheInvariant
  intro s t inv h
  cases hq : s.pending with
  | nil =>
    obtain rfl := Host.Outcome.next.inj ((step_nil hq).symm.trans h)
    exact (idle_frame (k := allParts) Frame.refl rfl).canon inv
  | cons c q => exact (exec_frame ((step_cons hq).symm.trans h)).canon inv

/-- Settles O40: every frame keeps the queue that the command runs on, which is the rest behind it. -/
theorem aStepTakesOneCommand : Obligations.AStepTakesOneCommand := by
  unfold Obligations.AStepTakesOneCommand
  intro s t h
  cases hq : s.pending with
  | nil =>
    obtain rfl := Host.Outcome.next.inj ((step_nil hq).symm.trans h)
    exact (idle_frame (k := allParts) Frame.refl rfl).queue.trans hq
  | cons c q => exact (exec_frame ((step_cons hq).symm.trans h)).queue

/-! ### Completion -/

/-- An event ends in a next state in reset and out of it. -/
theorem next_of_ite {p : Prop} [Decidable p] (x y : State) :
    ∃ t, (if p then .next x else .next y : Host.Outcome State Fault Refusal) = .next t := by
  split
  · exact ⟨x, rfl⟩
  · exact ⟨y, rfl⟩

/-- Every command completes: eight answer a next state at once, and all others are events. -/
theorem exec_completes (c : Instr) (s : State) : ∃ t, exec c s = .next t := by
  cases c
  case powerOnReset | resetNQualified | resetNRise | railOutOfWindow | railResetLevel | shockPinAssert | paFaultAssert | crystalLost =>
    exact ⟨_, rfl⟩
  all_goals exact next_of_ite _ _

theorem step_completes (s : State) : SafeStep s := by
  cases hq : s.pending with
  | nil => exact ⟨_, step_nil hq⟩
  | cons c q => rw [SafeStep, step_cons hq]; exact exec_completes c _

/-- Settles O41: each step of a run completes, whatever the steps before it left. -/
theorem everyRunGoesOn : Obligations.EveryRunGoesOn := by
  unfold Obligations.EveryRunGoesOn
  refine ⟨exec_completes, fun n => ?_⟩
  induction n with
  | zero => exact fun _ => trivial
  | succ n ih =>
    intro s
    obtain ⟨t, ht⟩ := step_completes s
    exact ⟨t, ht, ih t⟩

end Sys2Proof.Proofs
end

