-- ==== Sys2Proof/Proofs/Alignment.lean ====
section
/-!
The width and alignment of a register access (R16): what stops an access to a register, and from that the obligation.
-/
namespace Sys2Proof.Proofs
open Sys2Proof Sys2Proof.Machine Sys2Proof.Laws

/-- What stops an access to a register of a block, once neither a hook core's partition nor a failed memory channel stops it (R16, R480, R483). -/
theorem accessFault_reg {s : State} {x : Access} {b : Blk} {off e : Nat} (who : x.who = .engine e) (hr : regionAt x.addr = .reg b off)
    (up : rldDown s x.addr = false) : accessFault s x =
      if domState s (regDom b off) ≠ .on then some .gated else if x.bytes ≠ 4 ∨ x.addr % 4 ≠ 0 then some .misaligned else none := by
  have writable : writeBad s x.addr = false := by simp only [writeBad, hr]
  simp only [accessFault, who, hr, up, writable, Bool.false_eq_true, if_false, reduceCtorEq, and_false, or_false]

/-- A choice that answers nothing answers nothing on its other branch when the one names something. -/
theorem eq_none_of_ite {α : Type} {p : Prop} [Decidable p] {a : α} {o : Option α} (h : (if p then some a else o) = none) : o = none := by
  by_cases hp : p
  · exact absurd ((if_pos hp).symm.trans h) (Option.some_ne_none a)
  · exact (if_neg hp).symm.trans h

/-- A register access that nothing stops has 4 bytes at a multiple of 4 (R16). -/
theorem aligned_of_accessFault_none {s : State} {x : Access} {b : Blk} {off : Nat} (free : accessFault s x = none)
    (hr : regionAt x.addr = .reg b off) : x.bytes = 4 ∧ x.addr % 4 = 0 := by
  refine Decidable.byContradiction fun bad => ?_
  have misaligned : x.bytes ≠ 4 ∨ x.addr % 4 ≠ 0 := Decidable.not_and_iff_not_or_not.mp bad
  unfold accessFault at free
  simp only [hr, if_pos misaligned] at free
  exact Option.some_ne_none _ (eq_none_of_ite (eq_none_of_ite (eq_none_of_ite free)))

/-- An access with a fault of the kind that its command is for raises the source and does nothing else (R480). -/
theorem accessStops_of_fault {s : State} {x : Access} {k : AccessFault} (h : accessFault s x = some k) (src : Nat) :
    accessStops k src x s = raise src (if x.write.isNone then setRdata 0 s else s) := if_pos h

/-- Settles O48: in a domain that is on, the width and the address alone decide whether a register access is misaligned. -/
theorem aMisalignedAccessDoesNothing : Obligations.AMisalignedAccessDoesNothing := by
  unfold Obligations.AMisalignedAccessDoesNothing
  refine ⟨fun s e x b off live who hr on up bad => ?_, fun s x b off free hr => aligned_of_accessFault_none free hr⟩
  have fault : accessFault s x = some .misaligned := by rw [accessFault_reg who hr up, if_neg (not_not_intro on), if_pos bad]
  exact (act_live live _).trans (congrArg _ (accessStops_of_fault fault 168))

end Sys2Proof.Proofs
end

