-- ==== Sys2Proof/Proofs/DataBits.lean ====
section
/-!
The data bits of a wedge interval (R150): the servo span is the least that covers the wedge's servo bits, and a data index has its place and
its order by its quotient and remainder in the data region.
-/
namespace Sys2Proof.Proofs
open Sys2Proof Sys2Proof.Machine Sys2Proof.Laws

/-- The quotient rounded up times the divisor is the least multiple that is not below the dividend. -/
theorem ceilDiv_mul_bounds (n : Nat) {d : Nat} (hd : 0 < d) : n ≤ ceilDiv n d * d ∧ ceilDiv n d * d < n + d := by
  have split := Nat.div_add_mod (n + d - 1) d
  have rest := Nat.mod_lt (n + d - 1) hd
  have product := Nat.mul_comm d ((n + d - 1) / d)
  simp only [ceilDiv]
  omega

/-- A data index stands at its own place in the data region of its wedge interval (R150). -/
theorem dataBit_div_mod {bw span : Nat} (room : 0 < dataRegion bw span) (m : Nat) :
    dataBit bw span (dataRegion bw span) m / bw = m / dataRegion bw span ∧
    dataBit bw span (dataRegion bw span) m % bw = span + 8 + m % dataRegion bw span := by
  have place := Nat.mod_lt m room
  have inside : span + 8 + m % dataRegion bw span < bw := by unfold dataRegion marginBits at room place ⊢; omega
  have bit : dataBit bw span (dataRegion bw span) m = span + 8 + m % dataRegion bw span + bw * (m / dataRegion bw span) := by
    rw [dataBit, Nat.mul_comm bw, marginBits]; omega
  rw [bit, Nat.add_mul_div_left _ _ (Nat.zero_lt_of_lt inside), Nat.add_mul_mod_self_left, Nat.div_eq_of_lt inside, Nat.mod_eq_of_lt inside]
  exact ⟨Nat.zero_add _, rfl⟩

/-- A higher index has a higher bit number: in the same wedge interval by its place, else by the interval (R150). -/
theorem dataBit_lt_dataBit {bw span m n : Nat} (room : 0 < dataRegion bw span) (lt : m < n) :
    dataBit bw span (dataRegion bw span) m < dataBit bw span (dataRegion bw span) n := by
  obtain ⟨mInterval, mPlace⟩ := dataBit_div_mod room m
  obtain ⟨nInterval, nPlace⟩ := dataBit_div_mod room n
  rcases Nat.lt_or_eq_of_le (Nat.div_le_div_right (c := dataRegion bw span) (Nat.le_of_lt lt)) with earlier | same
  · rw [← mInterval, ← nInterval] at earlier
    exact Nat.lt_of_div_lt_div earlier
  · have mSplit := Nat.div_add_mod m (dataRegion bw span)
    have nSplit := Nat.div_add_mod n (dataRegion bw span)
    rw [same] at mSplit
    unfold dataBit
    rw [same]
    omega

/-- Settles O55: the span by the quotient rounded up, the place and the order by the quotient and remainder of an index. -/
theorem dataBitsLieInTheirRegion : Obligations.DataBitsLieInTheirRegion := by
  unfold Obligations.DataBitsLieInTheirRegion
  intro div bw pw periods room
  refine ⟨ceilDiv_mul_bounds _ periods, fun m => ?_⟩
  obtain ⟨interval, place⟩ := dataBit_div_mod room m
  have below := Nat.mod_lt m room
  have region : dataRegion bw (servoSpan div bw pw) + servoSpan div bw pw + 16 = bw := by unfold dataRegion marginBits at room ⊢; omega
  exact ⟨interval, by omega, by omega, fun n lt => dataBit_lt_dataBit room lt⟩

end Sys2Proof.Proofs
end

