-- ==== Sys2Proof/Proofs/ResetValues.lean ====
section
/-!
The registers after a full-device reset (R487): a finite table, read off block by block.
-/
namespace Sys2Proof.Proofs
open Sys2Proof Sys2Proof.Machine Sys2Proof.Laws

/-- Settles O54: the reset state and each block's listing are closed, so each block's listing is compared with its views by evaluation. -/
theorem resetRegisterValues : Obligations.ResetRegisterValues := by
  unfold Obligations.ResetRegisterValues
  intro b
  cases b with
  | lane l => exact (by decide +kernel : ∀ l, ∀ x ∈ resetListing (.lane l), blockView 0 false (.lane l) x.1 State.reset = x.2) l
  | srv e => exact (by decide +kernel : ∀ e, ∀ x ∈ resetListing (.srv e), blockView 0 false (.srv e) x.1 State.reset = x.2) e
  | flt | stc | dma | hqm | pwr | clk | spn | yck | spe | hif | cap => decide +kernel

end Sys2Proof.Proofs
end

