-- ==== Sys2Proof/Proofs/Completion.lean ====
section
/-!
How the completion statements are proved: out of reset an event acts, so what its operation does under a clause's hypotheses is what the
command answers.
-/
namespace Sys2Proof.Proofs
open Sys2Proof Sys2Proof.Machine Sys2Proof.Laws

/-- An event answers what its operation does (R52). -/
theorem act_next {s t : State} {f : State → State} (live : Live s) (h : f s = t) : act s f = .next t := (act_live live f).trans (congrArg _ h)

/-- An event whose operation leaves a window answers what the operation does, with the note of the window's change (R317). -/
theorem actWindow_next {s t : State} {f : State → State} (live : Live s) (h : f s = t) : actWindow s f = .next (windowNote (window s) t) :=
  act_next live (congrArg (windowNote (window s)) h)

/-- A spindle command answers what its operation does, with the lanes' guards following (R189). -/
theorem guarded_next {s t : State} {f : State → State} (live : Live s) (h : f s = t) : guarded s f = .next (guardAll t) :=
  act_next live (congrArg guardAll h)

/-- A command that answers a next state of which P holds completes so. -/
theorem completes_of_next {c : Instr} {s t : State} {P : State → Prop} (h : exec c s = .next t) (p : P t) : Completes c s P := ⟨t, h, p⟩

/-! What a part put in its place reads, and a part put twice. -/

@[simp] theorem setSrv_get (e : EngIx) (v : Srv) (s : State) : (setSrv e v s).srv[e] = v := Vector.getElem_set_self _
@[simp] theorem setLane_get (l : LaneIx) (v : Lane) (s : State) : (setLane l v s).lane[l] = v := Vector.getElem_set_self _
@[simp] theorem setPort_get (a : ActIx) (v : Port) (s : State) : (setPort a v s).port[a] = v := Vector.getElem_set_self _
@[simp] theorem setCtl_get (c : CtlIx) (v : Ctl) (s : State) : (setCtl c v s).hif.ctl[c] = v := Vector.getElem_set_self _
@[simp] theorem setChan_get (n : ChanIx) (c : Chan) (s : State) : (setChan n c s).dma.chan[n] = c := Vector.getElem_set_self _

theorem setSrv_setSrv (e : EngIx) (v w : Srv) (s : State) : setSrv e w (setSrv e v s) = setSrv e w s :=
  congrArg (fun x => { s with srv := x }) (Vector.set_set _ _)
theorem setLane_setLane (l : LaneIx) (v w : Lane) (s : State) : setLane l w (setLane l v s) = setLane l w s :=
  congrArg (fun x => { s with lane := x }) (Vector.set_set _ _)
theorem setPort_setPort (a : ActIx) (v w : Port) (s : State) : setPort a w (setPort a v s) = setPort a w s :=
  congrArg (fun x => { s with port := x }) (Vector.set_set _ _)

end Sys2Proof.Proofs
end

