-- ==== Sys2Proof/Proofs/ResetsAndLinks.lean ====
section
/-!
The completion of the resets, the rails, the power loss and the pins.
-/
namespace Sys2Proof.Proofs
open Sys2Proof Sys2Proof.Machine Sys2Proof.Laws

/-- A power failure in ready, with the spindle not on hold, enters the power-loss sequence and builds the shares, unless a refuge already
waits (R316, R318). -/
theorem powerLoss_of_ready {s : State} (plActive : s.sys.plActive = false) (phase : s.sys.phase = .ready) (hold : s.spn.hold = false) :
    powerLoss s =
      let u := wakeForLoss (abortLanes (powerlossEntry { s with sys := { s.sys with plActive := true, phase := .powerloss } }))
      guardAll (if u.sys.refugeUnconsumed then u else { u with sys := { u.sys with refugeEpoch := u.spe.next, shares := buildShares u } }) := by
  simp only [powerLoss, plActive, phase, hold, Bool.false_and, Bool.false_eq_true, if_false]

/-- Settles O2. -/
theorem resetsAndRailsComplete : Obligations.ResetsAndRailsComplete := by
  unfold Obligations.ResetsAndRailsComplete
  refine ⟨fun s straps => ?hold,
    fun s straps porHold railLow railHigh rstLow => ?release,
    fun s rstLow => ?resetNQualified,
    fun s straps rstLow porHold => ?resetNRise,
    fun s r below above live out low high => ?railOutOfWindow,
    fun s live plActive phase hold => ?railBrownout,
    fun s r => ?railResetLevel,
    fun s live plActive phase hold => ?pwrfailQualified,
    fun s l live plActive share guards on => ?refugeWrite,
    fun s live plActive shares => ?refugeDone,
    fun s live plActive parked => ?powerlossRecoveryReset⟩
  case hold => exact completes_of_next rfl ⟨rfl, Bool.or_true _, rfl⟩
  case release =>
    have may : ¬ (s.sys.porHold = false ∨ s.pwr.railLow ≠ 0 ∨ s.pwr.railHigh ≠ 0) := by simp [porHold, railLow, railHigh]
    refine congrArg Host.Outcome.next ?_
    simp only [powerOnReset, if_true, if_neg may, rstLow, Bool.false_eq_true, if_false]
  case resetNQualified =>
    have start : resetQualified s = fullReset { s with sys := { s.sys with rstLow := true } } := if_neg (by rw [rstLow]; exact Bool.false_ne_true)
    exact completes_of_next (congrArg Host.Outcome.next start) ⟨rfl, rfl⟩
  case resetNRise =>
    refine congrArg Host.Outcome.next ?_
    simp only [resetRise, rstLow, porHold, Bool.true_eq_false, Bool.false_eq_true, if_false]
  case railOutOfWindow =>
    refine congrArg Host.Outcome.next ?_
    simp only [railWindow, low, high, live, out, Bool.or_self, and_self, if_true]
  case railBrownout => exact completes_of_next (act_live live _) (powerLoss_of_ready plActive phase hold)
  case railResetLevel => exact completes_of_next rfl ⟨rfl, Bool.or_true _, rfl⟩
  case pwrfailQualified => exact completes_of_next (act_live live _) (powerLoss_of_ready plActive phase hold)
  case refugeWrite =>
    have write : refugeWrite l s = _ := (if_neg (by simp [plActive, share])).trans ((if_neg (not_or.mpr ⟨not_not_intro guards, not_not_intro on⟩)).trans (if_pos plActive))
    exact completes_of_next (act_next live write) rfl
  case refugeDone =>
    refine act_next live ?_
    simp only [refugeDone, plActive, shares, Bool.true_eq_false, Bool.false_eq_true, or_self, if_false, false_and]
  case powerlossRecoveryReset =>
    refine completes_of_next (act_next live (if_pos ⟨plActive, parked⟩)) ⟨rfl, rfl⟩

theorem shockBegin_keeps (n : Fin 2) (s : State) : RaiseKeeps s (shockBegin n s) := by
  unfold shockBegin
  split
  · exact .refl
  · exact .other rfl rfl

theorem srvEvent_keeps (e : EngIx) (b : Nat) (s : State) : RaiseKeeps s (srvEvent e b s) := by
  unfold srvEvent
  refine RaiseKeeps.trans ?_ (raise_keeps _ _)
  exact .other rfl rfl

/-- What a shock's pin starts leaves the pins as they are (R134). -/
theorem shockPin_snsInt (n : Fin 2) (s : State) : (shockPin n true s).sys.snsInt = setBit s.sys.snsInt n.val := by
  have keeps : RaiseKeeps { s with sys := { s.sys with snsInt := setBit s.sys.snsInt n.val } } (shockPin n true s) := by
    unfold shockPin
    simp only [if_true]
    refine RaiseKeeps.step ?_ (guardAll_sys _) (guardAll_flt _)
    refine RaiseKeeps.trans (shockBegin_keeps n _) (.foldl _ (fun u e => ?_) _ _)
    split
    · refine RaiseKeeps.trans ?_ (srvEvent_keeps _ _ _)
      exact .other rfl rfl
    · exact .refl
  rw [keeps.sys]

/-- Settles O3. -/
theorem pinEventsComplete : Obligations.PinEventsComplete := by
  unfold Obligations.PinEventsComplete
  refine ⟨fun s live phase startPend state => ?permitReady,
    fun s live phase startPend => ?permitSafe,
    fun s live => ?permitInFall,
    fun s live delayOn => ?permitDelayExpiry,
    fun s live => ?errOutMinExpiry,
    fun s n => ?shockLow,
    fun s n => ?shockHigh,
    fun s a level => ?paFaultAssert⟩
  case permitReady => exact act_next live (by simp [permitHigh, earnIfIdle, phase, startPend, state])
  case permitSafe => 
    exact completes_of_next (act_live live _) (by simp [permitHigh, earnIfIdle, earnPermit, phase, startPend])
  case permitInFall => exact act_next (f := fun s => { s with sys := { s.sys with permitIn := false } }) live rfl
  case permitDelayExpiry => exact act_next live (if_pos delayOn)
  case errOutMinExpiry => exact act_next (f := fun s => { s with sys := { s.sys with errMin := false } }) live rfl
  case shockLow => rfl
  case shockHigh => exact completes_of_next rfl (shockPin_snsInt n s)
  case paFaultAssert => rfl

end Sys2Proof.Proofs

/-!
The completion of the link events and of the clock commands.
-/
namespace Sys2Proof.Proofs
open Sys2Proof Sys2Proof.Machine Sys2Proof.Laws

/-- What a port's operation does where the port is used and the device serves it (R326). -/
theorem onPort_used {c : CtlIx} {s t : State} {f : State → State} (used : portUsed s c = true) (noLoss : s.sys.plActive = false)
    (lit : s.sys.phase ≠ .dark) (h : f s = t) : onPort c f s = t := (if_pos ⟨used, noLoss, lit⟩).trans h

/-- An event of the clock unit leaves all of its part but the event register (R463). -/
theorem clkEvent_clk (b : Nat) (s : State) : (clkEvent b s).clk = { s.clk with regs := (clkEvent b s).clk.regs } := by
  unfold clkEvent
  extract_lets u
  split
  · rw [raise_clk]
  · rfl

/-- Settles O4. -/
theorem linkAndClockEventsComplete : Obligations.LinkAndClockEventsComplete := by
  unfold Obligations.LinkAndClockEventsComplete
  refine ⟨fun s c live used perst noLoss lit => ?perstAssert,
    fun s c live used => ?perstDeassert,
    fun s c live used up noLoss lit => ?linkDown,
    fun s c live used up noLoss lit => ?functionReset,
    fun s c live used up noLoss lit => ?l12Entry,
    fun s c live used l12 noLoss lit => ?l12Exit,
    fun s live phase => ?crystalLost,
    fun s ppm live onBackup restored => ?crystalRestored,
    fun s w live backup => ?selectBackup,
    fun s w live crystal onBackup restored => ?selectCrystal,
    fun s c w live least most step => ?clkClusterFreq⟩
  case perstAssert =>
    refine act_next live ((if_neg (by rw [used, perst]; decide)).trans (if_neg ?_))
    exact not_or.mpr ⟨ne_true_of_eq_false noLoss, lit⟩
  case perstDeassert => exact act_next live (if_pos used)
  case linkDown => exact act_next live (onPort_used used noLoss lit (if_pos up))
  case functionReset => exact act_next live (onPort_used used noLoss lit (if_pos up))
  case l12Entry => exact act_next live (onPort_used used noLoss lit (if_pos up))
  case l12Exit => exact act_next live (onPort_used used noLoss lit (if_pos l12))
  case crystalLost =>
    have lost : crystalLost s = _ := if_neg (not_or.mpr ⟨ne_true_of_eq_false live, phase⟩)
    refine completes_of_next (congrArg Host.Outcome.next lost) ?_
    rw [clkEvent_clk, clkEvent_clk]
    exact ⟨rfl, rfl, rfl⟩
  case crystalRestored =>
    refine completes_of_next (act_next live (if_pos ⟨onBackup, restored⟩)) ?_
    rw [clkEvent_clk]
    exact ⟨rfl, rfl, rfl⟩
  case selectBackup => exact act_next live (if_pos backup)
  case selectCrystal =>
    refine act_next live ((if_neg (ne_true_of_eq_false crystal)).trans ((if_neg ?_).trans (if_pos (.inl restored))))
    rw [onBackup]
    exact Bool.noConfusion
  case clkClusterFreq => exact act_next live (if_pos (by simp [clusterFreqOk, least, most, step]))

end Sys2Proof.Proofs
end

