-- ==== Sys2Proof/Proofs/PowerStates.lean ====
section
/-!
What operations leave of the device's own state and of FLT: all but what an occurrence of a fault source writes.
-/
namespace Sys2Proof.Proofs
open Sys2Proof Sys2Proof.Machine Sys2Proof.Laws

theorem freshMark_keeps (k : Nat) (s : State) : RaiseKeeps s (freshMark k s) := ⟨rfl, rfl, fun _ h => h, fun h => h⟩

theorem clkEvent_keeps (b : Nat) (s : State) : RaiseKeeps s (clkEvent b s) := by
  unfold clkEvent
  dsimp only
  split
  · refine RaiseKeeps.trans ?_ (raise_keeps _ _)
    exact .other rfl rfl
  · exact ⟨rfl, rfl, fun _ h => h, fun h => h⟩

theorem spnEvent_keeps (b : Nat) (s : State) : RaiseKeeps s (spnEvent b s) := by
  unfold spnEvent
  refine RaiseKeeps.trans ?_ (raise_keeps _ _)
  exact .other rfl rfl

theorem rowEvent_keeps (l : LaneIx) (b : Nat) (s : State) : RaiseKeeps s (rowEvent l b s) := by
  unfold rowEvent
  refine RaiseKeeps.trans ?_ (raise_keeps _ _)
  exact .other rfl rfl

theorem patEvent_keeps (l : LaneIx) (b : Nat) (s : State) : RaiseKeeps s (patEvent l b s) := by
  unfold patEvent
  refine RaiseKeeps.trans ?_ (raise_keeps _ _)
  exact .other rfl rfl

theorem rowSwap_keeps (l : LaneIx) (s : State) : RaiseKeeps s (rowSwap l s) := by
  unfold rowSwap
  dsimp only
  split
  · exact .refl
  · refine RaiseKeeps.trans ?_ (rowEvent_keeps l 8 _)
    exact .other rfl rfl

theorem matchApply_keeps (l : LaneIx) (s : State) : RaiseKeeps s (matchApply l s) := by
  unfold matchApply
  dsimp only
  split
  · refine RaiseKeeps.trans ?_ (patEvent_keeps l 6 _)
    exact .other rfl rfl
  · refine RaiseKeeps.trans ?_ (patEvent_keeps l 6 _)
    exact .other rfl rfl
  · exact .refl

theorem wakeLane_keeps (l : LaneIx) (s : State) : RaiseKeeps s (wakeLane l s) := by
  unfold wakeLane
  split
  · refine RaiseKeeps.trans ?_ (matchApply_keeps l _)
    refine RaiseKeeps.trans ?_ (rowSwap_keeps l _)
    exact .other rfl rfl
  · exact .refl

theorem domLose_keeps (d : Nat) (s : State) : RaiseKeeps s (domLose d s) :=
  have h : Frame { srv := true, yck := true, lane := true, ddp := true, cap := true, mem := true } s (domLose d s) := domLose_frame .refl (by rfl)
  .other h.keep_sys h.keep_flt

/-- A domain that changes its state changes of the device's own state and of FLT only what an occurrence writes (R452). -/
theorem setDom_keeps (d : Nat) (x : DomState) (s : State) : RaiseKeeps s (setDom d x s) := by
  have lose (u : State) (h : RaiseKeeps s u) : RaiseKeeps s (if x = .off then domLose d u else u) := by
    split
    · exact h.trans (domLose_keeps d u)
    · exact h
  have wake (u : State) : RaiseKeeps u (if h : 12 ≤ d ∧ d < 17 ∧ x = .on then wakeLane ⟨d - 12, by omega⟩ u else u) := by
    split
    · exact wakeLane_keeps _ u
    · exact .refl
  unfold setDom
  split
  · split
    · exact .refl
    · refine RaiseKeeps.trans ?_ (wake _)
      exact lose _ (.other rfl rfl)
  · exact .refl

theorem setDom_if_keeps (c : Prop) [Decidable c] (d : Nat) (x : DomState) (s : State) : RaiseKeeps s (if c then setDom d x s else s) := by
  split
  · exact setDom_keeps d x s
  · exact .refl

theorem ps4Settle_keeps (s : State) : RaiseKeeps s (ps4Settle s) := by
  have slow : RaiseKeeps s (if speedAtLeast s.spn 800 then s else setDom 23 .off s) := by
    split
    · exact .refl
    · exact setDom_keeps 23 .off s
  unfold ps4Settle
  split
  · exact .refl
  · exact slow.trans (setDom_if_keeps _ 22 .retain _)

theorem shedLanes_keeps (s : State) : RaiseKeeps s (shedLanes s) := .foldl _ (fun u _ => setDom_if_keeps _ _ .retain u) _ _

theorem wakeLanes_keeps (s : State) : RaiseKeeps s (wakeLanes s) :=
  .foldl _ (fun u _ => by
    split
    · exact .refl
    · exact setDom_if_keeps _ _ .on u) _ _

/-- An operational power state that is entered changes of the device's own state and of FLT only what an occurrence writes (R455). -/
theorem enterPs_keeps (p : Fin 5) (s : State) : RaiseKeeps s (enterPs p s) := by
  have lanes (u : State) : RaiseKeeps u (if p.val ≤ 2 then wakeLanes (shedLanes u) else u) := by
    split
    · exact (shedLanes_keeps u).trans (wakeLanes_keeps _)
    · exact .refl
  unfold enterPs
  refine RaiseKeeps.trans ?_ (ps4Settle_keeps _)
  refine RaiseKeeps.trans ?_ (lanes _)
  refine RaiseKeeps.trans ?_ (RaiseKeeps.foldl _ (fun t d => ?_) _ _)
  rotate_left
  · split
    · split
      · exact .refl
      · exact setDom_keeps _ _ t
    · exact .refl
  exact .other rfl rfl

end Sys2Proof.Proofs

/-!
The completion of the power states: POST, cast-on, bind-off, shutdown and wake.
-/
namespace Sys2Proof.Laws
open Sys2Proof.Machine

theorem RaiseKeeps.phase {s t : State} (h : RaiseKeeps s t) : t.sys.phase = s.sys.phase := by rw [h.sys]

end Sys2Proof.Laws

namespace Sys2Proof.Proofs
open Sys2Proof Sys2Proof.Machine Sys2Proof.Laws

theorem earnIfIdle_phase (s : State) : (earnIfIdle s).sys.phase = s.sys.phase := by
  unfold earnIfIdle
  split <;> rfl

theorem postCrystal_keeps (s : State) : RaiseKeeps s (postCrystal s) := by
  unfold postCrystal
  split
  · refine RaiseKeeps.trans ?_ (clkEvent_keeps 1 _)
    refine RaiseKeeps.trans ?_ (clkEvent_keeps 0 _)
    exact .other rfl rfl
  · exact .refl

/-- What POST does at its end leaves the phase it has set. -/
theorem postEnd_phase (s : State) : (postCrystal (earnIfIdle s)).sys.phase = s.sys.phase :=
  (postCrystal_keeps _).phase.trans (earnIfIdle_phase s)

/-- The parts that POST may change. -/
def postParts : Parts :=
  { sys := true, flt := true, pwr := true, clk := true, spn := true, srv := true, port := true, yck := true, lane := true, ddp := true,
    dma := true, hqm := true, cap := true, stc := true, spe := true, arr := true, hif := true, host := true, mem := true, bind := true }

/-- POST leaves the sampled straps. -/
theorem straps_of_postParts {s t : State} (h : Frame postParts s t) : t.sys.strap = s.sys.strap :=
  have ⟨_, _, _, strap, _⟩ := h.runs.resolve_left Bool.false_ne_true
  strap

/-- POST past its checks of the ROM and the boot core. -/
theorem post_passes {f : PostFindings} (rom : f.romCrcOk = true) (boot : f.bootCorePasses = true) :
    ¬ (f.romCrcOk = false ∨ f.bootCorePasses = false) := by rw [rom, boot]; decide

theorem safeEnd_host (s : State) : (postCrystal (earnIfIdle (safeDomains s))).host = s.host :=
  (postCrystal_frame (k := { postParts with host := false }) (earnIfIdle_frame (safeDomains_frame .refl (by rfl)) (by rfl)) (by rfl)).keep_host

/-- A power-on self-test that fails a step ends in Safe Mode with the critical condition (R298, R300). -/
theorem postRun_safe {s : State} {f : PostFindings} (phase : s.sys.phase = .post) (rom : f.romCrcOk = true) (boot : f.bootCorePasses = true)
    (step : safeStep s f (postRoles (postCores s f)) ≠ 0) :
    ∃ u : State, u.host = s.host ∧ postRun f s =
      postCrystal (earnIfIdle (safeDomains { u with sys := { u.sys with phase := .safe }, host := { u.host with critical := true } })) := by
  refine ⟨_, ?_, (if_neg (not_not_intro phase)).trans ((if_neg (post_passes rom boot)).trans (if_pos step))⟩
  split
  · cases bootSlot s f
    · rfl
    · exact (postStores_frame (k := partsPwrEvent) .refl (by rfl)).keep_host
  · rfl

/-- A power-on self-test that passes goes on to spin-up where the strap says so, and else to standby in PS4 (R298). -/
theorem postRun_passes {s : State} {f : PostFindings} (phase : s.sys.phase = .post) (rom : f.romCrcOk = true) (boot : f.bootCorePasses = true)
    (step : safeStep s f (postRoles (postCores s f)) = 0) :
    ∃ u : State, u.sys.strap = s.sys.strap ∧ postRun f s =
      postCrystal (earnIfIdle (if bitOf u.sys.strap 6 then { u with sys := { u.sys with phase := .spinup } }
        else enterPs 4 { u with sys := { u.sys with phase := .standby } })) := by
  refine ⟨_, ?_, (if_neg (not_not_intro phase)).trans ((if_neg (post_passes rom boot)).trans (if_neg (not_not_intro step)))⟩
  have image (u : State) : Frame postParts u (match bootSlot s f with | some i => postImage i u | none => u) := by
    split
    · exact postImage_frame .refl (by rfl)
    · exact .refl
  have tail (u : State) : Frame postParts u (stcRestore (postSpindle f.spindleMismatches u)) :=
    stcRestore_frame (postSpindle_frame .refl (by rfl)) (by rfl)
  refine (straps_of_postParts (image _)).trans ((straps_of_postParts (tail _)).trans ?_)
  split
  · exact (straps_of_postParts (.getDMap .refl fun _ => postStores_frame .refl (by rfl))).trans rfl
  · rfl

theorem safeDomains_keeps (s : State) : RaiseKeeps s (safeDomains s) :=
  .foldl _ (fun t d => by
    split
    · split
      · exact .refl
      · exact setDom_keeps _ _ t
    · exact .refl) _ _

theorem becomeReady_waking {s : State} (phase : s.sys.phase = .waking) (heads : headsReady s = true) (restored : s.stc.restored = true) :
    becomeReady s =
      let u := reachOp { s with sys := { s.sys with phase := .ready, spinRequested := false, refugeUnconsumed := false } }
      if shuttingDown u then { u with sys := { u.sys with phase := .bindoff .normal 1 } } else kick u := by
  simp only [becomeReady, phase, heads, restored, Bool.and_self, decide_true, Bool.true_or, Bool.true_eq_false, reduceCtorEq, decide_false,
    Bool.false_eq_true, if_false]

/-- Settles O5. -/
theorem powerStatesComplete : Obligations.PowerStatesComplete := by
  unfold Obligations.PowerStatesComplete
  refine ⟨fun s f live phase rom => ?postDark,
    fun s f live phase rom boot step => ?postSafe,
    fun s f live phase rom boot step strap => ?postSpinup,
    fun s f live phase rom boot step strap => ?postStandby,
    fun s live phase safeCommit => ?safeCommitReset,
    fun s live idle phase => ?spinupStart,
    fun s sram live phase doneSent allParked => ?castonLoad,
    fun s sets guard sram live phase journalDone => ?castonTables,
    fun s live phase heads restored => ?ready,
    fun s b live phase flight flushes fetched => ?bindOff,
    fun s c live used plActive en shst role phase => ?shutdownNotify,
    fun s live phase spinRequested startPend idle psTarget => ?ps4Wake,
    fun s live phase spinRequested allParked => ?ps3Wake⟩
  case postDark => exact act_next live ((if_neg (not_not_intro phase)).trans (if_pos (.inl rom)))
  case postSafe =>
    obtain ⟨u, host, run⟩ := postRun_safe phase rom boot step
    refine completes_of_next (act_next live run) ⟨?_, ?_⟩
    · rw [safeEnd_host, host]
    · rw [postEnd_phase, (safeDomains_keeps _).phase]
  case postSpinup =>
    obtain ⟨u, same, run⟩ := postRun_passes phase rom boot step
    refine completes_of_next (act_next live run) ?_
    rw [postEnd_phase, same, if_pos strap]
  case postStandby =>
    obtain ⟨u, same, run⟩ := postRun_passes phase rom boot step
    refine completes_of_next (act_next live run) ?_
    rw [postEnd_phase, same, if_neg (ne_true_of_eq_false strap), (enterPs_keeps _ _).phase]
  case safeCommitReset => exact completes_of_next (act_next live (if_pos ⟨phase, safeCommit⟩)) ⟨rfl, rfl, rfl, rfl, rfl, rfl, rfl⟩
  case spinupStart => exact guarded_next live ((if_neg (by rw [idle]; decide)).trans (if_pos phase))
  case castonLoad => exact guarded_next live (if_pos ⟨phase, doneSent, allParked⟩)
  case castonTables => exact guarded_next live (if_pos ⟨phase, journalDone⟩)
  case ready => exact completes_of_next (act_next live (becomeReady_waking phase heads restored)) rfl
  case bindOff =>
    have done : bindOff s = bindStep b 2 s := by
      unfold bindOff
      rw [phase]
      exact if_pos ⟨flight, flushes, fetched⟩
    exact actWindow_next (f := fun s => guardAll (bindOff s)) live (congrArg guardAll done)
  case shutdownNotify =>
    have ignored : ¬ (s.sys.plActive = true ∨ s.hif.ctl[c].en = false ∨ s.hif.ctl[c].shst ≠ 0) := by simp [plActive, en, shst, -Fin.getElem_fin]
    have lit : s.sys.phase ≠ .dark := by rw [phase]; exact Phase.noConfusion
    have start : shutdownNotify c false s = setCtl c { s.hif.ctl[c] with shst := 1 } { s with sys := { s.sys with phase := .bindoff .normal 1 } } := by
      refine (if_neg ignored).trans ((if_neg role).trans ?_)
      simp only [Bool.false_eq_true, if_false, phase]
    refine completes_of_next (act_next live (onPort_used used plActive lit (congrArg guardAll start))) ⟨?_, ?_⟩
    · rw [guardAll_sys]; rfl
    · rw [guardAll_hif]; exact congrArg Ctl.shst (Vector.getElem_set_self _)
  case ps4Wake =>
    have wake : ¬ (s.sys.spinRequested = false ∨ s.spn.startPend = true) := by rw [spinRequested, startPend]; decide
    refine guarded_next live ?_
    unfold ps4Wake
    rw [phase]
    exact (if_neg wake).trans (by rw [if_neg psTarget])
  case ps3Wake =>
    refine guarded_next live ?_
    unfold ps3Wake
    rw [phase]
    exact if_pos ⟨spinRequested, allParked⟩

end Sys2Proof.Proofs
end

