-- ==== Sys2Proof/Proofs/SpindleAndYarn.lean ====
section
/-!
The completion of the spindle's commands and events (R63 to R88).
-/
namespace Sys2Proof.Proofs
open Sys2Proof Sys2Proof.Machine Sys2Proof.Laws

theorem spnDecision_running {s : State} {x : SpnSample} (plActive : s.sys.plActive = false) (mismatch : x.mismatch = false) :
    spnDecision x s =
      let v := missedCrossing x (observerCheck x { s with spn := advanceModels x (takeSamples x { s.spn with cur := s.spn.regs, speedQ := x.speedQ, dir := x.dir, speedValid := true }) })
      let u := speedSteps (speedUnload { v with spn := refreshOk v.spn })
      { u with spn := refreshOk (if dtcState u.spn then driveBridge x u.spn else u.spn) } := by
  simp only [spnDecision, plActive, mismatch, Bool.false_eq_true, if_false]

theorem spnCtlWrite_start {s : State} {w : Word} (h : bitOf w 0 = true ∧ bitOf w 1 = false) :
    spnCtlWrite w s = spnStartCmd { s with spn := { s.spn with regs := regWrite spnRows s.spn.regs false 0 w } } :=
  (if_neg fun both => ne_true_of_eq_false h.2 both.2).trans (if_pos h.1)

theorem spnCtlWrite_stop {s : State} {w : Word} (h : bitOf w 0 = false ∧ bitOf w 1 = true) :
    spnCtlWrite w s = spnStopCmd { s with spn := { s.spn with regs := regWrite spnRows s.spn.regs false 0 w } } :=
  (if_neg fun both => ne_true_of_eq_false h.1 both.1).trans ((if_neg (ne_true_of_eq_false h.1)).trans (if_pos h.2))

theorem spnCtlWrite_other {s : State} {w : Word} (h : bitOf w 0 = false ∧ bitOf w 1 = false) :
    spnCtlWrite w s = { s with spn := { s.spn with regs := regWrite spnRows s.spn.regs false 0 w } } :=
  (if_neg fun both => ne_true_of_eq_false h.1 both.1).trans
    ((if_neg (ne_true_of_eq_false h.1)).trans (if_neg (ne_true_of_eq_false h.2)))

theorem crossDir_next (j : Fin 6) : crossDir (some j) (j + 1) = .forward := if_pos rfl

/-- A crossing of the next phase in sensing, the second of the run, gives the direction and the speed (R72). -/
theorem timeCrossing_next {x : Crossing} {p : Spn} {j : Fin 6} (last : p.lastCross = some j) (at6 : x.at6 = j + 1) (one : p.senseCross = 1) :
    timeCrossing x p = { p with lastCross := some (j + 1), dir := .forward, speedQ := crossSpeed p x.us, speedValid := true, senseCross := 2,
                                dutySum := 0, dutyCount := 0 } := by
  unfold timeCrossing
  simp [last, at6, crossDir_next, one]

/-- Settles O6. -/
theorem spindleComplete : Obligations.SpindleComplete := by
  unfold Obligations.SpindleComplete
  refine ⟨fun s x live plActive mismatch => ?spnDecision,
    fun s w live _ bits => ?spnStart,
    fun s w live bits => ?spnStop,
    fun s w live bits => ?spnLock,
    fun s x j live state pause coastWait reseeding lastCross at6 senseCross => ?bemfZeroCrossing,
    fun s live state pause coastWait reseeding pairFailed => ?sensingWindowEnd,
    fun s angle live state => ?inductiveDetectDone,
    fun s speedQ live state => ?brakeProbe,
    fun s live state => ?brakeTimeout,
    fun s live state => ?lockedRotor,
    fun s live state pause => ?lockedRotorPauseEnd,
    fun s live state => ?resyncTimeout,
    fun s live state => ?restartCoastEnd,
    fun s live hold state refugeAsked plActive refugeUnconsumed => ?refugeDelayExpiry,
    fun s live reseeding pairFailed state stopHeld => ?reseedDone⟩
  case spnDecision => exact guarded_next live (spnDecision_running plActive mismatch)
  case spnStart => exact guarded_next live (spnCtlWrite_start bits)
  case spnStop => exact guarded_next live (spnCtlWrite_stop bits)
  case spnLock =>
    refine completes_of_next (guarded_next live (spnCtlWrite_other bits)) ?_
    rw [guardAll_spn]
  case bemfZeroCrossing =>
    have time := timeCrossing_next lastCross at6 senseCross
    have crossing : bemfCrossing x s = { s with spn := timeCrossing x s.spn } := by
      unfold bemfCrossing
      rw [time]
      simp [state, pause, coastWait, reseeding]
    refine completes_of_next (guarded_next live crossing) ?_
    rw [guardAll_spn, time]
    exact ⟨state, rfl, rfl, rfl, rfl⟩
  case sensingWindowEnd =>
    refine completes_of_next (guarded_next live (if_pos ⟨state, pause, coastWait, reseeding⟩)) ?_
    rw [guardAll_spn, enterAligning, if_neg (ne_true_of_eq_false pairFailed)]
  case inductiveDetectDone =>
    refine completes_of_next (guarded_next live (if_pos state)) ?_
    rw [guardAll_spn]
  case brakeProbe => 
    have probe : brakeProbe speedQ .still s = { s with spn := { bridgeOff { s.spn with speedQ := speedQ, dir := .still, speedValid := true } with state := .stopped, wrOk := false, coasting := false } } := by
      simp only [brakeProbe, state, if_true]
    refine completes_of_next (guarded_next live probe) ?_
    rw [guardAll_spn]
  case brakeTimeout => exact guarded_next live (if_pos state)
  case lockedRotor =>
    refine guarded_next live ?_
    unfold lockedRotor
    rw [state]
  case lockedRotorPauseEnd => exact guarded_next live (if_pos ⟨state, pause⟩)
  case resyncTimeout => exact guarded_next live (if_pos state)
  case restartCoastEnd => exact guarded_next live (if_pos (.inl state))
  case refugeDelayExpiry => exact act_next live (if_pos ⟨hold, .inl state, refugeAsked, plActive, refugeUnconsumed⟩)
  case reseedDone =>
    refine guarded_next live ?_
    simp only [reseedDone, reseeding, pairFailed, state, stopHeld, Bool.true_eq_false, Bool.false_eq_true, or_self, if_false]
end Sys2Proof.Proofs

/-!
The completion of the yarn clock's commands and events (R93 to R118).
-/
namespace Sys2Proof.Proofs
open Sys2Proof Sys2Proof.Machine Sys2Proof.Laws

/-- A write of YCK_CTL that selects no head leaves no forced selection, and enables or disables where it changes bit 0 (R95, R118). -/
theorem yckCtlWrite_noForce {s : State} {w : Word} (sel : fld w 2 1 = 0) (unlocked : bitOf (yckReg s.yck 0) 8 = false) :
    yckCtlWrite w s =
      let r := regWrite yckRows s.yck.regs false 0 w
      let u := { s with yck := { s.yck with regs := r, cur := regSet yckRows s.yck.cur 0 (regGet yckRows r 0), pendForce := none } }
      if bitOf (yckReg s.yck 0) 0 = bitOf w 0 then u else yckEnable (bitOf w 0) u := by
  simp [yckCtlWrite, sel, unlocked]

/-- A write of a locked YCK_CTL that selects the qualified head 0 asks for the forced switchover (R100, R118). -/
theorem yckCtlWrite_force {s : State} {w v : Word} (sel : fld w 2 1 = 1) (qual : s.yck.head[0].qual = true)
    (active : some (0 : Fin 2) ≠ s.yck.active) (locked : bitOf (yckReg s.yck 0) 8 = true) (hv : v = setFld w 5 4 (fld (yckReg s.yck 0) 5 4))
    (same : bitOf (yckReg s.yck 0) 0 = bitOf v 0) :
    yckCtlWrite w s =
      let r := regWrite yckRows s.yck.regs false 0 v
      { s with yck := { s.yck with regs := r, cur := regSet yckRows s.yck.cur 0 (regGet yckRows r 0), pendForce := some 0 } } := by
  rw [hv] at same ⊢
  simp [yckCtlWrite, sel, qual, active, locked, same]

theorem takeHead_even (h : Fin 2) (yofs : Nat) (s : State) :
    takeHead h 0 yofs s = stcCond 0x20 h.val 0 (yckEvent 2 { s with yck := { s.yck with
      active := some h, held := false, pendSwitch := none, yofs := yofs, slewing := false } }) := rfl

/-- A gauge update within the limit writes its entry and the row's CRC (R106). -/
theorem gaugeEntryApply_mem {x : GaugeAcc} {s : State} {d : Int}
    (small : (x.sum.natAbs : Int) < 4 * (fld (yckCur s.yck 0x34) 23 16 : Int) * ((max 1 x.count : Nat) : Int))
    (hd : d = clampInt (-(fld (yckCur s.yck 0x34) 15 8 : Int)) (fld (yckCur s.yck 0x34) 15 8)
      (Int.tdiv x.sum (((max 1 x.count : Nat) : Int) * 2 ^ fld (yckCur s.yck 0x34) 7 4))) :
    (gaugeEntryApply x s).mem =
      let u := writeLE s (x.row + 16 + 2 * x.wedge) 2 ((gaugeEntry s x.row x.wedge + d) % 65536).toNat
      (writeLE u (x.row + 12) 4 (crc32c (gaugeBytes u x.row))).mem := by
  rw [gaugeEntryApply, if_neg (Int.not_le.mpr small), hd]

/-- Settles O7. -/
theorem yarnClockComplete : Obligations.YarnClockComplete := by
  unfold Obligations.YarnClockComplete
  refine ⟨fun s w r live hr sel unlocked off on config => ?yckEnable,
    fun s w r live hr sel qual active locked same => ?yckSelForce,
    fun s w r live hr sel unlocked same => ?yckLock,
    fun s h mv periods live running locked low long => ?yarnHeadLost,
    fun s h mv periods live strong => ?yarnHeadKept,
    fun s h revs live long running fit locked qual active preamble => ?yarnHeadQualified,
    fun s yofs h live pend => ?switchover,
    fun s yofs h a live pend qual active other free => ?forcedSwitchover,
    fun s live pend => ?timingGuardFall,
    fun s live => ?slewDone,
    fun s h live pend => ?yarnReturn,
    fun s l a live ha crc op => ?gaugeRowMove,
    fun s wedge x d live acc hw small hd => ?gaugeUpdateApply,
    fun s live => ?gaugeHourlyWrite⟩
  case yckEnable =>
    have write := yckCtlWrite_noForce sel unlocked
    rw [off, on, if_neg Bool.false_ne_true, ← hr, yckEnable, if_pos rfl, if_pos config] at write
    exact completes_of_next (act_next live write) rfl
  case yckSelForce =>
    rw [hr]
    exact act_next live (yckCtlWrite_force sel qual active locked rfl same)
  case yckLock =>
    rw [hr]
    exact act_next live ((yckCtlWrite_noForce sel unlocked).trans (if_pos same))
  case yarnHeadLost =>
    have lost : yarnLostNow s.yck (.amplitude mv periods) = true := decide_eq_true ⟨low, long⟩
    refine act_next live ?_
    simp only [yarnHeadLost, lost, if_true]
  case yarnHeadKept =>
    have kept : yarnLostNow s.yck (.amplitude mv periods) = false := decide_eq_false fun ⟨low, long⟩ => by omega
    refine act_next live ?_
    simp [yarnHeadLost, kept]
  case yarnHeadQualified =>
    have go : ¬ (revs < fld (yckCur s.yck 0x1C) 7 0 ∨ s.yck.running = false ∨ yarnFit s.yck h = false ∨ s.yck.head[h].locked = false ∨
        s.yck.head[h].qual = true ∨ s.yck.active = some h) := by
      simp [long, running, fit, locked, qual, active, -Fin.getElem_fin]
    refine act_next live ((if_neg go).trans ?_)
    simp only [preamble, active, Bool.false_eq_true, if_false, if_true]
  case switchover =>
    refine act_next live ?_
    rw [switchover, pend]
    rfl
  case forcedSwitchover =>
    have ready : s.yck.head[h].qual = true ∧ s.yck.active.isSome = true ∧ s.yck.active ≠ some h ∧ s.yck.pendSwitch = none :=
      ⟨qual, by rw [active]; rfl, by rw [active]; simpa using other, free⟩
    refine act_next live ?_
    rw [forcedSwitchover, pend]
    exact (if_pos ready).trans rfl
  case timingGuardFall => exact act_next live (if_neg (by rw [pend]; decide))
  case slewDone => exact act_next (f := fun s => { s with yck := { s.yck with slewing := false, guardSlew := false } }) live rfl
  case yarnReturn =>
    refine act_next live ?_
    rw [yarnReturn, pend]
  case gaugeRowMove =>
    subst ha
    have move : gaugeRowMove l s = _ := if_pos crc
    refine completes_of_next (act_next live move) ⟨?_, ?_, rfl, rfl⟩
    · refine (congrArg LaneTiming.rowOk (Vector.getElem_set_self _)).trans ?_
      simp only [crc, Bool.true_and]
    · refine (congrArg LaneTiming.zone (Vector.getElem_set_self _)).trans ?_
      simp only [op, Option.map_none, Option.getD_none]
  case gaugeUpdateApply =>
    let u : State := { s with yck := { s.yck with cur := s.yck.regs, acc := [] } }
    have cur : yckCur u.yck 0x34 = yckReg s.yck 0x34 := rfl
    have apply : gaugeApply wedge s = gaugeEntryApply x u := by
      simp [gaugeApply, yckBoundary, acc, hw, u]
    rw [← cur] at small hd
    have mem := gaugeEntryApply_mem small hd
    rw [hw] at mem
    exact completes_of_next (act_next live apply) mem
  case gaugeHourlyWrite => exact act_next live rfl
end Sys2Proof.Proofs
end

