-- ==== Sys2Proof/Proofs/Servo.lean ====
section
/-!
The completion of servo samples and of the events of servo engines and actuator ports (R119 to R143).
-/
namespace Sys2Proof.Proofs
open Sys2Proof Sys2Proof.Machine Sys2Proof.Laws

/-- A port that its engine already drives changes no driver (R141). -/
theorem bindingTakeover_same {a : ActIx} {s : State} (h : s.port[a].driver = engineOf s.flt a.val) : bindingTakeover a s = s := if_pos h

/-- An engine that finds itself sound keeps only the longest step it has seen (R129). -/
theorem selfChecks_sound {e : EngIx} {x : WedgeRead} {s : State} (sound : x.engineBad = false) (clean : x.eccCorr = false) :
    selfChecks e x s = setSrv e { s.srv[e] with longest := max s.srv[e].longest x.step5 } s := by
  simp only [selfChecks, sound, clean, Bool.false_eq_true, if_false]

theorem availChange_sys (e : EngIx) (f : ActAvail → ActAvail) (s : State) : (availChange e f s).sys = s.sys := by
  unfold availChange
  split <;> rfl

theorem find_finRange {n : Nat} {p : Fin n → Bool} {a : Fin n} (ha : p a = true) (only : ∀ b, p b = true → b = a) :
    (List.finRange n).find? p = some a := by
  cases h : (List.finRange n).find? p with
  | none => exact absurd ha (List.find?_eq_none.mp h a (List.mem_finRange a))
  | some b => rw [only b (List.find?_some h)]

theorem find_bound {f : Flt} {e : EngIx} {a : ActIx} (h : srvBind f e.val = a.val) :
    ((List.finRange 4).find? fun b => decide (srvBind f e.val = b.val)) = some a :=
  find_finRange (decide_eq_true h) fun _ hb => Fin.ext ((of_decide_eq_true hb).symm.trans h)

/-- The command of the piezo at half a sample, in an engine that sends commands to its present actuator (R123). -/
theorem halfSample_driven {a : ActIx} {e : EngIx} {s : State} (driver : s.port[a].driver = some e) (sends : sendsCommands s.srv[e] = true)
    (pzEn : srvPzEn s.srv[e] = true) (present : actAbsent s a = false) :
    halfSample a s =
      let r := cascade pzSections (clampInt (-(2 ^ 23 - 1)) (2 ^ 23 - 1) (s.srv[e].ref - halfPredict s.srv[e])) s.srv[e]
      setSrv e { r.2 with uPz := clampInt (-(fld (srvReg s.srv[e] 0x50) 15 0 : Int)) (fld (srvReg s.srv[e] 0x50) 15 0) (r.1 + r.2.pzFf) } s := by
  simp only [halfSample, driver, sends, pzEn, present, and_self, if_true]

/-- A valid frame of the link from the actuator, with a status that is no fault (R139). -/
theorem dlReceive_valid {a : ActIx} {frame : BitVec 32} {e : EngIx} {s : State} (driver : s.port[a].driver = some e) (drop : s.port[a].drop = 0)
    (crc : frame.toNat % 256 = crc8 24 (frame.toNat / 256) 0) (counter : frame.toNat / 256 % 16 = s.port[a].frame.toNat / 256 % 16)
    (status : frame.toNat / 256 / 2 ^ 22 ≠ 3) :
    dlReceive a frame s = setSrv e { s.srv[e] with
      dlCur := signed 18 (frame.toNat / 256 / 16), dlStatus := frame.toNat / 256 / 2 ^ 22, dlInvalid := 0, dlValid := s.srv[e].dlValid + 1
      curHist := signed 18 (frame.toNat / 256 / 16) :: s.srv[e].curHist.drop 1
      inh := if 16 ≤ s.srv[e].dlValid + 1 then clearBit s.srv[e].inh 5 else s.srv[e].inh } (setPort a { s.port[a] with drop := s.port[a].drop - 1 } s) := by
  have ok : (!decide (0 < s.port[a].drop) && decide (frame.toNat % 256 = crc8 24 (frame.toNat / 256) 0) &&
      decide (frame.toNat / 256 % 16 = s.port[a].frame.toNat / 256 % 16)) = true := by
    rw [drop, ← crc, counter]
    simp
  unfold dlReceive
  simp only [driver]
  exact (if_pos ok).trans (if_neg status)

/-- What an engine takes up at a wedge that finds it sound (R123, R129). -/
def wedgeTaken (e : EngIx) (x : WedgeRead) (s : State) : State :=
  { s with
    yck := { s.yck with cur := s.yck.regs }
    srv := s.srv.set e { s.srv[e] with cur := s.srv[e].regs, coarse := coarseNow { s with yck := { s.yck with cur := s.yck.regs } }, longest := max s.srv[e].longest x.step5 } }

theorem selfChecks_boundary {e : EngIx} {x : WedgeRead} {s : State} (sound : x.engineBad = false) (clean : x.eccCorr = false) :
    selfChecks e x (sampleBoundary e (yckBoundary s)) = wedgeTaken e x s := by
  rw [selfChecks_sound sound clean, sampleBoundary, setSrv_get, setSrv_setSrv]
  rfl

theorem wedgeTaken_state (e : EngIx) (x : WedgeRead) (s : State) : (wedgeTaken e x s).srv[e].state = s.srv[e].state :=
  (congrArg Srv.state (Vector.getElem_set_self _)).trans rfl

/-- Settles O8. -/
theorem servoSamplesAndPortEventsComplete : Obligations.ServoSamplesAndPortEventsComplete := by
  unfold Obligations.ServoSamplesAndPortEventsComplete
  refine ⟨fun s a x e live present bound driver free sound clean state => ?servoSample,
    fun s a x f live present unbound driver held => ?servoSampleHeld,
    fun s a e live driver sends pzEn present => ?halfSamplePiezo,
    fun s e live => ?samMissRun,
    fun s e live state => ?servoImplausible,
    fun s e live state => ?holdTimeout,
    fun s e a live state bind aiming => ?onTrack,
    fun s e x p live state hp => ?loadCapture,
    fun s e live state => ?loadTimeout,
    fun s e live low state => ?retractDone,
    fun s e live state wait => ?parkCheck,
    fun s live => ?unloadNFall,
    fun s a frame e live driver drop crc counter status => ?dlFrameReceive,
    fun s e live => ?dlFault,
    fun s a e live held => ?portHoldExpiry,
    fun s e w live retract none => ?portHoldRetractNone,
    fun s e w a live retract held only fresh spare => ?portHoldRetract,
    fun s r0 r1 live => ?sensorRead⟩
  case servoSample =>
    have takes : bindingTakeover a (yckBoundary s) = yckBoundary s := bindingTakeover_same (driver.trans bound.symm)
    refine actWindow_next (f := servoSample a x) live ((if_neg (ne_true_of_eq_false present)).trans ?_)
    have port : (yckBoundary s).port = s.port := rfl
    have taken : (wedgeTaken e x s).port = s.port := rfl
    simp only [takes, port, driver, selfChecks_boundary sound clean, taken, free]
    exact if_neg (by rw [wedgeTaken_state]; exact state)
  case servoSampleHeld =>
    have takes : bindingTakeover a (yckBoundary s) = yckBoundary s := bindingTakeover_same (driver.trans unbound.symm)
    have port : (yckBoundary s).port = s.port := rfl
    refine actWindow_next (f := servoSample a x) live ((if_neg (ne_true_of_eq_false present)).trans ?_)
    simp only [takes, port, driver, held]
    rfl
  case halfSamplePiezo =>
    exact completes_of_next (act_next live (halfSample_driven driver sends pzEn present)) rfl
  case samMissRun => exact act_next live rfl
  case servoImplausible =>
    refine act_next live ?_
    simp only [implausible, state]
  case holdTimeout => exact actWindow_next (f := holdTimeout e) live (if_pos state)
  case onTrack =>
    refine act_next live ?_
    simp only [onTrackNow, state, find_bound bind, aiming]
  case loadCapture =>
    rw [hp]
    exact actWindow_next (f := loadCapture e x) live (if_pos state)
  case loadTimeout => exact act_next live (if_pos state)
  case retractDone => exact act_next live (if_pos ⟨low, .inl state⟩)
  case parkCheck => exact act_next live (if_pos ⟨state, wait⟩)
  case unloadNFall =>
    refine completes_of_next (actWindow_next (f := unloadFall) live rfl) ⟨?_, fun e state => ?_⟩
    · rw [windowNote_sys]; rfl
    · rw [windowNote_srv]
      have follow : s.srv[e.val].state = .follow := state
      refine (Vector.getElem_map ..).trans ?_
      rw [follow]
      rfl
  case dlFrameReceive =>
    refine completes_of_next (act_next live (dlReceive_valid driver drop crc counter status)) ?_
    rw [setSrv_get]
    exact ⟨rfl, rfl, rfl, rfl⟩
  case dlFault => exact actWindow_next (f := dlFault e) live rfl
  case portHoldExpiry =>
    have expiry : portHoldExpiry a s = engineGone e (setPort a { s.port[a] with retract := s.port[a].retract.orElse fun _ => some 0 } s) := by
      simp only [portHoldExpiry, held]
    refine completes_of_next (act_next live expiry) ⟨?_, ?_⟩
    · exact (lanelessNotice_frame (k := { arr := true }) .refl (by rfl)).keep_port
    · exact (lanelessNotice_frame (k := { arr := true }) .refl (by rfl)).keep_flt
  case portHoldRetractNone =>
    refine act_next live ((if_pos retract).trans ?_)
    split
    · rename_i a found
      have held := List.find?_some found
      exact absurd (of_decide_eq_true held) (none a)
    · rfl
  case portHoldRetract =>
    refine act_next live ((if_pos retract).trans ?_)
    have free : ∀ t : State, t.flt = s.flt → spareFree t = true := fun t h => by rw [spareFree, h]; exact decide_eq_true spare
    split
    · rename_i b found
      have heldB := List.find?_some found
      obtain rfl := only b (of_decide_eq_true heldB)
      simp only [setSrv_port, fresh, Option.isNone_none, if_true]
      exact if_pos (free _ rfl)
    · rename_i none
      exact absurd (decide_eq_true held) (List.find?_eq_none.mp none a (List.mem_finRange a))
  case sensorRead => exact act_next (f := fun s => shockReading 1 r1 (shockReading 0 r0 { s with sns := { s.sns with accel := #v[r0, r1] } })) live rfl
end Sys2Proof.Proofs

/-!
The completion of the commands of a servo engine (R129 to R144).
-/
namespace Sys2Proof.Proofs
open Sys2Proof Sys2Proof.Machine Sys2Proof.Laws

theorem fld_setFld_low (w : Word) (v : Nat) : fld (setFld w 3 0 v) 3 0 = v % 16 := by
  simp only [fld, setFld, Nat.shiftRight_zero, BitVec.toNat_ofNat]
  omega

/-- What a write of SRV_CTL does that asks for no swap and no lock: the register, then the command (R143, R144). -/
theorem srvCtlWrite_command {e : EngIx} {w : Word} {s : State} {v : Srv} (noSwap : bitOf w 4 = false)
    (noLock : bitOf w 8 = false ∨ srvLocked s.srv[e] = true) (hv : v = { s.srv[e] with regs := regWrite srvRows s.srv[e].regs false 0 w }) :
    srvCtlWrite e w s = match fld w 3 0 with
      | 0 => setSrv e v s
      | 1 => srvLoad e (setSrv e v s)
      | 2 => srvSeek e (setSrv e v s)
      | 3 => srvHold e (setSrv e v s)
      | 4 => srvRelease e (setSrv e v s)
      | 5 => srvUnload e (setSrv e v s)
      | _ => srvCfgErr e (setSrv e v s) := by
  have lock : (bitOf w 8 && !srvLocked s.srv[e]) = false := by
    obtain h | h := noLock <;> simp only [h, Bool.false_and, Bool.not_true, Bool.and_false]
  subst hv
  simp only [srvCtlWrite, lock, noSwap, Bool.false_eq_true, if_false] <;> rfl

theorem readBytes_of_mem {s t : State} (h : t.mem = s.mem) (n : Nat) : ∀ a, readBytes t a n = readBytes s a n := by
  induction n with
  | zero => exact fun _ => rfl
  | succ n ih => exact fun a => by rw [readBytes, readBytes, readByte, readByte, h, ih]

theorem readLE_of_mem {s t : State} (h : t.mem = s.mem) (n : Nat) : ∀ a, readLE t a n = readLE s a n := by
  induction n with
  | zero => exact fun _ => rfl
  | succ n ih => exact fun a => by rw [readLE, readLE, readByte, readByte, h, ih]

theorem tableCrcOk_of_mem {s t : State} (h : t.mem = s.mem) (a n : Nat) : tableCrcOk t a n = tableCrcOk s a n := by
  simp only [tableCrcOk, readBytes_of_mem h, readLE_of_mem h]

theorem tableAt_of_mem {s t : State} (h : t.mem = s.mem) (a : Nat) : tableAt t a = tableAt s a := by
  simp only [tableAt, tableCrcOk_of_mem h, readLE_of_mem h]

theorem srvLoad_parked {e : EngIx} {s : State} {v : Srv} (low : s.sys.unloadLow = false) (state : v.state = .parked)
    (fitted : headFitted v (fld (srvSet v 0x0C) 26 24) = true) (table : tableCrcOk s (srvSet v 0x5C).toNat 4 = true) :
    srvLoad e (setSrv e v s) = setSrv e { v with
      state := .loading
      head := fld (srvSet v 0x0C) 26 24
      reader := fld (srvSet v 0x24) (2 * fld (srvSet v 0x0C) 26 24 + 1) (2 * fld (srvSet v 0x0C) 26 24)
      play := some (tableAt s (srvSet v 0x5C).toNat)
      searching := true
      wedge := none
      validRun := 0
      missRun := 0
      lastCur := 0
      onTrack := false
      settled := false
      aim := none
      parkWait := false
      idleAt := none } s := by
  have mem : (setSrv e v s).mem = s.mem := rfl
  simp only [srvLoad, setSrv_get, setSrv_sys, low, state, fitted, tableCrcOk_of_mem mem, tableAt_of_mem mem, table, setSrv_setSrv, ne_eq,
    not_true_eq_false, Bool.false_eq_true, or_self, if_false]

theorem srvSeek_follow {e : EngIx} {s : State} {v : Srv} {a : Nat} (state : v.state = .follow)
    (fitted : headFitted v (fld (srvSet v 0x0C) 26 24) = true) (head : fld (srvSet v 0x0C) 26 24 = v.head)
    (profile : profileFor (setSrv e v s) (srvSet v 0x58) (trackPosSet v (fld (srvSet v 0x0C) 23 0) - v.ref) = some a) :
    srvSeek e (setSrv e v s) = setSrv e (playProfile (setSrv e v s) v a (fld (srvSet v 0x0C) 23 0) v.ref
      (trackPosSet v (fld (srvSet v 0x0C) 23 0) - v.ref)) (setSrv e v s) := by
  rw [head] at fitted
  simp only [srvSeek, startSeek, setSrv_get, fitted, state, head, profile, not_true_eq_false, if_false, if_true]

theorem srvUnload_follow {e : EngIx} {s : State} {v : Srv} (state : v.state = .follow) (table : tableCrcOk s (srvSet v 0x60).toNat 4 = true) :
    srvUnload e (setSrv e v s) = setSrv e { enterUnloading (some (tableAt s (srvSet v 0x60).toNat)) v with lastCur := 0 } s := by
  have mem : (setSrv e v s).mem = s.mem := rfl
  have ok (u : Srv) : tableCrcOk (setSrv e u s) (srvSet v 0x60).toNat 4 = true := (tableCrcOk_of_mem (s := s) (t := setSrv e u s) rfl _ _).trans table
  simp only [srvUnload, controlledUnload, setSrv_get, state, setSrv_setSrv, tableAt_of_mem mem, ok, if_true]

/-- Settles O9. -/
theorem servoCommandsComplete : Obligations.ServoCommandsComplete := by
  unfold Obligations.ServoCommandsComplete
  refine ⟨fun s e w v live noSwap noLock hv low state fitted table => ?srvLoad,
    fun s e w v a live noSwap noLock hv state fitted head profile => ?srvSeek,
    fun s e w live noSwap noLock state => ?srvHoldCmd,
    fun s e w live noSwap noLock => ?srvReleaseHold,
    fun s e w v live noSwap noLock hv state table => ?srvUnload,
    fun s e w live swap none noLock swapPend => ?srvSwapRequest,
    fun s e w live noSwap none lock locked => ?srvLock,
    fun s e i k w live bankB swapPend => ?srvBankWrite⟩
  case srvLoad =>
    have run := srvCtlWrite_command noSwap noLock hv
    rw [fld_setFld_low] at run
    exact actWindow_next (f := srvCtlWrite e (setFld w 3 0 1)) live (run.trans (srvLoad_parked low state fitted table))
  case srvSeek =>
    have run := srvCtlWrite_command noSwap noLock hv
    rw [fld_setFld_low] at run
    exact actWindow_next (f := srvCtlWrite e (setFld w 3 0 2)) live (run.trans (srvSeek_follow state fitted head profile))
  case srvHoldCmd =>
    have run := srvCtlWrite_command noSwap noLock rfl
    rw [fld_setFld_low] at run
    refine actWindow_next (f := srvCtlWrite e (setFld w 3 0 3)) live (run.trans ?_)
    show srvHold e (setSrv e _ s) = _
    rw [srvHold, setSrv_get, setSrv_setSrv]
    exact if_pos state
  case srvReleaseHold =>
    have run := srvCtlWrite_command noSwap noLock rfl
    rw [fld_setFld_low] at run
    refine actWindow_next (f := srvCtlWrite e (setFld w 3 0 4)) live (run.trans ?_)
    show srvRelease e (setSrv e _ s) = _
    rw [srvRelease, setSrv_get, setSrv_setSrv]
  case srvUnload =>
    have run := srvCtlWrite_command noSwap noLock hv
    rw [fld_setFld_low] at run
    exact actWindow_next (f := srvCtlWrite e (setFld w 3 0 5)) live (run.trans (srvUnload_follow state table))
  case srvSwapRequest =>
    refine actWindow_next (f := srvCtlWrite e (setFld (setFld w 3 0 0) 4 4 1)) live ?_
    have lock : (bitOf (setFld (setFld w 3 0 0) 4 4 1) 8 && !srvLocked s.srv[e]) = false := by
      obtain h | h := noLock <;> simp only [h, Bool.false_and, Bool.not_true, Bool.and_false]
    simp only [srvCtlWrite, lock, swap, none, Bool.false_eq_true, if_false, if_true, srvSwap, setSrv_get, setSrv_setSrv, swapPend]
  case srvLock =>
    refine actWindow_next (f := srvCtlWrite e (setFld (setFld w 4 0 0) 8 8 1)) live ?_
    simp only [srvCtlWrite, lock, locked, noSwap, none, Bool.not_false, Bool.and_self, Bool.false_eq_true, if_false, if_true]
  case srvBankWrite =>
    have bank : ¬ (decide (0x1800 ≤ 0x1800 + 32 * i.val + 4 * k.val) = s.srv[e].bankB ∨ s.srv[e].swapPend = true) := by
      rw [bankB, swapPend, decide_eq_true (by omega)]
      decide
    exact act_next live (if_neg bank)
end Sys2Proof.Proofs
end

