-- ==== Sys2Proof/Proofs/ReadPath.lean ====
section
/-!
The completion of the read path and of the recovery of a sector (R175 to R214).
-/
namespace Sys2Proof.Proofs
open Sys2Proof Sys2Proof.Machine Sys2Proof.Laws

/-- A decode attempt of rung 1 that converges on the sector it is for delivers it (R200). -/
theorem decodeDone_delivers {l : LaneIx} {x : DecodeResult} {e : Ladder} {s : State}
    (ladder : ladderAt s.lane[l] x.slot.val x.output.val = some e) (rung : e.rung = 1)
    (converged : (attemptEnd s.media s.lane[l] x false).converged = true)
    (id : x.id = expectedId s.media (placeOf s.lane[l] x.output.val) x.slot.val) (piOk : x.piOk = true) (tapLimit : x.tapLimit = false) :
    decodeDone l x s =
      let p := placeOf s.lane[l] x.output.val
      let align := e.cands.headD ((syncFound (if s.yck.lane[l].timing = .yarn then 8 else 32) (fld (yckCur s.yck 0x30) 4 0) x.sync).getD 0)
      let v := markKnown s.lane[l] x.slot.val x.output.val
        (((attemptEnd s.media s.lane[l] x false).iterations - 1) / max 1 (iterEach (zoneIter s.media p)))
      deliver l p x.slot.val x.output.val 1
        (sectorReports l p x.slot.val x.output.val (decide (s.lane[l].modeOn = 2)) x.phaseErr align false true (setLane l v s)) := by
  simp [decodeDone, ladder, rung, converged, id, piOk, tapLimit, -Fin.getElem_fin]

/-- A request of the pool that is refused for no reason waits in its queue, and its ladder holds the slots (R208). -/
theorem deepRequest_queued {l : LaneIx} {slot output : Nat} {e : Ladder} {s : State} (ladder : ladderAt s.lane[l] slot output = some e)
    (rung : e.rung = 1) (cands : e.cands = []) (pinned : e.pinned = 0)
    (pool : ¬ (fld (laneCur s.lane[l] 0x408) 19 18 = 0 ∨ (deepOn s.ddp 0 = false ∧ deepOn s.ddp 1 = false)))
    (room : ¬ 16 < s.lane[l].hold + slotsNeeded s.lane[l])
    (queue : ¬ (fld (regGet ddpRows s.ddp.regs 0x80C) 13 8 ≤ s.ddp.queue.length ∨ 8 ≤ (s.ddp.queue.filter fun q => decide (q.lane = l)).length)) :
    deepRequest l slot output s =
      let u := setLane l (ladderPut s.lane[l] { e with rung := 2, pinned := slotsNeeded s.lane[l] }) s
      { u with ddp := poolServe { s.ddp with queue := s.ddp.queue ++
        [{ lane := l, slot := slot, output := output, best := (e.best.map fun b => b.1).getD 0, place := e.place, head := s.lane[l].now.head }] } } := by
  simp only [deepRequest, ladder, rung, cands, pinned, ne_eq, not_true_eq_false, or_self, if_false, if_true, Nat.zero_add]
  rw [if_neg pool, if_neg room, if_neg queue]
  rfl

theorem markKnown_modeOn (v : Lane) (slot output pass : Nat) : (markKnown v slot output pass).modeOn = v.modeOn := rfl

/-- A run of the pool that converges on the sector it is for delivers it (R209). -/
theorem deepDone_delivers {d : Fin 2} {x : DeepResult} {q : DeepReq} {e : Ladder} {s : State} (running : s.ddp.running[d] = some q)
    (ladder : ladderAt s.lane[q.lane] q.slot q.output = some e) (hits : (deepAttempt s q x).isSome = true)
    (id : x.id = expectedId s.media e.place e.slot) (piOk : x.piOk = true) :
    deepDone d x s =
      let u := { s with ddp := poolServe { s.ddp with running := s.ddp.running.set d none } }
      let v := setLane q.lane (markKnown s.lane[q.lane] q.slot q.output 0) u
      deliver q.lane e.place q.slot q.output 2
        (sectorReports q.lane e.place q.slot q.output (decide (s.lane[q.lane].modeOn = 2)) x.phaseErr q.best false true v) := by
  have get : s.ddp.running.get d = some q := running
  simp only [deepDone, get, hits, ladder, id, piOk, decide_true, Bool.and_self, Bool.true_eq_false, and_false, if_false, if_true,
    setLane_get, markKnown_modeOn]

/-- Settles O10. -/
theorem readPathCompletes : Obligations.ReadPathCompletes := by
  unfold Obligations.ReadPathCompletes
  refine ⟨fun s celsius live => ?laneTempRefresh,
    fun s l live on => ?feReady,
    fun s l r live op => ?readerFail,
    fun s l w live room => ?paCmdQueue,
    fun s l data f rest live queue gate => ?paFrameSend,
    fun s l x e p a live ladder rung hp ha converged id piOk tapLimit => ?decodeAttemptDone,
    fun s l x p z live hp zone verifies pass => ?rawVerdictPass,
    fun s l x p z live hp zone verifies area fails => ?rawVerdictFail,
    fun s l slot output e live ladder rung cands noPool => ?deepSkipped,
    fun s l slot output e live ladder rung cands pinned pool room queue => ?deepQueued,
    fun s l slot output q e live queue hq ladder => ?deepWaitTimeout,
    fun s d x q e live running ladder misses => ?deepMisses,
    fun s d x q e live running ladder hits id piOk => ?deepHits,
    fun s l xs e live ladder rung retries op => ?retryRevolution,
    fun s l x e live ladder rung output group outcome => ?selvageFound,
    fun s l x e live ladder rung output group outcome => ?selvageShort⟩
  case laneTempRefresh => exact act_next live rfl
  case feReady => exact act_next live (if_neg on)
  case readerFail =>
    have abort : (s.lane[l].pat.abort || ((s.lane[l].pat.op.map fun d => decide (d.mode = 2)).getD false && s.lane[l].rdrOn.getLsbD r.val)) =
        s.lane[l].pat.abort := by rw [op]; exact Bool.or_false _
    refine act_next live ?_
    simp only [readerFail, abort]
  case paCmdQueue => exact act_next live (if_neg (by omega))
  case paFrameSend =>
    refine act_next live ?_
    simp only [paSend, queue, gate, Bool.false_eq_true, if_false]
  case decodeAttemptDone =>
    subst hp ha
    exact completes_of_next (act_next live (decodeDone_delivers ladder rung converged id piOk tapLimit)) rfl
  case rawVerdictPass =>
    subst hp
    refine act_next live ?_
    simp only [rawVerdict, zone, verifies, pass, Bool.true_eq_false, if_false, if_true]
  case rawVerdictFail =>
    subst hp
    refine act_next live ?_
    simp only [rawVerdict, zone, verifies, fails, area, Bool.true_eq_false, Bool.false_eq_true, if_false, if_true]
  case deepSkipped =>
    refine act_next live ?_
    simp only [deepRequest, ladder, rung, cands, ne_eq, not_true_eq_false, or_self, if_false]
    exact if_pos noPool
  case deepQueued =>
    refine completes_of_next (act_next live (deepRequest_queued ladder rung cands pinned pool room queue)) ⟨rfl, ?_⟩
    exact setLane_get l _ s
  case deepWaitTimeout =>
    refine act_next live ?_
    have hit : decide (q.lane = l ∧ q.slot = slot.val ∧ q.output = output.val) = true := decide_eq_true hq
    simp only [deepTimeout, queue, List.find?_cons, hit, ladder, List.filter_cons, Bool.not_true, Bool.false_eq_true, if_false, List.filter_nil]
  case deepMisses =>
    have get : s.ddp.running.get d = some q := running
    refine act_next live ?_
    simp only [deepDone, get, misses, Option.isSome_none, Bool.false_and, ladder, Bool.false_eq_true, false_and, if_false]
  case deepHits =>
    exact completes_of_next (act_next live (deepDone_delivers running ladder hits id piOk)) rfl
  case retryRevolution =>
    refine act_next live ?_
    simp [retryRevolution, ladder, rung, op, retryEntries, Nat.min_eq_right retries, -Fin.getElem_fin]
  case selvageFound =>
    simp only [List.contains_eq_mem, decide_eq_true_eq] at group
    refine act_next live ?_
    simp [selvageDecode, ladder, rung, output, group, outcome, -Fin.getElem_fin]
  case selvageShort =>
    simp only [List.contains_eq_mem, decide_eq_true_eq] at group
    refine act_next live ?_
    simp [selvageDecode, ladder, rung, output, group, outcome, -Fin.getElem_fin]
end Sys2Proof.Proofs
end

