-- ==== Sys2Proof/Proofs/RowSequencer.lean ====
section
/-!
The completion of the Row sequencer's words (R221 to R233), and the place each goes to.
-/
namespace Sys2Proof.Proofs
open Sys2Proof Sys2Proof.Machine Sys2Proof.Laws

theorem setRow_row (l : LaneIx) (r : Row) (s : State) : (setRow l r s).lane[l].row = r := congrArg Lane.row (setLane_get l _ s)

/-! ### A word of a running Row sequencer (R221) -/

section word
variable {s : State} {l : LaneIx} {x : RowSymbol} {w : BitVec 144} {n : Nat}

/-- A word of its kind, read without a parity fault and with no breakpoint, performs its actions where its condition holds or it does not wait. -/
theorem rowWord_performs (state : s.lane[l].row.state = .running) (hw : w = rowFetch s.lane[l].row s.lane[l].row.pc)
    (parity : badQuarters w = 0) (next : wf w 142 140 = n) (noBreak : wf w 112 112 = 0)
    (sound : wordFault s l w x (rowCond s l w x) = none) (goes : ¬ (n = 7 ∧ rowCond s l w x = false)) :
    rowWord n l x s = rowPerform l w x (rowCond s l w x) s := by
  subst hw
  simp only [rowWord, state, parity, next, noBreak, sound, ne_eq, not_true_eq_false, if_false, Nat.zero_ne_one, false_and]
  exact if_neg goes

/-- A word that waits for its condition. -/
theorem rowWord_waits (state : s.lane[l].row.state = .running) (hw : w = rowFetch s.lane[l].row s.lane[l].row.pc)
    (parity : badQuarters w = 0) (next : wf w 142 140 = 7) (noBreak : wf w 112 112 = 0)
    (sound : wordFault s l w x false = none) (waits : rowCond s l w x = false) : rowWord 7 l x s = rowHold l w s := by
  subst hw
  simp only [rowWord, state, parity, next, noBreak, sound, waits, ne_eq, not_true_eq_false, if_false, if_true, Nat.zero_ne_one, false_and,
    and_self]

end word

/-- A reload of the store after a first parity fault starts the sequencer anew at address 0, or leaves it stopped (R233). -/
theorem rowReload_first {l : LaneIx} {a time : Nat} {s : State} (state : s.lane[l].row.state = .machineCheck)
    (errors : s.lane[l].row.errors = [(a, time)]) (op : s.lane[l].pat.op = none) :
    rowReload l s = setLane l (reloadLane s s.lane[l] a false) s := by
  have keeps : (reloadLane s s.lane[l] a false).pat.op = s.lane[l].pat.op := rfl
  simp only [rowReload, state, errors, List.any_nil, Bool.and_false, Bool.false_and, Bool.false_eq_true, if_false, reloadOp, setLane_get, keeps, op]

/-- Settles O11. -/
theorem rowWordsComplete : Obligations.RowWordsComplete := by
  unfold Obligations.RowWordsComplete
  refine ⟨fun s l x w live state hw parity next noBreak sound => ?rowSeq,
    fun s l x w live state hw parity next noBreak sound => ?rowJmp,
    fun s l x w live state hw parity next noBreak sound => ?rowBrt,
    fun s l x w live state hw parity next noBreak sound => ?rowBrf,
    fun s l x w live state hw parity next noBreak sound => ?rowDsp,
    fun s l x w live state hw parity next noBreak sound => ?rowCall,
    fun s l x w live state hw parity next noBreak sound => ?rowRet,
    fun s l x w live state hw parity next noBreak sound holds => ?rowWaitEnds,
    fun s l x w live state hw parity next noBreak sound waits => ?rowWaitGoesOn,
    fun s l live state => ?rowWaitTimeout,
    fun s l live state inCust => ?customerTimeFault,
    fun s l a time live state errors op => ?rowReloadDone⟩
  case rowSeq => exact act_next live (rowWord_performs state hw parity next noBreak sound (by omega))
  case rowJmp => exact act_next live (rowWord_performs state hw parity next noBreak sound (by omega))
  case rowBrt => exact act_next live (rowWord_performs state hw parity next noBreak sound (by omega))
  case rowBrf => exact act_next live (rowWord_performs state hw parity next noBreak sound (by omega))
  case rowDsp => exact act_next live (rowWord_performs state hw parity next noBreak sound (by omega))
  case rowCall => exact act_next live (rowWord_performs state hw parity next noBreak sound (by omega))
  case rowRet => exact act_next live (rowWord_performs state hw parity next noBreak sound (by omega))
  case rowWaitEnds =>
    have performs := rowWord_performs (n := 7) state hw parity next noBreak (by rw [holds]; exact sound) (by rw [holds]; decide)
    rw [holds] at performs
    exact act_next live performs
  case rowWaitGoesOn => exact act_next live (rowWord_waits state hw parity next noBreak sound waits)
  case rowWaitTimeout =>
    refine act_next live ?_
    simp only [rowWaitTimeout, state]
  case customerTimeFault =>
    refine act_next live ?_
    simp only [customerTime, state, inCust, if_true]
  case rowReloadDone =>
    refine completes_of_next (act_next live (rowReload_first state errors op)) ?_
    rw [setLane_get]
    exact ⟨rfl, rfl, rfl⟩

/-! ### The next place of a word -/

theorem guardLane_row (l : LaneIx) (s : State) : (guardLane l s).lane[l].row = s.lane[l].row := by
  unfold guardLane
  dsimp only
  split
  · rw [setLane_get]
  · rfl

theorem guardLane_now (l : LaneIx) (s : State) : (guardLane l s).lane[l].now = s.lane[l].now := by
  unfold guardLane
  dsimp only
  split
  · rw [setLane_get]
  · rfl

theorem spanStarts_congr {s t : State} {l : LaneIx} {sym : Nat} (now : t.lane[l].now = s.lane[l].now) (media : t.media = s.media)
    (yck : t.yck = s.yck) : spanStarts t l sym = spanStarts s l sym := by
  simp only [spanStarts, laneZone, revBits, now, media, yck]

/-- The place that a word goes to, with its return addresses (R221): every kind of next but dispatch. -/
def nextPlace (w : BitVec 144) (cond : Bool) (r : Row) : Nat × List Nat :=
  let seq := (r.pc + 1) % 4096
  match wf w 142 140 with
  | 1 => (wf w 133 122, r.stack)
  | 2 => (if cond then wf w 133 122 else seq, r.stack)
  | 3 => (if cond then seq else wf w 133 122, r.stack)
  | 5 => (wf w 133 122, seq :: r.stack)
  | 6 => (r.stack.headD 0, r.stack.tail)
  | _ => (seq, r.stack)

theorem rowNext_place {l : LaneIx} {w : BitVec 144} {cond : Bool} {s : State} (noDispatch : wf w 142 140 ≠ 4) :
    (rowNext l w cond s).lane[l].row = { s.lane[l].row with
      pc := (nextPlace w cond s.lane[l].row).1, stack := (nextPlace w cond s.lane[l].row).2, state := .running, acted := false } := by
  unfold rowNext nextPlace
  generalize wf w 142 140 = next at noDispatch ⊢
  match next with
  | 0 | 1 | 2 | 3 | 5 | 6 => exact setRow_row l _ s
  | 4 => exact absurd rfl noDispatch
  | n + 7 => exact setRow_row l _ s

/-- The state once a word has acted: its actions on the sequencer, and the lane's write guard after them (R221). -/
def wordActed (l : LaneIx) (w : BitVec 144) (x : RowSymbol) (s : State) : State :=
  guardLane l (setLane l { s.lane[l] with
    row := rowActs w x.encPass (decide (s.yck.lane[l].timing ≠ .yarn)) (nextMark s l w x.sym)
      ((laneZone s l).map fun z => slotEnd z s.lane[l].row.slot) s.lane[l].row
    gateLatched := s.lane[l].gateLatched && !decide (wf w 70 68 = 2 ∨ wf w 70 68 = 3) } s)

theorem wordActed_row (l : LaneIx) (w : BitVec 144) (x : RowSymbol) (s : State) :
    (wordActed l w x s).lane[l].row = rowActs w x.encPass (decide (s.yck.lane[l].timing ≠ .yarn)) (nextMark s l w x.sym)
      ((laneZone s l).map fun z => slotEnd z s.lane[l].row.slot) s.lane[l].row := by
  rw [wordActed, guardLane_row, setLane_get]

theorem wordActed_span (l : LaneIx) (w : BitVec 144) (x : RowSymbol) (s : State) :
    spanStarts (wordActed l w x s) l x.sym = spanStarts s l x.sym := by
  unfold wordActed
  refine spanStarts_congr ?_ (by simp) (by simp)
  rw [guardLane_now, setLane_get]

section plain
variable {s : State} {l : LaneIx} {x : RowSymbol} {w : BitVec 144} {n : Nat} {cond : Bool}

/-- A word that posts nothing, traces no event, traps nothing and starts no servo span acts and goes on. -/
theorem rowPerform_plain (acted : s.lane[l].row.acted = false) (noSpan : spanStarts s l x.sym = false) (noPost : wf w 113 113 = 0)
    (noTrace : wf w 55 52 ≠ 1) (noTrap : wf w 88 86 = 0) (noCust : (custAddr s.lane[l].row.pc || s.lane[l].row.inCust) = false) :
    rowPerform l w x cond s = rowNext l w cond (wordActed l w x s) := by
  have span : ¬ (spanStarts (wordActed l w x s) l x.sym = true ∧ (wordActed l w x s).lane[l].row.wgReq = true) := fun h =>
    ne_true_of_eq_false noSpan ((wordActed_span l w x s).symm.trans h.1)
  have trap : rowTrap (wordActed l w x s) l w false = none := by simp [rowTrap, noTrap]
  unfold rowPerform
  simp only [acted, noPost, noTrace, noCust, Bool.false_eq_true, if_false, Nat.zero_ne_one]
  exact (if_neg span).trans (congrArg (takeTrap l · _) trap)

/-- What a plain word leaves of its sequencer: its actions, and the place it goes to. -/
theorem rowWord_plain (state : s.lane[l].row.state = .running) (hw : w = rowFetch s.lane[l].row s.lane[l].row.pc)
    (acted : s.lane[l].row.acted = false) (parity : badQuarters w = 0) (next : wf w 142 140 = n) (noBreak : wf w 112 112 = 0)
    (sound : wordFault s l w x (rowCond s l w x) = none) (noSpan : spanStarts s l x.sym = false) (noPost : wf w 113 113 = 0)
    (noTrace : wf w 55 52 ≠ 1) (noTrap : wf w 88 86 = 0) (noCust : (custAddr s.lane[l].row.pc || s.lane[l].row.inCust) = false)
    (goes : ¬ (n = 7 ∧ rowCond s l w x = false)) (noDispatch : n ≠ 4) {pc : Nat} {stack : List Nat}
    (place : nextPlace w (rowCond s l w x) s.lane[l].row = (pc, stack)) :
    (rowWord n l x s).lane[l].row =
      { rowActs w x.encPass (decide (s.yck.lane[l].timing ≠ .yarn)) (nextMark s l w x.sym)
          ((laneZone s l).map fun z => slotEnd z s.lane[l].row.slot) s.lane[l].row with
        pc := pc
        stack := stack
        state := .running
        acted := false } := by
  obtain ⟨rfl, rfl⟩ := Prod.mk.inj place
  rw [rowWord_performs state hw parity next noBreak sound goes, rowPerform_plain acted noSpan noPost noTrace noTrap noCust,
    rowNext_place (by rw [next]; exact noDispatch), wordActed_row]
  rfl

end plain

/-- Settles O35. -/
theorem rowWordNextPlaces : Obligations.RowWordNextPlaces := by
  unfold Obligations.RowWordNextPlaces
  refine ⟨fun s l x v live hv state acted parity next noBreak sound span post trace trap cust => ?rowSeq,
    fun s l x v live hv state acted parity next noBreak sound span post trace trap cust => ?rowJmp,
    fun s l x v live hv state acted parity next noBreak sound span post trace trap cust => ?rowBrt,
    fun s l x v live hv state acted parity next noBreak sound span post trace trap cust => ?rowBrf,
    fun s l x v live hv state acted parity next noBreak sound span post trace trap cust => ?rowCall,
    fun s l x v live hv state acted parity next noBreak sound span post trace trap cust => ?rowRet,
    fun s l x v live hv state acted parity next noBreak sound span post trace trap cust holds => ?rowWait⟩
  case rowSeq =>
    exact completes_of_next (act_next live rfl)
      (rowWord_plain state hv acted parity next noBreak sound span post trace trap cust (by omega) (by omega) (by simp only [nextPlace, next]))
  case rowJmp =>
    exact completes_of_next (act_next live rfl)
      (rowWord_plain state hv acted parity next noBreak sound span post trace trap cust (by omega) (by omega) (by simp only [nextPlace, next]))
  case rowBrt =>
    exact completes_of_next (act_next live rfl)
      (rowWord_plain state hv acted parity next noBreak sound span post trace trap cust (by omega) (by omega) (by simp only [nextPlace, next]))
  case rowBrf =>
    exact completes_of_next (act_next live rfl)
      (rowWord_plain state hv acted parity next noBreak sound span post trace trap cust (by omega) (by omega) (by simp only [nextPlace, next]))
  case rowCall =>
    exact completes_of_next (act_next live rfl)
      (rowWord_plain state hv acted parity next noBreak sound span post trace trap cust (by omega) (by omega) (by simp only [nextPlace, next]))
  case rowRet =>
    exact completes_of_next (act_next live rfl)
      (rowWord_plain state hv acted parity next noBreak sound span post trace trap cust (by omega) (by omega) (by simp only [nextPlace, next]))
  case rowWait =>
    exact completes_of_next (act_next live rfl)
      (rowWord_plain state hv acted parity next noBreak sound span post trace trap cust (by simp [holds]) (by omega) (by simp only [nextPlace, next]))

end Sys2Proof.Proofs

/-!
The completion of the operation opcodes (R229, R237).
-/
namespace Sys2Proof.Proofs
open Sys2Proof Sys2Proof.Machine Sys2Proof.Laws

theorem setRow_setRow (l : LaneIx) (q r : Row) (s : State) : setRow l r (setRow l q s) = setRow l r s := by
  rw [setRow, setRow, setLane_get, setLane_setLane]
  rfl

theorem notExported {r : Row} {op : Nat} (h : exportedEntry op = none) : atExported r op = false :=
  decide_eq_false fun ⟨_, entry⟩ => by rw [h] at entry; exact nomatch entry

/-- An opcode at the front of the FIFO that no exported entry runs is taken and has its effect (R237). -/
theorem opcode_takes {l : LaneIx} {op : Nat} {f : State → State} {s u : State} (inner : atExported s.lane[l].row op = false)
    (take : opTake l op s = some u) : opcode l op f s = f u :=
  (if_neg (ne_true_of_eq_false inner)).trans (by rw [take])

/-- Settles O12. -/
theorem opcodesComplete : Obligations.OpcodesComplete := by
  unfold Obligations.OpcodesComplete
  refine ⟨fun s l u live take => ?opcodeIdle,
    fun s l u live feReady take => ?opcodeOpBegin,
    fun s l u live inner take => ?opcodeOpEnd,
    fun s l xs u live inner take => ?opcodeRdRun,
    fun s l xs u live take => ?opcodeRrRun,
    fun s l xs u live inner take => ?opcodeWrRun,
    fun s l xs u live take => ?opcodeWrSelv,
    fun s l u live inner take => ?opcodeGap,
    fun s l a rest live state pc stack => ?opcodeGapReturns,
    fun s l n u live take on => ?opcodeCustomer⟩
  case opcodeIdle => exact act_next live (opcode_takes (notExported rfl) take)
  case opcodeOpBegin =>
    have ready : ¬ (fld (laneReg s.lane[l] 0) 15 12 ≠ 0 ∧ s.lane[l].feReady = false) := fun h => by rw [feReady] at h; exact Bool.noConfusion h.2
    exact act_next live ((if_neg ready).trans (opcode_takes (notExported rfl) take))
  case opcodeOpEnd => exact act_next live (opcode_takes inner take)
  case opcodeRdRun => exact act_next live (opcode_takes inner take)
  case opcodeRrRun => exact act_next live (opcode_takes (notExported rfl) take)
  case opcodeWrRun => exact act_next live (opcode_takes inner take)
  case opcodeWrSelv => exact act_next live (opcode_takes (notExported rfl) take)
  case opcodeGap => exact act_next live (opcode_takes inner take)
  case opcodeGapReturns =>
    have entry : atExported s.lane[l].row 0x30 = true := decide_eq_true ⟨state, by rw [pc]; rfl⟩
    refine act_next live ((if_pos entry).trans ((if_neg fun h => absurd h.1 (by decide)).trans ?_))
    simp only [exportedEnd, setRow_row, stack, setRow_setRow]
    rfl
  case opcodeCustomer =>
    have range : ¬ (0xE0 + n.val < 0xE0 ∨ 0xFF < 0xE0 + n.val) := by omega
    have inner : exportedEntry (0xE0 + n.val) = none := (by decide : ∀ n : Fin 32, exportedEntry (0xE0 + n.val) = none) n
    refine act_next live ((if_neg range).trans ((opcode_takes (notExported inner) take).trans ?_))
    simp only [on, if_true]

end Sys2Proof.Proofs

/-!
The completion of a lane's load port, pattern sequencer and darning store (R229 to R243).
-/
namespace Sys2Proof.Proofs
open Sys2Proof Sys2Proof.Machine Sys2Proof.Laws

section load
variable {l : LaneIx} {s : State} {w : Word}

theorem rowLoadRead_word (word : bitOf (laneReg s.lane[l] 0x1030) 16 = false) :
    rowLoadRead l s =
      let n := (rowFetch s.lane[l].row (fld (laneReg s.lane[l] 0x1030) 11 0)).toNat
      setLane l { s.lane[l] with regs := (List.range 5).foldl (fun rs i => regSet laneRows rs (0x1034 + 4 * i) (BitVec.ofNat 32 (n / 2 ^ (32 * i)))) s.lane[l].regs } s := by
  simp only [rowLoadRead, word, Bool.false_eq_true, if_false]

/-! ### A write of ROW_CTL (R231, R242, R243) -/

/-- The lane with ROW_CTL written, without what the write starts. -/
def rowCtlPut (l : LaneIx) (new : Word) (s : State) : State :=
  setLane l { s.lane[l] with regs := regSet laneRows s.lane[l].regs 0x1000 new } s

theorem rowCtlPut_row (l : LaneIx) (new : Word) (s : State) : (rowCtlPut l new s).lane[l].row = s.lane[l].row := by
  rw [rowCtlPut, setLane_get]

/-- A write that asks for no swap. -/
theorem rowCtlWrite_noSwap (noSwap : bitOf w 8 = false) :
    rowCtlWrite l false w s =
      let new := fldAt (fld w 3 0) 3 0
      let u := rowCtlPut l new s
      if bitOf new 0 = bitOf (rowCtl s.lane[l]) 0 then u else if bitOf new 0 then rowStart l u else rowStop l u := by
  simp only [rowCtlWrite, noSwap, Bool.false_eq_true, false_and, if_false]
  rfl

theorem rowStart_free (bound : laneBind s.flt l.val ≠ 5) (notSpare : l ≠ 4) :
    rowStart l s = setRow l { s.lane[l].row with state := .running, pc := 0, stack := [], acted := false, inCust := false, startPend := false } s := by
  simp only [rowStart, bound, notSpare, decide_false, Bool.false_and, Bool.false_eq_true, if_false]

end load

/-! ### The pattern sequencer -/

theorem reissue_none {l t : LaneIx} {s : State} (lost : s.lane[l].pat.lost = none) : reissue l t s = s := by
  simp only [reissue, lost]

/-- A write of PAT_CTL that runs a sequencer with no operation lost, stopped or idle (R242, R243). -/
theorem patCtlWrite_runs {l : LaneIx} {w : Word} {s : State} (run : bitOf w 0 = true)
    (state : s.lane[l].pat.state = .stopped ∨ s.lane[l].pat.state = .idle) (lost : s.lane[l].pat.lost = none) :
    patCtlWrite l w s =
      let u := setLane l { s.lane[l] with
        regs := regSet laneRows s.lane[l].regs 0x1100 (fldAt (fld w 1 0) 1 0)
        pat := { s.lane[l].pat with state := if bitOf w 1 then .quiesced else .idle } } s
      if bitOf w 1 then patEvent l 5 u else u := by
  have keeps (v : Lane) (h : v.pat.lost = none) : reissue l l (setLane l v s) = setLane l v s := reissue_none (by rw [setLane_get, h])
  obtain state | state := state <;> cases q : bitOf w 1 <;>
    simp [patCtlWrite, run, state, q, lost, keeps, -Fin.getElem_fin]

/-- Settles O13. -/
theorem laneProgramsComplete : Obligations.LaneProgramsComplete := by
  unfold Obligations.LaneProgramsComplete
  refine ⟨fun s l live noSwap ok word noRemap => ?rowLoadWrite,
    fun s l live word => ?rowLoadReadback,
    fun s l w live stopped run noSwap bound notSpare => ?rowRun,
    fun s l w live running stop noSwap => ?rowStop,
    fun s l w live same => ?custEnWrite,
    fun s l w live swap same => ?rowSwapRequest,
    fun s l live pend op => ?rowSwap,
    fun s l x ws taken d a surface usable mode z live state noRetry take hd ha hsurface hz husable hmode sound record reader fitted reads detects readers => ?patOperation,
    fun s l x live state empty => ?patOperationNone,
    fun s l w live run noQuiesce state lost => ?patRun,
    fun s l w live run quiesce state lost => ?patQuiesce,
    fun s l live state => ?darnWrite,
    fun s l live => ?darnReadback,
    fun s l n w live => ?matchWrite,
    fun s l x rest live state staged => ?matchApply⟩
  case rowLoadWrite =>
    refine act_next live ?_
    simp only [rowLoadWrite, noSwap, ok, word, noRemap, List.find?_nil, Bool.false_eq_true, Bool.true_eq_false, if_false]
  case rowLoadReadback =>
    exact completes_of_next (act_next live (rowLoadRead_word word)) rfl
  case rowRun =>
    have write := rowCtlWrite_noSwap (l := l) (s := s) noSwap
    simp only [run, stopped, Bool.true_eq_false, if_false, if_true] at write
    refine completes_of_next (act_next live (write.trans (rowStart_free bound notSpare))) ?_
    rw [setRow_row]
    exact ⟨rfl, rfl, rfl⟩
  case rowStop =>
    have write := rowCtlWrite_noSwap (l := l) (s := s) noSwap
    simp only [running, stop, Bool.false_eq_true, if_false] at write
    refine completes_of_next (act_next live write) ?_
    rw [rowStop, setRow_row]
    exact ⟨rfl, rfl, rfl, rfl⟩
  case custEnWrite =>
    refine act_next live ?_
    simp only [rowCtlWrite, if_true, Bool.true_eq_false, and_false, if_false, same]
  case rowSwapRequest =>
    have write : rowCtlWrite l false (w ||| 0x100#32) s =
        setRow l { (rowCtlPut l (fldAt (fld (w ||| 0x100#32) 3 0) 3 0) s).lane[l].row with swapPend := true }
          (rowCtlPut l (fldAt (fld (w ||| 0x100#32) 3 0) 3 0) s) := by
      simp only [rowCtlWrite, swap, same, Bool.false_eq_true, if_false, and_self, if_true, rowCtlPut]
    refine completes_of_next (act_next live write) ?_
    rw [setRow_row, rowCtlPut_row]
  case rowSwap => exact act_next live (if_neg (by rw [pend, op]; decide))
  case patOperation =>
    have known : ¬ (headRecordOk s a = false ∨ z.isSome = true ∧ recVreader s a ≠ (z.getD (zoneDesc [])).vreader) := fun h =>
      h.elim (ne_false_of_eq_true record) fun ⟨found, differs⟩ => reader.elim (ne_false_of_eq_true found) differs
    have noReader : ¬ (usable = 0 ∧ d.kind ≠ 4) := fun ⟨zero, kind⟩ => readers.elim (· zero) kind
    have noWrite : ¬ (d.kind = 1 ∨ d.kind = 3) := not_or.mpr reads
    refine act_next live ?_
    simp only [patOperation, state, noRetry, take, ← hd, ← ha, ← hsurface, ← hz, ← husable, ← hmode, sound, fitted, detects, noWrite,
      ne_eq, not_true_eq_false, false_or, Bool.false_eq_true, Bool.true_eq_false, decide_false, if_false, and_false, false_and]
    exact (if_neg known).trans (if_neg noReader)
  case patOperationNone =>
    refine act_next live ?_
    simp only [patOperation, state, empty, ne_eq, not_true_eq_false, false_or]
    exact ite_self _
  case patRun =>
    have write := patCtlWrite_runs run (.inl state) lost
    simp only [noQuiesce, Bool.false_eq_true, if_false] at write
    refine completes_of_next (act_next live write) ?_
    rw [setLane_get]
    exact ⟨rfl, rfl⟩
  case patQuiesce =>
    have write := patCtlWrite_runs run (.inr state) lost
    simp only [quiesce, if_true] at write
    exact act_next live write
  case darnWrite =>
    refine act_next live ?_
    simp only [darnWrite, state]
  case darnReadback => exact completes_of_next (act_live live _) rfl
  case matchWrite => exact act_next live rfl
  case matchApply =>
    refine act_next live ?_
    simp only [matchApply, state, staged]
end Sys2Proof.Proofs
end

