-- ==== Sys2Proof/Proofs/JournalAndMembers.lean ====
section
/-!
The completion of the journal, the stripe rows, the reconstruction and the surface parity engine (R254 to R271, R510).
-/
namespace Sys2Proof.Proofs
open Sys2Proof Sys2Proof.Machine Sys2Proof.Laws

/-- A checkpoint with no read-modify-write under way appends only its own entry (R256). -/
theorem checkpoint_noRmw {s : State} (rmw : s.spe.rmw = []) :
    checkpoint s =
      let u := jAppend 0x40 (packFields [(32, s.arr.version), (32, changedPages s.spe), (64, s.spe.next)]) s
      speEvent 1 { u with spe := { u.spe with
        live := u.spe.live.filter fun e => decide (s.spe.next ≤ e.seq), ckptBusy := false, stalled := false, ckptAt := u.sys.ms, ckptSeq := s.spe.next } } := by
  have same : { s with spe := { s.spe with rmw := [] } } = s := by rw [← rmw]
  simp only [checkpoint, rmw, reappend, List.map_nil, List.foldl_nil, same]

/-- The entries of the one read-modify-write under way are durable: its groups are stale and its parity is computed (R262). -/
theorem rmwDurable_one {n r u : Nat} {z : Zone} {o : Rmw} {s : State} (rmw : s.spe.rmw = [o]) (ho : o.zone = n ∧ o.row = r ∧ o.unit = u)
    (zone : zoneGet s n = some z) (durable : seqDurable s.spe o.seq = true)
    (set : regionSet s.spe (regionOf n (r * 16 * dataUnits z.w + (if u = 0xFF then 0 else 16 * u) + o.first)) = true) :
    rmwDurable n r u s = markGroups n .stale (rmwGroups s n r u o.first o.count) { s with spe := { s.spe with rmw := [{ o with computed := true }] } } := by
  have mine : decide (o.zone = n ∧ o.row = r ∧ o.unit = u) = true := decide_eq_true ho
  have keeps (bs : List (Nat × Nat)) : (markGroups n .stale bs s).spe = s.spe := rfl
  simp only [rmwDurable, rmw, zone, mine, durable, set, Option.map_some, Option.getD_some, Bool.and_self, List.filter_cons, List.filter_nil,
    List.foldl_cons, List.foldl_nil, List.map_cons, List.map_nil, if_true, keeps]
  rfl

/-- A fill that ends with a replica in force: the journal settles, and the next free place fills (R255). -/
theorem fillDone_current {i : Fin 3} {s : State} (fill : s.spe.fill = some i) (current : currentCount s.spe ≠ 0) :
    fillDone s =
      let u := settleJournal (speEvent 3 { s with spe := { s.spe with replica := s.spe.replica.set i { s.spe.replica[i] with current := true }, fill := none } })
      match freePlace u.spe with
      | some j => startFill j u
      | none => u := by
  simp only [fillDone, fill, current, decide_false, Bool.false_eq_true, if_false] <;> rfl

/-- Settles O14. -/
theorem journalAndRowsComplete : Obligations.JournalAndRowsComplete := by
  unfold Obligations.JournalAndRowsComplete
  refine ⟨fun s w live type slot on => ?jrnlAppend,
    fun s g rest live on stalled noLoss warm current groups issued closed => ?jrnlGroupIssue,
    fun s w live => ?jrnlAck,
    fun s i live current fill => ?replicaReplace,
    fun s i live fill current => ?replicaFillDone,
    fun s live on noLoss due current hold rmw => ?checkpoint,
    fun s r live on due quiet => ?bitClearDelay,
    fun s n r z o u live hu zone open_ noLog complete go free => ?rowVerified,
    fun s n r present z o u live hu zone hpresent open_ noLog trigger keys go free => ?rowIdleTimeout,
    fun s n r u z o live rmw ho zone durable set => ?rmwEntriesDurable,
    fun s n r u z o x keys units live hx zone open_ hkeys hunits noLog go free => ?rmwVerified,
    fun s n r p z x live zone skipped reach here enough timing => ?skipWalkUnit⟩
  case jrnlAppend => exact act_next live (if_neg (by rw [type, on]; simp [slot]))
  case jrnlGroupIssue =>
    refine act_next live ?_
    simp only [groupIssue, on, stalled, noLoss, warm, current, groups, issued, closed, Bool.true_eq_false, Bool.false_eq_true, or_self,
      if_false, true_or, if_true]
  case jrnlAck => exact act_next live rfl
  case replicaReplace =>
    refine completes_of_next (act_live live _) ?_
    simp only [replicaLost, current, fill, Bool.true_eq_false, false_and, if_false, if_true, reduceCtorEq]
  case replicaFillDone => exact completes_of_next (act_next live (congrArg kick (fillDone_current fill current))) rfl
  case checkpoint =>
    have goes : ¬ (speOn s = false ∨ s.sys.plActive = true ∨ checkpointDue s = false) := by rw [on, noLoss, due]; decide
    exact completes_of_next (act_next live ((if_neg goes).trans ((if_pos ⟨rfl, current, hold⟩).trans (checkpoint_noRmw rmw)))) rfl
  case bitClearDelay => exact act_next live (if_pos ⟨on, due, quiet⟩)
  case rowVerified =>
    subst hu
    refine completes_of_next (act_live live _) ?_
    simp only [rowVerified, zone, open_, noLog, Bool.false_eq_true, if_false]
    exact if_pos ⟨complete, go, free⟩
  case rowIdleTimeout =>
    subst hu hpresent
    refine completes_of_next (act_live live _) ?_
    simp only [rowPartial, zone, open_, noLog, trigger, keys, Bool.false_eq_true, Bool.true_eq_false, or_self, if_false]
    exact if_pos ⟨go, free⟩
  case rmwEntriesDurable => exact act_next live (rmwDurable_one rmw ho zone durable set)
  case rmwVerified =>
    subst hx hkeys hunits
    refine completes_of_next (act_live live _) ?_
    simp only [rmwVerified, zone, open_, noLog, Bool.false_eq_true, if_false]
    exact if_pos ⟨go, free⟩
  case skipWalkUnit =>
    refine act_next live ?_
    simp only [skipWalk, zone, skipped]
    exact if_pos ⟨reach, here, enough, timing⟩

/-- Settles O15. -/
theorem reconstructionAndParityEngineComplete : Obligations.ReconstructionAndParityEngineComplete := by
  unfold Obligations.ReconstructionAndParityEngineComplete
  refine ⟨fun s n o extra piBad z live zone few => ?handedBack,
    fun s n o extra piBad verified z live zone many reach => ?dropStitch,
    fun s piFail ecc ws u live on halt warm take sound clean => ?speJob,
    fun s w live => ?speEnable,
    fun s w live => ?speHalt,
    fun s w live => ?speLock,
    fun s w live allowed => ?speCalWrite⟩
  case handedBack =>
    refine act_next live ?_
    simp only [reconstruct, zone, Bool.false_and, Bool.false_eq_true, if_false, few, and_self, if_true]
  case dropStitch =>
    have lost : ¬ (missingAt s n z (rowOf z.w o) (blockIn o) + (if posOut s n z (rowOf z.w o) (posOf z.w o) (blockIn o) then 0 else 1) + extra ≤ 2) := Nat.not_le.mpr many
    refine act_next live ?_
    simp only [reconstruct, zone, Bool.false_and, Bool.false_eq_true, if_false, lost, false_and, reach]
  case speJob =>
    have goes : ¬ (speOn s = false ∨ bitOf (speReg s.spe 0) 1 = true ∨ s.flt.warm = true) := by rw [on, halt, warm]; decide
    refine completes_of_next (act_live live _) ((if_neg goes).trans ?_)
    simp only [take, sound, clean, ne_eq, not_true_eq_false, Bool.false_eq_true, if_false]
  case speEnable => exact completes_of_next (act_live live _) ⟨rfl, rfl⟩
  case speHalt => exact completes_of_next (act_live live _) ⟨rfl, rfl⟩
  case speLock => exact completes_of_next (act_live live _) ⟨rfl, rfl⟩
  case speCalWrite => 
    exact act_next live (if_neg fun ⟨cal, no⟩ => allowed.elim (ne_false_of_eq_true cal) fun ⟨h, h'⟩ => no.elim (by omega) (ne_false_of_eq_true h'))
end Sys2Proof.Proofs

/-!
The completion of a member's and an actuator's life, of rebuild, migration, reshape, conversion and scrub (R273 to R295).
-/
namespace Sys2Proof.Proofs
open Sys2Proof Sys2Proof.Machine Sys2Proof.Laws

theorem loadAgain_parked {a : ActIx} {e : EngIx} {s : State} (bound : engineOf s.flt a.val = some e) (state : (s.srv.get e).state = .parked)
    (low : s.sys.unloadLow = false) : loadAgain a s = srvLoad e s := by
  simp only [loadAgain, bound]
  exact if_pos ⟨state, low⟩

/-- The conditions under which a fenced member is probed (R287). -/
theorem fencedProbe_probes {m : Fin 24} {ok : Bool} {s : State} (state : s.arr.member[m].state = .fenced) (phase : s.sys.phase = .ready)
    (noLoss : s.sys.plActive = false) (free : (s.arr.avail.toList.getD (m.val / 6) .reset).unavailable = false)
    (loaded : loaded s (m.val / 6) = true) :
    fencedProbe m ok s =
      let v := s.arr.member[m]
      if ok then
        (let u := setMember m { v with probes := v.probes + 1, returned := v.returned || decide (3 ≤ v.probes + 1) } s
         if 3 ≤ v.probes + 1 ∧ v.returned = false then noteChange (stcCond 0x10 m.val (BitVec.ofNat 32 v.gen) u) else u)
      else setMember m { v with probes := 0 } s := by
  simp only [fencedProbe, state, phase, noLoss, free, loaded, ne_eq, not_true_eq_false, Bool.false_eq_true, Bool.true_eq_false, or_self, if_false]

/-- Settles O16. -/
theorem membersComplete : Obligations.MembersComplete := by
  unfold Obligations.MembersComplete
  refine ⟨fun s m c live holds state => ?suspectTrigger,
    fun s m live state past => ?suspectExpiry,
    fun s m c live holds => ?fenceTrigger,
    fun s a c live available holds unbound => ?actuatorUnavailable,
    fun s a e live reloading phase bound state low => ?actuatorReload,
    fun s a live unavailable => ?actuatorRetryTimer,
    fun s n r fails z y live zone work next written hr assigned awaits => ?rebuildRow,
    fun s n z live zone work next done => ?rebuildZoneDone,
    fun s m live state phase noLoss free loaded => ?probeFails,
    fun s m live state phase noLoss free loaded few => ?probePasses,
    fun s m live state phase noLoss free loaded two fresh => ?probeReturns,
    fun s m live state fresh work => ?requalSwatchDone,
    fun s m written failed wedges extra live state swatched reader work rate few => ?requalVerifyDone,
    fun s n m r live standing state noRebuild work record => ?migrateZone,
    fun s f r n z live reshape next zone work commits noPreamble notCopying noRebuild st => ?reshapeZone,
    fun s n z live zone work commits place notRunning degraded noOther noPreamble yarn noReshape => ?formatConversion,
    fun s n r z live zone work place hr may scrubs next => ?scrubRow⟩
  case suspectTrigger =>
    exact completes_of_next (act_next live ((if_neg (ne_false_of_eq_true holds)).trans (if_pos state))) rfl
  case suspectExpiry => exact act_next live (if_pos ⟨state, past⟩)
  case fenceTrigger =>
    refine act_next live ?_
    simp only [fenceTrigger, holds, if_true]
  case actuatorUnavailable =>
    have goes : ¬ (s.arr.avail[a].unavailable = true ∨ actHolds s a c = false) := by rw [available, holds]; decide
    refine actWindow_next (f := actUnavailable a c) live ((if_neg goes).trans ?_)
    have flt (v : ActAvail) : (setAvail a v s).flt = s.flt := rfl
    simp only [flt, unbound]
  case actuatorReload =>
    exact act_next (f := fun s => if s.arr.avail[a].reloading ∧ s.sys.phase = .ready then loadAgain a s else s) live
      ((if_pos ⟨reloading, phase⟩).trans (loadAgain_parked bound state low))
  case actuatorRetryTimer =>
    exact act_next live (if_neg (by rw [unavailable]; decide))
  case rebuildRow =>
    refine completes_of_next (act_live live _) ?_
    simp only [rebuildRow, zone, work, next, assigned, awaits, ← hr, Nat.not_le.mpr written, Bool.true_eq_false, ne_eq, not_true_eq_false, or_self, if_false]
  case rebuildZoneDone =>
    refine completes_of_next (act_live live _) ?_
    simp only [rebuildZoneDone, zone, work, next, Bool.true_eq_false, ne_eq, not_true_eq_false, false_or]
    exact if_neg done
  case probeFails => exact act_next live (fencedProbe_probes state phase noLoss free loaded)
  case probePasses =>
    refine act_next live ((fencedProbe_probes state phase noLoss free loaded).trans ?_)
    simp only [if_true, Nat.not_le.mpr few, decide_false, false_and, if_false, Bool.or_false]
  case probeReturns =>
    refine act_next live ((fencedProbe_probes state phase noLoss free loaded).trans ?_)
    simp [two, fresh, -Fin.getElem_fin]
  case requalSwatchDone =>
    have goes : ¬ (s.arr.member[m].state ≠ .qualifying ∨ s.arr.member[m].swatched = true ∨ mediaWork s = false) := by rw [state, fresh, work]; decide
    exact act_next live (if_neg goes)
  case requalVerifyDone =>
    have goes : ¬ (s.arr.member[m].state ≠ .qualifying ∨ s.arr.member[m].swatched = false ∨ mediaWork s = false) := by rw [state, swatched, work]; decide
    have some : written ≠ 0 := by omega
    refine completes_of_next (act_live live _) ((if_neg goes).trans ?_)
    simp [rate, few, reader, some, -Fin.getElem_fin]
  case migrateZone =>
    refine completes_of_next (act_live live _) ?_
    simp only [migrateZone, standing, state, noRebuild, work, record, Bool.true_eq_false, Bool.false_eq_true, ne_eq, not_true_eq_false,
      or_self, if_false]
  case reshapeZone =>
    have switch : reshapeZone f s = reshapeSwitch n z r [] none s := by
      simp only [reshapeZone, reshape, next, zone, work, commits, noPreamble, notCopying, noRebuild, st, List.any_nil, Bool.true_eq_false,
        Bool.false_eq_true, or_self, decide_false, if_false]
    exact completes_of_next (act_next live switch) rfl
  case formatConversion =>
    refine completes_of_next (act_live live _) ?_
    simp only [formatConvert, zone, work, commits, List.any_nil, place, notRunning, degraded, noOther, noPreamble, yarn, noReshape,
      Bool.not_true, Bool.not_false, Bool.and_true, Bool.true_eq_false, Bool.false_eq_true, ne_self_iff_false, or_self, if_false]
  case scrubRow =>
    have goes : ¬ (mediaWork s = false ∨ z.place = [] ∨ writtenRows z ≤ r ∨ (rebuildActive s = true ∧ suspectZone s z = false) ∨ scrubMay s n r = false ∨
        scrubNext s ≠ some (n, r)) := by
      simp only [work, place, Nat.not_le.mpr hr, scrubs, next, Bool.true_eq_false, ne_eq, not_true_eq_false, or_false, false_or]
      exact fun ⟨rebuild, clear⟩ => may.elim (ne_false_of_eq_true rebuild) (ne_true_of_eq_false clear)
    refine act_next live ?_
    simp only [scrubRow, zone]
    exact if_neg goes
end Sys2Proof.Proofs
end

