-- ==== Sys2Proof/Proofs/HostLink.lean ====
section
/-!
The completion of command fetch, of the controllers' enabling and roles, and of the subsystem reset (R330 to R367).
-/
namespace Sys2Proof.Proofs
open Sys2Proof Sys2Proof.Machine Sys2Proof.Laws

/-! ### The commands in flight (R362, R363) -/

theorem settleFlushes_none {s : State} (h : s.hif.flushes = []) : settleFlushes s = s := by
  have same : { s with hif := { s.hif with flushes := [] } } = s := by rw [← h]
  simp only [settleFlushes, h, List.filter_nil, List.foldl_nil, same]

/-- What settles once no command waits for an erase and no flush waits. -/
theorem kick_retries {s t : State} (phase : s.sys.phase = .ready) (noLoss : s.sys.plActive = false) (warm : s.flt.warm = false)
    (retry : retryAll s = t) (erase : t.host.eraseWait = []) (flushes : t.hif.flushes = []) : kick s = t := by
  have runs : runsIo s = true := by rw [runsIo, phase]
  have goes : ¬ (s.sys.plActive = true ∨ s.flt.warm = true ∨ runsIo s = false) := by rw [noLoss, warm, runs]; decide
  refine (if_neg goes).trans ?_
  simp only [retry, erase, if_true, settleFlushes_none flushes]

/-- With nothing in flight and nothing that waits there is nothing to take up again. -/
theorem kick_idle {s : State} (flight : s.hif.flight = []) (erase : s.host.eraseWait = []) (flushes : s.hif.flushes = []) : kick s = s := by
  have retry : retryAll s = s := by rw [retryAll, flight, List.foldl_nil]
  unfold kick
  split
  · rfl
  · simp only [retry, erase, if_true, settleFlushes_none flushes]

theorem retryAll_one {s : State} {f : InFlight} (flight : s.hif.flight = [f]) : retryAll s = retryFlight f s := by
  simp [retryAll, flight]

/-- A write whose blocks wait completes once the window has room for them (R363). -/
theorem retryFlight_write {s : State} {f : InFlight} {v : Namespace} (phase : f.phase = .waiting) (kind : f.io.kind = .write) (owner : f.ctl ≠ 3)
    (ns : nsGet s f.io.ns = some v) (accepted : refusedNow s v f.io = false) (room : roomFor s f.fseq (undurable s (ioKeys v f.io)) = true) :
    retryFlight f s = complete f.ctl f.fseq .success 0 0 [] (ackBlocks (ioKeys v f.io) s) := by
  simp only [retryFlight, phase, ns, accepted, finishWrite, owner, kind, room, reduceCtorEq, Bool.false_eq_true, if_false, if_true]

theorem setCtl_setCtl (c : CtlIx) (v w : Ctl) (s : State) : setCtl c w (setCtl c v s) = setCtl c w s :=
  congrArg (fun x => { s with hif := { s.hif with ctl := x } }) (Vector.set_set _ _)

theorem cmdRing_congr {s t : State} {c : CtlIx} (h : t.hif.regs = s.hif.regs) : cmdRing t c = cmdRing s c := by
  unfold cmdRing hifReg
  rw [h]

/-- Settles O17. -/
theorem hostLinkCompletes : Obligations.HostLinkCompletes := by
  unfold Obligations.HostLinkCompletes
  refine ⟨fun s c k live fetch unknown => ?fetchUnknown,
    fun s c k live fetch admin known ring => ?fetchAdmin,
    fun s n live held dirty => ?rangeLockRelease,
    fun s live => ?completionPost,
    fun s f v live phase noLoss warm flight waits kind owner ns accepted clear room erase flushes => ?completionOfWrite,
    fun s n f live found expired => ?holdLimitExpiry,
    fun s f live phase flight held past erase flushes => ?holdLimitOfOne,
    fun s c live used noLoss lit en up phase => ?ccEnSet,
    fun s c live used noLoss lit en => ?ccEnClear,
    fun s c live used noLoss lit rejoin => ?rejoinWindowExpiry,
    fun s c w live used noLoss lit noAttach => ?attachRequest,
    fun s c live used noLoss lit cause => ?partnerDepart,
    fun s c r live used noLoss lit waiting noHold en hr attach => ?roleChange,
    fun s c live used noLoss lit up => ?nssr⟩
  case fetchUnknown => exact act_next live ((if_neg (by rw [fetch]; decide)).trans (if_pos unknown))
  case fetchAdmin =>
    refine act_next live ((if_neg (by rw [fetch]; decide)).trans ?_)
    simp only [admin, if_true, known, Bool.true_eq_false, if_false, false_and]
    split
    · rename_i r found
      exact nomatch found.symm.trans ((cmdRing_congr rfl).trans ring)
    · rfl
  case rangeLockRelease =>
    exact act_next live (if_neg (not_or.mpr ⟨ne_true_of_eq_false held, ne_true_of_eq_false dirty⟩))
  case completionPost => exact act_next live rfl
  case completionOfWrite =>
    have earliest : (s.hif.flight.any fun g => decide (g.phase = .waiting ∧ g.fseq < f.fseq)) = false := by simp [flight]
    have hasRoom : roomFor s f.fseq (undurable s (ioKeys v f.io)) = true := by simp only [roomFor, clear, room, earliest]; decide
    have retry := (retryAll_one flight).trans (retryFlight_write waits kind owner ns accepted hasRoom)
    exact act_next live (kick_retries phase noLoss warm retry (by rw [complete_host]; exact erase) flushes)
  case holdLimitExpiry =>
    refine act_next live ?_
    simp only [holdExpiry, found, expired, if_true]
  case holdLimitOfOne =>
    have found : (s.hif.flight.find? fun g => decide (g.fseq = f.fseq)) = some f := by simp [flight]
    have expired : overLimit s f = true := by simp [overLimit, held, past, phase]
    have none : (complete f.ctl f.fseq .namespaceNotReady 0 0 [] s).hif.flight = [] := by simp [complete, unlock, flight]
    refine act_next live ?_
    simp only [holdExpiry, found, expired, if_true]
    exact kick_idle none (by rw [complete_host]; exact erase) flushes
  case ccEnSet =>
    have goes : ¬ (s.hif.ctl[c].en = true ∨ s.hif.ctl[c].linkUp = false ∨ s.sys.phase = .post) := by simp [en, up, phase, -Fin.getElem_fin]
    refine completes_of_next (act_next live (onPort_used used noLoss lit (if_neg goes))) ?_
    have sizes : entrySizesOk 6 4 = true := rfl
    simp only [sizes, Bool.true_eq_false, if_false, setCtl_get, setCtl_setCtl]
  case ccEnClear =>
    exact completes_of_next (act_next live (onPort_used used noLoss lit (if_neg (by rw [en]; decide)))) rfl
  case rejoinWindowExpiry => exact act_next live (onPort_used used noLoss lit (if_pos rejoin))
  case attachRequest => exact act_next live (onPort_used used noLoss lit (if_pos (.inl noAttach)))
  case partnerDepart => exact act_next live (onPort_used used noLoss lit (if_pos cause))
  case roleChange =>
    have goes : ¬ (activationHold s = true ∨ s.hif.ctl[c].en = false) := by rw [noHold, en]; decide
    subst hr
    refine act_next live (onPort_used used noLoss lit ?_)
    simp only [roleChange, waiting]
    exact (if_neg goes).trans (if_neg attach)
  case nssr => exact act_next live (onPort_used used noLoss lit (if_pos ⟨rfl, up⟩))
end Sys2Proof.Proofs
end

