-- ==== Sys2Proof/Proofs/AdminCommands.lean ====
section
/-!
Admin commands outside standby and Safe Mode: identify, log pages and features.
-/
namespace Sys2Proof.Proofs
open Sys2Proof Sys2Proof.Machine Sys2Proof.Laws

/-- An admin command that starts outside Safe Mode at a controller that is not in standby runs its
own effect under the number it takes. -/
theorem adminServe_runs {c : CtlIx} {opcode n : Nat} {s u : State} (serve : Bool)
    (f : Nat → State → State) (start : startOk s c.val true opcode 0 0 0 = true)
    (taken : takeNumber c.val true opcode 0 0 0 s = (n, u)) (phase : u.sys.phase ≠ .safe)
    (role : u.hif.ctl[c].role ≠ .standby) : adminServe c.val opcode serve f s = f n u := by
  unfold adminServe
  rw [if_neg (ne_false_of_eq_true start), taken]
  exact (if_neg fun h => phase h.1).trans ((dif_pos c.isLt).trans (if_neg fun h => role h.1))

/-- The outcome of such a command. -/
theorem admin_next {c : CtlIx} {opcode n : Nat} {s u t : State} (serve : Bool)
    (f : Nat → State → State) (live : Live s) (start : startOk s c.val true opcode 0 0 0 = true)
    (taken : takeNumber c.val true opcode 0 0 0 s = (n, u)) (phase : u.sys.phase ≠ .safe)
    (role : u.hif.ctl[c].role ≠ .standby) (path : f n u = t) :
    act s (adminServe c.val opcode serve f) = .next t :=
  act_next live ((adminServe_runs serve f start taken phase role).trans path)

/-- The outcome of one that is refused in Safe Mode only. -/
theorem admin_next_notSafe {c : CtlIx} {opcode n : Nat} {s u t : State} {g f : Nat → State → State}
    (live : Live s) (start : startOk s c.val true opcode 0 0 0 = true)
    (taken : takeNumber c.val true opcode 0 0 0 s = (n, u)) (phase : u.sys.phase ≠ .safe)
    (role : u.hif.ctl[c].role ≠ .standby) (path : f n u = t) :
    act s (adminServe c.val opcode false fun n s => if s.sys.phase = .safe then g n s else f n s) =
      .next t :=
  admin_next false _ live start taken phase role ((if_neg phase).trans path)

/-- Settles O18: outside standby and Safe Mode each of these commands runs its own effect, and the
hypotheses pick the branch of it. -/
theorem identifyLogsAndFeaturesComplete : Obligations.IdentifyLogsAndFeaturesComplete := by
  unfold Obligations.IdentifyLogsAndFeaturesComplete
  refine ⟨fun s c cns csi ns cntid n u live start taken phase role => ?identify,
    fun s c lid rae offset bytes n u live start taken phase role served => ?getLogPage,
    fun s c save v data n u live start taken phase role served => ?setPowerState,
    fun s c save v data n u live start taken phase role served => ?setQueues,
    fun s c fid sel v n u live start taken phase role served notWindow notTable notStamp =>
      ?getFeatures,
    fun s c v n u live start taken phase role valid => ?powerManagement,
    fun s c save v n u live start taken phase role valid => ?layoutDefaults,
    fun s c save v n u live start taken phase role valid => ?scrubSchedule,
    fun s c save v n u live start taken phase role valid => ?permitPolicy,
    fun s c save v n u live start taken phase role valid => ?writeWindow⟩
  case identify => exact admin_next _ (identifyCmd _ _ _ _ _) live start taken phase role rfl
  case getLogPage =>
    exact completes_of_next (admin_next _ (getLogCmd _ _ _ _ _) live start taken phase role
      (if_neg (ne_false_of_eq_true served))) rfl
  case setPowerState =>
    exact admin_next _ (setFeaturesCmd _ _ _ _ _) live start taken phase role
      (if_neg (ne_false_of_eq_true served))
  case setQueues =>
    exact admin_next _ (setFeaturesCmd _ _ _ _ _) live start taken phase role
      (if_neg (ne_false_of_eq_true served))
  case getFeatures =>
    refine admin_next _ (getFeaturesCmd _ _ _ _) live start taken phase role
      ((if_neg (ne_false_of_eq_true served)).trans ?_)
    simp only [notWindow, notTable, notStamp, false_and, if_false]
  case powerManagement =>
    exact admin_next_notSafe live start taken phase role (if_neg (Nat.not_lt.mpr valid))
  case layoutDefaults => exact admin_next_notSafe live start taken phase role (if_pos valid)
  case scrubSchedule => exact admin_next_notSafe live start taken phase role (if_pos valid)
  case permitPolicy => exact admin_next_notSafe live start taken phase role (if_pos valid)
  case writeWindow => exact admin_next_notSafe live start taken phase role (if_pos valid)

end Sys2Proof.Proofs

/-!
Admin commands on queues, Abort and Asynchronous Event Request.
-/
namespace Sys2Proof.Proofs
open Sys2Proof Sys2Proof.Machine Sys2Proof.Laws

/-- Settles O19: a queue command is refused for the queue identifiers its hypotheses exclude, and
an Abort or an event request with nothing to act on answers at once or waits. -/
theorem queueAndEventCommandsComplete : Obligations.QueueAndEventCommandsComplete := by
  unfold Obligations.QueueAndEventCommandsComplete
  refine ⟨fun s c q size cq n u live start taken phase role valid fresh paired => ?createSq,
    fun s c q n u live start taken phase role present => ?deleteSq,
    fun s c q size iv n u live start taken phase role valid fresh => ?createCq,
    fun s c q n u live start taken phase role present unused => ?deleteCq,
    fun s c target n u live start taken phase role running => ?abort,
    fun s c n u live start taken phase role quiet => ?eventRequest⟩
  case createSq =>
    refine admin_next _ (createSq c q size cq) live start taken phase role (if_neg ?_)
    simp only [valid, fresh, paired, Bool.true_eq_false, Bool.false_eq_true, or_self,
      not_false_eq_true]
  case deleteSq =>
    exact admin_next _ (deleteSq c q) live start taken phase role
      (if_neg (ne_false_of_eq_true present))
  case createCq =>
    refine admin_next _ (createCq c q size iv) live start taken phase role (if_neg ?_)
    simp only [valid, fresh, Bool.true_eq_false, Bool.false_eq_true, or_self, not_false_eq_true]
  case deleteCq =>
    refine admin_next _ (deleteCq c q) live start taken phase role (if_neg ?_)
    simp only [present, unused, Bool.true_eq_false, Bool.false_eq_true, or_self, not_false_eq_true]
  case abort =>
    exact admin_next _ (abortCmd c target) live start taken phase role
      (if_neg (ne_true_of_eq_false running))
  case eventRequest =>
    refine admin_next _ (aerCmd c) live start taken phase role ?_
    simp only [aerCmd, quiet, List.filter_nil, List.getLast?_nil]

end Sys2Proof.Proofs

/-!
Firmware download, commit and the steps of an activation.
-/
namespace Sys2Proof.Proofs
open Sys2Proof Sys2Proof.Machine Sys2Proof.Laws

/-- Settles O20: a commit is refused for the slot and the image its hypotheses exclude, and a step
of an activation finds the one that runs. -/
theorem firmwareCommandsComplete : Obligations.FirmwareCommandsComplete := by
  unfold Obligations.FirmwareCommandsComplete
  refine ⟨fun s c offset len n u live start taken phase role fits => ?download,
    fun s c slot x i n u live start taken phase role chosen free ok => ?store,
    fun s c slot x i n u live start taken phase role chosen free ok => ?atReset,
    fun s c slot i n u live start taken phase role chosen free good => ?slotAtReset,
    fun s c slot x i n u live start taken phase role chosen free idle staged ok => ?now,
    fun s a live running fresh quiet => ?holdStart,
    fun s a live running fresh => ?quietTimeout,
    fun s a live running holding done starts own => ?activationSwitch⟩
  case download =>
    exact admin_next _ (downloadCmd _ _ _) live start taken phase role (if_neg fits)
  case store =>
    refine admin_next _ (commitStore _ _ _) live start taken phase role ?_
    simp only [commitStore, chosen, free, ok, safeStore, phase, Bool.false_eq_true,
      Bool.true_eq_false, if_false]
    rfl
  case atReset =>
    refine admin_next _ (commitAtReset _ _ _) live start taken phase role ?_
    simp only [commitAtReset, chosen, free, ok, Bool.false_eq_true, Bool.true_eq_false, if_false]
    rfl
  case slotAtReset =>
    refine admin_next _ (commitSlotAtReset _ _) live start taken phase role ?_
    simp only [commitSlotAtReset, chosen, free, good, Bool.false_eq_true, Bool.true_eq_false,
      if_false]
    rfl
  case now =>
    refine admin_next _ (commitNow _ _ _) live start taken phase role ?_
    simp only [commitNow, chosen, free, idle, staged, ok, phase, Option.isSome_none,
      Bool.false_eq_true, Bool.true_eq_false, or_self, if_false]
  case holdStart =>
    refine act_next live ?_
    simp only [holdStart, running, fresh, quiet, and_self, if_true]
  case quietTimeout =>
    refine act_next live ?_
    simp only [quietTimeout, running, fresh, Bool.false_eq_true, if_false]
  case activationSwitch =>
    refine act_next live ?_
    simp only [activationSwitch, running, holding, done, starts, own, Bool.false_eq_true,
      Bool.true_eq_false, and_false, or_self, if_false]
    rfl

end Sys2Proof.Proofs

/-!
Namespace, self-test, format and security commands.
-/
namespace Sys2Proof.Proofs
open Sys2Proof Sys2Proof.Machine Sys2Proof.Laws

/-- A namespace that is there is not missing. -/
theorem not_missing {p : Prop} {α : Type} {x : Option α} (h : x.isSome = true) :
    ¬ (p ∧ x.isNone = true) :=
  fun g => ne_true_of_eq_false (Option.isNone_eq_false_iff.mpr h) g.2

/-- A self-test starts where none runs. -/
theorem selfTestStart_idle {s : State} (c kind n : Nat) (idle : s.host.test = none) :
    selfTestStart c kind n s = complete c n .success 0 0 []
      { s with host := { s.host with
          test := some { kind := kind, segment := 0, poh := s.stc.pos, result := 0 } } } :=
  if_neg (by rw [idle]; decide)

/-- Attaching to or detaching from controller 0 alone is granted where the namespace does not end
up attached to both without being shared. -/
theorem nsAttach_grants {s : State} {ns : Nat} {v : Namespace} (c n : Nat) (attach : Bool)
    (found : nsGet s ns = some v)
    (single : (if attach then v.attached ||| 1 else v.attached &&& ~~~ 1) ≠ 3) :
    nsAttach c ns attach 1 n s = complete c n .success 0 0 []
      { s with host := { s.host with
          namespaces := keyPut s.host.namespaces ns
            { v with attached := if attach then v.attached ||| 1 else v.attached &&& ~~~ 1 } } } := by
  unfold nsAttach
  rw [found]
  refine if_neg ?_
  rintro (zero | ⟨second, -⟩ | ⟨-, both⟩)
  · exact absurd zero (by decide)
  · exact absurd second (by decide)
  · exact single both

/-- The end of a calibration the engine was set up for, when it did not rebuild tables. -/
theorem calEnd_done {s : State} {r : CalRequest} (pass : Bool)
    (enabled : bitOf (speReg s.spe 0x48) 7 = true)
    (found : (s.arr.calReqs.find? fun r => decide (r.member = fld (speReg s.spe 0x48) 4 0)) = some r)
    (keeps : r.kinds.testBit 20 = false) :
    calEnd pass s =
      let u := speCalWrite 0 s
      kick (vendorEvent 0xC4 { u with arr := { u.arr with
        calReqs := u.arr.calReqs.filter fun x => decide (x.id ≠ r.id)
        calDone := (({ r with poh := u.stc.pos }, if pass then 1 else 2) :: u.arr.calDone).take 64 } }) := by
  unfold calEnd
  refine (if_neg (ne_false_of_eq_true enabled)).trans ?_
  rw [found]
  exact congrArg (fun t => kick (vendorEvent 0xC4 t))
    (dif_neg fun h => ne_true_of_eq_false keeps h.2.1)

/-- Settles O21: each admin command runs its own effect and the hypotheses pick the branch; a slice
end finds the self-test or the calibration it ends. -/
theorem namespaceSelfTestAndSecurityComplete :
    Obligations.NamespaceSelfTestAndSecurityComplete := by
  unfold Obligations.NamespaceSelfTestAndSecurityComplete
  refine ⟨fun s c x ns k n u live start taken phase role ok free => ?create,
    fun s c ns n u live start taken phase role present => ?delete,
    fun s c ns attach to_ v n u live start taken phase role found first _ single => ?attach,
    fun s c n u live start taken phase role idle => ?shortTest,
    fun s c n u live start taken phase role idle => ?extendedTest,
    fun s c n u live start taken phase role => ?abortTest,
    fun s pass x live work running passed more => ?testSlice,
    fun s pass r live work enabled found keeps => ?calibrationDone,
    fun s c ns lbaf pi ses n u live start taken phase role valid present => ?format,
    fun s c m n u live start taken phase role => ?securitySend,
    fun s c discovery n u live start taken phase role => ?securityReceive,
    fun s c n u live start taken phase role => ?cryptoErase,
    fun s c n u live start taken phase role => ?blockErase⟩
  case create =>
    refine admin_next _ (nsManage _ _ _) live start taken phase role ?_
    simp only [nsManage, ok, free]
  case delete =>
    exact admin_next _ (nsManage _ _ _) live start taken phase role (if_neg (not_missing present))
  case attach =>
    subst first
    exact admin_next _ (nsAttach _ _ _ _) live start taken phase role
      (nsAttach_grants _ _ attach found single)
  case shortTest =>
    exact admin_next _ (selfTestStart _ _) live start taken phase role
      (selfTestStart_idle _ _ _ idle)
  case extendedTest =>
    exact admin_next _ (selfTestStart _ _) live start taken phase role
      (selfTestStart_idle _ _ _ idle)
  case abortTest =>
    exact admin_next _ (selfTestAbort _) live start taken phase role rfl
  case testSlice =>
    refine act_next live ((if_neg (ne_false_of_eq_true work)).trans ?_)
    simp only [testSlice, running, passed, Bool.true_eq_false, if_false]
    exact if_neg (Nat.not_le.mpr more)
  case calibrationDone =>
    exact completes_of_next (act_next live
      ((if_neg (ne_false_of_eq_true work)).trans (calEnd_done pass enabled found keeps))) rfl
  case format =>
    exact admin_next _ (formatCmd _ _ _ _ _) live start taken phase role
      ((if_neg valid).trans (if_neg (not_missing present)))
  case securitySend =>
    exact admin_next _ (securitySendCmd _ _) live start taken phase role rfl
  case securityReceive =>
    exact admin_next _ (securityReceiveCmd _) live start taken phase role rfl
  case cryptoErase =>
    exact admin_next _ (sanitizeCmd _ _) live start taken phase role rfl
  case blockErase =>
    exact admin_next _ (sanitizeCmd _ _) live start taken phase role rfl

end Sys2Proof.Proofs

/-!
NVMe-MI and vendor admin commands.
-/
namespace Sys2Proof.Proofs
open Sys2Proof Sys2Proof.Machine Sys2Proof.Laws

/-- A surface command that names a member and its generation runs. -/
theorem surfaceOn_current {s : State} {m : Fin 24} {gen : Nat} (c n : Nat)
    (f : Fin 24 → State → State) (current : s.arr.member[m].gen = gen) :
    surfaceOn c m.val gen n f s = f m s :=
  (dif_pos m.isLt).trans (if_pos current)

/-- Settles O22: each vendor command runs its own effect; those of a member first meet the member
and its generation. -/
theorem vendorCommandsComplete : Obligations.VendorCommandsComplete := by
  unfold Obligations.VendorCommandsComplete
  refine ⟨fun s c k n u live start taken phase role sends => ?miSend,
    fun s c k n u live start taken phase role receives => ?miReceive,
    fun s c m force gen n u live start taken phase role current state safe => ?declareDead,
    fun s c m gen n u live start taken phase role current state => ?requalify,
    fun s c m gen n u live start taken phase role current state none_standing => ?readmit,
    fun s c m gen days n u live start taken phase role current short => ?scrubPeriod,
    fun s c m n u live start taken phase role valid => ?surfaceQuery,
    fun s c ns first last w cc v n u live start taken phase role found valid fits => ?reshapeStart,
    fun s c group rewind n u live start taken phase role => ?recorderRead,
    fun s c group n u live start taken phase role valid => ?recorderClear,
    fun s c m zone all kinds n u live start taken phase role valid => ?calibrationRequest⟩
  case miSend => exact admin_next _ _ live start taken phase role (if_pos sends)
  case miReceive =>
    exact admin_next _ _ live start taken phase role (if_neg (ne_true_of_eq_false receives))
  case declareDead =>
    refine admin_next _ (declareDead _ _ _ _) live start taken phase role
      ((surfaceOn_current _ _ _ current).trans (if_neg ?_))
    rintro (other | ⟨unforced, loss⟩)
    · exact other state
    · simp only [unforced, loss, Bool.false_eq_true, or_self] at safe
  case requalify =>
    exact completes_of_next (admin_next _ (requalify _ _ _) live start taken phase role
      ((surfaceOn_current _ _ _ current).trans (if_neg (not_not_intro state)))) rfl
  case readmit =>
    exact completes_of_next (admin_next _ (readmit _ _ _) live start taken phase role
      ((surfaceOn_current _ _ _ current).trans
        (if_neg (not_or.mpr ⟨not_not_intro state, ne_true_of_eq_false none_standing⟩)))) rfl
  case scrubPeriod =>
    exact completes_of_next (admin_next _ (scrubPeriod _ _ _ _) live start taken phase role
      ((surfaceOn_current _ _ _ current).trans (if_neg (Nat.not_lt.mpr short)))) rfl
  case surfaceQuery =>
    exact admin_next _ (surfaceQueryCmd _ _) live start taken phase role
      (if_neg (Nat.not_le.mpr valid))
  case reshapeStart =>
    refine completes_of_next (admin_next _ (reshapeStart _ _ _ _ _ _) live start taken phase role
      ?_) rfl
    unfold reshapeStart
    rw [found]
    exact (if_neg valid).trans (if_neg (ne_true_of_eq_false fits))
  case recorderRead =>
    exact completes_of_next
      (admin_next _ (recorderReadCmd _ _ _) live start taken phase role rfl) rfl
  case recorderClear =>
    exact admin_next _ (recorderClear _ _) live start taken phase role (if_pos valid)
  case calibrationRequest =>
    exact completes_of_next (admin_next _ (calRequest _ _ _ _ _) live start taken phase role
      (if_neg valid)) rfl

end Sys2Proof.Proofs
end

