-- ==== Sys2Proof/Proofs/IoAndManagement.lean ====
section
/-!
I/O commands that nothing holds up or refuses.
-/
namespace Sys2Proof.Proofs
open Sys2Proof Sys2Proof.Machine Sys2Proof.Laws

/-- What `runIo` does by the kind of a command that no check refuses (`runIo_admitted`). -/
def runKind (f : InFlight) (v : Namespace) (s : State) : State :=
  match f.io.kind with
  | .write | .writeZeroes | .append => runWrite f v s
  | .zoneOpen | .zoneClose | .zoneFinish | .zoneReset => runZone f v s
  | .salvage =>
    if s.spn.hold ∧ salvageMedia s v f.io then setFlight { f with phase := .held } s
    else runSalvage f v s
  | .read | .compare | .verify | .fixity =>
    (runRead f v s).getD (setFlight { f with phase := .held, got := transferred s v f } s)

/-- A command on a namespace attached to its controller, unlocked and with valid fields, runs by its
kind. -/
theorem runIo_admitted {f : InFlight} {x : Namespace} {s : State} (found : nsGet s f.io.ns = some x)
    (attached : x.attached.getLsbD f.ctl = true) (unlocked : opalLocked s f.io = false)
    (valid : ioField s x f.io = none) : runIo f s = runKind f x s := by
  simp only [runIo, found, attached, unlocked, valid, Bool.true_eq_false, Bool.false_eq_true,
    and_false, if_false]
  unfold runKind
  cases f.io.kind <;> rfl

/-- The lock that I/O command `n` of kind `k` holds on the blocks `r`. -/
def ioLock (ns : Nat) (k : IoKind) (r : Nat × Nat) (n : Nat) : Lock :=
  { ns := ns, first := r.1, last := r.2, modify := ioModifies k, fseq := n }

/-- An I/O command that starts where the media runs and meets no lock runs at once. -/
theorem startIo_free {c : CtlIx} {opcode n : Nat} {io : IoCmd} {s u : State}
    (stand : ioStand s = .run) (start : startOk s c.val false opcode io.ns io.slba io.nlb = true)
    (taken : takeNumber c.val false opcode io.ns io.slba io.nlb s = (n, u))
    (free : conflicts (addLock (ioLock io.ns io.kind (ioRange u io) n) u)
      (ioLock io.ns io.kind (ioRange u io) n) = false) :
    startIo c opcode io s = kick (runIo
      { fseq := n, ctl := c.val, io := io, phase := .stalled, at_ := u.sys.ms }
      (addLock (ioLock io.ns io.kind (ioRange u io) n) u)) := by
  simp only [startIo, stand, start, taken, reduceCtorEq, Bool.true_eq_false, or_self, if_false]
  exact if_neg (ne_true_of_eq_false free)

/-- The outcome of an I/O command that nothing holds up or refuses. -/
theorem io_next {c : CtlIx} {opcode n : Nat} {k : IoKind} {io : IoCmd} {s u v : State}
    {f : InFlight} {x : Namespace} (live : Live s) (stand : ioStand s = .run)
    (start : startOk s c.val false opcode io.ns io.slba io.nlb = true)
    (taken : takeNumber c.val false opcode io.ns io.slba io.nlb s = (n, u))
    (flight : f =
      { fseq := n, ctl := c.val, io := { io with kind := k }, phase := .stalled, at_ := u.sys.ms })
    (locked : v = addLock (ioLock io.ns k (ioRange u f.io) n) u)
    (free : conflicts v (ioLock io.ns k (ioRange u f.io) n) = false)
    (found : nsGet v io.ns = some x) (attached : x.attached.getLsbD c.val = true)
    (unlocked : opalLocked v f.io = false) (valid : ioField v x f.io = none) :
    act s (startIo c opcode { io with kind := k }) = .next (kick (runKind f x v)) := by
  subst flight locked
  exact act_next live ((startIo_free (io := { io with kind := k }) stand start taken free).trans
    (congrArg kick (runIo_admitted found attached unlocked valid)))

/-- Settles O23: an I/O command that nothing holds up or refuses runs by its kind. -/
theorem ioCommandsComplete : Obligations.IoCommandsComplete := by
  unfold Obligations.IoCommandsComplete
  refine ⟨fun s c ns n u live stand start taken attached => ?flush,
    fun s c io n u v f x live stand start taken flight locked free found attached unlocked valid =>
      ?write,
    fun s c io n u v f x live stand start taken flight locked free found attached unlocked valid =>
      ?read,
    fun s c io n u v f x live stand start taken flight locked free found attached unlocked valid =>
      ?compare,
    fun s c io n u v f x live stand start taken flight locked free found attached unlocked valid =>
      ?writeZeroes,
    fun s c io n u v f x live stand start taken flight locked free found attached unlocked valid =>
      ?verify,
    fun s c io n u v f x live stand start taken flight locked free found attached unlocked valid =>
      ?zoneAppend,
    fun s c ns slba n u v live stand start taken found attached zoned inside => ?zoneReceive,
    fun s c io n u v f x live stand start taken flight locked free found attached unlocked valid =>
      ?zoneOpen,
    fun s c io n u v f x live stand start taken flight locked free found attached unlocked valid =>
      ?zoneClose,
    fun s c io n u v f x live stand start taken flight locked free found attached unlocked valid =>
      ?zoneFinish,
    fun s c io n u v f x live stand start taken flight locked free found attached unlocked valid =>
      ?zoneReset,
    fun s c io n u v f x live stand start taken flight locked free found attached unlocked valid =>
      ?fixityDigest,
    fun s c io n u v f x live stand start taken flight locked free found attached unlocked valid
      spinning => ?salvageRead⟩
  case flush =>
    refine act_next live ?_
    simp only [flushCmd, stand, start, taken, reduceCtorEq, Bool.true_eq_false, or_self, if_false]
    refine if_neg ?_
    rintro ⟨one, detached⟩
    rcases attached with all | kept
    · exact one all
    · exact ne_true_of_eq_false kept detached
  case zoneReceive =>
    refine act_next live ?_
    simp only [zoneReceive, stand, start, taken, found, attached, zoned, reduceCtorEq,
      Bool.true_eq_false, or_self, if_false]
    exact if_neg (Nat.not_le.mpr inside)
  case salvageRead =>
    refine (io_next live stand start taken flight locked free found attached unlocked valid).trans ?_
    subst flight
    exact congrArg (fun t => Host.Outcome.next (kick t))
      (if_neg fun held => ne_true_of_eq_false spinning held.1)
  all_goals
    refine (io_next live stand start taken flight locked free found attached unlocked valid).trans ?_
    subst flight
    rfl

end Sys2Proof.Proofs

/-!
The management endpoint.
-/
namespace Sys2Proof.Proofs
open Sys2Proof Sys2Proof.Machine Sys2Proof.Laws

/-- A message that arrives while the endpoint is up and not paused is served at once. -/
theorem miArrive_serves {s : State} (r : MiRequest) (up : miUp s = true)
    (running : s.host.mi.paused = false) : miArrive r s = miServe r s :=
  (if_neg (ne_false_of_eq_true up)).trans (if_neg (ne_true_of_eq_false running))

/-- Settles O24: a message is served at once, and a control message acts while the endpoint is up. -/
theorem managementEndpointCompletes : Obligations.ManagementEndpointCompletes := by
  unfold Obligations.ManagementEndpointCompletes
  refine ⟨fun s kind live up running => ?readData,
    fun s live up running => ?subsystemPoll,
    fun s cntid live up running => ?controllerPoll,
    fun s id v live up running => ?configSet,
    fun s id live up running => ?configGet,
    fun s offset len live up running => ?vpdRead,
    fun s offset bs live up running => ?vpdWrite,
    fun s live up running => ?reset,
    fun s live up => ?pause,
    fun s live up => ?resume,
    fun s live up => ?abort,
    fun s live up => ?getState,
    fun s r live up last => ?replay,
    fun s k live up running => ?tunnelled⟩
  case pause => exact act_next live (if_pos up)
  case resume => exact act_next live (if_pos up)
  case abort => exact act_next live (if_pos up)
  case getState => exact act_next live (if_pos up)
  case replay =>
    refine act_next live ((if_pos up).trans ?_)
    rw [last]
  all_goals exact act_next live (miArrive_serves _ up running)

end Sys2Proof.Proofs
end

