-- ==== Sys2Proof/Proofs/DataMovers.lean ====
section
/-!
The host interface.
-/
namespace Sys2Proof.Proofs
open Sys2Proof Sys2Proof.Machine Sys2Proof.Laws

/-- Settles O25: a configuration write goes to its register, and a failed front end or a reduced
link is told to its port. -/
theorem hostInterfaceEventsComplete : Obligations.HostInterfaceEventsComplete := by
  unfold Obligations.HostInterfaceEventsComplete
  refine ⟨fun s w live => ?fetchHold, fun s w live good => ?adminRing,
    fun s w live working => ?frontEndMap, fun s i live working => ?frontEndFail,
    fun s c live used noLoss lit up wide => ?widthReduce⟩
  case fetchHold => exact act_next live rfl
  case adminRing => exact act_next live (if_neg (ne_true_of_eq_false good))
  case frontEndMap =>
    have unfailed (k : Nat) : s.hif.feFailed.getLsbD k = false := by
      rw [working]
      exact BitVec.getLsbD_zero
    exact act_next live (if_neg
      (not_or.mpr ⟨ne_true_of_eq_false (unfailed _), ne_true_of_eq_false (unfailed _)⟩))
  case frontEndFail =>
    exact completes_of_next (act_next live (if_neg (ne_true_of_eq_false working))) rfl
  case widthReduce => exact act_next live (onPort_used used noLoss lit (if_pos ⟨up, wide⟩))

end Sys2Proof.Proofs

/-!
The DMA engine.
-/
namespace Sys2Proof.Proofs
open Sys2Proof Sys2Proof.Machine Sys2Proof.Laws

/-- A channel that does not wait for a request serves none. -/
theorem servePending_running {s : State} {k : ChanIx} (bus : RegBus) (n : Nat) (host : List Byte)
    (running : s.dma.chan[k].state = .running) : servePending bus n k host s = (host, s) := by
  cases n with
  | zero => rfl
  | succ n =>
    refine if_neg fun ⟨_, waiting, _⟩ => ?_
    exact ChanState.noConfusion (running.symm.trans waiting)

/-- A running channel whose descriptor moves between memories moves the bytes left and completes. -/
theorem descComplete_moves {s : State} {n : ChanIx} (bus : RegBus) (host : List Byte)
    (running : s.dma.chan[n].state = .running)
    (good : endsBad s (descAt s s.dma.chan[n].cur) = false)
    (source : descSspace (descAt s s.dma.chan[n].cur) ≠ 3)
    (target : descDspace (descAt s s.dma.chan[n].cur) ≠ 3) :
    descComplete bus n host s =
      chanComplete n 0 (moveBytes bus n s.dma.chan[n].resid host s) := by
  simp only [descComplete, servePending_running bus 15 host running, running, good, source, target,
    decide_true, Bool.true_or, Bool.true_eq_false, Bool.false_eq_true, if_false]

/-- A bus error stops a running channel with code 3. -/
theorem burstError_running {s : State} {n : ChanIx} (running : s.dma.chan[n].state = .running) :
    burstError n s = dmaEvent 0 (chanStop n 3 s) := by
  unfold burstError
  rw [running]

/-- A memory or completer error of a running channel is its bus error. -/
theorem burstFails_stops {s : State} {n : ChanIx} {cause : BurstCause}
    (running : s.dma.chan[n].state = .running) (kind : cause = .sram ∨ cause = .completer) :
    burstFails n cause s = burstError n s := by
  unfold burstFails
  rw [running]
  obtain rfl | rfl := kind <;> rfl

/-- An error of a lane's channel is its burst, and a bus error where no mirror holds the bytes. -/
theorem burstFails_rld {s : State} {n : ChanIx} (chan : Fin 2) (mirrored : Bool)
    (running : s.dma.chan[n].state = .running) :
    burstFails n (.rld chan mirrored) s =
      if mirrored ∧ mirrorHolds s.flt chan then rldBurst chan s else burstError n (rldBurst chan s) := by
  unfold burstFails
  rw [running]

/-- Disabling the engine aborts every channel. -/
theorem dmaCtlWrite_off {w : Word} {s : State} (off : bitOf w 0 = false) :
    dmaCtlWrite w s = (List.finRange 64).foldl (fun t n => dmaAbort n t)
      { s with dma := { s.dma with regs := regWrite dmaRows s.dma.regs false 0 w } } :=
  if_neg (ne_true_of_eq_false off)

/-- Settles O26: each command and event meets a channel in the state it is for. -/
theorem dmaCommandsComplete : Obligations.DmaCommandsComplete := by
  unfold Obligations.DmaCommandsComplete
  refine ⟨fun s n live idle enabled => ?start,
    fun s n live parked => ?abort,
    fun s n live stopped aborted => ?resume,
    fun s n live unset moving => ?extend,
    fun s live => ?disable,
    fun s n host d live desc running good source target => ?descriptorComplete,
    fun s n cause live running kind => ?burstError,
    fun s n chan mirrored live running => ?laneBurst,
    fun s line host live => ?request,
    fun s e live => ?trigger,
    fun s t live enabled => ?timer⟩
  case start =>
    exact act_next live (if_neg (not_or.mpr ⟨not_not_intro idle, ne_false_of_eq_true enabled⟩))
  case abort =>
    have halt : dmaAbort n s = setChan n { s.dma.chan[n] with state := .stopped } s := by
      simp only [dmaAbort, chanAbortW, parked]
      rfl
    exact completes_of_next (act_next live halt) (setChan_get _ _ _)
  case resume =>
    refine act_next live (if_neg ?_)
    rw [stopped, aborted]
    decide
  case extend =>
    exact act_next live ((if_neg (ne_true_of_eq_false unset)).trans (if_neg moving))
  case disable => exact act_next (f := dmaCtlWrite 0) live (dmaCtlWrite_off (by decide))
  case descriptorComplete =>
    subst desc
    exact act_next live (descComplete_moves _ _ running good source target)
  case burstError =>
    exact actWindow_next (f := burstFails n cause) live
      ((burstFails_stops running kind).trans (burstError_running running))
  case laneBurst =>
    exact actWindow_next (f := burstFails n (.rld chan mirrored)) live
      (burstFails_rld chan mirrored running)
  case request => exact act_next live rfl
  case trigger => exact act_next live rfl
  case timer => exact act_next live (if_pos enabled)

end Sys2Proof.Proofs

/-!
Ring commands and port accesses of the hardware queues.
-/
namespace Sys2Proof.Proofs
open Sys2Proof Sys2Proof.Machine Sys2Proof.Laws

/-- A word that names the enable alone enables the selected ring. -/
theorem rcmdWrite_enable {w : Word} (s : State) (enable : bitOf w 0 = true)
    (noDisable : bitOf w 1 = false) (noFlush : bitOf w 2 = false) (noDrop : bitOf w 3 = false) :
    rcmdWrite w s = ringEnable s := by
  simp only [rcmdWrite, enable, noDisable, noFlush, noDrop, Bool.false_eq_true, if_false, if_true]

/-- A word that names the disable alone disables the selected ring. -/
theorem rcmdWrite_disable {w : Word} (s : State) (noEnable : bitOf w 0 = false)
    (disable : bitOf w 1 = true) (noFlush : bitOf w 2 = false) (noDrop : bitOf w 3 = false) :
    rcmdWrite w s = ringDisable s := by
  simp only [rcmdWrite, noEnable, disable, noFlush, noDrop, Bool.false_eq_true, if_false, if_true]

/-- A word that names the flush of packets alone flushes the selected ring. -/
theorem rcmdWrite_flush {w : Word} (s : State) (noEnable : bitOf w 0 = false)
    (noDisable : bitOf w 1 = false) (flush : bitOf w 2 = true) (noDrop : bitOf w 3 = false) :
    rcmdWrite w s = flushPkt s := by
  simp only [rcmdWrite, noEnable, noDisable, flush, noDrop, Bool.false_eq_true, if_false, if_true]

/-- A word that names the flush at once alone empties the selected ring. -/
theorem rcmdWrite_drop {w : Word} (s : State) (noEnable : bitOf w 0 = false)
    (noDisable : bitOf w 1 = false) (drop : bitOf w 3 = true) :
    rcmdWrite w s = flushNow s := by
  simp only [rcmdWrite, noEnable, noDisable, drop, Bool.false_eq_true, if_false, if_true]

/-- Settles O28: a command word names one command of the ring, and a port access meets a requester
that does not stall. -/
theorem hardwareQueueCommandsComplete : Obligations.HardwareQueueCommandsComplete := by
  unfold Obligations.HardwareQueueCommandsComplete
  refine ⟨fun s w live enable noDisable noFlush noDrop => ?enable,
    fun s w live noEnable disable noFlush noDrop empty => ?disable,
    fun s w live noEnable noDisable flush noDrop => ?flushPackets,
    fun s w live noEnable noDisable noFlush drop => ?flushNow,
    fun s q live free closed enabled room => ?openPacket,
    fun s q d3 r live opened free present room => ?slot,
    fun s q w r live opened free present fits unmarked length => ?close,
    fun s q k live free found => ?headerAgain,
    fun s q live free missing enabled => ?headerNext,
    fun s q k live free found more => ?consumeSlot,
    fun s q live free => ?skip,
    fun s c live limited stalled => ?stallTimeout⟩
  case enable => exact act_next live (rcmdWrite_enable s enable noDisable noFlush noDrop)
  case disable =>
    exact act_next live ((rcmdWrite_disable s noEnable disable noFlush noDrop).trans
      (if_neg (not_not_intro empty)))
  case flushPackets =>
    exact completes_of_next
      (act_next live (rcmdWrite_flush s noEnable noDisable flush noDrop)) rfl
  case flushNow =>
    exact completes_of_next (act_next live (rcmdWrite_drop s noEnable noDisable drop)) rfl
  case openPacket =>
    refine act_next live ?_
    simp only [prodOpen, free, closed, enabled, Nat.not_le.mpr room, Option.isSome_none,
      Bool.false_eq_true, Bool.true_eq_false, or_self, if_false]
  case slot =>
    refine act_next live ?_
    simp only [prodSlot, opened, free, present, Nat.not_le.mpr room, Bool.false_eq_true, or_self,
      if_false]
  case close =>
    refine completes_of_next (act_live live _) ?_
    simp only [prodClose, opened, free, present, fits, unmarked, length, Bool.false_eq_true, ne_eq,
      not_true_eq_false, if_false]
  case headerAgain =>
    refine act_next live ?_
    simp only [consHeader, free, found, Bool.false_eq_true, if_false]
  case headerNext =>
    refine act_next live ?_
    simp only [consHeader, free, missing, enabled, Bool.false_eq_true, Bool.true_eq_false, if_false]
  case consumeSlot =>
    refine act_next live ?_
    simp only [consSlot, free, found, Nat.not_le.mpr (Nat.lt_of_succ_lt more), Nat.ne_of_lt more,
      Bool.false_eq_true, if_false]
  case skip => exact act_next live (if_neg (ne_true_of_eq_false free))
  case stallTimeout =>
    exact completes_of_next (act_next live
      (if_neg (not_or.mpr ⟨limited, ne_false_of_eq_true stalled⟩))) rfl

end Sys2Proof.Proofs

/-!
The capture port.
-/
namespace Sys2Proof.Proofs
open Sys2Proof Sys2Proof.Machine Sys2Proof.Laws

/-- A whole frame that fits its ring becomes a packet of it. -/
theorem capFrameIn_fits {s : State} {f : CapFrame} (enabled : bitOf (capReg s.cap 0) 0 = true)
    (inward : bitOf (capReg s.cap 0) 1 = true) (whole : f.cut = false)
    (length : f.body.length = 4 * fld f.h0 11 0)
    (short : fld f.h0 11 0 ≤ bodyLimit (ringAt s (capRing s)))
    (fits : postFits (ringAt s (capRing s)) f.body = true) :
    capFrameIn f s = ringPut (capRing s)
      { owner := 80, isOpen := false, h0 := f.h0, h1 := f.h1, h2 := f.h2, h3 := f.h3,
        body := f.body, excess := false, marked := false, reader := none } s := by
  have all : f.body.take (4 * fld f.h0 11 0) = f.body := List.take_of_length_le (Nat.le_of_eq length)
  simp only [capFrameIn, enabled, inward, whole, length, all, fits, Nat.not_lt.mpr short,
    Nat.lt_irrefl, Bool.true_eq_false, Bool.false_eq_true, or_self, if_false, ringPut]

/-- A port that is off is enabled on a ring that has room for its pacing. -/
theorem capCtlWrite_enables {w : Word} {s : State} (off : bitOf (capReg s.cap 0) 0 = false)
    (enable : bitOf w 0 = true)
    (room : fld (ringAt s (fld w 29 16)).wm 31 16 + fld (capReg s.cap 4) 15 8 ≤
      ringSize (ringAt s (fld w 29 16))) :
    capCtlWrite w s = { s with
      cap := { s.cap with regs := regWrite capRows s.cap.regs false 0 w, hold := !bitOf w 1 } } := by
  simp only [capCtlWrite, off, decide_eq_false (Nat.not_lt.mpr room), Bool.false_and, Bool.or_self,
    Bool.false_eq_true, if_false]
  exact if_pos enable

/-- Settles O29: a frame that fits becomes a packet, and an enabled kind of record is put. -/
theorem capturePortComplete : Obligations.CapturePortComplete := by
  unfold Obligations.CapturePortComplete
  refine ⟨fun s f live enabled inward whole length short fits => ?frameIn,
    fun s l rd mark codes live enabled outward selected => ?samples,
    fun s l revs x rest live enabled outward trace selected posted => ?row,
    fun s w live off enable room => ?enable⟩
  case frameIn => exact act_next live (capFrameIn_fits enabled inward whole length short fits)
  case samples => exact act_next live ((if_pos ⟨enabled, outward⟩).trans (if_pos selected))
  case row =>
    refine act_next live ((if_pos ⟨enabled, outward⟩).trans ?_)
    simp only [capRecord, trace, selected, posted, Bool.true_eq_false, if_false, if_true]
  case enable => exact act_next live (capCtlWrite_enables off enable room)

end Sys2Proof.Proofs
end

