-- ==== Sys2Proof/Proofs/PowerUnit.lean ====
section
/-!
Power domains, halts, lane limits and thermal holds.
-/
namespace Sys2Proof.Proofs
open Sys2Proof Sys2Proof.Machine Sys2Proof.Laws

/-- A request that a domain goes ON, in order and with nothing before it, is done at once. -/
theorem domReqWrite_on {w : Word} {s : State} (idle : s.pwr.req = none) (on : fld w 9 8 = 0)
    (valid : fld w 4 0 < 25) (calm : s.dma.quiesce ≠ some (fld w 4 0))
    (off : domState s (fld w 4 0) ≠ .on) (ordered : orderBad s (fld w 4 0) .on = false) :
    domReqWrite w s = domDone (fld w 4 0) 0 0 (setDom (fld w 4 0) .on s) := by
  have accepted : ¬ (s.pwr.req.isSome = true ∨ 0 = 3 ∨ 25 ≤ fld w 4 0) := by
    rw [idle]
    rintro (pending | code | wide)
    · exact absurd pending (by decide)
    · exact absurd code (by decide)
    · exact Nat.not_le.mpr valid wide
  simp only [domReqWrite, on, if_true, accepted, calm, off, ordered, stateAllowed, if_false,
    Bool.true_eq_false, Bool.false_eq_true]

/-- At 365 K and below no thermal hold starts or stands. -/
theorem thermal_cool {k : Nat} (s : State) (cool : k ≤ 365) :
    thermal k s = { s with
      pwr := { s.pwr with holdW := false, holdC := false }, host := { s.host with tempK := k } } := by
  have below (limit : Nat) (h : 365 ≤ limit) : decide (limit < k) = false :=
    decide_eq_false (Nat.not_lt.mpr (Nat.le_trans cool h))
  simp only [thermal, below 365 (Nat.le_refl _), below 368 (by decide), below 375 (by decide),
    below 378 (by decide), Bool.and_false, Bool.or_false, Bool.false_and, Bool.false_eq_true,
    if_false]

/-- Settles O27: each command meets the power unit in the state it is for. -/
theorem powerCommandsComplete : Obligations.PowerCommandsComplete := by
  unfold Obligations.PowerCommandsComplete
  refine ⟨fun s w live idle on valid calm off ordered => ?domRequest,
    fun s q live waiting open_ quiescing => ?quiesceDone,
    fun s stopped q live waiting open_ quiescing => ?quiesceTimeout,
    fun s m live runs => ?haltRequest,
    fun s w live least most => ?laneLimit,
    fun s k live cool => ?thermal,
    fun s l live idle still => ?gateSwap,
    fun s p live enabled whole kept calm phase noLoss noTarget noWait target => ?idleExpiry⟩
  case domRequest => exact act_next live (domReqWrite_on idle on valid calm off ordered)
  case quiesceDone =>
    refine act_next live ?_
    simp only [quiesceDone, waiting]
    exact if_pos ⟨open_, quiescing⟩
  case quiesceTimeout =>
    refine act_next live ?_
    simp only [quiesceTimeout, waiting]
    exact if_pos ⟨open_, quiescing⟩
  case haltRequest => exact act_next live (if_pos runs)
  case laneLimit =>
    exact act_next live
      (if_neg (not_or.mpr ⟨Nat.one_le_iff_ne_zero.mp least, Nat.not_lt.mpr most⟩))
  case thermal => exact act_next live (thermal_cool s cool)
  case gateSwap =>
    refine act_next live ?_
    simp only [laneGateSwap, still]
  case idleExpiry =>
    refine act_next live ?_
    simp only [apstExpiry, enabled, whole, kept, calm, phase, noLoss, noTarget, noWait, target,
      Bool.or_false, Bool.true_eq_false, Bool.false_eq_true, Option.isSome_none, ne_eq,
      not_true_eq_false, or_self, if_false]

end Sys2Proof.Proofs
end

