-- ==== Sys2Proof/Proofs/Faults.lean ====
section
/-!
Fault sources, acknowledges, resets and failures.
-/
namespace Sys2Proof.Proofs
open Sys2Proof Sys2Proof.Machine Sys2Proof.Laws

/-- A source that is no machine check, no core failure and none of the four of the reload channels
leads to nothing more. -/
theorem sourceLeads_plain {k : Nat} (s : State) (core : 108 ≤ k ∨ k % 3 = 2)
    (noReload : k ∉ [129, 130, 133, 134]) : sourceLeads k s = s := by
  simp only [List.mem_cons, List.not_mem_nil, or_false, not_or] at noReload
  obtain ⟨n129, n130, n133, n134⟩ := noReload
  by_cases low : k < 108
  · have other : k % 3 = 2 := core.resolve_left (Nat.not_le.mpr low)
    exact (dif_pos low).trans ((if_neg (by omega)).trans (if_neg (by omega)))
  · exact (dif_neg low).trans ((if_neg n129).trans
      ((if_neg n133).trans ((if_neg n130).trans (if_neg n134))))

/-- An acknowledge in whose cycle no source occurs clears the bits it names that are not fresh. -/
theorem acknowledge_alone (k : Fin 20) (w : Word) (hook : Bool) (s : State) :
    acknowledge k w hook [] s = { s with flt := settleSteps { s.flt with
      pend := s.flt.pend &&& ~~~ (ackMask k w hook &&& ~~~ s.flt.freshPend)
      pinPend := s.flt.pinPend &&& ~~~ (ackMask k w hook &&& ~~~ s.flt.freshPend)
      delivered := s.flt.delivered.filter fun d =>
        !(ackMask k w hook &&& ~~~ s.flt.freshPend).getLsbD d.src } } := by
  have whole (m : BitVec 640) : m &&& ~~~ 0 = m := BitVec.not_zero ▸ BitVec.and_allOnes
  simp only [acknowledge, List.map_nil, List.foldl_nil, whole]
  rfl

/-- The failure of a lane that is bound to nothing but itself unbinds it. -/
theorem laneFail_unbound {l : LaneIx} {s : State} (own : laneBind s.flt l.val = 4) :
    laneFail l s = laneMapWrite (setFld s.flt.laneMap (3 * l.val + 2) (3 * l.val) 5) s :=
  (if_neg (by rw [own]; decide)).trans (if_pos own)

/-- Settles O30: a source is raised, an acknowledge clears, and a reset or a failure takes the parts
it names. -/
theorem faultsComplete : Obligations.FaultsComplete := by
  unfold Obligations.FaultsComplete
  refine ⟨fun s k live core noReload => ?source,
    fun s k w hook live => ?acknowledge,
    fun s r w live noHook => ?softwareRaise,
    fun s w live valid => ?defaultCore,
    fun s live asked cold => ?warmEnter,
    fun s pages slotOk live warm => ?warmLeave,
    fun s c live => ?watchdog,
    fun s c live working few => ?coreFail,
    fun s cluster live working => ?clusterFail,
    fun s l c live holds own => ?laneFail,
    fun s l live twice idle => ?loopback⟩
  case source =>
    exact actWindow_next (f := sourceOccurs k) live (sourceLeads_plain _ core noReload)
  case acknowledge =>
    exact actWindow_next (f := acknowledge k w hook []) live (acknowledge_alone k w hook s)
  case softwareRaise =>
    exact act_next live (if_neg fun h => ne_true_of_eq_false noHook h.1)
  case defaultCore => exact act_next live (if_neg (Nat.not_lt.mpr valid))
  case warmEnter =>
    exact completes_of_next (act_next (f := warmEnter) live
      (if_neg (not_or.mpr ⟨ne_false_of_eq_true asked, ne_true_of_eq_false cold⟩))) rfl
  case warmLeave => exact act_next (f := warmLeave pages slotOk) live rfl
  case watchdog =>
    exact act_next (f := fun s => coreFail c (raise (srcCore c.val 1) s)) live rfl
  case coreFail =>
    exact completes_of_next (act_next live
      ((if_neg working).trans (if_neg (Nat.not_le.mpr few)))) rfl
  case clusterFail =>
    exact completes_of_next (act_next live (if_neg (ne_true_of_eq_false working))) rfl
  case laneFail =>
    exact actWindow_next (f := fun s => if laneFailHolds s l c then laneFail l s else s) live
      ((if_pos holds).trans (laneFail_unbound own))
  case loopback =>
    exact actWindow_next (f := laneLoopback l true) live
      (if_neg (not_or.mpr ⟨Nat.not_lt.mpr twice, ne_false_of_eq_true idle⟩))

end Sys2Proof.Proofs

/-!
Binding registers and core roles.
-/
namespace Sys2Proof.Proofs
open Sys2Proof Sys2Proof.Machine Sys2Proof.Laws

/-- A lane map that is well formed, moves no running lane and fails none is in force at once, with
the four multiplexers following it. -/
theorem laneMapWrite_accepts {w : Word} {s : State} (good : mapBad s.flt.laneMap w = false)
    (still : ((List.finRange 5).any fun l => decide (bindField w l.val ≠ bindField s.flt.laneMap l.val ∧
      bindField w l.val ≠ 5) && rowRuns s.lane[l]) = false)
    (whole : newlyFailed s.flt.laneMap w = 0) :
    laneMapWrite w s = spareNote s.flt.laneMap w (guardAll (lanelessNotice (fun a => laneless s a.val)
      (muxFollow 3 (wgate s (laneOn s 3)) (muxFollow 2 (wgate s (laneOn s 2))
        (muxFollow 1 (wgate s (laneOn s 1)) (muxFollow 0 (wgate s (laneOn s 0))
          { s with flt := { s.flt with laneMap := fldAt (fld w 14 0) 14 0 } })))))) := by
  refine (if_neg (not_or.mpr ⟨ne_true_of_eq_false good, ne_true_of_eq_false still⟩)).trans ?_
  have unset (k : Nat) : (0 : BitVec 5).getLsbD k = false := BitVec.getLsbD_zero
  have kept (m : BitVec 5) : m ||| 0 = m := BitVec.or_zero
  have lanes : List.finRange 5 = [0, 1, 2, 3, 4] := rfl
  have actuators : List.finRange 4 = [0, 1, 2, 3] := rfl
  simp only [whole, unset, kept, lanes, actuators, Bool.not_false, Bool.and_true, Bool.false_eq_true,
    if_false, List.map_cons, List.map_nil, List.foldl_cons, List.foldl_nil]
  rfl

/-- A servo map that is well formed is in force at once while the heads are unloaded. -/
theorem srvMapWrite_accepts {w : Word} {s : State} (good : mapBad s.flt.srvMap w = false)
    (unloaded : s.sys.unloadLow = true) :
    srvMapWrite w s = spareNote s.flt.srvMap w (lanelessNotice (fun a => laneless s a.val)
      { s with flt := { s.flt with
          srvMap := fldAt (fld w 14 0) 14 0
          failRec := { s.flt.failRec with
            engines := s.flt.failRec.engines ||| newlyFailed s.flt.srvMap w } } }) := by
  refine if_neg (not_or.mpr ⟨ne_true_of_eq_false good, ne_true_of_eq_false ?_⟩)
  simp only [unloaded, Bool.not_true, Bool.and_false, Bool.false_and, List.any_eq_false,
    Bool.false_eq_true, not_false_eq_true, implies_true]

/-- Settles O31: a map that is accepted is in force at once, and a word of the commit register names
one of its two commands. -/
theorem bindingCommandsComplete : Obligations.BindingCommandsComplete := by
  unfold Obligations.BindingCommandsComplete
  refine ⟨fun s w live good still whole => ?laneMap,
    fun s a live waiting low noStart => ?muxSwitch,
    fun s w live good unloaded => ?srvMap,
    fun s cluster w live => ?coreMap,
    fun s w live commit noDiscard good => ?commit,
    fun s w live noCommit discard => ?discard⟩
  case laneMap =>
    exact actWindow_next (f := laneMapWrite w) live (laneMapWrite_accepts good still whole)
  case muxSwitch =>
    refine act_next live ((if_pos ⟨waiting, low⟩).trans ?_)
    simp only [noStart, Bool.false_and, Bool.false_eq_true, if_false]
  case srvMap =>
    exact actWindow_next (f := srvMapWrite w) live (srvMapWrite_accepts good unloaded)
  case coreMap =>
    refine completes_of_next (act_next (f := coreMapWrite cluster w) live rfl) ?_
    simp only [coreMapWrite, and_self]
  case commit =>
    refine act_next live ?_
    simp only [coreCommitWrite, commit, noDiscard, good, Bool.false_eq_true, if_false]
  case discard =>
    refine act_next live ?_
    simp only [coreCommitWrite, noCommit, discard]

end Sys2Proof.Proofs

/-!
Fault injection and memory errors.
-/
namespace Sys2Proof.Proofs
open Sys2Proof Sys2Proof.Machine Sys2Proof.Laws

/-- While injection is open a single or double bit error is armed for a region of the SRAM. -/
theorem inject_arms {s : State} {k : Nat} (opened : s.flt.injOpen = true) (kind : k = 2 ∨ k = 3)
    (region : fld (injArg s) 3 0 < 10) :
    inject k s =
      { s with flt := { s.flt with armed := s.flt.armed ++ [(k, fld (injArg s) 3 0)] } } := by
  have other : ¬ k = 1 := by omega
  exact (if_neg (ne_false_of_eq_true opened)).trans ((if_neg other).trans ((if_pos kind).trans
    (if_neg (Nat.not_le.mpr region))))

/-- An injected parity fault flips a bit of a word of the lane it names. -/
theorem inject_parity {s : State} {l : LaneIx} (opened : s.flt.injOpen = true)
    (lane : fld (injArg s) 2 0 = l.val) :
    inject 4 s = injected (setRow l (storeSet s.lane[l].row (fld (injArg s) 27 16)
      (storeGet s.lane[l].row (fld (injArg s) 27 16) ^^^ 1))) s := by
  have bound : fld (injArg s) 2 0 < 5 := lane ▸ l.isLt
  obtain rfl : l = ⟨_, bound⟩ := Fin.ext lane.symm
  simp only [inject, opened, Bool.true_eq_false, Nat.reduceEqDiff, or_self,
    if_false, if_true]
  exact dif_pos bound

/-- An injected residue fault is a fault of the engine it names. -/
theorem inject_residue {s : State} {e : EngIx} (opened : s.flt.injOpen = true)
    (engine : fld (injArg s) 2 0 = e.val) : inject 5 s = injected (engineFault e) s := by
  have bound : fld (injArg s) 2 0 < 5 := engine ▸ e.isLt
  obtain rfl : e = ⟨_, bound⟩ := Fin.ext engine.symm
  simp only [inject, opened, Bool.true_eq_false, Nat.reduceEqDiff, or_self,
    if_false, if_true]
  exact dif_pos bound

/-- Injected drops are added to those of the port they name. -/
theorem inject_drops {s : State} {p : ActIx} (opened : s.flt.injOpen = true)
    (port : fld (injArg s) 1 0 % 4 = p.val) :
    inject 7 s =
      injected (setPort p { s.port[p] with drop := s.port[p].drop + fld (injArg s) 15 8 }) s := by
  obtain rfl : p = ⟨_, Nat.mod_lt _ (by decide)⟩ := Fin.ext port.symm
  simp only [inject, opened, Bool.true_eq_false, Nat.reduceEqDiff, or_self,
    if_false, if_true]

/-- An injected mismatch is one of the lockstep pair. -/
theorem inject_lockstep {s : State} (opened : s.flt.injOpen = true) :
    inject 6 s = injected lockstepMismatch s := by
  simp only [inject, opened, Bool.true_eq_false, Nat.reduceEqDiff, or_self, if_false, if_true]

/-- An injected burst is one of the reload channel it names. -/
theorem inject_burst {s : State} (opened : s.flt.injOpen = true) :
    inject 8 s = injected (rldBurst (if bitOf (injArg s) 0 then 1 else 0)) s := by
  simp only [inject, opened, Bool.true_eq_false, Nat.reduceEqDiff, or_self, if_false, if_true]

/-- An uncorrectable word of the shared buffer is repaired while its region has a spare row. -/
theorem sramUncorrectable_sab {s : State}
    (room : spareInUse s.flt (sramRegion .sab).val < spareTotal (sramRegion .sab).val) :
    sramUncorrectable .sab s = repairRow (sramRegion .sab) (raise (srcSram (sramRegion .sab).val 1) s) := by
  simp only [sramUncorrectable, decide_eq_true room, if_true]

/-- Settles O32: an injection while it is open does what its kind and argument name, and a memory
error meets the state it is for. -/
theorem injectionAndMemoryErrorsComplete : Obligations.InjectionAndMemoryErrorsComplete := by
  unfold Obligations.InjectionAndMemoryErrorsComplete
  refine ⟨fun s live strapped closed => ?unlock,
    fun s live opened named small => ?raiseSource,
    fun s live opened region => ?singleBit,
    fun s live opened region => ?doubleBit,
    fun s l live opened lane => ?rowParity,
    fun s e live opened engine => ?servoResidue,
    fun s live opened => ?lockstep,
    fun s p live opened port => ?linkDrop,
    fun s live opened => ?reloadBurst,
    fun s es live => ?patrol,
    fun s x live unarmed shared room => ?uncorrectable,
    fun s chan live working => ?channelFail⟩
  case unlock =>
    refine act_next live ((if_neg (not_or.mpr
      ⟨ne_false_of_eq_true strapped, ne_true_of_eq_false closed⟩)).trans (if_pos rfl))
  case raiseSource =>
    exact act_next live ((if_neg (ne_false_of_eq_true opened)).trans ((if_pos rfl).trans
      (if_neg (not_or.mpr ⟨ne_true_of_eq_false named, Nat.not_le.mpr small⟩))))
  case singleBit => exact act_next live (inject_arms opened (.inl rfl) region)
  case doubleBit => exact act_next live (inject_arms opened (.inr rfl) region)
  case rowParity => exact act_next live (inject_parity opened lane)
  case servoResidue => exact act_next live (inject_residue opened engine)
  case lockstep => exact act_next live (inject_lockstep opened)
  case linkDrop => exact act_next live (inject_drops opened port)
  case reloadBurst =>
    exact actWindow_next (f := inject 8) live (inject_burst opened)
  case patrol => exact completes_of_next (act_next (f := patrolRun es) live rfl) rfl
  case uncorrectable =>
    subst shared
    exact act_next live ((if_neg (ne_true_of_eq_false unarmed)).trans (sramUncorrectable_sab room))
  case channelFail =>
    exact actWindow_next (f := rldFail chan) live (if_neg (ne_true_of_eq_false working))

end Sys2Proof.Proofs
end

