-- ==== Sys2Proof/Proofs/Recorder.lean ====
section
/-!
The Stitch Counter.
-/
namespace Sys2Proof.Proofs
open Sys2Proof Sys2Proof.Machine Sys2Proof.Laws

/-- An entry of a counter without extremes, in a group whose sum takes the value as it is and in a
bin that is not full, adds one to its bin and its value to the sum. -/
theorem stcEntry_counts {s : State} {g inst : Nat} {v : Int} (present : inst < stcInstances g)
    (plain : stcExtremeOf g inst = none) (not9 : g ≠ 9) (not5 : g ≠ 5)
    (room : keyGet s.stc.live.hist (stcKey g inst (stcBin g inst v)) 0 < 2 ^ 48 - 1) :
    stcEntry g inst v false s =
      let k := stcKey g inst (stcBin g inst v)
      let h := keySet s.stc.live.hist k (keyGet s.stc.live.hist k 0 + 1) 0
      { s with stc := { s.stc with live := { s.stc.live with
        hist := keySet h (stcKey g inst 8)
          (min (keyGet s.stc.live.hist (stcKey g inst 8) 0 + v) (2 ^ 64 - 1)) 0 } } } := by
  refine (if_neg (Nat.not_le.mpr present)).trans ?_
  simp only [plain, not9, not5, room, false_and, Bool.false_eq_true, if_false, if_true]

/-- A write of the recorder that ends well, and that no further request waits behind, is in force and
completes the clears it covers. -/
theorem persistDone_ok {s : State} {w : StcWrite} (flashStatus : Word) (writing : s.stc.write = some w)
    (once : w.again = false) :
    persistDone true flashStatus s =
      let u := stcEvent 1 { s with stc := { s.stc with
        area := s.stc.area.set w.area (.valid w.copy)
        live := { s.stc.live with
          seq := w.copy.seq, persistPoh := w.copy.persistPoh, noHistory := false }
        write := none } }
      (u.host.clearWait.filter fun x => w.covers.contains x.2).foldl
        (fun t x => complete x.1 x.2 .success 0 0 [] t)
        { u with host := { u.host with
          clearWait := u.host.clearWait.filter fun x => !w.covers.contains x.2 } } := by
  have stored : stcPersistDone true flashStatus s = stcEvent 1 { s with stc := { s.stc with
      area := s.stc.area.set w.area (.valid w.copy)
      live := { s.stc.live with
        seq := w.copy.seq, persistPoh := w.copy.persistPoh, noHistory := false }
      write := none } } := by
    simp only [stcPersistDone, writing, once, Bool.false_eq_true, if_false, if_true]
  simp only [persistDone, writing, stored, Bool.true_eq_false, if_false]

/-- Settles O33: an entry counts, a tick makes its entries, and a command meets the recorder in the
state it is for. -/
theorem recorderCommandsComplete : Obligations.RecorderCommandsComplete := by
  unfold Obligations.RecorderCommandsComplete
  refine ⟨fun s g inst v live present plain not9 not5 room => ?entry,
    fun s junction thermistor live => ?secondTick,
    fun s live => ?millisecondTick,
    fun s g live valid => ?clear,
    fun s live used given => ?condition,
    fun s live idle => ?persist,
    fun s flashStatus w live writing once => ?persistDone,
    fun s w live only => ?lock,
    fun s c g live => ?select,
    fun s c live more => ?advance⟩
  case entry =>
    exact completes_of_next (act_next live (stcEntry_counts present plain not9 not5 room)) rfl
  case secondTick =>
    exact completes_of_next (act_next (f := secondTick junction thermistor) live rfl) rfl
  case millisecondTick => exact completes_of_next (act_next (f := msTick) live rfl) rfl
  case clear => exact act_next live (if_pos valid)
  case condition => exact act_next live (if_neg (not_or.mpr ⟨used, given⟩))
  case persist =>
    refine act_next live ?_
    simp only [stcPersist, idle]
  case persistDone =>
    exact completes_of_next (act_next live (persistDone_ok flashStatus writing once)) rfl
  case lock => exact act_next live (if_neg (ne_true_of_eq_false only))
  case select =>
    exact completes_of_next
      (act_next (f := fun s => stcRewind c ((g.map Fin.val).getD s.stc.core[c].group) s) live rfl)
      (Vector.getElem_set_self _)
  case advance =>
    refine completes_of_next (act_next (f := stcAdvance c) live rfl) ?_
    simp only [stcAdvance, more, Bool.false_eq_true, if_false]
    exact Vector.getElem_set_self _

end Sys2Proof.Proofs
end

