-- ==== Sys2Proof/Proofs/LateEvents.lean ====
section
/-!
Late link, bus and calibration events.
-/
namespace Sys2Proof.Proofs
open Sys2Proof Sys2Proof.Machine Sys2Proof.Laws

/-- A link that is down, with its port out of reset, comes up with one or two lanes at any rate. -/
theorem linkTrained_narrow {c : CtlIx} {s : State} {width rate : Nat}
    (down : s.hif.ctl[c].linkUp = false) (free : s.hif.ctl[c].perst = false)
    (narrow : width = 1 ∨ width = 2) (least : 1 ≤ rate) (most : rate ≤ 5) :
    linkTrained c width rate s = setPortDom c .on
      (setCtl c { s.hif.ctl[c] with linkUp := true, width := width, rate := rate } s) := by
  have fits : ¬ (if dualPort s then 2 else 4) < width := by split <;> omega
  have known : ¬ (width ≠ 1 ∧ width ≠ 2 ∧ width ≠ 4) := by omega
  refine if_neg ?_
  rintro (up | reset | other | wide | zero | fast)
  · exact ne_true_of_eq_false down up
  · exact ne_true_of_eq_false free reset
  · exact known other
  · exact fits wide
  · exact Nat.one_le_iff_ne_zero.mp least zero
  · exact Nat.not_lt.mpr most fast

/-- Settles O34: each event meets its head, port or bus in the state it is for. -/
theorem lateLinkAndBusEventsComplete : Obligations.LateLinkAndBusEventsComplete := by
  unfold Obligations.LateLinkAndBusEventsComplete
  refine ⟨fun s h yofs live running fit unlocked => ?pllLock,
    fun s c width rate live used noLoss lit down free narrow least most => ?linkUp,
    fun s c live used noLoss lit l12 => ?hostExit,
    fun s dest live up smbus named => ?basicCommand,
    fun s address live up i3c valid => ?assignAll,
    fun s sa address live up i3c valid named unassigned => ?assignStatic,
    fun s r live found => ?abandon⟩
  case pllLock =>
    exact completes_of_next (act_next live (if_neg (not_or.mpr ⟨ne_false_of_eq_true running,
      not_or.mpr ⟨ne_false_of_eq_true fit, ne_true_of_eq_false unlocked⟩⟩))) rfl
  case linkUp =>
    exact act_next live
      (onPort_used used noLoss lit (linkTrained_narrow down free narrow least most))
  case hostExit => exact act_next live (onPort_used used noLoss lit (if_pos l12))
  case basicCommand =>
    exact completes_of_next (act_next live (if_pos ⟨up, smbus, named⟩)) rfl
  case assignAll => exact act_next live (if_pos ⟨up, i3c, valid, rfl⟩)
  case assignStatic =>
    refine act_next live (if_pos ⟨up, i3c, valid, ?_⟩)
    simp only [named, unassigned, decide_true, Option.isNone_none, Bool.and_self]
  case abandon =>
    refine act_next live ?_
    simp only [calAbandon, found]

end Sys2Proof.Proofs
end
